-- ==== Sys2Proof/Word.lean ====
section
/-! DEFINITION. The words the Q264's registers, counters and messages are made of (R2 to R4), and the one sparse
table that every indexed piece of state is kept in. -/

namespace Sys2Proof

/-- A byte, as memory and memory-resident structures hold it (R3). -/
abbrev Byte := BitVec 8

/-- A 64-bit register or counter. -/
abbrev Word := BitVec 64

/-- A run of bytes, byte 0 first (R3). A cache line is 64 of them. -/
abbrev Bytes := List Byte

/-- A sparse table: keys strictly rising, and no entry that equals the table's default. -/
abbrev Table (α : Type) := List (Nat × α)

/-- The entry listed at `k`, if one is. -/
def Table.find {α : Type} : Table α → Nat → Option α
  | [], _ => none
  | (k', v) :: t, k => if k = k' then some v else Table.find t k

/-- What the table reads at `k`: the listed entry, or the default `d`. -/
def Table.get {α : Type} (d : α) (t : Table α) (k : Nat) : α := (Table.find t k).getD d

/-- The table with nothing listed at `k`. -/
def Table.erase {α : Type} : Table α → Nat → Table α
  | [], _ => []
  | (k', v) :: t, k => if k = k' then Table.erase t k else (k', v) :: Table.erase t k

/-- The table with `v` listed at `k`, in key order. -/
def Table.insert {α : Type} : Table α → Nat → α → Table α
  | [], k, v => [(k, v)]
  | (k', v') :: t, k, v =>
    if k < k' then (k, v) :: (k', v') :: t
    else if k = k' then (k, v) :: t
    else (k', v') :: Table.insert t k v

/-- Writing `v` at `k` in canonical form: writing the default removes the entry. -/
def Table.put {α : Type} [DecidableEq α] (d : α) (t : Table α) (k : Nat) (v : α) : Table α :=
  if v = d then Table.erase t k else Table.insert t k v

/-- Keys strictly rising from above `lo`, and no entry equal to the default. -/
def Table.sortedFrom {α : Type} (d : α) : Table α → Nat → Prop
  | [], _ => True
  | (k, v) :: t, lo => lo ≤ k ∧ v ≠ d ∧ Table.sortedFrom d t (k + 1)

/-- The canonical form of a table with default `d`. -/
def Table.wf {α : Type} (d : α) (t : Table α) : Prop := Table.sortedFrom d t 0

end Sys2Proof
end

