-- ==== Sys2Proof/Syntax.lean ====
section
/-! DEFINITION. The commands of the block: one constructor of `Instr` for each row of spec/opcode_table.json, with the
operands that the row's event needs. A command is what an agent outside the model's single step names: a hart's
operation, the arrival of one message, a register write, a timer that expires, a pin that moves. -/

namespace Sys2Proof

/-- A hart of the package: mhartid[11:0] = die × 64 + logical core × 2 + thread (R38). -/
structure HartId where
  die : Fin 12
  core : Fin 22
  thread : Fin 2
deriving DecidableEq, Repr

/-- A logical core: die and logical core number (R39). -/
structure CoreId where
  die : Fin 12
  core : Fin 22
deriving DecidableEq, Repr

/-- A data access: virtual address, size in bytes, whether the instruction is still speculative (R80), whether it is
an HLV or HSV instruction of the H extension, which accesses memory as though V = 1, and the instruction's encoding, a
compressed one in its 32-bit form. -/
structure Access where
  va : Word
  size : Nat
  spec : Bool
  hv : Bool := false
  inst : BitVec 32 := 0
  compressed : Bool := false
deriving DecidableEq, Repr

/-- The load-class accesses of R60 that are not LR: an ordinary load to an integer or a
floating-point register, element `i` of a vector load (`faultOnlyFirst`
or not), a shadow-stack load, and HLVX, a load that needs execute permission instead of read permission. -/
inductive LoadClass where
  | scalar
  | float
  | vector (elem : Nat) (faultOnlyFirst : Bool)
  | shadowStack
  | hlvx
deriving DecidableEq, Repr

/-- The store-class accesses of R60 that are not SC or AMO. -/
inductive StoreClass where
  | scalar
  | vector (elem : Nat)
  | shadowStack
deriving DecidableEq, Repr

/-- The atomic operations of the A, Zacas and Zicfiss extensions (R34); `ssSwap` is SSAMOSWAP. -/
inductive AmoOp where
  | swap | add | and | or | xor | min | max | minu | maxu | cas | ssSwap
deriving DecidableEq, Repr

/-- The control transfers that the predictor knows (R71): a conditional branch, a direct jump, a direct call, an indirect
jump, an indirect call, a return. -/
inductive BranchKind where
  | cond | jump | call | indirect | indirectCall | ret
deriving DecidableEq, Repr

/-- A branch that fetch has passed: where it stands, its kind, whether it was taken as fetched, and whether its instruction is
compressed. -/
structure FetchedBranch where
  pc : Word
  kind : BranchKind
  taken : Bool
  short : Bool := false
deriving DecidableEq, Repr

/-- A branch that resolves against its prediction: whether it is taken, its kind, and whether it is itself still speculative. -/
structure ResolvedBranch where
  taken : Bool
  kind : BranchKind
  spec : Bool := false
deriving DecidableEq, Repr

/-- The path of a fetch: whether it is still a predicted one, and the branch that fetch has just passed, if the last instruction
fetched was one. -/
structure FetchPath where
  spec : Bool
  after : Option FetchedBranch := none
deriving DecidableEq, Repr

/-- The operands of an SFENCE.VMA, HFENCE.VVMA or HFENCE.GVMA: `none` is the register x0 (R99). -/
structure FenceArgs where
  addr : Option Word
  id : Option (BitVec 16)
deriving DecidableEq, Repr

/-- Which fence-table row an SINVAL instruction names (R102). -/
inductive InvalKind where
  | sinvalVma | hinvalVvma | hinvalGvma
deriving DecidableEq, Repr

/-- A register write with no row of its own (R11): to a CSR of a hart, or by a hart's store to a register of control
space at physical offset `off` from 0x0000_4000_0000 (R29). -/
inductive RegWrite where
  | csr (h : HartId) (addr : BitVec 12) (value : Word)
  | mmio (h : HartId) (off : Nat) (size : Nat) (value : Word)
deriving DecidableEq, Repr

/-- A coherence opcode of R150. -/
inductive Op where
  | rdS | rdO | upg | claimZ | cmoClean | cmoFlush | cmoInval
  | rdOnce | wrFull | wrPart | atomIO | rdNS | wrNS
  | wbData
  | fwdS | fwdO | fwdSnap | fwdClean | inv | recall | recallDiscard | setRecall
  | fwdAck | invAck | recallAck | setRecallAck | compAck | grant | wbAck | cmoDone | wrDone
  | data | dataOnce | fwdAckData | recallAckData | error
deriving DecidableEq, Repr

/-- A coherence message (R151). Agents are numbered: 0 to 11 compute dies, 12 the I/O agent, 13 the compression
engine, 14 to 16 cascade links 0 to 2, 17 Mordant (the REQ values of R181), and 32 + s home slice s. -/
structure Msg where
  op : Op
  line : Nat
  src : Nat
  dst : Nat
  req : Nat
  txid : BitVec 12 := 0
  flag : BitVec 2 := 0
  hue : BitVec 12 := 0
  cls : BitVec 3 := 0
  poison : Bool := false
  data : Bytes := []
  mask : Word := 0
  atomop : BitVec 4 := 0
  size : BitVec 2 := 0
deriving DecidableEq, Repr

/-- Who made an I/O access (R183): a hart, or Mordant. -/
inductive IoClient where
  | hart (h : HartId)
  | mordant
deriving DecidableEq, Repr

/-- An I/O message of R183: a read or write of `size` bytes at physical address `pa`. -/
structure IoMsg where
  client : IoClient
  pa : Nat
  size : Nat
  value : Word := 0
  hue : BitVec 12 := 0
deriving DecidableEq, Repr

/-- A message-signalled interrupt write (R272, R275): the file page's physical address, size 4 or 8. A hart's store awaits an
IoWrAck. -/
structure MsiMsg where
  pa : Nat
  size : Nat
  value : Word
  hue : BitVec 12
  client : Option HartId := none
deriving DecidableEq, Repr

/-- Who asked the memory controller for a line (R248): a home transaction, or a no-snoop request (R168). -/
inductive MemClient where
  | home (slice : Fin 32)
  | noSnoop (txid : BitVec 12)
deriving DecidableEq, Repr

/-- A line request at an HBM channel stop or a CXL memory port. A write carries the whole line; a masked no-snoop
write is merged before it is made. -/
structure MemReq where
  client : MemClient
  line : Nat
  write : Bool
  data : Bytes := []
  poison : Bool := false
  hue : BitVec 12 := 0
  cls : BitVec 3 := 0
deriving DecidableEq, Repr

/-- A ring: the ring of a compute die, or one of the four hub rings (R176, R177). -/
inductive RingId where
  | die (d : Fin 12)
  | hub (k : Fin 4)
deriving DecidableEq, Repr

/-- A slot as it arrives on a link: header, MASK, data lane and the check bits received with each lane (R180, R193).
On a compute-die ring the check fields hold the lane's parity bits. -/
structure Slot where
  header : BitVec 128
  mask : Word
  data : Bytes
  ctlCheck : BitVec 16
  dataCheck : BitVec 16
deriving DecidableEq, Repr

/-- A sideband frame as received (R200). Its TYPE is the row's, unless `typ` holds another one; `back` tells that it came in the
direction opposite to the row's. -/
structure SbFrame where
  seq : Byte
  payload : Bytes
  crc : BitVec 16
  typ : Option Byte := none
  back : Bool := false
deriving DecidableEq, Repr

/-- One end of a link that carries Weld flits: the hub or die end of bundle k of a die's port, or a cascade link
(R203, R464). -/
inductive LinkEnd where
  | weld (d : Fin 12) (bundle : Fin 4) (atHub : Bool)
  | casc (link : Fin 3)
deriving DecidableEq, Repr

/-- A flit as received (R203, R205), its TYPE given by the row. -/
structure Flit where
  seq : Byte
  ack : Byte
  crvc : BitVec 2
  crtotal : BitVec 6
  first : BitVec 4
  payload : Bytes
  crc : BitVec 32
deriving DecidableEq, Repr

/-- What fires a field retrain (R219). -/
inductive RetrainCause where
  | replayLimit | crcThresh | lockLoss (lanes : BitVec 9) | laneFail (lanes : BitVec 9) | echoMismatch
  | violation | partnerFrame | command
deriving DecidableEq, Repr

/-- What a completed training step found: the lanes that passed the lane test in each direction, and the widths
(0, 4 or 8) announced by the die's end (R214 to R216). -/
structure TrainInfo where
  goodD2H : BitVec 9
  goodH2D : BitVec 9
  dieAnnounce : Nat
  agreed : Bool
deriving DecidableEq, Repr

/-- A device's memory request, as the root port receives it (R351). `xlat` is what the port's IOMMU translates the
address to when its directory mode is a table mode (`none`: a fault). -/
inductive DmaKind where
  | read | write | atomic (op : BitVec 4)
deriving DecidableEq, Repr

/-- A memory request of a device. -/
structure DmaReq where
  rid : BitVec 16
  pasid : Option (BitVec 20)
  kind : DmaKind
  addr : Nat
  len : Nat
  data : Bytes
  enable : Word
  noSnoop : Bool
  ep : Bool
  tag : BitVec 10
  xlat : Option Nat
deriving DecidableEq, Repr

/-- Where a Mordant command comes from (R371, R377). -/
inductive Issuer where
  | mailbox (m : Fin 16)
  | bmc
deriving DecidableEq, Repr

/-- A command cell (R375) without its opcode, which the row fixes: TAG, PLEN, LOT_EXPECT, the seven bytes 5 to 7 and 12 to
15 that must be zero, and the 48 payload bytes. -/
structure CmdCell where
  tag : BitVec 16
  plen : Byte
  lotExpect : BitVec 32
  reserved : Bytes
  payload : Bytes
deriving DecidableEq, Repr

/-- How a block of a compression job ended (R319, R323). Beside it, `xlat` lists what the tables of the integrated endpoints' IOMMU
give when its directory mode is a table mode: IOVA page and physical page; a page that is not listed faults. -/
inductive BlockEvent where
  | done | timeout | ioError | xlateFault | poison | badTarget
deriving DecidableEq, Repr

/-- The straps of R416. -/
structure Straps where
  recoveryN : Bool
  bootSel : BitVec 2
  pkgId : Fin 4
  masterSel : Bool
deriving DecidableEq, Repr

/-- The steps of the start table (R420). -/
inductive StartStep where
  | s2 | s3 | s4 | s5 | s6a | s6b | s6c | s6d | s7 | s8 | s9 | s10 | s11
deriving DecidableEq, Repr

/-- What a completed start step found outside the package's own state: whether each image verifies (step 4), the physical cores
that failed test (step 7), the repair records whose hPPR failed and the channels that did not train (step 6b). -/
structure StartInfo where
  imageAOk : Bool := true
  imageBOk : Bool := true
  coreFail : List (Fin 12 × Fin 24) := []
  hpprFail : List Nat := []
  channelsFailed : List (Fin 32) := []
deriving DecidableEq, Repr

/-- Who takes part in a commit beside this package's Mordant: a die, or another member of the cascade (R402, R404). -/
inductive CommitWho where
  | die (d : Fin 12)
  | member (p : Fin 4)
deriving DecidableEq, Repr

/-- A message of a commit (R401, R404): a frame of a die's sideband, or a member's message in a cascade, with the lot, the values
(REGID, or 0xF000 + hue for a class) and T, of which each kind uses its own. -/
inductive CommitFrame where
  | frame (f : SbFrame)
  | message (lot : BitVec 32) (entries : List (Nat × Word)) (t : Word)
deriving DecidableEq, Repr

/-- A domain that sleeps in PS1 and PS2 (R455). -/
inductive Domain where
  | l2 (c : CoreId)
  | l3 (d : Fin 12)
  | dieRing (d : Fin 12)
  | hubRing (k : Fin 4)
  | pc (n : Fin 64)
  | pipe (p : Fin 8)
deriving DecidableEq, Repr

/-- A PLL whose lock R459 watches. -/
inductive Pll where
  | weld (d : Fin 12) (bundle : Fin 4)
  | die (d : Fin 12)
deriving DecidableEq, Repr

/-- The identity a cascade link receives from its peer (R466). -/
structure CascIdentity where
  pkgId : Fin 4
  masterSel : Bool
  stepping : Byte
  weldVersions : Byte
  ifMajor : Byte
deriving DecidableEq, Repr

/-- The code class a directory scrub read shows (R148). -/
inductive ReadCheck where
  | clean | corrected | uncorrectable
deriving DecidableEq, Repr

/-- The status of a completion TLP (R350). -/
inductive CplStatus where
  | sc | ur | ca
deriving DecidableEq, Repr

/-- Every command of the block: the rows of spec/opcode_table.json, in the table's order. -/
inductive Instr where
  -- harts (02 to 05)
  | load (h : HartId) (a : Access) (rd : Fin 32) (zext : Bool) (cls : LoadClass)
  | store (h : HartId) (a : Access) (value : Word) (cls : StoreClass)
  | amo (h : HartId) (a : Access) (op : AmoOp) (operand : BitVec 128) (compare : BitVec 128) (rd : Fin 32)
  | lr (h : HartId) (a : Access) (rd : Fin 32)
  | sc (h : HartId) (a : Access) (value : Word) (rd : Fin 32)
  | lrReservationDelayExpiry (h : HartId)
  | fence (h : HartId)
  | fenceI (h : HartId)
  | sfenceVma (h : HartId) (f : FenceArgs)
  | hfenceVvma (h : HartId) (f : FenceArgs)
  | hfenceGvma (h : HartId) (f : FenceArgs)
  | sinvalVma (h : HartId) (k : InvalKind) (f : FenceArgs)
  | sfenceWInval (h : HartId)
  | sfenceInvalIr (h : HartId)
  | cboClean (h : HartId) (a : Access)
  | cboFlush (h : HartId) (a : Access)
  | cboInval (h : HartId) (a : Access)
  | cboZero (h : HartId) (a : Access)
  | prefetchR (h : HartId) (a : Access)
  | prefetchW (h : HartId) (a : Access)
  | prefetchI (h : HartId) (a : Access)
  | wfi (h : HartId)
  | branchMispredict (h : HartId) (pc target : Word) (b : ResolvedBranch)
  | cqzhueWrite (h : HartId) (v : Word)
  | cqzbpctlOffWrite (h : HartId) (v : Word)
  | flush (h : HartId) (v : Word)
  | predictorClearingDone (c : CoreId)
  | flushL1i (h : HartId) (v : Word)
  | flushL1d (h : HartId) (v : Word)
  | flushL2 (h : HartId) (v : Word)
  | cacheFlushDone (c : CoreId)
  | registerWrite (w : RegWrite)
  | walkRead (h : HartId)
  | missRegisterFreed (c : CoreId) (line : Nat)
  | l3WayFreed (d : Fin 12) (line : Nat)
  | mtimecmpMatch (h : HartId) (supervisor : Bool)
  -- homes (06)
  | rds (m : Msg)
  | rdo (m : Msg)
  | upg (m : Msg)
  | claimz (m : Msg)
  | cmoclean (m : Msg)
  | cmoflush (m : Msg)
  | cmoinval (m : Msg)
  | rdonce (m : Msg)
  | wrfull (m : Msg)
  | wrpart (m : Msg)
  | atomio (m : Msg)
  | rdns (m : Msg)
  | wrns (m : Msg)
  | wbdata (m : Msg)
  | requestBegin (slice : Fin 32) (line : Nat)
  | directoryScrub (slice : Fin 32) (r : ReadCheck)
  | fwds (m : Msg)
  | fwdo (m : Msg)
  | fwdsnap (m : Msg)
  | fwdclean (m : Msg)
  | inv (m : Msg)
  | recall (m : Msg)
  | recalldiscard (m : Msg)
  | setrecall (agent : Fin 17) (slice : Fin 32) (set : Fin 16384)
  | fwdack (m : Msg)
  | fwdackdata (m : Msg)
  | invack (m : Msg)
  | recallack (m : Msg)
  | recallackdata (m : Msg)
  | setrecallack (slice : Fin 32) (set : Fin 16384) (agent : Nat)
  | compack (m : Msg)
  | data (m : Msg)
  | dataonce (m : Msg)
  | grant (m : Msg)
  | wback (m : Msg)
  | cmodone (m : Msg)
  | wrdone (m : Msg)
  | error (m : Msg) (io : Option HartId)
  | fwdTmoExpiry (slice : Fin 32) (line : Nat) (agent : Nat)
  | reqTmoExpiry (agent : Nat) (line : Nat)
  | ioTmoExpiry (h : HartId)
  -- rings and I/O messages (07)
  | iord (m : IoMsg)
  | iowr (m : IoMsg)
  | msiwr (m : MsiMsg)
  | iorddata (h : HartId)
  | iowrack (h : HartId)
  | ringPacketArrival (r : RingId) (stop : Nat) (p : Slot)
  | injectionWaitTag (r : RingId) (stop : Nat) (clockwise : Bool)
  -- Weld links (08)
  | ident (d : Fin 12) (toHub : Bool) (f : SbFrame)
  | lanes (d : Fin 12) (toHub : Bool) (f : SbFrame)
  | handover (d : Fin 12) (toHub : Bool) (f : SbFrame)
  | retrain (d : Fin 12) (toHub : Bool) (f : SbFrame)
  | ack (d : Fin 12) (toHub : Bool) (f : SbFrame)
  | sidebandResend (d : Fin 12) (fromHub : Bool)
  | dataFlit (e : LinkEnd) (f : Flit)
  | controlFlit (e : LinkEnd) (f : Flit)
  | maintFlit (e : LinkEnd) (f : Flit)
  | nak (e : LinkEnd) (f : Flit)
  | maintSlot (e : LinkEnd)
  | crcThreshWindow (e : LinkEnd)
  | fieldRetrain (e : LinkEnd) (c : RetrainCause)
  | coldTraining (d : Fin 12)
  | trainingStepComplete (e : LinkEnd) (step : Fin 9) (i : TrainInfo)
  | trainingStepTimeout (e : LinkEnd) (step : Fin 9) (failed : BitVec 9)
  -- configuration, census, power and hart control on the sideband (16, 08)
  | cfgPrepare (who : CommitWho) (toHub : Bool) (f : CommitFrame)
  | cfgAck (who : CommitWho) (toHub : Bool) (f : CommitFrame)
  | cfgFlip (who : CommitWho) (toHub : Bool) (f : CommitFrame)
  | cfgDiscardFrame (who : CommitWho) (toHub : Bool) (f : CommitFrame)
  | cfgLoad (d : Fin 12) (toHub : Bool) (f : SbFrame)
  | lotBoundary
  | cfgAckTimeout (who : CommitWho)
  | shadowCopyTimeout (d : Fin 12)
  | censusReq (d : Fin 13) (f : SbFrame)
  | censusRpt (d : Fin 13) (f : SbFrame)
  | censusPart (d : Fin 13) (f : SbFrame)
  | censusEntry (d : Fin 13) (f : SbFrame)
  | censusRound
  | memberCensusReport (p : Fin 4) (lot : BitVec 32) (shade expected : Word) (mismatch : BitVec 13)
  | pmSet (d : Fin 12) (toHub : Bool) (f : SbFrame)
  | pmRptTimer (d : Fin 12)
  | pmRpt (d : Fin 12) (toHub : Bool) (f : SbFrame)
  | hartCtlHold (d : Fin 12) (toHub : Bool) (f : SbFrame)
  | hartCtlReleaseParked (d : Fin 12) (toHub : Bool) (f : SbFrame)
  | hartCtlReleaseRunning (d : Fin 12) (toHub : Bool) (f : SbFrame)
  | hartCtlStop (d : Fin 12) (toHub : Bool) (f : SbFrame)
  | hartCtlResume (d : Fin 12) (toHub : Bool) (f : SbFrame)
  | hartRpt (d : Fin 12) (toHub : Bool) (f : SbFrame)
  -- HBM and the written map (09)
  | hbmLineRead (r : MemReq)
  | hbmLineWrite (r : MemReq)
  | hbmReadData (r : MemReq) (source : Nat) (errs : List (Nat × Byte))
  | zeroFillDone (granule : Nat)
  | hbmParityAlert (ch : Fin 32) (r : MemReq)
  | hbmReadTimeout (r : MemReq)
  | hbmTemperatureReport (stack : Fin 2) (celsius : Int)
  | correctionEvent (line : Nat) (symbol : Fin 128)
  | patrolStep (stack : Fin 2) (errs : List (Nat × Byte))
  | readRaw (hue : BitVec 12) (errs : List (Nat × Byte))
  | writeRaw (hue : BitVec 12)
  | rawCommandDone
  | wmapForgetEntry1 (h : HartId) (q : Fin 16) (size : Nat) (v : Word)
  | forgetSweep (q : Fin 16)
  | forgetComplete (q : Fin 16)
  | hbmRound (pc : Fin 64)
  -- hues (10)
  | hueQuery (iss : Issuer) (c : CmdCell)
  | hueAlloc (iss : Issuer) (c : CmdCell)
  | hueStart (iss : Issuer) (c : CmdCell)
  | hueSetClass (iss : Issuer) (c : CmdCell)
  | hueDmaBind (iss : Issuer) (c : CmdCell)
  | hueDmaUnbind (iss : Issuer) (c : CmdCell)
  | hueGfileAssign (iss : Issuer) (c : CmdCell)
  | hueGfileRelease (iss : Issuer) (c : CmdCell)
  | hueReset (iss : Issuer) (c : CmdCell)
  | hueDrainComplete (hue : BitVec 12)
  | drainTmoExpiry (hue : BitVec 12)
  | hueSquashComplete (hue : BitVec 12)
  | hueResetDone (hue : BitVec 12)
  | inboundMemoryRequest (port : Fin 32) (r : DmaReq)
  -- metering and the ledger (11)
  | meterAccumulatorSend (h : HartId)
  | l3OccSample (d : Fin 12) (bank : Fin 16)
  | energyEstimate
  | minuteBoundary
  | ledgerCompaction
  | pwrfailN
  | pwrwarnClose
  | pwrfailNDeassert
  | mtrStatus (iss : Issuer) (c : CmdCell)
  | mtrRead (iss : Issuer) (c : CmdCell)
  | mtrAck (iss : Issuer) (c : CmdCell)
  -- compression engine (12)
  | slcDesc7 (slice : Fin 4096) (size : Nat) (high : Bool) (v : Word)
  | slcCqHead (slice : Fin 4096) (v : Word)
  | abort (slice : Fin 4096) (v : Word)
  | ceSliceBind (iss : Issuer) (c : CmdCell)
  | ceSliceUnbind (iss : Issuer) (c : CmdCell)
  | ceSliceQuery (iss : Issuer) (c : CmdCell)
  | jobSelection (pipe : Fin 8)
  | agePromotion (slice : Fin 4096) (seq : BitVec 16)
  | blockBoundary (pipe : Fin 8) (ev : BlockEvent) (xlat : List (Nat × Nat))
  | completionRecord (slice : Fin 4096) (seq : BitVec 16) (lost : Bool) (xlat : List (Nat × Nat))
  -- PCI Express and CXL (14)
  | tlpCompletion (port : Fin 32) (h : HartId) (st : CplStatus) (offset : Nat) (data : Bytes)
  | completionTimeout (port : Fin 32) (h : HartId)
  | chainScan (inbound : Bytes)
  | slotControlWrite (port : Fin 32) (v : BitVec 16)
  | perstRelease (port : Fin 32)
  | pwrGoodTimeout (port : Fin 32)
  | linkUp (port : Fin 32)
  | surpriseRemoval (port : Fin 32)
  | cxlViral (port : Fin 32)
  | cxlMemReadTimeout (r : MemReq)
  | rdshared (port : Fin 32) (line : Nat)
  | rdown (port : Fin 32) (line : Nat)
  | rdcurr (port : Fin 32) (line : Nat)
  | dirtyevict (port : Fin 32) (line : Nat) (data : Bytes)
  | cleanevict (port : Fin 32) (line : Nat)
  | itomwr (port : Fin 32) (line : Nat) (data : Bytes)
  | clflush (port : Fin 32) (line : Nat)
  | snoopResponse (port : Fin 32) (line : Nat) (dirty : Option Bytes)
  | cxlWritebackTimeout (port : Fin 32)
  -- Mordant's mailboxes (15)
  | mbxCmdTail (m : Fin 16) (v : Word)
  | commandAccept (m : Fin 16)
  | mbxRspHead (m : Fin 16) (v : Word)
  | eventDelivery (iss : Issuer)
  | bmcMessage (tag : BitVec 3) (bytes : Bytes)
  | setEndpointId (eid : Byte)
  | getEndpointId
  | getMctpVersionSupport (msgType : Byte)
  | getMessageTypeSupport
  | setdasa (static : BitVec 7) (addr : BitVec 7)
  | entdaa (addr : BitVec 7)
  | lockstepMismatch
  | mordantRestartComplete
  | hello (iss : Issuer) (c : CmdCell)
  | bye (iss : Issuer) (c : CmdCell)
  | echo (iss : Issuer) (c : CmdCell)
  | evtSubscribe (iss : Issuer) (c : CmdCell)
  | fwInfo (iss : Issuer) (c : CmdCell)
  | pdrRead (iss : Issuer) (c : CmdCell)
  | cfgRead (iss : Issuer) (c : CmdCell)
  | cfgWrite (iss : Issuer) (c : CmdCell)
  | cfgCommit (iss : Issuer) (c : CmdCell)
  | cfgDiscard (iss : Issuer) (c : CmdCell)
  | cfgStatus (iss : Issuer) (c : CmdCell)
  | cfgDump (iss : Issuer) (c : CmdCell)
  | configStoreCompaction (goodWrites : Nat)
  | censusRun (iss : Issuer) (c : CmdCell)
  | censusStatus (iss : Issuer) (c : CmdCell)
  | censusBisect (iss : Issuer) (c : CmdCell)
  | pmQuery (iss : Issuer) (c : CmdCell)
  | pmSetLimit (iss : Issuer) (c : CmdCell)
  | pmCoreState (iss : Issuer) (c : CmdCell)
  | pmPkgState (iss : Issuer) (c : CmdCell)
  | svcStatus (iss : Issuer) (c : CmdCell)
  | svcCoreSpare (iss : Issuer) (c : CmdCell)
  | svcDieEvacuate (iss : Issuer) (c : CmdCell)
  | svcDieReadmit (iss : Issuer) (c : CmdCell)
  | svcFwStage (iss : Issuer) (c : CmdCell) (verifies : Bool) (version : BitVec 32) (secVersion : Byte)
  | svcFwActivate (iss : Issuer) (c : CmdCell) (straps : Straps)
  | memTestArm (iss : Issuer) (c : CmdCell)
  | memTestDisarm (iss : Issuer) (c : CmdCell)
  | memRepairList (iss : Issuer) (c : CmdCell)
  | memPcStatus (iss : Issuer) (c : CmdCell)
  | weldStatus (iss : Issuer) (c : CmdCell)
  | weldRetrain (iss : Issuer) (c : CmdCell)
  | weldCapClear (iss : Issuer) (c : CmdCell)
  | slotStatus (iss : Issuer) (c : CmdCell)
  | slotUnfence (iss : Issuer) (c : CmdCell)
  | cascStatus (iss : Issuer) (c : CmdCell)
  | cascHandoff (iss : Issuer) (c : CmdCell)
  | errRead (iss : Issuer) (c : CmdCell)
  | errAck (iss : Issuer) (c : CmdCell)
  -- modes, start and resets (17)
  | pkgResetCold (iss : Issuer) (c : CmdCell) (straps : Straps)
  | pkgResetWarm (iss : Issuer) (c : CmdCell)
  | partReset (iss : Issuer) (c : CmdCell)
  | partitionDrainComplete (p : Fin 12)
  | pwrgoodRise (straps : Straps)
  | pwrgoodLow
  | resetNLow
  | resetNRise (straps : Straps)
  | startStepComplete (step : StartStep) (i : StartInfo)
  | cascadeAdmissionTimeout
  | hartReset (h : HartId)
  -- service (18)
  | serviceStepComplete
  | fwHandoverWindow
  | fwHandoverComplete (digestOk stateOk : Bool) (minorOffered : Nat)
  -- power and clocks (19)
  | avsStatusPoll (rail : Fin 14) (vdone : Bool)
  | avsAckTimeout (rail : Fin 14) (readMv : Option Nat)
  | heldRetry (rail : Fin 14)
  | currentRead (readings : List (Option Nat))
  | powerControlStep (watts : Nat) (wantMhz : List Nat) (setMv : List Nat)
  | coreIdleEntry (c : CoreId)
  | coreWake (c : CoreId)
  | pkgStateEntry
  | domainWake (d : Domain)
  | domainSleep (d : Domain)
  | pllLockLoss (p : Pll)
  | pllRelock (d : Fin 12)
  | refclkLoss
  | temperatureRead (die : List (List Int)) (hub : List Int)
  | throttleStep
  | hotN (asserted : Bool)
  -- cascades (20)
  | cascadeIdentity (link : Fin 3) (i : CascIdentity)
  | admissionClose (lot : BitVec 32) (entries : List (Nat × Word))
  | timeAlign (p : Fin 4) (offsetNs : Int)
  | proxyProbeTimeout (link : Fin 3) (line : Nat) (d : Fin 12)
  | masterUnreachable
  | cascHandoffTimeout
  -- performance (21), errors (22), electrical (23) and the rest
  | uncSet (h : HartId) (unit : Nat) (k : Fin 8) (v : Word)
  | uncFreeze (h : HartId) (v : Word)
  | logRecordCommit
  | railUndervoltage (rail : Fin 18)
  | railOvervoltage (rail : Fin 18)
  | instructionFetch (h : HartId) (va : Word) (path : FetchPath)
  | intxMessage (port : Fin 32) (pin : Fin 4) (asserted : Bool)
  | cxlMemResponse (r : MemReq) (data : Bytes) (poison : Bool)
  | debugHaltRequest (h : HartId)
  | catastrophicTemperature (stack : Fin 2)
deriving DecidableEq, Repr

end Sys2Proof
end

