-- ==== Sys2Proof/Decode.lean ====
section
/-! DEFINITION. The command that a word spells. No row of spec/opcode_table.json gives bits, since the block takes no
instruction words: no word spells a command. -/

namespace Sys2Proof

/-- The command spelt by a word of `nbits` bits, numbered as the opcode table numbers them: none, for every word. -/
def decodeTableWord (_nbits _w : Nat) : Option Instr := none

end Sys2Proof
end

