-- ==== Sys2Proof/Config.lean ====
section
/-! DEFINITION. What a given package and its board fix once, and the free values that the spec leaves open (R7, R18). None
of the opaque constants has a body: nothing can evaluate one, and a statement about one holds for every value of it. -/

namespace Sys2Proof.Config

/-- The `n`-th free choice (R7). -/
opaque freeNat : Nat → Nat

/-- The `n`-th free byte (R7). -/
opaque freeByte : Nat → Byte

/-- The `n`-th free 64-bit value (R7). -/
opaque freeWord : Nat → Word

/-- FUSE_D2H of bundle `k` of die `d` (R215, R228). -/
opaque fuseD2H : Nat → Nat → Fin 9

/-- The stepping that die `d` names in IDENT (R218 gives none). -/
opaque dieStepping : Nat → Byte

/-- FUSE_H2D of bundle `k` of die `d` (R215, R228). -/
opaque fuseH2D : Nat → Nat → Fin 9

/-- Millivolts that the fused curve of die `d` needs for `mhz` (R444). -/
opaque curveMv : Nat → Nat → Nat

/-- The byte at address `a` of the external boot flash (R416). -/
opaque flashByte : Nat → Byte

/-- Byte `o` of the boot flash window of package `p`, another member of the cascade (R25). -/
opaque peerFlash : Nat → Nat → Byte

/-- The size in bytes of the external boot flash (R424). -/
opaque flashSize : Nat

/-- An HDM decoder of package `p` maps CXL memory at offset `o` of its slice (R27, R363): another member's maps are not state of this
package (log entry 109). -/
opaque peerCxl : Nat → Nat → Bool

/-- The place of stop `i` round a ring of `n` stops: R177 says that stop numbers do not give their order. -/
opaque ringPlace : Nat → Nat → Nat

/-- Packets that the ingress queue of a stop holds for each virtual channel, beyond one (R184 gives no number). -/
opaque ingressMore : Nat

/-- The depth of an ingress queue: a queue holds one packet at least. -/
def ingressDepth : Nat := ingressMore + 1

/-- Free sPPR resources that the stack reports for bank `b` of pseudo-channel `pc` (R241, R242). -/
opaque spprFree : Nat → Nat → Nat

/-- Version and security version of the image in slot A (`false`) or B (`true`) as shipped (R369). -/
opaque imageVersion : Bool → BitVec 32

opaque imageSecurity : Bool → Byte

/-- Minimum security version in fuses, and the version of the mask ROM (R369, R383). -/
opaque fuseMinimum : Byte

opaque romVersion : BitVec 32

/-- What a read-only register of a function of bus 0 reads as, where the spec states no value: by requester ID and offset (R343,
R345). -/
opaque pciReadOnly : Nat → Nat → BitVec 32

/-- The set of the small-page L2 TLB that holds a page, by its number and size (R91 gives no index). -/
opaque tlbSet : Nat → Nat → Nat

/-- The set of predictor structure `k` that a branch at fetch address bits [38:1], under a history, reaches (R72): 0 base table,
1 to 6 tagged tables, 7 loop predictor, 8 to 10 branch target buffers L0 to L2, 11 indirect table. -/
opaque predIndex : Nat → BitVec 38 → BitVec 256 → Nat

/-- The tag that the branch has there (R72). -/
opaque predTag : Nat → BitVec 38 → BitVec 256 → Nat

/-- Whether training gives a branch without an entry one, and the way of its full set that it then takes, by the set's contents. -/
opaque predAllocates : Nat → BitVec 38 → BitVec 256 → Bool → Bool
opaque predVictim : Nat → List Word → Nat

/-- What training leaves in an entry: from its old content, the branch, its target and whether it was taken (R71, R73). -/
opaque predEntry : Nat → Word → BitVec 38 → BitVec 256 → Word → Bool → Word

/-- The path history after a branch (R71). -/
opaque predPath : BitVec 64 → BitVec 38 → Word → BitVec 64

end Sys2Proof.Config
end

