-- ==== Sys2Proof/Machine/StateHart.lean ====
section
/-! DEFINITION. The state of harts, cores and compute-die caches (chapters 02 to 05, and the die side of 06). -/

namespace Sys2Proof.Machine

/-- Privilege levels. -/
inductive Priv where
  | u | s | m
deriving DecidableEq, Repr

/-- What a hart is doing (R23, R32, R42, R202, R424): held in reset, released parked, fetching, stopped in WFI, stopped
by HART_CTL at an instruction boundary, or in Debug mode. -/
inductive RunState where
  | held | parked | running | wfi | stopped | debug
deriving DecidableEq, Repr

/-- The access types of R109. -/
inductive AccType where
  | fetch | load | store
deriving DecidableEq, Repr

/-- What an access needs of a translation: a fetch, a load, a load that needs execute permission (HLVX), a store, a cache-block
operation other than CBO.ZERO, or a shadow-stack load or store. -/
inductive Need where
  | fetch | load | loadX | store | cbo | ssLoad | ssStore
deriving DecidableEq, Repr

/-- The trap values of an exception (R61, R108, R503). `own` is a fault of the access itself, and not of a table that its walk
reads, so that the trap carries the transformed instruction. -/
structure TrapInfo where
  cause : Nat
  tval : Word := 0
  htval : Word := 0
  htinst : Word := 0
  gva : Bool := false
  own : Bool := false
deriving DecidableEq, Repr

/-- The prefetch hints of R125. -/
inductive Hint where
  | r | w | i
deriving DecidableEq, Repr

/-- The cache-block operations that act on copies (R126): CBO.INVAL with CBIE 0b11 is `inval`, with CBIE 0b01
`invalFlush`. -/
inductive Cbo where
  | clean | flush | inval | invalFlush
deriving DecidableEq, Repr

/-- An operation of a hart that is not finished: what it does, once its older operations let it. -/
inductive HartOp where
  | load (a : Access) (rd : Fin 32) (zext : Bool) (cls : LoadClass)
  | store (a : Access) (value : Word) (cls : StoreClass)
  | amo (a : Access) (op : AmoOp) (operand compare : BitVec 128) (rd : Fin 32)
  | lr (a : Access) (rd : Fin 32)
  | sc (a : Access) (value : Word) (rd : Fin 32)
  | cbo (k : Cbo) (a : Access)
  | zero (a : Access)
  | hint (k : Hint) (a : Access)
  | fetch (va : Word) (spec : Bool)
  | fence
  | fenceI
  | sfence (f : FenceArgs)
  | hfenceV (f : FenceArgs)
  | hfenceG (f : FenceArgs)
  | invalIr
  | wInval
  | sinval (k : InvalKind) (f : FenceArgs)
  | wfi
  /-- The write of a CSR, and that of cqzbpctl with FLUSH = 1. -/
  | csr (n : Nat) (v : Word)
  | bpFlush (off : Bool)
  /-- A branch or jump that has resolved, on its way to retirement; whether it redirected fetch. -/
  | branch (redirected : Bool)
deriving DecidableEq, Repr

/-- What an operation keeps from the moment it executed: its address, effective hue (R49, R50), privilege, virtualisation
mode and key rights (R46, R62). `from_` is the privilege and mode that the instruction itself had, which MPRV, HLV and HSV do
not change. -/
structure Stamp where
  hue : BitVec 12 := 0
  priv : Priv := .m
  virt : Bool := false
  keyr : Word := 0
  pc : Word := 0
  from_ : Priv × Bool := (.m, false)
  /-- The number of the last branch fetched before it. -/
  branch : Nat := 0
deriving DecidableEq, Repr

/-- Where an access that passes its checks goes: cacheable memory, memory that Svpbmt narrows to NC or IO, the boot flash
window, a register of control space, or a PCI Express window. -/
inductive Place where
  | mem | nc | ioMem | flash
  | control (off : Nat)
  | pcie
deriving DecidableEq, Repr

/-- A part of an access that passed its checks; `io` when Svpbmt marks its page IO. -/
structure Part where
  va : Word
  size : Nat
  pa : Nat
  at_ : Place
  io : Bool := false
deriving DecidableEq, Repr

/-- An operation that waits: for a walk, a miss register, a fill, an I/O answer or a CMO (R121, R126, R183). -/
structure Waiting where
  op : HartOp
  stamp : Stamp
  /-- Its parts, once they have passed every check. -/
  parts : List Part := []
  /-- It has been tried before, so its misses are counted. -/
  tried : Bool := false
  /-- Lines for which it holds a place in the core's miss registers, and lines whose fill it waited for. -/
  regs : List Nat := []
  served : List Nat := []
  /-- An I/O request or a CMO of it has been sent, a clearing begun for it, or a hint carried out. -/
  issued : Bool := false
  /-- It is the sampled instruction (R64), and the event flags that it has raised (R485). -/
  sample : Bool := false
  flags : BitVec 16 := 0
deriving DecidableEq, Repr

/-- A speculative instruction that has executed and waits in the reorder window to become non-speculative or be squashed,
with the value that it delivered to its dependants (R81, R84, R85). -/
structure SpecDone where
  w : Waiting
  value : Bytes := []
deriving DecidableEq, Repr

/-- The history at a predicted branch (R71), which its number tells from the ones before and after. `stale` marks a branch fetched
before a clearing completed (R79). -/
structure Checkpoint where
  number : Nat
  pc : Word
  history : BitVec 256
  stale : Bool := false
deriving DecidableEq, Repr

/-- An SINVAL, HINVAL.VVMA or HINVAL.GVMA not yet ordered: its row, the context it executed in, and whether an
SFENCE.W.INVAL preceded it (R102). -/
structure Sinval where
  kind : InvalKind
  args : FenceArgs
  virt : Bool
  vmid : Option (BitVec 14)
  ordered : Bool
deriving DecidableEq, Repr

/-- An instruction that waits for dispatch, with its address and the last branch fetched before it. -/
structure Fetched where
  op : HartOp
  pc : Word
  branch : Nat := 0
deriving DecidableEq, Repr

/-- The store buffer's entry for a speculative store, from which a younger load may forward (R81). -/
structure SpecStore where
  va : Word
  size : Nat
  value : Word
  branch : Nat := 0
deriving DecidableEq, Repr

/-- The permissions, memory type and key that a leaf, or two leaves together, give (R88, R91). -/
structure Attr where
  r : Bool := false
  w : Bool := false
  x : Bool := false
  u : Bool := false
  d : Bool := false
  /-- G-stage permissions of a combined entry, and its D bit. -/
  gr : Bool := true
  gw : Bool := true
  gx : Bool := true
  gd : Bool := true
  /-- The memory types that the first stage and the G stage give. -/
  pbmt : BitVec 2 := 0
  gpbmt : BitVec 2 := 0
  key : BitVec 4 := 0
deriving DecidableEq, Repr

/-- What an entry of a translation cache translates (R91): single-stage, VS-stage or combined leaves of a context, or a
G-stage leaf. -/
inductive EntryKind where
  | single | vs | combined | gStage
deriving DecidableEq, Repr

/-- A leaf held by a TLB, with the tags of R92: `vpn` is the address divided by the page size `2 ^ sizeBits`, `ppn` what
it maps to in the same unit, `gpa` the guest physical address of the page in a combined entry. `vmid` is none for V = 0.
`asid` is none for an entry filled with G = 1. -/
structure TlbEntry where
  kind : EntryKind
  vmid : Option (BitVec 14)
  asid : Option (BitVec 16)
  mode : BitVec 4
  gmode : BitVec 4
  vpn : Nat
  sizeBits : Nat
  ppn : Nat
  attr : Attr
  gpa : Nat
  parityOk : Bool := true
  /-- Threads whose hart has changed a key enable since the entry was cached (R58). -/
  old : BitVec 2 := 0
deriving DecidableEq, Repr

/-- A non-leaf entry held by a walk cache: the table that the entry names, and the address bits it covers. -/
structure WalkEntry where
  vmid : Option (BitVec 14)
  asid : Option (BitVec 16)
  mode : BitVec 4
  prefixVpn : Nat
  level : Nat
  table : Nat
  parityOk : Bool := true
deriving DecidableEq, Repr

/-- A G-stage walk in progress inside a walk: the guest physical address it translates, the level and the table. -/
structure GWalk where
  gpa : Nat
  level : Nat
  table : Nat
  forTable : Bool
deriving DecidableEq, Repr

/-- The leaf of the first stage, once found. -/
structure S1Leaf where
  pa : Nat
  sizeBits : Nat
  attr : Attr
  global : Bool
deriving DecidableEq, Repr

/-- A page-table walk of a hart (R94 to R96, R108). -/
structure Walk where
  va : Word
  need : Need
  spec : Bool
  hint : Bool
  stamp : Stamp
  asid : BitVec 16
  vmid : Option (BitVec 14)
  mode : BitVec 4
  gmode : BitVec 4
  /-- The root of the G stage when the walk began. -/
  groot : Nat
  level : Nat
  /-- Address of the first-stage table read next: guest physical when the G stage is on. -/
  table : Nat
  /-- Host physical address of that table once the G stage has given it. -/
  tablePa : Option Nat
  s1 : Option S1Leaf
  g : Option GWalk
  global : Bool := false
  nonLeaf : List WalkEntry := []
  gNonLeaf : List WalkEntry := []
  /-- The read in progress was answered with an error. -/
  fillError : Bool := false
  /-- The line that the read in progress has asked for, and whether its fill has arrived. -/
  asked : Option Nat := none
  served : Bool := false
  /-- The walk has ended with this exception, which its access has not met yet (R108). -/
  fault : Option TrapInfo := none
deriving DecidableEq, Repr

/-- An LR reservation (R36, R171): its line, whether a probe is held back by it, and whether the delay has expired. -/
structure Resv where
  line : Nat
  delaying : Bool := false
  expired : Bool := false
deriving DecidableEq, Repr

/-- The one I/O access a hart has outstanding (R183), with the timeout in force when it was sent (R190). -/
structure IoAccess where
  pa : Nat
  size : Nat
  write : Bool
  msi : Bool
  hue : BitVec 12
  tmo : Nat
deriving DecidableEq, Repr

/-- A hart. Every register of the standard architecture that this model names lives in `csr` under its CSR number. -/
structure HartState where
  run : RunState := .held
  pc : Word := 0
  priv : Priv := .m
  virt : Bool := false
  x : Table Word := []
  f : Table Word := []
  v : Table Byte := []
  csr : Table Word := []
  cqzkeyr : Word := 0
  cqzbpctl : Word := 0
  cqzkeyctl : Word := 0
  cqzsmpctl : Word := 0
  cqzhue : Word := 0
  cqzmctl : Word := 0
  cqzsmpinfo : Word := 0
  cqzsmppc : Word := 0
  cqzsmpaddr : Word := 0
  cqzsmplat : Word := 0
  /-- A change of KE, and of VKE, that no fence has followed (R58). -/
  keMix : Bool := false
  vkeMix : Bool := false
  itlb : List TlbEntry := []
  dtlb : List TlbEntry := []
  walk : Option Walk := none
  history : BitVec 256 := 0
  checkpoints : List Checkpoint := []
  /-- The number of the last branch fetched, and whether nothing has been fetched since a clearing completed (R79). -/
  branches : Nat := 0
  unfetched : Bool := false
  /-- The return-address stack: 32 entries, and the next one written. -/
  ras : Table Word := []
  rasTop : Fin 32 := 0
  resv : Option Resv := none
  specStores : List SpecStore := []
  /-- Executed speculative instructions, oldest first. -/
  specDone : List SpecDone := []
  /-- Instructions in the reorder window that have not finished, oldest first. -/
  waiting : List Waiting := []
  /-- Instructions that wait for dispatch: behind a serialising one, or for room (R41, R42, R76). -/
  front : List Fetched := []
  io : Option IoAccess := none
  /-- Timed-out I/O accesses whose late answer is still owed (R192). -/
  ioLate : Nat := 0
  mtimecmp : Word := BitVec.allOnes 64
  /-- SINVAL invalidations not yet ordered by SFENCE.INVAL.IR, and whether an SFENCE.W.INVAL has been executed since the last one
(R102). -/
  sinvals : List Sinval := []
  wInval : Bool := false
  /-- Dispatches left before the sampled one (R63). -/
  smpLeft : Option Nat := none
  /-- Event flags raised by the attempt in progress (R485): zero between commands. -/
  flags : BitVec 16 := 0
  accCycles : Word := 0
  accInstret : Word := 0
  accSteady : Word := 0
  /-- Wrong-path fetch target that failed a check and waits for its prediction to resolve (R83). -/
  fetchStall : Option Word := none
  /-- A HART_CTL operation that waits for the store buffer to drain, and the state that RESUME returns to (R202). -/
  ctl : Option Byte := none
  saved : RunState := .running
deriving DecidableEq, Repr

/-- Coherence states inside a die (R139, R140). -/
inductive CState where
  | s | e | m
deriving DecidableEq, Repr

/-- What the code or parity of a cache line shows on its next read (R137): nothing, an error that its code corrects, one that
it does not correct, or a parity error of the tag or of L1 instruction data. -/
inductive LineErr where
  | clean | corrected | uncorrectable | parity
deriving DecidableEq, Repr

/-- A line of an L1 cache: its physical line number, whether it is dirty, and its bytes. -/
structure L1Line where
  line : Nat
  dirty : Bool
  data : Bytes
  poison : Bool
  err : LineErr := .clean
deriving DecidableEq, Repr

/-- A line of an L2 cache. In M the newest bytes may still be in the L1 data cache. `ixD` and `ixI` are the index bits above
bit 11 under which each L1 holds the line (R113). -/
structure L2Line where
  line : Nat
  st : CState
  data : Bytes
  poison : Bool
  ixD : Option (BitVec 1) := none
  ixI : Option (BitVec 2) := none
  err : LineErr := .clean
deriving DecidableEq, Repr

/-- A line of an L3 with its further state (R117). -/
structure L3Line where
  line : Nat
  st : CState
  data : Bytes
  poison : Bool
  rrpv : Fin 4
  presence : BitVec 24
  hue : BitVec 12
  err : LineErr := .clean
deriving DecidableEq, Repr

/-- Which flush cqzcachectl started (R133). -/
inductive FlushKind where
  | l1i | l1d | l2
deriving DecidableEq, Repr

/-- Core idle states (R452). -/
inductive CoreIdle where
  | cs0 | cs1 | cs2 | cs3
deriving DecidableEq, Repr

/-- An entry of a predictor structure: its tag, of 12 bits in a tagged direction table, and what it predicts. -/
structure PredEntry where
  tag : BitVec 38
  data : Word
deriving DecidableEq, Repr

/-- The shared prediction structures of R71, keyed set × ways + way. The six tagged tables follow each other, 2,048 entries
each. -/
structure Predictor where
  base : Table (BitVec 2) := []
  tagged : Table PredEntry := []
  loop : Table PredEntry := []
  l0Btb : Table PredEntry := []
  l1Btb : Table PredEntry := []
  l2Btb : Table PredEntry := []
  indirect : Table PredEntry := []
deriving DecidableEq, Repr

/-- A core: the state its two harts share. -/
structure CoreState where
  l1iNa : Bool := false
  l1dNa : Bool := false
  l2Na : Bool := false
  flushing : Option FlushKind := none
  /-- Physical lines valid when the flush in progress started (R133). -/
  flushLines : List Nat := []
  /-- Harts whose reset waits for that flush (R135). -/
  resetAfter : List (Fin 2) := []
  predictor : Predictor := {}
  /-- Harts whose FLUSH the clearing in progress satisfies, and harts whose FLUSH came after it began (R53). -/
  clearing : Option (List (Fin 2)) := none
  clearAgain : List (Fin 2) := []
  l2tlb : List TlbEntry := []
  l2tlbLarge : List TlbEntry := []
  s1Cache : List WalkEntry := []
  gCache : List WalkEntry := []
  l1i : Table L1Line := []
  l1iLru : Table (BitVec 8) := []
  l1d : Table L1Line := []
  l1dLru : Table (BitVec 8) := []
  l2 : Table L2Line := []
  l2Lru : Table (BitVec 8) := []
  l1iMiss : List Nat := []
  /-- Lines of the L1 data miss registers with the number of merged requests (R119). -/
  l1dMiss : List (Nat × Nat) := []
  l2Miss : List Nat := []
  idle : CoreIdle := .cs0
  idleReq : CoreIdle := .cs0
  freq : Nat := 0
  moves : Byte := 0
  phys : Fin 24 := 0
  bound : Bool := false
deriving DecidableEq, Repr

/-- An L3 miss register (R119): the outstanding request of the die for a line. -/
structure L3Miss where
  line : Nat
  op : Op
  hue : BitVec 12
  txid : BitVec 12
  core : Fin 22
  shared : Bool
  hint : Bool := false
  /-- An ownership upgrade follows the shared fill (R120). -/
  wantOwn : Bool := false
  /-- R158. -/
  expectData : Bool := false
  /-- Data that has arrived and waits for an L3 way (R118), or for the accesses that may not allocate. -/
  filled : Option Msg := none
  /-- Every access that waits for the line is to memory that Svpbmt marks NC, which does not allocate (R81). -/
  nc : Bool := false
  /-- Such an access has written the data. -/
  ncDirty : Bool := false
  /-- Its request waits: a writeback of the line is unacknowledged (R138). -/
  unsent : Bool := false
  /-- Only speculative instructions have asked for the line. -/
  spec : Bool := false
  tmo : Nat
  /-- The timer expired and the reservation is kept (R192). -/
  late : Bool := false
  failed : Bool := false
deriving DecidableEq, Repr

/-- An entry of the L3 writeback buffer (R122, R138): data sent as `op` and not yet freed. -/
structure WbEntry where
  line : Nat
  op : Op
  data : Bytes
  poison : Bool
  hue : BitVec 12
  txid : BitVec 12
  tmo : Nat
  late : Bool := false
deriving DecidableEq, Repr

/-- The coherence side of a compute die. -/
structure DieState where
  l3 : Table L3Line := []
  miss : List L3Miss := []
  wb : List WbEntry := []
  /-- Probes whose answer an LR reservation holds back (R171). -/
  held : List Msg := []
  /-- Set recalls under way: slice and set (R148). -/
  recalls : List (Nat × Nat) := []
  /-- Lines of a flush of the L3 that wait for room in the writeback buffer (R122). -/
  evicting : List Nat := []
  nextTxid : BitVec 12 := 0
  /-- HART_CTL operations whose harts have not all reached the state: OP and HARTS (R202). -/
  ctl : List (Byte × Nat) := []
deriving DecidableEq, Repr

end Sys2Proof.Machine
end

