-- ==== Sys2Proof/Machine/StateHome.lean ====
section
/-! DEFINITION. The state of the home slices and of the memory behind them (chapters 06 and 09). -/

namespace Sys2Proof.Machine

/-- STATE and HOLDERS of a directory entry (R146, R147). -/
inductive DirState where
  | shared | owned
deriving DecidableEq, Repr

/-- A directory entry that is not Free (R145): tag, state and holders. CHECK is the code over the rest; an entry whose
stored bits are uncorrectable is `bad`, one whose next read the code corrects is `soft`. -/
structure DirEntry where
  line : Nat
  st : DirState
  holders : BitVec 16
  bad : Bool := false
  soft : Bool := false
deriving DecidableEq, Repr

/-- What the entry of a line becomes when its transaction completes (R155). -/
inductive After where
  | free
  | shared (h : BitVec 16)
  | owned (a : Nat)
  | unchanged
deriving DecidableEq, Repr

/-- A forward sent and not yet answered, with the timeout in force when it was sent (R190). -/
structure FwdWait where
  agent : Nat
  op : Op
  tmo : Nat
deriving DecidableEq, Repr

/-- What a home transaction does next, in order (R155, R156, R162, R167). -/
inductive HAct where
  /-- Obtain a directory way (R161 to R163). -/
  | way
  /-- Send forwards and, with `read`, read memory at the same time. -/
  | issue (fwds : List (Nat × Op)) (read : Bool)
  /-- Read memory unless the transaction already holds data. -/
  | readIfNone
  /-- Merge the request's bytes, or the atomic operation, into the held line. -/
  | merge
  /-- Write the held data, if any, to memory. -/
  | write
  | reply (op : Op) (flag : BitVec 2)
  | compAck
deriving DecidableEq, Repr

/-- An open home transaction (R154). -/
structure Txn where
  line : Nat
  req : Msg
  plan : List HAct
  acks : List FwdWait := []
  rd : Bool := false
  wr : Bool := false
  waitWay : Bool := false
  /-- The directory way reserved for the line (R161). -/
  way : Option Nat := none
  data : Option (Bytes × Bool) := none
  /-- The old value an AtomIO returns. -/
  old : Option (Bytes × Bool) := none
  compWait : Bool := false
  gotComp : Bool := false
  after : After := .unchanged
  /-- The line whose transaction recalls this one as a directory victim (R162). -/
  parent : Option Nat := none
  /-- Opened by a forget sweep, for no request (R255). -/
  sweep : Bool := false
deriving DecidableEq, Repr

/-- A writeback tracker (R164): a WbData that waits, because its line is busy with no forward to its sender (R159 case 3),
because a forward to its sender is unanswered (case 2), or for its memory write (case 1). -/
inductive WbPhase where
  | waitLine | waitAnswer | writing
deriving DecidableEq, Repr

structure WbTrk where
  msg : Msg
  phase : WbPhase
deriving DecidableEq, Repr

/-- Set recovery in progress (R148). -/
structure Recovery where
  set : Nat
  started : Bool
  acks : List FwdWait
  cxlWait : Bool
  /-- Compute dies whose SetRecallAck is on its way. -/
  answered : List Nat := []
deriving DecidableEq, Repr

/-- A home slice. -/
structure HomeState where
  dir : Table DirEntry := []
  rr : Table Nat := []
  txns : List Txn := []
  /-- Requests accepted for a busy line or a recovering set, oldest first (R154, R148). -/
  waitq : List Msg := []
  /-- Requests accepted and not yet complete, in the order of acceptance (R153). -/
  accepted : List Msg := []
  /-- Requests held back for want of a tracker (R149, R164). -/
  heldBack : List Msg := []
  wbs : List WbTrk := []
  wbHeldBack : List Msg := []
  recov : List Recovery := []
  scrubSet : Fin 16384 := 0
  fenced : Bool := false
deriving DecidableEq, Repr

/-- A granule's bit of the written map (R249): clear, or set. After an uncorrectable map word its bits are set with the
lines of the granule never stored, `stored` naming those written since (R250). -/
inductive Granule where
  | clear
  | filled
  | forced (stored : Word)
deriving DecidableEq, Repr

/-- A row of a stack that correction events have named (R239, R241, R242). -/
structure RowState where
  count : Nat
  first : Word
  last : Word
  rewritten : Bool
  retired : Bool
deriving DecidableEq, Repr

/-- What a pseudo-channel or channel is doing (R240, R241, R258). -/
structure ChannelState where
  /-- Parity alerts of the command that is being reissued, and read timeouts in a row. -/
  alerts : Nat := 0
  timeouts : Nat := 0
  /-- Times of the retrains that failed within the last second. -/
  failed : List Word := []
deriving DecidableEq, Repr

/-- The registers of the test window (R246). -/
structure TestWindow where
  armed : Bool := false
  busy : Bool := false
  result : BitVec 3 := 0
  addr : Word := 0
  data : Bytes := []
  check : Word := 0
deriving DecidableEq, Repr

/-- An entry of a forget queue: its two words (R252). -/
structure ForgetEntry where
  e0 : Word
  e1 : Word
deriving DecidableEq, Repr

/-- A forget queue (R252 to R255). -/
structure ForgetQueue where
  entry0 : Word := 0
  entry1 : Word := 0
  tail : BitVec 16 := 0
  head : BitVec 16 := 0
  last : Word := 0
  msiAddr : Word := 0
  msiData : Word := 0
  overflow : Bool := false
  entries : List ForgetEntry := []
  running : Bool := false
deriving DecidableEq, Repr

end Sys2Proof.Machine
end

