-- ==== Sys2Proof/Machine/StateHub.lean ====
section
/-! DEFINITION. The state of the hub's tenancy, interrupt, metering, compression and I/O blocks (chapters 10 to 14). -/

namespace Sys2Proof.Machine

/-- The lifecycle of a hue (R262). -/
inductive HueSt where
  | free | bound | active | draining | resetting
deriving DecidableEq, Repr

/-- A hue's state in the hub: lifecycle, staged class (R265), step of R279, and whether step 3 ran. -/
structure HueState where
  st : HueSt := .free
  staged : Option (BitVec 3) := none
  step : Nat := 0
  squashed : Bool := false
  drainTmo : Nat := 0
deriving DecidableEq, Repr

/-- A DMA binding (R264, R281, R354): its key, and its hue, or none when it is blocked. -/
structure Binding where
  part : Nat
  rid : BitVec 16
  pasid : Option (BitVec 20)
  hue : Option (BitVec 12)
deriving DecidableEq, Repr

/-- An interrupt file (R272, R277): pending and enable bits of identities 1 to 2,047, delivery and threshold. -/
structure ImsicFile where
  eip : BitVec 2048 := 0
  eie : BitVec 2048 := 0
  eidelivery : BitVec 32 := 0
  eithreshold : BitVec 32 := 0
  owner : Option (BitVec 12) := none
deriving DecidableEq, Repr

/-- An APLIC domain (R273, R274), in the layout that the RISC-V Advanced Interrupt Architecture publishes. `lines` is what its
sources last showed. -/
structure AplicDomain where
  ie : Bool := false
  sourcecfg : Table (BitVec 32) := []
  target : Table (BitVec 32) := []
  enabled : BitVec 192 := 0
  pending : BitVec 192 := 0
  lines : BitVec 192 := 0
  /-- mmsiaddrcfg and smsiaddrcfg, the high word in bits 63 to 32; only the machine-level domain holds them. -/
  mmsiaddr : Word := 0
  smsiaddr : Word := 0
  genmsi : BitVec 32 := 0
deriving DecidableEq, Repr

/-- A hue's sixteen counters, the copy taken at the start of the open interval, and the interval's flags (R285, R293). -/
structure MeterState where
  counters : Table Word := []
  atStart : Table Word := []
  start : Word := 0
  first : Bool := false
  loss : Bool := false
  open_ : Bool := false
deriving DecidableEq, Repr

/-- KIND of a ledger record (R295). -/
inductive RecKind where
  | minute | hour | day | loss
deriving DecidableEq, Repr

/-- A ledger record (R294). CRC is the code over the rest: a record whose stored bytes fail it is `bad`. -/
structure LedgerRec where
  kind : RecKind
  flags : Byte
  hue : BitVec 12
  part : BitVec 4
  boot : BitVec 16
  pkg : Byte
  cls : Byte
  seq : Word
  start : Word
  cover : BitVec 32
  delta : Table Word
  bad : Bool := false
deriving DecidableEq, Repr

/-- The ledger and what is kept beside it (R297 to R306). `cursors` is keyed by partition, 16 for the package ledger. -/
structure LedgerState where
  slots : Table LedgerRec := []
  last : Nat := 629144
  nextSeq : Word := 1
  nextBase : Word := 1
  cursors : Table Word := []
  discards : BitVec 32 := 0
  /-- BOOT, latest interval end, and PWRWARN, of the word of R306. -/
  word : Option (BitVec 16 × Word × Bool) := none
  /-- PWRFAIL_N has asserted and the warned close of R305 is owed. -/
  warnOwed : Bool := false
deriving DecidableEq, Repr

/-- A job of a slice (R310, R319). Its mark is the input and output bytes and the blocks done. -/
structure Job where
  seq : BitVec 16
  cells : List Nat
  submitted : Word
  order : Bool
  running : Option (Fin 8) := none
  inBytes : Nat := 0
  outBytes : Nat := 0
  blocks : Nat := 0
  retries : Nat := 0
  retried : Bool := false
  preempted : Bool := false
  /-- Status waiting to be written, with DETAIL. -/
  status : Option (Nat × Nat) := none
  /-- Status to take at the next block boundary (R311, R316, R318, R279): 255 is a pre-emption. -/
  stop : Option Nat := none
  aged : Bool := false
deriving DecidableEq, Repr

/-- STATE of a slice (R309). -/
inductive SliceSt where
  | unbound | bound | qreset
deriving DecidableEq, Repr

/-- A compression slice (R307 to R316). -/
structure SliceState where
  st : SliceSt := .unbound
  pasid : BitVec 20 := 0
  hue : BitVec 12 := 0
  creditsBound : Byte := 0
  logE : Nat := 0
  ring : Word := 0
  msiAddr : Word := 0
  msiData : BitVec 32 := 0
  desc : Table Word := []
  credits : Byte := 0
  head : BitVec 16 := 0
  tail : BitVec 16 := 0
  nextSeq : BitVec 16 := 0
  qresets : Byte := 0
  badHead : Bool := false
  overrun : Bool := false
  /-- Cells of the job being enqueued. -/
  part : List Nat := []
  jobs : List Job := []
  /-- Records written since the bind. -/
  count : Nat := 0
  /-- For each unreleased record, oldest first, the credits and the cells that its release returns. -/
  unreleased : List (Nat × List Nat) := []
  /-- Completion bitmap of R316: SEQs submitted and not completed. -/
  open_ : List (BitVec 16) := []
  unbinding : Option (Option Issuer) := none
  /-- The two copies of the queue pointers differ (R316). -/
  ptrBad : Bool := false
deriving DecidableEq, Repr

/-- A cell of the pool (R315). -/
structure Cell where
  bytes : Bytes
  owner : Nat
  link : BitVec 16 := 0
  /-- Its code is uncorrectable. -/
  bad : Bool := false
deriving DecidableEq, Repr

/-- States of a root port's link (R388). -/
inductive LinkSt where
  | absent | up | down | contained | fenced
deriving DecidableEq, Repr

/-- The registered inputs of a slot and their debounce counters (R357, R358). -/
structure SlotInputs where
  prsnt : Bool := false
  attnBtn : Bool := false
  pwrFault : Bool := false
  mrlOpen : Bool := false
  pwrGood : Bool := false
  cntPrsnt : Nat := 0
  cntBtn : Nat := 0
  cntMrl : Nat := 0
deriving DecidableEq, Repr

/-- A hart's non-posted request that a root port has outstanding (R349). -/
structure PortReq where
  hart : HartId
  pa : Nat
  size : Nat
  write : Bool
  value : Word := 0
  got : List (Nat × Byte) := []
deriving DecidableEq, Repr

/-- A root port and its slot (R345 to R367). -/
structure RootPort where
  link : LinkSt := .absent
  requests : List PortReq := []
  waiting : List PortReq := []
  postedWrites : List (Nat × Bytes) := []
  /-- Requests of other ports' devices passed to the device peer-to-peer (R351). -/
  forwarded : List DmaReq := []
  slotCtl : BitVec 16 := 0x400
  slotSts : BitVec 16 := 0
  devCtl2 : BitVec 16 := 0
  dpcEnabled : Bool := false
  acs : BitVec 16 := 0
  aer : BitVec 32 := 0
  outByte : Byte := 0
  inByte : Byte := 0
  inputs : SlotInputs := {}
  /-- Step of the insertion sequence of R359; 0 when none runs. -/
  insStep : Nat := 0
  pwrGoodAt : Word := 0
  cmdOwed : Nat := 0
  intx : BitVec 4 := 0
  viral : Bool := false
  memTimeouts : List Word := []
  cxl : Bool := false
  config : Table (BitVec 32) := []
deriving DecidableEq, Repr

/-- The CXL memory port of a group (R271): the requests that it has served to its devices and that have no answer yet, the
class whose turn it is in the deficit round robin, and the lines that class may still be served in its turn. -/
structure CxlPort where
  served : List MemReq := []
  turn : Nat := 7
  left : Nat := 0
deriving DecidableEq, Repr

/-- The slot sideband chain (R357, R358). -/
structure ChainState where
  badMarkers : Nat := 0
  goodMarkers : Nat := 0
  faulted : Bool := false
deriving DecidableEq, Repr

/-- An inbound device request between its arrival and its last answer (R279, R351, R353): its translated address, the
lines asked for and not answered by TXID, the timeout in force when they were sent (R190), and the line data that has come
back. `sent` tells whether its requests have gone to the homes, `posted` whether the ordering rules count it as a posted
write. -/
structure Inbound where
  port : Fin 32
  req : DmaReq
  pa : Nat
  hue : BitVec 12
  posted : Bool
  msi : Bool := false
  sent : Bool := false
  lines : List (BitVec 12 × Nat) := []
  tmo : Nat := 0
  got : List (Nat × Bytes × Bool) := []
  squashed : Bool := false
  failed : Bool := false
deriving DecidableEq, Repr

/-- A completion sent to a device: one piece of a read's data, or a status. -/
structure DevCpl where
  port : Fin 32
  rid : BitVec 16
  tag : BitVec 10
  status : CplStatus
  ep : Bool
  addr : Nat
  data : Bytes
deriving DecidableEq, Repr

/-- A line of the CXL snoop filter (R364): ports of the devices that hold it and whether one owns it. -/
structure FilterEntry where
  holders : BitVec 32
  owned : Bool
deriving DecidableEq, Repr

/-- The CXL.cache requests of R364. -/
inductive DevOp where
  | rdShared | rdOwn | rdCurr | dirtyEvict | cleanEvict | itoMWr | clFlush
deriving DecidableEq, Repr

/-- A snoop that CXL.cache devices have not all answered (R365); `took` names all it was sent to. It serves a forward of a home, or for a device request or a
filter victim of the group itself. -/
structure SnoopWait where
  line : Nat
  msg : Option Msg
  ports : List (Fin 32)
  dirty : Option Bytes := none
  took : BitVec 32 := 0
  /-- The snoop takes the line from its holders (SnpInv). -/
  takes : Bool
deriving DecidableEq, Repr

/-- A device request on its way through the I/O agent (R364): waiting for its line, snooping the group, or sent to the home
as `op`. Data of an eviction or a write stays here until its answer. A request with `victim` is the writeback of a line that
the filter evicted. -/
structure CacheReq where
  port : Fin 32
  line : Nat
  dev : DevOp
  hue : BitVec 12
  data : Option (Bytes × Bool) := none
  started : Bool := false
  sent : Option (Op × BitVec 12) := none
  /-- The timeout in force when it was sent (R190). -/
  tmo : Nat := 0
  victim : Bool := false
deriving DecidableEq, Repr

/-- What the I/O agent answers a CXL.cache device: the grant of R152, or none for data without one. -/
structure CacheAns where
  port : Fin 32
  line : Nat
  grant : Option (BitVec 2)
  data : Bytes
  poison : Bool
  failed : Bool
deriving DecidableEq, Repr

/-- An IOMMU instance (R352): its control registers by offset, and its fault records. -/
structure Iommu where
  regs : Table Word := []
  faults : List (BitVec 16 × Nat) := []
deriving DecidableEq, Repr

end Sys2Proof.Machine
end

