-- ==== Sys2Proof/Machine/StateLink.lean ====
section
/-! DEFINITION. The state of the rings and the Weld and cascade links (chapters 07, 08 and the links of 20). -/

namespace Sys2Proof.Machine

/-- The two sides of a dual-clock queue (R197): each side's own pointer, and the other side's in Gray code, as it passes through
this side's three synchronising stages, the newest first. Pointers count modulo 64. -/
structure QueuePtrs where
  wptr : BitVec 6 := 0
  rptr : BitVec 6 := 0
  /-- The write pointer on its way to the read side, and the read pointer on its way to the write side. -/
  toRead : List (BitVec 6) := [0, 0, 0]
  toWrite : List (BitVec 6) := [0, 0, 0]
deriving DecidableEq, Repr

/-- A dual-clock queue of a crossing (R196): the packets of one virtual channel in one direction, oldest first. -/
structure DualQueue where
  entries : List Slot := []
  ptrs : QueuePtrs := {}
deriving DecidableEq, Repr

/-- A slot with a packet on a ring: its direction, and whether no agent of the package sent it. -/
structure RingSlot where
  ring : RingId
  clockwise : Bool
  slot : Slot
  foreign : Bool := false
deriving DecidableEq, Repr

/-- A ring stop (R184, R186, R187): its ingress queue with each packet's virtual channel, its reservation lists, the packets that
wait for injection with their direction (clockwise true), and the tag of each direction. -/
structure StopState where
  ingress : List (BitVec 2 × Slot) := []
  egress : List (Bool × Slot) := []
  reserve : List (BitVec 2 × BitVec 8) := []
  tagCw : Bool := false
  tagCcw : Bool := false
deriving DecidableEq, Repr

/-- States of a bundle (R219). -/
inductive BundleSt where
  | down | training | active | retired
deriving DecidableEq, Repr

/-- Width caps (R224). -/
inductive Cap where
  | none | x4 | retired
deriving DecidableEq, Repr

/-- One transmitter and receiver of a bundle (R205 to R211, R217). -/
structure EndState where
  /-- SEQ of the next new DATA flit. -/
  txSeq : Byte := 0
  /-- SEQ of the last DATA flit accepted in order. -/
  rxSeq : Byte := 255
  /-- Unacknowledged flits, oldest first, with their replay counts. -/
  replay : List (Flit × Nat) := []
  /-- Replay has this many flits still to resend before new ones. -/
  resend : Nat := 0
  /-- A NAK has been sent and the flit after ACK has not arrived (R211). -/
  discarding : Bool := false
  nakOwed : Bool := false
  ackOwed : Bool := false
  /-- Credits used per virtual channel since training, modulo 64, and the totals returned to this end. -/
  used : BitVec 6 × BitVec 6 × BitVec 6 × BitVec 6 := (0, 0, 0, 0)
  returned : BitVec 6 × BitVec 6 × BitVec 6 × BitVec 6 := (0, 0, 0, 0)
  /-- Packets held in this end's receive buffers, per virtual channel, and the totals it has returned. -/
  buffer : List (BitVec 2 × Slot) := []
  given : BitVec 6 × BitVec 6 × BitVec 6 × BitVec 6 := (0, 0, 0, 0)
  /-- The pointers of the receive buffers, which are the dual-clock queues of R196, by virtual channel. -/
  ptrs : Table QueuePtrs := []
  /-- Packets that wait to be sent, the one partly sent with its units still to send (R207), and DATA flits that are on their way. -/
  tx : List Slot := []
  cur : Option Slot := none
  units : List Nat := []
  wire : List Flit := []
  crvc : BitVec 2 := 0
  /-- Units of a packet that continues from the last flit (R207). -/
  part : Bytes := []
  /-- Flits sent since the last slot that carried a MAINT flit. -/
  slotCount : Nat := 0
  echoMiss : Nat := 0
  lastWidth : Byte := 0
  lastRx : BitVec 16 := 0
  /-- State of the pattern generator, and of the checker, of R208. -/
  prbsTx : BitVec 23 := BitVec.allOnes 23
  prbsRx : BitVec 23 := BitVec.allOnes 23
  /-- Pattern errors counted on each lane within the last second, with their times (R208, R214). -/
  laneErrs : Table (List (Word × Nat)) := []
  /-- The MAINT flit last sent. -/
  maint : Option Flit := none
  windowReplays : Nat := 0
  handoverOwed : Bool := false
  /-- Packets to resend through another bundle (R222). -/
  reroute : List Slot := []
deriving DecidableEq, Repr

/-- A bundle of a Weld port, or a cascade link (R219, R228, R464). -/
structure BundleState where
  st : BundleSt := .down
  step : Nat := 0
  width : Nat := 0
  cap : Cap := .none
  capCleared : Bool := false
  lanesD2H : BitVec 9 := 0
  lanesH2D : BitVec 9 := 0
  attempts : Nat := 0
  trainings : Byte := 0
  replays : BitVec 16 := 0
  epoch : Byte := 0
  announceLimit : Nat := 8
  /-- Lanes that passed the lane test, D2H and H2D; the widths that the hub and the die announced. -/
  good : BitVec 9 × BitVec 9 := (0, 0)
  announced : Nat × Nat := (0, 0)
  /-- The training that runs is a field retrain. -/
  field : Bool := false
  lastTrained : Word := 0
  violations : List Word := []
  failedLanes : BitVec 9 := 0
  hub : EndState := {}
  die : EndState := {}
deriving DecidableEq, Repr

/-- A sideband frame in flight: TYPE, payload, SEQ and how often it has been repeated (R200). -/
structure SbOut where
  typ : Byte
  payload : Bytes
  seq : Byte
  repeats : Nat
deriving DecidableEq, Repr

/-- One end of a sideband. -/
structure SbEnd where
  nextSeq : Byte := 0
  unacked : Option SbOut := none
  queue : List (Byte × Bytes) := []
  /-- ACK frames owed to the partner, by SEQ. -/
  acks : List Byte := []
deriving DecidableEq, Repr

/-- A Weld port (R198 to R228). Port 12 stands for the cascade links, as its bundles 0 to 2. -/
structure PortState where
  bundles : Table BundleState := []
  version : Nat := 0
  /-- Port-level training: 0 none, 1 IDENT exchange, 2 PLL lock, 3 bundles train. -/
  step : Nat := 0
  identHub : Bool := false
  identDie : Bool := false
  /-- An IDENT exchange during a field retrain settled another version (R218). -/
  identOther : Bool := false
  plls : BitVec 4 := 0
  sbHub : SbEnd := {}
  sbDie : SbEnd := {}
  sbLost : Bool := false
  resets : Byte := 0
deriving DecidableEq, Repr

end Sys2Proof.Machine
end

