-- ==== Sys2Proof/Machine/StateMgmt.lean ====
section
/-! DEFINITION. The state of Mordant and of what it manages (chapters 15 to 22). -/

namespace Sys2Proof.Machine

/-- The six operating modes (R23). -/
inductive Mode where
  | recovery | bringUp | unified | partitioned | cascade | service
deriving DecidableEq, Repr

/-- START_CAUSE (R414). -/
inductive StartCause where
  | powerOn | resetPin | cmdCold | cmdWarm | strapRecovery | imageRecovery | configFallback
deriving DecidableEq, Repr

/-- Classes of logged events (R495). -/
inductive ErrClass where
  | corrected | recovered | uncorrected | fatal | partner | hue | discard | notice
deriving DecidableEq, Repr

/-- SOURCE values (R498). -/
inductive ErrSource where
  | core | bp | mmu | l1 | l2 | l3 | home | ring | weld | hbm | wmap | hue | qos | mtr | ledg | ce | cpool | pcie | cxl
  | casc | mbx | cfg | census | pm | clk | perf | err | pdr
deriving DecidableEq, Repr

/-- REASON values (R499). -/
inductive ErrReason where
  | correctedCode | uncorrectable | parity | poisonConsumed | address | timeout | unsupported | fenced | transport
  | malformed | unexpected | credit | crc | training | version | sideband | repair | exhausted | lockstep
  | queueIntegrity | thermal | regulator | clock | strap | censusMismatch | hueViolation | discard | dropped
deriving DecidableEq, Repr

/-- An event of the hub queue, or the body of a log record (R497). -/
structure ErrRec where
  seq : Word := 0
  time : Word
  last : Word
  cls : ErrClass
  source : ErrSource
  reason : ErrReason
  unit : Nat
  count : BitVec 16 := 1
  addr : Word := 0
  hue : BitVec 12 := 0
  part : Nat := 255
  pkg : Nat := 0
  lost : Bool := false
  trap : Bool := false
  fence : Bool := false
  info : Word := 0
  aux : BitVec 32 := 0
  bad : Bool := false
deriving DecidableEq, Repr

/-- The error log (R496 to R507). `cursors`: partitions by number, 16 the host outside Partitioned mode, 17 the BMC. -/
structure ErrLog where
  slots : Table ErrRec := []
  queue : List ErrRec := []
  dropped : Nat := 0
  nextSeq : Word := 1
  seqBase : Word := 1
  cursors : Table Word := []
  /-- Times of CORRECTED core records within the last 24 hours, by die × 32 + physical core (R506). -/
  coreCounts : Table (List Word) := []
  /-- Times of uncorrectable events by hub block: slices 0–31, rings 32–35, bridges 36–39 (R507). -/
  hubCounts : Table (List Word) := []
  /-- Hub blocks that R507 has fenced, numbered as in `hubCounts`. -/
  hubFenced : List Nat := []
deriving DecidableEq, Repr

/-- A command cell as accepted: the row's opcode and the cell (R372, R375). -/
structure Accepted where
  opcode : Nat
  cell : CmdCell
  /-- Order of acceptance over every mailbox and the BMC (R373). -/
  seq : Nat := 0
  /-- Message tag of a BMC request (R377). -/
  bmcTag : BitVec 3 := 0
deriving DecidableEq, Repr

/-- A response or event cell (R376). -/
structure RespCell where
  opcode : Nat
  tag : BitVec 16
  event : Bool
  status : Nat
  lot : BitVec 32
  detail : BitVec 32
  result : Bytes
  /-- Tag of the MCTP message that carries a response to the BMC (R377). -/
  msgTag : Option (BitVec 3) := none
deriving DecidableEq, Repr

/-- A session (R379). -/
structure Session where
  minor : Nat
  features : Word
  mask : Word := 0
deriving DecidableEq, Repr

/-- A host mailbox, or the BMC's path with the same fields (R371 to R378). -/
structure Mailbox where
  cmdTail : BitVec 16 := 0
  cmdHead : BitVec 16 := 0
  rspTail : BitVec 16 := 0
  rspHead : BitVec 16 := 0
  badHead : Bool := false
  restarted : Bool := false
  evtLost : Bool := false
  irqEn : Bool := false
  cmdSlots : Table Bytes := []
  rspSlots : Table RespCell := []
  accepted : List Accepted := []
  events : List RespCell := []
  session : Option Session := none
  /-- Response cells sent to the BMC and not yet read. -/
  sent : List RespCell := []
deriving DecidableEq, Repr

/-- An image slot (R369). `staged`: its image has verified since the slot was last written (R436). -/
structure ImageSlot where
  version : BitVec 32 := 0
  secVersion : Byte := 0
  staged : Bool := false
deriving DecidableEq, Repr

/-- Mordant itself (R368 to R370, R377). -/
structure MordantState where
  slotA : ImageSlot := { version := Config.imageVersion false, secVersion := Config.imageSecurity false }
  slotB : ImageSlot := { version := Config.imageVersion true, secVersion := Config.imageSecurity true }
  activeB : Bool := false
  restarts : List Word := []
  restarting : Bool := false
  limited : Bool := false
  boot : BitVec 16 := 1
  eid : Byte := 0
  dynAddr : Option (BitVec 7) := none
  bmcReply : List Bytes := []
  /-- Messages of the BMC that came while Mordant restarted, with their tags. -/
  bmcHeld : List (BitVec 3 × Bytes) := []
  acceptSeq : Nat := 0
deriving DecidableEq, Repr

/-- A record of the PDR's structural section (R387): TYPE, INDEX, PART (0xFFFF: no partition) and the body from offset 8. -/
structure PdrRec where
  typ : Nat
  index : Nat
  part : Nat := 0xFFFF
  body : Bytes
deriving DecidableEq, Repr

/-- The package description ROM (R386 to R389). The structural section is held as its records and the header fields that
locking fixed; the live section holds what no other part of the state gives. -/
structure PdrState where
  lock : Bool := false
  lockLot : BitVec 32 := 0
  lockMode : Mode := .bringUp
  lockPkg : Nat := 0
  records : List PdrRec := []
  gen : Word := 0
  /-- 0 in service, 1 evacuated, 2 fenced, 3 absent. -/
  dieSt : Table Nat := []
  /-- Spare physical cores of each die that are left, lowest first (R39, R40). -/
  spares : Table (List (Fin 24)) := []
  /-- Physical cores that count as failing test at every start, as die × 32 + core (R430). -/
  failed : List Nat := []
deriving DecidableEq, Repr

/-- A snapshot half (R391). -/
structure Half where
  valid : Bool
  defaults : Bool
  gen : Word
  lot : BitVec 32
  entries : Table Word
deriving DecidableEq, Repr

/-- TYPE of a journal record (R392). -/
inductive JType where
  | commit | live | pending
deriving DecidableEq, Repr

/-- A journal record (R392). -/
structure JRec where
  typ : JType
  baseGen : Word
  seq : BitVec 32
  lot : BitVec 32
  time : Word
  entries : List (Nat × Word)
  bad : Bool := false
deriving DecidableEq, Repr

/-- The configuration store (R390 to R398). -/
structure StoreState where
  halfA : Half := { valid := true, defaults := true, gen := 1, lot := 1, entries := [] }
  halfB : Half := { valid := false, defaults := false, gen := 0, lot := 0, entries := [] }
  journal : List JRec := []
  useB : Bool := false
  compactOwed : Bool := false
deriving DecidableEq, Repr

/-- A commit in progress (R401). -/
structure Commit where
  issuer : Issuer
  tag : BitVec 16
  lot : BitVec 32
  entries : List (Nat × Word)
  classes : List (Nat × BitVec 3)
  /-- Dies that take part, and those whose CFG_ACK has not arrived. -/
  dies : List (Fin 12)
  waiting : List (Fin 12)
  /-- T, once the record is durable. -/
  flip : Option Word := none
  sentAt : Word
  /-- The answer to CFG_COMMIT is still owed: a restart of Mordant has not answered it RESTARTED. -/
  owed : Bool := true
  /-- In a cascade (R404): members whose acknowledgement the master awaits, and whether this is a member's part of the master's
  commit. -/
  members : List (Fin 4) := []
  remote : Bool := false
deriving DecidableEq, Repr

/-- A message of a commit to another package of the cascade (R404), by the TYPE of the frame it corresponds to. -/
structure CommitOut where
  peer : Fin 4
  typ : Byte
  lot : BitVec 32
  entries : List (Nat × Word) := []
  t : Word := 0
deriving DecidableEq, Repr

/-- A shadow copy of a die (R401 step 3). -/
structure Shadow where
  lot : BitVec 32
  frames : Nat
  last : Bool
  entries : List (Nat × Word)
  since : Word
  flip : Option Word := none
deriving DecidableEq, Repr

/-- The configuration a compute die holds (R405). -/
structure DieCfg where
  lot : BitVec 32 := 0
  ringTmo : Word := 0x100B08
  weldCfg : Word := 0x08202001
  classes : Table (BitVec 3) := []
  shadow : Option Shadow := none
  round : BitVec 32 := 0
deriving DecidableEq, Repr

/-- A census round (R408 to R412). -/
structure CensusState where
  round : BitVec 32 := 0
  running : Bool := false
  byCommand : Option Issuer := none
  waiting : List Nat := []
  mismatch : BitVec 13 := 0
  packages : BitVec 4 := 0
  rewritten : BitVec 13 := 0
  triedLot : Table Nat := []
  reports : Table (BitVec 32 × Word) := []
  last : Word := 0
  /-- A bisection in progress: die, low, high, and the answer awaited (R411). -/
  bisect : Option (Nat × Nat × Nat) := none
  bisectFor : Option (Issuer × BitVec 16) := none
deriving DecidableEq, Repr

/-- Configuration in force and on its way (R399 to R404). -/
structure ConfigState where
  lot : BitVec 32 := 1
  force : Table Word := []
  /-- Values recorded for the next Bring-up, and staged values, each with the bits it covers. -/
  pending : Table (Word × Word) := []
  staged : Table (Word × Word) := []
  commit : Option Commit := none
  defaultsUsed : Bool := true
  dies : Table DieCfg := []
  /-- The hub's class-map copies, three bits for each of the six agents of R405. -/
  hubClasses : Table (BitVec 18) := []
deriving DecidableEq, Repr

/-- Rows of the start table (R420) that are complete, and how the start began. -/
structure StartState where
  running : Bool := true
  warm : Bool := false
  done : List StartStep := []
  held : Bool := false
deriving DecidableEq, Repr

/-- A partition (R423 to R426). -/
structure PartState where
  started : Bool := false
  resetStep : Nat := 0
deriving DecidableEq, Repr

/-- The live maintenance actions (R428). -/
inductive LiveAction where
  | spare (d : Fin 12) (l : Fin 22)
  | evacuate (d : Fin 12)
  | readmit (d : Fin 12)
  | handover
  | cascHandoff (m : Fin 4)
deriving DecidableEq, Repr

/-- Service mode (R428 to R440). -/
structure ServiceState where
  action : Option LiveAction := none
  /-- The die of the action was fenced meanwhile (R505). -/
  fenced : Bool := false
  step : Nat := 0
  issuer : Option Issuer := none
  /-- The spare that sparing moves to, and from step 5 on the physical core that it moved from. -/
  target : Fin 24 := 0
  resetOwed : BitVec 12 := 0
  /-- The last HART_RPT of each die: OP and HARTS (R202). -/
  reports : Table (Nat × Nat) := []
deriving DecidableEq, Repr

/-- Modes, straps, pins and start-up (chapter 17). -/
structure ModeState where
  mode : Mode := .bringUp
  ret : Mode := .recovery
  cause : StartCause := .powerOn
  straps : Straps := { recoveryN := true, bootSel := 0, pkgId := 0, masterSel := false }
  pwrgood : Bool := true
  resetN : Bool := true
  thermTrip : Bool := false
  refclk : Bool := true
  pwrfail : Bool := false
  hot : Bool := false
  start : StartState := {}
  parts : Table PartState := []
  /-- A package reset that a write of PKG_RESET has asked for: cold, or warm (R419). -/
  resetAsked : Option Bool := none
deriving DecidableEq, Repr

/-- A regulated rail (R442 to R447). -/
structure RailState where
  mv : BitVec 16 := 0
  current : BitVec 16 := 0
  fails : Byte := 0
  held : Bool := false
  telemLost : Bool := false
  misses : Nat := 0
  /-- The write in flight: millivolts and attempts made. -/
  write : Option (Nat × Nat) := none
  /-- Millivolts of the write withheld while HELD. -/
  withheld : Nat := 0
  /-- The frequency in MHz that the rail's cores are set to, and the one that waits for the write. -/
  freq : Nat := 0
  freqAfter : Option Nat := none
  /-- The frequency that throttling has lowered the rail to; 0 when none acts (R461). -/
  throttle : Nat := 0
  /-- Pinning has given way (R451). -/
  gave : Bool := false
deriving DecidableEq, Repr

/-- Package states (R453). -/
inductive PkgState where
  | ps0 | ps1 | ps2
deriving DecidableEq, Repr

/-- Power, clocks and temperature (chapter 19). -/
structure PowerState where
  rails : Table RailState := []
  watts : Nat := 0
  avgMhz : Nat := 0
  pkg : PkgState := .ps0
  request : Option (PkgState × Issuer) := none
  asleep : List Domain := []
  /-- PLLs that have lost lock (R459). -/
  weldPll : List (Fin 12 × Fin 4) := []
  diePll : List (Fin 12) := []
  /-- Sensor readings in eighths of a degree: as each die last read them, as Mordant last received them, and the hub's. -/
  sensors : Table (List Int) := []
  dieHot : Table (List Int) := []
  hubHot : List Int := []
  stackHot : List (Fin 2) := []
  stackDouble : List (Fin 2) := []
  /-- Watts taken off the effective limit for the hub, and for each stack (R461). -/
  hubReduction : Nat := 0
  stackReduction : Table Nat := []
  /-- Idle states that PM_CORE_STATE has set, by die × 32 + logical core (R452). -/
  csReq : Table Nat := []
  /-- Latches of R516, held by VSTBY: rails that fell below their minimum, and that rose above their maximum. -/
  uvLatch : List Nat := []
  ovLatch : List Nat := []
deriving DecidableEq, Repr

/-- A request that a cascade proxy holds in a tracker (R469): the dies probed for it that have not answered, dirty data
they gave, and how far it has gone. `victim` is the line that the filter evicts for it (R471). -/
structure ProxyReq where
  msg : Msg
  victim : Option Nat := none
  ready : Bool := false
  /-- A writeback of `dirty` is on its way to the home. -/
  wb : Bool := false
  dirty : Option (Bytes × Bool) := none
  sent : Bool := false
  /-- The timeout in force when it was sent (R190). -/
  tmo : Nat := 0
  /-- The answer has been passed on, and the requester owes CompAck. -/
  passed : Bool := false
deriving DecidableEq, Repr

/-- A probe that a proxy makes of a local die (R470): for a forward of the peer's home, or for the proxy itself. -/
structure ProxyProbe where
  line : Nat
  die : Fin 12
  op : Op
  tmo : Nat
deriving DecidableEq, Repr

/-- An entry of a proxy's remote filter (R469): the dies that may hold the line, and whether one owns it. -/
structure RemoteEntry where
  line : Nat
  dies : BitVec 12
  owned : Bool
deriving DecidableEq, Repr

/-- A forward of a peer's home that the proxy has not answered (R470), with the dirty data its dies gave. -/
structure ProxyFwd where
  msg : Msg
  dirty : Option (Bytes × Bool) := none
  hit : Bool := false
  /-- The holder's data has gone to the requester. -/
  passed : Bool := false
  poisoned : Bool := false
deriving DecidableEq, Repr

/-- A cascade link with its proxy (R463 to R471). `out` holds the messages sent to the peer. -/
structure CascLink where
  identity : Option CascIdentity := none
  filter : Table RemoteEntry := []
  rr : Table Nat := []
  requests : List ProxyReq := []
  waiting : List Msg := []
  /-- Writebacks of dies passed to the home, and those that wait for a probe's answer. -/
  wbs : List Msg := []
  wbHeld : List Msg := []
  probes : List ProxyProbe := []
  fwds : List ProxyFwd := []
  /-- Set recoveries that the peer asked for (R148): slice and set. -/
  recalls : List (Nat × Nat) := []
  /-- Requests to the peer's homes whose timer has expired, by TXID and line: their answers are late (R192). -/
  late : List (BitVec 12 × Nat) := []
  out : List Msg := []
deriving DecidableEq, Repr

/-- Membership of a cascade (R466 to R478). `members` is the member bitmap. -/
structure CascState where
  links : Table CascLink := []
  members : BitVec 4 := 0
  lost : BitVec 4 := 0
  master : Fin 4 := 0
  closed : Bool := false
  masterLost : Bool := false
  /-- This package has handed its role as master over since the last cold start (R475). -/
  roleGiven : Bool := false
  reports : Table Word := []
  offsets : Table Int := []
  phase : Int := 0
  /-- Messages of commits sent to other packages (R404). -/
  commits : List CommitOut := []
deriving DecidableEq, Repr

/-- An uncore unit's counters (R489 to R493). -/
structure UncUnit where
  ctr : Table (BitVec 48) := []
  ctl : Table Word := []
  ovf : Byte := 0
deriving DecidableEq, Repr

end Sys2Proof.Machine
end

