-- ==== Sys2Proof/Machine/State.lean ====
section
/-! DEFINITION. The state of the package, the reasons a step stops, and the state after reset. -/

namespace Sys2Proof.Machine

/-- How an I/O access of a hart was answered (R183, R191). -/
inductive IoAnswer where
  | data (v : Word) (poison : Bool)
  | ack
  | error (flag : BitVec 2)
deriving DecidableEq, Repr

/-- A message that a ring packet carries: a coherence message, a write or read of control space or PCI Express space, a hart's
interrupt write, or the answer of an I/O access (R183). -/
inductive Packet where
  | coh (m : Msg)
  | io (write : Bool) (q : IoMsg)
  | msi (m : MsiMsg)
  | ans (h : HartId) (a : IoAnswer)
deriving DecidableEq, Repr

/-- The core side: harts, cores, compute dies and their links. Keys: hart `die × 64 + core × 2 + thread`, core
`die × 32 + core`, die and Weld port `die`, ring stop `ring × 64 + stop` on hub rings and `0x100 + die × 16 + stop` on
compute-die rings (R498). -/
structure Fabric where
  harts : Table HartState := []
  cores : Table CoreState := []
  dies : Table DieState := []
  ports : Table PortState := []
  stops : Table StopState := []
  homes : Table HomeState := []
  /-- Coherence messages sent and not delivered. The transport keeps no order (R188). -/
  net : List Msg := []
  /-- I/O requests and MSIs sent and not delivered, and answers on their way to harts (R183). -/
  ioReqs : List (Bool × IoMsg) := []
  msis : List MsiMsg := []
  ioAnswers : List (HartId × IoAnswer) := []
  /-- Dual-clock queues, by stop, crossing, virtual channel and direction; slots with packets on the rings; and the messages whose
  packets have set out (R186, R196). -/
  crossings : Table DualQueue := []
  /-- The answer of Mordant's last I/O access, in the entry that it reserved (R185). -/
  mordantIo : Option IoAnswer := none
  onRing : List RingSlot := []
  launched : List Packet := []
  /-- Late packets dropped per die within 1 ms (R505). -/
  drops : Table (List Word) := []
deriving DecidableEq, Repr

/-- The memory side (chapter 09). Stored bytes are listed by physical address, check bytes by line × 8 + index. -/
structure Memory where
  reqs : List MemReq := []
  /-- Reads issued to a stack, whose data has not returned. -/
  reads : List MemReq := []
  data : List Host.Cell := []
  check : List Host.Cell := []
  granules : Table Granule := []
  /-- Words of the written map whose stored code fails (R250): 1 correctable, 2 uncorrectable. -/
  mapErrs : Table Nat := []
  /-- Writes that wait for the zero fill of their granule (R248). -/
  fills : List (Nat × List MemReq) := []
  rows : Table RowState := []
  /-- The field-repair map: records of R244. -/
  repairs : List Word := []
  /-- Rows, as records of R244, whose sPPR was not acknowledged: each holds a resource until the stacks train again (R258). -/
  spprSpent : List Word := []
  channels : Table ChannelState := []
  pcFailed : Word := 0
  window : TestWindow := {}
  forget : Table ForgetQueue := []
  patrol : Table Nat := []
  /-- Line slots used in the round by pseudo-channel × 8 + class (R269). -/
  slots : Table Nat := []
  noSnoop : List Msg := []
deriving DecidableEq, Repr

/-- The hub's tenancy, interrupts, meters, engine and I/O. Interrupt files are keyed `hart × 32 + file`: 0 supervisor
level, 1 to 15 guest, 16 machine level. -/
structure Hub where
  hues : Table HueState := []
  bindings : List Binding := []
  imsic : Table ImsicFile := []
  /-- APLIC domains, two for each partition and two (24 and 25) outside Partitioned mode; the machine level's first. -/
  aplic : Table AplicDomain := []
  meters : Table MeterState := []
  /-- The set that each L3 bank samples next, keyed die × 16 + bank (R288). -/
  occSet : Table Nat := []
  ledger : LedgerState := {}
  slices : Table SliceState := []
  cells : Table (Option Cell) := []
  rootPorts : Table RootPort := []
  /-- CXL memory ports, by group (R271). -/
  cxlPorts : Table CxlPort := []
  chain : ChainState := {}
  inbound : List Inbound := []
  toDevice : List DevCpl := []
  filter : Table (Option FilterEntry) := []
  snoops : List SnoopWait := []
  cacheReqs : List CacheReq := []
  cacheOut : List CacheAns := []
  iommus : Table Iommu := []
  ioTxid : BitVec 12 := 0
  /-- Requests of the I/O agent whose timer has expired, by TXID and line: their answers are late (R192). -/
  ioLate : List (BitVec 12 × Nat) := []
deriving DecidableEq, Repr

/-- Mordant and what it manages. Mailbox 16 is the BMC's path. -/
structure Mgmt where
  mail : Table Mailbox := []
  mordant : MordantState := {}
  pdr : PdrState := {}
  store : StoreState := {}
  config : ConfigState := {}
  census : CensusState := {}
  log : ErrLog := {}
  mode : ModeState := {}
  service : ServiceState := {}
  power : PowerState := {}
  casc : CascState := {}
  unc : Table UncUnit := []
  uncFreeze : Bool := false
deriving DecidableEq, Repr

/-- The package. `now` is the time base (R458). `free` counts the free values used so far: it is the model's own field.
`pending` is the queue of commands that wait, first in, first out. -/
structure State where
  fab : Fabric := {}
  mem : Memory := {}
  hub : Hub := {}
  mgmt : Mgmt := {}
  now : Word := 0
  free : Nat := 0
  pending : List Instr := []
deriving DecidableEq, Repr

/-- The undefined cases of R509. Each is raised by the command named and is safe: the part's outcome is undefined there
(R6), and the model stops. -/
inductive Fault where
  /-- A hart request whose effective hue is FREE or RESETTING (R51). Raised by the hart access commands. -/
  | deadHue
  /-- A doorbell that makes TAIL − HEAD exceed 16 (R372). Raised by MBX_CMD_TAIL. -/
  | doorbellFull
  /-- A doorbell that moves TAIL backwards (R372). Raised by MBX_CMD_TAIL. -/
  | doorbellBack
  /-- A store to a command slot in [HEAD, TAIL) (R372). Raised by REGISTER_WRITE. -/
  | slotBusy
deriving DecidableEq, Repr

/-- Refusals. -/
inductive Refusal where
  /-- A command whose meaning is not written: safe, since the model says nothing of it. -/
  | notModelled (mnemonic : String)
deriving DecidableEq, Repr

/-- The package right after its first power-on cold reset, as shipped: PWRGOOD high, Bring-up entered (R418), every field
at its Reset value, nothing trained and nothing released. -/
def State.reset : State := {}

end Sys2Proof.Machine
end

