-- ==== Sys2Proof/Machine/Access.lean ====
section
/-! DEFINITION. One accessor and one setter for every indexed part of the state: each part has one home. -/

namespace Sys2Proof.Machine

/-- A hart, by index. -/
def State.hart (s : State) (i : Nat) : HartState := Table.get {} s.fab.harts i

/-- The state with that part replaced. -/
def State.setHart (s : State) (i : Nat) (v : HartState) : State :=
  { s with fab := { s.fab with harts := Table.put {} s.fab.harts i v } }

/-- A core, by die × 32 + logical core. -/
def State.core (s : State) (i : Nat) : CoreState := Table.get {} s.fab.cores i

/-- The state with that part replaced. -/
def State.setCore (s : State) (i : Nat) (v : CoreState) : State :=
  { s with fab := { s.fab with cores := Table.put {} s.fab.cores i v } }

/-- A compute die. -/
def State.die (s : State) (i : Nat) : DieState := Table.get {} s.fab.dies i

/-- The state with that part replaced. -/
def State.setDie (s : State) (i : Nat) (v : DieState) : State :=
  { s with fab := { s.fab with dies := Table.put {} s.fab.dies i v } }

/-- A Weld port. -/
def State.port (s : State) (i : Nat) : PortState := Table.get {} s.fab.ports i

/-- The state with that part replaced. -/
def State.setPort (s : State) (i : Nat) (v : PortState) : State :=
  { s with fab := { s.fab with ports := Table.put {} s.fab.ports i v } }

/-- A ring stop. -/
def State.stop (s : State) (i : Nat) : StopState := Table.get {} s.fab.stops i

/-- The state with that part replaced. -/
def State.setStop (s : State) (i : Nat) (v : StopState) : State :=
  { s with fab := { s.fab with stops := Table.put {} s.fab.stops i v } }

/-- A dual-clock queue. -/
def State.crossing (s : State) (i : Nat) : DualQueue := Table.get {} s.fab.crossings i

/-- The state with that part replaced. -/
def State.setCrossing (s : State) (i : Nat) (v : DualQueue) : State :=
  { s with fab := { s.fab with crossings := Table.put {} s.fab.crossings i v } }

/-- A home slice. -/
def State.home (s : State) (i : Nat) : HomeState := Table.get {} s.fab.homes i

/-- The state with that part replaced. -/
def State.setHome (s : State) (i : Nat) (v : HomeState) : State :=
  { s with fab := { s.fab with homes := Table.put {} s.fab.homes i v } }

/-- Times of packets dropped from a die. -/
def State.drop (s : State) (i : Nat) : (List Word) := Table.get [] s.fab.drops i

/-- The state with that part replaced. -/
def State.setDrop (s : State) (i : Nat) (v : (List Word)) : State :=
  { s with fab := { s.fab with drops := Table.put [] s.fab.drops i v } }

/-- A granule of the written map (R249). -/
def State.granule (s : State) (i : Nat) : Granule := Table.get .clear s.mem.granules i

/-- The state with that part replaced. -/
def State.setGranule (s : State) (i : Nat) (v : Granule) : State :=
  { s with mem := { s.mem with granules := Table.put .clear s.mem.granules i v } }

/-- A written-map word whose stored code fails: 1 correctable, 2 uncorrectable (R250). -/
def State.mapErr (s : State) (i : Nat) : Nat := Table.get 0 s.mem.mapErrs i

/-- The state with that part replaced. -/
def State.setMapErr (s : State) (i : Nat) (v : Nat) : State :=
  { s with mem := { s.mem with mapErrs := Table.put 0 s.mem.mapErrs i v } }

/-- The correction history of an HBM row. -/
def State.row (s : State) (i : Nat) : RowState := Table.get { count := 0, first := 0, last := 0, rewritten := false, retired := false } s.mem.rows i

/-- The state with that part replaced. -/
def State.setRow (s : State) (i : Nat) (v : RowState) : State :=
  { s with mem := { s.mem with rows := Table.put { count := 0, first := 0, last := 0, rewritten := false, retired := false } s.mem.rows i v } }

/-- An HBM channel, by stack × 16 + channel. -/
def State.channel (s : State) (i : Nat) : ChannelState := Table.get {} s.mem.channels i

/-- The state with that part replaced. -/
def State.setChannel (s : State) (i : Nat) (v : ChannelState) : State :=
  { s with mem := { s.mem with channels := Table.put {} s.mem.channels i v } }

/-- A forget queue. -/
def State.forget (s : State) (i : Nat) : ForgetQueue := Table.get {} s.mem.forget i

/-- The state with that part replaced. -/
def State.setForget (s : State) (i : Nat) (v : ForgetQueue) : State :=
  { s with mem := { s.mem with forget := Table.put {} s.mem.forget i v } }

/-- The next line that a stack's patrol reads. -/
def State.patrolAt (s : State) (i : Nat) : Nat := Table.get 0 s.mem.patrol i

/-- The state with that part replaced. -/
def State.setPatrolAt (s : State) (i : Nat) (v : Nat) : State :=
  { s with mem := { s.mem with patrol := Table.put 0 s.mem.patrol i v } }

/-- Slots used in the round, by pseudo-channel × 8 + class. -/
def State.slotsUsed (s : State) (i : Nat) : Nat := Table.get 0 s.mem.slots i

/-- The state with that part replaced. -/
def State.setSlotsUsed (s : State) (i : Nat) (v : Nat) : State :=
  { s with mem := { s.mem with slots := Table.put 0 s.mem.slots i v } }

/-- The lifecycle of a hue other than 0. -/
def State.hueSt (s : State) (i : Nat) : HueState := Table.get {} s.hub.hues i

/-- The state with that part replaced. -/
def State.setHueSt (s : State) (i : Nat) (v : HueState) : State :=
  { s with hub := { s.hub with hues := Table.put {} s.hub.hues i v } }

/-- An interrupt file. -/
def State.file (s : State) (i : Nat) : ImsicFile := Table.get {} s.hub.imsic i

/-- The state with that part replaced. -/
def State.setFile (s : State) (i : Nat) (v : ImsicFile) : State :=
  { s with hub := { s.hub with imsic := Table.put {} s.hub.imsic i v } }

/-- An APLIC domain. -/
def State.aplic (s : State) (i : Nat) : AplicDomain := Table.get {} s.hub.aplic i

/-- The state with that part replaced. -/
def State.setAplic (s : State) (i : Nat) (v : AplicDomain) : State :=
  { s with hub := { s.hub with aplic := Table.put {} s.hub.aplic i v } }

/-- The meter of a hue. -/
def State.meter (s : State) (i : Nat) : MeterState := Table.get {} s.hub.meters i

/-- The state with that part replaced. -/
def State.setMeter (s : State) (i : Nat) (v : MeterState) : State :=
  { s with hub := { s.hub with meters := Table.put {} s.hub.meters i v } }

/-- The set an L3 bank samples next. -/
def State.occ (s : State) (i : Nat) : Nat := Table.get 0 s.hub.occSet i

/-- The state with that part replaced. -/
def State.setOcc (s : State) (i : Nat) (v : Nat) : State :=
  { s with hub := { s.hub with occSet := Table.put 0 s.hub.occSet i v } }

/-- A compression slice. -/
def State.slice (s : State) (i : Nat) : SliceState := Table.get {} s.hub.slices i

/-- The state with that part replaced. -/
def State.setSlice (s : State) (i : Nat) (v : SliceState) : State :=
  { s with hub := { s.hub with slices := Table.put {} s.hub.slices i v } }

/-- A cell of the pool. -/
def State.cell (s : State) (i : Nat) : (Option Cell) := Table.get none s.hub.cells i

/-- The state with that part replaced. -/
def State.setCell (s : State) (i : Nat) (v : (Option Cell)) : State :=
  { s with hub := { s.hub with cells := Table.put none s.hub.cells i v } }

/-- A root port. -/
def State.rootPort (s : State) (i : Nat) : RootPort := Table.get {} s.hub.rootPorts i

/-- The state with that part replaced. -/
def State.setRootPort (s : State) (i : Nat) (v : RootPort) : State :=
  { s with hub := { s.hub with rootPorts := Table.put {} s.hub.rootPorts i v } }

/-- The CXL memory port of a group. -/
def State.cxlMem (s : State) (i : Nat) : CxlPort := Table.get {} s.hub.cxlPorts i

/-- The state with that part replaced. -/
def State.setCxlMem (s : State) (i : Nat) (v : CxlPort) : State :=
  { s with hub := { s.hub with cxlPorts := Table.put {} s.hub.cxlPorts i v } }

/-- A line of the CXL snoop filter. -/
def State.filterAt (s : State) (i : Nat) : (Option FilterEntry) := Table.get none s.hub.filter i

/-- The state with that part replaced. -/
def State.setFilterAt (s : State) (i : Nat) (v : (Option FilterEntry)) : State :=
  { s with hub := { s.hub with filter := Table.put none s.hub.filter i v } }

/-- An IOMMU instance. -/
def State.iommu (s : State) (i : Nat) : Iommu := Table.get {} s.hub.iommus i

/-- The state with that part replaced. -/
def State.setIommu (s : State) (i : Nat) (v : Iommu) : State :=
  { s with hub := { s.hub with iommus := Table.put {} s.hub.iommus i v } }

/-- A mailbox; 16 is the BMC's path. -/
def State.mbx (s : State) (i : Nat) : Mailbox := Table.get {} s.mgmt.mail i

/-- The state with that part replaced. -/
def State.setMbx (s : State) (i : Nat) (v : Mailbox) : State :=
  { s with mgmt := { s.mgmt with mail := Table.put {} s.mgmt.mail i v } }

/-- An uncore counter unit. -/
def State.uncUnit (s : State) (i : Nat) : UncUnit := Table.get {} s.mgmt.unc i

/-- The state with that part replaced. -/
def State.setUncUnit (s : State) (i : Nat) (v : UncUnit) : State :=
  { s with mgmt := { s.mgmt with unc := Table.put {} s.mgmt.unc i v } }

/-- The configuration a compute die holds. -/
def State.dieCfg (s : State) (i : Nat) : DieCfg := Table.get {} s.mgmt.config.dies i

/-- The state with that part replaced. -/
def State.setDieCfg (s : State) (i : Nat) (v : DieCfg) : State :=
  { s with mgmt := { s.mgmt with config := { s.mgmt.config with dies := Table.put {} s.mgmt.config.dies i v } } }

/-- A regulated rail. -/
def State.rail (s : State) (i : Nat) : RailState := Table.get {} s.mgmt.power.rails i

/-- The state with that part replaced. -/
def State.setRail (s : State) (i : Nat) (v : RailState) : State :=
  { s with mgmt := { s.mgmt with power := { s.mgmt.power with rails := Table.put {} s.mgmt.power.rails i v } } }

/-- A cascade link. -/
def State.cascLink (s : State) (i : Nat) : CascLink := Table.get {} s.mgmt.casc.links i

/-- The state with that part replaced. -/
def State.setCascLink (s : State) (i : Nat) (v : CascLink) : State :=
  { s with mgmt := { s.mgmt with casc := { s.mgmt.casc with links := Table.put {} s.mgmt.casc.links i v } } }

/-- A partition. -/
def State.partition (s : State) (i : Nat) : PartState := Table.get {} s.mgmt.mode.parts i

/-- The state with that part replaced. -/
def State.setPartition (s : State) (i : Nat) (v : PartState) : State :=
  { s with mgmt := { s.mgmt with mode := { s.mgmt.mode with parts := Table.put {} s.mgmt.mode.parts i v } } }

/-- DIE[d] of the live PDR: 0 in service, 1 evacuated, 2 fenced, 3 absent. -/
def State.dieStatus (s : State) (i : Nat) : Nat := Table.get 0 s.mgmt.pdr.dieSt i

/-- The state with that part replaced. -/
def State.setDieStatus (s : State) (i : Nat) (v : Nat) : State :=
  { s with mgmt := { s.mgmt with pdr := { s.mgmt.pdr with dieSt := Table.put 0 s.mgmt.pdr.dieSt i v } } }

/-- Spare physical cores of a die that are left. -/
def State.spares (s : State) (i : Nat) : (List (Fin 24)) := Table.get [22, 23] s.mgmt.pdr.spares i

/-- The state with that part replaced. -/
def State.setSpares (s : State) (i : Nat) (v : (List (Fin 24))) : State :=
  { s with mgmt := { s.mgmt with pdr := { s.mgmt.pdr with spares := Table.put [22, 23] s.mgmt.pdr.spares i v } } }

end Sys2Proof.Machine
end

