-- ==== Sys2Proof/Machine/Ops.lean ====
section
/-! DEFINITION. The shared operations: bit fields and byte order, the check codes, free values, configuration in force,
the error log, events, addresses, message sending. -/

namespace Sys2Proof.Machine

/-! ### Bits and bytes (R2, R3) -/

/-- Bits `[lo + n - 1 : lo]` of a register image, as a number. -/
def fld (w : Word) (lo n : Nat) : Nat := (w.toNat >>> lo) % 2 ^ n

/-- One bit of a register image. -/
def bit (w : Word) (i : Nat) : Bool := w.toNat.testBit i

/-- The mask of bits `[lo + n - 1 : lo]`. -/
def maskOf (lo n : Nat) : Word := BitVec.ofNat 64 ((2 ^ n - 1) <<< lo)

/-- A register image with bits `[lo + n - 1 : lo]` replaced. -/
def putFld (w : Word) (lo n v : Nat) : Word :=
  (w &&& ~~~ maskOf lo n) ||| BitVec.ofNat 64 ((v % 2 ^ n) <<< lo)

/-- `old` with the bits of `mask` taken from `new`. -/
def blend (old new mask : Word) : Word := (old &&& ~~~ mask) ||| (new &&& mask)

def bitOf (b : Bool) : Nat := if b then 1 else 0

/-- A number as `n` bytes, least significant first (R3). -/
def leBytes : Nat → Nat → Bytes
  | 0, _ => []
  | n + 1, v => BitVec.ofNat 8 v :: leBytes n (v / 256)

/-- The number that bytes spell, least significant first (R3). -/
def leNat : Bytes → Nat
  | [] => 0
  | b :: bs => b.toNat + 256 * leNat bs

/-- `n` bytes from offset `off`. -/
def sub (b : Bytes) (off n : Nat) : Bytes := (b.drop off).take n

/-- The little-endian number of `n` bytes at `off`. -/
def leAt (b : Bytes) (off n : Nat) : Nat := leNat (sub b off n)

/-- `b` with `src` written over it from offset `off`. -/
def splice (b : Bytes) (off : Nat) (src : Bytes) : Bytes :=
  b.take off ++ src ++ b.drop (off + src.length)

/-- `b` extended with zero bytes, or cut, to `n` bytes. -/
def padTo (n : Nat) (b : Bytes) : Bytes := (b ++ List.replicate n 0).take n

/-- Sixty-four zero bytes. -/
def zeroLine : Bytes := List.replicate 64 0

/-- The bytes of `new` that `mask` enables, over `old`: bit `i` of `mask` enables byte `i`. -/
def mergeMask (old new : Bytes) (mask : Word) : Bytes :=
  (List.range old.length).map fun i => if bit mask i then new.getD i 0 else old.getD i 0

/-- `size` bytes of `v` sign-extended, or zero-extended, to 64 bits. -/
def extend (size : Nat) (zext : Bool) (v : Nat) : Word :=
  if zext || v % 2 ^ (8 * size) < 2 ^ (8 * size - 1) || 8 ≤ size then BitVec.ofNat 64 (v % 2 ^ (8 * size))
  else BitVec.ofNat 64 (2 ^ 64 - (2 ^ (8 * size) - v % 2 ^ (8 * size)))

/-- The positions of the one bits of `n` below `w`, lowest first. -/
def ones (w n : Nat) : List Nat := (List.range w).filter fun i => n.testBit i

/-- How many of the low `w` bits are one. -/
def popCount (w n : Nat) : Nat := (ones w n).length

/-! ### Check codes -/

/-- One step of a reflected 32-bit CRC: eight bits of one byte. -/
def crc32cByte (c : BitVec 32) (b : Byte) : BitVec 32 :=
  (List.range 8).foldl
    (fun r _ => if r.getLsbD 0 then (r >>> 1) ^^^ 0x82F63B78#32 else r >>> 1) (c ^^^ b.zeroExtend 32)

/-- CRC-32C with the parameters of R203. -/
def crc32c (bs : Bytes) : BitVec 32 := ~~~ bs.foldl crc32cByte 0xFFFFFFFF#32

/-- CRC-64 of R394. -/
def crc64Byte (c : Word) (b : Byte) : Word :=
  (List.range 8).foldl
    (fun r _ => if r.getLsbD 63 then (r <<< 1) ^^^ 0x42F0E1EBA9EA3693#64 else r <<< 1)
    (c ^^^ (b.zeroExtend 64 <<< 56))

def crc64 (bs : Bytes) : Word := bs.foldl crc64Byte 0

/-- The sideband CRC of R200: polynomial 0x1021, initial value 0xFFFF. -/
def crcSbByte (c : BitVec 16) (b : Byte) : BitVec 16 :=
  (List.range 8).foldl
    (fun r _ => if r.getLsbD 15 then (r <<< 1) ^^^ 0x1021#16 else r <<< 1)
    (c ^^^ (b.zeroExtend 16 <<< 8))

def crcSb (bs : Bytes) : BitVec 16 := bs.foldl crcSbByte 0xFFFF#16

/-- The remainder of `n` bits of `v`, high bit first, under x^16 + x^15 + x^2 + 1 from zero (R193). -/
def ringCrcBits : Nat → Nat → BitVec 16 → BitVec 16
  | 0, _, r => r
  | n + 1, v, r =>
    ringCrcBits n v (if r.getLsbD 15 != v.testBit n then (r <<< 1) ^^^ 0x8005#16 else r <<< 1)

def ringCrc (n v : Nat) : BitVec 16 := ringCrcBits n v 0

/-! ### Free values (R7, R18) -/

/-- A free number, and the state with the counter of free values advanced. -/
def State.takeNat (s : State) : Nat × State := (Config.freeNat s.free, { s with free := s.free + 1 })

/-- A free 64-bit value. -/
def State.takeWord (s : State) : Word × State := (Config.freeWord s.free, { s with free := s.free + 1 })

/-- `n` free bytes. -/
def State.takeBytes (s : State) (n : Nat) : Bytes × State :=
  ((List.range n).map fun i => Config.freeByte (s.free + i), { s with free := s.free + n })

/-! ### Small updates of whole parts -/

def State.upFab (s : State) (f : Fabric → Fabric) : State := { s with fab := f s.fab }
def State.upMem (s : State) (f : Memory → Memory) : State := { s with mem := f s.mem }
def State.upHub (s : State) (f : Hub → Hub) : State := { s with hub := f s.hub }
def State.upMgmt (s : State) (f : Mgmt → Mgmt) : State := { s with mgmt := f s.mgmt }
def State.upMode (s : State) (f : ModeState → ModeState) : State :=
  { s with mgmt := { s.mgmt with mode := f s.mgmt.mode } }
def State.upPower (s : State) (f : PowerState → PowerState) : State :=
  { s with mgmt := { s.mgmt with power := f s.mgmt.power } }
def State.upConfig (s : State) (f : ConfigState → ConfigState) : State :=
  { s with mgmt := { s.mgmt with config := f s.mgmt.config } }
def State.upCensus (s : State) (f : CensusState → CensusState) : State :=
  { s with mgmt := { s.mgmt with census := f s.mgmt.census } }
def State.upMordant (s : State) (f : MordantState → MordantState) : State :=
  { s with mgmt := { s.mgmt with mordant := f s.mgmt.mordant } }
def State.upPdr (s : State) (f : PdrState → PdrState) : State :=
  { s with mgmt := { s.mgmt with pdr := f s.mgmt.pdr } }
def State.upStore (s : State) (f : StoreState → StoreState) : State :=
  { s with mgmt := { s.mgmt with store := f s.mgmt.store } }
def State.upService (s : State) (f : ServiceState → ServiceState) : State :=
  { s with mgmt := { s.mgmt with service := f s.mgmt.service } }
def State.upCasc (s : State) (f : CascState → CascState) : State :=
  { s with mgmt := { s.mgmt with casc := f s.mgmt.casc } }
def State.upLog (s : State) (f : ErrLog → ErrLog) : State :=
  { s with mgmt := { s.mgmt with log := f s.mgmt.log } }
def State.upLedger (s : State) (f : LedgerState → LedgerState) : State :=
  { s with hub := { s.hub with ledger := f s.hub.ledger } }

/-- Fold a function that changes the state over a list. -/
def State.forEach {α : Type} (s : State) (l : List α) (f : State → α → State) : State := l.foldl f s

/-! ### Clocks (R417, R459, R462) -/

/-- The clocks run: power is good, the package has not tripped, and the reference is present. -/
def State.clocked (s : State) : Bool :=
  s.mgmt.mode.pwrgood && !s.mgmt.mode.thermTrip && s.mgmt.mode.refclk

/-- What runs only while the clocks run: with them stopped nothing changes. -/
def live (s : State) (f : State → Host.Outcome State Fault Refusal) : Host.Outcome State Fault Refusal :=
  if s.clocked then f s else .next s

/-- The time base and Mordant run: an internal oscillator drives them when the reference is lost (R459). -/
def State.timed (s : State) : Bool := s.mgmt.mode.pwrgood && !s.mgmt.mode.thermTrip

/-- What Mordant does while its clock runs. -/
def liveMordant (s : State) (f : State → Host.Outcome State Fault Refusal) : Host.Outcome State Fault Refusal :=
  if s.timed then f s else .next s

/-- A die whose PLL has lost lock: its cores and its ring stand still (R459). -/
def State.dieStill (s : State) (d : Nat) : Bool := s.mgmt.power.diePll.any fun e => e.val = d

/-- The time base has reached a time. -/
def State.reach (s : State) (t : Word) : State := if s.now.toNat < t.toNat then { s with now := t } else s

/-! ### Indexes -/

/-- mhartid[11:0] of a hart (R38). -/
def hartIx (h : HartId) : Nat := h.die.val * 64 + h.core.val * 2 + h.thread.val

/-- The key of a hart's core. -/
def coreIx (h : HartId) : Nat := h.die.val * 32 + h.core.val

def coreKey (c : CoreId) : Nat := c.die.val * 32 + c.core.val

/-- The harts of a core. -/
def hartsOf (c : CoreId) : List HartId := [⟨c.die, c.core, 0⟩, ⟨c.die, c.core, 1⟩]

/-- The cores of a die. -/
def coresOf (d : Fin 12) : List CoreId := (List.finRange 22).map fun c => ⟨d, c⟩

/-- The harts of a die, by index. -/
def hartsOfDie (d : Fin 12) : List HartId := (coresOf d).flatMap hartsOf

/-- Whether a number is mhartid[11:0] of a hart (R38). -/
def isHartIx (i : Nat) : Bool := i / 64 < 12 && i % 64 < 44

/-- Every hart of the package. -/
def allHarts : List HartId := (List.finRange 12).flatMap hartsOfDie

/-! ### Configuration in force (R384) -/

/-- The factory default of each register (R396): the Reset column of its table. -/
def cfgDefault (r : Nat) : Word :=
  if r = 0x0100 then 0x01800001
  else if r = 0x0200 then 0x00100B08
  else if r = 0x0300 then 0x08202001
  else if r = 0x0400 then 0x0000020218001801
  else if 0x0500 ≤ r ∧ r ≤ 0x0507 then 0xFFFF008001000000
  else if r = 0x0600 then 10
  else if r = 0x0700 then 0x0A02
  else if 0x0900 ≤ r ∧ r ≤ 0x091F then (if r % 4 = 0 then 0x50 else 0x53)
  else if r = 0x1000 then 0x300FA
  else if r = 0x1100 then 0x64000258
  else if r = 0x1101 then 0x01C20064
  else 0

/-- The value of a register in force. -/
def State.cfg (s : State) (r : Nat) : Word := (Table.find s.mgmt.config.force r).getD (cfgDefault r)

/-- Put a value in force. -/
def State.setCfg (s : State) (r : Nat) (v : Word) : State :=
  s.upConfig fun c => { c with force := Table.put (cfgDefault r) c.force r v }

/-- Timeouts of RING_TMO in microseconds (R189), as compute die `d` holds them, or the hub for `d = 12`. -/
def State.ringTmo (s : State) (d : Nat) : Word := if d < 12 then (s.dieCfg d).ringTmo else s.cfg 0x0200
def State.fwdTmo (s : State) : Nat := 2 ^ fld (s.cfg 0x0200) 0 5
def State.reqTmo (s : State) (d : Nat) : Nat := 2 ^ fld (s.ringTmo d) 8 5
def State.hubReqTmo (s : State) : Nat := 2 ^ fld (s.cfg 0x0200) 8 5
def State.ioTmo (s : State) (d : Nat) : Nat := 2 ^ fld (s.ringTmo d) 16 5

/-- The class that agent `a`'s copy of the class map gives a hue (R259, R260). -/
def State.classOf (s : State) (a : Nat) (hue : BitVec 12) : BitVec 3 :=
  if a < 12 then Table.get 0 (s.dieCfg a).classes hue.toNat
  else
    let copy := if a = 12 then 0 else if a = 13 then 1 else if a ≤ 16 then a - 12 else 5
    (Table.get 0 s.mgmt.config.hubClasses hue.toNat).extractLsb' (3 * copy) 3

/-- Set the class of a hue in every copy (R264). -/
def State.setClass (s : State) (hue : Nat) (c : BitVec 3) : State :=
  let six : BitVec 18 := BitVec.ofNat 18 (c.toNat * 0x9249)
  let s := s.upConfig fun k => { k with hubClasses := Table.put 0 k.hubClasses hue six }
  s.forEach (List.range 12) fun s d =>
    let k := s.dieCfg d
    s.setDieCfg d { k with classes := Table.put 0 k.classes hue c }

/-- QOS_CLS_CFG fields (R266). -/
def State.wayMask (s : State) (c : BitVec 3) : Nat := fld (s.cfg (0x0500 + c.toNat)) 48 16
def State.hbmMin (s : State) (c : Nat) : Nat := fld (s.cfg (0x0500 + c)) 40 8
def State.hbmMax (s : State) (c : Nat) : Nat := fld (s.cfg (0x0500 + c)) 31 9
def State.cxlShare (s : State) (c : Nat) : Nat := fld (s.cfg (0x0500 + c)) 20 8
def State.trkRsv (s : State) (c : Nat) : Nat := fld (s.cfg (0x0500 + c)) 10 10
def State.ringPri (s : State) (c : Nat) : Nat := fld (s.cfg (0x0500 + c)) 3 3
def State.cePri (s : State) (c : Nat) : Nat := fld (s.cfg (0x0500 + c)) 0 3

/-! ### Mode, partitions, packages (R23, R33, R466) -/

def State.mode (s : State) : Mode := s.mgmt.mode.mode

/-- The package index: PKG_ID in a cascade, else 0 (R25). -/
def State.pkgIx (s : State) : Nat :=
  if s.mgmt.casc.members = 0 then 0 else s.mgmt.mode.straps.pkgId.val

/-- The mode that governs scope: Service stands for the mode it returns to. -/
def State.scopeMode (s : State) : Mode := if s.mode = .service then s.mgmt.mode.ret else s.mode

/-- The partition that owns a compute die, in Partitioned mode (R423). -/
def State.partOfDie (s : State) (d : Nat) : Option Nat :=
  if s.scopeMode = .partitioned then
    (List.range 12).find? fun p => bit (s.cfg (0x1210 + p)) 12 && bit (s.cfg (0x1210 + p)) d
  else none

/-- The partition that owns a root port. -/
def State.partOfPort (s : State) (r : Nat) : Option Nat :=
  if s.scopeMode = .partitioned then
    (List.range 12).find? fun p => bit (s.cfg (0x1210 + p)) 12 && bit (s.cfg (0x1230 + p)) r
  else none

/-- The partition whose block holds a hue (R261). -/
def State.partOfHue (s : State) (h : Nat) : Option Nat :=
  if s.scopeMode = .partitioned then
    (List.range 12).find? fun p =>
      bit (s.cfg (0x1210 + p)) 12 &&
        fld (s.cfg (0x1210 + p)) 16 4 * 256 ≤ h &&
        h < (fld (s.cfg (0x1210 + p)) 16 4 + fld (s.cfg (0x1210 + p)) 24 5) * 256
  else none

/-- The package index names a package that is present (R26). -/
def State.pkgPresent (s : State) (p : Nat) : Bool :=
  if s.mgmt.casc.members = 0 then p = 0
  else s.mgmt.casc.members.getLsbD p && !s.mgmt.casc.lost.getLsbD p

/-! ### Addresses (R25 to R29) -/

/-- What a physical address decodes to (R27, R29, R363). -/
inductive Region where
  | absent | pcie | flash | hbm | cxl | reserved
  | control (off : Nat)
deriving DecidableEq, Repr

/-- The enabled decoder of host bridge `b` that maps slice offset `o`, with the root port it targets (R362, R363). -/
def State.hdmTarget (s : State) (b o : Nat) : Option Nat :=
  (List.range 16).findSome? fun n =>
    let ctl := s.cfg (0x0A00 + 16 * b + n)
    let rng := s.cfg (0x0B00 + 16 * b + n)
    let base := fld rng 16 16 * 2 ^ 28
    if bit ctl 31 && base ≤ o && o < base + fld rng 0 16 * 2 ^ 28 then
      let i := ((o - base) >>> (8 + fld ctl 4 3)) % 2 ^ fld ctl 0 3
      (ones 32 (fld ctl 32 32))[i]?
    else none

/-- A root port begins at position `p` of a group with this BIFUR (R342). -/
def portBegins (bifur p : Nat) : Bool :=
  p = 0 || (p = 1 && (bifur = 3 || bifur = 4)) || (p = 2 && 1 ≤ bifur && bifur ≤ 4) || (p = 3 && (bifur = 2 || bifur = 4))

def State.portMode (s : State) (r : Nat) : Nat := fld (s.cfg (0x0900 + r)) 0 2

/-- The root port exists: a port begins there, and it is not Disabled (R343). -/
def State.isPort (s : State) (r : Nat) : Bool :=
  r < 32 && portBegins (fld (s.cfg (0x0800 + r / 4)) 0 3) (r % 4) && s.portMode r ≠ 3

/-- The address lies in the memory windows of a root port's bridge registers, with Memory Space Enable set. -/
def RootPort.window (p : RootPort) (o : Nat) : Bool :=
  let c (n : Nat) : Nat := (Table.get 0 p.config n).toNat
  let mb (v : Nat) : Nat := v / 16 % 4096 * 2 ^ 20
  (c 4).testBit 1 &&
    ((mb (c 0x20) ≤ o && o < mb (c 0x20 / 65536) + 2 ^ 20) ||
      (c 0x28 * 2 ^ 32 + mb (c 0x24) ≤ o && o < c 0x2C * 2 ^ 32 + mb (c 0x24 / 65536) + 2 ^ 20))

/-- Secondary and subordinate bus of a root port. -/
def RootPort.buses (p : RootPort) : Nat × Nat :=
  let v := (Table.get 0 p.config 0x18).toNat
  (v / 256 % 256, v / 65536 % 256)

/-- The root port whose windows hold a PCI Express address, among those of the partition where there is one (R33). `o` is the
offset PA[49:0] in the package's slice: a bridge window does not see the package index. DESIGN CHOICE, log entry 110. -/
def State.portAt (s : State) (part : Option Nat) (o : Nat) : Option Nat :=
  (List.range 32).find? fun r => s.isPort r && (part.isNone || s.partOfPort r = part) && (s.rootPort r).window o

/-- Decode a physical address as partition `part` sees it (`none`: the whole package). -/
def State.region (s : State) (part : Option Nat) (pa : Nat) : Region :=
  let o := pa % 2 ^ 50
  if 2 ^ 52 ≤ pa || !s.pkgPresent (pa / 2 ^ 50 % 4) then .absent
  else if o < 0x40000000 then pci o
  else if o < 0x70000000 then .control (o - 0x40000000)
  else if o < 0x80000000 then .flash
  else if o < 0x1880000000 then
    match part with
    | none => .hbm
    | some p => if bit (s.cfg (0x1220 + p)) ((o - 0x80000000) / 2 ^ 32) then .hbm else .reserved
  else if o < 0x10000000000 then .reserved
  else if o < 0x100000000000 then
    if pa / 2 ^ 50 % 4 = s.pkgIx then
      (match s.hdmTarget (part.getD 0) o with
       | some _ => .cxl
       | none => .reserved)
    else if Config.peerCxl (pa / 2 ^ 50 % 4) o then .cxl
    else .reserved
  else if o < 0x400000000000 then pci o
  else .reserved
where
  /-- In Partitioned mode another partition's window is reserved (R33). -/
  pci (o : Nat) : Region :=
    if part.isSome && (s.portAt part o).isNone && (s.portAt none o).isSome then .reserved else .pcie

/-- Main memory (R27). -/
def Region.isMemory : Region → Bool
  | .hbm => true
  | .cxl => true
  | _ => false

/-- The home slice of a line (R143). -/
def sliceOf (pa : Nat) : Nat :=
  let f (lo : Nat) := (pa >>> lo) % 32
  f 6 ^^^ f 12 ^^^ f 18 ^^^ f 25 ^^^ f 30 ^^^ f 35 ^^^ ((pa >>> 40) % 16)

/-- The directory set of a line (R143). -/
def dirSetOf (pa : Nat) : Nat :=
  ((pa >>> 11) % 2 ^ 14) ^^^ ((pa >>> 25) % 2 ^ 14) ^^^ ((pa >>> 39) % 2 ^ 5)

/-- Lines are numbered PA[51:6]. -/
def lineOf (pa : Nat) : Nat := pa / 64
def lineSlice (line : Nat) : Nat := sliceOf (line * 64)
def lineSet (line : Nat) : Nat := dirSetOf (line * 64)

/-- The package that homes a line (R143). -/
def lineHome (line : Nat) : Nat := line / 2 ^ 44 % 4

/-- The agent number of the home of a line, as this package reaches it: the slice, or the cascade link to the peer that
homes it (R463, R468). -/
def State.homeAgent (s : State) (line : Nat) : Nat :=
  if lineHome line = s.pkgIx then 32 + lineSlice line
  else 14 + ((lineHome line + 4 - s.pkgIx) % 4 - 1)

/-! ### The error log's hub queue (R496) -/

/-- Pass an event to Mordant through the hub queue of 1,024 entries (R496). -/
def State.logRec (s : State) (e : ErrRec) : State :=
  s.upLog fun l =>
    if l.queue.length < 1024 then { l with queue := l.queue ++ [e] } else { l with dropped := l.dropped + 1 }

/-- The owning partition of a record, or 0xFF (R497). -/
def State.partOf (s : State) (hue : BitVec 12) : Nat := (s.partOfHue hue.toNat).getD 255

/-- Log an event of a class, source, reason and unit (R495, R498, R499). -/
def State.logE (s : State) (cls : ErrClass) (src : ErrSource) (why : ErrReason) (unit : Nat)
    (addr : Nat := 0) (hue : BitVec 12 := 0) (info : Nat := 0) (aux : Nat := 0)
    (trap fence : Bool := false) : State :=
  s.logRec
    { time := s.now, last := s.now, cls := cls, source := src, reason := why, unit := unit,
      addr := BitVec.ofNat 64 addr, hue := hue, pkg := s.pkgIx, trap := trap, fence := fence,
      info := BitVec.ofNat 64 info, aux := BitVec.ofNat 32 aux,
      part := if s.scopeMode = .partitioned && hue != 0 then s.partOf hue else 255 }

/-! ### Events to the mailboxes (R374, R376, R385) -/

/-- Cells a mailbox has written and the host has not consumed, and slots reserved for accepted commands. -/
def Mailbox.inUse (m : Mailbox) : Nat := (m.rspTail - m.rspHead).toNat + m.accepted.length

/-- Write a cell into response slot TAIL mod 16 and advance TAIL (R373); the BMC's cells are sent as messages (R377). -/
def Mailbox.writeCell (m : Mailbox) (bmc : Bool) (c : RespCell) : Mailbox :=
  if bmc then { m with sent := m.sent ++ [c] }
  else { m with rspSlots := m.rspSlots.insert (m.rspTail.toNat % 16) c, rspTail := m.rspTail + 1 }

/-- Queue an event for one subscriber, or deliver it at once where a slot is free (R374). -/
def Mailbox.event (m : Mailbox) (bmc : Bool) (c : RespCell) : Mailbox :=
  match m.session with
  | none => m
  | some n =>
    if bit n.mask c.opcode && bit n.features 0 then
      if m.events.isEmpty && (bmc || m.inUse < 16) then m.writeCell bmc c
      else if m.events.length < 32 then { m with events := m.events ++ [c] }
      else { m with evtLost := true }
    else m

/-- Send event `code` with `result` to every subscriber `sees` admits (mailbox number, 16 the BMC). -/
def State.eventTo (s : State) (code : Nat) (result : Bytes) (sees : Nat → Bool) : State :=
  s.forEach (List.range 17) fun s m =>
    if sees m then
      s.setMbx m ((s.mbx m).event (m = 16)
        { opcode := code, tag := 0, event := true, status := 0, lot := s.mgmt.config.lot, detail := 0,
          result := result })
    else s

def State.event (s : State) (code : Nat) (result : Bytes) : State := s.eventTo code result fun _ => true

/-- Update the live section of the PDR as a sequence lock: GEN ends even, one update later (R388). -/
def State.pdrTouch (s : State) : State :=
  let g := s.mgmt.pdr.gen + 2
  (s.upPdr fun p => { p with gen := g }).event 9 (leBytes 8 g.toNat)

/-! ### Coherence messages -/

/-- Send a coherence message (R151, R188). -/
def State.send (s : State) (m : Msg) : State := s.upFab fun f => { f with net := f.net ++ [m] }

/-- The first transaction identifier from `t` on that none of the open transactions uses, whose answer may be late (R192). -/
def freshTxid (used : List (BitVec 12)) (t : BitVec 12) : Nat → BitVec 12
  | 0 => t
  | n + 1 => if used.contains t then freshTxid used (t + 1) n else t

/-- A delivered message leaves the transport. -/
def State.deliver (s : State) (m : Msg) : State := s.upFab fun f => { f with net := f.net.erase m }

/-! ### Meters (R285, R286) -/

/-- The lifecycle state of any hue: hue 0 is always ACTIVE (R262). -/
def State.hueLife (s : State) (h : BitVec 12) : HueSt := if h = 0 then .active else (s.hueSt h.toNat).st

/-- The meter that counts hue 0: one for the package, or one for each partition (R261). -/
def hostMeter (part : Option Nat) : Nat := match part with
  | some p => 4096 + p
  | none => 0

/-- The meter that a hue's events are charged to: none for FREE and RESETTING (R286). `part` is the partition where the
event of hue 0 arises. -/
def State.chargeTo (s : State) (h : BitVec 12) (part : Option Nat) : Option Nat :=
  if h = 0 then some (hostMeter part)
  else match s.hueLife h with
    | .active => some h.toNat
    | .draining => some h.toNat
    | .bound => some (hostMeter (s.partOfHue h.toNat))
    | _ => none

/-- Add `k` to counter `n` of the hue that the lifecycle names (R285, R286). -/
def State.charge (s : State) (h : BitVec 12) (n k : Nat) (part : Option Nat := none) : State :=
  match s.chargeTo h part with
  | none => s
  | some i =>
    let m := s.meter i
    s.setMeter i { m with counters := Table.put 0 m.counters n (Table.get 0 m.counters n + BitVec.ofNat 64 k) }

/-! ### Uncore counters (R491) -/

/-- Count `k` events of a code at a unit, for a packet of a hue and class; `filtered` is false for the events marked "No". -/
def UncUnit.count (u : UncUnit) (code k : Nat) (hue : BitVec 12) (cls : BitVec 3) (filtered : Bool) : UncUnit :=
  ((List.range 8).foldl (fun (p : UncUnit × Bool) i =>
      let ctl := Table.get 0 p.1.ctl i
      let hit :=
        if 0 < i && bit ctl 16 then bitOf p.2
        else if fld ctl 0 8 = code && (!filtered || ((!bit ctl 35 || fld ctl 36 12 = hue.toNat) &&
            (!bit ctl 31 || fld ctl 32 3 = cls.toNat))) then k else 0
      if bit ctl 18 && 0 < hit then
        let v := (Table.get 0 p.1.ctr i).toNat + hit
        let wrap := 2 ^ 48 ≤ v
        ({ p.1 with
            ctr := Table.put 0 p.1.ctr i (BitVec.ofNat 48 v),
            ovf := if wrap then p.1.ovf ||| BitVec.ofNat 8 (2 ^ i) else p.1.ovf }, wrap)
      else (p.1, false)) (u, false)).1

/-- Count events at a unit while the counters are not frozen. -/
def State.uncount (s : State) (unit code k : Nat) (hue : BitVec 12 := 0) (cls : BitVec 3 := 0)
    (filtered : Bool := true) : State :=
  if s.mgmt.uncFreeze then s else s.setUncUnit unit ((s.uncUnit unit).count code k hue cls filtered)

/-! ### Sideband frames (R200) -/

/-- Queue a frame for sending at one end of a die's sideband. A frame waits while another is unanswered. -/
def SbEnd.push (e : SbEnd) (typ : Byte) (payload : Bytes) : SbEnd :=
  match e.unacked with
  | none =>
    { e with unacked := some { typ := typ, payload := payload, seq := e.nextSeq, repeats := 0 },
             nextSeq := e.nextSeq + 1 }
  | some _ => { e with queue := e.queue ++ [(typ, payload)] }

/-- Send a frame from the hub to die `d`, or from the die to the hub, unless the sideband is lost. -/
def State.sbSend (s : State) (d : Nat) (fromHub : Bool) (typ : Byte) (payload : Bytes) : State :=
  let p := s.port d
  if p.sbLost then s
  else if fromHub then s.setPort d { p with sbHub := p.sbHub.push typ payload }
  else s.setPort d { p with sbDie := p.sbDie.push typ payload }

/-- Send HART_CTL for the harts of a bitmap: 1 HOLD, 2 RELEASE_PARKED, 3 RELEASE_RUNNING, 4 STOP, 5 RESUME (R202). -/
def State.hartCtl (s : State) (d : Nat) (op : Byte) (harts : Nat) : State :=
  s.sbSend d true 0x1B (op :: 0 :: leBytes 6 harts)

/-- DIE[d] says that the die is in service (R388). -/
def State.inService (s : State) (d : Nat) : Bool := s.dieStatus d = 0

/-- The die is fenced (R505). -/
def State.dieFenced (s : State) (d : Nat) : Bool := s.dieStatus d = 2

end Sys2Proof.Machine
end

