-- ==== Sys2Proof/Machine/Flags.lean ====
section
/-! DEFINITION. Interrupt lines and event counters: which condition holds each APLIC source and local interrupt, and how a
hart's event counters count, wrap and chain. -/

namespace Sys2Proof.Machine

/-- A standard CSR of a hart by number. -/
def HartState.getCsr (x : HartState) (n : Nat) : Word := Table.get 0 x.csr n

def HartState.setCsr (x : HartState) (n : Nat) (v : Word) : HartState := { x with csr := Table.put 0 x.csr n v }

/-- Set or clear one bit of a standard CSR. -/
def HartState.csrBit (x : HartState) (n i : Nat) (b : Bool) : HartState :=
  x.setCsr n (putFld (x.getCsr n) i 1 (bitOf b))

/-- The inhibit bit of mhpmevent for a privilege and mode (R479). -/
def inhibitBit (p : Priv) (virt : Bool) : Nat :=
  match p, virt with
  | .m, _ => 62
  | .s, false => 61
  | .u, false => 60
  | .s, true => 59
  | .u, true => 58

/-- Whether counter `n` counts an event of this privilege, mode and hue (R480). -/
def HartState.counts (x : HartState) (n : Nat) (p : Priv) (virt : Bool) (hue : BitVec 12) : Bool :=
  let e := x.getCsr (0x320 + n)
  !bit (x.getCsr 0x320) n && !bit e (inhibitBit p virt) && (!bit e 31 || fld e 32 12 = hue.toNat) &&
    !(x.run = .debug && bit (x.getCsr 0x7B0) 10)

/-- Add `k` to counter `n` and, when it wraps, set OF, with the overflow interrupt if OF was clear as Sscofpmf has it, and count the
wrap in a chained counter above it (R481, R482). `fuel` counters may follow. -/
def HartState.bump (x : HartState) (n k : Nat) : Nat → HartState
  | 0 => x
  | fuel + 1 =>
    let v := (x.getCsr (0xB00 + n)).toNat + k
    let x := x.setCsr (0xB00 + n) (BitVec.ofNat 64 v)
    if v < 2 ^ 64 then x
    else
      let x := if bit (x.getCsr (0x320 + n)) 63 then x else (x.csrBit (0x320 + n) 63 true).csrBit 0x344 13 true
      if n < 31 && bit (x.getCsr (0x320 + n + 1)) 44 && !bit (x.getCsr 0x320) (n + 1) then x.bump (n + 1) 1 fuel
      else x

/-- Count `k` core events of a code in every counter set to it (R479, R480). -/
def HartState.event (x : HartState) (code k : Nat) (st : Stamp) : HartState :=
  (List.range 29).foldl (fun x i =>
    let n := i + 3
    let e := x.getCsr (0x320 + n)
    if fld e 0 8 = code && code ≠ 0 && !(3 < n && bit e 44) && x.counts n st.priv st.virt st.hue then
      x.bump n k 29
    else x) x

/-- The flag of a sample record that the table of R484 ties to an event. -/
def eventFlag (code : Nat) : BitVec 16 :=
  if code = 0x07 then 0x8 else if code = 0x08 then 0x10 else if code = 0x09 then 0x20 else if code = 0x0C then 0x40
  else if code = 0x0E then 0x80 else if code = 0x0F then 0x100 else if code = 0x10 then 0x200 else if code = 0x11 then 0x400
  else if code = 0x12 then 0x800 else if code = 0x0D then 0x1000 else 0

/-- Count an event of a hart, and note its flag for the instruction that caused it (R485). -/
def State.hartEvent (s : State) (h : HartId) (code : Nat) (st : Stamp) : State :=
  let x := (s.hart (hartIx h)).event code 1 st
  s.setHart (hartIx h) { x with flags := x.flags ||| eventFlag code }

/-- The meter's INSTRET accumulator after one more retirement: a retirement that mcountinhibit keeps from incrementing minstret is not
counted (R285). -/
def HartState.instret (x : HartState) : Word := if bit (x.getCsr 0x320) 2 then x.accInstret else x.accInstret + 1

/-- A retirement: its slot, minstret, the event INSTRET and the meter's accumulator (R285, R287, R484, R487). -/
def HartState.retire (x : HartState) (st : Stamp) : HartState :=
  let x := x.event 0x21 1 st
  if bit (x.getCsr 0x320) 2 then x
  else ({ x.setCsr 0xB02 (x.getCsr 0xB02 + 1) with accInstret := x.instret }).event 0x02 1 st

/-- A hart may have counted CYCLES since its last send: it was not held in reset or parked (R285, R424). -/
def HartState.active (x : HartState) : Bool := x.run ≠ .held && x.run ≠ .parked

/-- Send a hart's accumulated counts to the meter of a hue (R287). The core cycles since the last send are a free number, since
the model has no core clock. -/
def State.meterSend (s : State) (h : HartId) (hue : BitVec 12) : State :=
  let (n, s) := if (s.hart (hartIx h)).active then s.takeNat else (0, s)
  let x := s.hart (hartIx h)
  let cycles := x.accCycles + BitVec.ofNat 64 n
  let steady := if bit x.cqzbpctl 0 then x.accSteady + BitVec.ofNat 64 n else x.accSteady
  let p := s.partOfDie h.die.val
  let s := ((s.charge hue 0 cycles.toNat p).charge hue 1 x.accInstret.toNat p).charge hue 15 steady.toNat p
  s.setHart (hartIx h) { x with accCycles := 0, accInstret := 0, accSteady := 0 }

/-- A hart in WFI goes on when an enabled interrupt is pending. -/
def HartState.wake (x : HartState) : HartState :=
  if x.run = .wfi && x.getCsr 0x344 &&& x.getCsr 0x304 ≠ 0 then { x with run := .running } else x

/-- The sample interrupt: VALID and IRQ_EN (R68). -/
def HartState.sampleIrq (x : HartState) : Bool := bit x.cqzsmpctl 8 && bit x.cqzsmpctl 6

end Sys2Proof.Machine
end

