-- ==== Sys2Proof/Machine/Window.lean ====
section
/-! DEFINITION. The reorder window of a hart: what an instruction is to it, dispatch and the sizes of R41 and R42, sampling (R63 to
R66), and the squash of younger instructions (R80). -/

namespace Sys2Proof.Machine

/-! ### Kinds of instruction -/

/-- Still speculative when it executed (R80). -/
def HartOp.isSpec : HartOp → Bool
  | .load a _ _ _ => a.spec
  | .store a _ _ => a.spec
  | .amo a _ _ _ _ => a.spec
  | .lr a _ => a.spec
  | .sc a _ _ => a.spec
  | .cbo _ a => a.spec
  | .zero a => a.spec
  | .hint _ a => a.spec
  | .fetch _ sp => sp
  | _ => false

/-- The same instruction, still speculative. -/
def HartOp.asSpec : HartOp → HartOp
  | .load a rd z c => .load { a with spec := true } rd z c
  | .store a v c => .store { a with spec := true } v c
  | .amo a o b c rd => .amo { a with spec := true } o b c rd
  | .lr a rd => .lr { a with spec := true } rd
  | .sc a v rd => .sc { a with spec := true } v rd
  | .cbo k a => .cbo k { a with spec := true }
  | .zero a => .zero { a with spec := true }
  | .hint k a => .hint k { a with spec := true }
  | .fetch va _ => .fetch va true
  | o => o

/-- A fetch is the front end's, and no instruction. -/
def HartOp.isFetch : HartOp → Bool
  | .fetch _ _ => true
  | _ => false

def HartOp.isHint : HartOp → Bool
  | .hint _ _ => true
  | .fetch _ _ => true
  | _ => false

/-- Instructions that nothing younger is dispatched behind until they end: fences, and what changes the state under which the
next instruction executes (R46, R76, R82, R107). -/
def HartOp.isSerial : HartOp → Bool
  | .fence => true
  | .fenceI => true
  | .sfence _ => true
  | .hfenceV _ => true
  | .hfenceG _ => true
  | .invalIr => true
  | .wInval => true
  | .sinval _ _ => true
  | .wfi => true
  | .csr _ _ => true
  | .bpFlush _ => true
  | _ => false

/-- It takes a load-queue entry. -/
def HartOp.isLoad : HartOp → Bool
  | .load _ _ _ _ => true
  | .lr _ _ => true
  | _ => false

/-- It takes a store-queue entry. -/
def HartOp.isStore : HartOp → Bool
  | .store _ _ _ => true
  | .amo _ _ _ _ _ => true
  | .sc _ _ _ => true
  | .cbo _ _ => true
  | .zero _ => true
  | _ => false

/-- It writes an integer register, and so takes a physical one. -/
def HartOp.writesInt : HartOp → Bool
  | .load _ rd _ c => rd.val ≠ 0 && (match c with
    | .float => false
    | .vector _ _ => false
    | _ => true)
  | .amo _ _ _ _ rd => rd.val ≠ 0
  | .lr _ rd => rd.val ≠ 0
  | .sc _ _ rd => rd.val ≠ 0
  | _ => false

/-- It writes a floating-point or vector register. -/
def HartOp.writesWide : HartOp → Bool
  | .load _ _ _ .float => true
  | .load _ _ _ (.vector _ _) => true
  | _ => false

/-- The first data access of an operation. -/
def HartOp.addr : HartOp → Word
  | .load a _ _ _ => a.va
  | .store a _ _ => a.va
  | .amo a _ _ _ _ => a.va
  | .lr a _ => a.va
  | .sc a _ _ => a.va
  | .cbo _ a => a.va
  | .zero a => a.va
  | .hint _ a => a.va
  | _ => 0

/-- It makes a data access. -/
def HartOp.accesses (o : HartOp) : Bool := o.isLoad || o.isStore || (o.isHint && !o.isFetch)

/-- Flags 2, 14 and 15: a branch that redirected fetch, and the kind of instruction (R66, R485). -/
def HartOp.kindFlags (o : HartOp) : Nat :=
  if o.isLoad then 2 ^ 15 else if o.isStore then 2 ^ 14 else if o = .branch true then 2 ^ 2 else 0

/-- Physical address of each part, once the checks are passed. -/
def Waiting.pas (w : Waiting) : List Nat := w.parts.map Part.pa

/-- The lines of an operation's parts. -/
def Waiting.lines (w : Waiting) : List Nat := w.pas.map lineOf

/-- An instruction that waits may still raise an exception, so that every younger one is speculative (R80): a store or a
cache-block operation only until it has passed its checks (R62). -/
def Waiting.canTrap (w : Waiting) : Bool :=
  !w.op.isSpec && (match w.op with
    | .store _ _ _ => w.parts.isEmpty
    | .cbo _ _ => w.parts.isEmpty
    | .zero _ => w.parts.isEmpty
    | .hint _ _ => false
    | .branch _ => false
    | .fence => false
    | .fenceI => false
    | _ => true)

/-! ### Sizes (R41, R42) -/

/-- The hart takes part in the split of its core's structures: it is neither held in reset or parked nor stopped in WFI. -/
def HartState.runnable (x : HartState) : Bool := x.run ≠ .held && x.run ≠ .parked && x.run ≠ .wfi

/-- The other hart of a core. -/
def siblingOf (h : HartId) : HartId := { h with thread := h.thread + 1 }

/-- How many harts share the core's structures. -/
def State.sharers (s : State) (h : HartId) : Nat := if (s.hart (hartIx (siblingOf h))).runnable then 2 else 1

/-- The instructions of a hart that have been dispatched and have not ended. -/
def HartState.inWindow (x : HartState) : List HartOp :=
  (x.waiting.map Waiting.op).filter (!·.isFetch) ++ x.specDone.map fun d => d.w.op

/-- An instruction finds an entry of the reorder window and of its queue, split between runnable harts, and a physical register
beside the architectural ones of both harts: 31 integer ones each, and 32 floating-point and 32 vector ones each (log entry 102). -/
def State.hasRoom (s : State) (h : HartId) (op : HartOp) : Bool :=
  let mine := (s.hart (hartIx h)).inWindow
  let both := mine ++ (s.hart (hartIx (siblingOf h))).inWindow
  let n := s.sharers h
  let under (used size : Nat) : Bool := used < size
  under mine.length (320 / n) && (!op.isLoad || under (mine.filter HartOp.isLoad).length (128 / n)) &&
    (!op.isStore || under (mine.filter HartOp.isStore).length (96 / n)) &&
    (!op.writesInt || under (both.filter HartOp.writesInt).length (288 - 2 * 31)) &&
    (!op.writesWide || under (both.filter HartOp.writesWide).length (192 - 2 * 64))

/-- The next instruction of the hart can be dispatched. A fetch needs no room. -/
def State.mayDispatch (s : State) (h : HartId) (op : HartOp) : Bool :=
  let x := s.hart (hartIx h)
  (x.run = .running || x.run = .debug) && !(x.waiting.any fun w => w.op.isSerial) && (op.isFetch || s.hasRoom h op)

/-! ### Sampling (R63 to R66) -/

/-- Sampling runs for instructions of a privilege and mode. -/
def HartState.sampling (x : HartState) (p : Priv × Bool) : Bool :=
  let on (i : Nat) : Bool := bit x.cqzsmpctl i
  on 0 && x.run = .running && (match p.1, p.2 with
    | .m, _ => false
    | .s, false => on 2
    | .u, false => on 3
    | .s, true => on 4
    | .u, true => on 5)

/-- An eligible instruction is dispatched: whether it is the sampled one. A new distance, from 2^(PERIOD + 8) to
2^(PERIOD + 9) − 1 eligible instructions, is a free choice (R63). -/
def State.chooseSample (s : State) (h : HartId) (p : Priv × Bool) : Bool × State :=
  let x := s.hart (hartIx h)
  if !x.sampling p then (false, s)
  else match x.smpLeft with
    | some 0 => (true, s.setHart (hartIx h) { x with smpLeft := none })
    | some (n + 1) => (false, s.setHart (hartIx h) { x with smpLeft := some n })
    | none =>
      let (n, s) := s.takeNat
      let base := 2 ^ (fld x.cqzsmpctl 12 4 + 8)
      (false, s.setHart (hartIx h) { s.hart (hartIx h) with smpLeft := some (base + n % base - 2) })

/-- An instruction has retired, raised an exception or been squashed: if it is the sampled one its record is complete, unless
one is valid already (R63 to R65). Latencies are free values (log entry 24); that of a data access is zero without one. -/
def State.endSample (s : State) (h : HartId) (w : Waiting) (ends : Nat) : State :=
  let x := s.hart (hartIx h)
  if !w.sample then s
  else if bit x.cqzsmpctl 8 then s.setHart (hartIx h) { x with cqzsmpctl := putFld x.cqzsmpctl 7 1 1 }
  else
    let (lat, s) := s.takeWord
    let events := (w.flags.toNat ||| ends) ||| w.op.kindFlags
    let privBits := if w.stamp.from_.1 = .u then 0 else 1
    let info := BitVec.ofNat 64 (w.stamp.hue.toNat * 2 ^ 52 + bitOf w.stamp.from_.2 * 2 ^ 48 + privBits * 2 ^ 46 +
      events * 2 ^ 16 + fld lat 0 16)
    let mem := if w.op.accesses then fld lat 16 16 else 0
    s.setHart (hartIx h)
      ({ x with cqzsmpinfo := info, cqzsmppc := w.stamp.pc, cqzsmpaddr := w.op.addr,
                cqzsmplat := BitVec.ofNat 64 (mem * 2 ^ 16 + fld lat 32 16), cqzsmpctl := putFld x.cqzsmpctl 8 1 1 }.csrBit 0x344 48
        (bit x.cqzsmpctl 6))

/-! ### Dispatch -/

/-- An instruction is dispatched: it is counted, and may be chosen as the sample. One that was dispatched while speculative keeps
what it had (R484, R487), and the branches before it are resolved. -/
def State.dispatch (s : State) (h : HartId) (op : HartOp) (st : Stamp) : Waiting × State :=
  let x := s.hart (hartIx h)
  if op.isFetch then ({ op := op, stamp := st }, s)
  else match x.specDone.find? fun d => !op.isSpec && d.w.op = op.asSpec with
    | some d =>
      ({ op := op, stamp := st, sample := d.w.sample, flags := d.w.flags },
        s.setHart (hartIx h)
          { x with specDone := x.specDone.erase d,
                   specStores := match op with
                     | .store a _ _ => x.specStores.eraseP fun p => p.va = a.va && p.size = a.size
                     | _ => x.specStores
                   checkpoints := x.checkpoints.filter fun k => d.w.stamp.branch < k.number })
    | none =>
      let (pick, s) := s.chooseSample h st.from_
      ({ op := op, stamp := st, sample := pick }, s.setHart (hartIx h) ((s.hart (hartIx h)).event 0x03 1 st))

/-! ### Squash (R80, R82) -/

/-- Dispatched instructions are squashed: each is counted with its slot, and ends its sample. -/
def State.squashed (s : State) (h : HartId) (gone : List Waiting) : State :=
  s.forEach (gone.filter fun w => !w.op.isFetch) fun s w =>
    let x := ((s.hart (hartIx h)).event 0x04 1 w.stamp).event 0x22 1 w.stamp
    (s.setHart (hartIx h) x).endSample h w 2

/-- The hart without its speculative instructions: their accesses, stores, walk and fetch. -/
def HartState.withoutSpec (x : HartState) : HartState :=
  { x with waiting := x.waiting.filter (fun w => !w.op.isSpec), specStores := [], specDone := [],
           front := x.front.filter (fun o => !o.op.isSpec), fetchStall := none,
           walk := if x.walk.any (·.spec) then none else x.walk }

/-- The hart without its speculative instructions that were fetched after branch `n`. -/
def HartState.withoutAfter (x : HartState) (n : Nat) : HartState :=
  { x with waiting := x.waiting.filter (fun w => !(w.op.isSpec && n ≤ w.stamp.branch)),
           specDone := x.specDone.filter (fun d => !(n ≤ d.w.stamp.branch)),
           specStores := x.specStores.filter (fun p => !(n ≤ p.branch)),
           front := x.front.filter (fun o => !(o.op.isSpec && n ≤ o.branch)), fetchStall := none,
           walk := if x.walk.any (fun w => w.spec && n ≤ w.stamp.branch) then none else x.walk,
           checkpoints := x.checkpoints.filter fun k => k.number < n }

/-- Squash the speculative instructions that were fetched after branch `n`. -/
def State.squashAfter (s : State) (h : HartId) (n : Nat) : State :=
  let x := s.hart (hartIx h)
  let gone := (x.waiting.filter (fun w => w.op.isSpec) ++ x.specDone.map SpecDone.w).filter fun w => n ≤ w.stamp.branch
  (s.setHart (hartIx h) (x.withoutAfter n)).squashed h gone

/-- Squash a hart's speculative instructions. -/
def State.squash (s : State) (h : HartId) : State :=
  let x := s.hart (hartIx h)
  let gone := x.waiting.filter (fun w => w.op.isSpec) ++ x.specDone.map SpecDone.w
  (s.setHart (hartIx h) x.withoutSpec).squashed h gone

end Sys2Proof.Machine
end

