-- ==== Sys2Proof/Machine/Trap.lean ====
section
/-! DEFINITION. What a hart's access carries, taking an exception, and the PMP check. -/

namespace Sys2Proof.Machine

/-- The effective hue of an instruction of the hart (R49). -/
def HartState.hue (x : HartState) : BitVec 12 :=
  if x.run = .debug || x.priv = .m then 0
  else if x.virt || bit x.cqzhue 16 then x.cqzhue.extractLsb' 0 12
  else 0

/-- What a data access executed now keeps: MPRV makes MPP and MPV effective for its checks (R60), and HLV and HSV access
memory as though V = 1, at the privilege of hstatus.SPVP. -/
def HartState.stamp (x : HartState) (hv : Bool := false) : Stamp :=
  let m := x.getCsr 0x300
  let mprv := bit m 17 && x.priv = .m
  let mpp : Priv := if fld m 11 2 = 0 then .u else if fld m 11 2 = 1 then .s else .m
  { hue := x.hue, keyr := x.cqzkeyr, pc := x.pc, from_ := (x.priv, x.virt), branch := x.branches,
    priv := if hv then (if bit (x.getCsr 0x600) 8 then .s else .u) else if mprv then mpp else x.priv,
    virt := if hv then true else if mprv then mpp ≠ .m && bit m 39 else x.virt }

/-- What an instruction fetch keeps. -/
def HartState.fetchStamp (x : HartState) : Stamp :=
  { hue := x.hue, keyr := x.cqzkeyr, pc := x.pc, from_ := (x.priv, x.virt), branch := x.branches, priv := x.priv, virt := x.virt }

/-- What an instruction executed now keeps. -/
def HartState.stampOf (x : HartState) (q : Fetched) : Stamp :=
  let st := match q.op with
    | .load a _ _ _ => x.stamp a.hv
    | .store a _ _ => x.stamp a.hv
    | .fetch _ _ => x.fetchStamp
    | _ => x.stamp
  { st with pc := q.pc, branch := q.branch }

/-- Where an exception is taken: M, HS or VS, by medeleg and hedeleg; exception 19 never reaches VS-mode directly (R503). -/
inductive TrapTo where
  | m | hs | vs
deriving DecidableEq, Repr

def HartState.trapTo (x : HartState) (cause : Nat) : TrapTo :=
  if x.priv = .m || !bit (x.getCsr 0x302) cause then .m
  else if x.virt && cause ≠ 19 && bit (x.getCsr 0x602) cause then .vs
  else .hs

def privCode : Priv → Nat
  | .u => 0
  | .s => 1
  | .m => 3

/-- Take an exception precisely: the saved pc, cause and trap values, the status stack, the mode and the handler's
address of the level the exception goes to. -/
def HartState.takeTrap (x : HartState) (t : TrapInfo) : HartState :=
  let c := BitVec.ofNat 64 t.cause
  let base (v : Word) : Word := v &&& ~~~ (3 : Word)
  let x := x.event 0x14 1 x.fetchStamp
  match x.trapTo t.cause with
  | .m =>
    let st := x.getCsr 0x300
    let st := putFld st 7 1 (fld st 3 1)
    let st := putFld (putFld (putFld (putFld st 3 1 0) 11 2 (privCode x.priv)) 39 1 (bitOf x.virt)) 38 1 (bitOf t.gva)
    let x := (((((x.setCsr 0x300 st).setCsr 0x341 x.pc).setCsr 0x342 c).setCsr 0x343 t.tval).setCsr 0x34B t.htval).setCsr
      0x34A t.htinst
    { x with priv := .m, virt := false, pc := base (x.getCsr 0x305) }
  | .hs =>
    let st := x.getCsr 0x300
    let st := putFld st 5 1 (fld st 1 1)
    let st := putFld (putFld st 1 1 0) 8 1 (bitOf (x.priv = .s))
    let hs := x.getCsr 0x600
    let hs := putFld (putFld hs 7 1 (bitOf x.virt)) 6 1 (bitOf t.gva)
    let hs := if x.virt then putFld hs 8 1 (bitOf (x.priv = .s)) else hs
    let x := ((((((x.setCsr 0x300 st).setCsr 0x600 hs).setCsr 0x141 x.pc).setCsr 0x142 c).setCsr 0x143 t.tval).setCsr
      0x643 t.htval).setCsr 0x64A t.htinst
    { x with priv := .s, virt := false, pc := base (x.getCsr 0x105) }
  | .vs =>
    let st := x.getCsr 0x200
    let st := putFld st 5 1 (fld st 1 1)
    let st := putFld (putFld st 1 1 0) 8 1 (bitOf (x.priv = .s))
    let x := (((x.setCsr 0x200 st).setCsr 0x241 x.pc).setCsr 0x242 c).setCsr 0x243 t.tval
    { x with priv := .s, virt := true, pc := base (x.getCsr 0x205) }

/-- The hart at an instruction, with nothing younger: its history is that of the first branch fetched after it (R71, R80). -/
def HartState.restartAt (x : HartState) (pc : Word) : HartState :=
  { x.withoutSpec with pc := pc, front := [], walk := none, checkpoints := [],
                       history := ((x.checkpoints.head?).map Checkpoint.history).getD x.history }

/-- The hart takes an exception of an instruction, with which every younger instruction goes (R80). Its accumulated counts go to the
meter of the hue it leaves (R287). -/
def State.trap (s : State) (h : HartId) (st : Stamp) (t : TrapInfo) : State :=
  let s := s.squash h
  let s := s.setHart (hartIx h) ((s.hart (hartIx h)).restartAt st.pc)
  let x := s.hart (hartIx h)
  let s := if (x.takeTrap t).hue = x.hue then s else s.meterSend h x.hue
  s.setHart (hartIx h) ((s.hart (hartIx h)).takeTrap t)

/-- UNIT and INFO of a record of a core block (R498). -/
def coreUnit (h : HartId) : Nat := h.die.val * 32 + h.core.val

def State.coreInfo (s : State) (h : HartId) : Nat := hartIx h + (s.core (coreIx h)).phys.val * 65536

/-- Raise the hardware-error exception 19 with its record (R503). -/
def State.hardwareError (s : State) (h : HartId) (st : Stamp) (va : Word) (pa : Nat) (why : ErrReason) : State :=
  let s := s.logE .uncorrected .core why (coreUnit h) (pa / 64 * 64) st.hue (s.coreInfo h) 19 (trap := true)
  s.trap h st { cause := 19, tval := va, gva := st.virt }

/-- Cause numbers of the standard access, page and guest-page faults, by access type (R109). -/
def accessCause : AccType → Nat
  | .fetch => 1
  | .load => 5
  | .store => 7

def pageCause : AccType → Nat
  | .fetch => 12
  | .load => 13
  | .store => 15

def guestCause : AccType → Nat
  | .fetch => 20
  | .load => 21
  | .store => 23

/-! ### PMP (R34, R93) -/

/-- The range of PMP entry `i`: none when it is off, or NA4, which a grain of 4 KiB does not offer. -/
def HartState.pmpRange (x : HartState) (i : Nat) : Option (Nat × Nat) :=
  let cfg := fld (x.getCsr (0x3A0 + i / 8 * 2)) (8 * (i % 8)) 8
  let a := (x.getCsr (0x3B0 + i)).toNat % 2 ^ 54
  match cfg / 8 % 4 with
  | 1 =>
    let lo := if i = 0 then 0 else (x.getCsr (0x3B0 + i - 1)).toNat % 2 ^ 54 / 1024 * 4096
    some (lo, a / 1024 * 4096)
  | 3 =>
    let a := a ||| 0x1FF
    let t := ((List.range 54).find? fun k => !a.testBit k).getD 54
    let size := 2 ^ (t + 3)
    some (a * 4 / size * size, a * 4 / size * size + size)
  | _ => none

/-- Rights that a matching entry's bits give at a privilege, by Smepmp's rules. -/
def pmpRights (cfg : Nat) (mml machine : Bool) (acc : AccType) : Bool :=
  let r := cfg.testBit 0
  let w := cfg.testBit 1
  let x := cfg.testBit 2
  let l := cfg.testBit 7
  let plain := match acc with
    | .fetch => x
    | .load => r
    | .store => w
  if mml then
    if !r && w then
      if l then
        (match acc with
         | .fetch => true
         | .load => x && machine
         | .store => false)
      else
        (match acc with
         | .fetch => false
         | .load => true
         | .store => machine || x)
    else if l && r && w && x then acc = .load
    else if machine = l then plain else false
  else if machine && !l then true else plain

/-- The PMP check of an access of `size` bytes (R93): the first entry that matches any byte decides. -/
def HartState.pmpOk (x : HartState) (p : Priv) (pa size : Nat) (acc : AccType) : Bool :=
  let sec := x.getCsr 0x747
  let hit := (List.range 64).findSome? fun i =>
    match x.pmpRange i with
    | none => none
    | some (lo, hi) =>
      if lo ≤ pa && pa + size ≤ hi then
        some (pmpRights (fld (x.getCsr (0x3A0 + i / 8 * 2)) (8 * (i % 8)) 8) (bit sec 0) (p = .m) acc)
      else if lo < pa + size && pa < hi then some false
      else none
  hit.getD (p = .m && !bit sec 1 && !(bit sec 0 && acc = .fetch))

end Sys2Proof.Machine
end

