-- ==== Sys2Proof/Machine/Imsic.lean ====
section
/-! DEFINITION. Interrupt files and the writes that reach them (R272 to R277), and the MSIs that the package writes (R527). -/

namespace Sys2Proof.Machine

/-- Where a hart released running, or woken from the parked state, fetches its first instruction (R424). -/
def State.resetVector (s : State) : Word :=
  if s.mgmt.casc.members = 0 then 0x70000000
  else BitVec.ofNat 64 (s.mgmt.casc.master.val * 2 ^ 50 + 0x70000000)

/-- The interrupt file whose page holds an offset of the IMSIC window (R272): hart × 32 + file, 16 the machine level. -/
def fileAt (off : Nat) : Option Nat :=
  if off < 0x300000 then
    (if isHartIx (off / 0x1000) then some (off / 0x1000 * 32 + 16) else none)
  else if 0x1000000 ≤ off && off < 0x4000000 then
    let i := (off - 0x1000000) / 0x10000
    if isHartIx i then some (i * 32 + (off - 0x1000000) % 0x10000 / 0x1000) else none
  else none

/-- The file that a physical address of this package names, as partition `part` sees it (R33). -/
def State.filePage (s : State) (part : Option Nat) (pa : Nat) : Option Nat :=
  match s.region part pa with
  | .control off =>
    if pa / 2 ^ 50 % 4 ≠ s.pkgIx then none
    else if 0x4000000 ≤ off && off < 0x8000000 then
      (match fileAt (off - 0x4000000) with
       | some k => if part.isNone || s.partOfDie (k / 2048) = part then some k else none
       | none => none)
    else none
  | _ => none

/-- The address names an interrupt file, of this package or of another member of the cascade, whose file it is to take or not (R25). -/
def State.msiPage (s : State) (part : Option Nat) (pa : Nat) : Bool :=
  (s.filePage part pa).isSome || match s.region part pa with
    | .control off =>
      pa / 2 ^ 50 % 4 ≠ s.pkgIx && 0x4000000 ≤ off && off < 0x8000000 && (fileAt (off - 0x4000000)).isSome
    | _ => false

/-- The identities that a file delivers: pending, enabled, and under the threshold. -/
def ImsicFile.delivers (f : ImsicFile) : BitVec 2048 :=
  let under := if f.eithreshold = 0 then f.eip &&& f.eie
    else f.eip &&& f.eie &&& BitVec.ofNat 2048 (2 ^ min f.eithreshold.toNat 2048 - 1)
  if f.eidelivery = 1 then under else 0

def ImsicFile.line (f : ImsicFile) : Bool := f.delivers ≠ 0

/-- The hart whose mhartid[11:0] is `i`. -/
def hartOfIx (i : Nat) : HartId := ⟨Fin.ofNat 12 (i / 64), Fin.ofNat 22 (i % 64 / 2), Fin.ofNat 2 i⟩

/-- The external interrupts of a hart follow its files: MEIP, SEIP, hgeip, SGEIP and VSEIP. -/
def State.fileLines (s : State) (i : Nat) : State :=
  let x := s.hart i
  let g := BitVec.ofNat 64 (((List.range 16).filter fun g => 0 < g && (s.file (i * 32 + g)).line).foldl (fun n g => n + 2 ^ g) 0)
  let vgein := fld (x.getCsr 0x600) 12 6
  let x := (x.setCsr 0xE12 g).csrBit 0x344 11 (s.file (i * 32 + 16)).line
  let x := x.csrBit 0x344 9 ((s.file (i * 32)).line || bit (x.getCsr 0x309) 9)
  let x := x.csrBit 0x344 12 (g &&& x.getCsr 0x607 ≠ 0)
  let x := x.csrBit 0x344 10 (bit (x.getCsr 0x645) 10 || (0 < vgein && bit g vgein))
  s.setHart i x.wake

/-- Enter Debug mode: dpc, and dcsr with the cause, the privilege and V (Sdext). PRESUMED -/
def HartState.enterDebug (x : HartState) (cause : Nat) : HartState :=
  let prv := match x.priv with
    | .m => 3
    | .s => 1
    | .u => 0
  let d := putFld (putFld (putFld (x.getCsr 0x7B0) 6 3 cause) 0 2 prv) 5 1 (bitOf x.virt)
  { (x.setCsr 0x7B0 d).setCsr 0x7B1 x.pc with run := .debug }

/-- A hart fetches from the reset vector; with BOOT_SEL DEBUG_HALT it enters Debug mode first (R416, R424). -/
def State.startHart (s : State) (i : Nat) : State :=
  let x := { s.hart i with run := .running, pc := s.resetVector, priv := .m, virt := false }
  s.setHart i (if s.mgmt.mode.straps.bootSel = 2 then x.enterDebug 3 else x)

/-- A parked hart leaves the parked state when an identity becomes pending in its machine-level file (R424). -/
def State.unpark (s : State) (i : Nat) : State :=
  let x := s.hart i
  if x.run = .parked then s.startHart i else s

/-- An accepted 4-byte write that names an identity (R275, R276): a newly pending identity is an interrupt delivered. -/
def State.setPending (s : State) (key id : Nat) : State :=
  let f := s.file key
  if id = 0 || 2047 < id || f.eip.getLsbD id then s
  else
    let i := key / 32
    let s := s.setFile key { f with eip := f.eip ||| BitVec.ofNat 2048 (2 ^ id) }
    let s := if key % 32 = 16 then s.unpark i else s
    let s := s.charge (f.owner.getD 0) 13 1 (s.partOfDie (i / 64))
    s.fileLines i

/-- Who may write a file (R275). -/
def ImsicFile.accepts (f : ImsicFile) (guest : Bool) (hue : BitVec 12) : Bool :=
  !guest || hue = 0 || f.owner = some hue

/-- Bytes reversed, as seteipnum_be reads its value. -/
def swap32 (v : Nat) : Nat := leNat (leBytes 4 v).reverse

/-- A 4-byte write at offset `off` of a file's page: seteipnum_le at 0x000, seteipnum_be at 0x004, and nothing elsewhere. -/
def State.fileWrite4 (s : State) (key off v : Nat) (hue : BitVec 12) : State :=
  let f := s.file key
  let g := key % 32
  let id := if off = 4 then swap32 v else v
  if 4 < off then s
  else if f.accepts (0 < g && g < 16) hue then s.setPending key id
  else
    s.logE .hue .hue .hueViolation hue.toNat 0 hue (key / 32 + (if g < 16 then g * 4096 else 65536)) id

/-- A write of 4 or 8 bytes to a file page; 8 bytes act as two writes of 4, the lower first (R272). -/
def State.fileWrite (s : State) (key off size : Nat) (v : Word) (hue : BitVec 12) : State :=
  if size = 8 then
    (s.fileWrite4 key off (fld v 0 32) hue).fileWrite4 key (off + 4) (fld v 32 32) hue
  else s.fileWrite4 key off (fld v 0 32) hue

/-- An MSI that the package itself writes (R527): 4 bytes, to a page of a present hart of the scope, or else nothing and a
record. -/
def State.packageMsi (s : State) (addr : Option Nat) (data : BitVec 32) (hue : BitVec 12) (part : Option Nat)
    (src : ErrSource) (unit : Nat) (configured : Word) : State :=
  match addr with
  | some pa =>
    if pa % 4 = 0 && (s.filePage part pa).isSome then
      s.upFab fun f => { f with msis := f.msis ++ [{ pa := pa, size := 4, value := data.zeroExtend 64, hue := hue }] }
    else s.logE .uncorrected src .unsupported unit configured.toNat hue
  | none => s.logE .uncorrected src .unsupported unit configured.toNat hue

/-- Clear a guest file (R277). -/
def State.clearFile (s : State) (key : Nat) (owner : Option (BitVec 12)) : State :=
  (s.setFile key { owner := owner }).fileLines (key / 32)

end Sys2Proof.Machine
end

