-- ==== Sys2Proof/Machine/Aplic.lean ====
section
/-! DEFINITION. The APLIC (R273, R274, R371, R502), by the RISC-V Advanced Interrupt Architecture. PRESUMED, log entry 33. -/

namespace Sys2Proof.Machine

/-! ### Sources -/

/-- A root port's hot-plug interrupt: an enabled Slot Status bit, with hot-plug interrupts enabled (R358). It uses INTA. -/
def RootPort.hotIrq (p : RootPort) : Bool :=
  p.slotCtl.getLsbD 5 &&
    ((p.slotCtl &&& p.slotSts &&& 0x1F) ≠ 0 || (p.slotCtl.getLsbD 12 && p.slotSts.getLsbD 8))

/-- Records not yet acknowledged that a viewer of partition `p` (`none`: everyone) sees, of the classes given. -/
def State.unackedOf (s : State) (p : Option Nat) (cs : List ErrClass) : Bool :=
  s.mgmt.log.slots.any fun e => cs.contains e.2.cls && (p.isNone || p = some e.2.part)

/-- Whether a source is asserted, as partition `p` sees it. -/
def State.aplicLine (s : State) (p : Option Nat) (n : Nat) : Bool :=
  if 1 ≤ n && n ≤ 128 then
    let r := (n - 1) / 4
    (p.isNone || s.partOfPort r = p) &&
      ((s.rootPort r).intx.getLsbD ((n - 1) % 4) || ((n - 1) % 4 = 0 && (s.rootPort r).hotIrq))
  else if 129 ≤ n && n ≤ 144 then
    let m := s.mbx (n - 129)
    (p.isNone || p = some (n - 129)) && m.irqEn && m.rspTail != m.rspHead
  else if n = 145 then s.unackedOf p [.uncorrected, .fatal]
  else if n = 146 then s.unackedOf p [.recovered]
  else if n = 147 then s.unackedOf p [.corrected]
  else if n = 148 then s.unackedOf p [.partner]
  else if n = 149 then s.unackedOf p [.hue, .discard]
  else if n = 150 then s.unackedOf p [.notice]
  else if n = 151 then s.mgmt.unc.any fun u => (p.isNone || (u.1 < 12 && s.partOfDie u.1 = p)) && (List.range 8).any fun k =>
    u.2.ovf.getLsbD k && bit (Table.get 0 u.2.ctl k) 17
  else if n = 152 then 16384 - s.mgmt.log.slots.length < 1024
  else false

/-- Source mode of a source in a domain: inactive 0, detached 1, rising edge 4, falling edge 5, high level 6, low level 7. A
delegated source of the machine-level domain is inactive there. -/
def AplicDomain.mode (d : AplicDomain) (n : Nat) : Nat :=
  let c := Table.get 0 d.sourcecfg n
  if c.getLsbD 10 then 0 else c.toNat % 8

/-- A source's rectified input. -/
def AplicDomain.input (d : AplicDomain) (n : Nat) (level : Bool) : Bool :=
  let m := d.mode n
  if m = 4 || m = 6 then level else if m = 5 || m = 7 then !level else false

/-- A bit of a source set, written. -/
def putBit (b : BitVec 192) (n : Nat) (v : Bool) : BitVec 192 :=
  if v then b ||| BitVec.ofNat 192 (2 ^ n) else b &&& ~~~ BitVec.ofNat 192 (2 ^ n)

/-- A domain samples a source: a rise of its rectified input makes it pending, the fall of a level's clears it. -/
def AplicDomain.sample (d : AplicDomain) (n : Nat) (level : Bool) : AplicDomain :=
  let now := d.input n level
  let was := d.lines.getLsbD n
  let d := { d with lines := putBit d.lines n now }
  if now && !was then { d with pending := putBit d.pending n true }
  else if !now && 6 ≤ d.mode n then { d with pending := putBit d.pending n false }
  else d

/-! ### Delivery -/

/-- The address of the MSI of a target: mmsiaddrcfg and smsiaddrcfg give the base page and the places of the hart index's
parts. -/
def msiTarget (mm sm : Word) (super : Bool) (target : BitVec 32) : Nat :=
  let hart := target.toNat / 2 ^ 18
  let lhxw := fld mm 44 4
  let hhxw := fld mm 48 3
  let hhxs := fld mm 56 5
  let g := hart / 2 ^ lhxw % 2 ^ hhxw
  let h := hart % 2 ^ lhxw
  let cfg := if super then sm else mm
  let page := fld cfg 0 44 ||| (g <<< (hhxs + 12)) ||| (h <<< fld cfg 52 3) |||
    (if super then target.toNat / 2 ^ 12 % 2 ^ 6 else 0)
  page * 4096

/-- The number of the first domain of a partition, or of the package. -/
def domainBase (p : Option Nat) : Nat := match p with
  | some p => 2 * p
  | none => 24

/-- Send the MSIs of a domain's pending and enabled sources. -/
def State.aplicSend (s : State) (p : Option Nat) (super : Bool) : State :=
  let k := domainBase p + bitOf super
  let top := s.aplic (domainBase p)
  let ready := (ones 192 (s.aplic k).pending.toNat).filter fun n => (s.aplic k).enabled.getLsbD n && (s.aplic k).mode n ≠ 0
  if !(s.aplic k).ie then s
  else
    s.forEach ready fun s n =>
      let d := s.aplic k
      let t := Table.get 0 d.target n
      let s := s.setAplic k { d with pending := putBit d.pending n false }
      s.upFab fun f => { f with msis := f.msis ++
        [{ pa := msiTarget top.mmsiaddr top.smsiaddr super t, size := 4, value := (t &&& 0x7FF).zeroExtend 64, hue := 0 }] }

/-- The domains of a partition sample one source. -/
def State.aplicSample (s : State) (p : Option Nat) (n : Nat) : State :=
  let k := domainBase p
  let level := s.aplicLine p n
  let s := s.setAplic k ((s.aplic k).sample n level)
  let delegated := (Table.get 0 (s.aplic k).sourcecfg n).getLsbD 10
  let d := s.aplic (k + 1)
  s.setAplic (k + 1) (if delegated then d.sample n level else d)

/-- The partitions that have domains: those in force, or the package as one. -/
def State.aplicViews (s : State) : List (Option Nat) :=
  if s.scopeMode = .partitioned then (List.range 12).map some else [none]

/-- Every domain samples the sources that may have changed, and sends what it may. -/
def State.aplicSync (s : State) (sources : List Nat) : State :=
  s.forEach s.aplicViews fun s p =>
    let s := s.forEach sources fun s n => s.aplicSample p n
    (s.aplicSend p false).aplicSend p true

/-! ### Registers -/

/-- A set of source bits from a 32-bit word at word index `i`. -/
def wordBits (i v : Nat) : BitVec 192 := BitVec.ofNat 192 ((v % 2 ^ 32) <<< (32 * i)) &&& ~~~ 1

/-- Sources that a write may set pending: those active in the domain, one of a level mode only while its input is high. -/
def AplicDomain.settable (d : AplicDomain) (b : BitVec 192) : BitVec 192 :=
  (ones 192 b.toNat).foldl (fun a n => if d.mode n = 1 || d.mode n = 4 || d.mode n = 5 || (6 ≤ d.mode n && d.lines.getLsbD n) then putBit a n true else a) 0

/-- Sources active in the domain. -/
def AplicDomain.active (d : AplicDomain) (b : BitVec 192) : BitVec 192 :=
  (ones 192 b.toNat).foldl (fun a n => if d.mode n ≠ 0 then putBit a n true else a) 0

/-- A 32-bit write at an offset of a domain; `super` is the supervisor-level one. -/
def AplicDomain.write (d : AplicDomain) (super : Bool) (off v : Nat) : AplicDomain :=
  let w : BitVec 32 := BitVec.ofNat 32 v
  let i := off % 0x80 / 4
  let one : BitVec 192 := if 1 ≤ v && v ≤ 191 then BitVec.ofNat 192 (2 ^ v) else 0
  if off = 0 then { d with ie := w.getLsbD 8 }
  else if 4 ≤ off && off < 4 + 4 * 191 then
    let n := off / 4
    let c : BitVec 32 := if w.getLsbD 10 && !super then 0x400
      else if w.getLsbD 10 then 0
      else if v % 8 = 2 || v % 8 = 3 then 0 else w &&& 7
    let d := { d with sourcecfg := Table.put 0 d.sourcecfg n c }
    if d.mode n = 0 then { d with enabled := putBit d.enabled n false, pending := putBit d.pending n false } else d
  else if off = 0x1BC0 && !super then { d with mmsiaddr := putFld d.mmsiaddr 0 32 v }
  else if off = 0x1BC4 && !super then { d with mmsiaddr := putFld d.mmsiaddr 32 32 v }
  else if off = 0x1BC8 && !super then { d with smsiaddr := putFld d.smsiaddr 0 32 v }
  else if off = 0x1BCC && !super then { d with smsiaddr := putFld d.smsiaddr 32 32 v }
  else if 0x1C00 ≤ off && off < 0x1C18 then { d with pending := d.pending ||| d.settable (wordBits i v) }
  else if off = 0x1CDC then { d with pending := d.pending ||| d.settable one }
  else if 0x1D00 ≤ off && off < 0x1D18 then { d with pending := d.pending &&& ~~~ wordBits i v }
  else if off = 0x1DDC then { d with pending := d.pending &&& ~~~ one }
  else if 0x1E00 ≤ off && off < 0x1E18 then { d with enabled := d.enabled ||| d.active (wordBits i v) }
  else if off = 0x1EDC then { d with enabled := d.enabled ||| d.active one }
  else if 0x1F00 ≤ off && off < 0x1F18 then { d with enabled := d.enabled &&& ~~~ wordBits i v }
  else if off = 0x1FDC then { d with enabled := d.enabled &&& ~~~ one }
  else if off = 0x2000 then { d with pending := d.pending ||| d.settable one }
  else if off = 0x2004 then
    let n := swap32 (v % 2 ^ 32)
    { d with pending := d.pending ||| d.settable (if 1 ≤ n && n ≤ 191 then BitVec.ofNat 192 (2 ^ n) else 0) }
  else if off = 0x3000 then { d with genmsi := w &&& 0xFFFC07FF }
  else if 0x3004 ≤ off && off < 0x3004 + 4 * 191 then
    let n := (off - 0x3000) / 4
    { d with target := Table.put 0 d.target n (if super then w &&& 0xFFFFF7FF else w &&& 0xFFFC07FF) }
  else d

/-- A 32-bit read. domaincfg.DM reads 1 (R274). -/
def AplicDomain.read (d : AplicDomain) (super : Bool) (off : Nat) : Nat :=
  let i := off % 0x80 / 4
  let word (b : BitVec 192) : Nat := b.toNat / 2 ^ (32 * i) % 2 ^ 32
  if off = 0 then 0x80000004 + 256 * bitOf d.ie
  else if 4 ≤ off && off < 4 + 4 * 191 then (Table.get 0 d.sourcecfg (off / 4)).toNat
  else if off = 0x1BC0 && !super then fld d.mmsiaddr 0 32
  else if off = 0x1BC4 && !super then fld d.mmsiaddr 32 32
  else if off = 0x1BC8 && !super then fld d.smsiaddr 0 32
  else if off = 0x1BCC && !super then fld d.smsiaddr 32 32
  else if 0x1C00 ≤ off && off < 0x1C18 then word d.pending
  else if 0x1D00 ≤ off && off < 0x1D18 then word d.lines
  else if 0x1E00 ≤ off && off < 0x1E18 then word d.enabled
  else if off = 0x3000 then d.genmsi.toNat
  else if 0x3004 ≤ off && off < 0x3004 + 4 * 191 then (Table.get 0 d.target ((off - 0x3000) / 4)).toNat
  else 0

/-- A write to a domain's register; a write of genmsi sends its MSI. -/
def State.aplicWrite (s : State) (p : Option Nat) (super : Bool) (off v : Nat) : State :=
  let k := domainBase p + bitOf super
  let s := s.setAplic k ((s.aplic k).write super off v)
  let s := if 4 ≤ off && off < 4 + 4 * 191 then s.aplicSample p (off / 4) else s
  if off = 0x3000 then
    let t := (s.aplic k).genmsi
    let top := s.aplic (domainBase p)
    s.upFab fun f => { f with msis := f.msis ++
      [{ pa := msiTarget top.mmsiaddr top.smsiaddr super t, size := 4, value := (t &&& 0x7FF).zeroExtend 64, hue := 0 }] }
  else (s.aplicSend p false).aplicSend p true

/-- INTX_MESSAGE: the level of source 1 + 4r + p follows the device's message (R274). -/
def execIntxMessage (port : Fin 32) (pin : Fin 4) (asserted : Bool) (s : State) : Host.Outcome State Fault Refusal :=
  live s fun s =>
    let p := s.rootPort port.val
    if s.isPort port.val && p.link = .up then
      let b : BitVec 4 := BitVec.ofNat 4 (2 ^ pin.val)
      let s := s.setRootPort port.val { p with intx := if asserted then p.intx ||| b else p.intx &&& ~~~ b }
      .next (s.aplicSync [1 + 4 * port.val + pin.val])
    else .next s

end Sys2Proof.Machine
end

