-- ==== Sys2Proof/Machine/Mail.lean ====
section
/-! DEFINITION. How Mordant takes a command and answers it (R372 to R383): the checks that may answer any command, scope and
mode, and the order of execution. -/

namespace Sys2Proof.Machine

/-! ### Status codes (R381) -/

def stOk : Nat := 0
def stUnsupported : Nat := 1
def stBadlen : Nat := 2
def stRange : Nat := 3
def stState : Nat := 4
def stBusy : Nat := 5
def stNone : Nat := 6
def stStale : Nat := 7
def stMode : Nat := 8
def stScope : Nat := 9
def stNosession : Nat := 10
def stVersion : Nat := 11
def stRefused : Nat := 12
def stFull : Nat := 13
def stAuth : Nat := 14
def stPartner : Nat := 15
def stRestarted : Nat := 16
def stInternal : Nat := 17

/-- Whether a condition holds, as the statuses it allows. -/
def status (b : Bool) (st : Nat) : List (Nat × Nat) := if b then [(st, 0)] else []

/-- RANGE where a payload field is outside its range (R383); otherwise what else holds. -/
def rangeElse (bad : Bool) (l : List (Nat × Nat)) : List (Nat × Nat) := if bad then [(stRange, 0)] else l

/-! ### Issuers (R371, R382) -/

/-- The mailbox number of an issuer; 16 is the BMC's path. -/
def issIx (i : Issuer) : Nat := match i with
  | .mailbox m => m.val
  | .bmc => 16

/-- The partition whose objects an issuer is confined to. -/
def State.issPart (s : State) (i : Issuer) : Option Nat :=
  match i with
  | .mailbox m => if s.scopeMode = .partitioned then some m.val else none
  | .bmc => none

/-- The catalogue's opcodes (R383). -/
def catalogue : List Nat :=
  [0x0000, 0x0001, 0x0002, 0x0003, 0x0004, 0x0005, 0x0100, 0x0101, 0x0102, 0x0103, 0x0104, 0x0105, 0x0200, 0x0201, 0x0202,
   0x0300, 0x0301, 0x0302, 0x0303, 0x0400, 0x0401, 0x0402, 0x0403, 0x0404, 0x0405, 0x0406, 0x0407, 0x0408, 0x0500, 0x0501,
   0x0502, 0x0600, 0x0601, 0x0602, 0x0603, 0x0604, 0x0605, 0x0700, 0x0701, 0x0702, 0x0703, 0x0800, 0x0801, 0x0802, 0x0900,
   0x0901, 0x0A00, 0x0A01, 0x0B00, 0x0B01, 0x0C00, 0x0C01, 0x0C02]

/-- Commands whose Chg is S, E or L, or "By field": they run one at a time across every issuer (R373). -/
def changes (op : Nat) : Bool :=
  [0x0003, 0x0101, 0x0102, 0x0103, 0x0301, 0x0302, 0x0303, 0x0401, 0x0402, 0x0403, 0x0404, 0x0405, 0x0406, 0x0407, 0x0408,
   0x0601, 0x0602, 0x0603, 0x0604, 0x0605, 0x0700, 0x0701, 0x0801, 0x0802, 0x0901, 0x0A01, 0x0C00, 0x0C01].contains op

/-- Commands served in Recovery, and to the BMC in Bring-up (R382). -/
def servedEarly (op : Nat) : Bool :=
  [0x0000, 0x0001, 0x0002, 0x0004, 0x0100, 0x0104, 0x0604, 0x0605, 0x0B00, 0x0B01].contains op

/-- The feature bit that a command's family needs (R379). -/
def featureOf (op : Nat) : Option Nat :=
  if op = 0x0003 then some 0
  else if op / 256 = 5 then some 1
  else if op / 256 = 0x0C then some 2
  else if op / 256 = 6 then some 3
  else if op / 256 = 0x0A then some 4
  else if op = 0x0700 || op = 0x0701 then some 6
  else if op = 0x0105 || op = 0x0005 then some 7
  else none

/-- Commands marked 2.1. -/
def minorOne (op : Nat) : Bool := [0x0005, 0x0105, 0x0700, 0x0701].contains op

/-! ### Cells -/

/-- The cell offset of the first bad byte: a wrong PLEN, a byte that must be zero (R375). `zero` lists payload bytes that
the command marks zero. -/
def badOffset (c : CmdCell) (lenOk : Bool) (zero : List Nat) : Option Nat :=
  let r (i : Nat) : Bool := c.reserved.getD i 0 ≠ 0
  let p (i : Nat) : Bool := c.payload.getD i 0 ≠ 0
  let plen := c.plen.toNat
  let offs :=
    (if lenOk && plen ≤ 48 then [] else [4]) ++ (if r 0 then [5] else []) ++ (if r 1 then [6] else []) ++
    (if r 2 then [7] else []) ++ ((List.range 4).filter fun i => r (3 + i)).map (· + 12) ++
    ((List.range 48).filter fun i => p i && (plen ≤ i || zero.contains i)).map (· + 16)
  offs.head?

/-- A payload field. -/
def CmdCell.at_ (c : CmdCell) (off n : Nat) : Nat := leAt c.payload off n

/-- A free choice among what may answer. -/
def State.pick (s : State) (l : List (Nat × Nat)) : (Nat × Nat) × State :=
  match l with
  | [] => ((stInternal, 0), s)
  | [a] => (a, s)
  | a :: _ =>
    let (n, s) := s.takeNat
    (l.getD (n % l.length) a, s)

/-- The statuses that may answer any command, and hold for this one (R381 to R383). -/
def State.cellFaults (s : State) (iss : Issuer) (op : Nat) (c : CmdCell) (lenOk : Bool) (zero : List Nat) (inScope : Bool) :
    List (Nat × Nat) :=
  let x := s.mbx (issIx iss)
  let feats := match x.session with
    | some n => n.features
    | none => 0
  let minor := match x.session with
    | some n => n.minor
    | none => 1
  (match badOffset c lenOk zero with
   | some o => [(stBadlen, o)]
   | none => []) ++
  status (x.session.isNone && op ≠ 0) stNosession ++
  status (s.mode = .recovery && !servedEarly op) stMode ++
  status (s.mode = .bringUp && !servedEarly op) stBusy ++
  status (!inScope || (match s.issPart iss with
    | some p => 12 ≤ p
    | none => false)) stScope ++
  status (!catalogue.contains op || (x.session.isSome && ((match featureOf op with
      | some f => !bit feats f
      | none => false) || (minorOne op && minor = 0)))) stUnsupported ++
  status (c.lotExpect ≠ 0 && c.lotExpect ≠ s.mgmt.config.lot) stStale

/-! ### Answers -/

/-- Answer the command at the head of an issuer's accepted queue (R373, R376). A bad cell of the BMC is logged (R508). -/
def State.answer (s : State) (i st detail : Nat) (result : Bytes) : State :=
  let x := s.mbx i
  match x.accepted with
  | [] => s
  | a :: rest =>
    let s := if i = 16 && st = stBadlen then s.logE .partner .mbx .malformed 16 else s
    s.setMbx i ({ x with accepted := rest }.writeCell (i = 16)
      { opcode := a.opcode, tag := a.cell.tag, event := false, status := st, lot := s.mgmt.config.lot,
        detail := BitVec.ofNat 32 detail, result := if st = stOk then result else [],
        msgTag := if i = 16 then some a.bmcTag else none })

/-- Unknown opcodes at the head of the queue are answered at once. -/
def State.unknowns (s : State) (iss : Issuer) : Nat → State
  | 0 => s
  | n + 1 =>
    match (s.mbx (issIx iss)).accepted with
    | [] => s
    | a :: _ =>
      if catalogue.contains a.opcode then s
      else
        let (r, s) := s.pick (s.cellFaults iss a.opcode a.cell true [] true)
        State.unknowns (s.answer (issIx iss) r.1 r.2 []) iss n

def State.respond (s : State) (iss : Issuer) (st : Nat) (result : Bytes) (detail : Nat := 0) : State :=
  (s.answer (issIx iss) st detail result).unknowns iss 17

/-! ### Acceptance and execution (R372, R373, R378) -/

/-- Mordant serves commands: it is not held at a cold reset, not restarting, nor past step 3 of a hand-over (R370, R417,
R437). -/
def State.accepting (s : State) : Bool :=
  !(s.mgmt.mode.start.held && !s.mgmt.mode.start.warm) && !s.mgmt.mordant.restarting && !(s.mgmt.service.action = some .handover && 3 ≤ s.mgmt.service.step)

/-- An issuer has room for one more accepted command. -/
def State.canAccept (s : State) (iss : Issuer) : Bool :=
  s.accepting && (match iss with
    | .bmc => (s.mbx 16).accepted.length < 4
    | .mailbox m => (s.mbx m.val).inUse < 16)

/-- Accept a command: its cell is copied and a response slot reserved. -/
def State.accept (s : State) (iss : Issuer) (op : Nat) (c : CmdCell) (tag : BitVec 3) : State :=
  let i := issIx iss
  let x := s.mbx i
  let n := s.mgmt.mordant.acceptSeq
  let s := s.upMordant fun m => { m with acceptSeq := n + 1 }
  s.setMbx i { x with accepted := x.accepted ++ [{ opcode := op, cell := c, seq := n, bmcTag := tag }] }

/-- No rung command of an issuer's slots waits for acceptance. -/
def State.slotsEmpty (s : State) (iss : Issuer) : Bool := match iss with
  | .mailbox m => (s.mbx m.val).cmdHead = (s.mbx m.val).cmdTail
  | .bmc => true

/-- The command at the head of an issuer's queue must wait: Mordant restarts, a change is running, the store is to be
compacted, an earlier change has not run, or a census round runs and no commit may start (R370, R373, R398, R408). -/
def State.mustWait (s : State) (iss : Issuer) (op : Nat) : Bool :=
  let mine := match (s.mbx (issIx iss)).accepted with
    | a :: _ => a.seq
    | [] => 0
  s.mgmt.mordant.restarting ||
    (s.mgmt.mordant.limited && op / 256 ≠ 0 && op / 256 ≠ 0x0B) ||
    (match s.mgmt.census.bisectFor with
     | some (j, _) => j = iss
     | none => false) ||
    (s.hub.slices.any fun e => e.2.unbinding = some (some iss)) ||
    (op = 0x0102 && s.mgmt.census.running) ||
    (changes op && (s.mgmt.config.commit.isSome || s.mgmt.store.compactOwed ||
      (List.range 17).any fun j => (s.mbx j).accepted.any fun a => changes a.opcode && a.seq < mine))

/-- Run a command: accept it if its issuer's queue is empty, and execute it if it is at the head of the queue and may run.
`bad` lists the statuses of its own that hold; `act` gives its result, or none when the answer comes later. -/
def State.command (s : State) (iss : Issuer) (c : CmdCell) (op : Nat) (len : Nat → Bool) (zero : List Nat) (inScope : Bool)
    (bad : List (Nat × Nat)) (act : State → Option Bytes × State) : State :=
  let ready : Option State := match (s.mbx (issIx iss)).accepted with
    | [] =>
      if s.canAccept iss && s.slotsEmpty iss then
        let s := s.accept iss op c 0
        (match iss with
         | .mailbox m =>
           let x := s.mbx m.val
           some (s.setMbx m.val { x with cmdTail := x.cmdTail + 1, cmdHead := x.cmdHead + 1 })
         | .bmc => some s)
      else none
    | a :: _ => if a.opcode = op && a.cell = c then some s else none
  match ready with
  | none => s
  | some s =>
    if s.mustWait iss op then s
    else
      let faults := s.cellFaults iss op c (len c.plen.toNat) zero inScope
      let faults := if faults.isEmpty then bad else faults
      if faults.isEmpty then
        match act s with
        | (some r, s) => s.respond iss stOk r
        | (none, s) => s
      else
        let (r, s) := s.pick faults
        s.respond iss r.1 [] r.2

/-! ### Live actions (R428) -/

/-- The opcode of a live action. -/
def LiveAction.opcode (a : LiveAction) : Nat := match a with
  | .spare _ _ => 0x0601
  | .evacuate _ => 0x0602
  | .readmit _ => 0x0603
  | .handover => 0x0605
  | .cascHandoff _ => 0x0A01

/-- The die that an action works on. -/
def LiveAction.die (a : LiveAction) : Option (Fin 12) := match a with
  | .spare d _ => some d
  | .evacuate d => some d
  | .readmit d => some d
  | _ => none

def modeCode (m : Mode) : Nat := match m with
  | .recovery => 0 | .bringUp => 1 | .unified => 2 | .partitioned => 3 | .cascade => 4 | .service => 5

def causeCode (c : StartCause) : Nat := match c with
  | .powerOn => 0 | .resetPin => 1 | .cmdCold => 2 | .cmdWarm => 3 | .strapRecovery => 4 | .imageRecovery => 5
  | .configFallback => 6

end Sys2Proof.Machine
end

