-- ==== Sys2Proof/Machine/Registers.lean ====
section
/-! DEFINITION. The configuration registers: their fields with access and change class, the scope that reaches them, and the
rules by which Mordant refuses a value (R384, R399 and the registers' own tables). -/

namespace Sys2Proof.Machine

/-- Change classes (R15). -/
inductive Chg where
  | s | e | l
deriving DecidableEq, Repr

/-- A writable field of a configuration register: low bit, width, class. -/
structure CfgField where
  lo : Nat
  width : Nat
  chg : Chg
deriving DecidableEq, Repr

/-- The writable fields of a REGID, lowest first. -/
def cfgFields (r : Nat) : List CfgField :=
  if r = 0x0100 then [⟨0, 1, .l⟩, ⟨16, 11, .e⟩]
  else if r = 0x0200 then [⟨0, 5, .e⟩, ⟨8, 5, .e⟩, ⟨16, 5, .e⟩]
  else if r = 0x0300 then [⟨0, 1, .e⟩, ⟨12, 4, .l⟩, ⟨16, 8, .l⟩, ⟨24, 8, .l⟩]
  else if r = 0x0400 then [⟨0, 1, .l⟩, ⟨8, 8, .l⟩, ⟨24, 8, .l⟩, ⟨32, 8, .l⟩, ⟨40, 8, .l⟩]
  else if 0x0500 ≤ r ∧ r ≤ 0x0507 then
    [⟨0, 3, .l⟩, ⟨3, 3, .l⟩, ⟨10, 10, .e⟩, ⟨20, 8, .l⟩, ⟨31, 9, .l⟩, ⟨40, 8, .l⟩, ⟨48, 16, .l⟩]
  else if r = 0x0600 then [⟨0, 5, .l⟩]
  else if r = 0x0700 then [⟨0, 3, .l⟩, ⟨8, 5, .l⟩]
  else if 0x0800 ≤ r ∧ r ≤ 0x0807 then [⟨0, 3, .s⟩]
  else if 0x0900 ≤ r ∧ r ≤ 0x091F then
    [⟨0, 2, .s⟩, ⟨4, 3, .s⟩, ⟨7, 1, .l⟩, ⟨26, 7, .s⟩, ⟨33, 1, .s⟩, ⟨34, 5, .s⟩, ⟨39, 13, .s⟩]
  else if 0x0A00 ≤ r ∧ r ≤ 0x0ABF then [⟨0, 3, .e⟩, ⟨4, 3, .e⟩, ⟨31, 1, .e⟩, ⟨32, 32, .e⟩]
  else if 0x0B00 ≤ r ∧ r ≤ 0x0BBF then [⟨0, 16, .e⟩, ⟨16, 16, .e⟩]
  else if r = 0x1000 then [⟨0, 16, .l⟩, ⟨16, 1, .l⟩, ⟨17, 1, .l⟩]
  else if r = 0x1100 then [⟨0, 10, .l⟩, ⟨24, 8, .l⟩, ⟨32, 6, .l⟩]
  else if r = 0x1101 then [⟨0, 8, .l⟩, ⟨16, 10, .l⟩]
  else if r = 0x1201 then [⟨0, 2, .s⟩]
  else if r = 0x1202 then [⟨0, 1, .l⟩, ⟨1, 1, .l⟩]
  else if 0x1210 ≤ r ∧ r ≤ 0x121B then [⟨0, 12, .s⟩, ⟨12, 1, .s⟩, ⟨16, 4, .s⟩, ⟨24, 5, .s⟩, ⟨32, 4, .s⟩]
  else if 0x1220 ≤ r ∧ r ≤ 0x122B then [⟨0, 24, .s⟩]
  else if 0x1230 ≤ r ∧ r ≤ 0x123B then [⟨0, 32, .s⟩]
  else if r = 0x1240 then [⟨0, 12, .l⟩]
  else []

/-- A REGID that the firmware lists (R384). -/
def cfgListed (r : Nat) : Bool := !(cfgFields r).isEmpty || r = 0x1200 || (0x1110 ≤ r && r ≤ 0x111D)

/-- Every REGID that the store holds, ascending. -/
def storedRegs : List Nat :=
  [0x0100, 0x0200, 0x0300, 0x0400] ++ (List.range 8).map (0x0500 + ·) ++ [0x0600, 0x0700] ++
  (List.range 8).map (0x0800 + ·) ++ (List.range 32).map (0x0900 + ·) ++ (List.range 192).map (0x0A00 + ·) ++
  (List.range 192).map (0x0B00 + ·) ++ [0x1000, 0x1100, 0x1101, 0x1201] ++ (List.range 12).map (0x1210 + ·) ++
  (List.range 12).map (0x1220 + ·) ++ (List.range 12).map (0x1230 + ·)

/-- Every listed REGID, ascending. -/
def listedRegs : List Nat := (List.range 0x1241).filter cfgListed

/-- The bits of the fields of a class. -/
def classMask (r : Nat) (c : Chg) : Word :=
  ((cfgFields r).filter fun f => f.chg = c).foldl (fun a f => a ||| maskOf f.lo f.width) 0

/-- A mask covers whole writable fields only (R399). -/
def maskWhole (r : Nat) (mask : Word) : Bool :=
  let fs := cfgFields r
  let all := fs.foldl (fun a f => a ||| maskOf f.lo f.width) (0 : Word)
  mask &&& ~~~ all = 0 && fs.all fun f =>
    mask &&& maskOf f.lo f.width = 0 || mask &&& maskOf f.lo f.width = maskOf f.lo f.width

/-- How many fields a mask covers. -/
def fieldCount (r : Nat) (mask : Word) : Nat := ((cfgFields r).filter fun f => mask &&& maskOf f.lo f.width ≠ 0).length

/-- PKG_MODE (R413). -/
def State.pkgMode (s : State) : Word :=
  BitVec.ofNat 64 (modeCode s.mode + (if s.mode = .service then modeCode s.mgmt.mode.ret else 0) * 2 ^ 3 +
    causeCode s.mgmt.mode.cause * 2 ^ 8)

/-- PM_RAIL_STAT[i] (R447). -/
def RailState.stat (x : RailState) : Word :=
  BitVec.ofNat 64 (bitOf x.telemLost + bitOf x.held * 2 + x.fails.toNat * 2 ^ 8 + x.current.toNat * 2 ^ 16 +
    x.mv.toNat * 2 ^ 32)

/-- The value in force that CFG_READ reports. -/
def State.cfgRead (s : State) (r : Nat) : Word :=
  if r = 0x1200 then s.pkgMode
  else if 0x1110 ≤ r && r ≤ 0x111D then (s.rail (r - 0x1110)).stat
  else if r = 0x1202 || r = 0x1240 then 0
  else s.cfg r

/-- The value with the staged fields over it, and with the recorded ones too. -/
def State.cfgStaged (s : State) (r : Nat) : Word :=
  match Table.find s.mgmt.config.staged r with
  | some (v, m) => blend (s.cfgRead r) v m
  | none => s.cfgRead r

def State.cfgPending (s : State) (r : Nat) : Word :=
  match Table.find s.mgmt.config.pending r with
  | some (v, m) => blend (s.cfgRead r) v m
  | none => s.cfgRead r

/-- A REGID is within an issuer's scope (R382, R384). -/
def State.cfgInScope (s : State) (iss : Issuer) (r : Nat) : Bool :=
  match s.issPart iss with
  | none => true
  | some p =>
    if 0x0900 ≤ r && r ≤ 0x091F then s.partOfPort (r - 0x0900) = some p
    else if 0x0A00 ≤ r && r ≤ 0x0ABF then (r - 0x0A00) / 16 = p
    else if 0x0B00 ≤ r && r ≤ 0x0BBF then (r - 0x0B00) / 16 = p
    else false

/-! ### Rules (R165, R189, R227, R238, R267, R278, R318, R347, R348, R362, R406, R413, R423, R448, R460) -/

/-- The floor of R450 in MHz for a limit in W: linear between the rows, rounded down to a multiple of 25 MHz. -/
def floorMhz (w : Nat) : Nat :=
  let seg (w0 m0 w1 m1 : Nat) : Nat := (m0 + (m1 - m0) * (w - w0) / (w1 - w0)) / 25 * 25
  if w < 500 then seg 450 1900 500 2100
  else if w < 550 then seg 500 2100 550 2300
  else if w < 600 then seg 550 2300 600 2500
  else if w < 640 then seg 600 2500 640 2600
  else 2600

/-- A host bridge is present (R523). -/
def State.bridgePresent (s : State) (b : Nat) : Bool :=
  if s.scopeMode = .partitioned then (s.partition b).started else b = 0

/-- Root port `r` belongs to host bridge `b` (R361). -/
def State.portInBridge (s : State) (b r : Nat) : Bool :=
  if s.scopeMode = .partitioned then s.partOfPort r = some b else b = 0

/-- A decoder's range in slice offset units of 256 MiB. -/
def hdmRange (v : Word) : Nat × Nat := (fld v 16 16, fld v 0 16)

/-- Decoder `n` of bridge `b` keeps R362, given the registers by `look`. A disabled decoder keeps it. -/
def State.hdmOk (s : State) (look : Nat → Word) (b n : Nat) : Bool :=
  let ctl := look (0x0A00 + 16 * b + n)
  let (base, size) := hdmRange (look (0x0B00 + 16 * b + n))
  let ports := ones 32 (fld ctl 32 32)
  !bit ctl 31 ||
    (fld ctl 4 3 ≤ 6 && fld ctl 0 3 ≤ 4 && ports.length = 2 ^ fld ctl 0 3 &&
      (!s.bridgePresent b ||
        ports.all fun r => s.portInBridge b r && (s.portMode r = 1 || s.portMode r = 2)) &&
      size ≠ 0 && size % 2 ^ fld ctl 0 3 = 0 && 0x1000 ≤ base && base + size ≤ 0x10000 &&
      (List.range 16).all fun m =>
        m = n || !bit (look (0x0A00 + 16 * b + m)) 31 ||
          (let (base', size') := hdmRange (look (0x0B00 + 16 * b + m))
           base + size ≤ base' || base' + size' ≤ base))

/-- Two of the set-up's rules, checked at each write: disjoint resources and hue blocks within range (R423). -/
def partsDisjoint (next : Nat → Word) : Bool :=
  let on := (List.range 12).filter fun p => bit (next (0x1210 + p)) 12
  let hues (p : Nat) : Nat × Nat := (fld (next (0x1210 + p)) 16 4, fld (next (0x1210 + p)) 24 5)
  (on.all fun p => (hues p).1 + (hues p).2 ≤ 16) &&
    on.all fun p => on.all fun q => p = q ||
      (fld (next (0x1210 + p)) 0 12 &&& fld (next (0x1210 + q)) 0 12 = 0 &&
        fld (next (0x1220 + p)) 0 24 &&& fld (next (0x1220 + q)) 0 24 = 0 &&
        fld (next (0x1230 + p)) 0 32 &&& fld (next (0x1230 + q)) 0 32 = 0 &&
        ((hues p).1 + (hues p).2 ≤ (hues q).1 || (hues q).1 + (hues q).2 ≤ (hues p).1))

/-- Every position where no port begins has MODE Disabled, and at most eight ports carry CXL.cache (R347, R348). -/
def portsOk (next : Nat → Word) : Bool :=
  let mode (r : Nat) : Nat := fld (next (0x0900 + r)) 0 2
  let slots := (List.range 32).filter fun r => bit (next (0x0900 + r)) 33
  ((List.range 32).all fun r => mode r = 3 || portBegins (fld (next (0x0800 + r / 4)) 0 3) (r % 4)) &&
    ((List.range 32).filter fun r => mode r = 2).length ≤ 8 &&
    slots.all fun r => slots.all fun q => r = q || fld (next (0x0900 + r)) 34 5 ≠ fld (next (0x0900 + q)) 34 5

/-- Whether Mordant accepts the values of register `r`: `look` gives the values in force with the staged ones, `next` those
of the next Bring-up. -/
def State.cfgOk (s : State) (look next : Nat → Word) (r : Nat) : Bool :=
  let v := look r
  let within (lo n a b : Nat) : Bool := a ≤ fld v lo n && fld v lo n ≤ b
  if r = 0x0100 then within 16 11 16 960
  else if r = 0x0200 then
    within 0 5 6 18 && within 8 5 8 20 && within 16 5 10 26 && fld v 0 5 + 2 ≤ fld v 8 5 && fld v 8 5 ≤ fld v 16 5
  else if r = 0x0300 then fld v 24 8 ≠ 0 && fld v 16 8 ≠ 0 && fld v 12 4 ≠ 0
  else if r = 0x0400 then fld v 40 8 ≠ 0 && fld v 32 8 ≠ 0 && fld v 24 8 ≠ 0 && fld v 8 8 ≠ 0
  else if 0x0500 ≤ r && r ≤ 0x0507 then
    fld v 48 16 ≠ 0 && within 31 9 1 256 && fld v 40 8 ≤ fld v 31 9 && fld v 20 8 ≠ 0 &&
      ((List.range 8).map fun c => fld (look (0x0500 + c)) 40 8).sum ≤ 192 &&
      ((List.range 8).map fun c => fld (look (0x0500 + c)) 10 10).sum ≤ 768
  else if r = 0x0600 then within 0 5 6 20
  else if r = 0x0700 then within 8 5 4 20
  else if 0x0800 ≤ r && r ≤ 0x0807 then fld (next r) 0 3 ≤ 4 && portsOk next
  else if 0x0900 ≤ r && r ≤ 0x091F then fld (next r) 4 3 ≤ 5 && portsOk next
  else if 0x0A00 ≤ r && r ≤ 0x0ABF then s.hdmOk look ((r - 0x0A00) / 16) ((r - 0x0A00) % 16)
  else if 0x0B00 ≤ r && r ≤ 0x0BBF then s.hdmOk look ((r - 0x0B00) / 16) ((r - 0x0B00) % 16)
  else if r = 0x1000 then within 0 16 10 60000
  else if r = 0x1100 then within 24 8 32 104 && within 0 10 450 640 && fld v 24 8 * 25 ≤ floorMhz (fld v 0 10)
  else if r = 0x1101 then within 0 8 80 105 && within 16 10 450 640
  else if r = 0x1201 then fld (next r) 0 2 ≠ 3 && partsDisjoint next
  else if 0x1210 ≤ r && r ≤ 0x123B then partsDisjoint next
  else true

end Sys2Proof.Machine
end

