-- ==== Sys2Proof/Machine/Store.lean ====
section
/-! DEFINITION. The configuration store and configuration changes: journal, loading, compaction, CFG_WRITE, staging and commit
(R390 to R404). -/

namespace Sys2Proof.Machine

/-! ### The store (R390 to R398) -/

def StoreState.half (t : StoreState) : Half := if t.useB then t.halfB else t.halfA

/-- Journal bytes that records take (R392). -/
def journalBytes (l : List JRec) : Nat := (l.map fun r => 32 + 16 * r.entries.length).sum

/-- Append a durable record (R393). Past offset 0xC_0000 the store is to be compacted (R398). -/
def State.journal (s : State) (t : JType) (lot : BitVec 32) (entries : List (Nat × Word)) : State :=
  s.upStore fun st =>
    let j := st.journal ++
      [{ typ := t, baseGen := st.half.gen, seq := BitVec.ofNat 32 st.journal.length, lot := lot, time := s.now,
         entries := entries }]
    { st with journal := j, compactOwed := 0xC0000 < journalBytes j }

/-- The half that a start selects: the valid one with the greater GEN (R395). -/
def StoreState.select (t : StoreState) : Option Bool :=
  match t.halfA.valid, t.halfB.valid with
  | true, true => some (t.halfA.gen.toNat < t.halfB.gen.toNat)
  | true, false => some false
  | false, true => some true
  | false, false => none

/-- Replay journal records onto a half's entries, up to the first that R395 stops at: entries, lot, records replayed. -/
def replayJournal (gen : Word) : List JRec → Nat → Table Word × BitVec 32 → Table Word × BitVec 32 × Nat
  | [], n, c => (c.1, c.2, n)
  | r :: rest, n, c =>
    if r.bad || r.baseGen ≠ gen || r.seq.toNat ≠ n then (c.1, c.2, n)
    else replayJournal gen rest (n + 1) (r.entries.foldl (fun t e => Table.insert t e.1 e.2) c.1, r.lot)

/-- The configuration that the store holds: entries, lot, records replayed, the half selected. -/
def StoreState.load (t : StoreState) : Option (Table Word × BitVec 32 × Nat × Bool) :=
  match t.select with
  | none => none
  | some b =>
    let h := if b then t.halfB else t.halfA
    let (e, lot, n) := replayJournal h.gen t.journal 0 (h.entries, h.lot)
    some (e, lot, n, b)

/-- Load the store at Bring-up (R395, R396): every listed register takes its stored value or its factory default. -/
def State.loadStore (s : State) : State :=
  match s.mgmt.store.load with
  | none =>
    let s := s.upStore fun t =>
      { t with halfA := { valid := true, defaults := true, gen := 1, lot := 1, entries := [] }, journal := [], useB := false,
               compactOwed := false }
    let s := s.upConfig fun c => { c with force := [], pending := [], lot := 1, defaultsUsed := true, commit := none }
    s.logE .uncorrected .ledg .uncorrectable 0
  | some (e, lot, n, b) =>
    let h := if b then s.mgmt.store.halfB else s.mgmt.store.halfA
    let known := e.filter fun x => storedRegs.contains x.1
    let force := known.foldl (fun t x => Table.put (cfgDefault x.1) t x.1 x.2) ([] : Table Word)
    let s := s.upStore fun t => { t with useB := b, journal := t.journal.take n }
    let s := s.upConfig fun c =>
      { c with force := force, pending := [], lot := lot, defaultsUsed := h.defaults && n = 0, commit := none }
    s.forEach (e.filter fun x => !storedRegs.contains x.1) fun s x =>
      s.logE .notice .cfg .unsupported 0 (info := x.1)

/-- Compaction (R398). `goodWrites` is 0 when both attempts fail their check. -/
def State.compact (s : State) (goodWrites : Nat) : State :=
  if !s.mgmt.store.compactOwed then s
  else if goodWrites = 0 then
    (s.upStore fun t => { t with compactOwed := false }).logE .uncorrected .ledg .uncorrectable 0
  else
    match s.mgmt.store.load with
    | none => s
    | some (e, _, _, b) =>
      let h : Half :=
        { valid := true, defaults := false, lot := s.mgmt.config.lot,
          gen := (if b then s.mgmt.store.halfB else s.mgmt.store.halfA).gen + 1, entries := e }
      s.upStore fun t =>
        if b then { t with halfA := h, useB := false, journal := [], compactOwed := false }
        else { t with halfB := h, useB := true, journal := [], compactOwed := false }

/-! ### CFG_WRITE (R399) -/

/-- Lookups of the rules after a write of `value` under `mask` to `r`: values in force with the staged ones, and those of the
next Bring-up. -/
def State.lookStaged (s : State) (r : Nat) (value mask : Word) (q : Nat) : Word :=
  if q = r then blend (s.cfgStaged q) value (mask &&& ~~~ classMask r .s) else s.cfgStaged q

def State.lookNext (s : State) (r : Nat) (value mask : Word) (q : Nat) : Word :=
  let v := match Table.find s.mgmt.config.pending q with
    | some (w, m) => blend (s.cfgStaged q) w m
    | none => s.cfgStaged q
  if q = r then blend v value mask else v

/-- The statuses that refuse a CFG_WRITE. -/
def State.cfgWriteBad (s : State) (r : Nat) (value mask : Word) : List (Nat × Nat) :=
  if !cfgListed r then [(stNone, 0)]
  else if !maskWhole r mask then [(stRange, 0)]
  else if r = 0x1202 then
    status (s.scopeMode = .cascade && s.mgmt.casc.master.val ≠ s.pkgIx) stMode
  else if r = 0x1240 then
    if s.scopeMode ≠ .partitioned then [(stMode, 0)]
    else status ((ones 12 (value &&& mask).toNat).any fun p => !bit (s.cfg (0x1210 + p)) 12 || !(s.partition p).started) stState
  else if !s.cfgOk (s.lookStaged r value mask) (s.lookNext r value mask) r then [(stRefused, r)]
  else []

/-- Merge a value into a table of staged or recorded bits. -/
def mergeBits (t : Table (Word × Word)) (r : Nat) (value mask : Word) : Table (Word × Word) :=
  if mask = 0 then t
  else match Table.find t r with
    | some (v, m) => Table.insert t r (blend v value mask, m ||| mask)
    | none => Table.insert t r (value &&& mask, mask)

/-- What the store records for a register: its value with what is recorded for the next Bring-up (R391, R392). -/
def State.storeVal (s : State) (r : Nat) : Word :=
  match Table.find s.mgmt.config.pending r with
  | some (v, m) => blend (s.cfg r) v m
  | none => s.cfg r

/-- Apply a write that no rule refuses, class by class. -/
def State.cfgWrite (s : State) (r : Nat) (value mask : Word) : State :=
  let ml := mask &&& classMask r .l
  let me := mask &&& classMask r .e
  let ms := mask &&& classMask r .s
  let s := s.upConfig fun c => { c with defaultsUsed := false, staged := mergeBits c.staged r value me }
  let s :=
    if ml = 0 then s
    else
      let s := s.setCfg r (blend (s.cfg r) value ml)
      let s := if r = 0x0300 then
          s.forEach (List.range 12) fun s d =>
            if s.inService d then s.setDieCfg d { s.dieCfg d with weldCfg := blend (s.dieCfg d).weldCfg value ml } else s
        else s
      s.journal .live s.mgmt.config.lot [(r, s.storeVal r)]
  if ms = 0 then s
  else
    let s := s.upConfig fun c => { c with pending := mergeBits c.pending r value ms }
    s.journal .pending s.mgmt.config.lot [(r, s.storeVal r)]

/-! ### What dies hold (R403, R405) -/

/-- An entry of a frame (R202). -/
def entryBytes (e : Nat × Word) : Bytes := leBytes 2 e.1 ++ leBytes 8 e.2.toNat

/-- Split a list into runs of at most five. -/
def fives {α : Type} : Nat → List α → List (List α)
  | 0, _ => []
  | _ + 1, [] => []
  | n + 1, l => l.take 5 :: fives n (l.drop 5)

/-- The payloads of CFG_PREPARE or CFG_LOAD frames. -/
def cfgFrames (lot : BitVec 32) (entries : List (Nat × Word)) : List Bytes :=
  let runs := fives entries.length entries
  (List.range runs.length).map fun i =>
    leBytes 4 lot.toNat ++ leBytes 2 (i + (if i + 1 = runs.length then 2 ^ 15 else 0)) ++
      (runs.getD i []).flatMap entryBytes

/-- The entries of a frame. -/
def frameEntries (p : Bytes) : List (Nat × Word) :=
  (List.range ((p.length - 6) / 10)).map fun i => (leAt p (6 + 10 * i) 2, BitVec.ofNat 64 (leAt p (8 + 10 * i) 8))

/-- The length of a CFG_PREPARE or CFG_LOAD payload (R202). -/
def cfgLenOk (n : Nat) : Bool := 16 ≤ n && n ≤ 56 && (n - 6) % 10 = 0

/-- Put an entry into a die's registers. -/
def DieCfg.put (k : DieCfg) (e : Nat × Word) : DieCfg :=
  if e.1 = 0x0200 then { k with ringTmo := e.2 }
  else if e.1 = 0x0300 then { k with weldCfg := e.2 }
  else if 0xF000 ≤ e.1 then { k with classes := Table.put 0 k.classes (e.1 - 0xF000) (e.2.extractLsb' 0 3) }
  else k

/-- The class that Mordant's copy gives a hue: copy 5 of the hub's (R405). -/
def State.mordantClass (s : State) (h : Nat) : BitVec 3 := (Table.get 0 s.mgmt.config.hubClasses h).extractLsb' 15 3

/-- Every field that a die holds, from the configuration in force (R403). -/
def State.dieEntries (s : State) : List (Nat × Word) :=
  [(0x0200, s.cfg 0x0200), (0x0300, s.cfg 0x0300)] ++
    (List.range 4096).map fun h => (0xF000 + h, BitVec.ofNat 64 (s.mordantClass h).toNat)

/-- Load a die whole, as a start does (R403). -/
def State.loadDie (s : State) (d : Nat) : State :=
  let k := s.dieEntries.foldl DieCfg.put (s.dieCfg d)
  s.setDieCfg d { k with lot := s.mgmt.config.lot, shadow := none }

/-- Send a die the frames that load it (R403, R410). -/
def State.sendLoad (s : State) (d : Nat) : State :=
  s.forEach (cfgFrames s.mgmt.config.lot s.dieEntries) fun s p => s.sbSend d true 0x14 p

/-! ### Commit (R400 to R404) -/

/-- The staged registers within an issuer's scope, and the staged class changes. -/
def State.stagedFor (s : State) (iss : Issuer) : List Nat :=
  (s.mgmt.config.staged.map Prod.fst).filter fun r => s.cfgInScope iss r

def State.stagedClasses (s : State) : List (Nat × BitVec 3) :=
  s.hub.hues.filterMap fun h => h.2.staged.map fun c => (h.1, c)

/-- The rules that a commit checks: the first register at fault. -/
def State.commitBad (s : State) (iss : Issuer) : Option Nat :=
  (s.stagedFor iss).find? fun r => !s.cfgOk s.cfgStaged (s.lookNext 0 0 0) r

/-- Dies that take part in a commit or a round. -/
def State.partakers (s : State) : List (Fin 12) := (List.finRange 12).filter fun d => s.inService d

/-- The next lot (R397). -/
def nextLot (l : BitVec 32) : BitVec 32 := if l = BitVec.allOnes 32 then 1 else l + 1

/-- The other members that take part in a commit of the cascade (R404, R477). -/
def State.peers (s : State) : List (Fin 4) :=
  if s.scopeMode = .cascade then (List.finRange 4).filter fun p => p.val ≠ s.pkgIx && s.pkgPresent p.val else []

/-- Send other packages a message of a commit. -/
def State.commitSend (s : State) (ps : List (Fin 4)) (typ : Byte) (lot : BitVec 32) (entries : List (Nat × Word) := [])
    (t : Word := 0) : State :=
  s.upCasc fun c => { c with commits := c.commits ++ ps.map fun p =>
    { peer := p, typ := typ, lot := lot, entries := entries, t := t } }

/-- CFG_FLIP with a given T to the dies that take part (step 5). -/
def State.flipAt (s : State) (k : Commit) (t : Word) : State :=
  let s := s.upConfig fun c => { c with commit := some { k with waiting := [], members := [], flip := some t } }
  s.forEach k.dies fun s d => s.sbSend d true 0x12 (leBytes 4 k.lot.toNat ++ leBytes 4 0 ++ leBytes 8 t.toNat)

/-- Step 5: CFG_FLIP with T, a whole 10 µs at least 100 µs ahead, to dies and members. -/
def State.sendFlip (s : State) (k : Commit) : State :=
  let t : Word := BitVec.ofNat 64 ((s.now.toNat + 10000 + 999) / 1000 * 1000)
  (s.flipAt k t).commitSend s.peers 0x12 k.lot [] t

/-- Steps 4 and 5, once every acknowledgement is in: the COMMIT record, then CFG_FLIP. A member acknowledges the master
instead, and awaits its T (R404). -/
def State.commitFlip (s : State) (k : Commit) : State :=
  let s := s.journal .commit k.lot k.entries
  if k.remote then
    (s.upConfig fun c => { c with commit := some { k with waiting := [] } }).commitSend [s.mgmt.casc.master] 0x11 k.lot
  else s.sendFlip k

/-- A commit goes on once nobody's acknowledgement is awaited. -/
def State.commitGo (s : State) (k : Commit) : State :=
  if k.waiting.isEmpty && k.members.isEmpty then s.commitFlip k else s.upConfig fun c => { c with commit := some k }

/-- What a lockstep restart does to a commit (R402): before its record it is absent, after it a new T is sent. A member has
its T from the master. -/
def State.commitRestart (s : State) : State :=
  match s.mgmt.config.commit with
  | none => s
  | some k =>
    match k.flip with
    | some t => if k.remote then s.flipAt k t else s.sendFlip { k with owed := false }
    | none => if k.remote && k.waiting.isEmpty then s else s.upConfig fun c => { c with commit := none }

/-- A commit's class changes as entries of a stream. -/
def classEntries (classes : List (Nat × BitVec 3)) : List (Nat × Word) :=
  classes.map fun c => (0xF000 + c.1, BitVec.ofNat 64 c.2.toNat)

/-- Step 2 of a commit: CFG_PREPARE to every die that takes part, and by way of them to the dies of each member. A commit that
changes nothing a die holds sends it its RING_TMO, since a frame carries at least one entry. -/
def State.commitPrepare (s : State) (k : Commit) : State :=
  let held := (k.entries.filter fun e => e.1 = 0x0200 || e.1 = 0x0300) ++ classEntries k.classes
  let held := if held.isEmpty then [(0x0200, s.cfg 0x0200)] else held
  let s := s.commitSend k.members 0x10 k.lot (k.entries ++ classEntries k.classes)
  if k.waiting.isEmpty && k.members.isEmpty then s.commitFlip k
  else
    let s := s.upConfig fun c => { c with commit := some k }
    s.forEach k.waiting fun s d => s.forEach (cfgFrames k.lot held) fun s p => s.sbSend d true 0x10 p

/-- CFG_COMMIT: the staged fields and class changes within the issuer's scope, on the next lot. -/
def State.commitStart (s : State) (iss : Issuer) : State :=
  s.commitPrepare
    { issuer := iss, tag := 0, lot := nextLot s.mgmt.config.lot, entries := (s.stagedFor iss).map fun r => (r, s.cfgStaged r),
      classes := s.stagedClasses, dies := s.partakers, waiting := s.partakers, sentAt := s.now, members := s.peers }

/-- A member carries out the master's steps 2 and 3 for its own dies (R404). -/
def State.memberPrepare (s : State) (lot : BitVec 32) (entries : List (Nat × Word)) : State :=
  s.commitPrepare
    { issuer := .bmc, tag := 0, lot := lot, entries := entries.filter fun e => e.1 < 0xF000,
      classes := (entries.filter fun e => 0xF000 ≤ e.1).map fun e => (e.1 - 0xF000, e.2.extractLsb' 0 3),
      dies := s.partakers, waiting := s.partakers, sentAt := s.now, owed := false, remote := true }

/-- CFG_ACK from a die (step 3). -/
def State.commitAck (s : State) (d : Fin 12) (lot : BitVec 32) : State :=
  match s.mgmt.config.commit with
  | none => s
  | some k =>
    if k.flip.isSome || k.lot ≠ lot || !k.waiting.contains d then s
    else
      s.commitGo { k with waiting := k.waiting.erase d }

/-- A member's acknowledgement at the master (R404). -/
def State.memberAck (s : State) (p : Fin 4) (lot : BitVec 32) : State :=
  match s.mgmt.config.commit with
  | none => s
  | some k =>
    if k.flip.isSome || k.lot ≠ lot || !k.members.contains p then s
    else s.commitGo { k with members := k.members.erase p }

/-- A commit that goes wrong is absent everywhere: dies and members drop what they hold (R402, R404). A member whose own record
is durable takes it back: DESIGN CHOICE, log entry 118. -/
def State.commitFail (s : State) (st : Nat) : State :=
  match s.mgmt.config.commit with
  | none => s
  | some k =>
    let s := s.upConfig fun c => { c with commit := none }
    let s := s.forEach k.dies fun s d => s.sbSend d true 0x13 (leBytes 4 k.lot.toNat)
    if k.remote then
      let back (j : JRec) : JRec :=
        if j.typ = .commit && j.lot = k.lot then { j with lot := s.mgmt.config.lot, entries := [] } else j
      s.upStore fun st => { st with journal := st.journal.map back }
    else
      let s := s.commitSend s.peers 0x13 k.lot
      if k.owed then s.respond k.issuer st [] else s

/-- A die moves its shadow copy into force (step 6). -/
def DieCfg.flipNow (k : DieCfg) (now : Word) : DieCfg :=
  match k.shadow with
  | some w =>
    (match w.flip with
     | some t =>
       if t.toNat ≤ now.toNat then { w.entries.foldl DieCfg.put k with lot := w.lot, shadow := none } else k
     | none => k)
  | none => k

/-- The hub's part of step 6: registers and class-map copies. -/
def State.hubFlip (s : State) (k : Commit) : State :=
  let s := s.forEach k.entries fun s e => s.setCfg e.1 e.2
  let s := s.upConfig fun c =>
    { c with lot := k.lot, staged := c.staged.filter fun e => !k.entries.any fun x => x.1 = e.1 }
  s.forEach k.classes fun s h =>
    let six : BitVec 18 := BitVec.ofNat 18 (h.2.toNat * 0x9249)
    let s := s.upConfig fun c => { c with hubClasses := Table.put 0 c.hubClasses h.1 six }
    let x := s.hueSt h.1
    s.setHueSt h.1 (if x.staged = some h.2 then { x with staged := none } else x)

/-- Steps 6 and 7 without the census round: every part moves at T, and the command is answered. -/
def State.lotBoundary (s : State) : State :=
  match s.mgmt.config.commit with
  | none => s
  | some k =>
    match k.flip with
    | none => s
    | some t =>
      let s := s.reach t
      let s := s.forEach (List.range 12) fun s d => s.setDieCfg d ((s.dieCfg d).flipNow s.now)
      let s := s.hubFlip k
      let unacked (d : Fin 12) : Bool :=
        let e := (s.port d).sbHub
        (e.unacked.any fun o => o.typ = 0x12) || e.queue.any fun q => q.1 = 0x12
      let s := s.forEach (k.dies.filter unacked) fun s d =>
        s.logE .partner .cfg .timeout d.val (info := k.lot.toNat)
      let s := s.upConfig fun c => { c with commit := none }
      let s := if k.owed then s.respond k.issuer stOk (leBytes 4 k.lot.toNat) else s
      s.event 11 (leBytes 4 k.lot.toNat)

/-- CFG_DISCARD: the fields staged within the issuer's scope are dropped; the answer counts them (R400). -/
def State.discardStaged (s : State) (iss : Issuer) : Nat × State :=
  let mine := s.mgmt.config.staged.filter fun e => s.cfgInScope iss e.1
  let n := (mine.map fun e => fieldCount e.1 e.2.2).sum
  (n, s.upConfig fun c => { c with staged := c.staged.filter fun e => !s.cfgInScope iss e.1 })

/-! ### A member's side of the master's messages (R404) -/

/-- A message of the master reaches this package, which is another member. -/
def State.fromMaster (s : State) (p : Fin 4) : Bool :=
  s.scopeMode = .cascade && p = s.mgmt.casc.master && p.val ≠ s.pkgIx && !s.mgmt.casc.masterLost

/-- The master's T: this package's dies and hub flip then (R404). -/
def State.memberFlip (s : State) (lot : BitVec 32) (t : Word) : State :=
  match s.mgmt.config.commit with
  | none => s
  | some k => if k.remote && k.lot = lot && k.waiting.isEmpty then s.flipAt k t else s

/-- The master drops its commit. -/
def State.memberDiscard (s : State) (lot : BitVec 32) : State :=
  match s.mgmt.config.commit with
  | none => s
  | some k => if k.remote && k.lot = lot && k.flip.isNone then s.commitFail stPartner else s

/-! ### A die's side of the frames (R401 to R403) -/

/-- CFG_PREPARE at a die: hold the values; with the LAST frame held and no gap, answer CFG_ACK. -/
def State.dieHold (s : State) (d : Fin 12) (p : Bytes) : State :=
  let k := s.dieCfg d
  let lot := BitVec.ofNat 32 (leAt p 0 4)
  let ix := leAt p 4 2
  let fresh : Shadow := { lot := lot, frames := 0, last := false, entries := [], since := s.now }
  let w := match k.shadow with
    | some w => if w.lot = lot && ix % 2 ^ 15 ≠ 0 then w else fresh
    | none => fresh
  if ix % 2 ^ 15 ≠ w.frames then s.setDieCfg d { k with shadow := some w }
  else
    let w := { w with frames := w.frames + 1, last := 2 ^ 15 ≤ ix, entries := w.entries ++ frameEntries p, since := s.now }
    let s := s.setDieCfg d { k with shadow := some w }
    if w.last then s.sbSend d false 0x11 (leBytes 4 lot.toNat ++ leBytes 2 w.frames) else s

/-- CFG_FLIP at a die. -/
def State.dieFlip (s : State) (d : Fin 12) (lot : BitVec 32) (t : Word) : State :=
  let k := s.dieCfg d
  match k.shadow with
  | some w => if w.lot = lot && w.last then s.setDieCfg d ({ k with shadow := some { w with flip := some t } }.flipNow s.now) else s
  | none => s

/-- CFG_DISCARD at a die. -/
def State.dieDiscard (s : State) (d : Fin 12) (lot : BitVec 32) : State :=
  let k := s.dieCfg d
  match k.shadow with
  | some w => if w.lot = lot then s.setDieCfg d { k with shadow := none } else s
  | none => s

/-- CFG_LOAD at a die: the values apply on receipt, and the last frame sets the lot. -/
def State.dieLoad (s : State) (d : Fin 12) (p : Bytes) : State :=
  let k := (frameEntries p).foldl DieCfg.put (s.dieCfg d)
  s.setDieCfg d (if 2 ^ 15 ≤ leAt p 4 2 then { k with lot := BitVec.ofNat 32 (leAt p 0 4) } else k)

end Sys2Proof.Machine
end

