-- ==== Sys2Proof/Machine/Census.lean ====
section
/-! DEFINITION. The lot census: census streams and shades, rounds, rewrites and bisection (R405 to R412). -/

namespace Sys2Proof.Machine

/-! ### Streams and shades (R405, R407, R415) -/

/-- The mask of a hub register in the census set, or of one that a compute die holds. -/
def censusMask (r : Nat) : Word :=
  if r = 0x0100 then 0x07FF0000
  else if r = 0x0200 then 0x001F1F1F
  else if r = 0x0300 then 1
  else if 0x0500 ≤ r ∧ r ≤ 0x0507 then 0x000FFC00
  else if 0x0800 ≤ r ∧ r ≤ 0x0807 then 7
  else if 0x0900 ≤ r ∧ r ≤ 0x091F then 0x000FFFFFFC000073
  else if 0x0A00 ≤ r ∧ r ≤ 0x0ABF then 0xFFFFFFFF80000077
  else if 0x0B00 ≤ r ∧ r ≤ 0x0BBF then 0xFFFFFFFF
  else if r = 0x1201 then 3
  else if 0x1210 ≤ r ∧ r ≤ 0x121B then 0x0000000F1F0F1FFF
  else if 0x1220 ≤ r ∧ r ≤ 0x122B then 0x00FFFFFF
  else if 0x1230 ≤ r ∧ r ≤ 0x123B then 0xFFFFFFFF
  else 0

/-- The registers of the hub's census set, ascending; decoders of the bridges that are present. -/
def State.hubRegs (s : State) : List Nat :=
  let bridges := (List.range 12).filter fun b => s.bridgePresent b
  [0x0100, 0x0200, 0x0300] ++ (List.range 8).map (0x0500 + ·) ++ (List.range 8).map (0x0800 + ·) ++
    (List.range 32).map (0x0900 + ·) ++ (bridges.flatMap fun b => (List.range 16).map (0x0A00 + 16 * b + ·)) ++
    (bridges.flatMap fun b => (List.range 16).map (0x0B00 + 16 * b + ·)) ++ [0x1201] ++
    (List.range 12).map (0x1210 + ·) ++ (List.range 12).map (0x1220 + ·) ++ (List.range 12).map (0x1230 + ·)

/-- The masked entries that die `d` holds, or the hub for 12. -/
def State.censusStream (s : State) (d : Nat) : List (Nat × Word) :=
  if d < 12 then
    let k := s.dieCfg d
    [(0x0200, k.ringTmo &&& censusMask 0x0200), (0x0300, k.weldCfg &&& censusMask 0x0300)] ++
      (List.range 4096).map fun h => (0xF000 + h, BitVec.ofNat 64 (Table.get 0 k.classes h).toNat)
  else
    (s.hubRegs.map fun r => (r, s.cfg r &&& censusMask r)) ++
      (List.range 4096).map fun h => (0xF000 + h, BitVec.ofNat 64 (Table.get 0 s.mgmt.config.hubClasses h).toNat)

/-- The entries that Mordant's configuration in force gives. -/
def State.expectedStream (s : State) (d : Nat) : List (Nat × Word) :=
  if d < 12 then s.dieEntries.map fun e => (e.1, if e.1 < 0xF000 then e.2 &&& censusMask e.1 else e.2)
  else
    (s.hubRegs.map fun r => (r, s.cfg r &&& censusMask r)) ++
      (List.range 4096).map fun h => (0xF000 + h, BitVec.ofNat 64 ((s.mordantClass h).toNat * 0x9249))

/-- CRC-64 over a run of entries. -/
def streamCrc (l : List (Nat × Word)) : Word := crc64 (l.flatMap entryBytes)

def State.shade (s : State) (d : Nat) : Word := streamCrc (s.censusStream d)
def State.expectedShade (s : State) (d : Nat) : Word := streamCrc (s.expectedStream d)

/-- A die takes part in rounds (R401, R429). -/
def State.inCensus (s : State) (d : Nat) : Bool :=
  d = 12 || (d < 12 && s.inService d && (match s.mgmt.service.action with
    | some (.evacuate e) => e.val ≠ d
    | some (.readmit e) => e.val ≠ d
    | _ => true))

/-- The expected package shade (R407). -/
def State.packageShade (s : State) : Word :=
  crc64 ((List.range 13).flatMap fun d => leBytes 8 (if s.inCensus d then (s.expectedShade d).toNat else 0))

/-- The lot that a die reports, as its registers stand. -/
def State.lotOf (s : State) (d : Nat) : BitVec 32 := if d < 12 then (s.dieCfg d).lot else s.mgmt.config.lot

/-- The result of CENSUS_STATUS (R383). -/
def State.censusStatus (s : State) : Bytes :=
  let atLot := (List.range 13).filter fun d => s.inCensus d && (Table.get (0, 0) s.mgmt.census.reports d).1 = s.mgmt.config.lot
  leBytes 4 s.mgmt.config.lot.toNat ++ leBytes 4 atLot.length ++ leBytes 8 s.packageShade.toNat ++
    leBytes 2 s.mgmt.census.mismatch.toNat ++ leBytes 1 s.mgmt.census.packages.toNat

/-! ### Rounds (R408 to R410) -/

/-- A round ends once every die that takes part has reported. -/
def State.censusEnd (s : State) : State :=
  let k := s.mgmt.census
  if k.running && k.waiting.isEmpty then
    let s := s.upCensus fun c => { c with running := false, byCommand := none }
    if k.byCommand.isSome then s.event 6 s.censusStatus else s
  else s

/-- Set or clear a die's bit in CENSUS_STATUS. -/
def State.mismatchBit (s : State) (d : Nat) (b : Bool) : State :=
  s.upCensus fun c =>
    { c with mismatch := if b then c.mismatch ||| BitVec.ofNat 13 (2 ^ d) else c.mismatch &&& ~~~ BitVec.ofNat 13 (2 ^ d) }

def State.rewrittenBit (s : State) (d : Nat) (b : Bool) : State :=
  s.upCensus fun c =>
    { c with rewritten := if b then c.rewritten ||| BitVec.ofNat 13 (2 ^ d) else c.rewritten &&& ~~~ BitVec.ofNat 13 (2 ^ d) }

/-- A die's report of the running round is compared with what is expected. -/
def State.censusReport (s : State) (d : Nat) (lot : BitVec 32) (shade : Word) : State :=
  let s := s.upCensus fun c => { c with reports := Table.put (0, 0) c.reports d (lot, shade) }
  let k := s.mgmt.census
  if !k.running || !k.waiting.contains d then s
  else
    let done (s : State) : State := (s.upCensus fun c => { c with waiting := c.waiting.erase d }).censusEnd
    let wasRewritten := k.rewritten.getLsbD d
    if lot = s.mgmt.config.lot && shade = s.expectedShade d then
      let s := s.mismatchBit d false
      let s := if wasRewritten then (s.rewrittenBit d false).logE .recovered .census .censusMismatch d else s
      done s
    else
      let s := (s.mismatchBit d true).event 5
        (leBytes 4 lot.toNat ++ [BitVec.ofNat 8 s.pkgIx, BitVec.ofNat 8 d, 0, 0] ++ leBytes 8 shade.toNat)
      if bit (s.cfg 0x1000) 17 && !wasRewritten && Table.get 0 k.triedLot d ≠ s.mgmt.config.lot.toNat then
        let s := s.rewrittenBit d true
        if d < 12 then (s.sendLoad d).sbSend d true 0x15 (leBytes 4 k.round.toNat)
        else
          -- the hub's copies are loaded, and its report is repeated
          let s := s.forEach (List.range 4096) fun s h =>
            s.upConfig fun c =>
              { c with hubClasses := Table.put 0 c.hubClasses h (BitVec.ofNat 18 ((s.mordantClass h).toNat * 0x9249)) }
          let s := s.mismatchBit 12 (s.shade 12 ≠ s.expectedShade 12)
          let s := s.rewrittenBit 12 false
          done (s.logE (if s.shade 12 = s.expectedShade 12 then .recovered else .uncorrected) .census .censusMismatch 12)
      else
        let s := (s.rewrittenBit d false).logE .uncorrected .census .censusMismatch d
        let s := if wasRewritten then
            s.upCensus fun c => { c with triedLot := Table.put 0 c.triedLot d s.mgmt.config.lot.toNat }
          else s
        done s

/-- Start a round (R408): none starts while a commit runs, or while a round does. -/
def State.censusStart (s : State) (by_ : Option Issuer) : State :=
  let k := s.mgmt.census
  if k.running || s.mgmt.config.commit.isSome then s
  else
    let dies := (List.range 12).filter fun d => s.inCensus d
    let s := s.upCensus fun c =>
      { c with round := c.round + 1, running := true, byCommand := by_, waiting := dies ++ [12], last := s.now, rewritten := 0 }
    s.forEach dies fun s d => s.sbSend d true 0x15 (leBytes 4 (k.round + 1).toNat)

/-! ### Bisection (R411) -/

/-- Answer CENSUS_BISECT. -/
def State.bisectEnd (s : State) (st : Nat) (result : Bytes) : State :=
  match s.mgmt.census.bisectFor with
  | none => s
  | some (iss, _) =>
    let s := s.upCensus fun c => { c with bisect := none, bisectFor := none }
    s.respond iss st result

/-- The result of a bisection. -/
def bisectResult (r lo w want got : Nat) : Bytes :=
  leBytes 2 r ++ leBytes 1 lo ++ leBytes 1 w ++ leBytes 4 0 ++ leBytes 8 want ++ leBytes 8 got

/-- The fields of an entry, lowest first: class copies count as one field each. -/
def entryFields (d r : Nat) : List (Nat × Nat) :=
  if 0xF000 ≤ r then (if d < 12 then [(0, 3)] else (List.range 6).map fun c => (3 * c, 3))
  else ((cfgFields r).filter fun f => f.chg ≠ .l).map fun f => (f.lo, f.width)

/-- Compare one entry with what is expected. -/
def State.bisectEntry (s : State) (d lo : Nat) (got : Word) : State :=
  match (s.expectedStream d)[lo]? with
  | none => s.bisectEnd stNone []
  | some (r, want) =>
    match (entryFields d r).find? fun f => fld want f.1 f.2 ≠ fld got f.1 f.2 with
    | none => s.bisectEnd stNone []
    | some (l, w) => s.bisectEnd stOk (bisectResult r l w (fld want l w) (fld got l w))

/-- The next exchange with a compute die: CENSUS_PART while more than one entry is left, then CENSUS_ENTRY. -/
def State.bisectAsk (s : State) (d lo hi : Nat) : State :=
  let s := s.upCensus fun c => { c with bisect := some (d, lo, hi) }
  if 1 < hi - lo then s.sbSend d true 0x17 (leBytes 2 lo ++ leBytes 2 ((lo + hi) / 2))
  else s.sbSend d true 0x18 (leBytes 2 lo)

/-- The first entry at which two streams differ, by halves. -/
def bisectHub (want got : List (Nat × Word)) : Nat → Nat → Nat → Nat
  | 0, lo, _ => lo
  | n + 1, lo, hi =>
    if hi - lo ≤ 1 then lo
    else
      let mid := (lo + hi) / 2
      if streamCrc ((want.drop lo).take (mid - lo)) ≠ streamCrc ((got.drop lo).take (mid - lo)) then bisectHub want got n lo mid
      else bisectHub want got n mid hi

/-- A die's report serves a bisection that waits for it. -/
def State.bisectReport (s : State) (d : Nat) (lot : BitVec 32) (shade : Word) : State :=
  match s.mgmt.census.bisect with
  | some (e, 0, 0) =>
    if e ≠ d then s
    else if shade = s.expectedShade d then
      if lot = s.mgmt.config.lot then s.bisectEnd stNone []
      else s.bisectEnd stOk (bisectResult 0 0 32 s.mgmt.config.lot.toNat lot.toNat)
    else if d < 12 then s.bisectAsk d 0 (s.expectedStream d).length
    else
      let want := s.expectedStream 12
      let got := s.censusStream 12
      let lo := bisectHub want got 16 0 want.length
      s.bisectEntry 12 lo ((got[lo]?.map Prod.snd).getD 0)
  | _ => s

/-- Begin a bisection of a die for a command. -/
def State.bisectStart (s : State) (iss : Issuer) (d : Nat) : State :=
  let s := s.upCensus fun c => { c with bisect := some (d, 0, 0), bisectFor := some (iss, 0) }
  if d < 12 then s.sbSend d true 0x15 (leBytes 4 s.mgmt.census.round.toNat)
  else s.bisectReport 12 s.mgmt.config.lot (s.shade 12)

/-- An answer of CENSUS_PART: A, B and the CRC. -/
def State.bisectPart (s : State) (d a b : Nat) (crc : Word) : State :=
  match s.mgmt.census.bisect with
  | some (e, lo, hi) =>
    let mid := (lo + hi) / 2
    if e = d && 1 < hi - lo && a = lo && b = mid then
      if streamCrc (((s.expectedStream d).drop lo).take (mid - lo)) ≠ crc then s.bisectAsk d lo mid else s.bisectAsk d mid hi
    else s
  | none => s

/-- A die has stopped answering: the round goes on without it, and a bisection of it ends with PARTNER (R408, R411). -/
def State.dieGone (s : State) (d : Nat) : State :=
  let s := (s.upCensus fun c => { c with waiting := c.waiting.filter fun e => e ≠ d }).censusEnd
  match s.mgmt.census.bisect with
  | some (e, _, _) => if e = d then s.bisectEnd stPartner [] else s
  | none => s

end Sys2Proof.Machine
end

