-- ==== Sys2Proof/Machine/Privilege.lean ====
section
/-! DEFINITION. Who may execute the privileged instructions of a hart and access its custom registers (R44). -/

namespace Sys2Proof.Machine

/-- What an instruction's privilege check gives: it runs, or is illegal, or is a virtual instruction. -/
inductive Allow where
  | yes | illegal | virtual
deriving DecidableEq, Repr

/-- SFENCE.VMA and SINVAL.VMA: by privilege, mstatus.TVM and hstatus.VTVM. -/
def HartState.mayFence (x : HartState) : Allow :=
  match x.priv, x.virt with
  | .m, _ => .yes
  | .u, false => .illegal
  | .u, true => .virtual
  | .s, false => if bit (x.getCsr 0x300) 20 then .illegal else .yes
  | .s, true => if bit (x.getCsr 0x600) 20 then .virtual else .yes

/-- HFENCE and HINVAL: never with V = 1; the G-stage ones obey mstatus.TVM. -/
def HartState.mayHfence (x : HartState) (gStage : Bool) : Allow :=
  if x.virt then .virtual
  else match x.priv with
    | .m => .yes
    | .u => .illegal
    | .s => if gStage && bit (x.getCsr 0x300) 20 then .illegal else .yes

/-- CBCFE or CBZE of the environments above the hart's privilege, as Zicbom and Zicboz publish them. -/
def HartState.envAllows (x : HartState) (i : Nat) : Allow :=
  let me := bit (x.getCsr 0x30A) i
  let he := bit (x.getCsr 0x60A) i
  let se := bit (x.getCsr 0x10A) i
  match x.priv, x.virt with
  | .m, _ => .yes
  | .s, false => if me then .yes else .illegal
  | .u, false => if me && se then .yes else .illegal
  | .s, true => if !me then .illegal else if he then .yes else .virtual
  | .u, true => if !me then .illegal else if he && se then .yes else .virtual

/-- What CBO.INVAL does: by the applicable CBIE fields (R126), a flush or a discarding invalidation. -/
def HartState.inval (x : HartState) : Allow × Cbo :=
  let f (n : Nat) : Nat := fld (x.getCsr n) 4 2
  let as (l : List Nat) : Cbo := if l.contains 1 then .invalFlush else .inval
  match x.priv, x.virt with
  | .m, _ => (.yes, .inval)
  | .s, false => (if f 0x30A = 0 then .illegal else .yes, as [f 0x30A])
  | .u, false => (if f 0x30A = 0 || f 0x10A = 0 then .illegal else .yes, as [f 0x30A, f 0x10A])
  | .s, true => (if f 0x30A = 0 then .illegal else if f 0x60A = 0 then .virtual else .yes, as [f 0x30A, f 0x60A])
  | .u, true =>
    (if f 0x30A = 0 then .illegal else if f 0x60A = 0 || f 0x10A = 0 then .virtual else .yes,
      as [f 0x30A, f 0x60A, f 0x10A])

/-- WFI: by privilege, mstatus.TW and hstatus.VTW. -/
def HartState.mayWait (x : HartState) : Allow :=
  match x.priv, x.virt with
  | .m, _ => .yes
  | .u, false => .illegal
  | .u, true => if bit (x.getCsr 0x300) 21 then .illegal else .virtual
  | .s, false => if bit (x.getCsr 0x300) 21 then .illegal else .yes
  | .s, true => if bit (x.getCsr 0x300) 21 then .illegal else if bit (x.getCsr 0x600) 21 then .virtual else .yes

/-- Who may access a supervisor custom CSR (R44). -/
def HartState.maySuper (x : HartState) : Allow :=
  if x.run = .debug then .yes
  else match x.priv, x.virt with
  | .m, _ => .yes
  | .s, false => if bit x.cqzmctl 0 then .yes else .illegal
  | .u, false => .illegal
  | _, true => if bit x.cqzmctl 0 then .virtual else .illegal

/-- Who may access cqzhue (R44). -/
def HartState.mayHue (x : HartState) : Allow :=
  if x.run = .debug then .yes
  else match x.priv, x.virt with
  | .m, _ => .yes
  | .s, false => if bit x.cqzmctl 1 then .yes else .illegal
  | .u, false => .illegal
  | _, true => if bit x.cqzmctl 1 then .virtual else .illegal

/-- SFENCE.W.INVAL and SFENCE.INVAL.IR: not from U-mode. -/
def HartState.mayInval (x : HartState) : Allow := if x.priv = .u then (if x.virt then .virtual else .illegal) else .yes

end Sys2Proof.Machine
end

