-- ==== Sys2Proof/Machine/Cache.lean ====
section
/-! DEFINITION. The caches of a core and the L3 of a die: lookup, fills, replacement and eviction (chapter 05), and the
coherence of the copies inside a die (R138 to R142). -/

namespace Sys2Proof.Machine

/-! ### Tree pseudo-LRU (R115) -/

/-- The tree bits after way `w` of `2 ^ n` is used: every node on its path points away from it. -/
def plruTouch : Nat → Nat → Nat → BitVec 8 → BitVec 8
  | 0, _, _, t => t
  | n + 1, node, w, t =>
    let right := w / 2 ^ n % 2 = 1
    let t := if right then t &&& ~~~ BitVec.ofNat 8 (2 ^ node) else t ||| BitVec.ofNat 8 (2 ^ node)
    plruTouch n (2 * node + 1 + bitOf right) w t

/-- The way that the tree points at. -/
def plruVictim : Nat → Nat → BitVec 8 → Nat
  | 0, _, _ => 0
  | n + 1, node, t =>
    let right := t.getLsbD node
    bitOf right * 2 ^ n + plruVictim n (2 * node + 1 + bitOf right) t

/-- The tree bits after way `w` is made the next victim: every node on its path points at it. -/
def plruPoint : Nat → Nat → Nat → BitVec 8 → BitVec 8
  | 0, _, _, t => t
  | n + 1, node, w, t =>
    let right := w / 2 ^ n % 2 = 1
    let t := if right then t ||| BitVec.ofNat 8 (2 ^ node) else t &&& ~~~ BitVec.ofNat 8 (2 ^ node)
    plruPoint n (2 * node + 1 + bitOf right) w t

/-- The way a fill takes in a set of `2 ^ n` ways: the lowest invalid way, else the tree's victim (R115). -/
def fillWay {α : Type} (t : Table α) (set n : Nat) (tree : BitVec 8) : Nat :=
  ((List.range (2 ^ n)).find? fun w => (Table.find t (set * 2 ^ n + w)).isNone).getD (plruVictim n 0 tree)

/-! ### Lookup -/

/-- The copy of a line in an L1 cache, under whatever index: what a probe finds by the L2's record of the index bits (R113). -/
def CoreState.findL1d (c : CoreState) (line : Nat) : Option (Nat × L1Line) := c.l1d.find? fun e => e.2.line = line
def CoreState.findL1i (c : CoreState) (line : Nat) : Option (Nat × L1Line) := c.l1i.find? fun e => e.2.line = line

/-- The sets that index bits VA[12:6] and VA[13:6] name (R112). -/
def l1dSet (va : Word) : Nat := fld va 6 7
def l1iSet (va : Word) : Nat := fld va 6 8

/-- The copy that an access finds: in the set of its own virtual address (R112, R113). -/
def CoreState.hitL1d (c : CoreState) (va : Word) (line : Nat) : Option (Nat × L1Line) :=
  c.l1d.find? fun e => e.2.line = line && e.1 / 8 = l1dSet va
def CoreState.hitL1i (c : CoreState) (va : Word) (line : Nat) : Option (Nat × L1Line) :=
  c.l1i.find? fun e => e.2.line = line && e.1 / 4 = l1iSet va
def CoreState.findL2 (c : CoreState) (line : Nat) : Option (Nat × L2Line) := c.l2.find? fun e => e.2.line = line
def DieState.findL3 (d : DieState) (line : Nat) : Option (Nat × L3Line) := d.l3.find? fun e => e.2.line = line
def DieState.findMiss (d : DieState) (line : Nat) : Option L3Miss := d.miss.find? fun m => m.line = line
def DieState.findWb (d : DieState) (line : Nat) : Option WbEntry := d.wb.find? fun w => w.line = line

/-- The set of the L3, bank × 2,048 + set, that holds a line (R116). -/
def l3SetOf (line : Nat) : Nat :=
  let pa := line * 64
  let bank := ((pa >>> 6) % 16) ^^^ ((pa >>> 17) % 16) ^^^ ((pa >>> 28) % 16) ^^^ ((pa >>> 39) % 16)
  let set := ((pa >>> 10) % 2048) ^^^ ((pa >>> 21) % 2048) ^^^ ((pa >>> 32) % 2048)
  bank * 2048 + set

/-! ### Use of a line (R115) -/

/-- The way at a key of a cache of `2 ^ n` ways is used: its set's tree points away from it. -/
def touchWay (t : Table (BitVec 8)) (n key : Nat) : Table (BitVec 8) :=
  Table.put 0 t (key / 2 ^ n) (plruTouch n 0 (key % 2 ^ n) (Table.get 0 t (key / 2 ^ n)))

def CoreState.touchL1d (c : CoreState) (key : Nat) : CoreState := { c with l1dLru := touchWay c.l1dLru 3 key }
def CoreState.touchL1i (c : CoreState) (key : Nat) : CoreState := { c with l1iLru := touchWay c.l1iLru 2 key }

/-- The L2 copy of a line, if there is one, is used. -/
def CoreState.touchL2 (c : CoreState) (line : Nat) : CoreState :=
  match c.findL2 line with
  | some (key, _) => { c with l2Lru := touchWay c.l2Lru 3 key }
  | none => c

/-- A data access to a line of the core uses its L1 copy, or else its L2 copy. -/
def CoreState.touchData (c : CoreState) (va : Word) (line : Nat) : CoreState :=
  match c.hitL1d va line with
  | some (key, _) => c.touchL1d key
  | none => c.touchL2 line

/-! ### Removing copies from a core -/

/-- The L2 records under which index bits each L1 holds a line (R113). -/
def CoreState.noteIx (c : CoreState) (line : Nat) (f : L2Line → L2Line) : CoreState :=
  { c with l2 := c.l2.map fun e => if e.2.line = line then (e.1, f e.2) else e }

/-- Take a line out of a core's L1 data cache, its bytes returned when dirty. -/
def CoreState.dropL1d (c : CoreState) (line : Nat) : CoreState × Option (Bytes × Bool) :=
  match c.findL1d line with
  | none => (c, none)
  | some (_, l) =>
    ({ c with l1d := c.l1d.filter fun e => e.2.line ≠ line }.noteIx line fun l => { l with ixD := none },
      if l.dirty then some (l.data, l.poison) else none)

def CoreState.dropL1i (c : CoreState) (line : Nat) : CoreState :=
  { c with l1i := c.l1i.filter fun e => e.2.line ≠ line }.noteIx line fun l => { l with ixI := none }

/-- Write an L1 data cache's dirty bytes into the L2 copy of the line, leaving the L1 copy clean (R122). -/
def CoreState.cleanL1d (c : CoreState) (line : Nat) : CoreState :=
  match c.findL1d line, c.findL2 line with
  | some (k, l), some (k2, l2) =>
    if l.dirty then
      { c with l1d := Table.insert c.l1d k { l with dirty := false },
               l2 := Table.insert c.l2 k2 { l2 with data := l.data, poison := l.poison, st := .m } }
    else c
  | _, _ => c

/-- Take a line out of a core altogether; dirty bytes, the newest, are returned (R114). -/
def CoreState.dropLine (c : CoreState) (line : Nat) : CoreState × Option (Bytes × Bool) :=
  let (c, d1) := (c.dropL1i line).dropL1d line
  match c.findL2 line with
  | none => (c, d1)
  | some (_, l) =>
    ({ c with l2 := c.l2.filter fun e => e.2.line ≠ line },
      match d1 with
      | some d => some d
      | none => if l.st = .m then some (l.data, l.poison) else none)

/-- Make a core's copy of a line shared; dirty bytes are returned and its copies stay clean. -/
def CoreState.shareLine (c : CoreState) (line : Nat) : CoreState × Option (Bytes × Bool) :=
  let c := c.cleanL1d line
  match c.findL2 line with
  | none => (c, none)
  | some (k, l) =>
    ({ c with l2 := Table.insert c.l2 k { l with st := .s } },
      if l.st = .m then some (l.data, l.poison) else none)

/-- Write dirty bytes into the die's L3 copy in place (R129, R140). -/
def DieState.mergeDirty (d : DieState) (line : Nat) (b : Option (Bytes × Bool)) : DieState :=
  match b, d.findL3 line with
  | some (data, poison), some (k, l) =>
    { d with l3 := Table.insert d.l3 k { l with data := data, poison := poison, st := .m, err := .clean } }
  | _, _ => d

/-- A core's copy has been taken away: it no longer may hold the line (R117). -/
def DieState.absent (d : DieState) (line core : Nat) : DieState :=
  match d.findL3 line with
  | some (k, l) => { d with l3 := Table.insert d.l3 k { l with presence := l.presence &&& ~~~ BitVec.ofNat 24 (2 ^ core) } }
  | none => d

/-! ### Probing the cores of a die -/

/-- Logical cores of die `d`, other than `except`, whose L2 holds the line. -/
def State.holders (s : State) (d : Fin 12) (line : Nat) (except : Option (Fin 22)) : List (Fin 22) :=
  (List.finRange 22).filter fun c =>
    some c ≠ except && ((s.core (coreKey ⟨d, c⟩)).findL2 line).isSome

/-- Every core but one. -/
def coresBut (except : Option (Fin 22)) : List (Fin 22) := (List.finRange 22).filter fun c => some c ≠ except

/-- Harts of these cores, other than `who`, that hold a reservation on the line that has not yet delayed a probe to its end
(R171), at whatever level the line is held (R131). -/
def State.reserved (s : State) (d : Fin 12) (cs : List (Fin 22)) (line : Nat) (who : Option HartId) : List HartId :=
  (cs.flatMap fun c => hartsOf ⟨d, c⟩).filter fun h =>
    some h ≠ who && (match (s.hart (hartIx h)).resv with
      | some r => r.line = line && !r.expired
      | none => false)

/-- Mark reservations as holding back a probe (R171). -/
def State.markDelay (s : State) (hs : List HartId) : State :=
  s.forEach hs fun s h =>
    let x := s.hart (hartIx h)
    s.setHart (hartIx h) { x with resv := x.resv.map fun r => { r with delaying := true } }

/-- End the reservations of harts of these cores on the line. -/
def State.endResv (s : State) (d : Fin 12) (cs : List (Fin 22)) (line : Nat) (who : Option HartId) : State :=
  s.forEach (cs.flatMap fun c => hartsOf ⟨d, c⟩) fun s h =>
    let x := s.hart (hartIx h)
    if some h ≠ who && (x.resv.map (·.line)) = some line then s.setHart (hartIx h) { x with resv := none } else s

/-- Probe the cores of a die for a line, merging dirty data into the L3 (R114, R141): with `inval` their copies go. -/
def State.probeCopies (s : State) (d : Fin 12) (line : Nat) (inval : Bool) (except : Option (Fin 22)) : State :=
  s.forEach (s.holders d line except) fun s c =>
    let k := coreKey ⟨d, c⟩
    let (c', dirty) := if inval then (s.core k).dropLine line else (s.core k).shareLine line
    let x := (s.die d.val).mergeDirty line dirty
    (s.setCore k c').setDie d.val (if inval then x.absent line (s.core k).phys.val else x)

/-- A probe that removes the line from every core but one ends the reservations of every hart but `who` (R171). One that only takes
ownership away ends those of the cores that had it. -/
def State.probeCores (s : State) (d : Fin 12) (line : Nat) (inval : Bool) (except : Option (Fin 22))
    (who : Option HartId := none) : State :=
  let owners := (s.holders d line except).filter fun c =>
    ((s.core (coreKey ⟨d, c⟩)).findL2 line).any fun e => e.2.st ≠ .s
  let s := s.endResv d (if inval then coresBut except else owners) line who
  s.probeCopies d line inval except

/-! ### Errors of the arrays (R137) -/

/-- What a copy does on its next read, by the code or parity it shows and whether it is dirty: it stays, as it was, or poisoned,
or it is invalidated and fetched again. -/
inductive Settled where
  | keep (poison : Bool)
  | gone
deriving DecidableEq, Repr

def LineErr.settle (e : LineErr) (dirty : Bool) : Settled :=
  match e with
  | .clean => .keep false
  | .corrected => .keep false
  | .uncorrectable => if dirty then .keep true else .gone
  | .parity => .gone

/-- The record of an error of a cache array: corrected, unless dirty data was lost. -/
def State.logArray (s : State) (src : ErrSource) (unit line info : Nat) (e : LineErr) (dirty : Bool) : State :=
  match e with
  | .clean => s
  | .corrected => s.logE .corrected src .correctedCode unit (line * 64) 0 info
  | .uncorrectable =>
    if dirty then s.logE .uncorrected src .uncorrectable unit (line * 64) 0 info
    else s.logE .corrected src .correctedCode unit (line * 64) 0 info
  | .parity => s.logE .corrected src .parity unit (line * 64) 0 info

/-- UNIT and INFO of a record of a core's arrays (R498). -/
def State.logCore (s : State) (src : ErrSource) (c : CoreId) (line : Nat) (e : LineErr) (dirty : Bool) : State :=
  let k := coreKey c
  s.logArray src k line (hartIx ⟨c.die, c.core, 0⟩ + (s.core k).phys.val * 65536) e dirty

/-- Settle the error of a core's L1 instruction copy of a line, which is never dirty. -/
def State.settleL1i (s : State) (c : CoreId) (line : Nat) : State :=
  let x := s.core (coreKey c)
  match x.findL1i line with
  | some e =>
    if e.2.err = LineErr.clean then s else (s.setCore (coreKey c) (x.dropL1i line)).logCore .l1 c line .parity false
  | none => s

/-- Settle the error of its L1 data copy. -/
def State.settleL1d (s : State) (c : CoreId) (line : Nat) : State :=
  let x := s.core (coreKey c)
  match x.findL1d line with
  | some (key, l) =>
    if l.err = LineErr.clean then s
    else
      let x := match l.err.settle l.dirty with
        | .keep p => { x with l1d := Table.insert x.l1d key { l with err := .clean, poison := l.poison || p } }
        | .gone => (x.dropL1d line).1
      (s.setCore (coreKey c) x).logCore .l1 c line l.err l.dirty
  | none => s

/-- Settle the error of its L2 copy. -/
def State.settleL2 (s : State) (c : CoreId) (line : Nat) : State :=
  let x := s.core (coreKey c)
  match x.findL2 line with
  | some (key, l) =>
    if l.err = LineErr.clean then s
    else
      let x := match l.err.settle (l.st = CState.m) with
        | .keep p => { x with l2 := Table.insert x.l2 key { l with err := .clean, poison := l.poison || p } }
        | .gone => (x.dropLine line).1
      (s.setCore (coreKey c) x).logCore .l2 c line l.err (l.st = CState.m)
  | none => s

/-- Settle the errors of a core's copies of a line, from the L1 down. -/
def State.settleCore (s : State) (c : CoreId) (line : Nat) : State := ((s.settleL1i c line).settleL1d c line).settleL2 c line

/-- Settle the error of a die's L3 copy: the newer data of its cores is merged into it first. -/
def State.settleL3 (s : State) (d : Fin 12) (line : Nat) : State :=
  match (s.die d.val).findL3 line with
  | none => s
  | some (key, l) =>
    if l.err = .clean then s
    else
      let s := s.logArray .l3 d.val line (key / 2048 + key % 2048 * 16) l.err (l.st = .m)
      let s := s.probeCores d line true none
      let x := s.die d.val
      match x.findL3 line with
      | none => s
      | some (key, l) =>
        s.setDie d.val (match l.err.settle (l.st = .m) with
          | .keep p => { x with l3 := Table.insert x.l3 key { l with err := .clean, poison := l.poison || p } }
          | .gone => { x with l3 := x.l3.filter fun e => e.2.line ≠ line })

/-- The errors of every copy of a line on a die, before the line is read, probed or evicted. -/
def State.settle (s : State) (d : Fin 12) (line : Nat) : State :=
  (s.forEach (coresOf d) fun s c => s.settleCore c line).settleL3 d line

/-! ### Fills of the private caches -/

/-- Put a line into the L1 data cache under the index of `va`; the victim's dirty bytes go to the L2 (R113, R115). A fill for
PREFETCH.R is inserted as most recently used here, since R115 fixes the insertion of hints in the L2 alone: DESIGN CHOICE, log
entry 103. -/
def CoreState.fillL1d (c : CoreState) (va : Word) (line : Nat) (data : Bytes) (poison : Bool) : CoreState :=
  if c.l1dNa then c
  else
    let set := l1dSet va
    let (c, moved) := c.dropL1d line
    let tree := Table.get 0 c.l1dLru set
    let w := fillWay c.l1d set 3 tree
    let c := match Table.find c.l1d (set * 8 + w) with
      | some v => ((c.cleanL1d v.line).dropL1d v.line).1
      | none => c
    let (data, poison, dirty) := match moved with
      | some (b, p) => (b, p, true)
      | none => (data, poison, false)
    { c with l1d := Table.insert c.l1d (set * 8 + w) { line := line, dirty := dirty, data := data, poison := poison },
             l1dLru := Table.put 0 c.l1dLru set (plruTouch 3 0 w tree) }.noteIx line fun l =>
      { l with ixD := some (va.extractLsb' 12 1) }

def CoreState.fillL1i (c : CoreState) (va : Word) (line : Nat) (data : Bytes) (poison : Bool) : CoreState :=
  if c.l1iNa then c
  else
    let set := l1iSet va
    let c := c.dropL1i line
    let tree := Table.get 0 c.l1iLru set
    let w := fillWay c.l1i set 2 tree
    let c := match Table.find c.l1i (set * 4 + w) with
      | some v => c.dropL1i v.line
      | none => c
    { c with l1i := Table.insert c.l1i (set * 4 + w) { line := line, dirty := false, data := data, poison := poison },
             l1iLru := Table.put 0 c.l1iLru set (plruTouch 2 0 w tree) }.noteIx line fun l =>
      { l with ixI := some (va.extractLsb' 12 2) }

/-- Put a line into a core's L2, evicting the set's victim with its L1 copies into the L3 (R114, R115). A reservation on the victim
stands, since the die still holds the line. -/
def State.fillL2 (s : State) (d : Fin 12) (c : Fin 22) (line : Nat) (st : CState) (data : Bytes) (poison hint : Bool) :
    State :=
  let k := coreKey ⟨d, c⟩
  let x := s.core k
  if x.l2Na then s
  else
    let set := line % 2048
    let tree := Table.get 0 x.l2Lru set
    let w := fillWay x.l2 set 3 tree
    let s := match Table.find x.l2 (set * 8 + w) with
      | some v =>
        let s := s.settleCore ⟨d, c⟩ v.line
        let (x', dirty) := (s.core k).dropLine v.line
        (s.setCore k x').setDie d.val ((s.die d.val).mergeDirty v.line dirty)
      | none => s
    let x := s.core k
    let tree' := if hint then plruPoint 3 0 w tree else plruTouch 3 0 w tree
    let s := s.setCore k
      { x with l2 := Table.insert x.l2 (set * 8 + w) { line := line, st := st, data := data, poison := poison },
               l2Lru := Table.put 0 x.l2Lru set tree' }
    let ds := s.die d.val
    match ds.findL3 line with
    | some (k3, l) =>
      let l := { l with presence := l.presence ||| BitVec.ofNat 24 (2 ^ x.phys.val) }
      s.setDie d.val { ds with l3 := Table.insert ds.l3 k3 l }
    | none => s

/-! ### The L3 -/

/-- A hit by any request sets the re-reference value to 0 (R118). -/
def DieState.touchL3 (d : DieState) (line : Nat) : DieState :=
  match d.findL3 line with
  | some (k, l) => { d with l3 := Table.insert d.l3 k { l with rrpv := 0 } }
  | none => d

/-- A hart of the die has a reservation on the line. -/
def State.anyResv (s : State) (d : Fin 12) (line : Nat) : Bool :=
  (hartsOfDie d).any fun h => (s.hart (hartIx h)).resv.any fun r => r.line = line

/-- A way is busy while its line awaits a response from the hub, or is being evicted (R118): a reservation of the die delays the
probe that removes it (R171). A fill that only speculative instructions asked for removes no reserved line (R82). -/
def State.wayBusy (s : State) (d : Fin 12) (spec : Bool) (l : L3Line) : Bool :=
  ((s.die d.val).findMiss l.line).isSome || (spec && s.anyResv d l.line) ||
    (s.reserved d (List.finRange 22) l.line none).any fun h => (s.hart (hartIx h)).resv.any Resv.delaying

/-- One pass of ageing: every permitted way that is not busy gets one older, if it is below 3 (R118). -/
def ageWays (t : Table L3Line) (ws : List Nat) : Table L3Line :=
  ws.foldl (fun t k => match Table.find t k with
    | some l => if l.rrpv.val < 3 then Table.insert t k { l with rrpv := l.rrpv + 1 } else t
    | none => t) t

/-- choose_victim of R118 over the keys of a set: the way, and the table after ageing. Three ageings suffice. -/
def chooseVictim (busy : L3Line → Bool) (t : Table L3Line) (ws : List Nat) : Nat → Option (Nat × Table L3Line)
  | 0 => none
  | fuel + 1 =>
    match ws.find? fun k => (Table.find t k).isNone with
    | some k => some (k, t)
    | none =>
      let free := ws.filter fun k => match Table.find t k with
        | some l => !busy l
        | none => false
      if free.isEmpty then none
      else
        let c := free.filter fun k => match Table.find t k with
          | some l => l.rrpv = 3
          | none => false
        match c.find? fun k => (Table.find t k).any fun l => l.presence = 0 with
        | some k => some (k, t)
        | none =>
          match c.head? with
          | some k => some (k, t)
          | none => chooseVictim busy (ageWays t free) ws fuel

/-- Send a message from a die, unless the hub drops the die's packets (R505). -/
def State.dieSend (s : State) (d : Fin 12) (m : Msg) : State := if s.dieFenced d.val then s else s.send m

/-- The answer, or data, that a die sends in a transaction: hue and class of the request it serves (R151). -/
def reply (m : Msg) (op : Op) (dst : Nat) : Msg :=
  { op := op, line := m.line, src := m.dst, dst := dst, req := m.req, txid := m.txid, hue := m.hue, cls := m.cls }

/-- The identifier of the die's next transaction. -/
def DieState.freeTxid (x : DieState) : BitVec 12 :=
  let used := x.miss.map (·.txid) ++ x.wb.map (·.txid)
  freshTxid used x.nextTxid used.length

/-- Put a dirty line in the L3 writeback buffer and send its WbData (R122). -/
def State.writeback (s : State) (d : Fin 12) (line : Nat) (data : Bytes) (poison : Bool) (hue : BitVec 12) : State :=
  let x := s.die d.val
  let s := s.setDie d.val
    { x with wb := x.wb ++ [{ line := line, op := .wbData, data := data, poison := poison, hue := hue,
                              txid := x.freeTxid, tmo := s.reqTmo d.val }],
             nextTxid := x.freeTxid + 1 }
  s.dieSend d { op := .wbData, line := line, src := d.val, dst := s.homeAgent line, req := d.val, txid := x.freeTxid,
                hue := hue, cls := s.classOf d.val hue, poison := poison, data := data }

/-- Take a line out of a die's L3 with every copy above it: dirty data is returned (R114). -/
def State.evictL3 (s : State) (d : Fin 12) (line : Nat) : State × Option (Bytes × Bool) :=
  let s := (s.settle d line).probeCores d line true none
  let x := s.die d.val
  match x.findL3 line with
  | none => (s, none)
  | some (_, l) =>
    (s.setDie d.val { x with l3 := x.l3.filter fun e => e.2.line ≠ line },
      if l.st = .m then some (l.data, l.poison) else none)

/-- The L3 writeback buffer has no free entry (R122). -/
def DieState.wbFull (x : DieState) : Bool := 128 ≤ x.wb.length

/-- Fill a line into the L3 under the mask of its class (R118, R129). It waits, `false`, when every permitted way is busy, when a
reservation delays the victim's eviction, or when the writeback buffer is full (R122). A fill that waits reads the mask again each
time it is tried: DESIGN CHOICE, log entry 104. -/
def State.fillL3 (s : State) (d : Fin 12) (line : Nat) (st : CState) (data : Bytes) (poison hint : Bool)
    (hue : BitVec 12) (spec : Bool) : Bool × State :=
  let set := l3SetOf line
  let mask := s.wayMask (s.classOf d.val hue)
  let ws := (ones 16 mask).map fun w => set * 16 + w
  match chooseVictim (s.wayBusy d spec) (s.die d.val).l3 ws 4 with
  | none => (false, s)
  | some (k, t) =>
    let s := s.setDie d.val { s.die d.val with l3 := t }
    let done (s : State) : State :=
      let x := s.die d.val
      let l : L3Line :=
        { line := line, st := st, data := data, poison := poison, rrpv := if hint then 3 else 2, presence := 0,
          hue := hue }
      s.setDie d.val { x with l3 := Table.insert x.l3 k l }
    match Table.find t k with
    | none => (true, done s)
    | some v =>
      let held := s.reserved d (List.finRange 22) v.line none
      if (s.die d.val).wbFull then (false, s)
      else if !held.isEmpty then (false, s.markDelay held)
      else
        let (s, dirty) := s.evictL3 d v.line
        match dirty with
        | some (b, p) => (true, done (s.writeback d v.line b p hue))
        | none => (true, done s)

/-! ### Miss registers (R119 to R121, R185, R190) -/

/-- How an access uses miss registers. -/
structure MissKind where
  op : Op
  hint : Bool := false
  /-- Uses an L1 data miss register. -/
  l1d : Bool := false
  l1i : Bool := false
  l2 : Bool := true
  /-- Never uses a reserved L3 register (R121). -/
  sharedOnly : Bool := false
  /-- Does not allocate: memory that Svpbmt marks NC (R81). -/
  nc : Bool := false
  /-- The instruction that asks is speculative. -/
  spec : Bool := false
deriving DecidableEq, Repr

/-- What asking for a line gave: a register holds it (already, or now), it must be tried again, or a hint is dropped. -/
inductive MissAns where
  | issued | wait | drop
deriving DecidableEq, Repr

def isOwn (o : Op) : Bool := o = .rdO || o = .upg || o = .claimZ

def isCmo (o : Op) : Bool := o = .cmoClean || o = .cmoFlush || o = .cmoInval

/-- Take the private caches' miss registers for a line, once per access (R119): none when one is not free. A hint takes none when
20 or more of the 24 L1 data miss registers are busy (R125). -/
def CoreState.takeMiss (c : CoreState) (line : Nat) (k : MissKind) (counted : Bool) : Option CoreState :=
  if k.hint && 20 ≤ c.l1dMiss.length then none else
  let d1 : Option (List (Nat × Nat)) :=
    if !k.l1d || counted then some c.l1dMiss
    else match c.l1dMiss.find? fun e => e.1 = line with
      | some (_, n) =>
        if n < 8 then some (c.l1dMiss.map fun e => if e.1 = line then (line, n + 1) else e) else none
      | none =>
        if c.l1dMiss.length < 24 then some (c.l1dMiss ++ [(line, 1)]) else none
  let i1 : Option (List Nat) :=
    if !k.l1i || c.l1iMiss.contains line then some c.l1iMiss
    else if c.l1iMiss.length < 8 then some (c.l1iMiss ++ [line]) else none
  let l2 : Option (List Nat) :=
    if !k.l2 || c.l2Miss.contains line then some c.l2Miss
    else if c.l2Miss.length < 48 then some (c.l2Miss ++ [line]) else none
  match d1, i1, l2 with
  | some a, some b, some e => some { c with l1dMiss := a, l1iMiss := b, l2Miss := e }
  | _, _, _ => none

/-- Send the request of an L3 miss register (R151, R185). -/
def State.sendMiss (s : State) (d : Fin 12) (m : L3Miss) (data : Option (Bytes × Bool)) : State :=
  s.dieSend d
    { op := m.op, line := m.line, src := d.val, dst := s.homeAgent m.line, req := d.val, txid := m.txid, hue := m.hue,
      cls := s.classOf d.val m.hue, data := (data.map (·.1)).getD [], poison := (data.map (·.2)).getD false }

/-- Ask the hub for a line on behalf of a core (R119 to R121, R138): merge into the line's register, or allocate one. While a
writeback of the line is unacknowledged the request waits in its register. -/
def State.askLine (s : State) (d : Fin 12) (c : Fin 22) (line : Nat) (k : MissKind) (hue : BitVec 12) (counted : Bool)
    (data : Option (Bytes × Bool) := none) : MissAns × State :=
  let stop : MissAns := if k.hint then .drop else .wait
  match (s.core (coreKey ⟨d, c⟩)).takeMiss line k counted with
  | none => (stop, s)
  | some cs =>
    let x := s.die d.val
    match x.findMiss line with
    | some m =>
      if isCmo m.op || isCmo k.op || m.late then (stop, s) else
      let up := isOwn k.op && !isOwn m.op
      (.issued, (s.setCore (coreKey ⟨d, c⟩) cs).setDie d.val
        { x with miss := x.miss.map fun n =>
            if n.line = line then { n with wantOwn := n.wantOwn || up, nc := n.nc && k.nc, spec := n.spec && k.spec } else n })
    | none =>
        let unsent := (x.findWb line).isSome
        let shared := (x.miss.filter (·.shared)).length < 1184
        let own := (x.miss.filter fun m => !m.shared && m.core = c).length < 16
        if !shared && (k.hint || k.sharedOnly || !own) then (stop, s)
        else
          let m : L3Miss :=
            { line := line, op := k.op, hue := hue, txid := x.freeTxid, core := c, shared := shared, hint := k.hint,
              nc := k.nc, spec := k.spec, unsent := unsent, tmo := s.reqTmo d.val }
          let s := (s.setCore (coreKey ⟨d, c⟩) cs).setDie d.val
            { x with miss := x.miss ++ [m], nextTxid := x.freeTxid + 1 }
          (.issued, if unsent then s else s.sendMiss d m data)

/-- The writeback of a line is acknowledged: a request that waited for it is sent (R138). -/
def State.sendUnsent (s : State) (d : Fin 12) (line : Nat) : State :=
  let x := s.die d.val
  match x.findMiss line with
  | some n =>
    if n.unsent && (x.findWb line).isNone then
      let n := { n with unsent := false, tmo := s.reqTmo d.val }
      (s.setDie d.val { x with miss := x.miss.map fun k => if k.line = line then n else k }).sendMiss d n none
    else s
  | none => s

/-- An operation no longer waits for a line: `arrived` when its fill has come, which is no hit (R118). -/
def Waiting.unasked (w : Waiting) (line : Nat) (arrived : Bool) : Waiting :=
  if w.regs.contains line then
    { w with regs := w.regs.filter (· ≠ line), served := if arrived then line :: w.served else w.served }
  else w

/-- The private miss registers of a line free in every core of the die, the line having arrived or not. -/
def State.freeMiss (s : State) (d : Fin 12) (line : Nat) (arrived : Bool := false) : State :=
  let s := s.forEach (hartsOfDie d) fun s h =>
    let x := s.hart (hartIx h)
    if x.waiting.any (·.regs.contains line) || x.walk.any (fun w => w.asked = some line) then
      s.setHart (hartIx h)
        { x with waiting := x.waiting.map fun w => w.unasked line arrived
                 walk := x.walk.map fun w => if w.asked = some line then { w with asked := none, served := arrived } else w }
    else s
  s.forEach (coresOf d) fun s c =>
    let x := s.core (coreKey c)
    if x.l1dMiss.any (·.1 = line) || x.l1iMiss.contains line || x.l2Miss.contains line then
      s.setCore (coreKey c)
        { x with l1dMiss := x.l1dMiss.filter (·.1 ≠ line), l1iMiss := x.l1iMiss.filter (· ≠ line),
                 l2Miss := x.l2Miss.filter (· ≠ line) }
    else s

/-! ### Reading and owning a line from a core -/

/-- What a core's access to a line gave: its bytes, a place in the miss registers, a wait for one, or a dropped hint. -/
inductive LineAns where
  | here (data : Bytes) (poison : Bool)
  | filed
  | wait
  | drop
deriving DecidableEq, Repr

/-- What asking for the line gives the access. -/
def MissAns.toLine : MissAns → LineAns
  | .issued => .filed
  | .wait => .wait
  | .drop => .drop

/-- Which path an access takes (R112, R125, R131). -/
inductive Path where
  | data | fetch | walk | hintR | hintI
deriving DecidableEq, Repr

/-- How an access asks for a line: its address and hue, whether it holds a miss register for the line (R119), whether the line has
come for it (R118), and whether its instruction is speculative (R80). -/
structure Ask where
  va : Word
  hue : BitVec 12
  counted : Bool := false
  served : Bool := false
  spec : Bool := false
deriving DecidableEq, Repr

/-- A demand access that finds the line in the L3 sets its re-reference value to 0; one that the fill itself serves does not (R118). -/
def State.useL3 (s : State) (d : Fin 12) (line : Nat) (counts : Bool) : State :=
  if counts then s.setDie d.val ((s.die d.val).touchL3 line) else s

/-- Read a line for a shared use: from the L1, the L2, the die's L3, or by a request to the home (R131). A hint to a line that is
held changes no replacement state (R125). A probe that takes ownership from a core with a reservation waits for it (R171). -/
def State.readLine (s : State) (h : HartId) (line : Nat) (p : Path) (a : Ask) : LineAns × State :=
  let k := coreIx h
  let s := s.settle h.die line
  let x := s.core k
  let hint := p = .hintR || p = .hintI
  let top : Option (Nat × L1Line) := match p with
    | .data => x.hitL1d a.va line
    | .hintR => x.hitL1d a.va line
    | .fetch => x.hitL1i a.va line
    | _ => none
  match top with
  | some (key, l) =>
    let x := match p with
      | .data => x.touchL1d key
      | .fetch => x.touchL1i key
      | _ => x
    (.here l.data l.poison, s.setCore k x)
  | none =>
    let s := s.setCore k (x.cleanL1d line)
    let up (s : State) (data : Bytes) (poison : Bool) : State :=
      let x := s.core k
      if (x.findL2 line).isNone then s
      else match p with
        | .data => s.setCore k (x.fillL1d a.va line data poison)
        | .hintR => s.setCore k (x.fillL1d a.va line data poison)
        | .fetch => s.setCore k (x.fillL1i a.va line data poison)
        | _ => s
    match (s.core k).findL2 line with
    | some (_, l) =>
      let s := if hint then s else s.setCore k ((s.core k).touchL2 line)
      (.here l.data l.poison, up s l.data l.poison)
    | none =>
      match (s.die h.die.val).findL3 line with
      | some _ =>
        let owners := (s.holders h.die line (some h.core)).filter fun c =>
          ((s.core (coreKey ⟨h.die, c⟩)).findL2 line).any fun e => e.2.st ≠ .s
        let held := s.reserved h.die owners line (some h)
        if !held.isEmpty then (.wait, s.markDelay held)
        else
          let s := (s.probeCores h.die line false (some h.core)).useL3 h.die line (!hint && !a.served)
          match (s.die h.die.val).findL3 line with
          | some (_, l) =>
            let s := s.fillL2 h.die h.core line .s l.data l.poison hint
            (.here l.data l.poison, up s l.data l.poison)
          | none => (.wait, s)
      | none =>
        let kind : MissKind :=
          { op := .rdS, hint := hint, l1d := p = .data || p = .hintR, l1i := p = .fetch, spec := a.spec }
        let (m, s) := s.askLine h.die h.core line kind a.hue a.counted
        (m.toLine, s)

/-- The step of `State.ownLine` that the core's own copy does not settle: own the line at the die. A line that a CBO.CLEAN left in E is
not written while the writeback buffer holds its data, which is then the newest (R141): DESIGN CHOICE, log entry 107. -/
def State.ownDie (s : State) (h : HartId) (line : Nat) (op : Op) (hint : Bool) (a : Ask) : LineAns × State :=
  let k := coreIx h
  let held := s.reserved h.die (coresBut (some h.core)) line (some h)
  let ask (op : Op) : LineAns × State :=
    let (m, s) := s.askLine h.die h.core line { op := op, hint := hint, l1d := !hint } a.hue a.counted
    (m.toLine, s)
  match (s.die h.die.val).findL3 line with
  | none => ask op
  | some (_, l) =>
    if ((s.die h.die.val).findWb line).isSome then (if hint then .drop else .wait, s)
    else if l.st = .s then ask (if op = .claimZ then .claimZ else .upg)
    else if !held.isEmpty then (.wait, s.markDelay held)
    else
      let s := (s.probeCores h.die line true (some h.core) (some h)).useL3 h.die line (!hint && !a.served)
      match (s.die h.die.val).findL3 line with
      | none => (.wait, s)
      | some (_, l) =>
        let x := s.core k
        match x.findL2 line with
        | some (k2, l2) =>
          let x := { x with l2 := Table.insert x.l2 k2 { l2 with st := .e } }
          (.here l.data l.poison, s.setCore k (if hint then x else x.touchData a.va line))
        | none => (.here l.data l.poison, s.fillL2 h.die h.core line .e l.data l.poison hint)

/-- Make a core able to write a line: every other copy on the die goes, and the die owns it (R140). `op` is what is sent
when the die does not. The bytes returned are the newest. -/
def State.ownLine (s : State) (h : HartId) (line : Nat) (op : Op) (hint : Bool) (a : Ask) : LineAns × State :=
  let k := coreIx h
  let s := s.settle h.die line
  let x := (s.core k).cleanL1d line
  let s := s.setCore k x
  match x.findL2 line with
  | some (_, l) =>
    if l.st ≠ .s then (.here l.data l.poison, if hint then s else s.setCore k (x.touchData a.va line))
    else s.ownDie h line op hint a
  | none => s.ownDie h line op hint a

/-! ### Memory that Svpbmt marks NC: no allocation (R81) -/

/-- Read a line without allocating: from the die's L3, or from the data of the register that fetched it. -/
def State.readNc (s : State) (h : HartId) (line : Nat) (a : Ask) : LineAns × State :=
  let s := s.settle h.die line
  match (s.die h.die.val).findL3 line with
  | some _ =>
    let owners := (s.holders h.die line none).filter fun c =>
      ((s.core (coreKey ⟨h.die, c⟩)).findL2 line).any fun e => e.2.st ≠ .s
    let held := s.reserved h.die owners line (some h)
    if !held.isEmpty then (.wait, s.markDelay held)
    else
      let s := (s.probeCores h.die line false none (some h)).useL3 h.die line (!a.served)
      match (s.die h.die.val).findL3 line with
      | some (_, l) => (.here l.data l.poison, s)
      | none => (.wait, s)
  | none =>
    match (s.die h.die.val).findMiss line with
    | some { filled := some m, nc := true, .. } => (.here m.data m.poison, s)
    | _ =>
      let (m, s) := s.askLine h.die h.core line { op := .rdS, l1d := true, nc := true, spec := a.spec } a.hue a.counted
      (m.toLine, s)

/-- Own a line without allocating it above the L3. -/
def State.ownNc (s : State) (h : HartId) (line : Nat) (op : Op) (a : Ask) : LineAns × State :=
  let s := s.settle h.die line
  let ask (op : Op) : LineAns × State :=
    let (m, s) := s.askLine h.die h.core line { op := op, l1d := true, nc := true } a.hue a.counted
    (m.toLine, s)
  match (s.die h.die.val).findL3 line with
  | some (_, l) =>
    let held := s.reserved h.die (List.finRange 22) line (some h)
    if ((s.die h.die.val).findWb line).isSome then (.wait, s)
    else if l.st = .s then ask (if op = .claimZ then .claimZ else .upg)
    else if !held.isEmpty then (.wait, s.markDelay held)
    else
      let s := (s.probeCores h.die line true none (some h)).useL3 h.die line (!a.served)
      match (s.die h.die.val).findL3 line with
      | some (_, l) => (.here l.data l.poison, s)
      | none => (.wait, s)
  | none =>
    match (s.die h.die.val).findMiss line with
    | some { filled := some m, nc := true, op := o, .. } =>
      if isOwn o && m.flag ≠ 0 then (.here m.data m.poison, s) else (.wait, s)
    | _ => ask op

/-- Write bytes of a line that `State.ownNc` gave. -/
def State.writeNc (s : State) (d : Fin 12) (line off : Nat) (bytes : Bytes) (whole : Bool) : State :=
  let ds := s.die d.val
  match ds.findL3 line with
  | some (k3, l) =>
    let l := { l with st := .m, data := splice l.data off bytes, poison := l.poison && !whole }
    s.setDie d.val { ds with l3 := Table.insert ds.l3 k3 l }
  | none =>
    s.setDie d.val
      { ds with miss := ds.miss.map fun n =>
          if n.line = line then
            { n with ncDirty := true, filled := n.filled.map fun m =>
                { m with data := splice m.data off bytes, poison := m.poison && !whole } }
          else n }

/-- CBO.ZERO on NC memory: the zeros go to memory, and no copy stays (R128). -/
def State.zeroNc (s : State) (d : Fin 12) (line : Nat) (hue : BitVec 12) : State :=
  match (s.die d.val).findL3 line with
  | some _ => (s.evictL3 d line).1.writeback d line zeroLine false hue
  | none => s.writeNc d line 0 zeroLine true

/-- Write bytes into a line that the core may write, at the level R131 selects; reservations of the core's other hart on
the line end. `whole` is a 64-byte write, which clears poison (R137). -/
def State.writeLine (s : State) (h : HartId) (va : Word) (line off : Nat) (bytes : Bytes) (whole : Bool) : State :=
  let k := coreIx h
  let s := s.endResv h.die [h.core] line (some h)
  let x := s.core k
  match x.findL2 line with
  | some _ =>
    let x := if (x.hitL1d va line).isSome then x
      else
        let y := ((x.cleanL1d line).dropL1d line).1
        match y.findL2 line with
        | some (_, l) => y.fillL1d va line l.data l.poison
        | none => y
    match x.hitL1d va line, x.findL2 line with
    | some (k1, l), some (k2, l2) =>
      s.setCore k
        ({ x with l1d := Table.insert x.l1d k1
                    { l with dirty := true, data := splice l.data off bytes, poison := l.poison && !whole },
                  l2 := Table.insert x.l2 k2 { l2 with st := .m } }.touchL1d k1)
    | none, some (k2, l2) =>
      s.setCore k
        { x with l2 := Table.insert x.l2 k2
                   { l2 with st := .m, data := splice l2.data off bytes, poison := l2.poison && !whole } }
    | _, none => s
  | none =>
    let ds := s.die h.die.val
    match ds.findL3 line with
    | some (k3, l) =>
      let l := { l with st := .m, data := splice l.data off bytes, poison := l.poison && !whole }
      s.setDie h.die.val { ds with l3 := Table.insert ds.l3 k3 l }
    | none => s

end Sys2Proof.Machine
end

