-- ==== Sys2Proof/Machine/Translate.lean ====
section
/-! DEFINITION. Address translation (chapter 04): translation caches and their tags, the walker, the checks of entries, the
faults of walks, and the fences. -/

namespace Sys2Proof.Machine

/-- The access type of R109. Shadow-stack loads fault as stores do, as Zicfiss publishes (assumption 21). -/
def Need.acc : Need → AccType
  | .fetch => .fetch
  | .load => .load
  | .loadX => .load
  | _ => .store

/-- The store class of R97. -/
def Need.isStore : Need → Bool
  | .store => true
  | .ssStore => true
  | _ => false

def Need.isShadow : Need → Bool
  | .ssLoad => true
  | .ssStore => true
  | _ => false

/-- What governs a translation: the tags of R92 and the root tables. -/
structure Ctx where
  virt : Bool
  vmid : Option (BitVec 14)
  asid : BitVec 16
  mode : BitVec 4
  gmode : BitVec 4
  root : Nat
  groot : Nat
deriving DecidableEq, Repr

/-- The context of a hart's access: satp for V = 0, vsatp and hgatp for V = 1. -/
def HartState.ctx (x : HartState) (virt : Bool) : Ctx :=
  let first := if virt then x.getCsr 0x280 else x.getCsr 0x180
  let g := x.getCsr 0x680
  { virt := virt, vmid := if virt then some (g.extractLsb' 44 14) else none,
    asid := first.extractLsb' 44 16, mode := first.extractLsb' 60 4,
    gmode := if virt then g.extractLsb' 60 4 else 0,
    root := fld first 0 44 * 4096, groot := fld g 0 44 / 4 * 4 * 4096 }

/-- Levels of a mode: Sv39 8, Sv48 9, Sv57 10 (R87). -/
def levelsOf (mode : BitVec 4) : Nat := if mode = 8 then 3 else if mode = 9 then 4 else if mode = 10 then 5 else 0

/-- Address bits that a mode translates. -/
def vaBits (mode : BitVec 4) : Nat := 12 + 9 * levelsOf mode

/-- The address is the sign extension of its translated bits. -/
def canonical (mode : BitVec 4) (va : Word) : Bool :=
  mode = 0 || va.toNat >>> (vaBits mode - 1) = 0 || va.toNat >>> (vaBits mode - 1) = 2 ^ (65 - vaBits mode) - 1

/-- The kind of entry that serves a final translation of the context (R91). -/
def Ctx.kind (c : Ctx) : EntryKind :=
  if !c.virt then .single else if c.mode = 0 then .gStage else if c.gmode = 0 then .vs else .combined

/-- Equal tags (R92). -/
def TlbEntry.tagged (e : TlbEntry) (c : Ctx) : Bool :=
  e.kind = c.kind && e.vmid = c.vmid && (e.asid = none || e.asid = some c.asid || c.kind = .gStage) &&
    (e.mode = c.mode || c.kind = .gStage) && e.gmode = c.gmode

def TlbEntry.covers (e : TlbEntry) (addr : Nat) : Bool := addr / 2 ^ e.sizeBits = e.vpn

/-- The host physical address that the entry gives. -/
def TlbEntry.pa (e : TlbEntry) (addr : Nat) : Nat := e.ppn * 2 ^ e.sizeBits + addr % 2 ^ e.sizeBits

/-- A structure with a new entry in a set of `ways`: its equal is replaced; if the set is full, entry `n` of the set goes. Which
entry goes is a free choice (assumption 22). -/
def place {α : Type} (same inSet : α → Bool) (ways : Nat) (l : List α) (a : α) (n : Nat) : List α :=
  let l := l.filter (!same ·)
  let mine := l.filter inSet
  if mine.length < ways then l ++ [a] else l.filter (!inSet ·) ++ mine.eraseIdx (n % mine.length) ++ [a]

/-- Two entries that no lookup tells apart. -/
def TlbEntry.same (a b : TlbEntry) : Bool :=
  a.kind = b.kind && a.vmid = b.vmid && a.asid = b.asid && a.mode = b.mode && a.gmode = b.gmode &&
    a.sizeBits = b.sizeBits && a.vpn = b.vpn

def HartState.addTlb (x : HartState) (instr : Bool) (e : TlbEntry) (n : Nat) : HartState :=
  if instr then { x with itlb := place e.same (fun _ => true) 64 x.itlb e n }
  else { x with dtlb := place e.same (fun _ => true) 64 x.dtlb e n }

/-- The set of the small-page L2 TLB that holds the entry. -/
def TlbEntry.l2Set (e : TlbEntry) : Nat := Config.tlbSet e.vpn e.sizeBits % 256

/-- Install in the L2 TLB: small pages up to 2 MiB, large ones apart (R91). -/
def CoreState.addTlb (c : CoreState) (e : TlbEntry) (n : Nat) : CoreState :=
  if e.sizeBits ≤ 21 then { c with l2tlb := place e.same (fun b => b.l2Set = e.l2Set) 12 c.l2tlb e n }
  else { c with l2tlbLarge := place e.same (fun _ => true) 32 c.l2tlbLarge e n }

/-- Remove entries from a hart's L1 TLBs and its core's L2 TLB. -/
def State.dropTlb (s : State) (h : HartId) (p : TlbEntry → Bool) : State :=
  let x := s.hart (hartIx h)
  let s := s.setHart (hartIx h) { x with itlb := x.itlb.filter (!p ·), dtlb := x.dtlb.filter (!p ·) }
  let c := s.core (coreIx h)
  s.setCore (coreIx h) { c with l2tlb := c.l2tlb.filter (!p ·), l2tlbLarge := c.l2tlbLarge.filter (!p ·) }

/-! ### Page-table entries (R88 to R90) -/

/-- What an entry that the walker reads is. -/
inductive PteKind where
  | bad
  | table (pa : Nat)
  | leaf (sizeBits ppn : Nat) (attr : Attr) (a g : Bool)
deriving DecidableEq, Repr

/-- The checks of R89 at a level. `keyed` is the applicable enable; a shadow-stack leaf is R = 0, W = 1, X = 0 where
Zicfiss enables it; PBMT is reserved where Svpbmt's enable is off (log entry 38). -/
def readPte (v : Word) (level : Nat) (gStage keyed shadow pbmtOn : Bool) : PteKind :=
  let r := bit v 1
  let w := bit v 2
  let x := bit v 3
  let ss := !r && w && !x && shadow && !gStage
  let ppn := fld v 10 44
  if !bit v 0 || (!r && w && !ss) then .bad
  else if !r && !x && !ss then
    if fld v 54 10 ≠ 0 || bit v 4 || bit v 6 || bit v 7 || level = 0 then .bad else .table (ppn * 4096)
  else
    let key := fld v 56 4
    let napot := bit v 63
    if bit v 60 || fld v 54 2 ≠ 0 || (key ≠ 0 && (gStage || !keyed)) || fld v 61 2 = 3 || (fld v 61 2 ≠ 0 && !pbmtOn) then .bad
    else if ppn % 2 ^ (9 * level) ≠ 0 || (napot && !(level = 0 && ppn % 16 = 8)) then .bad
    else
      let size := if napot then 16 else 12 + 9 * level
      let u := bit v 4
      let attr : Attr :=
        if gStage then { gr := r && u, gw := w && u, gx := x && u, gd := bit v 7, gpbmt := BitVec.ofNat 2 (fld v 61 2) }
        else { r := r, w := w, x := x, u := u, d := bit v 7, pbmt := BitVec.ofNat 2 (fld v 61 2),
               key := BitVec.ofNat 4 key }
      .leaf size (ppn * 4096 / 2 ^ size) attr (bit v 6) (bit v 5)

/-! ### Faults of walks and of permissions (R97, R108) -/

def pageFault (need : Need) (va : Word) (virt : Bool) : TrapInfo :=
  { cause := pageCause need.acc, tval := va, gva := virt }

def accessFault (need : Need) (va : Word) (virt : Bool) : TrapInfo :=
  { cause := accessCause need.acc, tval := va, gva := virt }

/-- A guest-page fault: `own` for the final access, and not for a VS-stage table (R108). -/
def guestFault (need : Need) (va : Word) (gpa : Nat) (own : Bool) : TrapInfo :=
  { cause := guestCause need.acc, tval := va, htval := BitVec.ofNat 64 (gpa / 4), gva := true, own := own }

/-- What a first-stage leaf denies an access: the exception, and whether R98 removes the entries. -/
def HartState.denies1 (x : HartState) (a : Attr) (need : Need) (st : Stamp) (hint : Bool) (va : Word) :
    Option (TrapInfo × Bool) :=
  let vs := x.getCsr 0x200
  let m := x.getCsr 0x300
  let sum := if st.virt then bit vs 18 else bit m 18
  let mxr := bit m 19 || (st.virt && bit vs 19)
  let ss := a.w && !a.r
  let level := match st.priv with
    | .u => a.u
    | .s => !a.u || (sum && need ≠ .fetch)
    | .m => true
  let page := some (pageFault need va st.virt, false)
  let denied := some (accessFault need va st.virt, false)
  if !level then page
  else if need.isShadow && !ss then (if a.r && !a.w then page else denied)
  else if need = .store && ss then denied
  else
    let ok := match need with
      | .fetch => a.x
      | .load => a.r || ss || (mxr && a.x)
      | .loadX => a.x
      | .cbo => a.r || a.w || (mxr && a.x)
      | _ => a.w
    if !ok then page
    else if need.isStore && !hint && !a.d then some (pageFault need va st.virt, true)
    else none

/-- The same for the G stage. -/
def HartState.denies2 (x : HartState) (a : Attr) (need : Need) (hint : Bool) (va : Word) (gpa : Nat) : Option (TrapInfo × Bool) :=
  let m := x.getCsr 0x300
  let ok := match need with
    | .fetch => a.gx
    | .load => a.gr || (bit m 19 && a.gx)
    | .loadX => a.gx
    | .store => a.gw
    | .cbo => a.gr || a.gw || (bit m 19 && a.gx)
    | _ => a.gr && a.gw
  if !ok then some (guestFault need va gpa true, false)
  else if need.isStore && !hint && !a.gd then some (guestFault need va gpa true, true)
  else none

/-- Whether Svpbmt is enabled for a stage. -/
def HartState.pbmtOn (x : HartState) (virt gStage : Bool) : Bool :=
  bit (x.getCsr 0x30A) 62 && (gStage || !virt || bit (x.getCsr 0x60A) 62)

/-- Whether Zicfiss is enabled for the first stage of an access. -/
def HartState.shadowOn (x : HartState) (virt : Bool) : Bool :=
  bit (x.getCsr 0x30A) 3 && (!virt || bit (x.getCsr 0x60A) 3)

/-- What a held translation denies an access, checked as if a walk had just produced it (R105): what R89 and R97 say of its
first-stage leaf, then of its G-stage leaf. -/
def HartState.denies (x : HartState) (e : TlbEntry) (need : Need) (st : Stamp) (hint keyed : Bool) (va : Word) :
    Option (TrapInfo × Bool) :=
  let a := e.attr
  let gpa := if e.kind = .gStage then va.toNat else e.gpa + va.toNat % 2 ^ e.sizeBits
  let first : Option (TrapInfo × Bool) :=
    if e.kind = .gStage then (if need.isShadow then some (accessFault need va st.virt, false) else none)
    else if (!keyed && a.key ≠ 0) || (a.w && !a.r && !x.shadowOn st.virt) || (a.pbmt ≠ 0 && !x.pbmtOn st.virt false) then
      some (pageFault need va st.virt, false)
    else x.denies1 a need st hint va
  match first with
  | some f => some f
  | none =>
    if e.kind = .single || e.kind = .vs then none
    else if a.gpbmt ≠ 0 && !x.pbmtOn true true then some (guestFault need va gpa true, false)
    else x.denies2 a need hint va gpa

/-! ### Starting and advancing a walk (R94 to R96) -/

/-- The index of an address into a table of a level; the G-stage root is widened by two bits. -/
def tableIx (addr level : Nat) (wide : Bool) : Nat :=
  addr / 2 ^ (12 + 9 * level) % (if wide then 2048 else 512)

/-- A walk cache entry for an address, in the first stage. -/
def WalkEntry.serves (e : WalkEntry) (k : Ctx) (va : Nat) : Bool :=
  e.vmid = k.vmid && (e.asid = none || e.asid = some k.asid) && e.mode = k.mode && va / 2 ^ (12 + 9 * (e.level + 1)) = e.prefixVpn

/-- A walk cache entry for an address, in the G stage. -/
def WalkEntry.servesG (e : WalkEntry) (k : Ctx) (gpa : Nat) : Bool :=
  e.vmid = k.vmid && e.mode = k.gmode && gpa / 2 ^ (12 + 9 * (e.level + 1)) = e.prefixVpn

/-- A G-stage leaf for a guest physical address. -/
def TlbEntry.servesG (e : TlbEntry) (k : Ctx) (gpa : Nat) : Bool :=
  e.kind = .gStage && e.vmid = k.vmid && e.gmode = k.gmode && e.covers gpa

/-- The deepest table that entries of a walk cache name, and whether it was reached through a global entry; or the root. -/
def deepest (hit : List WalkEntry) (top root : Nat) : Nat × Nat × Bool :=
  hit.foldl (fun b e => if e.level < b.1 then (e.level, e.table, e.asid.isNone) else b) (top, root, false)

/-- The deepest first-stage table that the walk cache holds for an address, or the root. -/
def CoreState.startAt (c : CoreState) (k : Ctx) (va : Nat) : Nat × Nat × Bool :=
  deepest (c.s1Cache.filter fun e => e.serves k va) (levelsOf k.mode - 1) k.root

/-- The same for the G stage. -/
def CoreState.startG (c : CoreState) (k : Ctx) (gpa : Nat) : Nat × Nat :=
  let (l, t, _) := deepest (c.gCache.filter fun e => e.servesG k gpa) (levelsOf k.gmode - 1) k.groot
  (l, t)

/-- A G-stage leaf held in the L2 TLB for a guest physical address. -/
def CoreState.gLeaf (c : CoreState) (k : Ctx) (gpa : Nat) : Option TlbEntry :=
  (c.l2tlb ++ c.l2tlbLarge).find? fun e => e.servesG k gpa

/-- The parity failures of R110 in the log. -/
def State.tlbParity (s : State) (h : HartId) (failed : Bool) : State :=
  if failed then s.logE .corrected .mmu .parity (coreUnit h) 0 0 (s.coreInfo h) else s

/-- Entries that a lookup of a walk finds with bad parity are invalidated, and a corrected error is logged (R110). -/
def State.walkParity (s : State) (h : HartId) (s1 g : WalkEntry → Bool) (leaf : TlbEntry → Bool) : State :=
  let c := s.core (coreIx h)
  let keepW (p : WalkEntry → Bool) (l : List WalkEntry) : List WalkEntry := l.filter fun e => !(p e && !e.parityOk)
  let keepT (l : List TlbEntry) : List TlbEntry := l.filter fun e => !(leaf e && !e.parityOk)
  let c' := { c with s1Cache := keepW s1 c.s1Cache, gCache := keepW g c.gCache, l2tlb := keepT c.l2tlb, l2tlbLarge := keepT c.l2tlbLarge }
  (s.setCore (coreIx h) c').tlbParity h (c' ≠ c)

/-- The context that a walk began under. -/
def Walk.ctx (w : Walk) : Ctx :=
  { virt := w.stamp.virt, asid := w.asid, vmid := w.vmid, mode := w.mode, gmode := w.gmode, root := 0, groot := w.groot }

/-- End a walk with an exception, which its access meets when it is next tried. A speculative walk and a hint's raise
nothing, but end the same way (R96, R109). -/
def State.walkFault (s : State) (h : HartId) (w : Walk) (t : TrapInfo) : State :=
  let x := s.hart (hartIx h)
  s.setHart (hartIx h) { x with walk := some { w with fault := some t } }

/-- R98: remove what could repeat a fault of R97, if the fault will be taken. -/
def State.dropFor (s : State) (h : HartId) (c : Ctx) (va gpa : Nat) (guest : Bool) : State :=
  s.dropTlb h fun e =>
    (e.tagged c && e.covers va) || (guest && e.kind = EntryKind.gStage && e.vmid = c.vmid && e.covers gpa)

/-- Install what a completed walk found (R95), ending it. -/
def State.walkDone (s : State) (h : HartId) (w : Walk) (e : TlbEntry) (g : Option TlbEntry) : State :=
  let x := s.hart (hartIx h)
  let n := s.free
  let s := { s with free := n + 3 + w.nonLeaf.length + w.gNonLeaf.length }
  let s := s.setHart (hartIx h) { (x.addTlb (w.need = .fetch) e (Config.freeNat n)) with walk := none }
  let c := (s.core (coreIx h)).addTlb e (Config.freeNat (n + 1))
  let c : CoreState := match g with
    | some g => if e.kind = EntryKind.gStage then c else c.addTlb g (Config.freeNat (n + 2))
    | none => c
  let sameW (a b : WalkEntry) : Bool :=
    a.vmid = b.vmid && a.asid = b.asid && a.mode = b.mode && a.level = b.level && a.prefixVpn = b.prefixVpn
  let put (ways : Nat) (l : List WalkEntry) (q : WalkEntry × Nat) : List WalkEntry :=
    place (sameW q.1) (fun _ => true) ways l q.1 (Config.freeNat (n + 3 + q.2))
  let c := { c with s1Cache := w.nonLeaf.zipIdx.foldl (put 64) c.s1Cache,
                    gCache := (w.gNonLeaf.zipIdx w.nonLeaf.length).foldl (put 32) c.gCache }
  s.setCore (coreIx h) c

/-- The entry that a first-stage leaf makes alone. -/
def Walk.entry (w : Walk) (k : EntryKind) (l : S1Leaf) : TlbEntry :=
  { kind := k, vmid := w.vmid, asid := if l.global then none else some w.asid, mode := w.mode, gmode := w.gmode,
    vpn := w.va.toNat / 2 ^ l.sizeBits, sizeBits := l.sizeBits, ppn := l.pa / 2 ^ l.sizeBits, attr := l.attr, gpa := 0 }

/-- The combined entry of a first-stage and a G-stage leaf (R91): the smaller page, and the permissions of both. -/
def Walk.combine (w : Walk) (l : S1Leaf) (g : TlbEntry) : TlbEntry :=
  let size := min l.sizeBits g.sizeBits
  let pa := g.pa l.pa
  { kind := .combined, vmid := w.vmid, asid := if l.global then none else some w.asid, mode := w.mode, gmode := w.gmode,
    vpn := w.va.toNat / 2 ^ size, sizeBits := size, ppn := pa / 2 ^ size,
    attr := { l.attr with gr := g.attr.gr, gw := g.attr.gw, gx := g.attr.gx, gd := g.attr.gd,
                          gpbmt := g.attr.gpbmt },
    gpa := l.pa / 2 ^ size * 2 ^ size }

/-- Go on, without a read, as far as held translations allow: a read is owed when the walk stands with its G-stage walk
open, or with a table's host physical address known. -/
def State.walkSettle (s : State) (h : HartId) (w : Walk) : State :=
  let k := w.ctx
  let s := s.walkParity h (fun _ => false)
    (fun e => (w.s1.map S1Leaf.pa).any (e.servesG k) || e.servesG k (w.table + tableIx w.va.toNat w.level false * 8))
    (fun e => (w.s1.map S1Leaf.pa).any (e.servesG k) || e.servesG k (w.table + tableIx w.va.toNat w.level false * 8))
  let x := s.hart (hartIx h)
  let c := s.core (coreIx h)
  let keep (w : Walk) : State := s.setHart (hartIx h) { x with walk := some w }
  let gwalk (gpa : Nat) (forTable : Bool) : Walk :=
    let (l, t) := c.startG k gpa
    { w with g := some { gpa := gpa, level := l, table := t, forTable := forTable } }
  match w.s1 with
  | some l =>
    if w.gmode = 0 then s.walkDone h w (w.entry k.kind l) none
    else if 2 ^ (vaBits w.gmode + 2) ≤ l.pa then s.walkFault h w (guestFault w.need w.va l.pa true)
    else match c.gLeaf k l.pa with
      | some g => s.walkDone h w (if w.mode = 0 then g else w.combine l g) none
      | none => keep (gwalk l.pa false)
  | none =>
    if w.gmode = 0 || w.tablePa.isSome then keep w
    else
      let gpa := w.table + tableIx w.va.toNat w.level false * 8
      if 2 ^ (vaBits w.gmode + 2) ≤ gpa then s.walkFault h w (guestFault w.need w.va gpa false)
      else match c.gLeaf k gpa with
        | some g =>
          if g.attr.gr then keep { w with tablePa := some (g.pa gpa / 4096 * 4096) }
          else s.walkFault h w (guestFault w.need w.va gpa false)
        | none => keep (gwalk gpa true)

/-- Start a walk for an access (R96), unless the hart already has one. One that has ended in a fault which its access no longer
wants gives way: a speculative walk's fault is met again by a walk from the start (R96). -/
def State.walkStart (s : State) (h : HartId) (va : Word) (need : Need) (st : Stamp) (spec hint : Bool) : State :=
  let x := s.hart (hartIx h)
  if x.walk.any (·.fault.isNone) then s
  else
    let s := s.hartEvent h 0x09 st
    let k := x.ctx st.virt
    let s := s.walkParity h (fun e => e.serves k va.toNat) (fun _ => false) (fun _ => false)
    let (level, table, global) := (s.core (coreIx h)).startAt k va.toNat
    let w : Walk :=
      { va := va, need := need, spec := spec, hint := hint, stamp := st, asid := k.asid, vmid := k.vmid, mode := k.mode,
        gmode := k.gmode, groot := k.groot, global := global, level := level, table := table, tablePa := if k.gmode = 0 then some table else none,
        s1 := if k.mode = 0 then some { pa := va.toNat, sizeBits := 56, attr := {}, global := true } else none, g := none }
    s.walkSettle h w

/-- The physical address of the entry that the walk reads next. -/
def Walk.nextPa (w : Walk) : Option Nat :=
  match w.g with
  | some g => some (g.table + tableIx g.gpa g.level (g.level + 1 = levelsOf w.gmode) * 8)
  | none => w.tablePa.map fun t => t + tableIx w.va.toNat w.level false * 8

/-- The key enable that applies to a first stage. -/
def HartState.keyOn (x : HartState) (virt : Bool) : Bool := bit x.cqzkeyctl (if virt then 1 else 0)

/-- The key interpretation of an access through a held translation: the enable, or either reading for one cached before a change
that no fence has followed (R58). -/
def State.keyEnable (s : State) (h : HartId) (virt : Bool) (e : TlbEntry) : Bool × State :=
  let x := s.hart (hartIx h)
  if (if virt then x.vkeMix else x.keMix) && e.old.getLsbD h.thread.val then
    let (n, s) := s.takeNat
    (n % 2 = 0, s)
  else (x.keyOn virt, s)

/-- Every held first-stage translation of a context kind is marked as older than a change of its key enable (R58). -/
def State.markOld (s : State) (h : HartId) (virt : Bool) : State :=
  let mark (e : TlbEntry) : TlbEntry :=
    if e.kind ≠ .gStage && e.vmid.isSome = virt then { e with old := e.old ||| BitVec.ofNat 2 (2 ^ h.thread.val) } else e
  let x := s.hart (hartIx h)
  let s := s.setHart (hartIx h) { x with itlb := x.itlb.map mark, dtlb := x.dtlb.map mark }
  let c := s.core (coreIx h)
  s.setCore (coreIx h) { c with l2tlb := c.l2tlb.map mark, l2tlbLarge := c.l2tlbLarge.map mark }

/-- The walk has read entry `v`: it goes on, faults, or completes (R89, R95, R97). What a first-stage leaf denies the access outranks
the faults of its G stage (R61). Where the sixteen entries of a 64 KiB page differ, the one that the walk reads at the address's own
index, or the cached one, translates the access: R90 lets any one of them. DESIGN CHOICE, log entry 105. -/
def State.walkGot (s : State) (h : HartId) (w : Walk) (v : Word) : State :=
  let x := s.hart (hartIx h)
  let k := w.ctx
  let quiet := w.spec || w.hint
  let w := { w with asked := none, served := false }
  match w.g with
  | some g =>
    let bad (s : State) (drop : Bool) : State :=
      let s := if drop && !quiet then s.dropFor h k w.va.toNat g.gpa true else s
      s.walkFault h w (guestFault w.need w.va g.gpa (!g.forTable))
    match readPte v g.level true false false (x.pbmtOn true true) with
    | .bad => bad s false
    | .table t =>
      let e : WalkEntry :=
        { vmid := w.vmid, asid := none, mode := w.gmode, prefixVpn := g.gpa / 2 ^ (12 + 9 * g.level),
          level := g.level - 1, table := t }
      s.setHart (hartIx h)
        { x with walk := some { w with g := some { g with level := g.level - 1, table := t },
                                       gNonLeaf := w.gNonLeaf ++ [e] } }
    | .leaf size ppn attr a _ =>
      if !a then bad s true
      else
        let e : TlbEntry :=
          { kind := .gStage, vmid := w.vmid, asid := none, mode := 0, gmode := w.gmode, vpn := g.gpa / 2 ^ size,
            sizeBits := size, ppn := ppn, attr := attr, gpa := 0 }
        if g.forTable then
          if attr.gr then s.walkSettle h { w with g := none, tablePa := some (e.pa g.gpa / 4096 * 4096) } else bad s false
        else match w.s1 with
          | some l => s.walkDone h { w with g := none } (if w.mode = 0 then e else w.combine l e) (some e)
          | none => s
  | none =>
    match readPte v w.level false (x.keyOn w.stamp.virt) (x.shadowOn w.stamp.virt) (x.pbmtOn w.stamp.virt false) with
    | .bad => s.walkFault h w (pageFault w.need w.va w.stamp.virt)
    | .table t =>
      let global := w.global || bit v 5
      let e : WalkEntry :=
        { vmid := w.vmid, asid := if global then none else some w.asid, mode := w.mode,
          prefixVpn := w.va.toNat / 2 ^ (12 + 9 * w.level), level := w.level - 1, table := t }
      s.walkSettle h
        { w with level := w.level - 1, table := t, tablePa := if w.gmode = 0 then some t else none, global := global,
                 nonLeaf := w.nonLeaf ++ [e] }
    | .leaf size ppn attr a g =>
      let fault (t : TrapInfo) (drop : Bool) : State :=
        (if drop && !quiet then s.dropFor h k w.va.toNat 0 false else s).walkFault h w t
      if !a then fault (pageFault w.need w.va w.stamp.virt) true
      else match x.denies1 attr w.need w.stamp w.hint w.va with
      | some (t, drop) => fault t drop
      | none =>
        s.walkSettle h
          { w with s1 := some { pa := ppn * 2 ^ size + w.va.toNat % 2 ^ size, sizeBits := size, attr := attr,
                                global := w.global || g } }

/-- A request that misses the L2, and perhaps the L3, is counted (R484). -/
def State.countBelow (s : State) (h : HartId) (line : Nat) (st : Stamp) : State :=
  if ((s.core (coreIx h)).findL2 line).isSome then s
  else
    let s := (s.hartEvent h 0x0E st).uncount h.die.val 0x01 1 st.hue (s.classOf h.die.val st.hue)
    if ((s.die h.die.val).findL3 line).isNone then s.hartEvent h 0x0F st else s

/-- The misses of a walk read. Their flags are those of the instructions that wait for the walk (R485). -/
def State.countWalkMiss (s : State) (h : HartId) (line : Nat) (st : Stamp) : State :=
  let s := s.countBelow h line st
  let x := s.hart (hartIx h)
  let owns (w : Waiting) : Bool := w.parts.isEmpty && !w.op.isSerial
  s.setHart (hartIx h)
    { x with waiting := x.waiting.map (fun w => if owns w then { w with flags := w.flags ||| x.flags } else w), flags := 0 }

/-- One walk read: checked against PMP and the attributes, then read through the core's L2 (R93, R94, R108). A read that
misses sends its request and is made again. -/
def State.walkRead (s : State) (h : HartId) : State :=
  let x := s.hart (hartIx h)
  match x.walk with
  | none => s
  | some w =>
    if w.fault.isSome then s
    else match w.nextPa with
      | none => s.walkSettle h w
      | some pa =>
        let deny := s.walkFault h w (accessFault w.need w.va w.stamp.virt)
        let hard (s : State) : State :=
          let s := if w.spec || w.hint then s else
            s.logE .uncorrected .core .poisonConsumed (coreUnit h) (pa / 64 * 64) w.stamp.hue (s.coreInfo h) 19 (trap := true)
          s.walkFault h w { cause := 19, tval := w.va, gva := w.stamp.virt }
        let line := lineOf pa
        if !(s.region (s.partOfDie h.die.val) pa).isMemory || !x.pmpOk .s pa 8 .load then deny
        else if w.fillError then hard s
        else
          let s := if w.asked.isSome || w.served then s else s.countWalkMiss h line w.stamp
          match s.readLine h line .walk { va := 0, hue := w.stamp.hue, counted := w.asked.isSome, served := w.served, spec := w.spec } with
          | (.here data poison, s) =>
            if poison then hard s else s.walkGot h w (BitVec.ofNat 64 (leAt data (pa % 64) 8))
          | (.filed, s) =>
            let x := s.hart (hartIx h)
            s.setHart (hartIx h) { x with walk := some { w with asked := some line } }
          | (_, s) => s

/-! ### Translating an access -/

/-- What translating an access gives: a physical address with its memory type and the key to check, a fault, or a wait for
a walk. -/
inductive XAns where
  | ok (pa : Nat) (pbmt : BitVec 2) (key : Option (BitVec 4))
  | fault (t : TrapInfo)
  | wait
deriving DecidableEq, Repr

/-- Look an address up in a TLB. An entry whose parity fails is invalid, and a corrected error is logged (R110). -/
def tlbFind (l : List TlbEntry) (c : Ctx) (addr : Nat) : Option TlbEntry × List TlbEntry × Bool :=
  let hit (e : TlbEntry) : Bool := e.tagged c && e.covers addr
  let l' := l.filter fun e => !(hit e && !e.parityOk)
  (l'.find? hit, l', l'.length ≠ l.length)

/-- Find an entry in the L1 TLB, else in the L2 TLB, filling the L1. -/
def State.lookup (s : State) (h : HartId) (c : Ctx) (addr : Nat) (need : Need) (st : Stamp) (counted : Bool) :
    Option TlbEntry × State :=
  let x := s.hart (hartIx h)
  let instr := need = .fetch
  let (hit, l, bad) := tlbFind (if instr then x.itlb else x.dtlb) c addr
  let s := if bad then
      (s.setHart (hartIx h) (if instr then { x with itlb := l } else { x with dtlb := l })).tlbParity h bad
    else s
  match hit with
  | some e => (some e, s)
  | none =>
    let s := if counted then s else s.hartEvent h (if instr then 0x07 else 0x08) st
    let k := s.core (coreIx h)
    let (hit, l, bad) := tlbFind k.l2tlb c addr
    let (hit2, l2, bad2) := tlbFind k.l2tlbLarge c addr
    let s := if bad || bad2 then (s.setCore (coreIx h) { k with l2tlb := l, l2tlbLarge := l2 }).tlbParity h true else s
    match (match hit with
      | some e => some e
      | none => hit2) with
    | some e =>
      let (n, s) := s.takeNat
      (some e, s.setHart (hartIx h) ((s.hart (hartIx h)).addTlb instr e n))
    | none => (none, s)

/-- The walk that this access started has ended in a fault: take it over. -/
def HartState.endedWalk (x : HartState) (va : Word) (need : Need) (spec : Bool) : Option TrapInfo :=
  match x.walk with
  | some w => if w.va = va && w.need = need && w.spec = spec then w.fault else none
  | none => none

/-- Translate an access of a hart (R87 to R98, R105). -/
def State.translate (s : State) (h : HartId) (va : Word) (need : Need) (st : Stamp) (spec hint counted : Bool) :
    XAns × State :=
  let x := s.hart (hartIx h)
  let c := x.ctx st.virt
  if st.priv = .m || (c.mode = 0 && c.gmode = 0) then
    (if need.isShadow then .fault (accessFault need va st.virt) else .ok va.toNat 0 none, s)
  else if !canonical c.mode va then (.fault (pageFault need va st.virt), s)
  else if c.kind = .gStage && 2 ^ (vaBits c.gmode + 2) ≤ va.toNat then (.fault (guestFault need va va.toNat true), s)
  else match x.endedWalk va need spec with
    | some t => (.fault t, s.setHart (hartIx h) { x with walk := none })
    | none =>
      match s.lookup h c va.toNat need st counted with
      | (none, s) => (.wait, s.walkStart h va need st spec hint)
      | (some e, s) =>
        let (keyed, s) := s.keyEnable h st.virt e
        match x.denies e need st hint keyed va with
        | some (t, drop) =>
          let s := if drop && !spec then s.dropFor h c va.toNat (e.gpa + va.toNat % 2 ^ e.sizeBits) (e.kind ≠ .single) else s
          (.fault t, s)
        | none =>
          (.ok (e.pa va.toNat) (if e.attr.pbmt = 0 then e.attr.gpbmt else e.attr.pbmt)
            (if e.kind ≠ .gStage && keyed && e.attr.u then some e.attr.key else none), s)

/-! ### Fences (R99 to R102) -/

/-- What a row of the fence table removes from the TLBs, the stage-1 walk cache and the G-stage walk cache. -/
structure FenceSel where
  tlb : TlbEntry → Bool
  s1 : WalkEntry → Bool
  g : WalkEntry → Bool

/-- The rows of SFENCE.VMA and HFENCE.VVMA in a context: `vmid` none for V = 0. -/
def fenceStage1 (vmid : Option (BitVec 14)) (f : FenceArgs) : FenceSel :=
  let leaf (e : TlbEntry) : Bool := e.kind ≠ .gStage && e.vmid = vmid
  let at_ (e : TlbEntry) : Bool := match f.addr with
    | some a => e.covers a.toNat
    | none => true
  let under (a : Option (BitVec 16)) : Bool := match f.id with
    | some i => a = some i
    | none => true
  { tlb := fun e => leaf e && at_ e && under e.asid
    s1 := fun e => f.addr.isNone && e.vmid = vmid && under e.asid
    g := fun _ => false }

/-- The rows of HFENCE.GVMA. -/
def fenceG (f : FenceArgs) : FenceSel :=
  let of_ (v : Option (BitVec 14)) : Bool := match f.id with
    | some i => v = some (i.setWidth 14)
    | none => v.isSome
  match f.addr with
  | some a =>
    { tlb := fun e => of_ e.vmid && (e.kind = .combined || (e.kind = .gStage && e.covers (a.toNat * 4)))
      s1 := fun _ => false
      g := fun _ => false }
  | none => { tlb := fun e => of_ e.vmid, s1 := fun e => of_ e.vmid, g := fun e => of_ e.vmid || f.id.isNone }

/-- Remove what a fence names from the hart's L1 TLBs and the core's shared structures (R99, R100). Walks of the core that have not
ended begin again, since they would install what they read before the fence (R107). -/
def State.invalidate (s : State) (h : HartId) (q : FenceSel) : State :=
  let s := s.dropTlb h q.tlb
  let s := s.forEach (hartsOf ⟨h.die, h.core⟩) fun s g =>
    let x := s.hart (hartIx g)
    if x.walk.any (·.fault.isNone) then s.setHart (hartIx g) { x with walk := none } else s
  let c := s.core (coreIx h)
  s.setCore (coreIx h) { c with s1Cache := c.s1Cache.filter (!q.s1 ·), gCache := c.gCache.filter (!q.g ·) }

/-- The current VMID. -/
def HartState.vmidNow (x : HartState) : BitVec 14 := (x.getCsr 0x680).extractLsb' 44 14

/-- The context of an SFENCE.VMA: V = 0, or the current VMID in VS-mode (R99). -/
def HartState.sfenceVmid (x : HartState) : Option (BitVec 14) := if x.virt then some x.vmidNow else none

/-- An SINVAL instruction as it executes: in its context (R102). -/
def HartState.sinvalNow (x : HartState) (k : InvalKind) (f : FenceArgs) : Sinval :=
  { kind := k, args := f, virt := x.virt, ordered := x.wInval,
    vmid := match k with
      | .sinvalVma => x.sfenceVmid
      | _ => some x.vmidNow }

/-- What it removes. -/
def Sinval.sel (v : Sinval) : FenceSel :=
  match v.kind with
  | .hinvalGvma => fenceG v.args
  | _ => fenceStage1 v.vmid v.args

end Sys2Proof.Machine
end

