-- ==== Sys2Proof/Machine/Csr.lean ====
section
/-! DEFINITION. Writes to the control and status registers of a hart (R11, R34, R44 to R63, R68, R69, R479, R483). The layouts and the
writable bits of the standard registers are those the RISC-V architecture publishes: PRESUMED, log entry 35. -/

namespace Sys2Proof.Machine

/-! ### Which registers there are, and who may write them -/

/-- The mask of a list of bit numbers. -/
def bitsOf (l : List Nat) : Word := l.foldl (fun m i => m ||| BitVec.ofNat 64 (2 ^ i)) 0

/-- The writable bits of a standard register that is written whole, under its own number; none for a register that has a rule of its
own, or that a hart does not have. -/
def csrMask (n : Nat) : Option Word :=
  if n = 0x300 then some (bitsOf [1, 3, 5, 7, 8, 9, 10, 11, 12, 13, 14, 17, 18, 19, 20, 21, 22, 23, 38, 39, 41])
  else if n = 0x200 then some (bitsOf [1, 5, 8, 9, 10, 13, 14, 18, 19, 23])
  else if n = 0x302 then some 0x3FCB7FF
  else if n = 0x602 then some 0x304B1FF
  else if n = 0x303 then some (bitsOf [1, 5, 9, 13, 48])
  else if n = 0x603 then some (bitsOf [2, 6, 10])
  else if n = 0x304 then some (bitsOf [1, 2, 3, 5, 6, 7, 9, 10, 11, 12, 13, 48])
  else if n = 0x305 || n = 0x105 || n = 0x205 then some (~~~ 2)
  else if n = 0x341 || n = 0x141 || n = 0x241 || n = 0x7B1 then some (~~~ 1)
  else if n = 0x306 || n = 0x106 || n = 0x606 then some 0xFFFFFFFF
  else if n = 0x320 then some 0xFFFFFFFD
  else if n = 0x30A || n = 0x60A then some (bitsOf [0, 2, 3, 4, 5, 6, 7, 62, 63])
  else if n = 0x10A then some (bitsOf [0, 2, 3, 4, 5, 6, 7])
  else if n = 0x30C then some (bitsOf [57, 58, 59, 60, 62, 63])
  else if n = 0x60C then some (bitsOf [57, 58, 59, 60, 62, 63])
  else if 0x30D ≤ n && n ≤ 0x30F || 0x60D ≤ n && n ≤ 0x60F then some (bitsOf [63])
  else if 0x10C ≤ n && n ≤ 0x10F then some 0
  else if n = 0x323 then some 0xFC000FFF800000FF
  else if 0x324 ≤ n && n ≤ 0x33F then some 0xFC001FFF800000FF
  else if n = 0x600 then some (bitsOf [6, 7, 8, 9, 12, 13, 14, 15, 16, 17, 20, 21, 22])
  else if n = 0x607 then some 0xFFFE
  else if n = 0x645 then some (bitsOf [2, 6, 10])
  else if n = 0x609 then some 0x4FFF03FF
  else if n = 0x011 then some (~~~ 7)
  else if n = 0x001 then some 0x1F
  else if n = 0x002 then some 7
  else if n = 0x008 then some 0xFF
  else if n = 0x009 then some 1
  else if n = 0x00A then some 3
  else if n = 0x301 || n = 0x308 || n = 0x608 then some 0
  else if n = 0x7A0 then some 7
  else if n = 0x7B0 then some (bitsOf [0, 1, 2, 5, 9, 10, 11, 12, 13, 15, 16, 17, 18, 19])
  else if [0x340, 0x342, 0x343, 0x34A, 0x34B, 0x140, 0x142, 0x143, 0x240, 0x242, 0x243, 0x14D, 0x24D, 0x605, 0x643, 0x64A, 0x646,
           0x647, 0x350, 0x150, 0x250, 0x7B2, 0x7B3].contains n then some (~~~ 0)
  else if n = 0xB00 || n = 0xB02 || 0xB03 ≤ n && n ≤ 0xB1F then some (~~~ 0)
  else none

/-- A standard register with a rule of its own. -/
def csrRuled (n : Nat) : Bool :=
  [0x003, 0x00F, 0x015, 0x100, 0x104, 0x144, 0x180, 0x204, 0x244, 0x280, 0x309, 0x344, 0x35C, 0x15C, 0x25C, 0x351, 0x151, 0x251, 0x604,
   0x644, 0x680, 0x747].contains n || 0x3A0 ≤ n && n ≤ 0x3AE && n % 2 = 0 || 0x3B0 ≤ n && n ≤ 0x3EF || 0x7A1 ≤ n && n ≤ 0x7A3

/-- The VS register that stands for an S register while V = 1. -/
def vsFor (n : Nat) : Option Nat :=
  if [0x100, 0x104, 0x105, 0x140, 0x141, 0x142, 0x143, 0x144, 0x14D, 0x150, 0x151, 0x15C, 0x180].contains n then some (n + 0x100)
  else none

/-- A bit of the chain of state enables that opens a register to a level below M. -/
def HartState.enabledBy (x : HartState) (i : Nat) : Allow :=
  if !bit (x.getCsr 0x30C) i then .illegal else if x.virt && !bit (x.getCsr 0x60C) i then .virtual else .yes

/-- The state-enable bit that gates a register. -/
def stateBit (n : Nat) : Option Nat :=
  if n = 0x10A || n = 0x60A then some 62
  else if 0x10C ≤ n && n ≤ 0x10F || 0x60C ≤ n && n ≤ 0x60F then some 63
  else if n = 0x150 || n = 0x151 || n = 0x250 || n = 0x251 then some 60
  else if n = 0x15C || n = 0x25C then some 58
  else if n = 0x608 || n = 0x609 || n = 0x646 || n = 0x647 then some 59
  else none

/-- The enable of the timer compare registers below M. -/
def HartState.mayTimer (x : HartState) : Allow :=
  if !(bit (x.getCsr 0x30A) 63 && bit (x.getCsr 0x306) 1) then .illegal
  else if x.virt && !(bit (x.getCsr 0x60A) 63 && bit (x.getCsr 0x606) 1) then .virtual
  else .yes

/-- What else a register below M asks. -/
def HartState.mayAlso (x : HartState) (n : Nat) : Allow :=
  let m := x.getCsr 0x300
  let hs := x.getCsr 0x600
  if n = 0x180 then (if x.virt then (if bit hs 20 then .virtual else .yes) else if bit m 20 then .illegal else .yes)
  else if n = 0x680 then (if bit m 20 then .illegal else .yes)
  else if n = 0x14D || n = 0x24D then x.mayTimer
  else if x.virt && (n = 0x104 || n = 0x144) && bit (x.getCsr 0x609) 30 then .virtual
  else if n = 0x015 then
    (if x.priv = .u && !x.virt then (if bit (x.getCsr 0x747) 8 then .yes else .illegal)
     else if !bit (x.getCsr 0x747) 9 then .illegal
     else if x.virt then .virtual
     else .yes)
  else if n = 0x011 then
    (if !bit (x.getCsr 0x30A) 3 then .illegal
     else if x.virt && !bit (x.getCsr 0x60A) 3 then .virtual
     else if x.priv = .u && !bit (x.getCsr 0x10A) 3 then (if x.virt then .virtual else .illegal)
     else .yes)
  else match stateBit n with
    | some i => x.enabledBy i
    | none => .yes

/-- The floating-point or the vector state is off. -/
def HartState.unitOff (x : HartState) (n : Nat) : Bool :=
  let off (lo : Nat) : Bool := fld (x.getCsr 0x300) lo 2 = 0 || (x.virt && fld (x.getCsr 0x200) lo 2 = 0)
  if 1 ≤ n && n ≤ 3 then off 13 else if 8 ≤ n && n ≤ 0xA || n = 0xF then off 9 else false

/-- The lowest level of a standard register's number, and the traps of the level that writes it. -/
def HartState.mayStandard (x : HartState) (n : Nat) : Allow :=
  let level := n / 256 % 4
  if !((csrMask n).isSome || csrRuled n) || n / 1024 = 3 then .illegal
  else if x.unitOff n then .illegal
  else if x.run = .debug then .yes
  else if 0x7B0 ≤ n && n ≤ 0x7B3 then .illegal
  else match x.priv, x.virt with
    | .m, _ => .yes
    | .s, false => if level = 3 then .illegal else x.mayAlso n
    | .u, false => if level = 0 then x.mayAlso n else .illegal
    | .s, true => if level = 3 then .illegal else if level = 2 then .virtual else x.mayAlso n
    | .u, true => if level = 3 then .illegal else if level = 0 then x.mayAlso n else .virtual

/-- Who may access cqzkeyr (R44). -/
def HartState.mayKeyr (x : HartState) : Allow :=
  if x.run = .debug || x.priv = .m then .yes
  else if x.virt then (if bit x.cqzkeyctl 1 then .yes else .virtual)
  else if bit x.cqzkeyctl 0 then .yes
  else .illegal

/-- Who may write a register (R43, R44): a custom one that is read-only, or a number that no register has, is illegal to all. -/
def HartState.mayCsr (x : HartState) (n : Nat) : Allow :=
  if n = 0x800 then x.mayKeyr
  else if 0x5C0 ≤ n && n ≤ 0x5C3 then x.maySuper
  else if n = 0x6C0 then x.mayHue
  else if n = 0x7C0 then (if x.run = .debug || x.priv = .m then .yes else .illegal)
  else x.mayStandard n

/-! ### Rules of single registers -/

/-- Write bits of an interrupt register through a window of another. -/
def HartState.window (x : HartState) (n : Nat) (v mask : Word) : HartState := x.setCsr n (blend (x.getCsr n) v mask)

/-- Supervisor interrupts that mideleg delegates. -/
def HartState.supInts (x : HartState) : Word := x.getCsr 0x303 &&& bitsOf [1, 5, 9, 13, 48]

/-- satp and vsatp: a write that names a mode no hart has, has no effect. -/
def HartState.putAtp (x : HartState) (n : Nat) (v : Word) : HartState :=
  let m := fld v 60 4
  if m = 0 || m = 8 || m = 9 || m = 10 then x.setCsr n v else x

/-- hgatp: a write that names a mode no hart has leaves it unchanged (R87); VMID has 14 bits, and the root table is aligned to 16 KiB. -/
def HartState.putHgatp (x : HartState) (v : Word) : HartState :=
  let m := fld v 60 4
  if m = 0 || m = 8 || m = 9 || m = 10 then x.setCsr 0x680 (v &&& 0xF3FFFFFFFFFFFFFC) else x

/-- PMP entry `i` is locked, unless rule locking is bypassed. -/
def HartState.pmpLocked (x : HartState) (i : Nat) : Bool :=
  i < 64 && bit (x.getCsr (0x3A0 + i / 8 * 2)) (8 * (i % 8) + 7) && !bit (x.getCsr 0x747) 2

/-- Eight configuration bytes. A byte that selects NA4 keeps its A field; W without R is kept as it was, without Smepmp's MML. -/
def HartState.putPmpcfg (x : HartState) (n : Nat) (v : Word) : HartState :=
  let first := (n - 0x3A0) / 2 * 8
  let old := x.getCsr n
  let byte (k : Nat) : Nat :=
    let o := fld old (8 * k) 8
    let w := fld v (8 * k) 8 &&& 0x9F
    if x.pmpLocked (first + k) then o
    else
      let w := if w / 8 % 4 = 2 then w - 16 + o / 8 % 4 * 8 else w
      if w % 4 = 2 && !bit (x.getCsr 0x747) 0 then w - 2 + o % 4 else w
  x.setCsr n (BitVec.ofNat 64 ((List.range 8).foldl (fun a k => a + byte k * 2 ^ (8 * k)) 0))

/-- An address register: not while its entry is locked, nor while the next is locked and TOR. Addresses have 52 bits. -/
def HartState.putPmpaddr (x : HartState) (n : Nat) (v : Word) : HartState :=
  let i := n - 0x3B0
  let tor := i < 63 && fld (x.getCsr (0x3A0 + (i + 1) / 8 * 2)) (8 * ((i + 1) % 8) + 3) 2 = 1
  if x.pmpLocked i || (x.pmpLocked (i + 1) && tor) then x else x.setCsr n (v &&& 0x3FFFFFFFFFFFF)

/-- mseccfg: MML and MMWP stay set, and RLB cannot be set while a rule is locked. -/
def HartState.putMseccfg (x : HartState) (v : Word) : HartState :=
  let old := x.getCsr 0x747
  let locked := !bit old 2 && (List.range 64).any fun i => bit (x.getCsr (0x3A0 + i / 8 * 2)) (8 * (i % 8) + 7)
  let v := (v &&& 0x707) ||| (old &&& 3)
  x.setCsr 0x747 (if locked then putFld v 2 1 0 else v)

/-- Where the triggers' three data registers stand among `csr`: beyond the CSR numbers. -/
def triggerKey (x : HartState) (n : Nat) : Nat := 0x1000 + fld (x.getCsr 0x7A0) 0 3 * 4 + (n - 0x7A0)

/-- tdata1 to tdata3 of the trigger that tselect names. A trigger that only Debug mode may write is not written from another mode; a type
that no trigger has disables it. -/
def HartState.putTrigger (x : HartState) (n : Nat) (v : Word) : HartState :=
  let t1 := x.getCsr (triggerKey x 0x7A1)
  if bit t1 59 && x.run ≠ .debug then x
  else if n = 0x7A1 then
    let v := if x.run = .debug then v else putFld v 59 1 0
    let t := fld v 60 4
    x.setCsr (triggerKey x n) (if t = 3 || t = 4 || t = 5 || t = 6 then v else 0xF000000000000000)
  else x.setCsr (triggerKey x n) v

/-- The floating-point or vector state is dirty after a write of its registers. -/
def HartState.dirty (x : HartState) (lo : Nat) : HartState :=
  let x := x.setCsr 0x300 (putFld (x.getCsr 0x300) lo 2 3)
  if x.virt then x.setCsr 0x200 (putFld (x.getCsr 0x200) lo 2 3) else x

/-- Fields that keep their value when a write names one that is not legal: MPP 2, CBIE 2, and VGEIN above 15. -/
def HartState.legalize (x : HartState) (n : Nat) (v : Word) : Word :=
  let old := x.getCsr n
  if n = 0x300 && fld v 11 2 = 2 then putFld v 11 2 (fld old 11 2)
  else if (n = 0x30A || n = 0x60A || n = 0x10A) && fld v 4 2 = 2 then putFld v 4 2 (fld old 4 2)
  else if n = 0x600 && 15 < fld v 12 6 then putFld v 12 6 (fld old 12 6)
  else v

/-- The supervisor-level interrupt bits written through mip, with SEIP's own bit in mvip (0x309). -/
def HartState.putMip (x : HartState) (v mask : Word) : HartState :=
  let own := if bit (x.getCsr 0x30A) 63 then bitsOf [1, 13] else bitsOf [1, 5, 13]
  let x := x.window 0x344 v (mask &&& own)
  let x := x.window 0x309 v (mask &&& bitsOf [9])
  x.window 0x645 v (mask &&& bitsOf [2])

/-- A standard register's new value, by its rule. -/
def HartState.putRuled (x : HartState) (n : Nat) (v : Word) : HartState :=
  let h (l : List Nat) : Word := x.getCsr 0x603 &&& bitsOf l
  if n = 0x003 then ((x.setCsr 0x001 (v &&& 0x1F)).setCsr 0x002 (BitVec.ofNat 64 (fld v 5 3))).dirty 13
  else if n = 0x00F then ((x.setCsr 0x009 (v &&& 1)).setCsr 0x00A (BitVec.ofNat 64 (fld v 1 2))).dirty 9
  else if n = 0x100 then x.window 0x300 v (bitsOf [1, 5, 8, 9, 10, 13, 14, 18, 19, 23])
  else if n = 0x104 then x.window 0x304 v x.supInts
  else if n = 0x144 then x.putMip v (x.supInts &&& bitsOf [1, 13])
  else if n = 0x204 then x.window 0x304 (v <<< 1) (h [2, 6, 10])
  else if n = 0x244 then x.window 0x645 (v <<< 1) (h [2])
  else if n = 0x604 then x.window 0x304 v (bitsOf [2, 6, 10, 12])
  else if n = 0x644 then x.window 0x645 v (bitsOf [2])
  else if n = 0x180 || n = 0x280 then x.putAtp n v
  else if n = 0x680 then x.putHgatp v
  else if n = 0x309 then x.putMip v (bitsOf [1, 5, 9])
  else if n = 0x344 then x.putMip v (~~~ 0)
  else if n = 0x747 then x.putMseccfg v
  else if 0x3A0 ≤ n && n ≤ 0x3AE then x.putPmpcfg n v
  else if 0x3B0 ≤ n && n ≤ 0x3EF then x.putPmpaddr n v
  else if 0x7A1 ≤ n && n ≤ 0x7A3 then x.putTrigger n v
  else x

/-- A standard register's new value. -/
def HartState.putCsr (x : HartState) (n : Nat) (v : Word) : HartState :=
  match csrMask n with
  | some m =>
    let x := x.setCsr n (blend (x.getCsr n) (x.legalize n v) m)
    if n = 1 || n = 2 then x.dirty 13 else if 8 ≤ n && n ≤ 10 then x.dirty 9 else x
  | none => x.putRuled n v

/-! ### Interrupt files by way of the indirect registers (R272) -/

/-- The least identity pending, enabled and under the threshold. -/
def ImsicFile.top (f : ImsicFile) : Option Nat := (ones 2048 ({ f with eidelivery := 1 } : ImsicFile).delivers.toNat).head?

/-- A 64-bit part of a file's array of bits. -/
def putPart (b : BitVec 2048) (k : Nat) (v : Word) : BitVec 2048 :=
  (b &&& ~~~ BitVec.ofNat 2048 ((2 ^ 64 - 1) <<< (32 * k))) ||| BitVec.ofNat 2048 (v.toNat <<< (32 * k)) &&& ~~~ 1

/-- A register of a file, by the number that the select register holds. -/
def ImsicFile.put (f : ImsicFile) (sel : Nat) (v : Word) : ImsicFile :=
  if sel = 0x70 then (if v = 0 || v = 1 then { f with eidelivery := v.extractLsb' 0 32 } else f)
  else if sel = 0x72 then { f with eithreshold := BitVec.ofNat 32 (fld v 0 11) }
  else if 0x80 ≤ sel && sel ≤ 0xBF then { f with eip := putPart f.eip (sel - 0x80) v }
  else if 0xC0 ≤ sel && sel ≤ 0xFF then { f with eie := putPart f.eie (sel - 0xC0) v }
  else f

/-- A select value that reaches a register: a file's (odd parts are not accessible), or an array of priorities, which reads as zero. -/
def selectOk (sel : Nat) (guest : Bool) : Bool :=
  0x70 ≤ sel && sel ≤ 0x7F || 0x80 ≤ sel && sel ≤ 0xFF && sel % 2 = 0 || !guest && 0x30 ≤ sel && sel ≤ 0x3F && sel % 2 = 0

/-- The file that an indirect register or a claim register reaches: the machine's, the supervisor's, or the guest file of VGEIN. -/
def HartState.fileOf (x : HartState) (n : Nat) : Option Nat :=
  let g := fld (x.getCsr 0x600) 12 6
  if n / 256 = 3 then some 16 else if n / 256 = 1 then some 0 else if g = 0 then none else some g

/-- The register that a write reaches: with V = 1 the VS register stands for the S register. -/
def HartState.csrFor (x : HartState) (n : Nat) : Nat := if x.virt && x.run ≠ .debug then (vsFor n).getD n else n

/-- mireg, sireg and vsireg, or one of the claim registers. -/
def isIndirect (n : Nat) : Bool := [0x351, 0x151, 0x251, 0x35C, 0x15C, 0x25C].contains n

/-- An access by way of an indirect or claim register traps where there is nothing behind it. -/
def HartState.mayIndirect (x : HartState) (n : Nat) : Allow :=
  let claim := n % 256 = 0x5C
  let sel := (x.getCsr (n - n % 16)).toNat
  let reached := (claim || selectOk sel (n / 256 = 2)) && ((x.fileOf n).isSome || (!claim && sel < 0x70))
  if !isIndirect n || reached then .yes else if x.virt && x.run ≠ .debug then .virtual else .illegal

/-- The write itself: to the file's register, or the claim of its top identity. -/
def State.indirectWrite (s : State) (h : HartId) (n : Nat) (v : Word) : State :=
  let x := s.hart (hartIx h)
  match x.fileOf n with
  | none => s
  | some k =>
    let key := hartIx h * 32 + k
    let f := s.file key
    s.setFile key (if n % 256 = 0x5C then (match f.top with
      | some i => { f with eip := f.eip &&& ~~~ BitVec.ofNat 2048 (2 ^ i) }
      | none => f)
    else f.put (x.getCsr (n - n % 16)).toNat v)

/-! ### After a write -/

/-- The timer, sample and software interrupts that registers drive; then those that the files drive. -/
def State.csrLines (s : State) (h : HartId) : State :=
  let x := s.hart (hartIx h)
  let due (t : Word) (now : Word) : Bool := t.toNat ≤ now.toNat
  let hvip := x.getCsr 0x645
  let x := if bit (x.getCsr 0x30A) 63 then x.csrBit 0x344 5 (due (x.getCsr 0x14D) s.now) else x
  let vs := bit (x.getCsr 0x30A) 63 && bit (x.getCsr 0x60A) 63 && due (x.getCsr 0x24D) (s.now + x.getCsr 0x605)
  let x := (x.csrBit 0x344 6 (bit hvip 6 || vs)).csrBit 0x344 2 (bit hvip 2)
  let x := x.csrBit 0x344 48 (bit x.cqzsmpctl 8 && bit x.cqzsmpctl 6)
  (s.setHart (hartIx h) x).fileLines (hartIx h)

/-! ### The registers of R43 -/

/-- cqzhue is written: the next instruction's effective hue (R46, R48). Accumulated counts go to the hue left (R287). -/
def State.hueWrite (s : State) (h : HartId) (v : Word) : State :=
  let x := s.hart (hartIx h)
  let y := { x with cqzhue := v &&& 0x10FFF }
  let s := if y.hue = x.hue then s else s.meterSend h x.hue
  s.setHart (hartIx h) { s.hart (hartIx h) with cqzhue := v &&& 0x10FFF }

/-- cqzbpctl.OFF is written: younger instructions are discarded, and refetched under the new OFF (R76). -/
def State.bpOffWrite (s : State) (h : HartId) (v : Word) : State :=
  let s := (s.squash h).meterSend h (s.hart (hartIx h)).hue
  s.setHart (hartIx h) { s.hart (hartIx h) with cqzbpctl := putFld 0 0 1 (fld v 0 1) }

/-- Write the allocation fields, then start a flush unless one runs: the lines valid now are the ones it removes. -/
def State.cacheCtl (s : State) (h : HartId) (v : Word) (k : Option FlushKind) : State :=
  let c := s.core (coreIx h)
  let c := { c with l1iNa := bit v 0, l1dNa := bit v 1, l2Na := bit v 2 }
  let lines : List Nat := match k with
    | some .l1i => c.l1i.map fun (e : Nat × L1Line) => e.2.line
    | some .l1d => c.l1d.map fun (e : Nat × L1Line) => e.2.line
    | some .l2 => c.l2.map fun (e : Nat × L2Line) => e.2.line
    | none => []
  let c := if c.flushing.isSome || k.isNone then c else { c with flushing := k, flushLines := lines }
  s.setCore (coreIx h) c

/-- The widest flush that a write names (R55). -/
def widestFlush (v : Word) : Option FlushKind :=
  if bit v 6 then some .l2 else if bit v 5 then some .l1d else if bit v 4 then some .l1i else none

/-- cqzcachectl is written. -/
def State.cacheWrite (s : State) (h : HartId) (v : Word) : State := s.cacheCtl h v (widestFlush v)

/-- cqzkeyctl (R57, R58): VKE is written in HS-mode and M-mode, which is whoever may write the register at all. A change of an enable
leaves the translations held now to either reading. -/
def State.keyctlWrite (s : State) (h : HartId) (v : Word) : State :=
  let x := s.hart (hartIx h)
  let w := v &&& 3
  let ke := bit w 0 != bit x.cqzkeyctl 0
  let vke := bit w 1 != bit x.cqzkeyctl 1
  let s := s.setHart (hartIx h) { x with cqzkeyctl := w, keMix := x.keMix || ke, vkeMix := x.vkeMix || vke }
  let s := if ke then s.markOld h false else s
  if vke then s.markOld h true else s

/-- cqzsmpctl (R63): VALID and OVERRUN are cleared by ones. The distance to the next sample is chosen afresh. -/
def HartState.putSmpctl (x : HartState) (v : Word) : HartState :=
  { x with smpLeft := none, cqzsmpctl := (v &&& 0xF07D) ||| (x.cqzsmpctl &&& 0x180 &&& ~~~ v) }

/-- A write to a CSR of a hart takes effect for the next instruction (R46): the retirement of its own is counted under the old value, and
a count that falls together with it is lost (R482). A write of cqzbpctl with FLUSH = 1 is an operation of its own (R78). -/
def State.csrWrite (s : State) (h : HartId) (n : Nat) (v : Word) (st : Stamp) : State :=
  let x := (s.hart (hartIx h)).retire st
  let s := s.setHart (hartIx h) x
  if n = 0x5C0 then s.bpOffWrite h v
  else if n = 0x5C2 then s.cacheWrite h v
  else if n = 0x6C0 then s.hueWrite h v
  else if n = 0x5C1 then (s.keyctlWrite h v).csrLines h
  else
    let n := x.csrFor n
    let s :=
      if isIndirect n then s.indirectWrite h n v
      else s.setHart (hartIx h)
        (if n = 0x800 then { x with cqzkeyr := v &&& 0xFFFFFFFF }
         else if n = 0x5C3 then x.putSmpctl v
         else if n = 0x7C0 then { x with cqzmctl := v &&& 3 }
         else x.putCsr n v)
    s.csrLines h

/-- Who may write a CSR, with what stands behind an indirect one. -/
def HartState.mayWriteCsr (x : HartState) (n : Nat) : Allow :=
  match x.mayCsr n with
  | .yes => x.mayIndirect (x.csrFor n)
  | a => a

/-! ### What a register reads as

No row of the table reads a CSR: these definitions say what an instruction that does would find (R35, R38, R43 to R67, R458, R483). -/

/-- Who may read a custom register (R44): as who may write it, but that VS-mode may read cqzkeyctl, and that the read-only ones are read. -/
def HartState.mayReadCustom (x : HartState) (n : Nat) : Allow :=
  if n = 0x5C1 && x.run ≠ .debug && x.priv = .s && x.virt && bit x.cqzmctl 0 then .yes
  else if [0xDC0, 0xDC1, 0xDC2, 0xDC3, 0xDC8].contains n then x.maySuper
  else x.mayCsr n

/-- cqzcachectl: the core's fields, and FLUSH_BUSY (R54). -/
def CoreState.cachectl (c : CoreState) : Word :=
  BitVec.ofNat 64 (bitOf c.l1iNa + 2 * bitOf c.l1dNa + 4 * bitOf c.l2Na + 256 * bitOf c.flushing.isSome)

/-- mhartid (R38): above bit 11 the package index in Cascade mode. -/
def State.mhartid (s : State) (h : HartId) : Word := BitVec.ofNat 64 (hartIx h + s.pkgIx * 2 ^ 12)

/-- cqzphys (R67). -/
def State.physId (s : State) (h : HartId) : Word :=
  let c := s.core (coreIx h)
  BitVec.ofNat 64 (c.phys.val + h.die.val * 2 ^ 8 + c.moves.toNat * 2 ^ 16)

/-- scountovf: the OF bits of the event registers (Sscofpmf). -/
def HartState.countOvf (x : HartState) : Word :=
  ((List.range 29).map (· + 3)).foldl (fun v i => putFld v i 1 (bitOf (bit (x.getCsr (0x320 + i)) 63))) 0

/-- A sample register while VALID = 0 reads a free value (R64). -/
def State.sampleRead (s : State) (x : HartState) (v : Word) : Word × State :=
  if bit x.cqzsmpctl 8 then (v, s) else s.takeWord

/-- SD of a status register: the floating-point or vector state is dirty. -/
def withSd (v : Word) : Word := putFld v 63 1 (bitOf (fld v 9 2 = 3 || fld v 13 2 = 3))

/-- misa: XLEN 64, and the letters of the extensions of R34: A, B, C, D, F, H, I, M, S, U and V. -/
def misaWord : Word := putFld (bitsOf [0, 1, 2, 3, 5, 7, 8, 12, 18, 20, 21]) 62 2 2

/-- A PMP address register as read under the grain of R34, G = 10: bits [8:0] read as ones while its entry is NAPOT, and bits
[9:0] as zeros while it is off or TOR. -/
def HartState.pmpaddr (x : HartState) (n : Nat) : Word :=
  let i := n - 0x3B0
  let a := fld (x.getCsr (0x3A0 + i / 8 * 2)) (8 * (i % 8) + 3) 2
  if 2 ≤ a then x.getCsr n ||| 0x1FF else x.getCsr n &&& ~~~ 0x3FF

/-- What a standard register reads as that shows parts of others, or holds constants. -/
def HartState.viewed (x : HartState) (n : Nat) : Word :=
  let h (l : List Nat) : Word := x.getCsr 0x603 &&& bitsOf l
  let ie := x.getCsr 0x304
  let ip := x.getCsr 0x344 ||| (x.getCsr 0x309 &&& bitsOf [9])
  if n = 0x003 then x.getCsr 0x001 ||| x.getCsr 0x002 <<< 5
  else if n = 0x00F then x.getCsr 0x009 ||| x.getCsr 0x00A <<< 1
  else if n = 0x100 then withSd (x.getCsr 0x300 &&& bitsOf [1, 5, 8, 9, 10, 13, 14, 18, 19, 23] ||| 0x200000000)
  else if n = 0x300 then withSd (x.getCsr 0x300 ||| 0xA00000000)
  else if n = 0x200 then withSd (x.getCsr 0x200 ||| 0x200000000)
  else if n = 0x600 then x.getCsr 0x600 ||| 0x200000000
  else if n = 0x104 then ie &&& x.supInts
  else if n = 0x144 then ip &&& x.supInts
  else if n = 0x204 then (ie &&& h [2, 6, 10]) >>> 1
  else if n = 0x244 then (ip &&& h [2, 6, 10]) >>> 1
  else if n = 0x604 then ie &&& bitsOf [2, 6, 10, 12]
  else if n = 0x644 then ip &&& bitsOf [2, 6, 10, 12]
  else if n = 0x344 then ip
  else if n = 0x303 then x.getCsr 0x303 ||| bitsOf [2, 6, 10, 12]
  else if n = 0xC22 then 32
  else if n = 0x301 then misaWord
  else if 0x3B0 ≤ n && n ≤ 0x3EF then x.pmpaddr n
  else if 0x7A1 ≤ n && n ≤ 0x7A3 then x.getCsr (triggerKey x n)
  else x.getCsr n

/-- A 64-bit part of a file's array of bits, as read. -/
def partOf64 (b : BitVec 2048) (k : Nat) : Word := BitVec.ofNat 64 (b.toNat >>> (32 * k))

/-- What a register of a file reads as, by the number that the select register holds. -/
def ImsicFile.get (f : ImsicFile) (sel : Nat) : Word :=
  if sel = 0x70 then f.eidelivery.setWidth 64
  else if sel = 0x72 then f.eithreshold.setWidth 64
  else if 0x80 ≤ sel && sel ≤ 0xBF then partOf64 f.eip (sel - 0x80)
  else if 0xC0 ≤ sel && sel ≤ 0xFF then partOf64 f.eie (sel - 0xC0)
  else 0

/-- A read by way of an indirect or a claim register. -/
def State.indirectRead (s : State) (h : HartId) (n : Nat) : Word :=
  let x := s.hart (hartIx h)
  match x.fileOf n with
  | none => 0
  | some k =>
    let f := s.file (hartIx h * 32 + k)
    if n % 256 = 0x5C then (match f.top with
      | some i => BitVec.ofNat 64 (i * 65537)
      | none => 0)
    else f.get (x.getCsr (n - n % 16)).toNat

/-- What a hart's CSR reads as. The user-level counters show the machine-level ones, and time the time base, with htimedelta added while
V = 1. -/
def State.csrRead (s : State) (h : HartId) (n : Nat) : Word × State :=
  let x := s.hart (hartIx h)
  if n = 0xF11 then (0x0000000000000D27, s)
  else if n = 0xF12 then (0x8000000000000E24, s)
  else if n = 0xF13 then (0x00000000000000A1, s)
  else if n = 0xF14 then (s.mhartid h, s)
  else if n = 0x800 then (x.cqzkeyr, s)
  else if n = 0x5C0 then (x.cqzbpctl &&& 1, s)
  else if n = 0x5C1 then (if x.virt && x.run ≠ .debug then (x.cqzkeyctl >>> 1) &&& 1 else x.cqzkeyctl, s)
  else if n = 0x5C2 then ((s.core (coreIx h)).cachectl, s)
  else if n = 0x5C3 then (x.cqzsmpctl, s)
  else if n = 0x6C0 then (x.cqzhue, s)
  else if n = 0x7C0 then (x.cqzmctl, s)
  else if n = 0xDC0 then s.sampleRead x x.cqzsmpinfo
  else if n = 0xDC1 then s.sampleRead x x.cqzsmppc
  else if n = 0xDC2 then s.sampleRead x x.cqzsmpaddr
  else if n = 0xDC3 then s.sampleRead x x.cqzsmplat
  else if n = 0xDC8 then (s.physId h, s)
  else if n = 0xC01 then (if x.virt then s.now + x.getCsr 0x605 else s.now, s)
  else if n = 0xC00 || 0xC02 ≤ n && n ≤ 0xC1F then (x.getCsr (n - 0x100), s)
  else if n = 0xDA0 then (x.countOvf, s)
  else if n = 0x015 then (let (w, s) := s.takeWord; (w &&& 0xC000FFFF, s))
  else
    let n := x.csrFor n
    (if isIndirect n then s.indirectRead h n else x.viewed n, s)

end Sys2Proof.Machine
end

