-- ==== Sys2Proof/Machine/Operands.lean ====
section
/-! DEFINITION. Operand forms of hart accesses: how an access splits at line boundaries, what an atomic operation computes,
and how a value is written to a register. -/

namespace Sys2Proof.Machine

/-- The parts of an access: one, or two when it crosses a line boundary (R119). -/
def parts (va : Word) (size : Nat) : List (Word × Nat) :=
  let off := va.toNat % 64
  if off + size ≤ 64 then [(va, size)]
  else [(va, 64 - off), (va + BitVec.ofNat 64 (64 - off), size - (64 - off))]

/-- Naturally aligned. -/
def aligned (va : Word) (size : Nat) : Bool := va.toNat % size = 0

/-- A signed reading of `n` bits. -/
def signedOf (n v : Nat) : Int := if v < 2 ^ (n - 1) then (v : Int) else (v : Int) - 2 ^ n

/-- What an atomic operation writes: the old value `a` and the operand `b` of `n` bits; a compare-and-swap writes `b` when
the old value equals `cmp`, and else the old value. -/
def amoResult (op : AmoOp) (n a b cmp : Nat) : Nat :=
  match op with
  | .swap => b
  | .ssSwap => b
  | .add => (a + b) % 2 ^ n
  | .and => a &&& b
  | .or => a ||| b
  | .xor => a ^^^ b
  | .min => if signedOf n a ≤ signedOf n b then a else b
  | .max => if signedOf n a ≤ signedOf n b then b else a
  | .minu => min a b
  | .maxu => max a b
  | .cas => if a = cmp then b else a

/-- Write an integer register: x0 discards writes. -/
def HartState.setX (x : HartState) (rd : Nat) (v : Word) : HartState :=
  if rd = 0 then x else { x with x := Table.put 0 x.x rd v }

/-- Read an integer register: x0 reads zero. -/
def HartState.getX (x : HartState) (r : Nat) : Word := if r = 0 then 0 else Table.get 0 x.x r

/-- Write the result of a load of `size` bytes. A narrower floating-point value is NaN-boxed. Element `i` of a vector load
goes to the bytes of the register group from `rd`, 32 bytes to a register (VLEN 256). -/
def HartState.setLoad (x : HartState) (cls : LoadClass) (rd : Fin 32) (size : Nat) (zext : Bool) (bytes : Bytes) :
    HartState :=
  match cls with
  | .scalar => x.setX rd.val (extend size zext (leNat bytes))
  | .shadowStack => x.setX rd.val (extend size zext (leNat bytes))
  | .hlvx => x.setX rd.val (extend size true (leNat bytes))
  | .float =>
    let boxed := if size < 8 then ~~~ maskOf 0 (8 * size) ||| BitVec.ofNat 64 (leNat bytes)
      else BitVec.ofNat 64 (leNat bytes)
    { x with f := Table.put 0 x.f rd.val boxed }
  | .vector elem _ =>
    let base := rd.val * 32 + elem * size
    { x with v := (List.range size).foldl (fun t i => Table.put 0 t (base + i) (bytes.getD i 0)) x.v }

/-- Write the old value of an atomic operation: 4 bytes sign-extended, 8 bytes, or 16 bytes to the register pair from `rd`. -/
def HartState.setOld (x : HartState) (rd : Fin 32) (size v : Nat) : HartState :=
  if size = 16 then
    if rd.val = 0 then x
    else (x.setX rd.val (BitVec.ofNat 64 v)).setX (rd.val + 1) (BitVec.ofNat 64 (v / 2 ^ 64))
  else x.setX rd.val (extend size false v)

end Sys2Proof.Machine
end

