-- ==== Sys2Proof/Machine/HartOps.lean ====
section
/-! DEFINITION. What a hart's operations do: the checks of an access (R28, R60, R84, R128), one attempt at each operation, which
completes, waits, or traps, and the order in which they are tried. An operation finishes only once no older one can raise an
exception; until then it does no more than a speculative instruction may (R80 to R85). A waiting operation is tried again whenever
what it waits for arrives. -/

namespace Sys2Proof.Machine

/-! ### The checks of an access -/

/-- What an access asks of its region's attributes (R27, R28, R30, R128). -/
inductive Use where
  | load | store | lr | atomic | fetch | hint | zero
  | cbo (k : Cbo)
deriving DecidableEq, Repr

/-- The attributes of an address permit the use, and where it then goes; `none` is an access fault (R28, R30, R128). `whole` is an
access in one part: one that crosses a line is not aligned, which a register of control space or of a device does not take. An LR
on the boot flash window is denied, as R28 denies it on an I/O region, though R30 names only stores and AMOs: DESIGN CHOICE, log
entry 106. -/
def placeOf (r : Region) (pbmt : BitVec 2) (u : Use) (pa size : Nat) (whole : Bool) : Option Place :=
  let even := whole && pa % size = 0
  match r with
  | .absent => none
  | .reserved => none
  | .pcie =>
    (match u with
     | .load => if even then some .pcie else none
     | .store => if even then some .pcie else none
     | _ => none)
  | .control off =>
    let access := (size = 4 || size = 8) && even
    (match u with
     | .load => if access then some (.control off) else none
     | .store =>
       if access && !(off < 0x100000) && !(0x300000 ≤ off && off < 0x380000) then some (.control off) else none
     | _ => none)
  | .flash =>
    (match u with
     | .load => some .flash
     | .fetch => if pbmt = 2 then none else some .flash
     | .hint => if pbmt = 0 then some .flash else none
     | .cbo .clean => if pbmt = 2 then none else some .flash
     | .cbo .flush => if pbmt = 2 then none else some .flash
     | _ => none)
  | .hbm => inMemory
  | .cxl => inMemory
where
  /-- Main memory. -/
  inMemory : Option Place :=
    if pbmt = 0 then some .mem
    else if pbmt = 1 then (if u = .hint then none else some .nc)
    else match u with
      | .load => some .ioMem
      | .store => some .ioMem
      | _ => none

/-- The rights that a key must not deny (R60). -/
def keyDenies (keyr : Word) (u : Use) (prefetchW : Bool) (key : BitVec 4) : Bool :=
  let ad := bit keyr (2 * key.toNat)
  let wd := bit keyr (2 * key.toNat + 1)
  match u with
  | .load => ad
  | .lr => ad
  | .fetch => false
  | .hint => ad || (prefetchW && wd)
  | .cbo .clean => ad
  | .cbo .flush => ad
  | _ => ad || wd

/-- What the checks of an access gave. -/
inductive Checked where
  | ok (l : List Part)
  | fault (t : TrapInfo)
  | wait
deriving DecidableEq, Repr

/-- Check one part after another in the order of R61: translation, key, then PMP and attributes. -/
def State.check (s : State) (h : HartId) (w : Waiting) (need : Need) (u : Use) (spec hint : Bool) (keyLoad whole : Bool) :
    List (Word × Nat) → Checked × State
  | [] => (.ok [], s)
  | (va, size) :: rest =>
    match s.translate h va need w.stamp spec hint w.tried with
    | (.wait, s) => (.wait, s)
    | (.fault t, s) => (.fault t, s)
    | (.ok pa pbmt key, s) =>
      if key.any (keyDenies w.stamp.keyr u (need = .store)) then
        (.fault { cause := if keyLoad then 24 else 25, tval := va, gva := w.stamp.virt, own := true }, s)
      else if !(s.hart (hartIx h)).pmpOk w.stamp.priv pa size need.acc then (.fault (accessFault need va w.stamp.virt), s)
      else match placeOf (s.region (s.partOfDie h.die.val) pa) pbmt u pa size whole with
        | none => (.fault (accessFault need va w.stamp.virt), s)
        | some p =>
          match s.check h w need u spec hint keyLoad whole rest with
          | (.ok l, s) => (.ok ({ va := va, size := size, pa := pa, at_ := p, io := pbmt = 2 } :: l), s)
          | r => r

/-- The checks of an access in its parts. -/
def State.checkParts (s : State) (h : HartId) (w : Waiting) (need : Need) (u : Use) (spec keyLoad : Bool) (ps : List (Word × Nat)) :
    Checked × State := s.check h w need u spec false keyLoad (ps.length = 1) ps

/-! ### Trap values -/

/-- The transformed instruction of an explicit load or store that faults `off` bytes into its access, as the H extension publishes
it (PRESUMED, log entry 23): for a load, a store, or an atomic or hypervisor access; zero for another instruction that has one;
`none` for a vector access, for which it publishes none. -/
def transformed (a : Access) (off : Nat) : Option Word :=
  let i := a.inst.toNat
  let f (lo n : Nat) : Nat := i / 2 ^ lo % 2 ^ n
  let op := f 0 7
  let kept (l : List (Nat × Nat)) : Word :=
    BitVec.ofNat 64 (l.foldl (fun v q => v + f q.1 q.2 * 2 ^ q.1) (off % 32 * 2 ^ 15) - (if a.compressed then 2 * f 1 1 else 0))
  let scalar := 1 ≤ f 12 3 && f 12 3 ≤ 4
  if op = 0x03 || (op = 0x07 && scalar) then some (kept [(0, 7), (7, 5), (12, 3)])
  else if op = 0x23 || (op = 0x27 && scalar) then some (kept [(0, 7), (12, 3), (20, 5)])
  else if op = 0x2F || op = 0x73 then some (kept [(0, 15), (20, 12)])
  else if op = 0x0F then some 0
  else none

/-- The trap of an access, with the transformed instruction where R34 has one: a free value where none is published. -/
def State.withInst (s : State) (a : Access) (t : TrapInfo) : TrapInfo × State :=
  if !t.own then (t, s)
  else match transformed a (t.tval - a.va).toNat with
    | some v => ({ t with htinst := v }, s)
    | none =>
      let (v, s) := s.takeWord
      ({ t with htinst := v }, s)

/-! ### Order among the operations of a hart -/

/-- An older waiting operation to a line of a younger one holds it back. -/
def heldBack (older : List Waiting) (lines : List Nat) : Bool :=
  older.any fun o => !o.op.isHint && !o.op.isSpec && o.lines.any lines.contains

/-- The bytes that an older store of the hart, not yet performed or still speculative, holds for a load (R81). -/
def HartState.forward (x : HartState) (va : Word) (size : Nat) : Option Bytes :=
  let covers (a : Word) (n : Nat) : Bool := a.toNat ≤ va.toNat && va.toNat + size ≤ a.toNat + n
  let pick (a : Word) (n : Nat) (v : Word) : Bytes := sub (leBytes n v.toNat) (va.toNat - a.toNat) size
  match x.specStores.reverse.find? fun p => covers p.va p.size with
  | some p => some (pick p.va p.size p.value)
  | none =>
    x.waiting.reverse.findSome? fun w => match w.op with
      | .store a v _ => if covers a.va a.size then some (pick a.va a.size v) else none
      | _ => none

/-! ### Events of an access (R484) -/

/-- Count the cache misses of a data access or fetch when it is first tried. -/
def State.countMiss (s : State) (h : HartId) (va : Word) (line : Nat) (fetch : Bool) (st : Stamp) : State :=
  let c := s.core (coreIx h)
  let top := if fetch then (c.hitL1i va line).isNone else (c.hitL1d va line).isNone
  let s := if top then s.hartEvent h (if fetch then 0x0B else 0x0C) st else s
  let s := if top && !fetch && c.l1dMiss.any (·.1 = line) then s.hartEvent h 0x0D st else s
  if top then s.countBelow h line st else s

/-! ### One attempt at an operation -/

/-- How an attempt ended: done, done by a speculative load that delivers a value to its dependants, trapped, or a wait with what
has been found. -/
inductive Att where
  | done
  | gave (value : Bytes)
  | wait (w : Waiting)
  | trapped
deriving DecidableEq, Repr

/-- The operation holds a place in the miss registers for the line. -/
def Waiting.asked (w : Waiting) (line : Nat) : Waiting :=
  if w.regs.contains line then w else { w with regs := line :: w.regs }

/-- How the operation asks for a line. -/
def Waiting.ask (w : Waiting) (va : Word) (line : Nat) (spec : Bool := false) : Ask :=
  { va := va, hue := w.stamp.hue, counted := w.regs.contains line, served := w.served.contains line, spec := spec }

/-- Take an exception of an access. -/
def State.accessTrap (s : State) (h : HartId) (w : Waiting) (a : Access) (t : TrapInfo) : Att × State :=
  let (t, s) := s.withInst a t
  (.trapped, s.trap h w.stamp t)

/-- Consume poisoned data or an error answer: a speculative load delivers an unpredictable value, or nothing, and raises nothing
(R70, R85, R503). -/
def State.consume (s : State) (h : HartId) (w : Waiting) (spec : Bool) (va : Word) (pa size : Nat) : Att × State :=
  if spec then
    let (b, s) := s.takeBytes size
    (.gave b, s)
  else (.trapped, s.hardwareError h w.stamp va pa .poisonConsumed)

/-- The flash address that byte `o` of the boot flash window reads, as partition `part` sees it (R416). -/
def State.flashAddr (s : State) (part : Option Nat) (o : Nat) : Nat :=
  let off := match part with
    | some p => fld (s.cfg (0x1210 + p)) 32 4 * 2 ^ 24
    | none => 0
  if s.mgmt.mode.straps.bootSel = 1 then (off + 2 ^ 27 + o) % 2 ^ 28 else off + o

/-- Byte `o` of the boot flash window: beyond the end of the device it reads 0xFF (R424). -/
def State.flashRead (s : State) (part : Option Nat) (o : Nat) : Byte :=
  let a := s.flashAddr part o
  if a < Config.flashSize then Config.flashByte a else 0xFF

/-- Byte `i` of a line of the boot flash window of the package that the line lies in (R25). -/
def State.flashAt (s : State) (part : Option Nat) (line i : Nat) : Byte :=
  let o := line * 64 % 2 ^ 50 + i - 0x70000000
  if line * 64 / 2 ^ 50 % 4 = s.pkgIx then s.flashRead part o else Config.peerFlash (line * 64 / 2 ^ 50 % 4) o

/-- Read the bytes of a list of parts in memory: the bytes and whether any was poisoned, or the operation as it must wait. -/
def State.readParts (s : State) (h : HartId) (w : Waiting) (path : Path) (spec : Bool) :
    List Part → Except (Option Waiting) (Bytes × Bool) × State
  | [] => (.ok ([], false), s)
  | p :: rest =>
    let line := lineOf p.pa
    let s := if w.tried then s else s.countMiss h p.va line (path = .fetch) w.stamp
    let r := match p.at_ with
      | .mem => s.readLine h line path (w.ask p.va line spec)
      | .flash =>
        (.here ((List.range 64).map (s.flashAt (s.partOfDie h.die.val) line)) false, s)
      | _ => s.readNc h line (w.ask p.va line spec)
    match r with
    | (.filed, s) => (.error (some (w.asked line)), s)
    | (.wait, s) => (.error (some w), s)
    | (.drop, s) => (.error none, s)
    | (.here data poison, s) =>
      match s.readParts h w path spec rest with
      | (.ok (more, p2), s) => (.ok (sub data (p.pa % 64) p.size ++ more, poison || p2), s)
      | r => r

/-- Send an I/O access of a hart (R183): one at a time, never speculative (R82). -/
def State.sendIo (s : State) (h : HartId) (w : Waiting) (p : Part) (write : Bool) (value : Word) : Att × State :=
  let x := s.hart (hartIx h)
  let w := { w with parts := [p] }
  if x.io.isSome || x.waiting.any (fun o => o.issued && !o.op.isHint) then (.wait w, s)
  else
    let msi := match p.at_ with
      | .control off => write && 0x04000000 ≤ off && off < 0x08000000
      | _ => false
    let io : IoAccess := { pa := p.pa, size := p.size, write := write, msi := msi, hue := w.stamp.hue, tmo := s.ioTmo h.die.val }
    let s := s.setHart (hartIx h) { x with io := some io }
    let s := if s.dieFenced h.die.val then s
      else if msi then
        let m : MsiMsg := { pa := p.pa, size := p.size, value := value, hue := w.stamp.hue, client := some h }
        s.upFab fun f => { f with msis := f.msis ++ [m] }
      else
        s.upFab fun f => { f with ioReqs := f.ioReqs ++
          [(write, { client := .hart h, pa := p.pa, size := p.size, value := value, hue := w.stamp.hue })] }
    (.wait { w with issued := true }, s)

def Place.isIo : Place → Bool
  | .control _ => true
  | .pcie => true
  | _ => false

/-- Deliver what a load read, and retire it. -/
def State.finishLoad (s : State) (h : HartId) (w : Waiting) (a : Access) (rd : Fin 32) (zext : Bool) (cls : LoadClass)
    (bytes : Bytes) : State :=
  let x := s.hart (hartIx h)
  s.setHart (hartIx h) (((x.setLoad cls rd a.size zext bytes).event 0x16 1 w.stamp).retire w.stamp)

/-- What a load needs of a translation. -/
def loadNeed : LoadClass → Need
  | .shadowStack => .ssLoad
  | .hlvx => .loadX
  | _ => .load

/-- A load fault: element `i` of a vector load sets vstart, or truncates vl (R61). A speculative load that fails a check delivers
zero (R84). -/
def State.loadFault (s : State) (h : HartId) (w : Waiting) (a : Access) (cls : LoadClass) (spec : Bool) (t : TrapInfo) : Att × State :=
  if spec then (.gave (List.replicate a.size 0), s)
  else
    let x := s.hart (hartIx h)
    match cls with
    | .vector i fof =>
      if fof && 0 < i then (.done, s.setHart (hartIx h) ((x.setCsr 0xC20 (BitVec.ofNat 64 i)).retire w.stamp))
      else (s.setHart (hartIx h) (x.setCsr 0x008 (BitVec.ofNat 64 i))).accessTrap h w a t
    | _ => s.accessTrap h w a t

/-- Read what a load names, its checks passed, and deliver it. -/
def State.loadBytes (s : State) (h : HartId) (w : Waiting) (a : Access) (rd : Fin 32) (zext : Bool) (cls : LoadClass) (spec : Bool)
    (ps : List Part) : Att × State :=
  match s.readParts h w .data spec ps with
  | (.error (some w), s) => (.wait w, s)
  | (.error none, s) => (.wait w, s)
  | (.ok (b, poison), s) =>
    if poison then s.consume h w spec a.va (w.pas.headD 0) a.size
    else if spec then (.gave b, s)
    else (.done, s.finishLoad h w a rd zext cls b)

/-- A load (R84), or an LR while it is speculative. Nothing speculative goes to an I/O region, which fails its check, or through a
page that Svpbmt marks IO, which waits (R82). -/
def State.tryLoad (s : State) (h : HartId) (w : Waiting) (u : Use) (a : Access) (rd : Fin 32) (zext : Bool) (cls : LoadClass)
    (spec : Bool) : Att × State :=
  match s.checkParts h w (loadNeed cls) u spec true (parts a.va a.size) with
  | (.wait, s) => (.wait w, s)
  | (.fault t, s) => s.loadFault h w a cls spec t
  | (.ok ps, s) =>
    let x := s.hart (hartIx h)
    let w := { w with parts := ps }
    match ps.find? fun p => p.at_.isIo || p.io with
    | some p =>
      if spec then (if p.io then (.done, s) else (.gave (List.replicate a.size 0), s))
      else if p.at_.isIo then s.sendIo h w p false 0
      else if heldBack x.waiting w.lines then (.wait w, s)
      else s.loadBytes h w a rd zext cls false ps
    | none =>
      match x.forward a.va a.size with
      | some b => if spec then (.gave b, s) else (.done, s.finishLoad h w a rd zext cls b)
      | none =>
        if !spec && heldBack x.waiting w.lines then (.wait w, s)
        else s.loadBytes h w a rd zext cls spec ps

/-- Own every line of a list of parts, without writing: `none` when one must wait. -/
def State.ownParts (s : State) (h : HartId) (w : Waiting) (op : Op) : List Part → Option (List Bytes × Bool) × Waiting × State
  | [] => (some ([], false), w, s)
  | p :: rest =>
    let line := lineOf p.pa
    let s := if w.tried then s else s.countMiss h p.va line false w.stamp
    let r := match p.at_ with
      | .mem => s.ownLine h line op false (w.ask p.va line)
      | _ => s.ownNc h line op (w.ask p.va line)
    match r with
    | (.here data poison, s) =>
      match s.ownParts h w op rest with
      | (some (l, q), w, s) => (some (data :: l, poison || q), w, s)
      | r => r
    | (.filed, s) => (none, w.asked line, s)
    | (_, s) => (none, w, s)

/-- Write the bytes of an access into the owned lines of its parts. -/
def State.writeParts (s : State) (h : HartId) : List Part → Bytes → State
  | [], _ => s
  | p :: rest, b =>
    let line := lineOf p.pa
    let mine := b.take p.size
    let s := match p.at_ with
      | .mem => s.writeLine h p.va line (p.pa % 64) mine (p.size = 64)
      | _ => s.writeNc h.die line (p.pa % 64) mine (p.size = 64)
    s.writeParts h rest (b.drop p.size)

def retireStore (x : HartState) (st : Stamp) : HartState := (x.event 0x15 1 st).retire st

/-- What a store needs of a translation. -/
def storeNeed : StoreClass → Need
  | .shadowStack => .ssStore
  | _ => .store

/-- The checks of a store or a cache-block operation, made once (R62). -/
def State.checkOnce (s : State) (h : HartId) (w : Waiting) (need : Need) (u : Use) (ps : List (Word × Nat)) : Checked × State :=
  if w.parts.isEmpty then s.checkParts h w need u false false ps else (.ok w.parts, s)

/-- A store (R172): into owned lines, once no longer speculative. -/
def State.tryStore (s : State) (h : HartId) (w : Waiting) (a : Access) (v : Word) (cls : StoreClass) : Att × State :=
  match s.checkOnce h w (storeNeed cls) .store (parts a.va a.size) with
  | (.wait, s) => (.wait w, s)
  | (.fault t, s) =>
    let x := s.hart (hartIx h)
    (match cls with
     | .vector i => (s.setHart (hartIx h) (x.setCsr 0x008 (BitVec.ofNat 64 i))).accessTrap h w a t
     | _ => s.accessTrap h w a t)
  | (.ok ps, s) =>
    let w := { w with parts := ps }
    match ps.find? fun p => p.at_.isIo with
    | some p => s.sendIo h w p true v
    | none =>
      if heldBack (s.hart (hartIx h)).waiting w.lines then (.wait w, s)
      else match s.ownParts h w .rdO ps with
        | (none, w, s) => (.wait w, s)
        | (some _, w, s) =>
          let s := s.writeParts h ps (leBytes a.size v.toNat)
          (.done, s.setHart (hartIx h) (retireStore (s.hart (hartIx h)) w.stamp))

/-- Own the line of an atomic access whose checks pass, and go on with the line's bytes. -/
def State.tryOwned (s : State) (h : HartId) (w : Waiting) (a : Access) (need : Need) (u : Use) (keyLoad : Bool)
    (act : State → Waiting → List Part → Bytes → Bool → Att × State) : Att × State :=
  match s.checkParts h w need u false keyLoad [(a.va, a.size)] with
  | (.wait, s) => (.wait w, s)
  | (.fault t, s) => s.accessTrap h w a t
  | (.ok ps, s) =>
    let w := { w with parts := ps }
    if heldBack (s.hart (hartIx h)).waiting w.lines then (.wait w, s)
    else match s.ownParts h w .rdO ps with
      | (none, w, s) => (.wait w, s)
      | (some (lines, poison), w, s) => act s w ps (lines.headD []) poison

/-- What an atomic operation needs of a translation. -/
def amoNeed : AmoOp → Need
  | .ssSwap => .ssStore
  | _ => .store

/-- An AMO or amocas (R170): read and write on an owned line, in one step. -/
def State.tryAmo (s : State) (h : HartId) (w : Waiting) (a : Access) (op : AmoOp) (operand cmp : BitVec 128) (rd : Fin 32) :
    Att × State :=
  s.tryOwned h w a (amoNeed op) .atomic false fun s w ps line poison =>
    let pa := w.pas.headD 0
    if poison then s.consume h w false a.va pa a.size
    else
      let n := 8 * a.size
      let old := leAt line (pa % 64) a.size
      let new := amoResult op n old (operand.toNat % 2 ^ n) (cmp.toNat % 2 ^ n)
      let s := s.writeParts h ps (leBytes a.size new)
      let x := s.hart (hartIx h)
      (.done, s.setHart (hartIx h) (retireStore (x.setOld rd a.size old) w.stamp))

/-- LR once no longer speculative (R170): it owns the line and sets the reservation. -/
def State.tryLr (s : State) (h : HartId) (w : Waiting) (a : Access) (rd : Fin 32) : Att × State :=
  s.tryOwned h w a .load .lr true fun s w _ line poison =>
    let pa := w.pas.headD 0
    if poison then s.consume h w false a.va pa a.size
    else
      let x := s.hart (hartIx h)
      let x := x.setX rd.val (extend a.size false (leAt line (pa % 64) a.size))
      (.done, s.setHart (hartIx h) (({ x with resv := some { line := lineOf pa } }.event 0x16 1 w.stamp).retire w.stamp))

/-- SC (R36, R171): it writes when the reservation on its line still stands, and the reservation ends either way. -/
def State.trySc (s : State) (h : HartId) (w : Waiting) (a : Access) (v : Word) (rd : Fin 32) : Att × State :=
  match s.checkParts h w .store .atomic false false [(a.va, a.size)] with
  | (.wait, s) => (.wait w, s)
  | (.fault t, s) => s.accessTrap h w a t
  | (.ok ps, s) =>
    let w := { w with parts := ps }
    let x := s.hart (hartIx h)
    if heldBack x.waiting w.lines then (.wait w, s)
    else
      let finish (s : State) (v : Word) : Att × State :=
        let x := s.hart (hartIx h)
        (.done, s.setHart (hartIx h) (retireStore ({ x with resv := none }.setX rd.val v) w.stamp))
      if x.resv.map (·.line) = some (lineOf (w.pas.headD 0)) then
        match s.ownParts h w .rdO ps with
        | (none, w, s) => (.wait w, s)
        | (some _, _, s) => finish (s.writeParts h ps (leBytes a.size v.toNat)) 0
      else finish s 1

/-- Apply a CMO to the die's own copies (R142): the dirty data taken. -/
def State.cboLocal (s : State) (d : Fin 12) (line : Nat) (k : Cbo) : State × Option (Bytes × Bool) :=
  match k with
  | .clean =>
    let s := (s.settle d line).probeCores d line false none
    let x := s.die d.val
    (match x.findL3 line with
     | some (k3, l) =>
       if l.st = .m then (s.setDie d.val { x with l3 := Table.insert x.l3 k3 { l with st := .e } }, some (l.data, l.poison))
       else (s, none)
     | none => (s, none))
  | .flush => s.evictL3 d line
  | .invalFlush => s.evictL3 d line
  | .inval => ((s.evictL3 d line).1, none)

def Cbo.msg : Cbo → Op
  | .clean => .cmoClean
  | .flush => .cmoFlush
  | .invalFlush => .cmoFlush
  | .inval => .cmoInval

/-- CBO.CLEAN, CBO.FLUSH or CBO.INVAL (R126, R142): the die's own copies first, then the home. -/
def State.tryCbo (s : State) (h : HartId) (w : Waiting) (k : Cbo) (a : Access) : Att × State :=
  let line := a.va.toNat / 64 * 64
  match s.checkOnce h w .cbo (.cbo k) [(BitVec.ofNat 64 line, 64)] with
  | (.wait, s) => (.wait w, s)
  | (.fault t, s) => s.accessTrap h w a { t with tval := a.va }
  | (.ok ps, s) =>
    let w := { w with parts := ps }
    let x := s.hart (hartIx h)
    let retire (s : State) : State :=
      s.setHart (hartIx h) (retireStore (s.hart (hartIx h)) w.stamp)
    match ps with
    | [] => (.done, s)
    | p :: _ =>
      if p.at_ = .flash then (.done, retire s)
      else if w.issued || heldBack x.waiting w.lines then (.wait w, s)
      else
        let k := if p.at_ = .nc && k = .inval then .flush else k
        let line := lineOf p.pa
        let ds := s.die h.die.val
        let held := if k = .clean then [] else s.reserved h.die (List.finRange 22) line (some h)
        if !held.isEmpty then (.wait w, s.markDelay held)
        else if (ds.findMiss line).isSome || (ds.findWb line).isSome || ds.wbFull ||
            1184 ≤ (ds.miss.filter (·.shared)).length then (.wait w, s)
        else
          let (s, dirty) := s.cboLocal h.die line k
          let txid := (s.die h.die.val).freeTxid
          let (_, s) := s.askLine h.die h.core line { op := k.msg, l2 := false, sharedOnly := true } w.stamp.hue true dirty
          let x := s.die h.die.val
          let s := match dirty with
            | some (b, p) =>
              s.setDie h.die.val
                { x with wb := x.wb ++ [{ line := line, op := k.msg, data := b, poison := p, hue := w.stamp.hue,
                                          txid := txid, tmo := s.reqTmo h.die.val }] }
            | none => s
          (.wait { w with issued := true }, s)

/-- CBO.ZERO (R126): ownership without a memory read, then 64 zero bytes; for NC memory the zeros go to memory (R128). -/
def State.tryZero (s : State) (h : HartId) (w : Waiting) (a : Access) : Att × State :=
  let base := BitVec.ofNat 64 (a.va.toNat / 64 * 64)
  match s.checkOnce h w .store .zero [(base, 64)] with
  | (.wait, s) => (.wait w, s)
  | (.fault t, s) => s.accessTrap h w a { t with tval := a.va }
  | (.ok ps, s) =>
    let w := { w with parts := ps }
    let nc := ps.any fun p => p.at_ = .nc
    let line := w.lines.headD 0
    if heldBack (s.hart (hartIx h)).waiting w.lines || (nc && (s.die h.die.val).wbFull) then (.wait w, s)
    else match s.ownParts h w .claimZ ps with
      | (none, w, s) => (.wait w, s)
      | (some _, w, s) =>
        let s := if nc then s.zeroNc h.die line w.stamp.hue else s.writeParts h ps zeroLine
        (.done, s.setHart (hartIx h) (retireStore (s.hart (hartIx h)) w.stamp))

/-- A prefetch hint is dropped (R124, R125). -/
def State.dropHint (s : State) (h : HartId) (st : Stamp) : Att × State := (.done, s.hartEvent h 0x18 st)

/-- A prefetch hint (R124, R125). PREFETCH.W is never speculative (R82). -/
def State.tryHint (s : State) (h : HartId) (w : Waiting) (k : Hint) (a : Access) (spec : Bool) : Att × State :=
  let need : Need := match k with
    | .r => .load
    | .w => .store
    | .i => .fetch
  match s.check h w need .hint spec true false true [(a.va, 1)] with
  | (.wait, s) => (.wait w, s)
  | (.fault _, s) => s.dropHint h w.stamp
  | (.ok ps, s) =>
    let w := { w with parts := ps }
    match ps with
    | [] => (.done, s)
    | p :: _ =>
      if p.at_ ≠ .mem then (.done, s)
      else
        let line := lineOf p.pa
        let q := w.ask p.va line spec
        let r := match k with
          | .r => s.readLine h line .hintR q
          | .i => s.readLine h line .hintI q
          | .w => s.ownLine h line .rdO true q
        match r with
        | (.here _ _, s) => (.done, s)
        | (.filed, s) => (.wait (w.asked line), s)
        | (.wait, s) => (.wait w, s)
        | (.drop, s) => s.dropHint h w.stamp

/-- An instruction fetch (R83): the line that holds `va`. A speculative target that fails a check stops the front end. -/
def State.tryFetch (s : State) (h : HartId) (w : Waiting) (va : Word) (spec : Bool) : Att × State :=
  match s.check h w .fetch .fetch spec false true true [(va, 1)] with
  | (.wait, s) => (.wait w, s)
  | (.fault t, s) =>
    if spec then (.done, s.setHart (hartIx h) { s.hart (hartIx h) with fetchStall := some va })
    else (.trapped, s.trap h w.stamp t)
  | (.ok ps, s) =>
    match s.readParts h { w with parts := ps } .fetch spec ps with
    | (.error (some w), s) => (.wait w, s)
    | (.error none, s) => (.done, s)
    | (.ok (_, poison), s) =>
      if poison && !spec then s.consume h w false va ((ps.map Part.pa).headD 0) 0 else (.done, s)

/-- Apply the invalidations that no SFENCE.INVAL.IR has ordered yet (R102). -/
def State.applySinvals (s : State) (h : HartId) : State :=
  let x := s.hart (hartIx h)
  let s := s.forEach x.sinvals fun s q => s.invalidate h q.sel
  s.setHart (hartIx h) { s.hart (hartIx h) with sinvals := [] }

/-- Every older operation has ended. -/
def HartState.noneOlder (x : HartState) : Bool := x.waiting.all fun o => o.op.isHint || o.op.isSpec

/-- A fence: it waits for every older operation, then acts (R101, R127, R37). -/
def State.tryFence (s : State) (h : HartId) (w : Waiting) (act : State → State) : Att × State :=
  if !(s.hart (hartIx h)).noneOlder then (.wait w, s)
  else
    let s := act s
    (.done, s.setHart (hartIx h) ((s.hart (hartIx h)).retire w.stamp))

/-- The fence names every translation of its context. -/
def fenceAll (f : FenceArgs) : Bool := f.addr.isNone && f.id.isNone

/-- SFENCE.VMA: remove what its row names; with no operands and V = 0, end the mixture of a change of KE (R58). -/
def State.sfence (s : State) (h : HartId) (f : FenceArgs) : State :=
  let s := s.applySinvals h
  let x := s.hart (hartIx h)
  let s := s.invalidate h (fenceStage1 x.sfenceVmid f)
  if fenceAll f && !x.virt then s.setHart (hartIx h) { s.hart (hartIx h) with keMix := false } else s

/-- HFENCE.VVMA under the current VMID; with no operands it ends the mixture of a change of VKE (R58). -/
def State.hfenceV (s : State) (h : HartId) (f : FenceArgs) : State :=
  let s := s.applySinvals h
  let s := s.invalidate h (fenceStage1 (some (s.hart (hartIx h)).vmidNow) f)
  if fenceAll f then s.setHart (hartIx h) { s.hart (hartIx h) with vkeMix := false } else s

/-- HFENCE.GVMA. -/
def State.hfenceG (s : State) (h : HartId) (f : FenceArgs) : State := (s.applySinvals h).invalidate h (fenceG f)

/-- SFENCE.INVAL.IR: the invalidations are ordered, and the sequence that SFENCE.W.INVAL began has the effect of the fences that it
stands for, on the mixtures of R58 too (R102). -/
def State.sinvalEnd (s : State) (h : HartId) : State :=
  let l := (s.hart (hartIx h)).sinvals.filter fun q => q.ordered && fenceAll q.args
  let s := s.applySinvals h
  let x := s.hart (hartIx h)
  s.setHart (hartIx h)
    { x with wInval := false
             keMix := x.keMix && !(l.any fun q => q.kind = .sinvalVma && !q.virt)
             vkeMix := x.vkeMix && !(l.any fun q => q.kind = .hinvalVvma) }

/-- SFENCE.W.INVAL. -/
def State.winval (s : State) (h : HartId) : State := s.setHart (hartIx h) { s.hart (hartIx h) with wInval := true }

/-- FENCE.I: later fetches read what the core's L2 and below hold. -/
def State.syncFetch (s : State) (h : HartId) : State :=
  let c := s.core (coreIx h)
  s.setCore (coreIx h)
    { c with l1i := [], l1iLru := [], l2 := c.l2.map fun e => (e.1, if e.2.ixI = none then e.2 else { e.2 with ixI := none }) }

/-- An SINVAL instruction: it does not wait for older stores (R102). -/
def State.trySinval (s : State) (h : HartId) (w : Waiting) (k : InvalKind) (f : FenceArgs) : Att × State :=
  let x := s.hart (hartIx h)
  (.done, s.setHart (hartIx h) ({ x with sinvals := x.sinvals ++ [x.sinvalNow k f] }.retire w.stamp))

/-- WFI: the hart stops until an enabled interrupt is pending. -/
def State.tryWfi (s : State) (h : HartId) (w : Waiting) : Att × State :=
  (.done, s.setHart (hartIx h) ({ (s.hart (hartIx h)).retire w.stamp with run := .wfi }.wake))

/-- FLUSH of cqzbpctl: once the older instructions have retired a clearing starts, or the write joins the one that follows the
clearing in progress; it retires when that is complete (R52, R53, R78). -/
def State.tryFlush (s : State) (h : HartId) (w : Waiting) : Att × State :=
  if w.issued || !(s.hart (hartIx h)).noneOlder then (.wait w, s)
  else
    let c := s.core (coreIx h)
    let c := match c.clearing with
      | none => { c with clearing := some [h.thread] }
      | some _ => { c with clearAgain := c.clearAgain.filter (· ≠ h.thread) ++ [h.thread] }
    (.wait { w with issued := true }, s.setCore (coreIx h) c)

/-- A branch or jump retires (R484). -/
def State.tryBranch (s : State) (h : HartId) (w : Waiting) (redirected : Bool) : Att × State :=
  let x := (s.hart (hartIx h)).event 0x05 1 w.stamp
  let x := if redirected then x.event 0x06 1 w.stamp else x
  (.done, s.setHart (hartIx h) (x.retire w.stamp))

/-! ### Privilege -/

/-- Whether the hart may execute an instruction: else it is illegal, or a virtual instruction. -/
def HartState.may (x : HartState) (op : HartOp) : Allow :=
  match op with
  | .sfence _ => x.mayFence
  | .sinval .sinvalVma _ => x.mayFence
  | .sinval .hinvalVvma _ => x.mayHfence false
  | .sinval .hinvalGvma _ => x.mayHfence true
  | .hfenceV _ => x.mayHfence false
  | .hfenceG _ => x.mayHfence true
  | .wInval => x.mayInval
  | .invalIr => x.mayInval
  | .cbo .clean _ => x.envAllows 6
  | .cbo .flush _ => x.envAllows 6
  | .cbo _ _ => x.inval.1
  | .zero _ => x.envAllows 7
  | .wfi => x.mayWait
  | .csr n _ => x.mayWriteCsr n
  | .bpFlush _ => x.mayWriteCsr 0x5C0
  | _ => .yes

/-- Raise an illegal-instruction or virtual-instruction exception. The command does not carry the encoding, which the trap value
may hold: it is a free value (log entry 23). -/
def State.illegal (s : State) (h : HartId) (w : Waiting) (virtual : Bool) : Att × State :=
  let (v, s) := s.takeWord
  (.trapped, s.trap h w.stamp { cause := if virtual then 22 else 2, tval := v })

/-- Raise an address-misaligned exception (R34). -/
def State.misaligned (s : State) (h : HartId) (w : Waiting) (a : Access) (cause : Nat) : Att × State :=
  (.trapped, s.trap h w.stamp { cause := cause, tval := a.va, gva := w.stamp.virt })

/-- One attempt at an operation that nothing can squash any more. The operations that the hart's `waiting` list holds are older. -/
def State.attempt (s : State) (h : HartId) (w : Waiting) : Att × State :=
  match (if w.issued then Allow.yes else (s.hart (hartIx h)).may w.op) with
  | .illegal => s.illegal h w false
  | .virtual => s.illegal h w true
  | .yes =>
    match w.op with
    | .load a rd z c => s.tryLoad h w .load a rd z c false
    | .store a v c => s.tryStore h w a v c
    | .amo a op b c rd => if aligned a.va a.size then s.tryAmo h w a op b c rd else s.misaligned h w a 6
    | .lr a rd => if aligned a.va a.size then s.tryLr h w a rd else s.misaligned h w a 4
    | .sc a v rd => if aligned a.va a.size then s.trySc h w a v rd else s.misaligned h w a 6
    | .cbo k a => s.tryCbo h w (if k = .inval then (s.hart (hartIx h)).inval.2 else k) a
    | .zero a => s.tryZero h w a
    | .hint k a => if w.issued then (.done, s) else s.tryHint h w k a false
    | .fetch va _ => s.tryFetch h w va false
    | .fence => s.tryFence h w id
    | .fenceI => s.tryFence h w fun s => s.syncFetch h
    | .sfence f => s.tryFence h w fun s => s.sfence h f
    | .hfenceV f => s.tryFence h w fun s => s.hfenceV h f
    | .hfenceG f => s.tryFence h w fun s => s.hfenceG h f
    | .wInval => s.tryFence h w fun s => s.winval h
    | .invalIr => s.tryFence h w fun s => s.sinvalEnd h
    | .sinval k f => s.trySinval h w k f
    | .wfi => s.tryWfi h w
    | .csr n v => (.done, s.csrWrite h n v w.stamp)
    | .bpFlush _ => s.tryFlush h w
    | .branch r => s.tryBranch h w r

/-- What an instruction may do while it is speculative (R81, R82): a load, an LR, a hint or a fetch reads; a store enters the store
buffer; nothing else acts. -/
def State.glimpse (s : State) (h : HartId) (w : Waiting) : Att × State :=
  match w.op with
  | .load a rd z c => s.tryLoad h w .load a rd z c true
  | .lr a rd => if aligned a.va a.size then s.tryLoad h w .lr a rd false .scalar true else (.gave (List.replicate a.size 0), s)
  | .hint .r a => s.tryHint h w .r a true
  | .hint .i a => s.tryHint h w .i a true
  | .fetch va _ => s.tryFetch h w va true
  | .store a v _ =>
    let x := s.hart (hartIx h)
    (.done, if a.spec then s.setHart (hartIx h) { x with specStores := x.specStores ++ [{ va := a.va, size := a.size, value := v, branch := w.stamp.branch }] } else s)
  | _ => (.done, s)

/-! ### Trying operations in order -/

/-- The flags that the attempt raised are the operation's (R485). -/
def State.takeFlags (s : State) (h : HartId) (w : Waiting) : Waiting × State :=
  let x := s.hart (hartIx h)
  ({ w with flags := w.flags ||| x.flags }, s.setHart (hartIx h) { x with flags := 0 })

/-- The operation joins the ones that wait. -/
def State.park (s : State) (h : HartId) (w : Waiting) : State :=
  let x := s.hart (hartIx h)
  s.setHart (hartIx h) { x with waiting := x.waiting ++ [w] }

/-- A speculative instruction has executed, and stays in the window with the value that it delivers. -/
def State.specEnd (s : State) (h : HartId) (w : Waiting) (value : Bytes) : State :=
  if w.op.isFetch then s
  else
    let x := s.hart (hartIx h)
    s.setHart (hartIx h) { x with specDone := x.specDone ++ [{ w := w, value := value }] }

/-- An operation has raised an exception. -/
def State.endTrap (s : State) (h : HartId) (w : Waiting) : State :=
  let (w, s) := s.takeFlags h w
  (s.applySinvals h).endSample h w (2 ^ 13)

/-- An operation has ended. A hint retires only now. -/
def State.endDone (s : State) (h : HartId) (w : Waiting) : State :=
  let (w, s) := s.takeFlags h w
  let s := if w.op.isHint && !w.op.isFetch then s.setHart (hartIx h) ((s.hart (hartIx h)).retire w.stamp) else s
  s.endSample h w 1

/-- A speculative attempt: an instruction that is still on a predicted path stays executed in the window, and one that waits for older
ones to be past their exceptions waits among them. -/
def State.issueSpec (s : State) (h : HartId) (w : Waiting) : State :=
  match s.glimpse h w with
  | (.wait w', s) =>
    let (w', s) := s.takeFlags h w'
    s.park h { w' with tried := true }
  | (r, s) =>
    let (w, s) := s.takeFlags h w
    if !w.op.isSpec then
      s.park h (if w.op.isFetch || !w.op.isHint || w.op = w.op.asSpec then w
        else match w.op with
          | .hint .w _ => w
          | _ => { w with issued := true })
    else s.specEnd h w (match r with
      | .gave b => b
      | _ => [])

/-- Try an operation, younger than every operation that waits: it is done, or joins the waiting ones; `false` if it trapped, and
what was to follow is gone. -/
def State.issue (s : State) (h : HartId) (w : Waiting) : Bool × State :=
  let x := s.hart (hartIx h)
  if w.op.isSpec || x.waiting.any Waiting.canTrap then (true, s.issueSpec h w)
  else match s.attempt h w with
    | (.wait w', s) =>
      let (w', s) := s.takeFlags h w'
      (true, s.park h { w' with tried := true })
    | (.trapped, s) => (false, s.endTrap h w)
    | (_, s) => (true, s.endDone h w)

/-- Try each in turn; an exception squashes the ones after it. -/
def State.issueAll (s : State) (h : HartId) : List Waiting → State
  | [] => s
  | w :: rest =>
    match s.issue h w with
    | (true, s) => s.issueAll h rest
    | (false, s) => s.squashed h rest

/-- Dispatch and try the instructions that wait for dispatch, oldest first, while there is room. -/
def State.drain (s : State) (h : HartId) : Nat → State
  | 0 => s
  | fuel + 1 =>
    let x := s.hart (hartIx h)
    match x.front with
    | [] => s
    | q :: rest =>
      if !s.mayDispatch h q.op then s
      else
        let s := s.setHart (hartIx h) { x with front := rest }
        let (w, s) := s.dispatch h q.op (x.stampOf q)
        match s.issue h w with
        | (true, s) => s.drain h fuel
        | (false, s) => s

/-- Dispatch what can be. -/
def State.advance (s : State) (h : HartId) : State := s.drain h (s.hart (hartIx h)).front.length

/-! ### HART_CTL (R202) -/

/-- A store that has retired into the store buffer. -/
def HartOp.drains : HartOp → Bool
  | .store a _ _ => !a.spec
  | .zero a => !a.spec
  | _ => false

/-- A die answers HART_CTL once every hart that it names has reached the state. -/
def State.ctlReport (s : State) (d : Nat) : State :=
  let x := s.die d
  let owed (harts : Nat) : Bool := (ones 44 harts).any fun i => (s.hart (d * 64 + i)).ctl.isSome
  let done := x.ctl.filter fun c => !owed c.2
  if done.isEmpty then s
  else
    let s := s.setDie d { x with ctl := x.ctl.filter fun c => owed c.2 }
    s.forEach done fun s c => s.sbSend d false 0x1C (c.1 :: 0 :: leBytes 6 c.2)

/-- A hart that HART_CTL stops has drained its store buffer: it is held in reset, or stopped at an instruction boundary. -/
def State.ctlHart (s : State) (h : HartId) : State :=
  let x := s.hart (hartIx h)
  match x.ctl with
  | none => s
  | some op =>
    if !x.waiting.isEmpty || x.io.isSome then s
    else
      let x := { x with ctl := none }
      let x := if op = 1 then { x with run := .held } else { x with saved := x.run, run := .stopped }
      ((s.setHart (hartIx h) x).advance (siblingOf h)).ctlReport h.die.val

/-- Try every waiting operation of a hart again, oldest first, then dispatch what can be. A walk that ended in a fault nobody met is
forgotten. -/
def State.retryHart (s : State) (h : HartId) : State :=
  let x := s.hart (hartIx h)
  let s := (s.setHart (hartIx h) { x with waiting := [] }).issueAll h x.waiting
  let x := s.hart (hartIx h)
  let s := if x.walk.any (·.fault.isSome) then s.setHart (hartIx h) { x with walk := none } else s
  (s.advance h).ctlHart h

/-- Try again for every hart of a die. -/
def State.retryDie (s : State) (d : Fin 12) : State := s.forEach (hartsOfDie d) fun s h => s.retryHart h

/-- A new operation of a hart, at an address: dispatched when there is room and nothing serialises, and then tried. -/
def State.newOpAt (s : State) (h : HartId) (op : HartOp) (pc : Word) : State :=
  let x := s.hart (hartIx h)
  let s := s.setHart (hartIx h) { x with front := x.front ++ [{ op := op, pc := pc, branch := x.branches }] }
  s.advance h

/-- A new operation at the hart's pc. -/
def State.newOp (s : State) (h : HartId) (op : HartOp) : State := s.newOpAt h op (s.hart (hartIx h)).pc

/-- An operation of a store buffer: a store or CBO.ZERO that has passed its checks (R202). -/
def Waiting.buffered (w : Waiting) : Bool := w.op.drains && !w.parts.isEmpty

/-- Stop a hart at an instruction boundary: what has not retired is squashed, to be executed again from the oldest of it; the store
buffer, and an I/O access under way, stay. -/
def State.stopAt (s : State) (h : HartId) : State :=
  let s := s.squash h
  let x := s.hart (hartIx h)
  let keep (w : Waiting) : Bool := w.buffered || (w.issued && x.io.isSome && w.op.accesses && w.parts.any fun p => p.at_.isIo)
  let gone := x.waiting.filter fun w => !keep w
  let pc := ((gone.head?.map fun w => w.stamp.pc).or (x.front.head?.map fun q => q.pc)).getD x.pc
  (s.setHart (hartIx h)
    { x with waiting := x.waiting.filter keep, walk := none, front := [], checkpoints := [], pc := pc }).squashed h gone

end Sys2Proof.Machine
end

