-- ==== Sys2Proof/Machine/DieAgent.lean ====
section
/-! DEFINITION. The compute die as a coherence agent (R138 to R142): its answers to forwards, what arrives for its miss
registers and its writeback buffer, and what an error answer does. -/

namespace Sys2Proof.Machine

/-! ### What a die holds -/

/-- The die-level state that a Data's FLAG grants: 0b11 is never sent and installs as M (R152, R174). -/
def grantState (flag : BitVec 2) : CState := if flag = 0 then .s else if flag = 1 then .e else .m

/-- The copy that a miss register holds: data that has arrived and waits for a way, or serves the accesses that do not allocate. -/
def L3Miss.copy (n : L3Miss) : Option (CState × Bytes × Bool) :=
  n.filled.map fun m => (if n.ncDirty then .m else grantState m.flag, m.data, m.poison)

/-- The die's copy of a line, its cores having been probed: from the writeback buffer, whose data is dirty (R141), from the L3, or from
a miss register. -/
def State.heldAt (s : State) (d : Fin 12) (line : Nat) : Option (CState × Bytes × Bool) :=
  let x := s.die d.val
  match x.findWb line with
  | some w => some (.m, w.data, w.poison)
  | none =>
    match x.findL3 line with
    | some (_, l) => some (l.st, l.data, l.poison)
    | none => (x.findMiss line).bind L3Miss.copy

/-- Set the state of an L3 line. -/
def State.setL3 (s : State) (d : Fin 12) (k : Nat) (l : L3Line) : State :=
  let x := s.die d.val
  s.setDie d.val { x with l3 := Table.insert x.l3 k l }

/-- The die keeps its copies of a line in a lower state: S, or E once its data is clean. A register that wanted ownership goes on to ask
for it. -/
def State.lowerTo (s : State) (d : Fin 12) (line : Nat) (st : CState) : State :=
  let x := s.die d.val
  s.setDie d.val
    { x with l3 := x.l3.map fun e => if e.2.line = line then (e.1, { e.2 with st := st }) else e
             miss := x.miss.map fun n =>
               if n.line = line && n.filled.isSome then
                 { n with filled := n.filled.map fun m => { m with flag := if st = .s then 0 else 1 }, ncDirty := false
                          wantOwn := n.wantOwn || (st = .s && isOwn n.op) }
               else n }

/-- The data that a miss register held is gone: it asks for the line again. -/
def State.reask (s : State) (d : Fin 12) (line : Nat) : State :=
  let x := s.die d.val
  match x.findMiss line with
  | some n =>
    if n.filled.isSome then
      let n := { n with filled := none, ncDirty := false, unsent := true, txid := x.freeTxid }
      (s.setDie d.val { x with miss := x.miss.map fun k => if k.line = line then n else k, nextTxid := x.freeTxid + 1 }).sendUnsent d
        line
    else s
  | none => s

/-- Take a line from a die altogether, wherever it is but the writeback buffer: dirty data is returned. -/
def State.takeLine (s : State) (d : Fin 12) (line : Nat) : State × Option (Bytes × Bool) :=
  let (s, dirty) := s.evictL3 d line
  match dirty, ((s.die d.val).findMiss line).bind L3Miss.copy with
  | some x, _ => (s.reask d line, some x)
  | none, some (.m, b, p) => (s.reask d line, some (b, p))
  | none, _ => (s.reask d line, none)

/-! ### Forwards (R141, R150, R158, R171) -/

/-- An answer that carries data. -/
def replyData (m : Msg) (op : Op) (dst : Nat) (flag : BitVec 2) (data : Bytes) (poison : Bool) : Msg :=
  { reply m op dst with flag := flag, data := data, poison := poison }

def replyFlag (m : Msg) (op : Op) (dst : Nat) (flag : BitVec 2) : Msg := { reply m op dst with flag := flag }

/-- The forwards that take a line, or its ownership, from a die. -/
def takesLine (o : Op) : Bool := o = .fwdS || o = .fwdO || o = .inv || o = .recall || o = .recallDiscard

/-- A die answers a forward for a line, with response and data messages only (R141). The reservations on the line end: those that had a
delay to ask for have had it (R171). -/
def State.dieAnswer (s : State) (d : Fin 12) (m : Msg) : State :=
  let home := m.src
  let miss (s : State) : State := s.dieSend d (replyFlag m .fwdAck home 0)
  let hit (s : State) : State := s.dieSend d (replyFlag m .fwdAck home 1)
  let s := ((s.settle d m.line).endResv d (List.finRange 22) m.line none).uncount d.val 0x05 1 m.hue m.cls
  match m.op with
  | .fwdS =>
    let s := s.probeCores d m.line false none
    (match s.heldAt d m.line with
     | some (st, b, p) =>
       let s := (s.lowerTo d m.line .s).dieSend d (replyData m .data m.req 0 b p)
       if st = .m then s.dieSend d (replyData m .fwdAckData home 1 b p) else hit s
     | none => miss s)
  | .fwdO =>
    let s := s.probeCores d m.line true none
    (match s.heldAt d m.line with
     | some (st, b, p) =>
       hit ((s.takeLine d m.line).1.dieSend d (replyData m .data m.req (if st = .m then 2 else 1) b p))
     | none => miss s)
  | .fwdSnap =>
    let s := s.probeCores d m.line false none
    (match s.heldAt d m.line with
     | some (_, b, p) => hit (s.dieSend d (replyData m .dataOnce m.req 0 b p))
     | none => miss s)
  | .fwdClean =>
    let s := s.probeCores d m.line false none
    (match s.heldAt d m.line with
     | some (.m, b, p) => (s.lowerTo d m.line .e).dieSend d (replyData m .fwdAckData home 1 b p)
     | some _ => hit s
     | none => miss s)
  | .inv =>
    let s := (s.takeLine d m.line).1
    let x := s.die d.val
    let s := s.setDie d.val
      { x with miss := x.miss.map fun n => if n.line = m.line && n.op = .upg then { n with expectData := true } else n }
    s.dieSend d (reply m .invAck home)
  | .recall =>
    let buffered := (s.die d.val).findWb m.line
    let (s, dirty) := s.takeLine d m.line
    (match buffered, dirty with
     | some w, _ => s.dieSend d (replyData m .recallAckData home 0 w.data w.poison)
     | none, some (b, p) => s.dieSend d (replyData m .recallAckData home 0 b p)
     | none, none => s.dieSend d (reply m .recallAck home))
  | .recallDiscard => ((s.takeLine d m.line).1).dieSend d (reply m .invAck home)
  | _ => s

/-- A die receives a forward: an LR reservation on the line may hold the answer back, once (R171). -/
def State.dieForward (s : State) (d : Fin 12) (m : Msg) : State :=
  let rs := if takesLine m.op then s.reserved d (List.finRange 22) m.line none else []
  if rs.isEmpty then (s.dieAnswer d m).retryDie d
  else
    let s := s.markDelay rs
    let x := s.die d.val
    s.setDie d.val { x with held := x.held ++ [m] }

/-- Answer the forwards that no reservation holds back any longer. -/
def State.releaseHeld (s : State) (d : Fin 12) : State :=
  let x := s.die d.val
  let s := s.setDie d.val { x with held := [] }
  s.forEach x.held fun s m => s.dieForward d m

/-- Try the operations of a die again, then answer the forwards whose reservation has ended with one of them. -/
def State.resume (s : State) (d : Fin 12) : State := (s.retryDie d).releaseHeld d

/-! ### Set recall (R148) -/

/-- The lines of a directory set of this package that a die holds. -/
def State.linesOfSet (s : State) (d : Fin 12) (slice set : Nat) : List Nat :=
  let x := s.die d.val
  ((x.l3.map (·.2.line)) ++ (x.miss.filter (·.filled.isSome)).map (·.line)).filter fun l =>
    lineSlice l = slice && lineSet l = set && lineHome l = s.pkgIx

/-- Write back and invalidate one line, once no reservation delays it (R171) and the writeback buffer has room (R122). -/
def State.recallLine (s : State) (d : Fin 12) (line : Nat) : State :=
  let rs := s.reserved d (List.finRange 22) line none
  if !rs.isEmpty then s.markDelay rs
  else if (s.die d.val).wbFull then s
  else
    let s := s.endResv d (List.finRange 22) line none
    let (s, dirty) := s.takeLine d line
    match dirty with
    | some (b, p) => s.writeback d line b p 0
    | none => s

/-- The set recalls of a die go on. Once no line of the set is left the die answers SetRecallAck. -/
def State.dieRecallGo (s : State) (d : Fin 12) : State :=
  s.forEach (s.die d.val).recalls fun s q =>
    let s := s.forEach (s.linesOfSet d q.1 q.2) fun s l => s.recallLine d l
    if !(s.linesOfSet d q.1 q.2).isEmpty then s
    else
      let x := s.die d.val
      let s := s.setDie d.val { x with recalls := x.recalls.erase q }
      let y := s.home q.1
      s.setHome q.1
        { y with recov := y.recov.map fun r => if r.set = q.2 then { r with answered := r.answered ++ [d.val] } else r }

/-- A flush of the L3 goes on as the writeback buffer has room (R122). -/
def State.dieEvict (s : State) (d : Fin 12) : State :=
  let s := s.forEach (s.die d.val).evicting fun s l => s.recallLine d l
  let x := s.die d.val
  s.setDie d.val { x with evicting := x.evicting.filter fun l => (x.findL3 l).isSome }

/-- SetRecall at a die: write back every dirty line of the set, invalidate every line of it, and answer. -/
def State.dieSetRecall (s : State) (d : Fin 12) (slice set : Nat) : State :=
  let x := s.die d.val
  ((s.setDie d.val { x with recalls := x.recalls.filter (· ≠ (slice, set)) ++ [(slice, set)] }).dieRecallGo d).resume d

/-! ### Fills -/

/-- Put arrived data into the L3: over the die's own shared copy, or into a new way (R118). -/
def State.installL3 (s : State) (d : Fin 12) (line : Nat) (st : CState) (data : Bytes) (poison hint : Bool) (hue : BitVec 12)
    (spec : Bool := false) : Bool × State :=
  match (s.die d.val).findL3 line with
  | some (k, l) => (true, s.setL3 d k { l with st := st, data := data, poison := poison, err := .clean })
  | none => s.fillL3 d line st data poison hint hue spec

/-- Remove a miss register. -/
def State.dropMiss (s : State) (d : Fin 12) (line : Nat) : State :=
  let x := s.die d.val
  s.setDie d.val { x with miss := x.miss.filter (·.line ≠ line) }

/-- A register's fill is complete: it frees, or goes on to the ownership upgrade that merged into it (R120), and the
accesses that wait are tried again. -/
def State.fillDone (s : State) (d : Fin 12) (n : L3Miss) (st : CState) : State :=
  if n.wantOwn && st = .s then
    let x := s.die d.val
    let n' : L3Miss :=
      { n with op := .upg, wantOwn := false, filled := none, expectData := false, txid := x.freeTxid, nc := false,
               tmo := s.reqTmo d.val }
    let s := s.setDie d.val
      { x with miss := x.miss.map fun k => if k.line = n.line then n' else k, nextTxid := x.freeTxid + 1 }
    (s.sendMiss d n' none).resume d
  else ((s.dropMiss d n.line).freeMiss d n.line true).resume d

/-- The data is in the register, for as long as it must be. -/
def State.keepFill (s : State) (d : Fin 12) (line : Nat) (m : Msg) : State :=
  let x := s.die d.val
  s.setDie d.val { x with miss := x.miss.map fun k => if k.line = line then { k with filled := some m } else k }

/-- Accesses that do not allocate are served from the register; data that they leave dirty is written back, once the writeback buffer has
room (R81, R122). -/
def State.fillNc (s : State) (d : Fin 12) (n : L3Miss) (m : Msg) : State :=
  let s := (s.keepFill d n.line m).resume d
  match (s.die d.val).findMiss n.line with
  | none => s
  | some k =>
    match k.copy with
    | some (.m, b, p) =>
      if (s.die d.val).wbFull then s
      else (((s.dropMiss d n.line).freeMiss d n.line true).writeback d n.line b p n.hue).resume d
    | _ => ((s.dropMiss d n.line).freeMiss d n.line true).resume d

/-- Complete a fill with the data that has arrived, or wait for an L3 way. -/
def State.tryFill (s : State) (d : Fin 12) (n : L3Miss) (m : Msg) : State :=
  let m := { m with poison := m.poison || m.flag = 3 }
  if n.nc && !n.wantOwn then s.fillNc d n m
  else match s.installL3 d n.line (if n.ncDirty then .m else grantState m.flag) m.data m.poison n.hint n.hue n.spec with
    | (true, s) => s.fillDone d n (if n.ncDirty then .m else grantState m.flag)
    | (false, s) => s.keepFill d n.line m

/-- A busy way became free: a fill that waited tries again (R118). -/
def State.dieWayFreed (s : State) (d : Fin 12) (line : Nat) : State :=
  match (s.die d.val).findMiss line with
  | some n =>
    (match n.filled with
     | some m => s.tryFill d n m
     | none => s)
  | none => s

/-- What a reservation, or a full writeback buffer, held back goes on: set recalls, a flush, fills and operations. -/
def State.dieStir (s : State) (d : Fin 12) : State :=
  let s := (s.dieRecallGo d).dieEvict d
  let waiting := ((s.die d.val).miss.filter (·.filled.isSome)).map (·.line)
  (s.forEach waiting fun s l => s.dieWayFreed d l).resume d

/-! ### Answers of a home -/

/-- A message that answers nothing is dropped and logged (R174). -/
def State.dropMsg (s : State) (unit : Nat) (src : ErrSource) (m : Msg) : State :=
  s.logE .partner src .unexpected unit (m.line * 64) m.hue

/-- The register whose request, sent and not answered, a message answers (R174, R190). -/
def State.missFor (s : State) (d : Fin 12) (m : Msg) : Option L3Miss :=
  ((s.die d.val).findMiss m.line).filter fun n => n.txid = m.txid && !n.unsent && n.filled.isNone

/-- The late answer of a transaction whose timer has expired: dropped and logged, and its reservation is free (R192). -/
def State.lateMiss (s : State) (d : Fin 12) (m : Msg) : State :=
  (((s.dropMiss d m.line).freeMiss d m.line).dropMsg (lineSlice m.line) .home m).resume d

/-- The events of R484 that the source of arrived data gives: another die's cache, HBM, CXL memory, or a peer. A peer's data may come from
any of its caches or memories, which the message does not tell: a free choice (log entry 108). -/
def State.sources (s : State) (m : Msg) : List Nat × State :=
  let memory := if m.line * 64 % 2 ^ 50 < 0x1880000000 then 0x11 else 0x12
  if m.src < 12 then ([0x10], s)
  else if 14 ≤ m.src && m.src ≤ 16 then
    let (n, s) := s.takeNat
    ([0x13, if m.flag = 2 || n % 2 = 1 then 0x10 else memory], s)
  else ([memory], s)

/-- Each data access that the register serves counts the source of its data; a sample notes that of its first access (R485). -/
def State.countSources (s : State) (d : Fin 12) (m : Msg) : State :=
  let (codes, s) := s.sources m
  s.forEach (hartsOfDie d) fun s h =>
    let x := s.hart (hartIx h)
    let mine (w : Waiting) : Bool := w.op.accesses && w.regs.contains m.line
    if !x.waiting.any mine then s
    else
      let y := (x.waiting.filter mine).foldl (fun x w => codes.foldl (fun x c => x.event c 1 w.stamp) x) x
      let note (w : Waiting) : Waiting :=
        if mine w && w.lines.headD m.line = m.line then { w with flags := codes.foldl (fun f c => f ||| eventFlag c) w.flags } else w
      s.setHart (hartIx h) { y with waiting := y.waiting.map note }

/-- Data arrives at a die (R152, R157): CompAck goes at once. -/
def State.dieData (s : State) (d : Fin 12) (m : Msg) : State :=
  match s.missFor d m with
  | none => s.dropMsg (lineSlice m.line) .home m
  | some n =>
    if isCmo n.op || n.op = .claimZ then s.dropMsg (lineSlice m.line) .home m
    else
      let s := s.dieSend d { reply m .compAck (s.homeAgent m.line) with src := d.val }
      if n.late then s.lateMiss d m
      else
        let s := if m.flag = 3 then s.logE .partner .home .unexpected (lineSlice m.line) (m.line * 64) m.hue else s
        (s.countSources d m).tryFill d n m

/-- Grant arrives at a die: ownership without data (R150). CBO.ZERO's line becomes zeros. -/
def State.dieGrant (s : State) (d : Fin 12) (m : Msg) : State :=
  match s.missFor d m with
  | none => s.dropMsg (lineSlice m.line) .home m
  | some n =>
    if !(n.op = .upg || n.op = .claimZ) then s.dropMsg (lineSlice m.line) .home m
    else
      let s := s.dieSend d { reply m .compAck (s.homeAgent m.line) with src := d.val }
      if n.late then s.lateMiss d m
      else if n.op = .claimZ then
        s.tryFill d n { m with flag := 2, data := zeroLine, poison := false }
      else match (s.die d.val).findL3 m.line with
        | some (k, l) => (s.setL3 d k { l with st := .e }).fillDone d n .e
        | none => ((s.dropMiss d m.line).freeMiss d m.line).resume d

/-- Free the writeback buffer entry of a line. A request of the line that waited for it is sent (R138). -/
def State.dropWb (s : State) (d : Fin 12) (line : Nat) : State :=
  let x := s.die d.val
  (s.setDie d.val { x with wb := x.wb.filter (·.line ≠ line) }).sendUnsent d line

/-- WbAck (R138). -/
def State.dieWbAck (s : State) (d : Fin 12) (m : Msg) : State :=
  match (s.die d.val).findWb m.line with
  | some w =>
    if w.op = .wbData && w.txid = m.txid then
      let s := if w.late then s.dropMsg (lineSlice m.line) .home m else s
      (s.dropWb d m.line).dieStir d
    else s.dropMsg (lineSlice m.line) .home m
  | none => s.dropMsg (lineSlice m.line) .home m

/-- The CMOs of a die that wait on a line retire. -/
def State.endCbos (s : State) (d : Fin 12) (line : Nat) : State :=
  s.forEach (hartsOfDie d) fun s h =>
    let x := s.hart (hartIx h)
    let mine (w : Waiting) : Bool := match w.op with
      | .cbo _ _ => w.issued && w.lines.contains line
      | _ => false
    match x.waiting.find? mine with
    | none => s
    | some w => (s.setHart (hartIx h) (retireStore { x with waiting := x.waiting.filter (!mine ·) } w.stamp)).endSample h w 1

/-- CmoDone (R142). One that comes after another answer frees the data that the first left in the buffer (R191). -/
def State.dieCmoDone (s : State) (d : Fin 12) (m : Msg) : State :=
  match s.missFor d m with
  | some n =>
    if isCmo n.op then
      let s := if n.late then s.dropMsg (lineSlice m.line) .home m else s
      ((((s.dropMiss d m.line).freeMiss d m.line).dropWb d m.line).endCbos d m.line).dieStir d
    else s.dropMsg (lineSlice m.line) .home m
  | none =>
    let s := s.dropMsg (lineSlice m.line) .home m
    if (s.die d.val).wb.any fun w => w.line = m.line && isCmo w.op && w.txid = m.txid then (s.dropWb d m.line).dieStir d else s

/-! ### Errors (R191, R192, R504) -/

def flagReason (flag : BitVec 2) : ErrReason :=
  if flag = 0 then .timeout else if flag = 1 then .unsupported else if flag = 2 then .fenced else .transport

/-- An error that no retiring instruction consumes (R504). -/
def State.reportLoss (s : State) (src : ErrSource) (unit : Nat) (line : Nat) (hue : BitVec 12) (flag : BitVec 2) : State :=
  s.logE .uncorrected src (flagReason flag) unit (line * 64) hue

/-- The operations of a hart that wait on a line meet an error: loads, fetches and atomics raise exception 19 and squash the operations
younger than them, stores are discarded and reported, hints are dropped. One that is speculative raises nothing: it delivers an
unpredictable value (R85), and one that may still be squashed asks again when it no longer is. -/
def State.failOps (s : State) (h : HartId) (line : Nat) (flag : BitVec 2) : List Waiting → State
  | [] => s
  | w :: rest =>
    if !w.regs.contains line then (s.park h w).failOps h line flag rest
    else if w.op.isSpec then
      let (b, s) := s.takeBytes 8
      (s.specEnd h w (if w.op.isLoad then b else [])).failOps h line flag rest
    else if (s.hart (hartIx h)).waiting.any Waiting.canTrap then (s.park h w).failOps h line flag rest
    else
      let trap (va : Word) (size : Nat) : State :=
        ((s.consume h w false va (line * 64) size).2.endTrap h w).squashed h rest
      let lost : State :=
        let s := s.reportLoss .l3 h.die.val line w.stamp.hue flag
        ((s.setHart (hartIx h) (retireStore (s.hart (hartIx h)) w.stamp)).endDone h w).failOps h line flag rest
      match w.op with
      | .load a _ _ _ => trap a.va a.size
      | .lr a _ => trap a.va a.size
      | .amo a _ _ _ _ => trap a.va a.size
      | .sc a _ _ => trap a.va a.size
      | .fetch va _ => trap va 0
      | .store _ _ _ => lost
      | .zero _ => lost
      | _ => ((s.dropHint h w.stamp).2.endDone h w).failOps h line flag rest

/-- Fail every operation and walk of a die that waits on a line. -/
def State.failLine (s : State) (d : Fin 12) (line : Nat) (flag : BitVec 2) : State :=
  s.forEach (hartsOfDie d) fun s h =>
    let x := s.hart (hartIx h)
    let s := if x.walk.any fun w => w.asked = some line then
        s.setHart (hartIx h) { x with walk := x.walk.map fun w => { w with fillError := true } }
      else s
    let x := s.hart (hartIx h)
    if x.waiting.any (·.regs.contains line) then
      (s.setHart (hartIx h) { x with waiting := [] }).failOps h line flag x.waiting
    else s

/-- An Error answers the request or CMO of a register. TIMEOUT keeps the reservation (R192). The dirty data of a CMO stays in the
writeback buffer until the home answers or is fenced (R191). -/
def State.missError (s : State) (d : Fin 12) (n : L3Miss) (flag : BitVec 2) : State :=
  let line := n.line
  let freeWb (s : State) : State := if isCmo n.op then s.dropWb d line else s
  if n.late then
    (if flag = 0 then s
     else
       let s := if flag = 2 then s else s.logE .partner .home .unexpected (lineSlice line) (line * 64) n.hue
       (freeWb ((s.dropMiss d line).freeMiss d line)).dieStir d)
  else
    let late (s : State) : State :=
      if flag = 0 then
        let x := s.die d.val
        s.setDie d.val { x with miss := x.miss.map fun k => if k.line = line then { k with late := true, failed := true } else k }
      else s.dropMiss d line
    if isCmo n.op then
      let s := (late s).reportLoss .l3 d.val line n.hue flag
      let s := if flag = 2 then freeWb s else s
      ((s.endCbos d line).freeMiss d line).dieStir d
    else (((late s).failLine d line flag).freeMiss d line).resume d

/-- An Error answers a writeback, or again a CMO whose data is still in the buffer. -/
def State.wbError (s : State) (d : Fin 12) (w : WbEntry) (flag : BitVec 2) : State :=
  if w.late || isCmo w.op then
    (if flag = 0 then s
     else
       let s := if flag = 2 then s else s.logE .partner .home .unexpected (lineSlice w.line) (w.line * 64) w.hue
       (s.dropWb d w.line).dieStir d)
  else
    let s := s.reportLoss .l3 d.val w.line w.hue flag
    if flag = 2 then (s.dropWb d w.line).dieStir d
    else
      let x := s.die d.val
      s.setDie d.val { x with wb := x.wb.map fun k => if k.line = w.line then { k with late := true } else k }

/-- An Error message answers a die's request, CMO or writeback: the one whose TXID it carries. -/
def State.dieError (s : State) (d : Fin 12) (m : Msg) : State :=
  match s.missFor d m with
  | some n => s.missError d n m.flag
  | none =>
    match (s.die d.val).findWb m.line with
    | some w => if w.txid = m.txid then s.wbError d w m.flag else s.dropMsg (lineSlice m.line) .home m
    | none => s.dropMsg (lineSlice m.line) .home m

/-- A timer of the die for a line has expired: that of the request which its register sent, or else of its writeback. -/
def State.dieExpire (s : State) (d : Fin 12) (line : Nat) : State :=
  let x := s.die d.val
  match (x.findMiss line).filter fun n => !n.late && !n.unsent && n.filled.isNone with
  | some n => s.missError d n 0
  | none =>
    match (x.findWb line).filter fun w => !w.late && w.op = .wbData with
    | some w => s.wbError d w 0
    | none => s

end Sys2Proof.Machine
end

