-- ==== Sys2Proof/Machine/Home.lean ====
section
/-! DEFINITION. The home slices (chapter 06): acceptance, the transition tables of R155 and R167, victims, writebacks, set
recovery, and what a home does for an agent that does not answer (R173, R526). -/

namespace Sys2Proof.Machine

/-! ### Agents, holders, requesters -/

/-- The HOLDERS bit of a requester (R147): dies 0 to 11, cascade links as peers 12 to 14, the I/O agent for its CXL.cache
devices 15. -/
def holderBit (agent : Nat) : Nat := if agent < 12 then agent else if agent = 12 then 15 else agent - 2

/-- The agent that a HOLDERS bit names. -/
def holderAgent (bit : Nat) : Nat := if bit < 12 then bit else if bit = 15 then 12 else bit + 2

def holderMask (agent : Nat) : BitVec 16 := BitVec.ofNat 16 (2 ^ holderBit agent)

/-- The agents that HOLDERS names. -/
def holderList (h : BitVec 16) : List Nat := (ones 16 h.toNat).map holderAgent

/-- An agent that will never answer: a fenced die (R505), or a cascade member that was lost (R477). -/
def State.agentLost (s : State) (a : Nat) : Bool :=
  if a < 12 then s.dieFenced a
  else if 14 ≤ a && a ≤ 16 then s.mgmt.casc.lost.getLsbD ((s.pkgIx + (a - 13)) % 4)
  else false

/-- The requests whose requester may hold the line: those of R155. The I/O requests of R167 hold nothing. -/
def cachedReq (o : Op) : Bool :=
  o = .rdS || o = .rdO || o = .upg || o = .claimZ || o = .cmoClean || o = .cmoFlush || o = .cmoInval

def ioReq (o : Op) : Bool := o = .rdOnce || o = .wrFull || o = .wrPart || o = .atomIO

/-- The opcodes that R525 gives a requester. -/
def mayRequest (agent : Nat) (o : Op) : Bool :=
  if agent < 12 then cachedReq o || o = .wbData
  else if agent = 12 then
    ioReq o || o = .rdNS || o = .wrNS || o = .rdS || o = .rdO || o = .upg || o = .cmoFlush || o = .wbData
  else if agent = 13 || agent = 17 then o = .rdOnce || o = .wrFull || o = .wrPart
  else if agent ≤ 16 then cachedReq o || ioReq o || o = .rdNS || o = .wrNS || o = .wbData
  else false

/-! ### The directory -/

/-- The way, set × 12 + way, that holds a line's entry. -/
def HomeState.find (x : HomeState) (line : Nat) : Option (Nat × DirEntry) := x.dir.find? fun e => e.2.line = line

def HomeState.txn (x : HomeState) (line : Nat) : Option Txn := x.txns.find? fun t => t.line = line

/-- A line is busy while a transaction, or a valid writeback, is open for it (R154, R159). -/
def HomeState.busy (x : HomeState) (line : Nat) : Bool :=
  (x.txn line).isSome || x.wbs.any fun w => w.phase = .writing && w.msg.line = line

def State.setTxn (s : State) (k : Nat) (t : Txn) : State :=
  let x := s.home k
  s.setHome k { x with txns := x.txns.map fun u => if u.line = t.line then t else u }

/-- A way of the set is taken by an entry, or reserved for a line. -/
def HomeState.taken (x : HomeState) (key : Nat) : Bool :=
  (Table.find x.dir key).isSome || x.txns.any fun t => t.way = some key

/-- choose_dir_victim of R161 for a set with no Free way: the way, and the pointer after it. -/
def HomeState.victim (x : HomeState) (set : Nat) : Option (Nat × Nat) :=
  let ways := (List.range 12).filter fun w => match Table.find x.dir (set * 12 + w) with
    | some e => !x.busy e.line
    | none => false
  let shared := ways.filter fun w => (Table.find x.dir (set * 12 + w)).any fun e => e.st = .shared
  let count (w : Nat) : Nat := ((Table.find x.dir (set * 12 + w)).map fun e => popCount 16 e.holders.toNat).getD 0
  let least := shared.foldl (fun m w => min m (count w)) 16
  let c := if shared.isEmpty then ways else shared.filter fun w => count w = least
  let rr := Table.get 0 x.rr set
  match (c.find? fun w => rr ≤ w) with
  | some w => some (w, (w + 1) % 12)
  | none => c.head?.map fun w => (w, (w + 1) % 12)

/-! ### Forwards and answers -/

/-- Send a forward of a transaction. -/
def State.sendFwd (s : State) (k : Nat) (m : Msg) (agent : Nat) (op : Op) : State :=
  let s := s.uncount (32 + k) 0x04 1 m.hue m.cls
  s.send { op := op, line := m.line, src := 32 + k, dst := agent, req := m.req, txid := m.txid, hue := m.hue, cls := m.cls }

/-- Send the requester an answer of the home. -/
def State.homeReply (s : State) (k : Nat) (m : Msg) (op : Op) (flag : BitVec 2) (d : Option (Bytes × Bool)) : State :=
  s.send { op := op, line := m.line, src := 32 + k, dst := m.req, req := m.req, txid := m.txid, hue := m.hue, cls := m.cls,
           flag := flag, data := (d.map (·.1)).getD [], poison := (d.map (·.2)).getD false }

/-- Ask the memory controller for a line, or to write it. -/
def State.memReq (s : State) (r : MemReq) : State := s.upMem fun x => { x with reqs := x.reqs ++ [r] }

/-- What the transaction becomes when an agent that owes an answer never gives it (R173): `stale` is the data of a stale
writeback held for that agent. -/
def Txn.expire (t : Txn) (agent : Nat) (stale : Option (Bytes × Bool)) : Txn :=
  match t.acks.find? fun a => a.agent = agent with
  | none => t
  | some a =>
    let t := { t with acks := t.acks.filter fun b => b.agent ≠ agent }
    let data := some (stale.getD (zeroLine, true))
    let me := holderMask t.req.req
    match a.op with
    | .fwdS => { t with data := data, plan := [.write, .reply .data 0, .compAck], after := .shared me }
    | .fwdO =>
      (match stale with
       | some _ => { t with data := data, plan := [.reply .data 2, .compAck] }
       | none => { t with data := data, plan := [.write, .reply .data 1, .compAck] })
    | .fwdSnap => { t with data := data, plan := [.write, .reply .dataOnce 0], after := .free }
    | .fwdClean => { t with data := data, plan := [.write, .reply .cmoDone 0], after := .free }
    | .recall => { t with data := data }
    | _ => t

/-- R156: the owner no longer holds the line. -/
def Txn.missed (t : Txn) (op : Op) : Txn :=
  let me := holderMask t.req.req
  match op with
  | .fwdS => { t with plan := [.issue [] true, .reply .data 0, .compAck], after := .shared me }
  | .fwdO => { t with plan := [.issue [] true, .reply .data 1, .compAck] }
  | .fwdSnap => { t with plan := [.issue [] true, .reply .dataOnce 0], after := .free }
  | .fwdClean => { t with plan := [.reply .cmoDone 0], after := .free }
  | _ => t

/-- The data of a stale writeback held for an agent's answer (R159 case 2). -/
def HomeState.staleWb (x : HomeState) (line agent : Nat) : Option (Bytes × Bool) :=
  (x.wbs.find? fun w => w.phase = .waitAnswer && w.msg.line = line && w.msg.req = agent).map fun w =>
    (w.msg.data, w.msg.poison)

/-! ### The plan of a request (R155, R167) -/

/-- The entry as a row reads it: nothing, Shared H, or Owned by another or by the requester itself. -/
inductive EntryView where
  | free
  | shared (h : BitVec 16)
  | owned (o : Nat)
  | mine
deriving DecidableEq, Repr

def viewOf (e : Option DirEntry) (m : Msg) : EntryView :=
  match e with
  | none => .free
  | some e =>
    match e.st with
    | .shared => .shared e.holders
    | .owned => if cachedReq m.op && e.holders = holderMask m.req then .mine else .owned ((holderList e.holders).headD 0)

/-- What the home does for a request, and the entry afterwards (R155, R160, R167). -/
def homePlan (v : EntryView) (m : Msg) : List HAct × After :=
  let me := holderMask m.req
  let own : After := .owned (holderBit m.req)
  let invs (h : BitVec 16) : List (Nat × Op) :=
    ((holderList h).filter fun a => !(cachedReq m.op && a = m.req)).map fun a => (a, Op.inv)
  match m.op, v with
  | .rdS, .free => ([.way, .issue [] true, .reply .data 0, .compAck], .shared me)
  | .rdS, .shared h => ([.issue [] true, .reply .data 0, .compAck], .shared (h ||| me))
  | .rdS, .owned o => ([.issue [(o, .fwdS)] false, .write, .compAck], .shared (me ||| holderMask o))
  | .rdS, .mine => ([.issue [] true, .reply .data 0, .compAck], .shared me)
  | .rdO, .free => ([.way, .issue [] true, .reply .data 1, .compAck], own)
  | .rdO, .shared h => ([.issue (invs h) true, .reply .data 1, .compAck], own)
  | .rdO, .owned o => ([.issue [(o, .fwdO)] false, .compAck], own)
  | .rdO, .mine => ([.issue [] true, .reply .data 1, .compAck], own)
  | .upg, .free => ([.way, .issue [] true, .reply .data 1, .compAck], own)
  | .upg, .shared h =>
    if h &&& me ≠ 0 then ([.issue (invs h) false, .reply .grant 0, .compAck], own)
    else ([.issue (invs h) true, .reply .data 1, .compAck], own)
  | .upg, .owned o => ([.issue [(o, .fwdO)] false, .compAck], own)
  | .upg, .mine => ([.issue [] true, .reply .data 1, .compAck], own)
  | .claimZ, .free => ([.way, .reply .grant 0, .compAck], own)
  | .claimZ, .shared h => ([.issue (invs h) false, .reply .grant 0, .compAck], own)
  | .claimZ, .owned o => ([.issue [(o, .recallDiscard)] false, .reply .grant 0, .compAck], own)
  | .claimZ, .mine => ([.reply .grant 0, .compAck], own)
  | .cmoClean, .free => ([.reply .cmoDone 0], .unchanged)
  | .cmoClean, .shared _ => ([.reply .cmoDone 0], .unchanged)
  | .cmoClean, .owned o => ([.issue [(o, .fwdClean)] false, .write, .reply .cmoDone 0], .unchanged)
  | .cmoClean, .mine => ([.write, .reply .cmoDone 0], .unchanged)
  | .cmoFlush, .free => ([.reply .cmoDone 0], .unchanged)
  | .cmoFlush, .shared h => ([.issue (invs h) false, .reply .cmoDone 0], .free)
  | .cmoFlush, .owned o => ([.issue [(o, .recall)] false, .write, .reply .cmoDone 0], .free)
  | .cmoFlush, .mine => ([.write, .reply .cmoDone 0], .free)
  | .cmoInval, .free => ([.reply .cmoDone 0], .unchanged)
  | .cmoInval, .shared h => ([.issue (invs h) false, .reply .cmoDone 0], .free)
  | .cmoInval, .owned o => ([.issue [(o, .recallDiscard)] false, .reply .cmoDone 0], .free)
  | .cmoInval, .mine => ([.reply .cmoDone 0], .free)
  | .rdOnce, .owned o => ([.issue [(o, .fwdSnap)] false], .unchanged)
  | .rdOnce, _ => ([.issue [] true, .reply .dataOnce 0], .unchanged)
  | .wrFull, .shared h => ([.issue (invs h) false, .write, .reply .wrDone 0], .free)
  | .wrFull, .owned o => ([.issue [(o, .recallDiscard)] false, .write, .reply .wrDone 0], .free)
  | .wrFull, _ => ([.write, .reply .wrDone 0], .free)
  | .wrPart, .shared h => ([.issue (invs h) false, .readIfNone, .merge, .write, .reply .wrDone 0], .free)
  | .wrPart, .owned o => ([.issue [(o, .recall)] false, .readIfNone, .merge, .write, .reply .wrDone 0], .free)
  | .wrPart, _ => ([.readIfNone, .merge, .write, .reply .wrDone 0], .free)
  | .atomIO, .shared h => ([.issue (invs h) false, .readIfNone, .merge, .write, .reply .dataOnce 0], .free)
  | .atomIO, .owned o => ([.issue [(o, .recall)] false, .readIfNone, .merge, .write, .reply .dataOnce 0], .free)
  | .atomIO, _ => ([.readIfNone, .merge, .write, .reply .dataOnce 0], .free)
  | _, _ => ([], .unchanged)

/-- Data that the request itself brings into the transaction: a whole-line write, or a CMO's dirty data when the entry
names the requester as owner (R160). -/
def carried (v : EntryView) (m : Msg) : Option (Bytes × Bool) :=
  if m.op = .wrFull then some (m.data, m.poison)
  else if (m.op = .cmoClean || m.op = .cmoFlush) && v = .mine && !m.data.isEmpty then some (m.data, m.poison)
  else none

/-- SIZE in bytes (R181). -/
def sizeBytes (sz : BitVec 2) : Nat := if sz = 0 then 4 else if sz = 1 then 8 else 16

/-- The byte offset that MASK's lowest set bit gives. -/
def maskOffset (mask : Word) : Nat := ((List.range 64).find? fun i => bit mask i).getD 0

/-- Where AtomIO's data lane names the byte at which its operand lies in the line: DESIGN CHOICE, log entry 31. -/
def atomOffset : Nat := 63

/-- Merge a partial write, or perform an atomic operation (R167, R355): the line after, and the line before. The operands of AtomIO stand
at the start of its data lane, the second of CAS after the first: DESIGN CHOICE, log entry 31. -/
def mergeReq (m : Msg) (old : Bytes × Bool) : Bytes × Bool :=
  if m.op = .wrPart then (mergeMask old.1 m.data m.mask, old.2 || m.poison)
  else
    let n := sizeBytes m.size
    let off := (m.data.getD atomOffset 0).toNat
    let a := leAt old.1 off n
    let x := leAt m.data 0 n
    let y := leAt m.data n n
    let new := if m.atomop = 1 then (a + x) % 2 ^ (8 * n) else if m.atomop = 2 then x else if a = x then y else a
    (splice old.1 off (leBytes n new), old.2 || m.poison)

/-! ### Running a transaction -/

/-- Obtain a way for the line's entry (R161 to R163). A victim's recall is a transaction of its own. -/
def State.tryWay (s : State) (k : Nat) (t : Txn) : State :=
  let x := s.home k
  let set := lineSet t.line
  match x.find t.line with
  | some (key, _) => s.setTxn k { t with way := some key, waitWay := false }
  | none =>
    match (List.range 12).find? fun w => !x.taken (set * 12 + w) with
    | some w => s.setTxn k { t with way := some (set * 12 + w), waitWay := false }
    | none =>
      match x.victim set with
      | none => s.setTxn k { t with waitWay := true }
      | some (w, rr) =>
        match Table.find x.dir (set * 12 + w) with
        | none => s.setTxn k { t with waitWay := true }
        | some e =>
          let op := if e.st = .owned then Op.recall else Op.inv
          let v : Txn :=
            { line := e.line, req := { t.req with line := e.line }, after := .free, parent := some t.line,
              plan := [.issue ((holderList e.holders).map fun a => (a, op)) false, .write] }
          let s := s.uncount (32 + k) 0x07 1 t.req.hue t.req.cls
          let x := s.home k
          (s.setHome k { x with txns := x.txns ++ [v], rr := Table.put 0 x.rr set rr }).setTxn k { t with waitWay := true }

/-- The lines whose transactions wait for a directory way with no victim on its way to them, in the order of acceptance (R163). -/
def HomeState.wayWaiters (x : HomeState) : List Nat :=
  let waits (m : Msg) : Option Nat :=
    (x.txns.find? fun t => t.req = m && t.waitWay && t.parent.isNone && !x.txns.any fun v => v.parent = some t.line).map (·.line)
  x.accepted.filterMap waits

/-- The victims that a line's transaction recalls. -/
def HomeState.victimsOf (x : HomeState) (line : Nat) : List Nat := (x.txns.filter fun u => u.parent = some line).map (·.line)

/-- A transaction that waits for a way chooses again (R163). -/
def State.tryAgain (s : State) (k line : Nat) : State :=
  match (s.home k).txn line with
  | some t => if t.waitWay && ((s.home k).victimsOf line).isEmpty then s.tryWay k t else s
  | none => s

/-- The entry that a finished transaction leaves. -/
def HomeState.applyAfter (x : HomeState) (t : Txn) : HomeState :=
  let key := match x.find t.line with
    | some (k, _) => some k
    | none => t.way
  match key, t.after with
  | some k, .free => { x with dir := Table.erase x.dir k }
  | some k, .shared h =>
    if h = 0 then { x with dir := Table.erase x.dir k }
    else { x with dir := Table.insert x.dir k { line := t.line, st := .shared, holders := h } }
  | some k, .owned b =>
    { x with dir := Table.insert x.dir k { line := t.line, st := .owned, holders := BitVec.ofNat 16 (2 ^ b) } }
  | _, _ => x

/-- A WbData for a line that is not busy (R159 cases 1 and 4), or that must wait (cases 2 and 3). -/
def State.wbBegin (s : State) (k : Nat) (m : Msg) : State :=
  let x := s.home k
  let owner := match x.find m.line with
    | some (_, e) => e.st = .owned && e.holders = holderMask m.req
    | none => false
  let ack (s : State) : State := (s.homeReply k m .wbAck 0 none).uncount (32 + k) 0x06 1 m.hue m.cls
  let recovering := x.recov.any fun r => r.set = lineSet m.line
  match x.txn m.line with
  | some t =>
    if t.acks.any fun a => a.agent = m.req then
      s.setHome k { x with wbs := x.wbs ++ [{ msg := m, phase := .waitAnswer }] }
    else if owner then s.setHome k { x with wbs := x.wbs ++ [{ msg := m, phase := .waitLine }] }
    else ack s
  | none =>
    if x.busy m.line then
      (if owner then s.setHome k { x with wbs := x.wbs ++ [{ msg := m, phase := .waitLine }] } else ack s)
    else if owner || recovering then
      (s.setHome k { x with wbs := x.wbs ++ [{ msg := m, phase := .writing }] }).memReq
        { client := .home (Fin.ofNat 32 k), line := m.line, write := true, data := m.data, poison := m.poison, hue := m.hue,
          cls := m.cls }
    else ack s

/-- Handle afresh the writebacks that waited for a line (R159 case 3). -/
def State.wbAgain (s : State) (k line : Nat) : State :=
  let x := s.home k
  let mine := x.wbs.filter fun w => w.phase = .waitLine && w.msg.line = line
  (s.setHome k { x with wbs := x.wbs.filter fun w => !(w.phase = .waitLine && w.msg.line = line) }).forEach mine
    fun s w => s.wbBegin k w.msg

/-- Open a transaction's actions as far as they go without an answer; `fuel` bounds the actions. -/
def State.homeRun (s : State) (k line : Nat) : Nat → State
  | 0 => s
  | fuel + 1 =>
    match (s.home k).txn line with
    | none => s
    | some t =>
      if !t.acks.isEmpty || t.rd || t.wr || t.waitWay || (t.compWait && !t.gotComp) then s
      else match t.plan with
        | [] =>
          let x := s.home k
          let s := s.setHome k
            { x.applyAfter t with txns := x.txns.filter fun u => u.line ≠ line
                                  accepted := if t.parent.isNone && !t.sweep then x.accepted.erase t.req else x.accepted }
          let s := match t.parent with
            | some p =>
              (match (s.home k).txn p with
               | some q =>
                 let q := { q with way := (x.find line).map Prod.fst, waitWay := false }
                 (s.setTxn k q).homeRun k p fuel
               | none => s)
            | none => s
          let s := s.forEach (((s.home k).wayWaiters.filter fun l => lineSet l = lineSet line)) fun s l =>
            let s := s.tryAgain k l
            (s.forEach ((s.home k).victimsOf l) fun s v => s.homeRun k v fuel).homeRun k l fuel
          s.wbAgain k line
        | a :: rest =>
          let t := { t with plan := rest, compWait := false }
          match a with
          | .way =>
            let s := (s.setTxn k t).tryWay k t
            -- a victim recalled for the way starts its own forwards
            (s.forEach ((s.home k).victimsOf line) fun s v => s.homeRun k v fuel).homeRun k line fuel
          | .issue fwds read =>
            let acks := fwds.map fun f => ({ agent := f.1, op := f.2, tmo := s.fwdTmo } : FwdWait)
            let s := s.forEach fwds fun s f => s.sendFwd k { t.req with line := line } f.1 f.2
            let t := { t with acks := acks, rd := read }
            let t := (fwds.filter fun f => s.agentLost f.1).foldl
              (fun t f => t.expire f.1 ((s.home k).staleWb line f.1)) t
            let s := if read then
                s.memReq { client := .home (Fin.ofNat 32 k), line := line, write := false, hue := t.req.hue,
                           cls := t.req.cls }
              else s
            (s.setTxn k t).homeRun k line fuel
          | .readIfNone =>
            if t.data.isSome then (s.setTxn k t).homeRun k line fuel
            else
              (s.memReq { client := .home (Fin.ofNat 32 k), line := line, write := false, hue := t.req.hue,
                          cls := t.req.cls }).setTxn k { t with rd := true }
          | .merge =>
            let old := t.data.getD (zeroLine, false)
            (s.setTxn k { t with old := some old, data := some (mergeReq t.req old) }).homeRun k line fuel
          | .write =>
            (match t.data with
             | none => (s.setTxn k t).homeRun k line fuel
             | some (b, p) =>
               (s.memReq { client := .home (Fin.ofNat 32 k), line := line, write := true, data := b, poison := p,
                           hue := t.req.hue, cls := t.req.cls }).setTxn k { t with wr := true })
          | .reply op flag =>
            let d := if op = .data || op = .dataOnce then (if t.req.op = .atomIO then t.old else t.data) else none
            ((s.homeReply k t.req op flag d).setTxn k t).homeRun k line fuel
          | .compAck =>
            if t.gotComp then (s.setTxn k t).homeRun k line fuel
            else if s.agentLost t.req.req then
              let t := match t.after with
                | .owned _ => { t with data := some (zeroLine, true), plan := [.write], after := .free }
                | .shared h => { t with after := .shared (h &&& ~~~ holderMask t.req.req) }
                | _ => t
              (s.setTxn k t).homeRun k line fuel
            else s.setTxn k { t with compWait := true }

/-- Enough for every action of a transaction and of the ones its end sets going. -/
def homeFuel : Nat := 64

/-- Run a transaction on. -/
def State.homeGo (s : State) (k line : Nat) : State := s.homeRun k line homeFuel

/-- Every transaction of a slice that waits for a directory way chooses again: a way may have become free. -/
def State.wayFreed (s : State) (k : Nat) : State :=
  s.forEach (s.home k).wayWaiters fun s l =>
    let s := s.tryAgain k l
    (s.forEach ((s.home k).victimsOf l) fun s v => s.homeGo k v).homeGo k l

/-! ### Links (R463, R465) -/

/-- The link that reaches package `p`. -/
def State.linkTo (s : State) (p : Nat) : Nat := (p + 4 - s.pkgIx) % 4 - 1

/-- The package that link `c` reaches. -/
def State.peerOf (s : State) (c : Nat) : Nat := (s.pkgIx + c + 1) % 4

/-- Link `c`, as a bundle of port 12. -/
def State.cascBundle (s : State) (c : Nat) : BundleState := Table.get {} (s.port 12).bundles c

def State.linkActive (s : State) (c : Nat) : Bool := (s.cascBundle c).st = .active

/-- The link that packets for the peer of link `c` take: its own when ACTIVE, else the one to the lowest-indexed other
member whose link is ACTIVE, which relays them (R465). -/
def State.outLink (s : State) (c : Nat) : Nat :=
  if s.linkActive c then c
  else
    let others := (List.range 4).filter fun p =>
      p ≠ s.pkgIx && p ≠ s.peerOf c && s.pkgPresent p && s.linkActive (s.linkTo p)
    match others with
    | p :: _ => s.linkTo p
    | [] => c

/-- Send a message across link `c`. -/
def State.linkSend (s : State) (c : Nat) (m : Msg) : State :=
  let l := s.outLink c
  let x := s.cascLink l
  s.setCascLink l { x with out := x.out ++ [m] }

/-! ### Set recovery (R148) -/

/-- The agents that a SetRecall goes to: dies in service and peers present. -/
def State.recallAgents (s : State) : List Nat :=
  ((List.range 12).filter fun d => s.dieStatus d ≤ 1) ++
    ((List.range 3).filter fun l => s.mgmt.casc.members ≠ 0 && s.pkgPresent ((s.pkgIx + l + 1) % 4)).map (· + 14)

/-- Some CXL.cache device, not fenced, may still hold a line or write one back (R365). -/
def State.cxlHolds (s : State) : Bool :=
  s.hub.filter.any (fun e => e.2.any fun f =>
    (List.range 32).any fun p => f.holders.getLsbD p && (s.rootPort p).link ≠ .fenced) ||
  s.hub.cacheReqs.any fun c => c.data.isSome

/-- Step on a set's recovery: it starts once no transaction of the set is open, and ends with every way Free. -/
def State.recoverGo (s : State) (k set : Nat) : State :=
  let x := s.home k
  match x.recov.find? fun r => r.set = set with
  | none => s
  | some r =>
    if !r.started then
      if x.txns.any fun t => lineSet t.line = set then s
      else
        let as := s.recallAgents
        let r' := { r with started := true, cxlWait := s.cxlHolds,
                           acks := as.map fun a => ({ agent := a, op := .setRecall, tmo := s.fwdTmo } : FwdWait) }
        let s := s.setHome k { x with recov := x.recov.map fun q => if q.set = set then r' else q }
        s.forEach (as.filter fun a => 14 ≤ a) fun s a =>
          s.linkSend (a - 14)
            { op := .setRecall, line := 0, src := 32 + k, dst := a, req := a, mask := BitVec.ofNat 64 set }
    else if r.acks.isEmpty && !r.cxlWait then
      let keep : Table DirEntry := x.dir.filter fun e => e.1 / 12 ≠ set
      (s.setHome k { x with dir := keep, recov := x.recov.filter fun q => q.set ≠ set }).logE .recovered .home
        .uncorrectable k 0 0 set
    else s

/-- Begin the recovery of a set, unless it is under way. -/
def State.recoverStart (s : State) (k set : Nat) : State :=
  let x := s.home k
  let s := if x.recov.any fun r => r.set = set then s
    else s.setHome k { x with recov := x.recov ++ [{ set := set, started := false, acks := [], cxlWait := false }] }
  s.recoverGo k set

/-! ### Acceptance (R149, R153, R164, R270) -/

/-- Trackers that the requests of a slice hold, by a test. -/
def HomeState.trackers (x : HomeState) (p : Msg → Bool) : Nat :=
  ((x.txns.filter fun t => t.parent.isNone && !t.sweep && p t.req).length) + (x.waitq.filter p).length

/-- The same, with the no-snoop requests that wait for memory. -/
def State.trackersUsed (s : State) (k : Nat) (p : Msg → Bool) : Nat :=
  (s.home k).trackers p + (s.mem.noSnoop.filter fun q => lineSlice q.line = k && p q).length

/-- A request tracker is free for the request: in its class's reserve, or among the shared ones, with its source below
its limit. -/
def State.trackerFree (s : State) (k : Nat) (m : Msg) : Bool :=
  let used (c : Nat) : Nat := s.trackersUsed k fun q => q.cls.toNat = c
  let sharedUsed := ((List.range 8).map fun c => used c - s.trkRsv c).foldl (· + ·) 0
  let pool := 960 - ((List.range 8).map s.trkRsv).foldl (· + ·) 0
  s.trackersUsed k (fun q => q.req = m.req) < fld (s.cfg 0x0100) 16 11 &&
    (used m.cls.toNat < s.trkRsv m.cls.toNat || sharedUsed < pool)

/-- A read of a directory set: what its check code corrects is rewritten, and logged (R148). -/
def State.readSet (s : State) (k set : Nat) : State :=
  let x := s.home k
  let keys := (List.range 12).map fun w => set * 12 + w
  if keys.any fun i => (Table.find x.dir i).any fun e => e.soft then
    (s.setHome k { x with dir := x.dir.map fun e => if keys.contains e.1 then (e.1, { e.2 with soft := false }) else e }).logE
      .corrected .home .correctedCode k 0 0 set
  else s

/-- Begin a request's transaction (R154, R155): the entry of its line is read. -/
def State.homeBegin (s : State) (k : Nat) (m : Msg) : State :=
  if s.agentLost m.req then
    let x := s.home k
    s.setHome k { x with accepted := x.accepted.erase m }
  else
    let set := lineSet m.line
    let s := s.readSet k set
    let x := s.home k
    if (List.range 12).any fun w => (Table.find x.dir (set * 12 + w)).any fun e => e.bad then
      (s.setHome k { x with waitq := m :: x.waitq }).recoverStart k set
    else
      let v := viewOf ((x.find m.line).map (·.2)) m
      let (plan, after) := homePlan v m
      let t : Txn := { line := m.line, req := m, plan := plan, after := after, data := carried v m }
      (s.setHome k { x with txns := x.txns ++ [t] }).homeGo k m.line

/-- A no-snoop request reaches memory without reading the directory (R168). -/
def State.noSnoopBegin (s : State) (m : Msg) : State :=
  let s := s.upMem fun x => { x with noSnoop := x.noSnoop ++ [m] }
  let whole := m.op = .wrNS && m.mask = BitVec.allOnes 64
  s.memReq { client := .noSnoop m.txid, line := m.line, write := whole, data := if whole then m.data else [],
             poison := whole && m.poison, hue := m.hue, cls := m.cls }

/-- Accept a request: it begins, or waits for its line (R154) or its set (R148). -/
def State.homeTake (s : State) (k : Nat) (m : Msg) : State :=
  let s := s.uncount (32 + k) 0x01 1 m.hue m.cls
  let x := s.home k
  if m.op = .rdNS || m.op = .wrNS then s.noSnoopBegin m
  else if x.busy m.line || (x.waitq.any fun q => q.line = m.line) || x.recov.any fun r => r.set = lineSet m.line then
    s.setHome k { x with waitq := x.waitq ++ [m], accepted := x.accepted ++ [m] }
  else (s.setHome k { x with accepted := x.accepted ++ [m] }).homeBegin k m

/-- Accept requests that were held back, in order, as trackers free (R149). -/
def State.homeUnhold (s : State) (k : Nat) : State :=
  let x := s.home k
  if x.heldBack.isEmpty && x.wbHeldBack.isEmpty then s
  else
    let s := (s.setHome k { x with heldBack := [] }).forEach x.heldBack fun s m =>
      if s.trackerFree k m then s.homeTake k m
      else
        let x := s.home k
        s.setHome k { x with heldBack := x.heldBack ++ [m] }
    let x := s.home k
    (s.setHome k { x with wbHeldBack := [] }).forEach x.wbHeldBack fun s m =>
      let x := s.home k
      if x.wbs.length < 64 then s.wbBegin k m else s.setHome k { x with wbHeldBack := x.wbHeldBack ++ [m] }

/-- The Error that a target sends (R191). -/
def State.errorTo (s : State) (k : Nat) (m : Msg) (flag : BitVec 2) : State := s.homeReply k m .error flag none

/-- The requester's view of the memory map: the partition of its die. -/
def State.domainOf (s : State) (agent : Nat) : Option Nat := if agent < 12 then s.partOfDie agent else none

/-- In Partitioned mode a request of a partition that carries a hue outside its block is treated as hue 0, and logged
(R261). -/
def State.hubHue (s : State) (part : Option Nat) (k : Nat) (m : Msg) : Msg × State :=
  match part with
  | none => (m, s)
  | some p =>
    if m.hue = 0 || s.partOfHue m.hue.toNat = some p then (m, s)
    else
      ({ m with hue := 0, cls := s.classOf m.req 0 },
        s.logE .hue .home .hueViolation k (m.line * 64) m.hue (lineSet m.line) m.req)

/-- A Request-class or Writeback-class message reaches its home: refused with Error, held back, or accepted. -/
def State.homeAccept (s : State) (m : Msg) : State :=
  let k := lineSlice m.line
  let (m, s) := s.hubHue (s.domainOf m.req) k m
  let x := s.home k
  if x.fenced then s.errorTo k m 2
  else if !mayRequest m.req m.op then
    (s.errorTo k m 1).logE .partner .home .unsupported k (m.line * 64) m.hue (lineSet m.line) m.req
  else if !(s.region (s.domainOf m.req) (m.line * 64)).isMemory then
    (s.errorTo k m 1).logE .partner .home .unsupported k (m.line * 64) m.hue (lineSet m.line) m.req
  else if m.op = .wbData then
    if x.wbs.length < 64 then s.wbBegin k m else s.setHome k { x with wbHeldBack := x.wbHeldBack ++ [m] }
  else if (x.heldBack.any fun q => q.req = m.req && q.cls = m.cls) || !s.trackerFree k m then s.setHome k { x with heldBack := x.heldBack ++ [m] }
  else s.homeTake k m

/-- The oldest waiting request of a line begins (R154). -/
def State.homeNext (s : State) (k line : Nat) : State :=
  let x := s.home k
  if x.busy line || x.recov.any fun r => r.set = lineSet line then s
  else match x.waitq.find? fun q => q.line = line with
    | none => s
    | some m => (s.setHome k { x with waitq := x.waitq.erase m }).homeBegin k m

/-! ### Answers -/

/-- The answers that a forward may receive (R150). -/
def answers (fwd ans : Op) : Bool :=
  match fwd with
  | .fwdS => ans = .fwdAck || ans = .fwdAckData
  | .fwdO => ans = .fwdAck
  | .fwdSnap => ans = .fwdAck
  | .fwdClean => ans = .fwdAck || ans = .fwdAckData
  | .inv => ans = .invAck
  | .recallDiscard => ans = .invAck
  | .recall => ans = .recallAck || ans = .recallAckData
  | _ => false

/-- Close the stale writebacks whose WbAck waited for an agent's answer (R159 case 2). -/
def State.wbClose (s : State) (k line agent : Nat) : State :=
  let x := s.home k
  let mine (w : WbTrk) : Bool := w.phase = .waitAnswer && w.msg.line = line && w.msg.req = agent
  (s.setHome k { x with wbs := x.wbs.filter (!mine ·) }).forEach (x.wbs.filter mine) fun s w =>
    (s.homeReply k w.msg .wbAck 0 none).uncount (32 + k) 0x06 1 w.msg.hue w.msg.cls

/-- After a slice's transactions have moved: recoveries and transactions that waited, and requests that were held back. -/
def State.homeSettle (s : State) (k : Nat) : State :=
  ((s.forEach (s.home k).recov fun s r => s.recoverGo k r.set).wayFreed k).homeUnhold k

/-- An answer names the open transaction: its requester and its TXID (R174). -/
def Txn.named (t : Txn) (m : Msg) : Bool := t.req.req = m.req && t.req.txid = m.txid

/-- The transaction has sent all that its requester waits for. -/
def Txn.answered (t : Txn) : Bool :=
  t.plan.all fun a => match a with
    | .compAck => true
    | .write => true
    | _ => false

/-- An answer to a forward reaches its home (R155, R156, R174). -/
def State.homeAnswer (s : State) (m : Msg) : State :=
  let k := lineSlice m.line
  match (s.home k).txn m.line with
  | none => s.dropMsg k .home m
  | some t =>
    match t.acks.find? fun a => a.agent = m.src with
    | none => s.dropMsg k .home m
    | some a =>
      if !answers a.op m.op || !t.named m then s.dropMsg k .home m
      else
        let t := { t with acks := t.acks.filter fun b => b.agent ≠ m.src }
        let s := if m.op = .fwdAck && m.flag = 0 then s.uncount (32 + k) 0x05 1 m.hue m.cls else s
        let t := if m.op = .fwdAck && m.flag = 0 then t.missed a.op
          else if m.op = .fwdAckData || m.op = .recallAckData then { t with data := some (m.data, m.poison) }
          else t
        (((s.setTxn k t).wbClose k m.line m.src).homeGo k m.line).homeSettle k

/-- CompAck reaches the home (R157). -/
def State.homeCompAck (s : State) (m : Msg) : State :=
  let k := lineSlice m.line
  match (s.home k).txn m.line with
  | none => s.dropMsg k .home m
  | some t =>
    if t.req.req = m.src && t.named m && !t.gotComp && t.answered && (t.compWait || t.plan.contains .compAck) then
      ((s.setTxn k { t with gotComp := true }).homeGo k m.line).homeSettle k
    else s.dropMsg k .home m

/-- Memory has answered a home: the data of a read, or the acceptance of a write (R126). -/
def State.homeMemory (s : State) (k line : Nat) (write : Bool) (d : Bytes × Bool) : State :=
  let x := s.home k
  match x.txn line with
  | some t =>
    if write && t.wr then ((s.setTxn k { t with wr := false }).homeGo k line).homeSettle k
    else if !write && t.rd then
      ((s.setTxn k { t with rd := false, data := some (t.data.getD d) }).homeGo k line).homeSettle k
    else s
  | none =>
    match x.wbs.find? fun w => w.phase = .writing && w.msg.line = line with
    | none => s
    | some w =>
      if !write then s
      else
        let dir := match x.find line with
          | some (key, _) => Table.erase x.dir key
          | none => x.dir
        let s := s.setHome k { x with wbs := x.wbs.erase w, dir := dir }
        (((s.homeReply k w.msg .wbAck 0 none).wbAgain k line)).homeSettle k

/-! ### Agents that do not answer (R173, R505, R526) -/

/-- Answer for an agent that owes a forward's answer on a line. -/
def State.homeExpire (s : State) (k line agent : Nat) : State :=
  match (s.home k).txn line with
  | none => s
  | some t =>
    if t.acks.any fun a => a.agent = agent then
      let t := t.expire agent ((s.home k).staleWb line agent)
      (((s.setTxn k t).wbClose k line agent).homeGo k line).homeSettle k
    else s

/-- Complete at one slice what waits for an agent that is lost: its forwards, its CompAcks, its set recalls. -/
def State.homeForget (s : State) (k agent : Nat) : State :=
  let lines := (s.home k).txns.map (·.line)
  let s := s.forEach lines fun s l => s.homeExpire k l agent
  let s := s.forEach lines fun s l =>
    match (s.home k).txn l with
    | some t =>
      if t.req.req = agent && t.compWait && !t.gotComp then
        (s.setTxn k { t with compWait := false, plan := .compAck :: t.plan }).homeGo k l
      else s
    | none => s
  let x := s.home k
  let s := s.setHome k
    { x with recov := x.recov.map fun r => { r with acks := r.acks.filter fun a => a.agent ≠ agent } }
  s.homeSettle k

/-- The counts that a fenced die's harts have not sent are lost, and the open intervals of their hues show it (R290). -/
def State.countsLost (s : State) (d : Nat) : State :=
  s.forEach (hartsOfDie (Fin.ofNat 12 d)) fun s h =>
    let x := s.hart (hartIx h)
    if x.run = .held then s
    else
      let s := s.setHart (hartIx h) { x with accCycles := 0, accInstret := 0, accSteady := 0 }
      match s.chargeTo x.hue (s.partOfDie d) with
      | some k => s.setMeter k { s.meter k with loss := true }
      | none => s

/-- Fence a compute die (R505): the hub drops its packets, the homes answer for it, its harts are held, and the live PDR
shows it. -/
def State.fenceDie (s : State) (d : Nat) (src : ErrSource) (why : ErrReason) (unit : Nat) : State :=
  if s.dieFenced d then s
  else
    let s := (s.setDieStatus d 2).pdrTouch
    let s := s.logE .uncorrected src why unit (fence := true)
    let s := (s.hartCtl d 0x01 (2 ^ 44 - 1)).countsLost d
    let s := s.upService fun v => { v with fenced := v.fenced || (v.action.bind LiveAction.die).any fun e => e.val = d }
    (s.forEach (List.range 32) fun s k => s.homeForget k d).dieGone d

end Sys2Proof.Machine
end

