-- ==== Sys2Proof/Machine/Proxy.lean ====
section
/-! DEFINITION. Cascade links and their proxies (R463 to R471): the remote filter, local requests for lines that a peer homes,
forwards of the peer's homes, and a peer that is lost (R477). -/

namespace Sys2Proof.Machine

/-- The proxy's agent number here, and as the peer's package numbers it. -/
def proxyId (c : Nat) : Nat := 14 + c
def peerId (c : Nat) : Nat := 14 + (2 - c)

/-! ### The remote filter (R469, R471) -/

/-- The set of a line. -/
def remoteSet (line : Nat) : Nat :=
  (line % 2 ^ 15) ^^^ ((line >>> 15) % 2 ^ 15) ^^^ ((line >>> 30) % 2 ^ 14)

def CascLink.find (x : CascLink) (line : Nat) : Option (Nat × RemoteEntry) := x.filter.find? fun e => e.2.line = line

def CascLink.request (x : CascLink) (line : Nat) : Option ProxyReq := x.requests.find? fun r => r.msg.line = line

/-- An entry is busy while the proxy does anything for its line. -/
def CascLink.busy (x : CascLink) (line : Nat) : Bool :=
  (x.request line).isSome || x.probes.any (·.line = line) || x.fwds.any (·.msg.line = line) || x.wbs.any (·.line = line)

/-- The victim of a full set, by the procedure of R161 over 16 ways, and the pointer after it. -/
def CascLink.victim (x : CascLink) (set : Nat) : Option (Nat × Nat) :=
  let at_ (w : Nat) : Option RemoteEntry := Table.find x.filter (set * 16 + w)
  let ways := (List.range 16).filter fun w => (at_ w).any fun e => !x.busy e.line
  let shared := ways.filter fun w => (at_ w).any fun e => !e.owned
  let count (w : Nat) : Nat := ((at_ w).map fun e => popCount 12 e.dies.toNat).getD 0
  let least := shared.foldl (fun m w => min m (count w)) 16
  let c := if shared.isEmpty then ways else shared.filter fun w => count w = least
  let rr := Table.get 0 x.rr set
  match c.find? fun w => rr ≤ w with
  | some w => some (w, (w + 1) % 16)
  | none => c.head?.map fun w => (w, (w + 1) % 16)

/-- Set, or remove, the entry of a line. -/
def CascLink.setEntry (x : CascLink) (line : Nat) (e : Option RemoteEntry) : CascLink :=
  match x.find line, e with
  | some (k, _), some e => { x with filter := Table.insert x.filter k e }
  | some (k, _), none => { x with filter := Table.erase x.filter k }
  | none, _ => x

def dieBit (d : Nat) : BitVec 12 := BitVec.ofNat 12 (2 ^ d)

def diesOf (b : BitVec 12) : List (Fin 12) := (List.finRange 12).filter fun d => b.getLsbD d.val

/-! ### Probes (R470) -/

/-- Probe dies of the package. A fenced die is not asked: it holds nothing it will give. -/
def State.proxyProbe (s : State) (c : Nat) (m : Msg) (l : List (Fin 12 × Op)) : State :=
  s.forEach (l.filter fun q => !s.dieFenced q.1.val) fun s q =>
    let x := s.cascLink c
    let s := s.setCascLink c
      { x with probes := x.probes ++ [{ line := m.line, die := q.1, op := q.2, tmo := 2 ^ (fld (s.cfg 0x0200) 0 5 - 1) }] }
    s.send { op := q.2, line := m.line, src := proxyId c, dst := q.1.val, req := proxyId c, txid := m.txid, hue := m.hue,
             cls := m.cls }

/-- What other dies of the package must give up before a local request goes to the home. -/
def proxyNeeds (e : Option RemoteEntry) (m : Msg) : List (Fin 12 × Op) :=
  match e with
  | none => []
  | some e =>
    let others := (diesOf e.dies).filter fun d => d.val ≠ m.req
    let all (owned shared : Option Op) : List (Fin 12 × Op) :=
      match (if e.owned then owned else shared) with
      | some o => others.map fun d => (d, o)
      | none => []
    match m.op with
    | .rdS => all (some .recall) none
    | .rdO => all (some .recall) (some .inv)
    | .upg => all (some .recall) (some .inv)
    | .claimZ => all (some .recallDiscard) (some .inv)
    | .cmoClean => all (some .fwdClean) none
    | .cmoFlush => all (some .recall) (some .inv)
    | .cmoInval => all (some .recallDiscard) (some .inv)
    | _ => []

/-- A request that puts its die into the filter. -/
def takesEntry (o : Op) : Bool := o = .rdS || o = .rdO || o = .upg || o = .claimZ

def State.setProxyReq (s : State) (c : Nat) (r : ProxyReq) : State :=
  let x := s.cascLink c
  s.setCascLink c { x with requests := x.requests.map fun q => if q.msg.line = r.msg.line then r else q }

/-- Send a writeback of the proxy's own to the home (R471). -/
def State.proxyWriteback (s : State) (c line : Nat) (d : Bytes × Bool) : State :=
  let m : Msg := { op := .wbData, line := line, src := peerId c, dst := 32 + lineSlice line, req := peerId c, data := d.1,
                   poison := d.2 }
  let x := s.cascLink c
  (s.setCascLink c { x with wbs := x.wbs ++ [{ m with req := proxyId c }] }).linkSend c m

/-- Take a request one step further; `fuel` bounds the steps that need no answer. -/
def State.proxyStep (s : State) (c line : Nat) : Nat → State
  | 0 => s
  | fuel + 1 =>
    let x := s.cascLink c
    match x.request line with
    | none => s
    | some r =>
      let probing (l : Nat) : Bool := x.probes.any (·.line = l)
      if r.passed || r.sent || r.wb || probing line || (r.victim.any probing) then s
      else if !r.ready then
        ((s.setProxyReq c { r with ready := true }).proxyProbe c r.msg (proxyNeeds ((x.find line).map Prod.snd) r.msg)).proxyStep
          c line fuel
      else if takesEntry r.msg.op && (x.find line).isNone then
        let set := remoteSet line
        match (List.range 16).find? fun w => (Table.find x.filter (set * 16 + w)).isNone with
        | some w =>
          let x := { x with filter := Table.insert x.filter (set * 16 + w) { line := line, dies := 0, owned := false } }
          ((s.setCascLink c x).setProxyReq c { r with victim := none }).proxyStep c line fuel
        | none =>
          match x.victim set with
          | none => s
          | some (w, rr) =>
            match Table.find x.filter (set * 16 + w) with
            | none => s
            | some v =>
              let s := (s.setCascLink c { x with rr := Table.put 0 x.rr set rr }).setProxyReq c { r with victim := some v.line }
              let op : Op := if v.owned then .recall else .inv
              let s := s.proxyProbe c { r.msg with line := v.line } ((diesOf v.dies).map fun d => (d, op))
              let x := s.cascLink c
              if x.probes.any (·.line = v.line) then s
              else (s.setCascLink c (x.setEntry v.line none)).proxyStep c line fuel
      else
        let carry := r.msg.op = .cmoClean || r.msg.op = .cmoFlush
        match r.dirty with
        | some d =>
          if carry then send s c { r with sent := true, tmo := s.hubReqTmo } { r.msg with data := d.1, poison := d.2 }
          else (s.setProxyReq c { r with wb := true, dirty := none }).proxyWriteback c line d
        | none => send s c { r with sent := true, tmo := s.hubReqTmo } r.msg
where
  send (s : State) (c : Nat) (r : ProxyReq) (m : Msg) : State :=
    (s.setProxyReq c r).linkSend c { m with src := peerId c, req := peerId c, dst := 32 + lineSlice m.line }

def State.proxyGo (s : State) (c line : Nat) : State := s.proxyStep c line 8

/-- Start waiting requests whose line is free, in order, as trackers free (R469). -/
def State.proxyNext (s : State) (c : Nat) : State :=
  let x := s.cascLink c
  let s := s.forEach x.waiting fun s m =>
    let x := s.cascLink c
    if x.requests.length + x.late.length < 1024 && (x.request m.line).isNone &&
        (x.waiting.find? fun w => w.line = m.line) = some m then
      (s.setCascLink c { x with waiting := x.waiting.erase m, requests := x.requests ++ [{ msg := m }] }).proxyGo c m.line
    else s
  s.forEach (s.cascLink c).requests fun s r => s.proxyGo c r.msg.line

/-- Close a request. -/
def State.proxyClose (s : State) (c line : Nat) : State :=
  let x := s.cascLink c
  let x := match x.find line with
    | some (_, e) => if e.dies = 0 then x.setEntry line none else x
    | none => x
  (s.setCascLink c { x with requests := x.requests.filter fun r => r.msg.line ≠ line }).proxyNext c

/-- The peer that a link reaches is lost, or was never admitted. -/
def State.peerLost (s : State) (c : Nat) : Bool := !s.pkgPresent (s.peerOf c)

/-- Answer a local requester. -/
def State.proxyReply (s : State) (c : Nat) (m : Msg) (op : Op) (flag : BitVec 2) : State :=
  s.send { reply m op m.req with src := proxyId c, flag := flag }

/-- A request of a local agent reaches the proxy (R469). -/
def State.proxyRequest (s : State) (c : Nat) (m : Msg) : State :=
  if s.peerLost c then s.proxyReply c m .error 2
  else
    let x := s.cascLink c
    (s.setCascLink c { x with waiting := x.waiting ++ [m] }).proxyNext c

/-- A WbData of a local die: passed on when the filter names the die as owner, held back while a probe to the die is
unanswered, and stale otherwise (R159). -/
def State.proxyWb (s : State) (c : Nat) (m : Msg) : State :=
  let x := s.cascLink c
  if s.peerLost c then s.proxyReply c m .error 2
  else if x.probes.any fun p => p.line = m.line && p.die.val = m.req then
    s.setCascLink c { x with wbHeld := x.wbHeld ++ [m] }
  else match x.find m.line with
    | some (_, e) =>
      if e.owned && e.dies = dieBit m.req then
        (s.setCascLink c { x.setEntry m.line none with wbs := x.wbs ++ [m] }).linkSend c
          { m with src := peerId c, req := peerId c, dst := 32 + lineSlice m.line }
      else s.proxyReply c m .wbAck 0
    | none => s.proxyReply c m .wbAck 0

/-! ### Forwards of the peer's home (R470) -/

/-- Answer a forward of the peer's home. -/
def State.proxyAnswer (s : State) (c : Nat) (f : ProxyFwd) : State :=
  let m := f.msg
  let x := s.cascLink c
  let s := s.setCascLink c { x with fwds := x.fwds.filter fun g => g.msg ≠ m }
  let x := s.cascLink c
  let out (s : State) (op : Op) (dst : Nat) (flag : BitVec 2) (d : Option (Bytes × Bool)) : State :=
    s.linkSend c { reply m op dst with src := peerId c, flag := flag, data := (d.map Prod.fst).getD [],
                                       poison := (d.map Prod.snd).getD false }
  let home := m.src
  let drop (s : State) : State := s.setCascLink c ((s.cascLink c).setEntry m.line none)
  let poison : Option (Bytes × Bool) := some (zeroLine, true)
  match m.op with
  | .fwdS =>
    if f.poisoned then out (out (drop s) .data m.req 0 poison) .fwdAckData home 1 poison
    else
      let s := if f.hit then s.setCascLink c (x.setEntry m.line ((x.find m.line).map fun e => { e.2 with owned := false }))
        else drop s
      if f.dirty.isSome then out s .fwdAckData home 1 f.dirty else out s .fwdAck home (if f.hit then 1 else 0) none
  | .fwdO =>
    if f.poisoned then out (out (drop s) .data m.req 1 poison) .fwdAck home 1 none
    else out (drop s) .fwdAck home (if f.hit then 1 else 0) none
  | .fwdSnap =>
    if f.poisoned then out (out s .dataOnce m.req 0 poison) .fwdAck home 1 none
    else out (if f.hit then s else drop s) .fwdAck home (if f.hit then 1 else 0) none
  | .fwdClean =>
    if f.poisoned then out s .fwdAckData home 1 poison
    else if f.dirty.isSome then out s .fwdAckData home 1 f.dirty
    else out (if f.hit then s else drop s) .fwdAck home (if f.hit then 1 else 0) none
  | .recall =>
    if f.poisoned then out (drop s) .recallAckData home 0 poison
    else if f.dirty.isSome then out (drop s) .recallAckData home 0 f.dirty
    else out (drop s) .recallAck home 0 none
  | _ => out (drop s) .invAck home 0 none

/-- A forward is answered once every probe is, and the holder's data, if it sends any, has passed. -/
def State.proxyFwdGo (s : State) (c line : Nat) : State :=
  let x := s.cascLink c
  match x.fwds.find? fun f => f.msg.line = line with
  | none => s
  | some f =>
    let data := f.msg.op = .fwdS || f.msg.op = .fwdO || f.msg.op = .fwdSnap
    if x.probes.any (·.line = line) || (data && f.hit && !f.passed && !f.poisoned) then s
    else (s.proxyAnswer c f).proxyNext c

/-- A forward of the peer's home reaches the proxy. A writeback on its way answers it with its data. -/
def State.proxyForward (s : State) (c : Nat) (m : Msg) : State :=
  let x := s.cascLink c
  match x.wbs.find? fun w => w.line = m.line with
  | some w =>
    let d : Bytes × Bool := (w.data, w.poison)
    let s := if m.op = .fwdS || m.op = .fwdO || m.op = .fwdSnap then
        s.linkSend c { reply m (if m.op = .fwdSnap then .dataOnce else .data) m.req with
          src := peerId c, flag := if m.op = .fwdO then 2 else 0, data := d.1, poison := d.2 }
      else s
    s.proxyAnswer c { msg := m, dirty := some d, hit := true, passed := true }
  | none =>
    let dies := ((x.find m.line).map fun e => diesOf e.2.dies).getD []
    let s := s.setCascLink c { x with fwds := x.fwds ++ [{ msg := m }] }
    let s := s.proxyProbe c m (dies.map fun d => (d, m.op))
    s.proxyFwdGo c m.line

/-- SetRecall of the peer's home (R148): every line of the set that the package may hold is recalled. -/
def State.proxySetRecall (s : State) (c slice set : Nat) : State :=
  let x := s.cascLink c
  let es := (x.filter.map Prod.snd).filter fun (e : RemoteEntry) => lineSlice e.line = slice && lineSet e.line = set
  let s := s.setCascLink c { x with recalls := x.recalls ++ [(slice, set)] }
  s.forEach es fun s e =>
    s.proxyProbe c { op := .recall, line := e.line, src := proxyId c, dst := 0, req := proxyId c }
      ((diesOf e.dies).map fun d => (d, Op.recall))

/-- A set recall ends when no probe, writeback or entry of the set is left; the answer goes to the peer. -/
def State.proxyRecallGo (s : State) (c : Nat) : State :=
  s.forEach (s.cascLink c).recalls fun s q =>
    let x := s.cascLink c
    let mine (l : Nat) : Bool := lineSlice l = q.1 && lineSet l = q.2
    if x.probes.any (fun p => mine p.line) || x.wbs.any fun w => mine w.line then s
    else
      let x := { x with recalls := x.recalls.erase q, filter := x.filter.filter fun e => !mine e.2.line }
      (s.setCascLink c x).linkSend c
        { op := .setRecallAck, line := 0, src := peerId c, dst := 32 + q.1, req := peerId c, mask := BitVec.ofNat 64 q.2 }

/-! ### Answers -/

/-- A local die's answer to a probe, or its data for the requester of a forward (R470). -/
def State.proxyDie (s : State) (c : Nat) (m : Msg) : State :=
  let x := s.cascLink c
  if m.op = .data || m.op = .dataOnce then
    match x.fwds.find? fun f => f.msg.line = m.line with
    | none => s.dropMsg c .casc m
    | some f =>
      let s := s.linkSend c { m with src := peerId c, dst := f.msg.req, req := f.msg.req }
      let x := s.cascLink c
      (s.setCascLink c { x with fwds := x.fwds.map fun g => if g = f then { g with passed := true } else g }).proxyFwdGo c m.line
  else match x.probes.find? fun p => p.line = m.line && p.die.val = m.src with
    | none => s.dropMsg c .casc m
    | some p =>
      if !answers p.op m.op then s.dropMsg c .casc m
      else
        let dirty := if m.op = .fwdAckData || m.op = .recallAckData then some (m.data, m.poison) else none
        let keep (o : Option (Bytes × Bool)) : Option (Bytes × Bool) := match dirty with
          | some d => some d
          | none => o
        let hit := dirty.isSome || m.flag = 1
        let stale := x.wbHeld.filter fun w => w.line = m.line && w.req = m.src
        let x := { x with probes := x.probes.erase p, wbHeld := x.wbHeld.filter fun w => !(w.line = m.line && w.req = m.src) }
        let recalled := x.recalls.any fun q => lineSlice m.line = q.1 && lineSet m.line = q.2
        let victimOf := x.requests.find? fun r => r.victim = some m.line
        let s := s.setCascLink c x
        let s := s.forEach stale fun s w => s.proxyReply c w .wbAck 0
        if x.fwds.any fun f => f.msg.line = m.line then
          (s.setCascLink c { x with fwds := x.fwds.map fun f =>
            if f.msg.line = m.line then { f with dirty := keep f.dirty, hit := f.hit || hit } else f }).proxyFwdGo c m.line
        else if recalled then
          let s := match dirty with
            | some d => s.proxyWriteback c m.line d
            | none => s
          s.proxyRecallGo c
        else match victimOf with
          | some r =>
            let s := match dirty with
              | some d => s.proxyWriteback c m.line d
              | none => s
            let x := s.cascLink c
            let s := if x.probes.any (·.line = m.line) then s else s.setCascLink c (x.setEntry m.line none)
            s.proxyGo c r.msg.line
          | none =>
            match x.request m.line with
            | none => s
            | some r =>
              -- a die that gave the line up is no longer named
              let e := (x.find m.line).map fun e =>
                if p.op = .fwdClean then e.2
                else { e.2 with dies := e.2.dies &&& ~~~ dieBit m.src, owned := e.2.owned && e.2.dies ≠ dieBit m.src }
              let s := s.setCascLink c (x.setEntry m.line e)
              (s.setProxyReq c { r with dirty := keep r.dirty }).proxyGo c m.line

/-- An answer of the peer's home (R469). One that comes late is dropped and logged, and its tracker is free (R192). -/
def State.proxyPeer (s : State) (c : Nat) (m : Msg) : State :=
  let x := s.cascLink c
  if x.late.contains (m.txid, m.line) then
    ((s.setCascLink c { x with late := x.late.erase (m.txid, m.line) }).dropMsg c .casc m).proxyNext c
  else if m.op = .wbAck then
    match x.wbs.find? fun w => w.line = m.line with
    | none => s.dropMsg c .casc m
    | some w =>
      let s := s.setCascLink c { x with wbs := x.wbs.erase w }
      let s := if w.req < 12 then s.proxyReply c w .wbAck 0
        else match (s.cascLink c).request m.line with
          | some r => s.setProxyReq c { r with wb := false }
          | none => s
      (s.proxyNext c).proxyRecallGo c
  else match x.request m.line with
    | none => s.dropMsg c .casc m
    | some r =>
      if !r.sent || r.passed then s.dropMsg c .casc m
      else
        let d := r.msg.req
        let s := s.send { m with src := proxyId c, dst := d, req := d, txid := r.msg.txid }
        let dies := ((x.find m.line).map fun e => e.2.dies).getD 0
        let entry (dies : BitVec 12) (owned : Bool) : State :=
          if d < 12 then s.setCascLink c (x.setEntry m.line (some { line := m.line, dies := dies, owned := owned })) else s
        match m.op with
        | .data =>
          (if m.flag = 0 then entry (dies ||| dieBit d) false else entry (dieBit d) true).setProxyReq c { r with passed := true }
        | .grant => (entry (dieBit d) true).setProxyReq c { r with passed := true }
        | .cmoDone =>
          (if r.msg.op = .cmoClean then s else s.setCascLink c (x.setEntry m.line none)).proxyClose c m.line
        | _ => s.proxyClose c m.line

/-- The requester's CompAck, passed to the home (R469 step 4). -/
def State.proxyComp (s : State) (c : Nat) (m : Msg) : State :=
  match (s.cascLink c).request m.line with
  | some r =>
    if r.passed && r.msg.req = m.src then
      (s.linkSend c { m with src := peerId c, req := peerId c, dst := 32 + lineSlice m.line }).proxyClose c m.line
    else s.dropMsg c .casc m
  | none => s.dropMsg c .casc m

/-- A message reaches a cascade port. A line homed here belongs to a peer's request: the message crosses the link. Any other
comes from the peer, whose packets carry the port's own number, from another link, to be relayed (R465), or from a local
agent. -/
def State.proxyTake (s : State) (c : Nat) (m : Msg) : State :=
  if lineHome m.line = s.pkgIx then s.linkSend c m
  else if m.src ≠ proxyId c && 14 ≤ m.src && m.src ≤ 16 then s.linkSend c m
  else if m.src = proxyId c then
    (if takesLine m.op || m.op = .fwdSnap || m.op = .fwdClean then s.proxyForward c m else s.proxyPeer c m)
  else if m.op = .wbData then s.proxyWb c m
  else if m.op = .compAck then s.proxyComp c m
  else if cachedReq m.op || ioReq m.op || m.op = .rdNS || m.op = .wrNS then s.proxyRequest c m
  else s.proxyDie c m

/-- A probe of a die has had no answer for half the forward timeout (R470): its forward is answered as R173 prescribes, and
the die is fenced. -/
def State.proxyExpire (s : State) (c line : Nat) (d : Fin 12) : State :=
  let x := s.cascLink c
  match x.probes.find? fun p => p.line = line && p.die = d with
  | none => s
  | some p =>
    let lost := p.op ≠ .inv && p.op ≠ .recallDiscard
    let held := x.wbHeld.find? fun w => w.line = line && w.req = d.val
    let data : Option (Bytes × Bool) := match held with
      | some w => some (w.data, w.poison)
      | none => none
    let poison := lost && data.isNone
    let x := { x with probes := x.probes.erase p,
                      fwds := x.fwds.map fun f =>
                        if f.msg.line = line then
                          { f with poisoned := f.poisoned || poison, dirty := if data.isSome then data else f.dirty,
                                   hit := f.hit || data.isSome, passed := f.passed || data.isSome }
                        else f,
                      requests := x.requests.map fun r =>
                        if r.msg.line = line && lost then { r with dirty := some (data.getD (zeroLine, true)) } else r }
    let s := (s.setCascLink c x).logE .partner .casc .timeout c (line * 64)
    let s := s.fenceDie d.val .casc .timeout c
    ((s.proxyFwdGo c line).proxyNext c).proxyRecallGo c

/-- A request of the proxy to the peer's home has had no answer (R190): the die is answered with the Error that the proxy
makes, and the home's answer is late. -/
def State.proxyReqExpire (s : State) (c line : Nat) : State :=
  let x := s.cascLink c
  match (x.request line).filter fun r => r.sent && !r.passed with
  | none => s
  | some r =>
    let s := s.setCascLink c { x with late := x.late ++ [(r.msg.txid, line)] }
    (s.proxyReply c r.msg .error 0).proxyClose c line

/-- A member is lost (R477): homes answer for it, and each proxy's open requests to it are answered FENCED. -/
def State.memberLost (s : State) (p : Nat) : State :=
  if p = s.pkgIx || !s.pkgPresent p then s
  else
    let c := s.linkTo p
    let s := s.upCasc fun k => { k with lost := k.lost ||| BitVec.ofNat 4 (2 ^ p) }
    let s := s.pdrTouch
    let s := s.forEach (List.range 32) fun s k => s.homeForget k (proxyId c)
    let x := s.cascLink c
    let s := s.setCascLink c
      { x with requests := [], waiting := [], wbs := [], wbHeld := [], fwds := [], recalls := [], late := [] }
    let open_ := (x.requests.filter fun r => !r.passed).map fun (r : ProxyReq) => r.msg
    let s := s.forEach (open_ ++ x.waiting ++ (x.wbs.filter fun w => w.req < 12) ++ x.wbHeld) fun s m =>
      s.proxyReply c m .error 2
    if s.mgmt.casc.master.val = s.pkgIx then s.logE .partner .casc .timeout c
    else if s.mgmt.casc.master.val = p then s.upCasc fun k => { k with masterLost := true }
    else s

end Sys2Proof.Machine
end

