-- ==== Sys2Proof/Machine/HartIo.lean ====
section
/-! DEFINITION. The end of a hart's I/O access (R183, R191, R192, R504), and a hart's reset (R135, R425). -/

namespace Sys2Proof.Machine

/-- The operation whose I/O access is out. -/
def Waiting.isIo (w : Waiting) (io : IoAccess) : Bool :=
  w.issued && w.pas = [io.pa] && (match w.op with
    | .load _ _ _ _ => !io.write
    | .store _ _ _ => io.write
    | _ => false)

/-- Complete the operation with its answer: a load delivers or traps, a store ends, and an error of a store is reported. -/
def State.ioComplete (s : State) (h : HartId) (io : IoAccess) (w : Waiting) (ans : IoAnswer) : Att × State :=
  match w.op, ans with
  | .load a rd z c, .data v p =>
    if p then s.consume h w false a.va io.pa a.size else (.done, s.finishLoad h w a rd z c (leBytes a.size v.toNat))
  | .load a _ _ _, .error _ => s.consume h w false a.va io.pa a.size
  | .store _ _ _, .error f =>
    let s := s.logE .uncorrected .core (flagReason f) (coreUnit h) (io.pa / 64 * 64) io.hue (s.coreInfo h)
    (.done, s.setHart (hartIx h) (retireStore (s.hart (hartIx h)) w.stamp))
  | .store _ _ _, _ => (.done, s.setHart (hartIx h) (retireStore (s.hart (hartIx h)) w.stamp))
  | _, _ => (.done, s)

/-- The answer to a hart's I/O access has arrived, or its timer made one (R190). Operations older than it stay, and an
exception squashes the younger ones. -/
def State.ioFinish (s : State) (h : HartId) (ans : IoAnswer) : State :=
  let x := s.hart (hartIx h)
  match x.io with
  | none => s
  | some io =>
    let older := x.waiting.takeWhile fun w => !w.isIo io
    let s := s.setHart (hartIx h) { x with io := none, waiting := older }
    match x.waiting.dropWhile fun w => !w.isIo io with
    | [] => s.retryHart h
    | w :: younger =>
      match s.ioComplete h io w ans with
      | (.trapped, s) => ((s.endTrap h w).squashed h younger).retryHart h
      | (_, s) =>
        let s := s.endDone h w
        let x := s.hart (hartIx h)
        (s.setHart (hartIx h) { x with waiting := x.waiting ++ younger }).retryHart h

/-- The first answer on its way to a hart that passes a test. -/
def State.takeIoAnswer (s : State) (h : HartId) (p : IoAnswer → Bool) : Option (IoAnswer × State) :=
  match s.fab.ioAnswers.find? fun a => a.1 = h && p a.2 with
  | none => none
  | some a => some (a.2, s.upFab fun f => { f with ioAnswers := f.ioAnswers.erase a })

/-- An answer reaches its hart; one that its timer has overtaken is dropped and logged (R192). -/
def State.ioArrive (s : State) (h : HartId) (ans : IoAnswer) : State :=
  let x := s.hart (hartIx h)
  if 0 < x.ioLate then
    (s.setHart (hartIx h) { x with ioLate := x.ioLate - 1 }).logE .partner .core .unexpected (coreUnit h) 0 0 (s.coreInfo h)
  else s.ioFinish h ans

/-! ### Hart reset -/

/-- A hart enters reset at once: what it was doing is discarded, and its counts are sent. -/
def State.holdHart (s : State) (h : HartId) (run : RunState) (mtimecmp : Word) : State :=
  let x := s.hart (hartIx h)
  let s := s.meterSend h x.hue
  let x := s.hart (hartIx h)
  s.setHart (hartIx h)
    { run := run, mtimecmp := mtimecmp, ioLate := if x.io.isSome then x.ioLate + 1 else x.ioLate, accCycles := x.accCycles,
      accInstret := x.accInstret, accSteady := x.accSteady }

/-- A hart reset completes: the core's cqzcachectl takes its reset value (R45), and the hart is released parked (R424). -/
def State.resetHart (s : State) (h : HartId) : State :=
  let c := s.core (coreIx h)
  let s := s.setCore (coreIx h) { c with l1iNa := false, l1dNa := false, l2Na := false }
  (s.holdHart h .parked (s.hart (hartIx h)).mtimecmp).fileLines (hartIx h)

end Sys2Proof.Machine
end

