-- ==== Sys2Proof/Machine/Predict.lean ====
section
/-! DEFINITION. The branch predictor: the structures of R71, their training, the history and the return-address stack of a hart, and
what OFF and a clearing do to them (R72 to R79). -/

namespace Sys2Proof.Machine

/-! ### Training -/

/-- How a structure of R71 is organised: its number, sets, ways, tag bits and data bits, and the key of its first entry. -/
structure PredShape where
  k : Nat
  sets : Nat
  ways : Nat
  tag : Nat
  data : Nat
  base : Nat := 0
deriving DecidableEq, Repr

/-- What a resolved branch trains with: fetch address bits [38:1], history, target and direction (R72). -/
structure Training where
  pc : BitVec 38
  history : BitVec 256
  target : Word
  taken : Bool
deriving DecidableEq, Repr

/-- Train the entry of a branch: the one whose tag it has, or a new one, in an invalid way or in place of a victim. -/
def trainEntry (t : Table PredEntry) (q : PredShape) (b : Training) : Table PredEntry :=
  let set := Config.predIndex q.k b.pc b.history % q.sets
  let tag := BitVec.ofNat 38 (Config.predTag q.k b.pc b.history % 2 ^ q.tag)
  let cut (w : Word) : Word := (w.setWidth q.data).setWidth 64
  let fresh (old : Word) : Word := cut (Config.predEntry q.k old b.pc b.history b.target b.taken)
  let ways := (List.range q.ways).map fun w => q.base + set * q.ways + w
  match ways.find? fun key => (Table.find t key).any fun e => e.tag = tag with
  | some key => Table.insert t key { tag := tag, data := fresh (((Table.find t key).map PredEntry.data).getD 0) }
  | none =>
    if !Config.predAllocates q.k b.pc b.history b.taken then t
    else
      let held := ways.filterMap fun key => (Table.find t key).map PredEntry.data
      let key := (ways.find? fun key => (Table.find t key).isNone).getD (q.base + set * q.ways + Config.predVictim q.k held % q.ways)
      Table.insert t key { tag := tag, data := fresh 0 }

/-- A 2-bit counter after a branch. -/
def trainCounter (c : BitVec 2) (taken : Bool) : BitVec 2 := if taken then (if c = 3 then 3 else c + 1) else (if c = 0 then 0 else c - 1)

/-- Global history lengths of the tagged direction tables. -/
def historyLengths : List Nat := [6, 12, 24, 48, 96, 192]

/-- The low `n` bits of a history: its last `n` branches. -/
def lastBranches (hist : BitVec 256) (n : Nat) : BitVec 256 := hist &&& BitVec.ofNat 256 (2 ^ n - 1)

/-- The path history, alone. -/
def pathOf (hist : BitVec 256) : BitVec 256 := hist &&& ~~~ BitVec.ofNat 256 (2 ^ 192 - 1)

/-- Train the shared structures on a resolved branch (R71 to R73): the direction tables and the loop predictor on a conditional one, the
target buffers on a taken one, the indirect table on an indirect jump or call. -/
def Predictor.train (p : Predictor) (kind : BranchKind) (b : Training) : Predictor :=
  let plain := { b with history := 0 }
  let cond := kind = .cond
  let indirect := kind = .indirect || kind = .indirectCall
  let i := Config.predIndex 0 b.pc 0 % 16384
  let tagged := (historyLengths.zip (List.range 6)).foldl (fun t l =>
    trainEntry t { k := l.2 + 1, sets := 512, ways := 4, tag := 12, data := 64, base := l.2 * 2048 }
      { b with history := lastBranches b.history l.1 }) p.tagged
  let p := if cond then
      { p with base := Table.put 0 p.base i (trainCounter (Table.get 0 p.base i) b.taken), tagged := tagged,
               loop := trainEntry p.loop { k := 7, sets := 1, ways := 64, tag := 38, data := 14 } plain }
    else p
  let p := if b.taken then
      { p with l0Btb := trainEntry p.l0Btb { k := 8, sets := 1, ways := 64, tag := 38, data := 64 } plain,
               l1Btb := trainEntry p.l1Btb { k := 9, sets := 256, ways := 4, tag := 38, data := 64 } plain,
               l2Btb := trainEntry p.l2Btb { k := 10, sets := 1024, ways := 8, tag := 38, data := 64 } plain }
    else p
  if indirect then
    { p with indirect := trainEntry p.indirect { k := 11, sets := 256, ways := 4, tag := 38, data := 64 }
               { b with history := pathOf b.history } }
  else p

/-! ### History and return-address stack -/

/-- The history after a branch: a conditional one enters the global history, and every one the path history. -/
def nextHistory (hist : BitVec 256) (pc target : Word) (kind : BranchKind) (taken : Bool) : BitVec 256 :=
  let global : BitVec 192 := hist.extractLsb' 0 192
  let global := if kind = .cond then (global <<< 1) ||| BitVec.ofNat 192 (bitOf taken) else global
  (Config.predPath (hist.extractLsb' 192 64) (pc.extractLsb' 1 38) target) ++ global

/-- A call pushes its return address; a return pops it. The stack is circular: the oldest entry is overwritten. -/
def HartState.trainRas (x : HartState) (b : FetchedBranch) : HartState :=
  match b.kind with
  | .call => push x
  | .indirectCall => push x
  | .ret => { x with ras := Table.put 0 x.ras (x.rasTop - 1).val 0, rasTop := x.rasTop - 1 }
  | _ => x
where
  push (x : HartState) : HartState :=
    { x with ras := Table.put 0 x.ras x.rasTop.val (b.pc + (if b.short then 2 else 4)), rasTop := x.rasTop + 1 }

/-- The hart fetches as if OFF were 1: its own OFF is 1, or a clearing is in progress on its core (R75, R79). -/
def State.predictOff (s : State) (h : HartId) : Bool :=
  bit (s.hart (hartIx h)).cqzbpctl 0 || (s.core (coreIx h)).clearing.isSome

/-- With OFF = 1 a conditional branch is predicted not taken and an indirect jump stops fetch, so that fetch does not go on past either as
taken (R75). -/
def predictedPast (b : FetchedBranch) : Bool :=
  match b.kind with
  | .cond => b.taken
  | .jump => false
  | .call => false
  | _ => true

/-- At most this many branches are in the window at once. -/
def keepCheckpoints (l : List Checkpoint) : List Checkpoint := l.drop (l.length - 320)

/-- Fetch goes on past a branch on a predicted path, to `va`: the history is kept for it and moves on. -/
def State.predict (s : State) (h : HartId) (b : FetchedBranch) (va : Word) : State :=
  let x := s.hart (hartIx h)
  let off := s.predictOff h
  let c : Checkpoint :=
    { number := x.branches + 1, pc := b.pc, history := x.history, stale := (s.core (coreIx h)).clearing.isSome }
  let x := { x with branches := x.branches + 1, checkpoints := keepCheckpoints (x.checkpoints ++ [c]) }
  s.setHart (hartIx h) (if off then x else { x.trainRas b with history := nextHistory x.history b.pc va b.kind b.taken })

/-- The checkpoint of the oldest unresolved branch at an address. -/
def HartState.checkpointOf (x : HartState) (pc : Word) : Option Checkpoint := x.checkpoints.find? fun c => c.pc = pc

/-- A branch of the hart resolves: it trains the shared structures, unless OFF is 1, a clearing runs, or it was fetched before a clearing
completed (R75, R79). -/
def State.train (s : State) (h : HartId) (pc target : Word) (kind : BranchKind) (taken : Bool) : State :=
  let x := s.hart (hartIx h)
  let c := x.checkpointOf pc
  let hist := (c.map Checkpoint.history).getD x.history
  let stale := (c.map Checkpoint.stale).getD x.unfetched
  if s.predictOff h || stale then s
  else
    let k := s.core (coreIx h)
    s.setCore (coreIx h)
      { k with predictor := k.predictor.train kind { pc := pc.extractLsb' 1 38, history := hist, target := target, taken := taken } }

/-- The history after a branch has resolved against its prediction: that of its checkpoint, with what it did. -/
def HartState.rewind (x : HartState) (off : Bool) (pc target : Word) (kind : BranchKind) (taken : Bool) : HartState :=
  let hist := ((x.checkpointOf pc).map Checkpoint.history).getD x.history
  { x with history := if off then hist else nextHistory hist pc target kind taken }

end Sys2Proof.Machine
end

