-- ==== Sys2Proof/Machine/Harts.lean ====
section
/-! DEFINITION. The commands of harts, cores and caches (rows LOAD to MTIMECMP_MATCH). -/

namespace Sys2Proof.Machine

/-! ### Shared steps -/

/-- The effective hue is FREE or RESETTING: an undefined case (R51). -/
def State.hueDead (s : State) (h : BitVec 12) : Bool := s.hueLife h = .free || s.hueLife h = .resetting

/-- The hart as the next instruction finds it: a write of cqzhue that waits before it has then taken effect (R46). -/
def HartState.ahead (x : HartState) : HartState :=
  (x.waiting.map Waiting.op ++ x.front.map Fetched.op).foldl (fun y o => match o with
    | .csr n v => if n = 0x6C0 then { y with cqzhue := v &&& 0x10FFF } else y
    | _ => y) x

/-- A hart of a core and die that run. -/
def hartIf (s : State) (h : HartId) (ok : HartState → Bool) (f : HartState → State → Host.Outcome State Fault Refusal) :
    Host.Outcome State Fault Refusal :=
  live s fun s =>
    let x := s.hart (hartIx h)
    if ok x && (s.core (coreIx h)).idle = .cs0 && !s.dieStill h.die.val then f x s else .next s

/-- A running hart executes: anything else of a stopped hart is no event of the package. -/
def hartDoes (s : State) (h : HartId) (f : HartState → State → Host.Outcome State Fault Refusal) :
    Host.Outcome State Fault Refusal := hartIf s h (fun x => x.run = .running) f

/-- A hart writes a CSR: it runs, or a debugger writes it in Debug mode. -/
def hartWrites (s : State) (h : HartId) (f : HartState → State → Host.Outcome State Fault Refusal) :
    Host.Outcome State Fault Refusal := hartIf s h (fun x => x.run = .running || x.run = .debug) f

/-- A running hart makes an access (R51). -/
def hartAccess (s : State) (h : HartId) (st : HartState → Stamp) (f : HartState → State → State) :
    Host.Outcome State Fault Refusal :=
  hartDoes s h fun x s => if s.hueDead (st x.ahead).hue then .fault .deadHue else .next (f x s)

/-- Answer what the end of a reservation lets go: forwards held back, set recalls and fills, and operations of the die (R171). -/
def State.afterResv (s : State) (d : Fin 12) : State := (s.releaseHeld d).dieStir d

/-- The state after a step of a hart, which may have ended its reservation. -/
def State.settled (before after : State) (h : HartId) : State :=
  if (before.hart (hartIx h)).resv.isSome && (after.hart (hartIx h)).resv.isNone then after.afterResv h.die else after

/-- An instruction of a hart. -/
def State.run (s : State) (h : HartId) (op : HartOp) : State := s.settled (s.newOp h op) h

/-! ### Loads and stores -/

/-- LOAD. -/
def execLoad (h : HartId) (a : Access) (rd : Fin 32) (zext : Bool) (cls : LoadClass) (s : State) :
    Host.Outcome State Fault Refusal :=
  hartAccess s h (fun x => x.stamp a.hv) fun _ s => s.run h (.load a rd zext cls)

/-- STORE. A speculative store only enters the store buffer (R81, R82). -/
def execStore (h : HartId) (a : Access) (value : Word) (cls : StoreClass) (s : State) :
    Host.Outcome State Fault Refusal :=
  hartAccess s h (fun x => x.stamp a.hv) fun _ s => s.run h (.store a value cls)

/-- AMO. A misaligned one raises address-misaligned (R34). A speculative one waits (R82). -/
def execAmo (h : HartId) (a : Access) (op : AmoOp) (operand compare : BitVec 128) (rd : Fin 32) (s : State) :
    Host.Outcome State Fault Refusal :=
  hartAccess s h (fun x => x.stamp) fun _ s => s.run h (.amo a op operand compare rd)

/-- LR. -/
def execLr (h : HartId) (a : Access) (rd : Fin 32) (s : State) : Host.Outcome State Fault Refusal :=
  hartAccess s h (fun x => x.stamp) fun _ s => s.run h (.lr a rd)

/-- SC. -/
def execSc (h : HartId) (a : Access) (value : Word) (rd : Fin 32) (s : State) : Host.Outcome State Fault Refusal :=
  hartAccess s h (fun x => x.stamp) fun _ s => s.run h (.sc a value rd)

/-- LR_RESERVATION_DELAY_EXPIRY: the probe is answered, and with it the reservation ends (R171). -/
def execLrReservationDelayExpiry (h : HartId) (s : State) : Host.Outcome State Fault Refusal :=
  live s fun s =>
    let x := s.hart (hartIx h)
    match x.resv with
    | some r =>
      if r.delaying then
        .next ((s.setHart (hartIx h) { x with resv := some { r with expired := true } }).afterResv h.die)
      else .next s
    | none => .next s

/-! ### Fences (R99 to R102, R127, R37) -/

/-- FENCE. -/
def execFence (h : HartId) (s : State) : Host.Outcome State Fault Refusal :=
  hartDoes s h fun _ s => .next (s.run h .fence)

/-- FENCE.I. -/
def execFenceI (h : HartId) (s : State) : Host.Outcome State Fault Refusal :=
  hartDoes s h fun _ s => .next (s.run h .fenceI)

/-- SFENCE.VMA. -/
def execSfenceVma (h : HartId) (f : FenceArgs) (s : State) : Host.Outcome State Fault Refusal :=
  hartDoes s h fun _ s => .next (s.run h (.sfence f))

/-- HFENCE.VVMA. -/
def execHfenceVvma (h : HartId) (f : FenceArgs) (s : State) : Host.Outcome State Fault Refusal :=
  hartDoes s h fun _ s => .next (s.run h (.hfenceV f))

/-- HFENCE.GVMA. -/
def execHfenceGvma (h : HartId) (f : FenceArgs) (s : State) : Host.Outcome State Fault Refusal :=
  hartDoes s h fun _ s => .next (s.run h (.hfenceG f))

/-- SINVAL.VMA, HINVAL.VVMA, HINVAL.GVMA: they take effect no later than the next SFENCE.INVAL.IR, fence or trap (R102). -/
def execSinvalVma (h : HartId) (k : InvalKind) (f : FenceArgs) (s : State) : Host.Outcome State Fault Refusal :=
  hartDoes s h fun _ s => .next (s.run h (.sinval k f))

/-- SFENCE.W.INVAL orders older stores before younger invalidations (R102). -/
def execSfenceWInval (h : HartId) (s : State) : Host.Outcome State Fault Refusal :=
  hartDoes s h fun _ s => .next (s.run h .wInval)

/-- SFENCE.INVAL.IR orders those invalidations before younger walks and accesses (R102). -/
def execSfenceInvalIr (h : HartId) (s : State) : Host.Outcome State Fault Refusal :=
  hartDoes s h fun _ s => .next (s.run h .invalIr)

/-! ### Cache-block operations and hints (R124 to R126) -/

/-- CBO.CLEAN. -/
def execCboClean (h : HartId) (a : Access) (s : State) : Host.Outcome State Fault Refusal :=
  hartAccess s h (fun x => x.stamp) fun _ s => s.run h (.cbo .clean a)

/-- CBO.FLUSH. -/
def execCboFlush (h : HartId) (a : Access) (s : State) : Host.Outcome State Fault Refusal :=
  hartAccess s h (fun x => x.stamp) fun _ s => s.run h (.cbo .flush a)

/-- CBO.INVAL. -/
def execCboInval (h : HartId) (a : Access) (s : State) : Host.Outcome State Fault Refusal :=
  hartAccess s h (fun x => x.stamp) fun _ s => s.run h (.cbo .inval a)

/-- CBO.ZERO. -/
def execCboZero (h : HartId) (a : Access) (s : State) : Host.Outcome State Fault Refusal :=
  hartAccess s h (fun x => x.stamp) fun _ s => s.run h (.zero a)

/-- PREFETCH.R. -/
def execPrefetchR (h : HartId) (a : Access) (s : State) : Host.Outcome State Fault Refusal :=
  hartAccess s h (fun x => x.stamp) fun _ s => s.run h (.hint .r a)

/-- PREFETCH.W requests ownership only once it is no longer speculative (R82). -/
def execPrefetchW (h : HartId) (a : Access) (s : State) : Host.Outcome State Fault Refusal :=
  hartAccess s h (fun x => x.stamp) fun _ s => s.run h (.hint .w a)

/-- PREFETCH.I. -/
def execPrefetchI (h : HartId) (a : Access) (s : State) : Host.Outcome State Fault Refusal :=
  hartAccess s h (fun x => x.stamp) fun _ s => s.run h (.hint .i a)

/-! ### Fetch, branches, the predictor (R42, R71 to R83) -/

/-- Fetch on a predicted path: none follows a target that failed its checks until the prediction resolves (R83), nor goes past a branch that
OFF = 1 leaves unpredicted (R75). -/
def State.fetchAhead (s : State) (h : HartId) (va : Word) (after : Option FetchedBranch) : State :=
  if (s.hart (hartIx h)).fetchStall.isSome || (s.predictOff h && after.any predictedPast) then s
  else
    let s := match after with
      | some b => s.predict h b va
      | none => s
    let s := s.setHart (hartIx h) { s.hart (hartIx h) with unfetched := false }
    s.newOpAt h (.fetch va true) va

/-- A branch that fetch has followed resolves as it was predicted: it trains, and is on its way to retirement. With OFF = 1 a taken
conditional branch or an indirect jump redirects fetch now (R75, R484). -/
def State.branchPassed (s : State) (h : HartId) (b : FetchedBranch) (va : Word) : State :=
  let off := s.predictOff h
  let s := s.train h b.pc va b.kind b.taken
  let x := s.hart (hartIx h)
  let x := match x.checkpointOf b.pc with
    | some c => { x with checkpoints := x.checkpoints.filter fun k => c.number < k.number }
    | none => if off then x else { x.trainRas b with history := nextHistory x.history b.pc va b.kind b.taken }
  (s.setHart (hartIx h) x).newOpAt h (.branch (off && predictedPast b)) b.pc

/-- Fetch on the correct path: the pc is then `va`. -/
def State.fetchHere (s : State) (h : HartId) (va : Word) (after : Option FetchedBranch) : State :=
  let s := match after with
    | some b => s.branchPassed h b va
    | none => s
  let s := s.setHart (hartIx h) { s.hart (hartIx h) with pc := va, fetchStall := none, unfetched := false }
  s.newOpAt h (.fetch va false) va

/-- INSTRUCTION_FETCH: the fetch of the line that holds `va`, on its path. -/
def execInstructionFetch (h : HartId) (va : Word) (path : FetchPath) (s : State) : Host.Outcome State Fault Refusal :=
  hartAccess s h (fun x => x.fetchStamp) fun _ s =>
    s.settled (if path.spec then s.fetchAhead h va path.after else s.fetchHere h va path.after) h

/-- WFI: the hart stops until an enabled interrupt is pending. Its core's other hart then has its share (R42). -/
def execWfi (h : HartId) (s : State) : Host.Outcome State Fault Refusal :=
  hartDoes s h fun _ s => .next ((s.run h .wfi).advance (siblingOf h))

/-- A branch of the correct path is redirected: the younger instructions are squashed, fetch goes to the target, and it retires. -/
def State.redirect (s : State) (h : HartId) (pc target : Word) (kind : BranchKind) (taken : Bool) : State :=
  let off := s.predictOff h
  let s := (s.train h pc target kind taken).squash h
  let x := (s.hart (hartIx h)).rewind off pc target kind taken
  let s := s.setHart (hartIx h) { x with checkpoints := [] }
  let s := s.newOpAt h (.branch true) pc
  s.setHart (hartIx h) { s.hart (hartIx h) with pc := target }

/-- A branch that is itself still speculative is redirected: it trains all the same (R73), and what was fetched after it is squashed. -/
def State.redirectSpec (s : State) (h : HartId) (pc target : Word) (kind : BranchKind) (taken : Bool) : State :=
  let off := s.predictOff h
  let s := s.train h pc target kind taken
  let x := s.hart (hartIx h)
  let s := s.setHart (hartIx h) (x.rewind off pc target kind taken)
  s.squashAfter h (((x.checkpointOf pc).map Checkpoint.number).getD (x.branches + 1))

/-- BRANCH_MISPREDICT: a branch resolves against its prediction. It trains the predictor unless OFF = 1 or a clearing runs, when the hart
fetches as if OFF were 1 (R75, R79). -/
def execBranchMispredict (h : HartId) (pc target : Word) (b : ResolvedBranch) (s : State) : Host.Outcome State Fault Refusal :=
  hartDoes s h fun _ s => .next (s.settled
    (if b.spec then s.redirectSpec h pc target b.kind b.taken else s.redirect h pc target b.kind b.taken) h)

/-- CQZHUE_WRITE. -/
def execCqzhueWrite (h : HartId) (v : Word) (s : State) : Host.Outcome State Fault Refusal :=
  hartWrites s h fun _ s => .next (s.run h (.csr 0x6C0 v))

/-- CQZBPCTL_OFF_WRITE. -/
def execCqzbpctlOffWrite (h : HartId) (v : Word) (s : State) : Host.Outcome State Fault Refusal :=
  hartWrites s h fun _ s => .next (s.run h (.csr 0x5C0 (v &&& 1)))

/-- FLUSH: the write waits for the hart's older instructions, then the clearing begins; it retires once that is complete (R78). -/
def execFlush (h : HartId) (v : Word) (s : State) : Host.Outcome State Fault Refusal :=
  hartWrites s h fun _ s => .next (s.run h (.bpFlush (bit v 0)))

/-- A write of FLUSH that waited for the clearing retires, and discards what is younger (R52, R76). -/
def State.flushRetire (s : State) (h : HartId) : State :=
  let x := s.hart (hartIx h)
  let mine (w : Waiting) : Bool := match w.op with
    | .bpFlush _ => w.issued
    | _ => false
  match x.waiting.find? mine with
  | none => s
  | some w =>
    let off : Word := if w.op = .bpFlush true then 1 else 0
    let s := s.setHart (hartIx h) ({ x with waiting := x.waiting.erase w }.retire w.stamp)
    ((s.bpOffWrite h off).endDone h w).retryHart h

/-- PREDICTOR_CLEARING_DONE: the shared structures, and the history and return-address stack of each hart that the clearing
serves, are clear, and the write of each retires; a write that came after it began has a clearing of its own (R53, R78). Branches that
either hart has fetched so far train nothing (R79). -/
def execPredictorClearingDone (c : CoreId) (s : State) : Host.Outcome State Fault Refusal :=
  live s fun s =>
    let k := s.core (coreKey c)
    match k.clearing with
    | none => .next s
    | some ts =>
      let s := s.setCore (coreKey c)
        { k with predictor := {}, clearing := if k.clearAgain.isEmpty then none else some k.clearAgain, clearAgain := [] }
      let s := s.forEach (hartsOf c) fun s h =>
        let x := s.hart (hartIx h)
        let x := if ts.contains h.thread then { x with history := 0, ras := [], rasTop := 0, checkpoints := [] } else x
        s.setHart (hartIx h) { x with unfetched := true, checkpoints := x.checkpoints.map fun p => { p with stale := true } }
      .next (s.forEach (ts.map fun t => (⟨c.die, c.core, t⟩ : HartId)) fun s h => s.flushRetire h)

/-! ### cqzcachectl (R54, R55, R131 to R135) -/

/-- A write of cqzcachectl that sets FLUSH_L1I; a wider bit set with it names the flush. -/
def execFlushL1i (h : HartId) (v : Word) (s : State) : Host.Outcome State Fault Refusal :=
  hartWrites s h fun _ s => .next (s.run h (.csr 0x5C2 (v ||| 0x10)))

/-- A write of cqzcachectl that sets FLUSH_L1D. -/
def execFlushL1d (h : HartId) (v : Word) (s : State) : Host.Outcome State Fault Refusal :=
  hartWrites s h fun _ s => .next (s.run h (.csr 0x5C2 (v ||| 0x20)))

/-- A write of cqzcachectl that sets FLUSH_L2, the widest. -/
def execFlushL2 (h : HartId) (v : Word) (s : State) : Host.Outcome State Fault Refusal :=
  hartWrites s h fun _ s => .next (s.run h (.csr 0x5C2 (v ||| 0x40)))

/-- Write back and remove one line of a flush (R133). -/
def State.flushLine (s : State) (c : CoreId) (k : FlushKind) (line : Nat) : State :=
  let s := s.settleCore c line
  let x := s.core (coreKey c)
  match k with
  | .l1i => s.setCore (coreKey c) (x.dropL1i line)
  | .l1d => s.setCore (coreKey c) ((x.cleanL1d line).dropL1d line).1
  | .l2 =>
    let (x, dirty) := x.dropLine line
    (s.setCore (coreKey c) x).setDie c.die.val (((s.die c.die.val).mergeDirty line dirty).absent line x.phys.val)

/-- CACHE_FLUSH_DONE: the lines valid when the flush started are gone, their dirty data is in the next level,
FLUSH_BUSY is 0 (R133), and a hart reset that waited completes (R135). -/
def execCacheFlushDone (c : CoreId) (s : State) : Host.Outcome State Fault Refusal :=
  live s fun s =>
    let x := s.core (coreKey c)
    match x.flushing with
    | none => .next s
    | some k =>
      let s := s.forEach x.flushLines fun s l => s.flushLine c k l
      let s := s.setCore (coreKey c) { s.core (coreKey c) with flushing := none, flushLines := [], resetAfter := [] }
      .next (s.forEach (x.resetAfter.map fun t => (⟨c.die, c.core, t⟩ : HartId)) fun s h => s.resetHart h)

/-! ### Walks, miss registers, fills, timers -/

/-- WALK_READ: one page-table read of the hart's walk, after which what waited for the walk is tried again. -/
def execWalkRead (h : HartId) (s : State) : Host.Outcome State Fault Refusal :=
  live s fun s => .next (s.settled ((s.walkRead h).retryHart h) h)

/-- MISS_REGISTER_FREED: requests of the core that waited are tried again (R121). -/
def execMissRegisterFreed (c : CoreId) (_line : Nat) (s : State) : Host.Outcome State Fault Refusal :=
  live s fun s => .next (s.forEach (hartsOf c) fun s h => s.settled (s.retryHart h) h)

/-- L3_WAY_FREED. -/
def execL3WayFreed (d : Fin 12) (line : Nat) (s : State) : Host.Outcome State Fault Refusal :=
  live s fun s => .next (s.dieWayFreed d line)

/-- MTIMECMP_MATCH: the machine timer interrupt, or with Sstc the supervisor's, becomes pending (R274). -/
def execMtimecmpMatch (h : HartId) (supervisor : Bool) (s : State) : Host.Outcome State Fault Refusal :=
  live s fun s =>
    let x := s.hart (hartIx h)
    if supervisor then
      if bit (x.getCsr 0x30A) 63 then
        let s := s.reach (x.getCsr 0x14D)
        .next (s.setHart (hartIx h) (x.csrBit 0x344 5 true).wake)
      else .next s
    else
      let s := s.reach x.mtimecmp
      .next (s.setHart (hartIx h) (x.csrBit 0x344 7 true).wake)

end Sys2Proof.Machine
end

