-- ==== Sys2Proof/Machine/Hbm.lean ====
section
/-! DEFINITION. The HBM stacks (chapter 09): where a line lives, the check code, the written map, line reads and writes,
corrections and repair, patrol and the test window. -/

namespace Sys2Proof.Machine

/-! ### Where a line lives (R230) -/

/-- Offset of a line in HBM. -/
def hbmOffset (line : Nat) : Nat := line * 64 % 2 ^ 50 - 0x80000000

structure HbmLoc where
  stack : Nat
  channel : Nat
  pc : Nat
  sid : Nat
  bank : Nat
  row : Nat
  column : Nat
deriving DecidableEq, Repr

def hbmLoc (line : Nat) : HbmLoc :=
  let o := hbmOffset line
  let s := lineSlice line
  { stack := s / 4 % 2, channel := 4 * (s / 8) + s % 4,
    pc := (o / 2 ^ 11 + o / 2 ^ 17 + o / 2 ^ 24) % 2,
    sid := o / 2 ^ 35 % 4, bank := (o / 2 ^ 16 % 16) ^^^ (o / 2 ^ 20 % 16), row := o / 2 ^ 20 % 2 ^ 15,
    column := o / 2 ^ 12 % 16 }

/-- Pseudo-channel 0 to 63: stack × 32 + channel × 2 + pseudo-channel, which is UNIT of R498. -/
def HbmLoc.unit (l : HbmLoc) : Nat := l.stack * 32 + l.channel * 2 + l.pc

/-- The row's key in the correction table. -/
def HbmLoc.rowKey (l : HbmLoc) : Nat := ((l.unit * 4 + l.sid) * 16 + l.bank) * 32768 + l.row

def granuleOf (line : Nat) : Nat := hbmOffset line / 4096

/-- The line numbers of a granule of package `p`. -/
def granuleLines (p g : Nat) : List Nat :=
  let first := (p * 2 ^ 50 + 0x80000000 + g * 4096) / 64
  (List.range 64).map (first + ·)

/-! ### The check code (R232, R233) -/

/-- Times α in GF(2^8). -/
def xtime (a : Nat) : Nat := if a < 128 then 2 * a else (2 * a) ^^^ 0x11D

/-- Product in GF(2^8). -/
def gmul (a b : Nat) : Nat :=
  ((List.range 8).foldl (fun (p : Nat × Nat) i => (if b.testBit i then p.1 ^^^ p.2 else p.1, xtime p.2)) (0, a)).1

/-- α to the `k`. -/
def gexp : Nat → Nat
  | 0 => 1
  | k + 1 => xtime (gexp k)

/-- The low coefficients of g(x) = (x − α^0) … (x − α^7). -/
def genPoly : List Nat := [24, 200, 173, 239, 54, 81, 11, 255]

/-- One step of the division by g(x). -/
def checkStep (r : List Nat) (m : Nat) : List Nat :=
  let fb := m ^^^ r.getD 7 0
  List.zipWith (fun a g => a ^^^ gmul fb g) (0 :: r.take 7) genPoly

/-- The 71 message symbols of a line: data, address bytes, tag. -/
def codeMessage (line : Nat) (data : Bytes) (tag : Nat) : List Nat :=
  data.map BitVec.toNat ++ (List.range 6).map (fun k => line / 256 ^ k % 256) ++ [tag]

/-- The check bytes c0 to c7 (R232). -/
def checkBytes (line : Nat) (data : Bytes) (poison : Bool) : Bytes :=
  ((codeMessage line data (bitOf poison)).reverse.foldl checkStep (List.replicate 8 0)).map (BitVec.ofNat 8)

/-- PA[49:6], the address that the code carries. -/
def codeAddr (line : Nat) : Nat := line % 2 ^ 44

/-- The class of a read (R233), with the position and value of a corrected symbol. -/
inductive ReadClass where
  | clean
  | corrected (p e : Nat)
  | poisoned
  | poisonedCorrected (p e : Nat)
  | address
  | uncorrectable
deriving DecidableEq, Repr

/-- RESULT's encoding (R246). -/
def ReadClass.code : ReadClass → Nat
  | .clean => 0
  | .corrected _ _ => 1
  | .poisoned => 2
  | .poisonedCorrected _ _ => 3
  | .address => 4
  | .uncorrectable => 5

/-- The eight syndromes. -/
def syndromes (r : List Nat) : List Nat :=
  (List.range 8).map fun i => r.reverse.foldl (fun acc x => gmul acc (gexp i) ^^^ x) 0

/-- The position below `n` and the value of the one bad symbol that the syndromes show. -/
def singleError (s : List Nat) (n : Nat) : Option (Nat × Nat) :=
  let e := s.getD 0 0
  if e = 0 then none
  else ((List.range n).find? fun p => (List.range 8).all fun i => s.getD i 0 = gmul e (gexp (p * i % 255))).map (·, e)

/-- Decode stored bytes at an address (R233). -/
def decodeLine (line : Nat) (data check : Bytes) : ReadClass :=
  let r := check.map BitVec.toNat ++ codeMessage (codeAddr line) data 0
  let s := syndromes r
  if s.all (· = 0) then .clean
  else match singleError s 79 with
    | some (p, e) =>
      if p ≤ 71 then .corrected p e
      else if p = 78 then (if e = 1 then .poisoned else .uncorrectable)
      else .address
    | none =>
      let s' := (List.range 8).map fun i => s.getD i 0 ^^^ gexp (78 * i % 255)
      match singleError s' 72 with
      | some (p, e) => .poisonedCorrected p e
      | none => .uncorrectable

/-- Data with the symbol at a position of the codeword corrected. -/
def fixData (data : Bytes) (p e : Nat) : Bytes :=
  if p < 8 then data else splice data (p - 8) [data.getD (p - 8) 0 ^^^ BitVec.ofNat 8 e]

/-- The data delivered for a class: none stands for an unpredictable value. -/
def ReadClass.data (c : ReadClass) (data : Bytes) : Option (Bytes × Bool) :=
  match c with
  | .clean => some (data, false)
  | .corrected p e => some (fixData data p e, false)
  | .poisoned => some (data, true)
  | .poisonedCorrected p e => some (fixData data p e, true)
  | _ => none

/-! ### Stored bytes -/

/-- The stored bytes of a line. An unlisted data byte is zero, an unlisted check byte that of the line's zero codeword. -/
def State.storedLine (s : State) (line : Nat) : Bytes × Bytes :=
  let zero := checkBytes (codeAddr line) zeroLine false
  ((List.range 64).map fun i => Table.get 0 s.mem.data (line * 64 + i),
   (List.range 8).map fun i => Table.get (zero.getD i 0) s.mem.check (line * 8 + i))

/-- Store bytes for a line. -/
def State.storeRaw (s : State) (line : Nat) (data check : Bytes) : State :=
  let zero := checkBytes (codeAddr line) zeroLine false
  s.upMem fun m =>
    { m with
      data := (List.range 64).foldl (fun t i => Table.put 0 t (line * 64 + i) (data.getD i 0)) m.data
      check := (List.range 8).foldl (fun t i => Table.put (zero.getD i 0) t (line * 8 + i) (check.getD i 0)) m.check }

/-- Addresses strictly rising, from `lo` on. -/
def cellsRise : List Host.Cell → Nat → Bool
  | [], _ => true
  | (k, _) :: t, lo => decide (lo ≤ k) && cellsRise t (k + 1)

/-- What an unlisted check byte reads as. -/
def checkDefault (k : Nat) : Byte := (checkBytes (codeAddr (k / 8)) zeroLine false).getD (k % 8) 0

/-- The canonical form of the stored bytes: addresses strictly rising, and no entry equal to what an unlisted address reads as. -/
def Memory.wf (m : Memory) : Bool :=
  cellsRise m.data 0 && m.data.all (fun c => c.2 ≠ 0) && cellsRise m.check 0 && m.check.all (fun c => c.2 ≠ checkDefault c.1)

/-- Store a line as a codeword with its tag (R235). -/
def State.storeLine (s : State) (line : Nat) (data : Bytes) (poison : Bool) : State :=
  s.storeRaw line data (checkBytes (codeAddr line) data poison)

/-- Forget the stored bytes of a granule, which then reads as zeros. -/
def State.wipeGranule (s : State) (g : Nat) : State :=
  let ls := granuleLines s.pkgIx g
  let lo := ls.headD 0
  s.upMem fun m =>
    { m with data := m.data.filter fun c => !(lo * 64 ≤ c.1 && c.1 < (lo + 64) * 64)
             check := m.check.filter fun c => !(lo * 8 ≤ c.1 && c.1 < (lo + 64) * 8) }

/-- Apply symbol errors, positions 0 to 71 of the codeword, to stored bytes. -/
def withErrs (data check : Bytes) (errs : List (Nat × Byte)) : Bytes × Bytes :=
  errs.foldl (fun p e =>
    if e.1 < 8 then (p.1, splice p.2 e.1 [p.2.getD e.1 0 ^^^ e.2])
    else if e.1 < 72 then (splice p.1 (e.1 - 8) [p.1.getD (e.1 - 8) 0 ^^^ e.2], p.2)
    else p) (data, check)

def State.pcFailed (s : State) (pc : Nat) : Bool := bit s.mem.pcFailed pc

/-! ### Records (R234, R258, R498) -/

/-- INFO of an HBM record: the place, and the symbol position or 0x7F. -/
def HbmLoc.info (l : HbmLoc) (symbol : Nat) : Nat :=
  l.sid + l.bank * 4 + l.row * 64 + l.column * 2 ^ 21 + symbol * 2 ^ 25

/-- Report a read's class. -/
def State.reportRead (s : State) (line : Nat) (c : ReadClass) (hue : BitVec 12) : State :=
  let l := hbmLoc line
  match c with
  | .corrected p _ => s.logE .corrected .hbm .correctedCode l.unit (line * 64) hue (l.info p) c.code
  | .poisonedCorrected p _ => s.logE .corrected .hbm .correctedCode l.unit (line * 64) hue (l.info p) c.code
  | .address => s.logE .uncorrected .hbm .address l.unit (line * 64) hue (l.info 0x7F) c.code
  | .uncorrectable => s.logE .uncorrected .hbm .uncorrectable l.unit (line * 64) hue (l.info 0x7F) c.code
  | _ => s

/-! ### Answers of memory -/

/-- The partition whose range holds an HBM line. -/
def State.lineOwner (s : State) (line : Nat) : Option Nat :=
  if s.scopeMode = .partitioned then
    (List.range 12).find? fun p => bit (s.cfg (0x1210 + p)) 12 && bit (s.cfg (0x1220 + p)) (hbmOffset line / 2 ^ 32)
  else none

/-- Memory answers a request: the home goes on, or the no-snoop request ends (R126, R168). A masked no-snoop write is
merged into what was read, and written. -/
def State.memAnswer (s : State) (r : MemReq) (d : Bytes × Bool) : State :=
  match r.client with
  | .home k => s.homeMemory k.val r.line r.write d
  | .noSnoop txid =>
    match s.mem.noSnoop.find? fun m => m.txid = txid && m.line = r.line with
    | none => s
    | some m =>
      if m.op = .wrNS && !r.write then
        s.memReq { r with write := true, data := mergeMask d.1 m.data m.mask, poison := d.2 || m.poison }
      else
        let s := s.upMem fun x => { x with noSnoop := x.noSnoop.erase m }
        let s := if m.op = .rdNS then s.homeReply (lineSlice m.line) m .dataOnce 0 (some d)
          else s.homeReply (lineSlice m.line) m .wrDone 0 none
        s.homeUnhold (lineSlice m.line)

/-- An unpredictable value delivered as poison (R234). -/
def State.poisonAnswer (s : State) (r : MemReq) : State :=
  let (b, s) := s.takeBytes 64
  s.memAnswer r (b, true)

/-! ### Scheduling in rounds (R269) -/

def State.slotUse (s : State) (pc : Nat) (c : BitVec 3) : State :=
  s.setSlotsUsed (pc * 8 + c.toNat) (s.slotsUsed (pc * 8 + c.toNat) + 1)

/-- The request that the pseudo-channel serves next, among those that wait (R269). -/
def State.nextFor (s : State) (pc : Nat) : Option MemReq :=
  let mine := s.mem.reqs.filter fun r =>
    (s.region none (r.line * 64) = .hbm) && (hbmLoc r.line).unit = pc
  let used (r : MemReq) : Nat := s.slotsUsed (pc * 8 + r.cls.toNat)
  match mine.find? fun r => used r < s.hbmMin r.cls.toNat with
  | some r => some r
  | none => mine.find? fun r => used r < s.hbmMax r.cls.toNat

/-- The unit of a channel stop's uncore counters (R489). -/
def HbmLoc.unc (l : HbmLoc) : Nat := 80 + l.stack * 16 + l.channel

/-! ### Line reads and writes (R234, R235, R248) -/

/-- Issue a read, or answer it from the map or for a failed pseudo-channel. -/
def State.hbmRead (s : State) (r : MemReq) : State :=
  let l := hbmLoc r.line
  if s.granule (granuleOf r.line) = .clear then
    (s.uncount l.unc 0x03 1 r.hue r.cls).memAnswer r (zeroLine, false)
  else if s.pcFailed l.unit then s.poisonAnswer r
  else
    let s := s.upMem fun m => { m with reads := m.reads ++ [r] }
    let s := (s.charge r.hue 2 64 (s.lineOwner r.line)).uncount l.unc 0x01 1 r.hue r.cls
    s.slotUse l.unit r.cls

/-- Store a line of a written granule; a failed pseudo-channel discards it (R258). -/
def State.hbmPut (s : State) (line : Nat) (data : Bytes) (poison : Bool) : State :=
  let s := match s.granule (granuleOf line) with
    | .forced m => s.setGranule (granuleOf line) (.forced (m ||| BitVec.ofNat 64 (2 ^ (line % 64))))
    | _ => s
  if s.pcFailed (hbmLoc line).unit then s else s.storeLine line data poison

/-- A write to a written granule is accepted at once. -/
def State.hbmWrite (s : State) (r : MemReq) : State :=
  let l := hbmLoc r.line
  let s := s.hbmPut r.line r.data r.poison
  let s := ((s.charge r.hue 3 64 (s.lineOwner r.line)).uncount l.unc 0x02 1 r.hue r.cls).slotUse l.unit r.cls
  s.memAnswer r ([], false)

/-- The granule is being filled: its later requests wait in arrival order (R248). -/
def State.filling (s : State) (g : Nat) : Bool := s.mem.fills.any fun f => f.1 = g

def State.waitFill (s : State) (g : Nat) (r : MemReq) : State :=
  s.upMem fun m => { m with fills := m.fills.map fun f => if f.1 = g then (f.1, f.2 ++ [r]) else f }

/-- The first write to a clear granule starts its fill; the 63 zero writes use slots of its class, and it uses its own
when it is served (R248, R269). -/
def State.startFill (s : State) (g : Nat) (r : MemReq) : State :=
  let l := hbmLoc r.line
  let s := s.upMem fun m => { m with fills := m.fills ++ [(g, [r])] }
  let s := s.forEach ((List.range 64).filter (· ≠ l.unit)) fun s pc => s.slotUse pc r.cls
  s.uncount l.unc 0x04 63 r.hue r.cls

/-- The word of the map that holds a granule's bit is read: a correctable one is rewritten, an uncorrectable one set to all
ones, its never-written granules holding no codewords (R250). -/
def State.readMap (s : State) (g : Nat) : State :=
  let w := g / 64
  match s.mapErr w with
  | 0 => s
  | 1 => (s.setMapErr w 0).logE .corrected .wmap .correctedCode 0 0 0 w
  | _ =>
    let s := s.forEach (List.range 64) fun s i =>
      if s.granule (w * 64 + i) = .clear then s.setGranule (w * 64 + i) (.forced 0) else s
    (s.setMapErr w 0).logE .uncorrected .wmap .uncorrectable 0 0 0 w

/-- A line request leaves the requests on their way, and is served (R248). -/
def State.hbmServe (s : State) (r : MemReq) : State :=
  let g := granuleOf r.line
  let s := (s.upMem fun m => { m with reqs := m.reqs.erase r }).readMap g
  if s.filling g then s.waitFill g r
  else if !r.write then s.hbmRead r
  else if s.granule g = .clear then s.startFill g r
  else s.hbmWrite r

/-- A channel stop takes a request when it is this package's HBM, waits there, and the class rules let it go: a read of a
clear granule touches no stack and uses no slot. -/
def State.hbmTake (s : State) (r : MemReq) : State :=
  let free := !r.write && s.granule (granuleOf r.line) = .clear && !s.filling (granuleOf r.line) &&
    s.mapErr (granuleOf r.line / 64) ≠ 2
  if !s.mem.reqs.contains r || s.region none (r.line * 64) ≠ .hbm then s
  else if free || s.nextFor (hbmLoc r.line).unit = some r then s.hbmServe r
  else s

/-- All 64 line writes of a fill are accepted: the bit is set, and what waited is served in order (R248). -/
def State.fillDone248 (s : State) (g : Nat) : State :=
  match s.mem.fills.find? fun f => f.1 = g with
  | none => s
  | some (_, rs) =>
    let s := s.upMem fun m => { m with fills := m.fills.filter fun f => f.1 ≠ g }
    let s := (s.wipeGranule g).setGranule g .filled
    s.forEach rs fun s r => if r.write then s.hbmWrite r else s.hbmRead r

/-- The class of a stored line of a written granule, as read with errors, and the bytes. -/
def State.readStored (s : State) (line source : Nat) (errs : List (Nat × Byte)) : ReadClass × Bytes × State :=
  let (d, c) := s.storedLine source
  let (d, c) := withErrs d c errs
  match s.granule (granuleOf line) with
  | .forced m =>
    if bit m (line % 64) then (decodeLine line d c, d, s)
    else
      let (n, s) := s.takeNat
      (if n % 2 = 0 then .uncorrectable else .address, d, s)
  | _ => (decodeLine line d c, d, s)

/-- Read data returns from a stack (R234): the stored codeword of `source`, with symbol errors. -/
def State.hbmData (s : State) (r : MemReq) (source : Nat) (errs : List (Nat × Byte)) : State :=
  if !s.mem.reads.contains r then s
  else
    let l := hbmLoc r.line
    let s := s.upMem fun m => { m with reads := m.reads.erase r }
    let k := l.stack * 16 + l.channel
    let s := s.setChannel k { s.channel k with timeouts := 0, alerts := 0 }
    let (c, d, s) := s.readStored r.line source errs
    let s := s.reportRead r.line c r.hue
    match c.data d with
    | some x => s.memAnswer r x
    | none => s.poisonAnswer r

/-! ### Faults of the stacks (R258) -/

/-- Fail a channel's two pseudo-channels until the next cold Bring-up. -/
def State.failChannel (s : State) (k : Nat) : State :=
  s.forEach [2 * k, 2 * k + 1] fun s pc =>
    if s.pcFailed pc then s
    else
      let s := s.upMem fun m => { m with pcFailed := m.pcFailed ||| BitVec.ofNat 64 (2 ^ pc) }
      let s := (s.logE .uncorrected .hbm .training pc).pdrTouch
      -- reads on their way to it are answered with poison
      let mine := s.mem.reads.filter fun r => (hbmLoc r.line).unit = pc
      let s := s.upMem fun m => { m with reads := m.reads.filter fun r => (hbmLoc r.line).unit ≠ pc }
      s.forEach mine fun s r => s.poisonAnswer r

/-- Retrain a channel. Whether the retrain fails is the stack's, a free choice; three failures within 1 s fail it. -/
def State.retrainChannel (s : State) (k : Nat) : State :=
  let (n, s) := s.takeNat
  let x := s.channel k
  let x := { x with alerts := 0, timeouts := 0 }
  if n % 2 = 0 then s.setChannel k x
  else
    let recent := x.failed.filter fun t => s.now.toNat - t.toNat ≤ 100000000
    let times := recent ++ [s.now]
    let s := s.setChannel k { x with failed := times }
    if 3 ≤ times.length then s.failChannel k else s

/-- A parity alert: the command is reissued, at most twice, and the third alert retrains the channel. -/
def State.parityAlert (s : State) (ch : Fin 32) (r : MemReq) : State :=
  let l := hbmLoc r.line
  let s := s.logE .partner .hbm .parity l.unit (r.line * 64) r.hue (l.info 0x7F)
  let x := s.channel ch.val
  if x.alerts < 2 then s.setChannel ch.val { x with alerts := x.alerts + 1 } else s.retrainChannel ch.val

/-- No data within 2 µs: answered as UNCORRECTABLE; sixteen in a row retrain the channel. -/
def State.readTimeout (s : State) (r : MemReq) : State :=
  if !s.mem.reads.contains r then s
  else
    let l := hbmLoc r.line
    let k := l.stack * 16 + l.channel
    let s := s.upMem fun m => { m with reads := m.reads.erase r }
    let s := s.logE .partner .hbm .timeout l.unit (r.line * 64) r.hue (l.info 0x7F) 5
    let x := s.channel k
    let s := s.setChannel k { x with timeouts := x.timeouts + 1 }
    let s := if 16 ≤ x.timeouts + 1 then s.retrainChannel k else s
    s.poisonAnswer r

/-! ### Corrections, rewrite, row sparing (R237 to R244) -/

/-- The lines of a row: the 16 lines of one pseudo-channel in a naturally aligned 64 KiB block (R231). -/
def rowLines (line : Nat) : List Nat :=
  let base := line / 1024 * 1024
  (((List.range 1024).map (base + ·)).filter fun l => (hbmLoc l).rowKey = (hbmLoc line).rowKey)

/-- Rewrite, or move, the written lines of a row: `spare` also writes poison for lines that decode as it (R235, R240). -/
def State.rewriteRow (s : State) (line : Nat) (spare : Bool) : State :=
  s.forEach (rowLines line) fun s l =>
    if s.granule (granuleOf l) = .clear then s
    else
      let (c, d, s) := s.readStored l l []
      match c with
      | .corrected p e => s.storeLine l (fixData d p e) false
      | .poisonedCorrected p e => s.storeLine l (fixData d p e) true
      | .clean => s
      | _ => if spare then s.storeLine l d true else s

/-- A field-repair record (R244). -/
def repairRecord (l : HbmLoc) : Word :=
  BitVec.ofNat 64 (l.channel + l.stack * 16 + (l.pc + l.sid * 2 + l.bank * 16) * 256 + l.row * 65536)

/-- sPPR resources of the row's bank that are still free (R244). -/
def State.spprLeft (s : State) (l : HbmLoc) : Nat :=
  let key (w : Word) : Nat := fld w 0 16
  let mine := s.mem.repairs.filter fun w => key w = key (repairRecord l) && !bit w 32
  let spent := s.mem.spprSpent.filter fun w => key w = key (repairRecord l)
  Config.spprFree l.unit (l.sid * 16 + l.bank) - (mine.length + spent.length)

/-- Announce a row that cannot be spared (R242). -/
def State.retireRow (s : State) (line : Nat) : State :=
  let block := line * 64 / 65536 * 65536
  let l := hbmLoc line
  (s.logE .notice .hbm .exhausted l.unit block 0 (l.info 0x7F)).event 2 (leBytes 8 block)

/-- Keep at most 8,192 rows: the one corrected longest ago goes (R239). -/
def trimRows (t : Table RowState) : Table RowState :=
  if t.length ≤ 8192 then t
  else
    let oldest := t.foldl (fun (m : Option (Nat × RowState)) e => match m with
      | none => some e
      | some o => if e.2.last.toNat < o.2.last.toNat then some e else some o) none
    match oldest with
    | some o => Table.erase t o.1
    | none => t

/-- The stack does not acknowledge an sPPR (R258): the repair is abandoned and the row treated under R242. -/
def State.spprFailed (s : State) (line : Nat) : State :=
  let l := hbmLoc line
  let s := s.upMem fun m => { m with spprSpent := m.spprSpent ++ [repairRecord l] }
  (s.logE .partner .hbm .repair l.unit (line * 64) 0 (l.info 0x7F)).retireRow line

/-- A correction event (R239). Whether a stack acknowledges an sPPR is a free choice (R258). -/
def State.correction (s : State) (line : Nat) : State :=
  let l := hbmLoc line
  let cfg := s.cfg 0x0400
  let known := (Table.find s.mem.rows l.rowKey).isSome
  let r := s.row l.rowKey
  let r := if known then r else { r with first := s.now }
  let r := { r with last := s.now }
  let put (s : State) (r : RowState) : State :=
    (s.setRow l.rowKey r).upMem fun m => { m with rows := trimRows m.rows }
  if r.retired then put s r
  else
    let hours := fld cfg 24 8 * 360000000000
    let r := if hours < s.now.toNat - r.first.toNat && !r.rewritten then { r with count := 0, first := s.now } else r
    let r := { r with count := r.count + 1 }
    if !r.rewritten && fld cfg 32 8 ≤ r.count then
      let s := (s.rewriteRow line false).logE .recovered .hbm .repair l.unit (line * 64) 0 (l.info 0x7F)
      put s { r with rewritten := true, count := 0 }
    else if r.rewritten && fld cfg 40 8 ≤ r.count then
      if 0 < s.spprLeft l then
        let (n, s) := s.takeNat
        if n % 2 = 1 then put (s.spprFailed line) { r with retired := true }
        else
          let s := (s.rewriteRow line true).logE .recovered .hbm .repair l.unit (line * 64) 0 (l.info 0x7F)
          let s := s.upMem fun m => { m with repairs := m.repairs ++ [repairRecord l] }
          put s { r with rewritten := false, count := 0, first := s.now }
      else put (s.retireRow line) { r with retired := true }
    else put s r

/-- Lines of a stack in a granule, in order. -/
def State.stackLines (s : State) (stack g : Nat) : List Nat :=
  (granuleLines s.pkgIx g).filter fun l => (hbmLoc l).stack = stack

/-- The next line that a stack's patrol reads, at or after a line, going round (R243). -/
def State.patrolNext (s : State) (stack from_ : Nat) : Option Nat :=
  let at_ (g : Nat) : Option Nat := (s.stackLines stack g).find? fun l => from_ ≤ l
  match s.mem.granules.findSome? fun e => at_ e.1 with
  | some l => some l
  | none => s.mem.granules.findSome? fun e => (s.stackLines stack e.1).head?

/-- One patrol read (R243): it delivers and writes nothing. -/
def State.patrol (s : State) (stack : Nat) (errs : List (Nat × Byte)) : State :=
  if !bit (s.cfg 0x0400) 0 then s
  else match s.patrolNext stack (s.patrolAt stack) with
    | none => s
    | some line =>
      let s := s.setPatrolAt stack (line + 1)
      if s.pcFailed (hbmLoc line).unit then s
      else
        let (c, _, s) := s.readStored line line errs
        s.reportRead line c 0

/-! ### The test window (R246) -/

/-- Fill a clear granule at once, charged to nothing. -/
def State.rawFill (s : State) (g : Nat) : State :=
  if s.granule g = .clear then (s.wipeGranule g).setGranule g .filled else s

/-- The window takes a raw command: armed, from a request of hue 0, and not busy. -/
def State.rawReady (s : State) (hue : BitVec 12) : Bool :=
  s.mem.window.armed && hue = 0 && !s.mem.window.busy &&
    s.region none (s.mem.window.addr.toNat / 64 * 64) = .hbm &&
    s.mem.window.addr.toNat / 2 ^ 50 = s.pkgIx

def State.setWindow (s : State) (w : TestWindow) : State := s.upMem fun m => { m with window := w }

/-- READ_RAW: the stored bytes without correction, and the class that a read would give. -/
def State.readRawCmd (s : State) (errs : List (Nat × Byte)) : State :=
  let w := s.mem.window
  let line := w.addr.toNat / 64
  if s.granule (granuleOf line) = .clear then
    s.setWindow { w with busy := true, result := 6, data := zeroLine, check := 0 }
  else if s.pcFailed (hbmLoc line).unit then
    s.setWindow { w with busy := true, result := 5, data := zeroLine, check := 0 }
  else
    let (d, c) := s.storedLine line
    let (d, c) := withErrs d c errs
    let (k, _, s) := s.readStored line line errs
    s.setWindow { w with busy := true, result := BitVec.ofNat 3 k.code, data := d, check := BitVec.ofNat 64 (leNat c) }

/-- WRITE_RAW: DATA and CHECK stored unchanged, after the granule's fill where it is clear. -/
def State.writeRawCmd (s : State) : State :=
  let w := s.mem.window
  let line := w.addr.toNat / 64
  let s := s.rawFill (granuleOf line)
  let s := s.setWindow { w with busy := true }
  let s := match s.granule (granuleOf line) with
    | .forced m => s.setGranule (granuleOf line) (.forced (m ||| BitVec.ofNat 64 (2 ^ (line % 64))))
    | _ => s
  if s.pcFailed (hbmLoc line).unit then s else s.storeRaw line (padTo 64 w.data) (leBytes 8 w.check.toNat)

/-! ### The commands -/

/-- HBM_LINE_READ. -/
def execHbmLineRead (r : MemReq) (s : State) : Host.Outcome State Fault Refusal :=
  live s fun s => .next (if r.write then s else s.hbmTake r)

/-- HBM_LINE_WRITE. -/
def execHbmLineWrite (r : MemReq) (s : State) : Host.Outcome State Fault Refusal :=
  live s fun s => .next (if r.write then s.hbmTake r else s)

/-- HBM_READ_DATA. -/
def execHbmReadData (r : MemReq) (source : Nat) (errs : List (Nat × Byte)) (s : State) :
    Host.Outcome State Fault Refusal :=
  live s fun s => .next (s.hbmData r source errs)

/-- ZERO_FILL_DONE. -/
def execZeroFillDone (granule : Nat) (s : State) : Host.Outcome State Fault Refusal :=
  live s fun s => .next (s.fillDone248 granule)

/-- HBM_PARITY_ALERT. -/
def execHbmParityAlert (ch : Fin 32) (r : MemReq) (s : State) : Host.Outcome State Fault Refusal :=
  live s fun s => .next (s.parityAlert ch r)

/-- HBM_READ_TIMEOUT. -/
def execHbmReadTimeout (r : MemReq) (s : State) : Host.Outcome State Fault Refusal :=
  live s fun s => .next (s.readTimeout r)

/-- HBM_TEMPERATURE_REPORT: above 85 °C the stack's refresh rate is doubled (R229, R258); above 95 °C it lowers the effective
limit until it reports at most 90 °C (R461). -/
def execHbmTemperatureReport (stack : Fin 2) (celsius : Int) (s : State) : Host.Outcome State Fault Refusal :=
  live s fun s => .next (s.upPower fun p =>
    let rest := p.stackDouble.filter (· ≠ stack)
    let hot := p.stackHot.filter (· ≠ stack)
    { p with stackDouble := if 85 < celsius then rest ++ [stack] else rest,
             stackHot := if 95 < celsius || (90 < celsius && p.stackHot.contains stack) then hot ++ [stack] else hot })

/-- CORRECTION_EVENT. -/
def execCorrectionEvent (line : Nat) (_symbol : Fin 128) (s : State) : Host.Outcome State Fault Refusal :=
  live s fun s => .next (s.correction line)

/-- PATROL_STEP. -/
def execPatrolStep (stack : Fin 2) (errs : List (Nat × Byte)) (s : State) : Host.Outcome State Fault Refusal :=
  live s fun s => .next (s.patrol stack.val errs)

/-- READ_RAW. -/
def execReadRaw (hue : BitVec 12) (errs : List (Nat × Byte)) (s : State) : Host.Outcome State Fault Refusal :=
  live s fun s => .next (if s.rawReady hue then s.readRawCmd errs else s)

/-- WRITE_RAW. -/
def execWriteRaw (hue : BitVec 12) (s : State) : Host.Outcome State Fault Refusal :=
  live s fun s => .next (if s.rawReady hue then s.writeRawCmd else s)

/-- RAW_COMMAND_DONE. -/
def execRawCommandDone (s : State) : Host.Outcome State Fault Refusal :=
  live s fun s => .next (s.setWindow { s.mem.window with busy := false })

/-- HBM_ROUND: a round of a pseudo-channel ends and the next begins (R269). A class that waits at its HBM_MAX is counted. -/
def execHbmRound (pc : Fin 64) (s : State) : Host.Outcome State Fault Refusal :=
  live s fun s =>
    let held := s.mem.reqs.filter fun r =>
      s.region none (r.line * 64) = .hbm && (hbmLoc r.line).unit = pc.val &&
        s.hbmMax r.cls.toNat ≤ s.slotsUsed (pc.val * 8 + r.cls.toNat)
    let s := s.forEach held fun s r => s.uncount (hbmLoc r.line).unc 0x06 1 r.hue r.cls
    .next (s.forEach (List.range 8) fun s c => s.setSlotsUsed (pc.val * 8 + c) 0)

end Sys2Proof.Machine
end

