-- ==== Sys2Proof/Machine/Forget.lean ====
section
/-! DEFINITION. Forget queues (R252 to R257). -/

namespace Sys2Proof.Machine

def ForgetEntry.start (e : ForgetEntry) : Nat := fld e.e0 0 25
def ForgetEntry.count (e : ForgetEntry) : Nat := fld e.e0 32 25
def ForgetEntry.hue (e : ForgetEntry) : BitVec 12 := e.e1.extractLsb' 32 12
def ForgetEntry.notify (e : ForgetEntry) : Bool := bit e.e1 16
def ForgetEntry.tag (e : ForgetEntry) : Nat := fld e.e1 0 16

/-- The partition that a queue serves: in Partitioned mode, partition q has queue q. -/
def State.queuePart (s : State) (q : Nat) : Option Nat := if s.scopeMode = .partitioned then some q else none

/-- Refused with RANGE (R253). -/
def State.forgetBad (s : State) (q : Nat) (e : ForgetEntry) : Bool :=
  e.count = 0 || 25165824 < e.start + e.count ||
    (match s.queuePart q with
     | none => false
     | some p =>
       (List.range 24).any fun u =>
         e.start / 2 ^ 20 ≤ u && u ≤ (e.start + e.count - 1) / 2 ^ 20 && !bit (s.cfg (0x1220 + p)) u)

/-- The line lies in an entry's range. -/
def State.inForget (s : State) (e : ForgetEntry) (line : Nat) : Bool :=
  s.region none (line * 64) = .hbm && lineHome line = s.pkgIx &&
    e.start ≤ granuleOf line && granuleOf line < e.start + e.count

/-- The head entry of a queue is complete: HEAD, LAST and the MSI (R255). -/
def State.forgetEnd (s : State) (q : Nat) (e : ForgetEntry) (range : Bool) (msi : Bool := true) : State :=
  let f := s.forget q
  let f := { f with head := f.head + 1, running := false, entries := f.entries.drop 1,
                    last := BitVec.ofNat 64 (e.tag + (if range then 65536 else 0)) }
  let s := s.setForget q f
  if e.notify && msi then
    s.packageMsi (some f.msiAddr.toNat) (f.msiData.extractLsb' 0 32) 0 (s.queuePart q) .wmap 0 f.msiAddr
  else s

/-- Refused entries at the head of a queue complete at once. -/
def State.forgetRefused (s : State) (q : Nat) : Nat → State
  | 0 => s
  | fuel + 1 =>
    match (s.forget q).entries with
    | [] => s
    | e :: _ =>
      if (s.forget q).running || !s.forgetBad q e then s else (s.forgetEnd q e true).forgetRefused q fuel

/-- A store to the staged word ENTRY1 that writes its bytes 4 to 7 enqueues an entry, or is dropped with OVERFLOW (R252,
R254). -/
def State.forgetEnqueue (s : State) (q : Nat) (w : Word) : State :=
  let f := s.forget q
  let f := { f with entry1 := w }
  if 64 ≤ (f.tail - f.head).toNat then s.setForget q { f with overflow := true }
  else
    (s.setForget q { f with tail := f.tail + 1, entries := f.entries ++ [{ e0 := f.entry0, e1 := w }] }).forgetRefused q 65

/-- Open a sweep's transaction on a line that is not busy (R255): Inv to the holders, RecallDiscard to the owner. -/
def State.sweepLine (s : State) (k : Nat) (e : DirEntry) : State :=
  let op : Op := if e.st = .owned then .recallDiscard else .inv
  let t : Txn :=
    { line := e.line, sweep := true, after := .free,
      req := { op := op, line := e.line, src := 32 + k, dst := 32 + k, req := 32 + k },
      plan := [.issue ((holderList e.holders).map fun a => (a, op)) false] }
  let x := s.home k
  (s.setHome k { x with txns := x.txns ++ [t] }).homeGo k e.line

/-- One slice's sweep for the entries that run: the lines in range that are not busy. -/
def State.sweepSlice (s : State) (es : List ForgetEntry) (k : Nat) : State :=
  let lines : List DirEntry := ((s.home k).dir.map Prod.snd).filter fun (d : DirEntry) => es.any fun e => s.inForget e d.line
  s.forEach lines fun s d => if (s.home k).busy d.line then s else s.sweepLine k d

/-- The entries at the head of a queue, not refused, that a sweep starting now serves. -/
def State.sweepHeads (s : State) : List (Nat × ForgetEntry) :=
  (List.range 16).filterMap fun q => ((s.forget q).entries.head?).map fun e => (q, e)

/-- A sweep starts: it serves every entry at the head of every queue. -/
def State.forgetSweep (s : State) : State :=
  let hs := s.sweepHeads
  let s := s.forEach hs fun s h => s.setForget h.1 { s.forget h.1 with running := true }
  s.forEach (List.range 32) fun s k => s.sweepSlice (hs.map Prod.snd) k

/-- No directory entry, and no transaction of a sweep, is left in an entry's range. -/
def State.sweptOut (s : State) (e : ForgetEntry) : Bool :=
  (List.range 32).all fun k =>
    (s.home k).dir.all (fun d => !s.inForget e d.2.line) &&
      (s.home k).txns.all fun t => !(t.sweep && s.inForget e t.line)

/-- Clear the map bits of a range, and forget what the stacks held there. -/
def State.clearMap (s : State) (e : ForgetEntry) : State :=
  let keep (g : Nat) : Bool := !(e.start ≤ g && g < e.start + e.count)
  let lo := 0x80000000 + s.pkgIx * 2 ^ 50 + e.start * 4096
  let hi := lo + e.count * 4096
  s.upMem fun m =>
    { m with granules := m.granules.filter fun c => keep c.1
             data := m.data.filter fun c => !(lo ≤ c.1 && c.1 < hi)
             check := m.check.filter fun c => !(lo / 8 ≤ c.1 && c.1 < hi / 8) }

/-- The head entry of a queue runs to its end: the map bits, the charge of COUNT forgets, HEAD, LAST, the MSI. -/
def State.forgetFinish (s : State) (q : Nat) (e : ForgetEntry) (msi : Bool := true) : State :=
  let s := s.clearMap e
  let s := match s.chargeTo e.hue (s.queuePart q) with
    | some _ => s.charge e.hue 14 e.count (s.queuePart q)
    | none => s.charge 0 14 e.count (s.queuePart q)
  (s.forgetEnd q e false msi).forgetRefused q 65

/-! ### The commands -/

/-- A queue's page is visible: in Partitioned mode, only that of the partition's own queue (R245). -/
def queueSeen (part : Option Nat) (q : Nat) : Bool := match part with
  | some p => p = q
  | none => true

/-- A store to ENTRY1, as an image with the bits that it writes: one of bytes 4 to 7 enqueues (R252). -/
def State.entry1Write (s : State) (q : Nat) (v mask : Word) : State :=
  let w := blend (s.forget q).entry1 v mask
  if bit mask 32 then s.forgetEnqueue q w else s.setForget q { s.forget q with entry1 := w }

/-- WMAP_FORGET_ENTRY1: a store of 8 bytes, or of the upper 4. -/
def execWmapForgetEntry1 (h : HartId) (q : Fin 16) (size : Nat) (v : Word) (s : State) : Host.Outcome State Fault Refusal :=
  live s fun s =>
    if !queueSeen (s.partOfDie h.die.val) q.val then .next s
    else if size = 8 then .next (s.entry1Write q.val v (~~~ 0))
    else if size = 4 then .next (s.entry1Write q.val (v <<< 32) 0xFFFFFFFF00000000)
    else .next s

/-- FORGET_SWEEP: the entry at the head of a queue starts its sweep, with every other head; a line found busy is taken by
sweeping again once it is not. -/
def execForgetSweep (q : Fin 16) (s : State) : Host.Outcome State Fault Refusal :=
  live s fun s => .next (if (s.forget q.val).entries.isEmpty then s else s.forgetSweep)

/-- FORGET_COMPLETE: every slice has finished. -/
def execForgetComplete (q : Fin 16) (s : State) : Host.Outcome State Fault Refusal :=
  live s fun s =>
    match (s.forget q.val).entries with
    | [] => .next s
    | e :: _ => .next (if (s.forget q.val).running && s.sweptOut e then s.forgetFinish q.val e else s)

end Sys2Proof.Machine
end

