-- ==== Sys2Proof/Machine/Codec.lean ====
section
/-! DEFINITION. The compressed block format: decoding a block, and the bytes that the engine writes for one (R328 to R340). -/

namespace Sys2Proof.Machine

/-! ### Words and residues (R330 to R332) -/

/-- The prediction of the next word from the words before it, latest first; `m` is 2^(8w). -/
def predict (pred m : Nat) (rev : List Nat) : Nat :=
  let x (j : Nat) : Nat := rev.getD j 0
  if pred = 0 then x 0
  else if pred = 1 then (2 * x 0 + (m - x 1)) % m
  else if pred = 2 then x 1
  else if pred = 3 then x 3
  else x 7

/-- The zigzag value of a residue modulo `m`. -/
def zigzag (m r : Nat) : Nat := if 2 * r < m then 2 * r else 2 * (m - r) - 1

/-- The residue of a zigzag value. -/
def unzigzag (m z : Nat) : Nat := if z % 2 = 0 then z / 2 else m - (z + 1) / 2

/-- The words of `n * w` bytes. -/
def wordsOf (w : Nat) : Nat → Bytes → List Nat
  | 0, _ => []
  | n + 1, b => leNat (b.take w) :: wordsOf w n (b.drop w)

/-! ### The bit stream (R333) -/

def bitsOfNat : Nat → Nat → List Bool
  | 0, _ => []
  | n + 1, v => (v % 2 = 1) :: bitsOfNat n (v / 2)

def natOfBits : List Bool → Nat
  | [] => 0
  | b :: l => bitOf b + 2 * natOfBits l

def bitsOfBytes (b : Bytes) : List Bool := b.flatMap fun x => bitsOfNat 8 x.toNat

/-- Bits packed into bytes, the last one filled with zeros. -/
def packBits : Nat → List Bool → Bytes
  | 0, _ => []
  | n + 1, l => BitVec.ofNat 8 (natOfBits (l.take 8)) :: packBits n (l.drop 8)

/-- Read `n` bits: none past the end. -/
def readBits (n : Nat) (l : List Bool) : Option (Nat × List Bool) :=
  if l.length < n then none else some (natOfBits (l.take n), l.drop n)

/-- Read a unary prefix of at most 31 ones. -/
def readUnary : Nat → List Bool → Option (Nat × List Bool)
  | 0, l => some (0, l)
  | _ + 1, [] => none
  | n + 1, b :: l => if b then (readUnary n l).map fun p => (p.1 + 1, p.2) else some (0, l)

/-! ### Decoding (R334 to R338) -/

/-- Why a block is rejected. -/
inductive BlockFault where
  | format | crc
deriving DecidableEq, Repr

/-- `l` predicted words with residue 0. -/
def runWords (pred m : Nat) : Nat → List Nat → List Nat
  | 0, rev => rev
  | l + 1, rev => runWords pred m l (predict pred m rev :: rev)

/-- Decode the word codes of a group with `left` words to go: the words, latest first, and the bits that remain. -/
def decodeGroup (w pred k : Nat) : Nat → Nat → List Nat → List Bool → Option (List Nat × List Bool)
  | 0, _, rev, bits => some (rev, bits)
  | fuel + 1, left, rev, bits =>
    if left = 0 then some (rev, bits)
    else
      let m := 2 ^ (8 * w)
      let word (z : Nat) (bits : List Bool) : Option (List Nat × List Bool) :=
        decodeGroup w pred k fuel (left - 1) ((predict pred m rev + unzigzag m z) % m :: rev) bits
      match readUnary 31 bits with
      | none => none
      | some (q, bits) =>
        if q = 31 then
          (match readBits 6 bits with
           | none => none
           | some (l, bits) =>
             if left < l + 1 then none else decodeGroup w pred k fuel (left - (l + 1)) (runWords pred m (l + 1) rev) bits)
        else if q = 30 then
          (match readBits (8 * w) bits with
           | none => none
           | some (z, bits) => word z bits)
        else match readBits k bits with
          | none => none
          | some (r, bits) => if m ≤ q * 2 ^ k + r then none else word (q * 2 ^ k + r) bits

/-- Decode the groups of `left` words. -/
def decodeGroups (w pred kbits : Nat) : Nat → Nat → List Nat → List Bool → Option (List Nat × List Bool)
  | 0, _, rev, bits => some (rev, bits)
  | fuel + 1, left, rev, bits =>
    if left = 0 then some (rev, bits)
    else match readBits kbits bits with
      | none => none
      | some (k, bits) =>
        let n := min left 64
        match decodeGroup w pred k n n rev bits with
        | none => none
        | some (rev, bits) => decodeGroups w pred kbits fuel (left - n) rev bits

/-- Decode one block from the source bytes that are left (decode_block): the original data and CLEN. -/
def decodeBlock (b : Bytes) : Except BlockFault (Bytes × Nat) :=
  let byte (i : Nat) : Nat := (b.getD i 0).toNat
  let len := leAt b 2 2
  let clen := leAt b 4 2
  let mode := byte 1
  if b.length < 8 || byte 0 ≠ 1 || 64 ≤ mode || byte 6 ≠ 0 || byte 7 ≠ 0 || len < 1 || 4096 < len ||
      clen % 4 ≠ 0 || clen < 16 || 4108 < clen || b.length < clen then .error .format
  else
    let lim := clen - 4
    let body : Option (Bytes × Nat) :=
      if 32 ≤ mode then (if mode % 32 ≠ 0 then none else some (sub b 8 len, 8 + len))
      else
        let w := 2 ^ (mode % 4)
        let pred := mode / 4
        let n := len / w
        if 4 < pred then none
        else match decodeGroups w pred (3 + mode % 4) n n [] (bitsOfBytes (sub b 8 (lim - 8))) with
          | none => none
          | some (rev, bits) =>
            if (bits.take (bits.length % 8)).contains true then none
            else
              let pos := lim - bits.length / 8
              some (rev.reverse.flatMap (leBytes w) ++ sub b pos (len % w), pos + len % w)
    match body with
    | none => .error .format
    | some (out, pos) =>
      if lim < pos || 3 < lim - pos || (sub b pos (lim - pos)).any (· ≠ 0) then .error .format
      else if (crc32c out).toNat ≠ leAt b lim 4 then .error .crc
      else .ok (out, clen)

/-! ### Compressing (R339) -/

/-- A run of zero residues, or one other zigzag value. -/
inductive Code where
  | run (n : Nat)
  | word (z : Nat)
deriving DecidableEq, Repr

/-- The maximal runs of a group's zigzag values. -/
def codesOf : List Nat → List Code
  | [] => []
  | z :: l =>
    if z ≠ 0 then .word z :: codesOf l
    else match codesOf l with
      | .run n :: r => .run (n + 1) :: r
      | r => .run 1 :: r

/-- Bits of one code at a given k. -/
def codeCost (w k : Nat) (c : Code) : Nat := match c with
  | .run n => if 37 < n * (k + 1) then 37 else n * (k + 1)
  | .word z => if z / 2 ^ k ≤ 29 then z / 2 ^ k + 1 + k else 31 + 8 * w

def groupCost (w k : Nat) (l : List Code) : Nat := (l.map (codeCost w k)).sum

/-- The k of fewest bits, ties to the lowest. -/
def bestK (w : Nat) (l : List Code) : Nat :=
  ((List.range (8 * w)).foldl (fun (b : Nat × Nat) k =>
    let c := groupCost w k l
    if c < b.2 then (k, c) else b) (0, groupCost w 0 l)).1

/-- The bits of one code. -/
def codeBits (w k : Nat) (c : Code) : List Bool :=
  let rice (z : Nat) : List Bool := List.replicate (z / 2 ^ k) true ++ false :: bitsOfNat k (z % 2 ^ k)
  match c with
  | .run n =>
    if 37 < n * (k + 1) then List.replicate 31 true ++ bitsOfNat 6 (n - 1)
    else (List.replicate n (rice 0)).flatten
  | .word z => if z / 2 ^ k ≤ 29 then rice z else List.replicate 30 true ++ false :: bitsOfNat (8 * w) z

/-- Zigzag values of the words under a predictor. -/
def residues (pred m : Nat) : List Nat → List Nat → List Nat
  | _, [] => []
  | rev, x :: l => zigzag m ((x + (m - predict pred m rev)) % m) :: residues pred m (x :: rev) l

/-- Groups of at most 64. -/
def groupsOf : Nat → List Nat → List (List Nat)
  | 0, _ => []
  | n + 1, l => if l.isEmpty then [] else l.take 64 :: groupsOf n (l.drop 64)

/-- The bit stream of a candidate. -/
def streamBits (wcode pred : Nat) (data : Bytes) : List Bool :=
  let w := 2 ^ wcode
  let z := residues pred (2 ^ (8 * w)) [] (wordsOf w (data.length / w) data)
  (groupsOf 64 z).flatMap fun g =>
    let l := codesOf g
    let k := bestK w l
    bitsOfNat (3 + wcode) k ++ l.flatMap (codeBits w k)

/-- Zero bytes up to a multiple of four. -/
def padFour (b : Bytes) : Bytes := b ++ List.replicate ((4 - b.length % 4) % 4) 0

/-- The block that the engine writes for up to 4 KiB of input. -/
def compressBlock (wsize : Nat) (data : Bytes) : Bytes :=
  let ws := if wsize = 7 then [0, 1, 2, 3] else [wsize]
  let cands := ws.flatMap fun w => (List.range 5).map fun p => (w, p, streamBits w p data)
  let cost (c : Nat × Nat × List Bool) : Nat := c.2.2.length + 8 * (data.length % 2 ^ c.1)
  let best := cands.foldl (fun (b : Option (Nat × Nat × List Bool)) c => match b with
    | some x => if cost c < cost x then some c else b
    | none => some c) none
  let wrap (mode : Nat) (body : Bytes) : Bytes :=
    let body := padFour body
    leBytes 1 1 ++ leBytes 1 mode ++ leBytes 2 data.length ++ leBytes 2 (body.length + 12) ++ [0, 0] ++ body ++
      leBytes 4 (crc32c data).toNat
  let raw := wrap 32 data
  match best with
  | none => raw
  | some (w, p, bits) =>
    let t := data.length % 2 ^ w
    let coded := wrap (p * 4 + w) (packBits ((bits.length + 7) / 8) bits ++ data.drop (data.length - t))
    if coded.length < raw.length then coded else raw

end Sys2Proof.Machine
end

