-- ==== Sys2Proof/Machine/IoAgent.lean ====
section
/-! DEFINITION. The I/O agent (chapter 14): device requests, the CXL.cache group with its snoop filter, port containment and
fencing. -/

namespace Sys2Proof.Machine

/-! ### Root ports (R350, R366, R367) -/

/-- Bit numbers of the advanced error reporting status that this model names. -/
inductive Aer where
  | poisoned | timeout | ca | ur | unexpected | overflow | malformed | surprise
deriving DecidableEq, Repr

/-- The bit's number in the Uncorrectable Error Status register, as PCI Express publishes it. -/
def Aer.bit : Aer → Nat
  | .surprise => 5
  | .poisoned => 12
  | .timeout => 14
  | .ca => 15
  | .unexpected => 16
  | .overflow => 17
  | .malformed => 18
  | .ur => 20

/-- Log a partner fault of a device, and set the status bit of its port (R367, R498). -/
def State.portError (s : State) (r : Nat) (src : ErrSource) (why : ErrReason) (rid : Nat) (b : Option Aer)
    (hue : BitVec 12 := 0) (addr : Nat := 0) : State :=
  let p := s.rootPort r
  let s := match b with
    | some b => s.setRootPort r { p with aer := p.aer ||| BitVec.ofNat 32 (2 ^ b.bit) }
    | none => s
  s.logE .partner src why r addr hue rid (match b with
    | some b => b.bit
    | none => 0xFFFFFFFF)

/-- Containment, when Downstream Port Containment is enabled. -/
def State.contain (s : State) (r : Nat) : State :=
  let p := s.rootPort r
  if p.dpcEnabled then s.setRootPort r { p with link := .contained } else s

/-- Answer a hart's failed read of a port by ERR_RESP (R350). A failed write is discarded, and answered where it waits. -/
def State.portFail (s : State) (r : Nat) (q : PortReq) (why : ErrReason) (b : Aer) : State :=
  let s := s.portError r .pcie why ((s.rootPort r).buses.1 * 256) (some b) 0 (q.pa / 64 * 64)
  let ans : IoAnswer :=
    if q.write then .ack
    else if bit (s.cfg (0x0900 + r)) 7 then .error 1
    else .data (BitVec.ofNat 64 (2 ^ (8 * q.size) - 1)) false
  s.upFab fun f => { f with ioAnswers := f.ioAnswers ++ [(q.hart, ans)] }

/-- Answer every outstanding hart request of a port, and discard the posted writes it holds. -/
def State.portFlush (s : State) (r : Nat) (why : ErrReason) : State :=
  let p := s.rootPort r
  let s := s.setRootPort r { p with requests := [], waiting := [], postedWrites := [], forwarded := [] }
  s.forEach (p.requests ++ p.waiting) fun s q => s.portFail r q why .surprise

/-- Discard the completions owed to a port's device and its writes that have not reached a home. -/
def State.dropInbound (s : State) (r : Nat) : State :=
  s.upHub fun h =>
    { h with inbound := (h.inbound.filter fun i => !(i.port.val = r && !i.sent)).map fun i =>
        if i.port.val = r then { i with squashed := true } else i }

/-- Shift an outbound byte for a slot: bits of `mask` from `v` (R357). -/
def State.slotOut (s : State) (r : Nat) (mask v : Byte) : State :=
  let p := s.rootPort r
  s.setRootPort r { p with outByte := (p.outByte &&& ~~~ mask) ||| (v &&& mask) }

/-- Fence the root port of a CXL device (R366): the link is held idle, and PERST_N goes low. The device's violation is logged as
R508 gives it, with the line concerned. -/
def State.fencePort (s : State) (r : Nat) (why : ErrReason) (line : Nat := 0) (hue : BitVec 12 := 0) : State :=
  let p := s.rootPort r
  if p.link = .fenced then s
  else
    let s := s.setRootPort r { p with link := .fenced, insStep := 0 }
    let s := (s.slotOut r 0x04 0).logE .partner .cxl why r (line * 64) hue (p.buses.1 * 256) 0xFFFFFFFF (fence := true)
    ((s.portFlush r .fenced).dropInbound r).pdrTouch

/-! ### Requests of the I/O agent to homes -/

/-- A message of the I/O agent to a line's home. -/
def State.ioMsg (s : State) (op : Op) (line : Nat) (txid : BitVec 12) (hue : BitVec 12) : Msg :=
  { op := op, line := line, src := 12, dst := s.homeAgent line, req := 12, txid := txid, hue := hue, cls := s.classOf 12 hue }

/-- The identifiers of the I/O agent's transactions that are open or whose answer may be late (R192). -/
def State.ioTxids (s : State) : List (BitVec 12) :=
  s.hub.inbound.flatMap (fun i => i.lines.map Prod.fst) ++ s.hub.cacheReqs.filterMap (fun c => c.sent.map Prod.snd) ++
    s.hub.ioLate.map Prod.fst

/-- The next transaction identifier. -/
def State.takeTxid (s : State) : BitVec 12 × State :=
  let t := freshTxid s.ioTxids s.hub.ioTxid 4096
  (t, s.upHub fun h => { h with ioTxid := t + 1 })

/-! ### DMA (R351 to R355) -/

/-- The bytes of a request that it enables. -/
def dmaEnabled (r : DmaReq) (i : Nat) : Bool := 64 < r.len || bit r.enable i

/-- Bytes of one operand of an AtomicOp: the payload of a CAS holds two. -/
def dmaOperand (r : DmaReq) : Nat := match r.kind with
  | .atomic op => if op = 3 then r.len / 2 else r.len
  | _ => r.len

/-- Answer a request that is refused: UR for a non-posted one. A posted one is discarded. -/
def State.dmaRefuse (s : State) (port : Fin 32) (r : DmaReq) (st : CplStatus) : State :=
  if r.kind = .write then s
  else s.upHub fun h =>
    { h with toDevice := h.toDevice ++
        [{ port := port, rid := r.rid, tag := r.tag, status := st, ep := false, addr := r.addr, data := [] }] }

/-- The IOMMU of a port translates an address (R352): with the directory mode Off every request faults, with Bare the address
is its own translation, and with a table mode the tables in memory give it, as the command says. -/
def State.iommuXlat (s : State) (inst : Nat) (addr : Nat) (xlat : Option Nat) : Option Nat :=
  let ddtp := Table.get 0 (s.iommu inst).regs 0x10
  if fld ddtp 0 4 = 0 then none else if fld ddtp 0 4 = 1 then some addr else xlat

/-- The instance's fault queue takes a record (R352): while it is on, and unless it is full. The fault interrupt becomes pending with
an MSI of its vector. The record stands in State, not in memory (log entry 36). -/
def State.iommuFault (s : State) (inst : Nat) (rid : BitVec 16) (addr : Nat) : State :=
  let m := s.iommu inst
  let reg (o : Nat) : Word := Table.get 0 m.regs o
  let q := reg 0x30
  let next := (fld q 32 32 + 1) % 2 ^ (fld (reg 0x28) 0 5 + 1)
  if !bit (reg 0x48) 48 then s
  else
    let full := next = fld q 0 32
    let regs := if full then Table.put 0 m.regs 0x48 (putFld (reg 0x48) 41 1 1)
      else Table.put 0 m.regs 0x30 (putFld q 32 32 next)
    let irq := bit (reg 0x48) 33
    let regs := if irq then Table.put 0 regs 0x50 (putFld (reg 0x50) 33 1 1) else regs
    let s := s.setIommu inst { m with regs := regs, faults := if full then m.faults else m.faults ++ [(rid, addr)] }
    let k := fld (reg 0x2F8) 4 4
    if irq && !bit (reg 0x50) 33 && !bit (reg (0x308 + 16 * k)) 32 then
      s.upFab fun f => { f with msis := f.msis ++
        [{ pa := (reg (0x300 + 16 * k)).toNat, size := 4, value := BitVec.ofNat 64 (fld (reg (0x308 + 16 * k)) 0 32), hue := 0 }] }
    else s

/-- The binding that a request takes (R354). -/
def State.bindingOf (s : State) (part : Option Nat) (rid : BitVec 16) (pasid : Option (BitVec 20)) : Option Binding :=
  let key := part.getD 0
  match s.hub.bindings.find? fun b => b.part = key && b.rid = rid && b.pasid.isSome && b.pasid = pasid with
  | some b => some b
  | none => s.hub.bindings.find? fun b => b.part = key && b.rid = rid && b.pasid.isNone

/-- The hue of a request: none where R280 answers it. -/
def State.dmaHue (s : State) (part : Option Nat) (rid : BitVec 16) (pasid : Option (BitVec 20)) : Option (BitVec 12) :=
  match s.bindingOf part rid pasid with
  | none => some 0
  | some b =>
    match b.hue with
    | none => none
    | some h => if s.hueLife h = .draining || s.hueLife h = .resetting then none else some h

/-- The uncore unit of a port's group (R489). -/
def groupUnit (r : Nat) : Nat := 112 + r / 4

/-- The lines of a range of bytes: line, offset in the line, offset in the range, bytes. -/
def lineParts (pa len : Nat) : List (Nat × Nat × Nat × Nat) :=
  (List.range ((pa % 64 + len + 63) / 64)).map fun i =>
    let lo := if i = 0 then pa else (pa / 64 + i) * 64
    let hi := min (pa + len) ((pa / 64 + i + 1) * 64)
    (lo / 64, lo % 64, lo - pa, hi - lo)

/-- Send the line requests of a device request (R351 step 4). -/
def State.dmaSend (s : State) (i : Inbound) : State :=
  let r := i.req
  let s := s.upHub fun h => { h with inbound := h.inbound.filter fun j => j ≠ i }
  let keep (s : State) (i : Inbound) : State := s.upHub fun h => { h with inbound := h.inbound ++ [i] }
  if i.msi then
    s.upFab fun f => { f with msis := f.msis ++
      [{ pa := i.pa, size := r.len, value := BitVec.ofNat 64 (leNat r.data), hue := i.hue }] }
  else
    let (s, lines) := (lineParts i.pa (dmaOperand r)).foldl (fun (p : State × List (BitVec 12 × Nat)) q =>
      let (s, lines) := p
      let (line, off, at_, n) := q
      let (t, s') := s.takeTxid
      let mask := (List.range n).foldl (fun m k => if dmaEnabled r (at_ + k) then m + 2 ^ (off + k) else m) 0
      let m := s.ioMsg .rdOnce line t i.hue
      let unit := groupUnit i.port.val
      match r.kind with
      | .read =>
        let op : Op := if r.noSnoop then .rdNS else .rdOnce
        ((s'.send { m with op := op }).uncount unit 0x01 1 i.hue m.cls, lines ++ [(t, line)])
      | .write =>
        if mask = 0 then (s, lines)
        else
          let data := splice zeroLine off (sub r.data at_ n)
          let op : Op := if r.noSnoop then .wrNS else if mask = 2 ^ 64 - 1 then .wrFull else .wrPart
          let byteMask : Word := if op = .wrFull then 0 else BitVec.ofNat 64 mask
          ((s'.send { m with op := op, data := data, poison := r.ep, mask := byteMask }).uncount unit 0x02 1 i.hue
            m.cls, lines ++ [(t, line)])
      | .atomic op =>
        let data := splice (padTo 64 r.data) atomOffset [BitVec.ofNat 8 off]
        let size : BitVec 2 := if n = 4 then 0 else if n = 8 then 1 else 2
        (s'.send { m with op := .atomIO, data := data, poison := r.ep, atomop := op, size := size },
          lines ++ [(t, line)])) (s, [])
    if lines.isEmpty then s else keep s { i with sent := true, lines := lines, tmo := s.hubReqTmo }

/-- Send what the ordering rules let go (R353): a request goes once every posted write that its port received before it has
been accepted. -/
def State.dmaPump (s : State) (port : Fin 32) : Nat → State
  | 0 => s
  | fuel + 1 =>
    let mine := s.hub.inbound.filter fun i => i.port = port
    let held := mine.any fun i => i.sent && i.posted
    match mine.find? fun i => !i.sent with
    | none => s
    | some i =>
      if held then s else (s.dmaSend i).dmaPump port fuel

def State.dmaGo (s : State) (port : Fin 32) : State := s.dmaPump port (s.hub.inbound.length + 1)

/-- A request that passed its checks waits for its turn. -/
def State.dmaTake (s : State) (i : Inbound) : State :=
  (s.upHub fun h => { h with inbound := h.inbound ++ [i] }).dmaGo i.port

/-- The enabled bytes form one naturally aligned unit of 4 or 8 (R272). -/
def dmaMsiForm (r : DmaReq) (pa : Nat) : Bool :=
  (r.len = 4 || r.len = 8) && pa % r.len = 0 && (List.range r.len).all fun i => dmaEnabled r i

/-- A device request arrives at its root port (R351). -/
def State.dmaArrive (s : State) (port : Fin 32) (r : DmaReq) : State :=
  let p := s.rootPort port.val
  let part := s.partOfPort port.val
  let rid := r.rid.toNat
  if !s.isPort port.val || p.link ≠ .up then s
  else if 4096 < r.addr % 4096 + r.len then
    (s.portError port.val .pcie .malformed rid (some .malformed)).contain port.val
  else if p.acs.getLsbD 0 && !(p.buses.1 ≤ rid / 256 && rid / 256 ≤ p.buses.2) then
    (s.portError port.val .pcie .unsupported rid (some .ur)).dmaRefuse port r .ur
  else match s.iommuXlat port.val r.addr r.xlat with
    | none => (s.iommuFault port.val r.rid r.addr).dmaRefuse port r .ur
    | some pa =>
      match s.dmaHue part r.rid r.pasid with
      | none =>
        (s.logE .discard .pcie .discard port.val (pa / 64 * 64) 0 rid 0xFFFFFFFF).dmaRefuse port r .ur
      | some hue =>
        let refuse (s : State) : State := s.dmaRefuse port r .ur
        match s.region part pa with
        | .control _ =>
          if r.kind = .write && s.msiPage part pa then
            if dmaMsiForm r pa then
              s.dmaTake { port := port, req := r, pa := pa, hue := hue, posted := false, msi := true }
            else s.portError port.val .pcie .unsupported rid none hue pa
          else refuse s
        | .pcie =>
          (match r.kind, s.portAt part (pa % 2 ^ 50) with
           | .atomic _, _ => refuse (s.portError port.val .pcie .unsupported rid (some .ur))
           | _, none => refuse s
           | _, some t =>
             let q := s.rootPort t
             if q.link = .up then s.setRootPort t { q with forwarded := q.forwarded ++ [r] } else refuse s)
        | .hbm => take s pa hue part
        | .cxl => take s pa hue part
        | _ =>
          (match r.kind with
           | .atomic _ => refuse (s.portError port.val .pcie .unsupported rid (some .ur))
           | _ => refuse s)
where
  /-- Main memory: an operand of an AtomicOp lies in one line. -/
  take (s : State) (pa : Nat) (hue : BitVec 12) (part : Option Nat) : State :=
    let bytes := ((List.range r.len).filter fun i => dmaEnabled r i).length
    let s := if r.kind = .write then s.charge hue 6 bytes part else s
    s.dmaTake { port := port, req := r, pa := pa, hue := hue, posted := r.kind = .write }

/-- The last answer of a device request: a read's completions, one to a line, in address order (R353). -/
def State.dmaEnd (s : State) (i : Inbound) : State :=
  let r := i.req
  let s := s.upHub fun h => { h with inbound := h.inbound.filter fun j => j ≠ i }
  let s :=
    if r.kind = .write || i.squashed then s
    else if i.failed then s.dmaRefuse i.port r .ca
    else
      let part := s.partOfPort i.port.val
      s.forEach (lineParts i.pa (dmaOperand r)) fun s q =>
        let (line, off, at_, n) := q
        let (d, poison) := ((i.got.find? fun g => g.1 = line).map Prod.snd).getD (zeroLine, true)
        let (d, s) := if poison then s.takeBytes n else (sub d off n, s)
        let s := s.upHub fun h => { h with toDevice := h.toDevice ++
          [{ port := i.port, rid := r.rid, tag := r.tag, status := .sc, ep := poison, addr := r.addr + at_, data := d }] }
        s.charge i.hue 7 n part
  s.dmaGo i.port

/-- An answer for a line of a device request: its data, its acceptance, or an error. -/
def State.dmaAnswer (s : State) (i : Inbound) (m : Msg) : State :=
  let i' := { i with lines := i.lines.erase (m.txid, m.line) }
  let i' := if m.op = .dataOnce then { i' with got := i'.got ++ [(m.line, m.data, m.poison)] }
    else if m.op = .error then { i' with failed := true } else i'
  let s := if m.op = .error then
      s.portError i.port.val .pcie (flagReason m.flag) i.req.rid.toNat none i.hue (m.line * 64)
    else s
  let s := s.upHub fun h => { h with inbound := h.inbound.map fun j => if j = i then i' else j }
  if i'.lines.isEmpty then s.dmaEnd i' else s

/-! ### The CXL.cache group (R364, R365) -/

/-- The hue of a CXL.cache device's own requests: what R354 gives it without a PASID. -/
def State.cacheHue (s : State) (r : Nat) : BitVec 12 :=
  (s.dmaHue (s.partOfPort r) (BitVec.ofNat 16 ((s.rootPort r).buses.1 * 256)) none).getD 0

def portBit (r : Nat) : BitVec 32 := BitVec.ofNat 32 (2 ^ r)

/-- The ports that a filter entry names, but for one. -/
def FilterEntry.others (f : FilterEntry) (r : Nat) : List (Fin 32) :=
  (List.finRange 32).filter fun p => f.holders.getLsbD p.val && p.val ≠ r

def State.dropFilter (s : State) (line r : Nat) : State :=
  match s.filterAt line with
  | none => s
  | some f =>
    let h := f.holders &&& ~~~ portBit r
    s.setFilterAt line (if h = 0 then none else some { f with holders := h })

/-- Replace a device request. -/
def State.setCache (s : State) (c c' : CacheReq) : State :=
  s.upHub fun h => { h with cacheReqs := h.cacheReqs.map fun e => if e = c then c' else e }

def State.endCache (s : State) (c : CacheReq) : State :=
  s.upHub fun h => { h with cacheReqs := h.cacheReqs.erase c }

/-- Answer the device. -/
def State.cacheAns (s : State) (c : CacheReq) (grant : Option (BitVec 2)) (d : Bytes × Bool) (failed : Bool := false) : State :=
  s.upHub fun h => { h with cacheOut := h.cacheOut ++
    [{ port := c.port, line := c.line, grant := grant, data := d.1, poison := d.2, failed := failed }] }

/-- Send a device request to its line's home. -/
def State.cacheSend (s : State) (c : CacheReq) (op : Op) (d : Option (Bytes × Bool)) : State :=
  let (t, s) := s.takeTxid
  let m := s.ioMsg op c.line t c.hue
  let s := s.setCache c { c with started := true, sent := some (op, t), tmo := s.hubReqTmo, data := d }
  s.send { m with data := (d.map Prod.fst).getD [], poison := (d.map Prod.snd).getD false }

/-- Snoop devices of the group for one of its own requests. -/
def State.cacheSnoop (s : State) (c : CacheReq) (ports : List (Fin 32)) (takes : Bool) : State :=
  (s.setCache c { c with started := true }).upHub fun h =>
    { h with snoops := h.snoops ++ [{ line := c.line, msg := none, ports := ports, took := ports.foldl (fun m p => m ||| portBit p.val) 0, takes := takes }] }

/-- What a request becomes once no other device of the group has to be snooped: `dirty` is what a snoop returned. -/
def State.cacheHome (s : State) (c : CacheReq) (dirty : Option Bytes) : State :=
  let e := s.filterAt c.line
  let shared := e.any fun f => !f.owned
  match c.dev, dirty with
  | .rdShared, some b =>
    ((s.setFilterAt c.line (some { holders := portBit c.port.val, owned := true })).cacheAns c (some 2) (b, false)).endCache c
  | .rdOwn, some b =>
    ((s.setFilterAt c.line (some { holders := portBit c.port.val, owned := true })).cacheAns c (some 2) (b, false)).endCache c
  | .rdCurr, some b => (s.cacheAns c none (b, false)).endCache c
  | .rdShared, none => s.cacheSend c .rdS none
  | .rdOwn, none => s.cacheSend c (if shared then .upg else .rdO) none
  | .rdCurr, none => s.cacheSend c .rdOnce none
  | .clFlush, d => (s.setFilterAt c.line none).cacheSend c .cmoFlush (d.map fun b => (b, false))
  | .dirtyEvict, _ => s.cacheSend c .wbData c.data
  | .itoMWr, _ => s.cacheSend c .wrFull c.data
  | .cleanEvict, _ => s.endCache c

/-- The snoop filter's lines (R364). -/
def filterSize : Nat := 262144

/-- Begin a device request. -/
def State.cacheBegin (s : State) (c : CacheReq) : State :=
  let e := s.filterAt c.line
  let others := (e.map fun f => f.others c.port.val).getD []
  let owned := e.any fun f => f.owned
  if c.victim then s
  else match c.dev with
  | .dirtyEvict =>
    let last := e.any fun f => f.holders = portBit c.port.val
    let s := s.dropFilter c.line c.port.val
    if last then s.cacheHome c none else s.endCache c
  | .cleanEvict => (s.dropFilter c.line c.port.val).endCache c
  | .itoMWr => s.cacheHome c none
  | .clFlush =>
    let all := (e.map fun f => f.others 32).getD []
    if all.isEmpty then s.cacheHome c none else s.cacheSnoop c all true
  | .rdCurr => if owned && !others.isEmpty then s.cacheSnoop c others false else s.cacheHome c none
  | .rdShared =>
    if owned && !others.isEmpty then s.cacheSnoop c others true else room s c
  | .rdOwn => if !others.isEmpty then s.cacheSnoop c others true else room s c
where
  /-- A line new to a full filter first evicts the lowest line that no request or snoop is busy with. -/
  room (s : State) (c : CacheReq) : State :=
    if (s.filterAt c.line).isSome || s.hub.filter.length < filterSize then s.cacheHome c none
    else
      let busy (l : Nat) : Bool := s.hub.cacheReqs.any (·.line = l) || s.hub.snoops.any (·.line = l)
      match s.hub.filter.find? fun f => !busy f.1 with
      | some (l, some f) =>
        s.upHub fun h =>
          { h with cacheReqs := h.cacheReqs ++
                     [{ port := c.port, line := l, dev := .clFlush, hue := c.hue, started := true, victim := true }],
                   snoops := h.snoops ++ [{ line := l, msg := none, ports := f.others 32, takes := true }] }
      | _ => s

/-- Begin the requests that no earlier request or snoop of their line holds back. -/
def State.cacheGo (s : State) : State :=
  s.forEach s.hub.cacheReqs fun s c =>
    let first := (s.hub.cacheReqs.find? fun e => e.line = c.line) = some c
    if !c.started && first && !s.hub.snoops.any (·.line = c.line) then s.cacheBegin c else s

/-- A device request arrives at the I/O agent. -/
def State.cacheArrive (s : State) (port : Fin 32) (line : Nat) (dev : DevOp) (data : Option Bytes) : State :=
  let p := s.rootPort port.val
  if !s.isPort port.val || p.link ≠ .up || s.portMode port.val ≠ 2 || !p.cxl then s
  else
    let c : CacheReq :=
      { port := port, line := line, dev := dev, hue := s.cacheHue port.val, data := data.map fun b => (b, false) }
    (s.upHub fun h => { h with cacheReqs := h.cacheReqs ++ [c] }).cacheGo

/-- Send an answer of the I/O agent to a home or a requester. -/
def State.ioReply (s : State) (m : Msg) : State := s.send { m with src := 12 }

/-- The combined answer to a forward (R365): HIT with data when a device gave dirty data, MISS otherwise. -/
def State.ioCombine (s : State) (m : Msg) (d : Option (Bytes × Bool)) : State :=
  let flagged (op : Op) (f : BitVec 2) : Msg := { reply m op m.src with flag := f }
  let carry (op : Op) (dst : Nat) (f : BitVec 2) (d : Bytes × Bool) : Msg :=
    { reply m op dst with flag := f, data := d.1, poison := d.2 }
  match m.op, d with
  | .fwdS, some d => (s.ioReply (carry .data m.req 0 d)).ioReply (carry .fwdAckData m.src 1 d)
  | .fwdO, some d => (s.ioReply (carry .data m.req 2 d)).ioReply (flagged .fwdAck 1)
  | .fwdSnap, some d => (s.ioReply (carry .dataOnce m.req 0 d)).ioReply (flagged .fwdAck 1)
  | .fwdClean, some d => s.ioReply (carry .fwdAckData m.src 1 d)
  | .recall, some d => s.ioReply (carry .recallAckData m.src 0 d)
  | .recall, none => s.ioReply (flagged .recallAck 0)
  | .inv, _ => s.ioReply (flagged .invAck 0)
  | .recallDiscard, _ => s.ioReply (flagged .invAck 0)
  | .fwdS, none => s.ioReply (flagged .fwdAck 0)
  | .fwdO, none => s.ioReply (flagged .fwdAck 0)
  | .fwdSnap, none => s.ioReply (flagged .fwdAck 0)
  | .fwdClean, none => s.ioReply (flagged .fwdAck 0)
  | _, _ => s

/-- The forwards that take a line from the group: SnpInv (R365). -/
def snpInv (o : Op) : Bool := o = .fwdO || o = .inv || o = .recall || o = .recallDiscard

/-- The filter after a forward: a snoop that takes the line, or an answer of MISS, leaves the group without it. -/
def State.filterAfter (s : State) (m : Msg) (hit : Bool) : State :=
  if snpInv m.op || !hit then s.setFilterAt m.line none
  else if m.op = .fwdS then
    s.setFilterAt m.line ((s.filterAt m.line).map fun f => { f with owned := false })
  else s

/-- A forward reaches the I/O agent. A port that is fenced answers FENCED (R366). -/
def State.ioForward (s : State) (m : Msg) : State :=
  let buffered := s.hub.cacheReqs.findSome? fun c =>
    if c.line = m.line && (c.sent.any fun q => q.1 = .wbData) then c.data else none
  match buffered, s.filterAt m.line with
  | some d, _ => s.ioCombine m (some d)
  | none, none => s.ioCombine m none
  | none, some f =>
    let ports := f.others 32
    if ports.isEmpty then (s.filterAfter m false).ioCombine m none
    else if ports.any fun p => (s.rootPort p.val).link = .fenced then
      (s.setFilterAt m.line none).ioReply { reply m .error m.src with flag := 2 }
    else
      s.upHub fun h => { h with snoops := h.snoops ++
        [{ line := m.line, msg := some m, ports := ports, takes := snpInv m.op }] }

/-- A set recovery that waited for the devices goes on when none of them holds a line (R365). -/
def State.cxlSettle (s : State) : State :=
  if s.cxlHolds then s
  else s.forEach (List.range 32) fun s k =>
    let x := s.home k
    if x.recov.any (·.cxlWait) then
      (s.setHome k { x with recov := x.recov.map fun r => { r with cxlWait := false } }).homeSettle k
    else s

/-- Every device has answered a snoop. -/
def State.snoopDone (s : State) (w : SnoopWait) : State :=
  let s := s.upHub fun h => { h with snoops := h.snoops.erase w }
  let s := match w.msg with
    | some m =>
      let d := w.dirty.map fun b => (b, false)
      (s.filterAfter m d.isSome).ioCombine m d
    | none =>
      -- what is left of the group's right is the requester's own copy
      let own (f : FilterEntry) : FilterEntry :=
        { f with holders := f.holders &&& ~~~ w.took }
      let s := if w.takes then s.setFilterAt w.line ((s.filterAt w.line).map own) else s
      (match s.hub.cacheReqs.find? fun (c : CacheReq) => c.line = w.line && c.started && c.sent.isNone with
       | none => s
       | some c =>
         if c.victim then
           let s := s.setFilterAt w.line none
           (match w.dirty with
            | some b => s.cacheSend c .wbData (some (b, false))
            | none => s.endCache c)
         else
           s.cacheHome c w.dirty)
  (s.cacheGo).cxlSettle

/-- A device answers a snoop; an answer to a snoop that was not sent is dropped (R367). -/
def State.snoopAnswer (s : State) (port : Fin 32) (line : Nat) (dirty : Option Bytes) : State :=
  match s.hub.snoops.find? fun w => w.line = line && w.ports.contains port with
  | none => s.portError port.val .cxl .unexpected ((s.rootPort port.val).buses.1 * 256) (some .unexpected) 0 (line * 64)
  | some w =>
    let w' := { w with ports := w.ports.filter (· ≠ port),
                       dirty := match dirty with
                         | some b => some b
                         | none => w.dirty }
    let s := s.upHub fun h => { h with snoops := h.snoops.map fun v => if v = w then w' else v }
    if w'.ports.isEmpty then s.snoopDone w' else s

/-- The devices that leave a snoop of a line unanswered are fenced (R367); the home answers for them (R173). -/
def State.snoopExpire (s : State) (line : Nat) : State :=
  match s.hub.snoops.find? fun w => w.line = line && w.msg.isSome with
  | none => s
  | some w =>
    let s := s.upHub fun h => { h with snoops := h.snoops.erase w }
    let s := s.forEach w.ports fun s p => s.fencePort p.val .timeout line
    (s.setFilterAt line none).cacheGo

/-! ### Answers to the I/O agent -/

/-- Data, DataOnce, Grant, WbAck, CmoDone, WrDone or Error answers a request of the I/O agent, or none. -/
def State.ioTake (s : State) (m : Msg) : State :=
  match s.hub.inbound.find? fun i => i.lines.contains (m.txid, m.line) with
  | some i =>
    if (m.op = .dataOnce && i.req.kind ≠ .write) || (m.op = .wrDone && i.req.kind = .write) || m.op = .error then
      s.dmaAnswer i m
    else s.dropMsg (lineSlice m.line) .home m
  | none =>
    match s.hub.cacheReqs.find? fun c => c.line = m.line && (c.sent.map Prod.snd) = some m.txid with
    | none => s.dropMsg (lineSlice m.line) .home m
    | some c =>
      let op : Op := (c.sent.map Prod.fst).getD .rdS
      let me := portBit c.port.val
      let ack (s : State) : State := s.ioReply { reply m .compAck (s.homeAgent m.line) with req := 12 }
      let s' : Option State := match m.op with
        | .data =>
          if op = .rdS || op = .rdO || op = .upg then
            let holders := if m.flag = 0 then ((s.filterAt m.line).map FilterEntry.holders).getD 0 ||| me else me
            some ((((ack s).setFilterAt m.line (some { holders := holders, owned := m.flag ≠ 0 })).cacheAns c (some m.flag)
              (m.data, m.poison)).endCache c)
          else none
        | .grant =>
          if op = .upg then
            some ((((ack s).setFilterAt m.line (some { holders := me, owned := true })).cacheAns c (some 1) ([], false)).endCache c)
          else none
        | .dataOnce => if op = .rdOnce then some ((s.cacheAns c none (m.data, m.poison)).endCache c) else none
        | .wbAck => if op = .wbData then some (s.endCache c) else none
        | .cmoDone => if op = .cmoFlush then some (s.endCache c) else none
        | .wrDone => if op = .wrFull then some (s.endCache c) else none
        | .error =>
          some (((s.portError c.port.val .cxl (flagReason m.flag) ((s.rootPort c.port.val).buses.1 * 256) none c.hue
            (m.line * 64)).cacheAns c none ([], true) true).endCache c)
        | _ => none
      match s' with
      | some s => (s.cacheGo).cxlSettle
      | none => s.dropMsg (lineSlice m.line) .home m

/-- An answer reaches the I/O agent: a late one is dropped and logged, and its reservation is free (R192). -/
def State.ioAnswer (s : State) (m : Msg) : State :=
  if s.hub.ioLate.contains (m.txid, m.line) then
    (s.upHub fun h => { h with ioLate := h.ioLate.erase (m.txid, m.line) }).dropMsg (lineSlice m.line) .home m
  else s.ioTake m

/-- A request of the I/O agent for a line has had no answer (R190): it answers itself, and the answer it is owed is late. -/
def State.ioExpire (s : State) (line : Nat) : State :=
  let dma := s.hub.inbound.findSome? fun i => (i.lines.find? fun t => t.2 = line).map Prod.fst
  let cache := s.hub.cacheReqs.findSome? fun c => if c.line = line then c.sent.map Prod.snd else none
  match dma.or cache with
  | some t =>
    (s.ioTake { op := .error, line := line, src := 12, dst := 12, req := 12, txid := t }).upHub fun h =>
      { h with ioLate := h.ioLate ++ [(t, line)] }
  | none => s

end Sys2Proof.Machine
end

