-- ==== Sys2Proof/Machine/Lines.lean ====
section
/-! DEFINITION. Coherent line accesses that the model makes whole within one step: those of the compression engine (R318)
and of Mordant's buffers (R303, R524). DESIGN CHOICE, log entry 32. -/

namespace Sys2Proof.Machine

/-! ### The newest copy of a line -/

/-- The dies' copies of a line, the one in M first. -/
def State.dieCopies (s : State) (line : Nat) : List L3Line :=
  let l := (List.range 12).filterMap fun d => ((s.die d).findL3 line).map Prod.snd
  l.filter (·.st = .m) ++ l.filter (·.st ≠ .m)

/-- A message on its way that carries a copy of the line. -/
def carriesCopy (line : Nat) (m : Msg) : Bool :=
  m.line = line && m.data.length = 64 &&
    [Op.data, .dataOnce, .fwdAckData, .recallAckData, .wbData].contains m.op

/-- The newest copy of a line outside memory, the dies' cores having been probed. -/
def State.newest (s : State) (line : Nat) : Option (Bytes × Bool) :=
  let x := s.home (lineSlice line)
  let held := (s.dieCopies line).map fun l => (l.data, l.poison)
  let wbs := (List.range 12).filterMap fun d => ((s.die d).findWb line).map fun w => (w.data, w.poison)
  let open_ := (x.txns.filter fun t => t.line = line).filterMap Txn.data
  let msgs := ((s.fab.net ++ x.wbs.map WbTrk.msg ++ x.wbHeldBack).filter (carriesCopy line)).map fun m => (m.data, m.poison)
  let owed := ((s.mem.reqs ++ s.mem.fills.flatMap Prod.snd).filter fun r => r.line = line && r.write).map
    fun r => (r.data, r.poison)
  (held ++ wbs ++ open_ ++ msgs ++ owed.reverse).head?

/-- The line as memory holds it: HBM under its written map and code (R234, R249), or CXL memory, which this model does not
hold. A read of a stack is charged to the hue. -/
def State.fromMemory (s : State) (line : Nat) (hue : BitVec 12) : (Bytes × Bool) × State :=
  if s.region none (line * 64) = .hbm && lineHome line = s.pkgIx then
    let l := hbmLoc line
    let s := s.readMap (granuleOf line)
    if s.granule (granuleOf line) = .clear then ((zeroLine, false), s.uncount l.unc 0x03 1 hue (s.classOf 17 hue))
    else if s.pcFailed l.unit then
      let (b, s) := s.takeBytes 64
      ((b, true), s)
    else
      let s := (s.charge hue 2 64 (s.lineOwner line)).uncount l.unc 0x01 1 hue (s.classOf 17 hue)
      let (c, d, s) := s.readStored line line []
      let s := s.reportRead line c hue
      match c.data d with
      | some x => (x, s)
      | none =>
        let (b, s) := s.takeBytes 64
        ((b, true), s)
  else
    let (b, s) := s.takeBytes 64
    let (n, s) := (s.charge hue 4 64).takeNat
    ((b, n % 2 = 1), s)

/-- The home answers Error: nothing decodes there, or its slice is fenced (R191). -/
def State.lineError (s : State) (part : Option Nat) (line : Nat) : Bool :=
  !(s.region part (line * 64)).isMemory || (lineHome line = s.pkgIx && (s.home (lineSlice line)).fenced)

/-- Read a line (RdOnce): its newest copy with POISON, or none for Error. -/
def State.snapLine (s : State) (part : Option Nat) (line : Nat) (hue : BitVec 12) : Option (Bytes × Bool) × State :=
  if s.lineError part line then (none, s)
  else
    let s := s.forEach (List.finRange 12) fun s d => s.probeCores d line false none
    match s.newest line with
    | some x => (some x, s)
    | none =>
      let (x, s) := s.fromMemory line hue
      (some x, s)

/-! ### Writing a line -/

/-- Merge bytes into one copy. -/
def L1Line.poke (line : Nat) (f : Bytes → Bytes) (l : L1Line) : L1Line := if l.line = line then { l with data := f l.data } else l

/-- Every copy of the line that a core, a die or a message holds is rewritten. -/
def State.mapCopies (s : State) (line : Nat) (f : Bytes → Bytes) : State :=
  let one (m : Msg) : Msg := if carriesCopy line m then { m with data := f m.data } else m
  let s := s.forEach (s.fab.cores.map Prod.fst) fun s k =>
    let c := s.core k
    s.setCore k
      { c with
        l1d := c.l1d.map fun e => (e.1, L1Line.poke line f e.2)
        l1i := c.l1i.map fun e => (e.1, L1Line.poke line f e.2)
        l2 := c.l2.map fun e => (e.1, if e.2.line = line then { e.2 with data := f e.2.data } else e.2) }
  let s := s.forEach (List.range 12) fun s d =>
    let x := s.die d
    s.setDie d
      { x with
        l3 := x.l3.map fun e => (e.1, if e.2.line = line then { e.2 with data := f e.2.data } else e.2)
        wb := x.wb.map fun w => if w.line = line then { w with data := f w.data } else w
        miss := x.miss.map fun n => { n with filled := n.filled.map one } }
  let k := lineSlice line
  let x := s.home k
  let s := s.setHome k
    { x with
      txns := x.txns.map fun t => if t.line = line then { t with data := t.data.map fun p => (f p.1, p.2) } else t
      wbs := x.wbs.map fun w => { w with msg := one w.msg }
      wbHeldBack := x.wbHeldBack.map one }
  let req (r : MemReq) : MemReq := if r.line = line && r.write then { r with data := f r.data } else r
  let s := s.upMem fun m => { m with reqs := m.reqs.map req, fills := m.fills.map fun g => (g.1, g.2.map req) }
  s.upFab fun b => { b with net := b.net.map one }

/-- The granule of a line that is to be written: a fill under way ends first, and a clear granule is filled with zeros
(R248). -/
def State.readyGranule (s : State) (line : Nat) (hue : BitVec 12) : State :=
  let g := granuleOf line
  let s := if s.filling g then s.fillDone248 g else s
  let s := s.readMap g
  if s.granule g = .clear then
    ((s.wipeGranule g).setGranule g .filled).uncount (hbmLoc line).unc 0x04 63 hue (s.classOf 17 hue)
  else s

/-- The copies of a line go, as WrFull and WrPart make them go, unless a transaction of the line is open: their dirty data is
written back, and the line's directory entry becomes Free (R155). -/
def State.takeCopies (s : State) (line : Nat) : State :=
  let k := lineSlice line
  if (s.home k).busy line || (List.range 12).any fun d => ((s.die d).findMiss line).isSome then
    s.forEach (List.finRange 12) fun s d => s.endResv d (List.finRange 22) line none
  else
    let s := s.forEach (List.finRange 12) fun s d =>
      let (s, dirty) := (s.endResv d (List.finRange 22) line none).evictL3 d line
      match dirty with
      | some (b, p) =>
        if s.region none (line * 64) = .hbm && lineHome line = s.pkgIx then (s.readyGranule line 0).hbmPut line b p else s
      | none => s
    let x := s.home k
    (s.setHome k { x with dir := x.dir.filter fun e => e.2.line ≠ line }).setFilterAt line none

/-- A write to the memory of this package. -/
def State.pokeMemory (s : State) (line : Nat) (f : Bytes → Bytes) (whole : Bool) (hue : BitVec 12) : State :=
  if s.region none (line * 64) = .hbm && lineHome line = s.pkgIx then
    let l := hbmLoc line
    let s := s.readyGranule line hue
    let s := (s.charge hue 3 64 (s.lineOwner line)).uncount l.unc 0x02 1 hue (s.classOf 17 hue)
    if whole then s.hbmPut line (f zeroLine) false
    else
      let ((d, p), s) := s.fromMemory line hue
      s.hbmPut line (f d) p
  else s.charge hue 5 64

/-- Write bytes at an offset of a line (WrFull, WrPart): false for Error. -/
def State.pokeLine (s : State) (part : Option Nat) (line off : Nat) (b : Bytes) (hue : BitVec 12) : Bool × State :=
  if s.lineError part line then (false, s)
  else
    let f (old : Bytes) : Bytes := splice old off b
    let s := (s.takeCopies line).mapCopies line f
    (true, s.pokeMemory line f (b.length = 64) hue)

/-! ### Runs of bytes -/

/-- Read the bytes `[pa, pa + len)`: the bytes, whether a line was poisoned, and whether a home answered Error. -/
def State.snap (s : State) (part : Option Nat) (pa len : Nat) (hue : BitVec 12) : (Bytes × Bool × Bool) × State :=
  (lineParts pa len).foldl (fun (p : (Bytes × Bool × Bool) × State) e =>
    match p.2.snapLine part e.1 hue with
    | (some (d, q), s) => ((p.1.1 ++ sub d e.2.1 e.2.2.1, p.1.2.1 || q, p.1.2.2), s)
    | (none, s) => ((p.1.1 ++ List.replicate e.2.2.1 0, p.1.2.1, true), s)) (([], false, false), s)

/-- Write bytes from `pa` on: false when a home answered Error. -/
def State.poke (s : State) (part : Option Nat) (pa : Nat) (b : Bytes) (hue : BitVec 12) : Bool × State :=
  (lineParts pa b.length).foldl (fun (p : Bool × State) e =>
    let (ok, s) := p.2.pokeLine part e.1 e.2.1 (sub b e.2.2.2 e.2.2.1) hue
    (p.1 && ok, s)) (true, s)

/-! ### Mordant's buffers (R524) -/

/-- Some byte of the buffer is not main memory of the issuer, or the buffer is smaller than the command's minimum. -/
def State.bufferBad (s : State) (iss : Issuer) (buf len least : Nat) : Bool :=
  len < least || 2 ^ 52 ≤ buf + len || !(lineParts buf len).all fun e => (s.region (s.issPart iss) (e.1 * 64)).isMemory

/-- A buffer access of a command met Error or poison: PARTNER, with a record (R504, R524). -/
def State.bufferFault (s : State) (iss : Issuer) (buf : Nat) : State :=
  (s.logE .uncorrected .mbx .poisonConsumed (issIx iss) buf).respond iss stPartner []

/-- Write a command's result to its buffer, then go on with `f`; or answer PARTNER. -/
def State.bufferWrite (s : State) (iss : Issuer) (buf : Nat) (b : Bytes) (f : State → Option Bytes × State) :
    Option Bytes × State :=
  match s.poke (s.issPart iss) buf b 0 with
  | (true, s) => f s
  | (false, s) => (none, s.bufferFault iss buf)

end Sys2Proof.Machine
end

