-- ==== Sys2Proof/Machine/Engine.lean ====
section
/-! DEFINITION. The compression engine and its queues (chapter 12). -/

namespace Sys2Proof.Machine

/-! ### Descriptors (R312 to R314) -/

/-- The bytes of a job's cells, its head first. -/
def State.cellBytes (s : State) (l : List Nat) : List Bytes := l.map fun i => match s.cell i with
  | some c => c.bytes
  | none => zeroLine

/-- FLAGS.CHAIN of a cell. -/
def chained (b : Bytes) : Bool := (b.getD 1 0).getLsbD 1

/-- The segments of one kind: IOVA and length. -/
def segsOf (cells : List Bytes) (dst : Bool) : List (Nat × Nat) :=
  match cells with
  | [] => []
  | h :: rest =>
    (if dst then (leAt h 16 8, leAt h 32 8) else (leAt h 8 8, leAt h 24 8)) ::
      rest.flatMap fun b =>
        if ((b.getD 2 0) = 1) = dst then
          (List.range (b.getD 3 0).toNat).map fun i => (leAt b (16 + 16 * i) 8, leAt b (24 + 16 * i) 8)
        else []

def segTotal (l : List (Nat × Nat)) : Nat := (l.map Prod.snd).sum

/-- A job that completes with BAD_DESC. -/
def badDesc (cells : List Bytes) : Bool :=
  let zero (b : Bytes) (off n : Nat) : Bool := (sub b off n).all (· = 0)
  let lens (l : List (Nat × Nat)) : Bool := l.all fun e => 1 ≤ e.2 && e.2 ≤ 2 ^ 40
  match cells with
  | [] => true
  | h :: rest =>
    let op := h.getD 0 0
    let ws := (h.getD 2 0).toNat
    let headOk := (op = 1 && (ws ≤ 3 || ws = 7)) || (op = 2 && ws = 0)
    let segOk := rest.all fun b =>
      b.getD 0 0 = 0x10 && (b.getD 1 0) &&& 0xFD = 0 && b.getD 2 0 ≤ 1 && 1 ≤ (b.getD 3 0).toNat && (b.getD 3 0).toNat ≤ 3 &&
        zero b 4 12
    !headOk || (h.getD 1 0) &&& 0xF8 ≠ 0 || !zero h 3 1 || !zero h 40 24 || !segOk || 16 < cells.length ||
      !lens (segsOf cells false) || !lens (segsOf cells true) ||
      2 ^ 40 < segTotal (segsOf cells false) || 2 ^ 40 < segTotal (segsOf cells true)

/-! ### Job data (R307, R320 to R323) -/

/-- The runs of a stream's bytes `[off, off + n)`, none crossing a page: IOVA and length. -/
def runsOf : List (Nat × Nat) → Nat → Nat → List (Nat × Nat)
  | [], _, _ => []
  | (a, len) :: l, off, n =>
    if len ≤ off then runsOf l (off - len) n
    else if n = 0 then []
    else
      let k := min n (len - off)
      let lo := a + off
      ((List.range ((lo % 4096 + k + 4095) / 4096)).map fun i =>
        let from_ := if i = 0 then lo else (lo / 4096 + i) * 4096
        (from_, min (lo + k) ((lo / 4096 + i + 1) * 4096) - from_)) ++ runsOf l 0 (n - k)

/-- What the IOMMU of the integrated endpoints gives for an IOVA (R352). -/
def State.ceXlat (s : State) (xlat : List (Nat × Nat)) (iova : Nat) : Option Nat :=
  s.iommuXlat 32 iova ((xlat.find? fun e => e.1 = iova / 4096).map fun e => e.2 * 4096 + iova % 4096)

/-- The requester ID of the engine (R343). -/
def ceRid : BitVec 16 := 0x0080

/-- Where a run of bytes lies. -/
inductive CePlace where
  | memory (pa : Nat)
  | peer (port : Nat)
  | fault | bad
deriving DecidableEq, Repr

def State.cePlace (s : State) (k : Nat) (xlat : List (Nat × Nat)) (iova : Nat) : CePlace :=
  match s.ceXlat xlat iova with
  | none => .fault
  | some pa =>
    match s.region (s.partOfHue k) pa with
    | .hbm => .memory pa
    | .cxl => .memory pa
    | .pcie => (match s.portAt (s.partOfHue k) (pa % 2 ^ 50) with
      | some r => if (s.rootPort r).link = .up then .peer r else .bad
      | none => .bad)
    | _ => .bad

/-- Read runs: the bytes, and the status that ends the job: none, or DMA_FAULT 4, XLATE_FAULT 5, POISON 6. -/
def State.ceRead (s : State) (k : Nat) (hue : BitVec 12) (xlat : List (Nat × Nat)) :
    List (Nat × Nat) → (Option Nat × Bytes) × State
  | [] => ((none, []), s)
  | (iova, n) :: l =>
    match s.cePlace k xlat iova with
    | .fault => ((some 5, []), s.iommuFault 32 ceRid iova)
    | .bad => ((some 4, []), s)
    | .peer _ =>
      let (b, s) := s.takeBytes n
      let ((st, rest), s) := State.ceRead s k hue xlat l
      ((st, b ++ rest), s)
    | .memory pa =>
      let ((b, poison, err), s) := s.snap (s.partOfHue k) pa n hue
      if err then ((some 4, []), s)
      else if poison then ((some 6, []), s)
      else
        let ((st, rest), s) := State.ceRead s k hue xlat l
        ((st, b ++ rest), s)

/-- Write runs. Writes to a peer are posted. -/
def State.ceWrite (s : State) (k : Nat) (hue : BitVec 12) (xlat : List (Nat × Nat)) :
    List (Nat × Nat) → Bytes → Option Nat × State
  | [], _ => (none, s)
  | (iova, n) :: l, b =>
    match s.cePlace k xlat iova with
    | .fault => (some 5, s.iommuFault 32 ceRid iova)
    | .bad => (some 4, s)
    | .peer r =>
      let p := s.rootPort r
      State.ceWrite (s.setRootPort r { p with postedWrites := p.postedWrites ++ [((s.ceXlat xlat iova).getD 0, b.take n)] })
        k hue xlat l (b.drop n)
    | .memory pa =>
      match s.poke (s.partOfHue k) pa (b.take n) hue with
      | (true, s) => State.ceWrite s k hue xlat l (b.drop n)
      | (false, s) => (some 4, s)

/-! ### Cells and queues (R310, R315, R316) -/

def poolCells : Nat := 65024

/-- The lowest free cell of the pool beyond those of the mailboxes (R371). -/
def State.freeCell (s : State) (k : Nat) : Nat → Nat
  | 0 => k
  | n + 1 => if (s.cell k).isNone then k else s.freeCell (k + 1) n

def State.freeCells (s : State) (l : List Nat) : State := s.forEach l fun s i => s.setCell i none

/-- Every cell of a slice. -/
def SliceState.cells (x : SliceState) : List Nat := x.unreleased.flatMap Prod.snd ++ x.jobs.flatMap Job.cells ++ x.part

/-- A pointer, a link or a cell of the slice fails its check (R316). -/
def State.sliceBroken (s : State) (k : Nat) : Bool :=
  let x := s.slice k
  x.ptrBad || x.cells.any fun i => match s.cell i with
    | some c => c.owner ≠ k || c.bad
    | none => true

/-- A job ends with a status. -/
def Job.finish (j : Job) (st detail : Nat) : Job := { j with status := some (st, detail), running := none, stop := none }

/-- Stop a job: at once when no pipeline runs it, and otherwise at its next block boundary. -/
def Job.halt (j : Job) (st : Nat) : Job :=
  if j.status.isSome then j else if j.running.isNone then j.finish st 0 else { j with stop := some st }

def SliceState.running (x : SliceState) : Nat := (x.jobs.filter fun j => j.running.isSome).length

/-- The last steps of a queue reset or an unbind, once nothing runs and every record is written. -/
def State.sliceSettle (s : State) (k : Nat) : State :=
  let x := s.slice k
  let s :=
    if x.st = .qreset && x.running = 0 && x.jobs.isEmpty then
      let held := (x.tail - x.head).toNat
      ((s.freeCells x.cells).setSlice k
        { x with st := .bound, part := [], unreleased := List.replicate held (1, []), ptrBad := false,
                 credits := x.creditsBound - BitVec.ofNat 8 held,
                 qresets := if x.qresets = 0xFF then 0xFF else x.qresets + 1 }).logE
        .notice .cpool .queueIntegrity k
    else if x.st = .qreset && x.running = 0 then
      s.setSlice k { x with jobs := x.jobs.map fun j => j.halt 3 }
    else s
  let x := s.slice k
  match x.unbinding with
  | some iss =>
    if x.st = .bound && x.jobs.isEmpty then
      let s := (s.freeCells x.cells).setSlice k {}
      (match iss with
       | some i => s.respond i stOk []
       | none => s)
    else s
  | none => s

/-- A queue reset starts, unless an unbind absorbs it (R316, R326). -/
def State.queueReset (s : State) (k : Nat) : State :=
  let x := s.slice k
  if x.st ≠ .bound || x.unbinding.isSome then s
  else
    (s.setSlice k { x with st := .qreset, jobs := x.jobs.map fun j => if j.running.isSome then j.halt 3 else j }).sliceSettle k

/-- A job is submitted: its last cell is enqueued (R310). Jobs of a draining or resetting hue are aborted (R280). -/
def State.submit (s : State) (k : Nat) : State :=
  let x := s.slice k
  let cells := s.cellBytes x.part
  let life := s.hueLife x.hue
  let j : Job :=
    { seq := x.nextSeq, cells := x.part, submitted := s.now, order := ((cells.headD []).getD 1 0).getLsbD 2 }
  let dead := life = .draining || life = .resetting
  let j := if dead then j.halt 1 else if badDesc cells then j.halt 10 else j
  let s := if dead then s.logE .discard .ce .discard k 0 x.hue 0 x.nextSeq.toNat else s
  s.setSlice k { x with part := [], jobs := x.jobs ++ [j], open_ := x.open_ ++ [x.nextSeq], nextSeq := x.nextSeq + 1 }

/-- Enqueue a cell built from the staged words (R310). -/
def State.enqueue (s : State) (k : Nat) : State :=
  let x := s.slice k
  if x.credits = 0 then s.setSlice k { x with overrun := true }
  else
    let b := (List.range 8).flatMap fun n => leBytes 8 (Table.get 0 x.desc n).toNat
    let i := s.freeCell 512 (s.hub.cells.length + 1)
    let s := s.setCell i (some { bytes := b, owner := k })
    let s := match x.cells.getLast? with
      | some p => s.setCell p ((s.cell p).map fun (c : Cell) => { c with link := BitVec.ofNat 16 i })
      | none => s
    let s := s.setSlice k { x with credits := x.credits - 1, part := x.part ++ [i] }
    if chained b then s else s.submit k

/-- A store to a staging word (R310): `size` bytes at byte `off` of SLC_DESC0–7; a store of bytes 4 to 7 of the last enqueues. -/
def State.stage (s : State) (k off size : Nat) (v : Word) : State :=
  let x := s.slice k
  if x.st = .unbound then s
  else
    let n := off / 8
    let old := Table.get 0 x.desc n
    let w := if size = 8 then v else putFld old (8 * (off % 8)) 32 (fld v 0 32)
    let s := s.setSlice k { x with desc := Table.put 0 x.desc n w }
    if n = 7 && (size = 8 || off % 8 = 4) then s.enqueue k else s

/-- SLC_DESC7. -/
def execSlcDesc7 (slice : Fin 4096) (size : Nat) (high : Bool) (v : Word) (s : State) : Host.Outcome State Fault Refusal :=
  live s fun s =>
    if size = 8 && !high then .next (s.stage slice.val 56 8 v)
    else if size = 4 then .next (s.stage slice.val (if high then 60 else 56) 4 v)
    else .next s

/-- A write of HEAD releases the cells of the records it passes (R309, R315). -/
def State.releaseTo (s : State) (k : Nat) (h : BitVec 16) : State :=
  let x := s.slice k
  if x.st = .unbound then s
  else if (x.tail - x.head).toNat < (h - x.head).toNat then s.setSlice k { x with badHead := true }
  else
    let n := (h - x.head).toNat
    let gone := x.unreleased.take n
    (s.freeCells (gone.flatMap Prod.snd)).setSlice k
      { x with head := h, unreleased := x.unreleased.drop n,
               credits := x.credits + BitVec.ofNat 8 ((gone.map Prod.fst).sum) }

/-- SLC_CQ_HEAD. -/
def execSlcCqHead (slice : Fin 4096) (v : Word) (s : State) : Host.Outcome State Fault Refusal :=
  live s fun s => .next (s.releaseTo slice.val (v.extractLsb' 0 16))

/-- Abort a slice's jobs (R311): with `squash` the status is SQUASHED and only running jobs stop. During a queue reset every
job ends with it (R326). -/
def State.abortJobs (s : State) (k st : Nat) : State :=
  let x := s.slice k
  if x.st ≠ .bound then s
  else
    (s.freeCells x.part).setSlice k
      { x with part := [], credits := x.credits + BitVec.ofNat 8 x.part.length, jobs := x.jobs.map fun j => j.halt st }

/-- ABORT. -/
def execAbort (slice : Fin 4096) (v : Word) (s : State) : Host.Outcome State Fault Refusal :=
  live s fun s => if bit v 0 then .next (s.abortJobs slice.val 1) else .next s

/-! ### Commands (R308) -/

/-- A slice and a hue are the issuer's. -/
def State.sliceScope (s : State) (iss : Issuer) (k : Nat) (hue : Nat) : Bool :=
  match s.issPart iss with
  | some p => 4096 ≤ k || 4096 ≤ hue || (s.partOfHue k = some p && (hue = 0 || s.partOfHue hue = some p))
  | none => true

/-- Cells that bound slices reserve. -/
def State.cellsReserved (s : State) : Nat := (s.hub.slices.map fun e => e.2.creditsBound.toNat).sum

/-- CE_SLICE_BIND. -/
def execCeSliceBind (iss : Issuer) (c : CmdCell) (s : State) : Host.Outcome State Fault Refusal :=
  liveMordant s fun s =>
    let k := CmdCell.at_ c 0 2
    let hue := CmdCell.at_ c 2 2
    let pasid := CmdCell.at_ c 4 4
    let credits := CmdCell.at_ c 8 1
    let loge := CmdCell.at_ c 9 1
    let ring := CmdCell.at_ c 16 8
    let life := s.hueLife (BitVec.ofNat 12 hue)
    let bad := 2 ^ 20 ≤ pasid || credits = 0 || loge < 6 || 16 < loge || 2 ^ loge < credits ||
      ring % 4096 ≠ 0
    .next <| s.command iss c 0x0C00 (· = 36) [] (s.sliceScope iss k hue)
      (rangeElse (4096 ≤ k || 4096 ≤ hue)
        (status bad stRange ++ status ((s.slice k).st ≠ .unbound || !(life = .bound || life = .active)) stState ++
          status (poolCells < s.cellsReserved + credits) stFull)) fun s =>
        (some [], s.setSlice k
          { st := .bound, pasid := BitVec.ofNat 20 pasid, hue := BitVec.ofNat 12 hue, creditsBound := BitVec.ofNat 8 credits,
            logE := loge, ring := BitVec.ofNat 64 ring, msiAddr := BitVec.ofNat 64 (CmdCell.at_ c 24 8),
            msiData := BitVec.ofNat 32 (CmdCell.at_ c 32 4), credits := BitVec.ofNat 8 credits })

/-- CE_SLICE_UNBIND: answered when no job of the slice is left. -/
def execCeSliceUnbind (iss : Issuer) (c : CmdCell) (s : State) : Host.Outcome State Fault Refusal :=
  liveMordant s fun s =>
    let k := CmdCell.at_ c 0 2
    .next <| s.command iss c 0x0C01 (· = 2) [] (s.sliceScope iss k 0)
      (rangeElse (4096 ≤ k) (status ((s.slice k).st = .unbound) stState)) fun s =>
        let s := s.abortJobs k 1
        (none, (s.setSlice k { s.slice k with unbinding := some (some iss) }).sliceSettle k)

def sliceCode (st : SliceSt) : Nat := match st with
  | .unbound => 0 | .bound => 1 | .qreset => 2

/-- CE_SLICE_QUERY. -/
def execCeSliceQuery (iss : Issuer) (c : CmdCell) (s : State) : Host.Outcome State Fault Refusal :=
  liveMordant s fun s =>
    let k := CmdCell.at_ c 0 2
    .next <| s.command iss c 0x0C02 (· = 2) [] (s.sliceScope iss k 0) (status (4096 ≤ k) stRange) fun s =>
      let x := s.slice k
      (some (leBytes 2 (sliceCode x.st) ++ leBytes 2 x.hue.toNat ++ leBytes 4 x.pasid.toNat ++ [x.creditsBound, 0] ++
        leBytes 2 x.cells.length ++ leBytes 2 x.running ++ leBytes 2 x.nextSeq.toNat ++ [x.qresets, x.credits]), s)

/-! ### Selection and pre-emption (R317, R318) -/

/-- CE_PRI of a slice's class. -/
def State.slicePri (s : State) (x : SliceState) : Nat := s.cePri (s.classOf 13 x.hue).toNat

/-- The effective priority of a job. -/
def State.jobPri (s : State) (x : SliceState) (j : Job) : Nat :=
  if j.aged || j.submitted.toNat + 2 ^ fld (s.cfg 0x0700) 8 5 * 100 ≤ s.now.toNat then 7 else s.slicePri x

/-- The candidates of a slice, an ORDER job only with no job before it. -/
def State.candidates (s : State) (e : Nat × SliceState) : List (Nat × SliceState × Job) :=
  let x := e.2
  if x.st ≠ .bound || x.unbinding.isSome || s.hueLife x.hue = .draining || s.hueLife x.hue = .resetting then []
  else
    ((x.jobs.filter fun j => j.running.isNone && j.status.isNone && j.stop.isNone).filter fun j =>
      !j.order || x.jobs.head? = some j).map fun j => (e.1, x, j)

/-- The candidate that comes first: highest effective priority, earliest submission, lowest slice. -/
def State.bestJob (s : State) : Option (Nat × SliceState × Job) :=
  (s.hub.slices.flatMap s.candidates).foldl (fun b c => match b with
    | none => some c
    | some a =>
      let p := s.jobPri a.2.1 a.2.2
      let q := s.jobPri c.2.1 c.2.2
      if p < q || (p = q && c.2.2.submitted.toNat < a.2.2.submitted.toNat) then some c else b) none

/-- Jobs on pipelines. -/
def State.runningJobs (s : State) : List (Nat × SliceState × Job) :=
  s.hub.slices.flatMap fun e => (e.2.jobs.filter fun j => j.running.isSome).map fun j => (e.1, e.2, j)

/-- Replace the job of a SEQ. -/
def State.setJob (s : State) (k : Nat) (j : Job) : State :=
  let x := s.slice k
  s.setSlice k { x with jobs := x.jobs.map fun i => if i.seq = j.seq then j else i }

/-- A candidate of higher priority than every running job stops the lowest of them, the latest submitted (R318). -/
def State.preempt (s : State) : State :=
  let run := s.runningJobs
  match s.bestJob with
  | none => s
  | some (_, x, j) =>
    let p := s.jobPri x j
    if run.length < 8 || (run.any fun r => r.2.2.stop = some 255) || (run.any fun r => p ≤ s.slicePri r.2.1) then s
    else
      let victim := run.foldl (fun b r => match b with
        | none => some r
        | some a =>
          let pa := s.slicePri a.2.1
          let pr := s.slicePri r.2.1
          if pr < pa || (pr = pa && a.2.2.submitted.toNat < r.2.2.submitted.toNat) then some r else b)
        (none : Option (Nat × SliceState × Job))
      match victim with
      | some (k, _, v) => if v.stop.isSome then s else s.setJob k { v with stop := some 255 }
      | none => s

/-- Take the best candidate onto a free pipeline. A slice that fails its check is reset instead, and the next is tried. -/
def State.select (s : State) (pipe : Fin 8) : Nat → State
  | 0 => s
  | n + 1 =>
    match s.bestJob with
    | none => s
    | some (k, _, j) =>
      if s.sliceBroken k then (s.queueReset k).select pipe n
      else if badDesc (s.cellBytes j.cells) then (s.setJob k (j.finish 10 0)).select pipe n
      else s.setJob k { j with running := some pipe }

/-- JOB_SELECTION. -/
def execJobSelection (pipe : Fin 8) (s : State) : Host.Outcome State Fault Refusal :=
  live s fun s =>
    if s.mgmt.power.asleep.contains (.pipe pipe) then .next s
    else if s.runningJobs.any fun r => r.2.2.running = some pipe then .next s.preempt
    else .next (s.select pipe ((s.hub.slices.map fun e => e.2.jobs.length).sum + 1))

/-- AGE_PROMOTION. -/
def execAgePromotion (slice : Fin 4096) (seq : BitVec 16) (s : State) : Host.Outcome State Fault Refusal :=
  live s fun s =>
    match (s.slice slice.val).jobs.find? fun j => j.seq = seq && j.running.isNone && j.status.isNone with
    | some j =>
      let t : Word := j.submitted + BitVec.ofNat 64 (2 ^ fld (s.cfg 0x0700) 8 5 * 100)
      .next ((s.reach t).setJob slice.val { j with aged := true })
    | none => .next s

/-! ### Blocks (R319, R323) -/

/-- The input of the next block, and what it makes: the bytes consumed, the bytes produced, and the status that ends the job. -/
def State.ceBlock (s : State) (k : Nat) (x : SliceState) (j : Job) (xlat : List (Nat × Nat)) :
    (Option Nat × Nat × Bytes) × State :=
  let cells := s.cellBytes j.cells
  let h := cells.headD []
  let src := segsOf cells false
  let left := segTotal src - j.inBytes
  if h.getD 0 0 = 1 then
    let n := min 4096 left
    let ((st, b), s) := s.ceRead k x.hue xlat (runsOf src j.inBytes n)
    ((st, n, compressBlock (h.getD 2 0).toNat b), s)
  else
    -- the header gives the block's length; a block may not pass the source that remains
    let ((st, hd), s) := s.ceRead k x.hue xlat (runsOf src j.inBytes (min 8 left))
    match st with
    | some e => ((some e, 0, []), s)
    | none =>
      let clen := leAt hd 4 2
      if left < 8 || left < clen || clen < 16 || 4108 < clen then ((some 7, 0, []), s)
      else
        let ((st, b), s) := s.ceRead k x.hue xlat (runsOf src j.inBytes clen)
        match st with
        | some e => ((some e, 0, []), s)
        | none =>
          match decodeBlock b with
          | .ok (out, n) => ((none, n, out), s)
          | .error .format => ((some 7, 0, []), s)
          | .error .crc => ((some 8, 0, []), s)

/-- Two ranges of bytes meet. -/
def meets (a b : Nat × Nat) : Bool := a.1 < b.1 + b.2 && b.1 < a.1 + a.2

/-- A job's destination overlaps its own source, or data of another running job of its PASID (R341). -/
def State.overlaps (s : State) (k : Nat) (x : SliceState) (j : Job) : Bool :=
  let cells := s.cellBytes j.cells
  let dst := segsOf cells true
  let other := s.runningJobs.flatMap fun r =>
    if (r.1 = k && r.2.2.seq = j.seq) || r.2.1.pasid ≠ x.pasid then []
    else segsOf (s.cellBytes r.2.2.cells) false ++ segsOf (s.cellBytes r.2.2.cells) true
  dst.any fun d => (segsOf cells false ++ other).any fun o => meets d o

/-- A block fails: a transient error rewinds to the mark, until RETRY rewinds are used (R319, R323). -/
def State.rewind (s : State) (k : Nat) (x : SliceState) (j : Job) : State :=
  if fld (s.cfg 0x0700) 0 3 ≤ j.retries then s.setJob k (j.finish 4 j.blocks)
  else (s.setJob k { j with retries := j.retries + 1, retried := true }).uncount 120 0x03 1 x.hue (s.classOf 13 x.hue)

/-- The boundary of a finished block: the mark advances, and a stop takes effect unless the job is complete. -/
def State.blockDone (s : State) (k : Nat) (x : SliceState) (j : Job) (inN outN : Nat) : State :=
  let part := s.partOfHue k
  let s := ((s.charge x.hue 8 inN part).charge x.hue 9 outN part).uncount 120 0x01 1 x.hue (s.classOf 13 x.hue)
  let j := { j with inBytes := j.inBytes + inN, outBytes := j.outBytes + outN, blocks := j.blocks + 1, retries := 0 }
  if segTotal (segsOf (s.cellBytes j.cells) false) ≤ j.inBytes then s.setJob k (j.finish 0 0)
  else match j.stop with
    | some 255 =>
      (s.setJob k { j with running := none, stop := none, preempted := true }).uncount 120 0x04 1 x.hue (s.classOf 13 x.hue)
    | some st => s.setJob k (j.finish st 0)
    | none => s.setJob k j

/-- A block's output is written. Where the job's data overlaps other data of running jobs, its bytes are free, and so is how the
block ends (R341). -/
def State.ceFinish (s : State) (k : Nat) (x : SliceState) (j : Job) (inN : Nat) (out : Bytes) (xlat : List (Nat × Nat)) : State :=
  let dst := segsOf (s.cellBytes j.cells) true
  let wild := s.overlaps k x j
  let (n, s) := if wild then s.takeNat else (0, s)
  let (out, s) := if wild then s.takeBytes out.length else (out, s)
  if segTotal dst < j.outBytes + out.length then s.setJob k (j.finish 9 j.blocks)
  else if n % 4 = 3 then s.setJob k (j.finish (4 + n / 4 % 6) j.blocks)
  else match s.ceWrite k x.hue xlat (runsOf dst j.outBytes out.length) out with
    | (none, s) => s.blockDone k x j inN out.length
    | (some st, s) => s.setJob k (j.finish st j.blocks)

/-- The job of a pipeline meets an event at a block. -/
def State.blockEvent (s : State) (k : Nat) (x : SliceState) (j : Job) (ev : BlockEvent) (xlat : List (Nat × Nat)) : State :=
  match ev with
  | .timeout => s.rewind k x j
  | .ioError => s.setJob k (j.finish 4 j.blocks)
  | .badTarget => s.setJob k (j.finish 4 j.blocks)
  | .xlateFault => (s.iommuFault 32 ceRid ((segsOf (s.cellBytes j.cells) false).headD (0, 0)).1).setJob k (j.finish 5 j.blocks)
  | .poison => s.setJob k (j.finish 6 j.blocks)
  | .done =>
    let ((st, inN, out), s) := s.ceBlock k x j xlat
    match st with
    | some e => s.setJob k (j.finish e j.blocks)
    | none => s.ceFinish k x j inN out xlat

/-- BLOCK_BOUNDARY. A cell that fails its check when it is read again starts a queue reset (R316). -/
def execBlockBoundary (pipe : Fin 8) (ev : BlockEvent) (xlat : List (Nat × Nat)) (s : State) :
    Host.Outcome State Fault Refusal :=
  live s fun s =>
    match s.runningJobs.find? fun r => r.2.2.running = some pipe with
    | none => .next s
    | some (k, x, j) =>
      let s := s.blockEvent k x j ev xlat
      .next ((if s.sliceBroken k then s.queueReset k else s).sliceSettle k)

/-! ### Completion records (R322, R324) -/

/-- The 32 bytes of a record. -/
def recordBytes (tag n loge : Nat) (j : Job) (st detail : Nat) : Bytes :=
  let flags := (n / 2 ^ loge + 1) % 2 + 2 * bitOf j.retried + 4 * bitOf j.preempted
  leBytes 4 tag ++ leBytes 2 j.seq.toNat ++ leBytes 1 st ++ leBytes 1 flags ++ leBytes 8 j.inBytes ++ leBytes 8 j.outBytes ++
    leBytes 4 j.blocks ++ leBytes 4 (if 4 ≤ st && st ≤ 9 then detail else 0)

/-- A record that was lost, or whose address does not translate or decode: what its bytes hold is free. -/
def State.recordLost (s : State) (k : Nat) (x : SliceState) (j : Job) (iova : Nat) (xlat : List (Nat × Nat)) : State :=
  let (b, s) := s.takeBytes 32
  let s := (s.ceWrite k x.hue xlat (runsOf [(iova, 32)] 0 32) b).2
  s.logE .uncorrected .ce .transport k iova x.hue 0 j.seq.toNat

/-- Write a job's record, advance TAIL, and send the MSI that NOTIFY asks for. -/
def State.writeRecord (s : State) (k : Nat) (x : SliceState) (j : Job) (st detail : Nat) (lost : Bool)
    (xlat : List (Nat × Nat)) : State :=
  let iova := x.ring.toNat + 32 * (x.count % 2 ^ x.logE)
  let readable := j.cells.all fun i => match s.cell i with
    | some c => c.owner = k && !c.bad
    | none => false
  let h := (s.cellBytes j.cells).headD []
  let tag := if st = 3 && !readable then 0 else leAt h 4 4
  let s :=
    if lost then s.recordLost k x j iova xlat
    else match s.ceWrite k x.hue xlat (runsOf [(iova, 32)] 0 32) (recordBytes tag x.count x.logE j st detail) with
      | (none, s) => s
      | (some _, s) => s.recordLost k x j iova xlat
  let x := s.slice k
  let s := s.setSlice k
    { x with tail := x.tail + 1, count := x.count + 1, jobs := x.jobs.filter fun i => i.seq ≠ j.seq,
             open_ := x.open_.erase j.seq, unreleased := x.unreleased ++ [(j.cells.length, j.cells)] }
  let s := if st = 0 then s.charge x.hue 10 1 (s.partOfHue k) else s
  if (h.getD 1 0).getLsbD 0 then
    s.packageMsi (s.ceXlat xlat x.msiAddr.toNat) x.msiData x.hue (s.partOfHue k) .ce k x.msiAddr
  else s

/-- COMPLETION_RECORD. -/
def execCompletionRecord (slice : Fin 4096) (seq : BitVec 16) (lost : Bool) (xlat : List (Nat × Nat)) (s : State) :
    Host.Outcome State Fault Refusal :=
  live s fun s =>
    let k := slice.val
    match (s.slice k).jobs.find? fun j => j.seq = seq with
    | some j =>
      (match j.status with
       | some (st, detail) => .next ((s.writeRecord k (s.slice k) j st detail lost xlat).sliceSettle k)
       | none => .next s)
    | none => .next s

end Sys2Proof.Machine
end

