-- ==== Sys2Proof/Machine/Meter.lean ====
section
/-! DEFINITION. Metering and the ledger (chapter 11). -/

namespace Sys2Proof.Machine

/-! ### Accumulators and samples (R287 to R289) -/

/-- METER_ACCUMULATOR_SEND. -/
def execMeterAccumulatorSend (h : HartId) (s : State) : Host.Outcome State Fault Refusal :=
  live s fun s => .next (s.meterSend h (s.hart (hartIx h)).hue)

/-- One L3 bank reads one set: every valid line charges its allocating hue (R288). -/
def State.sampleSet (s : State) (d : Fin 12) (bank set : Nat) : State :=
  let key := (bank * 2048 + set) * 16
  let ls := (s.die d.val).l3.filter fun e => key ≤ e.1 && e.1 < key + 16
  s.forEach ls fun s e => s.charge e.2.hue 11 131072 (s.partOfDie d.val)

/-- L3_OCC_SAMPLE. The first set of a bank is a free one. -/
def execL3OccSample (d : Fin 12) (bank : Fin 16) (s : State) : Host.Outcome State Fault Refusal :=
  live s fun s =>
    let k := d.val * 16 + bank.val
    let (cur, s) := if s.occ k = 0 then (let (n, s) := s.takeNat; (n % 2048, s)) else (s.occ k - 1, s)
    if s.inService d.val then .next ((s.setOcc k ((cur + 1) % 2048 + 1)).sampleSet d bank.val cur) else .next s

/-- The hues that share energy: hue 0 and every ACTIVE or DRAINING one. -/
def State.meteredHues (s : State) : List (BitVec 12) :=
  0 :: (s.hub.hues.filter fun e => e.2.st = .active || e.2.st = .draining).map fun e => BitVec.ofNat 12 e.1

/-- Divide an energy: each hue takes a free part of what is left, and hue 0 the rest. -/
def State.shareEnergy (s : State) (left : Nat) : List (BitVec 12) → State
  | [] => s.charge 0 12 left
  | h :: hs =>
    if h = 0 then s.shareEnergy left hs
    else
      let (n, s) := s.takeNat
      let part := n % (left + 1)
      (s.charge h 12 part).shareEnergy (left - part) hs

/-- ENERGY_ESTIMATE: one millisecond at the power last read is as many millijoules as watts. -/
def execEnergyEstimate (s : State) : Host.Outcome State Fault Refusal :=
  liveMordant s fun s => .next (s.shareEnergy s.mgmt.power.watts s.meteredHues)

/-! ### Slots and sequence numbers (R297, R299, R302) -/

def ledgerSlots : Nat := 629145

/-- The next FREE slot, searching upward cyclically from the one after `k`. -/
def LedgerState.search (l : LedgerState) (k : Nat) : Nat → Option Nat
  | 0 => none
  | n + 1 =>
    let j := (k + 1) % ledgerSlots
    if (Table.find l.slots j).isNone then some j else l.search j n

def LedgerState.free (l : LedgerState) : Nat := ledgerSlots - l.slots.length

/-- The cursor of the ledger that a record belongs to: a partition's, or the package's. -/
def State.cursorOf (s : State) (r : LedgerRec) : Word :=
  Table.get 0 s.hub.ledger.cursors (if s.scopeMode = .partitioned then r.part.toNat else 16)

/-- A record is unread while its SEQ is greater than the read cursor (R301). -/
def State.unread (s : State) (r : LedgerRec) : Bool := (s.cursorOf r).toNat < r.seq.toNat

/-- The record of least SEQ among some. -/
def oldest (l : List (Nat × LedgerRec)) : Option (Nat × LedgerRec) :=
  l.foldl (fun b e => match b with
    | some x => if e.2.seq.toNat < x.2.seq.toNat then some e else b
    | none => some e) none

/-- Issue a SEQ, raising NEXT_BASE first where it must be (R299). -/
def State.takeSeq (s : State) : Word × State :=
  let l := s.hub.ledger
  (l.nextSeq, s.upLedger fun l =>
    { l with nextBase := if l.nextBase.toNat ≤ l.nextSeq.toNat then l.nextBase + 65536 else l.nextBase,
             nextSeq := l.nextSeq + 1 })

/-- Append a record with its SEQ set (R297). With no slot FREE the oldest unread record is discarded first (R302); where every
record is read, none may be, and the new record finds no slot. -/
def State.appendRec (s : State) (r : LedgerRec) : State :=
  let put (s : State) (k : Nat) : State := s.upLedger fun l => { l with slots := Table.insert l.slots k r, last := k }
  let l := s.hub.ledger
  match l.search l.last (l.slots.length + 1) with
  | some k => put s k
  | none =>
    match oldest (l.slots.filter fun e => s.unread e.2) with
    | none => s
    | some (k, v) =>
      (put (s.upLedger fun l => { l with discards := l.discards + 1 }) k).event 4 (leBytes 8 v.seq.toNat)

/-! ### Records (R292 to R296) -/

/-- Counter `n` of an interval: the change since its start. -/
def MeterState.deltas (m : MeterState) : Table Word :=
  (List.range 16).foldl (fun t n => Table.put 0 t n (Table.get 0 m.counters n - Table.get 0 m.atStart n)) []

/-- FLAGS of R296. -/
def recFlags (pwrwarn first last loss squash : Bool) : Byte :=
  BitVec.ofNat 8 (bitOf pwrwarn + 2 * bitOf first + 4 * bitOf last + 8 * bitOf loss + 16 * bitOf squash)

/-- The partition of a meter: that of a partition's own hue 0, or of the block that holds the hue. -/
def State.meterPart (s : State) (k : Nat) : Nat :=
  if 4096 ≤ k then k - 4096 else if s.scopeMode = .partitioned then (s.partOfHue k).getD 0 else 0

/-- Close the open interval of a meter at `e`, with its record, and open the next (R292, R293). -/
def State.closeMeter (s : State) (k : Nat) (e : Word) (pwrwarn last squash : Bool) : State :=
  let m := s.meter k
  let hue := if k < 4096 then k else 0
  let (q, s) := s.takeSeq
  let s := s.appendRec
    { kind := .minute, flags := recFlags pwrwarn m.first last m.loss squash, hue := BitVec.ofNat 12 hue,
      part := BitVec.ofNat 4 (s.meterPart k), boot := s.mgmt.mordant.boot, pkg := BitVec.ofNat 8 s.pkgIx,
      cls := (s.mordantClass hue).zeroExtend 8, seq := q, start := m.start,
      cover := BitVec.ofNat 32 ((e - m.start).toNat / 10000), delta := m.deltas }
  s.setMeter k { m with atStart := m.counters, start := e, first := false, loss := false }

/-- Rewrite the word of R306. -/
def State.setWord (s : State) (e : Word) (pwrwarn : Bool) : State :=
  s.upLedger fun l => { l with word := some (s.mgmt.mordant.boot, e, pwrwarn) }

/-- The meters of hue 0: the package's, or in Partitioned mode those of its partitions (R261). -/
def State.hostMeters (s : State) : List Nat :=
  if s.scopeMode = .partitioned then ((List.range 12).filter fun p => bit (s.cfg (0x1210 + p)) 12).map (4096 + ·) else [0]

/-- Meters with an open interval: those of hue 0, and those of the hues in the states given. -/
def State.openMeters (s : State) (sts : List HueSt) : List Nat :=
  s.hostMeters ++ (s.hub.hues.filter fun e => sts.contains e.2.st).map Prod.fst

/-- The minute boundary that the next close waits for: after the start of hue 0's interval. -/
def State.nextMinute (s : State) : Nat :=
  ((s.meter (s.hostMeters.headD 0)).start.toNat / 6000000000 + 1) * 6000000000

/-- The open intervals that began before the minute boundary: one that HUE_START makes at the boundary goes on. -/
def State.dueMeters (s : State) : List Nat :=
  (s.openMeters [.active, .draining, .resetting]).filter fun k => (s.meter k).start.toNat < s.nextMinute

/-- Close every open interval at a minute boundary (R292). -/
def State.minuteClose (s : State) : State :=
  let e : Word := BitVec.ofNat 64 s.nextMinute
  let ks := s.dueMeters
  let s := s.reach e
  let s := s.forEach ks fun s k => s.closeMeter k e false false false
  s.setWord e false

/-- The meters run. In Recovery they do not (R421). During a start Mordant starts no ledger write while PWRFAIL_N is asserted, and a
cold start commits no record before its scan of the ledger has written the word of R306. -/
def State.metering (s : State) : Bool :=
  let x := s.mgmt.mode.start
  s.mode ≠ .recovery && !(x.running && (s.mgmt.mode.pwrfail || !(x.warm || x.done.contains .s6c)))

/-- MINUTE_BOUNDARY. -/
def execMinuteBoundary (s : State) : Host.Outcome State Fault Refusal :=
  liveMordant s fun s => .next (if s.mgmt.mordant.restarting || !s.metering then s else s.minuteClose)

/-! ### Folding (R301) -/

def hourTicks : Nat := 360000000000
def dayTicks : Nat := 8640000000000

/-- BOOT and clock hour, or day, of a record. -/
def LedgerRec.span (ticks : Nat) (r : LedgerRec) : Nat × Nat := (r.boot.toNat, r.start.toNat / ticks)

/-- What a fold groups by. -/
def LedgerRec.group (r : LedgerRec) : BitVec 12 × Byte × BitVec 4 := (r.hue, r.pkg, r.part)

/-- The fold of records, given in SEQ order. -/
def foldRecs (kind : RecKind) (first : LedgerRec) (rest : List LedgerRec) : LedgerRec :=
  rest.foldl (fun f r =>
    { f with flags := f.flags ||| r.flags, cover := f.cover + r.cover, cls := r.cls,
             delta := (List.range 16).foldl (fun t n => Table.put 0 t n (Table.get 0 t n + Table.get 0 r.delta n)) f.delta })
    { first with kind := kind }

/-- Insertion of a record in SEQ order. -/
def insertSeq (e : Nat × LedgerRec) : List (Nat × LedgerRec) → List (Nat × LedgerRec)
  | [] => [e]
  | x :: l => if e.2.seq.toNat < x.2.seq.toNat then e :: x :: l else x :: insertSeq e l

def sortSeq (l : List (Nat × LedgerRec)) : List (Nat × LedgerRec) := l.foldl (fun a e => insertSeq e a) []

/-- Fold the records of one group: append the fold, then free what it folds. -/
def State.foldGroup (s : State) (kind : RecKind) (l : List (Nat × LedgerRec)) : State :=
  match l.map Prod.snd with
  | [] => s
  | r :: rest =>
    (s.appendRec (foldRecs kind r rest)).upLedger fun x =>
      { x with slots := x.slots.filter fun e => !(l.any fun d => d.1 = e.1 && d.2 = e.2) }

/-- Fold the oldest hour, or day, of unread records of a kind: the state, or none when only the current one's remain. -/
def State.foldOldest (s : State) (src dst : RecKind) (ticks : Nat) : Option State :=
  let now := (s.mgmt.mordant.boot.toNat, s.now.toNat / ticks)
  let l := s.hub.ledger.slots.filter fun e => e.2.kind = src && s.unread e.2 && e.2.span ticks ≠ now
  match oldest l with
  | none => none
  | some (_, r) =>
    let mine := sortSeq (l.filter fun e => e.2.span ticks = r.span ticks)
    some (s.forEach ((mine.map fun e => e.2.group).eraseDups) fun s g =>
      s.foldGroup dst (mine.filter fun e => e.2.group = g))

/-- Fold until half the slots are FREE, or nothing is left to fold. -/
def State.foldLoop (s : State) (src dst : RecKind) (ticks : Nat) : Nat → State
  | 0 => s
  | n + 1 =>
    if 314572 ≤ s.hub.ledger.free then s
    else match s.foldOldest src dst ticks with
      | some s => s.foldLoop src dst ticks n
      | none => s

/-- Compaction of the ledger (R301, R302). -/
def State.foldLedger (s : State) : State :=
  if 157286 ≤ s.hub.ledger.free then s
  else
    let s := s.foldLoop .minute .hour hourTicks s.hub.ledger.slots.length
    let s := if s.hub.ledger.free < 157286 then s.foldLoop .hour .day dayTicks s.hub.ledger.slots.length else s
    if s.hub.ledger.free < 157286 then s.event 3 (leBytes 4 s.hub.ledger.free) else s

/-- LEDGER_COMPACTION. -/
def execLedgerCompaction (s : State) : Host.Outcome State Fault Refusal :=
  liveMordant s fun s => .next (if s.mgmt.mordant.restarting then s else s.foldLedger)

/-! ### A start (R298, R299, R306) -/

/-- The fold that covers a record: same hue, PKG, partition and BOOT, and its START lies in the fold's span. -/
def covered (slots : Table LedgerRec) (r : LedgerRec) : Bool :=
  let by_ (k : RecKind) : Bool := slots.any fun e =>
    e.2.kind = k && e.2.group = r.group && e.2.boot = r.boot && e.2.start.toNat ≤ r.start.toNat &&
      r.start.toNat < e.2.start.toNat + e.2.cover.toNat * 10000
  (r.kind = .minute && by_ .hour) || (r.kind = .hour && by_ .day)

/-- The scan of Bring-up: bad slots are freed and logged, folded records discarded. -/
def State.scanLedger (s : State) : State :=
  let bad := s.hub.ledger.slots.filter fun e => e.2.bad
  let s := s.forEach bad fun s e => s.logE .corrected .ledg .correctedCode 0 0 0 e.1
  s.upLedger fun l =>
    let good := l.slots.filter fun e => !e.2.bad
    { l with slots := good.filter fun e => !covered good e.2, nextSeq := l.nextBase }

/-- The LOSS record for the BOOT that the word names, and the word of this BOOT (R306). -/
def State.ledgerLoss (s : State) : State :=
  let boot := s.mgmt.mordant.boot
  let s := match s.hub.ledger.word with
    | some (b, e, w) =>
      if b = boot then s
      else
        let (q, s) := s.takeSeq
        s.appendRec
          { kind := .loss, flags := recFlags w false false false false, hue := 0, part := 0, boot := b,
            pkg := BitVec.ofNat 8 s.pkgIx, cls := 0, seq := q, start := e, cover := 0, delta := [] }
    | none => s
  s.setWord 0 false

/-- The ledger at a cold Bring-up: the scan, then the LOSS record, which waits while PWRFAIL_N is asserted (R421). -/
def State.ledgerCold (s : State) : State :=
  let s := s.scanLedger.upLedger fun l => { l with cursors := [], discards := 0, warnOwed := false }
  if s.mgmt.mode.pwrfail then s else s.ledgerLoss

/-- The scan of this cold start left its LOSS record to be written. -/
def State.lossOwed (s : State) : Bool :=
  let x := s.mgmt.mode.start
  x.running && !x.warm && x.done.contains .s6c && (s.hub.ledger.word.map Prod.fst) ≠ some s.mgmt.mordant.boot

/-! ### Loss of power (R305) -/

/-- PWRFAIL_N: the pin has been low for 1 µs (R519). After a trip it has no effect (R520). -/
def execPwrfailN (s : State) : Host.Outcome State Fault Refusal :=
  liveMordant s fun s =>
    if s.mgmt.mode.pwrfail then .next s
    else .next ((s.upMode fun m => { m with pwrfail := true }).upLedger fun l => { l with warnOwed := true })

/-- Close the intervals of hue 0 and of every ACTIVE and DRAINING hue at the next multiple of 100 µs. -/
def State.warnClose (s : State) : State :=
  let e : Word := BitVec.ofNat 64 ((s.now.toNat / 10000 + 1) * 10000)
  let s := s.reach e
  let s := s.forEach (s.openMeters [.active, .draining]) fun s k => s.closeMeter k e true false false
  (s.setWord e true).upLedger fun l => { l with warnOwed := false }

/-- PWRWARN_CLOSE. -/
def execPwrwarnClose (s : State) : Host.Outcome State Fault Refusal :=
  liveMordant s fun s =>
    if s.hub.ledger.warnOwed && !s.mgmt.mode.start.running && s.metering then .next s.warnClose else .next s

/-- PWRFAIL_N_DEASSERT: a held release may proceed, and a LOSS record that waited is written (R421). -/
def execPwrfailNDeassert (s : State) : Host.Outcome State Fault Refusal :=
  liveMordant s fun s =>
    let s := s.upMode fun m => { m with pwrfail := false }
    .next (if s.lossOwed then s.ledgerLoss else s)

/-! ### Commands (R303) -/

/-- The valid records that an issuer sees, in SEQ order. -/
def State.visible (s : State) (iss : Issuer) : List (Nat × LedgerRec) :=
  sortSeq (s.hub.ledger.slots.filter fun e => !e.2.bad && (match s.issPart iss with
    | some p => e.2.part.toNat = p
    | none => true))

def kindCode (k : RecKind) : Nat := match k with
  | .minute => 1 | .hour => 2 | .day => 3 | .loss => 4

/-- The 160 bytes of a record (R294). -/
def LedgerRec.bytes (r : LedgerRec) : Bytes :=
  let a := leBytes 1 (kindCode r.kind) ++ [r.flags] ++ leBytes 2 (r.hue.toNat + r.part.toNat * 4096) ++
    leBytes 2 r.boot.toNat ++ [r.pkg, r.cls] ++ leBytes 8 r.seq.toNat ++ leBytes 8 r.start.toNat
  let b := leBytes 4 r.cover.toNat ++ (List.range 16).flatMap fun n => leBytes 8 (Table.get 0 r.delta n).toNat
  a ++ leBytes 4 (crc32c (a ++ b)).toNat ++ b

/-- The read cursor that an issuer moves. -/
def State.cursorIx (s : State) (iss : Issuer) : Nat := (s.issPart iss).getD 16

/-- MTR_STATUS. -/
def execMtrStatus (iss : Issuer) (c : CmdCell) (s : State) : Host.Outcome State Fault Refusal :=
  liveMordant s fun s => .next <|
    s.command iss c 0x0500 (· = 0) [] true [] fun s =>
      let l := (s.visible iss).map fun e => e.2.seq.toNat
      (some (leBytes 8 (l.headD 0) ++ leBytes 8 (l.getLastD 0) ++
        leBytes 8 (Table.get 0 s.hub.ledger.cursors (s.cursorIx iss)).toNat ++ leBytes 4 s.hub.ledger.free ++
        leBytes 4 s.hub.ledger.discards.toNat ++ leBytes 2 s.mgmt.mordant.boot.toNat), s)

/-- MTR_READ. -/
def execMtrRead (iss : Issuer) (c : CmdCell) (s : State) : Host.Outcome State Fault Refusal :=
  liveMordant s fun s =>
    let buf := CmdCell.at_ c 0 8
    let len := CmdCell.at_ c 8 4
    let from_ := CmdCell.at_ c 16 8
    let l := (s.visible iss).filter fun e => from_ ≤ e.2.seq.toNat
    .next <| s.command iss c 0x0501 (· = 24) [] true
      (status (buf % 64 ≠ 0 || s.bufferBad iss buf len 160) stRange ++ status l.isEmpty stNone) fun s =>
        let l := (l.map Prod.snd).take (len / 160)
        let last := (l.getLast?.map LedgerRec.seq).getD 0
        s.bufferWrite iss buf (l.flatMap LedgerRec.bytes) fun s =>
          let i := s.cursorIx iss
          let s := s.upLedger fun x =>
            { x with cursors := if (Table.get 0 x.cursors i).toNat < last.toNat then Table.put 0 x.cursors i last else x.cursors }
          (some (leBytes 4 l.length ++ leBytes 4 0 ++ leBytes 8 last.toNat), s)

/-- MTR_ACK. -/
def execMtrAck (iss : Issuer) (c : CmdCell) (s : State) : Host.Outcome State Fault Refusal :=
  liveMordant s fun s =>
    let upto := CmdCell.at_ c 0 8
    .next <| s.command iss c 0x0502 (· = 8) [] true
      (status ((Table.get 0 s.hub.ledger.cursors (s.cursorIx iss)).toNat < upto) stRange) fun s =>
        let l := (s.visible iss).filter fun e => e.2.seq.toNat ≤ upto
        let s := s.upLedger fun x => { x with slots := x.slots.filter fun e => !(l.any fun d => d.1 = e.1) }
        (some (leBytes 4 l.length), s)

end Sys2Proof.Machine
end

