-- ==== Sys2Proof/Machine/Hues.lean ====
section
/-! DEFINITION. The life of a hue: its commands, its reset, and what frees it (chapter 10; R472, R475, R478). -/

namespace Sys2Proof.Machine

/-! ### What may answer (R261, R382, R472, R475, R478) -/

/-- A hue is the issuer's: of its partition's block, or hue 0. A number that names no hue is answered RANGE (R383). -/
def State.hueScope (s : State) (iss : Issuer) (h : Nat) : Bool :=
  match s.issPart iss with
  | some p => h = 0 || 4096 ≤ h || s.partOfHue h = some p
  | none => true

/-- What answers the master's duties in a cascade: MODE at a member, BUSY during a hand-off, PARTNER once the master is lost. -/
def State.masterOnly (s : State) : List (Nat × Nat) :=
  if s.scopeMode ≠ .cascade then []
  else if s.mgmt.casc.masterLost then [(stPartner, 0)]
  else if s.mgmt.casc.master.val ≠ s.pkgIx then [(stMode, 0)]
  else match s.mgmt.service.action with
    | some (.cascHandoff _) => [(stBusy, 0)]
    | _ => []

/-- The state of a hue that a payload names: FREE for a number that names none. -/
def State.lifeOf (s : State) (h : Nat) : HueSt := if h < 4096 then s.hueLife (BitVec.ofNat 12 h) else .free

def HueSt.code (x : HueSt) : Nat := match x with
  | .free => 0 | .bound => 1 | .active => 2 | .draining => 3 | .resetting => 4

/-- Whether a hue is BOUND or ACTIVE. -/
def State.usable (s : State) (h : Nat) : Bool := s.lifeOf h = .bound || s.lifeOf h = .active

/-- The lowest FREE hue that an issuer may allocate. -/
def State.freeHue (s : State) (iss : Issuer) : Option Nat :=
  let mine (h : Nat) : Bool := 1 ≤ h && h < 4096 && s.lifeOf h = .free && s.hueScope iss h
  match s.issPart iss with
  | none => (List.range 4096).find? mine
  | some p =>
    let first := fld (s.cfg (0x1210 + p)) 16 4 * 256
    ((List.range (fld (s.cfg (0x1210 + p)) 24 5 * 256)).map (first + ·)).find? mine

/-! ### Commands (R264, R265) -/

/-- HUE_QUERY. -/
def execHueQuery (iss : Issuer) (c : CmdCell) (s : State) : Host.Outcome State Fault Refusal :=
  liveMordant s fun s =>
    let h := CmdCell.at_ c 0 2
    .next <| s.command iss c 0x0400 (· = 2) [] (s.hueScope iss h) (status (4096 ≤ h) stRange) fun s =>
      let x := s.hueSt h
      let hue := BitVec.ofNat 12 h
      let files := (s.hub.imsic.filter fun e => e.2.owner = some hue).length
      let staged := (x.staged.map BitVec.toNat).getD 0xFF
      (some (leBytes 1 (s.lifeOf h).code ++ leBytes 1 (s.mordantClass h).toNat ++ leBytes 1 staged ++ leBytes 1 x.step ++
        leBytes 2 (s.hub.bindings.filter fun b => b.hue = some hue).length ++
        leBytes 2 (s.hub.slices.filter fun e => e.2.st ≠ .unbound && e.2.hue = hue).length ++ leBytes 2 files), s)

/-- HUE_ALLOC. -/
def execHueAlloc (iss : Issuer) (c : CmdCell) (s : State) : Host.Outcome State Fault Refusal :=
  liveMordant s fun s =>
    let h := CmdCell.at_ c 0 2
    let cls := CmdCell.at_ c 2 1
    let any_ := h = 0xFFFF
    let pick := if any_ then s.freeHue iss else some h
    .next <| s.command iss c 0x0401 (· = 3) [] (any_ || s.hueScope iss h)
      (s.masterOnly ++ rangeElse (7 < cls || (4096 ≤ h && !any_))
        (status (!any_ && s.lifeOf h ≠ .free) stState ++ status pick.isNone stFull)) fun s =>
        let h := pick.getD 0
        let s := (s.setHueSt h { st := .bound }).setClass h (BitVec.ofNat 3 cls)
        (some (leBytes 2 h), s.upCensus fun k => { k with triedLot := [] })

/-- The multiple of 100 µs at or after a time (R293). -/
def nextTick (t : Word) : Word := BitVec.ofNat 64 ((t.toNat + 9999) / 10000 * 10000)

/-- HUE_START. -/
def execHueStart (iss : Issuer) (c : CmdCell) (s : State) : Host.Outcome State Fault Refusal :=
  liveMordant s fun s =>
    let h := CmdCell.at_ c 0 2
    .next <| s.command iss c 0x0402 (· = 2) [] (s.hueScope iss h)
      (s.masterOnly ++ rangeElse (4096 ≤ h) (status (h = 0 || s.lifeOf h ≠ .bound) stState)) fun s =>
        let t := nextTick s.now
        let s := (s.reach t).setHueSt h { s.hueSt h with st := .active }
        (some [], s.setMeter h { start := t, first := true, open_ := true })

/-- HUE_SET_CLASS. -/
def execHueSetClass (iss : Issuer) (c : CmdCell) (s : State) : Host.Outcome State Fault Refusal :=
  liveMordant s fun s =>
    let h := CmdCell.at_ c 0 2
    let cls := CmdCell.at_ c 2 1
    .next <| s.command iss c 0x0403 (· = 3) [] (s.hueScope iss h)
      (s.masterOnly ++ rangeElse (7 < cls || 4096 ≤ h) (status (h = 0 || !s.usable h) stState)) fun s =>
        (some [], s.setHueSt h { s.hueSt h with staged := some (BitVec.ofNat 3 cls) })

/-- The pair that a binding command names: requester ID, and PASID or none. -/
def bindPair (c : CmdCell) : BitVec 16 × Option (BitVec 20) :=
  (BitVec.ofNat 16 (CmdCell.at_ c 2 2),
    if CmdCell.at_ c 4 1 = 0 then none else some (BitVec.ofNat 20 (CmdCell.at_ c 8 4)))

/-- The partition whose requester IDs a binding command means (R344, R354). -/
def State.bindPart (s : State) (iss : Issuer) (h : Nat) : Nat := ((s.issPart iss).orElse fun _ => s.partOfHue h).getD 0

/-- HUE_DMA_BIND. -/
def execHueDmaBind (iss : Issuer) (c : CmdCell) (s : State) : Host.Outcome State Fault Refusal :=
  liveMordant s fun s =>
    let h := CmdCell.at_ c 0 2
    let (rid, pasid) := bindPair c
    let p := s.bindPart iss h
    let mine (b : Binding) : Bool := b.part = p && b.rid = rid && b.pasid = pasid
    let held := (s.hub.bindings.find? mine).bind Binding.hue
    .next <| s.command iss c 0x0404 (· = 12) [] (s.hueScope iss h)
      (rangeElse (4096 ≤ h) (status (!s.usable h || (match held with
          | some g => g.toNat ≠ h && s.hueLife g ≠ .free
          | none => false)) stState ++
        status (!s.hub.bindings.any mine && 16384 ≤ s.hub.bindings.length) stFull)) fun s =>
        (some [], s.upHub fun x =>
          { x with bindings := (x.bindings.filter fun b => !mine b) ++
              [{ part := p, rid := rid, pasid := pasid, hue := some (BitVec.ofNat 12 h) }] })

/-- HUE_DMA_UNBIND. -/
def execHueDmaUnbind (iss : Issuer) (c : CmdCell) (s : State) : Host.Outcome State Fault Refusal :=
  liveMordant s fun s =>
    let (rid, pasid) := bindPair c
    let mine (b : Binding) : Bool :=
      b.rid = rid && b.pasid = pasid && (match s.issPart iss with
        | some p => b.part = p
        | none => true)
    .next <| s.command iss c 0x0405 (· = 12) [] true (status (!s.hub.bindings.any mine) stNone) fun s =>
      (some [], s.upHub fun x => { x with bindings := x.bindings.filter fun b => !mine b })

/-- A hart that is present (R40). -/
def State.hartPresent (s : State) (i : Nat) : Bool := isHartIx i && s.dieStatus (i / 64) ≠ 3

/-- The hart and guest file that a command names: the key of the file, or none where it names no present hart or no file. -/
def State.guestFile (s : State) (c : CmdCell) : Option Nat :=
  let h := CmdCell.at_ c 2 2
  let g := CmdCell.at_ c 4 1
  if s.hartPresent h && 1 ≤ g && g ≤ 15 then some (h * 32 + g) else none

/-- A hart is the issuer's. -/
def State.hartScope (s : State) (iss : Issuer) (i : Nat) : Bool :=
  match s.issPart iss with
  | some p => !s.hartPresent i || s.partOfDie (i / 64) = some p
  | none => true

/-- HUE_GFILE_ASSIGN. -/
def execHueGfileAssign (iss : Issuer) (c : CmdCell) (s : State) : Host.Outcome State Fault Refusal :=
  liveMordant s fun s =>
    let h := CmdCell.at_ c 0 2
    let f := s.guestFile c
    let owned := (f.bind fun k => (s.file k).owner).isSome
    .next <| s.command iss c 0x0406 (· = 5) [] (s.hueScope iss h && s.hartScope iss (CmdCell.at_ c 2 2))
      (rangeElse (h = 0 || 4096 ≤ h || f.isNone) (status (owned || !s.usable h) stState)) fun s =>
        let k := f.getD 0
        (some [], s.setFile k { s.file k with owner := some (BitVec.ofNat 12 h) })

/-- HUE_GFILE_RELEASE: the file is cleared, and then has no owner (R277). -/
def execHueGfileRelease (iss : Issuer) (c : CmdCell) (s : State) : Host.Outcome State Fault Refusal :=
  liveMordant s fun s =>
    let f := s.guestFile c
    let owned := (f.bind fun k => (s.file k).owner).isSome
    .next <| s.command iss c 0x0407 (· = 5) [] (s.hartScope iss (CmdCell.at_ c 2 2))
      (rangeElse f.isNone (status (!owned) stNone)) fun s =>
      (some [], s.clearFile (f.getD 0) none)

/-! ### Hue reset (R279 to R284) -/

/-- Slices bound to a hue. -/
def State.slicesOf (s : State) (h : BitVec 12) : List Nat :=
  (s.hub.slices.filter fun e => e.2.st ≠ .unbound && e.2.hue = h).map Prod.fst

/-- Step 1: the hue drains, its staged class goes, and its jobs that no pipeline has taken are aborted. -/
def State.drainHue (s : State) (h : Nat) : State :=
  let x := s.hueSt h
  let tmo := s.now.toNat + 2 ^ fld (s.cfg 0x0600) 0 5 * 100
  let s := if x.st = .bound then
      s.setMeter h { start := BitVec.ofNat 64 (s.now.toNat / 6000000000 * 6000000000), open_ := true }
    else s
  let s := s.setHueSt h { st := .draining, step := 2, drainTmo := tmo }
  s.forEach (s.slicesOf (BitVec.ofNat 12 h)) fun s k =>
    let y := s.slice k
    s.setSlice k { y with jobs := y.jobs.map fun j => if j.running.isNone then j.halt 1 else j }

/-- HUE_RESET. After the loss of the master any survivor accepts it. -/
def execHueReset (iss : Issuer) (c : CmdCell) (s : State) : Host.Outcome State Fault Refusal :=
  liveMordant s fun s =>
    let h := CmdCell.at_ c 0 2
    .next <| s.command iss c 0x0408 (· = 2) [] (s.hueScope iss h)
      ((s.masterOnly.filter fun e => e.1 ≠ stPartner) ++
        rangeElse (4096 ≤ h) (status (h = 0 || !s.usable h) stState)) fun s =>
        (some [], s.drainHue h)

/-- Something of the hue is in flight (R279). -/
def State.inFlight (s : State) (h : BitVec 12) : Bool :=
  (s.hub.inbound.any fun i => i.hue = h) || (s.fab.msis.any fun m => m.hue = h && m.client.isNone) ||
  ((s.slicesOf h).any fun k => (s.slice k).jobs.any fun j => j.running.isSome || j.status.isSome) ||
  ((List.range 32).any fun k =>
    let x := s.home k
    (x.txns.any fun t => t.req.hue = h && !t.sweep) || (x.waitq.any fun m => m.hue = h) ||
      (x.wbs.any fun w => w.msg.hue = h) || x.wbHeldBack.any fun m => m.hue = h) ||
  ((List.range 12).any fun d => (s.die d).wb.any fun w => w.op = .wbData && w.hue = h)

/-- Step 4: guest files cleared and released, bindings blocked, slices unbound, L3 lines given to hue 0. -/
def State.hueStep4 (s : State) (h : Nat) : State :=
  let hue := BitVec.ofNat 12 h
  let s := s.setHueSt h { s.hueSt h with st := .resetting, step := 4 }
  let s := s.forEach ((s.hub.imsic.filter fun e => e.2.owner = some hue).map Prod.fst) fun s k => s.clearFile k none
  let s := s.upHub fun x => { x with bindings := x.bindings.map fun b => if b.hue = some hue then { b with hue := none } else b }
  let s := s.forEach (s.slicesOf hue) fun s k => (s.freeCells (s.slice k).cells).setSlice k {}
  s.forEach (List.range 12) fun s d =>
    let x := s.die d
    s.setDie d { x with l3 := x.l3.map fun e => (e.1, if e.2.hue = hue then { e.2 with hue := 0 } else e.2) }

/-- Step 5: the last record is closed, the counters go to zero, and the hue is FREE. -/
def State.hueStep5 (s : State) (h : Nat) : State :=
  let squashed := (s.hueSt h).squashed
  let s := if (s.meter h).open_ then
      let e : Word := BitVec.ofNat 64 ((s.now.toNat / 10000 + 1) * 10000)
      ((s.reach e).closeMeter h e false true squashed).setWord e false
    else s
  (s.setMeter h {}).setHueSt h {}

/-- HUE_DRAIN_COMPLETE. -/
def execHueDrainComplete (hue : BitVec 12) (s : State) : Host.Outcome State Fault Refusal :=
  live s fun s =>
    let x := s.hueSt hue.toNat
    if x.st = .draining && x.step = 2 && !s.inFlight hue then .next (s.hueStep4 hue.toNat) else .next s

/-- Step 3: running jobs stop, completions owed and writes not sent are discarded. -/
def State.squashHue (s : State) (hue : BitVec 12) : State :=
  let s := s.setHueSt hue.toNat { s.hueSt hue.toNat with step := 3, squashed := true }
  let s := s.forEach (s.slicesOf hue) fun s k =>
    let y := s.slice k
    s.setSlice k { y with jobs := y.jobs.map fun j => if j.running.isSome then j.halt 2 else j }
  let s := s.upHub fun h =>
    { h with inbound := (h.inbound.filter fun i => i.hue ≠ hue || i.sent).map fun i =>
        if i.hue = hue then { i with squashed := true } else i }
  s.forEach (List.finRange 32) fun s p => s.dmaGo p

/-- DRAIN_TMO_EXPIRY. -/
def execDrainTmoExpiry (hue : BitVec 12) (s : State) : Host.Outcome State Fault Refusal :=
  live s fun s =>
    let x := s.hueSt hue.toNat
    if x.st = .draining && x.step = 2 then
      let s := s.reach (BitVec.ofNat 64 x.drainTmo)
      .next (if s.inFlight hue then s.squashHue hue else s.hueStep4 hue.toNat)
    else .next s

/-- HUE_SQUASH_COMPLETE. -/
def execHueSquashComplete (hue : BitVec 12) (s : State) : Host.Outcome State Fault Refusal :=
  live s fun s =>
    let x := s.hueSt hue.toNat
    if x.st = .draining && x.step = 3 && !s.inFlight hue then .next (s.hueStep4 hue.toNat) else .next s

/-- HUE_RESET_DONE. In a cascade the master, or any survivor of it, sends the event. -/
def execHueResetDone (hue : BitVec 12) (s : State) : Host.Outcome State Fault Refusal :=
  liveMordant s fun s =>
    let x := s.hueSt hue.toNat
    if x.st = .resetting && x.step = 4 then
      let s := s.hueStep5 hue.toNat
      if (s.masterOnly.any fun e => e.1 = stMode) then .next s
      else .next (s.event 1 (leBytes 2 hue.toNat ++ leBytes 1 (bitOf x.squashed)))
    else .next s

/-- A reset of the package or of a partition frees the hues of its scope without the drain (R283). -/
def State.freeHues (s : State) (mine : Nat → Bool) : State :=
  s.forEach ((s.hub.hues.filter fun e => e.2.st ≠ .free && mine e.1).map Prod.fst) fun s h => (s.hueStep4 h).hueStep5 h

end Sys2Proof.Machine
end

