-- ==== Sys2Proof/Machine/Coherence.lean ====
section
/-! DEFINITION. The commands of the coherence protocol (rows RDS to IO_TMO_EXPIRY): each is the arrival of one message, or the
expiry of one timer. -/

namespace Sys2Proof.Machine

/-! ### Arrival -/

/-- The message is an answer: nothing answers it in turn. -/
def isAnswer (o : Op) : Bool :=
  !(cachedReq o || ioReq o || o = .rdNS || o = .wrNS || o = .wbData || takesLine o || o = .fwdSnap || o = .fwdClean)

/-- A message leaves the transport and reaches its destination. Packets from a fenced die are dropped, and a request or
forward for one is answered FENCED (R505). A die that stands still takes none. -/
def arrive (op : Op) (m : Msg) (s : State) (f : State → State) : Host.Outcome State Fault Refusal :=
  live s fun s =>
    if m.op ≠ op || s.dieStill m.dst then .next s
    else
      let s := s.deliver m
      if m.src < 12 && s.dieFenced m.src then .next s
      else if m.dst < 12 && s.dieFenced m.dst then
        .next (if isAnswer m.op then s else s.send { reply m .error m.src with src := m.dst, flag := 2 })
      else .next (f s)

/-- A request or writeback: to a home slice, or to the proxy of the link to its home. -/
def State.toHome (s : State) (m : Msg) (f : State → Msg → State) : State :=
  if 32 ≤ m.dst then f s m
  else if 14 ≤ m.dst && m.dst ≤ 16 then s.proxyTake (m.dst - 14) m
  else s.dropMsg (lineSlice m.line) .home m

/-- A forward: to a die, to the I/O agent for its CXL.cache devices, or to a proxy. -/
def State.toHolder (s : State) (m : Msg) : State :=
  if m.dst < 12 then s.dieForward (Fin.ofNat 12 m.dst) m
  else if m.dst = 12 then s.ioForward m
  else if 14 ≤ m.dst && m.dst ≤ 16 then s.proxyTake (m.dst - 14) m
  else s.dropMsg (lineSlice m.line) .home m

/-- An answer to a forward, or CompAck: to a home or a proxy. -/
def State.toSender (s : State) (m : Msg) (f : State → Msg → State) : State :=
  if 32 ≤ m.dst then f s m
  else if 14 ≤ m.dst && m.dst ≤ 16 then s.proxyTake (m.dst - 14) m
  else s.dropMsg (lineSlice m.line) .home m

/-- An answer to a requester: a die, the I/O agent, or a proxy. -/
def State.toRequester (s : State) (m : Msg) (die : State → Fin 12 → Msg → State) : State :=
  if m.dst < 12 then die s (Fin.ofNat 12 m.dst) m
  else if m.dst = 12 then s.ioAnswer m
  else if 14 ≤ m.dst && m.dst ≤ 16 then s.proxyTake (m.dst - 14) m
  else s.dropMsg (lineSlice m.line) .home m

/-- No die sends a request that this message answers (R174). -/
def State.noDie (s : State) (_ : Fin 12) (m : Msg) : State := s.dropMsg (lineSlice m.line) .home m

/-! ### Requests and writebacks -/

/-- RDS. -/
def execRds (m : Msg) (s : State) : Host.Outcome State Fault Refusal :=
  arrive .rdS m s fun s => s.toHome m State.homeAccept

/-- RDO. -/
def execRdo (m : Msg) (s : State) : Host.Outcome State Fault Refusal :=
  arrive .rdO m s fun s => s.toHome m State.homeAccept

/-- UPG. -/
def execUpg (m : Msg) (s : State) : Host.Outcome State Fault Refusal :=
  arrive .upg m s fun s => s.toHome m State.homeAccept

/-- CLAIMZ. -/
def execClaimz (m : Msg) (s : State) : Host.Outcome State Fault Refusal :=
  arrive .claimZ m s fun s => s.toHome m State.homeAccept

/-- CMOCLEAN. -/
def execCmoclean (m : Msg) (s : State) : Host.Outcome State Fault Refusal :=
  arrive .cmoClean m s fun s => s.toHome m State.homeAccept

/-- CMOFLUSH. -/
def execCmoflush (m : Msg) (s : State) : Host.Outcome State Fault Refusal :=
  arrive .cmoFlush m s fun s => s.toHome m State.homeAccept

/-- CMOINVAL. -/
def execCmoinval (m : Msg) (s : State) : Host.Outcome State Fault Refusal :=
  arrive .cmoInval m s fun s => s.toHome m State.homeAccept

/-- RDONCE. -/
def execRdonce (m : Msg) (s : State) : Host.Outcome State Fault Refusal :=
  arrive .rdOnce m s fun s => s.toHome m State.homeAccept

/-- WRFULL. -/
def execWrfull (m : Msg) (s : State) : Host.Outcome State Fault Refusal :=
  arrive .wrFull m s fun s => s.toHome m State.homeAccept

/-- WRPART. -/
def execWrpart (m : Msg) (s : State) : Host.Outcome State Fault Refusal :=
  arrive .wrPart m s fun s => s.toHome m State.homeAccept

/-- ATOMIO. -/
def execAtomio (m : Msg) (s : State) : Host.Outcome State Fault Refusal :=
  arrive .atomIO m s fun s => s.toHome m State.homeAccept

/-- RDNS. -/
def execRdns (m : Msg) (s : State) : Host.Outcome State Fault Refusal :=
  arrive .rdNS m s fun s => s.toHome m State.homeAccept

/-- WRNS. -/
def execWrns (m : Msg) (s : State) : Host.Outcome State Fault Refusal :=
  arrive .wrNS m s fun s => s.toHome m State.homeAccept

/-- WBDATA. -/
def execWbdata (m : Msg) (s : State) : Host.Outcome State Fault Refusal :=
  arrive .wbData m s fun s => s.toHome m State.homeAccept

/-- REQUEST_BEGIN: the oldest waiting request of a line begins (R154). -/
def execRequestBegin (slice : Fin 32) (line : Nat) (s : State) : Host.Outcome State Fault Refusal :=
  live s fun s => .next (s.homeNext slice.val line)

/-- DIRECTORY_SCRUB: one set is read, corrected and rewritten, or recovered (R148). -/
def execDirectoryScrub (slice : Fin 32) (r : ReadCheck) (s : State) : Host.Outcome State Fault Refusal :=
  live s fun s =>
    if !bit (s.cfg 0x0100) 0 then .next s
    else
      let k := slice.val
      let x := s.home k
      let set := x.scrubSet.val
      let s := s.setHome k { x with scrubSet := x.scrubSet + 1 }
      let has (p : DirEntry → Bool) : Bool := (List.range 12).any fun w => (Table.find x.dir (set * 12 + w)).any p
      if r = .uncorrectable || has DirEntry.bad then .next ((s.recoverStart k set).homeSettle k)
      else if r = .corrected && !has DirEntry.soft then .next (s.logE .corrected .home .correctedCode k 0 0 set)
      else .next (s.readSet k set)

/-! ### Forwards -/

/-- FWDS. -/
def execFwds (m : Msg) (s : State) : Host.Outcome State Fault Refusal := arrive .fwdS m s fun s => s.toHolder m

/-- FWDO. -/
def execFwdo (m : Msg) (s : State) : Host.Outcome State Fault Refusal := arrive .fwdO m s fun s => s.toHolder m

/-- FWDSNAP. -/
def execFwdsnap (m : Msg) (s : State) : Host.Outcome State Fault Refusal := arrive .fwdSnap m s fun s => s.toHolder m

/-- FWDCLEAN. -/
def execFwdclean (m : Msg) (s : State) : Host.Outcome State Fault Refusal := arrive .fwdClean m s fun s => s.toHolder m

/-- INV. -/
def execInv (m : Msg) (s : State) : Host.Outcome State Fault Refusal := arrive .inv m s fun s => s.toHolder m

/-- RECALL. -/
def execRecall (m : Msg) (s : State) : Host.Outcome State Fault Refusal := arrive .recall m s fun s => s.toHolder m

/-- RECALLDISCARD. -/
def execRecalldiscard (m : Msg) (s : State) : Host.Outcome State Fault Refusal :=
  arrive .recallDiscard m s fun s => s.toHolder m

/-- The home has sent a set recall to an agent that has not answered it. -/
def State.recallOwed (s : State) (slice set agent : Nat) : Bool :=
  (s.home slice).recov.any fun r => r.set = set && r.acks.any fun a => a.agent = agent

/-- SETRECALL, at a die, at the CXL.cache devices, or at a proxy for a set of the peer's (R148, R365). -/
def execSetrecall (agent : Fin 17) (slice : Fin 32) (set : Fin 16384) (s : State) : Host.Outcome State Fault Refusal :=
  live s fun s =>
    if agent.val < 12 then
      .next (if s.recallOwed slice.val set.val agent.val then s.dieSetRecall (Fin.ofNat 12 agent.val) slice.val set.val else s)
    else if agent.val = 12 then .next s.cxlSettle
    else if 14 ≤ agent.val then
      .next ((s.proxySetRecall (agent.val - 14) slice.val set.val).proxyRecallGo (agent.val - 14))
    else .next s

/-! ### Answers to homes -/

/-- FWDACK. -/
def execFwdack (m : Msg) (s : State) : Host.Outcome State Fault Refusal :=
  arrive .fwdAck m s fun s => s.toSender m State.homeAnswer

/-- FWDACKDATA. -/
def execFwdackdata (m : Msg) (s : State) : Host.Outcome State Fault Refusal :=
  arrive .fwdAckData m s fun s => s.toSender m State.homeAnswer

/-- INVACK. -/
def execInvack (m : Msg) (s : State) : Host.Outcome State Fault Refusal :=
  arrive .invAck m s fun s => s.toSender m State.homeAnswer

/-- RECALLACK. -/
def execRecallack (m : Msg) (s : State) : Host.Outcome State Fault Refusal :=
  arrive .recallAck m s fun s => s.toSender m State.homeAnswer

/-- RECALLACKDATA. -/
def execRecallackdata (m : Msg) (s : State) : Host.Outcome State Fault Refusal :=
  arrive .recallAckData m s fun s => s.toSender m State.homeAnswer

/-- An agent owes no set recall any more. -/
def State.recallDone (s : State) (slice set agent : Nat) : State :=
  let x := s.home slice
  let r' (r : Recovery) : Recovery :=
    if r.set = set then
      { r with acks := r.acks.filter fun a => a.agent ≠ agent, answered := r.answered.filter fun a => a ≠ agent }
    else r
  (s.setHome slice { x with recov := x.recov.map r' }).homeSettle slice

/-- The agent has sent the answer to a set recall: a die once it holds nothing of the set (R148). -/
def State.recallAnswered (s : State) (slice set agent : Nat) : Bool :=
  s.recallOwed slice set agent &&
    (!(agent < 12) || (s.home slice).recov.any fun r => r.set = set && r.answered.contains agent)

/-- SETRECALLACK. An answer that its agent has not sent is unexpected (R174). -/
def execSetrecallack (slice : Fin 32) (set : Fin 16384) (agent : Nat) (s : State) : Host.Outcome State Fault Refusal :=
  live s fun s =>
    if s.recallAnswered slice.val set.val agent then .next (s.recallDone slice.val set.val agent)
    else .next (s.logE .partner .home .unexpected slice.val 0 0 set.val agent)

/-- COMPACK. -/
def execCompack (m : Msg) (s : State) : Host.Outcome State Fault Refusal :=
  arrive .compAck m s fun s => s.toSender m State.homeCompAck

/-! ### Answers to requesters -/

/-- DATA. -/
def execData (m : Msg) (s : State) : Host.Outcome State Fault Refusal :=
  arrive .data m s fun s => s.toRequester m State.dieData

/-- DATAONCE. -/
def execDataonce (m : Msg) (s : State) : Host.Outcome State Fault Refusal :=
  arrive .dataOnce m s fun s => s.toRequester m State.noDie

/-- GRANT. -/
def execGrant (m : Msg) (s : State) : Host.Outcome State Fault Refusal :=
  arrive .grant m s fun s => s.toRequester m State.dieGrant

/-- WBACK. -/
def execWback (m : Msg) (s : State) : Host.Outcome State Fault Refusal :=
  arrive .wbAck m s fun s => s.toRequester m State.dieWbAck

/-- CMODONE. -/
def execCmodone (m : Msg) (s : State) : Host.Outcome State Fault Refusal :=
  arrive .cmoDone m s fun s => s.toRequester m State.dieCmoDone

/-- WRDONE. -/
def execWrdone (m : Msg) (s : State) : Host.Outcome State Fault Refusal :=
  arrive .wrDone m s fun s => s.toRequester m State.noDie

/-- ERROR (R191): at a hart for its I/O access, at a home for a forward (FENCED stands for the expiry of its timer), or at the
requester of a coherence request. -/
def execError (m : Msg) (io : Option HartId) (s : State) : Host.Outcome State Fault Refusal :=
  live s fun s =>
    match io with
    | some h =>
      (match s.takeIoAnswer h fun a => a = .error m.flag with
       | some (a, s) => .next (s.ioArrive h a)
       | none => .next (s.ioArrive h (.error m.flag)))
    | none =>
      arrive .error m s fun s =>
        if 32 ≤ m.dst then
          (if m.flag = 2 then s.homeExpire (lineSlice m.line) m.line m.src else s.dropMsg (lineSlice m.line) .home m)
        else s.toRequester m State.dieError

/-! ### Timers (R173, R190) -/

/-- FWD_TMO_EXPIRY: the home answers for the silent holder, and fences it. -/
def execFwdTmoExpiry (slice : Fin 32) (line : Nat) (agent : Nat) (s : State) : Host.Outcome State Fault Refusal :=
  live s fun s =>
    let k := slice.val
    let x := s.home k
    let owes := (x.txn line).any fun t => t.acks.any fun a => a.agent = agent
    let owesSet := x.recov.any fun r => r.set = lineSet line && r.acks.any fun a => a.agent = agent
    if !owes && !owesSet then .next s
    else
      let req := ((x.txn line).map fun t => t.req.req).getD 0
      let s := s.logE .partner .home .timeout k (line * 64) 0 (lineSet line) req
      let s := if owes then s.homeExpire k line agent else s.recallDone k (lineSet line) agent
      if agent < 12 then .next (s.fenceDie agent .home .timeout k)
      else if agent = 12 then .next (s.snoopExpire line)
      else if 14 ≤ agent && agent ≤ 16 then .next (s.memberLost (s.peerOf (agent - 14)))
      else .next s

/-- REQ_TMO_EXPIRY: the requester makes an Error with FLAG TIMEOUT and delivers it to itself. -/
def execReqTmoExpiry (agent : Nat) (line : Nat) (s : State) : Host.Outcome State Fault Refusal :=
  live s fun s =>
    if agent < 12 then .next (s.dieExpire (Fin.ofNat 12 agent) line)
    else if agent = 12 then .next (s.ioExpire line)
    else if 14 ≤ agent && agent ≤ 16 then .next (s.proxyReqExpire (agent - 14) line)
    else .next s

/-- IO_TMO_EXPIRY: a hart's I/O access has had no answer; the late one is owed (R192). -/
def execIoTmoExpiry (h : HartId) (s : State) : Host.Outcome State Fault Refusal :=
  live s fun s =>
    let x := s.hart (hartIx h)
    if x.io.isNone then .next s
    else
      let s := s.ioFinish h (.error 0)
      let x := s.hart (hartIx h)
      .next (s.setHart (hartIx h) { x with ioLate := x.ioLate + 1 })

end Sys2Proof.Machine
end

