-- ==== Sys2Proof/Machine/Crossing.lean ====
section
/-! DEFINITION. Ring stops and their agents (R176, R177), and the dual-clock queues in which clock domains meet (R196, R197). -/

namespace Sys2Proof.Machine

/-! ### Stops (R176, R177) -/

/-- The agents of ring stops. A tile holds physical cores 3t to 3t + 2 and L3 banks 2t and 2t + 1. -/
inductive StopAgent where
  | tile (t : Nat)
  | weldPort
  | service
  | bundle (d : Nat)
  | home (slice : Nat)
  | hbm (stack channel : Nat)
  | group (g : Nat)
  | engine
  | cascade (c : Nat)
  | mordant
  | control
  | bridge (up : Bool)
deriving DecidableEq, Repr

/-- The agent at a stop. -/
def agentAt (r : RingId) (stop : Nat) : Option StopAgent :=
  match r with
  | .die _ => if stop < 8 then some (.tile stop) else if stop = 8 then some .weldPort else if stop = 9 then some .service else none
  | .hub k =>
    if stop < 12 then some (.bundle stop)
    else if stop < 20 then some (.home (8 * k.val + (stop - 12)))
    else if stop < 24 then some (.hbm 0 (4 * k.val + (stop - 20)))
    else if stop < 28 then some (.hbm 1 (4 * k.val + (stop - 24)))
    else if stop < 36 then some (.group (stop - 28))
    else if stop = 36 then some .engine
    else if stop < 40 then some (.cascade (stop - 37))
    else if stop = 40 then some .mordant
    else if stop = 41 then some .control
    else if stop < 44 then some (.bridge (stop = 43))
    else none

/-- Stops on a ring. -/
def stopsOf (r : RingId) : Nat := match r with
  | .die _ => 10
  | .hub _ => 44

/-- The key of a stop (R498). -/
def stopKey (r : RingId) (stop : Nat) : Nat :=
  match r with
  | .die d => 0x100 + d.val * 16 + stop
  | .hub k => k.val * 64 + stop

/-- The ring and stop of a key. -/
def keyStop (key : Nat) : RingId × Nat :=
  if key < 0x100 then (.hub (Fin.ofNat 4 (key / 64)), key % 64) else (.die (Fin.ofNat 12 ((key - 0x100) / 16)), key % 16)

/-- The direction in which a packet goes from one stop to another: the shorter, clockwise where both are as long (R176, R177;
log entry 112). -/
def goesClockwise (r : RingId) (src dst : Nat) : Bool :=
  let n := stopsOf r
  let at_ (i : Nat) : Nat := Config.ringPlace n i % n
  2 * ((at_ dst + n - at_ src) % n) ≤ n

/-! ### Pointers (R197) -/

/-- Gray code, and back. -/
def grayOf (b : BitVec 6) : BitVec 6 := b ^^^ (b >>> 1)
def grayTo (g : BitVec 6) : BitVec 6 := g ^^^ (g >>> 1) ^^^ (g >>> 2) ^^^ (g >>> 3) ^^^ (g >>> 4) ^^^ (g >>> 5)

/-- The writer's full flag: what its copy of the read pointer shows. -/
def QueuePtrs.full (q : QueuePtrs) (depth : Nat) : Bool := depth ≤ (q.wptr - grayTo (q.toWrite.getLastD 0)).toNat

/-- Entries that the reader sees: what its copy of the write pointer shows. Its empty flag is 1 when it sees none. -/
def QueuePtrs.seen (q : QueuePtrs) : Nat := (grayTo (q.toRead.getLastD 0) - q.rptr).toNat
def QueuePtrs.empty (q : QueuePtrs) : Bool := q.seen = 0

def QueuePtrs.wrote (q : QueuePtrs) : QueuePtrs := { q with wptr := q.wptr + 1 }
def QueuePtrs.read (q : QueuePtrs) : QueuePtrs := { q with rptr := q.rptr + 1 }

/-- One clock of the read side, and of the write side. -/
def QueuePtrs.readClock (q : QueuePtrs) : QueuePtrs := { q with toRead := (grayOf q.wptr :: q.toRead).take 3 }
def QueuePtrs.writeClock (q : QueuePtrs) : QueuePtrs := { q with toWrite := (grayOf q.rptr :: q.toWrite).take 3 }

/-- A tick of 10 ns is three clocks or more of each side that runs; a side whose clock is stopped sees the flags it saw last. -/
def QueuePtrs.run (q : QueuePtrs) (write read : Bool) : QueuePtrs :=
  let q := if read then q.readClock.readClock.readClock else q
  if write then q.writeClock.writeClock.writeClock else q

/-- Write an entry unless the full flag is 1. -/
def DualQueue.push (q : DualQueue) (depth : Nat) (p : Slot) : Option DualQueue :=
  if q.ptrs.full depth then none else some { entries := q.entries ++ [p], ptrs := q.ptrs.wrote }

/-- Read an entry unless the empty flag is 1. -/
def DualQueue.pop (q : DualQueue) : Option (Slot × DualQueue) :=
  match q.entries with
  | [] => none
  | p :: l => if q.ptrs.empty then none else some (p, { entries := l, ptrs := q.ptrs.read })

/-! ### The crossings (R196) -/

/-- Entries for each virtual channel and direction of a stop's crossings; 0 where the stop has none. -/
def crossDepth (a : StopAgent) : Nat :=
  match a with
  | .tile _ => 8
  | .weldPort => 16
  | .bundle _ => 16
  | .hbm _ _ => 32
  | .group _ => 32
  | .cascade _ => 32
  | .mordant => 4
  | _ => 0

/-- The key of a queue: the stop, which of its crossings (the core of a tile, the bundle of a Weld port), the virtual channel, and
whether it leads onto the ring. -/
def crossKey (stop sub vc : Nat) (onto : Bool) : Nat := ((stop * 4 + sub) * 4 + vc) * 2 + bitOf onto

/-- The clock of a ring runs (R455, R457, R459). -/
def State.ringRuns (s : State) (r : RingId) : Bool :=
  s.clocked && (match r with
    | .die d => !s.dieStill d.val && !s.mgmt.power.asleep.contains (.dieRing d)
    | .hub k => !s.mgmt.power.asleep.contains (.hubRing k))

/-- The clock on the other side of a crossing runs (R457). -/
def State.otherRuns (s : State) (r : RingId) (a : StopAgent) (sub : Nat) : Bool :=
  match r, a with
  | .die d, .tile t =>
    s.clocked && !s.dieStill d.val && (List.range 22).any fun l =>
      (s.core (d.val * 32 + l)).phys.val = 3 * t + sub && (s.core (d.val * 32 + l)).idle = .cs0
  | .die d, _ => s.clocked && (Table.get {} (s.port d.val).bundles sub).st = .active
  | .hub k, .bundle d => s.clocked && (Table.get {} (s.port d).bundles k.val).st = .active
  | _, .hbm stack ch =>
    s.clocked && !(s.mgmt.power.pkg = .ps2 && (List.range 2).all fun p =>
      s.mgmt.power.asleep.contains (.pc (Fin.ofNat 64 (stack * 32 + ch * 2 + p))))
  | _, .group g => s.clocked && (List.range 4).any fun i => (s.rootPort (4 * g + i)).link = .up
  | _, .cascade c => s.clocked && (Table.get {} (s.port 12).bundles c).st = .active
  | _, _ => s.timed

/-- One tick of a queue's two clocks. -/
def State.crossRun (s : State) (key : Nat) : State :=
  let (r, stop) := keyStop (key / 32)
  match agentAt r stop with
  | none => s
  | some a =>
    let q := s.crossing key
    let ring := s.ringRuns r
    let other := s.otherRuns r a (key / 8 % 4)
    s.setCrossing key { q with ptrs := if key % 2 = 1 then q.ptrs.run other ring else q.ptrs.run ring other }

/-- A reset scope that covers both sides of some crossings resets both pointers of each (R197). -/
def State.crossReset (s : State) (covers : Nat → Bool) : State :=
  s.upFab fun f => { f with crossings := f.crossings.filter fun e => !covers e.1 }

end Sys2Proof.Machine
end

