-- ==== Sys2Proof/Machine/Ring.lean ====
section
/-! DEFINITION. Slots and packets on the rings (R180 to R195), and the I/O messages that end at harts and interrupt files
(rows MSIWR to INJECTION_WAIT_TAG). -/

namespace Sys2Proof.Machine

/-! ### The header (R181, R182, R184) -/

/-- The 6-bit opcode of a coherence message (R150). -/
def opCode : Op → Nat
  | .rdS => 0x01 | .rdO => 0x02 | .upg => 0x03 | .claimZ => 0x04
  | .cmoClean => 0x05 | .cmoFlush => 0x06 | .cmoInval => 0x07
  | .rdOnce => 0x08 | .wrFull => 0x09 | .wrPart => 0x0A | .atomIO => 0x0B | .rdNS => 0x0C | .wrNS => 0x0D
  | .wbData => 0x10
  | .fwdS => 0x20 | .fwdO => 0x21 | .fwdSnap => 0x22 | .fwdClean => 0x23
  | .inv => 0x24 | .recall => 0x25 | .recallDiscard => 0x26 | .setRecall => 0x27
  | .fwdAck => 0x30 | .invAck => 0x31 | .recallAck => 0x32 | .setRecallAck => 0x33 | .compAck => 0x34
  | .grant => 0x35 | .wbAck => 0x36 | .cmoDone => 0x37 | .wrDone => 0x38
  | .data => 0x39 | .dataOnce => 0x3A | .fwdAckData => 0x3B | .recallAckData => 0x3C | .error => 0x3F

/-- Every coherence opcode. -/
def allOps : List Op :=
  [.rdS, .rdO, .upg, .claimZ, .cmoClean, .cmoFlush, .cmoInval, .rdOnce, .wrFull, .wrPart, .atomIO, .rdNS, .wrNS, .wbData,
   .fwdS, .fwdO, .fwdSnap, .fwdClean, .inv, .recall, .recallDiscard, .setRecall, .fwdAck, .invAck, .recallAck,
   .setRecallAck, .compAck, .grant, .wbAck, .cmoDone, .wrDone, .data, .dataOnce, .fwdAckData, .recallAckData, .error]

/-- The opcode that a value names. -/
def opOf (c : Nat) : Option Op := allOps.find? fun o => opCode o = c

/-- The virtual channel of a coherence opcode (R149, R184). -/
def opVc (o : Op) : Nat :=
  if opCode o < 0x10 then 0 else if opCode o = 0x10 then 1 else if opCode o < 0x30 then 2 else 3

/-- The virtual channel of an I/O opcode (R183), none for an unlisted one. -/
def ioVc (c : Nat) : Option Nat :=
  if c = 1 || c = 2 || c = 3 then some 0 else if c = 4 || c = 5 || c = 0x3F then some 3 else none

/-- The fields of a header. -/
structure Header where
  opcode : Nat
  flag : BitVec 2
  vc : Nat
  data : Bool
  poison : Bool
  cls : BitVec 3
  hue : BitVec 12
  addr : Nat
  txid : BitVec 12
  req : Nat
  src : Nat
  dst : Nat
  io : Bool
  pass_ : Nat
  atomop : BitVec 4
  size : BitVec 2
  reserved : BitVec 12
deriving DecidableEq, Repr

/-- Read a header's fields. -/
def headerOf (b : BitVec 128) : Header :=
  { opcode := (b.extractLsb' 122 6).toNat, flag := b.extractLsb' 120 2, vc := (b.extractLsb' 118 2).toNat,
    data := b.getLsbD 117, poison := b.getLsbD 116, cls := b.extractLsb' 113 3, hue := b.extractLsb' 101 12,
    addr := (b.extractLsb' 55 46).toNat, txid := b.extractLsb' 43 12, req := (b.extractLsb' 38 5).toNat,
    src := (b.extractLsb' 30 8).toNat, dst := (b.extractLsb' 22 8).toNat, io := b.getLsbD 21,
    pass_ := (b.extractLsb' 18 3).toNat, atomop := b.extractLsb' 14 4, size := b.extractLsb' 12 2,
    reserved := b.extractLsb' 0 12 }

/-- Build a header from its fields. -/
def headerBits (h : Header) : BitVec 128 :=
  BitVec.ofNat 6 h.opcode ++ h.flag ++ BitVec.ofNat 2 h.vc ++ BitVec.ofBool h.data ++ BitVec.ofBool h.poison ++ h.cls ++
    h.hue ++ BitVec.ofNat 46 h.addr ++ h.txid ++ BitVec.ofNat 5 h.req ++ BitVec.ofNat 8 h.src ++ BitVec.ofNat 8 h.dst ++
    BitVec.ofBool h.io ++ BitVec.ofNat 3 h.pass_ ++ h.atomop ++ h.size ++ h.reserved

/-- A field of SRC or DST names a stop of a ring: DST of a hub ring may name a stop of another, which bridges lead to (R179, R221). -/
def ringHas (r : RingId) (dst : Nat) : Bool :=
  match r with
  | .die _ => dst < 10
  | .hub _ => dst % 64 < 44

/-- SRC names the stop at which the packet entered this ring. -/
def ringFrom (r : RingId) (src : Nat) : Bool :=
  match r with
  | .die _ => src < 10
  | .hub k => src / 64 = k.val && src % 64 < 44

/-- The stop of this ring that a packet goes to: its destination, or the bridge on the shorter way to the destination's ring,
the one to the next ring where both ways are as long (R177, R179; log entry 112). -/
def ringTarget (r : RingId) (dst : Nat) : Nat :=
  match r with
  | .die _ => dst
  | .hub k => if dst / 64 % 4 = k.val then dst % 64 else if (k.val + 4 - dst / 64 % 4) % 4 = 1 then 42 else 43

/-- The header keeps R181 (R182). -/
def Header.ok (h : Header) (r : RingId) : Bool :=
  h.req ≤ 17 && h.size ≠ 3 && ringHas r h.dst && ringFrom r h.src &&
    (if h.io then ioVc h.opcode = some h.vc && h.atomop = 0
     else match opOf h.opcode with
      | some o => opVc o = h.vc && (if o = .atomIO then 1 ≤ h.atomop.toNat && h.atomop.toNat ≤ 3 else h.atomop = 0)
      | none => false)

/-- The agent at a stop of a hub ring (R177), as messages number agents. -/
def stopAgent (k stop : Nat) : Option Nat :=
  if stop < 12 then some stop
  else if stop < 20 then some (32 + 8 * k + (stop - 12))
  else if stop < 28 then none
  else if stop < 36 then some 12
  else if stop < 41 then some (stop - 23)
  else none

/-- The coherence message that a packet on a hub ring carries. One that crossed a bridge names that as its SRC: it is the
requester's (R181). -/
def slotMsg (p : Slot) : Option Msg :=
  let h := headerOf p.header
  let src := if 42 ≤ h.src % 64 then some h.req else stopAgent (h.src / 64) (h.src % 64)
  match opOf h.opcode, stopAgent (h.dst / 64) (h.dst % 64), src with
  | some o, some dst, some src =>
    if h.io then none
    else some
      { op := o, line := h.addr, src := src, dst := dst, req := h.req, txid := h.txid, flag := h.flag, hue := h.hue,
        cls := h.cls, poison := h.poison, data := if h.data then p.data else [],
        mask := if o = .wrPart || o = .wrNS then p.mask else 0, atomop := h.atomop, size := h.size }
  | _, _, _ => none

/-! ### Per-hop code (R193, R194) -/

/-- The 192 bits of the control lane: MASK above the header. -/
def ctlBits (p : Slot) : Nat := p.mask.toNat * 2 ^ 128 + p.header.toNat

/-- What the check of a lane of `n` bits shows: good, one bit to turn, or an error it cannot correct. -/
inductive Hop where
  | good
  | bit (i : Nat)
  | bad
deriving DecidableEq, Repr

/-- Check a lane against its 16 check bits on a hub ring. A wrong check bit is itself a single-bit error, and turns none of
the lane's. -/
def hopCheck (n v : Nat) (check : BitVec 16) : Hop :=
  let s := ringCrc n v ^^^ check
  if s = 0 then .good
  else if (List.range 16).any fun i => s = BitVec.ofNat 16 (2 ^ i) then .bit n
  else match (List.range n).find? fun i => ringCrc n (2 ^ i) = s with
    | some i => .bit i
    | none => .bad

/-- The parity bits of a lane of `n` groups of 64 bits. -/
def laneParity (n v : Nat) : BitVec 16 :=
  BitVec.ofNat 16 ((List.range n).foldl (fun a i => a + popCount 64 (v / 2 ^ (64 * i)) % 2 * 2 ^ i) 0)

/-- Check a lane on either kind of ring. -/
def laneCheck (r : RingId) (n v : Nat) (check : BitVec 16) : Hop :=
  match r with
  | .hub _ => hopCheck n v check
  | .die _ => if laneParity (n / 64) v = check then .good else .bad

/-- The check bits of a lane (R193). -/
def laneCode (r : RingId) (n v : Nat) : BitVec 16 :=
  match r with
  | .hub _ => ringCrc n v
  | .die _ => laneParity (n / 64) v

/-- The slot with the check bits of both lanes computed afresh. -/
def recheck (r : RingId) (p : Slot) : Slot :=
  { p with ctlCheck := laneCode r 192 (ctlBits p), dataCheck := laneCode r 512 (leNat p.data) }

/-- The slot with its header changed, its check bits computed afresh. -/
def reheader (r : RingId) (p : Slot) (f : Header → Header) : Slot :=
  recheck r { p with header := headerBits (f (headerOf p.header)) }

/-- Turn bit `i` of a number; an index at or above `n` turns none. -/
def turnBit (n v i : Nat) : Nat := if i < n then v ^^^ 2 ^ i else v

/-- Log a transport event against a link (R498). -/
def State.hopLog (s : State) (cls : ErrClass) (why : ErrReason) (key : Nat) (p : Slot) : State :=
  s.logE cls .ring why key 0 (p.header.extractLsb' 101 12) (p.header.extractLsb' 64 64).toNat
    (p.header.extractLsb' 32 32).toNat

/-- The slot after the hop's check, its check bits computed afresh; none when it is emptied. -/
def State.hop (s : State) (r : RingId) (key : Nat) (p : Slot) : Option Slot × State :=
  let count (s : State) : State := match r with
    | .hub k => s.uncount (64 + k.val) 0x04 1 0 0 false
    | .die _ => s
  match laneCheck r 192 (ctlBits p) p.ctlCheck with
  | .bad => (none, s.hopLog .uncorrected .transport key p)
  | c =>
    let (p, s) := match c with
      | .bit i =>
        let v := turnBit 192 (ctlBits p) i
        ({ p with header := BitVec.ofNat 128 v, mask := BitVec.ofNat 64 (v / 2 ^ 128) },
          count (s.hopLog .corrected .correctedCode key p))
      | _ => (p, s)
    let n := leNat p.data
    match laneCheck r 512 n p.dataCheck with
    | .good => (some (recheck r p), s)
    | .bit i => (some (recheck r { p with data := leBytes 64 (turnBit 512 n i) }), count (s.hopLog .corrected .correctedCode key p))
    | .bad =>
      (some (recheck r { p with header := p.header ||| BitVec.ofNat 128 (2 ^ 116) }), s.hopLog .uncorrected .transport key p)

/-! ### The packets of messages (R179 to R183) -/

/-- The ring that a message uses: its line's home slice lies there (R179). -/
def msgRing (line : Nat) : Nat := lineSlice line / 8

/-- The bundle of a port that carries packets for ring `k`: `k` while it is ACTIVE, else the nearest ACTIVE one (R179, R221). -/
def State.bundleFor (s : State) (p k : Nat) : Option Nat :=
  ([k, k + 1, k + 3, k + 2].map (· % 4)).find? fun j => (Table.get {} (s.port p).bundles j).st = .active

/-- The tile stop of a line's L3 bank (R116, R176), and of a logical core. -/
def lineTile (line : Nat) : Nat := l3SetOf line / 2048 / 2
def State.coreTile (s : State) (h : HartId) : Nat := (s.core (h.die.val * 32 + h.core.val)).phys.val / 3

/-- The group at which the I/O agent's side of a message lies: that of the port whose request it is, or of the lowest port that
holds the line (R181). -/
def State.ioGroup (s : State) (m : Msg) : Nat :=
  let dma := (s.hub.inbound.find? fun i => i.lines.contains (m.txid, m.line)).map fun i => i.port.val
  let cache := (s.hub.cacheReqs.find? fun c => c.line = m.line && (c.sent.map Prod.snd) = some m.txid).map fun c => c.port.val
  let held := (s.filterAt m.line).bind fun f => (ones 32 f.holders.toNat).head?
  ((dma.or cache).or held).getD 0 / 4

/-- An agent's stop on a hub ring (R177, R181). -/
def State.hubStop (s : State) (a : Nat) (m : Msg) : Nat :=
  if a < 12 then a else if a = 12 then 28 + s.ioGroup m else if a ≤ 17 then a + 23 else 12 + (a - 32) % 8

/-- The stop of the target of an I/O access: the cascade port to another member, the group of a root port, or the control stop. -/
def State.ioStop (s : State) (part : Option Nat) (pa : Nat) : Nat :=
  if pa / 2 ^ 50 % 4 ≠ s.pkgIx then 37 + s.linkTo (pa / 2 ^ 50 % 4)
  else match s.region part pa, s.portAt part (pa % 2 ^ 50) with
    | .pcie, some r => 28 + r / 4
    | _, _ => 41

/-- The TXID of a hart's I/O access: its logical core and thread (log entry 112). -/
def hartTxid (h : HartId) : BitVec 12 := BitVec.ofNat 12 (h.core.val * 2 + h.thread.val)

/-- SIZE of an access in bytes (R181). -/
def sizeCode (n : Nat) : BitVec 2 := if n ≤ 4 then 0 else if n ≤ 8 then 1 else 2

/-- A slot from its parts, with the check bits of its ring. -/
def slotOf (r : RingId) (h : Header) (mask : Word) (data : Bytes) : Slot :=
  recheck r { header := headerBits { h with data := !data.isEmpty }, mask := mask, data := data, ctlCheck := 0, dataCheck := 0 }

/-- Where an I/O packet of a hart enters and leaves a ring: from the hart's tile to the Weld port, across the hub on ring
(core mod 4) to the target's stop, and back the same way (R179). -/
def State.ioEnds (s : State) (r : RingId) (h : HartId) (pa : Nat) (back : Bool) : Option (Nat × Nat) :=
  let k := h.core.val % 4
  let target := s.ioStop (s.partOfDie h.die.val) pa
  match r with
  | .die d =>
    if d ≠ h.die then none else if back then some (8, s.coreTile h) else some (s.coreTile h, 8)
  | .hub j =>
    if back then (s.bundleFor h.die.val k).map fun b => (j.val * 64 + target, b * 64 + h.die.val)
    else some (j.val * 64 + h.die.val, k * 64 + target)

/-- Where a coherence packet enters and leaves a ring. -/
def State.msgEnds (s : State) (r : RingId) (m : Msg) : Option (Nat × Nat) :=
  let k := msgRing m.line
  match r with
  | .die d =>
    if m.src = d.val then some (lineTile m.line, 8) else if m.dst = d.val then some (8, lineTile m.line) else none
  | .hub j =>
    let at_ (b : Nat) : Nat × Nat := (j.val * 64 + s.hubStop m.src m, b * 64 + s.hubStop m.dst m)
    if m.dst < 12 then (s.bundleFor m.dst k).map at_ else some (at_ k)

/-- The packet that carries a message on a ring. -/
def State.slotFor (s : State) (r : RingId) (q : Packet) : Option Slot :=
  let base : Header :=
    { opcode := 0, flag := 0, vc := 0, data := false, poison := false, cls := 0, hue := 0, addr := 0, txid := 0, req := 0, src := 0,
      dst := 0, io := true, pass_ := 0, atomop := 0, size := 0, reserved := 0 }
  let bytesMask (pa n : Nat) : Word := BitVec.ofNat 64 ((2 ^ n - 1) * 2 ^ (pa % 64))
  let lane (pa n : Nat) (v : Word) : Bytes := splice zeroLine (pa % 64) ((leBytes 8 v.toNat).take n)
  match q with
  | .coh m =>
    (s.msgEnds r m).map fun e =>
      slotOf r
        { base with
          opcode := opCode m.op, flag := m.flag, vc := opVc m.op, poison := m.poison, cls := m.cls, hue := m.hue, addr := m.line,
          txid := m.txid, req := m.req, src := e.1, dst := e.2, io := false, atomop := m.atomop, size := m.size }
        m.mask m.data
  | .io w q =>
    let head : Header :=
      { base with opcode := if w then 2 else 1, addr := q.pa / 64, hue := q.hue, size := sizeCode q.size }
    let data := if w then lane q.pa q.size q.value else []
    (match q.client with
     | .hart h => (s.ioEnds r h q.pa false).map fun e =>
       slotOf r { head with txid := hartTxid h, req := h.die.val, cls := s.classOf h.die.val q.hue, src := e.1, dst := e.2 }
         (bytesMask q.pa q.size) data
     | .mordant => (match r with
       | .hub j => some (slotOf r { head with req := 17, src := j.val * 64 + 40, dst := s.ioStop none q.pa } (bytesMask q.pa q.size)
         data)
       | .die _ => none))
  | .msi m =>
    m.client.bind fun h => (s.ioEnds r h m.pa false).map fun e =>
      slotOf r
        { base with opcode := 3, addr := m.pa / 64, hue := m.hue, size := sizeCode m.size, txid := hartTxid h, req := h.die.val,
                    cls := s.classOf h.die.val m.hue, src := e.1, dst := e.2 }
        0 (lane m.pa m.size m.value)
  | .ans h a =>
    (s.hart (hartIx h)).io.bind fun x => (s.ioEnds r h x.pa true).map fun e =>
      let head : Header :=
        { base with vc := 3, addr := x.pa / 64, txid := hartTxid h, req := h.die.val, hue := x.hue, src := e.1, dst := e.2 }
      match a with
      | .data v p => slotOf r { head with opcode := 4, poison := p } 0 (lane x.pa x.size v)
      | .ack => slotOf r { head with opcode := 5 } 0 []
      | .error f => slotOf r { head with opcode := 0x3F, flag := f } 0 []

/-- The messages that are on their way, as packets carry them. -/
def State.due (s : State) : List Packet :=
  s.fab.net.map .coh ++ s.fab.ioReqs.map (fun q => .io q.1 q.2) ++ s.fab.msis.map .msi ++
    s.fab.ioAnswers.map fun a => .ans a.1 a.2

/-- Two headers of one packet: PASS, POISON and a bridge as SRC may differ. -/
def Header.same (a b : Header) : Bool :=
  a.opcode = b.opcode && a.io = b.io && a.req = b.req && a.txid = b.txid && a.addr = b.addr && a.dst % 64 = b.dst % 64 &&
    (a.src % 64 = b.src % 64 || 42 ≤ a.src % 64 || 42 ≤ b.src % 64)

/-- The slot on a ring carries this message. -/
def State.packetIs (s : State) (r : RingId) (p : Slot) (q : Packet) : Bool :=
  (s.slotFor r q).any fun z => (headerOf z.header).same (headerOf p.header)

/-- The message on its way that a slot carries. -/
def State.packetOf (s : State) (r : RingId) (p : Slot) : Option Packet := s.due.find? fun q => s.packetIs r p q

/-- A message that never arrives leaves the transport. -/
def State.lose (s : State) (q : Packet) : State :=
  match q with
  | .coh m => s.deliver m
  | .io w q => s.upFab fun f => { f with ioReqs := f.ioReqs.erase (w, q) }
  | .msi m => s.upFab fun f => { f with msis := f.msis.erase m }
  | .ans h a => s.upFab fun f => { f with ioAnswers := f.ioAnswers.erase (h, a) }

/-! ### Ejection (R185 to R187) -/

/-- Mark the data of a message poisoned (R194). A poisoned I/O write or interrupt write, which its target cannot store, is answered
with Error TRANSPORT. -/
def State.ringPoison (s : State) (r : RingId) (p : Slot) : State :=
  if !(headerOf p.header).poison then s
  else match s.packetOf r p with
    | some (.io true q) =>
      let s := s.lose (.io true q)
      (match q.client with
       | .hart h => s.upFab fun f => { f with ioAnswers := f.ioAnswers ++ [(h, .error 3)] }
       | .mordant => s)
    | some (.msi m) =>
      let s := s.lose (.msi m)
      (match m.client with
       | some h => s.upFab fun f => { f with ioAnswers := f.ioAnswers ++ [(h, .error 3)] }
       | none => s)
    | some (.ans h (.data v _)) =>
      s.upFab fun f => { f with ioAnswers := f.ioAnswers.map fun a => if a = (h, .data v false) then (h, .data v true) else a }
    | some (.coh m) =>
      s.upFab fun f => { f with net := f.net.map fun n => if n = m && !n.data.isEmpty then { n with poison := true } else n }
    | _ => s

/-- The hart that an I/O packet names (R181). -/
def packetHart (h : Header) : Option HartId :=
  if h.req < 12 && h.txid.toNat < 44 then
    some ⟨Fin.ofNat 12 h.req, Fin.ofNat 22 (h.txid.toNat / 2), Fin.ofNat 2 h.txid.toNat⟩
  else none

/-- An I/O packet as a message (R183): an access that a hart or Mordant makes, or the answer of a hart's. -/
def State.slotIo (s : State) (p : Slot) : Option Packet :=
  let h := headerOf p.header
  let off := maskOffset p.mask
  let n := sizeBytes h.size
  let client : Option IoClient := if h.req = 17 then some .mordant else (packetHart h).map .hart
  let value (o : Nat) : Word := BitVec.ofNat 64 (leAt p.data o (min n 8))
  let access := (packetHart h).bind fun x => ((s.hart (hartIx x)).io.filter fun i => lineOf i.pa = h.addr).map fun i => (x, i)
  if h.opcode = 1 then client.map fun c => .io false { client := c, pa := h.addr * 64 + off, size := n, hue := h.hue }
  else if h.opcode = 2 then
    client.map fun c => .io true { client := c, pa := h.addr * 64 + off, size := n, value := value off, hue := h.hue }
  else if h.opcode = 3 then
    let at_ := ((List.range 64).find? fun i => p.data.getD i 0 ≠ 0).getD 0 / n * n
    some (.msi { pa := h.addr * 64 + at_, size := n, value := value at_, hue := h.hue, client := packetHart h })
  else if h.opcode = 4 then access.map fun x => .ans x.1 (.data (BitVec.ofNat 64 (leAt p.data (x.2.pa % 64) (min x.2.size 8))) h.poison)
  else if h.opcode = 5 then access.map fun x => .ans x.1 .ack
  else access.map fun x => .ans x.1 (.error h.flag)

/-- A message joins those on their way. -/
def State.join (s : State) (q : Packet) : State :=
  match q with
  | .coh m => s.send m
  | .io w q => s.upFab fun f => { f with ioReqs := f.ioReqs ++ [(w, q)] }
  | .msi m => s.upFab fun f => { f with msis := f.msis ++ [m] }
  | .ans h a => s.upFab fun f => { f with ioAnswers := f.ioAnswers ++ [(h, a)] }

/-- A packet that no agent of the package sent, as a partner's is, enters the transport where it comes in: its packet has set out
already. -/
def State.ringEject (s : State) (r : RingId) (p : Slot) : State :=
  let s := s.ringPoison r p
  if (s.packetOf r p).isSome then s
  else match (if (headerOf p.header).io then s.slotIo p else (slotMsg p).map .coh) with
    | none => s
    | some q => (s.join q).upFab fun f => { f with launched := f.launched ++ [q] }

/-- The packets of a queue that their agent has not taken yet. -/
def State.waitingIn (s : State) (r : RingId) (q : List (BitVec 2 × Slot)) : List (BitVec 2 × Slot) :=
  q.filter fun e => (s.packetOf r e.2).isSome

/-- The agent at a stop passes packets on: a bridge, or a Weld port. -/
def passesOn (a : Option StopAgent) : Bool :=
  match a with
  | some (.bridge _) => true
  | some (.bundle _) => true
  | some .weldPort => true
  | _ => false

def isBridge (a : Option StopAgent) : Bool :=
  match a with
  | some (.bridge _) => true
  | _ => false

/-- The packet passes its destination and stays in its slot: PASS counts. A packet that arrived with PASS at 2 or more has its
source listed (R186): the rule does not say whether the count of the pass that is being made is in the PASS that it tests. DESIGN
CHOICE, log entry 114: it is not. -/
def State.ringPass (s : State) (r : RingId) (stop : Nat) (e : RingSlot) : State :=
  let key := stopKey r stop
  let h := headerOf e.slot.header
  let st := s.stop key
  let entry : BitVec 2 × BitVec 8 := (BitVec.ofNat 2 h.vc, BitVec.ofNat 8 h.src)
  let st := if 2 ≤ h.pass_ && !st.reserve.contains entry then { st with reserve := st.reserve ++ [entry] } else st
  let on := { e with slot := reheader r e.slot fun h => { h with pass_ := min 7 (h.pass_ + 1) } }
  let s := (s.setStop key st).upFab fun f => { f with onRing := f.onRing ++ [on] }
  match r with
  | .hub k => s.uncount (64 + k.val) 0x03 1 h.hue h.cls
  | .die _ => s

/-- A slot that arrived with its control lane damaged may have been this one: on a hub ring its check bits, or its lane, came whole;
on a compute-die ring so did every group of eight bytes whose parity is good. -/
def couldBe (r : RingId) (p z : Slot) : Bool :=
  match r with
  | .hub _ => z.ctlCheck = p.ctlCheck || ctlBits z = ctlBits p
  | .die _ =>
    let group (v i : Nat) : Nat := v / 2 ^ (64 * i) % 2 ^ 64
    (List.range 3).all fun i =>
      group (ctlBits z) i = group (ctlBits p) i || bitOf (p.ctlCheck.getLsbD i) ≠ popCount 64 (group (ctlBits p) i) % 2

/-- The slot that was emptied carried a packet of the ring: its message never arrives (R194). -/
def State.ringEmptied (s : State) (r : RingId) (p : Slot) : State :=
  match s.fab.onRing.find? fun e => e.ring = r && couldBe r p e.slot with
  | none => s
  | some e =>
    let s := match s.packetOf r e.slot with
      | some q => if e.foreign then s else s.lose q
      | none => s
    s.upFab fun f => { f with onRing := f.onRing.erase e }

/-- The slot of the ring that arrives, as the ring held it. -/
def State.slotOn (s : State) (r : RingId) (p : Slot) : Option RingSlot :=
  s.fab.onRing.find? fun e => e.ring = r && (headerOf e.slot.header).same (headerOf p.header)

/-- A slot reaches a stop or bridge. -/
def State.ringArrive (s : State) (r : RingId) (stop : Nat) (p : Slot) : State :=
  let key := stopKey r stop
  let busy (s : State) (h : Header) : State := match r with
    | .hub k => s.uncount (64 + k.val) 0x01 1 h.hue h.cls
    | .die _ => s
  match s.hop r key p with
  | (none, s) => s.ringEmptied r p
  | (some p, s) =>
    let h := headerOf p.header
    if !h.ok r then s.hopLog .uncorrected .transport key p
    else
      let old := s.slotOn r p
      if ringTarget r h.dst ≠ stop then
        busy (s.upFab fun f => { f with onRing := f.onRing.map fun e => if some e = old then { e with slot := p } else e }) h
      else
        let e : RingSlot := (old.map fun e => { e with slot := p }).getD
          { ring := r, clockwise := goesClockwise r (h.src % 64) stop, slot := p, foreign := true }
        let s := match old with
          | some o => s.upFab fun f => { f with onRing := f.onRing.erase o }
          | none => s
        let a := agentAt r stop
        let st := s.stop key
        let q := if passesOn a then st.ingress else s.waitingIn r st.ingress
        let s := s.setStop key { st with ingress := q }
        let vc := BitVec.ofNat 2 h.vc
        let keep (s : State) : State :=
          let st := s.stop key
          s.setStop key { st with ingress := st.ingress ++ [(vc, p)], reserve := st.reserve.erase (vc, BitVec.ofNat 8 h.src) }
        if h.vc = 3 && !isBridge a then
          let s := s.ringEject r p
          if passesOn a then keep s else s
        else
          let free := Config.ingressDepth - (q.filter fun e => e.1 = vc).length
          let list := (st.reserve.filter fun e => e.1 = vc).map Prod.snd
          let ahead := (list.takeWhile fun a => a ≠ BitVec.ofNat 8 h.src).length
          if ahead < free then
            let s := keep (s.ringEject r p)
            match r with
            | .hub k => if isBridge a then s.uncount (64 + k.val) 0x02 1 h.hue h.cls else s
            | .die _ => s
          else (busy s h).ringPass r stop e

/-! ### The commands -/

/-- MSIWR: an IMSIC file receives a write (R272, R275). A hart's store is acknowledged; a page that is no file ignores it. -/
def execMsiwr (m : MsiMsg) (s : State) : Host.Outcome State Fault Refusal :=
  live s fun s =>
    let s := s.upFab fun f => { f with msis := f.msis.erase m }
    let part := m.client.bind fun h => s.partOfDie h.die.val
    let s := match s.filePage part m.pa with
      | some key => s.fileWrite key (m.pa % 4096) m.size m.value m.hue
      | none => s
    match m.client with
    | some h => .next (s.upFab fun f => { f with ioAnswers := f.ioAnswers ++ [(h, .ack)] })
    | none => .next s

/-- IORDDATA: the data of a hart's I/O read arrives. -/
def execIorddata (h : HartId) (s : State) : Host.Outcome State Fault Refusal :=
  live s fun s =>
    match s.takeIoAnswer h (fun a => match a with
      | .data _ _ => true
      | _ => false) with
    | some (a, s) => .next (s.ioArrive h a)
    | none => .next s

/-- IOWRACK: the target has accepted a hart's I/O write. -/
def execIowrack (h : HartId) (s : State) : Host.Outcome State Fault Refusal :=
  live s fun s =>
    match s.takeIoAnswer h fun a => a = .ack with
    | some (a, s) => .next (s.ioArrive h a)
    | none => .next s

/-- RING_PACKET_ARRIVAL. -/
def execRingPacketArrival (r : RingId) (stop : Nat) (p : Slot) (s : State) : Host.Outcome State Fault Refusal :=
  live s fun s => .next (s.ringArrive r stop p)

/-- INJECTION_WAIT_TAG: a stop that has waited 32 ring cycles tags the next slot of a direction (R187). -/
def execInjectionWaitTag (r : RingId) (stop : Nat) (clockwise : Bool) (s : State) : Host.Outcome State Fault Refusal :=
  live s fun s =>
    let st := s.stop (stopKey r stop)
    .next (s.setStop (stopKey r stop)
      (if clockwise then { st with tagCw := true } else { st with tagCcw := true }))

end Sys2Proof.Machine
end

