-- ==== Sys2Proof/Machine/Weld.lean ====
section
/-! DEFINITION. Weld links: the sideband, flits, credits, replay, training and the loss of bundles and ports (R198 to R228). A
cascade link carries the same link layer (R464): it is a bundle of port 12, its own end held as the hub's. -/

namespace Sys2Proof.Machine

/-! ### Bundles and ends -/

def linkPort (e : LinkEnd) : Nat := match e with
  | .weld d _ _ => d.val
  | .casc _ => 12

def linkBundle (e : LinkEnd) : Nat := match e with
  | .weld _ k _ => k.val
  | .casc c => c.val

/-- The end is the hub's, or this package's end of a cascade link. -/
def linkHub (e : LinkEnd) : Bool := match e with
  | .weld _ _ h => h
  | .casc _ => true

def State.bundle (s : State) (p k : Nat) : BundleState := Table.get {} (s.port p).bundles k

def State.setBundle (s : State) (p k : Nat) (b : BundleState) : State :=
  s.setPort p { s.port p with bundles := Table.put {} (s.port p).bundles k b }

/-- The end `e` of a bundle, and the end it faces. -/
def BundleState.me (b : BundleState) (hub : Bool) : EndState := if hub then b.hub else b.die
def BundleState.setMe (b : BundleState) (hub : Bool) (x : EndState) : BundleState :=
  if hub then { b with hub := x } else { b with die := x }

/-- WELD_CFG as an end holds it (R227, R405). -/
def State.weldCfg (s : State) (p : Nat) (hub : Bool) : Word := if p < 12 && !hub then (s.dieCfg p).weldCfg else s.cfg 0x0300

def bundleCode (st : BundleSt) : Nat := match st with
  | .down => 0 | .training => 1 | .active => 2 | .retired => 3

def capCode (c : Cap) : Nat := match c with
  | .none => 0 | .x4 => 1 | .retired => 2

/-- The fused spare lane of a direction: cascade links have none (R215, R464). -/
def fuseD2H (p k : Nat) : Nat := if p < 12 then (Config.fuseD2H p k).val else 0
def fuseH2D (p k : Nat) : Nat := if p < 12 then (Config.fuseH2D p k).val else 0

/-- WELD_BSTAT (R228). -/
def State.bstat (s : State) (p k : Nat) : Nat :=
  let b := s.bundle p k
  bundleCode b.st + (if b.width = 8 then 2 else if b.width = 4 then 1 else 0) * 2 ^ 2 + capCode b.cap * 2 ^ 4 +
    b.lanesD2H.toNat * 2 ^ 9 + b.lanesH2D.toNat * 2 ^ 18 + fuseD2H p k * 2 ^ 27 + fuseH2D p k * 2 ^ 31 +
    b.attempts % 4 * 2 ^ 35 + b.trainings.toNat * 2 ^ 40 + b.replays.toNat * 2 ^ 48

/-- Log an event against a bundle (R498). -/
def State.weldLog (s : State) (cls : ErrClass) (why : ErrReason) (p k : Nat) : State :=
  if p < 12 then s.logE cls .weld why (p * 4 + k) (info := s.bstat p k) (aux := (s.bundle p k).failedLanes.toNat)
  else s.logE cls .casc why k (info := s.bstat p k) (aux := (s.bundle p k).failedLanes.toNat)

/-- Uncore unit of a port or cascade link (R489). -/
def weldUnit (p k : Nat) : Nat := if p < 12 then 16 + p else 124 + k

/-- ACTIVE bundles of a port. -/
def State.activeBundles (s : State) (p : Nat) : Nat := ((List.range 4).filter fun k => (s.bundle p k).st = .active).length

/-! ### The sideband (R200 to R202) -/

/-- The TYPEs that R200 and R201 list. -/
def sbListed (t : Byte) : Bool := (1 ≤ t.toNat && t.toNat ≤ 4) || (0x10 ≤ t.toNat && t.toNat ≤ 0x1C) || t = 0xFF

/-- The receiver takes a frame: a bad CRC discards it unanswered. A TYPE that R200 does not list, a direction that R201 does not give,
or `ok` false, discards it as a partner fault of the sender. A frame of another row's TYPE is none of this row's. -/
def State.sbTake (s : State) (d : Fin 12) (toHub : Bool) (typ : Byte) (f : SbFrame) (ok : Bool) (act : State → State) :
    State :=
  let p := s.port d
  if p.sbLost then s
  else if crcSb ([f.typ.getD typ, BitVec.ofNat 8 f.payload.length, f.seq, 0] ++ f.payload) ≠ f.crc then s
  else if f.typ.any (fun t => t ≠ typ && sbListed t) then s
  else if (f.typ.any fun t => t ≠ typ) || f.back || !ok || 58 < f.payload.length then s.weldLog .partner .sideband d 0
  else
    act (s.setPort d
      (if toHub then { p with sbHub := { p.sbHub with acks := p.sbHub.acks ++ [f.seq] } }
       else { p with sbDie := { p.sbDie with acks := p.sbDie.acks ++ [f.seq] } }))

/-- The sender's frame is answered: the next one that waits is sent. -/
def SbEnd.acked (e : SbEnd) (seq : Byte) : SbEnd :=
  match e.unacked with
  | some o =>
    if o.seq = seq then
      (match e.queue with
       | (t, b) :: rest => { e with unacked := none, queue := rest }.push t b
       | [] => { e with unacked := none })
    else e
  | none => e

/-! ### Packets in flits (R203 to R207) -/

/-- The four header bytes of a flit (R205). -/
def flitHeader (typ : Nat) (f : Flit) : Nat :=
  typ * 2 ^ 30 + f.seq.toNat * 2 ^ 22 + f.ack.toNat * 2 ^ 14 + f.crvc.toNat * 2 ^ 12 + f.crtotal.toNat * 2 ^ 6 + f.first.toNat

/-- The CRC of a flit (R203). -/
def flitCrc (typ : Nat) (f : Flit) : BitVec 32 := crc32c (leBytes 4 (flitHeader typ f) ++ padTo 120 f.payload)

/-- The packet that units spell. Its check bits are those of a hub ring until the receiving port computes them for its own ring
(R207). -/
def unitPacket (mask : Bool) (us : List Nat) : Slot :=
  let h := BitVec.ofNat 128 (us.getD 0 0 + us.getD 1 0 * 2 ^ 64)
  let m := if mask then us.getD 2 0 else 0
  let d := (us.drop (if mask then 3 else 2)).flatMap fun u => leBytes 8 u
  { header := h, mask := BitVec.ofNat 64 m, data := d, ctlCheck := ringCrc 192 (m * 2 ^ 128 + h.toNat),
    dataCheck := ringCrc 512 (leNat d) }

/-- A header carries MASK: WrPart, WrNS, IoRd or IoWr. -/
def hasMask (u0 u1 : Nat) : Bool :=
  let op := u1 / 2 ^ 58 % 64
  if u0 / 2 ^ 21 % 2 = 1 then op = 1 || op = 2 else op = 0x0A || op = 0x0D

/-- Units that a packet takes: two, with MASK three, and eight more with data. -/
def unitsOf (u0 u1 : Nat) : Nat := 2 + bitOf (hasMask u0 u1) + 8 * (u1 / 2 ^ 53 % 2)

/-- Packets from the units at a packet's start: the packets, the units of one that continues; none for a nonzero unit after
an end pair. Of a unit that stands alone at unit 14, where no pair fits, R207 says nothing: DESIGN CHOICE, log entry 115, a zero one
ends the flit's packets, and any other begins a packet. -/
def unpack : Nat → List Nat → Option (List Slot × List Nat)
  | 0, _ => some ([], [])
  | _ + 1, [] => some ([], [])
  | _ + 1, [u] => some ([], if u = 0 then [] else [u])
  | fuel + 1, u0 :: u1 :: rest =>
    if u1 / 2 ^ 58 % 64 = 0 then if (u0 :: u1 :: rest).all (· = 0) then some ([], []) else none
    else
      let n := unitsOf u0 u1
      let us := u0 :: u1 :: rest
      if us.length < n then some ([], us)
      else
        match unpack fuel (us.drop n) with
        | some (ps, part) => some (unitPacket (hasMask u0 u1) (us.take n) :: ps, part)
        | none => none

/-- The units of a payload. -/
def unitsIn (b : Bytes) : List Nat := (List.range 15).map fun i => leAt b (8 * i) 8

/-- Take a DATA flit's units after `part`: packets, the new part; none where R226 calls the packing inconsistent. -/
def flitPackets (part : List Nat) (f : Flit) : Option (List Slot × List Nat) :=
  let us := part ++ unitsIn (padTo 120 f.payload)
  let skip := if part.isEmpty then 0 else unitsOf (us.getD 0 0) (us.getD 1 0) - part.length
  let begins :=
    if part.isEmpty then us.getD 1 0 / 2 ^ 58 % 64 ≠ 0
    else (us.getD (skip + part.length) 0 ≠ 0 || us.getD (skip + part.length + 1) 0 ≠ 0)
  if f.first.toNat ≠ (if begins then skip else 15) then none
  else if !part.isEmpty && us.getD 1 0 / 2 ^ 58 % 64 = 0 then none
  else unpack 16 us

/-! ### Receive buffers and credits (R209) -/

/-- A per-channel total. -/
def vcGet (t : BitVec 6 × BitVec 6 × BitVec 6 × BitVec 6) (vc : Nat) : BitVec 6 :=
  if vc = 0 then t.1 else if vc = 1 then t.2.1 else if vc = 2 then t.2.2.1 else t.2.2.2

def vcPut (t : BitVec 6 × BitVec 6 × BitVec 6 × BitVec 6) (vc : Nat) (v : BitVec 6) :
    BitVec 6 × BitVec 6 × BitVec 6 × BitVec 6 :=
  if vc = 0 then (v, t.2) else if vc = 1 then (t.1, v, t.2.2) else if vc = 2 then (t.1, t.2.1, v, t.2.2.2)
  else (t.1, t.2.1, t.2.2.1, v)

/-- The ring that a bundle's packets land on at an end: hub ring k (R21), the die's ring, or, from a cascade link, the ring of their
destination, which is the ring they left (R468). -/
def landRing (p k : Nat) (hub : Bool) (h : Header) : RingId :=
  if p < 12 then (if hub then .hub (Fin.ofNat 4 k) else .die (Fin.ofNat 12 p)) else .hub (Fin.ofNat 4 (h.dst / 64))

/-- The stop at which they enter it (R181). -/
def landStop (p k : Nat) (hub : Bool) : Nat := if p < 12 then (if hub then p else 8) else 37 + k

/-- SRC of packets that enter there. -/
def landSrc (p k : Nat) (hub : Bool) (h : Header) : Nat :=
  match landRing p k hub h with
  | .hub j => j.val * 64 + landStop p k hub
  | .die _ => landStop p k hub

/-- A packet goes onto the ring at a stop. One that the hub takes from a partner enters the transport here. -/
def State.ringOnto (s : State) (r : RingId) (stop : Nat) (p : Slot) : State :=
  let s := s.ringEject r p
  s.upFab fun f =>
    { f with onRing := f.onRing ++
        [{ ring := r, clockwise := goesClockwise r stop (ringTarget r (headerOf p.header).dst), slot := p }] }

/-- Packets leave an end's buffer onto the ring, and their credits are returned. -/
def State.bufferOut (s : State) (p k : Nat) (hub : Bool) (out : List (BitVec 2 × Slot)) : State :=
  let b := s.bundle p k
  let x := b.me hub
  let x := out.foldl (fun (x : EndState) e =>
    let vc := e.1.toNat
    { x with buffer := x.buffer.erase e, given := vcPut x.given vc (vcGet x.given vc + 1),
             ptrs := Table.put {} x.ptrs vc (Table.get {} x.ptrs vc).read }) x
  (s.setBundle p k (b.setMe hub x)).forEach out fun s e =>
    s.ringOnto (landRing p k hub (headerOf e.2.header)) (landStop p k hub) e.2

/-- The packets of a buffer that its read side sees (R197), VC 3 first (R187). -/
def EndState.readable (x : EndState) : List (BitVec 2 × Slot) :=
  [3, 2, 1, 0].flatMap fun vc => (x.buffer.filter fun e => e.1.toNat = vc).take (Table.get {} x.ptrs vc).seen

/-- A free number of the packets that the read side sees leaves the buffer (R209: within the bound of R187). -/
def State.bufferDrain (s : State) (p k : Nat) (hub : Bool) : State :=
  let l := ((s.bundle p k).me hub).readable
  if l.isEmpty then s
  else
    let (v, s) := s.takeNat
    s.bufferOut p k hub (l.take (v % (l.length + 1)))

/-! ### Loss of a bundle, a port, a link (R219 to R225, R465) -/

/-- A port with no ACTIVE or TRAINING bundle, or whose sideband is lost, is DOWN: its die is fenced (R225). A cascade link
with no relay loses the member of the higher index (R465, R476). -/
def State.portCheck (s : State) (p k : Nat) : State :=
  if p < 12 then
    let up := (List.range 4).any fun k => (s.bundle p k).st = .active || (s.bundle p k).st = .training
    if up && !(s.port p).sbLost then s else s.fenceDie p .weld .fenced (p * 4 + k)
  else if !s.linkActive (s.outLink k) && s.pkgIx < s.peerOf k then s.memberLost (s.peerOf k)
  else s

/-- A bundle leaves ACTIVE (R222): wholly received packets enter the ring, partial ones are discarded, and both ends send
HANDOVER. -/
def State.leaveActive (s : State) (p k : Nat) : State :=
  let s := s.bufferOut p k true ((s.bundle p k).me true).buffer
  let s := s.bufferOut p k false ((s.bundle p k).me false).buffer
  let b := s.bundle p k
  let off (x : EndState) : EndState :=
    { x with part := [], discarding := false, nakOwed := false, ackOwed := false, resend := 0, handoverOwed := true,
             reroute := x.reroute ++ x.cur.toList ++ x.tx, tx := [], cur := none, units := [], wire := [] }
  let s := s.setBundle p k { b with hub := off b.hub, die := off b.die }
  if p < 12 then
    (s.sbSend p true 0x03 [BitVec.ofNat 8 k, b.hub.rxSeq]).sbSend p false 0x03 [BitVec.ofNat 8 k, b.die.rxSeq]
  else s

/-- A bundle enters RETIRED and its cap is set (R220, R224). -/
def State.bundleRetire (s : State) (p k : Nat) : State :=
  let s := if (s.bundle p k).st = .active then s.leaveActive p k else s
  let s := s.setBundle p k
    { s.bundle p k with st := .retired, step := 0, width := 0, cap := .retired, lanesD2H := 0, lanesH2D := 0 }
  ((s.weldLog .recovered .training p k).pdrTouch).portCheck p k

/-- A bundle goes DOWN (R219). -/
def State.bundleDown (s : State) (p k : Nat) : State :=
  let b := s.bundle p k
  if b.st = .active || b.st = .training then
    let s := if b.st = .active then s.leaveActive p k else s
    s.setBundle p k { s.bundle p k with st := .down, step := 0, width := 0, lanesD2H := 0, lanesH2D := 0 }
  else s

/-- The sideband is lost, or the port cannot train: every bundle goes DOWN (R200, R219, R225). -/
def State.portDown (s : State) (d : Fin 12) (lost : Bool) : State :=
  let s := s.setPort d { s.port d with sbLost := lost || (s.port d).sbLost, step := 0 }
  let s := s.forEach (List.range 4) fun s k => s.bundleDown d k
  (s.pdrTouch).portCheck d 0

/-- A width as WELD_CFG.ALLOW_X4 lets it count (R215). -/
def allowX4 (cfg : Word) (w : Nat) : Nat := if w = 4 && !bit cfg 0 then 0 else w

/-- An attempt of step 7 ended without agreement (R216, R217): the third retires the bundle, and so does a smaller width that is none
at an end (R215). -/
def State.noAgreement (s : State) (p k limit : Nat) : State :=
  let b := s.bundle p k
  let least := allowX4 (s.weldCfg p true) (allowX4 (s.weldCfg p false) (min b.announceLimit limit))
  let s := s.setBundle p k { b with attempts := min 3 (b.attempts + 1), announceLimit := least }
  if 3 ≤ b.attempts + 1 || least = 0 then s.bundleRetire p k else s

/-- The IDENT frames of a port: the hub (OA2 at stepping C1) offers version 2, a die (EV24) versions 2 and 3 (R218). The stepping of a
die is not stated (log entry 116). -/
def State.identHubFrame (s : State) (p : Nat) : Bytes := [0x02, 0xC1, (s.port p).resets, 0x04]
def State.identDieFrame (s : State) (p : Nat) : Bytes := [0x01, Config.dieStepping p, (s.port p).resets, 0x0C]

/-- Both ends of a port identify themselves to each other (R213, R218). -/
def State.identSend (s : State) (p : Nat) : State :=
  (s.sbSend p true 0x01 (s.identHubFrame p)).sbSend p false 0x01 (s.identDieFrame p)

/-- A field retrain exchanges IDENT frames too (R218). -/
def State.identAgain (s : State) (p : Nat) : State :=
  if p < 12 then (s.setPort p { s.port p with identOther := false }).identSend p else s

/-- A field retrain (R212, R219): the bundle leaves ACTIVE and trains from step 3. A third retrain for a violation within a
second retires it (R226). -/
def State.bundleRetrain (s : State) (p k : Nat) (c : RetrainCause) (limit : Nat := 8) : State :=
  let b := s.bundle p k
  if b.st ≠ .active then s
  else
    let viol := if c = .violation then (b.violations.filter fun t => (s.now - t).toNat < 100000000) ++ [s.now] else b.violations
    if c = .violation && 3 ≤ viol.length then (s.setBundle p k { b with violations := viol }).bundleRetire p k
    else
      let lanes : BitVec 9 := match c with
        | .lockLoss l => l
        | .laneFail l => l
        | _ => 0
      let s := s.leaveActive p k
      let b := s.bundle p k
      let s := s.setBundle p k
        { b with
          st := .training, step := 3, field := true, violations := viol, failedLanes := b.failedLanes ||| lanes,
          attempts := if (s.now - b.lastTrained).toNat ≤ 10000000 then b.attempts else 0, announceLimit := limit }
      let s := (s.identAgain p).pdrTouch
      if c = .echoMismatch then s.noAgreement p k limit else s

/-- A violation of R226 marked "Retrain", logged with its reason. -/
def State.linkViolation (s : State) (p k : Nat) (why : ErrReason) : State :=
  (s.weldLog .partner why p k).bundleRetrain p k .violation

/-! ### Flits (R205 to R211, R226) -/

/-- What the end that sent a flit did: its CRVC moves on, and what it owed has been sent. -/
def EndState.sent (x : EndState) : EndState :=
  { x with crvc := x.crvc + 1, ackOwed := false, slotCount := min 15 (x.slotCount + 1) }

/-- The oldest flit that a replay owes is resent: its replay is counted (R211). -/
def EndState.resent (x : EndState) : EndState :=
  let i := x.replay.length - x.resend
  { x with resend := x.resend - 1, windowReplays := x.windowReplays + 1,
           replay := x.replay.mapIdx fun j r => if j = i then (r.1, r.2 + 1) else r }

/-- A DATA flit was sent: the oldest that a replay owes, before any new one; or a new one, which enters the replay buffer of 64 flits
unless that is full (R210, R211). -/
def EndState.sentData (x : EndState) (f : Flit) : EndState :=
  let x := x.sent
  if 0 < x.resend then x.resent
  else if x.replay.length < 64 then { x with txSeq := x.txSeq + 1, replay := x.replay ++ [({ f with seq := x.txSeq }, 0)] }
  else x

/-- A bundle has replayed a flit of an end (R211, R228). -/
def State.replayed (s : State) (p k : Nat) (hub : Bool) : State :=
  let b := s.bundle p k
  let s := s.setBundle p k { b with replays := if b.replays = 0xFFFF then 0xFFFF else b.replays + 1 }
  if hub && p < 12 then s.uncount (weldUnit p k) 0x03 1 0 0 false else s

/-- A replayed flit has arrived: at REPLAY_LIMIT or CRC_THRESH the bundle retrains (R211). -/
def State.replayLimit (s : State) (p k : Nat) (hub : Bool) : State :=
  let b := s.bundle p k
  let cfg := s.weldCfg p hub
  if ((b.me hub).replay.any fun r => fld cfg 24 8 ≤ r.2) || fld cfg 16 8 ≤ b.hub.windowReplays + b.die.windowReplays then
    s.bundleRetrain p k .replayLimit
  else s

/-- Flits of the replay buffer that an ACK value covers; none when it lies outside the window. -/
def EndState.covered (x : EndState) (ack : Byte) : Option Nat :=
  let left := (x.txSeq - 1 - ack).toNat
  if left ≤ x.replay.length then some (x.replay.length - left) else none

/-- The running ACK and CRTOTAL of a flit with a good CRC reach the transmitter at end `hub`. -/
def State.flitTotals (s : State) (p k : Nat) (hub : Bool) (f : Flit) : State :=
  let b := s.bundle p k
  let x := b.me hub
  let n := (x.covered f.ack).getD 0
  let vc := f.crvc.toNat
  let owed := (vcGet x.used vc - vcGet x.returned vc).toNat
  let got := (f.crtotal - vcGet x.returned vc).toNat
  let x := { x with
    replay := x.replay.drop n, resend := min x.resend (x.replay.length - n),
    returned := vcPut x.returned vc (if owed < got then vcGet x.used vc else f.crtotal) }
  let s := s.setBundle p k (b.setMe hub x)
  if owed < got then s.linkViolation p k .credit else s

/-- The bundle of an end carries flits. -/
def State.linkUp (s : State) (e : LinkEnd) : Bool := (s.bundle (linkPort e) (linkBundle e)).st = .active

/-- A packet that fails R195 or R182 at a port: dropped, and logged as a partner fault. Sixteen within 1 ms fence the die
(R505). -/
def State.dropPacket (s : State) (p k : Nat) (hub : Bool) (pkt : Slot) : State :=
  let key := if p < 12 then (if hub then k * 64 + p else 0x100 + p * 16 + 8) else 37 + k
  let s := s.hopLog .partner .malformed key pkt
  if p < 12 && hub then
    let ts := ((s.drop p).filter fun t => (s.now - t).toNat < 100000) ++ [s.now]
    let s := s.setDrop p ts
    if 16 ≤ ts.length then s.fenceDie p .weld .malformed (p * 4 + k) else s
  else s

/-- A packet is received whole: R195, then its virtual channel's buffer. The port writes the SRC of the ring that the packet enters
(R181). `counted` tells that its sender has counted the credit it uses. -/
def State.packetIn (s : State) (p k : Nat) (hub : Bool) (pkt : Slot) (counted : Bool := false) : State :=
  let h := { headerOf pkt.header with src := landSrc p k hub (headerOf pkt.header) }
  let ring := landRing p k hub h
  let b := s.bundle p k
  -- the sender uses a credit, and a packet that was to be resent has come
  let y := b.me (!hub)
  let s := if counted then s
    else s.setBundle p k (b.setMe (!hub) { y with used := vcPut y.used h.vc (vcGet y.used h.vc + 1) })
  let s := s.forEach (List.range 4) fun s j =>
    let c := s.bundle p j
    let z := c.me (!hub)
    if z.reroute.contains pkt then s.setBundle p j (c.setMe (!hub) { z with reroute := z.reroute.erase pkt }) else s
  let b := s.bundle p k
  let x := b.me hub
  let credit (s : State) : State :=
    let b := s.bundle p k
    let x := b.me hub
    s.setBundle p k (b.setMe hub { x with given := vcPut x.given h.vc (vcGet x.given h.vc + 1) })
  if p < 12 && hub && s.dieFenced p then credit s
  else if !h.ok ring then (credit s).dropPacket p k hub pkt
  else if 16 ≤ (x.buffer.filter fun e => e.1.toNat = h.vc).length then s.linkViolation p k .credit
  else s.setBundle p k (b.setMe hub
    { x with buffer := x.buffer ++ [(BitVec.ofNat 2 h.vc, recheck ring { pkt with header := headerBits h })],
             ptrs := Table.put {} x.ptrs h.vc (Table.get {} x.ptrs h.vc).wrote })

/-- A DATA flit arrives (R204, R207, R210, R211). -/
def State.dataFlit (s : State) (e : LinkEnd) (f : Flit) : State :=
  let p := linkPort e
  let k := linkBundle e
  let hub := linkHub e
  let s := s.bufferDrain p k hub
  let s := if hub then s.uncount (weldUnit p k) (if p < 12 then 0x01 else 0x02) 1 0 0 false
    else s.uncount (weldUnit p k) 0x02 1 0 0 false
  let good := flitCrc 0 f = f.crc
  let (sent, s) : Flit × State :=
    if good then (f, s)
    else
      let (d, s) := s.takeBytes 120
      ({ f with payload := d }, s)
  let b := s.bundle p k
  let x := b.me hub
  let y := b.me (!hub)
  -- a flit that its transmitter has put on the lanes, or one whose sending its arrival shows
  let wired := !y.wire.isEmpty
  let s := s.setBundle p k (b.setMe (!hub) (if wired then { y with wire := y.wire.drop 1 } else y.sentData sent))
  let s := if !wired && 0 < y.resend then s.replayed p k (!hub) else s
  let again := (!wired && 0 < y.resend) || wired && y.replay.any fun r => r.1.seq = f.seq && 0 < r.2
  let s := if again then s.replayLimit p k (!hub) else s
  let b := s.bundle p k
  if !s.linkUp e then s
  else if !good || f.seq ≠ x.rxSeq + 1 then
    -- discarded, with a NAK for what fails the CRC and for the first flit out of sequence
    let s := if x.discarding && good then s
      else s.setBundle p k (b.setMe hub { x with discarding := true, nakOwed := true })
    s.weldLog .partner .crc p k
  else
    match flitPackets (unitsIn (padTo 120 x.part) |>.take (x.part.length / 8)) f with
    | none => s.linkViolation p k .malformed
    | some (pkts, part) =>
      let s := s.setBundle p k (b.setMe hub
        { x with rxSeq := f.seq, discarding := false, ackOwed := true, part := part.flatMap fun u => leBytes 8 u })
      let s := s.flitTotals p k hub f
      let s := s.forEach pkts fun s q => if s.linkUp e then s.packetIn p k hub q wired else s
      s.bufferDrain p k hub

/-- A CONTROL, MAINT or NAK flit was sent towards end `e`; a good one gives its totals. -/
def State.plainFlit (s : State) (e : LinkEnd) (typ : Nat) (f : Flit) (act : State → State) : State :=
  let p := linkPort e
  let k := linkBundle e
  let hub := linkHub e
  let b := s.bundle p k
  let s := if typ = 2 then s else s.setBundle p k (b.setMe (!hub) (b.me (!hub)).sent)
  if flitCrc typ f ≠ f.crc then s.weldLog .partner .crc p k
  else
    let s := s.flitTotals p k hub f
    if s.linkUp e then act s else s

/-! ### Maintenance flits (R208, R217) -/

/-- `n` bits of PRBS23, with the generator's state after them. -/
def prbsBits : Nat → BitVec 23 → List Bool × BitVec 23
  | 0, r => ([], r)
  | n + 1, r =>
    let b := r.getLsbD 22 != r.getLsbD 17
    let (bs, r') := prbsBits n (r <<< 1 ||| BitVec.ofNat 23 (bitOf b))
    (b :: bs, r')

/-- Eight bits as a byte, the first sent first (R203). -/
def bitsByte (bs : List Bool) : Byte := BitVec.ofNat 8 (bs.reverse.foldl (fun a b => 2 * a + bitOf b) 0)

/-- 112 bytes of pattern. -/
def prbsBytes : Nat → BitVec 23 → Bytes × BitVec 23
  | 0, r => ([], r)
  | n + 1, r =>
    let (bs, r) := prbsBits 8 r
    let (rest, r) := prbsBytes n r
    (bitsByte bs :: rest, r)

/-- The lanes on which an end receives: D2H at the hub. -/
def BundleState.rxLanes (b : BundleState) (hub : Bool) : BitVec 9 := if hub then b.lanesD2H else b.lanesH2D

/-- The SEQ of the next DATA flit: the oldest that a replay owes, or a new one (R205). -/
def EndState.nextSeq (x : EndState) : Byte :=
  if 0 < x.resend then ((x.replay.drop (x.replay.length - x.resend)).head?.map fun r => r.1.seq).getD x.txSeq else x.txSeq

/-- The MAINT flit that end `hub` sends next. -/
def State.maintFlit (s : State) (p k : Nat) (hub : Bool) : Flit :=
  let b := s.bundle p k
  let x := b.me hub
  let payload :=
    [BitVec.ofNat 8 b.width] ++ leBytes 2 (b.rxLanes hub).toNat ++ [x.lastWidth] ++ leBytes 2 x.lastRx.toNat ++
      [BitVec.ofNat 8 (if p < 12 then (s.port p).version else 2), b.epoch] ++ (prbsBytes 112 x.prbsTx).1
  let f : Flit :=
    { seq := x.nextSeq, ack := x.rxSeq, crvc := x.crvc, crtotal := vcGet x.given x.crvc.toNat, first := 0,
      payload := payload, crc := 0 }
  { f with crc := flitCrc 2 f }

/-- The errors of a pattern on each lane, as bits that differ. -/
def patternErrs (lanes : List Nat) (got want : Bytes) : List (Nat × Nat) :=
  (List.range 112).filterMap fun i =>
    let n := popCount 8 ((got.getD i 0) ^^^ (want.getD i 0)).toNat
    if n = 0 then none else (lanes[(12 + i) % lanes.length]?).map fun l => (l, n)

/-- Errors that a lane has shown within the last second. -/
def EndState.recentErrs (x : EndState) (now : Word) (l : Nat) : Nat :=
  ((Table.get [] x.laneErrs l).filter fun e => (now - e.1).toNat < 100000000).foldl (fun a e => a + e.2) 0

/-- Count pattern errors, keeping the last second's. -/
def EndState.addErrs (x : EndState) (now : Word) (es : List (Nat × Nat)) : EndState :=
  es.foldl (fun x e =>
    let old := (Table.get [] x.laneErrs e.1).filter fun t => (now - t.1).toNat < 100000000
    { x with laneErrs := Table.put [] x.laneErrs e.1 (old ++ [(now, e.2)]) }) x

/-- The lanes that a receiver does not use and that passed its last lane test carry the pattern all the while, and it counts their
errors too (R208). How many they show no command tells: a free value for each. -/
def State.spareErrs (s : State) (p k : Nat) (hub : Bool) : State :=
  let b := s.bundle p k
  let good := if hub then b.good.1 else b.good.2
  s.forEach ((ones 9 good.toNat).filter fun l => !(b.rxLanes hub).getLsbD l) fun s l =>
    let (n, s) := s.takeNat
    let b := s.bundle p k
    if n = 0 then s else s.setBundle p k (b.setMe hub ((b.me hub).addErrs s.now [(l, n)]))

/-- A MAINT flit arrives: its pattern is checked lane by lane, then its version and its echo, which is compared with what this end
runs (R217). -/
def State.maintTake (s : State) (e : LinkEnd) (f : Flit) : State :=
  let p := linkPort e
  let k := linkBundle e
  let hub := linkHub e
  let b := s.bundle p k
  let x := b.me hub
  let (want, r) := prbsBytes 112 x.prbsRx
  let es := patternErrs (ones 9 (b.rxLanes hub).toNat) (f.payload.drop 8) want
  let x := { x with prbsRx := r }.addErrs s.now es
  let bad := (ones 9 (b.rxLanes hub).toNat).filter fun l => 16 ≤ x.recentErrs s.now l
  let s := (s.setBundle p k (b.setMe hub x)).spareErrs p k hub
  let s := s.plainFlit e 2 f fun s =>
    let b := s.bundle p k
    let x := b.me hub
    let width := f.payload.getD 0 0
    let lanes := BitVec.ofNat 16 (leAt f.payload 1 2)
    let echo := (f.payload.getD 3 0).toNat
    let miss := echo ≠ b.width || leAt f.payload 4 2 ≠ (b.rxLanes hub).toNat
    let misses := if miss then x.echoMiss + 1 else 0
    let s := s.setBundle p k (b.setMe hub { x with lastWidth := width, lastRx := lanes, echoMiss := misses })
    if (f.payload.getD 6 0).toNat ≠ (if p < 12 then (s.port p).version else 2) then s.linkViolation p k .version
    else if fld (s.weldCfg p hub) 12 4 ≤ misses then
      -- an echo that names no width leaves the one that this end runs (log entry 113)
      let small := if echo = 4 || echo = 8 then min b.width echo else b.width
      (s.weldLog .partner .training p k).bundleRetrain p k .echoMismatch small
    else s
  if bad.isEmpty then s
  else s.bundleRetrain p k (.laneFail (BitVec.ofNat 9 (bad.foldl (fun a l => a + 2 ^ l) 0)))

/-! ### Replay (R211) -/

/-- A NAK reaches the transmitter at end `e`: every flit of its replay buffer after the NAK's ACK value is to be resent, also when a
replay is running. -/
def State.nakTake (s : State) (e : LinkEnd) (f : Flit) : State :=
  let p := linkPort e
  let k := linkBundle e
  let hub := linkHub e
  let b := s.bundle p k
  let s := s.setBundle p k (b.setMe (!hub) { b.me (!hub) with nakOwed := false })
  let inWindow := (((s.bundle p k).me hub).covered f.ack).isSome
  s.plainFlit e 3 f fun s =>
    if !inWindow then s.linkViolation p k .crc
    else
      let b := s.bundle p k
      let x := b.me hub
      s.setBundle p k (b.setMe hub { x with resend := x.replay.length })

/-! ### Training (R212 to R218) -/

/-- The ×4 choice: the four lowest passing lanes of the lower group, else of the upper one. A cascade link takes a whole
half (R464). -/
def chooseX4 (casc : Bool) (good : BitVec 9) : Option (BitVec 9) :=
  if casc then
    if good &&& 0x00F = 0x00F then some 0x00F else if good &&& 0x0F0 = 0x0F0 then some 0x0F0 else none
  else
    let group (a : Nat) : List Nat := ((List.range 5).map (· + a)).filter good.getLsbD
    let pick (l : List Nat) : Option (BitVec 9) :=
      if 4 ≤ l.length then some (BitVec.ofNat 9 ((l.take 4).foldl (fun m i => m + 2 ^ i) 0)) else none
    (pick (group 0)).or (pick (group 4))

/-- choose_lanes of R215: a width and its lanes; width 0 is none. -/
def chooseLanes (casc : Bool) (good : BitVec 9) (spare : Nat) (cap : Cap) : Nat × BitVec 9 :=
  let x4 : Nat × BitVec 9 := match chooseX4 casc good with
    | some l => (4, l)
    | none => (0, 0)
  if cap = .retired then (0, 0)
  else if cap = .none && casc then (if good &&& 0x0FF = 0x0FF then (8, 0x0FF) else x4)
  else if cap = .none then
    let bad := (List.range 9).filter fun l => !good.getLsbD l
    match bad with
    | [] => (8, BitVec.ofNat 9 (2 ^ 9 - 1 - 2 ^ spare))
    | [l] => (8, BitVec.ofNat 9 (2 ^ 9 - 1 - 2 ^ l))
    | _ => x4
  else x4

/-- The width both ends run: the smaller announcement, no larger than this training's limit. -/
def BundleState.agreedWidth (b : BundleState) : Nat := min (min b.announced.1 b.announced.2) b.announceLimit

/-- Take the lanes for the agreed width: at ×4 each receiver takes its ×4 branch. -/
def State.settleWidth (s : State) (p k : Nat) : State :=
  let b := s.bundle p k
  let casc := !(p < 12)
  let w := b.agreedWidth
  let lanes (good : BitVec 9) (spare : Nat) (l : BitVec 9) : BitVec 9 :=
    if w = 8 then (chooseLanes casc good spare .none).2 else if w = 4 then (chooseX4 casc good).getD l else 0
  s.setBundle p k
    { b with lanesD2H := lanes b.good.1 (fuseD2H p k) b.lanesD2H, lanesH2D := lanes b.good.2 (fuseH2D p k) b.lanesH2D }

/-- The LANES payload that an end of a port sends (R215). -/
def State.lanesPayload (s : State) (d : Nat) (hub : Bool) : Bytes :=
  let b (k : Nat) : BundleState := s.bundle d k
  ((List.range 4).flatMap fun k => [BitVec.ofNat 8 (if hub then (b k).announced.1 else (b k).announced.2), 0, 0, 0]) ++
    (List.range 4).flatMap fun k => leBytes 2 ((b k).rxLanes hub).toNat

/-- Step 6: choose lanes and announce (R215). A bundle that neither end can run is retired. -/
def State.trainChoose (s : State) (p k : Nat) (dieAnnounce : Nat) : State :=
  let b := s.bundle p k
  let casc := !(p < 12)
  let mine := (chooseLanes casc b.good.1 (fuseD2H p k) b.cap).1
  let own := allowX4 (s.weldCfg p true) (min mine (if b.cap = .x4 then 4 else 8))
  let their := allowX4 (s.weldCfg p false) (min dieAnnounce (chooseLanes casc b.good.2 (fuseH2D p k) .none).1)
  let s := s.setBundle p k { b with announced := (own, their), step := 7 }
  let s := s.settleWidth p k
  if (s.bundle p k).agreedWidth = 0 then s.bundleRetire p k
  else if p < 12 then
    (s.sbSend p true 0x02 (s.lanesPayload p true)).sbSend p false 0x02 (s.lanesPayload p false)
  else s

/-- Step 8: the link layer starts afresh and the bundle enters ACTIVE. What an end echoes before it has received a MAINT flit R208 does
not say: DESIGN CHOICE, log entry 113, it echoes 0, which its partner counts as a mismatch. -/
def State.trainActive (s : State) (p k : Nat) : State :=
  let b := s.bundle p k
  let w := b.agreedWidth
  let (u, s) := s.takeWord
  let (v, s) := s.takeWord
  let seed (x : Word) : BitVec 23 := if x.extractLsb' 0 23 = 0 then 1 else x.extractLsb' 0 23
  let keep (x : EndState) (tx rx : BitVec 23) : EndState :=
    { prbsTx := tx, prbsRx := rx, laneErrs := x.laneErrs, reroute := x.reroute, handoverOwed := x.handoverOwed, ptrs := x.ptrs }
  let short := w = 4 && b.cap = .none &&
    ((chooseLanes (!(p < 12)) b.good.1 (fuseD2H p k) .none).1 = 4 || (chooseLanes (!(p < 12)) b.good.2 (fuseH2D p k) .none).1 = 4)
  let s := s.setBundle p k
    { b with
      st := .active, step := 0, width := w, epoch := b.epoch + 1, lastTrained := s.now, field := false,
      trainings := if b.trainings = 255 then 255 else b.trainings + 1,
      cap := if short then .x4 else b.cap,
      hub := keep b.hub (seed u) (seed v), die := keep b.die (seed v) (seed u) }
  let s := s.pdrTouch
  if b.field || short then s.weldLog .recovered .training p k else s

/-- The lanes of a direction that no 16 errors within the last second fail (R208, R214). -/
def EndState.unworn (x : EndState) (now : Word) : BitVec 9 :=
  BitVec.ofNat 9 (((List.range 9).filter fun l => x.recentErrs now l < 16).foldl (fun a l => a + 2 ^ l) 0)

/-- A training step of a bundle or port completes (R213). -/
def State.trainStep (s : State) (e : LinkEnd) (step : Nat) (i : TrainInfo) : State :=
  let p := linkPort e
  let k := linkBundle e
  let port := s.port p
  if step = 1 then
    if p < 12 && port.step = 1 && port.identHub && port.identDie && port.version ≠ 0 then s.setPort p { port with step := 2 }
    else s
  else if step = 2 then
    if p < 12 && port.step = 2 then
      let s := s.setPort p { port with step := 3, plls := 15 }
      s.forEach (List.range 4) fun s k =>
        let b := s.bundle p k
        if b.st = .training && b.step < 3 then s.setBundle p k { b with step := 3 } else s
    else s
  else
    let b := s.bundle p k
    if b.st ≠ .training || b.step ≠ step then s
    else if step = 3 then s.setBundle p k { b with step := 4, good := (BitVec.allOnes 9, BitVec.allOnes 9) }
    else if step = 4 then s.setBundle p k { b with step := 5 }
    else if step = 5 then
      let g := (b.good.1 &&& i.goodD2H &&& b.hub.unworn s.now, b.good.2 &&& i.goodH2D &&& b.die.unworn s.now)
      s.setBundle p k { b with step := 6, good := g, failedLanes := ~~~ (g.1 &&& g.2) }
    else if step = 6 then s.trainChoose p k i.dieAnnounce
    else if step = 7 then
      if i.agreed && b.agreedWidth ≠ 0 && !(b.field && port.identOther) then s.setBundle p k { b with step := 8 }
      else s.noAgreement p k (min b.announced.1 b.announced.2)
    else if step = 8 then s.trainActive p k
    else s

/-- A training step reaches its bound (R213, R216, R219). -/
def State.trainTimeout (s : State) (e : LinkEnd) (step : Nat) (failed : BitVec 9) : State :=
  let p := linkPort e
  let k := linkBundle e
  if step = 1 then
    (match e with
     | .weld d _ _ => if (s.port p).step = 1 then (s.weldLog .partner .training p k).portDown d false else s
     | .casc _ => s)
  else
    let b := s.bundle p k
    if b.st ≠ .training || b.step ≠ step then s
    else if step = 4 || step = 5 then
      let g := if linkHub e then (b.good.1 &&& ~~~ failed, b.good.2) else (b.good.1, b.good.2 &&& ~~~ failed)
      let g := if step = 5 then (g.1 &&& b.hub.unworn s.now, g.2 &&& b.die.unworn s.now) else g
      s.setBundle p k { b with step := step + 1, good := g, failedLanes := b.failedLanes ||| failed }
    else if step = 6 then s.bundleRetire p k
    else if step = 7 then s.noAgreement p k (min b.announced.1 b.announced.2)
    else s

/-- A cold training of a die's port begins (R212, R213): IDENT frames are sent, and every bundle that is DOWN, or whose cap
has been cleared by command, trains. -/
def State.coldTrain (s : State) (d : Fin 12) : State :=
  let s := s.forEach (List.range 4) fun s k => s.bundleDown d k
  let p := s.port d
  let s := s.setPort d
    { p with step := 1, identHub := false, identDie := false, identOther := false, version := 0, plls := 0, sbLost := false, sbHub := {}, sbDie := {} }
  let s := s.forEach (List.range 4) fun s k =>
    let b := s.bundle d k
    let b := if b.capCleared then { b with cap := .none, capCleared := false } else b
    let b := { b with trainings := 0, replays := 0, attempts := 0, announceLimit := 8, violations := [], field := false }
    if b.st = .retired && b.cap = .retired then s.setBundle d k b
    else s.setBundle d k { b with st := .training, step := 1 }
  s.identSend d

/-! ### The commands -/

/-- IDENT (R218). -/
def execIdent (d : Fin 12) (toHub : Bool) (f : SbFrame) (s : State) : Host.Outcome State Fault Refusal :=
  live s fun s => .next (s.sbTake d toHub 0x01 f (f.payload.length = 4) fun s =>
    let p := s.port d
    let common := (f.payload.getD 3 0).toNat.testBit 2
    -- the exchange of a field retrain: the version stays, and another one ends step 7 without agreement
    if p.step = 3 then s.setPort d { p with identOther := p.identOther || (toHub && !common) }
    else if toHub && !common then (s.weldLog .partner .version d 0).portDown d false
    else if toHub then s.setPort d { p with identHub := true, version := 2 }
    else s.setPort d { p with identDie := true })

/-- LANES: the partner's announced widths and lane choices (R215). -/
def execLanes (d : Fin 12) (toHub : Bool) (f : SbFrame) (s : State) : Host.Outcome State Fault Refusal :=
  live s fun s => .next (s.sbTake d toHub 0x02 f (f.payload.length = 24) fun s =>
    s.forEach (List.range 4) fun s k =>
      let b := s.bundle d k
      let w := allowX4 (s.weldCfg d true) (f.payload.getD (4 * k) 0).toNat
      let lanes := BitVec.ofNat 9 (leAt f.payload (16 + 2 * k) 2)
      if b.st ≠ .training || b.step ≠ 7 then s
      else if !toHub then s
      else if w ≠ 0 && w ≠ 4 && w ≠ 8 then s.weldLog .partner .malformed d k
      else
        let b := { b with announced := (b.announced.1, w) }
        -- at ×4 an end that chose ×8 takes its ×4 branch
        let x4 (good now : BitVec 9) : BitVec 9 := if b.agreedWidth = 4 then (chooseX4 false good).getD now else now
        let s := s.setBundle d k
          { b with lanesD2H := x4 b.good.1 b.lanesD2H, lanesH2D := if w = 4 then lanes else x4 b.good.2 lanes }
        if (s.bundle d k).agreedWidth = 0 then s.bundleRetire d k else s)

/-- Packets of a replay buffer not wholly contained in its first `n` flits. -/
def unsentPackets (replay : List (Flit × Nat)) (n : Nat) : List Slot :=
  let go (acc : List Slot × List Nat) (f : Flit) : List Slot × List Nat :=
    match flitPackets acc.2 f with
    | some (ps, part) => (acc.1 ++ ps, part)
    | none => (acc.1, [])
  let before := ((replay.take n).map Prod.fst).foldl go ([], [])
  let all := (replay.map Prod.fst).foldl go ([], [])
  all.1.drop before.1.length

/-- HANDOVER (R222): the transmitter at the receiving end resends what its partner had not accepted. -/
def execHandover (d : Fin 12) (toHub : Bool) (f : SbFrame) (s : State) : Host.Outcome State Fault Refusal :=
  live s fun s => .next (s.sbTake d toHub 0x03 f (f.payload.length = 2) fun s =>
    let k := (f.payload.getD 0 0).toNat
    let b := s.bundle d k
    let x := b.me toHub
    if 4 ≤ k || !x.handoverOwed then s
    else
      let n := (x.covered (f.payload.getD 1 0)).getD 0
      let pkts := unsentPackets x.replay n
      let s := s.setBundle d k (b.setMe toHub { x with replay := [], handoverOwed := false, reroute := x.reroute ++ pkts })
      if toHub then s.forEach pkts fun s q =>
          s.uncount (16 + d.val) 0x05 1 (headerOf q.header).hue (headerOf q.header).cls
      else s)

/-- RETRAIN (R219): byte 0 names the bundle. -/
def execRetrain (d : Fin 12) (toHub : Bool) (f : SbFrame) (s : State) : Host.Outcome State Fault Refusal :=
  live s fun s => .next (s.sbTake d toHub 0x04 f (f.payload.length = 1) fun s =>
    if (f.payload.getD 0 0).toNat < 4 then s.bundleRetrain d (f.payload.getD 0 0).toNat .partnerFrame
    else s.weldLog .partner .sideband d 0)

/-- ACK (R200): toHub names the end that the ACK reaches. R200 gives no ACK payload: DESIGN CHOICE, log entry 117, the frame that an ACK
answers is the one that the ACK's own SEQ byte names. -/
def execAck (d : Fin 12) (toHub : Bool) (f : SbFrame) (s : State) : Host.Outcome State Fault Refusal :=
  live s fun s =>
    let p := s.port d
    if p.sbLost || f.typ.any (fun t => t ≠ 0xFF) || crcSb ([0xFF, BitVec.ofNat 8 f.payload.length, f.seq, 0] ++ f.payload) ≠ f.crc then .next s
    else if toHub then
      .next (s.setPort d { p with sbHub := p.sbHub.acked f.seq, sbDie := { p.sbDie with acks := p.sbDie.acks.erase f.seq } })
    else
      .next (s.setPort d { p with sbDie := p.sbDie.acked f.seq, sbHub := { p.sbHub with acks := p.sbHub.acks.erase f.seq } })

/-- SIDEBAND_RESEND (R200). -/
def execSidebandResend (d : Fin 12) (fromHub : Bool) (s : State) : Host.Outcome State Fault Refusal :=
  live s fun s =>
    let p := s.port d
    let x := if fromHub then p.sbHub else p.sbDie
    match x.unacked with
    | none => .next s
    | some o =>
      if p.sbLost then .next s
      else if o.repeats < 3 then
        let x := { x with unacked := some { o with repeats := o.repeats + 1 } }
        .next (s.setPort d (if fromHub then { p with sbHub := x } else { p with sbDie := x }))
      else .next ((s.weldLog .partner .sideband d 0).portDown d true)

/-- DATA_FLIT. -/
def execDataFlit (e : LinkEnd) (f : Flit) (s : State) : Host.Outcome State Fault Refusal :=
  live s fun s => .next (if s.linkUp e then s.dataFlit e f else s)

/-- CONTROL_FLIT. -/
def execControlFlit (e : LinkEnd) (f : Flit) (s : State) : Host.Outcome State Fault Refusal :=
  live s fun s => .next (if s.linkUp e then (s.bufferDrain (linkPort e) (linkBundle e) (linkHub e)).plainFlit e 1 f id else s)

/-- MAINT_FLIT. -/
def execMaintFlit (e : LinkEnd) (f : Flit) (s : State) : Host.Outcome State Fault Refusal :=
  live s fun s => .next (if s.linkUp e then s.maintTake e f else s)

/-- NAK. -/
def execNak (e : LinkEnd) (f : Flit) (s : State) : Host.Outcome State Fault Refusal :=
  live s fun s => .next (if s.linkUp e then s.nakTake e f else s)

/-- MAINT_SLOT: end `e` sends its MAINT flit (R208). -/
def execMaintSlot (e : LinkEnd) (s : State) : Host.Outcome State Fault Refusal :=
  live s fun s =>
    if s.linkUp e then
      let p := linkPort e
      let k := linkBundle e
      let b := s.bundle p k
      let x := b.me (linkHub e)
      .next (s.setBundle p k (b.setMe (linkHub e)
        { x with maint := some (s.maintFlit p k (linkHub e)), prbsTx := (prbsBytes 112 x.prbsTx).2, slotCount := 0,
                 crvc := x.crvc + 1, ackOwed := false }))
    else .next s

/-- CRC_THRESH_WINDOW: the 1 ms window of a bundle's replays ends (R211). -/
def execCrcThreshWindow (e : LinkEnd) (s : State) : Host.Outcome State Fault Refusal :=
  live s fun s =>
    let p := linkPort e
    let k := linkBundle e
    let b := s.bundle p k
    .next (s.setBundle p k { b with hub := { b.hub with windowReplays := 0 }, die := { b.die with windowReplays := 0 } })

/-- FIELD_RETRAIN. -/
def execFieldRetrain (e : LinkEnd) (c : RetrainCause) (s : State) : Host.Outcome State Fault Refusal :=
  live s fun s => .next (s.bundleRetrain (linkPort e) (linkBundle e) c)

/-- COLD_TRAINING. -/
def execColdTraining (d : Fin 12) (s : State) : Host.Outcome State Fault Refusal :=
  live s fun s => .next (if s.dieStatus d = 3 then s else s.coldTrain d)

/-- TRAINING_STEP_COMPLETE. -/
def execTrainingStepComplete (e : LinkEnd) (step : Fin 9) (i : TrainInfo) (s : State) : Host.Outcome State Fault Refusal :=
  live s fun s => .next (s.trainStep e step.val i)

/-- TRAINING_STEP_TIMEOUT. -/
def execTrainingStepTimeout (e : LinkEnd) (step : Fin 9) (failed : BitVec 9) (s : State) : Host.Outcome State Fault Refusal :=
  live s fun s => .next (s.trainTimeout e step.val failed)

end Sys2Proof.Machine
end

