-- ==== Sys2Proof/Machine/Pdr.lean ====
section
/-! DEFINITION. The package description ROM: assembly and locking, the window, and the live section (R386 to R389). -/

namespace Sys2Proof.Machine

/-- The mode that the start enters at step 11 (R418, R423). -/
def State.startMode (s : State) : Mode :=
  if s.mgmt.mode.cause = .configFallback then .unified
  else if fld (s.cfg 0x1201) 0 2 = 1 then .partitioned
  else if fld (s.cfg 0x1201) 0 2 = 2 then .cascade
  else .unified

/-- The enabled partition whose register `r + p` has bit `i`, when the start enters Partitioned mode: PART, or 0xFFFF. -/
def State.ownPart (s : State) (r i : Nat) : Nat :=
  if s.startMode = .partitioned then
    ((List.range 12).find? fun p => bit (s.cfg (0x1210 + p)) 12 && bit (s.cfg (r + p)) i).getD 0xFFFF
  else 0xFFFF

/-- The package index that the start uses (R25). -/
def State.startPkg (s : State) : Nat := if s.startMode = .cascade then s.mgmt.mode.straps.pkgId.val else 0

/-- The width of the root port that begins at a position (R342). -/
def portWidth (bifur p : Nat) : Nat :=
  if bifur = 0 then 16 else if bifur = 1 then 8
  else if bifur = 2 then (if p = 0 then 8 else 4)
  else if bifur = 3 then (if p = 2 then 8 else 4)
  else 4

/-- The requester ID of a root port, as the view of its partition shows it (R343, R344). -/
def State.portRid (s : State) (part r : Nat) : Nat :=
  let g := r / 4
  let own (q : Nat) : Bool := s.isPort (4 * g + q) && s.ownPart 0x1230 (4 * g + q) = part
  if part ≠ 0xFFFF && (List.range 4).find? own = some (r % 4) then g * 8 else g * 8 + r % 4

/-- Maximal runs of one bits: first and length. -/
def bitRuns (v : Nat) : Nat → List (Nat × Nat)
  | 0 => []
  | n + 1 =>
    let l := bitRuns v n
    if v.testBit n then
      (match l.getLast? with
       | some (a, k) => if a + k = n then l.dropLast ++ [(a, k + 1)] else l ++ [(n, 1)]
       | none => [(n, 1)])
    else l

/-- The records of the structural section, as configuration, fuses and training leave them (R387, R389 step 2). -/
def State.pdrRecords (s : State) : List PdrRec :=
  let slice := s.startPkg * 2 ^ 50
  let ctl := slice + 0x40000000
  let up := (List.range 12).filter fun d => s.dieStatus d ≠ 3
  let parted := s.startMode = .partitioned
  let on := (List.range 12).filter fun p => parted && bit (s.cfg (0x1210 + p)) 12
  let package : PdrRec :=
    { typ := 1, index := 0,
      body := leBytes 4 2500 ++ leBytes 4 3800 ++ leBytes 2 600 ++ leBytes 2 (44 * up.length) ++
        leBytes 1 s.mgmt.casc.members.toNat ++ leBytes 1 s.mgmt.casc.master.val ++ leBytes 2 0 }
  let die (d : Nat) : PdrRec :=
    { typ := 2, index := d, part := s.ownPart 0x1210 d,
      body := [0x01, 0xA1, BitVec.ofNat 8 (s.spares d).length] ++ leBytes 5 0 ++
        ((List.range 22).map fun l => BitVec.ofNat 8 (s.core (d * 32 + l)).phys.val) ++ leBytes 2 0 }
  let range (n part base size : Nat) : PdrRec :=
    { typ := 3, index := n, part := part,
      body := leBytes 8 (slice + base) ++ leBytes 8 size ++ leBytes 8 s.mem.pcFailed.toNat }
  let ranges : List (Nat × Nat × Nat) :=
    if parted then on.flatMap fun p => (bitRuns (fld (s.cfg (0x1220 + p)) 0 24) 24).map fun r => (p, r)
    else [(0xFFFF, 0, 24)]
  let port (r : Nat) : PdrRec :=
    let v := s.cfg (0x0900 + r)
    let part := s.ownPart 0x1230 r
    { typ := 4, index := r, part := part,
      body := leBytes 2 (s.portRid part r) ++
        [BitVec.ofNat 8 (portWidth (fld (s.cfg (0x0800 + r / 4)) 0 3) (r % 4)), BitVec.ofNat 8 (fld v 0 2),
         BitVec.ofNat 8 (fld v 4 3), BitVec.ofNat 8 (bitOf (bit v 33))] ++ leBytes 2 (fld v 39 13) ++
        leBytes 8 (ctl + 0x2000000 + r * 0x1000) }
  let rciep (d off size : Nat) : PdrRec :=
    { typ := 5, index := d,
      body := leBytes 2 (d * 8) ++ leBytes 6 0 ++ leBytes 8 (ctl + off) ++ leBytes 8 size ++ leBytes 8 (ctl + 0x2020000) }
  let bridges := if parted then on.filter fun p => (s.partition p).started else [0]
  let hdm (b n : Nat) : PdrRec :=
    { typ := 6, index := 16 * b + n, part := if parted then b else 0xFFFF,
      body := leBytes 8 (s.cfg (0x0A00 + 16 * b + n)).toNat ++ leBytes 8 (s.cfg (0x0B00 + 16 * b + n)).toNat }
  let hue (p : Nat) : PdrRec :=
    { typ := 7, index := p, part := p,
      body := leBytes 2 (fld (s.cfg (0x1210 + p)) 16 4 * 256) ++ leBytes 2 (fld (s.cfg (0x1210 + p)) 24 5 * 256) ++ leBytes 4 0 }
  let mail (m : Nat) : PdrRec :=
    { typ := 8, index := m, part := if parted then m else 0xFFFF,
      body := leBytes 8 (ctl + 0x100000 + m * 0x1000) ++ leBytes 2 (129 + m) ++ leBytes 6 0 }
  let weld (d : Nat) : PdrRec :=
    { typ := 9, index := d, part := s.ownPart 0x1210 d, body := (List.range 4).flatMap fun k => leBytes 8 (s.bstat d k) }
  let link (c : Nat) : PdrRec :=
    { typ := 10, index := c,
      body := [match (s.cascLink c).identity with
        | some i => BitVec.ofNat 8 i.pkgId.val
        | none => 0xFF, BitVec.ofNat 8 (bitOf (s.linkActive c))] ++ leBytes 6 0 }
  [package] ++ up.map die ++ (List.range ranges.length).filterMap (fun n => (ranges[n]?).map fun r =>
      range n r.1 (0x80000000 + r.2.1 * 2 ^ 32) (r.2.2 * 2 ^ 32)) ++
    ((List.range 32).filter fun r => s.isPort r).map port ++
    [rciep 16 0xA000000 0x1000000, rciep 17 0x300000 0x80000, rciep 18 0x100000 0x10000] ++
    (bridges.flatMap fun b => (List.range 16).map (hdm b)) ++ on.map hue ++
    (if parted then on else List.range 16).map mail ++ (List.range 12).map weld ++ (List.range 3).map link ++
    [{ typ := 11, index := 0, body := leBytes 4 100000000 ++ leBytes 4 100000000 }]

/-- A record as the window shows it (R387). -/
def pdrRecBytes (r : PdrRec) : Bytes :=
  leBytes 2 r.typ ++ leBytes 2 (8 + r.body.length) ++ leBytes 2 r.index ++ leBytes 2 r.part ++ r.body

/-- Assemble and lock the PDR, and start its live section with GEN = 0 (R389). -/
def State.lockPdr (s : State) : State :=
  s.upPdr fun p =>
    { p with lock := true, lockLot := s.mgmt.config.lot, lockMode := s.startMode, lockPkg := s.startPkg,
             records := s.pdrRecords, gen := 0 }

/-- The structural section as a partition, or the whole package, reads it (R386, R387). -/
def State.pdrStruct (s : State) (part : Option Nat) : Bytes :=
  let p := s.mgmt.pdr
  let seen := p.records.filter fun r => match part with
    | some q => r.part = q || r.part = 0xFFFF
    | none => true
  let body := (seen.flatMap pdrRecBytes) ++ pdrRecBytes { typ := 0xFFFF, index := 0, body := [] }
  let head (crc : Nat) : Bytes :=
    [0x43, 0x51, 0x50, 0x44] ++ leBytes 2 1 ++ leBytes 2 64 ++ leBytes 4 (64 + body.length) ++ leBytes 4 (seen.length + 1) ++
      leBytes 4 crc ++ leBytes 4 p.lockLot.toNat ++ leBytes 2 s.mgmt.mordant.boot.toNat ++
      [BitVec.ofNat 8 (modeCode p.lockMode), BitVec.ofNat 8 p.lockPkg, 0xA1, 0xC1, 0, 0] ++
      [0x43, 0x51, 0x5A, 0x2D, 0x51, 0x32, 0x36, 0x34, 0x2D, 0x48, 0x39, 0x36, 0, 0, 0, 0] ++
      leBytes 4 0xF0000 ++ leBytes 4 0xB8 ++ leBytes 8 0
  head (crc32c (head 0 ++ body)).toNat ++ body

/-- PORT[r] of the live section (R388). -/
def linkCode (l : LinkSt) : Nat := match l with
  | .absent => 0 | .up => 1 | .down => 2 | .contained => 3 | .fenced => 4

/-- The live section (R388). -/
def State.pdrLive (s : State) : Bytes :=
  let active (d : Nat) : Nat := ((s.port d).bundles.filter fun e => e.2.st = .active).length
  let die (d : Nat) : Bytes :=
    leBytes 1 (s.dieStatus d) ++ leBytes 1 (s.spares d).length ++ leBytes 1 (active d) ++
      leBytes 1 ((s.partOfDie d).getD 0xFF) ++ leBytes 4 0
  let member (p : Nat) : Bytes :=
    let st := if s.mgmt.casc.lost.getLsbD p then 2 else if s.mgmt.casc.members.getLsbD p then 1 else 0
    leBytes 8 (st + bitOf (st ≠ 0 && s.mgmt.casc.master.val = p) * 2 ^ 8)
  leBytes 8 s.mgmt.pdr.gen.toNat ++ leBytes 8 0 ++ (List.range 12).flatMap die ++ leBytes 8 s.mem.pcFailed.toNat ++
    ((List.range 32).flatMap fun r => leBytes 1 (if s.isPort r then linkCode (s.rootPort r).link else 0)) ++
    (List.range 4).flatMap member

/-- `n` bytes of the PDR window from an offset: zero beyond the sections, and everywhere before the PDR is locked. -/
def State.pdrRead (s : State) (part : Option Nat) (off n : Nat) : Bytes :=
  let k := min n (0xF0000 - off)
  if s.mgmt.pdr.lock then
    padTo k (sub (s.pdrStruct part) off k) ++ padTo (n - k) (sub s.pdrLive (off + k - 0xF0000) (n - k))
  else List.replicate n 0

/-- PDR_READ (R383). -/
def execPdrRead (iss : Issuer) (c : CmdCell) (s : State) : Host.Outcome State Fault Refusal :=
  liveMordant s fun s =>
    let off := CmdCell.at_ c 0 4
    let len := CmdCell.at_ c 4 1
    .next <| s.command iss c 0x0005 (· = 5) [] true
      (rangeElse (len = 0 || 48 < len || 0x100000 < off + len) (status (!s.mgmt.pdr.lock) stNone)) fun s =>
        (some (s.pdrRead (s.issPart iss) off len), s)

end Sys2Proof.Machine
end

