-- ==== Sys2Proof/Machine/Sideband.lean ====
section
/-! DEFINITION. Mordant's traffic on the sidebands and the census (rows CFG_PREPARE to MEMBER_CENSUS_REPORT). -/

namespace Sys2Proof.Machine

/-- CFG_PREPARE, at a die (R401) or, from the master, at a member of a cascade (R404). Between members `toHub` is the way to the
master. -/
def execCfgPrepare (who : CommitWho) (toHub : Bool) (f : CommitFrame) (s : State) : Host.Outcome State Fault Refusal :=
  live s fun s =>
    match who, f with
    | .die d, .frame f =>
      .next (s.sbTake d toHub 0x10 f (!toHub && cfgLenOk f.payload.length) fun s => s.dieHold d f.payload)
    | .member p, .message lot entries _ =>
      .next (if !toHub && s.fromMaster p && s.mgmt.config.commit.isNone then s.memberPrepare lot entries else s)
    | _, _ => .next s

/-- CFG_ACK, of a die (R401) or, at the master, of a member (R404). -/
def execCfgAck (who : CommitWho) (toHub : Bool) (f : CommitFrame) (s : State) : Host.Outcome State Fault Refusal :=
  live s fun s =>
    match who, f with
    | .die d, .frame f =>
      .next (s.sbTake d toHub 0x11 f (toHub && f.payload.length = 6) fun s =>
        s.commitAck d (BitVec.ofNat 32 (leAt f.payload 0 4)))
    | .member p, .message lot _ _ => .next (if toHub then s.memberAck p lot else s)
    | _, _ => .next s

/-- CFG_FLIP, at a die (R401) or, from the master, at a member of a cascade (R404). -/
def execCfgFlip (who : CommitWho) (toHub : Bool) (f : CommitFrame) (s : State) : Host.Outcome State Fault Refusal :=
  live s fun s =>
    match who, f with
    | .die d, .frame f =>
      .next (s.sbTake d toHub 0x12 f (!toHub && f.payload.length = 16) fun s =>
        s.dieFlip d (BitVec.ofNat 32 (leAt f.payload 0 4)) (BitVec.ofNat 64 (leAt f.payload 8 8)))
    | .member p, .message lot _ t => .next (if !toHub && s.fromMaster p then s.memberFlip lot t else s)
    | _, _ => .next s

/-- The CFG_DISCARD frame, at a die (R402) or, from the master, at a member of a cascade (R404). -/
def execCfgDiscardFrame (who : CommitWho) (toHub : Bool) (f : CommitFrame) (s : State) : Host.Outcome State Fault Refusal :=
  live s fun s =>
    match who, f with
    | .die d, .frame f =>
      .next (s.sbTake d toHub 0x13 f (!toHub && f.payload.length = 4) fun s =>
        s.dieDiscard d (BitVec.ofNat 32 (leAt f.payload 0 4)))
    | .member p, .message lot _ _ => .next (if !toHub && s.fromMaster p then s.memberDiscard lot else s)
    | _, _ => .next s

/-- CFG_LOAD (R403, R410). -/
def execCfgLoad (d : Fin 12) (toHub : Bool) (f : SbFrame) (s : State) : Host.Outcome State Fault Refusal :=
  live s fun s => .next (s.sbTake d toHub 0x14 f (!toHub && cfgLenOk f.payload.length) fun s => s.dieLoad d f.payload)

/-- LOT_BOUNDARY: the time base reaches T, and a census round starts (R401). -/
def execLotBoundary (s : State) : Host.Outcome State Fault Refusal :=
  live s fun s => .next (
    match s.mgmt.config.commit with
    | none => s
    | some k => if k.flip.isSome then s.lotBoundary.censusStart none else s)

/-- CFG_ACK_TIMEOUT: the commit is absent (R402), also for a member that does not acknowledge in time (R404). -/
def execCfgAckTimeout (who : CommitWho) (s : State) : Host.Outcome State Fault Refusal :=
  live s fun s => .next (
    match s.mgmt.config.commit, who with
    | none, _ => s
    | some k, .die d =>
      if k.waiting.contains d then (s.logE .partner .cfg .timeout d.val (info := k.lot.toNat)).commitFail stPartner else s
    | some k, .member p =>
      if k.members.contains p then (s.logE .partner .cfg .timeout 0 (info := k.lot.toNat)).commitFail stPartner else s)

/-- SHADOW_COPY_TIMEOUT: a die drops a shadow copy that has had no CFG_FLIP for 10 ms (R402). -/
def execShadowCopyTimeout (d : Fin 12) (s : State) : Host.Outcome State Fault Refusal :=
  live s fun s =>
    let k := s.dieCfg d
    match k.shadow with
    | some w => .next (if w.flip.isNone then (s.reach (w.since + 1000000)).setDieCfg d { k with shadow := none } else s)
    | none => .next s

/-- CENSUS_REQ: a die, or the hub's census logic, computes its shade and answers (R408). -/
def execCensusReq (d : Fin 13) (f : SbFrame) (s : State) : Host.Outcome State Fault Refusal :=
  live s fun s =>
    if h : d.val < 12 then
      .next (s.sbTake ⟨d.val, h⟩ false 0x15 f (f.payload.length = 4) fun s =>
        let k := s.dieCfg d.val
        let s := s.setDieCfg d.val { k with round := BitVec.ofNat 32 (leAt f.payload 0 4) }
        s.sbSend d.val false 0x16 (leBytes 4 (leAt f.payload 0 4) ++ leBytes 4 k.lot.toNat ++
          leBytes 8 (s.shade d.val).toNat ++ leBytes 2 (s.censusStream d.val).length))
    else .next (s.censusReport 12 s.mgmt.config.lot (s.shade 12))

/-- CENSUS_RPT: Mordant compares a die's report (R409). -/
def execCensusRpt (d : Fin 13) (f : SbFrame) (s : State) : Host.Outcome State Fault Refusal :=
  live s fun s =>
    let take (s : State) : State :=
      let lot : BitVec 32 := BitVec.ofNat 32 (leAt f.payload 4 4)
      let shade : Word := BitVec.ofNat 64 (leAt f.payload 8 8)
      if leAt f.payload 0 4 ≠ s.mgmt.census.round.toNat then s
      else (s.bisectReport d.val lot shade).censusReport d.val lot shade
    if h : d.val < 12 then .next (s.sbTake ⟨d.val, h⟩ true 0x16 f (f.payload.length = 18) take)
    else .next (if f.payload.length = 18 then take s else s)

/-- CENSUS_PART: a request at a die is answered with a CRC-64; an answer goes on with the bisection (R411). A request that breaks
A < B ≤ ENTRIES is acknowledged and has no answer: DESIGN CHOICE, log entry 121. -/
def execCensusPart (d : Fin 13) (f : SbFrame) (s : State) : Host.Outcome State Fault Refusal :=
  live s fun s =>
    let a := leAt f.payload 0 2
    let b := leAt f.payload 2 2
    let crc := streamCrc (((s.censusStream d.val).drop a).take (b - a))
    let answer (s : State) : State := s.bisectPart d.val a b (BitVec.ofNat 64 (leAt f.payload 4 8))
    if h : d.val < 12 then
      if f.payload.length = 4 then
        .next (s.sbTake ⟨d.val, h⟩ false 0x17 f true fun s =>
          if a < b && b ≤ (s.censusStream d.val).length then
            s.sbSend d.val false 0x17 (leBytes 2 a ++ leBytes 2 b ++ leBytes 8 crc.toNat)
          else s)
      else .next (s.sbTake ⟨d.val, h⟩ true 0x17 f (f.payload.length = 12) answer)
    else .next (if f.payload.length = 12 then answer s else s)

/-- CENSUS_ENTRY: a request at a die is answered with one masked entry; an answer ends the bisection (R411). A request for an entry
past the end is acknowledged and has no answer: DESIGN CHOICE, log entry 121. -/
def execCensusEntry (d : Fin 13) (f : SbFrame) (s : State) : Host.Outcome State Fault Refusal :=
  live s fun s =>
    let ix := leAt f.payload 0 2
    let answer (s : State) : State :=
      match s.mgmt.census.bisect with
      | some (e, lo, hi) =>
        if e = d.val && hi = lo + 1 && ix = lo then s.bisectEntry d.val lo (BitVec.ofNat 64 (leAt f.payload 4 8)) else s
      | none => s
    if h : d.val < 12 then
      if f.payload.length = 2 then
        .next (s.sbTake ⟨d.val, h⟩ false 0x18 f true fun s =>
          match (s.censusStream d.val)[ix]? with
          | some e => s.sbSend d.val false 0x18 (leBytes 2 ix ++ entryBytes e)
          | none => s)
      else .next (s.sbTake ⟨d.val, h⟩ true 0x18 f (f.payload.length = 12) answer)
    else .next (if f.payload.length = 12 then answer s else s)

/-- CENSUS_ROUND: INTERVAL has elapsed since the last round's start, and Mordant starts one if EN holds (R406, R408). -/
def execCensusRound (s : State) : Host.Outcome State Fault Refusal :=
  live s fun s =>
    if bit (s.cfg 0x1000) 16 && s.mode ≠ .recovery && s.mode ≠ .bringUp then
      .next ((s.reach (s.mgmt.census.last + BitVec.ofNat 64 (fld (s.cfg 0x1000) 0 16 * 100000))).censusStart none)
    else .next s

/-- MEMBER_CENSUS_REPORT: the master proves a member consistent, or flags it (R412). -/
def execMemberCensusReport (p : Fin 4) (lot : BitVec 32) (shade expected : Word) (mismatch : BitVec 13) (s : State) :
    Host.Outcome State Fault Refusal :=
  live s fun s =>
    if s.scopeMode ≠ .cascade || s.mgmt.casc.master.val ≠ s.pkgIx || !s.pkgPresent p.val || p.val = s.pkgIx then .next s
    else
      let s := s.upCasc fun c => { c with reports := Table.insert c.reports p.val s.now }
      let b := BitVec.ofNat 4 (2 ^ p.val)
      if lot = s.mgmt.config.lot && shade = expected && mismatch = 0 then
        .next (s.upCensus fun c => { c with packages := c.packages &&& ~~~ b })
      else
        .next ((s.upCensus fun c => { c with packages := c.packages ||| b }).event 5
          (leBytes 4 lot.toNat ++ [BitVec.ofNat 8 p.val, 0xFF, 0, 0] ++ leBytes 8 shade.toNat))

end Sys2Proof.Machine
end

