-- ==== Sys2Proof/Machine/HartCtl.lean ====
section
/-! DEFINITION. Power and hart control on the sidebands (rows PM_SET to HART_RPT). -/

namespace Sys2Proof.Machine

/-- The hart of an index, when it names one (R38). -/
def hartIdOf (i : Nat) : Option HartId := if isHartIx i then some (hartOfIx i) else none

/-- A die takes a HART_CTL operation for the harts of a bitmap, and answers once all have reached the state. -/
def State.ctlTake (s : State) (d : Nat) (op : Byte) (harts : Nat) (act : State → HartId → State) : State :=
  let hs := (ones 44 harts).filterMap fun i => hartIdOf (d * 64 + i)
  let x := s.die d
  let s := s.setDie d { x with ctl := x.ctl ++ [(op, harts)] }
  (s.forEach hs act).ctlReport d

/-- HOLD and STOP: what has not retired is squashed, and the store buffer and an I/O access under way are waited for. -/
def State.ctlDrain (op : Byte) (s : State) (h : HartId) : State :=
  let s := (s.meterSend h (s.hart (hartIx h)).hue).stopAt h
  let x := s.hart (hartIx h)
  (s.setHart (hartIx h) { x with sinvals := if op = 1 then [] else x.sinvals, ctl := some op }).ctlHart h

/-- A held hart is released parked (R424). -/
def State.releaseParked (s : State) (h : HartId) : State :=
  let x := s.hart (hartIx h)
  if x.run = .held && x.ctl.isNone then s.setHart (hartIx h) { x with run := .parked } else s

/-- A held hart is released running. -/
def State.releaseRunning (s : State) (h : HartId) : State :=
  let x := s.hart (hartIx h)
  if x.run = .held && x.ctl.isNone then s.startHart (hartIx h) else s

/-- A stopped hart resumes in the state it was stopped in (R432). -/
def State.resumeHart (s : State) (h : HartId) : State :=
  let x := s.hart (hartIx h)
  if x.run = .stopped then s.setHart (hartIx h) { x with run := x.saved }.wake else s

/-- The frame is a HART_CTL of the operation, towards the die. -/
def ctlOk (toHub : Bool) (op : Byte) (f : SbFrame) : Bool := !toHub && f.payload.length = 8 && f.payload.getD 0 0 = op

/-- HARTS of a payload. -/
def ctlHarts (f : SbFrame) : Nat := leAt f.payload 2 6

/-- The idle state of a 2-bit code (R452). -/
def idleOf (n : Nat) : CoreIdle := if n = 0 then .cs0 else if n = 1 then .cs1 else if n = 2 then .cs2 else .cs3

def idleCode (c : CoreIdle) : Nat := match c with
  | .cs0 => 0 | .cs1 => 1 | .cs2 => 2 | .cs3 => 3

/-- PM_SET (R202, R444, R452): FREQ bytes, two CS bits for each logical core, and the two APPLY flags. A FREQ byte outside 32 to
152, which R202 gives no answer, leaves its core's frequency as it is: DESIGN CHOICE, log entry 120. -/
def execPmSet (d : Fin 12) (toHub : Bool) (f : SbFrame) (s : State) : Host.Outcome State Fault Refusal :=
  live s fun s => .next (s.sbTake d toHub 0x19 f (!toHub && f.payload.length = 29) fun s =>
    let flags := (f.payload.getD 28 0).toNat
    s.forEach (coresOf d) fun s c =>
      let x := s.core (coreKey c)
      let fr := (f.payload.getD c.core.val 0).toNat
      let x := if flags.testBit 0 && 32 ≤ fr && fr ≤ 152 then { x with freq := fr * 25 } else x
      let cs := idleOf (leAt f.payload 22 6 / 2 ^ (2 * c.core.val) % 4)
      let x := if flags.testBit 1 then { x with idleReq := cs, idle := if cs = .cs0 then .cs0 else x.idle } else x
      s.setCore (coreKey c) x)

/-- PM_RPT_TIMER: a die sends its sensor readings and PLL state (R202, R459). -/
def execPmRptTimer (d : Fin 12) (s : State) : Host.Outcome State Fault Refusal :=
  live s fun s =>
    let t := Table.get [] s.mgmt.power.sensors d.val
    let word (i : Nat) : Bytes := leBytes 2 (BitVec.ofInt 16 (t.getD i 0)).toNat
    .next (s.sbSend d.val false 0x1A
      (word 0 ++ word 1 ++ word 2 ++ word 3 ++ [BitVec.ofNat 8 (bitOf (s.mgmt.power.diePll.contains d))]))

/-- PM_RPT: Mordant takes a die's readings (R461). -/
def execPmRpt (d : Fin 12) (toHub : Bool) (f : SbFrame) (s : State) : Host.Outcome State Fault Refusal :=
  live s fun s => .next (s.sbTake d toHub 0x1A f (toHub && f.payload.length = 9) fun s =>
    let t := (List.range 4).map fun i => (BitVec.ofNat 16 (leAt f.payload (2 * i) 2)).toInt
    s.upPower fun p => { p with dieHot := Table.put [] p.dieHot d.val t })

/-- HART_CTL HOLD. -/
def execHartCtlHold (d : Fin 12) (toHub : Bool) (f : SbFrame) (s : State) : Host.Outcome State Fault Refusal :=
  live s fun s => .next (s.sbTake d toHub 0x1B f (ctlOk toHub 1 f) fun s =>
    s.ctlTake d.val 1 (ctlHarts f) (State.ctlDrain 1))

/-- HART_CTL RELEASE_PARKED. -/
def execHartCtlReleaseParked (d : Fin 12) (toHub : Bool) (f : SbFrame) (s : State) : Host.Outcome State Fault Refusal :=
  live s fun s => .next (s.sbTake d toHub 0x1B f (ctlOk toHub 2 f) fun s =>
    s.ctlTake d.val 2 (ctlHarts f) State.releaseParked)

/-- HART_CTL RELEASE_RUNNING. -/
def execHartCtlReleaseRunning (d : Fin 12) (toHub : Bool) (f : SbFrame) (s : State) : Host.Outcome State Fault Refusal :=
  live s fun s => .next (s.sbTake d toHub 0x1B f (ctlOk toHub 3 f) fun s =>
    s.ctlTake d.val 3 (ctlHarts f) State.releaseRunning)

/-- HART_CTL STOP. -/
def execHartCtlStop (d : Fin 12) (toHub : Bool) (f : SbFrame) (s : State) : Host.Outcome State Fault Refusal :=
  live s fun s => .next (s.sbTake d toHub 0x1B f (ctlOk toHub 4 f) fun s =>
    s.ctlTake d.val 4 (ctlHarts f) (State.ctlDrain 4))

/-- HART_CTL RESUME. -/
def execHartCtlResume (d : Fin 12) (toHub : Bool) (f : SbFrame) (s : State) : Host.Outcome State Fault Refusal :=
  live s fun s => .next (s.sbTake d toHub 0x1B f (ctlOk toHub 5 f) fun s =>
    s.ctlTake d.val 5 (ctlHarts f) State.resumeHart)

/-- HART_RPT: the harts have reached the state; Mordant notes them (R202). -/
def execHartRpt (d : Fin 12) (toHub : Bool) (f : SbFrame) (s : State) : Host.Outcome State Fault Refusal :=
  live s fun s => .next (s.sbTake d toHub 0x1C f (toHub && f.payload.length = 8 &&
      [1, 2, 3, 4, 5].contains (f.payload.getD 0 0).toNat) fun s =>
    s.upService fun v => { v with reports := Table.put (0, 0) v.reports d.val ((f.payload.getD 0 0).toNat, leAt f.payload 2 6) })

end Sys2Proof.Machine
end

