-- ==== Sys2Proof/Machine/Mailboxes.lean ====
section
/-! DEFINITION. The mailboxes and the BMC's path: doorbell, acceptance, consumed cells, events, MCTP and I3C, and the restart of
Mordant (R368 to R379). -/

namespace Sys2Proof.Machine

/-! ### Cells (R375, R376) -/

/-- The opcode of a command cell, and the cell. -/
def parseCell (b : Bytes) : Nat × CmdCell :=
  (leAt b 0 2,
    { tag := BitVec.ofNat 16 (leAt b 2 2), plen := b.getD 4 0, lotExpect := BitVec.ofNat 32 (leAt b 8 4),
      reserved := sub b 5 3 ++ sub b 12 4, payload := padTo 48 (sub b 16 48) })

/-- A response or event cell as the host or the BMC reads it. -/
def respCellBytes (c : RespCell) : Bytes :=
  leBytes 2 c.opcode ++ leBytes 2 c.tag.toNat ++ [if c.event then 2 else 1, BitVec.ofNat 8 c.result.length] ++
    leBytes 2 c.status ++ leBytes 4 c.lot.toNat ++ leBytes 4 c.detail.toNat ++ padTo 48 c.result

/-! ### Mailboxes (R371 to R374) -/

/-- The doorbell (R372, R509). -/
def State.mbxTail (s : State) (m : Nat) (t : BitVec 16) : Host.Outcome State Fault Refusal :=
  let x := s.mbx m
  if 0x8000 ≤ (t - x.cmdTail).toNat then .fault .doorbellBack
  else if 16 < (t - x.cmdHead).toNat then .fault .doorbellFull
  else .next (s.setMbx m { x with cmdTail := t })

/-- MBX_CMD_TAIL. -/
def execMbxCmdTail (m : Fin 16) (v : Word) (s : State) : Host.Outcome State Fault Refusal :=
  live s fun s => s.mbxTail m.val (v.extractLsb' 0 16)

/-- The bytes of a command slot: free where the host has written none of them. -/
def State.slotBytes (s : State) (m i : Nat) : Bytes × State :=
  match Table.find (s.mbx m).cmdSlots i with
  | some b => (b, s)
  | none =>
    let (b, s) := s.takeBytes 64
    let x := s.mbx m
    (b, s.setMbx m { x with cmdSlots := Table.insert x.cmdSlots i b })

/-- COMMAND_ACCEPT: the cell at HEAD is copied, and a response slot reserved (R372). -/
def execCommandAccept (m : Fin 16) (s : State) : Host.Outcome State Fault Refusal :=
  liveMordant s fun s =>
    let x := s.mbx m.val
    if x.cmdHead = x.cmdTail || !s.canAccept (.mailbox m) then .next s
    else
      let (b, s) := s.slotBytes m.val (x.cmdHead.toNat % 16)
      let (op, c) := parseCell b
      let s := s.accept (.mailbox m) op c 0
      let s := s.setMbx m.val { s.mbx m.val with cmdHead := x.cmdHead + 1 }
      .next (s.unknowns (.mailbox m) 17)

/-- Cells are consumed; a value outside [HEAD, TAIL] is ignored and sets BADHEAD (R371). -/
def State.mbxHead (s : State) (m : Nat) (h : BitVec 16) : State :=
  let x := s.mbx m
  if (x.rspTail - x.rspHead).toNat < (h - x.rspHead).toNat then s.setMbx m { x with badHead := true }
  else s.setMbx m { x with rspHead := h }

/-- MBX_RSP_HEAD. -/
def execMbxRspHead (m : Fin 16) (v : Word) (s : State) : Host.Outcome State Fault Refusal :=
  live s fun s => .next (s.mbxHead m.val (v.extractLsb' 0 16))

/-- EVENT_DELIVERY: the oldest event that waits takes a slot that no command has reserved (R374). -/
def execEventDelivery (iss : Issuer) (s : State) : Host.Outcome State Fault Refusal :=
  liveMordant s fun s =>
    let i := issIx iss
    let x := s.mbx i
    match x.events with
    | [] => .next s
    | e :: rest =>
      if i = 16 || x.inUse < 16 then .next (s.setMbx i ({ x with events := rest }.writeCell (i = 16) e)) else .next s

/-! ### The BMC (R377, R378) -/

/-- Take a message of the BMC: 69 bytes, type 0x7F, vendor 0x0000_B7E3, then a cell. -/
def State.bmcTake (s : State) (tag : BitVec 3) (b : Bytes) : State :=
  if b.length ≠ 69 || b.take 5 ≠ [0x7F, 0x00, 0x00, 0xB7, 0xE3] then s.logE .partner .mbx .malformed 16
  else
    let (op, c) := parseCell (b.drop 5)
    if s.canAccept .bmc then (s.accept .bmc op c tag).unknowns .bmc 17
    else
      let x := s.mbx 16
      s.setMbx 16 (x.writeCell true
        { opcode := op, tag := c.tag, event := false, status := stBusy, lot := s.mgmt.config.lot, detail := 0, result := [],
          msgTag := some tag })

/-- BMC_MESSAGE. While Mordant restarts the message waits. -/
def execBmcMessage (tag : BitVec 3) (bytes : Bytes) (s : State) : Host.Outcome State Fault Refusal :=
  liveMordant s fun s =>
    if s.accepting then .next (s.bmcTake tag bytes)
    else .next (s.upMordant fun m => { m with bmcHeld := m.bmcHeld ++ [(tag, bytes)] })

/-- Take the messages that waited. -/
def State.bmcRelease (s : State) : State :=
  let l := s.mgmt.mordant.bmcHeld
  (s.upMordant fun m => { m with bmcHeld := [] }).forEach l fun s e => s.bmcTake e.1 e.2

/-- Answer an MCTP control command: message type, command code, completion code and data. PRESUMED (DMTF DSP0236): log
entry 34. -/
def State.mctpReply (s : State) (code cc : Byte) (data : Bytes) : State :=
  s.upMordant fun m => { m with bmcReply := m.bmcReply ++ [[0x00, code, cc] ++ data] }

/-- SET_ENDPOINT_ID: the null and the broadcast identifier are refused. -/
def execSetEndpointId (eid : Byte) (s : State) : Host.Outcome State Fault Refusal :=
  liveMordant s fun s =>
    if eid = 0 || eid = 0xFF then .next (s.mctpReply 0x01 0x02 [])
    else .next ((s.upMordant fun m => { m with eid := eid }).mctpReply 0x01 0x00 [0x00, eid, 0x00])

/-- GET_ENDPOINT_ID. -/
def execGetEndpointId (s : State) : Host.Outcome State Fault Refusal :=
  liveMordant s fun s => .next (s.mctpReply 0x02 0x00 [s.mgmt.mordant.eid, 0x00, 0x00])

/-- GET_MCTP_VERSION_SUPPORT: base and control 1.3; the version of the vendor's messages is a free value. -/
def execGetMctpVersionSupport (msgType : Byte) (s : State) : Host.Outcome State Fault Refusal :=
  liveMordant s fun s =>
    if msgType = 0xFF || msgType = 0x00 then .next (s.mctpReply 0x04 0x00 [0x01, 0xF1, 0xF3, 0xFF, 0x00])
    else if msgType = 0x7F then
      let (v, s) := s.takeBytes 4
      .next (s.mctpReply 0x04 0x00 (0x01 :: v))
    else .next (s.mctpReply 0x04 0x80 [])

/-- GET_MESSAGE_TYPE_SUPPORT: type 0x7F beside control messages. -/
def execGetMessageTypeSupport (s : State) : Host.Outcome State Fault Refusal :=
  liveMordant s fun s => .next (s.mctpReply 0x05 0x00 [0x01, 0x7F])

/-- SETDASA: the static address is 0x30 + PKG_ID[1:0] (R377). -/
def execSetdasa (static : BitVec 7) (addr : BitVec 7) (s : State) : Host.Outcome State Fault Refusal :=
  liveMordant s fun s =>
    if static.toNat = 0x30 + s.mgmt.mode.straps.pkgId.val && s.mgmt.mordant.dynAddr.isNone then
      .next (s.upMordant fun m => { m with dynAddr := some addr })
    else .next s

/-- ENTDAA: the package takes part while it has no dynamic address. -/
def execEntdaa (addr : BitVec 7) (s : State) : Host.Outcome State Fault Refusal :=
  liveMordant s fun s =>
    if s.mgmt.mordant.dynAddr.isNone then .next (s.upMordant fun m => { m with dynAddr := some addr }) else .next s

/-! ### Lockstep (R370) -/

/-- Discard the staging set with its class-map changes (R400). -/
def State.dropStaging (s : State) : State :=
  let s := s.upConfig fun c => { c with staged := [] }
  s.upHub fun h => { h with hues := h.hues.map fun e => (e.1, { e.2 with staged := none }) }

/-- LOCKSTEP_MISMATCH: both cores restart from ROM, and the staging set is lost. The third within 60 s limits Mordant until the
next cold Bring-up. -/
def execLockstepMismatch (s : State) : Host.Outcome State Fault Refusal :=
  liveMordant s fun s =>
    let s := s.dropStaging
    let s := s.upMordant fun m =>
      let l := (m.restarts.filter fun t => s.now.toNat < t.toNat + 6000000000) ++ [s.now]
      { m with restarting := true, restarts := l, limited := m.limited || 3 ≤ l.length }
    .next (s.logE .recovered .err .lockstep 0)

/-- Answer every accepted command of an issuer. -/
def State.answerAll (s : State) (i st : Nat) : State :=
  s.forEach (s.mbx i).accepted fun s _ => s.answer i st 0 []

/-- MORDANT_RESTART_COMPLETE. -/
def execMordantRestartComplete (s : State) : Host.Outcome State Fault Refusal :=
  liveMordant s fun s =>
    if !s.mgmt.mordant.restarting then .next s
    else
      let s := s.upMordant fun m => { m with restarting := false }
      let s := s.forEach (List.range 17) fun s i => s.answerAll i stRestarted
      let s := s.forEach (List.range 16) fun s i => s.setMbx i { s.mbx i with restarted := true }
      let s := s.commitRestart
      let s := s.upCensus fun c => { c with bisect := none, bisectFor := none }
      let s := s.upHub fun h =>
        { h with slices := h.slices.map fun e =>
            (e.1, { e.2 with unbinding := e.2.unbinding.map fun _ => none }) }
      let n := (s.mgmt.mordant.restarts.filter fun t => s.now.toNat < t.toNat + 6000000000).length
      .next (s.event 0 (leBytes 1 n)).bmcRelease

end Sys2Proof.Machine
end

