-- ==== Sys2Proof/Machine/Pcie.lean ====
section
/-! DEFINITION. Root ports, slots and device requests (chapter 14). -/

namespace Sys2Proof.Machine

/-! ### Completions for harts (R349, R350, R367) -/

/-- Non-posted requests that a port keeps outstanding; with 10-bit tags enabled 1,024, else 256. -/
def RootPort.tagLimit (p : RootPort) : Nat := if p.devCtl2.getLsbD 12 then 1024 else 256

/-- Requests that waited for a tag take the free ones. -/
def State.portNext (s : State) (r : Nat) : State :=
  let p := s.rootPort r
  let n := p.tagLimit - p.requests.length
  s.setRootPort r { p with requests := p.requests ++ p.waiting.take n, waiting := p.waiting.drop n }

/-- A request ends: its place goes to the next. -/
def State.portDone (s : State) (r : Nat) (q : PortReq) : State :=
  let p := s.rootPort r
  (s.setRootPort r { p with requests := p.requests.erase q }).portNext r

/-- Put bytes at an offset among those received. -/
def addPiece (got : List (Nat × Byte)) (off : Nat) : Bytes → List (Nat × Byte)
  | [] => got
  | b :: l => addPiece (got.filter (·.1 ≠ off) ++ [(off, b)]) (off + 1) l

/-- A piece of a completion arrives: the request ends when every byte has come. -/
def State.portPiece (s : State) (r : Nat) (q : PortReq) (off : Nat) (data : Bytes) : State :=
  let got := addPiece q.got off data
  if q.write || q.size ≤ got.length then
    let v := leNat ((List.range q.size).map fun i => ((got.find? fun g => g.1 = i).map Prod.snd).getD 0)
    let ans : IoAnswer := if q.write then .ack else .data (BitVec.ofNat 64 v) false
    (s.upFab fun f => { f with ioAnswers := f.ioAnswers ++ [(q.hart, ans)] }).portDone r q
  else
    let p := s.rootPort r
    s.setRootPort r { p with requests := p.requests.map fun x => if x = q then { q with got := got } else x }

/-- TLP_COMPLETION. A completion that answers nothing, or has the wrong length, is dropped (R367). -/
def execTlpCompletion (port : Fin 32) (h : HartId) (st : CplStatus) (offset : Nat) (data : Bytes) (s : State) :
    Host.Outcome State Fault Refusal :=
  live s fun s =>
    let r := port.val
    let p := s.rootPort r
    let drop (s : State) : State := s.portError r .pcie .unexpected (p.buses.1 * 256) (some .unexpected)
    if p.link ≠ .up then .next s
    else match p.requests.find? fun q => q.hart = h with
      | none => .next (drop s)
      | some q =>
        match st with
        | .ur => .next ((s.portFail r q .unsupported .ur).portDone r q)
        | .ca => .next ((s.portFail r q .unsupported .ca).portDone r q)
        | .sc =>
          if (!q.write && data.isEmpty) || q.size < offset + data.length || (q.write && !data.isEmpty) then .next (drop s)
          else .next (s.portPiece r q offset data)

/-- COMPLETION_TIMEOUT, unless Device Control 2 disables it. -/
def execCompletionTimeout (port : Fin 32) (h : HartId) (s : State) : Host.Outcome State Fault Refusal :=
  live s fun s =>
    let p := s.rootPort port.val
    match p.requests.find? fun q => q.hart = h with
    | some q => if p.devCtl2.getLsbD 4 then .next s else .next ((s.portFail port.val q .timeout .timeout).portDone port.val q)
    | none => .next s

/-! ### Slots (R348, R356 to R360) -/

def State.slotEn (s : State) (r : Nat) : Bool := bit (s.cfg (0x0900 + r)) 33
def State.chainPos (s : State) (r : Nat) : Nat := fld (s.cfg (0x0900 + r)) 34 5
def State.surpriseOk (s : State) (r : Nat) : Bool := bit (s.cfg (0x0900 + r)) 27

/-- Set Slot Status bits, and let the APLIC see the port's interrupt. -/
def State.slotEvent (s : State) (r : Nat) (bits : BitVec 16) : State :=
  let p := s.rootPort r
  (s.setRootPort r { p with slotSts := p.slotSts ||| bits }).aplicSync [1 + 4 * r]

/-- What a removal, or a link that goes down, does to a port (R360): containment if DPC is enabled, PERST_N low, requests
answered, posted writes and completions discarded. -/
def State.removal (s : State) (r : Nat) : State :=
  let p := s.rootPort r
  let wasUp := p.link = .up
  let s := s.setRootPort r
    { p with link := if p.link = .fenced then .fenced else if p.dpcEnabled && wasUp then .contained else .down, insStep := 0,
             slotSts := if wasUp then p.slotSts ||| 0x100 else p.slotSts, intx := 0 }
  let s := ((s.slotOut r 0x04 0).portFlush r .unexpected).dropInbound r
  (if wasUp then s.pdrTouch else s).aplicSync ((List.range 4).map (1 + 4 * r + ·))

/-- SURPRISE_REMOVAL. The link of a port without hot-plug surprise going down is logged as fatal (R367). -/
def execSurpriseRemoval (port : Fin 32) (s : State) : Host.Outcome State Fault Refusal :=
  live s fun s =>
    let r := port.val
    if !s.isPort r then .next s
    else
      let p := s.rootPort r
      let s := if p.link = .up && !(s.slotEn r && s.surpriseOk r) then
          s.logE .fatal .pcie .transport r 0 0 (p.buses.1 * 256) Aer.surprise.bit
        else s
      .next (s.removal r)

/-- The indicator code shifted out for a Slot Control field, where the field names one. -/
def indicator (f old : Nat) : Nat := if f = 1 then 1 else if f = 2 then 2 else if f = 3 then 0 else old

/-- A write of Slot Control: power, indicators, and PERST_N (R356, R359). -/
def State.slotWrite (s : State) (r : Nat) (v : BitVec 16) : State :=
  let p := s.rootPort r
  let old := p.outByte.toNat
  let pwrInd := indicator (v.toNat / 256 % 4) (old / 8 % 4)
  let attn := indicator (v.toNat / 64 % 4) (old / 32 % 4)
  let off := v.getLsbD 10
  let wasOff := !p.outByte.getLsbD 0
  let moved := (p.slotCtl ^^^ v) &&& 0x7C0 ≠ 0
  let low := if off then 0 else old % 8 / 2 * 2 + 1
  let p := { p with slotCtl := v &&& 0x1FFF, outByte := BitVec.ofNat 8 (low + 8 * pwrInd + 32 * attn),
                    cmdOwed := if moved then 1 else p.cmdOwed }
  if off then
    let s := s.setRootPort r { p with insStep := 0 }
    if p.link = .up then s.removal r else s
  else if wasOff then s.setRootPort r { p with insStep := 5, pwrGoodAt := s.now }
  else s.setRootPort r p

/-- SLOT_CONTROL_WRITE. -/
def execSlotControlWrite (port : Fin 32) (v : BitVec 16) (s : State) : Host.Outcome State Fault Refusal :=
  live s fun s =>
    if s.isPort port.val && s.slotEn port.val then .next ((s.slotWrite port.val v).aplicSync [1 + 4 * port.val]) else .next s

/-- Debounce: the registered value, and how many scans in a row have read the other. -/
def debounce (reg now : Bool) (n : Nat) : Bool × Nat :=
  if now = reg then (reg, 0) else if n + 1 < 4 then (reg, n + 1) else (now, 0)

/-- The power fault of an insertion: Power Fault Detected, outputs low (R359). -/
def State.powerFault (s : State) (r : Nat) : State :=
  let p := s.rootPort r
  ((s.setRootPort r { p with insStep := 0 }).slotOut r 0x07 0).slotEvent r 2

/-- One slot's byte of a good scan (R358). -/
def State.scanSlot (s : State) (r : Nat) (b : Byte) : State :=
  let p := s.rootPort r
  let i := p.inputs
  let (pr, n1) := debounce i.prsnt (b.getLsbD 0) i.cntPrsnt
  let (bt, n2) := debounce i.attnBtn (b.getLsbD 1) i.cntBtn
  let (ml, n3) := debounce i.mrlOpen (b.getLsbD 3) i.cntMrl
  let fault := b.getLsbD 2
  let good := b.getLsbD 4
  let j : SlotInputs :=
    { prsnt := pr, attnBtn := bt, pwrFault := fault, mrlOpen := ml, pwrGood := good, cntPrsnt := n1, cntBtn := n2, cntMrl := n3 }
  let bits := bitOf (bt && !i.attnBtn) + 2 * bitOf (fault && !i.pwrFault) + 4 * bitOf (ml ≠ i.mrlOpen) + 8 * bitOf (pr ≠ i.prsnt) +
    16 * p.cmdOwed
  let levels : BitVec 16 := BitVec.ofNat 16 (32 * bitOf ml + 64 * bitOf pr)
  let s := s.setRootPort r
    { p with inputs := j, inByte := BitVec.ofNat 8 (bitOf pr + 2 * bitOf bt + 4 * bitOf fault + 8 * bitOf ml + 16 * bitOf good),
             cmdOwed := 0, slotSts := (p.slotSts &&& ~~~ 0x60) ||| levels }
  let s := if bits = 0 then s else s.slotEvent r (BitVec.ofNat 16 bits)
  let s := if !pr && i.prsnt then s.removal r else s
  if (s.rootPort r).insStep = 5 && fault then s.powerFault r
  else if (s.rootPort r).insStep = 5 && good && !i.pwrGood then
    (s.setRootPort r { s.rootPort r with insStep := 6, pwrGoodAt := s.now }).slotOut r 0x02 0x02
  else s

/-- The root ports with a slot. -/
def State.slotPorts (s : State) : List Nat := (List.range 32).filter fun r => s.isPort r && s.slotEn r

/-- A scan of the chain: with a wrong marker nothing registers. -/
def State.scan (s : State) (inb : Bytes) : State :=
  let c := s.hub.chain
  let set (c : ChainState) : State := s.upHub fun h => { h with chain := c }
  if inb.getD 32 0 ≠ 0x5A then
    let n := c.badMarkers + 1
    let s := set { badMarkers := n, goodMarkers := 0, faulted := c.faulted || 2 ≤ n }
    if 2 ≤ n && !c.faulted then s.logE .partner .pcie .sideband 0 0 0 0 0xFFFFFFFF else s
  else if c.faulted then
    let n := c.goodMarkers + 1
    let s := set { badMarkers := 0, goodMarkers := n, faulted := n < 2 }
    s.forEach s.slotPorts fun s r =>
      let p := s.rootPort r
      let s := s.setRootPort r
        { p with cmdOwed := 0, inputs := { p.inputs with cntPrsnt := 0, cntBtn := 0, cntMrl := 0 } }
      if p.cmdOwed = 1 then s.slotEvent r 0x10 else s
  else
    let s := set { badMarkers := 0, goodMarkers := 0, faulted := false }
    s.forEach s.slotPorts fun s r => s.scanSlot r (inb.getD (s.chainPos r) 0)

/-- CHAIN_SCAN: none is made before step 6d of a start, or in Recovery (R519). -/
def execChainScan (inbound : Bytes) (s : State) : Host.Outcome State Fault Refusal :=
  live s fun s =>
    let x := s.mgmt.mode.start
    .next (if s.mode = .recovery || (x.running && !x.done.contains .s5) then s else s.scan inbound)

/-- PERST_RELEASE: the first scan at least 100 ms after PWR_GOOD registered. A port that was fenced is back (R366). -/
def execPerstRelease (port : Fin 32) (s : State) : Host.Outcome State Fault Refusal :=
  live s fun s =>
    let p := s.rootPort port.val
    if p.insStep = 6 then
      let s := s.reach (p.pwrGoodAt + 10000000)
      let s := s.setRootPort port.val { p with insStep := 7, link := if p.link = .fenced then .down else p.link }
      .next (s.slotOut port.val 0x04 0x04)
    else .next s

/-- PWR_GOOD_TIMEOUT. -/
def execPwrGoodTimeout (port : Fin 32) (s : State) : Host.Outcome State Fault Refusal :=
  live s fun s =>
    let p := s.rootPort port.val
    if p.insStep = 5 then .next ((s.reach (p.pwrGoodAt + 10000000)).powerFault port.val) else .next s

/-- A port's link comes up. Whether the device of a CXL port accepts CXL is its own choice (R346). -/
def State.linkTrained (s : State) (r : Nat) : State :=
  let p := s.rootPort r
  let (n, s) := if s.portMode r = 1 || s.portMode r = 2 then s.takeNat else (0, s)
  let s := s.setRootPort r
    { p with link := .up, insStep := 0, cxl := n % 2 = 1, viral := false, memTimeouts := [], intx := 0 }
  let s := if s.slotEn r then s.slotEvent r 0x100 else s
  s.pdrTouch

/-- LINK_UP: of a port whose slot, if it has one, has its reset released. -/
def execLinkUp (port : Fin 32) (s : State) : Host.Outcome State Fault Refusal :=
  live s fun s =>
    let r := port.val
    let p := s.rootPort r
    let ready := !s.slotEn r || p.outByte.getLsbD 2
    if s.isPort r && ready && p.link = .down then .next (s.linkTrained r) else .next s

/-! ### Devices' requests (R351) -/

/-- INBOUND_MEMORY_REQUEST. -/
def execInboundMemoryRequest (port : Fin 32) (r : DmaReq) (s : State) : Host.Outcome State Fault Refusal :=
  live s fun s => .next (s.dmaArrive port r)

end Sys2Proof.Machine
end

