-- ==== Sys2Proof/Machine/Commands.lean ====
section
/-! DEFINITION. Commands of the session, configuration, census, memory, Weld and slot families (R379 to R411). -/

namespace Sys2Proof.Machine

/-- The command names nothing of a partition: it answers SCOPE to a partition's mailbox (R382). -/
def State.packageWide (s : State) (iss : Issuer) : Bool := (s.issPart iss).isNone

/-! ### Session and version (R379, R380, R383) -/

/-- The features that a session may be granted (R379). -/
def featuresOffered (minor : Nat) : Word := if minor = 0 then 0x3F else 0xFF

/-- HELLO. A session that is open opens afresh, and keeps its queued events. -/
def execHello (iss : Issuer) (c : CmdCell) (s : State) : Host.Outcome State Fault Refusal :=
  liveMordant s fun s =>
    let major := CmdCell.at_ c 0 1
    let minor := min (CmdCell.at_ c 1 1) 1
    let feats : Word := BitVec.ofNat 64 (CmdCell.at_ c 8 8) &&& featuresOffered minor
    .next <| s.command iss c 0x0000 (· = 16) [] true (status (major ≠ 2) stVersion) fun s =>
      let m := s.mgmt.mordant
      let fw := if m.activeB then m.slotB.version else m.slotA.version
      let x := s.mbx (issIx iss)
      let s := s.setMbx (issIx iss) { x with session := some { minor := minor, features := feats } }
      (some ([2, BitVec.ofNat 8 minor, 0, 0] ++ leBytes 4 fw.toNat ++ leBytes 8 feats.toNat ++
        [BitVec.ofNat 8 (bitOf m.activeB), BitVec.ofNat 8 (modeCode s.mode),
         BitVec.ofNat 8 ((s.issPart iss).getD 0xFF), 0] ++ leBytes 4 m.boot.toNat), s)

/-- BYE: the session closes and its queued events go. -/
def execBye (iss : Issuer) (c : CmdCell) (s : State) : Host.Outcome State Fault Refusal :=
  liveMordant s fun s => .next <| s.command iss c 0x0001 (· = 0) [] true [] fun s =>
    (some [], s.setMbx (issIx iss) { s.mbx (issIx iss) with session := none, events := [] })

/-- ECHO. -/
def execEcho (iss : Issuer) (c : CmdCell) (s : State) : Host.Outcome State Fault Refusal :=
  liveMordant s fun s => .next <| s.command iss c 0x0002 (· ≤ 48) [] true [] fun s =>
    (some (c.payload.take c.plen.toNat), s)

/-- EVT_SUBSCRIBE. -/
def execEvtSubscribe (iss : Issuer) (c : CmdCell) (s : State) : Host.Outcome State Fault Refusal :=
  liveMordant s fun s =>
    let mask := CmdCell.at_ c 0 8
    .next <| s.command iss c 0x0003 (· = 8) [] true (status (2 ^ 16 ≤ mask) stRange) fun s =>
      let x := s.mbx (issIx iss)
      (some [], s.setMbx (issIx iss)
        { x with session := x.session.map fun n => { n with mask := BitVec.ofNat 64 mask } })

/-- FW_INFO. -/
def execFwInfo (iss : Issuer) (c : CmdCell) (s : State) : Host.Outcome State Fault Refusal :=
  liveMordant s fun s => .next <| s.command iss c 0x0004 (· = 0) [] true [] fun s =>
    let m := s.mgmt.mordant
    (some (leBytes 4 m.slotA.version.toNat ++ leBytes 4 m.slotB.version.toNat ++
      [BitVec.ofNat 8 (bitOf m.activeB), m.slotA.secVersion, m.slotB.secVersion, Config.fuseMinimum] ++
      leBytes 4 Config.romVersion.toNat), s)

/-! ### Configuration (R383, R399 to R401) -/

/-- The three values of a register and its STAGED and PENDING flags. -/
def State.cfgValues (s : State) (r : Nat) : Bytes :=
  leBytes 8 (s.cfgRead r).toNat ++ leBytes 8 (s.cfgStaged r).toNat ++ leBytes 8 (s.cfgPending r).toNat

/-- CFG_READ. -/
def execCfgRead (iss : Issuer) (c : CmdCell) (s : State) : Host.Outcome State Fault Refusal :=
  liveMordant s fun s =>
    let r := CmdCell.at_ c 0 2
    .next <| s.command iss c 0x0100 (· = 2) [] (!cfgListed r || s.cfgInScope iss r) (status (!cfgListed r) stNone) fun s =>
      let flags := bitOf (Table.find s.mgmt.config.staged r).isSome + 2 * bitOf (Table.find s.mgmt.config.pending r).isSome
      (some (s.cfgValues r ++ leBytes 1 flags), s)

/-- CFG_COMMIT: answered at the lot boundary, or when the commit fails. -/
def execCfgCommit (iss : Issuer) (c : CmdCell) (s : State) : Host.Outcome State Fault Refusal :=
  liveMordant s fun s =>
    let busy := match s.mgmt.service.action with
      | some (.evacuate _) => true
      | some (.readmit _) => true
      | _ => false
    let refused := match s.commitBad iss with
      | some r => [(stRefused, r)]
      | none => []
    .next <| s.command iss c 0x0102 (· = 0) [] true
      (s.masterOnly ++ status busy stBusy ++ status ((s.stagedFor iss).isEmpty && s.stagedClasses.isEmpty) stNone ++ refused)
      fun s => (none, s.commitStart iss)

/-- CFG_DISCARD. -/
def execCfgDiscard (iss : Issuer) (c : CmdCell) (s : State) : Host.Outcome State Fault Refusal :=
  liveMordant s fun s => .next <| s.command iss c 0x0103 (· = 0) [] true [] fun s =>
    let (n, s) := s.discardStaged iss
    (some (leBytes 4 n), s)

/-- CFG_STATUS. -/
def execCfgStatus (iss : Issuer) (c : CmdCell) (s : State) : Host.Outcome State Fault Refusal :=
  liveMordant s fun s => .next <| s.command iss c 0x0104 (· = 0) [] true [] fun s =>
    let k := s.mgmt.config
    let count (t : Table (Word × Word)) : Nat := (t.map fun e => fieldCount e.1 e.2.2).sum
    (some (leBytes 4 k.lot.toNat ++ leBytes 4 (count k.staged + s.stagedClasses.length) ++ leBytes 4 (count k.pending) ++
      leBytes 1 (bitOf k.defaultsUsed)), s)

/-- CFG_DUMP: an entry for each listed register within the issuer's scope, as many as fit. -/
def execCfgDump (iss : Issuer) (c : CmdCell) (s : State) : Host.Outcome State Fault Refusal :=
  liveMordant s fun s =>
    let buf := CmdCell.at_ c 0 8
    let len := CmdCell.at_ c 8 4
    .next <| s.command iss c 0x0105 (· = 12) [] true (status (s.bufferBad iss buf len 32) stRange) fun s =>
      let regs := (listedRegs.filter fun r => s.cfgInScope iss r).take (len / 32)
      s.bufferWrite iss buf (regs.flatMap fun r => leBytes 2 r ++ leBytes 6 0 ++ s.cfgValues r) fun s =>
        (some (leBytes 4 regs.length), s)

/-- CONFIG_STORE_COMPACTION. -/
def execConfigStoreCompaction (goodWrites : Nat) (s : State) : Host.Outcome State Fault Refusal :=
  liveMordant s fun s => .next (s.compact goodWrites)

/-! ### Census (R383, R408, R411) -/

/-- CENSUS_RUN: the round's end is told by CENSUS_DONE. -/
def execCensusRun (iss : Issuer) (c : CmdCell) (s : State) : Host.Outcome State Fault Refusal :=
  liveMordant s fun s =>
    .next <| s.command iss c 0x0200 (· = 0) [] (s.packageWide iss)
      (status (s.mgmt.census.running || s.mgmt.config.commit.isSome) stBusy) fun s => (some [], s.censusStart (some iss))

/-- CENSUS_STATUS. -/
def execCensusStatus (iss : Issuer) (c : CmdCell) (s : State) : Host.Outcome State Fault Refusal :=
  liveMordant s fun s =>
    .next <| s.command iss c 0x0201 (· = 0) [] (s.packageWide iss) [] fun s => (some s.censusStatus, s)

/-- What a member answers to a bisection that the master passes on: free (R412). -/
def State.bisectPeer (s : State) (iss : Issuer) : State :=
  let (n, s) := s.takeNat
  if n % 3 = 0 then s.respond iss stNone []
  else if n % 3 = 1 then s.respond iss stPartner []
  else
    let (b, s) := s.takeBytes 24
    s.respond iss stOk b

/-- CENSUS_BISECT. -/
def execCensusBisect (iss : Issuer) (c : CmdCell) (s : State) : Host.Outcome State Fault Refusal :=
  liveMordant s fun s =>
    let p := CmdCell.at_ c 0 1
    let d := CmdCell.at_ c 1 1
    let casc := s.scopeMode = .cascade
    let member := if casc then p < 4 && s.mgmt.casc.members.getLsbD p else p = 0
    let mine := p = s.pkgIx
    let gone := if mine then d < 12 && !s.inCensus d else s.mgmt.casc.lost.getLsbD p
    .next <| s.command iss c 0x0202 (· = 2) [] (s.packageWide iss)
      (rangeElse (12 < d || !member) (status gone stState)) fun s =>
        (none, if mine then s.bisectStart iss d else s.bisectPeer iss)

/-! ### Memory (R239, R244, R246, R258) -/

/-- MEM_TEST_ARM. -/
def execMemTestArm (iss : Issuer) (c : CmdCell) (s : State) : Host.Outcome State Fault Refusal :=
  liveMordant s fun s => .next <| s.command iss c 0x0700 (· = 0) [] (s.packageWide iss) [] fun s =>
    (some [], s.setWindow { s.mem.window with armed := true })

/-- MEM_TEST_DISARM. -/
def execMemTestDisarm (iss : Issuer) (c : CmdCell) (s : State) : Host.Outcome State Fault Refusal :=
  liveMordant s fun s => .next <| s.command iss c 0x0701 (· = 0) [] (s.packageWide iss) [] fun s =>
    (some [], s.setWindow { s.mem.window with armed := false })

/-- MEM_REPAIR_LIST. -/
def execMemRepairList (iss : Issuer) (c : CmdCell) (s : State) : Host.Outcome State Fault Refusal :=
  liveMordant s fun s =>
    let buf := CmdCell.at_ c 0 8
    let len := CmdCell.at_ c 8 4
    .next <| s.command iss c 0x0702 (· = 12) [] (s.packageWide iss) (status (s.bufferBad iss buf len 8) stRange) fun s =>
      let l := s.mem.repairs.take (len / 8)
      s.bufferWrite iss buf (l.flatMap fun r => leBytes 8 r.toNat) fun s => (some (leBytes 4 l.length), s)

/-- MEM_PC_STATUS. -/
def execMemPcStatus (iss : Issuer) (c : CmdCell) (s : State) : Host.Outcome State Fault Refusal :=
  liveMordant s fun s => .next <| s.command iss c 0x0703 (· = 0) [] (s.packageWide iss) [] fun s =>
    (some (leBytes 8 s.mem.pcFailed.toNat ++ leBytes 4 s.mem.rows.length), s)

/-! ### Weld (R219, R224, R228) -/

/-- The payload names a bundle. The catalogue states no status of its own for one that names none, and lists RANGE only for
WELD_STATUS: beside what else holds, it is one of a free choice. -/
def isBundle (c : CmdCell) : Bool := CmdCell.at_ c 0 1 < 12 && CmdCell.at_ c 1 1 < 4

/-- WELD_STATUS. -/
def execWeldStatus (iss : Issuer) (c : CmdCell) (s : State) : Host.Outcome State Fault Refusal :=
  liveMordant s fun s => .next <| s.command iss c 0x0800 (· = 2) [] (s.packageWide iss) (status (!isBundle c) stRange) fun s =>
    (some (leBytes 8 (s.bstat (CmdCell.at_ c 0 1) (CmdCell.at_ c 1 1))), s)

/-- WELD_RETRAIN. -/
def execWeldRetrain (iss : Issuer) (c : CmdCell) (s : State) : Host.Outcome State Fault Refusal :=
  liveMordant s fun s =>
    let d := CmdCell.at_ c 0 1
    let k := CmdCell.at_ c 1 1
    .next <| s.command iss c 0x0801 (· = 2) [] (s.packageWide iss)
      (status (!isBundle c) stRange ++ status ((s.bundle d k).st ≠ .active) stState) fun s =>
        (some [], s.bundleRetrain d k .command)

/-- WELD_CAP_CLEAR: the cap is gone at the next cold training of the port. -/
def execWeldCapClear (iss : Issuer) (c : CmdCell) (s : State) : Host.Outcome State Fault Refusal :=
  liveMordant s fun s =>
    let d := CmdCell.at_ c 0 1
    let k := CmdCell.at_ c 1 1
    .next <| s.command iss c 0x0802 (· = 2) [] (s.packageWide iss)
      (status (!isBundle c) stRange ++ status ((s.bundle d k).cap = .none) stNone) fun s =>
        (some [], s.setBundle d k { s.bundle d k with capCleared := true })

/-! ### Slots (R357, R366) -/

/-- A root port is the issuer's. A number that names none is answered RANGE. -/
def State.portScope (s : State) (iss : Issuer) (r : Nat) : Bool :=
  match s.issPart iss with
  | some p => 32 ≤ r || s.partOfPort r = some p
  | none => true

/-- SLOT_STATUS. -/
def execSlotStatus (iss : Issuer) (c : CmdCell) (s : State) : Host.Outcome State Fault Refusal :=
  liveMordant s fun s =>
    let r := CmdCell.at_ c 0 1
    .next <| s.command iss c 0x0900 (· = 1) [] (s.portScope iss r) (status (32 ≤ r) stRange) fun s =>
      let p := s.rootPort r
      (some [p.outByte, p.inByte, BitVec.ofNat 8 (bitOf s.hub.chain.faulted + 2 * bitOf (p.link = .fenced))], s)

/-- SLOT_UNFENCE: PERST_N is released and the link trains. -/
def execSlotUnfence (iss : Issuer) (c : CmdCell) (s : State) : Host.Outcome State Fault Refusal :=
  liveMordant s fun s =>
    let r := CmdCell.at_ c 0 1
    .next <| s.command iss c 0x0901 (· = 1) [] (s.portScope iss r)
      (status (32 ≤ r) stRange ++ status ((s.rootPort r).link ≠ .fenced) stState) fun s =>
        let s := s.setRootPort r { s.rootPort r with link := .down }
        (some [], (s.slotOut r 0x04 0x04).pdrTouch)

end Sys2Proof.Machine
end

