-- ==== Sys2Proof/Machine/Log.lean ====
section
/-! DEFINITION. The error log: records made durable, coalesced, read and freed, and what their counts start (R495 to R507). -/

namespace Sys2Proof.Machine

/-! ### Records as bytes (R497 to R499) -/

/-- CLASS (R495). -/
def classCode (c : ErrClass) : Nat := match c with
  | .corrected => 0 | .recovered => 1 | .uncorrected => 2 | .fatal => 3 | .partner => 4 | .hue => 5 | .discard => 6
  | .notice => 7

/-- The sources, in the order that their codes count from 1 (R498). -/
def sourceOrder : List ErrSource :=
  [.core, .bp, .mmu, .l1, .l2, .l3, .home, .ring, .weld, .hbm, .wmap, .hue, .qos, .mtr, .ledg, .ce, .cpool, .pcie, .cxl,
   .casc, .mbx, .cfg, .census, .pm, .clk, .perf, .err, .pdr]

def sourceCode (x : ErrSource) : Nat := sourceOrder.idxOf x + 1

/-- The reasons, in the order that their codes count from 1 (R499). -/
def reasonOrder : List ErrReason :=
  [.correctedCode, .uncorrectable, .parity, .poisonConsumed, .address, .timeout, .unsupported, .fenced, .transport,
   .malformed, .unexpected, .credit, .crc, .training, .version, .sideband, .repair, .exhausted, .lockstep, .queueIntegrity,
   .thermal, .regulator, .clock, .strap, .censusMismatch, .hueViolation, .discard, .dropped]

def reasonCode (x : ErrReason) : Nat := reasonOrder.idxOf x + 1

/-- The 64 bytes of a record. -/
def errRecBytes (e : ErrRec) : Bytes :=
  let b : Bytes :=
    leBytes 8 e.seq.toNat ++ leBytes 8 e.time.toNat ++ leBytes 8 e.last.toNat ++ leBytes 1 (classCode e.cls) ++
      leBytes 1 (sourceCode e.source) ++ leBytes 2 (reasonCode e.reason) ++ leBytes 2 e.unit ++ leBytes 2 e.count.toNat ++
      leBytes 8 e.addr.toNat ++ leBytes 2 e.hue.toNat ++ leBytes 1 e.part ++ leBytes 1 e.pkg ++
      leBytes 1 (bitOf e.lost + 2 * bitOf e.trap + 4 * bitOf e.fence) ++ leBytes 3 0 ++ leBytes 8 e.info.toNat ++
      leBytes 4 e.aux.toNat
  b ++ leBytes 4 (crc32c b).toNat

/-! ### Making a record durable (R496, R500 to R502) -/

/-- Take a sequence number (R299, R497). -/
def State.takeErrSeq (s : State) : Word × State :=
  (s.mgmt.log.nextSeq, s.upLog fun l =>
    { l with seqBase := if l.seqBase.toNat ≤ l.nextSeq.toNat then l.seqBase + 65536 else l.seqBase, nextSeq := l.nextSeq + 1 })

/-- Of some records, the one of lowest sequence number. -/
def oldestErr (l : List (Nat × ErrRec)) : Option (Nat × ErrRec) :=
  l.foldl (fun b e => match b with
    | none => some e
    | some a => if e.2.seq.toNat < a.2.seq.toNat then some e else some a) none

/-- The slot for a new record, and whether a record is lost for it (R501). -/
def ErrLog.slotFor (l : ErrLog) : Nat × Bool :=
  match (List.range 16384).find? (fun i => (Table.find l.slots i).isNone) with
  | some i => (i, false)
  | none =>
    let weak := l.slots.filter fun e => e.2.cls = .corrected || e.2.cls = .notice
    match oldestErr (if weak.isEmpty then l.slots else weak) with
    | some e => (e.1, true)
    | none => (0, true)

/-- Write a record, and send ERROR_LOGGED to each subscriber that can see it. -/
def State.writeErr (s : State) (e : ErrRec) : State :=
  let (q, s) := s.takeErrSeq
  let (i, full) := s.mgmt.log.slotFor
  let e := { e with seq := q, lost := e.lost || full }
  let s := s.upLog fun l => { l with slots := Table.insert l.slots i e }
  s.eventTo 10 (leBytes 8 q.toNat ++ leBytes 1 (classCode e.cls)) fun m =>
    m = 16 || s.scopeMode ≠ .partitioned || e.part = m

/-- The unacknowledged record that an event updates (R500). -/
def ErrLog.same (l : ErrLog) (e : ErrRec) : Option (Nat × ErrRec) :=
  if e.trap then none
  else l.slots.find? fun r =>
    r.2.cls = e.cls && r.2.source = e.source && r.2.reason = e.reason && r.2.unit = e.unit && r.2.addr = e.addr && !r.2.trap &&
      e.time.toNat ≤ r.2.last.toNat + 100000000 && r.2.last.toNat ≤ e.time.toNat + 100000000

/-- A new record, with LOST and the record of dropped events where the hub queue overflowed (R496). -/
def State.newErr (s : State) (e : ErrRec) : State :=
  let n := s.mgmt.log.dropped
  if n = 0 then s.writeErr e
  else
    let s := (s.upLog fun l => { l with dropped := 0 }).writeErr { e with lost := true }
    s.writeErr
      { time := s.now, last := s.now, cls := .notice, source := .err, reason := .dropped, unit := 0, pkg := s.pkgIx,
        info := BitVec.ofNat 64 n }

/-! ### What the counts start (R430, R506, R507) -/

/-- The package returns to PS0: each core goes to its own idle state, and no domain sleeps (R453). -/
def State.wakePkg (s : State) : State :=
  if s.mgmt.power.pkg = .ps0 then s
  else
    let s := s.upPower fun p => { p with pkg := .ps0, asleep := [] }
    s.forEach (List.finRange 12) fun s d => s.forEach (coresOf d) fun s c =>
      s.setCore (coreKey c) { s.core (coreKey c) with idle := (s.core (coreKey c)).idleReq }

/-- Start a live action: the package leaves PS1 or PS2 and enters Service (R418, R428, R453). -/
def State.svcBegin (s : State) (a : LiveAction) (iss : Option Issuer) : State :=
  let s := s.wakePkg.upMode fun m => { m with mode := .service, ret := m.mode }
  s.upService fun v =>
    { v with action := some a, fenced := false, step := 2, issuer := iss, target := 0,
             reports := match a.die with
               | some d => Table.put (0, 0) v.reports d.val (0, 0)
               | none => v.reports }

/-- The two harts of a logical core, as HARTS of R202. -/
def coreHarts (l : Fin 22) : Nat := 3 * 2 ^ (2 * l.val)

/-- Start sparing a core: it wakes, and STOP goes to its harts (R431, R452). With no spare left the core is logged, and stays in
service (R430). -/
def State.spareStart (s : State) (c : CoreId) (iss : Option Issuer) : State :=
  match s.spares c.die.val with
  | [] => s.logE .notice .core .exhausted (coreKey c) (info := hartIx ⟨c.die, c.core, 0⟩ + (s.core (coreKey c)).phys.val * 65536)
  | p :: _ =>
    let s := s.svcBegin (.spare c.die c.core) iss
    let s := s.setCore (coreKey c) { s.core (coreKey c) with idle := .cs0 }
    (s.upService fun v => { v with target := p }).hartCtl c.die.val 0x04 (coreHarts c.core)

/-- Mordant may start an action by itself: the package is up, and no action runs. -/
def State.mayAct (s : State) : Bool :=
  s.mgmt.service.action.isNone && s.mode ≠ .recovery && s.mode ≠ .bringUp && !s.mgmt.mordant.restarting

/-- The key of the counts of a core: die × 32 + physical core (R506). -/
def State.physKey (s : State) (c : CoreId) : Nat := c.die.val * 32 + (s.core (coreKey c)).phys.val

/-- Spare the first core that has reached the threshold, if Mordant may (R506). The count starts afresh. -/
def State.spareOwed (s : State) : State :=
  if !s.mayAct then s
  else
    let cores := (List.finRange 12).flatMap fun d => if s.inService d.val then coresOf d else []
    match cores.find? fun c => 24 ≤ (Table.get [] s.mgmt.log.coreCounts (s.physKey c)).length with
    | none => s
    | some c =>
      let k := s.physKey c
      (s.upLog fun l => { l with coreCounts := Table.put [] l.coreCounts k [] }).spareStart c none

/-- Count a record against a physical core (R506): CORRECTED ones, or, all at once, a parity exception. -/
def State.countCore (s : State) (e : ErrRec) : State :=
  let core := [ErrSource.core, .bp, .mmu, .l1, .l2].contains e.source
  let parity := e.source = .core && e.reason = .parity && e.trap
  if !core || !(e.cls = .corrected || parity) then s
  else
    let k := e.unit / 32 * 32 + (s.core e.unit).phys.val
    let old := (Table.get [] s.mgmt.log.coreCounts k).filter fun t => e.time.toNat < t.toNat + 8640000000000
    let new := old ++ List.replicate (if parity then 24 else 1) e.time
    (s.upLog fun l => { l with coreCounts := Table.put [] l.coreCounts k new }).spareOwed

/-- The hub block that an event names: slice 0 to 31, ring 32 to 35, the bridge from ring k to ring k + 1 as 36 + k. -/
def hubBlock (e : ErrRec) : Option Nat :=
  if e.cls ≠ .uncorrected then none
  else if e.source = .home && e.unit < 32 then some e.unit
  else if e.source = .ring && e.unit < 0x100 then
    let k := e.unit / 64
    let stop := e.unit % 64
    some (if stop = 43 then 36 + k else if stop = 42 then 36 + (k + 3) % 4 else 32 + k)
  else none

/-- A hub block that has logged 16 uncorrectable events within 1 s is fenced, with a FATAL record (R507). The home slices of a
fenced ring answer FENCED. -/
def State.countHub (s : State) (e : ErrRec) : State :=
  match hubBlock e with
  | none => s
  | some b =>
    let l := ((Table.get [] s.mgmt.log.hubCounts b).filter fun t => e.time.toNat < t.toNat + 100000000) ++ [e.time]
    let s := s.upLog fun g => { g with hubCounts := Table.put [] g.hubCounts b l }
    if l.length < 16 || s.mgmt.log.hubFenced.contains b then s
    else
      let s := s.upLog fun g => { g with hubFenced := g.hubFenced ++ [b] }
      let slices := if b < 32 then [b] else if b < 36 then (List.range 8).map (8 * (b - 32) + ·) else []
      let s := s.forEach slices fun s k => s.setHome k { s.home k with fenced := true }
      s.logE .fatal e.source .fenced e.unit (fence := true)

/-- LOG_RECORD_COMMIT: the oldest event of the hub queue is coalesced or becomes a record. -/
def execLogRecordCommit (s : State) : Host.Outcome State Fault Refusal :=
  liveMordant s fun s =>
    match s.mgmt.log.queue with
    | [] => .next s
    | e :: rest =>
      let s := (s.upLog fun l => { l with queue := rest }).countHub e
      match s.mgmt.log.same e with
      | some (i, r) =>
        let r := { r with count := if r.count = 0xFFFF then 0xFFFF else r.count + 1,
                          last := if r.last.toNat < e.last.toNat then e.last else r.last }
        .next (s.upLog fun l => { l with slots := Table.insert l.slots i r })
      | none => .next ((s.newErr e).countCore e)

/-! ### ERR_READ and ERR_ACK (R501) -/

/-- The cursor that an issuer reads with. -/
def State.errCursor (s : State) (iss : Issuer) : Nat := match iss with
  | .bmc => 17
  | .mailbox _ => (s.issPart iss).getD 16

/-- Put a slot's record into a list kept in SEQ order. -/
def insertErr (e : Nat × ErrRec) : List (Nat × ErrRec) → List (Nat × ErrRec)
  | [] => [e]
  | a :: l => if e.2.seq.toNat < a.2.seq.toNat then e :: a :: l else a :: insertErr e l

/-- The records that an issuer sees, in SEQ order. -/
def State.visibleErr (s : State) (iss : Issuer) : List (Nat × ErrRec) :=
  (s.mgmt.log.slots.filter fun e => !e.2.bad && (match s.issPart iss with
    | some p => e.2.part = p
    | none => true)).foldl (fun l e => insertErr e l) []

/-- ERR_READ. -/
def execErrRead (iss : Issuer) (c : CmdCell) (s : State) : Host.Outcome State Fault Refusal :=
  liveMordant s fun s =>
    let buf := CmdCell.at_ c 0 8
    let len := CmdCell.at_ c 8 4
    let from_ := CmdCell.at_ c 16 8
    let l := (s.visibleErr iss).filter fun e => from_ ≤ e.2.seq.toNat
    .next <| s.command iss c 0x0B00 (· = 24) [] true
      (status (s.bufferBad iss buf len 64) stRange ++ status l.isEmpty stNone) fun s =>
        let l := (l.map Prod.snd).take (len / 64)
        let last := (l.getLast?.map ErrRec.seq).getD 0
        s.bufferWrite iss buf (l.flatMap errRecBytes) fun s =>
          let i := s.errCursor iss
          let s := s.upLog fun x =>
            { x with cursors := if (Table.get 0 x.cursors i).toNat < last.toNat then Table.put 0 x.cursors i last else x.cursors }
          (some (leBytes 4 l.length ++ leBytes 4 0 ++ leBytes 8 last.toNat), s)

/-- ERR_ACK. -/
def execErrAck (iss : Issuer) (c : CmdCell) (s : State) : Host.Outcome State Fault Refusal :=
  liveMordant s fun s =>
    let upto := CmdCell.at_ c 0 8
    .next <| s.command iss c 0x0B01 (· = 8) [] true
      (status ((Table.get 0 s.mgmt.log.cursors (s.errCursor iss)).toNat < upto) stRange) fun s =>
        let l := (s.visibleErr iss).filter fun e => e.2.seq.toNat ≤ upto
        let s := s.upLog fun x => { x with slots := x.slots.filter fun e => !(l.any fun d => d.1 = e.1) }
        (some (leBytes 4 l.length), s)

end Sys2Proof.Machine
end

