-- ==== Sys2Proof/Machine/Power.lean ====
section
/-! DEFINITION. Power, regulators, idle states, clocks and temperature (chapter 19; R516). -/

namespace Sys2Proof.Machine

/-! ### Rails (R442 to R447) -/

/-- The index of VCOREk, and the dies it serves. -/
def coreRail (k : Nat) : Nat := if k < 3 then k else k + 1

def railDies (k : Nat) : List (Fin 12) := [Fin.ofNat 12 (2 * k), Fin.ofNat 12 (2 * k + 1)]

/-- Set range of a rail (R442). -/
def setRange (i : Nat) : Nat × Nat :=
  if i < 3 || (4 ≤ i && i < 7) then (600, 1050)
  else if i = 3 || i = 7 then (700, 950)
  else if i = 8 then (700, 900)
  else if i = 9 then (750, 900)
  else if i < 12 then (750, 850)
  else if i = 12 then (1100, 1100)
  else (400, 400)

/-- The millivolts that rail VCOREk needs for a frequency: the highest that a die's curve needs (R444). -/
def railMv (k mhz : Nat) : Nat := ((railDies k).map fun d => Config.curveMv d.val mhz).foldl max 0

/-- A frequency that a core may run at: 800 to 3,800 MHz in steps of 25 MHz (R457). -/
def clampMhz (f : Nat) : Nat := max 800 (min 3800 (f / 25 * 25))

/-- The highest frequency, not above `top`, that VCOREk's curves allow at a voltage (R445). -/
def allowedMhz (k mv top : Nat) : Nat :=
  (((List.range 121).map fun n => 3800 - 25 * n).find? fun f => f ≤ top && railMv k f ≤ mv).getD 800

/-- Tell a die the frequencies, or the idle states, of its cores (R202). -/
def State.pmSend (s : State) (d : Fin 12) (mhz : Option Nat) (cs : Bool) : State :=
  let state (l : Nat) : Nat := Table.get 0 s.mgmt.power.csReq (d.val * 32 + l)
  s.sbSend d.val true 0x19
    (List.replicate 22 (BitVec.ofNat 8 (mhz.getD 800 / 25)) ++
      leBytes 6 ((List.range 22).foldl (fun a l => a + state l * 2 ^ (2 * l)) 0) ++
      [BitVec.ofNat 8 (bitOf mhz.isSome + 2 * bitOf cs)])

/-- The cores of VCOREk run at a frequency. -/
def State.runAt (s : State) (k mhz : Nat) : State :=
  let i := coreRail k
  (s.setRail i { s.rail i with freq := mhz }).forEach (railDies k) fun s d =>
    if s.inService d.val then s.pmSend d (some mhz) false else s

/-- Write a rail's voltage. -/
def State.avsWrite (s : State) (i mv : Nat) : State := s.setRail i { s.rail i with write := some (mv, 1) }

/-- Take VCOREk to a frequency (R444): up, the voltage is acknowledged first; down, the frequency falls first. A rail that is held,
or whose write is in flight, is not raised (R445). -/
def State.setFreq (s : State) (k mhz : Nat) : State :=
  let i := coreRail k
  let x := s.rail i
  let mv := railMv k mhz
  if x.freq < mhz then
    if x.held || x.write.isSome then s
    else if mv ≤ x.mv.toNat then s.runAt k mhz
    else (s.setRail i { x with freqAfter := some mhz }).avsWrite i mv
  else if mhz < x.freq then
    let s := s.runAt k mhz
    if x.held then s
    else if x.write.isSome then s.setRail i { s.rail i with freqAfter := none }
    else if mv = x.mv.toNat then s
    else s.avsWrite i mv
  else s

/-- The core rail of a rail index. -/
def railCore (i : Nat) : Option Nat := if i < 3 then some i else if 4 ≤ i && i < 7 then some (i - 1) else none

/-- AVS_STATUS_POLL: with VDone the write is acknowledged, and the frequency that waited for it rises (R444, R445). -/
def execAvsStatusPoll (rail : Fin 14) (vdone : Bool) (s : State) : Host.Outcome State Fault Refusal :=
  liveMordant s fun s =>
    let x := s.rail rail.val
    match x.write with
    | none => .next s
    | some (mv, _) =>
      if !vdone then .next s
      else
        let s := s.setRail rail.val
          { x with mv := BitVec.ofNat 16 mv, write := none, held := false, withheld := 0, freqAfter := none }
        match railCore rail.val, x.freqAfter with
        | some k, some f => .next (s.runAt k f)
        | _, _ => .next s

/-- AVS_ACK_TIMEOUT: the write is repeated at most twice; then the rail is held (R445). -/
def execAvsAckTimeout (rail : Fin 14) (readMv : Option Nat) (s : State) : Host.Outcome State Fault Refusal :=
  liveMordant s fun s =>
    let x := s.rail rail.val
    match x.write with
    | none => .next s
    | some (mv, n) =>
      let x := { x with fails := if x.fails = 0xFF then 0xFF else x.fails + 1 }
      if n < 3 then .next (s.setRail rail.val { x with write := some (mv, n + 1) })
      else
        let got := readMv.getD (min x.mv.toNat mv)
        let s := s.setRail rail.val { x with mv := BitVec.ofNat 16 got, write := none, held := true, withheld := mv }
        let s := s.logE .partner .pm .regulator rail.val (info := mv) (aux := got)
        match railCore rail.val with
        | some k =>
          let f := min x.freq (allowedMhz k got x.freq)
          .next (if f < x.freq then s.runAt k f else s)
        | none => .next s

/-- HELD_RETRY. -/
def execHeldRetry (rail : Fin 14) (s : State) : Host.Outcome State Fault Refusal :=
  liveMordant s fun s =>
    let x := s.rail rail.val
    if x.held && x.write.isNone then .next (s.avsWrite rail.val x.withheld) else .next s

/-- The open intervals of every hue show a loss (R290, R446). -/
def State.lossAll (s : State) : State :=
  s.upHub fun h => { h with meters := h.meters.map fun e => (e.1, if e.2.open_ then { e.2 with loss := true } else e.2) }

/-- CURRENT_READ: ten failed reads in a row set TELEM_LOST, and the minute records of the interval carry LOSS (R446). -/
def execCurrentRead (readings : List (Option Nat)) (s : State) : Host.Outcome State Fault Refusal :=
  liveMordant s fun s =>
    let s := s.forEach (List.range 14) fun s i =>
      let x := s.rail i
      match readings.getD i none with
      | some v => s.setRail i { x with current := BitVec.ofNat 16 v, misses := 0, telemLost := false }
      | none =>
        let lost := 9 ≤ x.misses
        let s := s.setRail i { x with misses := min 10 (x.misses + 1), telemLost := x.telemLost || lost }
        if lost && !x.telemLost then s.logE .partner .pm .regulator i else s
    .next (if (List.range 14).any fun i => (s.rail i).telemLost then s.lossAll else s)

/-! ### The power limit (R448 to R451) -/

/-- The effective limit in W. -/
def State.effLimit (s : State) : Nat :=
  let base := fld (s.cfg 0x1100) 0 10
  let base := if s.mgmt.mode.hot then min base (fld (s.cfg 0x1101) 16 10) else base
  base - s.mgmt.power.hubReduction - (s.mgmt.power.stackReduction.map Prod.snd).sum

/-- Throttling of R461 acts somewhere in the package. -/
def State.throttling (s : State) : Bool :=
  s.mgmt.power.hubReduction ≠ 0 || !s.mgmt.power.stackReduction.isEmpty || s.mgmt.power.rails.any fun e => e.2.throttle ≠ 0

/-- The cores of a die that are in CS0. -/
def State.awake (s : State) (d : Fin 12) : List CoreId :=
  if s.inService d.val then (coresOf d).filter fun c => (s.core (coreKey c)).idle = .cs0 else []

/-- The ceiling for a number of cores in CS0 (R449). -/
def ceilingMhz (n : Nat) : Nat := if n ≤ 2 then 3800 else if n ≤ 8 then 3500 else if n ≤ 22 then 3200 else 3000

/-- The frequency that Mordant gives VCOREk: `want` is its own choice, held between the floor and the ceiling; a pinned rail runs
at PIN_FREQ unless pinning gives way. The flag says that it gives way. -/
def State.targetMhz (s : State) (k want : Nat) : Nat × Bool :=
  let x := s.rail (coreRail k)
  let eff := s.effLimit
  let cap (f : Nat) : Nat := if x.throttle = 0 then f else min f x.throttle
  if bit (s.cfg 0x1100) (32 + k) then
    let pin := fld (s.cfg 0x1100) 24 8 * 25
    if x.throttle ≠ 0 then (cap pin, true)
    else if 450 ≤ eff then (if floorMhz eff < pin then (floorMhz eff, true) else (pin, false))
    else (min pin (clampMhz want), true)
  else
    let top := ceilingMhz ((railDies k).flatMap s.awake).length
    let f := min (clampMhz want) top
    (cap (if s.throttling || eff < 450 then f else max f (min top (floorMhz eff))), false)

/-- POWER_CONTROL_STEP. `wantMhz` is Mordant's choice for VCORE0 to VCORE5, `setMv` for rails 3 and 7 to 11. -/
def execPowerControlStep (watts : Nat) (wantMhz setMv : List Nat) (s : State) : Host.Outcome State Fault Refusal :=
  liveMordant s fun s =>
    let s := s.upPower fun p => { p with watts := watts }
    let s := s.forEach (List.range 6) fun s k =>
      let i := coreRail k
      let (f, gives) := s.targetMhz k (wantMhz.getD k 800)
      let s := if gives && !(s.rail i).gave then s.logE .notice .pm .thermal i (info := (s.rail i).mv.toNat) else s
      (s.setRail i { s.rail i with gave := gives }).setFreq k f
    let s := s.forEach (List.range 6) fun s j =>
      let i := [3, 7, 8, 9, 10, 11].getD j 3
      let x := s.rail i
      match setMv[j]? with
      | some v =>
        let mv := max (setRange i).1 (min (setRange i).2 v)
        if x.held || x.write.isSome || x.mv.toNat = mv then s else s.avsWrite i mv
      | none => s
    let run := ((List.finRange 12).flatMap s.awake).map fun c => (s.core (coreKey c)).freq
    .next (s.upPower fun p => { p with avgMhz := if run.isEmpty then 0 else run.sum / run.length })

/-! ### Commands (R383, R448, R452 to R454) -/

/-- PM_QUERY. -/
def execPmQuery (iss : Issuer) (c : CmdCell) (s : State) : Host.Outcome State Fault Refusal :=
  liveMordant s fun s => .next <| s.command iss c 0x0300 (· = 0) [] (s.packageWide iss) [] fun s =>
    let p := s.mgmt.power
    let st := match p.pkg with
      | .ps0 => 0
      | .ps1 => 1
      | .ps2 => 2
    (some (leBytes 2 s.effLimit ++ leBytes 2 p.watts ++ leBytes 2 p.avgMhz ++ leBytes 1 st), s)

/-- PM_SET_LIMIT writes LIMIT. A limit whose floor lies below PIN_FREQ is refused; which of its statuses says so is left open. -/
def execPmSetLimit (iss : Issuer) (c : CmdCell) (s : State) : Host.Outcome State Fault Refusal :=
  liveMordant s fun s =>
    let w := CmdCell.at_ c 0 2
    let bad := w < 450 || 640 < w
    let pair := !bad && floorMhz w < fld (s.cfg 0x1100) 24 8 * 25
    .next <| s.command iss c 0x0301 (· = 2) [] (s.packageWide iss)
      (status bad stRange ++ (if pair then [(stRange, 0), (stRefused, 0x1100)] else [])) fun s =>
        (some [], s.cfgWrite 0x1100 (BitVec.ofNat 64 w) 0x3FF)

/-- PM_CORE_STATE. CS0 wakes the core, and the package from PS1 or PS2. -/
def execPmCoreState (iss : Issuer) (c : CmdCell) (s : State) : Host.Outcome State Fault Refusal :=
  liveMordant s fun s =>
    let d := CmdCell.at_ c 0 1
    let l := CmdCell.at_ c 1 1
    let cs := CmdCell.at_ c 2 1
    .next <| s.command iss c 0x0302 (· = 3) [] (s.packageWide iss) (status (11 < d || 21 < l || 3 < cs) stRange) fun s =>
      let s := s.upPower fun p => { p with csReq := Table.put 0 p.csReq (d * 32 + l) cs }
      let s := if cs = 0 then s.wakePkg else s
      if s.inService d then (some [], s.pmSend (Fin.ofNat 12 d) none true)
      else (some [], s.setCore (d * 32 + l) { s.core (d * 32 + l) with idleReq := idleOf cs })

/-- PM_PKG_STATE. A request for PS0 cancels one that waits, with PM_DONE carrying 0, and ends PS1 or PS2 without an event; whether
one that finds neither is answered by PM_DONE is left open. -/
def execPmPkgState (iss : Issuer) (c : CmdCell) (s : State) : Host.Outcome State Fault Refusal :=
  liveMordant s fun s =>
    let p := CmdCell.at_ c 0 1
    .next <| s.command iss c 0x0303 (· = 1) [] (s.packageWide iss)
      (status (2 < p) stRange ++ status s.mgmt.service.action.isSome stBusy ++ status (s.scopeMode = .cascade) stMode)
      fun s =>
        if p = 0 then
          let s' := (s.upPower fun w => { w with request := none }).wakePkg
          if s.mgmt.power.request.isSome then (some [], s'.event 8 (leBytes 1 0))
          else if s.mgmt.power.pkg ≠ .ps0 then (some [], s')
          else
            let (n, s) := s'.takeNat
            (some [], if n % 2 = 0 then s else s.event 8 (leBytes 1 0))
        else (some [], s.upPower fun w => { w with request := some (if p = 1 then .ps1 else .ps2, iss) })

/-! ### Idle and package states (R452 to R456) -/

/-- A hart that lets its core sleep: in WFI, parked, or held in reset. -/
def HartState.idle (x : HartState) : Bool := x.run = .wfi || x.run = .parked || x.run = .held

/-- CORE_IDLE_ENTRY. -/
def execCoreIdleEntry (c : CoreId) (s : State) : Host.Outcome State Fault Refusal :=
  live s fun s =>
    let x := s.core (coreKey c)
    if (hartsOf c).all fun h => (s.hart (hartIx h)).idle then
      .next (s.setCore (coreKey c) { x with idle := if s.mgmt.power.pkg = .ps0 then x.idleReq else .cs3 })
    else .next s

/-- CORE_WAKE: a wake event has made a hart of the core run. The package returns to PS0. -/
def execCoreWake (c : CoreId) (s : State) : Host.Outcome State Fault Refusal :=
  live s fun s =>
    if (hartsOf c).any fun h => !(s.hart (hartIx h)).idle then
      let s := s.wakePkg
      .next (s.setCore (coreKey c) { s.core (coreKey c) with idle := .cs0 })
    else .next s

/-- Write a die's dirty lines back as WbData of hue 0, and invalidate its L3 (R135, R434, R453). -/
def State.flushL3 (s : State) (d : Fin 12) : State :=
  let x := s.die d.val
  (s.setDie d.val { x with evicting := x.l3.map fun e => e.2.line }).dieEvict d

/-- The flush is over: no line waits for room in the writeback buffer (R122). -/
def State.flushedL3 (s : State) (d : Fin 12) : Bool := (s.die d.val).evicting.isEmpty

/-- Every domain that sleeps in PS1 and PS2. -/
def allDomains : List Domain :=
  ((List.finRange 12).flatMap fun d => (coresOf d).map .l2 ++ [.l3 d, .dieRing d]) ++ (List.finRange 4).map .hubRing ++
    (List.finRange 64).map .pc ++ (List.finRange 8).map .pipe

/-- PKG_STATE_ENTRY. -/
def execPkgStateEntry (s : State) : Host.Outcome State Fault Refusal :=
  live s fun s =>
    match s.mgmt.power.request with
    | none => .next s
    | some (p, _) =>
      if s.mgmt.service.action.isSome || s.fab.harts.any fun e => !e.2.idle then .next s
      else
        let s := if p = .ps2 then s.forEach (List.finRange 12) fun s d => s.flushL3 d else s
        if (List.finRange 12).any fun d => !s.flushedL3 d then .next s else
        let s := s.forEach (List.finRange 12) fun s d => s.forEach (coresOf d) fun s c =>
          s.setCore (coreKey c) { s.core (coreKey c) with idle := .cs3 }
        let s := s.upPower fun w => { w with pkg := p, request := none, asleep := allDomains }
        .next (s.event 8 (leBytes 1 (if p = .ps2 then 2 else 1)))

/-- DOMAIN_WAKE. -/
def execDomainWake (d : Domain) (s : State) : Host.Outcome State Fault Refusal :=
  live s fun s => .next (s.upPower fun p => { p with asleep := p.asleep.filter fun e => e ≠ d })

/-- A domain may sleep: in PS1 and PS2; an L2 with its core in CS2 or CS3, and an idle pipeline, in every state (R455). -/
def State.maySleep (s : State) (d : Domain) : Bool :=
  match d with
  | .l2 c => (s.core (coreKey c)).idle = .cs2 || (s.core (coreKey c)).idle = .cs3
  | .pipe p => !s.runningJobs.any fun e => e.2.2.running = some p
  | _ => s.mgmt.power.pkg ≠ .ps0

/-- DOMAIN_SLEEP. -/
def execDomainSleep (d : Domain) (s : State) : Host.Outcome State Fault Refusal :=
  live s fun s =>
    if s.maySleep d then .next (s.upPower fun p => { p with asleep := (p.asleep.filter fun e => e ≠ d) ++ [d] })
    else .next s

/-! ### Clocks (R459) -/

/-- PLL_LOCK_LOSS: a Weld PLL fires a field retrain; a die's stops its cores and ring, and is logged. -/
def execPllLockLoss (p : Pll) (s : State) : Host.Outcome State Fault Refusal :=
  live s fun s =>
    match p with
    | .weld d k =>
      let s := s.upPower fun w => { w with weldPll := (w.weldPll.filter fun e => e ≠ (d, k)) ++ [(d, k)] }
      .next (s.bundleRetrain d.val k.val (.lockLoss 0))
    | .die d =>
      let s := s.upPower fun w => { w with diePll := (w.diePll.filter fun e => e ≠ d) ++ [d] }
      .next (s.logE .partner .clk .clock 0)

/-- PLL_RELOCK: the die's PLLs have lock again, and its cores and ring go on. -/
def execPllRelock (d : Fin 12) (s : State) : Host.Outcome State Fault Refusal :=
  live s fun s => .next (s.upPower fun w =>
    { w with diePll := w.diePll.filter fun e => e ≠ d, weldPll := w.weldPll.filter fun e => e.1 ≠ d })

/-- REFCLK_LOSS: Mordant and the time base go on, on the internal oscillator; every other clock stops. -/
def execRefclkLoss (s : State) : Host.Outcome State Fault Refusal :=
  live s fun s => .next ((s.logE .partner .clk .clock 0).upMode fun m => { m with refclk := false })

/-! ### Temperature (R460 to R462) -/

/-- TJ_THROTTLE in eighths of a degree. -/
def State.tj (s : State) : Int := (fld (s.cfg 0x1101) 0 8 * 8 : Nat)

/-- THERMTRIP_N goes low, and every clock stops (R462). -/
def State.trip (s : State) : State := s.upMode fun m => { m with thermTrip := true }

/-- TEMPERATURE_READ: `die` gives the four sensors of each die, `hub` the eight of the hub, in eighths of a degree. -/
def execTemperatureRead (die : List (List Int)) (hub : List Int) (s : State) : Host.Outcome State Fault Refusal :=
  live s fun s =>
    let s := s.upPower fun p =>
      { p with hubHot := hub,
               sensors := (List.range 12).foldl (fun t d => Table.put [] t d (die.getD d [])) p.sensors }
    .next (if (hub ++ die.flatten).any fun t => 1000 ≤ t then s.trip else s)

/-- Whether throttling starts, or goes on, for a set of sensors: at TJ_THROTTLE, until 3 °C below. -/
def State.hotNow (s : State) (acts : Bool) (l : List Int) : Bool :=
  l.any fun t => s.tj ≤ t || (acts && s.tj - 24 < t)

/-- THROTTLE_STEP: 100 MHz off each hot rail, 10 W off the effective limit for the hub and for each hot stack. -/
def execThrottleStep (s : State) : Host.Outcome State Fault Refusal :=
  liveMordant s fun s =>
    let s := s.forEach (List.range 6) fun s k =>
      let i := coreRail k
      let x := s.rail i
      let temps := (railDies k).flatMap fun d => Table.get [] s.mgmt.power.dieHot d.val
      if s.hotNow (x.throttle ≠ 0) temps then
        let f := max 800 ((if x.throttle = 0 then x.freq else x.throttle) - 100)
        let s := if x.throttle = 0 then s.logE .notice .pm .thermal i (info := x.mv.toNat) else s
        (s.setRail i { s.rail i with throttle := f }).setFreq k (min f x.freq)
      else s.setRail i { x with throttle := 0 }
    let p := s.mgmt.power
    let hub := if s.hotNow (p.hubReduction ≠ 0) p.hubHot then p.hubReduction + 10 else 0
    let red : Table Nat := (List.finRange 2).foldl (fun (t : Table Nat) (k : Fin 2) =>
      Table.put 0 t k.val (if p.stackHot.contains k then Table.get 0 p.stackReduction k.val + 10 else 0)) []
    let began := (hub ≠ 0 && p.hubReduction = 0) ||
      (List.range 2).any fun k => Table.get 0 red k ≠ 0 && Table.get 0 p.stackReduction k = 0
    let s := if began then s.logE .notice .pm .thermal 0 else s
    .next (s.upPower fun p => { p with hubReduction := hub, stackReduction := red })

/-- HOT_N, once its level has lasted for 1 µs (R449, R519). After a trip it has no effect (R520). -/
def execHotN (asserted : Bool) (s : State) : Host.Outcome State Fault Refusal :=
  liveMordant s fun s => .next (s.upMode fun m => { m with hot := asserted })

/-- CATASTROPHIC_TEMPERATURE. -/
def execCatastrophicTemperature (_stack : Fin 2) (s : State) : Host.Outcome State Fault Refusal :=
  live s fun s => .next s.trip

end Sys2Proof.Machine
end

