-- ==== Sys2Proof/Machine/Start.lean ====
section
/-! DEFINITION. CFG_WRITE, start-up and the reset scopes (chapter 17; R399, R440, R516). -/

namespace Sys2Proof.Machine

/-! ### What a reset leaves (R425) -/

/-- A Weld port after a reset: its bundles keep what the field-repair map records of them (R224). -/
def PortState.afterReset (p : PortState) : PortState :=
  { bundles := p.bundles.foldl (fun t e => Table.put {} t e.1
      { cap := e.2.cap, capCleared := e.2.capCleared, failedLanes := e.2.failedLanes }) [] }

/-- A package cold reset begins (R420, R425): only the ledger store and the fuses keep what they held. The store holds the
ledger with NEXT_BASE and its word, the error log, the configuration store, the images and the field-repair map. -/
def State.enterCold (s : State) (cause : StartCause) (straps : Straps) (counted : Bool) : State :=
  let m := s.mgmt
  let o := m.mordant
  let l := s.hub.ledger
  { fab := { ports := s.fab.ports.foldl (fun t e => Table.put {} t e.1 e.2.afterReset) [] }
    mem := { repairs := s.mem.repairs }
    hub := { ledger := { slots := l.slots, last := l.last, nextSeq := l.nextBase, nextBase := l.nextBase, word := l.word } }
    mgmt :=
      { mail := if cause = .powerOn then [] else Table.put {} [] 16 { sent := (s.mbx 16).sent }
        mordant := { slotA := o.slotA, slotB := o.slotB, activeB := o.activeB, boot := if counted then o.boot + 1 else o.boot }
        pdr := { failed := m.pdr.failed }
        store := m.store
        log := { slots := m.log.slots, nextSeq := m.log.seqBase, seqBase := m.log.seqBase, cursors := m.log.cursors }
        mode :=
          { cause := cause, straps := straps, resetN := m.mode.resetN, refclk := m.mode.refclk, pwrfail := m.mode.pwrfail,
            hot := m.mode.hot }
        power := { uvLatch := m.power.uvLatch, ovLatch := m.power.ovLatch } }
    free := s.free
    pending := s.pending }

/-- What a reset of its core leaves: the binding (R425), and the frequency that its rail gives it. -/
def CoreState.afterReset (c : CoreState) : CoreState :=
  { phys := c.phys, bound := c.bound, moves := c.moves, freq := c.freq }

/-- The running entry of each forget queue completes, without its MSI, before the queues are reset (R254). -/
def State.forgetReset (s : State) : State :=
  let s := s.forEach (List.range 16) fun s q =>
    match (s.forget q).entries with
    | e :: _ => if (s.forget q).running then s.forgetFinish q e false else s
    | [] => s
  s.upMem fun m => { m with forget := [] }

/-- A package reset whose power holds closes the meters: harts send their counts, running forgets complete, and every hue is freed
(R254, R283). -/
def State.resetMeters (s : State) : State :=
  let s := s.forEach (s.fab.harts.map Prod.fst) fun s i => s.meterSend (hartOfIx i) (s.hart i).hue
  s.forgetReset.freeHues fun _ => true

/-- A package warm reset begins (R422, R425): what R425 keeps is kept, a live action is abandoned (R440), and every hue is freed
(R283). A commit whose record is not durable is absent. -/
def State.enterWarm (s : State) (cause : StartCause) : State :=
  let s := s.resetMeters
  let fab : Fabric :=
    { cores := s.fab.cores.foldl (fun t e => Table.put {} t e.1 e.2.afterReset) []
      homes := s.fab.homes.foldl (fun t e => Table.put {} t e.1 { fenced := e.2.fenced }) []
      ports := s.fab.ports.foldl (fun t e => Table.put {} t e.1
        { e.2.afterReset with
          resets := e.2.resets + 1
          bundles := e.2.bundles.foldl (fun t b => Table.put {} t b.1
            { b.2 with
              st := if b.2.st = .retired then .retired else .down, step := 0, width := 0, lanesD2H := 0, lanesH2D := 0,
              field := false, hub := {}, die := {} }) [] }) [] }
  let done := (s.mgmt.config.commit.map fun k => if k.flip.isSome then k.entries.map Prod.fst else []).getD []
  let sent := (s.mbx 16).sent
  let handing := match s.mgmt.service.action with
    | some (.cascHandoff _) => true
    | _ => false
  let s := { s with fab := fab }
  let s := s.forEach (List.finRange 12) fun s d =>
    let used := (coresOf d).map fun c => (s.core (coreKey c)).phys
    s.setSpares d.val ((s.spares d.val).filter fun p => !((s.core (d.val * 32)).bound && used.contains p))
  let s := s.upMem fun m => { m with reqs := [], reads := [], fills := [], window := {}, slots := [], noSnoop := [] }
  let s := s.upHub fun h =>
    { h with imsic := [], aplic := [], slices := [], cells := [], rootPorts := [], cxlPorts := [], inbound := [], toDevice := [], filter := [],
             snoops := [], cacheReqs := [], cacheOut := [], iommus := [], ioTxid := 0, ioLate := [] }
  let s := s.upMgmt fun m =>
    { m with mail := Table.put {} [] 16 { sent := sent }, unc := [], uncFreeze := false, casc := { roleGiven := m.casc.roleGiven && !handing },
             census := { round := m.census.round, last := m.census.last }, service := {},
             pdr := { failed := m.pdr.failed, spares := m.pdr.spares, dieSt := m.pdr.dieSt.filter fun e => e.2 = 3 } }
  let s := s.upConfig fun c => { c with commit := none, staged := c.staged.filter fun e => !done.contains e.1, dies := [] }
  let s := s.upPower fun p => { p with pkg := .ps0, request := none, asleep := [], csReq := [] }
  s.upMode fun m =>
    { m with mode := .bringUp, ret := .recovery, cause := cause, parts := [],
             start := { running := true, warm := true, done := [.s2, .s3, .s4], held := m.start.held } }

/-- Enter Recovery (R418, R421): only Mordant runs. -/
def State.enterRecovery (s : State) (cause : StartCause) : State :=
  let s := s.forEach (List.range 13) fun s p => s.setPort p { (s.port p).afterReset with resets := (s.port p).resets }
  let s := s.upHub fun h => { h with rootPorts := [] }
  s.upMode fun m => { m with mode := .recovery, cause := cause, start := { running := false } }

/-! ### CFG_WRITE, and the resets that a write starts (R383, R399, R413, R419, R426, R427) -/

/-- The dies of a partition, and its root ports (R423). -/
def State.diesOf (s : State) (p : Nat) : List (Fin 12) := (List.finRange 12).filter fun d => bit (s.cfg (0x1210 + p)) d.val
def State.portsOf (s : State) (p : Nat) : List Nat := (List.range 32).filter fun r => bit (s.cfg (0x1230 + p)) r

/-- A slice of a partition (R307). -/
def State.sliceIn (s : State) (p k : Nat) : Bool :=
  fld (s.cfg (0x1210 + p)) 16 4 * 256 ≤ k && k < (fld (s.cfg (0x1210 + p)) 16 4 + fld (s.cfg (0x1210 + p)) 24 5) * 256

/-- An MSI that goes to a hart of a partition. -/
def State.msiIn (s : State) (p : Nat) (m : MsiMsg) : Bool :=
  m.client.isNone && (match s.filePage none m.pa with
    | some k => s.partOfDie (k / 2048) = some p
    | none => false)

/-- Steps 1 and 2 of a partition reset (R426): its harts are held, PERST_N goes low at its slots, its DMA and MSIs are discarded,
and its running jobs stop. -/
def State.partHold (s : State) (p : Nat) : State :=
  let s := s.setPartition p { s.partition p with resetStep := 2 }
  let s := s.forEach (s.diesOf p) fun s d => s.forEach (hartsOfDie d) fun s h => s.holdHart h .held (BitVec.allOnes 64)
  let s := s.forEach (s.portsOf p) fun s r =>
    let s := (s.slotOut r 0x04 0).dropInbound r
    s.setRootPort r { s.rootPort r with link := .down, insStep := 0, requests := [], waiting := [], postedWrites := [],
                                        forwarded := [] }
  let s := s.upFab fun f => { f with msis := f.msis.filter fun m => !s.msiIn p m }
  s.forEach ((s.hub.slices.map Prod.fst).filter fun k => s.sliceIn p k) fun s k =>
    s.setSlice k { s.slice k with jobs := (s.slice k).jobs.map fun j => if j.running.isSome then j.halt 1 else j }

/-- GO of PART_RESET, once the write is accepted. While a live action runs the resets wait for its end. -/
def State.partResetGo (s : State) (go : Nat) : State :=
  if s.mgmt.service.action.isSome then
    s.upService fun v => { v with resetOwed := v.resetOwed ||| BitVec.ofNat 12 go }
  else s.forEach (ones 12 go) fun s p => if (s.partition p).resetStep = 0 then s.partHold p else s

/-- What a CFG_WRITE cell names: register, value, mask. -/
def cfgCell (c : CmdCell) : Nat × Word × Word :=
  (CmdCell.at_ c 0 2, BitVec.ofNat 64 (CmdCell.at_ c 8 8), BitVec.ofNat 64 (CmdCell.at_ c 16 8))

/-- Which package reset a write of PKG_RESET starts: true cold, which has precedence, or warm (R413). -/
def pkgResetOf (c : CmdCell) : Option Bool :=
  let (r, v, m) := cfgCell c
  let w := v &&& m
  if r ≠ 0x1202 then none else if bit w 0 then some true else if bit w 1 then some false else none

/-- Straps as a cold reset started by command samples them: free where the command does not give them (R416). -/
def State.sampleStraps (s : State) (given : Option Straps) : Straps × State :=
  match given with
  | some x => (x, s)
  | none =>
    let (n, s) := s.takeNat
    ({ recoveryN := n % 2 = 1, bootSel := BitVec.ofNat 2 (n / 2), pkgId := Fin.ofNat 4 (n / 8), masterSel := n / 32 % 2 = 1 }, s)

/-- A cold reset started by command. -/
def State.coldByCommand (s : State) (given : Option Straps) : State :=
  let (x, s) := s.sampleStraps given
  (if s.mode = .recovery then s else s.resetMeters).enterCold .cmdCold x true

/-- The package reset that a write has asked for begins. -/
def State.resetGo (s : State) (given : Option Straps) : State :=
  match s.mgmt.mode.resetAsked with
  | none => s
  | some true => s.coldByCommand given
  | some false => (s.upMode fun g => { g with resetAsked := none }).enterWarm .cmdWarm

/-- CFG_WRITE. A write of PKG_RESET is answered first, and its reset begins; a write of PKG_RESET or PART_RESET leaves no record in
the journal. -/
def State.cfgWriteCmd (s : State) (iss : Issuer) (c : CmdCell) (given : Option Straps) : State :=
  let (r, v, m) := cfgCell c
  (s.command iss c 0x0101 (· = 24) [] (!cfgListed r || s.cfgInScope iss r) (s.cfgWriteBad r v m) fun s =>
    if r = 0x1202 then (some [], s.upMode fun g => { g with resetAsked := pkgResetOf c })
    else if r = 0x1240 then (some [], s.partResetGo (fld (v &&& m) 0 12))
    else (some [], s.cfgWrite r v m)).resetGo given

/-- CFG_WRITE of any register. One that sets PKG_RESET.COLD leaves the straps open; PKG_RESET_COLD gives them. -/
def execCfgWrite (iss : Issuer) (c : CmdCell) (s : State) : Host.Outcome State Fault Refusal :=
  liveMordant s fun s => .next (s.cfgWriteCmd iss c none)

/-- PKG_RESET_COLD: a CFG_WRITE that sets PKG_RESET.COLD. -/
def execPkgResetCold (iss : Issuer) (c : CmdCell) (straps : Straps) (s : State) : Host.Outcome State Fault Refusal :=
  liveMordant s fun s => .next (if pkgResetOf c = some true then s.cfgWriteCmd iss c (some straps) else s)

/-- PKG_RESET_WARM: a CFG_WRITE that sets PKG_RESET.WARM alone. -/
def execPkgResetWarm (iss : Issuer) (c : CmdCell) (s : State) : Host.Outcome State Fault Refusal :=
  liveMordant s fun s => .next (if pkgResetOf c = some false then s.cfgWriteCmd iss c none else s)

/-- PART_RESET: a CFG_WRITE of PART_RESET. -/
def execPartReset (iss : Issuer) (c : CmdCell) (s : State) : Host.Outcome State Fault Refusal :=
  liveMordant s fun s => .next (if (cfgCell c).1 = 0x1240 then s.cfgWriteCmd iss c none else s)

/-! ### Releasing harts (R424) -/

/-- Release the harts of some dies: the boot hart running, every other parked. -/
def State.releaseDies (s : State) (dies : List (Fin 12)) (boot : Option Nat) : State :=
  s.forEach (dies.filter fun d => s.inService d.val) fun s d =>
    let mine := boot.filter fun i => i / 64 = d.val
    let harts := 2 ^ 44 - 1 - (match mine with
      | some i => 2 ^ (i % 64)
      | none => 0)
    let s := s.hartCtl d.val 0x02 harts
    match mine with
    | some i => s.hartCtl d.val 0x03 (2 ^ (i % 64))
    | none => s

/-- Release a partition: its boot hart is that of its lowest die in service. -/
def State.releasePart (s : State) (p : Nat) : State :=
  let dies := (s.diesOf p).filter fun d => s.inService d.val
  s.releaseDies dies ((dies.head?).map fun d => d.val * 64)

/-- Release the harts of the package for the mode that it has entered. -/
def State.releasePkg (s : State) : State :=
  match s.mode with
  | .partitioned => s.forEach (List.range 12) fun s p => if (s.partition p).started then s.releasePart p else s
  | .cascade => s.releaseDies (List.finRange 12) (if s.mgmt.casc.master.val = s.pkgIx then some 0 else none)
  | _ => s.releaseDies (List.finRange 12) (some 0)

/-! ### Partition reset, steps 3 to 7 (R426) -/

/-- The partition has nothing at the homes or in its dies that is still to be answered. -/
def State.partQuiet (s : State) (p : Nat) : Bool :=
  let mine (m : Msg) : Bool := m.req < 12 && (s.diesOf p).any fun d => d.val = m.req
  (List.range 32).all (fun k =>
    let x := s.home k
    !(x.txns.any fun t => !t.sweep && mine t.req) && !(x.waitq ++ x.heldBack ++ x.wbHeldBack).any mine &&
      !(x.wbs.any fun w => mine w.msg)) &&
    (s.diesOf p).all (fun d =>
      (s.die d.val).miss.all (fun m => m.late) && (s.die d.val).wb.all (fun w => w.late) && (s.die d.val).held.isEmpty) &&
    !(s.hub.inbound.any fun i => s.partOfPort i.port.val = some p) &&
    !(s.runningJobs.any fun e => s.sliceIn p e.1)

/-- A line of a partition's memory. -/
def State.lineIn (s : State) (p line : Nat) : Bool := (s.region (some p) (line * 64)).isMemory

/-- Step 4: the partition's caches and directory entries. -/
def State.partCaches (s : State) (p : Nat) : State :=
  let s := s.forEach (s.diesOf p) fun s d =>
    let s := s.setDie d.val { nextTxid := (s.die d.val).nextTxid }
    let s := s.upPower fun w => { w with csReq := w.csReq.filter fun e => e.1 / 32 ≠ d.val }
    s.forEach (coresOf d) fun s c => s.setCore (coreKey c) (s.core (coreKey c)).afterReset
  let s := s.forEach (List.range 32) fun s k =>
    let x := s.home k
    s.setHome k { x with dir := x.dir.filter fun e => !s.lineIn p e.2.line }
  s.upHub fun h => { h with filter := h.filter.filter fun e => !s.lineIn p e.1 }

/-- Power returns to a slot whose card is present: steps 4 to 6 of R359, and Power Controller Control reads on. A port without a
slot trains when its device answers. -/
def State.repower (s : State) (r : Nat) : State :=
  let p := s.rootPort r
  if !s.isPort r then s
  else if s.slotEn r && p.inputs.prsnt then
    (s.setRootPort r { p with link := .down, slotCtl := p.slotCtl &&& ~~~ 0x400, insStep := 5, pwrGoodAt := s.now }).slotOut r 1 1
  else s.setRootPort r { p with link := .down }

/-- Steps 5 and 6: hues, slices, IOMMUs, root ports and interrupt files are reset, the dies are loaded, and the mailbox closes. -/
def State.partClear (s : State) (p : Nat) : State :=
  let s := s.freeHues fun h => s.partOfHue h = some p
  let s := s.forEach ((s.hub.slices.map Prod.fst).filter fun k => s.sliceIn p k) fun s k =>
    (s.freeCells (s.slice k).cells).setSlice k {}
  let s := s.forEach (s.portsOf p) fun s r =>
    let x := s.rootPort r
    (s.setIommu r {}).setRootPort r { outByte := x.outByte &&& ~~~ 7, inputs := { prsnt := x.inputs.prsnt } }
  let s := s.forEach (s.diesOf p) fun s d => s.forEach (hartsOfDie d) fun s h =>
    s.forEach (List.range 17) fun s g => s.setFile (hartIx h * 32 + g) {}
  let s := (s.setAplic (domainBase (some p)) {}).setAplic (domainBase (some p) + 1) {}
  let s := s.forEach (s.diesOf p) fun s d => if s.inService d.val then s.loadDie d.val else s
  (s.setMbx p {}).pdrTouch

/-- Step 7: once PWRFAIL_N is deasserted, the harts are released, and the slots repower. -/
def State.partRelease (s : State) (p : Nat) : State :=
  if s.mgmt.mode.pwrfail then s
  else
    let s := (s.setPartition p { s.partition p with resetStep := 0 }).releasePart p
    s.forEach (s.portsOf p) fun s r => s.repower r

/-- PARTITION_DRAIN_COMPLETE: steps 3 to 6, and 7 when PWRFAIL_N lets it; else a second one brings step 7. -/
def execPartitionDrainComplete (p : Fin 12) (s : State) : Host.Outcome State Fault Refusal :=
  live s fun s =>
    let x := s.partition p.val
    if x.resetStep = 2 && s.partQuiet p.val then
      let s := (s.partCaches p.val).partClear p.val
      .next ((s.setPartition p.val { s.partition p.val with resetStep := 7 }).partRelease p.val)
    else if x.resetStep = 7 then .next (s.partRelease p.val)
    else .next s

/-! ### Pins (R417, R516, R520) -/

/-- PWRGOOD_RISE: a cold reset, and the start. -/
def execPwrgoodRise (straps : Straps) (s : State) : Host.Outcome State Fault Refusal :=
  if s.mgmt.mode.pwrgood then .next s
  else
    let s := s.enterCold .powerOn straps true
    .next (s.upMode fun m => { m with resetN := true, refclk := true })

/-- PWRGOOD falls: every clock stops (R417). What the fall loses is lost by the time PWRGOOD rises. -/
def State.powerOff (s : State) : State := s.upMode fun m => { m with pwrgood := false }

/-- PWRGOOD_LOW. -/
def execPwrgoodLow (s : State) : Host.Outcome State Fault Refusal := .next s.powerOff

/-- The rail that supplies VSTBY, whose loss clears the latches (R516). -/
def standbyRail : Nat := 15

/-- RAIL_UNDERVOLTAGE: treated as PWRGOOD falling. -/
def execRailUndervoltage (rail : Fin 18) (s : State) : Host.Outcome State Fault Refusal :=
  if !s.mgmt.mode.pwrgood then .next s
  else
    let latch (l : List Nat) : List Nat := l.filter (fun i => i ≠ rail.val) ++ [rail.val]
    let s := s.upPower fun p =>
      if rail.val = standbyRail then { p with uvLatch := [], ovLatch := [] } else { p with uvLatch := latch p.uvLatch }
    .next s.powerOff

/-- RAIL_OVERVOLTAGE: latched, and not otherwise answered. -/
def execRailOvervoltage (rail : Fin 18) (s : State) : Host.Outcome State Fault Refusal :=
  if !s.mgmt.mode.pwrgood then .next s
  else .next (s.upPower fun p => { p with ovLatch := p.ovLatch.filter (fun i => i ≠ rail.val) ++ [rail.val] })

/-- RESET_N_LOW: low for 1 µs. In Recovery a cold reset begins, in Bring-up the start stops, and in every other mode a warm reset
begins; the package holds there. -/
def execResetNLow (s : State) : Host.Outcome State Fault Refusal :=
  live s fun s =>
    let m := s.mgmt.mode
    if !m.resetN then .next s
    else
      let s := match m.mode with
        | .recovery => (s.enterCold .resetPin m.straps true).upMode fun g => { g with mode := .recovery }
        | .bringUp => s
        | _ => s.enterWarm .resetPin
      .next (s.upMode fun g => { g with resetN := false, start := { g.start with held := true } })

/-- RESET_N_RISE: the start goes on, or begins again: a cold one from step 2, a warm one from step 5. From Recovery the straps are
sampled. -/
def execResetNRise (straps : Straps) (s : State) : Host.Outcome State Fault Refusal :=
  live s fun s =>
    let m := s.mgmt.mode
    if m.resetN then .next s
    else
      let s := s.upMode fun g => { g with resetN := true, start := { g.start with held := false } }
      if m.mode = .recovery then .next (s.upMode fun g => { g with mode := .bringUp, straps := straps })
      else if m.start.warm then .next (s.enterWarm m.cause)
      else .next (s.enterCold m.cause m.straps false)

/-! ### The start (R420 to R423) -/

/-- The steps that a step waits for. -/
def stepNeeds (t : StartStep) : List StartStep := match t with
  | .s2 => [] | .s3 => [.s2] | .s4 => [.s3] | .s5 => [.s4]
  | .s6a => [.s5] | .s6b => [.s5] | .s6c => [.s5] | .s6d => [.s5]
  | .s7 => [.s6a] | .s8 => [.s6b, .s6c, .s6d, .s7] | .s9 => [.s8] | .s10 => [.s9] | .s11 => [.s10]

/-- Step 2: the time base starts at 0, and the latches of R516 and a bad strap are logged (R416). -/
def State.startHub (s : State) : State :=
  let p := s.mgmt.power
  let s := { s with now := 0 }.upPower fun w => { w with uvLatch := [], ovLatch := [] }
  let s := s.forEach (p.uvLatch ++ p.ovLatch) fun s i => s.logE .partner .pm .regulator i
  if s.mgmt.mode.straps.bootSel = 3 then s.logE .partner .cfg .strap 0 else s

/-- The image in a slot has verified. -/
def State.imageGood (s : State) (b : Bool) : State :=
  s.upMordant fun m =>
    if b then { m with slotB := { m.slotB with staged := true } } else { m with slotA := { m.slotA with staged := true } }

/-- Step 4: the image that starts, or Recovery (R369, R418). -/
def State.startImage (s : State) (i : StartInfo) : State :=
  let b := s.mgmt.mordant.activeB
  let ok (b : Bool) : Bool := if b then i.imageBOk else i.imageAOk
  let t := if ok b then s.imageGood b
    else if ok (!b) then (s.upMordant fun m => { m with activeB := !b }).imageGood (!b)
    else s
  if !s.mgmt.mode.straps.recoveryN then t.enterRecovery .strapRecovery
  else if ok b || ok (!b) then t
  else t.enterRecovery .imageRecovery

/-- The set-up's first register at fault, in ascending order, or none when the set-up is valid (R423). -/
def State.setupFault (s : State) : Option Nat :=
  let c := s.cfg
  let on := (List.range 12).filter fun p => bit (c (0x1210 + p)) 12
  let hues (p : Nat) : Nat × Nat := (fld (c (0x1210 + p)) 16 4, fld (c (0x1210 + p)) 24 5)
  let meets (p : Nat) (f : Nat → Bool) : Bool := on.any fun q => p ≠ q && f q
  let cfgBad (p : Nat) : Bool :=
    fld (c (0x1210 + p)) 0 12 = 0 || (hues p).2 = 0 || 16 < (hues p).1 + (hues p).2 ||
      meets p fun q => fld (c (0x1210 + p)) 0 12 &&& fld (c (0x1210 + q)) 0 12 ≠ 0 ||
        ((hues p).1 < (hues q).1 + (hues q).2 && (hues q).1 < (hues p).1 + (hues p).2)
  let hbmBad (p : Nat) : Bool :=
    fld (c (0x1220 + p)) 0 24 = 0 || meets p fun q => fld (c (0x1220 + p)) 0 24 &&& fld (c (0x1220 + q)) 0 24 ≠ 0
  let portBad (p : Nat) : Bool :=
    ((ones 32 (fld (c (0x1230 + p)) 0 32)).any fun r => !s.isPort r) ||
      meets p fun q => fld (c (0x1230 + p)) 0 32 &&& fld (c (0x1230 + q)) 0 32 ≠ 0
  if on.isEmpty then some 0x1201
  else
    ((on.find? cfgBad).map (0x1210 + ·)).orElse fun _ =>
      ((on.find? hbmBad).map (0x1220 + ·)).orElse fun _ => (on.find? portBad).map (0x1230 + ·)

/-- Step 5: the configuration is loaded, the set-up is checked, the fixed rails are written at a cold start (R442), and the cold
training of every port that is not absent begins (R212). -/
def State.startLoad (s : State) : State :=
  let warm := s.mgmt.mode.start.warm
  let s := (s.upMode fun m => { m with mode := .bringUp }).loadStore
  let s := if fld (s.cfg 0x1201) 0 2 = 1 then
      (match s.setupFault with
       | some r => (s.upMode fun m => { m with cause := .configFallback }).logE .notice .cfg .unsupported 0 (info := r)
       | none => s)
    else s
  let s := if warm then s else (s.avsWrite 12 1100).avsWrite 13 400
  s.forEach (List.finRange 12) fun s d => if s.dieStatus d.val = 3 then s else s.coldTrain d

/-- The first line of the row that a repair record names (R230, R231, R244). -/
def State.repairLine (s : State) (r : Word) : Nat :=
  let row := fld r 16 15
  let base := (s.pkgIx * 2 ^ 50 + 0x80000000 + fld r 9 2 * 2 ^ 35 + row * 2 ^ 20 + (fld r 12 4 ^^^ (row % 16)) * 2 ^ 16) / 64
  let same (l : HbmLoc) : Bool :=
    l.stack = fld r 4 1 && l.channel = fld r 0 4 && l.pc = fld r 8 1
  (((List.range 1024).map (base + ·)).find? fun l => same (hbmLoc l)).getD base

/-- Replace a record of the field-repair map. -/
def State.setRepair (s : State) (i : Nat) (r : Word) : State := s.upMem fun m => { m with repairs := m.repairs.set i r }

/-- Field repair at a start that trains the stacks (R244): hPPR once for each record, then sPPR while the bank has resources.
Whether a stack acknowledges an sPPR is a free choice (R258). -/
def State.applyRepairs (s : State) (fail : List Nat) : State :=
  let all := List.range s.mem.repairs.length
  let s := s.upMem fun m => { m with spprSpent := [] }
  let s := s.forEach all fun s i =>
    let r := s.mem.repairs.getD i 0
    if bit r 32 || bit r 33 then s
    else if fail.contains i then
      let line := s.repairLine r
      (s.setRepair i (putFld r 33 1 1)).logE .partner .hbm .repair (hbmLoc line).unit (line * 64) 0 ((hbmLoc line).info 0x7F)
    else s.setRepair i (putFld r 32 1 1)
  s.forEach all fun s i =>
    let r := s.mem.repairs.getD i 0
    let line := s.repairLine r
    let l := hbmLoc line
    let before := (s.mem.repairs.take i).filter fun w => fld w 0 16 = fld r 0 16 && !bit w 32
    let mark (s : State) : State :=
      s.setRow l.rowKey { count := 0, first := s.now, last := s.now, rewritten := true, retired := true }
    if bit r 32 then s
    else if before.length < Config.spprFree l.unit (l.sid * 16 + l.bank) then
      let (n, s) := s.takeNat
      if n % 2 = 1 then mark (s.spprFailed line) else s
    else mark (s.retireRow line)

/-- The scan of the error log (R496). -/
def State.scanLog (s : State) : State :=
  let n := (s.mgmt.log.slots.filter fun e => e.2.bad).length
  let s := s.upLog fun l => { l with slots := l.slots.filter fun e => !e.2.bad }
  if n = 0 then s else s.logE .notice .err .crc 0 (info := n)

/-- Step 6d: PERST_N low and the slots repower, or train; in Cascade the links train (R464). -/
def State.startLanes (s : State) : State :=
  let s := s.forEach (List.range 32) fun s r => s.repower r
  if s.startMode = .cascade then
    s.forEach (List.range 3) fun s k =>
      let b := s.bundle 12 k
      if b.cap = .retired then s
      else s.setBundle 12 k { b with st := .training, step := 3, attempts := 0, announceLimit := 8, trainings := 0, replays := 0 }
  else s

/-- Step 7: logical cores are bound at a cold start, and each die is loaded (R39, R40, R403). -/
def State.startBind (s : State) (fail : List (Fin 12 × Fin 24)) : State :=
  let s := if s.mgmt.mode.start.warm then s
    else s.forEach (List.finRange 12) fun s d =>
      let pass := (List.finRange 24).filter fun p => !s.mgmt.pdr.failed.contains (d.val * 32 + p.val) && !fail.contains (d, p)
      if pass.length < 22 then
        (s.setDieStatus d.val 3).forEach (List.range 4) fun s k =>
          s.setBundle d.val k { s.bundle d.val k with st := .down, step := 0, width := 0, lanesD2H := 0, lanesH2D := 0 }
      else
        let s := s.setSpares d.val ((pass.drop 22).take 2)
        s.forEach (coresOf d) fun s c =>
          s.setCore (coreKey c) { s.core (coreKey c) with phys := pass.getD c.core.val 0, bound := true }
  s.forEach (List.range 12) fun s d => if s.dieStatus d = 3 then s else s.loadDie d

/-- Decoders of the bridges that the start makes present, checked against R362: one that fails maps nothing (R523). -/
def State.startDecoders (s : State) : State :=
  let part := s.startMode = .partitioned
  let bridges := (List.range 12).filter fun b => if part then (s.partition b).started else b = 0
  -- the rules of a present bridge, as the mode to be entered sees them
  let t := s.upMode fun m => { m with mode := s.startMode }
  let bad := bridges.flatMap fun b => ((List.range 16).filter fun n => bit (s.cfg (0x0A00 + 16 * b + n)) 31 &&
    !t.hdmOk t.cfg b n).map (0x0A00 + 16 * b + ·)
  s.forEach bad fun s r => (s.setCfg r (putFld (s.cfg r) 31 1 0)).logE .notice .cfg .unsupported 0 (info := r)

/-- Step 8: partitions start, and the decoders are checked; the census round of step 9 begins. -/
def State.startApply (s : State) : State :=
  let s := s.forEach (List.range 12) fun s p =>
    s.setPartition p
      { started := s.startMode = .partitioned && bit (s.cfg (0x1210 + p)) 12 && (s.diesOf p).any fun d => s.inService d.val }
  s.startDecoders.censusStart none

/-- Step 11: the START mode is entered, and harts are released. -/
def State.startEnd (s : State) : State :=
  (s.upMode fun m => { m with mode := s.startMode, start := { m.start with running := false } }).releasePkg

/-- A step is ready to complete: no Weld training runs at 6a, the round has ended at 9, and at 11 PWRFAIL_N is deasserted and, in
a cascade, the package is admitted (R421, R466). -/
def State.stepReady (s : State) (t : StartStep) : Bool :=
  let x := s.mgmt.mode.start
  x.running && !x.held && !x.done.contains t && (stepNeeds t).all x.done.contains && (match t with
    | .s6a => (List.range 12).all fun p => (List.range 4).all fun k => (s.bundle p k).st ≠ .training
    | .s9 => !s.mgmt.census.running
    | .s11 => !s.mgmt.mode.pwrfail && (s.startMode ≠ .cascade || s.mgmt.casc.members ≠ 0)
    | _ => true)

/-- What a step does. -/
def State.startStep (s : State) (t : StartStep) (i : StartInfo) : State :=
  let warm := s.mgmt.mode.start.warm
  match t with
  | .s2 => s.startHub
  | .s3 => s
  | .s4 => s.startImage i
  | .s5 => s.startLoad
  | .s6a => s
  | .s6b => if warm then s else (s.applyRepairs i.hpprFail).forEach i.channelsFailed fun s k => s.failChannel k.val
  | .s6c => (if warm then s.scanLedger else s.ledgerCold).scanLog
  | .s6d => s.startLanes
  | .s7 => s.startBind i.coreFail
  | .s8 => s.startApply
  | .s9 => s
  | .s10 => s.lockPdr
  | .s11 => s.startEnd

/-- START_STEP_COMPLETE. -/
def execStartStepComplete (step : StartStep) (i : StartInfo) (s : State) : Host.Outcome State Fault Refusal :=
  live s fun s =>
    if !s.stepReady step then .next s
    else
      let s := s.upMode fun m => { m with start := { m.start with done := m.start.done ++ [step] } }
      .next (s.startStep step i)

/-- CASCADE_ADMISSION_TIMEOUT. -/
def execCascadeAdmissionTimeout (s : State) : Host.Outcome State Fault Refusal :=
  live s fun s =>
    if s.mode = .bringUp && s.mgmt.mode.start.done.contains .s10 && s.startMode = .cascade && s.mgmt.casc.members = 0 then
      .next (s.enterRecovery s.mgmt.mode.cause)
    else .next s

/-! ### Hart reset (R135, R425) -/

/-- HART_RESET: the hart waits in reset for a flush of the core, which CACHE_FLUSH_DONE ends, and is then released parked. -/
def execHartReset (h : HartId) (s : State) : Host.Outcome State Fault Refusal :=
  live s fun s =>
    let c := s.core (coreIx h)
    let x := s.hart (hartIx h)
    if x.run = .held then .next s
    else if c.flushing.isSome then
      .next ((s.setCore (coreIx h) { c with resetAfter := c.resetAfter ++ [h.thread] }).holdHart h .held x.mtimecmp)
    else .next (s.resetHart h)

end Sys2Proof.Machine
end

