-- ==== Sys2Proof/Machine/Service.lean ====
section
/-! DEFINITION. Service without stopping: the live maintenance actions and their commands (chapter 18; R475). -/

namespace Sys2Proof.Machine

/-! ### The end of an action (R24, R426, R428, R506) -/

/-- An action ends: SVC_DONE, the mode in RETURN, and what waited for the end begins. -/
def State.svcEnd (s : State) (st : Nat) : State :=
  match s.mgmt.service.action with
  | none => s
  | some a =>
    let owed := s.mgmt.service.resetOwed
    let s := s.event 7 (leBytes 2 a.opcode ++ leBytes 2 st)
    let s := s.upMode fun m => { m with mode := m.ret, ret := .recovery }
    let s := s.upService fun v => { v with action := none, fenced := false, step := 0, issuer := none, resetOwed := 0 }
    (s.partResetGo owed.toNat).spareOwed

/-- The action goes on with a step. -/
def State.svcStep (s : State) (n : Nat) : State := s.upService fun v => { v with step := n }

/-- The die has reported that harts have reached a state since the action asked for it (R202). -/
def State.reported (s : State) (d : Fin 12) (op harts : Nat) : Bool :=
  let r := Table.get (0, 0) s.mgmt.service.reports d.val
  r.1 = op && harts &&& r.2 = harts

/-- Ask a die for a hart state, and await its report. -/
def State.askHarts (s : State) (d : Fin 12) (op harts : Nat) : State :=
  let s := s.upService fun v => { v with reports := Table.put (0, 0) v.reports d.val (0, 0) }
  s.hartCtl d.val (BitVec.ofNat 8 op) harts

/-- Every hart of a die. -/
def allOfDie : Nat := 2 ^ 44 - 1

/-! ### Transparent core sparing (R431, R432) -/

/-- Write back and invalidate a core's L1s and L2. -/
def State.emptyCore (s : State) (c : CoreId) : State :=
  let x := s.core (coreKey c)
  let lines := ((x.l2.map fun e => e.2.line) ++ (x.l1d.map fun e => e.2.line) ++ x.l1i.map fun e => e.2.line).eraseDups
  s.forEach lines fun s l => s.flushLine c .l2 l

/-- Step 5: the logical core is bound to the spare, whose caches, predictor and translation caches are empty. -/
def State.bindSpare (s : State) (c : CoreId) : State :=
  let x := s.core (coreKey c)
  let new := s.mgmt.service.target
  let s := s.setCore (coreKey c)
    { x with phys := new, moves := if x.moves = 0xFF then 0xFF else x.moves + 1, predictor := {}, clearing := none,
             clearAgain := [], l2tlb := [], l2tlbLarge := [], s1Cache := [], gCache := [], l1iLru := [], l1dLru := [],
             l2Lru := [] }
  let s := s.forEach (hartsOf c) fun s h =>
    let y := s.hart (hartIx h)
    s.setHart (hartIx h) { y with itlb := [], dtlb := [], history := 0, ras := [], rasTop := 0, checkpoints := [] }
  s.upService fun v => { v with target := x.phys }

/-- A step of sparing. -/
def State.spareStep (s : State) (d : Fin 12) (l : Fin 22) (n : Nat) : State :=
  let c : CoreId := ⟨d, l⟩
  if n = 2 then (if s.reported d 4 (coreHarts l) then s.svcStep 3 else s)
  else if n = 3 then ((s.emptyCore c).afterResv d).svcStep 4
  else if n = 4 then s.svcStep 5
  else if n = 5 then ((s.bindSpare c).svcStep 6).askHarts d 5 (coreHarts l)
  else if n = 6 then (if s.reported d 5 (coreHarts l) then s.svcStep 7 else s)
  else
    let old := s.mgmt.service.target
    let s := s.upPdr fun p => { p with failed := p.failed ++ [d.val * 32 + old.val] }
    let used := (s.core (coreKey c)).phys
    let s := (s.setSpares d.val ((s.spares d.val).filter fun p => p ≠ used)).pdrTouch
    s.svcEnd stOk

/-! ### Evacuation and readmission (R434, R435) -/

/-- A line of a slice whose entry names a die is busy, or a transaction of the die is open. -/
def State.sweepBusy (s : State) (k : Nat) (d : Fin 12) : Bool :=
  let x := s.home k
  (x.txns.any fun t => t.req.req = d.val) ||
    x.dir.any fun e => e.2.holders &&& holderMask d.val ≠ 0 && x.busy e.2.line

/-- The sweep that removes a die from every HOLDERS: an entry left with no holder is Free. -/
def State.sweepDie (s : State) (d : Fin 12) : State :=
  s.forEach (List.range 32) fun s k =>
    let x := s.home k
    let drop (e : DirEntry) : DirEntry := { e with holders := e.holders &&& ~~~ holderMask d.val }
    s.setHome k { x with dir := (x.dir.map fun e => (e.1, drop e.2)).filter fun e => e.2.holders ≠ 0 }

/-- The Weld port in electrical idle, and its die in compute-die reset. -/
def State.portIdle (s : State) (d : Fin 12) : State :=
  s.forEach (List.range 4) fun s k =>
    let b := s.bundle d.val k
    if b.st = .retired then s
    else s.setBundle d.val k { b with st := .down, step := 0, width := 0, lanesD2H := 0, lanesH2D := 0, hub := {}, die := {} }

/-- A step of evacuation. A census round or a bisection that still waits for the die goes on without it. -/
def State.evacuateStep (s : State) (d : Fin 12) (n : Nat) : State :=
  if n = 2 then (if s.reported d 1 allOfDie then s.svcStep 3 else s)
  else if n = 3 then
    let s := s.forEach (coresOf d) fun s c => s.emptyCore c
    let s := (s.flushL3 d).afterResv d
    if s.flushedL3 d then s.svcStep 4 else s
  else if n = 4 then
    let x := s.die d.val
    if !x.wb.isEmpty || !(x.miss.all fun m => m.late) || (List.range 32).any fun k => s.sweepBusy k d then s
    else (s.sweepDie d).svcStep 5
  else ((((s.portIdle d).setDieStatus d.val 1).dieGone d.val).pdrTouch).svcEnd stOk

/-- A compute-die reset is released (R425, R493): harts, cores and caches are reset, mtimecmp and the binding are kept. -/
def State.resetDie (s : State) (d : Fin 12) : State :=
  let s := s.setDie d.val {}
  let s := s.forEach (coresOf d) fun s c => s.setCore (coreKey c) (s.core (coreKey c)).afterReset
  let s := s.forEach (hartsOfDie d) fun s h =>
    (s.setHart (hartIx h) { mtimecmp := (s.hart (hartIx h)).mtimecmp }).fileLines (hartIx h)
  let s := (s.setDieCfg d.val {}).setUncUnit d.val {}
  let s := s.upPower fun p => { p with csReq := p.csReq.filter fun e => e.1 / 32 ≠ d.val }
  -- the rings of the die, and the queues both of whose sides the reset covers (R197)
  let s := (s.crossReset fun key => (keyStop (key / 32)).1 = .die d).upFab fun f =>
    { f with stops := f.stops.filter (fun e => (keyStop e.1).1 ≠ .die d), onRing := f.onRing.filter fun e => e.ring ≠ .die d }
  s.setPort d.val { s.port d.val with resets := (s.port d.val).resets + 1 }

/-- The port has a bundle that carries traffic. -/
def State.portUp (s : State) (d : Fin 12) : Bool := !(s.port d.val).sbLost && 0 < s.activeBundles d.val

/-- The harts of a die may be released: in Partitioned mode the die belongs to a partition. -/
def State.mayRelease (s : State) (d : Fin 12) : Bool := s.scopeMode ≠ .partitioned || (s.partOfDie d.val).isSome

/-- A step of readmission. Step 4 ends with the die's census report, and step 5 with the report of its harts. -/
def State.readmitStep (s : State) (d : Fin 12) (n : Nat) : State :=
  if n = 2 then
    if s.dieFenced d.val then
      (if (List.range 32).any fun k => s.sweepBusy k d then s
       else (((s.sweepDie d).resetDie d).coldTrain d).svcStep 3)
    else ((s.resetDie d).coldTrain d).svcStep 3
  else if n = 3 then
    if (List.range 4).any fun k => (s.bundle d.val k).st = .training then s
    else if !s.portUp d then (s.fenceDie d.val .weld .training (d.val * 4)).svcEnd stPartner
    else
      let s := (s.loadDie d.val).upCensus fun c => { c with reports := Table.put (0, 0) c.reports d.val (0, 0) }
      (s.sbSend d.val true 0x15 (leBytes 4 s.mgmt.census.round.toNat)).svcStep 4
  else if n = 4 then
    let r := Table.get (0, 0) s.mgmt.census.reports d.val
    if r = (0, 0) then s
    else
      let s := if r = (s.mgmt.config.lot, s.expectedShade d.val) then s
        else s.logE .uncorrected .census .censusMismatch d.val
      (if s.mayRelease d then s.askHarts d 2 allOfDie else s).svcStep 5
  else if s.mayRelease d && !s.reported d 2 allOfDie then s
  else ((s.setDieStatus d.val 0).pdrTouch).svcEnd stOk

/-! ### Cascade master hand-off (R475) -/

/-- A step of the hand-off, at the old master. -/
def State.handoffStep (s : State) (m : Fin 4) (n : Nat) : State :=
  if n = 2 then
    if s.mgmt.config.commit.isSome || s.hub.hues.any fun e => e.2.st = .draining || e.2.st = .resetting then s else s.svcStep 3
  else if n = 3 then s.svcStep 4
  else if n = 4 then (((s.upCasc fun c => { c with master := m, roleGiven := true }).dropStaging).pdrTouch).svcStep 5
  else s.svcEnd stOk

/-- SERVICE_STEP_COMPLETE: the step of the running action is done, if what it waits for has come. A fence of the action's die has
ended it (R505). -/
def execServiceStepComplete (s : State) : Host.Outcome State Fault Refusal :=
  live s fun s =>
    let v := s.mgmt.service
    match v.action with
    | none => .next s
    | some a =>
      if v.fenced then .next (s.svcEnd stPartner)
      else match a with
        | .spare d l => .next (s.spareStep d l v.step)
        | .evacuate d => .next (s.evacuateStep d v.step)
        | .readmit d => .next (s.readmitStep d v.step)
        | .handover => .next (if v.step = 2 then s.svcStep 3 else s)
        | .cascHandoff m => .next (s.handoffStep m v.step)

/-! ### Firmware hand-over (R437, R438) -/

/-- The minute rule: 5 ms after a minute boundary, and early enough for a window of 20 ms to end 5 ms before the next. -/
def minuteRule (now : Word) : Bool :=
  let t := now.toNat % 6000000000
  500000 ≤ t && t + 2000000 + 500000 ≤ 6000000000

/-- Make the other slot active. -/
def State.swapSlot (s : State) : State := s.upMordant fun m => { m with activeB := !m.activeB }

/-- FW_HANDOVER_WINDOW: every accepted command is complete and the minute rule permits; the staged slot is marked active, and both
cores restart. -/
def execFwHandoverWindow (s : State) : Host.Outcome State Fault Refusal :=
  liveMordant s fun s =>
    let v := s.mgmt.service
    if v.action = some .handover && v.step = 3 && minuteRule s.now &&
        (List.range 17).all fun i => (s.mbx i).accepted.isEmpty then
      .next (s.swapSlot.svcStep 5)
    else .next s

/-- FW_HANDOVER_COMPLETE: the new image restores the state, or the old one does. Sessions of a minor version that the new image
does not offer close; messages of the BMC that waited are taken. -/
def execFwHandoverComplete (digestOk stateOk : Bool) (minorOffered : Nat) (s : State) : Host.Outcome State Fault Refusal :=
  liveMordant s fun s =>
    let v := s.mgmt.service
    if !(v.action = some .handover && v.step = 5) then .next s
    else if !digestOk then .next (s.swapSlot.svcEnd stAuth).bmcRelease
    else if !stateOk then .next (s.swapSlot.svcEnd stInternal).bmcRelease
    else
      let s := s.forEach (List.range 17) fun s i =>
        let x := s.mbx i
        match x.session with
        | some n => if minorOffered < n.minor then s.setMbx i { x with session := none, events := [] } else s
        | none => s
      .next (s.svcEnd stOk).bmcRelease

/-! ### Commands (R383, R428, R430, R433, R435, R436) -/

/-- SVC_STATUS. -/
def execSvcStatus (iss : Issuer) (c : CmdCell) (s : State) : Host.Outcome State Fault Refusal :=
  liveMordant s fun s => .next <| s.command iss c 0x0600 (· = 0) [] (s.packageWide iss) [] fun s =>
    let v := s.mgmt.service
    match v.action with
    | none => (some (leBytes 5 0), s)
    | some a => (some (leBytes 2 a.opcode ++ [BitVec.ofNat 8 v.step, 0, BitVec.ofNat 8 (modeCode s.mgmt.mode.ret)]), s)

/-- BUSY while a live action runs. -/
def State.svcBusy (s : State) : List (Nat × Nat) := status s.mgmt.service.action.isSome stBusy

/-- SVC_CORE_SPARE. A die with no spare answers FULL, and the core is logged. For a die or core that does not exist, or a die out of
service, the catalogue states no status: a free choice. -/
def execSvcCoreSpare (iss : Issuer) (c : CmdCell) (s : State) : Host.Outcome State Fault Refusal :=
  liveMordant s fun s =>
    let d := CmdCell.at_ c 0 1
    let l := CmdCell.at_ c 1 1
    let bad := 11 < d || 21 < l
    let core : CoreId := ⟨Fin.ofNat 12 d, Fin.ofNat 22 l⟩
    .next <| s.command iss c 0x0601 (· = 2) [] (s.packageWide iss)
      (s.svcBusy ++ (if bad then [(stRange, 0), (stFull, 0)] else if !s.inService d then [(stState, 0), (stFull, 0)] else []))
      fun s =>
        let t := s.spareStart core (some iss)
        if (s.spares d).isEmpty then (none, t.respond iss stFull []) else (some [], t)

/-- Another die would be left in service, in the package and in the die's partition (R433). -/
def State.mayEvacuate (s : State) (d : Nat) : Bool :=
  d < 12 && s.inService d && (List.range 12).any fun e =>
    e ≠ d && s.inService e && (match s.partOfDie d with
      | some p => s.partOfDie e = some p
      | none => true)

/-- SVC_DIE_EVACUATE. -/
def execSvcDieEvacuate (iss : Issuer) (c : CmdCell) (s : State) : Host.Outcome State Fault Refusal :=
  liveMordant s fun s =>
    let d := CmdCell.at_ c 0 1
    .next <| s.command iss c 0x0602 (· = 1) [] (s.packageWide iss)
      (s.svcBusy ++ status (11 < d) stRange ++ status (!s.mayEvacuate d) stState) fun s =>
        let e : Fin 12 := Fin.ofNat 12 d
        (some [], (s.svcBegin (.evacuate e) (some iss)).askHarts e 1 allOfDie)

/-- SVC_DIE_READMIT. -/
def execSvcDieReadmit (iss : Issuer) (c : CmdCell) (s : State) : Host.Outcome State Fault Refusal :=
  liveMordant s fun s =>
    let d := CmdCell.at_ c 0 1
    .next <| s.command iss c 0x0603 (· = 1) [] (s.packageWide iss)
      (s.svcBusy ++ status (11 < d) stRange ++ status (!(s.dieStatus d = 1 || s.dieStatus d = 2)) stState) fun s =>
        (some [], s.svcBegin (.readmit (Fin.ofNat 12 d)) (some iss))

/-- Write the inactive slot. -/
def State.setInactive (s : State) (x : ImageSlot) : State :=
  s.upMordant fun m => if m.activeB then { m with slotA := x } else { m with slotB := x }

/-- The inactive slot. -/
def MordantState.inactive (m : MordantState) : ImageSlot := if m.activeB then m.slotA else m.slotB

/-- SVC_FW_STAGE: the image is read from the buffer into the inactive slot, and verified. `verifies` tells whether its signature
does; `version` and `secVersion` are what it says of itself (R369). -/
def execSvcFwStage (iss : Issuer) (c : CmdCell) (verifies : Bool) (version : BitVec 32) (secVersion : Byte) (s : State) :
    Host.Outcome State Fault Refusal :=
  liveMordant s fun s =>
    let buf := CmdCell.at_ c 0 8
    let len := CmdCell.at_ c 8 4
    .next <| s.command iss c 0x0604 (· = 12) [] (s.packageWide iss)
      (status (2 ^ 22 < len || s.bufferBad iss buf len 1) stRange) fun s =>
        let ((_, poison, err), s) := s.snap (s.issPart iss) buf len 0
        let ok := verifies && Config.fuseMinimum.toNat ≤ secVersion.toNat
        if poison || err then
          (none, (((s.setInactive { s.mgmt.mordant.inactive with staged := false }).bufferFault iss buf).respond iss stPartner []))
        else
          let s := s.setInactive { version := version, secVersion := secVersion, staged := ok }
          if ok then (some [], s) else (none, s.respond iss stAuth [])

/-- SVC_FW_ACTIVATE. In Recovery the image completes with a cold reset, which samples the straps (R418); elsewhere the hand-over
starts. From Bring-up no action may start (R418), and what answers is one of a free choice. -/
def execSvcFwActivate (iss : Issuer) (c : CmdCell) (straps : Straps) (s : State) : Host.Outcome State Fault Refusal :=
  liveMordant s fun s =>
    let t := s.command iss c 0x0605 (· = 0) [] (s.packageWide iss)
      (s.svcBusy ++ status (!s.mgmt.mordant.inactive.staged) stState ++
        (if s.mode = .bringUp then [(stBusy, 0), (stState, 0), (stMode, 0)] else [])) fun s =>
        if s.mode = .recovery then (some [], s.swapSlot.upMode fun g => { g with resetAsked := some true })
        else (some [], s.svcBegin .handover (some iss))
    .next (t.resetGo (some straps))

end Sys2Proof.Machine
end

