-- ==== Sys2Proof/Machine/Cascade.lean ====
section
/-! DEFINITION. Cascades: identities, admission, the shared time base, timeouts, and the cascade commands (chapter 20). -/

namespace Sys2Proof.Machine

/-! ### Forming a cascade (R466, R467) -/

/-- CASCADE_IDENTITY: a link that is up receives its peer's identity. -/
def execCascadeIdentity (link : Fin 3) (i : CascIdentity) (s : State) : Host.Outcome State Fault Refusal :=
  live s fun s =>
    if s.linkActive link.val then .next (s.setCascLink link.val { s.cascLink link.val with identity := some i }) else .next s

/-- What this package sends as its identity: version 2 only, its stepping, and interface 2. MASTER_SEL shows the role, which a hand-off
gives away until the next cold start (R475). -/
def State.ownIdentity (s : State) : CascIdentity :=
  { pkgId := s.mgmt.mode.straps.pkgId, masterSel := s.mgmt.mode.straps.masterSel && !s.mgmt.casc.roleGiven, stepping := 0xA1,
    weldVersions := 4, ifMajor := 2 }

/-- Every identity that this package knows, its own first, each with the link that it came over (3 for its own). -/
def State.identities (s : State) : List (Nat × CascIdentity) :=
  (3, s.ownIdentity) :: (List.range 3).filterMap fun c => ((s.cascLink c).identity.map fun i => (c, i))

/-- The master among identities: the one package with MASTER_SEL = 1. -/
def masterOf (l : List (Nat × CascIdentity)) : Option CascIdentity :=
  match l.filter fun e => e.2.masterSel with
  | [e] => some e.2
  | _ => none

/-- The master admits a candidate: its package index is its own, and it agrees with the master on versions, stepping and
interface (R467). -/
def admits (l : List (Nat × CascIdentity)) (m i : CascIdentity) : Bool :=
  i.masterSel ||
    ((l.filter fun e => e.2.pkgId = i.pkgId).length = 1 && i.weldVersions = m.weldVersions && i.stepping = m.stepping &&
      i.ifMajor = m.ifMajor)

/-- A refusal is a partner fault of the link, or of every link with a peer. -/
def State.strapFault (s : State) (c : Nat) : State := s.logE .partner .casc .strap c

/-- The members that an admission makes: none when no candidate is admitted. -/
def memberBits (l : List CascIdentity) : BitVec 4 :=
  if l.length < 2 then 0 else l.foldl (fun b i => b ||| BitVec.ofNat 4 (2 ^ i.pkgId.val)) 0

/-- A REGID whose E fields the master sends to a candidate, or a hue's class (R466). -/
def isSent (r : Nat) : Bool :=
  r = 0x0100 || r = 0x0200 || r = 0x0300 || 0x0500 ≤ r && r ≤ 0x0507 || 0xF000 ≤ r && r ≤ 0xFFFF

/-- A candidate applies what the master sent: the lot, the class map and the E fields, as its configuration in force. -/
def State.applyMaster (s : State) (lot : BitVec 32) (entries : List (Nat × Word)) : State :=
  let entries := entries.filter fun e => isSent e.1
  let s := s.forEach entries fun s e =>
    if 0xF000 ≤ e.1 then
      s.upConfig fun c => { c with hubClasses := Table.put 0 c.hubClasses (e.1 - 0xF000)
                                                   (BitVec.ofNat 18 ((e.2.toNat % 8) * 0x9249)) }
    else s.setCfg e.1 (blend (s.cfg e.1) e.2 (classMask e.1 .e))
  let s := s.upConfig fun c => { c with lot := lot }
  let s := s.forEach (List.range 12) fun s d => if s.inService d then s.loadDie d else s
  s.journal .commit lot entries

/-- Close the collection: the candidates that R467 does not refuse are admitted, at every package alike. -/
def State.closeAdmission (s : State) (lot : BitVec 32) (entries : List (Nat × Word)) : State :=
  let l := s.identities
  match masterOf l with
  | none => s.forEach (l.filter fun e => e.1 ≠ 3) fun s e => s.strapFault e.1
  | some m =>
    let refused := l.filter fun e => !admits l m e.2
    let s := s.forEach refused fun s e =>
      if e.1 = 3 then s.forEach (l.filter fun x => x.2.masterSel) fun s x => s.strapFault x.1
      else if s.ownIdentity.masterSel then s.strapFault e.1
      else s
    let members := memberBits ((l.filter fun e => admits l m e.2).map Prod.snd)
    if members = 0 || refused.any fun e => e.1 = 3 then s
    else
      let s := if s.ownIdentity.masterSel then s else s.applyMaster lot entries
      (s.upCasc fun c => { c with members := members, lost := 0, master := m.pkgId, masterLost := false, closed := true }).pdrTouch

/-- ADMISSION_CLOSE: the collection closes after step 10, when a peer has identified. -/
def execAdmissionClose (lot : BitVec 32) (entries : List (Nat × Word)) (s : State) : Host.Outcome State Fault Refusal :=
  live s fun s =>
    if s.mode = .bringUp && s.mgmt.mode.start.done.contains .s10 && s.startMode = .cascade && s.mgmt.casc.members = 0 &&
        1 < s.identities.length then
      .next (s.closeAdmission lot entries)
    else .next s

/-! ### The time base (R473) -/

/-- The phase moves against an offset, in nanoseconds, by at most 1 ns. -/
def phaseStep (offset : Int) : Int := if 0 < offset then -1 else if offset < 0 then 1 else 0

/-- TIME_ALIGN: member `p` has measured its offset from the master. -/
def execTimeAlign (p : Fin 4) (offsetNs : Int) (s : State) : Host.Outcome State Fault Refusal :=
  live s fun s =>
    let k := s.mgmt.casc
    if s.scopeMode = .cascade && !k.masterLost && p ≠ k.master && s.pkgPresent p.val then
      let s := s.upCasc fun c => { c with offsets := Table.insert c.offsets p.val offsetNs }
      let s := if p.val = s.pkgIx then s.upCasc fun c => { c with phase := c.phase + phaseStep offsetNs } else s
      let s := if 100 < offsetNs.natAbs then
          s.logE .partner .casc .clock (if p.val = s.pkgIx then s.linkTo k.master.val else s.linkTo p.val)
        else s
      .next (if 1000 < offsetNs.natAbs then s.memberLost p.val else s)
    else .next s

/-! ### Timeouts (R470, R475, R476, R478) -/

/-- PROXY_PROBE_TIMEOUT. -/
def execProxyProbeTimeout (link : Fin 3) (line : Nat) (d : Fin 12) (s : State) : Host.Outcome State Fault Refusal :=
  live s fun s => .next (s.proxyExpire link.val line d)

/-- MASTER_UNREACHABLE: a member whose link to the master is not up, and that no relay serves, treats the master as lost. -/
def execMasterUnreachable (s : State) : Host.Outcome State Fault Refusal :=
  live s fun s =>
    let k := s.mgmt.casc
    if s.scopeMode = .cascade && k.master.val ≠ s.pkgIx && !k.masterLost && !s.linkActive (s.outLink (s.linkTo k.master.val)) then
      .next (s.memberLost k.master.val)
    else .next s

/-- CASC_HANDOFF_TIMEOUT: the old master keeps every duty. -/
def execCascHandoffTimeout (s : State) : Host.Outcome State Fault Refusal :=
  live s fun s =>
    match s.mgmt.service.action with
    | some (.cascHandoff _) => .next (if s.mgmt.service.step = 4 then s.svcEnd stPartner else s)
    | _ => .next s

/-! ### Commands (R383, R464, R475) -/

/-- A link's state in CASC_STATUS. -/
def State.linkCode (s : State) (c : Nat) : Nat :=
  let b := s.cascBundle c
  match b.st with
  | .down => 0
  | .retired => 0
  | .training => 1
  | .active => if b.width = 4 then 3 else 2

/-- CASC_STATUS. -/
def execCascStatus (iss : Issuer) (c : CmdCell) (s : State) : Host.Outcome State Fault Refusal :=
  liveMordant s fun s => .next <| s.command iss c 0x0A00 (· = 0) [] (s.packageWide iss) [] fun s =>
    let k := s.mgmt.casc
    (some [BitVec.ofNat 8 k.members.toNat, BitVec.ofNat 8 k.master.val,
           BitVec.ofNat 8 (s.linkCode 0 + 4 * s.linkCode 1 + 16 * s.linkCode 2)], s)

/-- What CASC_HANDOFF to package `m` answers without beginning. Where the catalogue states no status, each that could say it. -/
def State.handoffFaults (s : State) (m : Nat) : List (Nat × Nat) :=
  let k := s.mgmt.casc
  if s.scopeMode ≠ .cascade then [(stState, 0), (stMode, 0)]
  else if k.masterLost then [(stPartner, 0)]
  else if k.master.val ≠ s.pkgIx then [(stMode, 0)]
  else if 3 < m then [(stRange, 0), (stState, 0)]
  else if m = s.pkgIx || !k.members.getLsbD m then [(stState, 0)]
  else if k.lost.getLsbD m then [(stPartner, 0)]
  else []

/-- CASC_HANDOFF. -/
def execCascHandoff (iss : Issuer) (c : CmdCell) (s : State) : Host.Outcome State Fault Refusal :=
  liveMordant s fun s =>
    let m := CmdCell.at_ c 0 1
    .next <| s.command iss c 0x0A01 (· = 1) [] (s.packageWide iss) (s.svcBusy ++ s.handoffFaults m) fun s =>
      (some [], s.svcBegin (.cascHandoff (Fin.ofNat 4 m)) (some iss))

end Sys2Proof.Machine
end

