-- ==== Sys2Proof/Machine/Cxl.lean ====
section
/-! DEFINITION. CXL memory and CXL.cache devices (chapter 14). -/

namespace Sys2Proof.Machine

/-! ### CXL memory (R355, R363, R367) -/

/-- The root port that a line of CXL memory lies behind: by the decoders of the partition that the request's hue names, or of
the lowest bridge that maps it. -/
def State.cxlPort (s : State) (r : MemReq) : Option Nat :=
  let o := r.line * 64 % 2 ^ 50
  match s.partOfHue r.hue.toNat with
  | some p => s.hdmTarget p o
  | none => (List.range 12).findSome? fun b => if s.bridgePresent b then s.hdmTarget b o else none

/-- A request waits for CXL memory behind a port. -/
def State.cxlWaits (s : State) (r : MemReq) : Option Nat :=
  if s.mem.reqs.contains r && s.region none (r.line * 64) ≠ .hbm then s.cxlPort r else none

/-- Two records of one request. A merge under way (R248) may since have changed its bytes. -/
def sameReq (a b : MemReq) : Bool := a.client = b.client && a.line = b.line && a.write = b.write

/-- The turn passes on until it is with a class that has a request waiting and lines left; a class that its turn comes to
may be served as many lines as its weight (R271). -/
def CxlPort.turnTo (share : Nat → Nat) (has : Nat → Bool) : Nat → CxlPort → CxlPort
  | 0, x => x
  | n + 1, x =>
    if has x.turn && x.left ≠ 0 then x
    else CxlPort.turnTo share has n { x with turn := (x.turn + 1) % 8, left := share ((x.turn + 1) % 8) }

/-- Serve the waiting requests by deficit round robin until a given one is served (R271). -/
def CxlPort.serve (share : Nat → Nat) (r : MemReq) : Nat → CxlPort → List MemReq → CxlPort
  | 0, x, _ => x
  | n + 1, x, ws =>
    if x.served.any (sameReq r) then x
    else
      let x := x.turnTo share (fun c => ws.any fun q => q.cls.toNat = c) 9
      match ws.find? fun q => q.cls.toNat = x.turn with
      | none => x
      | some q => CxlPort.serve share r n { x with left := x.left - 1, served := x.served ++ [q] } (ws.erase q)

/-- The requests that wait at the CXL memory port of a group, oldest first, those served among them. -/
def State.cxlQueue (s : State) (g : Nat) : List MemReq :=
  s.mem.reqs.filter fun q =>
    match s.cxlWaits q with
    | some p => p / 4 = g
    | none => false

/-- The group's port, one for its four root ports (DESIGN CHOICE, log entry 122), has served a request, to which a device answers or
whose time is over: every request that its class's share puts before it has been served too (R271). -/
def State.cxlServed (s : State) (port : Nat) (r : MemReq) : State :=
  let g := port / 4
  let queue := s.cxlQueue g
  let x := s.cxlMem g
  let x := { x with served := x.served.filter fun q => queue.any (sameReq q) }
  let ws := queue.filter fun q => !x.served.any (sameReq q)
  s.setCxlMem g (x.serve s.cxlShare r (ws.length + 1) ws)

/-- The request has its answer. -/
def State.cxlAnswer (s : State) (port : Nat) (r : MemReq) (d : Bytes × Bool) : State :=
  let s := s.cxlServed port r
  let x := s.cxlMem (port / 4)
  let s := s.setCxlMem (port / 4) { x with served := x.served.filter fun q => !sameReq r q }
  let s := s.upMem fun m => { m with reqs := m.reqs.erase r }
  let g := groupUnit port
  let s := s.charge r.hue (if r.write then 5 else 4) 64 (s.partOfPort port)
  (s.uncount g (if r.write then 0x04 else 0x03) 1 r.hue r.cls).memAnswer r d

/-- CXL_MEM_RESPONSE. Poisoned data has unpredictable bytes (R355). -/
def execCxlMemResponse (r : MemReq) (data : Bytes) (poison : Bool) (s : State) : Host.Outcome State Fault Refusal :=
  live s fun s =>
    match s.cxlWaits r with
    | none => .next s
    | some p =>
      if (s.rootPort p).link ≠ .up then .next s
      else if r.write then .next (s.cxlAnswer p r ([], false))
      else if poison then
        let (b, s) := (s.portError p .cxl .poisonConsumed ((s.rootPort p).buses.1 * 256) (some .poisoned) r.hue
          (r.line * 64)).takeBytes 64
        .next (s.cxlAnswer p r (b, true))
      else .next (s.cxlAnswer p r (padTo 64 data, false))

/-- CXL_MEM_READ_TIMEOUT: poisoned data to the home; the third within a second fences the port. -/
def execCxlMemReadTimeout (r : MemReq) (s : State) : Host.Outcome State Fault Refusal :=
  live s fun s =>
    match s.cxlWaits r with
    | none => .next s
    | some p =>
      let q := s.rootPort p
      let times := (q.memTimeouts.filter fun t => s.now.toNat < t.toNat + 100000000) ++ [s.now]
      let s := s.setRootPort p { q with memTimeouts := times }
      let (b, s) := s.takeBytes 64
      let s := s.cxlAnswer p r (b, true)
      .next (if 3 ≤ times.length then s.fencePort p .timeout r.line r.hue
        else s.portError p .cxl .timeout (q.buses.1 * 256) none r.hue (r.line * 64))

/-- CXL_VIRAL (R367): the port is fenced, and logged as R508 gives it. What the device's lines come to is settled as the homes ask for
them (R173, R366). -/
def execCxlViral (port : Fin 32) (s : State) : Host.Outcome State Fault Refusal :=
  live s fun s =>
    let p := s.rootPort port.val
    if p.link = .up && p.cxl then
      .next ((s.setRootPort port.val { p with viral := true }).fencePort port.val .fenced)
    else .next s

/-! ### CXL.cache (R364, R365) -/

/-- RDSHARED. -/
def execRdshared (port : Fin 32) (line : Nat) (s : State) : Host.Outcome State Fault Refusal :=
  live s fun s => .next (s.cacheArrive port line .rdShared none)

/-- RDOWN. -/
def execRdown (port : Fin 32) (line : Nat) (s : State) : Host.Outcome State Fault Refusal :=
  live s fun s => .next (s.cacheArrive port line .rdOwn none)

/-- RDCURR. -/
def execRdcurr (port : Fin 32) (line : Nat) (s : State) : Host.Outcome State Fault Refusal :=
  live s fun s => .next (s.cacheArrive port line .rdCurr none)

/-- DIRTYEVICT. -/
def execDirtyevict (port : Fin 32) (line : Nat) (data : Bytes) (s : State) : Host.Outcome State Fault Refusal :=
  live s fun s => .next (s.cacheArrive port line .dirtyEvict (some (padTo 64 data)))

/-- CLEANEVICT. -/
def execCleanevict (port : Fin 32) (line : Nat) (s : State) : Host.Outcome State Fault Refusal :=
  live s fun s => .next (s.cacheArrive port line .cleanEvict none)

/-- ITOMWR. -/
def execItomwr (port : Fin 32) (line : Nat) (data : Bytes) (s : State) : Host.Outcome State Fault Refusal :=
  live s fun s => .next (s.cacheArrive port line .itoMWr (some (padTo 64 data)))

/-- CLFLUSH. -/
def execClflush (port : Fin 32) (line : Nat) (s : State) : Host.Outcome State Fault Refusal :=
  live s fun s => .next (s.cacheArrive port line .clFlush none)

/-- SNOOP_RESPONSE. -/
def execSnoopResponse (port : Fin 32) (line : Nat) (dirty : Option Bytes) (s : State) : Host.Outcome State Fault Refusal :=
  live s fun s => .next (s.snoopAnswer port line (dirty.map (padTo 64)))

/-- CXL_WRITEBACK_TIMEOUT: the device is fenced, and the set recovery goes on without it (R365). -/
def execCxlWritebackTimeout (port : Fin 32) (s : State) : Host.Outcome State Fault Refusal :=
  live s fun s =>
    let waits := (List.range 32).any fun k => (s.home k).recov.any fun r => r.cxlWait
    let holds := s.hub.filter.any fun e => e.2.any fun f => f.holders.getLsbD port.val
    if waits && holds then
      let s := s.fencePort port.val .timeout
      .next ((s.forEach (s.hub.filter.map Prod.fst) fun s l => s.dropFilter l port.val).cxlSettle)
    else .next s

end Sys2Proof.Machine
end

