-- ==== Sys2Proof/Machine/Iommu.lean ====
section
/-! DEFINITION. The register set of an IOMMU instance (R352). Its layout is that of the RISC-V IOMMU Architecture Specification 1.0:
PRESUMED, log entry 36. Commands of its queue are consumed at once, since this model holds no copy of a translation of an IOMMU. -/

namespace Sys2Proof.Machine

/-- The capabilities that R352 lists. -/
def iommuCaps : Word :=
  ([9, 10, 11, 17, 18, 19, 22, 25, 38, 39, 40].foldl (fun m i => m ||| BitVec.ofNat 64 (2 ^ i)) (0x10 : Word)) |||
    BitVec.ofNat 64 (52 * 2 ^ 32)

/-- The register at an offset, a multiple of 8. -/
def Iommu.read (m : Iommu) (off : Nat) : Word := if off = 0 then iommuCaps else Table.get 0 m.regs off

/-- The entries of a queue, less one, from its base register. -/
def Iommu.queueMask (m : Iommu) (base : Nat) : Nat := 2 ^ (fld (Table.get 0 m.regs base) 0 5 + 1) - 1

/-- A control and status half at bit `lo`: enable and interrupt enable are written, status bits cleared by ones, and the queue is on
while it is enabled. -/
def queueCsr (old v mask : Word) (lo w1c : Nat) : Word :=
  let x := blend old v (mask &&& maskOf lo 2)
  let x := x &&& ~~~ (v &&& mask &&& BitVec.ofNat 64 (w1c * 2 ^ lo))
  putFld x (lo + 16) 1 (fld x lo 1)

def Iommu.put (m : Iommu) (off : Nat) (v : Word) : Iommu := { m with regs := Table.put 0 m.regs off v }

/-- A write at an offset, a multiple of 8. -/
def Iommu.write (m : Iommu) (off : Nat) (v mask : Word) : Iommu :=
  let old := Table.get 0 m.regs off
  let some_ (w : Word) : Word := blend old v (mask &&& w)
  let csr := Table.get 0 m.regs 0x48
  if off = 0x10 then
    let w := some_ 0x3FFFFFFFFFFC0F
    m.put off (if 4 < fld w 0 4 then putFld w 0 4 (fld old 0 4) else w)
  else if off = 0x18 || off = 0x28 || off = 0x38 then m.put off (some_ 0x3FFFFFFFFFFC1F)
  else if off = 0x20 then
    let w := some_ (BitVec.ofNat 64 (m.queueMask 0x18 % 2 ^ 32 * 2 ^ 32))
    m.put off (if bit csr 16 then putFld w 0 32 (fld w 32 32) else w)
  else if off = 0x30 || off = 0x40 then m.put off (some_ (BitVec.ofNat 64 (m.queueMask (off - 8) % 2 ^ 32)))
  else if off = 0x48 then
    let w := queueCsr (queueCsr old v mask 0 0xF00) v mask 32 0x300
    let m := if !bit old 0 && bit w 0 then m.put 0x20 (putFld (Table.get 0 m.regs 0x20) 0 32 0) else m
    let m := if !bit old 32 && bit w 32 then m.put 0x30 (putFld (Table.get 0 m.regs 0x30) 32 32 0) else m
    m.put off w
  else if off = 0x50 then
    let w := queueCsr old v mask 0 0x300 &&& ~~~ (v &&& mask &&& 0xF00000000)
    let m := if !bit old 0 && bit w 0 then m.put 0x40 (putFld (Table.get 0 m.regs 0x40) 32 32 0) else m
    m.put off w
  else if off = 0x2F8 then m.put off (some_ 0xFFFF)
  else if 0x300 ≤ off && off < 0x400 then
    m.put off (some_ (if off % 16 = 0 then 0xFFFFFFFFFFFFFC else 0x1FFFFFFFF))
  else m

/-- The instance whose register page holds an offset of the window, as a partition sees it: its ports' instances, and that of the
integrated endpoints. -/
def State.iommuAt (s : State) (part : Option Nat) (off : Nat) : Option Nat :=
  let r := off / 0x1000
  if r < 32 && (part.isNone || s.partOfPort r = part) || r = 32 then some r else none

end Sys2Proof.Machine
end

