-- ==== Sys2Proof/Machine/PciConfig.lean ====
section
/-! DEFINITION. Configuration space (R343 to R349): the functions of bus 0, and requests that go to a device. Which offsets the capabilities
of a root port stand at is a DESIGN CHOICE, log entry 37. -/

namespace Sys2Proof.Machine

/-! ### Registers of a root port -/

/-- The stored bits of a root port's registers, each at an offset that is a multiple of 4. -/
def portMask (off : Nat) : BitVec 32 :=
  if off = 0x04 then 0x547
  else if off = 0x18 then 0x00FFFFFF
  else if off = 0x20 || off = 0x24 then 0xFFF0FFF0
  else if off = 0x28 || off = 0x2C then 0xFFFFFFFF
  else if off = 0x3C then 0x007F00FF
  else if off = 0x48 || off = 0x50 || off = 0x5C then 0x0000FFFF
  else if off = 0x108 || off = 0x10C then 0xFFFFFFFF
  else if off = 0x164 then 0x00FF0000
  else 0

/-- Slot Capabilities: HP_CAPS and SLOT_NUM copied, of a port with a slot (R348). -/
def State.slotCaps (s : State) (r : Nat) : BitVec 32 :=
  let c := s.cfg (0x0900 + r)
  if bit c 33 then
    BitVec.ofNat 32 ((List.range 7).foldl (fun a i => a + bitOf (bit c (32 - i)) * 2 ^ i) (fld c 39 13 * 2 ^ 19))
  else 0

/-- A register of a root port. -/
def State.portRead (s : State) (r off : Nat) : BitVec 32 :=
  let p := s.rootPort r
  let st := Table.get 0 p.config off
  if off = 0x54 then s.slotCaps r
  else if off = 0x58 then (p.slotSts ++ p.slotCtl).setWidth 32
  else if off = 0x68 then p.devCtl2.zeroExtend 32
  else if off = 0x104 then p.aer
  else if off = 0x144 then (p.acs ++ (0x3F : BitVec 16)).setWidth 32
  else if off = 0x168 then BitVec.ofNat 32 (bitOf (p.link = .contained))
  else if portMask off ≠ 0 then st
  else Config.pciReadOnly r off

/-- A register written, with the bits of a mask. -/
def State.portWrite (s : State) (r off : Nat) (v mask : BitVec 32) : State :=
  let p := s.rootPort r
  let mix (old m : BitVec 32) : BitVec 32 := (old &&& ~~~ m) ||| (v &&& m)
  let half (old : BitVec 16) (lo : Nat) : BitVec 16 :=
    (old &&& ~~~ mask.extractLsb' lo 16) ||| (v.extractLsb' lo 16 &&& mask.extractLsb' lo 16)
  if off = 0x58 then
    let s := if s.slotEn r && mask.extractLsb' 0 16 ≠ 0 then s.slotWrite r (half p.slotCtl 0) else s
    let q := s.rootPort r
    s.setRootPort r { q with slotSts := q.slotSts &&& ~~~ ((v &&& mask).extractLsb' 16 16 &&& 0x11F) }
  else if off = 0x68 then s.setRootPort r { p with devCtl2 := half p.devCtl2 0 }
  else if off = 0x104 then s.setRootPort r { p with aer := p.aer &&& ~~~ (v &&& mask) }
  else if off = 0x144 then s.setRootPort r { p with acs := half p.acs 16 &&& 0x3F }
  else if off = 0x164 then
    let w := mix (Table.get 0 p.config off) (mask &&& portMask off)
    s.setRootPort r { p with config := Table.put 0 p.config off w, dpcEnabled := w.extractLsb' 16 2 ≠ 0 }
  else if off = 0x168 then
    if (v &&& mask).getLsbD 0 && p.link = .contained then (s.setRootPort r { p with link := .down }).pdrTouch else s
  else
    s.setRootPort r { p with config := Table.put 0 p.config off (mix (Table.get 0 p.config off) (mask &&& portMask off)) }

/-! ### Bus 0 (R343, R344) -/

/-- Root ports that a viewer's ECAM shows. -/
def State.portSeen (s : State) (part : Option Nat) (r : Nat) : Bool := s.isPort r && (part.isNone || s.partOfPort r = part)

/-- The root port at a device and function of bus 0. A partition without the port at position 0 of a group has the lowest one that it
owns there in its place. -/
def State.portAtFn (s : State) (part : Option Nat) (dev fn : Nat) : Option Nat :=
  let mine := ((List.range 4).map (4 * dev + ·)).filter fun r => s.portSeen part r
  if 7 < dev || 3 < fn then none
  else match mine with
    | [] => none
    | r :: _ =>
      if fn = 0 then some r
      else if 4 * dev + fn ≠ r && mine.contains (4 * dev + fn) then some (4 * dev + fn)
      else none

/-- Read 4 bytes of bus 0: all ones where there is no function. -/
def State.bus0Read (s : State) (part : Option Nat) (dev fn off : Nat) : BitVec 32 :=
  match s.portAtFn part dev fn with
  | some r => s.portRead r off
  | none => if 16 ≤ dev && dev ≤ 18 && fn = 0 then Config.pciReadOnly (dev * 8) off else BitVec.allOnes 32

/-- Write bits of 4 bytes of bus 0. -/
def State.bus0Write (s : State) (part : Option Nat) (dev fn off : Nat) (v mask : BitVec 32) : State :=
  match s.portAtFn part dev fn with
  | some r => s.portWrite r off v mask
  | none => s

/-- A store of 4 or 8 bytes at an offset of bus 0. -/
def State.bus0Store (s : State) (part : Option Nat) (off size : Nat) (v : Word) : State :=
  let dev := off / 2 ^ 15 % 32
  let fn := off / 2 ^ 12 % 8
  let reg := off % 4096 / 4 * 4
  let s := s.bus0Write part dev fn reg (v.extractLsb' 0 32) (BitVec.allOnes 32)
  if size = 8 then s.bus0Write part dev fn (reg + 4) (v.extractLsb' 32 32) (BitVec.allOnes 32) else s

/-! ### Requests to devices (R349, R350) -/

/-- Answer a hart. -/
def State.ioSay (s : State) (h : HartId) (a : IoAnswer) : State := s.upFab fun f => { f with ioAnswers := f.ioAnswers ++ [(h, a)] }

/-- The root port below which a bus lies, as a viewer's ECAM shows it. -/
def State.portOfBus (s : State) (part : Option Nat) (bus : Nat) : Option Nat :=
  (List.range 32).find? fun r => s.portSeen part r && (s.rootPort r).buses.1 ≤ bus && bus ≤ (s.rootPort r).buses.2 && bus ≠ 0

/-- A non-posted request goes to a port's device, or waits for a tag; a port whose link is not up answers in its stead. -/
def State.portAsk (s : State) (r : Nat) (q : PortReq) : State :=
  let p := s.rootPort r
  if p.link = .up then (s.setRootPort r { p with waiting := p.waiting ++ [q] }).portNext r else s.portFail r q .unsupported .ur

/-- A memory write of a hart: posted, and acknowledged when the port has queued it. -/
def State.portPost (s : State) (r : Nat) (q : PortReq) : State :=
  let p := s.rootPort r
  if p.link = .up then
    (s.setRootPort r { p with postedWrites := p.postedWrites ++ [(q.pa, leBytes q.size q.value.toNat)] }).ioSay q.hart .ack
  else s.portFail r q .unsupported .ur

/-- An access of a hart to ECAM at an offset of the window. -/
def State.ecam (s : State) (part : Option Nat) (off : Nat) (q : PortReq) : State :=
  let bus := off / 2 ^ 20
  let dev := off / 2 ^ 15 % 32
  let fn := off / 2 ^ 12 % 8
  let reg := off % 4096
  if bus = 0 then
    if q.write then
      let s := s.bus0Store part off q.size q.value
      s.ioSay q.hart .ack
    else
      let lo := s.bus0Read part dev fn (reg / 4 * 4)
      let hi := if q.size = 8 then s.bus0Read part dev fn (reg / 4 * 4 + 4) else 0
      s.ioSay q.hart (.data ((hi ++ lo).setWidth 64) false)
  else match s.portOfBus part bus with
    | some r => s.portAsk r q
    | none => s.ioSay q.hart (if q.write then .ack else .data (BitVec.ofNat 64 (2 ^ (8 * q.size) - 1)) false)

/-- An access of a hart to a memory window of PCI Express. An address that no root port's bridge window holds is answered with Error
UNSUPPORTED, since no device answers there (R191): DESIGN CHOICE, log entry 111, where R27 gives no answer. -/
def State.pciMemory (s : State) (q : PortReq) : State :=
  match s.portAt (s.partOfDie q.hart.die.val) (q.pa % 2 ^ 50) with
  | some r => if q.write then s.portPost r q else s.portAsk r q
  | none => s.ioSay q.hart (.error 1)

end Sys2Proof.Machine
end

