-- ==== Sys2Proof/Machine/Uncore.lean ====
section
/-! DEFINITION. The registers of the uncore window (R489 to R493). -/

namespace Sys2Proof.Machine

/-- The unit numbers that have a page, the global page aside (R489). -/
def uncListed (u : Nat) : Bool :=
  u < 12 || 16 ≤ u && u < 28 || 32 ≤ u && u < 68 || 80 ≤ u && u < 121 || 124 ≤ u && u < 127

/-- A unit's page is visible: in Partitioned mode only those of the partition's own dies are (R493). -/
def State.uncSeen (s : State) (part : Option Nat) (u : Nat) : Bool :=
  uncListed u && (match part with
    | none => true
    | some p => u < 12 && s.partOfDie u = some p)

/-- UNC_SETk: the counter takes the value (R491). -/
def State.uncSetWrite (s : State) (part : Option Nat) (u k : Nat) (v mask : Word) : State :=
  if s.uncSeen part u && k < 8 then
    let x := s.uncUnit u
    let old : Word := (Table.get 0 x.ctr k).zeroExtend 64
    s.setUncUnit u { x with ctr := Table.put 0 x.ctr k ((blend old v mask).extractLsb' 0 48) }
  else s

/-- UNC_FREEZE, in the global page, which no partition sees (R492, R493). -/
def State.uncFreezeWrite (s : State) (part : Option Nat) (v mask : Word) : State :=
  if part.isSome || !bit mask 0 then s else s.upMgmt fun m => { m with uncFreeze := bit v 0 }

/-- The writable fields of UNC_CTLk: counter 0 has no CHAIN. -/
def uncCtlMask (k : Nat) : Word := if k = 0 then 0xFFFF800600FF else 0xFFFF800700FF

/-- The register at an offset of the uncore window (R490). -/
def State.uncRead (s : State) (part : Option Nat) (off : Nat) : Word :=
  let u := off / 0x10000
  let o := off % 0x10000
  if u = 255 && o = 0 && part.isNone then BitVec.ofNat 64 (bitOf s.mgmt.uncFreeze)
  else if !s.uncSeen part u then 0
  else if o < 0x40 then (Table.get 0 (s.uncUnit u).ctr (o / 8)).zeroExtend 64
  else if 0x1000 ≤ o && o < 0x1040 then Table.get 0 (s.uncUnit u).ctl ((o - 0x1000) / 8)
  else if o = 0x1080 then (s.uncUnit u).ovf.zeroExtend 64
  else 0

/-- A write at an offset of the uncore window. -/
def State.uncWrite (s : State) (part : Option Nat) (off : Nat) (v mask : Word) : State :=
  let u := off / 0x10000
  let o := off % 0x10000
  if u = 255 && o = 0 then s.uncFreezeWrite part v mask
  else if 0x1040 ≤ o && o < 0x1080 then s.uncSetWrite part u ((o - 0x1040) / 8) v mask
  else if !s.uncSeen part u then s
  else
    let x := s.uncUnit u
    if 0x1000 ≤ o && o < 0x1040 then
      let k := (o - 0x1000) / 8
      s.setUncUnit u { x with ctl := Table.put 0 x.ctl k (blend (Table.get 0 x.ctl k) v (mask &&& uncCtlMask k)) }
    else if o = 0x1080 then s.setUncUnit u { x with ovf := x.ovf &&& ~~~ ((v &&& mask).extractLsb' 0 8) }
    else s

/-- UNC_SET: a hart's store of 8 bytes. -/
def execUncSet (h : HartId) (unit : Nat) (k : Fin 8) (v : Word) (s : State) : Host.Outcome State Fault Refusal :=
  live s fun s => .next (s.uncSetWrite (s.partOfDie h.die.val) unit k.val v (~~~ 0))

/-- UNC_FREEZE. -/
def execUncFreeze (h : HartId) (v : Word) (s : State) : Host.Outcome State Fault Refusal :=
  live s fun s => .next (s.uncFreezeWrite (s.partOfDie h.die.val) v (~~~ 0))

end Sys2Proof.Machine
end

