-- ==== Sys2Proof/Machine/Regs.lean ====
section
/-! DEFINITION. Control space (R11, R13, R29, R30): what every register reads as and does when it is written, and the accesses of harts
that reach it (R183). A register is an image of 64 bits at an offset that is a multiple of 8; a write comes with the mask of the bits that
it writes. -/

namespace Sys2Proof.Machine

/-! ### Mailboxes (R371) -/

/-- A mailbox's page is visible: in Partitioned mode, only that of the partition's own number. -/
def mailSeen (part : Option Nat) (m : Nat) : Bool := match part with
  | some p => p = m
  | none => true

/-- MBX_STAT. -/
def Mailbox.stat (x : Mailbox) : Word :=
  BitVec.ofNat 64 (x.events.length * 2 ^ 8 + bitOf x.badHead * 8 + bitOf x.restarted * 4 + bitOf x.evtLost * 2 + bitOf x.session.isSome)

/-- A register or slot of a mailbox. A slot that nothing has written reads a free value. -/
def State.mbxRead (s : State) (m o : Nat) : Word × State :=
  let x := s.mbx m
  if o = 0x00 then (BitVec.ofNat 64 (2 * 2 ^ 24 + 2 ^ 16 + m), s)
  else if o = 0x08 then (x.cmdTail.zeroExtend 64, s)
  else if o = 0x10 then (x.cmdHead.zeroExtend 64, s)
  else if o = 0x18 then (x.rspTail.zeroExtend 64, s)
  else if o = 0x20 then (x.rspHead.zeroExtend 64, s)
  else if o = 0x28 then (x.stat, s)
  else if o = 0x30 then (BitVec.ofNat 64 (bitOf x.irqEn), s)
  else if 0x400 ≤ o && o < 0x800 then
    let (b, s) := s.slotBytes m ((o - 0x400) / 64)
    (BitVec.ofNat 64 (leAt b (o % 64) 8), s)
  else if 0x800 ≤ o && o < 0xC00 then
    (match Table.find x.rspSlots ((o - 0x800) / 64) with
     | some c => (BitVec.ofNat 64 (leAt (respCellBytes c) (o % 64) 8), s)
     | none => s.takeWord)
  else (0, s)

/-- A store to a command slot. A slot between HEAD and TAIL belongs to Mordant, and a store to it is an undefined case (R372, R509). -/
def State.slotStore (s : State) (m i off : Nat) (v mask : Word) : Host.Outcome State Fault Refusal :=
  let x := s.mbx m
  let owned := (List.range (x.cmdTail - x.cmdHead).toNat).any fun k => (x.cmdHead.toNat + k) % 16 = i
  if owned then .fault .slotBusy
  else
    let (b, s) := s.slotBytes m i
    let w := blend (BitVec.ofNat 64 (leAt b off 8)) v mask
    let x := s.mbx m
    .next (s.setMbx m { x with cmdSlots := Table.insert x.cmdSlots i (splice b off (leBytes 8 w.toNat)) })

/-- A write at an offset of a mailbox's page. -/
def State.mbxWrite (s : State) (m o : Nat) (v mask : Word) : Host.Outcome State Fault Refusal :=
  let x := s.mbx m
  let w := v &&& mask
  if o = 0x08 then (if bit mask 0 then s.mbxTail m (v.extractLsb' 0 16) else .next s)
  else if o = 0x20 then .next (if bit mask 0 then s.mbxHead m (v.extractLsb' 0 16) else s)
  else if o = 0x28 then
    .next (s.setMbx m { x with badHead := x.badHead && !bit w 3, restarted := x.restarted && !bit w 2,
                               evtLost := x.evtLost && !bit w 1 })
  else if o = 0x30 then .next (if bit mask 0 then s.setMbx m { x with irqEn := bit v 0 } else s)
  else if 0x400 ≤ o && o < 0x800 then s.slotStore m ((o - 0x400) / 64) (o % 64) v mask
  else .next s

/-! ### The written map (R245, R246, R251, R254) -/

/-- Granules that are written, of the whole package or of a partition. -/
def State.written (s : State) (part : Option Nat) : Nat :=
  (s.mem.granules.filter fun e => match part with
    | none => true
    | some p => bit (s.cfg (0x1220 + p)) (e.1 / 2 ^ 20)).length

/-- A register of the window. -/
def State.wmapRead (s : State) (part : Option Nat) (hue : BitVec 12) (off : Nat) : Word :=
  let q := off / 0x1000
  let o := off % 0x1000
  let f := s.forget q
  let w := s.mem.window
  if q < 16 then
    (if !queueSeen part q then 0
     else if o = 0x10 then f.tail.zeroExtend 64
     else if o = 0x18 then f.head.zeroExtend 64
     else if o = 0x20 then f.last
     else if o = 0x28 then f.msiAddr
     else if o = 0x30 then f.msiData
     else if o = 0x38 then BitVec.ofNat 64 (bitOf f.overflow)
     else 0)
  else if off = 0x10000 then BitVec.ofNat 64 (s.written part)
  else if q = 0x20 && part.isNone && w.armed && hue = 0 then
    (if o = 0 then BitVec.ofNat 64 (w.result.toNat * 2 ^ 16 + bitOf w.busy * 2 ^ 8 + 1)
     else if o = 8 then w.addr
     else if 0x40 ≤ o && o < 0x80 then BitVec.ofNat 64 (leAt (padTo 64 w.data) (o - 0x40) 8)
     else if o = 0x80 then w.check
     else 0)
  else 0

/-- A write of the test window. -/
def State.testWrite (s : State) (o : Nat) (hue : BitVec 12) (v mask : Word) : State :=
  let w := s.mem.window
  if o = 0 then
    (if !bit mask 0 || !s.rawReady hue then s
     else if fld v 1 2 = 1 then s.readRawCmd []
     else if fld v 1 2 = 2 then s.writeRawCmd
     else s)
  else if o = 8 then s.setWindow { w with addr := blend w.addr v (mask &&& 0xFFFFFFFFFFFC0) }
  else if 0x40 ≤ o && o < 0x80 then
    let d := padTo 64 w.data
    s.setWindow { w with data := splice d (o - 0x40) (leBytes 8 (blend (BitVec.ofNat 64 (leAt d (o - 0x40) 8)) v mask).toNat) }
  else if o = 0x80 then s.setWindow { w with check := blend w.check v mask }
  else s

/-- A write at an offset of the window. -/
def State.wmapWrite (s : State) (part : Option Nat) (hue : BitVec 12) (off : Nat) (v mask : Word) : State :=
  let q := off / 0x1000
  let o := off % 0x1000
  let f := s.forget q
  if q < 16 then
    (if !queueSeen part q then s
     else if o = 0x00 then s.setForget q { f with entry0 := blend f.entry0 v mask }
     else if o = 0x08 then s.entry1Write q v mask
     else if o = 0x28 then s.setForget q { f with msiAddr := blend f.msiAddr v mask }
     else if o = 0x30 then s.setForget q { f with msiData := blend f.msiData v (mask &&& 0xFFFFFFFF) }
     else if o = 0x38 then s.setForget q { f with overflow := f.overflow && !bit (v &&& mask) 0 }
     else s)
  else if q = 0x20 && part.isNone && s.mem.window.armed && hue = 0 then s.testWrite o hue v mask
  else s

/-! ### The live meter window (R291) -/

/-- Counter `n` of hue `h`: zero for a hue that is FREE or BOUND, or of another partition. -/
def State.meterRead (s : State) (part : Option Nat) (off : Nat) : Word :=
  let h := off / 0x80
  let n := off % 0x80 / 8
  if 4096 ≤ h then 0
  else if h = 0 then Table.get 0 (s.meter (hostMeter part)).counters n
  else
    let mine := match part with
      | some p => s.partOfHue h = some p
      | none => true
    let life := s.hueLife (BitVec.ofNat 12 h)
    if mine && life ≠ .free && life ≠ .bound then Table.get 0 (s.meter h).counters n else 0

/-! ### Slice portals (R309) -/

/-- A portal is visible: in Partitioned mode, those of the partition's block. -/
def State.portalSeen (s : State) (part : Option Nat) (k : Nat) : Bool := part.isNone || s.partOfHue k = part

/-- A register of a portal. -/
def State.portalRead (s : State) (k o : Nat) : Word :=
  let x := s.slice k
  if x.st = .unbound then 0
  else if o = 0x40 then x.credits.zeroExtend 64
  else if o = 0x48 then x.head.zeroExtend 64
  else if o = 0x50 then x.tail.zeroExtend 64
  else if o = 0x58 then
    BitVec.ofNat 64 (x.nextSeq.toNat * 2 ^ 48 + x.qresets.toNat * 2 ^ 40 +
      (x.jobs.filter fun j => j.running.isSome).length * 2 ^ 32 + bitOf x.badHead * 8 + bitOf x.overrun * 4 +
      (if x.st = .qreset then 2 else 1))
  else 0

/-- A write of a portal. A store of bytes 4 to 7 of SLC_DESC7 enqueues. -/
def State.portalWrite (s : State) (k o : Nat) (v mask : Word) : State :=
  let x := s.slice k
  if x.st = .unbound then s
  else if o < 0x40 then
    (if mask = ~~~ 0 then s.stage k o 8 v
     else if bit mask 0 then s.stage k o 4 v
     else s.stage k (o + 4) 4 (v >>> 32))
  else if o = 0x48 then (if bit mask 0 then s.releaseTo k (v.extractLsb' 0 16) else s)
  else if o = 0x58 then
    s.setSlice k { x with badHead := x.badHead && !bit (v &&& mask) 3, overrun := x.overrun && !bit (v &&& mask) 2 }
  else if o = 0x60 then (if bit (v &&& mask) 0 then s.abortJobs k 1 else s)
  else s

/-! ### The APLIC and the machine timer (R273, R274) -/

/-- The APLIC register of 4 bytes at an offset of the window. -/
def State.aplicRead (s : State) (part : Option Nat) (off : Nat) : Nat :=
  let k := domainBase part
  if off < 0x4000 then (s.aplic k).read false off
  else if 0x8000 ≤ off && off < 0xC000 then (s.aplic (k + 1)).read true (off - 0x8000)
  else 0

/-- The hart whose mtimecmp stands at an offset of the window, if the viewer sees it. -/
def State.timerHart (s : State) (part : Option Nat) (off : Nat) : Option Nat :=
  let i := (off - 0x1000000) / 8
  if 0x1000000 ≤ off && isHartIx i && (part.isNone || s.partOfDie (i / 64) = part) then some i else none

/-- A register of the window. -/
def State.timerRead (s : State) (part : Option Nat) (off : Nat) : Word :=
  if off = 0x1007FF8 then s.now
  else match s.timerHart part off with
    | some i => (s.hart i).mtimecmp
    | none => BitVec.ofNat 64 (s.aplicRead part off + s.aplicRead part (off + 4) * 2 ^ 32)

/-- A write at an offset of the window. The machine timer interrupt is pending while the time has reached mtimecmp. -/
def State.timerWrite (s : State) (part : Option Nat) (off : Nat) (v mask : Word) : State :=
  match s.timerHart part off with
  | some i =>
    let x := s.hart i
    let t := blend x.mtimecmp v mask
    s.setHart i ({ x with mtimecmp := t }.csrBit 0x344 7 (t.toNat ≤ s.now.toNat)).wake
  | none =>
    let word (s : State) (o lo : Nat) : State :=
      if !bit mask lo then s
      else if o < 0x4000 then s.aplicWrite part false o (fld v lo 32)
      else if 0x8000 ≤ o && o < 0xC000 then s.aplicWrite part true (o - 0x8000) (fld v lo 32)
      else s
    word (word s off 0) (off + 4) 32

/-! ### The map of control space (R29) -/

/-- What the 8 bytes at an offset read as; configuration space and the IMSIC window aside, which read as their own functions say. -/
def State.regRead (s : State) (part : Option Nat) (hue : BitVec 12) (off : Nat) : Word × State :=
  if off < 0x100000 then (BitVec.ofNat 64 (leNat (s.pdrRead part off 8)), s)
  else if off < 0x110000 then
    (if mailSeen part (off / 0x1000 % 16) then s.mbxRead (off / 0x1000 % 16) (off % 0x1000) else (0, s))
  else if 0x200000 ≤ off && off < 0x300000 then (s.wmapRead part hue (off - 0x200000), s)
  else if 0x300000 ≤ off && off < 0x380000 then (s.meterRead part (off - 0x300000), s)
  else if 0x1000000 ≤ off && off < 0x2000000 then (s.uncRead part (off - 0x1000000), s)
  else if 0x2000000 ≤ off && off < 0x4000000 then
    (match s.iommuAt part (off - 0x2000000) with
     | some r => ((s.iommu r).read (off % 0x1000), s)
     | none => (0, s))
  else if 0x8000000 ≤ off && off < 0xA000000 then (s.timerRead part (off - 0x8000000), s)
  else if 0xA000000 ≤ off && off < 0xB000000 then
    (if s.portalSeen part ((off - 0xA000000) / 0x1000) then s.portalRead ((off - 0xA000000) / 0x1000) (off % 0x1000) else 0, s)
  else (0, s)

/-- A write to the 8 bytes at an offset; of the windows that only read, and of unassigned offsets, it is ignored. -/
def State.regWrite (s : State) (part : Option Nat) (hue : BitVec 12) (off : Nat) (v mask : Word) : Host.Outcome State Fault Refusal :=
  if off < 0x100000 then .next s
  else if off < 0x110000 then
    (if mailSeen part (off / 0x1000 % 16) then s.mbxWrite (off / 0x1000 % 16) (off % 0x1000) v mask else .next s)
  else if 0x200000 ≤ off && off < 0x300000 then .next (s.wmapWrite part hue (off - 0x200000) v mask)
  else if 0x1000000 ≤ off && off < 0x2000000 then .next (s.uncWrite part (off - 0x1000000) v mask)
  else if 0x2000000 ≤ off && off < 0x4000000 then
    (match s.iommuAt part (off - 0x2000000) with
     | some r => .next (s.setIommu r ((s.iommu r).write (off % 0x1000) v mask))
     | none => .next s)
  else if 0x8000000 ≤ off && off < 0xA000000 then .next (s.timerWrite part (off - 0x8000000) v mask)
  else if 0xA000000 ≤ off && off < 0xB000000 then
    .next (if s.portalSeen part ((off - 0xA000000) / 0x1000) then
        s.portalWrite ((off - 0xA000000) / 0x1000) (off % 0x1000) v mask
      else s)
  else .next s

/-- A store of 4 or 8 bytes at an offset of control space by an agent of a partition, or of the package. -/
def State.controlStore (s : State) (part : Option Nat) (hue : BitVec 12) (off size : Nat) (v : Word) :
    Host.Outcome State Fault Refusal :=
  let lo := if size = 4 && off % 8 = 4 then 32 else 0
  let mask : Word := if size = 8 then ~~~ 0 else maskOf lo 32
  if 0x4000000 ≤ off && off < 0x8000000 then
    (match s.filePage part (0x40000000 + s.pkgIx * 2 ^ 50 + off) with
     | some key => .next (s.fileWrite key (off % 4096) size v hue)
     | none => .next s)
  else s.regWrite part hue (off / 8 * 8) (v <<< lo) mask

/-! ### The commands -/

/-- The client's hart and partition. -/
def ioHart (m : IoMsg) : Option HartId := match m.client with
  | .hart h => some h
  | .mordant => none

/-- Answer whoever made an access. -/
def State.ioTell (s : State) (m : IoMsg) (a : IoAnswer) : State := match ioHart m with
  | some h => s.ioSay h a
  | none => s.upFab fun f => { f with mordantIo := some a }

/-- A register of control space answers accesses of 4 and 8 bytes (R30). -/
def ioSized (m : IoMsg) : Bool := m.size = 4 || m.size = 8

/-- The access is to the configuration space of PCI Express. -/
def inEcam (off : Nat) : Bool := 0x10000000 ≤ off && off < 0x20000000

/-- A hart's access as a request that a root port may take on. -/
def portReq (m : IoMsg) (h : HartId) (write : Bool) : PortReq :=
  { hart := h, pa := m.pa, size := m.size, write := write, value := m.value }

/-- IORD: the target answers with the data. A target in another package answers a free value, since that package's state is its own. -/
def execIord (m : IoMsg) (s : State) : Host.Outcome State Fault Refusal :=
  live s fun s =>
    let s := s.upFab fun f => { f with ioReqs := f.ioReqs.erase (false, m) }
    let part := (ioHart m).bind fun h => s.partOfDie h.die.val
    if m.pa / 2 ^ 50 ≠ s.pkgIx then
      let (v, s) := s.takeWord
      .next (s.ioTell m (.data (BitVec.ofNat 64 (fld v 0 (8 * m.size))) false))
    else match s.region part m.pa, ioHart m with
      | .control off, h =>
        if !ioSized m then .next (s.ioTell m (.error 1))
        else if inEcam off then
          (match h with
           | some h => .next (s.ecam part (off - 0x10000000) (portReq m h false))
           | none => .next (s.ioTell m (.error 1)))
        else
          let (v, s) := s.regRead part m.hue (off / 8 * 8)
          .next (s.ioTell m (.data (BitVec.ofNat 64 (fld v (8 * (off % 8)) (8 * m.size))) false))
      | .pcie, some h => .next (s.pciMemory (portReq m h false))
      | _, _ => .next (s.ioTell m (.error 1))

/-- IOWR: the target accepts the bytes, and acknowledges them. -/
def execIowr (m : IoMsg) (s : State) : Host.Outcome State Fault Refusal :=
  live s fun s =>
    let s := s.upFab fun f => { f with ioReqs := f.ioReqs.erase (true, m) }
    let part := (ioHart m).bind fun h => s.partOfDie h.die.val
    if m.pa / 2 ^ 50 ≠ s.pkgIx then .next (s.ioTell m .ack)
    else match s.region part m.pa, ioHart m with
      | .control off, h =>
        if !ioSized m then .next (s.ioTell m (.error 1))
        else if inEcam off then
          (match h with
           | some h => .next (s.ecam part (off - 0x10000000) (portReq m h true))
           | none => .next (s.ioTell m (.error 1)))
        else
          (match s.controlStore part m.hue off m.size m.value with
           | .next s => .next (s.ioTell m .ack)
           | o => o)
      | .pcie, some h => .next (s.pciMemory (portReq m h true))
      | _, _ => .next (s.ioTell m (.error 1))

/-- The windows of control space that a store may not name (R30). -/
def readOnlyWindow (off : Nat) : Bool := off < 0x100000 || 0x300000 ≤ off && off < 0x380000 || 0x30000000 ≤ off

/-- REGISTER_WRITE: to a CSR; or to a register of control space, which the write reaches as soon as it is made, from a virtual address
that is the register's own. One that is not aligned, not of 4 or 8 bytes, or in a window that only reads raises an access fault (R30). -/
def execRegisterWrite (w : RegWrite) (s : State) : Host.Outcome State Fault Refusal :=
  match w with
  | .csr h n v =>
    hartWrites s h fun _ s => .next (s.run h (if n = 0x5C0 && bit v 1 then .bpFlush (bit v 0) else .csr n.toNat v))
  | .mmio h off size v =>
    hartDoes s h fun x s =>
      if !(size = 4 || size = 8) || off % size ≠ 0 || readOnlyWindow off then
        .next (s.trap h x.stamp { cause := 7, tval := BitVec.ofNat 64 (0x40000000 + off), gva := x.virt })
      else
        let hue := x.hue
        let s := s.setHart (hartIx h) (retireStore x x.stamp)
        if 0x10000000 ≤ off && off < 0x10100000 then .next (s.bus0Store (s.partOfDie h.die.val) (off - 0x10000000) size v)
        else s.controlStore (s.partOfDie h.die.val) hue off size v

/-- DEBUG_HALT_REQUEST: the core wakes if it sleeps (R452), and the hart enters Debug mode at an instruction boundary. Its counts go to
the hue that it leaves (R50, R287). -/
def execDebugHaltRequest (h : HartId) (s : State) : Host.Outcome State Fault Refusal :=
  live s fun s =>
    let x := s.hart (hartIx h)
    if x.run = .held || x.run = .debug then .next s
    else
      let s := s.wakePkg
      let s := s.setCore (coreIx h) { s.core (coreIx h) with idle := .cs0 }
      let s := (s.meterSend h x.hue).stopAt h
      .next (s.setHart (hartIx h) ((s.hart (hartIx h)).enterDebug 3))

end Sys2Proof.Machine
end

