-- ==== Sys2Proof/Machine/Dispatch.lean ====
section
/-! DEFINITION. One arm for each command: the command's effect on everything but the queue. -/

namespace Sys2Proof.Machine

def exec (i : Instr) (s : State) : Host.Outcome State Fault Refusal :=
  match i with
  | .load h a rd zext cls => Sys2Proof.Machine.execLoad h a rd zext cls s
  | .store h a value cls => Sys2Proof.Machine.execStore h a value cls s
  | .amo h a op operand compare rd => Sys2Proof.Machine.execAmo h a op operand compare rd s
  | .lr h a rd => Sys2Proof.Machine.execLr h a rd s
  | .sc h a value rd => Sys2Proof.Machine.execSc h a value rd s
  | .lrReservationDelayExpiry h => Sys2Proof.Machine.execLrReservationDelayExpiry h s
  | .fence h => Sys2Proof.Machine.execFence h s
  | .fenceI h => Sys2Proof.Machine.execFenceI h s
  | .sfenceVma h f => Sys2Proof.Machine.execSfenceVma h f s
  | .hfenceVvma h f => Sys2Proof.Machine.execHfenceVvma h f s
  | .hfenceGvma h f => Sys2Proof.Machine.execHfenceGvma h f s
  | .sinvalVma h k f => Sys2Proof.Machine.execSinvalVma h k f s
  | .sfenceWInval h => Sys2Proof.Machine.execSfenceWInval h s
  | .sfenceInvalIr h => Sys2Proof.Machine.execSfenceInvalIr h s
  | .cboClean h a => Sys2Proof.Machine.execCboClean h a s
  | .cboFlush h a => Sys2Proof.Machine.execCboFlush h a s
  | .cboInval h a => Sys2Proof.Machine.execCboInval h a s
  | .cboZero h a => Sys2Proof.Machine.execCboZero h a s
  | .prefetchR h a => Sys2Proof.Machine.execPrefetchR h a s
  | .prefetchW h a => Sys2Proof.Machine.execPrefetchW h a s
  | .prefetchI h a => Sys2Proof.Machine.execPrefetchI h a s
  | .wfi h => Sys2Proof.Machine.execWfi h s
  | .branchMispredict h pc target b => Sys2Proof.Machine.execBranchMispredict h pc target b s
  | .cqzhueWrite h v => Sys2Proof.Machine.execCqzhueWrite h v s
  | .cqzbpctlOffWrite h v => Sys2Proof.Machine.execCqzbpctlOffWrite h v s
  | .flush h v => Sys2Proof.Machine.execFlush h v s
  | .predictorClearingDone c => Sys2Proof.Machine.execPredictorClearingDone c s
  | .flushL1i h v => Sys2Proof.Machine.execFlushL1i h v s
  | .flushL1d h v => Sys2Proof.Machine.execFlushL1d h v s
  | .flushL2 h v => Sys2Proof.Machine.execFlushL2 h v s
  | .cacheFlushDone c => Sys2Proof.Machine.execCacheFlushDone c s
  | .registerWrite w => Sys2Proof.Machine.execRegisterWrite w s
  | .walkRead h => Sys2Proof.Machine.execWalkRead h s
  | .missRegisterFreed c line => Sys2Proof.Machine.execMissRegisterFreed c line s
  | .l3WayFreed d line => Sys2Proof.Machine.execL3WayFreed d line s
  | .mtimecmpMatch h supervisor => Sys2Proof.Machine.execMtimecmpMatch h supervisor s
  | .rds m => Sys2Proof.Machine.execRds m s
  | .rdo m => Sys2Proof.Machine.execRdo m s
  | .upg m => Sys2Proof.Machine.execUpg m s
  | .claimz m => Sys2Proof.Machine.execClaimz m s
  | .cmoclean m => Sys2Proof.Machine.execCmoclean m s
  | .cmoflush m => Sys2Proof.Machine.execCmoflush m s
  | .cmoinval m => Sys2Proof.Machine.execCmoinval m s
  | .rdonce m => Sys2Proof.Machine.execRdonce m s
  | .wrfull m => Sys2Proof.Machine.execWrfull m s
  | .wrpart m => Sys2Proof.Machine.execWrpart m s
  | .atomio m => Sys2Proof.Machine.execAtomio m s
  | .rdns m => Sys2Proof.Machine.execRdns m s
  | .wrns m => Sys2Proof.Machine.execWrns m s
  | .wbdata m => Sys2Proof.Machine.execWbdata m s
  | .requestBegin slice line => Sys2Proof.Machine.execRequestBegin slice line s
  | .directoryScrub slice r => Sys2Proof.Machine.execDirectoryScrub slice r s
  | .fwds m => Sys2Proof.Machine.execFwds m s
  | .fwdo m => Sys2Proof.Machine.execFwdo m s
  | .fwdsnap m => Sys2Proof.Machine.execFwdsnap m s
  | .fwdclean m => Sys2Proof.Machine.execFwdclean m s
  | .inv m => Sys2Proof.Machine.execInv m s
  | .recall m => Sys2Proof.Machine.execRecall m s
  | .recalldiscard m => Sys2Proof.Machine.execRecalldiscard m s
  | .setrecall agent slice set => Sys2Proof.Machine.execSetrecall agent slice set s
  | .fwdack m => Sys2Proof.Machine.execFwdack m s
  | .fwdackdata m => Sys2Proof.Machine.execFwdackdata m s
  | .invack m => Sys2Proof.Machine.execInvack m s
  | .recallack m => Sys2Proof.Machine.execRecallack m s
  | .recallackdata m => Sys2Proof.Machine.execRecallackdata m s
  | .setrecallack slice set agent => Sys2Proof.Machine.execSetrecallack slice set agent s
  | .compack m => Sys2Proof.Machine.execCompack m s
  | .data m => Sys2Proof.Machine.execData m s
  | .dataonce m => Sys2Proof.Machine.execDataonce m s
  | .grant m => Sys2Proof.Machine.execGrant m s
  | .wback m => Sys2Proof.Machine.execWback m s
  | .cmodone m => Sys2Proof.Machine.execCmodone m s
  | .wrdone m => Sys2Proof.Machine.execWrdone m s
  | .error m io => Sys2Proof.Machine.execError m io s
  | .fwdTmoExpiry slice line agent => Sys2Proof.Machine.execFwdTmoExpiry slice line agent s
  | .reqTmoExpiry agent line => Sys2Proof.Machine.execReqTmoExpiry agent line s
  | .ioTmoExpiry h => Sys2Proof.Machine.execIoTmoExpiry h s
  | .iord m => Sys2Proof.Machine.execIord m s
  | .iowr m => Sys2Proof.Machine.execIowr m s
  | .msiwr m => Sys2Proof.Machine.execMsiwr m s
  | .iorddata h => Sys2Proof.Machine.execIorddata h s
  | .iowrack h => Sys2Proof.Machine.execIowrack h s
  | .ringPacketArrival r stop p => Sys2Proof.Machine.execRingPacketArrival r stop p s
  | .injectionWaitTag r stop clockwise => Sys2Proof.Machine.execInjectionWaitTag r stop clockwise s
  | .ident d toHub f => Sys2Proof.Machine.execIdent d toHub f s
  | .lanes d toHub f => Sys2Proof.Machine.execLanes d toHub f s
  | .handover d toHub f => Sys2Proof.Machine.execHandover d toHub f s
  | .retrain d toHub f => Sys2Proof.Machine.execRetrain d toHub f s
  | .ack d toHub f => Sys2Proof.Machine.execAck d toHub f s
  | .sidebandResend d fromHub => Sys2Proof.Machine.execSidebandResend d fromHub s
  | .dataFlit e f => Sys2Proof.Machine.execDataFlit e f s
  | .controlFlit e f => Sys2Proof.Machine.execControlFlit e f s
  | .maintFlit e f => Sys2Proof.Machine.execMaintFlit e f s
  | .nak e f => Sys2Proof.Machine.execNak e f s
  | .maintSlot e => Sys2Proof.Machine.execMaintSlot e s
  | .crcThreshWindow e => Sys2Proof.Machine.execCrcThreshWindow e s
  | .fieldRetrain e c => Sys2Proof.Machine.execFieldRetrain e c s
  | .coldTraining d => Sys2Proof.Machine.execColdTraining d s
  | .trainingStepComplete e step inf => Sys2Proof.Machine.execTrainingStepComplete e step inf s
  | .trainingStepTimeout e step failed => Sys2Proof.Machine.execTrainingStepTimeout e step failed s
  | .cfgPrepare who toHub f => Sys2Proof.Machine.execCfgPrepare who toHub f s
  | .cfgAck who toHub f => Sys2Proof.Machine.execCfgAck who toHub f s
  | .cfgFlip who toHub f => Sys2Proof.Machine.execCfgFlip who toHub f s
  | .cfgDiscardFrame who toHub f => Sys2Proof.Machine.execCfgDiscardFrame who toHub f s
  | .cfgLoad d toHub f => Sys2Proof.Machine.execCfgLoad d toHub f s
  | .lotBoundary => Sys2Proof.Machine.execLotBoundary s
  | .cfgAckTimeout who => Sys2Proof.Machine.execCfgAckTimeout who s
  | .shadowCopyTimeout d => Sys2Proof.Machine.execShadowCopyTimeout d s
  | .censusReq d f => Sys2Proof.Machine.execCensusReq d f s
  | .censusRpt d f => Sys2Proof.Machine.execCensusRpt d f s
  | .censusPart d f => Sys2Proof.Machine.execCensusPart d f s
  | .censusEntry d f => Sys2Proof.Machine.execCensusEntry d f s
  | .censusRound => Sys2Proof.Machine.execCensusRound s
  | .memberCensusReport p lot shade expected mismatch => Sys2Proof.Machine.execMemberCensusReport p lot shade expected mismatch s
  | .pmSet d toHub f => Sys2Proof.Machine.execPmSet d toHub f s
  | .pmRptTimer d => Sys2Proof.Machine.execPmRptTimer d s
  | .pmRpt d toHub f => Sys2Proof.Machine.execPmRpt d toHub f s
  | .hartCtlHold d toHub f => Sys2Proof.Machine.execHartCtlHold d toHub f s
  | .hartCtlReleaseParked d toHub f => Sys2Proof.Machine.execHartCtlReleaseParked d toHub f s
  | .hartCtlReleaseRunning d toHub f => Sys2Proof.Machine.execHartCtlReleaseRunning d toHub f s
  | .hartCtlStop d toHub f => Sys2Proof.Machine.execHartCtlStop d toHub f s
  | .hartCtlResume d toHub f => Sys2Proof.Machine.execHartCtlResume d toHub f s
  | .hartRpt d toHub f => Sys2Proof.Machine.execHartRpt d toHub f s
  | .hbmLineRead r => Sys2Proof.Machine.execHbmLineRead r s
  | .hbmLineWrite r => Sys2Proof.Machine.execHbmLineWrite r s
  | .hbmReadData r source errs => Sys2Proof.Machine.execHbmReadData r source errs s
  | .zeroFillDone granule => Sys2Proof.Machine.execZeroFillDone granule s
  | .hbmParityAlert ch r => Sys2Proof.Machine.execHbmParityAlert ch r s
  | .hbmReadTimeout r => Sys2Proof.Machine.execHbmReadTimeout r s
  | .hbmTemperatureReport stack celsius => Sys2Proof.Machine.execHbmTemperatureReport stack celsius s
  | .correctionEvent line symbol => Sys2Proof.Machine.execCorrectionEvent line symbol s
  | .patrolStep stack errs => Sys2Proof.Machine.execPatrolStep stack errs s
  | .readRaw hue errs => Sys2Proof.Machine.execReadRaw hue errs s
  | .writeRaw hue => Sys2Proof.Machine.execWriteRaw hue s
  | .rawCommandDone => Sys2Proof.Machine.execRawCommandDone s
  | .wmapForgetEntry1 h q size v => Sys2Proof.Machine.execWmapForgetEntry1 h q size v s
  | .forgetSweep q => Sys2Proof.Machine.execForgetSweep q s
  | .forgetComplete q => Sys2Proof.Machine.execForgetComplete q s
  | .hbmRound pc => Sys2Proof.Machine.execHbmRound pc s
  | .hueQuery iss c => Sys2Proof.Machine.execHueQuery iss c s
  | .hueAlloc iss c => Sys2Proof.Machine.execHueAlloc iss c s
  | .hueStart iss c => Sys2Proof.Machine.execHueStart iss c s
  | .hueSetClass iss c => Sys2Proof.Machine.execHueSetClass iss c s
  | .hueDmaBind iss c => Sys2Proof.Machine.execHueDmaBind iss c s
  | .hueDmaUnbind iss c => Sys2Proof.Machine.execHueDmaUnbind iss c s
  | .hueGfileAssign iss c => Sys2Proof.Machine.execHueGfileAssign iss c s
  | .hueGfileRelease iss c => Sys2Proof.Machine.execHueGfileRelease iss c s
  | .hueReset iss c => Sys2Proof.Machine.execHueReset iss c s
  | .hueDrainComplete hue => Sys2Proof.Machine.execHueDrainComplete hue s
  | .drainTmoExpiry hue => Sys2Proof.Machine.execDrainTmoExpiry hue s
  | .hueSquashComplete hue => Sys2Proof.Machine.execHueSquashComplete hue s
  | .hueResetDone hue => Sys2Proof.Machine.execHueResetDone hue s
  | .inboundMemoryRequest port r => Sys2Proof.Machine.execInboundMemoryRequest port r s
  | .meterAccumulatorSend h => Sys2Proof.Machine.execMeterAccumulatorSend h s
  | .l3OccSample d bank => Sys2Proof.Machine.execL3OccSample d bank s
  | .energyEstimate => Sys2Proof.Machine.execEnergyEstimate s
  | .minuteBoundary => Sys2Proof.Machine.execMinuteBoundary s
  | .ledgerCompaction => Sys2Proof.Machine.execLedgerCompaction s
  | .pwrfailN => Sys2Proof.Machine.execPwrfailN s
  | .pwrwarnClose => Sys2Proof.Machine.execPwrwarnClose s
  | .pwrfailNDeassert => Sys2Proof.Machine.execPwrfailNDeassert s
  | .mtrStatus iss c => Sys2Proof.Machine.execMtrStatus iss c s
  | .mtrRead iss c => Sys2Proof.Machine.execMtrRead iss c s
  | .mtrAck iss c => Sys2Proof.Machine.execMtrAck iss c s
  | .slcDesc7 slice size high v => Sys2Proof.Machine.execSlcDesc7 slice size high v s
  | .slcCqHead slice v => Sys2Proof.Machine.execSlcCqHead slice v s
  | .abort slice v => Sys2Proof.Machine.execAbort slice v s
  | .ceSliceBind iss c => Sys2Proof.Machine.execCeSliceBind iss c s
  | .ceSliceUnbind iss c => Sys2Proof.Machine.execCeSliceUnbind iss c s
  | .ceSliceQuery iss c => Sys2Proof.Machine.execCeSliceQuery iss c s
  | .jobSelection pipe => Sys2Proof.Machine.execJobSelection pipe s
  | .agePromotion slice seq => Sys2Proof.Machine.execAgePromotion slice seq s
  | .blockBoundary pipe ev xlat => Sys2Proof.Machine.execBlockBoundary pipe ev xlat s
  | .completionRecord slice seq lost xlat => Sys2Proof.Machine.execCompletionRecord slice seq lost xlat s
  | .tlpCompletion port h st offset data => Sys2Proof.Machine.execTlpCompletion port h st offset data s
  | .completionTimeout port h => Sys2Proof.Machine.execCompletionTimeout port h s
  | .chainScan inbound => Sys2Proof.Machine.execChainScan inbound s
  | .slotControlWrite port v => Sys2Proof.Machine.execSlotControlWrite port v s
  | .perstRelease port => Sys2Proof.Machine.execPerstRelease port s
  | .pwrGoodTimeout port => Sys2Proof.Machine.execPwrGoodTimeout port s
  | .linkUp port => Sys2Proof.Machine.execLinkUp port s
  | .surpriseRemoval port => Sys2Proof.Machine.execSurpriseRemoval port s
  | .cxlViral port => Sys2Proof.Machine.execCxlViral port s
  | .cxlMemReadTimeout r => Sys2Proof.Machine.execCxlMemReadTimeout r s
  | .rdshared port line => Sys2Proof.Machine.execRdshared port line s
  | .rdown port line => Sys2Proof.Machine.execRdown port line s
  | .rdcurr port line => Sys2Proof.Machine.execRdcurr port line s
  | .dirtyevict port line data => Sys2Proof.Machine.execDirtyevict port line data s
  | .cleanevict port line => Sys2Proof.Machine.execCleanevict port line s
  | .itomwr port line data => Sys2Proof.Machine.execItomwr port line data s
  | .clflush port line => Sys2Proof.Machine.execClflush port line s
  | .snoopResponse port line dirty => Sys2Proof.Machine.execSnoopResponse port line dirty s
  | .cxlWritebackTimeout port => Sys2Proof.Machine.execCxlWritebackTimeout port s
  | .mbxCmdTail m v => Sys2Proof.Machine.execMbxCmdTail m v s
  | .commandAccept m => Sys2Proof.Machine.execCommandAccept m s
  | .mbxRspHead m v => Sys2Proof.Machine.execMbxRspHead m v s
  | .eventDelivery iss => Sys2Proof.Machine.execEventDelivery iss s
  | .bmcMessage tag bytes => Sys2Proof.Machine.execBmcMessage tag bytes s
  | .setEndpointId eid => Sys2Proof.Machine.execSetEndpointId eid s
  | .getEndpointId => Sys2Proof.Machine.execGetEndpointId s
  | .getMctpVersionSupport msgType => Sys2Proof.Machine.execGetMctpVersionSupport msgType s
  | .getMessageTypeSupport => Sys2Proof.Machine.execGetMessageTypeSupport s
  | .setdasa static addr => Sys2Proof.Machine.execSetdasa static addr s
  | .entdaa addr => Sys2Proof.Machine.execEntdaa addr s
  | .lockstepMismatch => Sys2Proof.Machine.execLockstepMismatch s
  | .mordantRestartComplete => Sys2Proof.Machine.execMordantRestartComplete s
  | .hello iss c => Sys2Proof.Machine.execHello iss c s
  | .bye iss c => Sys2Proof.Machine.execBye iss c s
  | .echo iss c => Sys2Proof.Machine.execEcho iss c s
  | .evtSubscribe iss c => Sys2Proof.Machine.execEvtSubscribe iss c s
  | .fwInfo iss c => Sys2Proof.Machine.execFwInfo iss c s
  | .pdrRead iss c => Sys2Proof.Machine.execPdrRead iss c s
  | .cfgRead iss c => Sys2Proof.Machine.execCfgRead iss c s
  | .cfgWrite iss c => Sys2Proof.Machine.execCfgWrite iss c s
  | .cfgCommit iss c => Sys2Proof.Machine.execCfgCommit iss c s
  | .cfgDiscard iss c => Sys2Proof.Machine.execCfgDiscard iss c s
  | .cfgStatus iss c => Sys2Proof.Machine.execCfgStatus iss c s
  | .cfgDump iss c => Sys2Proof.Machine.execCfgDump iss c s
  | .configStoreCompaction goodWrites => Sys2Proof.Machine.execConfigStoreCompaction goodWrites s
  | .censusRun iss c => Sys2Proof.Machine.execCensusRun iss c s
  | .censusStatus iss c => Sys2Proof.Machine.execCensusStatus iss c s
  | .censusBisect iss c => Sys2Proof.Machine.execCensusBisect iss c s
  | .pmQuery iss c => Sys2Proof.Machine.execPmQuery iss c s
  | .pmSetLimit iss c => Sys2Proof.Machine.execPmSetLimit iss c s
  | .pmCoreState iss c => Sys2Proof.Machine.execPmCoreState iss c s
  | .pmPkgState iss c => Sys2Proof.Machine.execPmPkgState iss c s
  | .svcStatus iss c => Sys2Proof.Machine.execSvcStatus iss c s
  | .svcCoreSpare iss c => Sys2Proof.Machine.execSvcCoreSpare iss c s
  | .svcDieEvacuate iss c => Sys2Proof.Machine.execSvcDieEvacuate iss c s
  | .svcDieReadmit iss c => Sys2Proof.Machine.execSvcDieReadmit iss c s
  | .svcFwStage iss c verifies version secVersion => Sys2Proof.Machine.execSvcFwStage iss c verifies version secVersion s
  | .svcFwActivate iss c straps => Sys2Proof.Machine.execSvcFwActivate iss c straps s
  | .memTestArm iss c => Sys2Proof.Machine.execMemTestArm iss c s
  | .memTestDisarm iss c => Sys2Proof.Machine.execMemTestDisarm iss c s
  | .memRepairList iss c => Sys2Proof.Machine.execMemRepairList iss c s
  | .memPcStatus iss c => Sys2Proof.Machine.execMemPcStatus iss c s
  | .weldStatus iss c => Sys2Proof.Machine.execWeldStatus iss c s
  | .weldRetrain iss c => Sys2Proof.Machine.execWeldRetrain iss c s
  | .weldCapClear iss c => Sys2Proof.Machine.execWeldCapClear iss c s
  | .slotStatus iss c => Sys2Proof.Machine.execSlotStatus iss c s
  | .slotUnfence iss c => Sys2Proof.Machine.execSlotUnfence iss c s
  | .cascStatus iss c => Sys2Proof.Machine.execCascStatus iss c s
  | .cascHandoff iss c => Sys2Proof.Machine.execCascHandoff iss c s
  | .errRead iss c => Sys2Proof.Machine.execErrRead iss c s
  | .errAck iss c => Sys2Proof.Machine.execErrAck iss c s
  | .pkgResetCold iss c straps => Sys2Proof.Machine.execPkgResetCold iss c straps s
  | .pkgResetWarm iss c => Sys2Proof.Machine.execPkgResetWarm iss c s
  | .partReset iss c => Sys2Proof.Machine.execPartReset iss c s
  | .partitionDrainComplete p => Sys2Proof.Machine.execPartitionDrainComplete p s
  | .pwrgoodRise straps => Sys2Proof.Machine.execPwrgoodRise straps s
  | .pwrgoodLow => Sys2Proof.Machine.execPwrgoodLow s
  | .resetNLow => Sys2Proof.Machine.execResetNLow s
  | .resetNRise straps => Sys2Proof.Machine.execResetNRise straps s
  | .startStepComplete step inf => Sys2Proof.Machine.execStartStepComplete step inf s
  | .cascadeAdmissionTimeout => Sys2Proof.Machine.execCascadeAdmissionTimeout s
  | .hartReset h => Sys2Proof.Machine.execHartReset h s
  | .serviceStepComplete => Sys2Proof.Machine.execServiceStepComplete s
  | .fwHandoverWindow => Sys2Proof.Machine.execFwHandoverWindow s
  | .fwHandoverComplete digestOk stateOk minorOffered => Sys2Proof.Machine.execFwHandoverComplete digestOk stateOk minorOffered s
  | .avsStatusPoll rail vdone => Sys2Proof.Machine.execAvsStatusPoll rail vdone s
  | .avsAckTimeout rail readMv => Sys2Proof.Machine.execAvsAckTimeout rail readMv s
  | .heldRetry rail => Sys2Proof.Machine.execHeldRetry rail s
  | .currentRead readings => Sys2Proof.Machine.execCurrentRead readings s
  | .powerControlStep watts wantMhz setMv => Sys2Proof.Machine.execPowerControlStep watts wantMhz setMv s
  | .coreIdleEntry c => Sys2Proof.Machine.execCoreIdleEntry c s
  | .coreWake c => Sys2Proof.Machine.execCoreWake c s
  | .pkgStateEntry => Sys2Proof.Machine.execPkgStateEntry s
  | .domainWake d => Sys2Proof.Machine.execDomainWake d s
  | .domainSleep d => Sys2Proof.Machine.execDomainSleep d s
  | .pllLockLoss p => Sys2Proof.Machine.execPllLockLoss p s
  | .pllRelock d => Sys2Proof.Machine.execPllRelock d s
  | .refclkLoss => Sys2Proof.Machine.execRefclkLoss s
  | .temperatureRead die hub => Sys2Proof.Machine.execTemperatureRead die hub s
  | .throttleStep => Sys2Proof.Machine.execThrottleStep s
  | .hotN asserted => Sys2Proof.Machine.execHotN asserted s
  | .cascadeIdentity link inf => Sys2Proof.Machine.execCascadeIdentity link inf s
  | .admissionClose lot entries => Sys2Proof.Machine.execAdmissionClose lot entries s
  | .timeAlign p offsetNs => Sys2Proof.Machine.execTimeAlign p offsetNs s
  | .proxyProbeTimeout link line d => Sys2Proof.Machine.execProxyProbeTimeout link line d s
  | .masterUnreachable => Sys2Proof.Machine.execMasterUnreachable s
  | .cascHandoffTimeout => Sys2Proof.Machine.execCascHandoffTimeout s
  | .uncSet h unit k v => Sys2Proof.Machine.execUncSet h unit k v s
  | .uncFreeze h v => Sys2Proof.Machine.execUncFreeze h v s
  | .logRecordCommit => Sys2Proof.Machine.execLogRecordCommit s
  | .railUndervoltage rail => Sys2Proof.Machine.execRailUndervoltage rail s
  | .railOvervoltage rail => Sys2Proof.Machine.execRailOvervoltage rail s
  | .instructionFetch h va path => Sys2Proof.Machine.execInstructionFetch h va path s
  | .intxMessage port pin asserted => Sys2Proof.Machine.execIntxMessage port pin asserted s
  | .cxlMemResponse r data poison => Sys2Proof.Machine.execCxlMemResponse r data poison s
  | .debugHaltRequest h => Sys2Proof.Machine.execDebugHaltRequest h s
  | .catastrophicTemperature stack => Sys2Proof.Machine.execCatastrophicTemperature stack s

end Sys2Proof.Machine
end

