-- ==== Sys2Proof/Machine/Transport.lean ====
section
/-! DEFINITION. How packets move while time passes (R179, R186, R187, R196, R207 to R211, R221): from their agents to the stops, through
the dual-clock queues, onto the rings and over the Weld links. A slot's arrival at a stop, and a flit's at an end, are commands.
DESIGN CHOICE, log entry 112: these moves are part of a tick, and the rows of the coherence and I/O messages stand for the whole way of
theirs: a packet whose message has been delivered is on its way no more. -/

namespace Sys2Proof.Machine

/-! ### Setting out -/

/-- Where a message's packet sets out: the ring, the stop, and the crossing on the way to it, if any (R181, R196). -/
def State.startOf (s : State) (q : Packet) : Option (RingId × Nat × Option Nat) :=
  let hub (k stop : Nat) : Option (RingId × Nat × Option Nat) :=
    let r : RingId := .hub (Fin.ofNat 4 k)
    some (r, stop, match agentAt r stop with
      | some a => if crossDepth a = 0 then none else some 0
      | none => none)
  let core (h : HartId) : Option (RingId × Nat × Option Nat) :=
    some (.die h.die, s.coreTile h, some ((s.core (h.die.val * 32 + h.core.val)).phys.val % 3))
  match q with
  | .coh m =>
    if m.src < 12 then (if s.dieFenced m.src then none else some (.die (Fin.ofNat 12 m.src), lineTile m.line, none))
    else hub (msgRing m.line) (s.hubStop m.src m)
  | .io _ q => (match q.client with
    | .hart h => core h
    | .mordant => hub 0 40)
  | .msi m => m.client.bind core
  | .ans h _ => (s.hart (hartIx h)).io.bind fun x => hub (h.core.val % 4) (s.ioStop (s.partOfDie h.die.val) x.pa)

/-- A packet waits at a stop for injection, in the direction of its target. -/
def State.putOut (s : State) (r : RingId) (stop : Nat) (p : Slot) : State :=
  let key := stopKey r stop
  let st := s.stop key
  s.setStop key
    { st with egress := st.egress ++ [(goesClockwise r stop (ringTarget r (headerOf p.header).dst), recheck r p)] }

/-- A packet enters a crossing unless its full flag is 1. -/
def State.putCross (s : State) (r : RingId) (stop sub : Nat) (onto : Bool) (p : Slot) : Option State :=
  let key := crossKey (stopKey r stop) sub (headerOf p.header).vc onto
  match agentAt r stop with
  | none => none
  | some a => ((s.crossing key).push (crossDepth a) p).map fun q => s.setCrossing key q

/-- A message's packet sets out. -/
def State.setOut (s : State) (q : Packet) : State :=
  let gone (s : State) : State := s.upFab fun f => { f with launched := f.launched ++ [q] }
  match s.startOf q with
  | none => s
  | some (r, stop, sub) =>
    match s.slotFor r q, sub with
    | none, _ => s
    | some p, none => gone (s.putOut r stop p)
    | some p, some i => (match s.putCross r stop i true p with
      | some s => gone s
      | none => s)

/-- The packet's message is on its way still. -/
def State.stillDue (s : State) (r : RingId) (p : Slot) : Bool := (s.packetOf r p).isSome

/-- The packets of messages that have been delivered are on their way no more, and those of the others set out. -/
def State.launch (s : State) : State :=
  let due := s.due
  let s := s.upFab fun f =>
    { f with
      launched := f.launched.filter fun q => due.contains q
      onRing := f.onRing.filter fun e => e.foreign || s.stillDue e.ring e.slot }
  let s := s.forEach (s.fab.stops.map Prod.fst) fun s key =>
    let st := s.stop key
    s.setStop key { st with egress := st.egress.filter fun e => s.stillDue (keyStop key).1 e.2 }
  (due.filter fun q => !s.fab.launched.contains q).foldl State.setOut s

/-! ### Stops and crossings -/

/-- A bridge puts a packet onto the next ring, where it enters at the stop of the bridge back (R177, R181). -/
def State.bridgePut (s : State) (k : Fin 4) (up : Bool) (p : Slot) : State :=
  let nxt : Fin 4 := if up then k + 1 else k + 3
  let stop := if up then 42 else 43
  s.putOut (.hub nxt) stop (reheader (.hub nxt) p fun h => { h with src := nxt.val * 64 + stop })

/-- The crossing that a packet at a stop leaves the ring by: the bundle that R221 gives at a Weld port, its own at a bundle's stop, the
core of a hart's answer. -/
def State.subFor (s : State) (r : RingId) (a : StopAgent) (p : Slot) : Option Nat :=
  match r, a with
  | .die d, .weldPort =>
    (match s.packetOf r p with
     | some (.coh m) => s.bundleFor d.val (msgRing m.line)
     | some (.io _ q) => (match q.client with
       | .hart h => s.bundleFor d.val (h.core.val % 4)
       | .mordant => none)
     | some (.msi m) => m.client.bind fun h => s.bundleFor d.val (h.core.val % 4)
     | _ => none)
  | .die d, .tile t =>
    (match packetHart (headerOf p.header) with
     | some h => if (headerOf p.header).io && h.die = d && s.coreTile h = t then
         some ((s.core (h.die.val * 32 + h.core.val)).phys.val % 3) else none
     | none => none)
  | .hub _, _ => some 0
  | _, _ => none

/-- Packets that have been ejected at a stop move on: over a bridge, into a crossing, or, where their agent takes them from the queue
itself, away once it has. -/
def State.ingressGo (s : State) (key : Nat) : State :=
  let (r, stop) := keyStop key
  let st := s.stop key
  match agentAt r stop, r with
  | some (.bridge up), .hub k =>
    (s.setStop key { st with ingress := [] }).forEach st.ingress fun s e => s.bridgePut k up e.2
  | some a, _ =>
    if crossDepth a = 0 then s.setStop key { st with ingress := s.waitingIn r st.ingress }
    else
      (s.setStop key { st with ingress := [] }).forEach (s.waitingIn r st.ingress) fun s e =>
        let stay (s : State) : State := s.setStop key { s.stop key with ingress := (s.stop key).ingress ++ [e] }
        match s.subFor r a e.2 with
        | none => stay s
        | some sub => (s.putCross r stop sub false e.2).getD (stay s)
  | none, _ => s

/-- The message as the other ring of a Weld link carries it, so that SRC and DST are those of that ring (R181). -/
def State.overWeld (s : State) (r other : RingId) (p : Slot) : Option Slot := (s.packetOf r p).bind fun q => s.slotFor other q

/-- What a crossing's reader sees leaves it: onto the ring, into the transmitter of a Weld end, or to the agent, which has it then. -/
def State.crossOut (s : State) (key : Nat) : State :=
  match (s.crossing key).pop with
  | none => s
  | some (p, q) =>
    let s := s.setCrossing key q
    let (r, stop) := keyStop (key / 32)
    let sub := key / 8 % 4
    let sendOn (s : State) (port k : Nat) (hub : Bool) (other : RingId) : State :=
      match s.overWeld r other p with
      | none => s
      | some z =>
        let b := Table.get {} (s.port port).bundles k
        let x := b.me hub
        s.setBundle port k (b.setMe hub { x with tx := x.tx ++ [z] })
    if key % 2 = 1 then (if s.stillDue r p then s.putOut r stop p else s)
    else match r, agentAt r stop with
      | .die d, some .weldPort => sendOn s d.val sub false (.hub (Fin.ofNat 4 sub))
      | .hub k, some (.bundle d) => sendOn s d k.val true (.die (Fin.ofNat 12 d))
      | .hub _, some (.cascade c) =>
        let b := Table.get {} (s.port 12).bundles c
        s.setBundle 12 c { b with hub := { b.hub with tx := b.hub.tx ++ [p] } }
      | _, _ => s

/-! ### Injection (R187) -/

/-- The order in which a stop injects: VC 3, 2, 1, then VC 0 by the ring injection priority of the packet's class. -/
def State.injectRank (s : State) (p : Slot) : Nat :=
  let h := headerOf p.header
  if h.vc = 0 then 3 * 8 + (7 - s.ringPri h.cls.toNat) else (3 - h.vc) * 8

/-- The first of the lowest rank: by age within a rank. -/
def State.firstOf (s : State) (l : List Slot) : Option Slot :=
  let least := l.foldl (fun m p => min m (s.injectRank p)) 32
  l.find? fun p => s.injectRank p = least

/-- Empty slots of one direction of a ring pass, one in four of them a response slot. A stop that has tagged the direction fills the
next, and no other does; of the stops that wait, a free one fills a slot otherwise. -/
def State.injectDir (s : State) (r : RingId) (cw : Bool) : Nat → State
  | 0 => s
  | n + 1 =>
    let keys := (s.fab.stops.map Prod.fst).filter fun key => (keyStop key).1 = r
    let waits (key : Nat) : List Slot :=
      ((s.stop key).egress.filter fun e => e.1 = cw && (n % 4 ≠ 3 || (headerOf e.2.header).vc = 3)).map Prod.snd
    let tagged := keys.filter fun key => if cw then (s.stop key).tagCw else (s.stop key).tagCcw
    let cands := (if tagged.isEmpty then keys else tagged.take 1).filter fun key => !(waits key).isEmpty
    if cands.isEmpty then State.injectDir s r cw n
    else
      let (v, s) := s.takeNat
      match cands[v % cands.length]? with
      | none => State.injectDir s r cw n
      | some key =>
        match s.firstOf (waits key) with
        | none => State.injectDir s r cw n
        | some p =>
          let st := s.stop key
          let st := { st with egress := st.egress.erase (cw, p) }
          let s := s.setStop key (if cw then { st with tagCw := false } else { st with tagCcw := false })
          State.injectDir (s.upFab fun f => { f with onRing := f.onRing ++ [{ ring := r, clockwise := cw, slot := p }] }) r cw n

/-- A tick of a ring's two directions: how many of the slots that pass are empty is free (20 hub ring cycles, 24 of a compute-die
ring). -/
def State.inject (s : State) (r : RingId) : State :=
  let waiting := s.fab.stops.any fun e => (keyStop e.1).1 = r && !e.2.egress.isEmpty
  if !waiting || !s.ringRuns r then s
  else
    let most := match r with
      | .die _ => 24
      | .hub _ => 20
    let (a, s) := s.takeNat
    let (b, s) := s.takeNat
    (s.injectDir r true (a % (most + 1))).injectDir r false (b % (most + 1))

/-! ### Transmitters (R207, R209 to R211) -/

/-- Credits that an end holds for a virtual channel: 16 at the end of training. -/
def EndState.credits (x : EndState) (vc : Nat) : Nat := 16 - (vcGet x.used vc - vcGet x.returned vc).toNat

/-- The units of a packet (R207). -/
def packetUnits (p : Slot) : List Nat :=
  let lo := (p.header.extractLsb' 0 64).toNat
  let hi := (p.header.extractLsb' 64 64).toNat
  [lo, hi] ++ (if hasMask lo hi then [p.mask.toNat] else []) ++
    (if hi / 2 ^ 53 % 2 = 1 then (List.range 8).map fun i => leAt p.data (8 * i) 8 else [])

/-- Fill a payload from unit `us.length` on: the rest of the packet in hand, then packets that hold credits, in the order of R187. A
packet whose first unit is zero does not begin at unit 14, where it would read as the end. -/
def State.fillUnits (s : State) (x : EndState) (us : List Nat) (first : Option Nat) : Nat → EndState × List Nat × Option Nat
  | 0 => (x, us, first)
  | n + 1 =>
    if 15 ≤ us.length then (x, us, first)
    else if !x.units.isEmpty then
      let k := 15 - us.length
      let x' := { x with units := x.units.drop k, cur := if x.units.length ≤ k then none else x.cur }
      s.fillUnits x' (us ++ x.units.take k) first n
    else match s.firstOf (x.tx.filter fun p => 0 < x.credits (headerOf p.header).vc) with
      | none => (x, us, first)
      | some p =>
        if us.length = 14 && p.header.extractLsb' 0 64 = 0 then (x, us, first)
        else
          let vc := (headerOf p.header).vc
          s.fillUnits { x with tx := x.tx.erase p, cur := some p, units := packetUnits p, used := vcPut x.used vc (vcGet x.used vc + 1) }
            us (first.or (some us.length)) n

/-- A flit as an end sends it now: its running values, and its code (R205, R206). -/
def EndState.frame (x : EndState) (f : Flit) : Flit :=
  let f := { f with ack := x.rxSeq, crvc := x.crvc, crtotal := vcGet x.given x.crvc.toNat }
  { f with crc := flitCrc 0 f }

/-- One DATA flit slot of an end: a flit that a replay owes, else a new one, while fewer than 64 are unacknowledged. The slot of index 15
modulo 16 is the MAINT flit's (R208). -/
def State.transmit (s : State) (p k : Nat) (hub : Bool) : State :=
  let b := s.bundle p k
  let x := b.me hub
  if b.st ≠ .active || 15 ≤ x.slotCount then s
  else if 0 < x.resend then
    (match (x.replay.drop (x.replay.length - x.resend)).head? with
     | none => s
     | some r =>
       let f := x.frame r.1
       (s.setBundle p k (b.setMe hub { x.sent.resent with wire := x.wire ++ [f] })).replayed p k hub)
  else if 64 ≤ x.replay.length then s
  else
    let (y, us, first) := s.fillUnits x [] none 16
    if us.isEmpty then s
    else
      let f := x.frame
        { seq := x.txSeq, ack := 0, crvc := 0, crtotal := 0, first := BitVec.ofNat 4 (first.getD 15),
          payload := padTo 120 (us.flatMap fun u => leBytes 8 u), crc := 0 }
      s.setBundle p k (b.setMe hub
        { y.sent with txSeq := y.txSeq + 1, replay := y.replay ++ [(f, 0)], wire := y.wire ++ [f] })

/-- Packets that left a bundle to be resent go to the one that R221 selects, or wait for their own (R222). -/
def State.rerouteGo (s : State) (p k : Nat) (hub : Bool) : State :=
  let b := s.bundle p k
  let x := b.me hub
  if x.reroute.isEmpty || x.handoverOwed then s
  else match (if p < 12 then s.bundleFor p k else if b.st = .active then some k else none) with
    | none => s
    | some j =>
      let s := s.setBundle p k (b.setMe hub { x with reroute := [] })
      let c := s.bundle p j
      let y := c.me hub
      s.setBundle p j (c.setMe hub { y with tx := x.reroute ++ y.tx })

/-- A tick of an end: its receive buffer's clocks, what leaves the buffer, and the flit slots that pass, three at ×8 and one at ×4
(R204). -/
def State.endTick (s : State) (p k : Nat) (hub : Bool) : State :=
  let b := s.bundle p k
  let x := b.me hub
  let ring := s.ringRuns (landRing p k hub (headerOf 0))
  let s := if x.ptrs.isEmpty then s else s.setBundle p k (b.setMe hub
    { x with ptrs := x.ptrs.map fun e => (e.1, e.2.run (b.st = .active) ring) })
  let s := (if ring then s.bufferDrain p k hub else s).rerouteGo p k hub
  (List.range (if (s.bundle p k).width = 8 then 3 else 1)).foldl (fun s _ => s.transmit p k hub) s

/-- Every bundle that packets may use, and every cascade link. -/
def State.linkTick (s : State) : State :=
  s.forEach (s.fab.ports.flatMap fun e => e.2.bundles.map fun b => (e.1, b.1)) fun s e =>
    (s.endTick e.1 e.2 true).endTick e.1 e.2 false

/-! ### A tick -/

/-- What 10 ns move. -/
def State.transport (s : State) : State :=
  let s := s.launch
  let s := s.forEach (s.fab.stops.map Prod.fst) State.ingressGo
  let keys := s.fab.crossings.map Prod.fst
  let s := (s.forEach keys State.crossRun).forEach keys State.crossOut
  let rings : List RingId := (List.finRange 12).map .die ++ (List.finRange 4).map .hub
  (s.forEach rings State.inject).linkTick

/-- One tick of the time base, while its clock runs (R458): the interrupt controller samples its sources, and packets move. DESIGN
CHOICE, log entry 3. -/
def State.tick (s : State) : State :=
  if s.timed then
    let s := { s with now := s.now + 1 }.aplicSync ((List.range 152).map (· + 1))
    if s.clocked then s.transport else s
  else s

end Sys2Proof.Machine
end

