-- ==== Sys2Proof/Safety.lean ====
section
/-! DEFINITION. What counts as a safe step, and the conditions under which statements say that a command completes. -/

namespace Sys2Proof.Machine

/-- A step is safe when it ends in a next state: it reaches none of the undefined cases of R509. -/
def Safe (s : State) : Prop := ∃ t, step s = .next t

/-- The command ends in a next state, of which `P` holds. -/
def Completes (c : Instr) (s : State) (P : State → Prop) : Prop := ∃ t, exec c s = .next t ∧ P t

/-- The invariant of the block: the stored bytes of memory are in canonical form, and the hub queue holds at most its 1,024 events
(R496). -/
def State.sound (s : State) : Prop := s.mem.wf = true ∧ s.mgmt.log.queue.length ≤ 1024

/-! ### Harts -/

/-- The hart executes: the clocks run, it is neither held, parked, stopped nor in Debug mode, its core is in CS0, and its die's PLL has
lock (R42, R202, R452, R459). -/
def State.executes (s : State) (h : HartId) : Bool :=
  s.clocked && (s.hart (hartIx h)).run = .running && (s.core (coreIx h)).idle = .cs0 && !s.dieStill h.die.val

/-- The hart may write a CSR: as when it executes, or in Debug mode. -/
def State.writes (s : State) (h : HartId) : Bool :=
  s.clocked && ((s.hart (hartIx h)).run = .running || (s.hart (hartIx h)).run = .debug) && (s.core (coreIx h)).idle = .cs0 &&
    !s.dieStill h.die.val

/-- The hart executes under an effective hue that is neither FREE nor RESETTING (R51). `st` is what the access keeps of the hart. -/
def State.accesses (s : State) (h : HartId) (st : HartState → Stamp) : Bool :=
  s.executes h && !s.hueDead (st (s.hart (hartIx h)).ahead).hue

/-- No older operation of the hart that a fence waits for. -/
def State.drained (s : State) (h : HartId) : Bool := (s.hart (hartIx h)).noneOlder

/-- A new instruction of the hart is tried at once: none waits for dispatch before it, there is room for it and nothing serialises
(R41, R42), and no older one can still raise an exception (R80). -/
def State.ready (s : State) (h : HartId) (op : HartOp) : Bool :=
  (s.hart (hartIx h)).front.isEmpty && s.mayDispatch h op && !(s.hart (hartIx h)).waiting.any Waiting.canTrap

/-- A new instruction, dispatched at an address, and the state in which it is first tried. -/
def State.startsAt (s : State) (h : HartId) (op : HartOp) (pc : Word) : Waiting × State :=
  let x := s.hart (hartIx h)
  (s.setHart (hartIx h) { x with front := [] }).dispatch h op (x.stampOf { op := op, pc := pc, branch := x.branches })

/-- The same at the hart's pc. -/
def State.starts (s : State) (h : HartId) (op : HartOp) : Waiting × State := s.startsAt h op (s.hart (hartIx h)).pc

/-- The hart as the dispatched instruction finds it may execute it. -/
def State.allows (s : State) (h : HartId) (op : HartOp) : Prop := ((s.starts h op).2.hart (hartIx h)).may op = .yes

/-- The instruction of a hart ends in a next state: `u`, of which `P` holds, and, where it ended the hart's LR reservation, what that
lets go then (R171). -/
def CompletesAt (c : Instr) (h : HartId) (s : State) (P : State → Prop) : Prop := ∃ u, exec c s = .next (s.settled u h) ∧ P u

/-- Nothing of a hart waits: no instruction, no HART_CTL operation, no walk whose fault nobody has met. -/
def HartState.quiet (x : HartState) : Prop :=
  x.waiting = [] ∧ x.front = [] ∧ x.ctl = none ∧ x.walk.any (·.fault.isSome) = false

/-- Nothing of the die's harts waits, and no probe is held back. -/
def State.dieQuiet (s : State) (d : Fin 12) : Prop :=
  (∀ h ∈ hartsOfDie d, (s.hart (hartIx h)).quiet) ∧ (s.die d.val).held = []

/-- Nothing of the die waits at all: neither a set recall, nor a flush, nor a fill. -/
def State.dieIdle (s : State) (d : Fin 12) : Prop :=
  s.dieQuiet d ∧ (s.die d.val).recalls = [] ∧ (s.die d.val).evicting = [] ∧ ∀ n ∈ (s.die d.val).miss, n.filled = none

/-! ### Links and records -/

/-- A frame of a TYPE that its end of the sideband takes: the sideband is not lost, the direction and the length are allowed and the code
is good (R200, R201). -/
def State.takesFrame (s : State) (d : Fin 12) (typ : Byte) (f : SbFrame) : Prop :=
  (s.port d.val).sbLost = false ∧ f.typ.getD typ = typ ∧ f.back = false ∧ f.payload.length ≤ 58 ∧
    crcSb ([typ, BitVec.ofNat 8 f.payload.length, f.seq, 0] ++ f.payload) = f.crc

/-- The end of the sideband owes the partner an ACK of a frame. -/
def State.owesAck (s : State) (d : Fin 12) (atHub : Bool) (seq : Byte) : Prop :=
  seq ∈ (if atHub then (s.port d.val).sbHub else (s.port d.val).sbDie).acks

/-- The end of the sideband has a frame of a TYPE and payload in flight or waiting. -/
def State.sendsFrame (s : State) (d : Nat) (fromHub : Bool) (typ : Byte) (payload : Bytes) : Prop :=
  let e := if fromHub then (s.port d).sbHub else (s.port d).sbDie
  (typ, payload) ∈ e.queue ∨ ∃ o, e.unacked = some o ∧ o.typ = typ ∧ o.payload = payload

/-- Between two states, one event of a class, source, reason and unit is passed to the error log (R496). -/
def State.logsOne (s t : State) (cls : ErrClass) (src : ErrSource) (why : ErrReason) (unit : Nat) : Prop :=
  ∃ e, t.mgmt.log.queue = s.mgmt.log.queue ++ [e] ∧ e.cls = cls ∧ e.source = src ∧ e.reason = why ∧ e.unit = unit

/-! ### Commands to Mordant -/

/-- Mordant runs a command of an issuer at once (R372, R373, R381 to R383): its clock runs, the issuer has nothing waiting and room
for one more, nothing holds the command back, and no check that may answer any command applies to its cell. -/
def State.serves (s : State) (iss : Issuer) (c : CmdCell) (op : Nat) (lenOk : Bool) (zero : List Nat) (inScope : Bool) : Prop :=
  s.timed = true ∧ (s.mbx (issIx iss)).accepted = [] ∧ s.canAccept iss = true ∧ s.slotsEmpty iss = true ∧
    s.mustWait iss op = false ∧ (∀ j < 17, ∀ a ∈ (s.mbx j).accepted, changes a.opcode = false) ∧
    s.cellFaults iss op c lenOk zero inScope = []

/-- Between two states, the newest response to an issuer answers its command with a status and result (R376). -/
def State.answered (t : State) (iss : Issuer) (c : CmdCell) (op st : Nat) (result : Bytes) : Prop :=
  ∃ r : RespCell, r.opcode = op ∧ r.tag = c.tag ∧ r.event = false ∧ r.status = st ∧ r.result = result ∧
    match iss with
    | .mailbox m => Table.find (t.mbx m.val).rspSlots (((t.mbx m.val).rspTail - 1).toNat % 16) = some r
    | .bmc => (t.mbx 16).sent.getLast? = some r

end Sys2Proof.Machine
end

