-- ==== Sys2Proof/Certificates/Slice0/Obligations.lean ====
section
/-! DEFINITION. The statements for the provers, in the order of OBLIGATIONS.json. -/

open Sys2Proof Sys2Proof.Machine

/-- The registers of the hart are those that a load's bytes leave. -/
def loaded (y u : State) (h : HartId) (rd : Fin 32) (size : Nat) (zext : Bool) (cls : LoadClass) (b : Bytes) : Prop :=
  let x := (y.hart (hartIx h)).setLoad cls rd size zext b
  (u.hart (hartIx h)).x = x.x ∧ (u.hart (hartIx h)).f = x.f ∧ (u.hart (hartIx h)).v = x.v

/-- LOAD that is not speculative, at a hart that executes under a hue neither FREE nor RESETTING and that tries it at once, whose
translation, key, PMP and attribute checks pass for memory: if no older store of the hart holds its bytes and no older
operation holds it back, and its lines can be read without poison, then it completes, and the destination (integer, floating-
point, shadow-stack or vector element form) holds the bytes read. If an older store holds its bytes, it completes with those
bytes; through a page that Svpbmt marks IO it reads memory whatever a store holds. LR (aligned, not speculative) whose line
can be owned completes: its register holds the sign-extended bytes and the hart holds a reservation on the line. (02 Cores and
instruction set: R60, R61; 03 Branch prediction and the wrong path: R81, R82, R84; 05 Caches: R112, R131; 06 Coherence: R170.) -/
def Obligations.LoadReadsTheBytesOfItsLine : Prop :=
  (∀ (h : HartId) (a : Access) (rd : Fin 32) (zext : Bool) (cls : LoadClass) (s s1 : State) (ps : List Part),
    let op : HartOp := .load a rd zext cls
    let w : Waiting := { (s.starts h op).1 with parts := ps }
    a.spec = false → s.accesses h (·.stamp a.hv) = true → s.ready h op = true →
    (s.starts h op).2.checkParts h (s.starts h op).1 (loadNeed cls) .load false true (parts a.va a.size) = (.ok ps, s1) →
    let io := ps.find? fun p => p.at_.isIo || p.io
    let reads (P : Bytes → State → Prop) : Prop := ∀ b s2, heldBack (s1.hart (hartIx h)).waiting w.lines = false →
      s1.readParts h w .data false ps = (.ok (b, false), s2) → P b s2
    (∀ b, io = none → (s1.hart (hartIx h)).forward a.va a.size = some b →
      CompletesAt (.load h a rd zext cls) h s fun u => loaded s1 u h rd a.size zext cls b) ∧
    (io = none → (s1.hart (hartIx h)).forward a.va a.size = none → reads fun b s2 =>
      CompletesAt (.load h a rd zext cls) h s fun u => loaded s2 u h rd a.size zext cls b) ∧
    (∀ p, io = some p → p.at_.isIo = false → reads fun b s2 =>
      CompletesAt (.load h a rd zext cls) h s fun u => loaded s2 u h rd a.size zext cls b)) ∧
  (∀ (h : HartId) (a : Access) (rd : Fin 32) (s s1 s2 : State) (ps : List Part) (w2 : Waiting) (line : Bytes)
      (lines : List Bytes),
    let op : HartOp := .lr a rd
    let w : Waiting := { (s.starts h op).1 with parts := ps }
    a.spec = false → aligned a.va a.size = true → s.accesses h (·.stamp) = true → s.ready h op = true →
    (s.starts h op).2.checkParts h (s.starts h op).1 .load .lr false true [(a.va, a.size)] = (.ok ps, s1) →
    heldBack (s1.hart (hartIx h)).waiting w.lines = false →
    s1.ownParts h w .rdO ps = (some (line :: lines, false), w2, s2) →
    CompletesAt (.lr h a rd) h s fun u =>
      (u.hart (hartIx h)).x =
        ((s2.hart (hartIx h)).setX rd.val (extend a.size false (leAt line (w2.pas.headD 0 % 64) a.size))).x ∧
      (u.hart (hartIx h)).resv = some { line := lineOf (w2.pas.headD 0) })

/-- The caches of the package are those of `y`, and so are the hart's integer registers. -/
def cachesOf (y u : State) (h : HartId) : Prop :=
  u.fab.cores = y.fab.cores ∧ u.fab.dies = y.fab.dies ∧ (u.hart (hartIx h)).x = (y.hart (hartIx h)).x

/-- A STORE that is not speculative, to memory, an AMO, an SC whose reservation stands and a CBO.ZERO, which the hart tries at
once, whose checks pass, which no older operation holds back and whose lines the hart can own, complete: the caches of the
package are those in which the bytes of the store (or the result of the atomic operation on the old value, or 64 zero bytes)
have been written into the owned lines; the zeros of a CBO.ZERO through a page that Svpbmt marks NC go out of the caches. An
AMO leaves the old value in its register, an SC that wrote leaves 0 and one whose reservation is gone leaves 1 and writes
nothing; either ends the reservation. A speculative STORE enters only the store buffer. (02 Cores and instruction set: R36,
R60, R62; 03 Branch prediction and the wrong path: R81, R82; 05 Caches: R126, R128, R131, R137; 06 Coherence: R140, R170,
R171, R172.) -/
def Obligations.StoreWritesItsBytesIntoAnOwnedLine : Prop :=
  (∀ (h : HartId) (a : Access) (v : Word) (cls : StoreClass) (s : State),
    a.spec = true → s.accesses h (·.stamp a.hv) = true → s.ready h (.store a v cls) = true →
    CompletesAt (.store h a v cls) h s fun u => cachesOf s u h ∧ u.fab.net = s.fab.net ∧
      (u.hart (hartIx h)).specStores = (s.hart (hartIx h)).specStores ++
        [{ va := a.va, size := a.size, value := v, branch := (s.hart (hartIx h)).branches }]) ∧
  (∀ (h : HartId) (a : Access) (v : Word) (cls : StoreClass) (s s1 s2 : State) (ps : List Part)
      (r : List Bytes × Bool) (w2 : Waiting),
    let op : HartOp := .store a v cls
    let w : Waiting := { (s.starts h op).1 with parts := ps }
    a.spec = false → s.accesses h (·.stamp a.hv) = true → s.ready h op = true →
    (s.starts h op).2.checkParts h (s.starts h op).1 (storeNeed cls) .store false false (parts a.va a.size) = (.ok ps, s1) →
    (ps.find? fun p => p.at_.isIo) = none →
    heldBack (s1.hart (hartIx h)).waiting w.lines = false →
    s1.ownParts h w .rdO ps = (some r, w2, s2) →
    CompletesAt (.store h a v cls) h s fun u => cachesOf (s2.writeParts h ps (leBytes a.size v.toNat)) u h) ∧
  (∀ (h : HartId) (a : Access) (o : AmoOp) (b c : BitVec 128) (rd : Fin 32) (s s1 s2 : State) (ps : List Part)
      (line : Bytes) (lines : List Bytes) (w2 : Waiting),
    let op : HartOp := .amo a o b c rd
    let w : Waiting := { (s.starts h op).1 with parts := ps }
    a.spec = false → aligned a.va a.size = true → s.accesses h (·.stamp) = true → s.ready h op = true →
    (s.starts h op).2.checkParts h (s.starts h op).1 (amoNeed o) .atomic false false [(a.va, a.size)] = (.ok ps, s1) →
    heldBack (s1.hart (hartIx h)).waiting w.lines = false →
    s1.ownParts h w .rdO ps = (some (line :: lines, false), w2, s2) →
    CompletesAt (.amo h a o b c rd) h s fun u =>
      let n := 8 * a.size
      let old := leAt line (w2.pas.headD 0 % 64) a.size
      let y := s2.writeParts h ps (leBytes a.size (amoResult o n old (b.toNat % 2 ^ n) (c.toNat % 2 ^ n)))
      u.fab.cores = y.fab.cores ∧ u.fab.dies = y.fab.dies ∧
        (u.hart (hartIx h)).x = ((y.hart (hartIx h)).setOld rd a.size old).x) ∧
  (∀ (h : HartId) (a : Access) (v : Word) (rd : Fin 32) (s s1 : State) (ps : List Part),
    let op : HartOp := .sc a v rd
    let w : Waiting := { (s.starts h op).1 with parts := ps }
    a.spec = false → aligned a.va a.size = true → s.accesses h (·.stamp) = true → s.ready h op = true →
    (s.starts h op).2.checkParts h (s.starts h op).1 .store .atomic false false [(a.va, a.size)] = (.ok ps, s1) →
    heldBack (s1.hart (hartIx h)).waiting w.lines = false →
    ((s1.hart (hartIx h)).resv.map (·.line) ≠ some (lineOf (w.pas.headD 0)) →
      CompletesAt (.sc h a v rd) h s fun u => u.fab.cores = s1.fab.cores ∧ u.fab.dies = s1.fab.dies ∧
        (u.hart (hartIx h)).x = ((s1.hart (hartIx h)).setX rd.val 1).x ∧ (u.hart (hartIx h)).resv = none) ∧
    (∀ r w2 s2, (s1.hart (hartIx h)).resv.map (·.line) = some (lineOf (w.pas.headD 0)) →
      s1.ownParts h w .rdO ps = (some r, w2, s2) →
      CompletesAt (.sc h a v rd) h s fun u =>
        let y := s2.writeParts h ps (leBytes a.size v.toNat)
        u.fab.cores = y.fab.cores ∧ u.fab.dies = y.fab.dies ∧
          (u.hart (hartIx h)).x = ((y.hart (hartIx h)).setX rd.val 0).x ∧ (u.hart (hartIx h)).resv = none)) ∧
  (∀ (h : HartId) (a : Access) (s s1 s2 : State) (ps : List Part) (r : List Bytes × Bool) (w2 : Waiting),
    let op : HartOp := .zero a
    let w : Waiting := { (s.starts h op).1 with parts := ps }
    let nc := ps.any fun p => p.at_ = .nc
    a.spec = false → s.accesses h (·.stamp) = true → s.ready h op = true → s.allows h op →
    (s.starts h op).2.checkParts h (s.starts h op).1 .store .zero false false
      [(BitVec.ofNat 64 (a.va.toNat / 64 * 64), 64)] = (.ok ps, s1) →
    heldBack (s1.hart (hartIx h)).waiting w.lines = false → (nc = true → (s1.die h.die.val).wbFull = false) →
    s1.ownParts h w .claimZ ps = (some r, w2, s2) →
    CompletesAt (.cboZero h a) h s fun u =>
      cachesOf (if nc then s2.zeroNc h.die (w.lines.headD 0) w.stamp.hue else s2.writeParts h ps zeroLine) u h)

/-- No translation that `q` names is left in the hart's TLBs. -/
def noEntry (t : State) (h : HartId) (q : TlbEntry → Bool) : Prop :=
  (∀ e ∈ (t.hart (hartIx h)).itlb ++ (t.hart (hartIx h)).dtlb, q e = false) ∧
  (∀ e ∈ (t.core (coreIx h)).l2tlb ++ (t.core (coreIx h)).l2tlbLarge, q e = false)

/-- At a hart that executes, that tries the fence at once, may execute it and whose older operations are done, each of these
completes. FENCE leaves the caches and translations alone and counts as retired; SFENCE.W.INVAL only notes that the sequence
has begun. FENCE.I leaves the core's instruction cache empty. SFENCE.VMA, HFENCE.VVMA and HFENCE.GVMA leave in the hart's L1
TLBs and the core's L2 TLB no entry that their row of the fence table names, and SFENCE.INVAL.IR leaves none that a pending
SINVAL names. SINVAL.VMA, HINVAL.VVMA and HINVAL.GVMA become pending until then, in the context in which they execute. An
SFENCE.VMA with no operands at V = 0 ends the mixture of a change of KE, an HFENCE.VVMA with none that of VKE. While an older
operation waits, FENCE waits behind it. (04 Address translation and protection keys: R58, R99, R100, R101, R102, R107; 05
Caches: R127; 02 Cores and instruction set: R37.) -/
def Obligations.FencesDrainAndInvalidate : Prop :=
  ∀ (h : HartId) (f : FenceArgs) (s : State), s.executes h = true →
    let x (op : HartOp) : HartState := (s.starts h op).2.hart (hartIx h)
    let may (op : HartOp) : Prop := s.ready h op = true ∧ s.allows h op
    (s.drained h = true →
      (may .fence → CompletesAt (.fence h) h s fun u => u.fab.cores = s.fab.cores ∧ u.fab.dies = s.fab.dies ∧
        u.fab.net = s.fab.net ∧ (u.hart (hartIx h)).accInstret = (x .fence).instret) ∧
      (may .wInval → CompletesAt (.sfenceWInval h) h s fun u => u.fab.cores = s.fab.cores ∧ u.fab.dies = s.fab.dies ∧
        (u.hart (hartIx h)).wInval = true ∧ (u.hart (hartIx h)).accInstret = (x .wInval).instret) ∧
      (may .fenceI → CompletesAt (.fenceI h) h s fun u => (u.core (coreIx h)).l1i = [] ∧ u.fab.dies = s.fab.dies ∧
        (u.core (coreIx h)).l1d = (s.core (coreIx h)).l1d ∧ ∀ e ∈ (u.core (coreIx h)).l2, e.2.ixI = none) ∧
      (may (.sfence f) → CompletesAt (.sfenceVma h f) h s fun u => noEntry u h (fenceStage1 (x (.sfence f)).sfenceVmid f).tlb ∧
        (fenceAll f = true → (x (.sfence f)).virt = false → (u.hart (hartIx h)).keMix = false)) ∧
      (may (.hfenceV f) → CompletesAt (.hfenceVvma h f) h s fun u =>
        noEntry u h (fenceStage1 (some (x (.hfenceV f)).vmidNow) f).tlb ∧
        (fenceAll f = true → (u.hart (hartIx h)).vkeMix = false)) ∧
      (may (.hfenceG f) → CompletesAt (.hfenceGvma h f) h s fun u => noEntry u h (fenceG f).tlb) ∧
      (may .invalIr → CompletesAt (.sfenceInvalIr h) h s fun u => (u.hart (hartIx h)).sinvals = [] ∧
        (u.hart (hartIx h)).wInval = false ∧ ∀ q ∈ (x .invalIr).sinvals, noEntry u h q.sel.tlb)) ∧
    (∀ k, may (.sinval k f) →
      CompletesAt (.sinvalVma h k f) h s fun u =>
        (u.hart (hartIx h)).sinvals = (s.hart (hartIx h)).sinvals ++ [(x (.sinval k f)).sinvalNow k f] ∧
        u.fab.cores = s.fab.cores ∧ (u.hart (hartIx h)).dtlb = (s.hart (hartIx h)).dtlb) ∧
    (s.drained h = false → s.ready h .fence = true →
      CompletesAt (.fence h) h s fun u => u.fab.cores = s.fab.cores ∧
        ∃ y, (u.hart (hartIx h)).waiting = (s.hart (hartIx h)).waiting ++ [y] ∧ y.op = .fence)

/-- What a hint asks of the caches. -/
def hintLine (s : State) (h : HartId) (k : Hint) (p : Part) (q : Ask) : LineAns × State :=
  match k with
  | .r => s.readLine h (lineOf p.pa) .hintR q
  | .i => s.readLine h (lineOf p.pa) .hintI q
  | .w => s.ownLine h (lineOf p.pa) .rdO true q

/-- The row of a hint. -/
def hintRow (k : Hint) (h : HartId) (a : Access) : Instr := match k with
  | .r => .prefetchR h a
  | .w => .prefetchW h a
  | .i => .prefetchI h a

/-- The type of access that a hint makes (R125). -/
def hintNeed (k : Hint) : Need := match k with
  | .r => .load
  | .w => .store
  | .i => .fetch

/-- The caches and the messages in flight are those of `y`. -/
def linesOf (y u : State) : Prop := u.fab.cores = y.fab.cores ∧ u.fab.dies = y.fab.dies ∧ u.fab.net = y.fab.net

/-- At a hart that may access and tries it at once, PREFETCH.R, PREFETCH.W and PREFETCH.I that are not speculative, whose checks
pass for cacheable memory, complete with the caches as reading the line (for PREFETCH.W, owning it) leaves them, when the line
is on the die; when it must be fetched, the hint waits with its request sent. A hint whose checks fail is dropped and raises
nothing. A speculative PREFETCH.R or PREFETCH.I does the same to the caches, and a speculative PREFETCH.W nothing.
INSTRUCTION_FETCH on the correct path sets the pc to its address and, its checks passing and its line readable without poison,
leaves the caches as reading the line does. One on a predicted path does nothing while fetch is stopped, or past a branch that
OFF or a clearing leaves unpredicted. (05 Caches: R124, R125, R131; 03 Branch prediction and the wrong path: R75, R82, R83.) -/
def Obligations.HintsAndFetchesFillTheCaches : Prop :=
  (∀ (k : Hint) (h : HartId) (a : Access) (s s1 : State) (c : Checked),
    let op : HartOp := .hint k a
    let w := (s.starts h op).1
    s.accesses h (·.stamp) = true → s.ready h op = true →
    (s.starts h op).2.check h w (hintNeed k) .hint a.spec true false true [(a.va, 1)] = (c, s1) →
    (∀ p ps, c = .ok (p :: ps) → p.at_ = .mem → (k = .w → a.spec = false) →
      let q := { w with parts := p :: ps }.ask p.va (lineOf p.pa) a.spec
      (∀ d b s2, hintLine s1 h k p q = (.here d b, s2) → CompletesAt (hintRow k h a) h s fun u => linesOf s2 u) ∧
      (∀ s2, hintLine s1 h k p q = (.filed, s2) ∨ hintLine s1 h k p q = (.wait, s2) →
        CompletesAt (hintRow k h a) h s fun u => linesOf s2 u ∧
          ∃ y ∈ (u.hart (hartIx h)).waiting, y.op = .hint k a)) ∧
    (∀ tr, c = .fault tr → a.spec = false → CompletesAt (hintRow k h a) h s fun u => linesOf s1 u ∧
      (u.hart (hartIx h)).pc = (s1.hart (hartIx h)).pc ∧ (u.hart (hartIx h)).priv = (s1.hart (hartIx h)).priv) ∧
    (k = .w → a.spec = true → CompletesAt (.prefetchW h a) h s fun u => linesOf s u)) ∧
  (∀ (h : HartId) (va : Word) (after : Option FetchedBranch) (s : State),
    let s0 := match after with
      | some b => s.branchPassed h b va
      | none => s
    let s0 := s0.setHart (hartIx h) { s0.hart (hartIx h) with pc := va, fetchStall := none, unfetched := false }
    let op : HartOp := .fetch va false
    s.accesses h HartState.fetchStamp = true → s0.ready h op = true →
    ∀ s1 s2 ps b, (s0.startsAt h op va).2.check h (s0.startsAt h op va).1 .fetch .fetch false false true true [(va, 1)] = (.ok ps, s1) →
    s1.readParts h { (s0.startsAt h op va).1 with parts := ps } .fetch false ps = (.ok (b, false), s2) →
    CompletesAt (.instructionFetch h va ⟨false, after⟩) h s fun u => linesOf s2 u ∧
      (u.hart (hartIx h)).pc = (s2.hart (hartIx h)).pc) ∧
  (∀ (h : HartId) (va : Word) (after : Option FetchedBranch) (s : State), s.accesses h HartState.fetchStamp = true →
    ((s.hart (hartIx h)).fetchStall.isSome = true ∨ (s.predictOff h = true ∧ ∃ b, after = some b ∧ predictedPast b = true)) →
    exec (.instructionFetch h va ⟨true, after⟩) s = .next s)

/-- The row of a cache-block operation. -/
def cboRow (k : Cbo) (h : HartId) (a : Access) : Instr := match k with
  | .clean => .cboClean h a
  | .flush => .cboFlush h a
  | _ => .cboInval h a

/-- At a hart that may access, whose environment allows the operation and that tries it at once, a cache-block operation that is
not speculative, whose checks pass for cacheable memory, which nothing holds back, whose line no LR reservation of another
hart of the die protects and for which the die has a shared miss register free and no request or writeback outstanding,
completes: the die's copies of the line are cleaned or removed as the operation says, the matching request is the last message
sent, naming that line and die and carrying the dirty data taken, and the operation waits for the answer. CBO.INVAL acts by
the CBIE fields: as a flush or as an invalidation. (05 Caches: R126, R128; 06 Coherence: R142, R160, R171, R190.) -/
def Obligations.CacheBlockOperationsAskTheHome : Prop :=
  ∀ (k : Cbo) (h : HartId) (a : Access) (s s1 : State) (p : Part) (ps : List Part), k ≠ .invalFlush →
    let op : HartOp := .cbo k a
    let w : Waiting := { (s.starts h op).1 with parts := p :: ps }
    let act := if k = .inval then ((s.starts h op).2.hart (hartIx h)).inval.2 else k
    let line := lineOf p.pa
    let local_ := s1.cboLocal h.die line act
    let free (y : State) : Prop := (y.die h.die.val).findMiss line = none ∧ (y.die h.die.val).findWb line = none ∧
      ((y.die h.die.val).miss.filter (·.shared)).length < 1184
    a.spec = false → s.accesses h (·.stamp) = true → s.ready h op = true → s.allows h op →
    (s.starts h op).2.checkParts h (s.starts h op).1 .cbo (.cbo act) false false
      [(BitVec.ofNat 64 (a.va.toNat / 64 * 64), 64)] = (.ok (p :: ps), s1) →
    p.at_ = .mem → heldBack (s1.hart (hartIx h)).waiting w.lines = false →
    (act ≠ .clean → s1.reserved h.die (List.finRange 22) line (some h) = []) →
    free s1 → (s1.die h.die.val).wbFull = false → free local_.1 → local_.1.dieFenced h.die.val = false →
    CompletesAt (cboRow k h a) h s fun u =>
      (u.die h.die.val).l3 = (local_.1.die h.die.val).l3 ∧
      (∃ m, u.fab.net = local_.1.fab.net ++ [m] ∧ m.op = act.msg ∧ m.line = line ∧ m.src = h.die.val ∧ m.req = h.die.val ∧
        m.dst = local_.1.homeAgent line ∧ m.data = (local_.2.map (·.1)).getD []) ∧
      ((u.die h.die.val).findMiss line).map (·.op) = some act.msg ∧
      ((u.die h.die.val).findWb line).isSome = local_.2.isSome ∧
      ∃ y ∈ (u.hart (hartIx h)).waiting, y.op = .cbo k a ∧ y.issued = true

/-- At a hart that tries them at once: WFI, where allowed, leaves the hart stopped in WFI, or running when an enabled interrupt is
pending; then its core's other hart goes on. BRANCH_MISPREDICT of a branch on the correct path sets the pc to the branch's
target, leaves no speculative operation, store, walk or stopped fetch, trains the core's predictor as OFF, a clearing and the
branch's checkpoint let it, and moves the history on from that checkpoint; one of a branch that is itself speculative trains
and moves the history as well, and leaves the pc. CQZHUE_WRITE, where allowed, leaves cqzhue with the implemented bits of the
value; when the effective hue changes the accumulated counts are sent and zero. CQZBPCTL_OFF_WRITE sets OFF, discards the
speculative instructions and zeroes the accumulated counts. FLUSH, once the hart's older operations are done, begins a
clearing for the hart, or joins the next when one runs, and waits for it to end. (02 Cores and instruction set: R42, R48, R52,
R53; 03 Branch prediction and the wrong path: R72, R73, R75, R76, R78, R79, R80; 11 Metering and the ledger: R287.) -/
def Obligations.WaitsAndBranchesMoveTheHart : Prop :=
  (∀ (h : HartId) (s : State), s.executes h = true → s.ready h .wfi = true → s.allows h .wfi →
    let x := ((s.starts h .wfi).2.hart (hartIx h)).retire (s.starts h .wfi).1.stamp
    ∃ u, exec (.wfi h) s = .next ((s.settled u h).advance (siblingOf h)) ∧
      (u.hart (hartIx h)).run = (if x.getCsr 0x344 &&& x.getCsr 0x304 ≠ 0 then .running else .wfi)) ∧
  (∀ (h : HartId) (pc target : Word) (taken : Bool) (kind : BranchKind) (s : State), s.executes h = true →
    let x := s.hart (hartIx h)
    let trained := (s.train h pc target kind taken).core (coreIx h)
    let hist := (x.rewind (s.predictOff h) pc target kind taken).history
    (x.front = [] → x.waiting.any Waiting.canTrap = false → x.waiting.any (·.op.isSerial) = false →
      (s.sharers h * (x.waiting.length + 1) ≤ 320) →
      CompletesAt (.branchMispredict h pc target ⟨taken, kind, false⟩) h s fun u =>
        let y := u.hart (hartIx h)
        y.pc = target ∧ y.specStores = [] ∧ y.specDone = [] ∧ y.fetchStall = none ∧ y.checkpoints = [] ∧
        y.waiting = x.waiting.filter (fun w => !w.op.isSpec) ∧ y.walk.any (·.spec) = false ∧
        (u.core (coreIx h)).predictor = trained.predictor ∧ y.history = hist) ∧
    CompletesAt (.branchMispredict h pc target ⟨taken, kind, true⟩) h s fun u =>
      let y := u.hart (hartIx h)
      y.pc = x.pc ∧ y.history = hist ∧ y.fetchStall = none ∧ (u.core (coreIx h)).predictor = trained.predictor ∧
      (∀ w ∈ y.waiting, w ∈ x.waiting)) ∧
  (∀ (h : HartId) (v : Word) (s : State), s.writes h = true →
    let x := s.hart (hartIx h)
    (s.ready h (.csr 0x6C0 v) = true → s.allows h (.csr 0x6C0 v) → CompletesAt (.cqzhueWrite h v) h s fun u =>
      let y := u.hart (hartIx h)
      y.cqzhue = v &&& 0x10FFF ∧ y.x = x.x ∧ y.pc = x.pc ∧
      (({ x with cqzhue := v &&& 0x10FFF } : HartState).hue ≠ x.hue → y.accCycles = 0 ∧ y.accSteady = 0)) ∧
    (s.ready h (.csr 0x5C0 (v &&& 1)) = true → s.allows h (.csr 0x5C0 (v &&& 1)) → CompletesAt (.cqzbpctlOffWrite h v) h s fun u =>
      let y := u.hart (hartIx h)
      bit y.cqzbpctl 0 = bit v 0 ∧ y.specStores = [] ∧ y.accCycles = 0 ∧ y.accSteady = 0 ∧ y.x = x.x) ∧
    (s.ready h (.bpFlush (bit v 0)) = true → s.allows h (.bpFlush (bit v 0)) → s.drained h = true →
      CompletesAt (.flush h v) h s fun u =>
        let c := s.core (coreIx h)
        let k := u.core (coreIx h)
        k.predictor = c.predictor ∧ (c.clearing = none → k.clearing = some [h.thread]) ∧
        (∀ ts, c.clearing = some ts → k.clearing = some ts ∧ h.thread ∈ k.clearAgain) ∧
        ∃ y ∈ (u.hart (hartIx h)).waiting, y.op = .bpFlush (bit v 0) ∧ y.issued = true))

/-- PREDICTOR_CLEARING_DONE at a core whose harts have nothing waiting leaves the core's prediction structures and the histories
and return-address stacks of the harts it serves empty, and starts a clearing for the writes that came after it began. The
write of FLUSH that alone waited for it retires then, and sets OFF as it says. CACHE_FLUSH_DONE leaves FLUSH_BUSY clear and,
of the lines recorded when the flush started, none in the cache it flushed; a reset of a hart that waited for it completes.
(02 Cores and instruction set: R52, R53, R54; 03 Branch prediction and the wrong path: R78, R79; 05 Caches: R131, R133, R134,
R135.) -/
def Obligations.CoreFlushesAndClearingsFinish : Prop :=
  (∀ (c : CoreId) (ts : List (Fin 2)) (s : State), s.clocked = true → (s.core (coreKey c)).clearing = some ts →
    (∀ h ∈ hartsOf c, (s.hart (hartIx h)).quiet) →
    Completes (.predictorClearingDone c) s fun t =>
      let k := t.core (coreKey c)
      k.predictor = {} ∧ k.clearAgain = [] ∧
      k.clearing = (if (s.core (coreKey c)).clearAgain.isEmpty then none else some (s.core (coreKey c)).clearAgain) ∧
      ∀ i ∈ ts, (t.hart (hartIx ⟨c.die, c.core, i⟩)).history = 0 ∧ (t.hart (hartIx ⟨c.die, c.core, i⟩)).ras = []) ∧
  (∀ (c : CoreId) (i : Fin 2) (off : Bool) (w : Waiting) (s : State), s.clocked = true →
    let h : HartId := ⟨c.die, c.core, i⟩
    let x := s.hart (hartIx h)
    (s.core (coreKey c)).clearing = some [i] → (s.core (coreKey c)).clearAgain = [] →
    w.op = .bpFlush off → w.issued = true → x.waiting = [w] → x.front = [] → x.ctl = none → x.walk = none →
    Completes (.predictorClearingDone c) s fun t =>
      (t.core (coreKey c)).clearing = none ∧ (t.core (coreKey c)).predictor = {} ∧
      (t.hart (hartIx h)).waiting = [] ∧ bit (t.hart (hartIx h)).cqzbpctl 0 = off ∧ (t.hart (hartIx h)).history = 0) ∧
  (∀ (c : CoreId) (k : FlushKind) (s : State), s.clocked = true → (s.core (coreKey c)).flushing = some k →
    Completes (.cacheFlushDone c) s fun t =>
      (t.core (coreKey c)).flushing = none ∧ (t.core (coreKey c)).flushLines = [] ∧
      (∀ i, (s.core (coreKey c)).resetAfter = [i] → (t.hart (hartIx ⟨c.die, c.core, i⟩)).run = .parked) ∧
      ((s.core (coreKey c)).resetAfter = [] → ∀ l ∈ (s.core (coreKey c)).flushLines,
        match k with
        | .l1i => (t.core (coreKey c)).findL1i l = none
        | .l1d => (t.core (coreKey c)).findL1d l = none
        | .l2 => (t.core (coreKey c)).findL2 l = none))

/-- REGISTER_WRITE at a hart that tries it at once, where the privilege allows it: cqzkeyr holds the low 32 bits of the value and
nothing else of the hart's registers changes, cqzmctl its two fields, mscratch (V = 0) the value. A store of 8 bytes to a
hart's mtimecmp, outside Partitioned mode, leaves that timer at the value and its interrupt pending exactly when the time base
has reached it; one to a forget queue's MSI address leaves it there. A store to a window that only reads raises a store access
fault (cause 7). (02 Cores and instruction set: R44, R46, R57, R62; 09 HBM memory: R252; 10 Hues: R274.) -/
def Obligations.RegisterWritesTakeEffectAtOnce : Prop :=
  (∀ (h : HartId) (v : Word) (s : State), s.writes h = true →
    let x := s.hart (hartIx h)
    let may (n : Nat) : Prop := s.ready h (.csr n v) = true ∧ s.allows h (.csr n v)
    (may 0x800 → CompletesAt (.registerWrite (.csr h 0x800 v)) h s fun u =>
      (u.hart (hartIx h)).cqzkeyr = v &&& 0xFFFFFFFF ∧ (u.hart (hartIx h)).x = x.x ∧ (u.hart (hartIx h)).cqzhue = x.cqzhue ∧
      ∀ i, i ≠ hartIx h → u.hart i = s.hart i) ∧
    (may 0x7C0 → CompletesAt (.registerWrite (.csr h 0x7C0 v)) h s fun u => (u.hart (hartIx h)).cqzmctl = v &&& 3) ∧
    (may 0x340 → x.virt = false → CompletesAt (.registerWrite (.csr h 0x340 v)) h s fun u =>
      (u.hart (hartIx h)).getCsr 0x340 = v)) ∧
  (∀ (h g : HartId) (v : Word) (s : State), s.executes h = true → s.scopeMode ≠ .partitioned →
    Completes (.registerWrite (.mmio h (0x9000000 + 8 * hartIx g) 8 v)) s fun t =>
      (t.hart (hartIx g)).mtimecmp = v ∧ bit ((t.hart (hartIx g)).getCsr 0x344) 7 = decide (v.toNat ≤ s.now.toNat)) ∧
  (∀ (h : HartId) (q : Fin 16) (v : Word) (s : State), s.executes h = true → s.scopeMode ≠ .partitioned →
    Completes (.registerWrite (.mmio h (0x200000 + q.val * 0x1000 + 0x28) 8 v)) s fun t => (t.forget q.val).msiAddr = v) ∧
  (∀ (h : HartId) (off : Nat) (v : Word) (s : State), s.executes h = true → off < 0x100000 →
    Completes (.registerWrite (.mmio h off 8 v)) s fun t =>
      ∃ u : State, t.hart (hartIx h) = (u.hart (hartIx h)).takeTrap
        { cause := 7, tval := BitVec.ofNat 64 (0x40000000 + off), gva := (s.hart (hartIx h)).virt } ∧
        (u.hart (hartIx h)).pc = (s.hart (hartIx h)).pc ∧ t.hub.ledger = s.hub.ledger ∧ t.mgmt.pdr = s.mgmt.pdr)

/-- WALK_READ of a single-stage walk whose entry reads, without poison, as a leaf with A = 1 that denies the access nothing ends
the walk, when nothing of the hart waits, with a TLB entry that maps the walk's address to the leaf's page; one that misses
leaves the walk waiting with its request sent. MISS_REGISTER_FREED tries the core's waiting operations again: with none,
harts, caches and messages are as before. L3_WAY_FREED completes a fill that waited for a way, where the die has one now.
MTIMECMP_MATCH makes the machine timer interrupt pending, or with Sstc the supervisor's, and a waiting hart with it enabled
runs. DEBUG_HALT_REQUEST puts a released hart into Debug mode with its core awake. LR_RESERVATION_DELAY_EXPIRY lets the
delayed probe go: at a die where nothing else waits it only marks the delay spent. (04 Address translation and protection
keys: R94, R95; 05 Caches: R118, R121; 06 Coherence: R171; 10 Hues: R274; 19 Power states and clocks: R452.) -/
def Obligations.WalksFillsAndTimersAdvance : Prop :=
  (∀ (h : HartId) (w : Walk) (pa : Nat) (data : Bytes) (s s1 : State), s.clocked = true →
    let x := s.hart (hartIx h)
    x.walk = some w → w.fault = none → w.g = none → w.s1 = none → w.gmode = 0 → w.fillError = false →
    w.nextPa = some pa → x.quiet → x.resv = none →
    (s.region (s.partOfDie h.die.val) pa).isMemory = true → x.pmpOk .s pa 8 .load = true →
    let s0 := if w.asked.isSome || w.served then s else s.countWalkMiss h (lineOf pa) w.stamp
    let q : Ask := { va := 0, hue := w.stamp.hue, counted := w.asked.isSome, served := w.served, spec := w.spec }
    (s0.readLine h (lineOf pa) .walk q = (.here data false, s1) →
      ∀ size ppn attr g,
        readPte (BitVec.ofNat 64 (leAt data (pa % 64) 8)) w.level false ((s1.hart (hartIx h)).keyOn w.stamp.virt)
          ((s1.hart (hartIx h)).shadowOn w.stamp.virt) ((s1.hart (hartIx h)).pbmtOn w.stamp.virt false)
          = .leaf size ppn attr true g →
        (s1.hart (hartIx h)).denies1 attr w.need w.stamp w.hint w.va = none →
        Completes (.walkRead h) s fun t => (t.hart (hartIx h)).walk = none ∧
          ∃ e ∈ (if w.need = .fetch then (t.hart (hartIx h)).itlb else (t.hart (hartIx h)).dtlb),
            e.vpn = w.va.toNat / 2 ^ size ∧ e.sizeBits = size ∧
            e.ppn = (ppn * 2 ^ size + w.va.toNat % 2 ^ size) / 2 ^ size ∧ e.attr = attr) ∧
    (s0.readLine h (lineOf pa) .walk q = (.filed, s1) →
      Completes (.walkRead h) s fun t => (t.hart (hartIx h)).walk = some { w with asked := some (lineOf pa) } ∧
        t.fab.net = s1.fab.net ∧ t.fab.cores = s1.fab.cores)) ∧
  (∀ (c : CoreId) (line : Nat) (s : State), s.clocked = true → (∀ h ∈ hartsOf c, (s.hart (hartIx h)).quiet) →
    Completes (.missRegisterFreed c line) s fun t => (∀ i, t.hart i = s.hart i) ∧ t.fab.cores = s.fab.cores ∧
      t.fab.dies = s.fab.dies ∧ t.fab.net = s.fab.net) ∧
  (∀ (c : CoreId) (line : Nat) (s : State), s.clocked = true →
    let retried (y : State) (i : Fin 2) : State := y.settled (y.retryHart ⟨c.die, c.core, i⟩) ⟨c.die, c.core, i⟩
    exec (.missRegisterFreed c line) s = .next (retried (retried s 0) 1)) ∧
  (∀ (d : Fin 12) (n : L3Miss) (m : Msg) (s s1 : State), s.clocked = true → s.dieQuiet d →
    (s.die d.val).findMiss n.line = some n → n.filled = some m → n.nc = false → n.wantOwn = false → n.ncDirty = false →
    s.installL3 d n.line (grantState m.flag) m.data (m.poison || m.flag = 3) n.hint n.hue n.spec = (true, s1) → s1.dieQuiet d →
    Completes (.l3WayFreed d n.line) s fun t => (t.die d.val).findMiss n.line = none ∧
      (t.die d.val).l3 = (s1.die d.val).l3) ∧
  (∀ (h : HartId) (s : State), s.clocked = true →
    Completes (.mtimecmpMatch h false) s (fun t => bit ((t.hart (hartIx h)).getCsr 0x344) 7 = true ∧
      ((s.hart (hartIx h)).run = .wfi → bit ((s.hart (hartIx h)).getCsr 0x304) 7 = true → (t.hart (hartIx h)).run = .running) ∧
      (s.hart (hartIx h)).mtimecmp.toNat ≤ t.now.toNat) ∧
    (bit ((s.hart (hartIx h)).getCsr 0x30A) 63 = true → Completes (.mtimecmpMatch h true) s fun t =>
      bit ((t.hart (hartIx h)).getCsr 0x344) 5 = true)) ∧
  (∀ (h : HartId) (s : State), s.clocked = true → (s.hart (hartIx h)).run ≠ .held → (s.hart (hartIx h)).run ≠ .debug →
    Completes (.debugHaltRequest h) s fun t => (t.hart (hartIx h)).run = .debug ∧ (t.core (coreIx h)).idle = .cs0) ∧
  (∀ (h : HartId) (r : Resv) (s : State), s.clocked = true → (s.hart (hartIx h)).resv = some r → r.delaying = true →
    s.dieIdle h.die →
    Completes (.lrReservationDelayExpiry h) s fun t => (t.hart (hartIx h)).resv = some { r with expired := true })

/-- At a hart that executes, each access command (LOAD, STORE, AMO, LR, SC, the cache-block operations, the hints and
INSTRUCTION_FETCH) made while the effective hue of its access is in FREE or RESETTING ends in the fault deadHue; made under
any other hue it ends in a next state. Formalises R51. -/
def Obligations.DeadHueAccessesStop : Prop :=
  ∀ (h : HartId) (a : Access) (v : Word) (b : BitVec 128) (rd : Fin 32) (zext : Bool) (l : LoadClass) (k : StoreClass)
    (op : AmoOp) (va : Word) (after : Option FetchedBranch) (s : State), s.executes h = true →
    let x := (s.hart (hartIx h)).ahead
    let rows : List (Instr × Stamp) :=
      [(.load h a rd zext l, x.stamp a.hv), (.store h a v k, x.stamp a.hv), (.amo h a op b b rd, x.stamp),
       (.lr h a rd, x.stamp), (.sc h a v rd, x.stamp), (.cboClean h a, x.stamp), (.cboFlush h a, x.stamp),
       (.cboInval h a, x.stamp), (.cboZero h a, x.stamp), (.prefetchR h a, x.stamp), (.prefetchW h a, x.stamp),
       (.prefetchI h a, x.stamp), (.instructionFetch h va ⟨a.spec, after⟩, x.fetchStamp)]
    ∀ q ∈ rows,
      ((s.hueLife q.2.hue = .free ∨ s.hueLife q.2.hue = .resetting) → exec q.1 s = .fault .deadHue) ∧
      (s.hueLife q.2.hue ≠ .free → s.hueLife q.2.hue ≠ .resetting → ∃ t, exec q.1 s = .next t)

/-- The commands of a hart that make no access. -/
def quietRows (h : HartId) (f : FenceArgs) (k : InvalKind) (v pc target : Word) (taken : Bool) (b : BranchKind) (spec : Bool) :
    List Instr :=
  [.fence h, .fenceI h, .sfenceVma h f, .hfenceVvma h f, .hfenceGvma h f, .sinvalVma h k f, .sfenceWInval h,
   .sfenceInvalIr h, .wfi h, .branchMispredict h pc target ⟨taken, b, spec⟩, .cqzhueWrite h v, .cqzbpctlOffWrite h v, .flush h v,
   .flushL1i h v, .flushL1d h v, .flushL2 h v]

/-- Frame. FENCE, FENCE.I, the SFENCE, HFENCE and SINVAL commands, WFI, BRANCH_MISPREDICT, CQZHUE_WRITE, CQZBPCTL_OFF_WRITE, FLUSH
and the three cache flush writes, at a hart with nothing that waits and a core whose other hart has nothing that waits for
dispatch, when they end in a next state, leave unchanged every stored byte and check byte of the HBM stacks, the written map,
the lifecycle of every hue, the configuration in force and staged, the configuration store, the ledger, the mode, the
interrupt files and the mailboxes, every message in flight, the time base, and every hart but their own, save that a fence
makes the walk of the core's other hart begin again. They leave their own hart's integer, floating-point and vector registers
unchanged. (03 Branch prediction and the wrong path: R84; 05 Caches: R127; 02 Cores and instruction set: R46; 04 Address
translation and protection keys: R107.) -/
def Obligations.HartCommandsLeaveTheRestAlone : Prop :=
  ∀ (h : HartId) (f : FenceArgs) (k : InvalKind) (v pc target : Word) (taken : Bool) (b : BranchKind) (spec : Bool) (s t : State),
    (s.hart (hartIx h)).quiet → (s.hart (hartIx (siblingOf h))).front = [] →
    ∀ c ∈ quietRows h f k v pc target taken b spec, exec c s = .next t →
      t.mem = s.mem ∧ t.hub.hues = s.hub.hues ∧ t.hub.ledger = s.hub.ledger ∧ t.hub.imsic = s.hub.imsic ∧
      t.mgmt.config = s.mgmt.config ∧ t.mgmt.store = s.mgmt.store ∧ t.mgmt.mode = s.mgmt.mode ∧ t.mgmt.mail = s.mgmt.mail ∧
      t.fab.net = s.fab.net ∧ t.fab.dies = s.fab.dies ∧ t.now = s.now ∧ t.pending = s.pending ∧
      (∀ i, i ≠ hartIx h → { t.hart i with walk := none } = { s.hart i with walk := none }) ∧
      (t.hart (hartIx h)).x = (s.hart (hartIx h)).x ∧
      (t.hart (hartIx h)).f = (s.hart (hartIx h)).f ∧ (t.hart (hartIx h)).v = (s.hart (hartIx h)).v

/-- The row of a request. -/
def requestRow (m : Msg) : Option Instr := match m.op with
  | .rdS => some (.rds m)
  | .rdO => some (.rdo m)
  | .upg => some (.upg m)
  | .claimZ => some (.claimz m)
  | .cmoClean => some (.cmoclean m)
  | .cmoFlush => some (.cmoflush m)
  | .cmoInval => some (.cmoinval m)
  | .rdOnce => some (.rdonce m)
  | .wrFull => some (.wrfull m)
  | .wrPart => some (.wrpart m)
  | .atomIO => some (.atomio m)
  | _ => none

/-- The forward that the transition tables give a request for a line Owned by another agent (R155, R167). -/
def ownerForward (o : Op) : Op := match o with
  | .rdS => .fwdS
  | .rdO => .fwdO
  | .upg => .fwdO
  | .claimZ => .recallDiscard
  | .cmoClean => .fwdClean
  | .cmoFlush => .recall
  | .cmoInval => .recallDiscard
  | .rdOnce => .fwdSnap
  | .wrFull => .recallDiscard
  | _ => .recall

/-- The home of a request accepts it and begins it at once. -/
def homeBegins (s : State) (m : Msg) : Prop :=
  let k := lineSlice m.line
  let x := s.home k
  s.clocked = true ∧ 32 ≤ m.dst ∧ (m.src < 12 → s.dieFenced m.src = false) ∧ s.agentLost m.req = false ∧
  (∀ p, s.domainOf m.req = some p → m.hue = 0 ∨ s.partOfHue m.hue.toNat = some p) ∧
  x.fenced = false ∧ mayRequest m.req m.op = true ∧ (s.region (s.domainOf m.req) (m.line * 64)).isMemory = true ∧
  x.heldBack = [] ∧ s.trackerFree k m = true ∧ x.busy m.line = false ∧ (∀ q ∈ x.waitq, q.line ≠ m.line) ∧
  (∀ r ∈ x.recov, r.set ≠ lineSet m.line) ∧ (∀ e ∈ x.dir, e.2.bad = false ∧ e.2.soft = false)

/-- The home of a line holds no message back for want of a tracker. -/
def nothingHeld (s : State) (line : Nat) : Prop :=
  (s.home (lineSlice line)).heldBack = [] ∧ (s.home (lineSlice line)).wbHeldBack = []

/-- The forward of a request's home to an agent. -/
def forwardOf (m : Msg) (op : Op) (agent : Nat) : Msg :=
  { op := op, line := m.line, src := 32 + lineSlice m.line, dst := agent, req := m.req, txid := m.txid, hue := m.hue, cls := m.cls }

/-- A request message (RDS, RDO, UPG, CLAIMZ, CMOCLEAN, CMOFLUSH, CMOINVAL, RDONCE, WRFULL, WRPART or ATOMIO) that its home
accepts (the home is not fenced, the requester may send the opcode, the line is main memory, a tracker is free, and neither
line nor set is busy) and whose directory entry is Owned by another agent that can answer, completes: the request leaves the
transport, exactly one message is sent, the forward that the transition table gives that request, to the owner, with the
request's line, requester, TXID, hue and class; the entry stays until the transaction completes, memory is not asked, and the
home waits for that one answer. (06 Coherence: R141, R150, R153, R154, R155, R160, R167, R525.) -/
def Obligations.RequestToOwnedLineForwardsToTheOwner : Prop :=
  ∀ (m : Msg) (row : Instr) (s : State) (key : Nat) (e : DirEntry) (o : Nat) (more : List Nat),
    requestRow m = some row → homeBegins s m →
    (s.home (lineSlice m.line)).find m.line = some (key, e) → e.st = .owned → holderList e.holders = o :: more →
    (cachedReq m.op = true → e.holders ≠ holderMask m.req) → s.agentLost o = false →
    Completes row s fun t =>
      t.fab.net = s.fab.net.erase m ++ [forwardOf m (ownerForward m.op) o] ∧
      (t.home (lineSlice m.line)).find m.line = some (key, e) ∧ t.mem = s.mem ∧
      ((t.home (lineSlice m.line)).txn m.line).map (fun x => (x.req, x.acks.map fun a => (a.agent, a.op))) =
        some (m, [(o, ownerForward m.op)])

/-- The home's answer to a request's sender. -/
def homeAnswerOf (m : Msg) (op : Op) (flag : BitVec 2) : Msg :=
  { op := op, line := m.line, src := 32 + lineSlice m.line, dst := m.req, req := m.req, txid := m.txid, hue := m.hue, cls := m.cls,
    flag := flag }

/-- A request that its home accepts for a line with no directory entry, with nothing else of the home waiting for a way: RDS, RDO
and UPG (a way of the set being free) and RDONCE, WRPART and ATOMIO send no message yet and ask memory for that line; CLAIMZ
(a way being free) answers Grant at once; CMOCLEAN, CMOFLUSH and CMOINVAL answer CmoDone at once and leave no transaction
open; WRFULL asks memory to write exactly the request's data. A request whose requester may not send its opcode, or for what
is not main memory, is answered Error with FLAG UNSUPPORTED, and one to a fenced home Error with FLAG FENCED. (06 Coherence:
R145, R155, R160, R161, R167, R191.) -/
def Obligations.RequestToFreeLineReadsOrAnswers : Prop :=
  (∀ (m : Msg) (row : Instr) (s : State),
    requestRow m = some row → homeBegins s m → (s.home (lineSlice m.line)).find m.line = none →
    (s.home (lineSlice m.line)).wbs = [] → (∀ t ∈ (s.home (lineSlice m.line)).txns, t.waitWay = false ∧ t.parent ≠ some m.line) →
    let k := lineSlice m.line
    let x := s.home k
    let way : Prop := ∃ w < 12, x.taken (lineSet m.line * 12 + w) = false
    let read : MemReq := { client := .home (Fin.ofNat 32 k), line := m.line, write := false, hue := m.hue, cls := m.cls }
    ((m.op = .rdS ∨ m.op = .rdO ∨ m.op = .upg) → way → Completes row s fun t =>
      t.fab.net = s.fab.net.erase m ∧ t.mem.reqs = s.mem.reqs ++ [read] ∧ ((t.home k).txn m.line).map (·.rd) = some true) ∧
    ((m.op = .rdOnce ∨ m.op = .wrPart ∨ m.op = .atomIO) → Completes row s fun t =>
      t.fab.net = s.fab.net.erase m ∧ t.mem.reqs = s.mem.reqs ++ [read] ∧ ((t.home k).txn m.line).map (·.rd) = some true) ∧
    (m.op = .claimZ → way → Completes row s fun t =>
      t.fab.net = s.fab.net.erase m ++ [homeAnswerOf m .grant 0] ∧ t.mem.reqs = s.mem.reqs ∧
        ((t.home k).txn m.line).map (·.compWait) = some true) ∧
    ((m.op = .cmoClean ∨ m.op = .cmoFlush ∨ m.op = .cmoInval) → Completes row s fun t =>
      t.fab.net = s.fab.net.erase m ++ [homeAnswerOf m .cmoDone 0] ∧ t.mem.reqs = s.mem.reqs ∧ (t.home k).txn m.line = none) ∧
    (m.op = .wrFull → Completes row s fun t =>
      t.fab.net = s.fab.net.erase m ∧ t.mem.reqs = s.mem.reqs ++
        [{ client := .home (Fin.ofNat 32 k), line := m.line, write := true, data := m.data, poison := m.poison, hue := m.hue,
           cls := m.cls }])) ∧
  (∀ (m : Msg) (row : Instr) (s : State), requestRow m = some row → s.clocked = true → 32 ≤ m.dst →
    (m.src < 12 → s.dieFenced m.src = false) → s.domainOf m.req = none →
    ((s.home (lineSlice m.line)).fenced = true → Completes row s fun t =>
      t.fab.net = s.fab.net.erase m ++ [homeAnswerOf m .error 2]) ∧
    ((s.home (lineSlice m.line)).fenced = false →
      (mayRequest m.req m.op = false ∨ (s.region none (m.line * 64)).isMemory = false) → Completes row s fun t =>
      t.fab.net = s.fab.net.erase m ++ [homeAnswerOf m .error 1] ∧ t.fab.homes = s.fab.homes))

/-- A request that its home accepts for a line Shared by agents that can answer: RDO, UPG, CLAIMZ, CMOFLUSH, CMOINVAL, WRFULL,
WRPART and ATOMIO send Inv to each holder (other than the requester, for the requests of a cache) and nothing else, when there
is one such holder at least, and wait for all their answers; RDS sends nothing and asks memory for the line. (06 Coherence:
R155, R158, R160, R167.) -/
def Obligations.RequestToSharedLineInvalidatesTheHolders : Prop :=
  ∀ (m : Msg) (row : Instr) (s : State) (key : Nat) (e : DirEntry),
    requestRow m = some row → homeBegins s m →
    (s.home (lineSlice m.line)).find m.line = some (key, e) → e.st = .shared →
    (∀ a ∈ holderList e.holders, s.agentLost a = false) →
    let k := lineSlice m.line
    let invs := (holderList e.holders).filter fun a => !(cachedReq m.op && a = m.req)
    (m.op ∈ [Op.rdO, .upg, .claimZ, .cmoFlush, .cmoInval, .wrFull, .wrPart, .atomIO] → invs ≠ [] → Completes row s fun t =>
      t.fab.net = s.fab.net.erase m ++ invs.map (forwardOf m .inv) ∧
      ((t.home k).txn m.line).map (fun x => x.acks.map fun a => (a.agent, a.op)) = some (invs.map fun a => (a, Op.inv)) ∧
      (t.home k).find m.line = some (key, e)) ∧
    (m.op = .rdS → Completes row s fun t =>
      t.fab.net = s.fab.net.erase m ∧ t.mem.reqs = s.mem.reqs ++
        [{ client := .home (Fin.ofNat 32 k), line := m.line, write := false, hue := m.hue, cls := m.cls }])

/-- WBDATA from the owner of a line that is not busy asks memory to write exactly its data, and is acknowledged only later; from
any other agent it is acknowledged at once with WbAck and its data is dropped. RDNS asks memory for the line and WRNS of a
whole line asks memory to write it, reading no directory entry, when their slice holds nothing back and a tracker is free.
REQUEST_BEGIN of a line whose oldest waiting request meets an entry Owned by another agent takes it from the queue and sends
the row's forward. DIRECTORY_SCRUB, while enabled, moves on to the next set; a clean set changes nothing else, a corrected one
logs a record, and an uncorrectable one with no transaction open sends a set recall to every die in service and peer present.
(06 Coherence: R148, R154, R159, R168.) -/
def Obligations.WritebacksNoSnoopAndScrubs : Prop :=
  (∀ (m : Msg) (s : State), m.op = .wbData → homeBegins s m →
    let k := lineSlice m.line
    let x := s.home k
    x.wbs = [] →
    let owner := match x.find m.line with
      | some (_, e) => e.st = .owned ∧ e.holders = holderMask m.req
      | none => False
    (owner → Completes (.wbdata m) s fun t => t.fab.net = s.fab.net.erase m ∧ t.mem.reqs = s.mem.reqs ++
        [{ client := .home (Fin.ofNat 32 k), line := m.line, write := true, data := m.data, poison := m.poison, hue := m.hue,
           cls := m.cls }] ∧ (t.home k).wbs = [{ msg := m, phase := .writing }]) ∧
    (¬ owner → Completes (.wbdata m) s fun t => t.fab.net = s.fab.net.erase m ++ [homeAnswerOf m .wbAck 0] ∧
        t.mem = s.mem ∧ t.fab.homes = s.fab.homes)) ∧
  (∀ (m : Msg) (s : State), s.clocked = true → 32 ≤ m.dst → (m.src < 12 → s.dieFenced m.src = false) →
    (s.home (lineSlice m.line)).fenced = false → mayRequest m.req m.op = true →
    (s.region (s.domainOf m.req) (m.line * 64)).isMemory = true →
    (∀ p, s.domainOf m.req = some p → m.hue = 0 ∨ s.partOfHue m.hue.toNat = some p) →
    (s.home (lineSlice m.line)).heldBack = [] → s.trackerFree (lineSlice m.line) m = true →
    (m.op = .rdNS → Completes (.rdns m) s fun t => t.fab.homes = s.fab.homes ∧ t.mem.reqs = s.mem.reqs ++
        [{ client := .noSnoop m.txid, line := m.line, write := false, hue := m.hue, cls := m.cls }]) ∧
    (m.op = .wrNS → m.mask = BitVec.allOnes 64 → Completes (.wrns m) s fun t => t.fab.homes = s.fab.homes ∧
      t.mem.reqs = s.mem.reqs ++
        [{ client := .noSnoop m.txid, line := m.line, write := true, data := m.data, poison := m.poison, hue := m.hue,
           cls := m.cls }])) ∧
  (∀ (m : Msg) (row : Instr) (s : State) (key : Nat) (e : DirEntry) (o : Nat) (more : List Nat) (k : Fin 32),
    s.clocked = true → requestRow m = some row → s.agentLost m.req = false → (s.home k.val).busy m.line = false →
    (∀ r ∈ (s.home k.val).recov, r.set ≠ lineSet m.line) →
    (∀ q ∈ (s.home k.val).dir, q.2.bad = false ∧ q.2.soft = false) →
    ((s.home k.val).waitq.find? fun q => q.line = m.line) = some m →
    (s.home k.val).find m.line = some (key, e) → e.st = .owned → holderList e.holders = o :: more →
    (cachedReq m.op = true → e.holders ≠ holderMask m.req) → s.agentLost o = false →
    Completes (.requestBegin k m.line) s fun t =>
      (t.home k.val).waitq = (s.home k.val).waitq.erase m ∧
      t.fab.net = s.fab.net ++ [{ forwardOf m (ownerForward m.op) o with src := 32 + k.val }]) ∧
  (∀ (k : Fin 32) (s : State), s.clocked = true → bit (s.cfg 0x0100) 0 = true →
    let x := s.home k.val
    let set := x.scrubSet.val
    ((∀ e ∈ x.dir, e.2.bad = false ∧ e.2.soft = false) →
      Completes (.directoryScrub k .clean) s (fun t => t.home k.val = { x with scrubSet := x.scrubSet + 1 } ∧
        t.mgmt.log = s.mgmt.log ∧ t.fab.net = s.fab.net) ∧
      (s.mgmt.log.queue.length < 1024 → Completes (.directoryScrub k .corrected) s fun t =>
        t.home k.val = { x with scrubSet := x.scrubSet + 1 } ∧
        t.mgmt.log.queue.length = s.mgmt.log.queue.length + 1)) ∧
    (x.recov = [] → x.heldBack = [] → x.wbHeldBack = [] → (∀ t ∈ x.txns, lineSet t.line ≠ set ∧ t.waitWay = false) →
      s.recallAgents ≠ [] →
      Completes (.directoryScrub k .uncorrectable) s fun t =>
        (t.home k.val).recov.map (fun r => (r.set, r.started, r.acks.map (·.agent))) = [(set, true, s.recallAgents)] ∧
        (t.home k.val).dir = x.dir))

/-- The row of a forward. -/
def forwardRow (m : Msg) : Option Instr := match m.op with
  | .fwdS => some (.fwds m)
  | .fwdO => some (.fwdo m)
  | .fwdSnap => some (.fwdsnap m)
  | .fwdClean => some (.fwdclean m)
  | .inv => some (.inv m)
  | .recall => some (.recall m)
  | .recallDiscard => some (.recalldiscard m)
  | _ => none

/-- A message of the die that a forward reached, in that forward's transaction. -/
def dieMsg (m : Msg) (op : Op) (dst : Nat) (flag : BitVec 2) (data : Bytes) (poison : Bool) : Msg :=
  { op := op, line := m.line, src := m.dst, dst := dst, req := m.req, txid := m.txid, hue := m.hue, cls := m.cls, flag := flag,
    data := data, poison := poison }

/-- What a die sends for a forward, holding the line as `l`, or not at all (R141, R150, R152). -/
def dieReplies (m : Msg) (l : Option L3Line) : List Msg :=
  let ack (op : Op) (flag : BitVec 2) : Msg := dieMsg m op m.src flag [] false
  match m.op, l with
  | .fwdS, some l => [dieMsg m .data m.req 0 l.data l.poison,
      if l.st = .m then dieMsg m .fwdAckData m.src 1 l.data l.poison else ack .fwdAck 1]
  | .fwdO, some l => [dieMsg m .data m.req (if l.st = .m then 2 else 1) l.data l.poison, ack .fwdAck 1]
  | .fwdSnap, some l => [dieMsg m .dataOnce m.req 0 l.data l.poison, ack .fwdAck 1]
  | .fwdClean, some l => [if l.st = .m then dieMsg m .fwdAckData m.src 1 l.data l.poison else ack .fwdAck 1]
  | .recall, some l => [if l.st = .m then dieMsg m .recallAckData m.src 0 l.data l.poison else ack .recallAck 0]
  | .recall, none => [ack .recallAck 0]
  | .inv, _ => [ack .invAck 0]
  | .recallDiscard, _ => [ack .invAck 0]
  | _, _ => [ack .fwdAck 0]

/-- The state in which the die then holds the line. -/
def keptAs (op : Op) (st : CState) : Option CState := match op with
  | .fwdS => some .s
  | .fwdSnap => some st
  | .fwdClean => some (if st = .m then .e else st)
  | _ => none

/-- A forward at a compute die in service, none of whose LR reservations hold it back, where nothing waits, no writeback of the
line is in the buffer, no miss register holds data of it, no error of an array waits in its L3 copy and no core holds it. With
the line in the L3 (dirty or clean): FWDS sends Data to the requester and FwdAckData (dirty) or FwdAck hit to the home and
keeps the line shared; FWDO sends Data, with FLAG 2 for a dirty line and 1 for a clean one, and FwdAck hit, and gives the line
up; FWDSNAP sends DataOnce and FwdAck hit and keeps the line as it was; FWDCLEAN sends FwdAckData and keeps the line clean, or
FwdAck hit for a line already clean; INV, RECALLDISCARD (InvAck) and RECALL (RecallAckData for a dirty line, else RecallAck)
give it up. Without the line, FWDS, FWDO, FWDSNAP and FWDCLEAN answer FwdAck miss, INV and RECALLDISCARD InvAck, and RECALL
RecallAck, and nothing else changes in the caches. (06 Coherence: R138, R141, R150, R152, R158, R159.) -/
def Obligations.DieAnswersForwardsFromItsCopy : Prop :=
  ∀ (d : Fin 12) (m : Msg) (row : Instr) (s : State), forwardRow m = some row → s.clocked = true → m.dst = d.val →
    32 ≤ m.src → s.dieStill d.val = false → s.dieFenced d.val = false → s.dieQuiet d →
    s.reserved d (List.finRange 22) m.line none = [] → s.holders d m.line none = [] → (s.die d.val).findWb m.line = none →
    (∀ n ∈ (s.die d.val).miss, n.line = m.line → n.filled = none) →
    (∀ key l, (s.die d.val).findL3 m.line = some (key, l) → l.err = .clean → Completes row s fun t =>
      t.fab.net = s.fab.net.erase m ++ dieReplies m (some l) ∧
      (match keptAs m.op l.st with
       | some st => (key, { l with st := st }) ∈ (t.die d.val).l3
       | none => (t.die d.val).findL3 m.line = none) ∧ t.fab.homes = s.fab.homes) ∧
    ((s.die d.val).findL3 m.line = none → Completes row s fun t =>
      t.fab.net = s.fab.net.erase m ++ dieReplies m none ∧ (t.die d.val).l3 = (s.die d.val).l3 ∧ t.fab.homes = s.fab.homes)

/-- Nothing of a home waits but its open transactions, none of which wants a way. -/
def homeIdle (x : HomeState) : Prop :=
  x.recov = [] ∧ x.heldBack = [] ∧ x.wbHeldBack = [] ∧ x.wbs = [] ∧ ∀ t ∈ x.txns, t.waitWay = false ∧ t.parent = none

/-- The home has the transaction `t` open, and waits only for agent `a` to answer `f`. -/
def awaits (s : State) (m : Msg) (t : Txn) (f : Op) : Prop :=
  let x := s.home (lineSlice m.line)
  s.clocked = true ∧ 32 ≤ m.dst ∧ (m.src < 12 → s.dieFenced m.src = false) ∧ homeIdle x ∧ x.txn m.line = some t ∧
  t.line = m.line ∧ (∀ u ∈ x.txns, u.line = m.line → u = t) ∧ t.rd = false ∧ t.wr = false ∧ t.compWait = false ∧
  (∃ tmo, t.acks = [{ agent := m.src, op := f, tmo := tmo }]) ∧ t.named m = true ∧ s.agentLost t.req.req = false

/-- The memory request of a transaction. -/
def memOf (t : Txn) (line : Nat) (w : Option (Bytes × Bool)) : MemReq :=
  { client := .home (Fin.ofNat 32 (lineSlice line)), line := line, write := w.isSome, data := (w.map (·.1)).getD [],
    poison := (w.map (·.2)).getD false, hue := t.req.hue, cls := t.req.cls }

/-- At a home where nothing else waits. FWDACK hit to the last forward of an ownership transfer leaves the home waiting for
CompAck; FWDACK miss makes it read memory. FWDACKDATA to a shared transfer and RECALLACKDATA to a flush ask memory to write
exactly the data that came. The last INVACK of an upgrade sends Grant to the requester. RECALLACK to a flush, with no data,
sends CmoDone, frees the entry and closes the transaction. Each of these names its transaction by requester and TXID. COMPACK
of the requester that the home waits for closes the transaction and leaves the entry as the row says. The last SETRECALLACK of
a recovery frees every way of the set and ends the recovery. SETRECALL at a die that owes it, whose lines of the set no
reservation holds and whose writeback buffer has room for them, leaves no line of the set in its L3, and the die has answered.
An answer that no transaction awaits changes no directory and is logged. (06 Coherence: R148, R155, R156, R157, R158, R159,
R160, R174.) -/
def Obligations.AnswersToHomesMoveTheTransaction : Prop :=
  (∀ (m : Msg) (t0 : Txn) (s : State),
    let k := lineSlice m.line
    let reply (op : Op) : Msg :=
      { op := op, line := m.line, src := 32 + k, dst := t0.req.req, req := t0.req.req, txid := t0.req.txid, hue := t0.req.hue,
        cls := t0.req.cls }
    (m.op = .fwdAck → m.flag = 1 → awaits s m t0 .fwdO → t0.plan = [.compAck] → t0.gotComp = false → t0.req.line = m.line →
      Completes (.fwdack m) s fun t => t.fab.net = s.fab.net.erase m ∧ t.mem.reqs = s.mem.reqs ∧
        ((t.home k).txn m.line).map (fun u => (u.acks.isEmpty, u.compWait)) = some (true, true)) ∧
    (m.op = .fwdAck → m.flag = 0 → awaits s m t0 .fwdO → Completes (.fwdack m) s fun t =>
        t.mem.reqs = s.mem.reqs ++ [memOf t0 m.line none] ∧ t.fab.net = s.fab.net.erase m) ∧
    (m.op = .fwdAckData → awaits s m t0 .fwdS → t0.plan = [.write, .compAck] → Completes (.fwdackdata m) s fun t =>
        t.mem.reqs = s.mem.reqs ++ [memOf t0 m.line (some (m.data, m.poison))] ∧ t.fab.net = s.fab.net.erase m) ∧
    (m.op = .recallAckData → awaits s m t0 .recall → t0.plan = [.write, .reply .cmoDone 0] → Completes (.recallackdata m) s
      fun t => t.mem.reqs = s.mem.reqs ++ [memOf t0 m.line (some (m.data, m.poison))] ∧ t.fab.net = s.fab.net.erase m) ∧
    (m.op = .invAck → awaits s m t0 .inv → t0.plan = [.reply .grant 0, .compAck] → t0.gotComp = false → t0.req.line = m.line →
      Completes (.invack m) s fun t => t.fab.net = s.fab.net.erase m ++ [reply .grant] ∧ t.mem.reqs = s.mem.reqs ∧
        ((t.home k).txn m.line).map (·.compWait) = some true) ∧
    (m.op = .recallAck → awaits s m t0 .recall → t0.plan = [.write, .reply .cmoDone 0] → t0.data = none → t0.after = .free →
      t0.parent = none → t0.req.line = m.line → Completes (.recallack m) s fun t =>
        t.fab.net = s.fab.net.erase m ++ [reply .cmoDone] ∧ (t.home k).txn m.line = none ∧ t.mem.reqs = s.mem.reqs ∧
        ∀ key e, (s.home k).find m.line = some (key, e) → Table.find (t.home k).dir key = none)) ∧
  (∀ (m : Msg) (t0 : Txn) (s : State) (b : Nat) (key : Nat) (e : DirEntry), m.op = .compAck → s.clocked = true → 32 ≤ m.dst →
    (m.src < 12 → s.dieFenced m.src = false) →
    let k := lineSlice m.line
    homeIdle (s.home k) → (s.home k).txn m.line = some t0 → t0.line = m.line → t0.req.req = m.src → t0.named m = true → t0.compWait = true →
    t0.gotComp = false → t0.acks = [] → t0.rd = false → t0.wr = false → t0.plan = [] → t0.after = .owned b →
    (s.home k).find m.line = some (key, e) →
    Completes (.compack m) s fun t => (t.home k).txn m.line = none ∧ t.fab.net = s.fab.net.erase m ∧
      Table.find (t.home k).dir key = some { line := m.line, st := .owned, holders := BitVec.ofNat 16 (2 ^ b) }) ∧
  (∀ (m : Msg) (s : State) (row : Instr),
    row ∈ [Instr.fwdack m, .fwdackdata m, .invack m, .recallack m, .recallackdata m, .compack m] → s.clocked = true →
    32 ≤ m.dst → (m.src < 12 → s.dieFenced m.src = false) → (s.home (lineSlice m.line)).txn m.line = none →
    Completes row s fun t => t.fab.homes = s.fab.homes ∧ t.mem = s.mem) ∧
  (∀ (k : Fin 32) (set : Fin 16384) (agent : Nat) (r : Recovery) (s : State), s.clocked = true →
    (s.home k.val).recov = [r] → r.set = set.val → r.started = true → r.cxlWait = false → (∃ f, r.acks = [f] ∧ f.agent = agent) →
    (agent < 12 → r.answered.contains agent = true) → (s.home k.val).heldBack = [] → (s.home k.val).wbHeldBack = [] →
    (∀ t ∈ (s.home k.val).txns, t.waitWay = false) →
    Completes (.setrecallack k set agent) s fun t => (t.home k.val).recov = [] ∧
      ∀ e ∈ (t.home k.val).dir, e.1 / 12 ≠ set.val) ∧
  (∀ (d : Fin 12) (k : Fin 32) (set : Fin 16384) (s : State), s.clocked = true → s.dieQuiet d →
    s.recallOwed k.val set.val d.val = true → (s.die d.val).recalls = [] →
    (∀ l ∈ s.linesOfSet d k.val set.val, s.reserved d (List.finRange 22) l none = []) →
    (s.die d.val).wb.length + (s.linesOfSet d k.val set.val).length ≤ 128 →
    Completes (.setrecall ⟨d.val, by omega⟩ k set) s fun t =>
      (∀ e ∈ (t.die d.val).l3, ¬ (lineSlice e.2.line = k.val ∧ lineSet e.2.line = set.val ∧ lineHome e.2.line = s.pkgIx)) ∧
      ∀ r ∈ (t.home k.val).recov, r.set = set.val → d.val ∈ r.answered)

/-- At a compute die where nothing waits. DATA for a miss register that awaits it, with room in the L3, puts the line there with
the state that FLAG grants and the message's bytes, sends CompAck to the home, and frees the register. GRANT to an upgrade of
a line that the die holds makes the die its owner, sends CompAck and frees the register. WBACK frees the writeback buffer
entry. CMODONE frees the register and the buffer entry of the operation and retires the cache-block operations that waited for
it. ERROR (not TIMEOUT) to a miss register frees it. At the I/O agent, DATAONCE for the only line of a device's read sends the
device a successful completion with that data, and WRDONE for the only line of its write ends the request. An ERROR to a
hart's I/O load raises exception 19 at that hart. (05 Caches: R118, R122; 06 Coherence: R138, R142, R152, R157, R191, R192; 14
PCI Express and CXL: R353, R355.) -/
def Obligations.AnswersToRequestersCompleteTheirAccess : Prop :=
  (∀ (d : Fin 12) (m : Msg) (s : State), s.clocked = true → m.dst = d.val → 32 ≤ m.src → s.dieStill d.val = false →
    s.dieFenced d.val = false →
    let x := s.die d.val
    let ack : Msg := { op := .compAck, line := m.line, src := d.val, dst := s.homeAgent m.line, req := m.req, txid := m.txid,
                       hue := m.hue, cls := m.cls }
    (∀ n s1, m.op = .data → x.findMiss m.line = some n → isCmo n.op = false → n.filled = none → n.late = false →
      n.txid = m.txid → n.unsent = false → n.op ≠ .claimZ → n.nc = false → n.ncDirty = false → n.wantOwn = false → m.flag ≠ 3 →
      s.dieQuiet d →
      ((s.deliver m).dieSend d ack).installL3 d n.line (grantState m.flag) m.data m.poison n.hint n.hue n.spec = (true, s1) →
      s1.dieQuiet d → Completes (.data m) s fun t =>
        (t.die d.val).l3 = (s1.die d.val).l3 ∧ t.fab.net = s1.fab.net ∧ (t.die d.val).findMiss m.line = none) ∧
    (∀ n key l, m.op = .grant → s.dieQuiet d → x.findMiss m.line = some n → n.op = .upg → n.filled = none → n.late = false →
      n.txid = m.txid → n.unsent = false → n.wantOwn = false → x.findL3 m.line = some (key, l) → Completes (.grant m) s fun t =>
        Table.find (t.die d.val).l3 key = some { l with st := .e } ∧ t.fab.net = s.fab.net.erase m ++ [ack] ∧
        (t.die d.val).findMiss m.line = none) ∧
    (∀ w, m.op = .wbAck → s.dieIdle d → x.findWb m.line = some w → w.op = .wbData → w.txid = m.txid → Completes (.wback m) s fun t =>
        (t.die d.val).findWb m.line = none ∧ (t.die d.val).l3 = x.l3) ∧
    (∀ n (h : HartId) w, m.op = .cmoDone → h.die = d → x.findMiss m.line = some n → isCmo n.op = true → n.late = false →
      n.txid = m.txid → n.unsent = false → x.held = [] → x.recalls = [] → x.evicting = [] → (∀ k ∈ x.miss, k.filled = none) →
      (∀ g ∈ hartsOfDie d, (s.hart (hartIx g)).ctl = none ∧ (s.hart (hartIx g)).front = [] ∧
        (s.hart (hartIx g)).walk = none ∧ (g ≠ h → (s.hart (hartIx g)).waiting = [])) →
      (s.hart (hartIx h)).waiting = [w] → (∃ k a, w.op = .cbo k a) → w.issued = true → w.lines.contains m.line = true →
      Completes (.cmodone m) s fun t => (t.die d.val).findMiss m.line = none ∧ (t.die d.val).findWb m.line = none ∧
        (t.hart (hartIx h)).waiting = [] ∧ (t.hart (hartIx h)).accInstret = (s.hart (hartIx h)).instret) ∧
    (∀ n, m.op = .error → m.flag ≠ 0 → s.dieQuiet d → (∀ g ∈ hartsOfDie d, (s.hart (hartIx g)).walk = none) →
      x.findMiss m.line = some n → n.late = false → n.filled = none → n.txid = m.txid → n.unsent = false →
      isCmo n.op = false → Completes (.error m none) s fun t =>
        (t.die d.val).findMiss m.line = none ∧ (t.die d.val).l3 = x.l3)) ∧
  (∀ (m : Msg) (i : Inbound) (line off at_ n : Nat) (s : State), s.clocked = true → m.dst = 12 → 32 ≤ m.src →
    s.hub.inbound = [i] → i.lines = [(m.txid, m.line)] → s.hub.ioLate.contains (m.txid, m.line) = false →
    (m.op = .dataOnce → i.req.kind = .read → i.squashed = false → i.failed = false → i.got = [] → m.poison = false →
      m.line = line → lineParts i.pa i.req.len = [(line, off, at_, n)] → Completes (.dataonce m) s fun t =>
        t.hub.inbound = [] ∧ t.hub.toDevice = s.hub.toDevice ++
          [{ port := i.port, rid := i.req.rid, tag := i.req.tag, status := .sc, ep := false, addr := i.req.addr + at_,
             data := sub m.data off n }]) ∧
    (m.op = .wrDone → i.req.kind = .write → Completes (.wrdone m) s fun t =>
        t.hub.inbound = [] ∧ t.hub.toDevice = s.hub.toDevice)) ∧
  (∀ (m : Msg) (h : HartId) (io : IoAccess) (w : Waiting) (a : Access) (rd : Fin 32) (z : Bool) (c : LoadClass) (s : State),
    s.clocked = true → (∀ q ∈ s.fab.ioAnswers, q.1 ≠ h) → (s.hart (hartIx h)).ioLate = 0 → (s.hart (hartIx h)).io = some io →
    io.write = false → (s.hart (hartIx h)).waiting = [w] → w.issued = true → w.pas = [io.pa] → w.op = .load a rd z c →
    (s.hart (hartIx h)).front = [] → (s.hart (hartIx h)).ctl = none → (s.hart (hartIx h)).trapTo 19 = .m → Completes (.error m (some h)) s fun t =>
      (t.hart (hartIx h)).getCsr 0x342 = 19 ∧ (t.hart (hartIx h)).io = none ∧ (t.hart (hartIx h)).waiting = [] ∧
      (t.hart (hartIx h)).x = (s.hart (hartIx h)).x)

/-- IORD of a hart, outside Partitioned mode, at a register of its own package's meter window, answers the hart with the counter.
IOWR at a forget queue's MSI address stores the value and acknowledges. MSIWR of a hart acknowledges the store, and a 4-byte
one that names an identity at the first offset of a supervisor-level file makes that identity pending there. IORDDATA ends the
hart's access and writes the load's register; IOWRACK ends the store. IO_TMO_EXPIRY ends the access as an error and owes one
late answer. REQ_TMO_EXPIRY of a die's register, with nothing waiting, marks it late and keeps its reservation. FWD_TMO_EXPIRY
of a forward to a compute die that has not answered fences that die. (07 Rings: R183, R190, R191, R192; 10 Hues: R272, R275;
06 Coherence: R173.) -/
def Obligations.InputOutputAccessesAreAnswered : Prop :=
  (∀ (h : HartId) (n : Fin 16) (m : IoMsg) (s : State), s.clocked = true → s.scopeMode ≠ .partitioned → s.pkgPresent s.pkgIx = true →
    s.pkgIx < 4 → m.client = .hart h → m.size = 8 → m.pa = s.pkgIx * 2 ^ 50 + 0x40300000 + n.val * 8 →
    Completes (.iord m) s fun t => t.fab.ioAnswers = s.fab.ioAnswers ++ [(h, .data (Table.get 0 (s.meter 0).counters n.val) false)] ∧
      t.fab.ioReqs = s.fab.ioReqs.erase (false, m)) ∧
  (∀ (h : HartId) (q : Fin 16) (m : IoMsg) (s : State), s.clocked = true → s.scopeMode ≠ .partitioned → s.pkgPresent s.pkgIx = true →
    s.pkgIx < 4 → m.client = .hart h → m.size = 8 → m.pa = s.pkgIx * 2 ^ 50 + 0x40200000 + q.val * 0x1000 + 0x28 →
    Completes (.iowr m) s fun t => (t.forget q.val).msiAddr = m.value ∧ t.fab.ioAnswers = s.fab.ioAnswers ++ [(h, .ack)] ∧
      t.fab.ioReqs = s.fab.ioReqs.erase (true, m)) ∧
  (∀ (m : MsiMsg) (h : HartId) (s : State), s.clocked = true → m.client = some h → Completes (.msiwr m) s fun t =>
    t.fab.ioAnswers = s.fab.ioAnswers ++ [(h, .ack)] ∧
    ∀ key, s.filePage (s.partOfDie h.die.val) m.pa = some key → key % 32 = 0 → m.size = 4 → m.pa % 4096 = 0 →
      0 < fld m.value 0 32 → fld m.value 0 32 < 2048 → (t.file key).eip.getLsbD (fld m.value 0 32) = true) ∧
  (∀ (h : HartId) (io : IoAccess) (w : Waiting) (s : State), s.clocked = true → (s.hart (hartIx h)).ioLate = 0 →
    (s.hart (hartIx h)).io = some io → (s.hart (hartIx h)).waiting = [w] → w.issued = true → w.pas = [io.pa] →
    (s.hart (hartIx h)).front = [] → (s.hart (hartIx h)).ctl = none →
    (∀ a rd z c v, s.fab.ioAnswers = [(h, .data v false)] → w.op = .load a rd z c → a.spec = false → io.write = false →
      Completes (.iorddata h) s fun t => (t.hart (hartIx h)).io = none ∧ (t.hart (hartIx h)).waiting = [] ∧
        (t.hart (hartIx h)).x = ((s.hart (hartIx h)).setLoad c rd a.size z (leBytes a.size v.toNat)).x ∧ t.fab.ioAnswers = []) ∧
    (∀ a v c, s.fab.ioAnswers = [(h, .ack)] → w.op = .store a v c → io.write = true →
      Completes (.iowrack h) s fun t => (t.hart (hartIx h)).io = none ∧ (t.hart (hartIx h)).waiting = [] ∧
        (t.hart (hartIx h)).x = (s.hart (hartIx h)).x ∧ t.fab.ioAnswers = []) ∧
    (∀ a v c, w.op = .store a v c → io.write = true → Completes (.ioTmoExpiry h) s fun t =>
        (t.hart (hartIx h)).io = none ∧ (t.hart (hartIx h)).ioLate = 1 ∧ (t.hart (hartIx h)).waiting = [])) ∧
  (∀ (d : Fin 12) (n : L3Miss) (s : State), s.clocked = true → s.dieQuiet d → (∀ g ∈ hartsOfDie d, (s.hart (hartIx g)).walk = none) →
    (s.die d.val).miss = [n] → n.late = false → n.unsent = false → n.filled = none → isCmo n.op = false →
    Completes (.reqTmoExpiry d.val n.line) s fun t => (t.die d.val).miss = [{ n with late := true, failed := true }]) ∧
  (∀ (k : Fin 32) (line : Nat) (d : Fin 12) (t0 : Txn) (s : State), s.clocked = true → (s.home k.val).txn line = some t0 →
    (∃ a ∈ t0.acks, a.agent = d.val) → s.dieFenced d.val = false →
    Completes (.fwdTmoExpiry k line d.val) s fun t => t.dieFenced d.val = true)

/-- RING_PACKET_ARRIVAL of a slot whose control lane cannot be corrected empties it: where it could be no packet of the ring,
nothing of the fabric changes; where it is a message's packet, that message never arrives; TRANSPORT is logged either way. Of
a packet whose lanes check good: a header that breaks R181 is emptied in the same way. At a stop that is not its target on
this ring nothing leaves the ring. At its target, a coherence packet without poison that no agent of the package has sent is
delivered: one of VC 3 where no bridge stands, and one of another channel for which the ingress queue has room beyond what it
owes its reservation list, and which then stands in that queue. One whose queue is full passes on: it stays in its slot with
PASS one higher, nothing is delivered, and one that arrived with PASS at 2 or more (the model's choice of which value counts,
log entry 114) has its source in the reservation list. INJECTION_WAIT_TAG sets the stop's tag of the direction named, and
changes nothing else of the stop and no other stop. (07 Rings: R181, R182, R185, R186, R187, R193, R194.) -/
def Obligations.RingPacketsEjectPassOrAreEmptied : Prop :=
  (∀ (r : RingId) (stop : Nat) (p : Slot) (s : State), s.clocked = true → s.mgmt.log.queue.length < 1024 →
    let key := stopKey r stop
    let h := headerOf p.header
    let vc := BitVec.ofNat 2 h.vc
    let z := recheck r p
    let queue := if passesOn (agentAt r stop) then (s.stop key).ingress else s.waitingIn r (s.stop key).ingress
    let used := (queue.filter fun e => e.1 = vc).length
    let listed := (((s.stop key).reserve.filter fun e => e.1 = vc).map Prod.snd).takeWhile fun a => a ≠ BitVec.ofNat 8 h.src
    (laneCheck r 192 (ctlBits p) p.ctlCheck = .bad →
      ((∀ e ∈ s.fab.onRing, e.ring = r → couldBe r p e.slot = false) → Completes (.ringPacketArrival r stop p) s fun t =>
        t.fab = s.fab ∧ s.logsOne t .uncorrected .ring .transport key) ∧
      (∀ e m, (s.fab.onRing.find? fun e => e.ring = r && couldBe r p e.slot) = some e → e.foreign = false →
        s.packetOf r e.slot = some (.coh m) → Completes (.ringPacketArrival r stop p) s fun t =>
          t.fab.net = s.fab.net.erase m ∧ t.fab.onRing = s.fab.onRing.erase e ∧ t.fab.stops = s.fab.stops ∧
            s.logsOne t .uncorrected .ring .transport key)) ∧
    (laneCheck r 192 (ctlBits p) p.ctlCheck = .good → laneCheck r 512 (leNat p.data) p.dataCheck = .good →
      (h.ok r = false → Completes (.ringPacketArrival r stop p) s fun t =>
        t.fab = s.fab ∧ s.logsOne t .uncorrected .ring .transport key) ∧
      (h.ok r = true → ringTarget r h.dst ≠ stop → Completes (.ringPacketArrival r stop p) s fun t =>
        t.fab.net = s.fab.net ∧ t.fab.stops = s.fab.stops ∧ t.fab.onRing.length = s.fab.onRing.length ∧
          ∀ e, s.slotOn r z = some e → { e with slot := z } ∈ t.fab.onRing) ∧
      (∀ m, h.ok r = true → ringTarget r h.dst = stop → h.poison = false → h.io = false → slotMsg z = some m → s.fab.net = [] →
        (h.vc = 3 → isBridge (agentAt r stop) = false → Completes (.ringPacketArrival r stop p) s fun t => t.fab.net = [m]) ∧
        (h.vc < 3 → listed.length < Config.ingressDepth - used → Completes (.ringPacketArrival r stop p) s fun t =>
          t.fab.net = [m] ∧ (vc, z) ∈ (t.stop key).ingress)) ∧
      (h.ok r = true → ringTarget r h.dst = stop → h.vc < 3 → Config.ingressDepth ≤ used →
        Completes (.ringPacketArrival r stop p) s fun t => t.fab.net = s.fab.net ∧
          (∃ e ∈ t.fab.onRing, e.ring = r ∧ e.slot.header = headerBits { h with pass_ := min 7 (h.pass_ + 1) }) ∧
          (2 ≤ h.pass_ → (vc, BitVec.ofNat 8 h.src) ∈ (t.stop key).reserve)))) ∧
  (∀ (r : RingId) (stop : Nat) (clockwise : Bool) (s : State), s.clocked = true →
    Completes (.injectionWaitTag r stop clockwise) s fun t =>
      t.stop (stopKey r stop) = (if clockwise then { s.stop (stopKey r stop) with tagCw := true }
        else { s.stop (stopKey r stop) with tagCcw := true }) ∧
      t.fab.net = s.fab.net ∧ ∀ k, k ≠ stopKey r stop → t.stop k = s.stop k)

/-- While the port trains from the beginning, a good IDENT at the hub whose version list has bit 2 sets the version to 2 and notes
the exchange; one without a common version takes the port down and fences the die; one at the die end notes the exchange. In a
field retrain, an IDENT at the hub without the common version is noted and leaves the version as it was. Each frame taken owes
an ACK. LANES at the hub, for a bundle in step 7, records the width the die announced, and at an agreed 8 the die's lanes.
HANDOVER for a bundle that owes one ends its replay and leaves to another bundle the packets not wholly accepted. RETRAIN
takes an ACTIVE bundle to TRAINING, step 3. An ACK names the frame in flight by its own SEQ (the model's choice, log entry
117): it ends that frame, and the next one that waits is sent. SIDEBAND_RESEND repeats an unanswered frame up to three times;
after the third the sideband is lost and the die is fenced. A frame of a TYPE that R200 does not list is logged as a partner
fault; one that fails its code changes nothing. (08 Weld: R200, R201, R215, R218, R219, R222, R225.) -/
def Obligations.SidebandFramesMoveThePort : Prop :=
  (∀ (d : Fin 12) (f : SbFrame) (s : State), s.clocked = true →
    (s.takesFrame d 0x01 f → f.payload.length = 4 → (s.port d.val).step ≠ 3 →
      ((f.payload.getD 3 0).toNat.testBit 2 = true → Completes (.ident d true f) s fun t =>
        (t.port d.val).identHub = true ∧ (t.port d.val).version = 2 ∧ t.owesAck d true f.seq) ∧
      ((f.payload.getD 3 0).toNat.testBit 2 = false → Completes (.ident d true f) s fun t => t.dieFenced d.val = true) ∧
      Completes (.ident d false f) s fun t => (t.port d.val).identDie = true ∧ t.owesAck d false f.seq) ∧
    (s.takesFrame d 0x01 f → f.payload.length = 4 → (s.port d.val).step = 3 → (f.payload.getD 3 0).toNat.testBit 2 = false →
      Completes (.ident d true f) s fun t => (t.port d.val).identOther = true ∧ (t.port d.val).version = (s.port d.val).version ∧
        t.owesAck d true f.seq) ∧
    (∀ k : Fin 4, s.takesFrame d 0x02 f → f.payload.length = 24 → (s.bundle d.val k.val).st = .training →
      (s.bundle d.val k.val).step = 7 → (∀ j : Fin 4, j ≠ k → (s.bundle d.val j.val).step ≠ 7) →
      f.payload.getD (4 * k.val) 0 = 8 → (s.bundle d.val k.val).announced.1 ≠ 0 → (s.bundle d.val k.val).announceLimit ≠ 0 →
      Completes (.lanes d true f) s fun t =>
        (t.bundle d.val k.val).announced = ((s.bundle d.val k.val).announced.1, 8) ∧ (t.bundle d.val k.val).st = .training ∧
        ((s.bundle d.val k.val).announced.1 = 8 → (s.bundle d.val k.val).announceLimit = 8 →
          (t.bundle d.val k.val).lanesH2D = BitVec.ofNat 9 (leAt f.payload (16 + 2 * k.val) 2))) ∧
    (∀ (k : Fin 4) (toHub : Bool), s.takesFrame d 0x03 f → f.payload.length = 2 → f.payload.getD 0 0 = BitVec.ofNat 8 k.val →
      ((s.bundle d.val k.val).me toHub).handoverOwed = true →
      Completes (.handover d toHub f) s fun t =>
        let x := (s.bundle d.val k.val).me toHub
        let y := (t.bundle d.val k.val).me toHub
        y.replay = [] ∧ y.handoverOwed = false ∧
          y.reroute = x.reroute ++ unsentPackets x.replay ((x.covered (f.payload.getD 1 0)).getD 0)) ∧
    (∀ (k : Fin 4) (toHub : Bool), s.takesFrame d 0x04 f → f.payload = [BitVec.ofNat 8 k.val] →
      (s.bundle d.val k.val).st = .active → Completes (.retrain d toHub f) s fun t =>
        (t.bundle d.val k.val).st = .training ∧ (t.bundle d.val k.val).step = 3 ∧ (t.bundle d.val k.val).field = true) ∧
    (∀ o, s.takesFrame d 0xFF f → (s.port d.val).sbHub.unacked = some o → o.seq = f.seq → Completes (.ack d true f) s fun t =>
      ((s.port d.val).sbHub.queue = [] → (t.port d.val).sbHub.unacked = none) ∧
      (∀ typ b rest, (s.port d.val).sbHub.queue = (typ, b) :: rest → (t.port d.val).sbHub.queue = rest ∧
        (t.port d.val).sbHub.unacked = some { typ := typ, payload := b, seq := (s.port d.val).sbHub.nextSeq, repeats := 0 })) ∧
    (∀ o, (s.port d.val).sbLost = false → (s.port d.val).sbHub.unacked = some o → Completes (.sidebandResend d true) s fun t =>
      (o.repeats < 3 → (t.port d.val).sbHub.unacked = some { o with repeats := o.repeats + 1 } ∧ (t.port d.val).sbLost = false) ∧
      (3 ≤ o.repeats → (t.port d.val).sbLost = true ∧ t.dieFenced d.val = true)) ∧
    (∀ toHub t, (s.port d.val).sbLost = false → f.typ = some t → sbListed t = false → s.mgmt.log.queue.length < 1024 →
      crcSb ([t, BitVec.ofNat 8 f.payload.length, f.seq, 0] ++ f.payload) = f.crc →
      Completes (.ident d toHub f) s fun t => s.logsOne t .partner .weld .sideband (d.val * 4) ∧ t.fab = s.fab) ∧
    (∀ toHub, crcSb ([f.typ.getD 0x01, BitVec.ofNat 8 f.payload.length, f.seq, 0] ++ f.payload) ≠ f.crc →
      exec (.ident d toHub f) s = .next s))

/-- At an ACTIVE bundle whose receive buffer is empty: a DATA flit with a good code, the next SEQ, whole packing and one
continuing packet is accepted and an ACK becomes owed; its sender, if it owes no replay and has put nothing on the lanes
before it, keeps the flit for replay and goes on to the next SEQ; a sender that owes a replay has resent its oldest flit,
whose replay is counted with the bundle's; a flit that its sender has put on the lanes is on them no more. One out of sequence
or with a bad code is discarded, a NAK is owed and SEQ stays. A CONTROL flit with a good code removes the flits its ACK covers
from the replay buffer. A MAINT flit whose version, pattern and echo are right clears the echo misses and notes the partner's
width. A NAK inside the window has every flit after its ACK resent; one outside it takes the bundle out of ACTIVE. MAINT_SLOT
sends the MAINT flit and starts the slot count afresh. CRC_THRESH_WINDOW clears both ends' replay counts. Flits at a bundle
that is not ACTIVE change nothing. (08 Weld: R203, R204, R205, R207, R208, R209, R210, R211, R217, R226.) -/
def Obligations.FlitsCarrySequenceCreditAndReplay : Prop :=
  ∀ (e : LinkEnd) (f : Flit) (s : State), s.clocked = true →
    let p := linkPort e
    let k := linkBundle e
    let hub := linkHub e
    let b := s.bundle p k
    let x := b.me hub
    let y := b.me (!hub)
    let taken (part : List Nat) : Prop := flitCrc 0 f = f.crc ∧ f.seq = x.rxSeq + 1 ∧ f.crtotal = vcGet x.returned f.crvc.toNat ∧
      flitPackets (unitsIn (padTo 120 x.part) |>.take (x.part.length / 8)) f = some ([], part)
    (s.linkUp e = false → exec (.dataFlit e f) s = .next s ∧ exec (.controlFlit e f) s = .next s ∧
      exec (.maintFlit e f) s = .next s ∧ exec (.nak e f) s = .next s ∧ exec (.maintSlot e) s = .next s) ∧
    (s.linkUp e = true → x.buffer = [] →
      (∀ part, taken part →
        (y.wire = [] → y.resend = 0 → y.replay.length < 64 → Completes (.dataFlit e f) s fun t =>
          let x' := (t.bundle p k).me hub
          let y' := (t.bundle p k).me (!hub)
          (t.bundle p k).st = .active ∧ x'.rxSeq = f.seq ∧ x'.ackOwed = true ∧ x'.discarding = false ∧ y'.txSeq = y.txSeq + 1 ∧
            y'.replay = y.replay ++ [({ f with seq := y.txSeq }, 0)]) ∧
        (y.wire = [] → 0 < y.resend → (∀ r ∈ y.resent.replay, r.2 < fld (s.weldCfg p (!hub)) 24 8) →
          b.hub.windowReplays + b.die.windowReplays + 1 < fld (s.weldCfg p (!hub)) 16 8 → Completes (.dataFlit e f) s fun t =>
          let y' := (t.bundle p k).me (!hub)
          (t.bundle p k).st = .active ∧ ((t.bundle p k).me hub).rxSeq = f.seq ∧ y'.resend = y.resend - 1 ∧ y'.txSeq = y.txSeq ∧
            y'.replay = y.resent.replay ∧ y'.windowReplays = y.windowReplays + 1 ∧
            (t.bundle p k).replays = (if b.replays = 0xFFFF then 0xFFFF else b.replays + 1)) ∧
        (∀ g rest, y.wire = g :: rest → (∀ r ∈ y.replay, r.1.seq = f.seq → r.2 = 0) → Completes (.dataFlit e f) s fun t =>
          let y' := (t.bundle p k).me (!hub)
          (t.bundle p k).st = .active ∧ ((t.bundle p k).me hub).rxSeq = f.seq ∧ y'.wire = rest ∧ y'.replay = y.replay ∧
            y'.txSeq = y.txSeq)) ∧
      (y.wire = [] → y.resend = 0 → (flitCrc 0 f ≠ f.crc ∨ (f.seq ≠ x.rxSeq + 1 ∧ x.discarding = false)) →
        Completes (.dataFlit e f) s fun t =>
          let x' := (t.bundle p k).me hub
          x'.rxSeq = x.rxSeq ∧ x'.discarding = true ∧ x'.nakOwed = true ∧ x'.part = x.part ∧ t.fab.net = s.fab.net) ∧
      (∀ n, flitCrc 1 f = f.crc → x.covered f.ack = some n → f.crtotal = vcGet x.returned f.crvc.toNat →
        Completes (.controlFlit e f) s fun t =>
          ((t.bundle p k).me hub).replay = x.replay.drop n ∧ (t.bundle p k).st = .active ∧
            ((t.bundle p k).me (!hub)).crvc = y.crvc + 1)) ∧
    (s.linkUp e = true → flitCrc 2 f = f.crc → f.crtotal = vcGet x.returned f.crvc.toNat →
      patternErrs (ones 9 (b.rxLanes hub).toNat) (f.payload.drop 8) (prbsBytes 112 x.prbsRx).1 = [] →
      (∀ l ∈ ones 9 (b.rxLanes hub).toNat, x.recentErrs s.now l < 16) →
      (f.payload.getD 6 0).toNat = (if p < 12 then (s.port p).version else 2) → 0 < fld (s.weldCfg p hub) 12 4 →
      (f.payload.getD 3 0).toNat = b.width → leAt f.payload 4 2 = (b.rxLanes hub).toNat →
      Completes (.maintFlit e f) s fun t =>
        ((t.bundle p k).me hub).echoMiss = 0 ∧ ((t.bundle p k).me hub).lastWidth = f.payload.getD 0 0 ∧
          ((t.bundle p k).me hub).lastRx = BitVec.ofNat 16 (leAt f.payload 1 2) ∧ (t.bundle p k).st = .active) ∧
    (s.linkUp e = true → flitCrc 3 f = f.crc → f.crtotal = vcGet x.returned f.crvc.toNat →
      (∀ n, x.covered f.ack = some n → Completes (.nak e f) s fun t =>
          ((t.bundle p k).me hub).resend = x.replay.length - n ∧ (t.bundle p k).st = .active ∧
          ((t.bundle p k).me hub).replay = x.replay.drop n) ∧
      (x.covered f.ack = none → Completes (.nak e f) s fun t => (t.bundle p k).st ≠ .active)) ∧
    (s.linkUp e = true → Completes (.maintSlot e) s fun t =>
      ((t.bundle p k).me hub).maint = some (s.maintFlit p k hub) ∧ ((t.bundle p k).me hub).slotCount = 0 ∧
        ((t.bundle p k).me hub).replay = x.replay ∧ (t.bundle p k).st = .active) ∧
    Completes (.crcThreshWindow e) s fun t => (t.bundle p k).hub.windowReplays = 0 ∧ (t.bundle p k).die.windowReplays = 0 ∧
      (t.bundle p k).st = b.st

/-- COLD_TRAINING of a port whose die is present starts step 1, sends the hub's IDENT first, and puts every bundle that is not
RETIRED into TRAINING; one RETIRED by a cap that no command has cleared stays so. At either end of a Weld bundle or at a
cascade link, the completion of a step moves a bundle on: 3 to 4, 4 to 5, 5 to 6 with the lanes that passed and that no 16
errors of the last second fail, 6 with both ends at 8 announces 8 and goes to 7, 7 with agreement to 8, and 8 makes the bundle
ACTIVE at the agreed width. Steps 1 and 2 complete for the port. A step that the bundle is not in changes nothing. A step's
time limit: 4 and 5 mask the failed lanes and go on, 6 retires the bundle, a failed 7 is tried again and the third retires the
bundle, and 1 takes the port down and fences the die. FIELD_RETRAIN of an ACTIVE bundle goes to TRAINING, step 3, for every
cause, unless it is the third violation within a second or an echo mismatch after two failed attempts; of another bundle it
changes nothing. (08 Weld: R212, R213, R214, R215, R216, R218, R219, R220, R224, R225, R226; 20 Cascading: R464.) -/
def Obligations.TrainingRunsStepByStep : Prop :=
  (∀ (d : Fin 12) (s : State), s.clocked = true → s.dieStatus d.val ≠ 3 → Completes (.coldTraining d) s fun t =>
    (t.port d.val).step = 1 ∧ (t.port d.val).version = 0 ∧ (t.port d.val).sbLost = false ∧
    (t.port d.val).sbHub.unacked = some { typ := 0x01, payload := s.identHubFrame d.val, seq := 0, repeats := 0 } ∧
    ∀ k : Fin 4,
      ((s.bundle d.val k.val).st ≠ .retired → (t.bundle d.val k.val).st = .training ∧ (t.bundle d.val k.val).step = 1) ∧
      ((s.bundle d.val k.val).st = .retired → (s.bundle d.val k.val).cap = .retired → (s.bundle d.val k.val).capCleared = false →
        (t.bundle d.val k.val).st = .retired)) ∧
  (∀ (d : Fin 12) (k : Fin 4) (atHub : Bool) (step : Fin 9) (i : TrainInfo) (failed : BitVec 9) (s : State),
    s.clocked = true →
    let e : LinkEnd := .weld d k atHub
    let b := s.bundle d.val k.val
    (step.val = 1 → (s.port d.val).step = 1 → (s.port d.val).identHub = true → (s.port d.val).identDie = true →
      (s.port d.val).version ≠ 0 → Completes (.trainingStepComplete e step i) s fun t => (t.port d.val).step = 2) ∧
    (step.val = 2 → (s.port d.val).step = 2 → b.st = .training → b.step < 3 →
      Completes (.trainingStepComplete e step i) s fun t => (t.port d.val).step = 3 ∧ (t.port d.val).plls = 15 ∧
        (t.bundle d.val k.val).step = 3) ∧
    (step.val = 1 → (s.port d.val).step = 1 → Completes (.trainingStepTimeout e step failed) s fun t =>
      (t.port d.val).step = 0 ∧ t.dieFenced d.val = true)) ∧
  (∀ (e : LinkEnd) (step : Fin 9) (i : TrainInfo) (failed : BitVec 9) (s : State), s.clocked = true →
    let p := linkPort e
    let k := linkBundle e
    let b := s.bundle p k
    let noneWorn : Prop := ∀ l < 9, b.hub.recentErrs s.now l < 16 ∧ b.die.recentErrs s.now l < 16
    (3 ≤ step.val → (b.st ≠ .training ∨ b.step ≠ step.val) → exec (.trainingStepComplete e step i) s = .next s ∧
      exec (.trainingStepTimeout e step failed) s = .next s) ∧
    (b.st = .training → b.step = step.val →
      (step.val = 3 ∨ step.val = 4 → Completes (.trainingStepComplete e step i) s fun t =>
        (t.bundle p k).step = step.val + 1 ∧ (t.bundle p k).st = .training) ∧
      (step.val = 5 → noneWorn → Completes (.trainingStepComplete e step i) s fun t => (t.bundle p k).step = 6 ∧
          (t.bundle p k).good = (b.good.1 &&& i.goodD2H, b.good.2 &&& i.goodH2D)) ∧
      (step.val = 6 → b.cap = .none → b.good = (BitVec.allOnes 9, BitVec.allOnes 9) → i.dieAnnounce = 8 →
        b.announceLimit = 8 → Completes (.trainingStepComplete e step i) s fun t =>
          (t.bundle p k).step = 7 ∧ (t.bundle p k).announced = (8, 8)) ∧
      (step.val = 7 → i.agreed = true → b.agreedWidth ≠ 0 → (b.field = true → (s.port p).identOther = false) →
        Completes (.trainingStepComplete e step i) s fun t => (t.bundle p k).step = 8 ∧ (t.bundle p k).st = .training) ∧
      (step.val = 8 → Completes (.trainingStepComplete e step i) s fun t =>
        (t.bundle p k).st = .active ∧ (t.bundle p k).step = 0 ∧ (t.bundle p k).width = b.agreedWidth ∧
          (t.bundle p k).lastTrained = s.now) ∧
      (step.val = 4 ∨ (step.val = 5 ∧ noneWorn) → Completes (.trainingStepTimeout e step failed) s fun t =>
        (t.bundle p k).step = step.val + 1 ∧ (t.bundle p k).good =
          (if linkHub e then (b.good.1 &&& ~~~ failed, b.good.2) else (b.good.1, b.good.2 &&& ~~~ failed))) ∧
      (step.val = 7 → b.attempts < 2 → b.announced = (8, 8) → b.announceLimit = 8 →
        Completes (.trainingStepTimeout e step failed) s fun t =>
          (t.bundle p k).st = .training ∧ (t.bundle p k).step = 7 ∧ (t.bundle p k).attempts = b.attempts + 1) ∧
      (step.val = 6 ∨ (step.val = 7 ∧ b.attempts = 2) → Completes (.trainingStepTimeout e step failed) s fun t =>
        (t.bundle p k).st = .retired ∧ (t.bundle p k).cap = .retired)) ∧
    (∀ c : RetrainCause, (b.st ≠ .active → exec (.fieldRetrain e c) s = .next s) ∧
      (b.st = .active → (c = .violation → (b.violations.filter fun t => (s.now - t).toNat < 100000000).length < 2) →
        (c = .echoMismatch → b.attempts < 2) → Completes (.fieldRetrain e c) s fun t =>
          (t.bundle p k).st = .training ∧ (t.bundle p k).step = 3 ∧ (t.bundle p k).field = true)))

/-- At a die, or from one: CFG_PREPARE of a single LAST frame at a die with no shadow copy holds the values and answers CFG_ACK
with one frame. CFG_ACK of the last die awaited makes the commit durable in the journal and sends CFG_FLIP with T, a whole 10
µs at least 100 µs ahead; one of several only leaves the list. CFG_FLIP of a whole shadow copy moves the die's values at T: at
once if T has come, and notes T otherwise. CFG_DISCARD drops the copy of its lot. CFG_LOAD applies its entries on receipt, and
its LAST frame sets the lot. Between the packages of a cascade: a member takes the master's prepare as a commit of its own
with that lot and waits for its own dies; the master takes a member's acknowledgement off its list; a member whose dies have
acknowledged takes the master's T, and one that has no T yet drops the commit. Each leaves memory and every hart as they were.
(16 Configuration: R400, R401, R402, R403, R404, R405; 08 Weld: R202.) -/
def Obligations.ConfigurationFramesReachTheDies : Prop :=
  ∀ (d : Fin 12) (f : SbFrame) (s : State), s.clocked = true →
    let k := s.dieCfg d.val
    let lot : BitVec 32 := BitVec.ofNat 32 (leAt f.payload 0 4)
    let still (t : State) : Prop := t.mem = s.mem ∧ t.fab.harts = s.fab.harts ∧ t.hub = s.hub
    (s.takesFrame d 0x10 f → cfgLenOk f.payload.length = true → k.shadow = none → leAt f.payload 4 2 = 2 ^ 15 →
      Completes (.cfgPrepare (.die d) false (.frame f)) s fun t => still t ∧ t.owesAck d false f.seq ∧
        (let w : Shadow := { lot := lot, frames := 1, last := true, entries := frameEntries f.payload, since := s.now }
         t.dieCfg d.val = { k with shadow := some w }) ∧
        t.sendsFrame d.val false 0x11 (leBytes 4 lot.toNat ++ leBytes 2 1)) ∧
    (∀ c rest, s.takesFrame d 0x11 f → f.payload.length = 6 → s.mgmt.config.commit = some c → c.flip = none → c.lot = lot →
      c.waiting = d :: rest → c.members = [] → c.remote = false → Completes (.cfgAck (.die d) true (.frame f)) s fun t => still t ∧ t.owesAck d true f.seq ∧
        (rest ≠ [] → t.mgmt.config.commit = some { c with waiting := rest } ∧ t.mgmt.store = s.mgmt.store) ∧
        (rest = [] → d ∈ c.dies →
          let at_ : Word := BitVec.ofNat 64 ((s.now.toNat + 10000 + 999) / 1000 * 1000)
          t.mgmt.config.commit = some { c with waiting := [], flip := some at_ } ∧
          t.sendsFrame d.val true 0x12 (leBytes 4 c.lot.toNat ++ leBytes 4 0 ++ leBytes 8 at_.toNat) ∧
          ∃ j, t.mgmt.store.journal = s.mgmt.store.journal ++ [j] ∧ j.typ = .commit ∧ j.lot = c.lot ∧ j.entries = c.entries)) ∧
    (∀ w, s.takesFrame d 0x12 f → f.payload.length = 16 → k.shadow = some w → w.lot = lot → w.last = true →
      Completes (.cfgFlip (.die d) false (.frame f)) s fun t => still t ∧ t.owesAck d false f.seq ∧
        let k1 : DieCfg := { k with shadow := some { w with flip := some (BitVec.ofNat 64 (leAt f.payload 8 8)) } }
        (leAt f.payload 8 8 ≤ s.now.toNat →
          t.dieCfg d.val = { (w.entries.foldl DieCfg.put k1) with lot := w.lot, shadow := none }) ∧
        (s.now.toNat < leAt f.payload 8 8 → t.dieCfg d.val = k1)) ∧
    (∀ w, s.takesFrame d 0x13 f → f.payload.length = 4 → k.shadow = some w → w.lot = lot →
      Completes (.cfgDiscardFrame (.die d) false (.frame f)) s fun t => still t ∧ t.dieCfg d.val = { k with shadow := none }) ∧
    (s.takesFrame d 0x14 f → cfgLenOk f.payload.length = true → Completes (.cfgLoad d false f) s fun t => still t ∧
      (t.dieCfg d.val).lot = (if 2 ^ 15 ≤ leAt f.payload 4 2 then lot else k.lot) ∧
      (∀ v, frameEntries f.payload = [(0x0200, v)] → (t.dieCfg d.val).ringTmo = v) ∧
      (∀ (h : BitVec 12) v, frameEntries f.payload = [(0xF000 + h.toNat, v)] →
        Table.get 0 (t.dieCfg d.val).classes h.toNat = v.extractLsb' 0 3)) ∧
    (∀ (p : Fin 4) (lot : BitVec 32) (entries : List (Nat × Word)) (at_ : Word),
      (s.fromMaster p = true → s.mgmt.config.commit = none → s.partakers ≠ [] →
        Completes (.cfgPrepare (.member p) false (.message lot entries at_)) s fun t => still t ∧ ∃ c, t.mgmt.config.commit = some c ∧ c.lot = lot ∧
          c.remote = true ∧ c.flip = none ∧ c.waiting = s.partakers ∧ c.entries = entries.filter fun e => e.1 < 0xF000) ∧
      (∀ c rest, s.mgmt.config.commit = some c → c.flip = none → c.lot = lot → c.members = p :: rest →
        (rest ≠ [] ∨ c.waiting ≠ []) → Completes (.cfgAck (.member p) true (.message lot entries at_)) s fun t => still t ∧
          t.mgmt.config.commit = some { c with members := rest } ∧ t.mgmt.store = s.mgmt.store) ∧
      (∀ c, s.fromMaster p = true → s.mgmt.config.commit = some c → c.remote = true → c.lot = lot →
        (c.waiting = [] → Completes (.cfgFlip (.member p) false (.message lot entries at_)) s fun t => still t ∧
          t.mgmt.config.commit = some { c with members := [], flip := some at_ }) ∧
        (c.flip = none → Completes (.cfgDiscardFrame (.member p) false (.message lot entries at_)) s fun t => still t ∧
          t.mgmt.config.commit = none ∧ t.mgmt.config.lot = s.mgmt.config.lot)))

/-- LOT_BOUNDARY with a durable commit: the time base reaches T; the lot in force becomes the commit's; nothing of the commit is
left; every die whose shadow copy has a flip time that has come holds that copy's values and lot; and, with no round running,
a census round starts. CFG_ACK_TIMEOUT of a die, or of a member, whose answer is awaited ends the commit of this package, and
leaves the lot, the values in force and the store as they were. SHADOW_COPY_TIMEOUT of a copy with no flip drops it. With no
commit LOT_BOUNDARY and CFG_ACK_TIMEOUT change nothing. (16 Configuration: R401, R402, R404, R408.) -/
def Obligations.CommitsReachTheLotBoundaryOrAreAbsent : Prop :=
  ∀ (d : Fin 12) (who : CommitWho) (s : State), s.clocked = true →
    (s.mgmt.config.commit = none → exec .lotBoundary s = .next s ∧ exec (.cfgAckTimeout who) s = .next s) ∧
    (∀ c at_, s.mgmt.config.commit = some c → c.flip = some at_ → Completes .lotBoundary s fun t =>
      t.mgmt.config.lot = c.lot ∧ t.mgmt.config.commit = none ∧ at_.toNat ≤ t.now.toNat ∧ t.mem = s.mem ∧
      t.fab.harts = s.fab.harts ∧ (s.mgmt.census.running = false → t.mgmt.census.running = true) ∧
      ∀ w u, (s.dieCfg d.val).shadow = some w → w.flip = some u → u.toNat ≤ at_.toNat →
        (t.dieCfg d.val).lot = w.lot ∧ (t.dieCfg d.val).shadow = none) ∧
    (∀ c, s.mgmt.config.commit = some c → c.remote = false →
      (match who with
        | .die d => d ∈ c.waiting
        | .member p => p ∈ c.members) → Completes (.cfgAckTimeout who) s fun t =>
      t.mgmt.config = { s.mgmt.config with commit := none } ∧ t.mgmt.store = s.mgmt.store ∧ t.mem = s.mem ∧
      t.fab.harts = s.fab.harts) ∧
    (∀ w, (s.dieCfg d.val).shadow = some w → w.flip = none → Completes (.shadowCopyTimeout d) s fun t =>
      t.dieCfg d.val = { s.dieCfg d.val with shadow := none } ∧
      (w.since.toNat + 1000000 < 2 ^ 64 → w.since.toNat + 1000000 ≤ t.now.toNat))

/-- CENSUS_ROUND with EN, outside Recovery and Bring-up, with no round and no commit, starts the next round over the dies that
take part. CENSUS_REQ at a die is answered with its lot, its shade and its entry count. CENSUS_RPT of the round with the
expected lot and shade clears the die's mismatch bit and takes it off the list; one that differs, with AUTOFIX off, sets the
bit and takes it off. One of another round changes nothing but the ACK owed. CENSUS_PART and CENSUS_ENTRY requests at a die
are answered from its stream; an answer that differs narrows the bisection to the lower half. MEMBER_CENSUS_REPORT at a master
clears or sets the member's flag. None changes memory, harts or the configuration. (16 Configuration: R406, R407, R408, R409,
R411, R412; 08 Weld: R202.) -/
def Obligations.CensusRoundsCompareShades : Prop :=
  ∀ (d : Fin 12) (e : Fin 13) (f : SbFrame) (s : State), s.clocked = true → e.val = d.val →
    let k := s.mgmt.census
    let still (t : State) : Prop := t.mem = s.mem ∧ t.fab.harts = s.fab.harts ∧ t.mgmt.config = s.mgmt.config
    let lot : BitVec 32 := BitVec.ofNat 32 (leAt f.payload 4 4)
    let shade : Word := BitVec.ofNat 64 (leAt f.payload 8 8)
    (bit (s.cfg 0x1000) 16 = true → s.mode ≠ .recovery → s.mode ≠ .bringUp → k.running = false →
      s.mgmt.config.commit = none → Completes .censusRound s fun t => still t ∧ t.mgmt.census.running = true ∧
        t.mgmt.census.round = k.round + 1 ∧ 12 ∈ t.mgmt.census.waiting ∧
        (s.inCensus d.val = true ↔ d.val ∈ t.mgmt.census.waiting)) ∧
    (s.takesFrame d 0x15 f → f.payload.length = 4 → Completes (.censusReq e f) s fun t =>
      t.mem = s.mem ∧ t.fab.harts = s.fab.harts ∧ (t.dieCfg d.val).lot = (s.dieCfg d.val).lot ∧
      t.sendsFrame d.val false 0x16 (leBytes 4 (leAt f.payload 0 4) ++ leBytes 4 (s.dieCfg d.val).lot.toNat ++
        leBytes 8 (s.shade d.val).toNat ++ leBytes 2 (s.censusStream d.val).length)) ∧
    (k.running = true → k.waiting = [12] → k.bisect = none → k.rewritten.getLsbD 12 = false →
      s.shade 12 = s.expectedShade 12 → Completes (.censusReq 12 f) s fun t => still t ∧ t.mgmt.census.running = false ∧
        t.mgmt.census.mismatch.getLsbD 12 = false) ∧
    (s.takesFrame d 0x16 f → f.payload.length = 18 → leAt f.payload 0 4 = k.round.toNat → k.running = true →
      k.bisect = none → k.rewritten.getLsbD d.val = false → d.val ∈ k.waiting → k.waiting.erase d.val ≠ [] →
      (lot = s.mgmt.config.lot → shade = s.expectedShade d.val → Completes (.censusRpt e f) s fun t => still t ∧
        t.mgmt.census.mismatch.getLsbD d.val = false ∧ t.mgmt.census.waiting = k.waiting.erase d.val) ∧
      ((lot ≠ s.mgmt.config.lot ∨ shade ≠ s.expectedShade d.val) → bit (s.cfg 0x1000) 17 = false →
        Completes (.censusRpt e f) s fun t => still t ∧
          t.mgmt.census.mismatch.getLsbD d.val = true ∧ t.mgmt.census.waiting = k.waiting.erase d.val)) ∧
    (s.takesFrame d 0x16 f → f.payload.length = 18 → leAt f.payload 0 4 ≠ k.round.toNat → Completes (.censusRpt e f) s fun t =>
      still t ∧ t.mgmt.census = k ∧ t.owesAck d true f.seq) ∧
    (∀ a b, s.takesFrame d 0x17 f → f.payload.length = 4 → leAt f.payload 0 2 = a → leAt f.payload 2 2 = b → a < b →
      b ≤ (s.censusStream d.val).length → Completes (.censusPart e f) s fun t => still t ∧
        t.sendsFrame d.val false 0x17
          (leBytes 2 a ++ leBytes 2 b ++ leBytes 8 (streamCrc (((s.censusStream d.val).drop a).take (b - a))).toNat)) ∧
    (∀ lo hi, s.takesFrame d 0x17 f → f.payload.length = 12 → k.bisect = some (d.val, lo, hi) → lo + 1 < hi →
      leAt f.payload 0 2 = lo → leAt f.payload 2 2 = (lo + hi) / 2 →
      streamCrc (((s.expectedStream d.val).drop lo).take ((lo + hi) / 2 - lo)) ≠ BitVec.ofNat 64 (leAt f.payload 4 8) →
      Completes (.censusPart e f) s fun t => still t ∧ t.mgmt.census.bisect = some (d.val, lo, (lo + hi) / 2)) ∧
    (∀ q, s.takesFrame d 0x18 f → f.payload.length = 2 → (s.censusStream d.val)[leAt f.payload 0 2]? = some q →
      Completes (.censusEntry e f) s fun t => still t ∧
        t.sendsFrame d.val false 0x18 (leBytes 2 (leAt f.payload 0 2) ++ entryBytes q)) ∧
    (∀ lo, s.takesFrame d 0x18 f → f.payload.length = 12 → k.bisect = some (d.val, lo, lo + 1) → k.bisectFor.isSome = true →
      leAt f.payload 0 2 = lo → Completes (.censusEntry e f) s fun t => still t ∧ t.mgmt.census.bisect = none) ∧
    (∀ (p : Fin 4) (l : BitVec 32) (x y : Word) (m : BitVec 13), s.scopeMode = .cascade → s.mgmt.casc.master.val = s.pkgIx →
      s.pkgPresent p.val = true → p.val ≠ s.pkgIx → Completes (.memberCensusReport p l x y m) s fun t => still t ∧
        (t.mgmt.census.packages.getLsbD p.val = true ↔ ¬ (l = s.mgmt.config.lot ∧ x = y ∧ m = 0)))

/-- PM_SET with both APPLY flags sets the frequency of a core to 25 MHz times its byte, for bytes from 32 to 152, which are those
that R202 gives, and its requested idle state. PM_RPT_TIMER sends the four readings and the PLL bit; PM_RPT stores the die's
readings. HART_CTL HOLD and STOP of a hart with nothing waiting and no I/O access hold it, or stop it with its state saved.
RELEASE_PARKED parks a held hart; RELEASE_RUNNING starts it at the reset vector, unless BOOT_SEL asks for a debug halt; RESUME
gives a stopped hart its saved state back. HART_RPT is noted for its die. No frame changes memory or a hart's integer
registers. (08 Weld: R202; 17 Modes: R424; 17 Service: R432; 19 Power: R444, R452, R459, R461.) -/
def Obligations.PowerAndHartControlFramesAct : Prop :=
  ∀ (d : Fin 12) (f : SbFrame) (s : State), s.clocked = true →
    (s.takesFrame d 0x19 f → f.payload.length = 29 → ∀ c : CoreId, c.die = d → Completes (.pmSet d false f) s fun t =>
      let fr := (f.payload.getD c.core.val 0).toNat
      t.mem = s.mem ∧ t.fab.harts = s.fab.harts ∧ t.owesAck d false f.seq ∧
      ((f.payload.getD 28 0).toNat.testBit 0 = true → 32 ≤ fr → fr ≤ 152 → (t.core (coreKey c)).freq = fr * 25) ∧
      ((f.payload.getD 28 0).toNat.testBit 0 = false → (t.core (coreKey c)).freq = (s.core (coreKey c)).freq) ∧
      ((f.payload.getD 28 0).toNat.testBit 1 = true →
        (t.core (coreKey c)).idleReq = idleOf (leAt f.payload 22 6 / 2 ^ (2 * c.core.val) % 4)) ∧
      ((f.payload.getD 28 0).toNat.testBit 1 = false → (t.core (coreKey c)).idle = (s.core (coreKey c)).idle)) ∧
    ((s.port d.val).sbLost = false → Completes (.pmRptTimer d) s fun t => ∃ p : Bytes, p.length = 9 ∧
      t.sendsFrame d.val false 0x1A p ∧ t.mem = s.mem ∧ t.fab.harts = s.fab.harts ∧
      p.getD 8 0 = BitVec.ofNat 8 (bitOf (s.mgmt.power.diePll.contains d))) ∧
    (s.takesFrame d 0x1A f → f.payload.length = 9 → Completes (.pmRpt d true f) s fun t => t.mem = s.mem ∧
      Table.get [] t.mgmt.power.dieHot d.val = (List.range 4).map fun i => (BitVec.ofNat 16 (leAt f.payload (2 * i) 2)).toInt) ∧
    (s.takesFrame d 0x1C f → f.payload.length = 8 → 1 ≤ (f.payload.getD 0 0).toNat → (f.payload.getD 0 0).toNat ≤ 5 →
      Completes (.hartRpt d true f) s fun t => t.fab.harts = s.fab.harts ∧
        Table.get (0, 0) t.mgmt.service.reports d.val = ((f.payload.getD 0 0).toNat, leAt f.payload 2 6)) ∧
    (∀ h : HartId, h.die = d → ctlHarts f = 2 ^ (h.core.val * 2 + h.thread.val) → s.takesFrame d 0x1B f →
      f.payload.length = 8 →
      let x := s.hart (hartIx h)
      let frame (t : State) : Prop := t.mem = s.mem ∧ (t.hart (hartIx h)).x = x.x ∧ (t.hart (hartIx h)).v = x.v ∧
        (∀ i, i ≠ hartIx h → t.hart i = s.hart i)
      (x.waiting = [] → x.front = [] → x.io = none → (s.hart (hartIx (siblingOf h))).front = [] →
        (f.payload.getD 0 0 = 1 → Completes (.hartCtlHold d false f) s fun t => frame t ∧
          (t.hart (hartIx h)).run = .held ∧ (t.hart (hartIx h)).ctl = none) ∧
        (f.payload.getD 0 0 = 4 → Completes (.hartCtlStop d false f) s fun t => frame t ∧
          (t.hart (hartIx h)).run = .stopped ∧ (t.hart (hartIx h)).saved = x.run ∧ (t.hart (hartIx h)).pc = x.pc)) ∧
      (f.payload.getD 0 0 = 2 → x.run = .held → x.ctl = none → Completes (.hartCtlReleaseParked d false f) s fun t => frame t ∧
        (t.hart (hartIx h)).run = .parked) ∧
      (f.payload.getD 0 0 = 3 → x.run = .held → x.ctl = none → s.mgmt.mode.straps.bootSel ≠ 2 →
        Completes (.hartCtlReleaseRunning d false f) s fun t => frame t ∧ (t.hart (hartIx h)).run = .running ∧
          (t.hart (hartIx h)).pc = s.resetVector ∧ (t.hart (hartIx h)).priv = .m) ∧
      (f.payload.getD 0 0 = 5 → x.run = .stopped → x.saved = .running → Completes (.hartCtlResume d false f) s fun t =>
        frame t ∧ (t.hart (hartIx h)).run = .running ∧ (t.hart (hartIx h)).pc = x.pc))

/-- The answer that a no-snoop read is given. -/
def readAnswered (s t : State) (m : Msg) (P : Bytes → Bool → Prop) : Prop :=
  ∃ a, t.fab.net = s.fab.net ++ [a] ∧ a.op = .dataOnce ∧ a.dst = m.req ∧ a.txid = m.txid ∧ a.line = m.line ∧ P a.data a.poison

/-- With nothing held back at the home slice, HBM_LINE_READ of a no-snoop read that waits, of a clear granule with no fill and a
good map word, answers zeros as clean and touches no stack and no slot. Of a written granule, when the class rules let it go
and its pseudo-channel works, it is issued and uses a slot of its class. HBM_READ_DATA of a read of a filled granule answers
the requester by the class of the codeword: clean and corrected data without poison, poisoned and poisoned-corrected data with
poison, and any other class poison with a value left open. The stored bytes never change. HBM_READ_TIMEOUT answers poison and
counts. (09 HBM: R233, R234, R235, R248, R250, R258; 10 Hues: R269.) -/
def Obligations.LineReadsObeyTheMapAndTheCode : Prop :=
  ∀ (r : MemReq) (m : Msg) (s : State), s.clocked = true → r.write = false → r.client = .noSnoop m.txid → m.op = .rdNS →
    m.line = r.line → s.mem.noSnoop = [m] → nothingHeld s m.line →
    let g := granuleOf r.line
    let u := (hbmLoc r.line).unit
    (r ∈ s.mem.reqs → s.region none (r.line * 64) = .hbm → s.mapErr (g / 64) = 0 → s.filling g = false →
      (s.granule g = .clear → Completes (.hbmLineRead r) s fun t => readAnswered s t m (fun d p => d = zeroLine ∧ p = false) ∧
        t.mem = { s.mem with reqs := s.mem.reqs.erase r, noSnoop := [] }) ∧
      (s.granule g = .filled → s.nextFor u = some r → s.pcFailed u = false → Completes (.hbmLineRead r) s fun t =>
        t.fab.net = s.fab.net ∧ t.mem.reads = s.mem.reads ++ [r] ∧ t.mem.reqs = s.mem.reqs.erase r ∧ t.mem.data = s.mem.data ∧
        t.slotsUsed (u * 8 + r.cls.toNat) = s.slotsUsed (u * 8 + r.cls.toNat) + 1)) ∧
    (∀ (source : Nat) (errs : List (Nat × Byte)), r ∈ s.mem.reads → s.granule g = .filled →
      let q := withErrs (s.storedLine source).1 (s.storedLine source).2 errs
      let c := decodeLine r.line q.1 q.2
      Completes (.hbmReadData r source errs) s fun t => t.mem.data = s.mem.data ∧ t.mem.check = s.mem.check ∧
        t.mem.reads = s.mem.reads.erase r ∧
        (∀ d p, c.data q.1 = some (d, p) → readAnswered s t m fun d' p' => d' = d ∧ p' = p) ∧
        (c.data q.1 = none → readAnswered s t m fun _ p' => p' = true)) ∧
    (r ∈ s.mem.reads →
      let k := (hbmLoc r.line).stack * 16 + (hbmLoc r.line).channel
      (s.channel k).timeouts < 15 → Completes (.hbmReadTimeout r) s fun t => t.mem.data = s.mem.data ∧
        t.mem.reads = s.mem.reads.erase r ∧ readAnswered s t m (fun _ p => p = true) ∧
        (t.channel k).timeouts = (s.channel k).timeouts + 1)

/-- With nothing held back at the home slice, HBM_LINE_WRITE of 64 bytes to a filled granule, when the class rules let it go and
its pseudo-channel works, stores the data with the check bytes of R232, the tag being its poison, and every other line of the
stacks keeps its stored bytes. To a clear granule it starts a fill and stores nothing yet. A write to a granule that is being
filled waits behind the fill. ZERO_FILL_DONE with one waiting write makes the granule filled: that line holds the written
codeword, every other line of the granule holds the zero codeword, and every line outside it keeps its bytes. (09 HBM: R232,
R235, R248, R258; 10 Hues: R269.) -/
def Obligations.LineWritesStoreACodewordAndFillTheGranule : Prop :=
  ∀ (r : MemReq) (m : Msg) (s : State), s.clocked = true → r.write = true → r.client = .noSnoop m.txid → m.op = .wrNS →
    m.line = r.line → s.mem.noSnoop = [m] → nothingHeld s m.line → r.data.length = 64 → s.pcFailed (hbmLoc r.line).unit = false →
    let g := granuleOf r.line
    let word := (r.data, checkBytes (codeAddr r.line) r.data r.poison)
    (r ∈ s.mem.reqs → s.region none (r.line * 64) = .hbm → s.mapErr (g / 64) = 0 → s.nextFor (hbmLoc r.line).unit = some r →
      (s.granule g = .filled → s.filling g = false → Completes (.hbmLineWrite r) s fun t =>
        t.storedLine r.line = word ∧ (∀ l, l ≠ r.line → t.storedLine l = s.storedLine l) ∧ t.mem.granules = s.mem.granules ∧
        t.mem.reqs = s.mem.reqs.erase r ∧
        ∃ a, t.fab.net = s.fab.net ++ [a] ∧ a.op = .wrDone ∧ a.dst = m.req ∧ a.txid = m.txid) ∧
      (s.granule g = .clear → s.filling g = false → Completes (.hbmLineWrite r) s fun t =>
        t.mem.fills = s.mem.fills ++ [(g, [r])] ∧ t.mem.data = s.mem.data ∧ t.mem.granules = s.mem.granules ∧
        t.fab.net = s.fab.net) ∧
      (∀ rs, s.mem.fills = [(g, rs)] → Completes (.hbmLineWrite r) s fun t => t.mem.fills = [(g, rs ++ [r])] ∧
        t.mem.data = s.mem.data ∧ t.fab.net = s.fab.net)) ∧
    (s.mem.fills = [(g, [r])] → r.line ∈ granuleLines s.pkgIx g → Completes (.zeroFillDone g) s fun t =>
      t.granule g = .filled ∧ t.mem.fills = [] ∧ t.storedLine r.line = word ∧
      (∀ l ∈ granuleLines s.pkgIx g, l ≠ r.line → t.storedLine l = (zeroLine, checkBytes (codeAddr l) zeroLine false)) ∧
      (∀ l, l ∉ granuleLines s.pkgIx g → t.storedLine l = s.storedLine l) ∧
      (∀ j, j ≠ g → t.granule j = s.granule j))

/-- HBM_PARITY_ALERT counts the first two alerts of a channel and logs each against the pseudo-channel. HBM_TEMPERATURE_REPORT
doubles the stack's refresh above 85 °C and marks it hot above 95 °C. CORRECTION_EVENT of a row first seen, with room in the
table and HBM thresholds above 1, counts one from now. PATROL_STEP with PATROL set moves on one line and writes nothing.
READ_RAW of an armed idle window, from hue 0, shows a clear granule as class 6 with zeros; WRITE_RAW stores DATA and CHECK as
they are; any other hue changes nothing; RAW_COMMAND_DONE ends BUSY. HBM_ROUND gives the pseudo-channel's classes their slots
back and no other's. (09 HBM: R239, R243, R246, R258; 10 Hues: R269; 19 Power: R461.) -/
def Obligations.StacksReportRetrainAndScrub : Prop :=
  (∀ (ch : Fin 32) (r : MemReq) (s : State), s.clocked = true → (s.channel ch.val).alerts < 2 → s.mgmt.log.queue.length < 1024 →
    Completes (.hbmParityAlert ch r) s fun t => (t.channel ch.val).alerts = (s.channel ch.val).alerts + 1 ∧
      s.logsOne t .partner .hbm .parity (hbmLoc r.line).unit ∧ t.mem.data = s.mem.data) ∧
  (∀ (stack : Fin 2) (celsius : Int) (s : State), s.clocked = true → Completes (.hbmTemperatureReport stack celsius) s fun t =>
    (85 < celsius ↔ stack ∈ t.mgmt.power.stackDouble) ∧ (95 < celsius → stack ∈ t.mgmt.power.stackHot) ∧
    (celsius ≤ 90 → stack ∉ t.mgmt.power.stackHot) ∧ t.mem = s.mem ∧ t.fab = s.fab) ∧
  (∀ (line : Nat) (symbol : Fin 128) (s : State), s.clocked = true → Table.find s.mem.rows (hbmLoc line).rowKey = none →
    s.mem.rows.length < 8192 → 1 < fld (s.cfg 0x0400) 32 8 → Completes (.correctionEvent line symbol) s fun t =>
      t.row (hbmLoc line).rowKey = { count := 1, first := s.now, last := s.now, rewritten := false, retired := false } ∧
      t.mem.data = s.mem.data ∧ t.mem.check = s.mem.check) ∧
  (∀ (stack : Fin 2) (line : Nat) (errs : List (Nat × Byte)) (s : State), s.clocked = true → bit (s.cfg 0x0400) 0 = true →
    s.patrolNext stack.val (s.patrolAt stack.val) = some line → Completes (.patrolStep stack errs) s fun t =>
      t.patrolAt stack.val = line + 1 ∧ t.mem.data = s.mem.data ∧ t.mem.check = s.mem.check ∧ t.fab = s.fab) ∧
  (∀ (hue : BitVec 12) (errs : List (Nat × Byte)) (s : State), s.clocked = true →
    let w := s.mem.window
    let line := w.addr.toNat / 64
    (s.rawReady hue = true → s.granule (granuleOf line) = .clear → Completes (.readRaw hue errs) s fun t =>
      t.mem = { s.mem with window := { w with busy := true, result := 6, data := zeroLine, check := 0 } }) ∧
    (s.rawReady hue = true → s.granule (granuleOf line) = .filled → s.pcFailed (hbmLoc line).unit = false → w.data.length = 64 →
      Completes (.writeRaw hue) s fun t => t.storedLine line = (w.data, leBytes 8 w.check.toNat) ∧ t.mem.window.busy = true ∧
        ∀ l, l ≠ line → t.storedLine l = s.storedLine l) ∧
    (hue ≠ 0 → exec (.readRaw hue errs) s = .next s ∧ exec (.writeRaw hue) s = .next s) ∧
    Completes .rawCommandDone s fun t => t.mem = { s.mem with window := { w with busy := false } }) ∧
  (∀ (pc : Fin 64) (s : State), s.clocked = true → Completes (.hbmRound pc) s fun t => t.mem.data = s.mem.data ∧
    (∀ c : Fin 8, t.slotsUsed (pc.val * 8 + c.val) = 0) ∧ ∀ k, k / 8 ≠ pc.val → t.slotsUsed k = s.slotsUsed k)

/-- WMAP_FORGET_ENTRY1 of 8 bytes outside Partitioned mode puts the two staged words at the end of the queue when fewer than 64
are there and the head is neither empty nor to be refused, and with 64 there drops the entry with OVERFLOW. FORGET_SWEEP with
an entry at the head and nothing of any directory in any range marks the queue as running. FORGET_COMPLETE of a running entry
that is swept out clears every granule of its range, whose lines then read as the zero codeword; every other granule and every
line outside the range stay; HEAD advances and LAST holds the tag. (09 HBM: R252, R253, R254, R255.) -/
def Obligations.ForgetQueuesSweepAndClear : Prop :=
  ∀ (h : HartId) (q : Fin 16) (v : Word) (s : State), s.clocked = true →
    let f := s.forget q.val
    (s.partOfDie h.die.val = none → 64 ≤ (f.tail - f.head).toNat → Completes (.wmapForgetEntry1 h q 8 v) s fun t =>
      t.forget q.val = { f with entry1 := v, overflow := true } ∧ t.mem.data = s.mem.data) ∧
    (∀ e rest, s.partOfDie h.die.val = none → (f.tail - f.head).toNat < 64 → f.entries = e :: rest → f.running = true →
      Completes (.wmapForgetEntry1 h q 8 v) s fun t => t.mem.data = s.mem.data ∧
        t.forget q.val = { f with entry1 := v, tail := f.tail + 1, entries := e :: rest ++ [{ e0 := f.entry0, e1 := v }] }) ∧
    (f.entries ≠ [] → (∀ k < 32, ∀ d ∈ (s.home k).dir, ∀ x ∈ s.sweepHeads, s.inForget x.2 d.2.line = false) →
      Completes (.forgetSweep q) s fun t => (t.forget q.val).running = true ∧ t.mem.data = s.mem.data ∧ t.fab.net = s.fab.net) ∧
    (∀ e, f.entries = [e] → f.running = true → s.sweptOut e = true → Completes (.forgetComplete q) s fun t =>
      (t.forget q.val).head = f.head + 1 ∧ (t.forget q.val).entries = [] ∧ (t.forget q.val).running = false ∧
      (t.forget q.val).last = BitVec.ofNat 64 e.tag ∧ t.fab.homes = s.fab.homes ∧
      (∀ g, e.start ≤ g → g < e.start + e.count → t.granule g = .clear ∧
        ∀ l ∈ granuleLines s.pkgIx g, t.storedLine l = (zeroLine, checkBytes (codeAddr l) zeroLine false)) ∧
      (∀ g, g < e.start ∨ e.start + e.count ≤ g → t.granule g = s.granule g ∧
        ∀ l ∈ granuleLines s.pkgIx g, t.storedLine l = s.storedLine l))

/-- Every hue but one keeps its lifecycle state. -/
def otherHues (s t : State) (h : Nat) : Prop := ∀ g, g ≠ h → t.hueSt g = s.hueSt g

/-- For a hue below 4,096 that the command's conditions admit, an issuer that Mordant serves at once is answered OK, and:
HUE_QUERY changes no hue and tells state, class, staged class and step first; HUE_ALLOC of a FREE hue makes it BOUND with its
class at every copy; HUE_START makes a BOUND hue ACTIVE with an open interval that starts at a multiple of 100 µs;
HUE_SET_CLASS stages a class; HUE_DMA_BIND leaves one binding of the pair, with the hue; HUE_DMA_UNBIND leaves none;
HUE_GFILE_ASSIGN gives the file its owner; HUE_GFILE_RELEASE clears the file; HUE_RESET starts the drain. Every other hue
keeps its state. (10 Hues: R262, R263, R264, R265, R277, R279; 15 Mordant: R372, R373, R376.) -/
def Obligations.HueCommandsMoveTheLifecycle : Prop :=
  ∀ (iss : Issuer) (c : CmdCell) (s : State) (h : Nat), CmdCell.at_ c 0 2 = h → h < 4096 → s.masterOnly = [] →
    let cls := CmdCell.at_ c 2 1
    (s.serves iss c 0x0400 (c.plen.toNat = 2) [] (s.hueScope iss h) → Completes (.hueQuery iss c) s fun t =>
      t.hub = s.hub ∧ ∃ rest, t.answered iss c 0x0400 stOk (leBytes 1 (s.lifeOf h).code ++ leBytes 1 (s.mordantClass h).toNat ++
        leBytes 1 (((s.hueSt h).staged.map BitVec.toNat).getD 0xFF) ++ leBytes 1 (s.hueSt h).step ++ rest)) ∧
    (s.serves iss c 0x0401 (c.plen.toNat = 3) [] (s.hueScope iss h) → cls < 8 → s.lifeOf h = .free →
      Completes (.hueAlloc iss c) s fun t => t.answered iss c 0x0401 stOk (leBytes 2 h) ∧ t.hueSt h = { st := .bound } ∧
        otherHues s t h ∧ t.mordantClass h = BitVec.ofNat 3 cls ∧
        ∀ d : Fin 12, Table.get 0 (t.dieCfg d.val).classes h = BitVec.ofNat 3 cls) ∧
    (s.serves iss c 0x0402 (c.plen.toNat = 2) [] (s.hueScope iss h) → h ≠ 0 → s.lifeOf h = .bound →
      Completes (.hueStart iss c) s fun t => t.answered iss c 0x0402 stOk [] ∧ (t.hueSt h).st = .active ∧ otherHues s t h ∧
        (t.meter h).open_ = true ∧ (t.meter h).first = true ∧ (t.meter h).start = nextTick s.now) ∧
    (s.serves iss c 0x0403 (c.plen.toNat = 3) [] (s.hueScope iss h) → cls < 8 → h ≠ 0 → s.usable h = true →
      Completes (.hueSetClass iss c) s fun t => t.answered iss c 0x0403 stOk [] ∧ otherHues s t h ∧
        t.hueSt h = { s.hueSt h with staged := some (BitVec.ofNat 3 cls) } ∧ t.mordantClass h = s.mordantClass h) ∧
    (s.serves iss c 0x0404 (c.plen.toNat = 12) [] (s.hueScope iss h) → s.usable h = true → s.hub.bindings.length < 16384 →
      (∀ b ∈ s.hub.bindings, b.part = s.bindPart iss h → (b.rid, b.pasid) = bindPair c → b.hue = none ∨ b.hue = some (BitVec.ofNat 12 h)) →
      Completes (.hueDmaBind iss c) s fun t => t.answered iss c 0x0404 stOk [] ∧ t.hub.hues = s.hub.hues ∧
        (t.hub.bindings.filter fun b => b.part = s.bindPart iss h && decide ((b.rid, b.pasid) = bindPair c)) =
          [{ part := s.bindPart iss h, rid := (bindPair c).1, pasid := (bindPair c).2, hue := some (BitVec.ofNat 12 h) }]) ∧
    (s.serves iss c 0x0405 (c.plen.toNat = 12) [] true → s.issPart iss = none →
      (∃ b ∈ s.hub.bindings, (b.rid, b.pasid) = bindPair c) → Completes (.hueDmaUnbind iss c) s fun t =>
        t.answered iss c 0x0405 stOk [] ∧ t.hub.hues = s.hub.hues ∧ ∀ b ∈ t.hub.bindings, (b.rid, b.pasid) ≠ bindPair c) ∧
    (∀ k, s.serves iss c 0x0406 (c.plen.toNat = 5) [] (s.hueScope iss h && s.hartScope iss (CmdCell.at_ c 2 2)) → h ≠ 0 →
      s.usable h = true → s.guestFile c = some k → (s.file k).owner = none → Completes (.hueGfileAssign iss c) s fun t =>
        t.answered iss c 0x0406 stOk [] ∧ t.file k = { s.file k with owner := some (BitVec.ofNat 12 h) } ∧
        t.hub.hues = s.hub.hues ∧ ∀ j, j ≠ k → t.file j = s.file j) ∧
    (∀ k, s.serves iss c 0x0407 (c.plen.toNat = 5) [] (s.hartScope iss (CmdCell.at_ c 2 2)) → s.guestFile c = some k →
      (s.file k).owner ≠ none → Completes (.hueGfileRelease iss c) s fun t => t.answered iss c 0x0407 stOk [] ∧ t.file k = {} ∧
        t.hub.hues = s.hub.hues ∧ ∀ j, j ≠ k → t.file j = s.file j) ∧
    (s.serves iss c 0x0408 (c.plen.toNat = 2) [] (s.hueScope iss h) → h ≠ 0 → s.usable h = true →
      Completes (.hueReset iss c) s fun t => t.answered iss c 0x0408 stOk [] ∧ (t.hueSt h).st = .draining ∧
        (t.hueSt h).step = 2 ∧ (t.hueSt h).staged = none ∧ otherHues s t h)

/-- The hue is RESETTING and nothing is held under it (R279). -/
def hueCleared (t : State) (hue : BitVec 12) : Prop :=
  (t.hueSt hue.toNat).st = .resetting ∧ (t.hueSt hue.toNat).step = 4 ∧ (∀ k, (t.file k).owner ≠ some hue) ∧
    (∀ b ∈ t.hub.bindings, b.hue ≠ some hue) ∧ ∀ d < 12, ∀ e ∈ (t.die d).l3, e.2.hue ≠ hue

/-- For a hue other than 0: HUE_DRAIN_COMPLETE in step 2 with nothing in flight, and HUE_SQUASH_COMPLETE in step 3 with nothing in
flight, bring it to RESETTING, step 4: no guest file is owned by it, no binding maps to it, and no line of a die's L3 is held
under it. DRAIN_TMO_EXPIRY in step 2 with something in flight goes to step 3 and marks the reset as squashed; with nothing in
flight it goes to step 4. HUE_RESET_DONE in step 4 makes the hue FREE with its meter at zero. In any other state each of these
changes nothing. (10 Hues: R262, R277, R279, R280, R281, R282.) -/
def Obligations.HueResetsDrainSquashAndFree : Prop :=
  ∀ (hue : BitVec 12) (s : State), s.clocked = true → hue ≠ 0 →
    let x := s.hueSt hue.toNat
    (x.st = .draining → x.step = 2 → s.inFlight hue = false →
      Completes (.hueDrainComplete hue) s (fun t => hueCleared t hue ∧ otherHues s t hue.toNat) ∧
      Completes (.drainTmoExpiry hue) s (fun t => hueCleared t hue ∧ x.drainTmo % 2 ^ 64 ≤ t.now.toNat)) ∧
    (x.st = .draining → x.step = 2 → s.inFlight hue = true → Completes (.drainTmoExpiry hue) s fun t =>
      (t.hueSt hue.toNat).st = .draining ∧ (t.hueSt hue.toNat).step = 3 ∧ (t.hueSt hue.toNat).squashed = true ∧
        otherHues s t hue.toNat) ∧
    (x.st = .draining → x.step = 3 → s.inFlight hue = false → Completes (.hueSquashComplete hue) s fun t =>
      hueCleared t hue ∧ otherHues s t hue.toNat) ∧
    (x.st = .resetting → x.step = 4 → Completes (.hueResetDone hue) s fun t =>
      t.hueSt hue.toNat = {} ∧ t.meter hue.toNat = {} ∧ otherHues s t hue.toNat) ∧
    (x.st ≠ .draining → exec (.hueDrainComplete hue) s = .next s ∧ exec (.drainTmoExpiry hue) s = .next s ∧
      exec (.hueSquashComplete hue) s = .next s) ∧
    (x.st ≠ .resetting → exec (.hueResetDone hue) s = .next s)

/-- At a port whose link is up, with no earlier request of the port waiting: a read that the IOMMU translates into one line of
main memory sends one RdOnce, or RdNS when it is marked no-snoop, for that line with its binding's hue, and is kept until its
answer; a posted write of a whole line sends WrFull with its data, and charges the hue. A request that would cross 4 KiB sends
nothing, logs MALFORMED, and contains the port when containment is enabled. A request whose hue is blocked, draining or
resetting sends nothing and a read is answered UR. An untranslated read is answered UR. At a port whose link is not up nothing
changes. (14 PCIe: R349, R351, R353, R354, R367; 10 Hues: R280, R281.) -/
def Obligations.DeviceRequestsAreCheckedAndSent : Prop :=
  ∀ (port : Fin 32) (r : DmaReq) (s : State), s.clocked = true →
    let p := s.rootPort port.val
    let part := s.partOfPort port.val
    let ur : DevCpl := { port := port, rid := r.rid, tag := r.tag, status := .ur, ep := false, addr := r.addr, data := [] }
    (p.link ≠ .up → exec (.inboundMemoryRequest port r) s = .next s) ∧
    (s.isPort port.val = true → p.link = .up → 4096 < r.addr % 4096 + r.len → Completes (.inboundMemoryRequest port r) s fun t =>
      t.fab.net = s.fab.net ∧ t.hub.inbound = s.hub.inbound ∧
        (t.rootPort port.val).link = (if p.dpcEnabled then .contained else .up) ∧
        (s.mgmt.log.queue.length < 1024 → s.logsOne t .partner .pcie .malformed port.val)) ∧
    (s.isPort port.val = true → p.link = .up → r.addr % 4096 + r.len ≤ 4096 → p.acs.getLsbD 0 = false →
      (s.iommuXlat port.val r.addr r.xlat = none → r.kind = .read → Completes (.inboundMemoryRequest port r) s fun t =>
        t.fab.net = s.fab.net ∧ t.hub.inbound = s.hub.inbound ∧ t.hub.toDevice = s.hub.toDevice ++ [ur]) ∧
      (∀ pa, s.iommuXlat port.val r.addr r.xlat = some pa →
        (s.dmaHue part r.rid r.pasid = none → Completes (.inboundMemoryRequest port r) s fun t => t.fab.net = s.fab.net ∧
          t.hub.inbound = s.hub.inbound ∧ (r.kind = .read → t.hub.toDevice = s.hub.toDevice ++ [ur])) ∧
        (∀ hue line off n, s.dmaHue part r.rid r.pasid = some hue → s.region part pa = .hbm →
          lineParts pa r.len = [(line, off, 0, n)] → (∀ i ∈ s.hub.inbound, i.port ≠ port) →
          (r.kind = .read → Completes (.inboundMemoryRequest port r) s fun t => ∃ m, t.fab.net = s.fab.net ++ [m] ∧
            m.op = (if r.noSnoop then .rdNS else .rdOnce) ∧ m.line = line ∧ m.hue = hue ∧ m.req = 12 ∧ m.dst = s.homeAgent line ∧
            ∃ i, t.hub.inbound = s.hub.inbound ++ [i] ∧ i.port = port ∧ i.req = r ∧ i.hue = hue ∧ i.lines = [(m.txid, line)]) ∧
          (r.kind = .write → r.noSnoop = false → r.len = 64 → off = 0 → n = 64 → r.enable = BitVec.allOnes 64 →
            Completes (.inboundMemoryRequest port r) s fun t => ∃ m, t.fab.net = s.fab.net ++ [m] ∧ m.op = .wrFull ∧
              m.line = line ∧ m.hue = hue ∧ m.data = splice zeroLine 0 (sub r.data 0 64) ∧
              t.mem = s.mem ∧ t.hub.toDevice = s.hub.toDevice))))

/-- Every slice but one is unchanged. -/
def otherSlices (s t : State) (k : Nat) : Prop := ∀ j, j ≠ k → t.slice j = s.slice j

/-- SLC_DESC7 of 8 bytes at a bound slice with credits stages the word, takes the lowest free pool cell and a credit; a last cell
with a good descriptor under a live hue submits a job with the next SEQ. Without credits it sets OVERRUN and takes nothing.
SLC_CQ_HEAD within the written records moves HEAD, frees the cells and returns the credits; a value outside sets BADHEAD.
ABORT with bit 0 frees the part-enqueued cells and ends every job that no pipeline runs with ABORTED; running jobs stop at
their next boundary. CE_SLICE_BIND, CE_SLICE_UNBIND of an idle slice and CE_SLICE_QUERY answer OK with their effect. An
unbound slice ignores its registers. Other slices stay. (12 Compression: R308, R309, R310, R311, R313, R315.) -/
def Obligations.EngineQueuesTakeReleaseAndAbort : Prop :=
  (∀ (k : Fin 4096) (v : Word) (s : State), s.clocked = true →
    let x := s.slice k.val
    (x.st = .unbound → exec (.slcDesc7 k 8 false v) s = .next s ∧ exec (.slcCqHead k v) s = .next s ∧
      exec (.abort k v) s = .next s) ∧
    (x.st ≠ .unbound → x.credits = 0 → Completes (.slcDesc7 k 8 false v) s fun t => otherSlices s t k.val ∧
      t.slice k.val = { x with desc := Table.put 0 x.desc 7 v, overrun := true } ∧ t.hub.cells = s.hub.cells) ∧
    (x.st ≠ .unbound → x.credits ≠ 0 → x.part = [] → x.jobs = [] → x.unreleased = [] →
      let d := Table.put 0 x.desc 7 v
      let b := (List.range 8).flatMap fun n => leBytes 8 (Table.get 0 d n).toNat
      let i := s.freeCell 512 (s.hub.cells.length + 1)
      Completes (.slcDesc7 k 8 false v) s fun t => otherSlices s t k.val ∧ t.cell i = some { bytes := b, owner := k.val } ∧
        (t.slice k.val).credits = x.credits - 1 ∧
        (chained b = true → (t.slice k.val).part = [i] ∧ (t.slice k.val).jobs = []) ∧
        (chained b = false → badDesc [b] = false → s.hueLife x.hue = .active → (t.slice k.val).part = [] ∧
          (t.slice k.val).nextSeq = x.nextSeq + 1 ∧ ∃ j, (t.slice k.val).jobs = [j] ∧ j.seq = x.nextSeq ∧ j.cells = [i] ∧
          j.submitted = s.now ∧ j.running = none ∧ j.status = none)) ∧
    (x.st ≠ .unbound →
      let h : BitVec 16 := v.extractLsb' 0 16
      let gone := x.unreleased.take (h - x.head).toNat
      ((x.tail - x.head).toNat < (h - x.head).toNat → Completes (.slcCqHead k v) s fun t => otherSlices s t k.val ∧
        t.slice k.val = { x with badHead := true } ∧ t.hub.cells = s.hub.cells) ∧
      ((h - x.head).toNat ≤ (x.tail - x.head).toNat → Completes (.slcCqHead k v) s fun t => otherSlices s t k.val ∧
        (t.slice k.val).head = h ∧ (t.slice k.val).jobs = x.jobs ∧
        (t.slice k.val).credits = x.credits + BitVec.ofNat 8 ((gone.map Prod.fst).sum) ∧
        ∀ i ∈ gone.flatMap Prod.snd, t.cell i = none)) ∧
    (x.st = .bound → bit v 0 = true → Completes (.abort k v) s fun t => otherSlices s t k.val ∧ (t.slice k.val).part = [] ∧
      (t.slice k.val).jobs = x.jobs.map (fun j => j.halt 1) ∧ (t.slice k.val).head = x.head ∧ ∀ i ∈ x.part, t.cell i = none)) ∧
  (∀ (iss : Issuer) (c : CmdCell) (k : Fin 4096) (s : State), CmdCell.at_ c 0 2 = k.val →
    let x := s.slice k.val
    (∀ hue : BitVec 12, CmdCell.at_ c 2 2 = hue.toNat → s.serves iss c 0x0C00 (c.plen.toNat = 36) [] (s.sliceScope iss k.val hue.toNat) →
      x.st = .unbound → s.hueLife hue = .active → CmdCell.at_ c 4 4 < 2 ^ 20 → CmdCell.at_ c 8 1 ≠ 0 → 6 ≤ CmdCell.at_ c 9 1 → CmdCell.at_ c 9 1 ≤ 16 →
      CmdCell.at_ c 8 1 ≤ 2 ^ CmdCell.at_ c 9 1 → CmdCell.at_ c 16 8 % 4096 = 0 → s.cellsReserved + CmdCell.at_ c 8 1 ≤ poolCells →
      Completes (.ceSliceBind iss c) s fun t => t.answered iss c 0x0C00 stOk [] ∧ otherSlices s t k.val ∧
        (t.slice k.val).st = .bound ∧ (t.slice k.val).hue = hue ∧ (t.slice k.val).pasid = BitVec.ofNat 20 (CmdCell.at_ c 4 4) ∧
        (t.slice k.val).credits = BitVec.ofNat 8 (CmdCell.at_ c 8 1) ∧ (t.slice k.val).logE = CmdCell.at_ c 9 1 ∧ (t.slice k.val).jobs = [] ∧
        (t.slice k.val).head = 0 ∧ (t.slice k.val).tail = 0) ∧
    (s.serves iss c 0x0C01 (c.plen.toNat = 2) [] (s.sliceScope iss k.val 0) → x.st = .bound → x.jobs = [] →
      Completes (.ceSliceUnbind iss c) s fun t => t.answered iss c 0x0C01 stOk [] ∧ otherSlices s t k.val ∧ t.slice k.val = {}) ∧
    (s.serves iss c 0x0C02 (c.plen.toNat = 2) [] (s.sliceScope iss k.val 0) → Completes (.ceSliceQuery iss c) s fun t =>
      t.hub = s.hub ∧ t.answered iss c 0x0C02 stOk (leBytes 2 (sliceCode x.st) ++ leBytes 2 x.hue.toNat ++ leBytes 4 x.pasid.toNat ++
        [x.creditsBound, 0] ++ leBytes 2 x.cells.length ++ leBytes 2 x.running ++ leBytes 2 x.nextSeq.toNat ++
        [x.qresets, x.credits])))

/-- JOB_SELECTION on a free, awake pipeline, when the best candidate belongs to a slice whose cells check good and its descriptor
is good, runs that job on the pipeline. AGE_PROMOTION of a waiting job marks it aged. BLOCK_BOUNDARY of a running job: a
poison, a bad target or an I/O error ends the job with POISON or DMA_FAULT and the blocks done as its detail; a transient
error with rewinds left counts one, and with none left ends it with DMA_FAULT; a translation fault ends it with XLATE_FAULT; a
block that is read and written moves the mark, and ends the job when the source is used up. COMPLETION_RECORD of a job with a
status, whose record address lies in main memory and can be written, advances TAIL by one and takes the job off the slice. On
a pipeline that runs nothing BLOCK_BOUNDARY changes nothing. (12 Compression: R317, R318, R319, R322, R323, R324; 13 Format:
R327.) -/
def Obligations.EngineRunsJobsBlockByBlock : Prop :=
  (∀ (pipe : Fin 8) (s : State), s.clocked = true → (∀ r ∈ s.runningJobs, r.2.2.running ≠ some pipe) →
    (∀ ev xlat, exec (.blockBoundary pipe ev xlat) s = .next s) ∧
    (s.mgmt.power.asleep.contains (.pipe pipe) = false → s.bestJob = none → exec (.jobSelection pipe) s = .next s) ∧
    (∀ k x j, s.mgmt.power.asleep.contains (.pipe pipe) = false → s.bestJob = some (k, x, j) → s.sliceBroken k = false →
      badDesc (s.cellBytes j.cells) = false → Completes (.jobSelection pipe) s fun t => t = s.setJob k { j with running := some pipe })) ∧
  (∀ (k : Fin 4096) (j : Job) (s : State), s.clocked = true → (s.slice k.val).jobs = [j] → j.running = none → j.status = none →
    Completes (.agePromotion k j.seq) s fun t => (t.slice k.val).jobs = [{ j with aged := true }]) ∧
  (∀ (pipe : Fin 8) (k : Nat) (x : SliceState) (j : Job) (xlat : List (Nat × Nat)) (s : State), s.clocked = true →
    s.runningJobs = [(k, x, j)] → j.running = some pipe → x.st = .bound → x.unbinding = none → x.jobs = [j] → s.slice k = x →
    s.sliceBroken k = false →
    let ended (st : Nat) (t : State) : Prop := (t.slice k).jobs = [j.finish st j.blocks] ∧ t.fab.net = s.fab.net
    Completes (.blockBoundary pipe .poison xlat) s (ended 6) ∧ Completes (.blockBoundary pipe .badTarget xlat) s (ended 4) ∧
    Completes (.blockBoundary pipe .ioError xlat) s (ended 4) ∧
    Completes (.blockBoundary pipe .xlateFault xlat) s (fun t => (t.slice k).jobs = [j.finish 5 j.blocks]) ∧
    (j.retries < fld (s.cfg 0x0700) 0 3 → Completes (.blockBoundary pipe .timeout xlat) s fun t =>
      (t.slice k).jobs = [{ j with retries := j.retries + 1, retried := true }]) ∧
    (fld (s.cfg 0x0700) 0 3 ≤ j.retries → Completes (.blockBoundary pipe .timeout xlat) s (ended 4)) ∧
    (∀ e inN out s1, s.ceBlock k x j xlat = ((some e, inN, out), s1) → s1.slice k = x → s1.sliceBroken k = false →
      Completes (.blockBoundary pipe .done xlat) s fun t => (t.slice k).jobs = [j.finish e j.blocks]) ∧
    (∀ inN out s1 s2, s.ceBlock k x j xlat = ((none, inN, out), s1) → s1.overlaps k x j = false → j.stop = none →
      let dst := segsOf (s1.cellBytes j.cells) true
      let j1 : Job := { j with inBytes := j.inBytes + inN, outBytes := j.outBytes + out.length, blocks := j.blocks + 1, retries := 0 }
      j.outBytes + out.length ≤ segTotal dst →
      s1.ceWrite k x.hue xlat (runsOf dst j.outBytes out.length) out = (none, s2) → s2.slice k = x → s2.sliceBroken k = false →
      Completes (.blockBoundary pipe .done xlat) s fun t => (t.slice k).jobs =
        [if segTotal (segsOf (s2.cellBytes j.cells) false) ≤ j1.inBytes then j1.finish 0 0 else j1])) ∧
  (∀ (k : Fin 4096) (j : Job) (st detail : Nat) (xlat : List (Nat × Nat)) (s s1 : State), s.clocked = true →
    let x := s.slice k.val
    x.jobs = [j] → j.status = some (st, detail) → x.st = .bound → x.unbinding = none →
    s.ceWrite k.val x.hue xlat (runsOf [(x.ring.toNat + 32 * (x.count % 2 ^ x.logE), 32)] 0 32)
      (recordBytes (leAt ((s.cellBytes j.cells).headD []) 4 4) x.count x.logE j st detail) = (none, s1) → s1.slice k.val = x →
    st ≠ 3 → Completes (.completionRecord k j.seq false xlat) s fun t =>
      (t.slice k.val).tail = x.tail + 1 ∧ (t.slice k.val).jobs = [] ∧ (t.slice k.val).count = x.count + 1 ∧
        (t.slice k.val).head = x.head ∧ (t.slice k.val).unreleased = x.unreleased ++ [(j.cells.length, j.cells)])

/-- TLP_COMPLETION: the whole data of a hart's read answers it once and the request is gone; UR and CA, and COMPLETION_TIMEOUT
unless Device Control 2 disables it, answer a read with Error UNSUPPORTED where ERR_RESP is 1 and with all ones where it is 0;
a completion that matches no request is dropped, logged, and answers nothing. LINK_UP of a port that is down with its reset
released brings it up. SURPRISE_REMOVAL answers every request, drops posted writes, takes the link out of up (CONTAINED where
containment is enabled) and drives PERST_N low. INTX_MESSAGE at a port that is up sets or clears the pin's level. At a port
that does not exist, LINK_UP and SURPRISE_REMOVAL change nothing. (14 PCIe: R349, R350, R360, R366, R367.) -/
def Obligations.HartRequestsAtPortsEndOnce : Prop :=
  ∀ (port : Fin 32) (h : HartId) (q : PortReq) (off : Nat) (data : Bytes) (s : State), s.clocked = true →
    let r := port.val
    let p := s.rootPort r
    let refused : IoAnswer := if bit (s.cfg (0x0900 + r)) 7 then .error 1 else .data (BitVec.ofNat 64 (2 ^ (8 * q.size) - 1)) false
    (p.link = .up → p.requests = [q] → p.waiting = [] → q.hart = h → q.write = false →
      (q.got = [] → data.length = q.size → 0 < q.size → Completes (.tlpCompletion port h .sc 0 data) s fun t =>
        t.fab.ioAnswers = s.fab.ioAnswers ++ [(h, .data (BitVec.ofNat 64 (leNat data)) false)] ∧
        t.rootPort r = { p with requests := [] } ∧ t.mem = s.mem) ∧
      Completes (.tlpCompletion port h .ur off data) s (fun t =>
        t.fab.ioAnswers = s.fab.ioAnswers ++ [(h, refused)] ∧ (t.rootPort r).requests = [] ∧ (t.rootPort r).link = .up) ∧
      Completes (.tlpCompletion port h .ca off data) s (fun t =>
        t.fab.ioAnswers = s.fab.ioAnswers ++ [(h, refused)] ∧ (t.rootPort r).requests = [] ∧ (t.rootPort r).link = .up)) ∧
    (p.requests = [q] → p.waiting = [] → q.hart = h → q.write = false →
      (p.devCtl2.getLsbD 4 = true → exec (.completionTimeout port h) s = .next s) ∧
      (p.devCtl2.getLsbD 4 = false → Completes (.completionTimeout port h) s fun t =>
        t.fab.ioAnswers = s.fab.ioAnswers ++ [(h, refused)] ∧ (t.rootPort r).requests = [])) ∧
    (∀ st, p.link = .up → p.requests = [] → Completes (.tlpCompletion port h st off data) s fun t =>
      t.fab.ioAnswers = s.fab.ioAnswers ∧ (t.rootPort r).requests = [] ∧
      (s.mgmt.log.queue.length < 1024 → s.logsOne t .partner .pcie .unexpected r)) ∧
    (s.isPort r = true → p.link = .down → (s.slotEn r = false ∨ p.outByte.getLsbD 2 = true) → Completes (.linkUp port) s fun t =>
      (t.rootPort r).link = .up ∧ (t.rootPort r).viral = false ∧ t.mem = s.mem) ∧
    (s.isPort r = true → p.link = .up → Completes (.surpriseRemoval port) s fun t =>
      (t.rootPort r).link = (if p.dpcEnabled then .contained else .down) ∧ (t.rootPort r).requests = [] ∧
      (t.rootPort r).waiting = [] ∧ (t.rootPort r).postedWrites = [] ∧ (t.rootPort r).outByte.getLsbD 2 = false ∧
      (∃ l, t.fab.ioAnswers = s.fab.ioAnswers ++ l ∧ l.map Prod.fst = (p.requests ++ p.waiting).map PortReq.hart) ∧
      ∀ i ∈ t.hub.inbound, i.port = port → i.sent = true ∧ i.squashed = true) ∧
    (s.isPort r = false → exec (.linkUp port) s = .next s ∧ exec (.surpriseRemoval port) s = .next s) ∧
    (∀ (pin : Fin 4) (asserted : Bool), s.isPort r = true → p.link = .up → Completes (.intxMessage port pin asserted) s fun t =>
      (t.rootPort r).intx.getLsbD pin.val = asserted ∧
      (∀ j : Fin 4, j ≠ pin → (t.rootPort r).intx.getLsbD j.val = p.intx.getLsbD j.val) ∧ (t.rootPort r).link = .up)

/-- SLOT_CONTROL_WRITE at a port with a slot: with Power Controller Control set it drives power and PERST_N low, and takes a link
that is up down; cleared at a slot that is off, it drives power and starts the wait for PWR_GOOD. CHAIN_SCAN with a wrong
marker registers no input; the second in a row faults the chain, which is logged once. A scan with a good marker on a good
chain registers PWR_GOOD and POWER_FAULT of each slot at once. PERST_RELEASE in its step releases PERST_N no earlier than 100
ms after PWR_GOOD, and a fenced port is down again. PWR_GOOD_TIMEOUT ends an insertion with a power fault. In other steps the
two change nothing. (14 PCIe: R356, R357, R358, R359, R360.) -/
def Obligations.SlotsFollowTheirRegisterAndTheChain : Prop :=
  (∀ (port : Fin 32) (v : BitVec 16) (s : State), s.clocked = true →
    let r := port.val
    let p := s.rootPort r
    (s.isPort r = true → s.slotEn r = true →
      (v.getLsbD 10 = true → Completes (.slotControlWrite port v) s fun t => (t.rootPort r).slotCtl = v &&& 0x1FFF ∧
        (t.rootPort r).outByte.getLsbD 0 = false ∧ (t.rootPort r).outByte.getLsbD 2 = false ∧ (t.rootPort r).insStep = 0 ∧
        (t.rootPort r).link ≠ .up) ∧
      (v.getLsbD 10 = false → p.outByte.getLsbD 0 = false → Completes (.slotControlWrite port v) s fun t =>
        (t.rootPort r).slotCtl = v &&& 0x1FFF ∧ (t.rootPort r).outByte.getLsbD 0 = true ∧ (t.rootPort r).insStep = 5 ∧
        (t.rootPort r).pwrGoodAt = s.now ∧ (t.rootPort r).link = p.link)) ∧
    ((s.isPort r = false ∨ s.slotEn r = false) → exec (.slotControlWrite port v) s = .next s) ∧
    (p.insStep = 6 → Completes (.perstRelease port) s fun t => (t.rootPort r).outByte.getLsbD 2 = true ∧
      (t.rootPort r).insStep = 7 ∧ (t.rootPort r).link = (if p.link = .fenced then .down else p.link) ∧
      (p.pwrGoodAt + 10000000).toNat ≤ t.now.toNat) ∧
    (p.insStep ≠ 6 → exec (.perstRelease port) s = .next s) ∧
    (p.insStep = 5 → Completes (.pwrGoodTimeout port) s fun t => (t.rootPort r).insStep = 0 ∧
      (t.rootPort r).slotSts.getLsbD 1 = true ∧ (t.rootPort r).outByte.getLsbD 0 = false ∧
      (t.rootPort r).outByte.getLsbD 2 = false) ∧
    (p.insStep ≠ 5 → exec (.pwrGoodTimeout port) s = .next s)) ∧
  (∀ (b : Bytes) (s : State), s.clocked = true → s.mode ≠ .recovery → s.mgmt.mode.start.running = false →
    (b.getD 32 0 ≠ 0x5A → Completes (.chainScan b) s fun t => t.hub.rootPorts = s.hub.rootPorts ∧
      t.hub.chain.badMarkers = s.hub.chain.badMarkers + 1 ∧
      (1 ≤ s.hub.chain.badMarkers → t.hub.chain.faulted = true) ∧
      (s.hub.chain.faulted = true → t.mgmt.log = s.mgmt.log)) ∧
    (b.getD 32 0 = 0x5A → s.hub.chain.faulted = false → Completes (.chainScan b) s fun t =>
      t.hub.chain = { badMarkers := 0, goodMarkers := 0, faulted := false } ∧
      ∀ r : Fin 32, s.isPort r.val = true → s.slotEn r.val = true →
        (t.rootPort r.val).inputs.pwrGood = (b.getD (s.chainPos r.val) 0).getLsbD 4 ∧
        (t.rootPort r.val).inputs.pwrFault = (b.getD (s.chainPos r.val) 0).getLsbD 2))

/-- One message has been sent for a device's cache request, and it alone is open. -/
def cacheAsked (s t : State) (port : Fin 32) (line : Nat) (op : Op) (data : Bytes) : Prop :=
  ∃ m, t.fab.net = s.fab.net ++ [m] ∧ m.op = op ∧ m.line = line ∧ m.dst = s.homeAgent line ∧ m.req = 12 ∧
    m.hue = s.cacheHue port.val ∧ m.data = data ∧
    ∃ c, t.hub.cacheReqs = [c] ∧ c.port = port ∧ c.line = line ∧ c.sent = some (op, m.txid)

/-- With nothing held back at the home slice, CXL_MEM_RESPONSE of a no-snoop read that waits behind a port that is up answers with
the data, poison passing on as poison; CXL_MEM_READ_TIMEOUT answers poison and the third within a second fences the port.
CXL_VIRAL fences the port of a CXL device. At a port of a CXL.cache device, with nothing else going on: RDSHARED, RDOWN and
RDCURR of a line new to the filter send RdS, RdO and RdOnce to its home; ITOMWR sends WrFull with its data; CLFLUSH of an
unheld line sends CmoFlush; DIRTYEVICT by the only holder sends WbData and CLEANEVICT by it sends nothing, the line leaving
the filter. SNOOP_RESPONSE that is not the last narrows the snoop; the last one of an Inv answers the home; one that answers
nothing is logged. CXL_WRITEBACK_TIMEOUT of a holder during a set recovery fences the port. (14 PCIe: R355, R363, R364, R365,
R366, R367.) -/
def Obligations.CxlMemoryAndCachesAreServed : Prop :=
  (∀ (r : MemReq) (m : Msg) (p : Nat) (data : Bytes) (poison : Bool) (s : State), s.clocked = true → r.write = false →
    r.client = .noSnoop m.txid → m.op = .rdNS → m.line = r.line → s.mem.noSnoop = [m] → nothingHeld s m.line →
    s.cxlWaits r = some p →
    (∀ b, (s.rootPort p).link = .up → Completes (.cxlMemResponse r data b) s fun t => t.mem.reqs = s.mem.reqs.erase r ∧
      readAnswered s t m fun d q => q = b ∧ (b = false → d = padTo 64 data)) ∧
    ((s.rootPort p).link ≠ .up → exec (.cxlMemResponse r data poison) s = .next s) ∧
    Completes (.cxlMemReadTimeout r) s fun t => t.mem.reqs = s.mem.reqs.erase r ∧
      ((s.rootPort p).memTimeouts = [] → (t.rootPort p).link = (s.rootPort p).link ∧ (t.rootPort p).memTimeouts = [s.now]) ∧
      (∀ a b, (s.rootPort p).memTimeouts = [a, b] → s.now.toNat < a.toNat + 100000000 → s.now.toNat < b.toNat + 100000000 →
        (t.rootPort p).link = .fenced)) ∧
  (∀ (port : Fin 32) (line : Nat) (data : Bytes) (s : State), s.clocked = true →
    let p := s.rootPort port.val
    (p.link = .up → p.cxl = true → Completes (.cxlViral port) s fun t => (t.rootPort port.val).link = .fenced ∧
      (t.rootPort port.val).viral = true ∧ (t.rootPort port.val).requests = []) ∧
    (p.link ≠ .up → exec (.cxlViral port) s = .next s ∧ exec (.rdshared port line) s = .next s ∧
      exec (.rdown port line) s = .next s ∧ exec (.rdcurr port line) s = .next s ∧ exec (.dirtyevict port line data) s = .next s ∧
      exec (.cleanevict port line) s = .next s ∧ exec (.itomwr port line data) s = .next s ∧
      exec (.clflush port line) s = .next s) ∧
    (s.isPort port.val = true → p.link = .up → s.portMode port.val = 2 → p.cxl = true → s.hub.cacheReqs = [] →
      s.hub.snoops = [] →
      (s.filterAt line = none → s.hub.filter.length < filterSize →
        Completes (.rdshared port line) s (fun t => cacheAsked s t port line .rdS []) ∧
        Completes (.rdown port line) s (fun t => cacheAsked s t port line .rdO []) ∧
        Completes (.rdcurr port line) s (fun t => cacheAsked s t port line .rdOnce []) ∧
        Completes (.clflush port line) s (fun t => cacheAsked s t port line .cmoFlush [])) ∧
      Completes (.itomwr port line data) s (fun t => cacheAsked s t port line .wrFull (padTo 64 data)) ∧
      (∀ owned, s.filterAt line = some { holders := portBit port.val, owned := owned } →
        Completes (.dirtyevict port line data) s (fun t => cacheAsked s t port line .wbData (padTo 64 data) ∧ t.filterAt line = none) ∧
        Completes (.cleanevict port line) s (fun t => t.fab.net = s.fab.net ∧ t.hub.cacheReqs = [] ∧ t.filterAt line = none))) ∧
    (∀ w q rest, s.hub.snoops = [w] → w.line = line → w.ports = port :: q :: rest → port ∉ q :: rest →
      Completes (.snoopResponse port line none) s fun t => t.hub.snoops = [{ w with ports := q :: rest }] ∧ t.fab.net = s.fab.net) ∧
    (∀ w m, s.hub.snoops = [w] → w.line = line → w.ports = [port] → w.msg = some m → w.dirty = none → m.op = .inv → m.line = line →
      s.hub.cacheReqs = [] → (∀ k < 32, ∀ x ∈ (s.home k).recov, x.cxlWait = false) →
      Completes (.snoopResponse port line none) s fun t => t.hub.snoops = [] ∧ t.filterAt line = none ∧
        ∃ a, t.fab.net = s.fab.net ++ [a] ∧ a.op = .invAck ∧ a.dst = m.src ∧ a.line = line ∧ a.src = 12) ∧
    (s.hub.snoops = [] → s.mgmt.log.queue.length < 1024 → Completes (.snoopResponse port line none) s fun t =>
      t.hub.filter = s.hub.filter ∧ t.fab.net = s.fab.net ∧ s.logsOne t .partner .cxl .unexpected port.val) ∧
    (∀ (k : Fin 32) x f, x ∈ (s.home k.val).recov → x.cxlWait = true → s.filterAt line = some f →
      f.holders.getLsbD port.val = true → Completes (.cxlWritebackTimeout port) s fun t => (t.rootPort port.val).link = .fenced))

/-- MBX_CMD_TAIL with a TAIL that does not move backwards and leaves TAIL − HEAD at most 16 sets TAIL. One that makes TAIL − HEAD
exceed 16 ends in the fault doorbellFull, and one that moves TAIL backwards in the fault doorbellBack. REGISTER_WRITE of 8
bytes to a command slot whose index lies in [HEAD, TAIL) modulo 16 ends in the fault slotBusy. COMMAND_ACCEPT with a command
waiting and room for its answer copies the cell of slot HEAD mod 16 to the end of the accepted queue and advances HEAD; with
no room it changes nothing. Formalises R372. -/
def Obligations.DoorbellsAcceptOrStop : Prop :=
  ∀ (m : Fin 16) (v : Word) (s : State),
    let x := s.mbx m.val
    let tail : BitVec 16 := v.extractLsb' 0 16
    (s.clocked = true →
      ((tail - x.cmdTail).toNat < 0x8000 → (tail - x.cmdHead).toNat ≤ 16 → Completes (.mbxCmdTail m v) s fun t =>
        t.mbx m.val = { x with cmdTail := tail } ∧ (∀ j, j ≠ m.val → t.mbx j = s.mbx j) ∧ t.fab = s.fab ∧ t.mem = s.mem) ∧
      (0x8000 ≤ (tail - x.cmdTail).toNat → exec (.mbxCmdTail m v) s = .fault .doorbellBack) ∧
      ((tail - x.cmdTail).toNat < 0x8000 → 16 < (tail - x.cmdHead).toNat → exec (.mbxCmdTail m v) s = .fault .doorbellFull)) ∧
    (∀ (h : HartId) (i : Fin 16) (o : Fin 8), s.executes h = true → s.hueDead (s.hart (hartIx h)).stamp.hue = false →
      s.scopeMode ≠ .partitioned → (i.val + 16 - x.cmdHead.toNat % 16) % 16 < (x.cmdTail - x.cmdHead).toNat →
      exec (.registerWrite (.mmio h (0x100000 + m.val * 0x1000 + 0x400 + i.val * 0x40 + o.val * 8) 8 v)) s = .fault .slotBusy) ∧
    (∀ b, s.timed = true → x.cmdHead ≠ x.cmdTail → Table.find x.cmdSlots (x.cmdHead.toNat % 16) = some b →
      (s.canAccept (.mailbox m) = true → catalogue.contains (parseCell b).1 = true → Completes (.commandAccept m) s fun t =>
        (t.mbx m.val).cmdHead = x.cmdHead + 1 ∧ (x.accepted = [] →
          (t.mbx m.val).accepted = [{ opcode := (parseCell b).1, cell := (parseCell b).2, seq := s.mgmt.mordant.acceptSeq, bmcTag := 0 }])) ∧
      (s.canAccept (.mailbox m) = false → exec (.commandAccept m) s = .next s))

/-- MBX_RSP_HEAD within [HEAD, TAIL] sets HEAD; outside it is ignored and sets BADHEAD. EVENT_DELIVERY with a free slot writes the
oldest queued event into response slot TAIL mod 16 and advances TAIL. BMC_MESSAGE of another length or prefix is logged as a
partner fault and changes no mailbox; a fifth outstanding command is answered BUSY at once; while Mordant does not serve, the
message waits. SET_ENDPOINT_ID sets the identifier unless it is the null or broadcast one; GET_ENDPOINT_ID,
GET_MCTP_VERSION_SUPPORT and GET_MESSAGE_TYPE_SUPPORT answer once. SETDASA with the package's static address, and ENTDAA, give
a dynamic address where there is none; any other SETDASA changes nothing. (15 Mordant: R371, R374, R375, R376, R377, R378.) -/
def Obligations.CellsAndMessagesMove : Prop :=
  (∀ (m : Fin 16) (v : Word) (s : State), s.clocked = true →
    let x := s.mbx m.val
    let head : BitVec 16 := v.extractLsb' 0 16
    ((head - x.rspHead).toNat ≤ (x.rspTail - x.rspHead).toNat → Completes (.mbxRspHead m v) s fun t =>
      t.mbx m.val = { x with rspHead := head } ∧ ∀ j, j ≠ m.val → t.mbx j = s.mbx j) ∧
    ((x.rspTail - x.rspHead).toNat < (head - x.rspHead).toNat → Completes (.mbxRspHead m v) s fun t =>
      t.mbx m.val = { x with badHead := true } ∧ ∀ j, j ≠ m.val → t.mbx j = s.mbx j) ∧
    (∀ e rest, x.events = e :: rest →
      (x.inUse < 16 → Completes (.eventDelivery (.mailbox m)) s fun t => (t.mbx m.val).events = rest ∧
        Table.find (t.mbx m.val).rspSlots (x.rspTail.toNat % 16) = some e ∧ (t.mbx m.val).rspTail = x.rspTail + 1 ∧
        (t.mbx m.val).accepted = x.accepted) ∧
      (16 ≤ x.inUse → exec (.eventDelivery (.mailbox m)) s = .next s)) ∧
    (∀ e rest, (s.mbx 16).events = e :: rest → Completes (.eventDelivery .bmc) s fun t =>
      (t.mbx 16).events = rest ∧ (t.mbx 16).sent = (s.mbx 16).sent ++ [e])) ∧
  (∀ (tag : BitVec 3) (b : Bytes) (s : State), s.timed = true →
    (s.accepting = false → Completes (.bmcMessage tag b) s fun t =>
      t.mgmt.mordant.bmcHeld = s.mgmt.mordant.bmcHeld ++ [(tag, b)] ∧ t.mgmt.mail = s.mgmt.mail) ∧
    (s.accepting = true → (b.length ≠ 69 ∨ b.take 5 ≠ [0x7F, 0x00, 0x00, 0xB7, 0xE3]) → s.mgmt.log.queue.length < 1024 →
      Completes (.bmcMessage tag b) s fun t => t.mgmt.mail = s.mgmt.mail ∧ s.logsOne t .partner .mbx .malformed 16) ∧
    (s.accepting = true → b.length = 69 → b.take 5 = [0x7F, 0x00, 0x00, 0xB7, 0xE3] →
      (4 ≤ (s.mbx 16).accepted.length → Completes (.bmcMessage tag b) s fun t => (t.mbx 16).accepted = (s.mbx 16).accepted ∧
        ∃ r, (t.mbx 16).sent = (s.mbx 16).sent ++ [r] ∧ r.status = stBusy ∧ r.tag = (parseCell (b.drop 5)).2.tag ∧ r.msgTag = some tag) ∧
      ((s.mbx 16).accepted = [] → catalogue.contains (parseCell (b.drop 5)).1 = true → Completes (.bmcMessage tag b) s fun t =>
        let a : Accepted :=
          { opcode := (parseCell (b.drop 5)).1, cell := (parseCell (b.drop 5)).2, seq := s.mgmt.mordant.acceptSeq, bmcTag := tag }
        (t.mbx 16).sent = (s.mbx 16).sent ∧ (t.mbx 16).accepted = [a]))) ∧
  (∀ (eid typ : Byte) (st addr : BitVec 7) (s : State), s.timed = true →
    let k := s.mgmt.mordant
    (eid ≠ 0 → eid ≠ 0xFF → Completes (.setEndpointId eid) s fun t => t.mgmt.mordant.eid = eid ∧
      ∃ r, t.mgmt.mordant.bmcReply = k.bmcReply ++ [r]) ∧
    (Completes (.setEndpointId 0) s fun t => t.mgmt.mordant.eid = k.eid) ∧
    (Completes .getEndpointId s fun t => t.mgmt.mordant = { k with bmcReply := k.bmcReply ++ [[0x00, 0x02, 0x00, k.eid, 0x00, 0x00]] }) ∧
    (Completes (.getMctpVersionSupport typ) s fun t => ∃ r, t.mgmt.mordant = { k with bmcReply := k.bmcReply ++ [r] }) ∧
    (Completes .getMessageTypeSupport s fun t => t.mgmt.mordant = { k with bmcReply := k.bmcReply ++ [[0x00, 0x05, 0x00, 0x01, 0x7F]] }) ∧
    (k.dynAddr = none → st.toNat = 0x30 + s.mgmt.mode.straps.pkgId.val → Completes (.setdasa st addr) s fun t =>
      t.mgmt.mordant = { k with dynAddr := some addr }) ∧
    (st.toNat ≠ 0x30 + s.mgmt.mode.straps.pkgId.val → exec (.setdasa st addr) s = .next s) ∧
    (k.dynAddr = none → Completes (.entdaa addr) s fun t => t.mgmt.mordant = { k with dynAddr := some addr }) ∧
    (k.dynAddr ≠ none → exec (.entdaa addr) s = .next s ∧ exec (.setdasa st addr) s = .next s))

/-- LOCKSTEP_MISMATCH restarts Mordant, discards the staging set and staged classes, is logged as a recovered event, and the third
within 60 s limits Mordant; harts, memory and the fabric do not change. MORDANT_RESTART_COMPLETE, with no message of the BMC
waiting, ends the restart: no accepted command is left, each mailbox has RESTARTED set, a commit with no durable record is
gone, and a bisection is forgotten; harts and memory do not change. Without a restart it changes nothing. (15 Mordant: R370;
16 Configuration: R400, R402.) -/
def Obligations.LockstepRestartsAnswerEverything : Prop :=
  ∀ (s : State), s.timed = true →
    (Completes .lockstepMismatch s fun t => t.mgmt.mordant.restarting = true ∧ t.mgmt.config.staged = [] ∧
      (∀ h, (t.hueSt h).staged = none ∧ (t.hueSt h).st = (s.hueSt h).st) ∧ t.fab = s.fab ∧ t.mem = s.mem ∧
      t.mgmt.config.force = s.mgmt.config.force ∧
      (∀ a b, s.mgmt.mordant.restarts = [a, b] → s.now.toNat < a.toNat + 6000000000 → s.now.toNat < b.toNat + 6000000000 →
        t.mgmt.mordant.limited = true) ∧
      (s.mgmt.mordant.restarts = [] → t.mgmt.mordant.limited = s.mgmt.mordant.limited) ∧
      (s.mgmt.log.queue.length < 1024 → s.logsOne t .recovered .err .lockstep 0)) ∧
    (s.mgmt.mordant.restarting = false → exec .mordantRestartComplete s = .next s) ∧
    (s.mgmt.mordant.restarting = true → s.mgmt.mordant.bmcHeld = [] → Completes .mordantRestartComplete s fun t =>
      t.mgmt.mordant.restarting = false ∧ t.fab.harts = s.fab.harts ∧ t.mem = s.mem ∧ t.mgmt.census.bisect = none ∧
      (∀ j < 17, (t.mbx j).accepted = []) ∧ (∀ j < 16, (t.mbx j).restarted = true) ∧
      (∀ k, s.mgmt.config.commit = some k → k.flip = none → t.mgmt.config.commit = none ∧ t.mgmt.config.lot = s.mgmt.config.lot))

/-- METER_ACCUMULATOR_SEND clears the hart's accumulators and adds its retirements to INSTRUCTIONS of its hue. L3_OCC_SAMPLE of a
bank of a die in service moves to the next set, and charges only L3_OCC. ENERGY_ESTIMATE changes no counter but ENERGY of a
hue. MINUTE_BOUNDARY outside a restart while the meters run (not in Recovery, nor in a start under PWRFAIL_N or before the
scan of a cold one) brings the time to the boundary, starts the next interval of every open one that began before it, and
writes the close word without PWRWARN. PWRFAIL_N notes the warning once, and PWRFAIL_N_DEASSERT clears the pin and leaves the
hub as it was unless a LOSS record waited. PWRWARN_CLOSE of an owed warning outside a start and Recovery closes the intervals
at a multiple of 100 µs, with PWRWARN in the word; when none is owed it changes nothing. (11 Metering: R287, R288, R289, R292,
R293, R299, R305, R306.) -/
def Obligations.MetersCountAndRecordsClose : Prop :=
  (∀ (h : HartId) (s : State), s.clocked = true →
    let x := s.hart (hartIx h)
    Completes (.meterAccumulatorSend h) s fun t => (t.hart (hartIx h)).accInstret = 0 ∧ (t.hart (hartIx h)).accCycles = 0 ∧
      (t.hart (hartIx h)).x = x.x ∧ (t.hart (hartIx h)).pc = x.pc ∧ t.mem = s.mem ∧ (∀ i, i ≠ hartIx h → t.hart i = s.hart i) ∧
      (s.partOfDie h.die.val = none → s.hueLife x.hue = .active → x.hue ≠ 0 →
        Table.get 0 (t.meter x.hue.toNat).counters 1 = Table.get 0 (s.meter x.hue.toNat).counters 1 + x.accInstret)) ∧
  (∀ (d : Fin 12) (bank : Fin 16) (s : State), s.clocked = true → s.inService d.val = true →
    0 < s.occ (d.val * 16 + bank.val) → s.occ (d.val * 16 + bank.val) ≤ 2048 → Completes (.l3OccSample d bank) s fun t =>
      t.occ (d.val * 16 + bank.val) = s.occ (d.val * 16 + bank.val) % 2048 + 1 ∧ t.fab = s.fab ∧ t.mem = s.mem ∧
      ∀ k n, n ≠ 11 → Table.get 0 (t.meter k).counters n = Table.get 0 (s.meter k).counters n) ∧
  (∀ (s : State), s.timed = true → Completes .energyEstimate s fun t => t.fab = s.fab ∧ t.mem = s.mem ∧ t.mgmt = s.mgmt ∧
    ∀ k n, n ≠ 12 → Table.get 0 (t.meter k).counters n = Table.get 0 (s.meter k).counters n) ∧
  (∀ (s : State), s.timed = true →
    ((s.mgmt.mordant.restarting = true ∨ s.metering = false) → exec .minuteBoundary s = .next s) ∧
    (s.mode = .recovery → s.metering = false) ∧
    (s.mgmt.mode.pwrfail = true → s.mgmt.mode.start.running = true → s.metering = false) ∧
    (s.mgmt.mode.start.running = false → s.mode ≠ .recovery → s.metering = true) ∧
    (s.mgmt.mordant.restarting = false → s.metering = true → Completes .minuteBoundary s fun t =>
      s.nextMinute % 2 ^ 64 ≤ t.now.toNat ∧ t.fab = s.fab ∧ t.mem = s.mem ∧
      t.hub.ledger.word = some (s.mgmt.mordant.boot, BitVec.ofNat 64 s.nextMinute, false) ∧
      (∀ k ∈ s.dueMeters, (t.meter k).start = BitVec.ofNat 64 s.nextMinute ∧
        (t.meter k).counters = (s.meter k).counters ∧ (t.meter k).atStart = (s.meter k).counters) ∧
      t.hub.ledger.nextSeq = s.hub.ledger.nextSeq +
        BitVec.ofNat 64 (s.dueMeters).length) ∧
    (s.mgmt.mode.pwrfail = false → Completes .pwrfailN s fun t => t.mgmt.mode.pwrfail = true ∧ t.hub.ledger.warnOwed = true ∧
      t.fab = s.fab ∧ t.mem = s.mem) ∧
    (s.mgmt.mode.pwrfail = true → exec .pwrfailN s = .next s) ∧
    (Completes .pwrfailNDeassert s fun t => t.mgmt.mode.pwrfail = false ∧ t.fab = s.fab ∧ t.mem = s.mem ∧
      (s.lossOwed = false → t.hub = s.hub)) ∧
    (s.mgmt.mode.start.running = false → s.lossOwed = false) ∧
    (s.hub.ledger.warnOwed = false → exec .pwrwarnClose s = .next s) ∧
    (s.hub.ledger.warnOwed = true → s.mgmt.mode.start.running = false → s.mode ≠ .recovery → Completes .pwrwarnClose s fun t =>
      t.hub.ledger.warnOwed = false ∧ t.fab = s.fab ∧ t.mem = s.mem ∧
      ∃ e, t.hub.ledger.word = some (s.mgmt.mordant.boot, e, true) ∧ e = BitVec.ofNat 64 ((s.now.toNat / 10000 + 1) * 10000) ∧
        ∀ k ∈ s.openMeters [.active, .draining], (t.meter k).start = e))

/-- LEDGER_COMPACTION with a quarter of the slots free, or while Mordant restarts, changes nothing; otherwise it changes no meter,
no hart and no memory. MTR_STATUS of a ledger that shows nothing answers zero sequence numbers with the cursor, the free
slots, the discards and BOOT. MTR_READ whose buffer can be written answers how many records it wrote and the last SEQ, and
raises the cursor to it. MTR_READ of an empty range answers NONE. MTR_ACK up to the cursor frees every valid record that the
issuer sees with SEQ at most UPTO and no other; beyond the cursor it answers RANGE and frees nothing. (11 Metering: R294,
R301, R302, R303; 15 Mordant: R381, R524.) -/
def Obligations.LedgersFoldAndAreRead : Prop :=
  (∀ (s : State), s.timed = true →
    ((157286 ≤ s.hub.ledger.free ∨ s.mgmt.mordant.restarting = true) → exec .ledgerCompaction s = .next s) ∧
    Completes .ledgerCompaction s fun t => t.hub.meters = s.hub.meters ∧ t.fab = s.fab ∧ t.mem = s.mem ∧
      t.hub.ledger.nextSeq = s.hub.ledger.nextSeq) ∧
  (∀ (iss : Issuer) (c : CmdCell) (s : State),
    let cursor := Table.get 0 s.hub.ledger.cursors (s.cursorIx iss)
    (s.serves iss c 0x0500 (c.plen.toNat = 0) [] true → s.visible iss = [] → Completes (.mtrStatus iss c) s fun t =>
      t.hub = s.hub ∧ t.answered iss c 0x0500 stOk (leBytes 8 0 ++ leBytes 8 0 ++ leBytes 8 cursor.toNat ++
        leBytes 4 s.hub.ledger.free ++ leBytes 4 s.hub.ledger.discards.toNat ++ leBytes 2 s.mgmt.mordant.boot.toNat)) ∧
    (s.serves iss c 0x0501 (c.plen.toNat = 24) [] true → CmdCell.at_ c 0 8 % 64 = 0 →
      s.bufferBad iss (CmdCell.at_ c 0 8) (CmdCell.at_ c 8 4) 160 = false →
      let l := (s.visible iss).filter fun e => CmdCell.at_ c 16 8 ≤ e.2.seq.toNat
      (l = [] → Completes (.mtrRead iss c) s fun t => t.answered iss c 0x0501 stNone [] ∧ t.hub = s.hub ∧ t.mem = s.mem) ∧
      (∀ r, l.map Prod.snd = [r] → (∀ e ∈ lineParts (CmdCell.at_ c 0 8) 160, s.lineError (s.issPart iss) e.1 = false) →
        Completes (.mtrRead iss c) s fun t => t.answered iss c 0x0501 stOk (leBytes 4 1 ++ leBytes 4 0 ++ leBytes 8 r.seq.toNat) ∧
          t.hub.ledger.slots = s.hub.ledger.slots ∧
          (cursor.toNat < r.seq.toNat → Table.get 0 t.hub.ledger.cursors (s.cursorIx iss) = r.seq) ∧
          (r.seq.toNat ≤ cursor.toNat → Table.get 0 t.hub.ledger.cursors (s.cursorIx iss) = cursor))) ∧
    (s.serves iss c 0x0502 (c.plen.toNat = 8) [] true →
      let l := (s.visible iss).filter fun e => e.2.seq.toNat ≤ CmdCell.at_ c 0 8
      (CmdCell.at_ c 0 8 ≤ cursor.toNat → Completes (.mtrAck iss c) s fun t => t.answered iss c 0x0502 stOk (leBytes 4 l.length) ∧
        t.hub.ledger.slots = s.hub.ledger.slots.filter (fun e => !(l.any fun d => d.1 = e.1)) ∧
        t.hub.ledger.cursors = s.hub.ledger.cursors ∧ t.mem = s.mem) ∧
      (cursor.toNat < CmdCell.at_ c 0 8 → Completes (.mtrAck iss c) s fun t => t.answered iss c 0x0502 stRange [] ∧
        t.hub = s.hub ∧ t.mem = s.mem)))

/-- For a command that Mordant runs at once: HELLO with MAJOR 2 opens a session of the lower minor version with the features both
sides have, keeps the queued events, and answers versions, slot, mode, partition and BOOT; any other MAJOR answers VERSION and
leaves the session. BYE closes the session and drops its events. ECHO gives the payload back. EVT_SUBSCRIBE sets the mask,
unless a bit above 15 is set: then RANGE. FW_INFO gives both image versions, the active slot, the security versions, the
fuses' minimum and the ROM version. PDR_READ gives the bytes of the window once the PDR is locked, whose first four are 43 51
50 44, and NONE before; a length of 0 or above 48 is RANGE. None changes the fabric, memory or the hub. (15 Mordant: R376,
R379, R380, R383, R385, R386, R387.) -/
def Obligations.SessionCommandsAnswer : Prop :=
  ∀ (iss : Issuer) (c : CmdCell) (s : State),
    let x := s.mbx (issIx iss)
    let m := s.mgmt.mordant
    let still (t : State) : Prop := t.fab = s.fab ∧ t.mem = s.mem ∧ t.hub = s.hub
    let major := CmdCell.at_ c 0 1
    let minor := min (CmdCell.at_ c 1 1) 1
    let feats : Word := BitVec.ofNat 64 (CmdCell.at_ c 8 8) &&& (if minor = 0 then 0x3F else 0xFF)
    let fw := if m.activeB then m.slotB.version else m.slotA.version
    (s.serves iss c 0x0000 (c.plen.toNat = 16) [] true → major = 2 → Completes (.hello iss c) s fun t => still t ∧
      (t.mbx (issIx iss)).session = some { minor := minor, features := feats } ∧ (t.mbx (issIx iss)).events = x.events ∧
      t.answered iss c 0x0000 stOk ([2, BitVec.ofNat 8 minor, 0, 0] ++ leBytes 4 fw.toNat ++ leBytes 8 feats.toNat ++
        [BitVec.ofNat 8 (bitOf m.activeB), BitVec.ofNat 8 (modeCode s.mode),
         BitVec.ofNat 8 ((s.issPart iss).getD 0xFF), 0] ++ leBytes 4 m.boot.toNat)) ∧
    (s.serves iss c 0x0000 (c.plen.toNat = 16) [] true → major ≠ 2 → Completes (.hello iss c) s fun t => still t ∧
      (t.mbx (issIx iss)).session = x.session ∧ t.answered iss c 0x0000 stVersion []) ∧
    (s.serves iss c 0x0001 (c.plen.toNat = 0) [] true → Completes (.bye iss c) s fun t => still t ∧
      (t.mbx (issIx iss)).session = none ∧ (t.mbx (issIx iss)).events = [] ∧ t.answered iss c 0x0001 stOk []) ∧
    (s.serves iss c 0x0002 (c.plen.toNat ≤ 48) [] true → Completes (.echo iss c) s fun t => still t ∧
      t.answered iss c 0x0002 stOk (c.payload.take c.plen.toNat)) ∧
    (s.serves iss c 0x0003 (c.plen.toNat = 8) [] true →
      (∀ n, x.session = some n → CmdCell.at_ c 0 8 < 2 ^ 16 → Completes (.evtSubscribe iss c) s fun t => still t ∧
        (t.mbx (issIx iss)).session = some { n with mask := BitVec.ofNat 64 (CmdCell.at_ c 0 8) } ∧
        t.answered iss c 0x0003 stOk []) ∧
      (2 ^ 16 ≤ CmdCell.at_ c 0 8 → Completes (.evtSubscribe iss c) s fun t => still t ∧
        (t.mbx (issIx iss)).session = x.session ∧ t.answered iss c 0x0003 stRange [])) ∧
    (s.serves iss c 0x0004 (c.plen.toNat = 0) [] true → Completes (.fwInfo iss c) s fun t => still t ∧
      t.answered iss c 0x0004 stOk (leBytes 4 m.slotA.version.toNat ++ leBytes 4 m.slotB.version.toNat ++
        [BitVec.ofNat 8 (bitOf m.activeB), m.slotA.secVersion, m.slotB.secVersion, Config.fuseMinimum] ++
        leBytes 4 Config.romVersion.toNat)) ∧
    (s.serves iss c 0x0005 (c.plen.toNat = 5) [] true →
      let off := CmdCell.at_ c 0 4
      let len := CmdCell.at_ c 4 1
      ((len = 0 ∨ 48 < len) → Completes (.pdrRead iss c) s fun t => still t ∧ t.answered iss c 0x0005 stRange []) ∧
      (0 < len → len ≤ 48 → off + len ≤ 0x100000 →
        (s.mgmt.pdr.lock = false → Completes (.pdrRead iss c) s fun t => still t ∧ t.answered iss c 0x0005 stNone []) ∧
        (s.mgmt.pdr.lock = true → Completes (.pdrRead iss c) s fun t => still t ∧
          t.answered iss c 0x0005 stOk (s.pdrRead (s.issPart iss) off len) ∧
          (off = 0 → len = 4 → t.answered iss c 0x0005 stOk [0x43, 0x51, 0x50, 0x44]))))

/-- For a command that Mordant runs at once: CFG_READ gives the three values and the flags, and NONE for an unlisted REGID. A
CFG_WRITE that no rule refuses puts bits of class L into force and into the journal, stages bits of class E, and records bits
of class S for the next Bring-up; a refused one changes nothing. CFG_COMMIT of staged fields sends CFG_PREPARE to every die
that takes part and awaits their answers, with the next lot; with nothing staged it answers NONE. CFG_DISCARD drops the
issuer's staged fields and counts them. CFG_STATUS and CENSUS_STATUS report. CFG_DUMP counts the entries that it wrote. A
compaction that is owed and reads back moves the store to the other half. CENSUS_RUN starts a round, and answers BUSY during
one. CENSUS_BISECT asks a die for its report, or compares the hub at once. (16 Configuration: R398, R399, R400, R401, R408,
R411; 15 Mordant: R383.) -/
def Obligations.ConfigurationCommandsStageAndDump : Prop :=
  (∀ (iss : Issuer) (c : CmdCell) (s : State),
    let k := s.mgmt.config
    let still (t : State) : Prop := t.fab = s.fab ∧ t.mem = s.mem ∧ t.hub = s.hub
    let r := CmdCell.at_ c 0 2
    let v : Word := BitVec.ofNat 64 (CmdCell.at_ c 8 8)
    let m : Word := BitVec.ofNat 64 (CmdCell.at_ c 16 8)
    let flag (t : Table (Word × Word)) : Nat := bitOf (Table.find t r).isSome
    (s.serves iss c 0x0100 (c.plen.toNat = 2) [] (!cfgListed r || s.cfgInScope iss r) →
      Completes (.cfgRead iss c) s fun t => still t ∧ t.mgmt.config = k ∧
        (cfgListed r = true → t.answered iss c 0x0100 stOk (leBytes 8 (s.cfgRead r).toNat ++ leBytes 8 (s.cfgStaged r).toNat ++
          leBytes 8 (s.cfgPending r).toNat ++ leBytes 1 (flag k.staged + 2 * flag k.pending))) ∧
        (cfgListed r = false → t.answered iss c 0x0100 stNone [])) ∧
    (s.serves iss c 0x0101 (c.plen.toNat = 24) [] (!cfgListed r || s.cfgInScope iss r) → s.mgmt.mode.resetAsked = none →
      (∀ e, s.cfgWriteBad r v m = [e] → Completes (.cfgWrite iss c) s fun t => still t ∧ t.mgmt.config = k ∧
        t.mgmt.store = s.mgmt.store ∧ t.answered iss c 0x0101 e.1 []) ∧
      (s.cfgWriteBad r v m = [] → r ≠ 0x1202 → r ≠ 0x1240 → m ≠ 0 →
        Completes (.cfgWrite iss c) s fun t => t.mem = s.mem ∧ t.hub = s.hub ∧ t.fab = s.fab ∧ t.mgmt.config.lot = k.lot ∧
          t.answered iss c 0x0101 stOk [] ∧ (∀ q, q ≠ r → t.cfg q = s.cfg q) ∧
          (m &&& classMask r .l = m → t.cfg r = blend (s.cfg r) v m ∧ t.mgmt.config.staged = k.staged ∧
            ∃ j, t.mgmt.store.journal = s.mgmt.store.journal ++ [j] ∧ j.typ = .live ∧ j.entries.map Prod.fst = [r]) ∧
          (m &&& classMask r .e = m → t.cfg r = s.cfg r ∧ t.cfgStaged r = blend (s.cfgStaged r) v m ∧
            t.mgmt.store = s.mgmt.store) ∧
          (m &&& classMask r .s = m → t.cfg r = s.cfg r ∧ t.cfgPending r = blend (s.cfgPending r) v m ∧
            ∃ j, t.mgmt.store.journal = s.mgmt.store.journal ++ [j] ∧ j.typ = .pending ∧ j.entries.map Prod.fst = [r]))) ∧
    (s.serves iss c 0x0102 (c.plen.toNat = 0) [] true → s.masterOnly = [] → s.mgmt.service.action = none →
      (s.stagedFor iss = [] → s.stagedClasses = [] → Completes (.cfgCommit iss c) s fun t => still t ∧ t.mgmt.config = k ∧
        t.answered iss c 0x0102 stNone []) ∧
      (s.stagedFor iss ≠ [] → s.commitBad iss = none → s.partakers ≠ [] → Completes (.cfgCommit iss c) s fun t =>
        t.mem = s.mem ∧ t.fab.harts = s.fab.harts ∧ t.mgmt.config.lot = k.lot ∧ t.mgmt.config.force = k.force ∧
        (t.mbx (issIx iss)).accepted.length = 1 ∧
        (∃ w, t.mgmt.config.commit = some w ∧ w.issuer = iss ∧ w.lot = nextLot k.lot ∧ w.waiting = s.partakers ∧ w.flip = none ∧
          w.entries = (s.stagedFor iss).map fun q => (q, s.cfgStaged q)) ∧
        ∀ d ∈ s.partakers, (s.port d.val).sbLost = false → ∃ p, t.sendsFrame d.val true 0x10 p)) ∧
    (s.serves iss c 0x0103 (c.plen.toNat = 0) [] true → Completes (.cfgDiscard iss c) s fun t => still t ∧
      t.mgmt.config.force = k.force ∧ t.mgmt.config.staged = k.staged.filter (fun e => !s.cfgInScope iss e.1) ∧
      t.answered iss c 0x0103 stOk (leBytes 4
        ((k.staged.filter fun e => s.cfgInScope iss e.1).map fun e => fieldCount e.1 e.2.2).sum)) ∧
    (s.serves iss c 0x0104 (c.plen.toNat = 0) [] true → Completes (.cfgStatus iss c) s fun t => still t ∧ t.mgmt.config = k ∧
      t.answered iss c 0x0104 stOk (leBytes 4 k.lot.toNat ++
        leBytes 4 ((k.staged.map fun e => fieldCount e.1 e.2.2).sum + s.stagedClasses.length) ++
        leBytes 4 (k.pending.map fun e => fieldCount e.1 e.2.2).sum ++ leBytes 1 (bitOf k.defaultsUsed))) ∧
    (s.serves iss c 0x0105 (c.plen.toNat = 12) [] true → s.bufferBad iss (CmdCell.at_ c 0 8) (CmdCell.at_ c 8 4) 32 = false →
      let n := min (listedRegs.filter fun q => s.cfgInScope iss q).length (CmdCell.at_ c 8 4 / 32)
      (∀ e ∈ lineParts (CmdCell.at_ c 0 8) (32 * n), s.lineError (s.issPart iss) e.1 = false) →
      Completes (.cfgDump iss c) s fun t => t.mgmt.config = k ∧ t.answered iss c 0x0105 stOk (leBytes 4 n)) ∧
    (s.serves iss c 0x0200 (c.plen.toNat = 0) [] (s.packageWide iss) →
      (s.mgmt.census.running = false → k.commit = none → Completes (.censusRun iss c) s fun t => t.mem = s.mem ∧
        t.fab.harts = s.fab.harts ∧ t.mgmt.census.running = true ∧ t.mgmt.census.byCommand = some iss ∧
        t.mgmt.census.round = s.mgmt.census.round + 1 ∧ t.answered iss c 0x0200 stOk []) ∧
      (s.mgmt.census.running = true → Completes (.censusRun iss c) s fun t => still t ∧ t.mgmt.census = s.mgmt.census ∧
        t.answered iss c 0x0200 stBusy [])) ∧
    (s.serves iss c 0x0201 (c.plen.toNat = 0) [] (s.packageWide iss) → Completes (.censusStatus iss c) s fun t => still t ∧
      t.mgmt.census = s.mgmt.census ∧ t.answered iss c 0x0201 stOk s.censusStatus) ∧
    (s.serves iss c 0x0202 (c.plen.toNat = 2) [] (s.packageWide iss) → s.scopeMode ≠ .cascade → s.pkgIx = 0 →
      CmdCell.at_ c 0 1 = 0 →
      let d := CmdCell.at_ c 1 1
      (12 < d → Completes (.censusBisect iss c) s fun t => still t ∧ t.answered iss c 0x0202 stRange []) ∧
      (d < 12 → s.inCensus d = false → Completes (.censusBisect iss c) s fun t => still t ∧
        t.answered iss c 0x0202 stState []) ∧
      (d < 12 → s.inCensus d = true → (s.port d).sbLost = false → Completes (.censusBisect iss c) s fun t => t.mem = s.mem ∧
        t.mgmt.census.bisect = some (d, 0, 0) ∧ (t.mbx (issIx iss)).accepted.length = 1 ∧
        t.sendsFrame d true 0x15 (leBytes 4 s.mgmt.census.round.toNat)) ∧
      (d = 12 → s.shade 12 = s.expectedShade 12 → Completes (.censusBisect iss c) s fun t => still t ∧
        t.mgmt.census.bisect = none ∧ t.answered iss c 0x0202 stNone []))) ∧
  ∀ (n : Nat) (s : State), s.timed = true →
    let st := s.mgmt.store
    (st.compactOwed = false → exec (.configStoreCompaction n) s = .next s) ∧
    (st.compactOwed = true → s.mgmt.log.queue.length < 1024 → Completes (.configStoreCompaction 0) s fun t =>
      t.mgmt.store = { st with compactOwed := false } ∧ s.logsOne t .uncorrected .ledg .uncorrectable 0) ∧
    (∀ e lot l b, st.compactOwed = true → 0 < n → st.load = some (e, lot, l, b) →
      Completes (.configStoreCompaction n) s fun t => t.mgmt.config = s.mgmt.config ∧ t.mgmt.store.journal = [] ∧
        t.mgmt.store.useB = !b ∧ t.mgmt.store.compactOwed = false ∧
        let h := if b then t.mgmt.store.halfA else t.mgmt.store.halfB
        h.valid = true ∧ h.entries = e ∧ h.lot = s.mgmt.config.lot ∧
          h.gen = (if b then st.halfB else st.halfA).gen + 1)

/-- For a command that Mordant runs at once: MEM_TEST_ARM and MEM_TEST_DISARM arm and disarm the window. MEM_REPAIR_LIST writes
the records that fit and counts them. MEM_PC_STATUS gives the failed pseudo-channels and the rows with counts. WELD_STATUS
gives the status word of a bundle. WELD_RETRAIN sends an ACTIVE bundle back to step 3, else STATE. WELD_CAP_CLEAR notes that a
cap goes at the next cold training, else NONE. SLOT_STATUS gives a port's bytes. SLOT_UNFENCE takes a fenced port to DOWN with
PERST_N released, else STATE. ERR_READ of one record answers its count and SEQ and raises the cursor; ERR_ACK up to the cursor
frees what the issuer sees. LOG_RECORD_COMMIT turns the oldest event into a record with the next SEQ, or counts it at the
record it repeats; the sixteenth uncorrectable event of a slice within a second fences the slice. (09 HBM: R239, R244, R246,
R258; 08 Weld: R219, R224, R228; 14 PCIe: R357, R366; 22 Errors: R500, R501, R507.) -/
def Obligations.MemoryLinkSlotAndErrorCommandsAct : Prop :=
  (∀ (iss : Issuer) (c : CmdCell) (s : State),
    let still (t : State) : Prop := t.fab = s.fab ∧ t.hub = s.hub
    let buf := CmdCell.at_ c 0 8
    let len := CmdCell.at_ c 8 4
    (s.serves iss c 0x0700 (c.plen.toNat = 0) [] (s.packageWide iss) → Completes (.memTestArm iss c) s fun t => still t ∧
      t.mem = { s.mem with window := { s.mem.window with armed := true } } ∧ t.answered iss c 0x0700 stOk []) ∧
    (s.serves iss c 0x0701 (c.plen.toNat = 0) [] (s.packageWide iss) → Completes (.memTestDisarm iss c) s fun t => still t ∧
      t.mem = { s.mem with window := { s.mem.window with armed := false } } ∧ t.answered iss c 0x0701 stOk []) ∧
    (s.serves iss c 0x0702 (c.plen.toNat = 12) [] (s.packageWide iss) →
      (s.bufferBad iss buf len 8 = true → Completes (.memRepairList iss c) s fun t => still t ∧ t.mem = s.mem ∧
        t.answered iss c 0x0702 stRange []) ∧
      (s.bufferBad iss buf len 8 = false →
        let n := min s.mem.repairs.length (len / 8)
        (∀ e ∈ lineParts buf (8 * n), s.lineError (s.issPart iss) e.1 = false) →
        Completes (.memRepairList iss c) s fun t => t.mem.repairs = s.mem.repairs ∧
          t.answered iss c 0x0702 stOk (leBytes 4 n))) ∧
    (s.serves iss c 0x0703 (c.plen.toNat = 0) [] (s.packageWide iss) → Completes (.memPcStatus iss c) s fun t => still t ∧
      t.mem = s.mem ∧ t.answered iss c 0x0703 stOk (leBytes 8 s.mem.pcFailed.toNat ++ leBytes 4 s.mem.rows.length)) ∧
    (let d := CmdCell.at_ c 0 1
     let k := CmdCell.at_ c 1 1
     d < 12 → k < 4 →
      (s.serves iss c 0x0800 (c.plen.toNat = 2) [] (s.packageWide iss) → Completes (.weldStatus iss c) s fun t => still t ∧
        t.mem = s.mem ∧ t.answered iss c 0x0800 stOk (leBytes 8 (s.bstat d k))) ∧
      (s.serves iss c 0x0801 (c.plen.toNat = 2) [] (s.packageWide iss) →
        ((s.bundle d k).st = .active → Completes (.weldRetrain iss c) s fun t =>
          ((s.bundle d k).hub.buffer = [] → (s.bundle d k).die.buffer = [] → t.mem = s.mem ∧ t.hub = s.hub ∧ t.fab.harts = s.fab.harts) ∧
          (t.bundle d k).st = .training ∧ (t.bundle d k).step = 3 ∧ (t.bundle d k).field = true ∧
          t.answered iss c 0x0801 stOk []) ∧
        ((s.bundle d k).st ≠ .active → Completes (.weldRetrain iss c) s fun t => still t ∧
          t.answered iss c 0x0801 stState [])) ∧
      (s.serves iss c 0x0802 (c.plen.toNat = 2) [] (s.packageWide iss) →
        ((s.bundle d k).cap ≠ .none → Completes (.weldCapClear iss c) s fun t => t.mem = s.mem ∧ t.hub = s.hub ∧
          t.bundle d k = { s.bundle d k with capCleared := true } ∧ t.answered iss c 0x0802 stOk []) ∧
        ((s.bundle d k).cap = .none → Completes (.weldCapClear iss c) s fun t => still t ∧
          t.answered iss c 0x0802 stNone []))) ∧
    (let r := CmdCell.at_ c 0 1
     let p := s.rootPort r
     r < 32 →
      (s.serves iss c 0x0900 (c.plen.toNat = 1) [] (s.portScope iss r) → Completes (.slotStatus iss c) s fun t => still t ∧
        t.mem = s.mem ∧ t.answered iss c 0x0900 stOk
          [p.outByte, p.inByte, BitVec.ofNat 8 (bitOf s.hub.chain.faulted + 2 * bitOf (p.link = .fenced))]) ∧
      (s.serves iss c 0x0901 (c.plen.toNat = 1) [] (s.portScope iss r) →
        (p.link = .fenced → Completes (.slotUnfence iss c) s fun t => t.fab = s.fab ∧ t.mem = s.mem ∧
          t.rootPort r = { p with link := .down, outByte := (p.outByte &&& 0xFB) ||| 4 } ∧ t.answered iss c 0x0901 stOk []) ∧
        (p.link ≠ .fenced → Completes (.slotUnfence iss c) s fun t => still t ∧ t.answered iss c 0x0901 stState []))) ∧
    (let cursor := Table.get 0 s.mgmt.log.cursors (s.errCursor iss)
     (s.serves iss c 0x0B00 (c.plen.toNat = 24) [] true → s.bufferBad iss buf len 64 = false →
      let l := (s.visibleErr iss).filter fun e => CmdCell.at_ c 16 8 ≤ e.2.seq.toNat
      (l = [] → Completes (.errRead iss c) s fun t => still t ∧ t.mem = s.mem ∧ t.answered iss c 0x0B00 stNone []) ∧
      (∀ r, l.map Prod.snd = [r] → (∀ e ∈ lineParts buf 64, s.lineError (s.issPart iss) e.1 = false) →
        Completes (.errRead iss c) s fun t =>
          t.answered iss c 0x0B00 stOk (leBytes 4 1 ++ leBytes 4 0 ++ leBytes 8 r.seq.toNat) ∧
          t.mgmt.log.slots = s.mgmt.log.slots ∧
          (cursor.toNat < r.seq.toNat → Table.get 0 t.mgmt.log.cursors (s.errCursor iss) = r.seq) ∧
          (r.seq.toNat ≤ cursor.toNat → t.mgmt.log.cursors = s.mgmt.log.cursors))) ∧
     (s.serves iss c 0x0B01 (c.plen.toNat = 8) [] true →
      let l := (s.visibleErr iss).filter fun e => e.2.seq.toNat ≤ CmdCell.at_ c 0 8
      (CmdCell.at_ c 0 8 ≤ cursor.toNat → Completes (.errAck iss c) s fun t => still t ∧ t.mem = s.mem ∧
        t.answered iss c 0x0B01 stOk (leBytes 4 l.length) ∧
        t.mgmt.log.slots = s.mgmt.log.slots.filter (fun e => !(l.any fun d => d.1 = e.1))) ∧
      (cursor.toNat < CmdCell.at_ c 0 8 → Completes (.errAck iss c) s fun t => still t ∧ t.mem = s.mem ∧
        t.mgmt.log = s.mgmt.log ∧ t.answered iss c 0x0B01 stRange [])))) ∧
  ∀ (s : State), s.timed = true →
    let g := s.mgmt.log
    (g.queue = [] → exec .logRecordCommit s = .next s) ∧
    ∀ e rest, g.queue = e :: rest →
      (∀ i, hubBlock e = none → g.same e = none → g.dropped = 0 → e.cls = .uncorrected → e.trap = false →
        g.slotFor = (i, false) → Completes .logRecordCommit s fun t => t.fab = s.fab ∧ t.mem = s.mem ∧ t.hub = s.hub ∧
          t.mgmt.log.queue = rest ∧ Table.find t.mgmt.log.slots i = some { e with seq := g.nextSeq } ∧
          t.mgmt.log.nextSeq = g.nextSeq + 1 ∧ ∀ j, j ≠ i → Table.find t.mgmt.log.slots j = Table.find g.slots j) ∧
      (∀ i r, hubBlock e = none → g.same e = some (i, r) → r.count ≠ 0xFFFF → r.last.toNat < e.last.toNat →
        Completes .logRecordCommit s fun t => t.fab = s.fab ∧ t.mem = s.mem ∧ t.hub = s.hub ∧ t.mgmt.log.queue = rest ∧
          Table.find t.mgmt.log.slots i = some { r with count := r.count + 1, last := e.last } ∧
          t.mgmt.log.nextSeq = g.nextSeq) ∧
      (∀ b, hubBlock e = some b → b < 32 → g.hubFenced.contains b = false →
        15 ≤ ((Table.get [] g.hubCounts b).filter fun u => e.time.toNat < u.toNat + 100000000).length →
        Completes .logRecordCommit s fun t => (t.home b).fenced = true ∧ b ∈ t.mgmt.log.hubFenced ∧ t.fab.harts = s.fab.harts ∧
          t.mem = s.mem)

/-- The state in which Mordant runs a command that it has just accepted (R372). -/
def afterAccept (s : State) (iss : Issuer) (op : Nat) (c : CmdCell) : State :=
  let t := s.accept iss op c 0
  match iss with
  | .mailbox m => t.setMbx m.val { t.mbx m.val with cmdTail := (t.mbx m.val).cmdTail + 1, cmdHead := (t.mbx m.val).cmdHead + 1 }
  | .bmc => t

/-- A live action has begun between two states (R418, R428). -/
def begins (s t : State) (a : LiveAction) (iss : Issuer) : Prop :=
  t.mgmt.service.action = some a ∧ t.mgmt.service.step = 2 ∧ t.mgmt.service.issuer = some iss ∧ t.mgmt.mode.mode = .service ∧
    t.mgmt.mode.ret = s.mode ∧ t.mgmt.power.pkg = .ps0

/-- For a command that Mordant runs at once: PM_QUERY gives limit, watts, mean frequency and package state. PM_SET_LIMIT of a
limit from 450 to 640 W whose floor reaches PIN_FREQ writes LIMIT alone; outside it answers RANGE. PM_CORE_STATE notes the
state and sends it to a die in service; CS0 wakes the package. PM_PKG_STATE notes a request, is BUSY during an action, and 0
returns the package to PS0. SVC_STATUS reports the action. SVC_CORE_SPARE, SVC_DIE_EVACUATE, SVC_DIE_READMIT, SVC_FW_ACTIVATE
outside Recovery and Bring-up and CASC_HANDOFF enter Service at step 2 of their action, and answer BUSY during one; sparing of
a die with no spare is FULL. Sparing stops the core's harts, evacuation holds the die's. SVC_FW_STAGE of an image that was
read whole writes the inactive slot, and answers AUTH if it does not verify. SVC_FW_ACTIVATE in Recovery swaps slots and
resets cold. CASC_STATUS reports membership. (19 Power: R448, R452, R453; 18 Service: R428, R430, R431, R433, R435, R436,
R437; 17 Modes: R418; 20 Cascade: R464, R475; 15 Mordant: R383.) -/
def Obligations.PowerAndServiceCommandsBegin : Prop :=
  ∀ (iss : Issuer) (c : CmdCell) (s : State),
    let w := s.mgmt.power
    let v := s.mgmt.service
    let still (t : State) : Prop := t.fab = s.fab ∧ t.mem = s.mem ∧ t.hub = s.hub
    let kept (t : State) : Prop := t.fab.harts = s.fab.harts ∧ t.mem = s.mem ∧ t.hub = s.hub
    let whole := s.packageWide iss
    let pin := fld (s.cfg 0x1100) 24 8 * 25
    let b0 := CmdCell.at_ c 0 1
    let b1 := CmdCell.at_ c 1 1
    let b2 := CmdCell.at_ c 2 1
    (s.serves iss c 0x0300 (c.plen.toNat = 0) [] whole → Completes (.pmQuery iss c) s fun t => still t ∧ t.mgmt.power = w ∧
      t.answered iss c 0x0300 stOk (leBytes 2 s.effLimit ++ leBytes 2 w.watts ++ leBytes 2 w.avgMhz ++
        leBytes 1 (match w.pkg with
          | .ps0 => 0
          | .ps1 => 1
          | .ps2 => 2))) ∧
    (s.serves iss c 0x0301 (c.plen.toNat = 2) [] whole →
      let l := CmdCell.at_ c 0 2
      (450 ≤ l → l ≤ 640 → pin ≤ floorMhz l → Completes (.pmSetLimit iss c) s fun t => still t ∧ fld (t.cfg 0x1100) 0 10 = l ∧
        fld (t.cfg 0x1100) 10 54 = fld (s.cfg 0x1100) 10 54 ∧ t.answered iss c 0x0301 stOk []) ∧
      ((l < 450 ∨ 640 < l) → Completes (.pmSetLimit iss c) s fun t => still t ∧ t.mgmt.config = s.mgmt.config ∧
        t.answered iss c 0x0301 stRange [])) ∧
    (s.serves iss c 0x0302 (c.plen.toNat = 3) [] whole →
      (b0 < 12 → b1 < 22 → b2 < 4 → Completes (.pmCoreState iss c) s fun t => kept t ∧ t.answered iss c 0x0302 stOk [] ∧
        Table.get 0 t.mgmt.power.csReq (b0 * 32 + b1) = b2 ∧ (b2 = 0 → t.mgmt.power.pkg = .ps0) ∧
        (s.inService b0 = true → (s.port b0).sbLost = false → ∃ p, t.sendsFrame b0 true 0x19 p) ∧
        (s.inService b0 = false → (t.core (b0 * 32 + b1)).idleReq = idleOf b2)) ∧
      ((12 ≤ b0 ∨ 22 ≤ b1 ∨ 4 ≤ b2) → Completes (.pmCoreState iss c) s fun t => still t ∧ t.mgmt.power = w ∧
        t.answered iss c 0x0302 stRange [])) ∧
    (s.serves iss c 0x0303 (c.plen.toNat = 1) [] whole →
      ((b0 = 1 ∨ b0 = 2) → v.action = none → s.scopeMode ≠ .cascade → Completes (.pmPkgState iss c) s fun t => still t ∧
        t.mgmt.power = { w with request := some (if b0 = 1 then .ps1 else .ps2, iss) } ∧ t.answered iss c 0x0303 stOk []) ∧
      (b0 = 0 → v.action = none → s.scopeMode ≠ .cascade → Completes (.pmPkgState iss c) s fun t => kept t ∧
        t.mgmt.power.request = none ∧ t.mgmt.power.pkg = .ps0 ∧ t.answered iss c 0x0303 stOk []) ∧
      (b0 ≤ 2 → v.action ≠ none → s.scopeMode ≠ .cascade → Completes (.pmPkgState iss c) s fun t => still t ∧
        t.mgmt.power = w ∧ t.answered iss c 0x0303 stBusy [])) ∧
    (s.serves iss c 0x0600 (c.plen.toNat = 0) [] whole → Completes (.svcStatus iss c) s fun t => still t ∧
      (v.action = none → t.answered iss c 0x0600 stOk (leBytes 5 0)) ∧
      ∀ a, v.action = some a → t.answered iss c 0x0600 stOk
        (leBytes 2 a.opcode ++ [BitVec.ofNat 8 v.step, 0, BitVec.ofNat 8 (modeCode s.mgmt.mode.ret)])) ∧
    (s.serves iss c 0x0601 (c.plen.toNat = 2) [] whole → ∀ (d : Fin 12) (l : Fin 22), b0 = d.val → b1 = l.val →
      (v.action ≠ none → s.inService d.val = true → Completes (.svcCoreSpare iss c) s fun t => still t ∧
        t.mgmt.service = v ∧ t.answered iss c 0x0601 stBusy []) ∧
      (v.action = none → s.inService d.val = true →
        (∀ p rest, s.spares d.val = p :: rest → Completes (.svcCoreSpare iss c) s fun t => kept t ∧
          begins s t (.spare d l) iss ∧ t.mgmt.service.target = p ∧ (t.core (d.val * 32 + l.val)).idle = .cs0 ∧
          t.answered iss c 0x0601 stOk [] ∧
          ((s.port d.val).sbLost = false → t.sendsFrame d.val true 0x1B ([4, 0] ++ leBytes 6 (3 * 2 ^ (2 * l.val))))) ∧
        (s.spares d.val = [] → s.mgmt.log.queue.length < 1024 → Completes (.svcCoreSpare iss c) s fun t => still t ∧
          t.mgmt.service = v ∧ t.answered iss c 0x0601 stFull [] ∧
          s.logsOne t .notice .core .exhausted (d.val * 32 + l.val)))) ∧
    (s.serves iss c 0x0602 (c.plen.toNat = 1) [] whole → ∀ (d : Fin 12), b0 = d.val → v.action = none →
      (s.mayEvacuate d.val = true → Completes (.svcDieEvacuate iss c) s fun t => kept t ∧ begins s t (.evacuate d) iss ∧
        t.answered iss c 0x0602 stOk [] ∧
        ((s.port d.val).sbLost = false → t.sendsFrame d.val true 0x1B ([1, 0] ++ leBytes 6 (2 ^ 44 - 1)))) ∧
      (s.mayEvacuate d.val = false → Completes (.svcDieEvacuate iss c) s fun t => still t ∧ t.mgmt.service = v ∧
        t.answered iss c 0x0602 stState [])) ∧
    (s.serves iss c 0x0603 (c.plen.toNat = 1) [] whole → ∀ (d : Fin 12), b0 = d.val → v.action = none →
      ((s.dieStatus d.val = 1 ∨ s.dieStatus d.val = 2) → Completes (.svcDieReadmit iss c) s fun t => kept t ∧
        begins s t (.readmit d) iss ∧ t.answered iss c 0x0603 stOk []) ∧
      ((s.dieStatus d.val = 0 ∨ s.dieStatus d.val = 3) → Completes (.svcDieReadmit iss c) s fun t => still t ∧
        t.mgmt.service = v ∧ t.answered iss c 0x0603 stState [])) ∧
    (s.serves iss c 0x0604 (c.plen.toNat = 12) [] whole → ∀ (ok : Bool) (ver : BitVec 32) (sec : Byte) (b : Bytes),
      let buf := CmdCell.at_ c 0 8
      let len := CmdCell.at_ c 8 4
      len ≤ 2 ^ 22 → s.bufferBad iss buf len 1 = false →
      ((afterAccept s iss 0x0604 c).snap (s.issPart iss) buf len 0).1 = (b, false, false) →
      let good : Bool := ok && Config.fuseMinimum.toNat ≤ sec.toNat
      Completes (.svcFwStage iss c ok ver sec) s fun t => t.mgmt.mordant.activeB = s.mgmt.mordant.activeB ∧
        t.mgmt.mordant.inactive = { version := ver, secVersion := sec, staged := good } ∧
        t.answered iss c 0x0604 (if good then stOk else stAuth) []) ∧
    (s.serves iss c 0x0605 (c.plen.toNat = 0) [] whole → s.mgmt.mode.resetAsked = none → v.action = none → ∀ (st : Straps),
      (s.mgmt.mordant.inactive.staged = false → s.mode ≠ .bringUp → Completes (.svcFwActivate iss c st) s fun t => still t ∧ t.mgmt.service = v ∧
        t.answered iss c 0x0605 stState []) ∧
      (s.mgmt.mordant.inactive.staged = true → s.mode ≠ .recovery → s.mode ≠ .bringUp → Completes (.svcFwActivate iss c st) s fun t => kept t ∧
        begins s t .handover iss ∧ t.answered iss c 0x0605 stOk []) ∧
      (s.mgmt.mordant.inactive.staged = true → s.mode = .recovery → Completes (.svcFwActivate iss c st) s fun t =>
        t.mode = .bringUp ∧ t.mgmt.mode.cause = .cmdCold ∧ t.mgmt.mode.straps = st ∧
        t.mgmt.mordant.activeB = !s.mgmt.mordant.activeB ∧ t.mgmt.mordant.boot = s.mgmt.mordant.boot + 1)) ∧
    (s.serves iss c 0x0A00 (c.plen.toNat = 0) [] whole → Completes (.cascStatus iss c) s fun t => still t ∧
      t.mgmt.casc = s.mgmt.casc ∧ t.answered iss c 0x0A00 stOk [BitVec.ofNat 8 s.mgmt.casc.members.toNat,
        BitVec.ofNat 8 s.mgmt.casc.master.val, BitVec.ofNat 8 (s.linkCode 0 + 4 * s.linkCode 1 + 16 * s.linkCode 2)]) ∧
    (s.serves iss c 0x0A01 (c.plen.toNat = 1) [] whole → ∀ (m : Fin 4), b0 = m.val → v.action = none →
      (s.scopeMode = .cascade → s.mgmt.casc.masterLost = false → s.mgmt.casc.master.val = s.pkgIx → m.val ≠ s.pkgIx →
        s.mgmt.casc.members.getLsbD m.val = true → s.mgmt.casc.lost.getLsbD m.val = false →
        Completes (.cascHandoff iss c) s fun t => kept t ∧ begins s t (.cascHandoff m) iss ∧
          t.mgmt.casc.master = s.mgmt.casc.master ∧ t.answered iss c 0x0A01 stOk []) ∧
      (s.scopeMode = .cascade → s.mgmt.casc.masterLost = false → s.mgmt.casc.master.val ≠ s.pkgIx →
        Completes (.cascHandoff iss c) s fun t => still t ∧ t.mgmt.service = v ∧ t.answered iss c 0x0A01 stMode []))

/-- Sparing waits for the report of STOP, drains, binds the spare, asks for RESUME, and ends with the mode restored and the old
core failed. Evacuation waits for HOLD's report, for the flush of the die's L3, and for its open transactions, then frees it
from every directory entry, and ends with the die out of service. Readmission of an evacuated die resets and trains it. A
hand-off makes the other package the master at step 4. A fence during an action ends it. FW_HANDOVER_WINDOW at step 3, with
nothing accepted and at a permitted time, swaps the slots; FW_HANDOVER_COMPLETE of a good image ends the action, of one that
fails swaps back. CASCADE_IDENTITY is noted on a link that is up. TIME_ALIGN moves the member's phase by 1 ns against the
offset. PROXY_PROBE_TIMEOUT ends the probe and fences the die. MASTER_UNREACHABLE of a member with no way to its master marks
the master lost. CASC_HANDOFF_TIMEOUT at step 4 ends a hand-off and keeps the master. With no action each service event
changes nothing. (18 Service: R428, R431, R432, R434, R435, R437, R438; 20 Cascade: R470, R473, R475, R476; 17 Modes: R418.) -/
def Obligations.LiveActionsRunStepByStep : Prop :=
  (∀ (s : State), s.clocked = true →
    let v := s.mgmt.service
    let ended (t : State) : Prop := t.mgmt.service.action = none ∧ t.mgmt.service.step = 0 ∧ t.mgmt.mode.mode = s.mgmt.mode.ret
    let calm := v.resetOwed = 0 ∧ ∀ c, (Table.get [] s.mgmt.log.coreCounts c).length < 24
    let kept (t : State) : Prop := t.mem = s.mem ∧ t.hub = s.hub
    let mine (t : State) (n : Nat) : Prop := t.mgmt.service = { v with step := n }
    (v.action = none → exec .serviceStepComplete s = .next s ∧ exec .cascHandoffTimeout s = .next s ∧
      exec .fwHandoverWindow s = .next s ∧ ∀ a b n, exec (.fwHandoverComplete a b n) s = .next s) ∧
    (v.action ≠ none → v.fenced = true → calm → Completes .serviceStepComplete s fun t => kept t ∧ t.fab = s.fab ∧ ended t) ∧
    (∀ (d : Fin 12) (l : Fin 22), v.action = some (.spare d l) → v.fenced = false →
      let h := 3 * 2 ^ (2 * l.val)
      let r := Table.get (0, 0) v.reports d.val
      (v.step = 2 → r = (4, h) → Completes .serviceStepComplete s fun t => kept t ∧ t.fab = s.fab ∧ mine t 3) ∧
      (v.step = 2 → r = (0, 0) → exec .serviceStepComplete s = .next s) ∧
      (v.step = 4 → Completes .serviceStepComplete s fun t => kept t ∧ t.fab = s.fab ∧ mine t 5) ∧
      (v.step = 5 → Completes .serviceStepComplete s fun t => kept t ∧ t.mgmt.service.step = 6 ∧
        t.mgmt.service.target = (s.core (d.val * 32 + l.val)).phys ∧ (t.core (d.val * 32 + l.val)).phys = v.target ∧
        (t.core (d.val * 32 + l.val)).predictor = {} ∧
        (∀ h ∈ hartsOf ⟨d, l⟩, (t.hart (hartIx h)).ras = [] ∧ (t.hart (hartIx h)).history = 0) ∧ (t.core (d.val * 32 + l.val)).l2tlb = [] ∧
        (∀ i, (t.hart i).x = (s.hart i).x ∧ (t.hart i).pc = (s.hart i).pc ∧ (t.hart i).csr = (s.hart i).csr) ∧
        ((s.port d.val).sbLost = false → t.sendsFrame d.val true 0x1B ([5, 0] ++ leBytes 6 h))) ∧
      (v.step = 6 → r = (5, h) → Completes .serviceStepComplete s fun t => kept t ∧ t.fab = s.fab ∧ mine t 7) ∧
      (v.step = 7 → calm → Completes .serviceStepComplete s fun t => kept t ∧ t.fab = s.fab ∧ ended t ∧
        d.val * 32 + v.target.val ∈ t.mgmt.pdr.failed ∧ (s.core (d.val * 32 + l.val)).phys ∉ t.spares d.val)) ∧
    (∀ (d : Fin 12), v.action = some (.evacuate d) → v.fenced = false →
      (v.step = 2 → Table.get (0, 0) v.reports d.val = (1, 2 ^ 44 - 1) → Completes .serviceStepComplete s fun t => kept t ∧
        t.fab = s.fab ∧ mine t 3) ∧
      (v.step = 3 → (s.die d.val).l3 = [] → (∀ c ∈ coresOf d, let x := s.core (coreKey c); x.l1i = [] ∧ x.l1d = [] ∧ x.l2 = []) →
        Completes .serviceStepComplete s fun t => t.mgmt.service.step = 4) ∧
      (v.step = 4 → ((s.die d.val).wb ≠ [] ∨ ∃ m ∈ (s.die d.val).miss, m.late = false) →
        exec .serviceStepComplete s = .next s) ∧
      (v.step = 4 → (s.die d.val).wb = [] → (∀ m ∈ (s.die d.val).miss, m.late = true) → (∀ k < 32, s.sweepBusy k d = false) →
        Completes .serviceStepComplete s fun t => kept t ∧ mine t 5 ∧ t.fab.harts = s.fab.harts ∧
          ∀ k < 32, ∀ e ∈ (t.home k).dir, e.2.holders &&& holderMask d.val = 0) ∧
      (v.step = 5 → calm → Completes .serviceStepComplete s fun t => kept t ∧ t.fab.harts = s.fab.harts ∧ ended t ∧
        t.dieStatus d.val = 1 ∧ ∀ k < 4, (t.bundle d.val k).st = .down ∨ (t.bundle d.val k).st = .retired)) ∧
    (∀ (d : Fin 12), v.action = some (.readmit d) → v.fenced = false → v.step = 2 → s.dieStatus d.val = 1 →
      Completes .serviceStepComplete s fun t => t.mem = s.mem ∧ t.mgmt.service.step = 3 ∧
        ∀ h ∈ hartsOfDie d, (t.hart (hartIx h)).run = .held ∧ (t.hart (hartIx h)).x = [] ∧
          (t.hart (hartIx h)).mtimecmp = (s.hart (hartIx h)).mtimecmp) ∧
    (∀ (m : Fin 4), v.action = some (.cascHandoff m) →
      (v.fenced = false → v.step = 3 → Completes .serviceStepComplete s fun t => kept t ∧ t.fab = s.fab ∧ mine t 4) ∧
      (v.fenced = false → v.step = 4 → Completes .serviceStepComplete s fun t => t.mem = s.mem ∧ t.fab = s.fab ∧
        t.mgmt.casc.master = m ∧ t.mgmt.service.step = 5) ∧
      (v.step = 4 → calm → Completes .cascHandoffTimeout s fun t => kept t ∧ t.fab = s.fab ∧ ended t ∧
        t.mgmt.casc.master = s.mgmt.casc.master) ∧
      (v.step ≠ 4 → exec .cascHandoffTimeout s = .next s)) ∧
    (v.action = some .handover →
      (v.step = 3 → minuteRule s.now = true → (∀ i < 17, (s.mbx i).accepted = []) → Completes .fwHandoverWindow s fun t =>
        kept t ∧ t.fab = s.fab ∧ mine t 5 ∧ t.mgmt.mordant = { s.mgmt.mordant with activeB := !s.mgmt.mordant.activeB }) ∧
      (v.step = 5 → calm → s.mgmt.mordant.bmcHeld = [] →
        (∀ n, Completes (.fwHandoverComplete true true n) s fun t => kept t ∧ t.fab = s.fab ∧ ended t ∧
          t.mgmt.mordant.activeB = s.mgmt.mordant.activeB ∧
          ∀ i < 17, ∀ x, (t.mbx i).session = some x → x.minor ≤ n) ∧
        (∀ b n, Completes (.fwHandoverComplete false b n) s fun t => kept t ∧ t.fab = s.fab ∧ ended t ∧
          t.mgmt.mordant.activeB = !s.mgmt.mordant.activeB)))) ∧
  ∀ (c : Fin 3) (i : CascIdentity) (p : Fin 4) (o : Int) (line : Nat) (d : Fin 12) (s : State), s.clocked = true →
    let k := s.mgmt.casc
    (s.linkActive c.val = true → Completes (.cascadeIdentity c i) s fun t => t.fab = s.fab ∧ t.mem = s.mem ∧
      t.cascLink c.val = { s.cascLink c.val with identity := some i } ∧ ∀ j, j ≠ c.val → t.cascLink j = s.cascLink j) ∧
    (s.linkActive c.val = false → exec (.cascadeIdentity c i) s = .next s) ∧
    (s.scopeMode = .cascade → k.masterLost = false → p ≠ k.master → p.val = s.pkgIx → s.pkgPresent p.val = true → o.natAbs ≤ 100 →
      Completes (.timeAlign p o) s fun t => t.fab = s.fab ∧ t.mem = s.mem ∧ t.now = s.now ∧
        (0 < o → t.mgmt.casc.phase = k.phase - 1) ∧ (o < 0 → t.mgmt.casc.phase = k.phase + 1) ∧
        (o = 0 → t.mgmt.casc.phase = k.phase) ∧ Table.find t.mgmt.casc.offsets p.val = some o) ∧
    (p = k.master → exec (.timeAlign p o) s = .next s) ∧
    ((∀ q ∈ (s.cascLink c.val).probes, ¬ (q.line = line ∧ q.die = d)) → exec (.proxyProbeTimeout c line d) s = .next s) ∧
    (∀ q, (s.cascLink c.val).probes = [q] → q.line = line → q.die = d → Completes (.proxyProbeTimeout c line d) s fun t =>
      t.fab.harts = s.fab.harts ∧ t.dieFenced d.val = true ∧
        ((s.cascLink c.val).waiting = [] → (s.cascLink c.val).requests = [] → (t.cascLink c.val).probes = [])) ∧
    (s.scopeMode = .cascade → k.master.val ≠ s.pkgIx → k.masterLost = false → s.pkgPresent k.master.val = true →
      s.linkActive (s.outLink (s.linkTo k.master.val)) = false → Completes .masterUnreachable s fun t =>
        t.mgmt.casc.masterLost = true ∧ t.mgmt.casc.lost.getLsbD k.master.val = true ∧ t.fab.harts = s.fab.harts) ∧
    ((s.scopeMode ≠ .cascade ∨ k.master.val = s.pkgIx) → exec .masterUnreachable s = .next s)

/-- A write that Mordant takes of PKG_RESET.COLD starts a cold reset with the straps given: Bring-up, cause 2, BOOT one more, no
hart state, no stored byte of memory, the configuration store kept, the ledger's records kept when no hue has a record to
close, and the commands that wait kept. One of PKG_RESET.WARM alone starts a warm reset: Bring-up, cause 3, from step 5, with
time, BOOT, fuses and configuration kept and no hart state. A write of PART_RESET in Partitioned mode holds the harts of each
partition it names, or is owed while an action runs. PARTITION_DRAIN_COMPLETE of a quiet partition frees its hues, closes its
mailbox and releases its boot hart; one that is not quiet changes nothing. HART_RESET parks a hart at its reset values, with
mtimecmp kept and the core's isolation bits cleared; while the core flushes the hart is held at those values, and the end of
the flush releases it parked; of a hart in reset it changes nothing. (17 Modes: R413, R419, R422, R425, R426, R427; 05 Caches:
R135; 10 Hues: R283; 18 Service: R440.) -/
def Obligations.ResetCommandsBeginTheirScope : Prop :=
  (∀ (iss : Issuer) (c : CmdCell) (st : Straps) (s : State), s.mgmt.mode.resetAsked = none →
    (∀ r, s.serves iss c 0x0101 (c.plen.toNat = 24) [] (s.cfgInScope iss r) → CmdCell.at_ c 0 2 = r →
      s.cfgWriteBad r (BitVec.ofNat 64 (CmdCell.at_ c 8 8)) (BitVec.ofNat 64 (CmdCell.at_ c 16 8)) = [] →
      (pkgResetOf c = some true → Completes (.pkgResetCold iss c st) s fun t => t.mode = .bringUp ∧
        t.mgmt.mode.cause = .cmdCold ∧ t.mgmt.mode.straps = st ∧ t.mgmt.mordant.boot = s.mgmt.mordant.boot + 1 ∧
        t.fab.harts = [] ∧ t.fab.net = [] ∧ t.mem.data = [] ∧ t.mem.repairs = s.mem.repairs ∧
        t.mgmt.store = s.mgmt.store ∧ t.mgmt.log.slots = s.mgmt.log.slots ∧
        t.pending = s.pending ∧ ((∀ e ∈ s.hub.hues, e.2.st = .free) → t.hub.ledger.slots = s.hub.ledger.slots ∧
          (iss = .bmc → t.answered iss c 0x0101 stOk []))) ∧
      (pkgResetOf c = some false → Completes (.pkgResetWarm iss c) s fun t => t.mode = .bringUp ∧
        t.mgmt.mode.cause = .cmdWarm ∧ t.mgmt.mode.start.warm = true ∧ t.mgmt.mode.start.done = [.s2, .s3, .s4] ∧
        t.mgmt.mordant.boot = s.mgmt.mordant.boot ∧ t.mgmt.config.force = s.mgmt.config.force ∧ t.mgmt.mode.resetAsked = none ∧
        t.fab.harts = [] ∧ t.mem.repairs = s.mem.repairs ∧ s.now.toNat ≤ t.now.toNat ∧ t.mgmt.store = s.mgmt.store ∧
        t.mgmt.mode.straps = s.mgmt.mode.straps ∧ t.pending = s.pending) ∧
      (r = 0x1240 →
        let go := fld (BitVec.ofNat 64 (CmdCell.at_ c 8 8) &&& BitVec.ofNat 64 (CmdCell.at_ c 16 8)) 0 12
        Completes (.partReset iss c) s fun t => t.answered iss c 0x0101 stOk [] ∧ t.mgmt.store = s.mgmt.store ∧
          (s.mgmt.service.action = none → ∀ p ∈ ones 12 go, (s.partition p).resetStep = 0 → (t.partition p).resetStep = 2 ∧
            ∀ d ∈ s.diesOf p, ∀ h ∈ hartsOfDie d, (t.hart (hartIx h)).run = .held ∧ (t.hart (hartIx h)).x = []) ∧
          (s.mgmt.service.action ≠ none → t.fab = s.fab ∧
            t.mgmt.service.resetOwed = s.mgmt.service.resetOwed ||| BitVec.ofNat 12 go)))) ∧
  ∀ (p : Fin 12) (h : HartId) (s : State), s.clocked = true →
    ((s.partition p.val).resetStep = 2 → s.partQuiet p.val = true → s.mgmt.mode.pwrfail = false →
      Completes (.partitionDrainComplete p) s fun t => (t.partition p.val).resetStep = 0 ∧ t.mbx p.val = {} ∧
        (∀ k, s.partOfHue k = some p.val → (t.hueSt k).st = .free) ∧
        ∀ d rest, (s.diesOf p.val).filter (fun e => s.inService e.val) = d :: rest → (s.port d.val).sbLost = false →
          t.sendsFrame d.val true 0x1B ([3, 0] ++ leBytes 6 1)) ∧
    ((s.partition p.val).resetStep = 2 → s.partQuiet p.val = true → s.mgmt.mode.pwrfail = true →
      Completes (.partitionDrainComplete p) s fun t => (t.partition p.val).resetStep = 7) ∧
    ((s.partition p.val).resetStep = 2 → s.partQuiet p.val = false → exec (.partitionDrainComplete p) s = .next s) ∧
    ((s.partition p.val).resetStep = 0 → exec (.partitionDrainComplete p) s = .next s) ∧
    let x := s.hart (hartIx h)
    ((s.core (coreIx h)).flushing = none → x.run ≠ .held → Completes (.hartReset h) s fun t =>
      let y := t.hart (hartIx h)
      y.run = .parked ∧ y.x = [] ∧ y.pc = 0 ∧ y.priv = .m ∧ y.virt = false ∧ y.mtimecmp = x.mtimecmp ∧ y.cqzkeyr = 0 ∧
        y.cqzhue = 0 ∧ (t.core (coreIx h)).l1iNa = false ∧ (t.core (coreIx h)).l1dNa = false ∧
        (t.core (coreIx h)).l2Na = false ∧ t.mem = s.mem ∧ ∀ i, i ≠ hartIx h → t.hart i = s.hart i) ∧
    ((s.core (coreIx h)).flushing ≠ none → x.run ≠ .held → Completes (.hartReset h) s fun t =>
      let y := t.hart (hartIx h)
      y.run = .held ∧ y.x = [] ∧ y.pc = 0 ∧ y.priv = .m ∧ y.virt = false ∧ y.mtimecmp = x.mtimecmp ∧ y.waiting = [] ∧
        t.core (coreIx h) = { s.core (coreIx h) with resetAfter := (s.core (coreIx h)).resetAfter ++ [h.thread] } ∧
        t.mem = s.mem ∧ ∀ i, i ≠ hartIx h → t.hart i = s.hart i) ∧
    (∀ k, (s.core (coreIx h)).flushing = some k → (s.core (coreIx h)).flushLines = [] →
      (s.core (coreIx h)).resetAfter = [h.thread] → Completes (.cacheFlushDone ⟨h.die, h.core⟩) s fun t =>
        let y := t.hart (hartIx h)
        y.run = .parked ∧ y.mtimecmp = x.mtimecmp ∧ (t.core (coreIx h)).flushing = none ∧
          (t.core (coreIx h)).resetAfter = [] ∧ (t.core (coreIx h)).l1iNa = false ∧ (t.core (coreIx h)).l1dNa = false ∧
          (t.core (coreIx h)).l2Na = false) ∧
    (x.run = .held → exec (.hartReset h) s = .next s)

/-- PWRGOOD_RISE of a package without power starts it cold: Bring-up, cause 0, BOOT one more, nothing in harts or memory; with
power it changes nothing. PWRGOOD_LOW takes the power away and nothing else. RAIL_UNDERVOLTAGE latches its rail, or clears the
latches if the standby supply fell, and takes the power away; RAIL_OVERVOLTAGE only latches. RESET_N_LOW stops a start, resets
warm in the modes above Bring-up, and cold in Recovery; RESET_N_RISE restarts a cold start from step 2 and a warm one from
step 5. A step that is not ready changes nothing. Step 2 sets the time to 0, step 3 and 6a only complete, step 4 with
RECOVERY_N low or with no good image enters Recovery, step 5 starts the ports' training, step 8 starts the census, step 10
locks the PDR, step 11 enters the mode. An admission that times out enters Recovery, and one that closes with a candidate that
agrees makes it a member. (17 Modes: R416, R417, R418, R420, R421, R422, R423; 23 Package: R516; 20 Cascade: R466.) -/
def Obligations.PinsStartAndStopThePackage : Prop :=
  (∀ (st : Straps) (r : Fin 18) (s : State),
    let m := s.mgmt.mode
    let w := s.mgmt.power
    (m.pwrgood = false → Completes (.pwrgoodRise st) s fun t => t.mode = .bringUp ∧ t.mgmt.mode.pwrgood = true ∧
      t.mgmt.mode.thermTrip = false ∧ t.mgmt.mode.refclk = true ∧ t.mgmt.mode.cause = .powerOn ∧ t.mgmt.mode.straps = st ∧
      t.mgmt.mordant.boot = s.mgmt.mordant.boot + 1 ∧ t.fab.harts = [] ∧ t.mem.data = [] ∧ t.mgmt.mail = [] ∧
      t.hub.ledger.slots = s.hub.ledger.slots ∧ t.mgmt.store = s.mgmt.store ∧ t.mgmt.log.slots = s.mgmt.log.slots) ∧
    (m.pwrgood = true → exec (.pwrgoodRise st) s = .next s) ∧
    (Completes .pwrgoodLow s fun t => t.mgmt.mode = { m with pwrgood := false } ∧ t.fab = s.fab ∧ t.mem = s.mem ∧ t.hub = s.hub) ∧
    (m.pwrgood = true → Completes (.railUndervoltage r) s fun t => t.mgmt.mode = { m with pwrgood := false } ∧ t.fab = s.fab ∧
      t.mem = s.mem ∧ (r.val = 15 → t.mgmt.power = { w with uvLatch := [], ovLatch := [] }) ∧
      (r.val ≠ 15 → r.val ∈ t.mgmt.power.uvLatch ∧ t.mgmt.power.ovLatch = w.ovLatch)) ∧
    (m.pwrgood = true → Completes (.railOvervoltage r) s fun t => t.mgmt.mode = m ∧ t.fab = s.fab ∧ t.mem = s.mem ∧
      r.val ∈ t.mgmt.power.ovLatch ∧ t.mgmt.power.uvLatch = w.uvLatch) ∧
    (m.pwrgood = false → exec (.railUndervoltage r) s = .next s ∧ exec (.railOvervoltage r) s = .next s) ∧
    (s.clocked = true → m.resetN = true →
      (m.mode = .bringUp → Completes .resetNLow s fun t => t.fab = s.fab ∧ t.mem = s.mem ∧
        t.mgmt.mode = { m with resetN := false, start := { m.start with held := true } }) ∧
      (m.mode = .recovery → Completes .resetNLow s fun t => t.mode = .recovery ∧ t.mgmt.mode.resetN = false ∧
        t.mgmt.mode.cause = .resetPin ∧ t.mgmt.mordant.boot = s.mgmt.mordant.boot + 1 ∧ t.mgmt.mode.start.held = true) ∧
      (m.mode ≠ .bringUp → m.mode ≠ .recovery → Completes .resetNLow s fun t => t.mode = .bringUp ∧
        t.mgmt.mode.resetN = false ∧ t.mgmt.mode.cause = .resetPin ∧ t.mgmt.mode.start.warm = true ∧
        t.mgmt.mode.start.held = true ∧ t.fab.harts = [] ∧ t.mgmt.mordant.boot = s.mgmt.mordant.boot)) ∧
    (s.clocked = true → m.resetN = false →
      (m.mode = .recovery → Completes (.resetNRise st) s fun t => t.mode = .bringUp ∧ t.mgmt.mode.straps = st ∧
        t.mgmt.mode.resetN = true ∧ t.mgmt.mode.start.held = false) ∧
      (m.mode ≠ .recovery → m.start.warm = true → Completes (.resetNRise st) s fun t => t.mode = .bringUp ∧
        t.mgmt.mode.resetN = true ∧ t.mgmt.mode.start.done = [.s2, .s3, .s4] ∧ t.mgmt.mode.start.held = false ∧
        t.mgmt.mode.cause = m.cause) ∧
      (m.mode ≠ .recovery → m.start.warm = false → Completes (.resetNRise st) s fun t => t.mode = .bringUp ∧
        t.mgmt.mode.resetN = true ∧ t.mgmt.mode.start.done = [] ∧ t.mgmt.mode.start.held = false ∧
        t.mgmt.mordant.boot = s.mgmt.mordant.boot ∧ t.mgmt.mode.straps = m.straps)) ∧
    (s.clocked = true → m.resetN = false → exec .resetNLow s = .next s) ∧
    (s.clocked = true → m.resetN = true → exec (.resetNRise st) s = .next s)) ∧
  ∀ (k : StartStep) (i : StartInfo) (s : State), s.clocked = true →
    let m := s.mgmt.mode
    let done (t : State) : Prop := t.mgmt.mode.start.done = m.start.done ++ [k]
    (s.stepReady k = false → exec (.startStepComplete k i) s = .next s) ∧
    (s.stepReady k = true →
      (k = .s2 → Completes (.startStepComplete k i) s fun t => done t ∧ t.now = 0 ∧ t.mgmt.power.uvLatch = [] ∧
        t.mgmt.power.ovLatch = []) ∧
      ((k = .s3 ∨ k = .s6a ∨ k = .s9) → Completes (.startStepComplete k i) s fun t => done t ∧ t.fab = s.fab ∧ t.mem = s.mem ∧
        t.hub = s.hub) ∧
      (k = .s4 → m.straps.recoveryN = false → Completes (.startStepComplete k i) s fun t => t.mode = .recovery ∧
        t.mgmt.mode.cause = .strapRecovery) ∧
      (k = .s4 → m.straps.recoveryN = true → i.imageAOk = false → i.imageBOk = false →
        Completes (.startStepComplete k i) s fun t => t.mode = .recovery ∧ t.mgmt.mode.cause = .imageRecovery) ∧
      (k = .s4 → m.straps.recoveryN = true → i.imageAOk = true → i.imageBOk = false →
        Completes (.startStepComplete k i) s fun t => done t ∧ t.mode = s.mode ∧ t.mgmt.mordant.activeB = false) ∧
      (k = .s5 → Completes (.startStepComplete k i) s fun t => done t ∧ t.mode = .bringUp ∧
        ∀ d < 12, s.dieStatus d ≠ 3 → (t.port d).step = 1) ∧
      (k = .s6b → Completes (.startStepComplete k i) s fun t => done t ∧ (m.start.warm = true → t.mem = s.mem)) ∧
      (k = .s6c → Completes (.startStepComplete k i) s fun t => done t ∧ ∀ e ∈ t.mgmt.log.slots, e.2.bad = false) ∧
      (k = .s6d → Completes (.startStepComplete k i) s fun t => done t ∧ t.mem = s.mem ∧ t.fab.harts = s.fab.harts) ∧
      (k = .s7 → Completes (.startStepComplete k i) s fun t => done t ∧ t.mem = s.mem ∧ t.fab.harts = s.fab.harts ∧
        ∀ d < 12, t.dieStatus d ≠ 3 → (t.dieCfg d).lot = s.mgmt.config.lot) ∧
      (k = .s8 → s.mgmt.census.running = false → s.mgmt.config.commit = none → Completes (.startStepComplete k i) s fun t =>
        done t ∧ t.mgmt.census.running = true ∧ t.mem = s.mem ∧ t.fab.harts = s.fab.harts) ∧
      (k = .s10 → Completes (.startStepComplete k i) s fun t => done t ∧ t.mgmt.pdr.lock = true ∧ t.mgmt.pdr.gen = 0 ∧
        t.mgmt.pdr.lockLot = s.mgmt.config.lot ∧ t.fab = s.fab ∧ t.mem = s.mem) ∧
      (k = .s11 → Completes (.startStepComplete k i) s fun t => done t ∧ t.mode = s.startMode ∧
        t.mgmt.mode.start.running = false ∧ t.mem = s.mem ∧ t.fab.harts = s.fab.harts)) ∧
    (s.mode = .bringUp → StartStep.s10 ∈ m.start.done → s.startMode = .cascade → s.mgmt.casc.members = 0 →
      Completes .cascadeAdmissionTimeout s fun t => t.mode = .recovery ∧ t.mgmt.mode.cause = m.cause ∧
        t.mgmt.mode.start.running = false) ∧
    ((s.mode ≠ .bringUp ∨ s.mgmt.casc.members ≠ 0) → exec .cascadeAdmissionTimeout s = .next s) ∧
    (∀ (lot : BitVec 32) (es : List (Nat × Word)), s.mode = .bringUp → StartStep.s10 ∈ m.start.done → s.startMode = .cascade →
      s.mgmt.casc.members = 0 → s.ownIdentity.masterSel = true →
      ∀ (c : Fin 3) (p : CascIdentity), s.identities = [(3, s.ownIdentity), (c.val, p)] → p.masterSel = false →
        p.pkgId ≠ s.ownIdentity.pkgId → p.weldVersions = 4 → p.stepping = 0xA1 → p.ifMajor = 2 →
        Completes (.admissionClose lot es) s fun t => t.mgmt.casc.master = s.ownIdentity.pkgId ∧ t.mgmt.casc.closed = true ∧
          t.mgmt.casc.members = BitVec.ofNat 4 (2 ^ s.ownIdentity.pkgId.val) ||| BitVec.ofNat 4 (2 ^ p.pkgId.val) ∧
          t.mem = s.mem ∧ t.fab.harts = s.fab.harts)

/-- AVS_STATUS_POLL with VDone takes over the voltage written and clears HELD. AVS_ACK_TIMEOUT repeats a write twice; after the
third failure the rail is HELD at the voltage read. HELD_RETRY writes again what was withheld. CURRENT_READ stores readings,
and ten misses set TELEM_LOST. POWER_CONTROL_STEP notes the watts, and takes a pinned rail above PIN_FREQ down to it. A core
whose harts are idle goes to its requested state, and wakes when one runs. A requested package state is entered when every
hart is idle, PS2 once the flush of the L3s that it begins has written back every line; until then the request stays. Domains
sleep only where they may, and wake. A die's PLL loss stops the die until relock; REFCLK_LOSS stops every clock but Mordant's.
TEMPERATURE_READ of 125 °C or more, and a catastrophic temperature, trip: THERMTRIP_N, and no clock runs. THROTTLE_STEP takes
10 W more off the limit while the hub is hot, and gives it back below. HOT_N follows its pin. UNC_SET and UNC_FREEZE write the
counters that the hart's partition sees. (19 Power: R444, R445, R446, R448, R450, R452, R453, R455, R459, R461, R462.) -/
def Obligations.RailsClocksAndTemperatureAct : Prop :=
  (∀ (i : Fin 14) (s : State), s.timed = true →
    let x := s.rail i.val
    let others (t : State) : Prop := ∀ j, j ≠ i.val → t.rail j = s.rail j
    let still (t : State) : Prop := t.fab.harts = s.fab.harts ∧ t.mem = s.mem ∧ t.hub = s.hub
    (x.write = none → (∀ b, exec (.avsStatusPoll i b) s = .next s) ∧ ∀ v, exec (.avsAckTimeout i v) s = .next s) ∧
    (∀ mv n, x.write = some (mv, n) →
      exec (.avsStatusPoll i false) s = .next s ∧
      (Completes (.avsStatusPoll i true) s fun t => still t ∧ others t ∧ (t.rail i.val).mv = BitVec.ofNat 16 mv ∧
        (t.rail i.val).write = none ∧ (t.rail i.val).held = false ∧
        (x.freqAfter = none → (t.rail i.val).freq = x.freq) ∧
        ∀ f, x.freqAfter = some f → railCore i.val ≠ none → (t.rail i.val).freq = f) ∧
      (∀ v, n < 3 → x.fails ≠ 0xFF → Completes (.avsAckTimeout i v) s fun t => still t ∧ others t ∧ t.fab = s.fab ∧
        t.rail i.val = { x with write := some (mv, n + 1), fails := x.fails + 1 }) ∧
      (∀ v, 3 ≤ n → Completes (.avsAckTimeout i (some v)) s fun t => still t ∧ others t ∧
        (t.rail i.val).mv = BitVec.ofNat 16 v ∧ (t.rail i.val).write = none ∧ (t.rail i.val).held = true ∧
        (t.rail i.val).withheld = mv ∧ (t.rail i.val).freq ≤ x.freq)) ∧
    (x.held = true → x.write = none → Completes (.heldRetry i) s fun t => still t ∧ others t ∧ t.fab = s.fab ∧
      t.rail i.val = { x with write := some (x.withheld, 1) }) ∧
    (x.held = false → exec (.heldRetry i) s = .next s) ∧
    (∀ (l : List (Option Nat)), Completes (.currentRead l) s fun t => t.fab = s.fab ∧ t.mem = s.mem ∧
      (∀ v, l.getD i.val none = some v → t.rail i.val = { x with current := BitVec.ofNat 16 v, misses := 0, telemLost := false }) ∧
      (l.getD i.val none = none → x.misses = 9 → (t.rail i.val).telemLost = true ∧ (t.rail i.val).current = x.current)) ∧
    (∀ w f v, Completes (.powerControlStep w f v) s fun t => still t ∧ t.mgmt.power.watts = w ∧
      ((∀ d, s.awake d = []) → t.mgmt.power.avgMhz = 0) ∧
      ∀ k < 6, (s.rail (coreRail k)).throttle = 0 →
        (bit (s.cfg 0x1100) (32 + k) = false → (s.rail (coreRail k)).gave = true → (t.rail (coreRail k)).gave = false) ∧
        let pin := fld (s.cfg 0x1100) 24 8 * 25
        (bit (s.cfg 0x1100) (32 + k) = true → 450 ≤ s.effLimit → pin ≤ floorMhz s.effLimit →
          pin < (s.rail (coreRail k)).freq → (t.rail (coreRail k)).freq = pin))) ∧
  (∀ (c : CoreId) (d : Domain) (e : Fin 12) (s : State), s.clocked = true →
    let x := s.core (coreKey c)
    let idle : Prop := ∀ h ∈ hartsOf c, (s.hart (hartIx h)).idle = true
    let w := s.mgmt.power
    let same (t : State) : Prop := t.mem = s.mem ∧ t.hub = s.hub ∧ t.fab.harts = s.fab.harts
    (idle → w.pkg = .ps0 → Completes (.coreIdleEntry c) s fun t => same t ∧ t.core (coreKey c) = { x with idle := x.idleReq }) ∧
    (¬ idle → exec (.coreIdleEntry c) s = .next s ∧ Completes (.coreWake c) s fun t => same t ∧
      (t.core (coreKey c)).idle = .cs0 ∧ t.mgmt.power.pkg = .ps0) ∧
    (idle → exec (.coreWake c) s = .next s) ∧
    (w.request = none → exec .pkgStateEntry s = .next s) ∧
    (∀ iss, w.request = some (.ps1, iss) → s.mgmt.service.action = none → (∀ h ∈ s.fab.harts, h.2.idle = true) →
      (∀ e : Fin 12, (s.die e.val).evicting = []) → Completes .pkgStateEntry s fun t => same t ∧ t.mgmt.power.pkg = .ps1 ∧ t.mgmt.power.request = none ∧
        d ∈ t.mgmt.power.asleep ∧ (t.core (coreKey c)).idle = .cs3) ∧
    (∀ iss, w.request = some (.ps2, iss) → s.mgmt.service.action = none → (∀ h ∈ s.fab.harts, h.2.idle = true) →
      ((∀ e : Fin 12, (s.die e.val).l3 = []) → Completes .pkgStateEntry s fun t => same t ∧ t.mgmt.power.pkg = .ps2 ∧
        t.mgmt.power.request = none) ∧
      let u := s.forEach (List.finRange 12) fun s d => s.flushL3 d
      ((∀ e, u.flushedL3 e = true) → Completes .pkgStateEntry s fun t => t.mgmt.power.pkg = .ps2 ∧
        t.mgmt.power.request = none) ∧
      (u.flushedL3 e = false → exec .pkgStateEntry s = .next u ∧ u.mgmt.power.pkg = w.pkg ∧ u.mgmt.power.request = w.request)) ∧
    (Completes (.domainWake d) s fun t => same t ∧ t.fab = s.fab ∧ d ∉ t.mgmt.power.asleep ∧
      ∀ b ∈ w.asleep, b ≠ d → b ∈ t.mgmt.power.asleep) ∧
    (s.maySleep d = true → Completes (.domainSleep d) s fun t => same t ∧ t.fab = s.fab ∧ d ∈ t.mgmt.power.asleep) ∧
    (s.maySleep d = false → exec (.domainSleep d) s = .next s) ∧
    (Completes (.pllLockLoss (.die e)) s fun t => same t ∧ t.fab = s.fab ∧ t.dieStill e.val = true ∧
      (s.mgmt.log.queue.length < 1024 → s.logsOne t .partner .clk .clock 0)) ∧
    (∀ k : Fin 4, (s.bundle e.val k.val).st = .active → Completes (.pllLockLoss (.weld e k)) s fun t =>
      (t.bundle e.val k.val).st = .training ∧ (t.bundle e.val k.val).step = 3 ∧ (e, k) ∈ t.mgmt.power.weldPll) ∧
    (Completes (.pllRelock e) s fun t => same t ∧ t.fab = s.fab ∧ t.dieStill e.val = false ∧
      ∀ k, (e, k) ∉ t.mgmt.power.weldPll) ∧
    (Completes .refclkLoss s fun t => same t ∧ t.fab = s.fab ∧ t.clocked = false ∧ t.timed = true) ∧
    (∀ die hub, Completes (.temperatureRead die hub) s fun t => same t ∧ t.fab = s.fab ∧ t.mgmt.power.hubHot = hub ∧
      (t.timed = false ↔ ∃ v ∈ hub ++ die.flatten, (1000 : Int) ≤ v)) ∧
    ∀ k : Fin 2, Completes (.catastrophicTemperature k) s fun t => same t ∧ t.fab = s.fab ∧
      t.mgmt.mode = { s.mgmt.mode with thermTrip := true } ∧ t.timed = false) ∧
  ∀ (s : State), s.timed = true →
    let w := s.mgmt.power
    let tj : Int := (fld (s.cfg 0x1101) 0 8 * 8 : Nat)
    ((∃ v ∈ w.hubHot, tj ≤ v) → Completes .throttleStep s fun t => t.mgmt.power.hubReduction = w.hubReduction + 10 ∧
      t.mem = s.mem ∧ t.hub = s.hub ∧ t.fab.harts = s.fab.harts) ∧
    ((∀ v ∈ w.hubHot, v ≤ tj - 24) → Completes .throttleStep s fun t => t.mgmt.power.hubReduction = 0) ∧
    (∀ b, Completes (.hotN b) s fun t => t.mgmt.mode = { s.mgmt.mode with hot := b } ∧ t.fab = s.fab ∧ t.mem = s.mem ∧
      t.hub = s.hub) ∧
    ∀ (h : HartId) (u : Nat) (k : Fin 8) (v : Word), s.clocked = true →
      (uncListed u = true → s.partOfDie h.die.val = none → Completes (.uncSet h u k v) s fun t => t.fab = s.fab ∧ t.mem = s.mem ∧
        Table.get 0 (t.uncUnit u).ctr k.val = v.extractLsb' 0 48 ∧ (t.uncUnit u).ctl = (s.uncUnit u).ctl ∧
        ∀ j, j ≠ u → t.uncUnit j = s.uncUnit j) ∧
      (uncListed u = false → exec (.uncSet h u k v) s = .next s) ∧
      (s.partOfDie h.die.val = none → Completes (.uncFreeze h v) s fun t => t.mgmt.uncFreeze = bit v 0 ∧ t.fab = s.fab ∧
        t.mem = s.mem ∧ t.mgmt.unc = s.mgmt.unc) ∧
      (s.partOfDie h.die.val ≠ none → exec (.uncFreeze h v) s = .next s)

/-- For every command and state, a step with the command at the front of the queue is exec of the command on the state with the
queue's rest. On an empty queue a step answers a next state: with the clocks of the time base running the time goes on by one
and nothing of memory, the cores' caches or the mailboxes changes, and without them the state stays as it is. That the block
idles by a tick is the model's choice (log entry 3), not a rule of the spec. (19 Power: R458; 17 Modes: R417.) -/
def Obligations.StepRunsTheFrontCommand : Prop :=
  (∀ (c : Instr) (rest : List Instr) (s : State), step { s with pending := c :: rest } = exec c { s with pending := rest }) ∧
  ∀ (s : State), s.pending = [] →
    (s.timed = false → step s = .next s) ∧
    (s.timed = true → ∃ t, step s = .next t ∧ t.now = s.now + 1 ∧ t.mem = s.mem ∧ t.fab.cores = s.fab.cores ∧
      t.mgmt.mail = s.mgmt.mail ∧ t.pending = [])

/-- After its first power-on cold reset the package is in Bring-up with nothing of the start done; every hart is held, with every
custom CSR zero and mtimecmp all ones; no line is cached anywhere and no message travels; memory lists nothing, no granule is
written, and every line reads as zeros; every hue is FREE; the factory configuration is in force as lot 1; the error log is
empty and its first SEQ is 1; no mailbox has a session; no command waits. Zero in a hart's integer registers, at which the
spec names no value, is the model's choice (log entry 4). (17 Modes: R417, R418, R420; 02 Cores: R45; 09 HBM: R249; 10 Hues:
R262; 16 Configuration: R397; 22 Errors: R496.) -/
def Obligations.ResetLeavesTheStartingPackage : Prop :=
  let s := State.reset
  s.mode = .bringUp ∧ s.mgmt.mode.cause = .powerOn ∧ s.mgmt.mode.start.running = true ∧ s.mgmt.mode.start.done = [] ∧
    s.clocked = true ∧ s.now = 0 ∧ s.fab.net = [] ∧ s.mem.data = [] ∧ s.mem.granules = [] ∧ s.mgmt.config.lot = 1 ∧
    s.mgmt.log.slots = [] ∧ s.mgmt.log.nextSeq = 1 ∧ s.pending = [] ∧
    (∀ h : HartId, let x := s.hart (hartIx h)
      x.run = .held ∧ x.priv = .m ∧ x.mtimecmp = BitVec.allOnes 64 ∧ x.cqzkeyr = 0 ∧ x.cqzbpctl = 0 ∧ x.cqzkeyctl = 0 ∧
        x.cqzsmpctl = 0 ∧ x.cqzhue = 0 ∧ x.cqzmctl = 0 ∧ x.x = []) ∧
    (∀ i, (s.core i).l2 = [] ∧ (s.core i).flushing = none) ∧ (∀ d, (s.die d).l3 = [] ∧ s.dieStatus d = 0) ∧
    (∀ k, (s.home k).dir = []) ∧ (∀ line, (s.storedLine line).1 = zeroLine) ∧ (∀ h, (s.hueSt h).st = .free) ∧
    (∀ i, (s.mbx i).session = none) ∧ ∀ r, s.cfg r = cfgDefault r

/-- The invariant of SoundThroughEveryStep holds of the state after reset: the stored bytes of memory are listed by strictly
rising address with no entry equal to what an unlisted address reads as, and the error log's hub queue holds at most 1,024
events. (09 HBM: R248, R249; 22 Errors: R496.) -/
def Obligations.SoundAtReset : Prop := State.reset.sound

/-- From every state in which the stored bytes of memory are in canonical form and the hub queue of the error log holds at most
1,024 events, whatever command is at the front of the queue, a step that answers a next state answers one of which the same
holds. So two packages whose every address reads alike hold equal memories, and no event passes the bound of R496 but as one
that is counted as dropped. (09 HBM: R232, R235, R248, R254; 22 Errors: R496.) -/
def Obligations.SoundThroughEveryStep : Prop := ∀ (s t : State), s.sound → step s = .next t → t.sound

/-- While PWRGOOD is low or THERMTRIP_N is asserted, every command other than an edge of PWRGOOD or a rail monitor's leaves the
package exactly as it is: no register, message, byte of memory, meter or clock moves. And once THERMTRIP_N is asserted, no
command other than PWRGOOD's rise from low releases it. (17 Modes: R417; 19 Power: R462; 23 Package: R516, R520.) -/
def Obligations.StoppedClocksStayStopped : Prop :=
  ∀ (c : Instr) (s : State),
    (s.timed = false → (∀ st, c ≠ .pwrgoodRise st) → c ≠ .pwrgoodLow → (∀ r, c ≠ .railUndervoltage r) →
      (∀ r, c ≠ .railOvervoltage r) → exec c s = .next s) ∧
    (s.mgmt.mode.thermTrip = true → ∀ t, exec c s = .next t → t.mgmt.mode.thermTrip = true ∨
      (s.mgmt.mode.pwrgood = false ∧ ∃ st, c = .pwrgoodRise st))

/-- For every hart in every state, mvendorid, marchid and mimpid read the values of the rule, and the read changes nothing.
Formalises R35. -/
def Obligations.IdentificationRegistersRead : Prop :=
  ∀ (h : HartId) (s : State), s.csrRead h 0xF11 = (0x0000000000000D27, s) ∧ s.csrRead h 0xF12 = (0x8000000000000E24, s) ∧
    s.csrRead h 0xF13 = (0x00000000000000A1, s) ∧ fld (s.csrRead h 0xF13).1 0 8 = 0xA1

/-- One shift of the register of R394. -/
def crc64Shift (r : Word) : Word := if r.getLsbD 63 then (r <<< 1) ^^^ 0x42F0E1EBA9EA3693#64 else r <<< 1

/-- The code of CHECK, which the shades share, takes bytes in ascending order from an initial value of zero, each from its most
significant bit on, with polynomial 0x42F0_E1EB_A9EA_3693, no reflection and no final inversion: with no byte it is zero, a
further byte goes through eight shifts of the register with the byte added to its top, and over the nine ASCII bytes
"123456789" it gives 0x6C40_DF5F_0B49_7347. The shade of any die is this code over its census stream. Formalises R394. -/
def Obligations.StoreCheckIsCrc64OfEcma182 : Prop :=
  crc64 [] = 0 ∧
    (∀ (l : Bytes) (b : Byte), crc64 (l ++ [b]) = crc64Shift^[8] (crc64 l ^^^ (b.zeroExtend 64 <<< 56))) ∧
    crc64 [0x31, 0x32, 0x33, 0x34, 0x35, 0x36, 0x37, 0x38, 0x39] = 0x6C40DF5F0B497347#64 ∧
    ∀ (s : State) (d : Nat), s.shade d = crc64 ((s.censusStream d).flatMap entryBytes)

/-- The core's state after a write of cqzcachectl (R54, R55). -/
def afterCachectl (c : CoreState) (v : Word) : CoreState :=
  let c := { c with l1iNa := bit v 0, l1dNa := bit v 1, l2Na := bit v 2 }
  if c.flushing ≠ none then c
  else if bit v 6 then { c with flushing := some .l2, flushLines := c.l2.map fun (e : Nat × L2Line) => e.2.line }
  else if bit v 5 then { c with flushing := some .l1d, flushLines := c.l1d.map fun (e : Nat × L1Line) => e.2.line }
  else if bit v 4 then { c with flushing := some .l1i, flushLines := c.l1i.map fun (e : Nat × L1Line) => e.2.line }
  else c

/-- For a hart that runs, tries the write at once and may write cqzcachectl, by whichever row the write comes: while a flush runs
the write starts none, and the allocation fields take its bits. With none running, a write with FLUSH_L2 starts that flush,
else one with FLUSH_L1D that, else one with FLUSH_L1I that, and one with none of them starts none; the lines that the flush
will remove are those now valid in the cache. The other cores, memory and every other hart are as before. Formalises R55. -/
def Obligations.FlushWritesStartTheWidestFlush : Prop :=
  ∀ (h : HartId) (v : Word) (s : State), s.executes h = true →
    let may (w : Word) : Prop := s.ready h (.csr 0x5C2 w) = true ∧ s.allows h (.csr 0x5C2 w)
    let does (w : Word) (t : State) : Prop := t.core (coreIx h) = afterCachectl (s.core (coreIx h)) w ∧
      (∀ i, i ≠ coreIx h → t.core i = s.core i) ∧ (∀ i, i ≠ hartIx h → t.hart i = s.hart i) ∧ t.mem = s.mem
    (may v → CompletesAt (.registerWrite (.csr h 0x5C2 v)) h s (does v)) ∧
      (may (v ||| 0x10) → CompletesAt (.flushL1i h v) h s (does (v ||| 0x10))) ∧
      (may (v ||| 0x20) → CompletesAt (.flushL1d h v) h s (does (v ||| 0x20))) ∧
      (may (v ||| 0x40) → CompletesAt (.flushL2 h v) h s (does (v ||| 0x40)))
end

