-- ==== Sys2Proof/Laws/Table.lean ====
section
/-! SUPPORT. The laws of the sparse table: a read after a write, and that every write keeps the canonical form. -/

namespace Sys2Proof

variable {α : Type}

theorem Table.find_erase (t : Table α) (k j : Nat) :
    Table.find (Table.erase t k) j = if j = k then none else Table.find t j := by
  induction t with
  | nil => simp [Table.erase, Table.find]
  | cons e t ih =>
    obtain ⟨a, v⟩ := e
    unfold Table.erase
    by_cases h : k = a
    · subst h
      simp only [if_true, ih, Table.find]
      split <;> simp_all
    · simp only [h, if_false, Table.find, ih]
      split
      · subst_vars; simp [Ne.symm h]
      · rfl

theorem Table.find_insert (t : Table α) (k j : Nat) (v : α) :
    Table.find (Table.insert t k v) j = if j = k then some v else Table.find t j := by
  induction t with
  | nil => simp [Table.insert, Table.find]
  | cons e t ih =>
    obtain ⟨a, w⟩ := e
    unfold Table.insert
    by_cases h : k < a
    · simp only [h, if_true, Table.find]
    · by_cases h' : k = a
      · subst h'
        simp only [lt_irrefl, if_false, if_true, Table.find]
        split <;> simp_all
      · simp only [h, h', if_false, Table.find, ih]
        split
        · subst_vars; simp [Ne.symm h']
        · rfl

/-- A read after a write: the value written there, and what was there before anywhere else. -/
theorem Table.get_put [DecidableEq α] (d : α) (t : Table α) (k j : Nat) (v : α) :
    Table.get d (Table.put d t k v) j = if j = k then v else Table.get d t j := by
  unfold Table.put Table.get
  by_cases h : v = d
  · subst h
    simp only [if_true, Table.find_erase]
    split <;> simp
  · simp only [h, if_false, Table.find_insert]
    split <;> simp

theorem Table.get_insert (d : α) (t : Table α) (k j : Nat) (v : α) :
    Table.get d (Table.insert t k v) j = if j = k then v else Table.get d t j := by
  unfold Table.get
  rw [Table.find_insert]
  split <;> simp

/-! ### The canonical form -/

theorem Table.sortedFrom_mono (d : α) (t : Table α) {lo hi : Nat} (h : lo ≤ hi) (w : Table.sortedFrom d t hi) :
    Table.sortedFrom d t lo := by
  cases t with
  | nil => trivial
  | cons e t => exact ⟨h.trans w.1, w.2.1, w.2.2⟩

theorem Table.sortedFrom_erase (d : α) (t : Table α) (k lo : Nat) (w : Table.sortedFrom d t lo) :
    Table.sortedFrom d (Table.erase t k) lo := by
  induction t generalizing lo with
  | nil => trivial
  | cons e t ih =>
    obtain ⟨a, v⟩ := e
    unfold Table.erase
    split
    · exact Table.sortedFrom_mono d _ (w.1.trans (Nat.le_succ a)) (ih _ w.2.2)
    · exact ⟨w.1, w.2.1, ih _ w.2.2⟩

theorem Table.sortedFrom_insert (d : α) (t : Table α) (k lo : Nat) (v : α) (hv : v ≠ d) (hk : lo ≤ k)
    (w : Table.sortedFrom d t lo) : Table.sortedFrom d (Table.insert t k v) lo := by
  induction t generalizing lo with
  | nil => exact ⟨hk, hv, trivial⟩
  | cons e t ih =>
    obtain ⟨a, x⟩ := e
    unfold Table.insert
    split
    · exact ⟨hk, hv, Nat.succ_le_of_lt ‹_›, w.2.1, w.2.2⟩
    · split
      · subst_vars; exact ⟨hk, hv, w.2.2⟩
      · exact ⟨w.1, w.2.1, ih _ (by omega) w.2.2⟩

/-- Every write keeps the canonical form. -/
theorem Table.wf_put [DecidableEq α] (d : α) (t : Table α) (k : Nat) (v : α) (w : Table.wf d t) :
    Table.wf d (Table.put d t k v) := by
  unfold Table.put
  split
  · exact Table.sortedFrom_erase d t k 0 w
  · exact Table.sortedFrom_insert d t k 0 v ‹_› (Nat.zero_le _) w

theorem Table.erase_insert (t : Table α) (k : Nat) (v : α) : Table.erase (Table.insert t k v) k = Table.erase t k := by
  induction t with
  | nil => simp [Table.insert, Table.erase]
  | cons e t ih =>
    obtain ⟨a, w⟩ := e
    unfold Table.insert
    split
    · simp [Table.erase]
    · split
      · subst_vars; simp [Table.erase]
      · rename_i h; simp only [Table.erase, h, if_false, ih]

theorem Table.insert_insert (t : Table α) (k : Nat) (v w : α) :
    Table.insert (Table.insert t k v) k w = Table.insert t k w := by
  induction t with
  | nil => simp [Table.insert]
  | cons e t ih =>
    obtain ⟨a, x⟩ := e
    by_cases h1 : k < a
    · simp [Table.insert, h1]
    · by_cases h2 : k = a
      · subst h2; simp [Table.insert]
      · simp only [Table.insert, h1, h2, if_false, ih]

/-- Of two writes at one key the second holds, where the first did not remove an entry. -/
theorem Table.put_put [DecidableEq α] (d : α) (t : Table α) (k : Nat) (v w : α) (hv : v ≠ d) :
    Table.put d (Table.put d t k v) k w = Table.put d t k w := by
  unfold Table.put
  simp only [hv, if_false, Table.erase_insert, Table.insert_insert]

end Sys2Proof
end

