-- ==== Sys2Proof/Laws/State.lean ====
section
/-! SUPPORT. What each setter of the state reads back as, and what it leaves alone: one lemma per setter and field. -/

namespace Sys2Proof.Machine

/-! What a setter reads back as. -/

@[simp] theorem State.hart_setHart (s : State) (i j : Nat) v : (s.setHart i v).hart j = if j = i then v else s.hart j := Table.get_put ..
@[simp] theorem State.core_setCore (s : State) (i j : Nat) v : (s.setCore i v).core j = if j = i then v else s.core j := Table.get_put ..
@[simp] theorem State.die_setDie (s : State) (i j : Nat) v : (s.setDie i v).die j = if j = i then v else s.die j := Table.get_put ..
@[simp] theorem State.port_setPort (s : State) (i j : Nat) v : (s.setPort i v).port j = if j = i then v else s.port j := Table.get_put ..
@[simp] theorem State.stop_setStop (s : State) (i j : Nat) v : (s.setStop i v).stop j = if j = i then v else s.stop j := Table.get_put ..
@[simp] theorem State.crossing_setCrossing (s : State) (i j : Nat) v : (s.setCrossing i v).crossing j = if j = i then v else s.crossing j := Table.get_put ..
@[simp] theorem State.home_setHome (s : State) (i j : Nat) v : (s.setHome i v).home j = if j = i then v else s.home j := Table.get_put ..
@[simp] theorem State.drop_setDrop (s : State) (i j : Nat) v : (s.setDrop i v).drop j = if j = i then v else s.drop j := Table.get_put ..
@[simp] theorem State.granule_setGranule (s : State) (i j : Nat) v : (s.setGranule i v).granule j = if j = i then v else s.granule j := Table.get_put ..
@[simp] theorem State.mapErr_setMapErr (s : State) (i j : Nat) v : (s.setMapErr i v).mapErr j = if j = i then v else s.mapErr j := Table.get_put ..
@[simp] theorem State.row_setRow (s : State) (i j : Nat) v : (s.setRow i v).row j = if j = i then v else s.row j := Table.get_put ..
@[simp] theorem State.channel_setChannel (s : State) (i j : Nat) v : (s.setChannel i v).channel j = if j = i then v else s.channel j := Table.get_put ..
@[simp] theorem State.forget_setForget (s : State) (i j : Nat) v : (s.setForget i v).forget j = if j = i then v else s.forget j := Table.get_put ..
@[simp] theorem State.patrolAt_setPatrolAt (s : State) (i j : Nat) v : (s.setPatrolAt i v).patrolAt j = if j = i then v else s.patrolAt j := Table.get_put ..
@[simp] theorem State.slotsUsed_setSlotsUsed (s : State) (i j : Nat) v : (s.setSlotsUsed i v).slotsUsed j = if j = i then v else s.slotsUsed j := Table.get_put ..
@[simp] theorem State.hueSt_setHueSt (s : State) (i j : Nat) v : (s.setHueSt i v).hueSt j = if j = i then v else s.hueSt j := Table.get_put ..
@[simp] theorem State.file_setFile (s : State) (i j : Nat) v : (s.setFile i v).file j = if j = i then v else s.file j := Table.get_put ..
@[simp] theorem State.aplic_setAplic (s : State) (i j : Nat) v : (s.setAplic i v).aplic j = if j = i then v else s.aplic j := Table.get_put ..
@[simp] theorem State.meter_setMeter (s : State) (i j : Nat) v : (s.setMeter i v).meter j = if j = i then v else s.meter j := Table.get_put ..
@[simp] theorem State.occ_setOcc (s : State) (i j : Nat) v : (s.setOcc i v).occ j = if j = i then v else s.occ j := Table.get_put ..
@[simp] theorem State.slice_setSlice (s : State) (i j : Nat) v : (s.setSlice i v).slice j = if j = i then v else s.slice j := Table.get_put ..
@[simp] theorem State.cell_setCell (s : State) (i j : Nat) v : (s.setCell i v).cell j = if j = i then v else s.cell j := Table.get_put ..
@[simp] theorem State.rootPort_setRootPort (s : State) (i j : Nat) v : (s.setRootPort i v).rootPort j = if j = i then v else s.rootPort j := Table.get_put ..
@[simp] theorem State.cxlMem_setCxlMem (s : State) (i j : Nat) v : (s.setCxlMem i v).cxlMem j = if j = i then v else s.cxlMem j := Table.get_put ..
@[simp] theorem State.filterAt_setFilterAt (s : State) (i j : Nat) v : (s.setFilterAt i v).filterAt j = if j = i then v else s.filterAt j := Table.get_put ..
@[simp] theorem State.iommu_setIommu (s : State) (i j : Nat) v : (s.setIommu i v).iommu j = if j = i then v else s.iommu j := Table.get_put ..
@[simp] theorem State.mbx_setMbx (s : State) (i j : Nat) v : (s.setMbx i v).mbx j = if j = i then v else s.mbx j := Table.get_put ..
@[simp] theorem State.uncUnit_setUncUnit (s : State) (i j : Nat) v : (s.setUncUnit i v).uncUnit j = if j = i then v else s.uncUnit j := Table.get_put ..
@[simp] theorem State.dieCfg_setDieCfg (s : State) (i j : Nat) v : (s.setDieCfg i v).dieCfg j = if j = i then v else s.dieCfg j := Table.get_put ..
@[simp] theorem State.rail_setRail (s : State) (i j : Nat) v : (s.setRail i v).rail j = if j = i then v else s.rail j := Table.get_put ..
@[simp] theorem State.cascLink_setCascLink (s : State) (i j : Nat) v : (s.setCascLink i v).cascLink j = if j = i then v else s.cascLink j := Table.get_put ..
@[simp] theorem State.partition_setPartition (s : State) (i j : Nat) v : (s.setPartition i v).partition j = if j = i then v else s.partition j := Table.get_put ..
@[simp] theorem State.dieStatus_setDieStatus (s : State) (i j : Nat) v : (s.setDieStatus i v).dieStatus j = if j = i then v else s.dieStatus j := Table.get_put ..
@[simp] theorem State.spares_setSpares (s : State) (i j : Nat) v : (s.setSpares i v).spares j = if j = i then v else s.spares j := Table.get_put ..

/-! What `setHart` leaves alone. -/

@[simp] theorem State.setHart_mem (s : State) (i : Nat) v : (s.setHart i v).mem = s.mem := rfl
@[simp] theorem State.setHart_hub (s : State) (i : Nat) v : (s.setHart i v).hub = s.hub := rfl
@[simp] theorem State.setHart_mgmt (s : State) (i : Nat) v : (s.setHart i v).mgmt = s.mgmt := rfl
@[simp] theorem State.setHart_now (s : State) (i : Nat) v : (s.setHart i v).now = s.now := rfl
@[simp] theorem State.setHart_free (s : State) (i : Nat) v : (s.setHart i v).free = s.free := rfl
@[simp] theorem State.setHart_pending (s : State) (i : Nat) v : (s.setHart i v).pending = s.pending := rfl
@[simp] theorem State.setHart_fab_cores (s : State) (i : Nat) v : (s.setHart i v).fab.cores = s.fab.cores := rfl
@[simp] theorem State.setHart_fab_dies (s : State) (i : Nat) v : (s.setHart i v).fab.dies = s.fab.dies := rfl
@[simp] theorem State.setHart_fab_ports (s : State) (i : Nat) v : (s.setHart i v).fab.ports = s.fab.ports := rfl
@[simp] theorem State.setHart_fab_stops (s : State) (i : Nat) v : (s.setHart i v).fab.stops = s.fab.stops := rfl
@[simp] theorem State.setHart_fab_homes (s : State) (i : Nat) v : (s.setHart i v).fab.homes = s.fab.homes := rfl
@[simp] theorem State.setHart_fab_net (s : State) (i : Nat) v : (s.setHart i v).fab.net = s.fab.net := rfl
@[simp] theorem State.setHart_fab_ioReqs (s : State) (i : Nat) v : (s.setHart i v).fab.ioReqs = s.fab.ioReqs := rfl
@[simp] theorem State.setHart_fab_msis (s : State) (i : Nat) v : (s.setHart i v).fab.msis = s.fab.msis := rfl
@[simp] theorem State.setHart_fab_ioAnswers (s : State) (i : Nat) v : (s.setHart i v).fab.ioAnswers = s.fab.ioAnswers := rfl
@[simp] theorem State.setHart_fab_crossings (s : State) (i : Nat) v : (s.setHart i v).fab.crossings = s.fab.crossings := rfl
@[simp] theorem State.setHart_fab_mordantIo (s : State) (i : Nat) v : (s.setHart i v).fab.mordantIo = s.fab.mordantIo := rfl
@[simp] theorem State.setHart_fab_onRing (s : State) (i : Nat) v : (s.setHart i v).fab.onRing = s.fab.onRing := rfl
@[simp] theorem State.setHart_fab_launched (s : State) (i : Nat) v : (s.setHart i v).fab.launched = s.fab.launched := rfl
@[simp] theorem State.setHart_fab_drops (s : State) (i : Nat) v : (s.setHart i v).fab.drops = s.fab.drops := rfl
@[simp] theorem State.setHart_core (s : State) (i j : Nat) v : (s.setHart i v).core j = s.core j := rfl
@[simp] theorem State.setHart_die (s : State) (i j : Nat) v : (s.setHart i v).die j = s.die j := rfl
@[simp] theorem State.setHart_port (s : State) (i j : Nat) v : (s.setHart i v).port j = s.port j := rfl
@[simp] theorem State.setHart_stop (s : State) (i j : Nat) v : (s.setHart i v).stop j = s.stop j := rfl
@[simp] theorem State.setHart_crossing (s : State) (i j : Nat) v : (s.setHart i v).crossing j = s.crossing j := rfl
@[simp] theorem State.setHart_home (s : State) (i j : Nat) v : (s.setHart i v).home j = s.home j := rfl
@[simp] theorem State.setHart_drop (s : State) (i j : Nat) v : (s.setHart i v).drop j = s.drop j := rfl
@[simp] theorem State.setHart_granule (s : State) (i j : Nat) v : (s.setHart i v).granule j = s.granule j := rfl
@[simp] theorem State.setHart_mapErr (s : State) (i j : Nat) v : (s.setHart i v).mapErr j = s.mapErr j := rfl
@[simp] theorem State.setHart_row (s : State) (i j : Nat) v : (s.setHart i v).row j = s.row j := rfl
@[simp] theorem State.setHart_channel (s : State) (i j : Nat) v : (s.setHart i v).channel j = s.channel j := rfl
@[simp] theorem State.setHart_forget (s : State) (i j : Nat) v : (s.setHart i v).forget j = s.forget j := rfl
@[simp] theorem State.setHart_patrolAt (s : State) (i j : Nat) v : (s.setHart i v).patrolAt j = s.patrolAt j := rfl
@[simp] theorem State.setHart_slotsUsed (s : State) (i j : Nat) v : (s.setHart i v).slotsUsed j = s.slotsUsed j := rfl
@[simp] theorem State.setHart_hueSt (s : State) (i j : Nat) v : (s.setHart i v).hueSt j = s.hueSt j := rfl
@[simp] theorem State.setHart_file (s : State) (i j : Nat) v : (s.setHart i v).file j = s.file j := rfl
@[simp] theorem State.setHart_aplic (s : State) (i j : Nat) v : (s.setHart i v).aplic j = s.aplic j := rfl
@[simp] theorem State.setHart_meter (s : State) (i j : Nat) v : (s.setHart i v).meter j = s.meter j := rfl
@[simp] theorem State.setHart_occ (s : State) (i j : Nat) v : (s.setHart i v).occ j = s.occ j := rfl
@[simp] theorem State.setHart_slice (s : State) (i j : Nat) v : (s.setHart i v).slice j = s.slice j := rfl
@[simp] theorem State.setHart_cell (s : State) (i j : Nat) v : (s.setHart i v).cell j = s.cell j := rfl
@[simp] theorem State.setHart_rootPort (s : State) (i j : Nat) v : (s.setHart i v).rootPort j = s.rootPort j := rfl
@[simp] theorem State.setHart_cxlMem (s : State) (i j : Nat) v : (s.setHart i v).cxlMem j = s.cxlMem j := rfl
@[simp] theorem State.setHart_filterAt (s : State) (i j : Nat) v : (s.setHart i v).filterAt j = s.filterAt j := rfl
@[simp] theorem State.setHart_iommu (s : State) (i j : Nat) v : (s.setHart i v).iommu j = s.iommu j := rfl
@[simp] theorem State.setHart_mbx (s : State) (i j : Nat) v : (s.setHart i v).mbx j = s.mbx j := rfl
@[simp] theorem State.setHart_uncUnit (s : State) (i j : Nat) v : (s.setHart i v).uncUnit j = s.uncUnit j := rfl
@[simp] theorem State.setHart_dieCfg (s : State) (i j : Nat) v : (s.setHart i v).dieCfg j = s.dieCfg j := rfl
@[simp] theorem State.setHart_rail (s : State) (i j : Nat) v : (s.setHart i v).rail j = s.rail j := rfl
@[simp] theorem State.setHart_cascLink (s : State) (i j : Nat) v : (s.setHart i v).cascLink j = s.cascLink j := rfl
@[simp] theorem State.setHart_partition (s : State) (i j : Nat) v : (s.setHart i v).partition j = s.partition j := rfl
@[simp] theorem State.setHart_dieStatus (s : State) (i j : Nat) v : (s.setHart i v).dieStatus j = s.dieStatus j := rfl
@[simp] theorem State.setHart_spares (s : State) (i j : Nat) v : (s.setHart i v).spares j = s.spares j := rfl

/-! What `setCore` leaves alone. -/

@[simp] theorem State.setCore_mem (s : State) (i : Nat) v : (s.setCore i v).mem = s.mem := rfl
@[simp] theorem State.setCore_hub (s : State) (i : Nat) v : (s.setCore i v).hub = s.hub := rfl
@[simp] theorem State.setCore_mgmt (s : State) (i : Nat) v : (s.setCore i v).mgmt = s.mgmt := rfl
@[simp] theorem State.setCore_now (s : State) (i : Nat) v : (s.setCore i v).now = s.now := rfl
@[simp] theorem State.setCore_free (s : State) (i : Nat) v : (s.setCore i v).free = s.free := rfl
@[simp] theorem State.setCore_pending (s : State) (i : Nat) v : (s.setCore i v).pending = s.pending := rfl
@[simp] theorem State.setCore_fab_harts (s : State) (i : Nat) v : (s.setCore i v).fab.harts = s.fab.harts := rfl
@[simp] theorem State.setCore_fab_dies (s : State) (i : Nat) v : (s.setCore i v).fab.dies = s.fab.dies := rfl
@[simp] theorem State.setCore_fab_ports (s : State) (i : Nat) v : (s.setCore i v).fab.ports = s.fab.ports := rfl
@[simp] theorem State.setCore_fab_stops (s : State) (i : Nat) v : (s.setCore i v).fab.stops = s.fab.stops := rfl
@[simp] theorem State.setCore_fab_homes (s : State) (i : Nat) v : (s.setCore i v).fab.homes = s.fab.homes := rfl
@[simp] theorem State.setCore_fab_net (s : State) (i : Nat) v : (s.setCore i v).fab.net = s.fab.net := rfl
@[simp] theorem State.setCore_fab_ioReqs (s : State) (i : Nat) v : (s.setCore i v).fab.ioReqs = s.fab.ioReqs := rfl
@[simp] theorem State.setCore_fab_msis (s : State) (i : Nat) v : (s.setCore i v).fab.msis = s.fab.msis := rfl
@[simp] theorem State.setCore_fab_ioAnswers (s : State) (i : Nat) v : (s.setCore i v).fab.ioAnswers = s.fab.ioAnswers := rfl
@[simp] theorem State.setCore_fab_crossings (s : State) (i : Nat) v : (s.setCore i v).fab.crossings = s.fab.crossings := rfl
@[simp] theorem State.setCore_fab_mordantIo (s : State) (i : Nat) v : (s.setCore i v).fab.mordantIo = s.fab.mordantIo := rfl
@[simp] theorem State.setCore_fab_onRing (s : State) (i : Nat) v : (s.setCore i v).fab.onRing = s.fab.onRing := rfl
@[simp] theorem State.setCore_fab_launched (s : State) (i : Nat) v : (s.setCore i v).fab.launched = s.fab.launched := rfl
@[simp] theorem State.setCore_fab_drops (s : State) (i : Nat) v : (s.setCore i v).fab.drops = s.fab.drops := rfl
@[simp] theorem State.setCore_hart (s : State) (i j : Nat) v : (s.setCore i v).hart j = s.hart j := rfl
@[simp] theorem State.setCore_die (s : State) (i j : Nat) v : (s.setCore i v).die j = s.die j := rfl
@[simp] theorem State.setCore_port (s : State) (i j : Nat) v : (s.setCore i v).port j = s.port j := rfl
@[simp] theorem State.setCore_stop (s : State) (i j : Nat) v : (s.setCore i v).stop j = s.stop j := rfl
@[simp] theorem State.setCore_crossing (s : State) (i j : Nat) v : (s.setCore i v).crossing j = s.crossing j := rfl
@[simp] theorem State.setCore_home (s : State) (i j : Nat) v : (s.setCore i v).home j = s.home j := rfl
@[simp] theorem State.setCore_drop (s : State) (i j : Nat) v : (s.setCore i v).drop j = s.drop j := rfl
@[simp] theorem State.setCore_granule (s : State) (i j : Nat) v : (s.setCore i v).granule j = s.granule j := rfl
@[simp] theorem State.setCore_mapErr (s : State) (i j : Nat) v : (s.setCore i v).mapErr j = s.mapErr j := rfl
@[simp] theorem State.setCore_row (s : State) (i j : Nat) v : (s.setCore i v).row j = s.row j := rfl
@[simp] theorem State.setCore_channel (s : State) (i j : Nat) v : (s.setCore i v).channel j = s.channel j := rfl
@[simp] theorem State.setCore_forget (s : State) (i j : Nat) v : (s.setCore i v).forget j = s.forget j := rfl
@[simp] theorem State.setCore_patrolAt (s : State) (i j : Nat) v : (s.setCore i v).patrolAt j = s.patrolAt j := rfl
@[simp] theorem State.setCore_slotsUsed (s : State) (i j : Nat) v : (s.setCore i v).slotsUsed j = s.slotsUsed j := rfl
@[simp] theorem State.setCore_hueSt (s : State) (i j : Nat) v : (s.setCore i v).hueSt j = s.hueSt j := rfl
@[simp] theorem State.setCore_file (s : State) (i j : Nat) v : (s.setCore i v).file j = s.file j := rfl
@[simp] theorem State.setCore_aplic (s : State) (i j : Nat) v : (s.setCore i v).aplic j = s.aplic j := rfl
@[simp] theorem State.setCore_meter (s : State) (i j : Nat) v : (s.setCore i v).meter j = s.meter j := rfl
@[simp] theorem State.setCore_occ (s : State) (i j : Nat) v : (s.setCore i v).occ j = s.occ j := rfl
@[simp] theorem State.setCore_slice (s : State) (i j : Nat) v : (s.setCore i v).slice j = s.slice j := rfl
@[simp] theorem State.setCore_cell (s : State) (i j : Nat) v : (s.setCore i v).cell j = s.cell j := rfl
@[simp] theorem State.setCore_rootPort (s : State) (i j : Nat) v : (s.setCore i v).rootPort j = s.rootPort j := rfl
@[simp] theorem State.setCore_cxlMem (s : State) (i j : Nat) v : (s.setCore i v).cxlMem j = s.cxlMem j := rfl
@[simp] theorem State.setCore_filterAt (s : State) (i j : Nat) v : (s.setCore i v).filterAt j = s.filterAt j := rfl
@[simp] theorem State.setCore_iommu (s : State) (i j : Nat) v : (s.setCore i v).iommu j = s.iommu j := rfl
@[simp] theorem State.setCore_mbx (s : State) (i j : Nat) v : (s.setCore i v).mbx j = s.mbx j := rfl
@[simp] theorem State.setCore_uncUnit (s : State) (i j : Nat) v : (s.setCore i v).uncUnit j = s.uncUnit j := rfl
@[simp] theorem State.setCore_dieCfg (s : State) (i j : Nat) v : (s.setCore i v).dieCfg j = s.dieCfg j := rfl
@[simp] theorem State.setCore_rail (s : State) (i j : Nat) v : (s.setCore i v).rail j = s.rail j := rfl
@[simp] theorem State.setCore_cascLink (s : State) (i j : Nat) v : (s.setCore i v).cascLink j = s.cascLink j := rfl
@[simp] theorem State.setCore_partition (s : State) (i j : Nat) v : (s.setCore i v).partition j = s.partition j := rfl
@[simp] theorem State.setCore_dieStatus (s : State) (i j : Nat) v : (s.setCore i v).dieStatus j = s.dieStatus j := rfl
@[simp] theorem State.setCore_spares (s : State) (i j : Nat) v : (s.setCore i v).spares j = s.spares j := rfl

/-! What `setDie` leaves alone. -/

@[simp] theorem State.setDie_mem (s : State) (i : Nat) v : (s.setDie i v).mem = s.mem := rfl
@[simp] theorem State.setDie_hub (s : State) (i : Nat) v : (s.setDie i v).hub = s.hub := rfl
@[simp] theorem State.setDie_mgmt (s : State) (i : Nat) v : (s.setDie i v).mgmt = s.mgmt := rfl
@[simp] theorem State.setDie_now (s : State) (i : Nat) v : (s.setDie i v).now = s.now := rfl
@[simp] theorem State.setDie_free (s : State) (i : Nat) v : (s.setDie i v).free = s.free := rfl
@[simp] theorem State.setDie_pending (s : State) (i : Nat) v : (s.setDie i v).pending = s.pending := rfl
@[simp] theorem State.setDie_fab_harts (s : State) (i : Nat) v : (s.setDie i v).fab.harts = s.fab.harts := rfl
@[simp] theorem State.setDie_fab_cores (s : State) (i : Nat) v : (s.setDie i v).fab.cores = s.fab.cores := rfl
@[simp] theorem State.setDie_fab_ports (s : State) (i : Nat) v : (s.setDie i v).fab.ports = s.fab.ports := rfl
@[simp] theorem State.setDie_fab_stops (s : State) (i : Nat) v : (s.setDie i v).fab.stops = s.fab.stops := rfl
@[simp] theorem State.setDie_fab_homes (s : State) (i : Nat) v : (s.setDie i v).fab.homes = s.fab.homes := rfl
@[simp] theorem State.setDie_fab_net (s : State) (i : Nat) v : (s.setDie i v).fab.net = s.fab.net := rfl
@[simp] theorem State.setDie_fab_ioReqs (s : State) (i : Nat) v : (s.setDie i v).fab.ioReqs = s.fab.ioReqs := rfl
@[simp] theorem State.setDie_fab_msis (s : State) (i : Nat) v : (s.setDie i v).fab.msis = s.fab.msis := rfl
@[simp] theorem State.setDie_fab_ioAnswers (s : State) (i : Nat) v : (s.setDie i v).fab.ioAnswers = s.fab.ioAnswers := rfl
@[simp] theorem State.setDie_fab_crossings (s : State) (i : Nat) v : (s.setDie i v).fab.crossings = s.fab.crossings := rfl
@[simp] theorem State.setDie_fab_mordantIo (s : State) (i : Nat) v : (s.setDie i v).fab.mordantIo = s.fab.mordantIo := rfl
@[simp] theorem State.setDie_fab_onRing (s : State) (i : Nat) v : (s.setDie i v).fab.onRing = s.fab.onRing := rfl
@[simp] theorem State.setDie_fab_launched (s : State) (i : Nat) v : (s.setDie i v).fab.launched = s.fab.launched := rfl
@[simp] theorem State.setDie_fab_drops (s : State) (i : Nat) v : (s.setDie i v).fab.drops = s.fab.drops := rfl
@[simp] theorem State.setDie_hart (s : State) (i j : Nat) v : (s.setDie i v).hart j = s.hart j := rfl
@[simp] theorem State.setDie_core (s : State) (i j : Nat) v : (s.setDie i v).core j = s.core j := rfl
@[simp] theorem State.setDie_port (s : State) (i j : Nat) v : (s.setDie i v).port j = s.port j := rfl
@[simp] theorem State.setDie_stop (s : State) (i j : Nat) v : (s.setDie i v).stop j = s.stop j := rfl
@[simp] theorem State.setDie_crossing (s : State) (i j : Nat) v : (s.setDie i v).crossing j = s.crossing j := rfl
@[simp] theorem State.setDie_home (s : State) (i j : Nat) v : (s.setDie i v).home j = s.home j := rfl
@[simp] theorem State.setDie_drop (s : State) (i j : Nat) v : (s.setDie i v).drop j = s.drop j := rfl
@[simp] theorem State.setDie_granule (s : State) (i j : Nat) v : (s.setDie i v).granule j = s.granule j := rfl
@[simp] theorem State.setDie_mapErr (s : State) (i j : Nat) v : (s.setDie i v).mapErr j = s.mapErr j := rfl
@[simp] theorem State.setDie_row (s : State) (i j : Nat) v : (s.setDie i v).row j = s.row j := rfl
@[simp] theorem State.setDie_channel (s : State) (i j : Nat) v : (s.setDie i v).channel j = s.channel j := rfl
@[simp] theorem State.setDie_forget (s : State) (i j : Nat) v : (s.setDie i v).forget j = s.forget j := rfl
@[simp] theorem State.setDie_patrolAt (s : State) (i j : Nat) v : (s.setDie i v).patrolAt j = s.patrolAt j := rfl
@[simp] theorem State.setDie_slotsUsed (s : State) (i j : Nat) v : (s.setDie i v).slotsUsed j = s.slotsUsed j := rfl
@[simp] theorem State.setDie_hueSt (s : State) (i j : Nat) v : (s.setDie i v).hueSt j = s.hueSt j := rfl
@[simp] theorem State.setDie_file (s : State) (i j : Nat) v : (s.setDie i v).file j = s.file j := rfl
@[simp] theorem State.setDie_aplic (s : State) (i j : Nat) v : (s.setDie i v).aplic j = s.aplic j := rfl
@[simp] theorem State.setDie_meter (s : State) (i j : Nat) v : (s.setDie i v).meter j = s.meter j := rfl
@[simp] theorem State.setDie_occ (s : State) (i j : Nat) v : (s.setDie i v).occ j = s.occ j := rfl
@[simp] theorem State.setDie_slice (s : State) (i j : Nat) v : (s.setDie i v).slice j = s.slice j := rfl
@[simp] theorem State.setDie_cell (s : State) (i j : Nat) v : (s.setDie i v).cell j = s.cell j := rfl
@[simp] theorem State.setDie_rootPort (s : State) (i j : Nat) v : (s.setDie i v).rootPort j = s.rootPort j := rfl
@[simp] theorem State.setDie_cxlMem (s : State) (i j : Nat) v : (s.setDie i v).cxlMem j = s.cxlMem j := rfl
@[simp] theorem State.setDie_filterAt (s : State) (i j : Nat) v : (s.setDie i v).filterAt j = s.filterAt j := rfl
@[simp] theorem State.setDie_iommu (s : State) (i j : Nat) v : (s.setDie i v).iommu j = s.iommu j := rfl
@[simp] theorem State.setDie_mbx (s : State) (i j : Nat) v : (s.setDie i v).mbx j = s.mbx j := rfl
@[simp] theorem State.setDie_uncUnit (s : State) (i j : Nat) v : (s.setDie i v).uncUnit j = s.uncUnit j := rfl
@[simp] theorem State.setDie_dieCfg (s : State) (i j : Nat) v : (s.setDie i v).dieCfg j = s.dieCfg j := rfl
@[simp] theorem State.setDie_rail (s : State) (i j : Nat) v : (s.setDie i v).rail j = s.rail j := rfl
@[simp] theorem State.setDie_cascLink (s : State) (i j : Nat) v : (s.setDie i v).cascLink j = s.cascLink j := rfl
@[simp] theorem State.setDie_partition (s : State) (i j : Nat) v : (s.setDie i v).partition j = s.partition j := rfl
@[simp] theorem State.setDie_dieStatus (s : State) (i j : Nat) v : (s.setDie i v).dieStatus j = s.dieStatus j := rfl
@[simp] theorem State.setDie_spares (s : State) (i j : Nat) v : (s.setDie i v).spares j = s.spares j := rfl

/-! What `setPort` leaves alone. -/

@[simp] theorem State.setPort_mem (s : State) (i : Nat) v : (s.setPort i v).mem = s.mem := rfl
@[simp] theorem State.setPort_hub (s : State) (i : Nat) v : (s.setPort i v).hub = s.hub := rfl
@[simp] theorem State.setPort_mgmt (s : State) (i : Nat) v : (s.setPort i v).mgmt = s.mgmt := rfl
@[simp] theorem State.setPort_now (s : State) (i : Nat) v : (s.setPort i v).now = s.now := rfl
@[simp] theorem State.setPort_free (s : State) (i : Nat) v : (s.setPort i v).free = s.free := rfl
@[simp] theorem State.setPort_pending (s : State) (i : Nat) v : (s.setPort i v).pending = s.pending := rfl
@[simp] theorem State.setPort_fab_harts (s : State) (i : Nat) v : (s.setPort i v).fab.harts = s.fab.harts := rfl
@[simp] theorem State.setPort_fab_cores (s : State) (i : Nat) v : (s.setPort i v).fab.cores = s.fab.cores := rfl
@[simp] theorem State.setPort_fab_dies (s : State) (i : Nat) v : (s.setPort i v).fab.dies = s.fab.dies := rfl
@[simp] theorem State.setPort_fab_stops (s : State) (i : Nat) v : (s.setPort i v).fab.stops = s.fab.stops := rfl
@[simp] theorem State.setPort_fab_homes (s : State) (i : Nat) v : (s.setPort i v).fab.homes = s.fab.homes := rfl
@[simp] theorem State.setPort_fab_net (s : State) (i : Nat) v : (s.setPort i v).fab.net = s.fab.net := rfl
@[simp] theorem State.setPort_fab_ioReqs (s : State) (i : Nat) v : (s.setPort i v).fab.ioReqs = s.fab.ioReqs := rfl
@[simp] theorem State.setPort_fab_msis (s : State) (i : Nat) v : (s.setPort i v).fab.msis = s.fab.msis := rfl
@[simp] theorem State.setPort_fab_ioAnswers (s : State) (i : Nat) v : (s.setPort i v).fab.ioAnswers = s.fab.ioAnswers := rfl
@[simp] theorem State.setPort_fab_crossings (s : State) (i : Nat) v : (s.setPort i v).fab.crossings = s.fab.crossings := rfl
@[simp] theorem State.setPort_fab_mordantIo (s : State) (i : Nat) v : (s.setPort i v).fab.mordantIo = s.fab.mordantIo := rfl
@[simp] theorem State.setPort_fab_onRing (s : State) (i : Nat) v : (s.setPort i v).fab.onRing = s.fab.onRing := rfl
@[simp] theorem State.setPort_fab_launched (s : State) (i : Nat) v : (s.setPort i v).fab.launched = s.fab.launched := rfl
@[simp] theorem State.setPort_fab_drops (s : State) (i : Nat) v : (s.setPort i v).fab.drops = s.fab.drops := rfl
@[simp] theorem State.setPort_hart (s : State) (i j : Nat) v : (s.setPort i v).hart j = s.hart j := rfl
@[simp] theorem State.setPort_core (s : State) (i j : Nat) v : (s.setPort i v).core j = s.core j := rfl
@[simp] theorem State.setPort_die (s : State) (i j : Nat) v : (s.setPort i v).die j = s.die j := rfl
@[simp] theorem State.setPort_stop (s : State) (i j : Nat) v : (s.setPort i v).stop j = s.stop j := rfl
@[simp] theorem State.setPort_crossing (s : State) (i j : Nat) v : (s.setPort i v).crossing j = s.crossing j := rfl
@[simp] theorem State.setPort_home (s : State) (i j : Nat) v : (s.setPort i v).home j = s.home j := rfl
@[simp] theorem State.setPort_drop (s : State) (i j : Nat) v : (s.setPort i v).drop j = s.drop j := rfl
@[simp] theorem State.setPort_granule (s : State) (i j : Nat) v : (s.setPort i v).granule j = s.granule j := rfl
@[simp] theorem State.setPort_mapErr (s : State) (i j : Nat) v : (s.setPort i v).mapErr j = s.mapErr j := rfl
@[simp] theorem State.setPort_row (s : State) (i j : Nat) v : (s.setPort i v).row j = s.row j := rfl
@[simp] theorem State.setPort_channel (s : State) (i j : Nat) v : (s.setPort i v).channel j = s.channel j := rfl
@[simp] theorem State.setPort_forget (s : State) (i j : Nat) v : (s.setPort i v).forget j = s.forget j := rfl
@[simp] theorem State.setPort_patrolAt (s : State) (i j : Nat) v : (s.setPort i v).patrolAt j = s.patrolAt j := rfl
@[simp] theorem State.setPort_slotsUsed (s : State) (i j : Nat) v : (s.setPort i v).slotsUsed j = s.slotsUsed j := rfl
@[simp] theorem State.setPort_hueSt (s : State) (i j : Nat) v : (s.setPort i v).hueSt j = s.hueSt j := rfl
@[simp] theorem State.setPort_file (s : State) (i j : Nat) v : (s.setPort i v).file j = s.file j := rfl
@[simp] theorem State.setPort_aplic (s : State) (i j : Nat) v : (s.setPort i v).aplic j = s.aplic j := rfl
@[simp] theorem State.setPort_meter (s : State) (i j : Nat) v : (s.setPort i v).meter j = s.meter j := rfl
@[simp] theorem State.setPort_occ (s : State) (i j : Nat) v : (s.setPort i v).occ j = s.occ j := rfl
@[simp] theorem State.setPort_slice (s : State) (i j : Nat) v : (s.setPort i v).slice j = s.slice j := rfl
@[simp] theorem State.setPort_cell (s : State) (i j : Nat) v : (s.setPort i v).cell j = s.cell j := rfl
@[simp] theorem State.setPort_rootPort (s : State) (i j : Nat) v : (s.setPort i v).rootPort j = s.rootPort j := rfl
@[simp] theorem State.setPort_cxlMem (s : State) (i j : Nat) v : (s.setPort i v).cxlMem j = s.cxlMem j := rfl
@[simp] theorem State.setPort_filterAt (s : State) (i j : Nat) v : (s.setPort i v).filterAt j = s.filterAt j := rfl
@[simp] theorem State.setPort_iommu (s : State) (i j : Nat) v : (s.setPort i v).iommu j = s.iommu j := rfl
@[simp] theorem State.setPort_mbx (s : State) (i j : Nat) v : (s.setPort i v).mbx j = s.mbx j := rfl
@[simp] theorem State.setPort_uncUnit (s : State) (i j : Nat) v : (s.setPort i v).uncUnit j = s.uncUnit j := rfl
@[simp] theorem State.setPort_dieCfg (s : State) (i j : Nat) v : (s.setPort i v).dieCfg j = s.dieCfg j := rfl
@[simp] theorem State.setPort_rail (s : State) (i j : Nat) v : (s.setPort i v).rail j = s.rail j := rfl
@[simp] theorem State.setPort_cascLink (s : State) (i j : Nat) v : (s.setPort i v).cascLink j = s.cascLink j := rfl
@[simp] theorem State.setPort_partition (s : State) (i j : Nat) v : (s.setPort i v).partition j = s.partition j := rfl
@[simp] theorem State.setPort_dieStatus (s : State) (i j : Nat) v : (s.setPort i v).dieStatus j = s.dieStatus j := rfl
@[simp] theorem State.setPort_spares (s : State) (i j : Nat) v : (s.setPort i v).spares j = s.spares j := rfl

/-! What `setStop` leaves alone. -/

@[simp] theorem State.setStop_mem (s : State) (i : Nat) v : (s.setStop i v).mem = s.mem := rfl
@[simp] theorem State.setStop_hub (s : State) (i : Nat) v : (s.setStop i v).hub = s.hub := rfl
@[simp] theorem State.setStop_mgmt (s : State) (i : Nat) v : (s.setStop i v).mgmt = s.mgmt := rfl
@[simp] theorem State.setStop_now (s : State) (i : Nat) v : (s.setStop i v).now = s.now := rfl
@[simp] theorem State.setStop_free (s : State) (i : Nat) v : (s.setStop i v).free = s.free := rfl
@[simp] theorem State.setStop_pending (s : State) (i : Nat) v : (s.setStop i v).pending = s.pending := rfl
@[simp] theorem State.setStop_fab_harts (s : State) (i : Nat) v : (s.setStop i v).fab.harts = s.fab.harts := rfl
@[simp] theorem State.setStop_fab_cores (s : State) (i : Nat) v : (s.setStop i v).fab.cores = s.fab.cores := rfl
@[simp] theorem State.setStop_fab_dies (s : State) (i : Nat) v : (s.setStop i v).fab.dies = s.fab.dies := rfl
@[simp] theorem State.setStop_fab_ports (s : State) (i : Nat) v : (s.setStop i v).fab.ports = s.fab.ports := rfl
@[simp] theorem State.setStop_fab_homes (s : State) (i : Nat) v : (s.setStop i v).fab.homes = s.fab.homes := rfl
@[simp] theorem State.setStop_fab_net (s : State) (i : Nat) v : (s.setStop i v).fab.net = s.fab.net := rfl
@[simp] theorem State.setStop_fab_ioReqs (s : State) (i : Nat) v : (s.setStop i v).fab.ioReqs = s.fab.ioReqs := rfl
@[simp] theorem State.setStop_fab_msis (s : State) (i : Nat) v : (s.setStop i v).fab.msis = s.fab.msis := rfl
@[simp] theorem State.setStop_fab_ioAnswers (s : State) (i : Nat) v : (s.setStop i v).fab.ioAnswers = s.fab.ioAnswers := rfl
@[simp] theorem State.setStop_fab_crossings (s : State) (i : Nat) v : (s.setStop i v).fab.crossings = s.fab.crossings := rfl
@[simp] theorem State.setStop_fab_mordantIo (s : State) (i : Nat) v : (s.setStop i v).fab.mordantIo = s.fab.mordantIo := rfl
@[simp] theorem State.setStop_fab_onRing (s : State) (i : Nat) v : (s.setStop i v).fab.onRing = s.fab.onRing := rfl
@[simp] theorem State.setStop_fab_launched (s : State) (i : Nat) v : (s.setStop i v).fab.launched = s.fab.launched := rfl
@[simp] theorem State.setStop_fab_drops (s : State) (i : Nat) v : (s.setStop i v).fab.drops = s.fab.drops := rfl
@[simp] theorem State.setStop_hart (s : State) (i j : Nat) v : (s.setStop i v).hart j = s.hart j := rfl
@[simp] theorem State.setStop_core (s : State) (i j : Nat) v : (s.setStop i v).core j = s.core j := rfl
@[simp] theorem State.setStop_die (s : State) (i j : Nat) v : (s.setStop i v).die j = s.die j := rfl
@[simp] theorem State.setStop_port (s : State) (i j : Nat) v : (s.setStop i v).port j = s.port j := rfl
@[simp] theorem State.setStop_crossing (s : State) (i j : Nat) v : (s.setStop i v).crossing j = s.crossing j := rfl
@[simp] theorem State.setStop_home (s : State) (i j : Nat) v : (s.setStop i v).home j = s.home j := rfl
@[simp] theorem State.setStop_drop (s : State) (i j : Nat) v : (s.setStop i v).drop j = s.drop j := rfl
@[simp] theorem State.setStop_granule (s : State) (i j : Nat) v : (s.setStop i v).granule j = s.granule j := rfl
@[simp] theorem State.setStop_mapErr (s : State) (i j : Nat) v : (s.setStop i v).mapErr j = s.mapErr j := rfl
@[simp] theorem State.setStop_row (s : State) (i j : Nat) v : (s.setStop i v).row j = s.row j := rfl
@[simp] theorem State.setStop_channel (s : State) (i j : Nat) v : (s.setStop i v).channel j = s.channel j := rfl
@[simp] theorem State.setStop_forget (s : State) (i j : Nat) v : (s.setStop i v).forget j = s.forget j := rfl
@[simp] theorem State.setStop_patrolAt (s : State) (i j : Nat) v : (s.setStop i v).patrolAt j = s.patrolAt j := rfl
@[simp] theorem State.setStop_slotsUsed (s : State) (i j : Nat) v : (s.setStop i v).slotsUsed j = s.slotsUsed j := rfl
@[simp] theorem State.setStop_hueSt (s : State) (i j : Nat) v : (s.setStop i v).hueSt j = s.hueSt j := rfl
@[simp] theorem State.setStop_file (s : State) (i j : Nat) v : (s.setStop i v).file j = s.file j := rfl
@[simp] theorem State.setStop_aplic (s : State) (i j : Nat) v : (s.setStop i v).aplic j = s.aplic j := rfl
@[simp] theorem State.setStop_meter (s : State) (i j : Nat) v : (s.setStop i v).meter j = s.meter j := rfl
@[simp] theorem State.setStop_occ (s : State) (i j : Nat) v : (s.setStop i v).occ j = s.occ j := rfl
@[simp] theorem State.setStop_slice (s : State) (i j : Nat) v : (s.setStop i v).slice j = s.slice j := rfl
@[simp] theorem State.setStop_cell (s : State) (i j : Nat) v : (s.setStop i v).cell j = s.cell j := rfl
@[simp] theorem State.setStop_rootPort (s : State) (i j : Nat) v : (s.setStop i v).rootPort j = s.rootPort j := rfl
@[simp] theorem State.setStop_cxlMem (s : State) (i j : Nat) v : (s.setStop i v).cxlMem j = s.cxlMem j := rfl
@[simp] theorem State.setStop_filterAt (s : State) (i j : Nat) v : (s.setStop i v).filterAt j = s.filterAt j := rfl
@[simp] theorem State.setStop_iommu (s : State) (i j : Nat) v : (s.setStop i v).iommu j = s.iommu j := rfl
@[simp] theorem State.setStop_mbx (s : State) (i j : Nat) v : (s.setStop i v).mbx j = s.mbx j := rfl
@[simp] theorem State.setStop_uncUnit (s : State) (i j : Nat) v : (s.setStop i v).uncUnit j = s.uncUnit j := rfl
@[simp] theorem State.setStop_dieCfg (s : State) (i j : Nat) v : (s.setStop i v).dieCfg j = s.dieCfg j := rfl
@[simp] theorem State.setStop_rail (s : State) (i j : Nat) v : (s.setStop i v).rail j = s.rail j := rfl
@[simp] theorem State.setStop_cascLink (s : State) (i j : Nat) v : (s.setStop i v).cascLink j = s.cascLink j := rfl
@[simp] theorem State.setStop_partition (s : State) (i j : Nat) v : (s.setStop i v).partition j = s.partition j := rfl
@[simp] theorem State.setStop_dieStatus (s : State) (i j : Nat) v : (s.setStop i v).dieStatus j = s.dieStatus j := rfl
@[simp] theorem State.setStop_spares (s : State) (i j : Nat) v : (s.setStop i v).spares j = s.spares j := rfl

/-! What `setCrossing` leaves alone. -/

@[simp] theorem State.setCrossing_mem (s : State) (i : Nat) v : (s.setCrossing i v).mem = s.mem := rfl
@[simp] theorem State.setCrossing_hub (s : State) (i : Nat) v : (s.setCrossing i v).hub = s.hub := rfl
@[simp] theorem State.setCrossing_mgmt (s : State) (i : Nat) v : (s.setCrossing i v).mgmt = s.mgmt := rfl
@[simp] theorem State.setCrossing_now (s : State) (i : Nat) v : (s.setCrossing i v).now = s.now := rfl
@[simp] theorem State.setCrossing_free (s : State) (i : Nat) v : (s.setCrossing i v).free = s.free := rfl
@[simp] theorem State.setCrossing_pending (s : State) (i : Nat) v : (s.setCrossing i v).pending = s.pending := rfl
@[simp] theorem State.setCrossing_fab_harts (s : State) (i : Nat) v : (s.setCrossing i v).fab.harts = s.fab.harts := rfl
@[simp] theorem State.setCrossing_fab_cores (s : State) (i : Nat) v : (s.setCrossing i v).fab.cores = s.fab.cores := rfl
@[simp] theorem State.setCrossing_fab_dies (s : State) (i : Nat) v : (s.setCrossing i v).fab.dies = s.fab.dies := rfl
@[simp] theorem State.setCrossing_fab_ports (s : State) (i : Nat) v : (s.setCrossing i v).fab.ports = s.fab.ports := rfl
@[simp] theorem State.setCrossing_fab_stops (s : State) (i : Nat) v : (s.setCrossing i v).fab.stops = s.fab.stops := rfl
@[simp] theorem State.setCrossing_fab_homes (s : State) (i : Nat) v : (s.setCrossing i v).fab.homes = s.fab.homes := rfl
@[simp] theorem State.setCrossing_fab_net (s : State) (i : Nat) v : (s.setCrossing i v).fab.net = s.fab.net := rfl
@[simp] theorem State.setCrossing_fab_ioReqs (s : State) (i : Nat) v : (s.setCrossing i v).fab.ioReqs = s.fab.ioReqs := rfl
@[simp] theorem State.setCrossing_fab_msis (s : State) (i : Nat) v : (s.setCrossing i v).fab.msis = s.fab.msis := rfl
@[simp] theorem State.setCrossing_fab_ioAnswers (s : State) (i : Nat) v : (s.setCrossing i v).fab.ioAnswers = s.fab.ioAnswers := rfl
@[simp] theorem State.setCrossing_fab_mordantIo (s : State) (i : Nat) v : (s.setCrossing i v).fab.mordantIo = s.fab.mordantIo := rfl
@[simp] theorem State.setCrossing_fab_onRing (s : State) (i : Nat) v : (s.setCrossing i v).fab.onRing = s.fab.onRing := rfl
@[simp] theorem State.setCrossing_fab_launched (s : State) (i : Nat) v : (s.setCrossing i v).fab.launched = s.fab.launched := rfl
@[simp] theorem State.setCrossing_fab_drops (s : State) (i : Nat) v : (s.setCrossing i v).fab.drops = s.fab.drops := rfl
@[simp] theorem State.setCrossing_hart (s : State) (i j : Nat) v : (s.setCrossing i v).hart j = s.hart j := rfl
@[simp] theorem State.setCrossing_core (s : State) (i j : Nat) v : (s.setCrossing i v).core j = s.core j := rfl
@[simp] theorem State.setCrossing_die (s : State) (i j : Nat) v : (s.setCrossing i v).die j = s.die j := rfl
@[simp] theorem State.setCrossing_port (s : State) (i j : Nat) v : (s.setCrossing i v).port j = s.port j := rfl
@[simp] theorem State.setCrossing_stop (s : State) (i j : Nat) v : (s.setCrossing i v).stop j = s.stop j := rfl
@[simp] theorem State.setCrossing_home (s : State) (i j : Nat) v : (s.setCrossing i v).home j = s.home j := rfl
@[simp] theorem State.setCrossing_drop (s : State) (i j : Nat) v : (s.setCrossing i v).drop j = s.drop j := rfl
@[simp] theorem State.setCrossing_granule (s : State) (i j : Nat) v : (s.setCrossing i v).granule j = s.granule j := rfl
@[simp] theorem State.setCrossing_mapErr (s : State) (i j : Nat) v : (s.setCrossing i v).mapErr j = s.mapErr j := rfl
@[simp] theorem State.setCrossing_row (s : State) (i j : Nat) v : (s.setCrossing i v).row j = s.row j := rfl
@[simp] theorem State.setCrossing_channel (s : State) (i j : Nat) v : (s.setCrossing i v).channel j = s.channel j := rfl
@[simp] theorem State.setCrossing_forget (s : State) (i j : Nat) v : (s.setCrossing i v).forget j = s.forget j := rfl
@[simp] theorem State.setCrossing_patrolAt (s : State) (i j : Nat) v : (s.setCrossing i v).patrolAt j = s.patrolAt j := rfl
@[simp] theorem State.setCrossing_slotsUsed (s : State) (i j : Nat) v : (s.setCrossing i v).slotsUsed j = s.slotsUsed j := rfl
@[simp] theorem State.setCrossing_hueSt (s : State) (i j : Nat) v : (s.setCrossing i v).hueSt j = s.hueSt j := rfl
@[simp] theorem State.setCrossing_file (s : State) (i j : Nat) v : (s.setCrossing i v).file j = s.file j := rfl
@[simp] theorem State.setCrossing_aplic (s : State) (i j : Nat) v : (s.setCrossing i v).aplic j = s.aplic j := rfl
@[simp] theorem State.setCrossing_meter (s : State) (i j : Nat) v : (s.setCrossing i v).meter j = s.meter j := rfl
@[simp] theorem State.setCrossing_occ (s : State) (i j : Nat) v : (s.setCrossing i v).occ j = s.occ j := rfl
@[simp] theorem State.setCrossing_slice (s : State) (i j : Nat) v : (s.setCrossing i v).slice j = s.slice j := rfl
@[simp] theorem State.setCrossing_cell (s : State) (i j : Nat) v : (s.setCrossing i v).cell j = s.cell j := rfl
@[simp] theorem State.setCrossing_rootPort (s : State) (i j : Nat) v : (s.setCrossing i v).rootPort j = s.rootPort j := rfl
@[simp] theorem State.setCrossing_cxlMem (s : State) (i j : Nat) v : (s.setCrossing i v).cxlMem j = s.cxlMem j := rfl
@[simp] theorem State.setCrossing_filterAt (s : State) (i j : Nat) v : (s.setCrossing i v).filterAt j = s.filterAt j := rfl
@[simp] theorem State.setCrossing_iommu (s : State) (i j : Nat) v : (s.setCrossing i v).iommu j = s.iommu j := rfl
@[simp] theorem State.setCrossing_mbx (s : State) (i j : Nat) v : (s.setCrossing i v).mbx j = s.mbx j := rfl
@[simp] theorem State.setCrossing_uncUnit (s : State) (i j : Nat) v : (s.setCrossing i v).uncUnit j = s.uncUnit j := rfl
@[simp] theorem State.setCrossing_dieCfg (s : State) (i j : Nat) v : (s.setCrossing i v).dieCfg j = s.dieCfg j := rfl
@[simp] theorem State.setCrossing_rail (s : State) (i j : Nat) v : (s.setCrossing i v).rail j = s.rail j := rfl
@[simp] theorem State.setCrossing_cascLink (s : State) (i j : Nat) v : (s.setCrossing i v).cascLink j = s.cascLink j := rfl
@[simp] theorem State.setCrossing_partition (s : State) (i j : Nat) v : (s.setCrossing i v).partition j = s.partition j := rfl
@[simp] theorem State.setCrossing_dieStatus (s : State) (i j : Nat) v : (s.setCrossing i v).dieStatus j = s.dieStatus j := rfl
@[simp] theorem State.setCrossing_spares (s : State) (i j : Nat) v : (s.setCrossing i v).spares j = s.spares j := rfl

/-! What `setHome` leaves alone. -/

@[simp] theorem State.setHome_mem (s : State) (i : Nat) v : (s.setHome i v).mem = s.mem := rfl
@[simp] theorem State.setHome_hub (s : State) (i : Nat) v : (s.setHome i v).hub = s.hub := rfl
@[simp] theorem State.setHome_mgmt (s : State) (i : Nat) v : (s.setHome i v).mgmt = s.mgmt := rfl
@[simp] theorem State.setHome_now (s : State) (i : Nat) v : (s.setHome i v).now = s.now := rfl
@[simp] theorem State.setHome_free (s : State) (i : Nat) v : (s.setHome i v).free = s.free := rfl
@[simp] theorem State.setHome_pending (s : State) (i : Nat) v : (s.setHome i v).pending = s.pending := rfl
@[simp] theorem State.setHome_fab_harts (s : State) (i : Nat) v : (s.setHome i v).fab.harts = s.fab.harts := rfl
@[simp] theorem State.setHome_fab_cores (s : State) (i : Nat) v : (s.setHome i v).fab.cores = s.fab.cores := rfl
@[simp] theorem State.setHome_fab_dies (s : State) (i : Nat) v : (s.setHome i v).fab.dies = s.fab.dies := rfl
@[simp] theorem State.setHome_fab_ports (s : State) (i : Nat) v : (s.setHome i v).fab.ports = s.fab.ports := rfl
@[simp] theorem State.setHome_fab_stops (s : State) (i : Nat) v : (s.setHome i v).fab.stops = s.fab.stops := rfl
@[simp] theorem State.setHome_fab_net (s : State) (i : Nat) v : (s.setHome i v).fab.net = s.fab.net := rfl
@[simp] theorem State.setHome_fab_ioReqs (s : State) (i : Nat) v : (s.setHome i v).fab.ioReqs = s.fab.ioReqs := rfl
@[simp] theorem State.setHome_fab_msis (s : State) (i : Nat) v : (s.setHome i v).fab.msis = s.fab.msis := rfl
@[simp] theorem State.setHome_fab_ioAnswers (s : State) (i : Nat) v : (s.setHome i v).fab.ioAnswers = s.fab.ioAnswers := rfl
@[simp] theorem State.setHome_fab_crossings (s : State) (i : Nat) v : (s.setHome i v).fab.crossings = s.fab.crossings := rfl
@[simp] theorem State.setHome_fab_mordantIo (s : State) (i : Nat) v : (s.setHome i v).fab.mordantIo = s.fab.mordantIo := rfl
@[simp] theorem State.setHome_fab_onRing (s : State) (i : Nat) v : (s.setHome i v).fab.onRing = s.fab.onRing := rfl
@[simp] theorem State.setHome_fab_launched (s : State) (i : Nat) v : (s.setHome i v).fab.launched = s.fab.launched := rfl
@[simp] theorem State.setHome_fab_drops (s : State) (i : Nat) v : (s.setHome i v).fab.drops = s.fab.drops := rfl
@[simp] theorem State.setHome_hart (s : State) (i j : Nat) v : (s.setHome i v).hart j = s.hart j := rfl
@[simp] theorem State.setHome_core (s : State) (i j : Nat) v : (s.setHome i v).core j = s.core j := rfl
@[simp] theorem State.setHome_die (s : State) (i j : Nat) v : (s.setHome i v).die j = s.die j := rfl
@[simp] theorem State.setHome_port (s : State) (i j : Nat) v : (s.setHome i v).port j = s.port j := rfl
@[simp] theorem State.setHome_stop (s : State) (i j : Nat) v : (s.setHome i v).stop j = s.stop j := rfl
@[simp] theorem State.setHome_crossing (s : State) (i j : Nat) v : (s.setHome i v).crossing j = s.crossing j := rfl
@[simp] theorem State.setHome_drop (s : State) (i j : Nat) v : (s.setHome i v).drop j = s.drop j := rfl
@[simp] theorem State.setHome_granule (s : State) (i j : Nat) v : (s.setHome i v).granule j = s.granule j := rfl
@[simp] theorem State.setHome_mapErr (s : State) (i j : Nat) v : (s.setHome i v).mapErr j = s.mapErr j := rfl
@[simp] theorem State.setHome_row (s : State) (i j : Nat) v : (s.setHome i v).row j = s.row j := rfl
@[simp] theorem State.setHome_channel (s : State) (i j : Nat) v : (s.setHome i v).channel j = s.channel j := rfl
@[simp] theorem State.setHome_forget (s : State) (i j : Nat) v : (s.setHome i v).forget j = s.forget j := rfl
@[simp] theorem State.setHome_patrolAt (s : State) (i j : Nat) v : (s.setHome i v).patrolAt j = s.patrolAt j := rfl
@[simp] theorem State.setHome_slotsUsed (s : State) (i j : Nat) v : (s.setHome i v).slotsUsed j = s.slotsUsed j := rfl
@[simp] theorem State.setHome_hueSt (s : State) (i j : Nat) v : (s.setHome i v).hueSt j = s.hueSt j := rfl
@[simp] theorem State.setHome_file (s : State) (i j : Nat) v : (s.setHome i v).file j = s.file j := rfl
@[simp] theorem State.setHome_aplic (s : State) (i j : Nat) v : (s.setHome i v).aplic j = s.aplic j := rfl
@[simp] theorem State.setHome_meter (s : State) (i j : Nat) v : (s.setHome i v).meter j = s.meter j := rfl
@[simp] theorem State.setHome_occ (s : State) (i j : Nat) v : (s.setHome i v).occ j = s.occ j := rfl
@[simp] theorem State.setHome_slice (s : State) (i j : Nat) v : (s.setHome i v).slice j = s.slice j := rfl
@[simp] theorem State.setHome_cell (s : State) (i j : Nat) v : (s.setHome i v).cell j = s.cell j := rfl
@[simp] theorem State.setHome_rootPort (s : State) (i j : Nat) v : (s.setHome i v).rootPort j = s.rootPort j := rfl
@[simp] theorem State.setHome_cxlMem (s : State) (i j : Nat) v : (s.setHome i v).cxlMem j = s.cxlMem j := rfl
@[simp] theorem State.setHome_filterAt (s : State) (i j : Nat) v : (s.setHome i v).filterAt j = s.filterAt j := rfl
@[simp] theorem State.setHome_iommu (s : State) (i j : Nat) v : (s.setHome i v).iommu j = s.iommu j := rfl
@[simp] theorem State.setHome_mbx (s : State) (i j : Nat) v : (s.setHome i v).mbx j = s.mbx j := rfl
@[simp] theorem State.setHome_uncUnit (s : State) (i j : Nat) v : (s.setHome i v).uncUnit j = s.uncUnit j := rfl
@[simp] theorem State.setHome_dieCfg (s : State) (i j : Nat) v : (s.setHome i v).dieCfg j = s.dieCfg j := rfl
@[simp] theorem State.setHome_rail (s : State) (i j : Nat) v : (s.setHome i v).rail j = s.rail j := rfl
@[simp] theorem State.setHome_cascLink (s : State) (i j : Nat) v : (s.setHome i v).cascLink j = s.cascLink j := rfl
@[simp] theorem State.setHome_partition (s : State) (i j : Nat) v : (s.setHome i v).partition j = s.partition j := rfl
@[simp] theorem State.setHome_dieStatus (s : State) (i j : Nat) v : (s.setHome i v).dieStatus j = s.dieStatus j := rfl
@[simp] theorem State.setHome_spares (s : State) (i j : Nat) v : (s.setHome i v).spares j = s.spares j := rfl

/-! What `setDrop` leaves alone. -/

@[simp] theorem State.setDrop_mem (s : State) (i : Nat) v : (s.setDrop i v).mem = s.mem := rfl
@[simp] theorem State.setDrop_hub (s : State) (i : Nat) v : (s.setDrop i v).hub = s.hub := rfl
@[simp] theorem State.setDrop_mgmt (s : State) (i : Nat) v : (s.setDrop i v).mgmt = s.mgmt := rfl
@[simp] theorem State.setDrop_now (s : State) (i : Nat) v : (s.setDrop i v).now = s.now := rfl
@[simp] theorem State.setDrop_free (s : State) (i : Nat) v : (s.setDrop i v).free = s.free := rfl
@[simp] theorem State.setDrop_pending (s : State) (i : Nat) v : (s.setDrop i v).pending = s.pending := rfl
@[simp] theorem State.setDrop_fab_harts (s : State) (i : Nat) v : (s.setDrop i v).fab.harts = s.fab.harts := rfl
@[simp] theorem State.setDrop_fab_cores (s : State) (i : Nat) v : (s.setDrop i v).fab.cores = s.fab.cores := rfl
@[simp] theorem State.setDrop_fab_dies (s : State) (i : Nat) v : (s.setDrop i v).fab.dies = s.fab.dies := rfl
@[simp] theorem State.setDrop_fab_ports (s : State) (i : Nat) v : (s.setDrop i v).fab.ports = s.fab.ports := rfl
@[simp] theorem State.setDrop_fab_stops (s : State) (i : Nat) v : (s.setDrop i v).fab.stops = s.fab.stops := rfl
@[simp] theorem State.setDrop_fab_homes (s : State) (i : Nat) v : (s.setDrop i v).fab.homes = s.fab.homes := rfl
@[simp] theorem State.setDrop_fab_net (s : State) (i : Nat) v : (s.setDrop i v).fab.net = s.fab.net := rfl
@[simp] theorem State.setDrop_fab_ioReqs (s : State) (i : Nat) v : (s.setDrop i v).fab.ioReqs = s.fab.ioReqs := rfl
@[simp] theorem State.setDrop_fab_msis (s : State) (i : Nat) v : (s.setDrop i v).fab.msis = s.fab.msis := rfl
@[simp] theorem State.setDrop_fab_ioAnswers (s : State) (i : Nat) v : (s.setDrop i v).fab.ioAnswers = s.fab.ioAnswers := rfl
@[simp] theorem State.setDrop_fab_crossings (s : State) (i : Nat) v : (s.setDrop i v).fab.crossings = s.fab.crossings := rfl
@[simp] theorem State.setDrop_fab_mordantIo (s : State) (i : Nat) v : (s.setDrop i v).fab.mordantIo = s.fab.mordantIo := rfl
@[simp] theorem State.setDrop_fab_onRing (s : State) (i : Nat) v : (s.setDrop i v).fab.onRing = s.fab.onRing := rfl
@[simp] theorem State.setDrop_fab_launched (s : State) (i : Nat) v : (s.setDrop i v).fab.launched = s.fab.launched := rfl
@[simp] theorem State.setDrop_hart (s : State) (i j : Nat) v : (s.setDrop i v).hart j = s.hart j := rfl
@[simp] theorem State.setDrop_core (s : State) (i j : Nat) v : (s.setDrop i v).core j = s.core j := rfl
@[simp] theorem State.setDrop_die (s : State) (i j : Nat) v : (s.setDrop i v).die j = s.die j := rfl
@[simp] theorem State.setDrop_port (s : State) (i j : Nat) v : (s.setDrop i v).port j = s.port j := rfl
@[simp] theorem State.setDrop_stop (s : State) (i j : Nat) v : (s.setDrop i v).stop j = s.stop j := rfl
@[simp] theorem State.setDrop_crossing (s : State) (i j : Nat) v : (s.setDrop i v).crossing j = s.crossing j := rfl
@[simp] theorem State.setDrop_home (s : State) (i j : Nat) v : (s.setDrop i v).home j = s.home j := rfl
@[simp] theorem State.setDrop_granule (s : State) (i j : Nat) v : (s.setDrop i v).granule j = s.granule j := rfl
@[simp] theorem State.setDrop_mapErr (s : State) (i j : Nat) v : (s.setDrop i v).mapErr j = s.mapErr j := rfl
@[simp] theorem State.setDrop_row (s : State) (i j : Nat) v : (s.setDrop i v).row j = s.row j := rfl
@[simp] theorem State.setDrop_channel (s : State) (i j : Nat) v : (s.setDrop i v).channel j = s.channel j := rfl
@[simp] theorem State.setDrop_forget (s : State) (i j : Nat) v : (s.setDrop i v).forget j = s.forget j := rfl
@[simp] theorem State.setDrop_patrolAt (s : State) (i j : Nat) v : (s.setDrop i v).patrolAt j = s.patrolAt j := rfl
@[simp] theorem State.setDrop_slotsUsed (s : State) (i j : Nat) v : (s.setDrop i v).slotsUsed j = s.slotsUsed j := rfl
@[simp] theorem State.setDrop_hueSt (s : State) (i j : Nat) v : (s.setDrop i v).hueSt j = s.hueSt j := rfl
@[simp] theorem State.setDrop_file (s : State) (i j : Nat) v : (s.setDrop i v).file j = s.file j := rfl
@[simp] theorem State.setDrop_aplic (s : State) (i j : Nat) v : (s.setDrop i v).aplic j = s.aplic j := rfl
@[simp] theorem State.setDrop_meter (s : State) (i j : Nat) v : (s.setDrop i v).meter j = s.meter j := rfl
@[simp] theorem State.setDrop_occ (s : State) (i j : Nat) v : (s.setDrop i v).occ j = s.occ j := rfl
@[simp] theorem State.setDrop_slice (s : State) (i j : Nat) v : (s.setDrop i v).slice j = s.slice j := rfl
@[simp] theorem State.setDrop_cell (s : State) (i j : Nat) v : (s.setDrop i v).cell j = s.cell j := rfl
@[simp] theorem State.setDrop_rootPort (s : State) (i j : Nat) v : (s.setDrop i v).rootPort j = s.rootPort j := rfl
@[simp] theorem State.setDrop_cxlMem (s : State) (i j : Nat) v : (s.setDrop i v).cxlMem j = s.cxlMem j := rfl
@[simp] theorem State.setDrop_filterAt (s : State) (i j : Nat) v : (s.setDrop i v).filterAt j = s.filterAt j := rfl
@[simp] theorem State.setDrop_iommu (s : State) (i j : Nat) v : (s.setDrop i v).iommu j = s.iommu j := rfl
@[simp] theorem State.setDrop_mbx (s : State) (i j : Nat) v : (s.setDrop i v).mbx j = s.mbx j := rfl
@[simp] theorem State.setDrop_uncUnit (s : State) (i j : Nat) v : (s.setDrop i v).uncUnit j = s.uncUnit j := rfl
@[simp] theorem State.setDrop_dieCfg (s : State) (i j : Nat) v : (s.setDrop i v).dieCfg j = s.dieCfg j := rfl
@[simp] theorem State.setDrop_rail (s : State) (i j : Nat) v : (s.setDrop i v).rail j = s.rail j := rfl
@[simp] theorem State.setDrop_cascLink (s : State) (i j : Nat) v : (s.setDrop i v).cascLink j = s.cascLink j := rfl
@[simp] theorem State.setDrop_partition (s : State) (i j : Nat) v : (s.setDrop i v).partition j = s.partition j := rfl
@[simp] theorem State.setDrop_dieStatus (s : State) (i j : Nat) v : (s.setDrop i v).dieStatus j = s.dieStatus j := rfl
@[simp] theorem State.setDrop_spares (s : State) (i j : Nat) v : (s.setDrop i v).spares j = s.spares j := rfl

/-! What `setGranule` leaves alone. -/

@[simp] theorem State.setGranule_fab (s : State) (i : Nat) v : (s.setGranule i v).fab = s.fab := rfl
@[simp] theorem State.setGranule_hub (s : State) (i : Nat) v : (s.setGranule i v).hub = s.hub := rfl
@[simp] theorem State.setGranule_mgmt (s : State) (i : Nat) v : (s.setGranule i v).mgmt = s.mgmt := rfl
@[simp] theorem State.setGranule_now (s : State) (i : Nat) v : (s.setGranule i v).now = s.now := rfl
@[simp] theorem State.setGranule_free (s : State) (i : Nat) v : (s.setGranule i v).free = s.free := rfl
@[simp] theorem State.setGranule_pending (s : State) (i : Nat) v : (s.setGranule i v).pending = s.pending := rfl
@[simp] theorem State.setGranule_mem_reqs (s : State) (i : Nat) v : (s.setGranule i v).mem.reqs = s.mem.reqs := rfl
@[simp] theorem State.setGranule_mem_reads (s : State) (i : Nat) v : (s.setGranule i v).mem.reads = s.mem.reads := rfl
@[simp] theorem State.setGranule_mem_data (s : State) (i : Nat) v : (s.setGranule i v).mem.data = s.mem.data := rfl
@[simp] theorem State.setGranule_mem_check (s : State) (i : Nat) v : (s.setGranule i v).mem.check = s.mem.check := rfl
@[simp] theorem State.setGranule_mem_mapErrs (s : State) (i : Nat) v : (s.setGranule i v).mem.mapErrs = s.mem.mapErrs := rfl
@[simp] theorem State.setGranule_mem_fills (s : State) (i : Nat) v : (s.setGranule i v).mem.fills = s.mem.fills := rfl
@[simp] theorem State.setGranule_mem_rows (s : State) (i : Nat) v : (s.setGranule i v).mem.rows = s.mem.rows := rfl
@[simp] theorem State.setGranule_mem_repairs (s : State) (i : Nat) v : (s.setGranule i v).mem.repairs = s.mem.repairs := rfl
@[simp] theorem State.setGranule_mem_channels (s : State) (i : Nat) v : (s.setGranule i v).mem.channels = s.mem.channels := rfl
@[simp] theorem State.setGranule_mem_pcFailed (s : State) (i : Nat) v : (s.setGranule i v).mem.pcFailed = s.mem.pcFailed := rfl
@[simp] theorem State.setGranule_mem_window (s : State) (i : Nat) v : (s.setGranule i v).mem.window = s.mem.window := rfl
@[simp] theorem State.setGranule_mem_forget (s : State) (i : Nat) v : (s.setGranule i v).mem.forget = s.mem.forget := rfl
@[simp] theorem State.setGranule_mem_patrol (s : State) (i : Nat) v : (s.setGranule i v).mem.patrol = s.mem.patrol := rfl
@[simp] theorem State.setGranule_mem_slots (s : State) (i : Nat) v : (s.setGranule i v).mem.slots = s.mem.slots := rfl
@[simp] theorem State.setGranule_mem_noSnoop (s : State) (i : Nat) v : (s.setGranule i v).mem.noSnoop = s.mem.noSnoop := rfl
@[simp] theorem State.setGranule_hart (s : State) (i j : Nat) v : (s.setGranule i v).hart j = s.hart j := rfl
@[simp] theorem State.setGranule_core (s : State) (i j : Nat) v : (s.setGranule i v).core j = s.core j := rfl
@[simp] theorem State.setGranule_die (s : State) (i j : Nat) v : (s.setGranule i v).die j = s.die j := rfl
@[simp] theorem State.setGranule_port (s : State) (i j : Nat) v : (s.setGranule i v).port j = s.port j := rfl
@[simp] theorem State.setGranule_stop (s : State) (i j : Nat) v : (s.setGranule i v).stop j = s.stop j := rfl
@[simp] theorem State.setGranule_crossing (s : State) (i j : Nat) v : (s.setGranule i v).crossing j = s.crossing j := rfl
@[simp] theorem State.setGranule_home (s : State) (i j : Nat) v : (s.setGranule i v).home j = s.home j := rfl
@[simp] theorem State.setGranule_drop (s : State) (i j : Nat) v : (s.setGranule i v).drop j = s.drop j := rfl
@[simp] theorem State.setGranule_mapErr (s : State) (i j : Nat) v : (s.setGranule i v).mapErr j = s.mapErr j := rfl
@[simp] theorem State.setGranule_row (s : State) (i j : Nat) v : (s.setGranule i v).row j = s.row j := rfl
@[simp] theorem State.setGranule_channel (s : State) (i j : Nat) v : (s.setGranule i v).channel j = s.channel j := rfl
@[simp] theorem State.setGranule_forget (s : State) (i j : Nat) v : (s.setGranule i v).forget j = s.forget j := rfl
@[simp] theorem State.setGranule_patrolAt (s : State) (i j : Nat) v : (s.setGranule i v).patrolAt j = s.patrolAt j := rfl
@[simp] theorem State.setGranule_slotsUsed (s : State) (i j : Nat) v : (s.setGranule i v).slotsUsed j = s.slotsUsed j := rfl
@[simp] theorem State.setGranule_hueSt (s : State) (i j : Nat) v : (s.setGranule i v).hueSt j = s.hueSt j := rfl
@[simp] theorem State.setGranule_file (s : State) (i j : Nat) v : (s.setGranule i v).file j = s.file j := rfl
@[simp] theorem State.setGranule_aplic (s : State) (i j : Nat) v : (s.setGranule i v).aplic j = s.aplic j := rfl
@[simp] theorem State.setGranule_meter (s : State) (i j : Nat) v : (s.setGranule i v).meter j = s.meter j := rfl
@[simp] theorem State.setGranule_occ (s : State) (i j : Nat) v : (s.setGranule i v).occ j = s.occ j := rfl
@[simp] theorem State.setGranule_slice (s : State) (i j : Nat) v : (s.setGranule i v).slice j = s.slice j := rfl
@[simp] theorem State.setGranule_cell (s : State) (i j : Nat) v : (s.setGranule i v).cell j = s.cell j := rfl
@[simp] theorem State.setGranule_rootPort (s : State) (i j : Nat) v : (s.setGranule i v).rootPort j = s.rootPort j := rfl
@[simp] theorem State.setGranule_cxlMem (s : State) (i j : Nat) v : (s.setGranule i v).cxlMem j = s.cxlMem j := rfl
@[simp] theorem State.setGranule_filterAt (s : State) (i j : Nat) v : (s.setGranule i v).filterAt j = s.filterAt j := rfl
@[simp] theorem State.setGranule_iommu (s : State) (i j : Nat) v : (s.setGranule i v).iommu j = s.iommu j := rfl
@[simp] theorem State.setGranule_mbx (s : State) (i j : Nat) v : (s.setGranule i v).mbx j = s.mbx j := rfl
@[simp] theorem State.setGranule_uncUnit (s : State) (i j : Nat) v : (s.setGranule i v).uncUnit j = s.uncUnit j := rfl
@[simp] theorem State.setGranule_dieCfg (s : State) (i j : Nat) v : (s.setGranule i v).dieCfg j = s.dieCfg j := rfl
@[simp] theorem State.setGranule_rail (s : State) (i j : Nat) v : (s.setGranule i v).rail j = s.rail j := rfl
@[simp] theorem State.setGranule_cascLink (s : State) (i j : Nat) v : (s.setGranule i v).cascLink j = s.cascLink j := rfl
@[simp] theorem State.setGranule_partition (s : State) (i j : Nat) v : (s.setGranule i v).partition j = s.partition j := rfl
@[simp] theorem State.setGranule_dieStatus (s : State) (i j : Nat) v : (s.setGranule i v).dieStatus j = s.dieStatus j := rfl
@[simp] theorem State.setGranule_spares (s : State) (i j : Nat) v : (s.setGranule i v).spares j = s.spares j := rfl

/-! What `setMapErr` leaves alone. -/

@[simp] theorem State.setMapErr_fab (s : State) (i : Nat) v : (s.setMapErr i v).fab = s.fab := rfl
@[simp] theorem State.setMapErr_hub (s : State) (i : Nat) v : (s.setMapErr i v).hub = s.hub := rfl
@[simp] theorem State.setMapErr_mgmt (s : State) (i : Nat) v : (s.setMapErr i v).mgmt = s.mgmt := rfl
@[simp] theorem State.setMapErr_now (s : State) (i : Nat) v : (s.setMapErr i v).now = s.now := rfl
@[simp] theorem State.setMapErr_free (s : State) (i : Nat) v : (s.setMapErr i v).free = s.free := rfl
@[simp] theorem State.setMapErr_pending (s : State) (i : Nat) v : (s.setMapErr i v).pending = s.pending := rfl
@[simp] theorem State.setMapErr_mem_reqs (s : State) (i : Nat) v : (s.setMapErr i v).mem.reqs = s.mem.reqs := rfl
@[simp] theorem State.setMapErr_mem_reads (s : State) (i : Nat) v : (s.setMapErr i v).mem.reads = s.mem.reads := rfl
@[simp] theorem State.setMapErr_mem_data (s : State) (i : Nat) v : (s.setMapErr i v).mem.data = s.mem.data := rfl
@[simp] theorem State.setMapErr_mem_check (s : State) (i : Nat) v : (s.setMapErr i v).mem.check = s.mem.check := rfl
@[simp] theorem State.setMapErr_mem_granules (s : State) (i : Nat) v : (s.setMapErr i v).mem.granules = s.mem.granules := rfl
@[simp] theorem State.setMapErr_mem_fills (s : State) (i : Nat) v : (s.setMapErr i v).mem.fills = s.mem.fills := rfl
@[simp] theorem State.setMapErr_mem_rows (s : State) (i : Nat) v : (s.setMapErr i v).mem.rows = s.mem.rows := rfl
@[simp] theorem State.setMapErr_mem_repairs (s : State) (i : Nat) v : (s.setMapErr i v).mem.repairs = s.mem.repairs := rfl
@[simp] theorem State.setMapErr_mem_channels (s : State) (i : Nat) v : (s.setMapErr i v).mem.channels = s.mem.channels := rfl
@[simp] theorem State.setMapErr_mem_pcFailed (s : State) (i : Nat) v : (s.setMapErr i v).mem.pcFailed = s.mem.pcFailed := rfl
@[simp] theorem State.setMapErr_mem_window (s : State) (i : Nat) v : (s.setMapErr i v).mem.window = s.mem.window := rfl
@[simp] theorem State.setMapErr_mem_forget (s : State) (i : Nat) v : (s.setMapErr i v).mem.forget = s.mem.forget := rfl
@[simp] theorem State.setMapErr_mem_patrol (s : State) (i : Nat) v : (s.setMapErr i v).mem.patrol = s.mem.patrol := rfl
@[simp] theorem State.setMapErr_mem_slots (s : State) (i : Nat) v : (s.setMapErr i v).mem.slots = s.mem.slots := rfl
@[simp] theorem State.setMapErr_mem_noSnoop (s : State) (i : Nat) v : (s.setMapErr i v).mem.noSnoop = s.mem.noSnoop := rfl
@[simp] theorem State.setMapErr_hart (s : State) (i j : Nat) v : (s.setMapErr i v).hart j = s.hart j := rfl
@[simp] theorem State.setMapErr_core (s : State) (i j : Nat) v : (s.setMapErr i v).core j = s.core j := rfl
@[simp] theorem State.setMapErr_die (s : State) (i j : Nat) v : (s.setMapErr i v).die j = s.die j := rfl
@[simp] theorem State.setMapErr_port (s : State) (i j : Nat) v : (s.setMapErr i v).port j = s.port j := rfl
@[simp] theorem State.setMapErr_stop (s : State) (i j : Nat) v : (s.setMapErr i v).stop j = s.stop j := rfl
@[simp] theorem State.setMapErr_crossing (s : State) (i j : Nat) v : (s.setMapErr i v).crossing j = s.crossing j := rfl
@[simp] theorem State.setMapErr_home (s : State) (i j : Nat) v : (s.setMapErr i v).home j = s.home j := rfl
@[simp] theorem State.setMapErr_drop (s : State) (i j : Nat) v : (s.setMapErr i v).drop j = s.drop j := rfl
@[simp] theorem State.setMapErr_granule (s : State) (i j : Nat) v : (s.setMapErr i v).granule j = s.granule j := rfl
@[simp] theorem State.setMapErr_row (s : State) (i j : Nat) v : (s.setMapErr i v).row j = s.row j := rfl
@[simp] theorem State.setMapErr_channel (s : State) (i j : Nat) v : (s.setMapErr i v).channel j = s.channel j := rfl
@[simp] theorem State.setMapErr_forget (s : State) (i j : Nat) v : (s.setMapErr i v).forget j = s.forget j := rfl
@[simp] theorem State.setMapErr_patrolAt (s : State) (i j : Nat) v : (s.setMapErr i v).patrolAt j = s.patrolAt j := rfl
@[simp] theorem State.setMapErr_slotsUsed (s : State) (i j : Nat) v : (s.setMapErr i v).slotsUsed j = s.slotsUsed j := rfl
@[simp] theorem State.setMapErr_hueSt (s : State) (i j : Nat) v : (s.setMapErr i v).hueSt j = s.hueSt j := rfl
@[simp] theorem State.setMapErr_file (s : State) (i j : Nat) v : (s.setMapErr i v).file j = s.file j := rfl
@[simp] theorem State.setMapErr_aplic (s : State) (i j : Nat) v : (s.setMapErr i v).aplic j = s.aplic j := rfl
@[simp] theorem State.setMapErr_meter (s : State) (i j : Nat) v : (s.setMapErr i v).meter j = s.meter j := rfl
@[simp] theorem State.setMapErr_occ (s : State) (i j : Nat) v : (s.setMapErr i v).occ j = s.occ j := rfl
@[simp] theorem State.setMapErr_slice (s : State) (i j : Nat) v : (s.setMapErr i v).slice j = s.slice j := rfl
@[simp] theorem State.setMapErr_cell (s : State) (i j : Nat) v : (s.setMapErr i v).cell j = s.cell j := rfl
@[simp] theorem State.setMapErr_rootPort (s : State) (i j : Nat) v : (s.setMapErr i v).rootPort j = s.rootPort j := rfl
@[simp] theorem State.setMapErr_cxlMem (s : State) (i j : Nat) v : (s.setMapErr i v).cxlMem j = s.cxlMem j := rfl
@[simp] theorem State.setMapErr_filterAt (s : State) (i j : Nat) v : (s.setMapErr i v).filterAt j = s.filterAt j := rfl
@[simp] theorem State.setMapErr_iommu (s : State) (i j : Nat) v : (s.setMapErr i v).iommu j = s.iommu j := rfl
@[simp] theorem State.setMapErr_mbx (s : State) (i j : Nat) v : (s.setMapErr i v).mbx j = s.mbx j := rfl
@[simp] theorem State.setMapErr_uncUnit (s : State) (i j : Nat) v : (s.setMapErr i v).uncUnit j = s.uncUnit j := rfl
@[simp] theorem State.setMapErr_dieCfg (s : State) (i j : Nat) v : (s.setMapErr i v).dieCfg j = s.dieCfg j := rfl
@[simp] theorem State.setMapErr_rail (s : State) (i j : Nat) v : (s.setMapErr i v).rail j = s.rail j := rfl
@[simp] theorem State.setMapErr_cascLink (s : State) (i j : Nat) v : (s.setMapErr i v).cascLink j = s.cascLink j := rfl
@[simp] theorem State.setMapErr_partition (s : State) (i j : Nat) v : (s.setMapErr i v).partition j = s.partition j := rfl
@[simp] theorem State.setMapErr_dieStatus (s : State) (i j : Nat) v : (s.setMapErr i v).dieStatus j = s.dieStatus j := rfl
@[simp] theorem State.setMapErr_spares (s : State) (i j : Nat) v : (s.setMapErr i v).spares j = s.spares j := rfl

/-! What `setRow` leaves alone. -/

@[simp] theorem State.setRow_fab (s : State) (i : Nat) v : (s.setRow i v).fab = s.fab := rfl
@[simp] theorem State.setRow_hub (s : State) (i : Nat) v : (s.setRow i v).hub = s.hub := rfl
@[simp] theorem State.setRow_mgmt (s : State) (i : Nat) v : (s.setRow i v).mgmt = s.mgmt := rfl
@[simp] theorem State.setRow_now (s : State) (i : Nat) v : (s.setRow i v).now = s.now := rfl
@[simp] theorem State.setRow_free (s : State) (i : Nat) v : (s.setRow i v).free = s.free := rfl
@[simp] theorem State.setRow_pending (s : State) (i : Nat) v : (s.setRow i v).pending = s.pending := rfl
@[simp] theorem State.setRow_mem_reqs (s : State) (i : Nat) v : (s.setRow i v).mem.reqs = s.mem.reqs := rfl
@[simp] theorem State.setRow_mem_reads (s : State) (i : Nat) v : (s.setRow i v).mem.reads = s.mem.reads := rfl
@[simp] theorem State.setRow_mem_data (s : State) (i : Nat) v : (s.setRow i v).mem.data = s.mem.data := rfl
@[simp] theorem State.setRow_mem_check (s : State) (i : Nat) v : (s.setRow i v).mem.check = s.mem.check := rfl
@[simp] theorem State.setRow_mem_granules (s : State) (i : Nat) v : (s.setRow i v).mem.granules = s.mem.granules := rfl
@[simp] theorem State.setRow_mem_mapErrs (s : State) (i : Nat) v : (s.setRow i v).mem.mapErrs = s.mem.mapErrs := rfl
@[simp] theorem State.setRow_mem_fills (s : State) (i : Nat) v : (s.setRow i v).mem.fills = s.mem.fills := rfl
@[simp] theorem State.setRow_mem_repairs (s : State) (i : Nat) v : (s.setRow i v).mem.repairs = s.mem.repairs := rfl
@[simp] theorem State.setRow_mem_channels (s : State) (i : Nat) v : (s.setRow i v).mem.channels = s.mem.channels := rfl
@[simp] theorem State.setRow_mem_pcFailed (s : State) (i : Nat) v : (s.setRow i v).mem.pcFailed = s.mem.pcFailed := rfl
@[simp] theorem State.setRow_mem_window (s : State) (i : Nat) v : (s.setRow i v).mem.window = s.mem.window := rfl
@[simp] theorem State.setRow_mem_forget (s : State) (i : Nat) v : (s.setRow i v).mem.forget = s.mem.forget := rfl
@[simp] theorem State.setRow_mem_patrol (s : State) (i : Nat) v : (s.setRow i v).mem.patrol = s.mem.patrol := rfl
@[simp] theorem State.setRow_mem_slots (s : State) (i : Nat) v : (s.setRow i v).mem.slots = s.mem.slots := rfl
@[simp] theorem State.setRow_mem_noSnoop (s : State) (i : Nat) v : (s.setRow i v).mem.noSnoop = s.mem.noSnoop := rfl
@[simp] theorem State.setRow_hart (s : State) (i j : Nat) v : (s.setRow i v).hart j = s.hart j := rfl
@[simp] theorem State.setRow_core (s : State) (i j : Nat) v : (s.setRow i v).core j = s.core j := rfl
@[simp] theorem State.setRow_die (s : State) (i j : Nat) v : (s.setRow i v).die j = s.die j := rfl
@[simp] theorem State.setRow_port (s : State) (i j : Nat) v : (s.setRow i v).port j = s.port j := rfl
@[simp] theorem State.setRow_stop (s : State) (i j : Nat) v : (s.setRow i v).stop j = s.stop j := rfl
@[simp] theorem State.setRow_crossing (s : State) (i j : Nat) v : (s.setRow i v).crossing j = s.crossing j := rfl
@[simp] theorem State.setRow_home (s : State) (i j : Nat) v : (s.setRow i v).home j = s.home j := rfl
@[simp] theorem State.setRow_drop (s : State) (i j : Nat) v : (s.setRow i v).drop j = s.drop j := rfl
@[simp] theorem State.setRow_granule (s : State) (i j : Nat) v : (s.setRow i v).granule j = s.granule j := rfl
@[simp] theorem State.setRow_mapErr (s : State) (i j : Nat) v : (s.setRow i v).mapErr j = s.mapErr j := rfl
@[simp] theorem State.setRow_channel (s : State) (i j : Nat) v : (s.setRow i v).channel j = s.channel j := rfl
@[simp] theorem State.setRow_forget (s : State) (i j : Nat) v : (s.setRow i v).forget j = s.forget j := rfl
@[simp] theorem State.setRow_patrolAt (s : State) (i j : Nat) v : (s.setRow i v).patrolAt j = s.patrolAt j := rfl
@[simp] theorem State.setRow_slotsUsed (s : State) (i j : Nat) v : (s.setRow i v).slotsUsed j = s.slotsUsed j := rfl
@[simp] theorem State.setRow_hueSt (s : State) (i j : Nat) v : (s.setRow i v).hueSt j = s.hueSt j := rfl
@[simp] theorem State.setRow_file (s : State) (i j : Nat) v : (s.setRow i v).file j = s.file j := rfl
@[simp] theorem State.setRow_aplic (s : State) (i j : Nat) v : (s.setRow i v).aplic j = s.aplic j := rfl
@[simp] theorem State.setRow_meter (s : State) (i j : Nat) v : (s.setRow i v).meter j = s.meter j := rfl
@[simp] theorem State.setRow_occ (s : State) (i j : Nat) v : (s.setRow i v).occ j = s.occ j := rfl
@[simp] theorem State.setRow_slice (s : State) (i j : Nat) v : (s.setRow i v).slice j = s.slice j := rfl
@[simp] theorem State.setRow_cell (s : State) (i j : Nat) v : (s.setRow i v).cell j = s.cell j := rfl
@[simp] theorem State.setRow_rootPort (s : State) (i j : Nat) v : (s.setRow i v).rootPort j = s.rootPort j := rfl
@[simp] theorem State.setRow_cxlMem (s : State) (i j : Nat) v : (s.setRow i v).cxlMem j = s.cxlMem j := rfl
@[simp] theorem State.setRow_filterAt (s : State) (i j : Nat) v : (s.setRow i v).filterAt j = s.filterAt j := rfl
@[simp] theorem State.setRow_iommu (s : State) (i j : Nat) v : (s.setRow i v).iommu j = s.iommu j := rfl
@[simp] theorem State.setRow_mbx (s : State) (i j : Nat) v : (s.setRow i v).mbx j = s.mbx j := rfl
@[simp] theorem State.setRow_uncUnit (s : State) (i j : Nat) v : (s.setRow i v).uncUnit j = s.uncUnit j := rfl
@[simp] theorem State.setRow_dieCfg (s : State) (i j : Nat) v : (s.setRow i v).dieCfg j = s.dieCfg j := rfl
@[simp] theorem State.setRow_rail (s : State) (i j : Nat) v : (s.setRow i v).rail j = s.rail j := rfl
@[simp] theorem State.setRow_cascLink (s : State) (i j : Nat) v : (s.setRow i v).cascLink j = s.cascLink j := rfl
@[simp] theorem State.setRow_partition (s : State) (i j : Nat) v : (s.setRow i v).partition j = s.partition j := rfl
@[simp] theorem State.setRow_dieStatus (s : State) (i j : Nat) v : (s.setRow i v).dieStatus j = s.dieStatus j := rfl
@[simp] theorem State.setRow_spares (s : State) (i j : Nat) v : (s.setRow i v).spares j = s.spares j := rfl

/-! What `setChannel` leaves alone. -/

@[simp] theorem State.setChannel_fab (s : State) (i : Nat) v : (s.setChannel i v).fab = s.fab := rfl
@[simp] theorem State.setChannel_hub (s : State) (i : Nat) v : (s.setChannel i v).hub = s.hub := rfl
@[simp] theorem State.setChannel_mgmt (s : State) (i : Nat) v : (s.setChannel i v).mgmt = s.mgmt := rfl
@[simp] theorem State.setChannel_now (s : State) (i : Nat) v : (s.setChannel i v).now = s.now := rfl
@[simp] theorem State.setChannel_free (s : State) (i : Nat) v : (s.setChannel i v).free = s.free := rfl
@[simp] theorem State.setChannel_pending (s : State) (i : Nat) v : (s.setChannel i v).pending = s.pending := rfl
@[simp] theorem State.setChannel_mem_reqs (s : State) (i : Nat) v : (s.setChannel i v).mem.reqs = s.mem.reqs := rfl
@[simp] theorem State.setChannel_mem_reads (s : State) (i : Nat) v : (s.setChannel i v).mem.reads = s.mem.reads := rfl
@[simp] theorem State.setChannel_mem_data (s : State) (i : Nat) v : (s.setChannel i v).mem.data = s.mem.data := rfl
@[simp] theorem State.setChannel_mem_check (s : State) (i : Nat) v : (s.setChannel i v).mem.check = s.mem.check := rfl
@[simp] theorem State.setChannel_mem_granules (s : State) (i : Nat) v : (s.setChannel i v).mem.granules = s.mem.granules := rfl
@[simp] theorem State.setChannel_mem_mapErrs (s : State) (i : Nat) v : (s.setChannel i v).mem.mapErrs = s.mem.mapErrs := rfl
@[simp] theorem State.setChannel_mem_fills (s : State) (i : Nat) v : (s.setChannel i v).mem.fills = s.mem.fills := rfl
@[simp] theorem State.setChannel_mem_rows (s : State) (i : Nat) v : (s.setChannel i v).mem.rows = s.mem.rows := rfl
@[simp] theorem State.setChannel_mem_repairs (s : State) (i : Nat) v : (s.setChannel i v).mem.repairs = s.mem.repairs := rfl
@[simp] theorem State.setChannel_mem_pcFailed (s : State) (i : Nat) v : (s.setChannel i v).mem.pcFailed = s.mem.pcFailed := rfl
@[simp] theorem State.setChannel_mem_window (s : State) (i : Nat) v : (s.setChannel i v).mem.window = s.mem.window := rfl
@[simp] theorem State.setChannel_mem_forget (s : State) (i : Nat) v : (s.setChannel i v).mem.forget = s.mem.forget := rfl
@[simp] theorem State.setChannel_mem_patrol (s : State) (i : Nat) v : (s.setChannel i v).mem.patrol = s.mem.patrol := rfl
@[simp] theorem State.setChannel_mem_slots (s : State) (i : Nat) v : (s.setChannel i v).mem.slots = s.mem.slots := rfl
@[simp] theorem State.setChannel_mem_noSnoop (s : State) (i : Nat) v : (s.setChannel i v).mem.noSnoop = s.mem.noSnoop := rfl
@[simp] theorem State.setChannel_hart (s : State) (i j : Nat) v : (s.setChannel i v).hart j = s.hart j := rfl
@[simp] theorem State.setChannel_core (s : State) (i j : Nat) v : (s.setChannel i v).core j = s.core j := rfl
@[simp] theorem State.setChannel_die (s : State) (i j : Nat) v : (s.setChannel i v).die j = s.die j := rfl
@[simp] theorem State.setChannel_port (s : State) (i j : Nat) v : (s.setChannel i v).port j = s.port j := rfl
@[simp] theorem State.setChannel_stop (s : State) (i j : Nat) v : (s.setChannel i v).stop j = s.stop j := rfl
@[simp] theorem State.setChannel_crossing (s : State) (i j : Nat) v : (s.setChannel i v).crossing j = s.crossing j := rfl
@[simp] theorem State.setChannel_home (s : State) (i j : Nat) v : (s.setChannel i v).home j = s.home j := rfl
@[simp] theorem State.setChannel_drop (s : State) (i j : Nat) v : (s.setChannel i v).drop j = s.drop j := rfl
@[simp] theorem State.setChannel_granule (s : State) (i j : Nat) v : (s.setChannel i v).granule j = s.granule j := rfl
@[simp] theorem State.setChannel_mapErr (s : State) (i j : Nat) v : (s.setChannel i v).mapErr j = s.mapErr j := rfl
@[simp] theorem State.setChannel_row (s : State) (i j : Nat) v : (s.setChannel i v).row j = s.row j := rfl
@[simp] theorem State.setChannel_forget (s : State) (i j : Nat) v : (s.setChannel i v).forget j = s.forget j := rfl
@[simp] theorem State.setChannel_patrolAt (s : State) (i j : Nat) v : (s.setChannel i v).patrolAt j = s.patrolAt j := rfl
@[simp] theorem State.setChannel_slotsUsed (s : State) (i j : Nat) v : (s.setChannel i v).slotsUsed j = s.slotsUsed j := rfl
@[simp] theorem State.setChannel_hueSt (s : State) (i j : Nat) v : (s.setChannel i v).hueSt j = s.hueSt j := rfl
@[simp] theorem State.setChannel_file (s : State) (i j : Nat) v : (s.setChannel i v).file j = s.file j := rfl
@[simp] theorem State.setChannel_aplic (s : State) (i j : Nat) v : (s.setChannel i v).aplic j = s.aplic j := rfl
@[simp] theorem State.setChannel_meter (s : State) (i j : Nat) v : (s.setChannel i v).meter j = s.meter j := rfl
@[simp] theorem State.setChannel_occ (s : State) (i j : Nat) v : (s.setChannel i v).occ j = s.occ j := rfl
@[simp] theorem State.setChannel_slice (s : State) (i j : Nat) v : (s.setChannel i v).slice j = s.slice j := rfl
@[simp] theorem State.setChannel_cell (s : State) (i j : Nat) v : (s.setChannel i v).cell j = s.cell j := rfl
@[simp] theorem State.setChannel_rootPort (s : State) (i j : Nat) v : (s.setChannel i v).rootPort j = s.rootPort j := rfl
@[simp] theorem State.setChannel_cxlMem (s : State) (i j : Nat) v : (s.setChannel i v).cxlMem j = s.cxlMem j := rfl
@[simp] theorem State.setChannel_filterAt (s : State) (i j : Nat) v : (s.setChannel i v).filterAt j = s.filterAt j := rfl
@[simp] theorem State.setChannel_iommu (s : State) (i j : Nat) v : (s.setChannel i v).iommu j = s.iommu j := rfl
@[simp] theorem State.setChannel_mbx (s : State) (i j : Nat) v : (s.setChannel i v).mbx j = s.mbx j := rfl
@[simp] theorem State.setChannel_uncUnit (s : State) (i j : Nat) v : (s.setChannel i v).uncUnit j = s.uncUnit j := rfl
@[simp] theorem State.setChannel_dieCfg (s : State) (i j : Nat) v : (s.setChannel i v).dieCfg j = s.dieCfg j := rfl
@[simp] theorem State.setChannel_rail (s : State) (i j : Nat) v : (s.setChannel i v).rail j = s.rail j := rfl
@[simp] theorem State.setChannel_cascLink (s : State) (i j : Nat) v : (s.setChannel i v).cascLink j = s.cascLink j := rfl
@[simp] theorem State.setChannel_partition (s : State) (i j : Nat) v : (s.setChannel i v).partition j = s.partition j := rfl
@[simp] theorem State.setChannel_dieStatus (s : State) (i j : Nat) v : (s.setChannel i v).dieStatus j = s.dieStatus j := rfl
@[simp] theorem State.setChannel_spares (s : State) (i j : Nat) v : (s.setChannel i v).spares j = s.spares j := rfl

/-! What `setForget` leaves alone. -/

@[simp] theorem State.setForget_fab (s : State) (i : Nat) v : (s.setForget i v).fab = s.fab := rfl
@[simp] theorem State.setForget_hub (s : State) (i : Nat) v : (s.setForget i v).hub = s.hub := rfl
@[simp] theorem State.setForget_mgmt (s : State) (i : Nat) v : (s.setForget i v).mgmt = s.mgmt := rfl
@[simp] theorem State.setForget_now (s : State) (i : Nat) v : (s.setForget i v).now = s.now := rfl
@[simp] theorem State.setForget_free (s : State) (i : Nat) v : (s.setForget i v).free = s.free := rfl
@[simp] theorem State.setForget_pending (s : State) (i : Nat) v : (s.setForget i v).pending = s.pending := rfl
@[simp] theorem State.setForget_mem_reqs (s : State) (i : Nat) v : (s.setForget i v).mem.reqs = s.mem.reqs := rfl
@[simp] theorem State.setForget_mem_reads (s : State) (i : Nat) v : (s.setForget i v).mem.reads = s.mem.reads := rfl
@[simp] theorem State.setForget_mem_data (s : State) (i : Nat) v : (s.setForget i v).mem.data = s.mem.data := rfl
@[simp] theorem State.setForget_mem_check (s : State) (i : Nat) v : (s.setForget i v).mem.check = s.mem.check := rfl
@[simp] theorem State.setForget_mem_granules (s : State) (i : Nat) v : (s.setForget i v).mem.granules = s.mem.granules := rfl
@[simp] theorem State.setForget_mem_mapErrs (s : State) (i : Nat) v : (s.setForget i v).mem.mapErrs = s.mem.mapErrs := rfl
@[simp] theorem State.setForget_mem_fills (s : State) (i : Nat) v : (s.setForget i v).mem.fills = s.mem.fills := rfl
@[simp] theorem State.setForget_mem_rows (s : State) (i : Nat) v : (s.setForget i v).mem.rows = s.mem.rows := rfl
@[simp] theorem State.setForget_mem_repairs (s : State) (i : Nat) v : (s.setForget i v).mem.repairs = s.mem.repairs := rfl
@[simp] theorem State.setForget_mem_channels (s : State) (i : Nat) v : (s.setForget i v).mem.channels = s.mem.channels := rfl
@[simp] theorem State.setForget_mem_pcFailed (s : State) (i : Nat) v : (s.setForget i v).mem.pcFailed = s.mem.pcFailed := rfl
@[simp] theorem State.setForget_mem_window (s : State) (i : Nat) v : (s.setForget i v).mem.window = s.mem.window := rfl
@[simp] theorem State.setForget_mem_patrol (s : State) (i : Nat) v : (s.setForget i v).mem.patrol = s.mem.patrol := rfl
@[simp] theorem State.setForget_mem_slots (s : State) (i : Nat) v : (s.setForget i v).mem.slots = s.mem.slots := rfl
@[simp] theorem State.setForget_mem_noSnoop (s : State) (i : Nat) v : (s.setForget i v).mem.noSnoop = s.mem.noSnoop := rfl
@[simp] theorem State.setForget_hart (s : State) (i j : Nat) v : (s.setForget i v).hart j = s.hart j := rfl
@[simp] theorem State.setForget_core (s : State) (i j : Nat) v : (s.setForget i v).core j = s.core j := rfl
@[simp] theorem State.setForget_die (s : State) (i j : Nat) v : (s.setForget i v).die j = s.die j := rfl
@[simp] theorem State.setForget_port (s : State) (i j : Nat) v : (s.setForget i v).port j = s.port j := rfl
@[simp] theorem State.setForget_stop (s : State) (i j : Nat) v : (s.setForget i v).stop j = s.stop j := rfl
@[simp] theorem State.setForget_crossing (s : State) (i j : Nat) v : (s.setForget i v).crossing j = s.crossing j := rfl
@[simp] theorem State.setForget_home (s : State) (i j : Nat) v : (s.setForget i v).home j = s.home j := rfl
@[simp] theorem State.setForget_drop (s : State) (i j : Nat) v : (s.setForget i v).drop j = s.drop j := rfl
@[simp] theorem State.setForget_granule (s : State) (i j : Nat) v : (s.setForget i v).granule j = s.granule j := rfl
@[simp] theorem State.setForget_mapErr (s : State) (i j : Nat) v : (s.setForget i v).mapErr j = s.mapErr j := rfl
@[simp] theorem State.setForget_row (s : State) (i j : Nat) v : (s.setForget i v).row j = s.row j := rfl
@[simp] theorem State.setForget_channel (s : State) (i j : Nat) v : (s.setForget i v).channel j = s.channel j := rfl
@[simp] theorem State.setForget_patrolAt (s : State) (i j : Nat) v : (s.setForget i v).patrolAt j = s.patrolAt j := rfl
@[simp] theorem State.setForget_slotsUsed (s : State) (i j : Nat) v : (s.setForget i v).slotsUsed j = s.slotsUsed j := rfl
@[simp] theorem State.setForget_hueSt (s : State) (i j : Nat) v : (s.setForget i v).hueSt j = s.hueSt j := rfl
@[simp] theorem State.setForget_file (s : State) (i j : Nat) v : (s.setForget i v).file j = s.file j := rfl
@[simp] theorem State.setForget_aplic (s : State) (i j : Nat) v : (s.setForget i v).aplic j = s.aplic j := rfl
@[simp] theorem State.setForget_meter (s : State) (i j : Nat) v : (s.setForget i v).meter j = s.meter j := rfl
@[simp] theorem State.setForget_occ (s : State) (i j : Nat) v : (s.setForget i v).occ j = s.occ j := rfl
@[simp] theorem State.setForget_slice (s : State) (i j : Nat) v : (s.setForget i v).slice j = s.slice j := rfl
@[simp] theorem State.setForget_cell (s : State) (i j : Nat) v : (s.setForget i v).cell j = s.cell j := rfl
@[simp] theorem State.setForget_rootPort (s : State) (i j : Nat) v : (s.setForget i v).rootPort j = s.rootPort j := rfl
@[simp] theorem State.setForget_cxlMem (s : State) (i j : Nat) v : (s.setForget i v).cxlMem j = s.cxlMem j := rfl
@[simp] theorem State.setForget_filterAt (s : State) (i j : Nat) v : (s.setForget i v).filterAt j = s.filterAt j := rfl
@[simp] theorem State.setForget_iommu (s : State) (i j : Nat) v : (s.setForget i v).iommu j = s.iommu j := rfl
@[simp] theorem State.setForget_mbx (s : State) (i j : Nat) v : (s.setForget i v).mbx j = s.mbx j := rfl
@[simp] theorem State.setForget_uncUnit (s : State) (i j : Nat) v : (s.setForget i v).uncUnit j = s.uncUnit j := rfl
@[simp] theorem State.setForget_dieCfg (s : State) (i j : Nat) v : (s.setForget i v).dieCfg j = s.dieCfg j := rfl
@[simp] theorem State.setForget_rail (s : State) (i j : Nat) v : (s.setForget i v).rail j = s.rail j := rfl
@[simp] theorem State.setForget_cascLink (s : State) (i j : Nat) v : (s.setForget i v).cascLink j = s.cascLink j := rfl
@[simp] theorem State.setForget_partition (s : State) (i j : Nat) v : (s.setForget i v).partition j = s.partition j := rfl
@[simp] theorem State.setForget_dieStatus (s : State) (i j : Nat) v : (s.setForget i v).dieStatus j = s.dieStatus j := rfl
@[simp] theorem State.setForget_spares (s : State) (i j : Nat) v : (s.setForget i v).spares j = s.spares j := rfl

/-! What `setPatrolAt` leaves alone. -/

@[simp] theorem State.setPatrolAt_fab (s : State) (i : Nat) v : (s.setPatrolAt i v).fab = s.fab := rfl
@[simp] theorem State.setPatrolAt_hub (s : State) (i : Nat) v : (s.setPatrolAt i v).hub = s.hub := rfl
@[simp] theorem State.setPatrolAt_mgmt (s : State) (i : Nat) v : (s.setPatrolAt i v).mgmt = s.mgmt := rfl
@[simp] theorem State.setPatrolAt_now (s : State) (i : Nat) v : (s.setPatrolAt i v).now = s.now := rfl
@[simp] theorem State.setPatrolAt_free (s : State) (i : Nat) v : (s.setPatrolAt i v).free = s.free := rfl
@[simp] theorem State.setPatrolAt_pending (s : State) (i : Nat) v : (s.setPatrolAt i v).pending = s.pending := rfl
@[simp] theorem State.setPatrolAt_mem_reqs (s : State) (i : Nat) v : (s.setPatrolAt i v).mem.reqs = s.mem.reqs := rfl
@[simp] theorem State.setPatrolAt_mem_reads (s : State) (i : Nat) v : (s.setPatrolAt i v).mem.reads = s.mem.reads := rfl
@[simp] theorem State.setPatrolAt_mem_data (s : State) (i : Nat) v : (s.setPatrolAt i v).mem.data = s.mem.data := rfl
@[simp] theorem State.setPatrolAt_mem_check (s : State) (i : Nat) v : (s.setPatrolAt i v).mem.check = s.mem.check := rfl
@[simp] theorem State.setPatrolAt_mem_granules (s : State) (i : Nat) v : (s.setPatrolAt i v).mem.granules = s.mem.granules := rfl
@[simp] theorem State.setPatrolAt_mem_mapErrs (s : State) (i : Nat) v : (s.setPatrolAt i v).mem.mapErrs = s.mem.mapErrs := rfl
@[simp] theorem State.setPatrolAt_mem_fills (s : State) (i : Nat) v : (s.setPatrolAt i v).mem.fills = s.mem.fills := rfl
@[simp] theorem State.setPatrolAt_mem_rows (s : State) (i : Nat) v : (s.setPatrolAt i v).mem.rows = s.mem.rows := rfl
@[simp] theorem State.setPatrolAt_mem_repairs (s : State) (i : Nat) v : (s.setPatrolAt i v).mem.repairs = s.mem.repairs := rfl
@[simp] theorem State.setPatrolAt_mem_channels (s : State) (i : Nat) v : (s.setPatrolAt i v).mem.channels = s.mem.channels := rfl
@[simp] theorem State.setPatrolAt_mem_pcFailed (s : State) (i : Nat) v : (s.setPatrolAt i v).mem.pcFailed = s.mem.pcFailed := rfl
@[simp] theorem State.setPatrolAt_mem_window (s : State) (i : Nat) v : (s.setPatrolAt i v).mem.window = s.mem.window := rfl
@[simp] theorem State.setPatrolAt_mem_forget (s : State) (i : Nat) v : (s.setPatrolAt i v).mem.forget = s.mem.forget := rfl
@[simp] theorem State.setPatrolAt_mem_slots (s : State) (i : Nat) v : (s.setPatrolAt i v).mem.slots = s.mem.slots := rfl
@[simp] theorem State.setPatrolAt_mem_noSnoop (s : State) (i : Nat) v : (s.setPatrolAt i v).mem.noSnoop = s.mem.noSnoop := rfl
@[simp] theorem State.setPatrolAt_hart (s : State) (i j : Nat) v : (s.setPatrolAt i v).hart j = s.hart j := rfl
@[simp] theorem State.setPatrolAt_core (s : State) (i j : Nat) v : (s.setPatrolAt i v).core j = s.core j := rfl
@[simp] theorem State.setPatrolAt_die (s : State) (i j : Nat) v : (s.setPatrolAt i v).die j = s.die j := rfl
@[simp] theorem State.setPatrolAt_port (s : State) (i j : Nat) v : (s.setPatrolAt i v).port j = s.port j := rfl
@[simp] theorem State.setPatrolAt_stop (s : State) (i j : Nat) v : (s.setPatrolAt i v).stop j = s.stop j := rfl
@[simp] theorem State.setPatrolAt_crossing (s : State) (i j : Nat) v : (s.setPatrolAt i v).crossing j = s.crossing j := rfl
@[simp] theorem State.setPatrolAt_home (s : State) (i j : Nat) v : (s.setPatrolAt i v).home j = s.home j := rfl
@[simp] theorem State.setPatrolAt_drop (s : State) (i j : Nat) v : (s.setPatrolAt i v).drop j = s.drop j := rfl
@[simp] theorem State.setPatrolAt_granule (s : State) (i j : Nat) v : (s.setPatrolAt i v).granule j = s.granule j := rfl
@[simp] theorem State.setPatrolAt_mapErr (s : State) (i j : Nat) v : (s.setPatrolAt i v).mapErr j = s.mapErr j := rfl
@[simp] theorem State.setPatrolAt_row (s : State) (i j : Nat) v : (s.setPatrolAt i v).row j = s.row j := rfl
@[simp] theorem State.setPatrolAt_channel (s : State) (i j : Nat) v : (s.setPatrolAt i v).channel j = s.channel j := rfl
@[simp] theorem State.setPatrolAt_forget (s : State) (i j : Nat) v : (s.setPatrolAt i v).forget j = s.forget j := rfl
@[simp] theorem State.setPatrolAt_slotsUsed (s : State) (i j : Nat) v : (s.setPatrolAt i v).slotsUsed j = s.slotsUsed j := rfl
@[simp] theorem State.setPatrolAt_hueSt (s : State) (i j : Nat) v : (s.setPatrolAt i v).hueSt j = s.hueSt j := rfl
@[simp] theorem State.setPatrolAt_file (s : State) (i j : Nat) v : (s.setPatrolAt i v).file j = s.file j := rfl
@[simp] theorem State.setPatrolAt_aplic (s : State) (i j : Nat) v : (s.setPatrolAt i v).aplic j = s.aplic j := rfl
@[simp] theorem State.setPatrolAt_meter (s : State) (i j : Nat) v : (s.setPatrolAt i v).meter j = s.meter j := rfl
@[simp] theorem State.setPatrolAt_occ (s : State) (i j : Nat) v : (s.setPatrolAt i v).occ j = s.occ j := rfl
@[simp] theorem State.setPatrolAt_slice (s : State) (i j : Nat) v : (s.setPatrolAt i v).slice j = s.slice j := rfl
@[simp] theorem State.setPatrolAt_cell (s : State) (i j : Nat) v : (s.setPatrolAt i v).cell j = s.cell j := rfl
@[simp] theorem State.setPatrolAt_rootPort (s : State) (i j : Nat) v : (s.setPatrolAt i v).rootPort j = s.rootPort j := rfl
@[simp] theorem State.setPatrolAt_cxlMem (s : State) (i j : Nat) v : (s.setPatrolAt i v).cxlMem j = s.cxlMem j := rfl
@[simp] theorem State.setPatrolAt_filterAt (s : State) (i j : Nat) v : (s.setPatrolAt i v).filterAt j = s.filterAt j := rfl
@[simp] theorem State.setPatrolAt_iommu (s : State) (i j : Nat) v : (s.setPatrolAt i v).iommu j = s.iommu j := rfl
@[simp] theorem State.setPatrolAt_mbx (s : State) (i j : Nat) v : (s.setPatrolAt i v).mbx j = s.mbx j := rfl
@[simp] theorem State.setPatrolAt_uncUnit (s : State) (i j : Nat) v : (s.setPatrolAt i v).uncUnit j = s.uncUnit j := rfl
@[simp] theorem State.setPatrolAt_dieCfg (s : State) (i j : Nat) v : (s.setPatrolAt i v).dieCfg j = s.dieCfg j := rfl
@[simp] theorem State.setPatrolAt_rail (s : State) (i j : Nat) v : (s.setPatrolAt i v).rail j = s.rail j := rfl
@[simp] theorem State.setPatrolAt_cascLink (s : State) (i j : Nat) v : (s.setPatrolAt i v).cascLink j = s.cascLink j := rfl
@[simp] theorem State.setPatrolAt_partition (s : State) (i j : Nat) v : (s.setPatrolAt i v).partition j = s.partition j := rfl
@[simp] theorem State.setPatrolAt_dieStatus (s : State) (i j : Nat) v : (s.setPatrolAt i v).dieStatus j = s.dieStatus j := rfl
@[simp] theorem State.setPatrolAt_spares (s : State) (i j : Nat) v : (s.setPatrolAt i v).spares j = s.spares j := rfl

/-! What `setSlotsUsed` leaves alone. -/

@[simp] theorem State.setSlotsUsed_fab (s : State) (i : Nat) v : (s.setSlotsUsed i v).fab = s.fab := rfl
@[simp] theorem State.setSlotsUsed_hub (s : State) (i : Nat) v : (s.setSlotsUsed i v).hub = s.hub := rfl
@[simp] theorem State.setSlotsUsed_mgmt (s : State) (i : Nat) v : (s.setSlotsUsed i v).mgmt = s.mgmt := rfl
@[simp] theorem State.setSlotsUsed_now (s : State) (i : Nat) v : (s.setSlotsUsed i v).now = s.now := rfl
@[simp] theorem State.setSlotsUsed_free (s : State) (i : Nat) v : (s.setSlotsUsed i v).free = s.free := rfl
@[simp] theorem State.setSlotsUsed_pending (s : State) (i : Nat) v : (s.setSlotsUsed i v).pending = s.pending := rfl
@[simp] theorem State.setSlotsUsed_mem_reqs (s : State) (i : Nat) v : (s.setSlotsUsed i v).mem.reqs = s.mem.reqs := rfl
@[simp] theorem State.setSlotsUsed_mem_reads (s : State) (i : Nat) v : (s.setSlotsUsed i v).mem.reads = s.mem.reads := rfl
@[simp] theorem State.setSlotsUsed_mem_data (s : State) (i : Nat) v : (s.setSlotsUsed i v).mem.data = s.mem.data := rfl
@[simp] theorem State.setSlotsUsed_mem_check (s : State) (i : Nat) v : (s.setSlotsUsed i v).mem.check = s.mem.check := rfl
@[simp] theorem State.setSlotsUsed_mem_granules (s : State) (i : Nat) v : (s.setSlotsUsed i v).mem.granules = s.mem.granules := rfl
@[simp] theorem State.setSlotsUsed_mem_mapErrs (s : State) (i : Nat) v : (s.setSlotsUsed i v).mem.mapErrs = s.mem.mapErrs := rfl
@[simp] theorem State.setSlotsUsed_mem_fills (s : State) (i : Nat) v : (s.setSlotsUsed i v).mem.fills = s.mem.fills := rfl
@[simp] theorem State.setSlotsUsed_mem_rows (s : State) (i : Nat) v : (s.setSlotsUsed i v).mem.rows = s.mem.rows := rfl
@[simp] theorem State.setSlotsUsed_mem_repairs (s : State) (i : Nat) v : (s.setSlotsUsed i v).mem.repairs = s.mem.repairs := rfl
@[simp] theorem State.setSlotsUsed_mem_channels (s : State) (i : Nat) v : (s.setSlotsUsed i v).mem.channels = s.mem.channels := rfl
@[simp] theorem State.setSlotsUsed_mem_pcFailed (s : State) (i : Nat) v : (s.setSlotsUsed i v).mem.pcFailed = s.mem.pcFailed := rfl
@[simp] theorem State.setSlotsUsed_mem_window (s : State) (i : Nat) v : (s.setSlotsUsed i v).mem.window = s.mem.window := rfl
@[simp] theorem State.setSlotsUsed_mem_forget (s : State) (i : Nat) v : (s.setSlotsUsed i v).mem.forget = s.mem.forget := rfl
@[simp] theorem State.setSlotsUsed_mem_patrol (s : State) (i : Nat) v : (s.setSlotsUsed i v).mem.patrol = s.mem.patrol := rfl
@[simp] theorem State.setSlotsUsed_mem_noSnoop (s : State) (i : Nat) v : (s.setSlotsUsed i v).mem.noSnoop = s.mem.noSnoop := rfl
@[simp] theorem State.setSlotsUsed_hart (s : State) (i j : Nat) v : (s.setSlotsUsed i v).hart j = s.hart j := rfl
@[simp] theorem State.setSlotsUsed_core (s : State) (i j : Nat) v : (s.setSlotsUsed i v).core j = s.core j := rfl
@[simp] theorem State.setSlotsUsed_die (s : State) (i j : Nat) v : (s.setSlotsUsed i v).die j = s.die j := rfl
@[simp] theorem State.setSlotsUsed_port (s : State) (i j : Nat) v : (s.setSlotsUsed i v).port j = s.port j := rfl
@[simp] theorem State.setSlotsUsed_stop (s : State) (i j : Nat) v : (s.setSlotsUsed i v).stop j = s.stop j := rfl
@[simp] theorem State.setSlotsUsed_crossing (s : State) (i j : Nat) v : (s.setSlotsUsed i v).crossing j = s.crossing j := rfl
@[simp] theorem State.setSlotsUsed_home (s : State) (i j : Nat) v : (s.setSlotsUsed i v).home j = s.home j := rfl
@[simp] theorem State.setSlotsUsed_drop (s : State) (i j : Nat) v : (s.setSlotsUsed i v).drop j = s.drop j := rfl
@[simp] theorem State.setSlotsUsed_granule (s : State) (i j : Nat) v : (s.setSlotsUsed i v).granule j = s.granule j := rfl
@[simp] theorem State.setSlotsUsed_mapErr (s : State) (i j : Nat) v : (s.setSlotsUsed i v).mapErr j = s.mapErr j := rfl
@[simp] theorem State.setSlotsUsed_row (s : State) (i j : Nat) v : (s.setSlotsUsed i v).row j = s.row j := rfl
@[simp] theorem State.setSlotsUsed_channel (s : State) (i j : Nat) v : (s.setSlotsUsed i v).channel j = s.channel j := rfl
@[simp] theorem State.setSlotsUsed_forget (s : State) (i j : Nat) v : (s.setSlotsUsed i v).forget j = s.forget j := rfl
@[simp] theorem State.setSlotsUsed_patrolAt (s : State) (i j : Nat) v : (s.setSlotsUsed i v).patrolAt j = s.patrolAt j := rfl
@[simp] theorem State.setSlotsUsed_hueSt (s : State) (i j : Nat) v : (s.setSlotsUsed i v).hueSt j = s.hueSt j := rfl
@[simp] theorem State.setSlotsUsed_file (s : State) (i j : Nat) v : (s.setSlotsUsed i v).file j = s.file j := rfl
@[simp] theorem State.setSlotsUsed_aplic (s : State) (i j : Nat) v : (s.setSlotsUsed i v).aplic j = s.aplic j := rfl
@[simp] theorem State.setSlotsUsed_meter (s : State) (i j : Nat) v : (s.setSlotsUsed i v).meter j = s.meter j := rfl
@[simp] theorem State.setSlotsUsed_occ (s : State) (i j : Nat) v : (s.setSlotsUsed i v).occ j = s.occ j := rfl
@[simp] theorem State.setSlotsUsed_slice (s : State) (i j : Nat) v : (s.setSlotsUsed i v).slice j = s.slice j := rfl
@[simp] theorem State.setSlotsUsed_cell (s : State) (i j : Nat) v : (s.setSlotsUsed i v).cell j = s.cell j := rfl
@[simp] theorem State.setSlotsUsed_rootPort (s : State) (i j : Nat) v : (s.setSlotsUsed i v).rootPort j = s.rootPort j := rfl
@[simp] theorem State.setSlotsUsed_cxlMem (s : State) (i j : Nat) v : (s.setSlotsUsed i v).cxlMem j = s.cxlMem j := rfl
@[simp] theorem State.setSlotsUsed_filterAt (s : State) (i j : Nat) v : (s.setSlotsUsed i v).filterAt j = s.filterAt j := rfl
@[simp] theorem State.setSlotsUsed_iommu (s : State) (i j : Nat) v : (s.setSlotsUsed i v).iommu j = s.iommu j := rfl
@[simp] theorem State.setSlotsUsed_mbx (s : State) (i j : Nat) v : (s.setSlotsUsed i v).mbx j = s.mbx j := rfl
@[simp] theorem State.setSlotsUsed_uncUnit (s : State) (i j : Nat) v : (s.setSlotsUsed i v).uncUnit j = s.uncUnit j := rfl
@[simp] theorem State.setSlotsUsed_dieCfg (s : State) (i j : Nat) v : (s.setSlotsUsed i v).dieCfg j = s.dieCfg j := rfl
@[simp] theorem State.setSlotsUsed_rail (s : State) (i j : Nat) v : (s.setSlotsUsed i v).rail j = s.rail j := rfl
@[simp] theorem State.setSlotsUsed_cascLink (s : State) (i j : Nat) v : (s.setSlotsUsed i v).cascLink j = s.cascLink j := rfl
@[simp] theorem State.setSlotsUsed_partition (s : State) (i j : Nat) v : (s.setSlotsUsed i v).partition j = s.partition j := rfl
@[simp] theorem State.setSlotsUsed_dieStatus (s : State) (i j : Nat) v : (s.setSlotsUsed i v).dieStatus j = s.dieStatus j := rfl
@[simp] theorem State.setSlotsUsed_spares (s : State) (i j : Nat) v : (s.setSlotsUsed i v).spares j = s.spares j := rfl

/-! What `setHueSt` leaves alone. -/

@[simp] theorem State.setHueSt_fab (s : State) (i : Nat) v : (s.setHueSt i v).fab = s.fab := rfl
@[simp] theorem State.setHueSt_mem (s : State) (i : Nat) v : (s.setHueSt i v).mem = s.mem := rfl
@[simp] theorem State.setHueSt_mgmt (s : State) (i : Nat) v : (s.setHueSt i v).mgmt = s.mgmt := rfl
@[simp] theorem State.setHueSt_now (s : State) (i : Nat) v : (s.setHueSt i v).now = s.now := rfl
@[simp] theorem State.setHueSt_free (s : State) (i : Nat) v : (s.setHueSt i v).free = s.free := rfl
@[simp] theorem State.setHueSt_pending (s : State) (i : Nat) v : (s.setHueSt i v).pending = s.pending := rfl
@[simp] theorem State.setHueSt_hub_bindings (s : State) (i : Nat) v : (s.setHueSt i v).hub.bindings = s.hub.bindings := rfl
@[simp] theorem State.setHueSt_hub_imsic (s : State) (i : Nat) v : (s.setHueSt i v).hub.imsic = s.hub.imsic := rfl
@[simp] theorem State.setHueSt_hub_aplic (s : State) (i : Nat) v : (s.setHueSt i v).hub.aplic = s.hub.aplic := rfl
@[simp] theorem State.setHueSt_hub_meters (s : State) (i : Nat) v : (s.setHueSt i v).hub.meters = s.hub.meters := rfl
@[simp] theorem State.setHueSt_hub_occSet (s : State) (i : Nat) v : (s.setHueSt i v).hub.occSet = s.hub.occSet := rfl
@[simp] theorem State.setHueSt_hub_ledger (s : State) (i : Nat) v : (s.setHueSt i v).hub.ledger = s.hub.ledger := rfl
@[simp] theorem State.setHueSt_hub_slices (s : State) (i : Nat) v : (s.setHueSt i v).hub.slices = s.hub.slices := rfl
@[simp] theorem State.setHueSt_hub_cells (s : State) (i : Nat) v : (s.setHueSt i v).hub.cells = s.hub.cells := rfl
@[simp] theorem State.setHueSt_hub_rootPorts (s : State) (i : Nat) v : (s.setHueSt i v).hub.rootPorts = s.hub.rootPorts := rfl
@[simp] theorem State.setHueSt_hub_cxlPorts (s : State) (i : Nat) v : (s.setHueSt i v).hub.cxlPorts = s.hub.cxlPorts := rfl
@[simp] theorem State.setHueSt_hub_chain (s : State) (i : Nat) v : (s.setHueSt i v).hub.chain = s.hub.chain := rfl
@[simp] theorem State.setHueSt_hub_inbound (s : State) (i : Nat) v : (s.setHueSt i v).hub.inbound = s.hub.inbound := rfl
@[simp] theorem State.setHueSt_hub_toDevice (s : State) (i : Nat) v : (s.setHueSt i v).hub.toDevice = s.hub.toDevice := rfl
@[simp] theorem State.setHueSt_hub_filter (s : State) (i : Nat) v : (s.setHueSt i v).hub.filter = s.hub.filter := rfl
@[simp] theorem State.setHueSt_hub_snoops (s : State) (i : Nat) v : (s.setHueSt i v).hub.snoops = s.hub.snoops := rfl
@[simp] theorem State.setHueSt_hub_cacheReqs (s : State) (i : Nat) v : (s.setHueSt i v).hub.cacheReqs = s.hub.cacheReqs := rfl
@[simp] theorem State.setHueSt_hub_cacheOut (s : State) (i : Nat) v : (s.setHueSt i v).hub.cacheOut = s.hub.cacheOut := rfl
@[simp] theorem State.setHueSt_hub_iommus (s : State) (i : Nat) v : (s.setHueSt i v).hub.iommus = s.hub.iommus := rfl
@[simp] theorem State.setHueSt_hub_ioTxid (s : State) (i : Nat) v : (s.setHueSt i v).hub.ioTxid = s.hub.ioTxid := rfl
@[simp] theorem State.setHueSt_hart (s : State) (i j : Nat) v : (s.setHueSt i v).hart j = s.hart j := rfl
@[simp] theorem State.setHueSt_core (s : State) (i j : Nat) v : (s.setHueSt i v).core j = s.core j := rfl
@[simp] theorem State.setHueSt_die (s : State) (i j : Nat) v : (s.setHueSt i v).die j = s.die j := rfl
@[simp] theorem State.setHueSt_port (s : State) (i j : Nat) v : (s.setHueSt i v).port j = s.port j := rfl
@[simp] theorem State.setHueSt_stop (s : State) (i j : Nat) v : (s.setHueSt i v).stop j = s.stop j := rfl
@[simp] theorem State.setHueSt_crossing (s : State) (i j : Nat) v : (s.setHueSt i v).crossing j = s.crossing j := rfl
@[simp] theorem State.setHueSt_home (s : State) (i j : Nat) v : (s.setHueSt i v).home j = s.home j := rfl
@[simp] theorem State.setHueSt_drop (s : State) (i j : Nat) v : (s.setHueSt i v).drop j = s.drop j := rfl
@[simp] theorem State.setHueSt_granule (s : State) (i j : Nat) v : (s.setHueSt i v).granule j = s.granule j := rfl
@[simp] theorem State.setHueSt_mapErr (s : State) (i j : Nat) v : (s.setHueSt i v).mapErr j = s.mapErr j := rfl
@[simp] theorem State.setHueSt_row (s : State) (i j : Nat) v : (s.setHueSt i v).row j = s.row j := rfl
@[simp] theorem State.setHueSt_channel (s : State) (i j : Nat) v : (s.setHueSt i v).channel j = s.channel j := rfl
@[simp] theorem State.setHueSt_forget (s : State) (i j : Nat) v : (s.setHueSt i v).forget j = s.forget j := rfl
@[simp] theorem State.setHueSt_patrolAt (s : State) (i j : Nat) v : (s.setHueSt i v).patrolAt j = s.patrolAt j := rfl
@[simp] theorem State.setHueSt_slotsUsed (s : State) (i j : Nat) v : (s.setHueSt i v).slotsUsed j = s.slotsUsed j := rfl
@[simp] theorem State.setHueSt_file (s : State) (i j : Nat) v : (s.setHueSt i v).file j = s.file j := rfl
@[simp] theorem State.setHueSt_aplic (s : State) (i j : Nat) v : (s.setHueSt i v).aplic j = s.aplic j := rfl
@[simp] theorem State.setHueSt_meter (s : State) (i j : Nat) v : (s.setHueSt i v).meter j = s.meter j := rfl
@[simp] theorem State.setHueSt_occ (s : State) (i j : Nat) v : (s.setHueSt i v).occ j = s.occ j := rfl
@[simp] theorem State.setHueSt_slice (s : State) (i j : Nat) v : (s.setHueSt i v).slice j = s.slice j := rfl
@[simp] theorem State.setHueSt_cell (s : State) (i j : Nat) v : (s.setHueSt i v).cell j = s.cell j := rfl
@[simp] theorem State.setHueSt_rootPort (s : State) (i j : Nat) v : (s.setHueSt i v).rootPort j = s.rootPort j := rfl
@[simp] theorem State.setHueSt_cxlMem (s : State) (i j : Nat) v : (s.setHueSt i v).cxlMem j = s.cxlMem j := rfl
@[simp] theorem State.setHueSt_filterAt (s : State) (i j : Nat) v : (s.setHueSt i v).filterAt j = s.filterAt j := rfl
@[simp] theorem State.setHueSt_iommu (s : State) (i j : Nat) v : (s.setHueSt i v).iommu j = s.iommu j := rfl
@[simp] theorem State.setHueSt_mbx (s : State) (i j : Nat) v : (s.setHueSt i v).mbx j = s.mbx j := rfl
@[simp] theorem State.setHueSt_uncUnit (s : State) (i j : Nat) v : (s.setHueSt i v).uncUnit j = s.uncUnit j := rfl
@[simp] theorem State.setHueSt_dieCfg (s : State) (i j : Nat) v : (s.setHueSt i v).dieCfg j = s.dieCfg j := rfl
@[simp] theorem State.setHueSt_rail (s : State) (i j : Nat) v : (s.setHueSt i v).rail j = s.rail j := rfl
@[simp] theorem State.setHueSt_cascLink (s : State) (i j : Nat) v : (s.setHueSt i v).cascLink j = s.cascLink j := rfl
@[simp] theorem State.setHueSt_partition (s : State) (i j : Nat) v : (s.setHueSt i v).partition j = s.partition j := rfl
@[simp] theorem State.setHueSt_dieStatus (s : State) (i j : Nat) v : (s.setHueSt i v).dieStatus j = s.dieStatus j := rfl
@[simp] theorem State.setHueSt_spares (s : State) (i j : Nat) v : (s.setHueSt i v).spares j = s.spares j := rfl

/-! What `setFile` leaves alone. -/

@[simp] theorem State.setFile_fab (s : State) (i : Nat) v : (s.setFile i v).fab = s.fab := rfl
@[simp] theorem State.setFile_mem (s : State) (i : Nat) v : (s.setFile i v).mem = s.mem := rfl
@[simp] theorem State.setFile_mgmt (s : State) (i : Nat) v : (s.setFile i v).mgmt = s.mgmt := rfl
@[simp] theorem State.setFile_now (s : State) (i : Nat) v : (s.setFile i v).now = s.now := rfl
@[simp] theorem State.setFile_free (s : State) (i : Nat) v : (s.setFile i v).free = s.free := rfl
@[simp] theorem State.setFile_pending (s : State) (i : Nat) v : (s.setFile i v).pending = s.pending := rfl
@[simp] theorem State.setFile_hub_hues (s : State) (i : Nat) v : (s.setFile i v).hub.hues = s.hub.hues := rfl
@[simp] theorem State.setFile_hub_bindings (s : State) (i : Nat) v : (s.setFile i v).hub.bindings = s.hub.bindings := rfl
@[simp] theorem State.setFile_hub_aplic (s : State) (i : Nat) v : (s.setFile i v).hub.aplic = s.hub.aplic := rfl
@[simp] theorem State.setFile_hub_meters (s : State) (i : Nat) v : (s.setFile i v).hub.meters = s.hub.meters := rfl
@[simp] theorem State.setFile_hub_occSet (s : State) (i : Nat) v : (s.setFile i v).hub.occSet = s.hub.occSet := rfl
@[simp] theorem State.setFile_hub_ledger (s : State) (i : Nat) v : (s.setFile i v).hub.ledger = s.hub.ledger := rfl
@[simp] theorem State.setFile_hub_slices (s : State) (i : Nat) v : (s.setFile i v).hub.slices = s.hub.slices := rfl
@[simp] theorem State.setFile_hub_cells (s : State) (i : Nat) v : (s.setFile i v).hub.cells = s.hub.cells := rfl
@[simp] theorem State.setFile_hub_rootPorts (s : State) (i : Nat) v : (s.setFile i v).hub.rootPorts = s.hub.rootPorts := rfl
@[simp] theorem State.setFile_hub_cxlPorts (s : State) (i : Nat) v : (s.setFile i v).hub.cxlPorts = s.hub.cxlPorts := rfl
@[simp] theorem State.setFile_hub_chain (s : State) (i : Nat) v : (s.setFile i v).hub.chain = s.hub.chain := rfl
@[simp] theorem State.setFile_hub_inbound (s : State) (i : Nat) v : (s.setFile i v).hub.inbound = s.hub.inbound := rfl
@[simp] theorem State.setFile_hub_toDevice (s : State) (i : Nat) v : (s.setFile i v).hub.toDevice = s.hub.toDevice := rfl
@[simp] theorem State.setFile_hub_filter (s : State) (i : Nat) v : (s.setFile i v).hub.filter = s.hub.filter := rfl
@[simp] theorem State.setFile_hub_snoops (s : State) (i : Nat) v : (s.setFile i v).hub.snoops = s.hub.snoops := rfl
@[simp] theorem State.setFile_hub_cacheReqs (s : State) (i : Nat) v : (s.setFile i v).hub.cacheReqs = s.hub.cacheReqs := rfl
@[simp] theorem State.setFile_hub_cacheOut (s : State) (i : Nat) v : (s.setFile i v).hub.cacheOut = s.hub.cacheOut := rfl
@[simp] theorem State.setFile_hub_iommus (s : State) (i : Nat) v : (s.setFile i v).hub.iommus = s.hub.iommus := rfl
@[simp] theorem State.setFile_hub_ioTxid (s : State) (i : Nat) v : (s.setFile i v).hub.ioTxid = s.hub.ioTxid := rfl
@[simp] theorem State.setFile_hart (s : State) (i j : Nat) v : (s.setFile i v).hart j = s.hart j := rfl
@[simp] theorem State.setFile_core (s : State) (i j : Nat) v : (s.setFile i v).core j = s.core j := rfl
@[simp] theorem State.setFile_die (s : State) (i j : Nat) v : (s.setFile i v).die j = s.die j := rfl
@[simp] theorem State.setFile_port (s : State) (i j : Nat) v : (s.setFile i v).port j = s.port j := rfl
@[simp] theorem State.setFile_stop (s : State) (i j : Nat) v : (s.setFile i v).stop j = s.stop j := rfl
@[simp] theorem State.setFile_crossing (s : State) (i j : Nat) v : (s.setFile i v).crossing j = s.crossing j := rfl
@[simp] theorem State.setFile_home (s : State) (i j : Nat) v : (s.setFile i v).home j = s.home j := rfl
@[simp] theorem State.setFile_drop (s : State) (i j : Nat) v : (s.setFile i v).drop j = s.drop j := rfl
@[simp] theorem State.setFile_granule (s : State) (i j : Nat) v : (s.setFile i v).granule j = s.granule j := rfl
@[simp] theorem State.setFile_mapErr (s : State) (i j : Nat) v : (s.setFile i v).mapErr j = s.mapErr j := rfl
@[simp] theorem State.setFile_row (s : State) (i j : Nat) v : (s.setFile i v).row j = s.row j := rfl
@[simp] theorem State.setFile_channel (s : State) (i j : Nat) v : (s.setFile i v).channel j = s.channel j := rfl
@[simp] theorem State.setFile_forget (s : State) (i j : Nat) v : (s.setFile i v).forget j = s.forget j := rfl
@[simp] theorem State.setFile_patrolAt (s : State) (i j : Nat) v : (s.setFile i v).patrolAt j = s.patrolAt j := rfl
@[simp] theorem State.setFile_slotsUsed (s : State) (i j : Nat) v : (s.setFile i v).slotsUsed j = s.slotsUsed j := rfl
@[simp] theorem State.setFile_hueSt (s : State) (i j : Nat) v : (s.setFile i v).hueSt j = s.hueSt j := rfl
@[simp] theorem State.setFile_aplic (s : State) (i j : Nat) v : (s.setFile i v).aplic j = s.aplic j := rfl
@[simp] theorem State.setFile_meter (s : State) (i j : Nat) v : (s.setFile i v).meter j = s.meter j := rfl
@[simp] theorem State.setFile_occ (s : State) (i j : Nat) v : (s.setFile i v).occ j = s.occ j := rfl
@[simp] theorem State.setFile_slice (s : State) (i j : Nat) v : (s.setFile i v).slice j = s.slice j := rfl
@[simp] theorem State.setFile_cell (s : State) (i j : Nat) v : (s.setFile i v).cell j = s.cell j := rfl
@[simp] theorem State.setFile_rootPort (s : State) (i j : Nat) v : (s.setFile i v).rootPort j = s.rootPort j := rfl
@[simp] theorem State.setFile_cxlMem (s : State) (i j : Nat) v : (s.setFile i v).cxlMem j = s.cxlMem j := rfl
@[simp] theorem State.setFile_filterAt (s : State) (i j : Nat) v : (s.setFile i v).filterAt j = s.filterAt j := rfl
@[simp] theorem State.setFile_iommu (s : State) (i j : Nat) v : (s.setFile i v).iommu j = s.iommu j := rfl
@[simp] theorem State.setFile_mbx (s : State) (i j : Nat) v : (s.setFile i v).mbx j = s.mbx j := rfl
@[simp] theorem State.setFile_uncUnit (s : State) (i j : Nat) v : (s.setFile i v).uncUnit j = s.uncUnit j := rfl
@[simp] theorem State.setFile_dieCfg (s : State) (i j : Nat) v : (s.setFile i v).dieCfg j = s.dieCfg j := rfl
@[simp] theorem State.setFile_rail (s : State) (i j : Nat) v : (s.setFile i v).rail j = s.rail j := rfl
@[simp] theorem State.setFile_cascLink (s : State) (i j : Nat) v : (s.setFile i v).cascLink j = s.cascLink j := rfl
@[simp] theorem State.setFile_partition (s : State) (i j : Nat) v : (s.setFile i v).partition j = s.partition j := rfl
@[simp] theorem State.setFile_dieStatus (s : State) (i j : Nat) v : (s.setFile i v).dieStatus j = s.dieStatus j := rfl
@[simp] theorem State.setFile_spares (s : State) (i j : Nat) v : (s.setFile i v).spares j = s.spares j := rfl

/-! What `setAplic` leaves alone. -/

@[simp] theorem State.setAplic_fab (s : State) (i : Nat) v : (s.setAplic i v).fab = s.fab := rfl
@[simp] theorem State.setAplic_mem (s : State) (i : Nat) v : (s.setAplic i v).mem = s.mem := rfl
@[simp] theorem State.setAplic_mgmt (s : State) (i : Nat) v : (s.setAplic i v).mgmt = s.mgmt := rfl
@[simp] theorem State.setAplic_now (s : State) (i : Nat) v : (s.setAplic i v).now = s.now := rfl
@[simp] theorem State.setAplic_free (s : State) (i : Nat) v : (s.setAplic i v).free = s.free := rfl
@[simp] theorem State.setAplic_pending (s : State) (i : Nat) v : (s.setAplic i v).pending = s.pending := rfl
@[simp] theorem State.setAplic_hub_hues (s : State) (i : Nat) v : (s.setAplic i v).hub.hues = s.hub.hues := rfl
@[simp] theorem State.setAplic_hub_bindings (s : State) (i : Nat) v : (s.setAplic i v).hub.bindings = s.hub.bindings := rfl
@[simp] theorem State.setAplic_hub_imsic (s : State) (i : Nat) v : (s.setAplic i v).hub.imsic = s.hub.imsic := rfl
@[simp] theorem State.setAplic_hub_meters (s : State) (i : Nat) v : (s.setAplic i v).hub.meters = s.hub.meters := rfl
@[simp] theorem State.setAplic_hub_occSet (s : State) (i : Nat) v : (s.setAplic i v).hub.occSet = s.hub.occSet := rfl
@[simp] theorem State.setAplic_hub_ledger (s : State) (i : Nat) v : (s.setAplic i v).hub.ledger = s.hub.ledger := rfl
@[simp] theorem State.setAplic_hub_slices (s : State) (i : Nat) v : (s.setAplic i v).hub.slices = s.hub.slices := rfl
@[simp] theorem State.setAplic_hub_cells (s : State) (i : Nat) v : (s.setAplic i v).hub.cells = s.hub.cells := rfl
@[simp] theorem State.setAplic_hub_rootPorts (s : State) (i : Nat) v : (s.setAplic i v).hub.rootPorts = s.hub.rootPorts := rfl
@[simp] theorem State.setAplic_hub_cxlPorts (s : State) (i : Nat) v : (s.setAplic i v).hub.cxlPorts = s.hub.cxlPorts := rfl
@[simp] theorem State.setAplic_hub_chain (s : State) (i : Nat) v : (s.setAplic i v).hub.chain = s.hub.chain := rfl
@[simp] theorem State.setAplic_hub_inbound (s : State) (i : Nat) v : (s.setAplic i v).hub.inbound = s.hub.inbound := rfl
@[simp] theorem State.setAplic_hub_toDevice (s : State) (i : Nat) v : (s.setAplic i v).hub.toDevice = s.hub.toDevice := rfl
@[simp] theorem State.setAplic_hub_filter (s : State) (i : Nat) v : (s.setAplic i v).hub.filter = s.hub.filter := rfl
@[simp] theorem State.setAplic_hub_snoops (s : State) (i : Nat) v : (s.setAplic i v).hub.snoops = s.hub.snoops := rfl
@[simp] theorem State.setAplic_hub_cacheReqs (s : State) (i : Nat) v : (s.setAplic i v).hub.cacheReqs = s.hub.cacheReqs := rfl
@[simp] theorem State.setAplic_hub_cacheOut (s : State) (i : Nat) v : (s.setAplic i v).hub.cacheOut = s.hub.cacheOut := rfl
@[simp] theorem State.setAplic_hub_iommus (s : State) (i : Nat) v : (s.setAplic i v).hub.iommus = s.hub.iommus := rfl
@[simp] theorem State.setAplic_hub_ioTxid (s : State) (i : Nat) v : (s.setAplic i v).hub.ioTxid = s.hub.ioTxid := rfl
@[simp] theorem State.setAplic_hart (s : State) (i j : Nat) v : (s.setAplic i v).hart j = s.hart j := rfl
@[simp] theorem State.setAplic_core (s : State) (i j : Nat) v : (s.setAplic i v).core j = s.core j := rfl
@[simp] theorem State.setAplic_die (s : State) (i j : Nat) v : (s.setAplic i v).die j = s.die j := rfl
@[simp] theorem State.setAplic_port (s : State) (i j : Nat) v : (s.setAplic i v).port j = s.port j := rfl
@[simp] theorem State.setAplic_stop (s : State) (i j : Nat) v : (s.setAplic i v).stop j = s.stop j := rfl
@[simp] theorem State.setAplic_crossing (s : State) (i j : Nat) v : (s.setAplic i v).crossing j = s.crossing j := rfl
@[simp] theorem State.setAplic_home (s : State) (i j : Nat) v : (s.setAplic i v).home j = s.home j := rfl
@[simp] theorem State.setAplic_drop (s : State) (i j : Nat) v : (s.setAplic i v).drop j = s.drop j := rfl
@[simp] theorem State.setAplic_granule (s : State) (i j : Nat) v : (s.setAplic i v).granule j = s.granule j := rfl
@[simp] theorem State.setAplic_mapErr (s : State) (i j : Nat) v : (s.setAplic i v).mapErr j = s.mapErr j := rfl
@[simp] theorem State.setAplic_row (s : State) (i j : Nat) v : (s.setAplic i v).row j = s.row j := rfl
@[simp] theorem State.setAplic_channel (s : State) (i j : Nat) v : (s.setAplic i v).channel j = s.channel j := rfl
@[simp] theorem State.setAplic_forget (s : State) (i j : Nat) v : (s.setAplic i v).forget j = s.forget j := rfl
@[simp] theorem State.setAplic_patrolAt (s : State) (i j : Nat) v : (s.setAplic i v).patrolAt j = s.patrolAt j := rfl
@[simp] theorem State.setAplic_slotsUsed (s : State) (i j : Nat) v : (s.setAplic i v).slotsUsed j = s.slotsUsed j := rfl
@[simp] theorem State.setAplic_hueSt (s : State) (i j : Nat) v : (s.setAplic i v).hueSt j = s.hueSt j := rfl
@[simp] theorem State.setAplic_file (s : State) (i j : Nat) v : (s.setAplic i v).file j = s.file j := rfl
@[simp] theorem State.setAplic_meter (s : State) (i j : Nat) v : (s.setAplic i v).meter j = s.meter j := rfl
@[simp] theorem State.setAplic_occ (s : State) (i j : Nat) v : (s.setAplic i v).occ j = s.occ j := rfl
@[simp] theorem State.setAplic_slice (s : State) (i j : Nat) v : (s.setAplic i v).slice j = s.slice j := rfl
@[simp] theorem State.setAplic_cell (s : State) (i j : Nat) v : (s.setAplic i v).cell j = s.cell j := rfl
@[simp] theorem State.setAplic_rootPort (s : State) (i j : Nat) v : (s.setAplic i v).rootPort j = s.rootPort j := rfl
@[simp] theorem State.setAplic_cxlMem (s : State) (i j : Nat) v : (s.setAplic i v).cxlMem j = s.cxlMem j := rfl
@[simp] theorem State.setAplic_filterAt (s : State) (i j : Nat) v : (s.setAplic i v).filterAt j = s.filterAt j := rfl
@[simp] theorem State.setAplic_iommu (s : State) (i j : Nat) v : (s.setAplic i v).iommu j = s.iommu j := rfl
@[simp] theorem State.setAplic_mbx (s : State) (i j : Nat) v : (s.setAplic i v).mbx j = s.mbx j := rfl
@[simp] theorem State.setAplic_uncUnit (s : State) (i j : Nat) v : (s.setAplic i v).uncUnit j = s.uncUnit j := rfl
@[simp] theorem State.setAplic_dieCfg (s : State) (i j : Nat) v : (s.setAplic i v).dieCfg j = s.dieCfg j := rfl
@[simp] theorem State.setAplic_rail (s : State) (i j : Nat) v : (s.setAplic i v).rail j = s.rail j := rfl
@[simp] theorem State.setAplic_cascLink (s : State) (i j : Nat) v : (s.setAplic i v).cascLink j = s.cascLink j := rfl
@[simp] theorem State.setAplic_partition (s : State) (i j : Nat) v : (s.setAplic i v).partition j = s.partition j := rfl
@[simp] theorem State.setAplic_dieStatus (s : State) (i j : Nat) v : (s.setAplic i v).dieStatus j = s.dieStatus j := rfl
@[simp] theorem State.setAplic_spares (s : State) (i j : Nat) v : (s.setAplic i v).spares j = s.spares j := rfl

/-! What `setMeter` leaves alone. -/

@[simp] theorem State.setMeter_fab (s : State) (i : Nat) v : (s.setMeter i v).fab = s.fab := rfl
@[simp] theorem State.setMeter_mem (s : State) (i : Nat) v : (s.setMeter i v).mem = s.mem := rfl
@[simp] theorem State.setMeter_mgmt (s : State) (i : Nat) v : (s.setMeter i v).mgmt = s.mgmt := rfl
@[simp] theorem State.setMeter_now (s : State) (i : Nat) v : (s.setMeter i v).now = s.now := rfl
@[simp] theorem State.setMeter_free (s : State) (i : Nat) v : (s.setMeter i v).free = s.free := rfl
@[simp] theorem State.setMeter_pending (s : State) (i : Nat) v : (s.setMeter i v).pending = s.pending := rfl
@[simp] theorem State.setMeter_hub_hues (s : State) (i : Nat) v : (s.setMeter i v).hub.hues = s.hub.hues := rfl
@[simp] theorem State.setMeter_hub_bindings (s : State) (i : Nat) v : (s.setMeter i v).hub.bindings = s.hub.bindings := rfl
@[simp] theorem State.setMeter_hub_imsic (s : State) (i : Nat) v : (s.setMeter i v).hub.imsic = s.hub.imsic := rfl
@[simp] theorem State.setMeter_hub_aplic (s : State) (i : Nat) v : (s.setMeter i v).hub.aplic = s.hub.aplic := rfl
@[simp] theorem State.setMeter_hub_occSet (s : State) (i : Nat) v : (s.setMeter i v).hub.occSet = s.hub.occSet := rfl
@[simp] theorem State.setMeter_hub_ledger (s : State) (i : Nat) v : (s.setMeter i v).hub.ledger = s.hub.ledger := rfl
@[simp] theorem State.setMeter_hub_slices (s : State) (i : Nat) v : (s.setMeter i v).hub.slices = s.hub.slices := rfl
@[simp] theorem State.setMeter_hub_cells (s : State) (i : Nat) v : (s.setMeter i v).hub.cells = s.hub.cells := rfl
@[simp] theorem State.setMeter_hub_rootPorts (s : State) (i : Nat) v : (s.setMeter i v).hub.rootPorts = s.hub.rootPorts := rfl
@[simp] theorem State.setMeter_hub_cxlPorts (s : State) (i : Nat) v : (s.setMeter i v).hub.cxlPorts = s.hub.cxlPorts := rfl
@[simp] theorem State.setMeter_hub_chain (s : State) (i : Nat) v : (s.setMeter i v).hub.chain = s.hub.chain := rfl
@[simp] theorem State.setMeter_hub_inbound (s : State) (i : Nat) v : (s.setMeter i v).hub.inbound = s.hub.inbound := rfl
@[simp] theorem State.setMeter_hub_toDevice (s : State) (i : Nat) v : (s.setMeter i v).hub.toDevice = s.hub.toDevice := rfl
@[simp] theorem State.setMeter_hub_filter (s : State) (i : Nat) v : (s.setMeter i v).hub.filter = s.hub.filter := rfl
@[simp] theorem State.setMeter_hub_snoops (s : State) (i : Nat) v : (s.setMeter i v).hub.snoops = s.hub.snoops := rfl
@[simp] theorem State.setMeter_hub_cacheReqs (s : State) (i : Nat) v : (s.setMeter i v).hub.cacheReqs = s.hub.cacheReqs := rfl
@[simp] theorem State.setMeter_hub_cacheOut (s : State) (i : Nat) v : (s.setMeter i v).hub.cacheOut = s.hub.cacheOut := rfl
@[simp] theorem State.setMeter_hub_iommus (s : State) (i : Nat) v : (s.setMeter i v).hub.iommus = s.hub.iommus := rfl
@[simp] theorem State.setMeter_hub_ioTxid (s : State) (i : Nat) v : (s.setMeter i v).hub.ioTxid = s.hub.ioTxid := rfl
@[simp] theorem State.setMeter_hart (s : State) (i j : Nat) v : (s.setMeter i v).hart j = s.hart j := rfl
@[simp] theorem State.setMeter_core (s : State) (i j : Nat) v : (s.setMeter i v).core j = s.core j := rfl
@[simp] theorem State.setMeter_die (s : State) (i j : Nat) v : (s.setMeter i v).die j = s.die j := rfl
@[simp] theorem State.setMeter_port (s : State) (i j : Nat) v : (s.setMeter i v).port j = s.port j := rfl
@[simp] theorem State.setMeter_stop (s : State) (i j : Nat) v : (s.setMeter i v).stop j = s.stop j := rfl
@[simp] theorem State.setMeter_crossing (s : State) (i j : Nat) v : (s.setMeter i v).crossing j = s.crossing j := rfl
@[simp] theorem State.setMeter_home (s : State) (i j : Nat) v : (s.setMeter i v).home j = s.home j := rfl
@[simp] theorem State.setMeter_drop (s : State) (i j : Nat) v : (s.setMeter i v).drop j = s.drop j := rfl
@[simp] theorem State.setMeter_granule (s : State) (i j : Nat) v : (s.setMeter i v).granule j = s.granule j := rfl
@[simp] theorem State.setMeter_mapErr (s : State) (i j : Nat) v : (s.setMeter i v).mapErr j = s.mapErr j := rfl
@[simp] theorem State.setMeter_row (s : State) (i j : Nat) v : (s.setMeter i v).row j = s.row j := rfl
@[simp] theorem State.setMeter_channel (s : State) (i j : Nat) v : (s.setMeter i v).channel j = s.channel j := rfl
@[simp] theorem State.setMeter_forget (s : State) (i j : Nat) v : (s.setMeter i v).forget j = s.forget j := rfl
@[simp] theorem State.setMeter_patrolAt (s : State) (i j : Nat) v : (s.setMeter i v).patrolAt j = s.patrolAt j := rfl
@[simp] theorem State.setMeter_slotsUsed (s : State) (i j : Nat) v : (s.setMeter i v).slotsUsed j = s.slotsUsed j := rfl
@[simp] theorem State.setMeter_hueSt (s : State) (i j : Nat) v : (s.setMeter i v).hueSt j = s.hueSt j := rfl
@[simp] theorem State.setMeter_file (s : State) (i j : Nat) v : (s.setMeter i v).file j = s.file j := rfl
@[simp] theorem State.setMeter_aplic (s : State) (i j : Nat) v : (s.setMeter i v).aplic j = s.aplic j := rfl
@[simp] theorem State.setMeter_occ (s : State) (i j : Nat) v : (s.setMeter i v).occ j = s.occ j := rfl
@[simp] theorem State.setMeter_slice (s : State) (i j : Nat) v : (s.setMeter i v).slice j = s.slice j := rfl
@[simp] theorem State.setMeter_cell (s : State) (i j : Nat) v : (s.setMeter i v).cell j = s.cell j := rfl
@[simp] theorem State.setMeter_rootPort (s : State) (i j : Nat) v : (s.setMeter i v).rootPort j = s.rootPort j := rfl
@[simp] theorem State.setMeter_cxlMem (s : State) (i j : Nat) v : (s.setMeter i v).cxlMem j = s.cxlMem j := rfl
@[simp] theorem State.setMeter_filterAt (s : State) (i j : Nat) v : (s.setMeter i v).filterAt j = s.filterAt j := rfl
@[simp] theorem State.setMeter_iommu (s : State) (i j : Nat) v : (s.setMeter i v).iommu j = s.iommu j := rfl
@[simp] theorem State.setMeter_mbx (s : State) (i j : Nat) v : (s.setMeter i v).mbx j = s.mbx j := rfl
@[simp] theorem State.setMeter_uncUnit (s : State) (i j : Nat) v : (s.setMeter i v).uncUnit j = s.uncUnit j := rfl
@[simp] theorem State.setMeter_dieCfg (s : State) (i j : Nat) v : (s.setMeter i v).dieCfg j = s.dieCfg j := rfl
@[simp] theorem State.setMeter_rail (s : State) (i j : Nat) v : (s.setMeter i v).rail j = s.rail j := rfl
@[simp] theorem State.setMeter_cascLink (s : State) (i j : Nat) v : (s.setMeter i v).cascLink j = s.cascLink j := rfl
@[simp] theorem State.setMeter_partition (s : State) (i j : Nat) v : (s.setMeter i v).partition j = s.partition j := rfl
@[simp] theorem State.setMeter_dieStatus (s : State) (i j : Nat) v : (s.setMeter i v).dieStatus j = s.dieStatus j := rfl
@[simp] theorem State.setMeter_spares (s : State) (i j : Nat) v : (s.setMeter i v).spares j = s.spares j := rfl

/-! What `setOcc` leaves alone. -/

@[simp] theorem State.setOcc_fab (s : State) (i : Nat) v : (s.setOcc i v).fab = s.fab := rfl
@[simp] theorem State.setOcc_mem (s : State) (i : Nat) v : (s.setOcc i v).mem = s.mem := rfl
@[simp] theorem State.setOcc_mgmt (s : State) (i : Nat) v : (s.setOcc i v).mgmt = s.mgmt := rfl
@[simp] theorem State.setOcc_now (s : State) (i : Nat) v : (s.setOcc i v).now = s.now := rfl
@[simp] theorem State.setOcc_free (s : State) (i : Nat) v : (s.setOcc i v).free = s.free := rfl
@[simp] theorem State.setOcc_pending (s : State) (i : Nat) v : (s.setOcc i v).pending = s.pending := rfl
@[simp] theorem State.setOcc_hub_hues (s : State) (i : Nat) v : (s.setOcc i v).hub.hues = s.hub.hues := rfl
@[simp] theorem State.setOcc_hub_bindings (s : State) (i : Nat) v : (s.setOcc i v).hub.bindings = s.hub.bindings := rfl
@[simp] theorem State.setOcc_hub_imsic (s : State) (i : Nat) v : (s.setOcc i v).hub.imsic = s.hub.imsic := rfl
@[simp] theorem State.setOcc_hub_aplic (s : State) (i : Nat) v : (s.setOcc i v).hub.aplic = s.hub.aplic := rfl
@[simp] theorem State.setOcc_hub_meters (s : State) (i : Nat) v : (s.setOcc i v).hub.meters = s.hub.meters := rfl
@[simp] theorem State.setOcc_hub_ledger (s : State) (i : Nat) v : (s.setOcc i v).hub.ledger = s.hub.ledger := rfl
@[simp] theorem State.setOcc_hub_slices (s : State) (i : Nat) v : (s.setOcc i v).hub.slices = s.hub.slices := rfl
@[simp] theorem State.setOcc_hub_cells (s : State) (i : Nat) v : (s.setOcc i v).hub.cells = s.hub.cells := rfl
@[simp] theorem State.setOcc_hub_rootPorts (s : State) (i : Nat) v : (s.setOcc i v).hub.rootPorts = s.hub.rootPorts := rfl
@[simp] theorem State.setOcc_hub_cxlPorts (s : State) (i : Nat) v : (s.setOcc i v).hub.cxlPorts = s.hub.cxlPorts := rfl
@[simp] theorem State.setOcc_hub_chain (s : State) (i : Nat) v : (s.setOcc i v).hub.chain = s.hub.chain := rfl
@[simp] theorem State.setOcc_hub_inbound (s : State) (i : Nat) v : (s.setOcc i v).hub.inbound = s.hub.inbound := rfl
@[simp] theorem State.setOcc_hub_toDevice (s : State) (i : Nat) v : (s.setOcc i v).hub.toDevice = s.hub.toDevice := rfl
@[simp] theorem State.setOcc_hub_filter (s : State) (i : Nat) v : (s.setOcc i v).hub.filter = s.hub.filter := rfl
@[simp] theorem State.setOcc_hub_snoops (s : State) (i : Nat) v : (s.setOcc i v).hub.snoops = s.hub.snoops := rfl
@[simp] theorem State.setOcc_hub_cacheReqs (s : State) (i : Nat) v : (s.setOcc i v).hub.cacheReqs = s.hub.cacheReqs := rfl
@[simp] theorem State.setOcc_hub_cacheOut (s : State) (i : Nat) v : (s.setOcc i v).hub.cacheOut = s.hub.cacheOut := rfl
@[simp] theorem State.setOcc_hub_iommus (s : State) (i : Nat) v : (s.setOcc i v).hub.iommus = s.hub.iommus := rfl
@[simp] theorem State.setOcc_hub_ioTxid (s : State) (i : Nat) v : (s.setOcc i v).hub.ioTxid = s.hub.ioTxid := rfl
@[simp] theorem State.setOcc_hart (s : State) (i j : Nat) v : (s.setOcc i v).hart j = s.hart j := rfl
@[simp] theorem State.setOcc_core (s : State) (i j : Nat) v : (s.setOcc i v).core j = s.core j := rfl
@[simp] theorem State.setOcc_die (s : State) (i j : Nat) v : (s.setOcc i v).die j = s.die j := rfl
@[simp] theorem State.setOcc_port (s : State) (i j : Nat) v : (s.setOcc i v).port j = s.port j := rfl
@[simp] theorem State.setOcc_stop (s : State) (i j : Nat) v : (s.setOcc i v).stop j = s.stop j := rfl
@[simp] theorem State.setOcc_crossing (s : State) (i j : Nat) v : (s.setOcc i v).crossing j = s.crossing j := rfl
@[simp] theorem State.setOcc_home (s : State) (i j : Nat) v : (s.setOcc i v).home j = s.home j := rfl
@[simp] theorem State.setOcc_drop (s : State) (i j : Nat) v : (s.setOcc i v).drop j = s.drop j := rfl
@[simp] theorem State.setOcc_granule (s : State) (i j : Nat) v : (s.setOcc i v).granule j = s.granule j := rfl
@[simp] theorem State.setOcc_mapErr (s : State) (i j : Nat) v : (s.setOcc i v).mapErr j = s.mapErr j := rfl
@[simp] theorem State.setOcc_row (s : State) (i j : Nat) v : (s.setOcc i v).row j = s.row j := rfl
@[simp] theorem State.setOcc_channel (s : State) (i j : Nat) v : (s.setOcc i v).channel j = s.channel j := rfl
@[simp] theorem State.setOcc_forget (s : State) (i j : Nat) v : (s.setOcc i v).forget j = s.forget j := rfl
@[simp] theorem State.setOcc_patrolAt (s : State) (i j : Nat) v : (s.setOcc i v).patrolAt j = s.patrolAt j := rfl
@[simp] theorem State.setOcc_slotsUsed (s : State) (i j : Nat) v : (s.setOcc i v).slotsUsed j = s.slotsUsed j := rfl
@[simp] theorem State.setOcc_hueSt (s : State) (i j : Nat) v : (s.setOcc i v).hueSt j = s.hueSt j := rfl
@[simp] theorem State.setOcc_file (s : State) (i j : Nat) v : (s.setOcc i v).file j = s.file j := rfl
@[simp] theorem State.setOcc_aplic (s : State) (i j : Nat) v : (s.setOcc i v).aplic j = s.aplic j := rfl
@[simp] theorem State.setOcc_meter (s : State) (i j : Nat) v : (s.setOcc i v).meter j = s.meter j := rfl
@[simp] theorem State.setOcc_slice (s : State) (i j : Nat) v : (s.setOcc i v).slice j = s.slice j := rfl
@[simp] theorem State.setOcc_cell (s : State) (i j : Nat) v : (s.setOcc i v).cell j = s.cell j := rfl
@[simp] theorem State.setOcc_rootPort (s : State) (i j : Nat) v : (s.setOcc i v).rootPort j = s.rootPort j := rfl
@[simp] theorem State.setOcc_cxlMem (s : State) (i j : Nat) v : (s.setOcc i v).cxlMem j = s.cxlMem j := rfl
@[simp] theorem State.setOcc_filterAt (s : State) (i j : Nat) v : (s.setOcc i v).filterAt j = s.filterAt j := rfl
@[simp] theorem State.setOcc_iommu (s : State) (i j : Nat) v : (s.setOcc i v).iommu j = s.iommu j := rfl
@[simp] theorem State.setOcc_mbx (s : State) (i j : Nat) v : (s.setOcc i v).mbx j = s.mbx j := rfl
@[simp] theorem State.setOcc_uncUnit (s : State) (i j : Nat) v : (s.setOcc i v).uncUnit j = s.uncUnit j := rfl
@[simp] theorem State.setOcc_dieCfg (s : State) (i j : Nat) v : (s.setOcc i v).dieCfg j = s.dieCfg j := rfl
@[simp] theorem State.setOcc_rail (s : State) (i j : Nat) v : (s.setOcc i v).rail j = s.rail j := rfl
@[simp] theorem State.setOcc_cascLink (s : State) (i j : Nat) v : (s.setOcc i v).cascLink j = s.cascLink j := rfl
@[simp] theorem State.setOcc_partition (s : State) (i j : Nat) v : (s.setOcc i v).partition j = s.partition j := rfl
@[simp] theorem State.setOcc_dieStatus (s : State) (i j : Nat) v : (s.setOcc i v).dieStatus j = s.dieStatus j := rfl
@[simp] theorem State.setOcc_spares (s : State) (i j : Nat) v : (s.setOcc i v).spares j = s.spares j := rfl

/-! What `setSlice` leaves alone. -/

@[simp] theorem State.setSlice_fab (s : State) (i : Nat) v : (s.setSlice i v).fab = s.fab := rfl
@[simp] theorem State.setSlice_mem (s : State) (i : Nat) v : (s.setSlice i v).mem = s.mem := rfl
@[simp] theorem State.setSlice_mgmt (s : State) (i : Nat) v : (s.setSlice i v).mgmt = s.mgmt := rfl
@[simp] theorem State.setSlice_now (s : State) (i : Nat) v : (s.setSlice i v).now = s.now := rfl
@[simp] theorem State.setSlice_free (s : State) (i : Nat) v : (s.setSlice i v).free = s.free := rfl
@[simp] theorem State.setSlice_pending (s : State) (i : Nat) v : (s.setSlice i v).pending = s.pending := rfl
@[simp] theorem State.setSlice_hub_hues (s : State) (i : Nat) v : (s.setSlice i v).hub.hues = s.hub.hues := rfl
@[simp] theorem State.setSlice_hub_bindings (s : State) (i : Nat) v : (s.setSlice i v).hub.bindings = s.hub.bindings := rfl
@[simp] theorem State.setSlice_hub_imsic (s : State) (i : Nat) v : (s.setSlice i v).hub.imsic = s.hub.imsic := rfl
@[simp] theorem State.setSlice_hub_aplic (s : State) (i : Nat) v : (s.setSlice i v).hub.aplic = s.hub.aplic := rfl
@[simp] theorem State.setSlice_hub_meters (s : State) (i : Nat) v : (s.setSlice i v).hub.meters = s.hub.meters := rfl
@[simp] theorem State.setSlice_hub_occSet (s : State) (i : Nat) v : (s.setSlice i v).hub.occSet = s.hub.occSet := rfl
@[simp] theorem State.setSlice_hub_ledger (s : State) (i : Nat) v : (s.setSlice i v).hub.ledger = s.hub.ledger := rfl
@[simp] theorem State.setSlice_hub_cells (s : State) (i : Nat) v : (s.setSlice i v).hub.cells = s.hub.cells := rfl
@[simp] theorem State.setSlice_hub_rootPorts (s : State) (i : Nat) v : (s.setSlice i v).hub.rootPorts = s.hub.rootPorts := rfl
@[simp] theorem State.setSlice_hub_cxlPorts (s : State) (i : Nat) v : (s.setSlice i v).hub.cxlPorts = s.hub.cxlPorts := rfl
@[simp] theorem State.setSlice_hub_chain (s : State) (i : Nat) v : (s.setSlice i v).hub.chain = s.hub.chain := rfl
@[simp] theorem State.setSlice_hub_inbound (s : State) (i : Nat) v : (s.setSlice i v).hub.inbound = s.hub.inbound := rfl
@[simp] theorem State.setSlice_hub_toDevice (s : State) (i : Nat) v : (s.setSlice i v).hub.toDevice = s.hub.toDevice := rfl
@[simp] theorem State.setSlice_hub_filter (s : State) (i : Nat) v : (s.setSlice i v).hub.filter = s.hub.filter := rfl
@[simp] theorem State.setSlice_hub_snoops (s : State) (i : Nat) v : (s.setSlice i v).hub.snoops = s.hub.snoops := rfl
@[simp] theorem State.setSlice_hub_cacheReqs (s : State) (i : Nat) v : (s.setSlice i v).hub.cacheReqs = s.hub.cacheReqs := rfl
@[simp] theorem State.setSlice_hub_cacheOut (s : State) (i : Nat) v : (s.setSlice i v).hub.cacheOut = s.hub.cacheOut := rfl
@[simp] theorem State.setSlice_hub_iommus (s : State) (i : Nat) v : (s.setSlice i v).hub.iommus = s.hub.iommus := rfl
@[simp] theorem State.setSlice_hub_ioTxid (s : State) (i : Nat) v : (s.setSlice i v).hub.ioTxid = s.hub.ioTxid := rfl
@[simp] theorem State.setSlice_hart (s : State) (i j : Nat) v : (s.setSlice i v).hart j = s.hart j := rfl
@[simp] theorem State.setSlice_core (s : State) (i j : Nat) v : (s.setSlice i v).core j = s.core j := rfl
@[simp] theorem State.setSlice_die (s : State) (i j : Nat) v : (s.setSlice i v).die j = s.die j := rfl
@[simp] theorem State.setSlice_port (s : State) (i j : Nat) v : (s.setSlice i v).port j = s.port j := rfl
@[simp] theorem State.setSlice_stop (s : State) (i j : Nat) v : (s.setSlice i v).stop j = s.stop j := rfl
@[simp] theorem State.setSlice_crossing (s : State) (i j : Nat) v : (s.setSlice i v).crossing j = s.crossing j := rfl
@[simp] theorem State.setSlice_home (s : State) (i j : Nat) v : (s.setSlice i v).home j = s.home j := rfl
@[simp] theorem State.setSlice_drop (s : State) (i j : Nat) v : (s.setSlice i v).drop j = s.drop j := rfl
@[simp] theorem State.setSlice_granule (s : State) (i j : Nat) v : (s.setSlice i v).granule j = s.granule j := rfl
@[simp] theorem State.setSlice_mapErr (s : State) (i j : Nat) v : (s.setSlice i v).mapErr j = s.mapErr j := rfl
@[simp] theorem State.setSlice_row (s : State) (i j : Nat) v : (s.setSlice i v).row j = s.row j := rfl
@[simp] theorem State.setSlice_channel (s : State) (i j : Nat) v : (s.setSlice i v).channel j = s.channel j := rfl
@[simp] theorem State.setSlice_forget (s : State) (i j : Nat) v : (s.setSlice i v).forget j = s.forget j := rfl
@[simp] theorem State.setSlice_patrolAt (s : State) (i j : Nat) v : (s.setSlice i v).patrolAt j = s.patrolAt j := rfl
@[simp] theorem State.setSlice_slotsUsed (s : State) (i j : Nat) v : (s.setSlice i v).slotsUsed j = s.slotsUsed j := rfl
@[simp] theorem State.setSlice_hueSt (s : State) (i j : Nat) v : (s.setSlice i v).hueSt j = s.hueSt j := rfl
@[simp] theorem State.setSlice_file (s : State) (i j : Nat) v : (s.setSlice i v).file j = s.file j := rfl
@[simp] theorem State.setSlice_aplic (s : State) (i j : Nat) v : (s.setSlice i v).aplic j = s.aplic j := rfl
@[simp] theorem State.setSlice_meter (s : State) (i j : Nat) v : (s.setSlice i v).meter j = s.meter j := rfl
@[simp] theorem State.setSlice_occ (s : State) (i j : Nat) v : (s.setSlice i v).occ j = s.occ j := rfl
@[simp] theorem State.setSlice_cell (s : State) (i j : Nat) v : (s.setSlice i v).cell j = s.cell j := rfl
@[simp] theorem State.setSlice_rootPort (s : State) (i j : Nat) v : (s.setSlice i v).rootPort j = s.rootPort j := rfl
@[simp] theorem State.setSlice_cxlMem (s : State) (i j : Nat) v : (s.setSlice i v).cxlMem j = s.cxlMem j := rfl
@[simp] theorem State.setSlice_filterAt (s : State) (i j : Nat) v : (s.setSlice i v).filterAt j = s.filterAt j := rfl
@[simp] theorem State.setSlice_iommu (s : State) (i j : Nat) v : (s.setSlice i v).iommu j = s.iommu j := rfl
@[simp] theorem State.setSlice_mbx (s : State) (i j : Nat) v : (s.setSlice i v).mbx j = s.mbx j := rfl
@[simp] theorem State.setSlice_uncUnit (s : State) (i j : Nat) v : (s.setSlice i v).uncUnit j = s.uncUnit j := rfl
@[simp] theorem State.setSlice_dieCfg (s : State) (i j : Nat) v : (s.setSlice i v).dieCfg j = s.dieCfg j := rfl
@[simp] theorem State.setSlice_rail (s : State) (i j : Nat) v : (s.setSlice i v).rail j = s.rail j := rfl
@[simp] theorem State.setSlice_cascLink (s : State) (i j : Nat) v : (s.setSlice i v).cascLink j = s.cascLink j := rfl
@[simp] theorem State.setSlice_partition (s : State) (i j : Nat) v : (s.setSlice i v).partition j = s.partition j := rfl
@[simp] theorem State.setSlice_dieStatus (s : State) (i j : Nat) v : (s.setSlice i v).dieStatus j = s.dieStatus j := rfl
@[simp] theorem State.setSlice_spares (s : State) (i j : Nat) v : (s.setSlice i v).spares j = s.spares j := rfl

/-! What `setCell` leaves alone. -/

@[simp] theorem State.setCell_fab (s : State) (i : Nat) v : (s.setCell i v).fab = s.fab := rfl
@[simp] theorem State.setCell_mem (s : State) (i : Nat) v : (s.setCell i v).mem = s.mem := rfl
@[simp] theorem State.setCell_mgmt (s : State) (i : Nat) v : (s.setCell i v).mgmt = s.mgmt := rfl
@[simp] theorem State.setCell_now (s : State) (i : Nat) v : (s.setCell i v).now = s.now := rfl
@[simp] theorem State.setCell_free (s : State) (i : Nat) v : (s.setCell i v).free = s.free := rfl
@[simp] theorem State.setCell_pending (s : State) (i : Nat) v : (s.setCell i v).pending = s.pending := rfl
@[simp] theorem State.setCell_hub_hues (s : State) (i : Nat) v : (s.setCell i v).hub.hues = s.hub.hues := rfl
@[simp] theorem State.setCell_hub_bindings (s : State) (i : Nat) v : (s.setCell i v).hub.bindings = s.hub.bindings := rfl
@[simp] theorem State.setCell_hub_imsic (s : State) (i : Nat) v : (s.setCell i v).hub.imsic = s.hub.imsic := rfl
@[simp] theorem State.setCell_hub_aplic (s : State) (i : Nat) v : (s.setCell i v).hub.aplic = s.hub.aplic := rfl
@[simp] theorem State.setCell_hub_meters (s : State) (i : Nat) v : (s.setCell i v).hub.meters = s.hub.meters := rfl
@[simp] theorem State.setCell_hub_occSet (s : State) (i : Nat) v : (s.setCell i v).hub.occSet = s.hub.occSet := rfl
@[simp] theorem State.setCell_hub_ledger (s : State) (i : Nat) v : (s.setCell i v).hub.ledger = s.hub.ledger := rfl
@[simp] theorem State.setCell_hub_slices (s : State) (i : Nat) v : (s.setCell i v).hub.slices = s.hub.slices := rfl
@[simp] theorem State.setCell_hub_rootPorts (s : State) (i : Nat) v : (s.setCell i v).hub.rootPorts = s.hub.rootPorts := rfl
@[simp] theorem State.setCell_hub_cxlPorts (s : State) (i : Nat) v : (s.setCell i v).hub.cxlPorts = s.hub.cxlPorts := rfl
@[simp] theorem State.setCell_hub_chain (s : State) (i : Nat) v : (s.setCell i v).hub.chain = s.hub.chain := rfl
@[simp] theorem State.setCell_hub_inbound (s : State) (i : Nat) v : (s.setCell i v).hub.inbound = s.hub.inbound := rfl
@[simp] theorem State.setCell_hub_toDevice (s : State) (i : Nat) v : (s.setCell i v).hub.toDevice = s.hub.toDevice := rfl
@[simp] theorem State.setCell_hub_filter (s : State) (i : Nat) v : (s.setCell i v).hub.filter = s.hub.filter := rfl
@[simp] theorem State.setCell_hub_snoops (s : State) (i : Nat) v : (s.setCell i v).hub.snoops = s.hub.snoops := rfl
@[simp] theorem State.setCell_hub_cacheReqs (s : State) (i : Nat) v : (s.setCell i v).hub.cacheReqs = s.hub.cacheReqs := rfl
@[simp] theorem State.setCell_hub_cacheOut (s : State) (i : Nat) v : (s.setCell i v).hub.cacheOut = s.hub.cacheOut := rfl
@[simp] theorem State.setCell_hub_iommus (s : State) (i : Nat) v : (s.setCell i v).hub.iommus = s.hub.iommus := rfl
@[simp] theorem State.setCell_hub_ioTxid (s : State) (i : Nat) v : (s.setCell i v).hub.ioTxid = s.hub.ioTxid := rfl
@[simp] theorem State.setCell_hart (s : State) (i j : Nat) v : (s.setCell i v).hart j = s.hart j := rfl
@[simp] theorem State.setCell_core (s : State) (i j : Nat) v : (s.setCell i v).core j = s.core j := rfl
@[simp] theorem State.setCell_die (s : State) (i j : Nat) v : (s.setCell i v).die j = s.die j := rfl
@[simp] theorem State.setCell_port (s : State) (i j : Nat) v : (s.setCell i v).port j = s.port j := rfl
@[simp] theorem State.setCell_stop (s : State) (i j : Nat) v : (s.setCell i v).stop j = s.stop j := rfl
@[simp] theorem State.setCell_crossing (s : State) (i j : Nat) v : (s.setCell i v).crossing j = s.crossing j := rfl
@[simp] theorem State.setCell_home (s : State) (i j : Nat) v : (s.setCell i v).home j = s.home j := rfl
@[simp] theorem State.setCell_drop (s : State) (i j : Nat) v : (s.setCell i v).drop j = s.drop j := rfl
@[simp] theorem State.setCell_granule (s : State) (i j : Nat) v : (s.setCell i v).granule j = s.granule j := rfl
@[simp] theorem State.setCell_mapErr (s : State) (i j : Nat) v : (s.setCell i v).mapErr j = s.mapErr j := rfl
@[simp] theorem State.setCell_row (s : State) (i j : Nat) v : (s.setCell i v).row j = s.row j := rfl
@[simp] theorem State.setCell_channel (s : State) (i j : Nat) v : (s.setCell i v).channel j = s.channel j := rfl
@[simp] theorem State.setCell_forget (s : State) (i j : Nat) v : (s.setCell i v).forget j = s.forget j := rfl
@[simp] theorem State.setCell_patrolAt (s : State) (i j : Nat) v : (s.setCell i v).patrolAt j = s.patrolAt j := rfl
@[simp] theorem State.setCell_slotsUsed (s : State) (i j : Nat) v : (s.setCell i v).slotsUsed j = s.slotsUsed j := rfl
@[simp] theorem State.setCell_hueSt (s : State) (i j : Nat) v : (s.setCell i v).hueSt j = s.hueSt j := rfl
@[simp] theorem State.setCell_file (s : State) (i j : Nat) v : (s.setCell i v).file j = s.file j := rfl
@[simp] theorem State.setCell_aplic (s : State) (i j : Nat) v : (s.setCell i v).aplic j = s.aplic j := rfl
@[simp] theorem State.setCell_meter (s : State) (i j : Nat) v : (s.setCell i v).meter j = s.meter j := rfl
@[simp] theorem State.setCell_occ (s : State) (i j : Nat) v : (s.setCell i v).occ j = s.occ j := rfl
@[simp] theorem State.setCell_slice (s : State) (i j : Nat) v : (s.setCell i v).slice j = s.slice j := rfl
@[simp] theorem State.setCell_rootPort (s : State) (i j : Nat) v : (s.setCell i v).rootPort j = s.rootPort j := rfl
@[simp] theorem State.setCell_cxlMem (s : State) (i j : Nat) v : (s.setCell i v).cxlMem j = s.cxlMem j := rfl
@[simp] theorem State.setCell_filterAt (s : State) (i j : Nat) v : (s.setCell i v).filterAt j = s.filterAt j := rfl
@[simp] theorem State.setCell_iommu (s : State) (i j : Nat) v : (s.setCell i v).iommu j = s.iommu j := rfl
@[simp] theorem State.setCell_mbx (s : State) (i j : Nat) v : (s.setCell i v).mbx j = s.mbx j := rfl
@[simp] theorem State.setCell_uncUnit (s : State) (i j : Nat) v : (s.setCell i v).uncUnit j = s.uncUnit j := rfl
@[simp] theorem State.setCell_dieCfg (s : State) (i j : Nat) v : (s.setCell i v).dieCfg j = s.dieCfg j := rfl
@[simp] theorem State.setCell_rail (s : State) (i j : Nat) v : (s.setCell i v).rail j = s.rail j := rfl
@[simp] theorem State.setCell_cascLink (s : State) (i j : Nat) v : (s.setCell i v).cascLink j = s.cascLink j := rfl
@[simp] theorem State.setCell_partition (s : State) (i j : Nat) v : (s.setCell i v).partition j = s.partition j := rfl
@[simp] theorem State.setCell_dieStatus (s : State) (i j : Nat) v : (s.setCell i v).dieStatus j = s.dieStatus j := rfl
@[simp] theorem State.setCell_spares (s : State) (i j : Nat) v : (s.setCell i v).spares j = s.spares j := rfl

/-! What `setRootPort` leaves alone. -/

@[simp] theorem State.setRootPort_fab (s : State) (i : Nat) v : (s.setRootPort i v).fab = s.fab := rfl
@[simp] theorem State.setRootPort_mem (s : State) (i : Nat) v : (s.setRootPort i v).mem = s.mem := rfl
@[simp] theorem State.setRootPort_mgmt (s : State) (i : Nat) v : (s.setRootPort i v).mgmt = s.mgmt := rfl
@[simp] theorem State.setRootPort_now (s : State) (i : Nat) v : (s.setRootPort i v).now = s.now := rfl
@[simp] theorem State.setRootPort_free (s : State) (i : Nat) v : (s.setRootPort i v).free = s.free := rfl
@[simp] theorem State.setRootPort_pending (s : State) (i : Nat) v : (s.setRootPort i v).pending = s.pending := rfl
@[simp] theorem State.setRootPort_hub_hues (s : State) (i : Nat) v : (s.setRootPort i v).hub.hues = s.hub.hues := rfl
@[simp] theorem State.setRootPort_hub_bindings (s : State) (i : Nat) v : (s.setRootPort i v).hub.bindings = s.hub.bindings := rfl
@[simp] theorem State.setRootPort_hub_imsic (s : State) (i : Nat) v : (s.setRootPort i v).hub.imsic = s.hub.imsic := rfl
@[simp] theorem State.setRootPort_hub_aplic (s : State) (i : Nat) v : (s.setRootPort i v).hub.aplic = s.hub.aplic := rfl
@[simp] theorem State.setRootPort_hub_meters (s : State) (i : Nat) v : (s.setRootPort i v).hub.meters = s.hub.meters := rfl
@[simp] theorem State.setRootPort_hub_occSet (s : State) (i : Nat) v : (s.setRootPort i v).hub.occSet = s.hub.occSet := rfl
@[simp] theorem State.setRootPort_hub_ledger (s : State) (i : Nat) v : (s.setRootPort i v).hub.ledger = s.hub.ledger := rfl
@[simp] theorem State.setRootPort_hub_slices (s : State) (i : Nat) v : (s.setRootPort i v).hub.slices = s.hub.slices := rfl
@[simp] theorem State.setRootPort_hub_cells (s : State) (i : Nat) v : (s.setRootPort i v).hub.cells = s.hub.cells := rfl
@[simp] theorem State.setRootPort_hub_cxlPorts (s : State) (i : Nat) v : (s.setRootPort i v).hub.cxlPorts = s.hub.cxlPorts := rfl
@[simp] theorem State.setRootPort_hub_chain (s : State) (i : Nat) v : (s.setRootPort i v).hub.chain = s.hub.chain := rfl
@[simp] theorem State.setRootPort_hub_inbound (s : State) (i : Nat) v : (s.setRootPort i v).hub.inbound = s.hub.inbound := rfl
@[simp] theorem State.setRootPort_hub_toDevice (s : State) (i : Nat) v : (s.setRootPort i v).hub.toDevice = s.hub.toDevice := rfl
@[simp] theorem State.setRootPort_hub_filter (s : State) (i : Nat) v : (s.setRootPort i v).hub.filter = s.hub.filter := rfl
@[simp] theorem State.setRootPort_hub_snoops (s : State) (i : Nat) v : (s.setRootPort i v).hub.snoops = s.hub.snoops := rfl
@[simp] theorem State.setRootPort_hub_cacheReqs (s : State) (i : Nat) v : (s.setRootPort i v).hub.cacheReqs = s.hub.cacheReqs := rfl
@[simp] theorem State.setRootPort_hub_cacheOut (s : State) (i : Nat) v : (s.setRootPort i v).hub.cacheOut = s.hub.cacheOut := rfl
@[simp] theorem State.setRootPort_hub_iommus (s : State) (i : Nat) v : (s.setRootPort i v).hub.iommus = s.hub.iommus := rfl
@[simp] theorem State.setRootPort_hub_ioTxid (s : State) (i : Nat) v : (s.setRootPort i v).hub.ioTxid = s.hub.ioTxid := rfl
@[simp] theorem State.setRootPort_hart (s : State) (i j : Nat) v : (s.setRootPort i v).hart j = s.hart j := rfl
@[simp] theorem State.setRootPort_core (s : State) (i j : Nat) v : (s.setRootPort i v).core j = s.core j := rfl
@[simp] theorem State.setRootPort_die (s : State) (i j : Nat) v : (s.setRootPort i v).die j = s.die j := rfl
@[simp] theorem State.setRootPort_port (s : State) (i j : Nat) v : (s.setRootPort i v).port j = s.port j := rfl
@[simp] theorem State.setRootPort_stop (s : State) (i j : Nat) v : (s.setRootPort i v).stop j = s.stop j := rfl
@[simp] theorem State.setRootPort_crossing (s : State) (i j : Nat) v : (s.setRootPort i v).crossing j = s.crossing j := rfl
@[simp] theorem State.setRootPort_home (s : State) (i j : Nat) v : (s.setRootPort i v).home j = s.home j := rfl
@[simp] theorem State.setRootPort_drop (s : State) (i j : Nat) v : (s.setRootPort i v).drop j = s.drop j := rfl
@[simp] theorem State.setRootPort_granule (s : State) (i j : Nat) v : (s.setRootPort i v).granule j = s.granule j := rfl
@[simp] theorem State.setRootPort_mapErr (s : State) (i j : Nat) v : (s.setRootPort i v).mapErr j = s.mapErr j := rfl
@[simp] theorem State.setRootPort_row (s : State) (i j : Nat) v : (s.setRootPort i v).row j = s.row j := rfl
@[simp] theorem State.setRootPort_channel (s : State) (i j : Nat) v : (s.setRootPort i v).channel j = s.channel j := rfl
@[simp] theorem State.setRootPort_forget (s : State) (i j : Nat) v : (s.setRootPort i v).forget j = s.forget j := rfl
@[simp] theorem State.setRootPort_patrolAt (s : State) (i j : Nat) v : (s.setRootPort i v).patrolAt j = s.patrolAt j := rfl
@[simp] theorem State.setRootPort_slotsUsed (s : State) (i j : Nat) v : (s.setRootPort i v).slotsUsed j = s.slotsUsed j := rfl
@[simp] theorem State.setRootPort_hueSt (s : State) (i j : Nat) v : (s.setRootPort i v).hueSt j = s.hueSt j := rfl
@[simp] theorem State.setRootPort_file (s : State) (i j : Nat) v : (s.setRootPort i v).file j = s.file j := rfl
@[simp] theorem State.setRootPort_aplic (s : State) (i j : Nat) v : (s.setRootPort i v).aplic j = s.aplic j := rfl
@[simp] theorem State.setRootPort_meter (s : State) (i j : Nat) v : (s.setRootPort i v).meter j = s.meter j := rfl
@[simp] theorem State.setRootPort_occ (s : State) (i j : Nat) v : (s.setRootPort i v).occ j = s.occ j := rfl
@[simp] theorem State.setRootPort_slice (s : State) (i j : Nat) v : (s.setRootPort i v).slice j = s.slice j := rfl
@[simp] theorem State.setRootPort_cell (s : State) (i j : Nat) v : (s.setRootPort i v).cell j = s.cell j := rfl
@[simp] theorem State.setRootPort_cxlMem (s : State) (i j : Nat) v : (s.setRootPort i v).cxlMem j = s.cxlMem j := rfl
@[simp] theorem State.setRootPort_filterAt (s : State) (i j : Nat) v : (s.setRootPort i v).filterAt j = s.filterAt j := rfl
@[simp] theorem State.setRootPort_iommu (s : State) (i j : Nat) v : (s.setRootPort i v).iommu j = s.iommu j := rfl
@[simp] theorem State.setRootPort_mbx (s : State) (i j : Nat) v : (s.setRootPort i v).mbx j = s.mbx j := rfl
@[simp] theorem State.setRootPort_uncUnit (s : State) (i j : Nat) v : (s.setRootPort i v).uncUnit j = s.uncUnit j := rfl
@[simp] theorem State.setRootPort_dieCfg (s : State) (i j : Nat) v : (s.setRootPort i v).dieCfg j = s.dieCfg j := rfl
@[simp] theorem State.setRootPort_rail (s : State) (i j : Nat) v : (s.setRootPort i v).rail j = s.rail j := rfl
@[simp] theorem State.setRootPort_cascLink (s : State) (i j : Nat) v : (s.setRootPort i v).cascLink j = s.cascLink j := rfl
@[simp] theorem State.setRootPort_partition (s : State) (i j : Nat) v : (s.setRootPort i v).partition j = s.partition j := rfl
@[simp] theorem State.setRootPort_dieStatus (s : State) (i j : Nat) v : (s.setRootPort i v).dieStatus j = s.dieStatus j := rfl
@[simp] theorem State.setRootPort_spares (s : State) (i j : Nat) v : (s.setRootPort i v).spares j = s.spares j := rfl

/-! What `setCxlMem` leaves alone. -/

@[simp] theorem State.setCxlMem_fab (s : State) (i : Nat) v : (s.setCxlMem i v).fab = s.fab := rfl
@[simp] theorem State.setCxlMem_mem (s : State) (i : Nat) v : (s.setCxlMem i v).mem = s.mem := rfl
@[simp] theorem State.setCxlMem_mgmt (s : State) (i : Nat) v : (s.setCxlMem i v).mgmt = s.mgmt := rfl
@[simp] theorem State.setCxlMem_now (s : State) (i : Nat) v : (s.setCxlMem i v).now = s.now := rfl
@[simp] theorem State.setCxlMem_free (s : State) (i : Nat) v : (s.setCxlMem i v).free = s.free := rfl
@[simp] theorem State.setCxlMem_pending (s : State) (i : Nat) v : (s.setCxlMem i v).pending = s.pending := rfl
@[simp] theorem State.setCxlMem_hub_hues (s : State) (i : Nat) v : (s.setCxlMem i v).hub.hues = s.hub.hues := rfl
@[simp] theorem State.setCxlMem_hub_bindings (s : State) (i : Nat) v : (s.setCxlMem i v).hub.bindings = s.hub.bindings := rfl
@[simp] theorem State.setCxlMem_hub_imsic (s : State) (i : Nat) v : (s.setCxlMem i v).hub.imsic = s.hub.imsic := rfl
@[simp] theorem State.setCxlMem_hub_aplic (s : State) (i : Nat) v : (s.setCxlMem i v).hub.aplic = s.hub.aplic := rfl
@[simp] theorem State.setCxlMem_hub_meters (s : State) (i : Nat) v : (s.setCxlMem i v).hub.meters = s.hub.meters := rfl
@[simp] theorem State.setCxlMem_hub_occSet (s : State) (i : Nat) v : (s.setCxlMem i v).hub.occSet = s.hub.occSet := rfl
@[simp] theorem State.setCxlMem_hub_ledger (s : State) (i : Nat) v : (s.setCxlMem i v).hub.ledger = s.hub.ledger := rfl
@[simp] theorem State.setCxlMem_hub_slices (s : State) (i : Nat) v : (s.setCxlMem i v).hub.slices = s.hub.slices := rfl
@[simp] theorem State.setCxlMem_hub_cells (s : State) (i : Nat) v : (s.setCxlMem i v).hub.cells = s.hub.cells := rfl
@[simp] theorem State.setCxlMem_hub_rootPorts (s : State) (i : Nat) v : (s.setCxlMem i v).hub.rootPorts = s.hub.rootPorts := rfl
@[simp] theorem State.setCxlMem_hub_chain (s : State) (i : Nat) v : (s.setCxlMem i v).hub.chain = s.hub.chain := rfl
@[simp] theorem State.setCxlMem_hub_inbound (s : State) (i : Nat) v : (s.setCxlMem i v).hub.inbound = s.hub.inbound := rfl
@[simp] theorem State.setCxlMem_hub_toDevice (s : State) (i : Nat) v : (s.setCxlMem i v).hub.toDevice = s.hub.toDevice := rfl
@[simp] theorem State.setCxlMem_hub_filter (s : State) (i : Nat) v : (s.setCxlMem i v).hub.filter = s.hub.filter := rfl
@[simp] theorem State.setCxlMem_hub_snoops (s : State) (i : Nat) v : (s.setCxlMem i v).hub.snoops = s.hub.snoops := rfl
@[simp] theorem State.setCxlMem_hub_cacheReqs (s : State) (i : Nat) v : (s.setCxlMem i v).hub.cacheReqs = s.hub.cacheReqs := rfl
@[simp] theorem State.setCxlMem_hub_cacheOut (s : State) (i : Nat) v : (s.setCxlMem i v).hub.cacheOut = s.hub.cacheOut := rfl
@[simp] theorem State.setCxlMem_hub_iommus (s : State) (i : Nat) v : (s.setCxlMem i v).hub.iommus = s.hub.iommus := rfl
@[simp] theorem State.setCxlMem_hub_ioTxid (s : State) (i : Nat) v : (s.setCxlMem i v).hub.ioTxid = s.hub.ioTxid := rfl
@[simp] theorem State.setCxlMem_hart (s : State) (i j : Nat) v : (s.setCxlMem i v).hart j = s.hart j := rfl
@[simp] theorem State.setCxlMem_core (s : State) (i j : Nat) v : (s.setCxlMem i v).core j = s.core j := rfl
@[simp] theorem State.setCxlMem_die (s : State) (i j : Nat) v : (s.setCxlMem i v).die j = s.die j := rfl
@[simp] theorem State.setCxlMem_port (s : State) (i j : Nat) v : (s.setCxlMem i v).port j = s.port j := rfl
@[simp] theorem State.setCxlMem_stop (s : State) (i j : Nat) v : (s.setCxlMem i v).stop j = s.stop j := rfl
@[simp] theorem State.setCxlMem_crossing (s : State) (i j : Nat) v : (s.setCxlMem i v).crossing j = s.crossing j := rfl
@[simp] theorem State.setCxlMem_home (s : State) (i j : Nat) v : (s.setCxlMem i v).home j = s.home j := rfl
@[simp] theorem State.setCxlMem_drop (s : State) (i j : Nat) v : (s.setCxlMem i v).drop j = s.drop j := rfl
@[simp] theorem State.setCxlMem_granule (s : State) (i j : Nat) v : (s.setCxlMem i v).granule j = s.granule j := rfl
@[simp] theorem State.setCxlMem_mapErr (s : State) (i j : Nat) v : (s.setCxlMem i v).mapErr j = s.mapErr j := rfl
@[simp] theorem State.setCxlMem_row (s : State) (i j : Nat) v : (s.setCxlMem i v).row j = s.row j := rfl
@[simp] theorem State.setCxlMem_channel (s : State) (i j : Nat) v : (s.setCxlMem i v).channel j = s.channel j := rfl
@[simp] theorem State.setCxlMem_forget (s : State) (i j : Nat) v : (s.setCxlMem i v).forget j = s.forget j := rfl
@[simp] theorem State.setCxlMem_patrolAt (s : State) (i j : Nat) v : (s.setCxlMem i v).patrolAt j = s.patrolAt j := rfl
@[simp] theorem State.setCxlMem_slotsUsed (s : State) (i j : Nat) v : (s.setCxlMem i v).slotsUsed j = s.slotsUsed j := rfl
@[simp] theorem State.setCxlMem_hueSt (s : State) (i j : Nat) v : (s.setCxlMem i v).hueSt j = s.hueSt j := rfl
@[simp] theorem State.setCxlMem_file (s : State) (i j : Nat) v : (s.setCxlMem i v).file j = s.file j := rfl
@[simp] theorem State.setCxlMem_aplic (s : State) (i j : Nat) v : (s.setCxlMem i v).aplic j = s.aplic j := rfl
@[simp] theorem State.setCxlMem_meter (s : State) (i j : Nat) v : (s.setCxlMem i v).meter j = s.meter j := rfl
@[simp] theorem State.setCxlMem_occ (s : State) (i j : Nat) v : (s.setCxlMem i v).occ j = s.occ j := rfl
@[simp] theorem State.setCxlMem_slice (s : State) (i j : Nat) v : (s.setCxlMem i v).slice j = s.slice j := rfl
@[simp] theorem State.setCxlMem_cell (s : State) (i j : Nat) v : (s.setCxlMem i v).cell j = s.cell j := rfl
@[simp] theorem State.setCxlMem_rootPort (s : State) (i j : Nat) v : (s.setCxlMem i v).rootPort j = s.rootPort j := rfl
@[simp] theorem State.setCxlMem_filterAt (s : State) (i j : Nat) v : (s.setCxlMem i v).filterAt j = s.filterAt j := rfl
@[simp] theorem State.setCxlMem_iommu (s : State) (i j : Nat) v : (s.setCxlMem i v).iommu j = s.iommu j := rfl
@[simp] theorem State.setCxlMem_mbx (s : State) (i j : Nat) v : (s.setCxlMem i v).mbx j = s.mbx j := rfl
@[simp] theorem State.setCxlMem_uncUnit (s : State) (i j : Nat) v : (s.setCxlMem i v).uncUnit j = s.uncUnit j := rfl
@[simp] theorem State.setCxlMem_dieCfg (s : State) (i j : Nat) v : (s.setCxlMem i v).dieCfg j = s.dieCfg j := rfl
@[simp] theorem State.setCxlMem_rail (s : State) (i j : Nat) v : (s.setCxlMem i v).rail j = s.rail j := rfl
@[simp] theorem State.setCxlMem_cascLink (s : State) (i j : Nat) v : (s.setCxlMem i v).cascLink j = s.cascLink j := rfl
@[simp] theorem State.setCxlMem_partition (s : State) (i j : Nat) v : (s.setCxlMem i v).partition j = s.partition j := rfl
@[simp] theorem State.setCxlMem_dieStatus (s : State) (i j : Nat) v : (s.setCxlMem i v).dieStatus j = s.dieStatus j := rfl
@[simp] theorem State.setCxlMem_spares (s : State) (i j : Nat) v : (s.setCxlMem i v).spares j = s.spares j := rfl

/-! What `setFilterAt` leaves alone. -/

@[simp] theorem State.setFilterAt_fab (s : State) (i : Nat) v : (s.setFilterAt i v).fab = s.fab := rfl
@[simp] theorem State.setFilterAt_mem (s : State) (i : Nat) v : (s.setFilterAt i v).mem = s.mem := rfl
@[simp] theorem State.setFilterAt_mgmt (s : State) (i : Nat) v : (s.setFilterAt i v).mgmt = s.mgmt := rfl
@[simp] theorem State.setFilterAt_now (s : State) (i : Nat) v : (s.setFilterAt i v).now = s.now := rfl
@[simp] theorem State.setFilterAt_free (s : State) (i : Nat) v : (s.setFilterAt i v).free = s.free := rfl
@[simp] theorem State.setFilterAt_pending (s : State) (i : Nat) v : (s.setFilterAt i v).pending = s.pending := rfl
@[simp] theorem State.setFilterAt_hub_hues (s : State) (i : Nat) v : (s.setFilterAt i v).hub.hues = s.hub.hues := rfl
@[simp] theorem State.setFilterAt_hub_bindings (s : State) (i : Nat) v : (s.setFilterAt i v).hub.bindings = s.hub.bindings := rfl
@[simp] theorem State.setFilterAt_hub_imsic (s : State) (i : Nat) v : (s.setFilterAt i v).hub.imsic = s.hub.imsic := rfl
@[simp] theorem State.setFilterAt_hub_aplic (s : State) (i : Nat) v : (s.setFilterAt i v).hub.aplic = s.hub.aplic := rfl
@[simp] theorem State.setFilterAt_hub_meters (s : State) (i : Nat) v : (s.setFilterAt i v).hub.meters = s.hub.meters := rfl
@[simp] theorem State.setFilterAt_hub_occSet (s : State) (i : Nat) v : (s.setFilterAt i v).hub.occSet = s.hub.occSet := rfl
@[simp] theorem State.setFilterAt_hub_ledger (s : State) (i : Nat) v : (s.setFilterAt i v).hub.ledger = s.hub.ledger := rfl
@[simp] theorem State.setFilterAt_hub_slices (s : State) (i : Nat) v : (s.setFilterAt i v).hub.slices = s.hub.slices := rfl
@[simp] theorem State.setFilterAt_hub_cells (s : State) (i : Nat) v : (s.setFilterAt i v).hub.cells = s.hub.cells := rfl
@[simp] theorem State.setFilterAt_hub_rootPorts (s : State) (i : Nat) v : (s.setFilterAt i v).hub.rootPorts = s.hub.rootPorts := rfl
@[simp] theorem State.setFilterAt_hub_cxlPorts (s : State) (i : Nat) v : (s.setFilterAt i v).hub.cxlPorts = s.hub.cxlPorts := rfl
@[simp] theorem State.setFilterAt_hub_chain (s : State) (i : Nat) v : (s.setFilterAt i v).hub.chain = s.hub.chain := rfl
@[simp] theorem State.setFilterAt_hub_inbound (s : State) (i : Nat) v : (s.setFilterAt i v).hub.inbound = s.hub.inbound := rfl
@[simp] theorem State.setFilterAt_hub_toDevice (s : State) (i : Nat) v : (s.setFilterAt i v).hub.toDevice = s.hub.toDevice := rfl
@[simp] theorem State.setFilterAt_hub_snoops (s : State) (i : Nat) v : (s.setFilterAt i v).hub.snoops = s.hub.snoops := rfl
@[simp] theorem State.setFilterAt_hub_cacheReqs (s : State) (i : Nat) v : (s.setFilterAt i v).hub.cacheReqs = s.hub.cacheReqs := rfl
@[simp] theorem State.setFilterAt_hub_cacheOut (s : State) (i : Nat) v : (s.setFilterAt i v).hub.cacheOut = s.hub.cacheOut := rfl
@[simp] theorem State.setFilterAt_hub_iommus (s : State) (i : Nat) v : (s.setFilterAt i v).hub.iommus = s.hub.iommus := rfl
@[simp] theorem State.setFilterAt_hub_ioTxid (s : State) (i : Nat) v : (s.setFilterAt i v).hub.ioTxid = s.hub.ioTxid := rfl
@[simp] theorem State.setFilterAt_hart (s : State) (i j : Nat) v : (s.setFilterAt i v).hart j = s.hart j := rfl
@[simp] theorem State.setFilterAt_core (s : State) (i j : Nat) v : (s.setFilterAt i v).core j = s.core j := rfl
@[simp] theorem State.setFilterAt_die (s : State) (i j : Nat) v : (s.setFilterAt i v).die j = s.die j := rfl
@[simp] theorem State.setFilterAt_port (s : State) (i j : Nat) v : (s.setFilterAt i v).port j = s.port j := rfl
@[simp] theorem State.setFilterAt_stop (s : State) (i j : Nat) v : (s.setFilterAt i v).stop j = s.stop j := rfl
@[simp] theorem State.setFilterAt_crossing (s : State) (i j : Nat) v : (s.setFilterAt i v).crossing j = s.crossing j := rfl
@[simp] theorem State.setFilterAt_home (s : State) (i j : Nat) v : (s.setFilterAt i v).home j = s.home j := rfl
@[simp] theorem State.setFilterAt_drop (s : State) (i j : Nat) v : (s.setFilterAt i v).drop j = s.drop j := rfl
@[simp] theorem State.setFilterAt_granule (s : State) (i j : Nat) v : (s.setFilterAt i v).granule j = s.granule j := rfl
@[simp] theorem State.setFilterAt_mapErr (s : State) (i j : Nat) v : (s.setFilterAt i v).mapErr j = s.mapErr j := rfl
@[simp] theorem State.setFilterAt_row (s : State) (i j : Nat) v : (s.setFilterAt i v).row j = s.row j := rfl
@[simp] theorem State.setFilterAt_channel (s : State) (i j : Nat) v : (s.setFilterAt i v).channel j = s.channel j := rfl
@[simp] theorem State.setFilterAt_forget (s : State) (i j : Nat) v : (s.setFilterAt i v).forget j = s.forget j := rfl
@[simp] theorem State.setFilterAt_patrolAt (s : State) (i j : Nat) v : (s.setFilterAt i v).patrolAt j = s.patrolAt j := rfl
@[simp] theorem State.setFilterAt_slotsUsed (s : State) (i j : Nat) v : (s.setFilterAt i v).slotsUsed j = s.slotsUsed j := rfl
@[simp] theorem State.setFilterAt_hueSt (s : State) (i j : Nat) v : (s.setFilterAt i v).hueSt j = s.hueSt j := rfl
@[simp] theorem State.setFilterAt_file (s : State) (i j : Nat) v : (s.setFilterAt i v).file j = s.file j := rfl
@[simp] theorem State.setFilterAt_aplic (s : State) (i j : Nat) v : (s.setFilterAt i v).aplic j = s.aplic j := rfl
@[simp] theorem State.setFilterAt_meter (s : State) (i j : Nat) v : (s.setFilterAt i v).meter j = s.meter j := rfl
@[simp] theorem State.setFilterAt_occ (s : State) (i j : Nat) v : (s.setFilterAt i v).occ j = s.occ j := rfl
@[simp] theorem State.setFilterAt_slice (s : State) (i j : Nat) v : (s.setFilterAt i v).slice j = s.slice j := rfl
@[simp] theorem State.setFilterAt_cell (s : State) (i j : Nat) v : (s.setFilterAt i v).cell j = s.cell j := rfl
@[simp] theorem State.setFilterAt_rootPort (s : State) (i j : Nat) v : (s.setFilterAt i v).rootPort j = s.rootPort j := rfl
@[simp] theorem State.setFilterAt_cxlMem (s : State) (i j : Nat) v : (s.setFilterAt i v).cxlMem j = s.cxlMem j := rfl
@[simp] theorem State.setFilterAt_iommu (s : State) (i j : Nat) v : (s.setFilterAt i v).iommu j = s.iommu j := rfl
@[simp] theorem State.setFilterAt_mbx (s : State) (i j : Nat) v : (s.setFilterAt i v).mbx j = s.mbx j := rfl
@[simp] theorem State.setFilterAt_uncUnit (s : State) (i j : Nat) v : (s.setFilterAt i v).uncUnit j = s.uncUnit j := rfl
@[simp] theorem State.setFilterAt_dieCfg (s : State) (i j : Nat) v : (s.setFilterAt i v).dieCfg j = s.dieCfg j := rfl
@[simp] theorem State.setFilterAt_rail (s : State) (i j : Nat) v : (s.setFilterAt i v).rail j = s.rail j := rfl
@[simp] theorem State.setFilterAt_cascLink (s : State) (i j : Nat) v : (s.setFilterAt i v).cascLink j = s.cascLink j := rfl
@[simp] theorem State.setFilterAt_partition (s : State) (i j : Nat) v : (s.setFilterAt i v).partition j = s.partition j := rfl
@[simp] theorem State.setFilterAt_dieStatus (s : State) (i j : Nat) v : (s.setFilterAt i v).dieStatus j = s.dieStatus j := rfl
@[simp] theorem State.setFilterAt_spares (s : State) (i j : Nat) v : (s.setFilterAt i v).spares j = s.spares j := rfl

/-! What `setIommu` leaves alone. -/

@[simp] theorem State.setIommu_fab (s : State) (i : Nat) v : (s.setIommu i v).fab = s.fab := rfl
@[simp] theorem State.setIommu_mem (s : State) (i : Nat) v : (s.setIommu i v).mem = s.mem := rfl
@[simp] theorem State.setIommu_mgmt (s : State) (i : Nat) v : (s.setIommu i v).mgmt = s.mgmt := rfl
@[simp] theorem State.setIommu_now (s : State) (i : Nat) v : (s.setIommu i v).now = s.now := rfl
@[simp] theorem State.setIommu_free (s : State) (i : Nat) v : (s.setIommu i v).free = s.free := rfl
@[simp] theorem State.setIommu_pending (s : State) (i : Nat) v : (s.setIommu i v).pending = s.pending := rfl
@[simp] theorem State.setIommu_hub_hues (s : State) (i : Nat) v : (s.setIommu i v).hub.hues = s.hub.hues := rfl
@[simp] theorem State.setIommu_hub_bindings (s : State) (i : Nat) v : (s.setIommu i v).hub.bindings = s.hub.bindings := rfl
@[simp] theorem State.setIommu_hub_imsic (s : State) (i : Nat) v : (s.setIommu i v).hub.imsic = s.hub.imsic := rfl
@[simp] theorem State.setIommu_hub_aplic (s : State) (i : Nat) v : (s.setIommu i v).hub.aplic = s.hub.aplic := rfl
@[simp] theorem State.setIommu_hub_meters (s : State) (i : Nat) v : (s.setIommu i v).hub.meters = s.hub.meters := rfl
@[simp] theorem State.setIommu_hub_occSet (s : State) (i : Nat) v : (s.setIommu i v).hub.occSet = s.hub.occSet := rfl
@[simp] theorem State.setIommu_hub_ledger (s : State) (i : Nat) v : (s.setIommu i v).hub.ledger = s.hub.ledger := rfl
@[simp] theorem State.setIommu_hub_slices (s : State) (i : Nat) v : (s.setIommu i v).hub.slices = s.hub.slices := rfl
@[simp] theorem State.setIommu_hub_cells (s : State) (i : Nat) v : (s.setIommu i v).hub.cells = s.hub.cells := rfl
@[simp] theorem State.setIommu_hub_rootPorts (s : State) (i : Nat) v : (s.setIommu i v).hub.rootPorts = s.hub.rootPorts := rfl
@[simp] theorem State.setIommu_hub_cxlPorts (s : State) (i : Nat) v : (s.setIommu i v).hub.cxlPorts = s.hub.cxlPorts := rfl
@[simp] theorem State.setIommu_hub_chain (s : State) (i : Nat) v : (s.setIommu i v).hub.chain = s.hub.chain := rfl
@[simp] theorem State.setIommu_hub_inbound (s : State) (i : Nat) v : (s.setIommu i v).hub.inbound = s.hub.inbound := rfl
@[simp] theorem State.setIommu_hub_toDevice (s : State) (i : Nat) v : (s.setIommu i v).hub.toDevice = s.hub.toDevice := rfl
@[simp] theorem State.setIommu_hub_filter (s : State) (i : Nat) v : (s.setIommu i v).hub.filter = s.hub.filter := rfl
@[simp] theorem State.setIommu_hub_snoops (s : State) (i : Nat) v : (s.setIommu i v).hub.snoops = s.hub.snoops := rfl
@[simp] theorem State.setIommu_hub_cacheReqs (s : State) (i : Nat) v : (s.setIommu i v).hub.cacheReqs = s.hub.cacheReqs := rfl
@[simp] theorem State.setIommu_hub_cacheOut (s : State) (i : Nat) v : (s.setIommu i v).hub.cacheOut = s.hub.cacheOut := rfl
@[simp] theorem State.setIommu_hub_ioTxid (s : State) (i : Nat) v : (s.setIommu i v).hub.ioTxid = s.hub.ioTxid := rfl
@[simp] theorem State.setIommu_hart (s : State) (i j : Nat) v : (s.setIommu i v).hart j = s.hart j := rfl
@[simp] theorem State.setIommu_core (s : State) (i j : Nat) v : (s.setIommu i v).core j = s.core j := rfl
@[simp] theorem State.setIommu_die (s : State) (i j : Nat) v : (s.setIommu i v).die j = s.die j := rfl
@[simp] theorem State.setIommu_port (s : State) (i j : Nat) v : (s.setIommu i v).port j = s.port j := rfl
@[simp] theorem State.setIommu_stop (s : State) (i j : Nat) v : (s.setIommu i v).stop j = s.stop j := rfl
@[simp] theorem State.setIommu_crossing (s : State) (i j : Nat) v : (s.setIommu i v).crossing j = s.crossing j := rfl
@[simp] theorem State.setIommu_home (s : State) (i j : Nat) v : (s.setIommu i v).home j = s.home j := rfl
@[simp] theorem State.setIommu_drop (s : State) (i j : Nat) v : (s.setIommu i v).drop j = s.drop j := rfl
@[simp] theorem State.setIommu_granule (s : State) (i j : Nat) v : (s.setIommu i v).granule j = s.granule j := rfl
@[simp] theorem State.setIommu_mapErr (s : State) (i j : Nat) v : (s.setIommu i v).mapErr j = s.mapErr j := rfl
@[simp] theorem State.setIommu_row (s : State) (i j : Nat) v : (s.setIommu i v).row j = s.row j := rfl
@[simp] theorem State.setIommu_channel (s : State) (i j : Nat) v : (s.setIommu i v).channel j = s.channel j := rfl
@[simp] theorem State.setIommu_forget (s : State) (i j : Nat) v : (s.setIommu i v).forget j = s.forget j := rfl
@[simp] theorem State.setIommu_patrolAt (s : State) (i j : Nat) v : (s.setIommu i v).patrolAt j = s.patrolAt j := rfl
@[simp] theorem State.setIommu_slotsUsed (s : State) (i j : Nat) v : (s.setIommu i v).slotsUsed j = s.slotsUsed j := rfl
@[simp] theorem State.setIommu_hueSt (s : State) (i j : Nat) v : (s.setIommu i v).hueSt j = s.hueSt j := rfl
@[simp] theorem State.setIommu_file (s : State) (i j : Nat) v : (s.setIommu i v).file j = s.file j := rfl
@[simp] theorem State.setIommu_aplic (s : State) (i j : Nat) v : (s.setIommu i v).aplic j = s.aplic j := rfl
@[simp] theorem State.setIommu_meter (s : State) (i j : Nat) v : (s.setIommu i v).meter j = s.meter j := rfl
@[simp] theorem State.setIommu_occ (s : State) (i j : Nat) v : (s.setIommu i v).occ j = s.occ j := rfl
@[simp] theorem State.setIommu_slice (s : State) (i j : Nat) v : (s.setIommu i v).slice j = s.slice j := rfl
@[simp] theorem State.setIommu_cell (s : State) (i j : Nat) v : (s.setIommu i v).cell j = s.cell j := rfl
@[simp] theorem State.setIommu_rootPort (s : State) (i j : Nat) v : (s.setIommu i v).rootPort j = s.rootPort j := rfl
@[simp] theorem State.setIommu_cxlMem (s : State) (i j : Nat) v : (s.setIommu i v).cxlMem j = s.cxlMem j := rfl
@[simp] theorem State.setIommu_filterAt (s : State) (i j : Nat) v : (s.setIommu i v).filterAt j = s.filterAt j := rfl
@[simp] theorem State.setIommu_mbx (s : State) (i j : Nat) v : (s.setIommu i v).mbx j = s.mbx j := rfl
@[simp] theorem State.setIommu_uncUnit (s : State) (i j : Nat) v : (s.setIommu i v).uncUnit j = s.uncUnit j := rfl
@[simp] theorem State.setIommu_dieCfg (s : State) (i j : Nat) v : (s.setIommu i v).dieCfg j = s.dieCfg j := rfl
@[simp] theorem State.setIommu_rail (s : State) (i j : Nat) v : (s.setIommu i v).rail j = s.rail j := rfl
@[simp] theorem State.setIommu_cascLink (s : State) (i j : Nat) v : (s.setIommu i v).cascLink j = s.cascLink j := rfl
@[simp] theorem State.setIommu_partition (s : State) (i j : Nat) v : (s.setIommu i v).partition j = s.partition j := rfl
@[simp] theorem State.setIommu_dieStatus (s : State) (i j : Nat) v : (s.setIommu i v).dieStatus j = s.dieStatus j := rfl
@[simp] theorem State.setIommu_spares (s : State) (i j : Nat) v : (s.setIommu i v).spares j = s.spares j := rfl

/-! What `setMbx` leaves alone. -/

@[simp] theorem State.setMbx_fab (s : State) (i : Nat) v : (s.setMbx i v).fab = s.fab := rfl
@[simp] theorem State.setMbx_mem (s : State) (i : Nat) v : (s.setMbx i v).mem = s.mem := rfl
@[simp] theorem State.setMbx_hub (s : State) (i : Nat) v : (s.setMbx i v).hub = s.hub := rfl
@[simp] theorem State.setMbx_now (s : State) (i : Nat) v : (s.setMbx i v).now = s.now := rfl
@[simp] theorem State.setMbx_free (s : State) (i : Nat) v : (s.setMbx i v).free = s.free := rfl
@[simp] theorem State.setMbx_pending (s : State) (i : Nat) v : (s.setMbx i v).pending = s.pending := rfl
@[simp] theorem State.setMbx_mgmt_mordant (s : State) (i : Nat) v : (s.setMbx i v).mgmt.mordant = s.mgmt.mordant := rfl
@[simp] theorem State.setMbx_mgmt_pdr (s : State) (i : Nat) v : (s.setMbx i v).mgmt.pdr = s.mgmt.pdr := rfl
@[simp] theorem State.setMbx_mgmt_store (s : State) (i : Nat) v : (s.setMbx i v).mgmt.store = s.mgmt.store := rfl
@[simp] theorem State.setMbx_mgmt_config (s : State) (i : Nat) v : (s.setMbx i v).mgmt.config = s.mgmt.config := rfl
@[simp] theorem State.setMbx_mgmt_census (s : State) (i : Nat) v : (s.setMbx i v).mgmt.census = s.mgmt.census := rfl
@[simp] theorem State.setMbx_mgmt_log (s : State) (i : Nat) v : (s.setMbx i v).mgmt.log = s.mgmt.log := rfl
@[simp] theorem State.setMbx_mgmt_mode (s : State) (i : Nat) v : (s.setMbx i v).mgmt.mode = s.mgmt.mode := rfl
@[simp] theorem State.setMbx_mgmt_service (s : State) (i : Nat) v : (s.setMbx i v).mgmt.service = s.mgmt.service := rfl
@[simp] theorem State.setMbx_mgmt_power (s : State) (i : Nat) v : (s.setMbx i v).mgmt.power = s.mgmt.power := rfl
@[simp] theorem State.setMbx_mgmt_casc (s : State) (i : Nat) v : (s.setMbx i v).mgmt.casc = s.mgmt.casc := rfl
@[simp] theorem State.setMbx_mgmt_unc (s : State) (i : Nat) v : (s.setMbx i v).mgmt.unc = s.mgmt.unc := rfl
@[simp] theorem State.setMbx_mgmt_uncFreeze (s : State) (i : Nat) v : (s.setMbx i v).mgmt.uncFreeze = s.mgmt.uncFreeze := rfl
@[simp] theorem State.setMbx_hart (s : State) (i j : Nat) v : (s.setMbx i v).hart j = s.hart j := rfl
@[simp] theorem State.setMbx_core (s : State) (i j : Nat) v : (s.setMbx i v).core j = s.core j := rfl
@[simp] theorem State.setMbx_die (s : State) (i j : Nat) v : (s.setMbx i v).die j = s.die j := rfl
@[simp] theorem State.setMbx_port (s : State) (i j : Nat) v : (s.setMbx i v).port j = s.port j := rfl
@[simp] theorem State.setMbx_stop (s : State) (i j : Nat) v : (s.setMbx i v).stop j = s.stop j := rfl
@[simp] theorem State.setMbx_crossing (s : State) (i j : Nat) v : (s.setMbx i v).crossing j = s.crossing j := rfl
@[simp] theorem State.setMbx_home (s : State) (i j : Nat) v : (s.setMbx i v).home j = s.home j := rfl
@[simp] theorem State.setMbx_drop (s : State) (i j : Nat) v : (s.setMbx i v).drop j = s.drop j := rfl
@[simp] theorem State.setMbx_granule (s : State) (i j : Nat) v : (s.setMbx i v).granule j = s.granule j := rfl
@[simp] theorem State.setMbx_mapErr (s : State) (i j : Nat) v : (s.setMbx i v).mapErr j = s.mapErr j := rfl
@[simp] theorem State.setMbx_row (s : State) (i j : Nat) v : (s.setMbx i v).row j = s.row j := rfl
@[simp] theorem State.setMbx_channel (s : State) (i j : Nat) v : (s.setMbx i v).channel j = s.channel j := rfl
@[simp] theorem State.setMbx_forget (s : State) (i j : Nat) v : (s.setMbx i v).forget j = s.forget j := rfl
@[simp] theorem State.setMbx_patrolAt (s : State) (i j : Nat) v : (s.setMbx i v).patrolAt j = s.patrolAt j := rfl
@[simp] theorem State.setMbx_slotsUsed (s : State) (i j : Nat) v : (s.setMbx i v).slotsUsed j = s.slotsUsed j := rfl
@[simp] theorem State.setMbx_hueSt (s : State) (i j : Nat) v : (s.setMbx i v).hueSt j = s.hueSt j := rfl
@[simp] theorem State.setMbx_file (s : State) (i j : Nat) v : (s.setMbx i v).file j = s.file j := rfl
@[simp] theorem State.setMbx_aplic (s : State) (i j : Nat) v : (s.setMbx i v).aplic j = s.aplic j := rfl
@[simp] theorem State.setMbx_meter (s : State) (i j : Nat) v : (s.setMbx i v).meter j = s.meter j := rfl
@[simp] theorem State.setMbx_occ (s : State) (i j : Nat) v : (s.setMbx i v).occ j = s.occ j := rfl
@[simp] theorem State.setMbx_slice (s : State) (i j : Nat) v : (s.setMbx i v).slice j = s.slice j := rfl
@[simp] theorem State.setMbx_cell (s : State) (i j : Nat) v : (s.setMbx i v).cell j = s.cell j := rfl
@[simp] theorem State.setMbx_rootPort (s : State) (i j : Nat) v : (s.setMbx i v).rootPort j = s.rootPort j := rfl
@[simp] theorem State.setMbx_cxlMem (s : State) (i j : Nat) v : (s.setMbx i v).cxlMem j = s.cxlMem j := rfl
@[simp] theorem State.setMbx_filterAt (s : State) (i j : Nat) v : (s.setMbx i v).filterAt j = s.filterAt j := rfl
@[simp] theorem State.setMbx_iommu (s : State) (i j : Nat) v : (s.setMbx i v).iommu j = s.iommu j := rfl
@[simp] theorem State.setMbx_uncUnit (s : State) (i j : Nat) v : (s.setMbx i v).uncUnit j = s.uncUnit j := rfl
@[simp] theorem State.setMbx_dieCfg (s : State) (i j : Nat) v : (s.setMbx i v).dieCfg j = s.dieCfg j := rfl
@[simp] theorem State.setMbx_rail (s : State) (i j : Nat) v : (s.setMbx i v).rail j = s.rail j := rfl
@[simp] theorem State.setMbx_cascLink (s : State) (i j : Nat) v : (s.setMbx i v).cascLink j = s.cascLink j := rfl
@[simp] theorem State.setMbx_partition (s : State) (i j : Nat) v : (s.setMbx i v).partition j = s.partition j := rfl
@[simp] theorem State.setMbx_dieStatus (s : State) (i j : Nat) v : (s.setMbx i v).dieStatus j = s.dieStatus j := rfl
@[simp] theorem State.setMbx_spares (s : State) (i j : Nat) v : (s.setMbx i v).spares j = s.spares j := rfl

/-! What `setUncUnit` leaves alone. -/

@[simp] theorem State.setUncUnit_fab (s : State) (i : Nat) v : (s.setUncUnit i v).fab = s.fab := rfl
@[simp] theorem State.setUncUnit_mem (s : State) (i : Nat) v : (s.setUncUnit i v).mem = s.mem := rfl
@[simp] theorem State.setUncUnit_hub (s : State) (i : Nat) v : (s.setUncUnit i v).hub = s.hub := rfl
@[simp] theorem State.setUncUnit_now (s : State) (i : Nat) v : (s.setUncUnit i v).now = s.now := rfl
@[simp] theorem State.setUncUnit_free (s : State) (i : Nat) v : (s.setUncUnit i v).free = s.free := rfl
@[simp] theorem State.setUncUnit_pending (s : State) (i : Nat) v : (s.setUncUnit i v).pending = s.pending := rfl
@[simp] theorem State.setUncUnit_mgmt_mail (s : State) (i : Nat) v : (s.setUncUnit i v).mgmt.mail = s.mgmt.mail := rfl
@[simp] theorem State.setUncUnit_mgmt_mordant (s : State) (i : Nat) v : (s.setUncUnit i v).mgmt.mordant = s.mgmt.mordant := rfl
@[simp] theorem State.setUncUnit_mgmt_pdr (s : State) (i : Nat) v : (s.setUncUnit i v).mgmt.pdr = s.mgmt.pdr := rfl
@[simp] theorem State.setUncUnit_mgmt_store (s : State) (i : Nat) v : (s.setUncUnit i v).mgmt.store = s.mgmt.store := rfl
@[simp] theorem State.setUncUnit_mgmt_config (s : State) (i : Nat) v : (s.setUncUnit i v).mgmt.config = s.mgmt.config := rfl
@[simp] theorem State.setUncUnit_mgmt_census (s : State) (i : Nat) v : (s.setUncUnit i v).mgmt.census = s.mgmt.census := rfl
@[simp] theorem State.setUncUnit_mgmt_log (s : State) (i : Nat) v : (s.setUncUnit i v).mgmt.log = s.mgmt.log := rfl
@[simp] theorem State.setUncUnit_mgmt_mode (s : State) (i : Nat) v : (s.setUncUnit i v).mgmt.mode = s.mgmt.mode := rfl
@[simp] theorem State.setUncUnit_mgmt_service (s : State) (i : Nat) v : (s.setUncUnit i v).mgmt.service = s.mgmt.service := rfl
@[simp] theorem State.setUncUnit_mgmt_power (s : State) (i : Nat) v : (s.setUncUnit i v).mgmt.power = s.mgmt.power := rfl
@[simp] theorem State.setUncUnit_mgmt_casc (s : State) (i : Nat) v : (s.setUncUnit i v).mgmt.casc = s.mgmt.casc := rfl
@[simp] theorem State.setUncUnit_mgmt_uncFreeze (s : State) (i : Nat) v : (s.setUncUnit i v).mgmt.uncFreeze = s.mgmt.uncFreeze := rfl
@[simp] theorem State.setUncUnit_hart (s : State) (i j : Nat) v : (s.setUncUnit i v).hart j = s.hart j := rfl
@[simp] theorem State.setUncUnit_core (s : State) (i j : Nat) v : (s.setUncUnit i v).core j = s.core j := rfl
@[simp] theorem State.setUncUnit_die (s : State) (i j : Nat) v : (s.setUncUnit i v).die j = s.die j := rfl
@[simp] theorem State.setUncUnit_port (s : State) (i j : Nat) v : (s.setUncUnit i v).port j = s.port j := rfl
@[simp] theorem State.setUncUnit_stop (s : State) (i j : Nat) v : (s.setUncUnit i v).stop j = s.stop j := rfl
@[simp] theorem State.setUncUnit_crossing (s : State) (i j : Nat) v : (s.setUncUnit i v).crossing j = s.crossing j := rfl
@[simp] theorem State.setUncUnit_home (s : State) (i j : Nat) v : (s.setUncUnit i v).home j = s.home j := rfl
@[simp] theorem State.setUncUnit_drop (s : State) (i j : Nat) v : (s.setUncUnit i v).drop j = s.drop j := rfl
@[simp] theorem State.setUncUnit_granule (s : State) (i j : Nat) v : (s.setUncUnit i v).granule j = s.granule j := rfl
@[simp] theorem State.setUncUnit_mapErr (s : State) (i j : Nat) v : (s.setUncUnit i v).mapErr j = s.mapErr j := rfl
@[simp] theorem State.setUncUnit_row (s : State) (i j : Nat) v : (s.setUncUnit i v).row j = s.row j := rfl
@[simp] theorem State.setUncUnit_channel (s : State) (i j : Nat) v : (s.setUncUnit i v).channel j = s.channel j := rfl
@[simp] theorem State.setUncUnit_forget (s : State) (i j : Nat) v : (s.setUncUnit i v).forget j = s.forget j := rfl
@[simp] theorem State.setUncUnit_patrolAt (s : State) (i j : Nat) v : (s.setUncUnit i v).patrolAt j = s.patrolAt j := rfl
@[simp] theorem State.setUncUnit_slotsUsed (s : State) (i j : Nat) v : (s.setUncUnit i v).slotsUsed j = s.slotsUsed j := rfl
@[simp] theorem State.setUncUnit_hueSt (s : State) (i j : Nat) v : (s.setUncUnit i v).hueSt j = s.hueSt j := rfl
@[simp] theorem State.setUncUnit_file (s : State) (i j : Nat) v : (s.setUncUnit i v).file j = s.file j := rfl
@[simp] theorem State.setUncUnit_aplic (s : State) (i j : Nat) v : (s.setUncUnit i v).aplic j = s.aplic j := rfl
@[simp] theorem State.setUncUnit_meter (s : State) (i j : Nat) v : (s.setUncUnit i v).meter j = s.meter j := rfl
@[simp] theorem State.setUncUnit_occ (s : State) (i j : Nat) v : (s.setUncUnit i v).occ j = s.occ j := rfl
@[simp] theorem State.setUncUnit_slice (s : State) (i j : Nat) v : (s.setUncUnit i v).slice j = s.slice j := rfl
@[simp] theorem State.setUncUnit_cell (s : State) (i j : Nat) v : (s.setUncUnit i v).cell j = s.cell j := rfl
@[simp] theorem State.setUncUnit_rootPort (s : State) (i j : Nat) v : (s.setUncUnit i v).rootPort j = s.rootPort j := rfl
@[simp] theorem State.setUncUnit_cxlMem (s : State) (i j : Nat) v : (s.setUncUnit i v).cxlMem j = s.cxlMem j := rfl
@[simp] theorem State.setUncUnit_filterAt (s : State) (i j : Nat) v : (s.setUncUnit i v).filterAt j = s.filterAt j := rfl
@[simp] theorem State.setUncUnit_iommu (s : State) (i j : Nat) v : (s.setUncUnit i v).iommu j = s.iommu j := rfl
@[simp] theorem State.setUncUnit_mbx (s : State) (i j : Nat) v : (s.setUncUnit i v).mbx j = s.mbx j := rfl
@[simp] theorem State.setUncUnit_dieCfg (s : State) (i j : Nat) v : (s.setUncUnit i v).dieCfg j = s.dieCfg j := rfl
@[simp] theorem State.setUncUnit_rail (s : State) (i j : Nat) v : (s.setUncUnit i v).rail j = s.rail j := rfl
@[simp] theorem State.setUncUnit_cascLink (s : State) (i j : Nat) v : (s.setUncUnit i v).cascLink j = s.cascLink j := rfl
@[simp] theorem State.setUncUnit_partition (s : State) (i j : Nat) v : (s.setUncUnit i v).partition j = s.partition j := rfl
@[simp] theorem State.setUncUnit_dieStatus (s : State) (i j : Nat) v : (s.setUncUnit i v).dieStatus j = s.dieStatus j := rfl
@[simp] theorem State.setUncUnit_spares (s : State) (i j : Nat) v : (s.setUncUnit i v).spares j = s.spares j := rfl

/-! What `setDieCfg` leaves alone. -/

@[simp] theorem State.setDieCfg_fab (s : State) (i : Nat) v : (s.setDieCfg i v).fab = s.fab := rfl
@[simp] theorem State.setDieCfg_mem (s : State) (i : Nat) v : (s.setDieCfg i v).mem = s.mem := rfl
@[simp] theorem State.setDieCfg_hub (s : State) (i : Nat) v : (s.setDieCfg i v).hub = s.hub := rfl
@[simp] theorem State.setDieCfg_now (s : State) (i : Nat) v : (s.setDieCfg i v).now = s.now := rfl
@[simp] theorem State.setDieCfg_free (s : State) (i : Nat) v : (s.setDieCfg i v).free = s.free := rfl
@[simp] theorem State.setDieCfg_pending (s : State) (i : Nat) v : (s.setDieCfg i v).pending = s.pending := rfl
@[simp] theorem State.setDieCfg_mgmt_mail (s : State) (i : Nat) v : (s.setDieCfg i v).mgmt.mail = s.mgmt.mail := rfl
@[simp] theorem State.setDieCfg_mgmt_mordant (s : State) (i : Nat) v : (s.setDieCfg i v).mgmt.mordant = s.mgmt.mordant := rfl
@[simp] theorem State.setDieCfg_mgmt_pdr (s : State) (i : Nat) v : (s.setDieCfg i v).mgmt.pdr = s.mgmt.pdr := rfl
@[simp] theorem State.setDieCfg_mgmt_store (s : State) (i : Nat) v : (s.setDieCfg i v).mgmt.store = s.mgmt.store := rfl
@[simp] theorem State.setDieCfg_mgmt_census (s : State) (i : Nat) v : (s.setDieCfg i v).mgmt.census = s.mgmt.census := rfl
@[simp] theorem State.setDieCfg_mgmt_log (s : State) (i : Nat) v : (s.setDieCfg i v).mgmt.log = s.mgmt.log := rfl
@[simp] theorem State.setDieCfg_mgmt_mode (s : State) (i : Nat) v : (s.setDieCfg i v).mgmt.mode = s.mgmt.mode := rfl
@[simp] theorem State.setDieCfg_mgmt_service (s : State) (i : Nat) v : (s.setDieCfg i v).mgmt.service = s.mgmt.service := rfl
@[simp] theorem State.setDieCfg_mgmt_power (s : State) (i : Nat) v : (s.setDieCfg i v).mgmt.power = s.mgmt.power := rfl
@[simp] theorem State.setDieCfg_mgmt_casc (s : State) (i : Nat) v : (s.setDieCfg i v).mgmt.casc = s.mgmt.casc := rfl
@[simp] theorem State.setDieCfg_mgmt_unc (s : State) (i : Nat) v : (s.setDieCfg i v).mgmt.unc = s.mgmt.unc := rfl
@[simp] theorem State.setDieCfg_mgmt_uncFreeze (s : State) (i : Nat) v : (s.setDieCfg i v).mgmt.uncFreeze = s.mgmt.uncFreeze := rfl
@[simp] theorem State.setDieCfg_hart (s : State) (i j : Nat) v : (s.setDieCfg i v).hart j = s.hart j := rfl
@[simp] theorem State.setDieCfg_core (s : State) (i j : Nat) v : (s.setDieCfg i v).core j = s.core j := rfl
@[simp] theorem State.setDieCfg_die (s : State) (i j : Nat) v : (s.setDieCfg i v).die j = s.die j := rfl
@[simp] theorem State.setDieCfg_port (s : State) (i j : Nat) v : (s.setDieCfg i v).port j = s.port j := rfl
@[simp] theorem State.setDieCfg_stop (s : State) (i j : Nat) v : (s.setDieCfg i v).stop j = s.stop j := rfl
@[simp] theorem State.setDieCfg_crossing (s : State) (i j : Nat) v : (s.setDieCfg i v).crossing j = s.crossing j := rfl
@[simp] theorem State.setDieCfg_home (s : State) (i j : Nat) v : (s.setDieCfg i v).home j = s.home j := rfl
@[simp] theorem State.setDieCfg_drop (s : State) (i j : Nat) v : (s.setDieCfg i v).drop j = s.drop j := rfl
@[simp] theorem State.setDieCfg_granule (s : State) (i j : Nat) v : (s.setDieCfg i v).granule j = s.granule j := rfl
@[simp] theorem State.setDieCfg_mapErr (s : State) (i j : Nat) v : (s.setDieCfg i v).mapErr j = s.mapErr j := rfl
@[simp] theorem State.setDieCfg_row (s : State) (i j : Nat) v : (s.setDieCfg i v).row j = s.row j := rfl
@[simp] theorem State.setDieCfg_channel (s : State) (i j : Nat) v : (s.setDieCfg i v).channel j = s.channel j := rfl
@[simp] theorem State.setDieCfg_forget (s : State) (i j : Nat) v : (s.setDieCfg i v).forget j = s.forget j := rfl
@[simp] theorem State.setDieCfg_patrolAt (s : State) (i j : Nat) v : (s.setDieCfg i v).patrolAt j = s.patrolAt j := rfl
@[simp] theorem State.setDieCfg_slotsUsed (s : State) (i j : Nat) v : (s.setDieCfg i v).slotsUsed j = s.slotsUsed j := rfl
@[simp] theorem State.setDieCfg_hueSt (s : State) (i j : Nat) v : (s.setDieCfg i v).hueSt j = s.hueSt j := rfl
@[simp] theorem State.setDieCfg_file (s : State) (i j : Nat) v : (s.setDieCfg i v).file j = s.file j := rfl
@[simp] theorem State.setDieCfg_aplic (s : State) (i j : Nat) v : (s.setDieCfg i v).aplic j = s.aplic j := rfl
@[simp] theorem State.setDieCfg_meter (s : State) (i j : Nat) v : (s.setDieCfg i v).meter j = s.meter j := rfl
@[simp] theorem State.setDieCfg_occ (s : State) (i j : Nat) v : (s.setDieCfg i v).occ j = s.occ j := rfl
@[simp] theorem State.setDieCfg_slice (s : State) (i j : Nat) v : (s.setDieCfg i v).slice j = s.slice j := rfl
@[simp] theorem State.setDieCfg_cell (s : State) (i j : Nat) v : (s.setDieCfg i v).cell j = s.cell j := rfl
@[simp] theorem State.setDieCfg_rootPort (s : State) (i j : Nat) v : (s.setDieCfg i v).rootPort j = s.rootPort j := rfl
@[simp] theorem State.setDieCfg_cxlMem (s : State) (i j : Nat) v : (s.setDieCfg i v).cxlMem j = s.cxlMem j := rfl
@[simp] theorem State.setDieCfg_filterAt (s : State) (i j : Nat) v : (s.setDieCfg i v).filterAt j = s.filterAt j := rfl
@[simp] theorem State.setDieCfg_iommu (s : State) (i j : Nat) v : (s.setDieCfg i v).iommu j = s.iommu j := rfl
@[simp] theorem State.setDieCfg_mbx (s : State) (i j : Nat) v : (s.setDieCfg i v).mbx j = s.mbx j := rfl
@[simp] theorem State.setDieCfg_uncUnit (s : State) (i j : Nat) v : (s.setDieCfg i v).uncUnit j = s.uncUnit j := rfl
@[simp] theorem State.setDieCfg_rail (s : State) (i j : Nat) v : (s.setDieCfg i v).rail j = s.rail j := rfl
@[simp] theorem State.setDieCfg_cascLink (s : State) (i j : Nat) v : (s.setDieCfg i v).cascLink j = s.cascLink j := rfl
@[simp] theorem State.setDieCfg_partition (s : State) (i j : Nat) v : (s.setDieCfg i v).partition j = s.partition j := rfl
@[simp] theorem State.setDieCfg_dieStatus (s : State) (i j : Nat) v : (s.setDieCfg i v).dieStatus j = s.dieStatus j := rfl
@[simp] theorem State.setDieCfg_spares (s : State) (i j : Nat) v : (s.setDieCfg i v).spares j = s.spares j := rfl

/-! What `setRail` leaves alone. -/

@[simp] theorem State.setRail_fab (s : State) (i : Nat) v : (s.setRail i v).fab = s.fab := rfl
@[simp] theorem State.setRail_mem (s : State) (i : Nat) v : (s.setRail i v).mem = s.mem := rfl
@[simp] theorem State.setRail_hub (s : State) (i : Nat) v : (s.setRail i v).hub = s.hub := rfl
@[simp] theorem State.setRail_now (s : State) (i : Nat) v : (s.setRail i v).now = s.now := rfl
@[simp] theorem State.setRail_free (s : State) (i : Nat) v : (s.setRail i v).free = s.free := rfl
@[simp] theorem State.setRail_pending (s : State) (i : Nat) v : (s.setRail i v).pending = s.pending := rfl
@[simp] theorem State.setRail_mgmt_mail (s : State) (i : Nat) v : (s.setRail i v).mgmt.mail = s.mgmt.mail := rfl
@[simp] theorem State.setRail_mgmt_mordant (s : State) (i : Nat) v : (s.setRail i v).mgmt.mordant = s.mgmt.mordant := rfl
@[simp] theorem State.setRail_mgmt_pdr (s : State) (i : Nat) v : (s.setRail i v).mgmt.pdr = s.mgmt.pdr := rfl
@[simp] theorem State.setRail_mgmt_store (s : State) (i : Nat) v : (s.setRail i v).mgmt.store = s.mgmt.store := rfl
@[simp] theorem State.setRail_mgmt_config (s : State) (i : Nat) v : (s.setRail i v).mgmt.config = s.mgmt.config := rfl
@[simp] theorem State.setRail_mgmt_census (s : State) (i : Nat) v : (s.setRail i v).mgmt.census = s.mgmt.census := rfl
@[simp] theorem State.setRail_mgmt_log (s : State) (i : Nat) v : (s.setRail i v).mgmt.log = s.mgmt.log := rfl
@[simp] theorem State.setRail_mgmt_mode (s : State) (i : Nat) v : (s.setRail i v).mgmt.mode = s.mgmt.mode := rfl
@[simp] theorem State.setRail_mgmt_service (s : State) (i : Nat) v : (s.setRail i v).mgmt.service = s.mgmt.service := rfl
@[simp] theorem State.setRail_mgmt_casc (s : State) (i : Nat) v : (s.setRail i v).mgmt.casc = s.mgmt.casc := rfl
@[simp] theorem State.setRail_mgmt_unc (s : State) (i : Nat) v : (s.setRail i v).mgmt.unc = s.mgmt.unc := rfl
@[simp] theorem State.setRail_mgmt_uncFreeze (s : State) (i : Nat) v : (s.setRail i v).mgmt.uncFreeze = s.mgmt.uncFreeze := rfl
@[simp] theorem State.setRail_hart (s : State) (i j : Nat) v : (s.setRail i v).hart j = s.hart j := rfl
@[simp] theorem State.setRail_core (s : State) (i j : Nat) v : (s.setRail i v).core j = s.core j := rfl
@[simp] theorem State.setRail_die (s : State) (i j : Nat) v : (s.setRail i v).die j = s.die j := rfl
@[simp] theorem State.setRail_port (s : State) (i j : Nat) v : (s.setRail i v).port j = s.port j := rfl
@[simp] theorem State.setRail_stop (s : State) (i j : Nat) v : (s.setRail i v).stop j = s.stop j := rfl
@[simp] theorem State.setRail_crossing (s : State) (i j : Nat) v : (s.setRail i v).crossing j = s.crossing j := rfl
@[simp] theorem State.setRail_home (s : State) (i j : Nat) v : (s.setRail i v).home j = s.home j := rfl
@[simp] theorem State.setRail_drop (s : State) (i j : Nat) v : (s.setRail i v).drop j = s.drop j := rfl
@[simp] theorem State.setRail_granule (s : State) (i j : Nat) v : (s.setRail i v).granule j = s.granule j := rfl
@[simp] theorem State.setRail_mapErr (s : State) (i j : Nat) v : (s.setRail i v).mapErr j = s.mapErr j := rfl
@[simp] theorem State.setRail_row (s : State) (i j : Nat) v : (s.setRail i v).row j = s.row j := rfl
@[simp] theorem State.setRail_channel (s : State) (i j : Nat) v : (s.setRail i v).channel j = s.channel j := rfl
@[simp] theorem State.setRail_forget (s : State) (i j : Nat) v : (s.setRail i v).forget j = s.forget j := rfl
@[simp] theorem State.setRail_patrolAt (s : State) (i j : Nat) v : (s.setRail i v).patrolAt j = s.patrolAt j := rfl
@[simp] theorem State.setRail_slotsUsed (s : State) (i j : Nat) v : (s.setRail i v).slotsUsed j = s.slotsUsed j := rfl
@[simp] theorem State.setRail_hueSt (s : State) (i j : Nat) v : (s.setRail i v).hueSt j = s.hueSt j := rfl
@[simp] theorem State.setRail_file (s : State) (i j : Nat) v : (s.setRail i v).file j = s.file j := rfl
@[simp] theorem State.setRail_aplic (s : State) (i j : Nat) v : (s.setRail i v).aplic j = s.aplic j := rfl
@[simp] theorem State.setRail_meter (s : State) (i j : Nat) v : (s.setRail i v).meter j = s.meter j := rfl
@[simp] theorem State.setRail_occ (s : State) (i j : Nat) v : (s.setRail i v).occ j = s.occ j := rfl
@[simp] theorem State.setRail_slice (s : State) (i j : Nat) v : (s.setRail i v).slice j = s.slice j := rfl
@[simp] theorem State.setRail_cell (s : State) (i j : Nat) v : (s.setRail i v).cell j = s.cell j := rfl
@[simp] theorem State.setRail_rootPort (s : State) (i j : Nat) v : (s.setRail i v).rootPort j = s.rootPort j := rfl
@[simp] theorem State.setRail_cxlMem (s : State) (i j : Nat) v : (s.setRail i v).cxlMem j = s.cxlMem j := rfl
@[simp] theorem State.setRail_filterAt (s : State) (i j : Nat) v : (s.setRail i v).filterAt j = s.filterAt j := rfl
@[simp] theorem State.setRail_iommu (s : State) (i j : Nat) v : (s.setRail i v).iommu j = s.iommu j := rfl
@[simp] theorem State.setRail_mbx (s : State) (i j : Nat) v : (s.setRail i v).mbx j = s.mbx j := rfl
@[simp] theorem State.setRail_uncUnit (s : State) (i j : Nat) v : (s.setRail i v).uncUnit j = s.uncUnit j := rfl
@[simp] theorem State.setRail_dieCfg (s : State) (i j : Nat) v : (s.setRail i v).dieCfg j = s.dieCfg j := rfl
@[simp] theorem State.setRail_cascLink (s : State) (i j : Nat) v : (s.setRail i v).cascLink j = s.cascLink j := rfl
@[simp] theorem State.setRail_partition (s : State) (i j : Nat) v : (s.setRail i v).partition j = s.partition j := rfl
@[simp] theorem State.setRail_dieStatus (s : State) (i j : Nat) v : (s.setRail i v).dieStatus j = s.dieStatus j := rfl
@[simp] theorem State.setRail_spares (s : State) (i j : Nat) v : (s.setRail i v).spares j = s.spares j := rfl

/-! What `setCascLink` leaves alone. -/

@[simp] theorem State.setCascLink_fab (s : State) (i : Nat) v : (s.setCascLink i v).fab = s.fab := rfl
@[simp] theorem State.setCascLink_mem (s : State) (i : Nat) v : (s.setCascLink i v).mem = s.mem := rfl
@[simp] theorem State.setCascLink_hub (s : State) (i : Nat) v : (s.setCascLink i v).hub = s.hub := rfl
@[simp] theorem State.setCascLink_now (s : State) (i : Nat) v : (s.setCascLink i v).now = s.now := rfl
@[simp] theorem State.setCascLink_free (s : State) (i : Nat) v : (s.setCascLink i v).free = s.free := rfl
@[simp] theorem State.setCascLink_pending (s : State) (i : Nat) v : (s.setCascLink i v).pending = s.pending := rfl
@[simp] theorem State.setCascLink_mgmt_mail (s : State) (i : Nat) v : (s.setCascLink i v).mgmt.mail = s.mgmt.mail := rfl
@[simp] theorem State.setCascLink_mgmt_mordant (s : State) (i : Nat) v : (s.setCascLink i v).mgmt.mordant = s.mgmt.mordant := rfl
@[simp] theorem State.setCascLink_mgmt_pdr (s : State) (i : Nat) v : (s.setCascLink i v).mgmt.pdr = s.mgmt.pdr := rfl
@[simp] theorem State.setCascLink_mgmt_store (s : State) (i : Nat) v : (s.setCascLink i v).mgmt.store = s.mgmt.store := rfl
@[simp] theorem State.setCascLink_mgmt_config (s : State) (i : Nat) v : (s.setCascLink i v).mgmt.config = s.mgmt.config := rfl
@[simp] theorem State.setCascLink_mgmt_census (s : State) (i : Nat) v : (s.setCascLink i v).mgmt.census = s.mgmt.census := rfl
@[simp] theorem State.setCascLink_mgmt_log (s : State) (i : Nat) v : (s.setCascLink i v).mgmt.log = s.mgmt.log := rfl
@[simp] theorem State.setCascLink_mgmt_mode (s : State) (i : Nat) v : (s.setCascLink i v).mgmt.mode = s.mgmt.mode := rfl
@[simp] theorem State.setCascLink_mgmt_service (s : State) (i : Nat) v : (s.setCascLink i v).mgmt.service = s.mgmt.service := rfl
@[simp] theorem State.setCascLink_mgmt_power (s : State) (i : Nat) v : (s.setCascLink i v).mgmt.power = s.mgmt.power := rfl
@[simp] theorem State.setCascLink_mgmt_unc (s : State) (i : Nat) v : (s.setCascLink i v).mgmt.unc = s.mgmt.unc := rfl
@[simp] theorem State.setCascLink_mgmt_uncFreeze (s : State) (i : Nat) v : (s.setCascLink i v).mgmt.uncFreeze = s.mgmt.uncFreeze := rfl
@[simp] theorem State.setCascLink_hart (s : State) (i j : Nat) v : (s.setCascLink i v).hart j = s.hart j := rfl
@[simp] theorem State.setCascLink_core (s : State) (i j : Nat) v : (s.setCascLink i v).core j = s.core j := rfl
@[simp] theorem State.setCascLink_die (s : State) (i j : Nat) v : (s.setCascLink i v).die j = s.die j := rfl
@[simp] theorem State.setCascLink_port (s : State) (i j : Nat) v : (s.setCascLink i v).port j = s.port j := rfl
@[simp] theorem State.setCascLink_stop (s : State) (i j : Nat) v : (s.setCascLink i v).stop j = s.stop j := rfl
@[simp] theorem State.setCascLink_crossing (s : State) (i j : Nat) v : (s.setCascLink i v).crossing j = s.crossing j := rfl
@[simp] theorem State.setCascLink_home (s : State) (i j : Nat) v : (s.setCascLink i v).home j = s.home j := rfl
@[simp] theorem State.setCascLink_drop (s : State) (i j : Nat) v : (s.setCascLink i v).drop j = s.drop j := rfl
@[simp] theorem State.setCascLink_granule (s : State) (i j : Nat) v : (s.setCascLink i v).granule j = s.granule j := rfl
@[simp] theorem State.setCascLink_mapErr (s : State) (i j : Nat) v : (s.setCascLink i v).mapErr j = s.mapErr j := rfl
@[simp] theorem State.setCascLink_row (s : State) (i j : Nat) v : (s.setCascLink i v).row j = s.row j := rfl
@[simp] theorem State.setCascLink_channel (s : State) (i j : Nat) v : (s.setCascLink i v).channel j = s.channel j := rfl
@[simp] theorem State.setCascLink_forget (s : State) (i j : Nat) v : (s.setCascLink i v).forget j = s.forget j := rfl
@[simp] theorem State.setCascLink_patrolAt (s : State) (i j : Nat) v : (s.setCascLink i v).patrolAt j = s.patrolAt j := rfl
@[simp] theorem State.setCascLink_slotsUsed (s : State) (i j : Nat) v : (s.setCascLink i v).slotsUsed j = s.slotsUsed j := rfl
@[simp] theorem State.setCascLink_hueSt (s : State) (i j : Nat) v : (s.setCascLink i v).hueSt j = s.hueSt j := rfl
@[simp] theorem State.setCascLink_file (s : State) (i j : Nat) v : (s.setCascLink i v).file j = s.file j := rfl
@[simp] theorem State.setCascLink_aplic (s : State) (i j : Nat) v : (s.setCascLink i v).aplic j = s.aplic j := rfl
@[simp] theorem State.setCascLink_meter (s : State) (i j : Nat) v : (s.setCascLink i v).meter j = s.meter j := rfl
@[simp] theorem State.setCascLink_occ (s : State) (i j : Nat) v : (s.setCascLink i v).occ j = s.occ j := rfl
@[simp] theorem State.setCascLink_slice (s : State) (i j : Nat) v : (s.setCascLink i v).slice j = s.slice j := rfl
@[simp] theorem State.setCascLink_cell (s : State) (i j : Nat) v : (s.setCascLink i v).cell j = s.cell j := rfl
@[simp] theorem State.setCascLink_rootPort (s : State) (i j : Nat) v : (s.setCascLink i v).rootPort j = s.rootPort j := rfl
@[simp] theorem State.setCascLink_cxlMem (s : State) (i j : Nat) v : (s.setCascLink i v).cxlMem j = s.cxlMem j := rfl
@[simp] theorem State.setCascLink_filterAt (s : State) (i j : Nat) v : (s.setCascLink i v).filterAt j = s.filterAt j := rfl
@[simp] theorem State.setCascLink_iommu (s : State) (i j : Nat) v : (s.setCascLink i v).iommu j = s.iommu j := rfl
@[simp] theorem State.setCascLink_mbx (s : State) (i j : Nat) v : (s.setCascLink i v).mbx j = s.mbx j := rfl
@[simp] theorem State.setCascLink_uncUnit (s : State) (i j : Nat) v : (s.setCascLink i v).uncUnit j = s.uncUnit j := rfl
@[simp] theorem State.setCascLink_dieCfg (s : State) (i j : Nat) v : (s.setCascLink i v).dieCfg j = s.dieCfg j := rfl
@[simp] theorem State.setCascLink_rail (s : State) (i j : Nat) v : (s.setCascLink i v).rail j = s.rail j := rfl
@[simp] theorem State.setCascLink_partition (s : State) (i j : Nat) v : (s.setCascLink i v).partition j = s.partition j := rfl
@[simp] theorem State.setCascLink_dieStatus (s : State) (i j : Nat) v : (s.setCascLink i v).dieStatus j = s.dieStatus j := rfl
@[simp] theorem State.setCascLink_spares (s : State) (i j : Nat) v : (s.setCascLink i v).spares j = s.spares j := rfl

/-! What `setPartition` leaves alone. -/

@[simp] theorem State.setPartition_fab (s : State) (i : Nat) v : (s.setPartition i v).fab = s.fab := rfl
@[simp] theorem State.setPartition_mem (s : State) (i : Nat) v : (s.setPartition i v).mem = s.mem := rfl
@[simp] theorem State.setPartition_hub (s : State) (i : Nat) v : (s.setPartition i v).hub = s.hub := rfl
@[simp] theorem State.setPartition_now (s : State) (i : Nat) v : (s.setPartition i v).now = s.now := rfl
@[simp] theorem State.setPartition_free (s : State) (i : Nat) v : (s.setPartition i v).free = s.free := rfl
@[simp] theorem State.setPartition_pending (s : State) (i : Nat) v : (s.setPartition i v).pending = s.pending := rfl
@[simp] theorem State.setPartition_mgmt_mail (s : State) (i : Nat) v : (s.setPartition i v).mgmt.mail = s.mgmt.mail := rfl
@[simp] theorem State.setPartition_mgmt_mordant (s : State) (i : Nat) v : (s.setPartition i v).mgmt.mordant = s.mgmt.mordant := rfl
@[simp] theorem State.setPartition_mgmt_pdr (s : State) (i : Nat) v : (s.setPartition i v).mgmt.pdr = s.mgmt.pdr := rfl
@[simp] theorem State.setPartition_mgmt_store (s : State) (i : Nat) v : (s.setPartition i v).mgmt.store = s.mgmt.store := rfl
@[simp] theorem State.setPartition_mgmt_config (s : State) (i : Nat) v : (s.setPartition i v).mgmt.config = s.mgmt.config := rfl
@[simp] theorem State.setPartition_mgmt_census (s : State) (i : Nat) v : (s.setPartition i v).mgmt.census = s.mgmt.census := rfl
@[simp] theorem State.setPartition_mgmt_log (s : State) (i : Nat) v : (s.setPartition i v).mgmt.log = s.mgmt.log := rfl
@[simp] theorem State.setPartition_mgmt_service (s : State) (i : Nat) v : (s.setPartition i v).mgmt.service = s.mgmt.service := rfl
@[simp] theorem State.setPartition_mgmt_power (s : State) (i : Nat) v : (s.setPartition i v).mgmt.power = s.mgmt.power := rfl
@[simp] theorem State.setPartition_mgmt_casc (s : State) (i : Nat) v : (s.setPartition i v).mgmt.casc = s.mgmt.casc := rfl
@[simp] theorem State.setPartition_mgmt_unc (s : State) (i : Nat) v : (s.setPartition i v).mgmt.unc = s.mgmt.unc := rfl
@[simp] theorem State.setPartition_mgmt_uncFreeze (s : State) (i : Nat) v : (s.setPartition i v).mgmt.uncFreeze = s.mgmt.uncFreeze := rfl
@[simp] theorem State.setPartition_hart (s : State) (i j : Nat) v : (s.setPartition i v).hart j = s.hart j := rfl
@[simp] theorem State.setPartition_core (s : State) (i j : Nat) v : (s.setPartition i v).core j = s.core j := rfl
@[simp] theorem State.setPartition_die (s : State) (i j : Nat) v : (s.setPartition i v).die j = s.die j := rfl
@[simp] theorem State.setPartition_port (s : State) (i j : Nat) v : (s.setPartition i v).port j = s.port j := rfl
@[simp] theorem State.setPartition_stop (s : State) (i j : Nat) v : (s.setPartition i v).stop j = s.stop j := rfl
@[simp] theorem State.setPartition_crossing (s : State) (i j : Nat) v : (s.setPartition i v).crossing j = s.crossing j := rfl
@[simp] theorem State.setPartition_home (s : State) (i j : Nat) v : (s.setPartition i v).home j = s.home j := rfl
@[simp] theorem State.setPartition_drop (s : State) (i j : Nat) v : (s.setPartition i v).drop j = s.drop j := rfl
@[simp] theorem State.setPartition_granule (s : State) (i j : Nat) v : (s.setPartition i v).granule j = s.granule j := rfl
@[simp] theorem State.setPartition_mapErr (s : State) (i j : Nat) v : (s.setPartition i v).mapErr j = s.mapErr j := rfl
@[simp] theorem State.setPartition_row (s : State) (i j : Nat) v : (s.setPartition i v).row j = s.row j := rfl
@[simp] theorem State.setPartition_channel (s : State) (i j : Nat) v : (s.setPartition i v).channel j = s.channel j := rfl
@[simp] theorem State.setPartition_forget (s : State) (i j : Nat) v : (s.setPartition i v).forget j = s.forget j := rfl
@[simp] theorem State.setPartition_patrolAt (s : State) (i j : Nat) v : (s.setPartition i v).patrolAt j = s.patrolAt j := rfl
@[simp] theorem State.setPartition_slotsUsed (s : State) (i j : Nat) v : (s.setPartition i v).slotsUsed j = s.slotsUsed j := rfl
@[simp] theorem State.setPartition_hueSt (s : State) (i j : Nat) v : (s.setPartition i v).hueSt j = s.hueSt j := rfl
@[simp] theorem State.setPartition_file (s : State) (i j : Nat) v : (s.setPartition i v).file j = s.file j := rfl
@[simp] theorem State.setPartition_aplic (s : State) (i j : Nat) v : (s.setPartition i v).aplic j = s.aplic j := rfl
@[simp] theorem State.setPartition_meter (s : State) (i j : Nat) v : (s.setPartition i v).meter j = s.meter j := rfl
@[simp] theorem State.setPartition_occ (s : State) (i j : Nat) v : (s.setPartition i v).occ j = s.occ j := rfl
@[simp] theorem State.setPartition_slice (s : State) (i j : Nat) v : (s.setPartition i v).slice j = s.slice j := rfl
@[simp] theorem State.setPartition_cell (s : State) (i j : Nat) v : (s.setPartition i v).cell j = s.cell j := rfl
@[simp] theorem State.setPartition_rootPort (s : State) (i j : Nat) v : (s.setPartition i v).rootPort j = s.rootPort j := rfl
@[simp] theorem State.setPartition_cxlMem (s : State) (i j : Nat) v : (s.setPartition i v).cxlMem j = s.cxlMem j := rfl
@[simp] theorem State.setPartition_filterAt (s : State) (i j : Nat) v : (s.setPartition i v).filterAt j = s.filterAt j := rfl
@[simp] theorem State.setPartition_iommu (s : State) (i j : Nat) v : (s.setPartition i v).iommu j = s.iommu j := rfl
@[simp] theorem State.setPartition_mbx (s : State) (i j : Nat) v : (s.setPartition i v).mbx j = s.mbx j := rfl
@[simp] theorem State.setPartition_uncUnit (s : State) (i j : Nat) v : (s.setPartition i v).uncUnit j = s.uncUnit j := rfl
@[simp] theorem State.setPartition_dieCfg (s : State) (i j : Nat) v : (s.setPartition i v).dieCfg j = s.dieCfg j := rfl
@[simp] theorem State.setPartition_rail (s : State) (i j : Nat) v : (s.setPartition i v).rail j = s.rail j := rfl
@[simp] theorem State.setPartition_cascLink (s : State) (i j : Nat) v : (s.setPartition i v).cascLink j = s.cascLink j := rfl
@[simp] theorem State.setPartition_dieStatus (s : State) (i j : Nat) v : (s.setPartition i v).dieStatus j = s.dieStatus j := rfl
@[simp] theorem State.setPartition_spares (s : State) (i j : Nat) v : (s.setPartition i v).spares j = s.spares j := rfl

/-! What `setDieStatus` leaves alone. -/

@[simp] theorem State.setDieStatus_fab (s : State) (i : Nat) v : (s.setDieStatus i v).fab = s.fab := rfl
@[simp] theorem State.setDieStatus_mem (s : State) (i : Nat) v : (s.setDieStatus i v).mem = s.mem := rfl
@[simp] theorem State.setDieStatus_hub (s : State) (i : Nat) v : (s.setDieStatus i v).hub = s.hub := rfl
@[simp] theorem State.setDieStatus_now (s : State) (i : Nat) v : (s.setDieStatus i v).now = s.now := rfl
@[simp] theorem State.setDieStatus_free (s : State) (i : Nat) v : (s.setDieStatus i v).free = s.free := rfl
@[simp] theorem State.setDieStatus_pending (s : State) (i : Nat) v : (s.setDieStatus i v).pending = s.pending := rfl
@[simp] theorem State.setDieStatus_mgmt_mail (s : State) (i : Nat) v : (s.setDieStatus i v).mgmt.mail = s.mgmt.mail := rfl
@[simp] theorem State.setDieStatus_mgmt_mordant (s : State) (i : Nat) v : (s.setDieStatus i v).mgmt.mordant = s.mgmt.mordant := rfl
@[simp] theorem State.setDieStatus_mgmt_store (s : State) (i : Nat) v : (s.setDieStatus i v).mgmt.store = s.mgmt.store := rfl
@[simp] theorem State.setDieStatus_mgmt_config (s : State) (i : Nat) v : (s.setDieStatus i v).mgmt.config = s.mgmt.config := rfl
@[simp] theorem State.setDieStatus_mgmt_census (s : State) (i : Nat) v : (s.setDieStatus i v).mgmt.census = s.mgmt.census := rfl
@[simp] theorem State.setDieStatus_mgmt_log (s : State) (i : Nat) v : (s.setDieStatus i v).mgmt.log = s.mgmt.log := rfl
@[simp] theorem State.setDieStatus_mgmt_mode (s : State) (i : Nat) v : (s.setDieStatus i v).mgmt.mode = s.mgmt.mode := rfl
@[simp] theorem State.setDieStatus_mgmt_service (s : State) (i : Nat) v : (s.setDieStatus i v).mgmt.service = s.mgmt.service := rfl
@[simp] theorem State.setDieStatus_mgmt_power (s : State) (i : Nat) v : (s.setDieStatus i v).mgmt.power = s.mgmt.power := rfl
@[simp] theorem State.setDieStatus_mgmt_casc (s : State) (i : Nat) v : (s.setDieStatus i v).mgmt.casc = s.mgmt.casc := rfl
@[simp] theorem State.setDieStatus_mgmt_unc (s : State) (i : Nat) v : (s.setDieStatus i v).mgmt.unc = s.mgmt.unc := rfl
@[simp] theorem State.setDieStatus_mgmt_uncFreeze (s : State) (i : Nat) v : (s.setDieStatus i v).mgmt.uncFreeze = s.mgmt.uncFreeze := rfl
@[simp] theorem State.setDieStatus_hart (s : State) (i j : Nat) v : (s.setDieStatus i v).hart j = s.hart j := rfl
@[simp] theorem State.setDieStatus_core (s : State) (i j : Nat) v : (s.setDieStatus i v).core j = s.core j := rfl
@[simp] theorem State.setDieStatus_die (s : State) (i j : Nat) v : (s.setDieStatus i v).die j = s.die j := rfl
@[simp] theorem State.setDieStatus_port (s : State) (i j : Nat) v : (s.setDieStatus i v).port j = s.port j := rfl
@[simp] theorem State.setDieStatus_stop (s : State) (i j : Nat) v : (s.setDieStatus i v).stop j = s.stop j := rfl
@[simp] theorem State.setDieStatus_crossing (s : State) (i j : Nat) v : (s.setDieStatus i v).crossing j = s.crossing j := rfl
@[simp] theorem State.setDieStatus_home (s : State) (i j : Nat) v : (s.setDieStatus i v).home j = s.home j := rfl
@[simp] theorem State.setDieStatus_drop (s : State) (i j : Nat) v : (s.setDieStatus i v).drop j = s.drop j := rfl
@[simp] theorem State.setDieStatus_granule (s : State) (i j : Nat) v : (s.setDieStatus i v).granule j = s.granule j := rfl
@[simp] theorem State.setDieStatus_mapErr (s : State) (i j : Nat) v : (s.setDieStatus i v).mapErr j = s.mapErr j := rfl
@[simp] theorem State.setDieStatus_row (s : State) (i j : Nat) v : (s.setDieStatus i v).row j = s.row j := rfl
@[simp] theorem State.setDieStatus_channel (s : State) (i j : Nat) v : (s.setDieStatus i v).channel j = s.channel j := rfl
@[simp] theorem State.setDieStatus_forget (s : State) (i j : Nat) v : (s.setDieStatus i v).forget j = s.forget j := rfl
@[simp] theorem State.setDieStatus_patrolAt (s : State) (i j : Nat) v : (s.setDieStatus i v).patrolAt j = s.patrolAt j := rfl
@[simp] theorem State.setDieStatus_slotsUsed (s : State) (i j : Nat) v : (s.setDieStatus i v).slotsUsed j = s.slotsUsed j := rfl
@[simp] theorem State.setDieStatus_hueSt (s : State) (i j : Nat) v : (s.setDieStatus i v).hueSt j = s.hueSt j := rfl
@[simp] theorem State.setDieStatus_file (s : State) (i j : Nat) v : (s.setDieStatus i v).file j = s.file j := rfl
@[simp] theorem State.setDieStatus_aplic (s : State) (i j : Nat) v : (s.setDieStatus i v).aplic j = s.aplic j := rfl
@[simp] theorem State.setDieStatus_meter (s : State) (i j : Nat) v : (s.setDieStatus i v).meter j = s.meter j := rfl
@[simp] theorem State.setDieStatus_occ (s : State) (i j : Nat) v : (s.setDieStatus i v).occ j = s.occ j := rfl
@[simp] theorem State.setDieStatus_slice (s : State) (i j : Nat) v : (s.setDieStatus i v).slice j = s.slice j := rfl
@[simp] theorem State.setDieStatus_cell (s : State) (i j : Nat) v : (s.setDieStatus i v).cell j = s.cell j := rfl
@[simp] theorem State.setDieStatus_rootPort (s : State) (i j : Nat) v : (s.setDieStatus i v).rootPort j = s.rootPort j := rfl
@[simp] theorem State.setDieStatus_cxlMem (s : State) (i j : Nat) v : (s.setDieStatus i v).cxlMem j = s.cxlMem j := rfl
@[simp] theorem State.setDieStatus_filterAt (s : State) (i j : Nat) v : (s.setDieStatus i v).filterAt j = s.filterAt j := rfl
@[simp] theorem State.setDieStatus_iommu (s : State) (i j : Nat) v : (s.setDieStatus i v).iommu j = s.iommu j := rfl
@[simp] theorem State.setDieStatus_mbx (s : State) (i j : Nat) v : (s.setDieStatus i v).mbx j = s.mbx j := rfl
@[simp] theorem State.setDieStatus_uncUnit (s : State) (i j : Nat) v : (s.setDieStatus i v).uncUnit j = s.uncUnit j := rfl
@[simp] theorem State.setDieStatus_dieCfg (s : State) (i j : Nat) v : (s.setDieStatus i v).dieCfg j = s.dieCfg j := rfl
@[simp] theorem State.setDieStatus_rail (s : State) (i j : Nat) v : (s.setDieStatus i v).rail j = s.rail j := rfl
@[simp] theorem State.setDieStatus_cascLink (s : State) (i j : Nat) v : (s.setDieStatus i v).cascLink j = s.cascLink j := rfl
@[simp] theorem State.setDieStatus_partition (s : State) (i j : Nat) v : (s.setDieStatus i v).partition j = s.partition j := rfl
@[simp] theorem State.setDieStatus_spares (s : State) (i j : Nat) v : (s.setDieStatus i v).spares j = s.spares j := rfl

/-! What `setSpares` leaves alone. -/

@[simp] theorem State.setSpares_fab (s : State) (i : Nat) v : (s.setSpares i v).fab = s.fab := rfl
@[simp] theorem State.setSpares_mem (s : State) (i : Nat) v : (s.setSpares i v).mem = s.mem := rfl
@[simp] theorem State.setSpares_hub (s : State) (i : Nat) v : (s.setSpares i v).hub = s.hub := rfl
@[simp] theorem State.setSpares_now (s : State) (i : Nat) v : (s.setSpares i v).now = s.now := rfl
@[simp] theorem State.setSpares_free (s : State) (i : Nat) v : (s.setSpares i v).free = s.free := rfl
@[simp] theorem State.setSpares_pending (s : State) (i : Nat) v : (s.setSpares i v).pending = s.pending := rfl
@[simp] theorem State.setSpares_mgmt_mail (s : State) (i : Nat) v : (s.setSpares i v).mgmt.mail = s.mgmt.mail := rfl
@[simp] theorem State.setSpares_mgmt_mordant (s : State) (i : Nat) v : (s.setSpares i v).mgmt.mordant = s.mgmt.mordant := rfl
@[simp] theorem State.setSpares_mgmt_store (s : State) (i : Nat) v : (s.setSpares i v).mgmt.store = s.mgmt.store := rfl
@[simp] theorem State.setSpares_mgmt_config (s : State) (i : Nat) v : (s.setSpares i v).mgmt.config = s.mgmt.config := rfl
@[simp] theorem State.setSpares_mgmt_census (s : State) (i : Nat) v : (s.setSpares i v).mgmt.census = s.mgmt.census := rfl
@[simp] theorem State.setSpares_mgmt_log (s : State) (i : Nat) v : (s.setSpares i v).mgmt.log = s.mgmt.log := rfl
@[simp] theorem State.setSpares_mgmt_mode (s : State) (i : Nat) v : (s.setSpares i v).mgmt.mode = s.mgmt.mode := rfl
@[simp] theorem State.setSpares_mgmt_service (s : State) (i : Nat) v : (s.setSpares i v).mgmt.service = s.mgmt.service := rfl
@[simp] theorem State.setSpares_mgmt_power (s : State) (i : Nat) v : (s.setSpares i v).mgmt.power = s.mgmt.power := rfl
@[simp] theorem State.setSpares_mgmt_casc (s : State) (i : Nat) v : (s.setSpares i v).mgmt.casc = s.mgmt.casc := rfl
@[simp] theorem State.setSpares_mgmt_unc (s : State) (i : Nat) v : (s.setSpares i v).mgmt.unc = s.mgmt.unc := rfl
@[simp] theorem State.setSpares_mgmt_uncFreeze (s : State) (i : Nat) v : (s.setSpares i v).mgmt.uncFreeze = s.mgmt.uncFreeze := rfl
@[simp] theorem State.setSpares_hart (s : State) (i j : Nat) v : (s.setSpares i v).hart j = s.hart j := rfl
@[simp] theorem State.setSpares_core (s : State) (i j : Nat) v : (s.setSpares i v).core j = s.core j := rfl
@[simp] theorem State.setSpares_die (s : State) (i j : Nat) v : (s.setSpares i v).die j = s.die j := rfl
@[simp] theorem State.setSpares_port (s : State) (i j : Nat) v : (s.setSpares i v).port j = s.port j := rfl
@[simp] theorem State.setSpares_stop (s : State) (i j : Nat) v : (s.setSpares i v).stop j = s.stop j := rfl
@[simp] theorem State.setSpares_crossing (s : State) (i j : Nat) v : (s.setSpares i v).crossing j = s.crossing j := rfl
@[simp] theorem State.setSpares_home (s : State) (i j : Nat) v : (s.setSpares i v).home j = s.home j := rfl
@[simp] theorem State.setSpares_drop (s : State) (i j : Nat) v : (s.setSpares i v).drop j = s.drop j := rfl
@[simp] theorem State.setSpares_granule (s : State) (i j : Nat) v : (s.setSpares i v).granule j = s.granule j := rfl
@[simp] theorem State.setSpares_mapErr (s : State) (i j : Nat) v : (s.setSpares i v).mapErr j = s.mapErr j := rfl
@[simp] theorem State.setSpares_row (s : State) (i j : Nat) v : (s.setSpares i v).row j = s.row j := rfl
@[simp] theorem State.setSpares_channel (s : State) (i j : Nat) v : (s.setSpares i v).channel j = s.channel j := rfl
@[simp] theorem State.setSpares_forget (s : State) (i j : Nat) v : (s.setSpares i v).forget j = s.forget j := rfl
@[simp] theorem State.setSpares_patrolAt (s : State) (i j : Nat) v : (s.setSpares i v).patrolAt j = s.patrolAt j := rfl
@[simp] theorem State.setSpares_slotsUsed (s : State) (i j : Nat) v : (s.setSpares i v).slotsUsed j = s.slotsUsed j := rfl
@[simp] theorem State.setSpares_hueSt (s : State) (i j : Nat) v : (s.setSpares i v).hueSt j = s.hueSt j := rfl
@[simp] theorem State.setSpares_file (s : State) (i j : Nat) v : (s.setSpares i v).file j = s.file j := rfl
@[simp] theorem State.setSpares_aplic (s : State) (i j : Nat) v : (s.setSpares i v).aplic j = s.aplic j := rfl
@[simp] theorem State.setSpares_meter (s : State) (i j : Nat) v : (s.setSpares i v).meter j = s.meter j := rfl
@[simp] theorem State.setSpares_occ (s : State) (i j : Nat) v : (s.setSpares i v).occ j = s.occ j := rfl
@[simp] theorem State.setSpares_slice (s : State) (i j : Nat) v : (s.setSpares i v).slice j = s.slice j := rfl
@[simp] theorem State.setSpares_cell (s : State) (i j : Nat) v : (s.setSpares i v).cell j = s.cell j := rfl
@[simp] theorem State.setSpares_rootPort (s : State) (i j : Nat) v : (s.setSpares i v).rootPort j = s.rootPort j := rfl
@[simp] theorem State.setSpares_cxlMem (s : State) (i j : Nat) v : (s.setSpares i v).cxlMem j = s.cxlMem j := rfl
@[simp] theorem State.setSpares_filterAt (s : State) (i j : Nat) v : (s.setSpares i v).filterAt j = s.filterAt j := rfl
@[simp] theorem State.setSpares_iommu (s : State) (i j : Nat) v : (s.setSpares i v).iommu j = s.iommu j := rfl
@[simp] theorem State.setSpares_mbx (s : State) (i j : Nat) v : (s.setSpares i v).mbx j = s.mbx j := rfl
@[simp] theorem State.setSpares_uncUnit (s : State) (i j : Nat) v : (s.setSpares i v).uncUnit j = s.uncUnit j := rfl
@[simp] theorem State.setSpares_dieCfg (s : State) (i j : Nat) v : (s.setSpares i v).dieCfg j = s.dieCfg j := rfl
@[simp] theorem State.setSpares_rail (s : State) (i j : Nat) v : (s.setSpares i v).rail j = s.rail j := rfl
@[simp] theorem State.setSpares_cascLink (s : State) (i j : Nat) v : (s.setSpares i v).cascLink j = s.cascLink j := rfl
@[simp] theorem State.setSpares_partition (s : State) (i j : Nat) v : (s.setSpares i v).partition j = s.partition j := rfl
@[simp] theorem State.setSpares_dieStatus (s : State) (i j : Nat) v : (s.setSpares i v).dieStatus j = s.dieStatus j := rfl

end Sys2Proof.Machine
end

