-- ==== Sys2Proof/Laws/Harts.lean ====
section
/-! SUPPORT. What the shared operations of harts can do: each lemma says once everything its operation changes. -/

namespace Sys2Proof.Machine

/-! ### Registers -/

/-- Counting an event of a hart changes nothing but its standard CSRs. -/
theorem HartState.bump_only (x : HartState) (n k fuel : Nat) : ∃ c, x.bump n k fuel = { x with csr := c } := by
  induction fuel generalizing x n k with
  | zero => exact ⟨x.csr, rfl⟩
  | succ fuel ih =>
    have one (y : HartState) (b : Bool) : ∃ c, (if b then y.bump (n + 1) 1 fuel else y) = { y with csr := c } := by
      cases b
      · exact ⟨y.csr, rfl⟩
      · exact ih y (n + 1) 1
    unfold HartState.bump
    simp only
    split
    · exact ⟨_, rfl⟩
    · split
      · obtain ⟨c, hc⟩ := one (x.setCsr _ _) _
        exact ⟨c, hc⟩
      · obtain ⟨c, hc⟩ := one (((x.setCsr _ _).csrBit _ _ _).csrBit _ _ _) _
        exact ⟨c, hc⟩

/-- Counting an event of a hart changes nothing but its standard CSRs. -/
theorem HartState.event_only (x : HartState) (code k : Nat) (st : Stamp) : ∃ c, x.event code k st = { x with csr := c } := by
  unfold HartState.event
  generalize List.range 29 = l
  induction l generalizing x with
  | nil => exact ⟨x.csr, rfl⟩
  | cons i l ih =>
    simp only [List.foldl_cons]
    split
    · obtain ⟨c, hc⟩ := x.bump_only (i + 3) k 29
      rw [hc]
      obtain ⟨c', hc'⟩ := ih { x with csr := c }
      exact ⟨c', hc'⟩
    · exact ih x

/-- Counting an event of a hart leaves a CSR below the event selectors and outside the counters and the pending bits as it is. -/
theorem HartState.bump_getCsr (x : HartState) (n k fuel r : Nat) (h1 : r < 0x320 + n) (h2 : r ≠ 0x344) (_ : r < 0xB00) :
    (x.bump n k fuel).getCsr r = x.getCsr r := by
  have set (y : HartState) (m : Nat) (v : Word) (hm : r ≠ m) : (y.setCsr m v).getCsr r = y.getCsr r := by
    simp [HartState.setCsr, HartState.getCsr, Table.get_put, hm]
  induction fuel generalizing x n k with
  | zero => rfl
  | succ fuel ih =>
    have one (y : HartState) (b : Bool) : (if b then y.bump (n + 1) 1 fuel else y).getCsr r = y.getCsr r := by
      cases b
      · rfl
      · exact ih y (n + 1) 1 (by omega)
    unfold HartState.bump
    simp only
    split
    · exact set _ _ _ (by omega)
    · split
      · rw [one]; exact set _ _ _ (by omega)
      · rw [one]
        unfold HartState.csrBit
        rw [set _ _ _ (by omega), set _ _ _ (by omega), set _ _ _ (by omega)]

/-- Counting an event leaves mcountinhibit as it is. -/
@[simp] theorem HartState.event_inhibit (x : HartState) (code k : Nat) (st : Stamp) :
    (x.event code k st).getCsr 0x320 = x.getCsr 0x320 := by
  unfold HartState.event
  generalize List.range 29 = l
  induction l generalizing x with
  | nil => rfl
  | cons i l ih =>
    simp only [List.foldl_cons]
    rw [ih]
    split
    · exact x.bump_getCsr (i + 3) k 29 0x320 (by omega) (by omega) (by omega)
    · rfl

/-- A retirement counts, and changes nothing but the counters. -/
theorem HartState.retire_only (x : HartState) (st : Stamp) :
    ∃ c, x.retire st = { x with csr := c, accInstret := x.instret } := by
  obtain ⟨c, hc⟩ := x.event_only 0x21 1 st
  have hi := x.event_inhibit 0x21 1 st
  unfold HartState.retire
  generalize x.event 0x21 1 st = y at hc hi
  have hacc : y.accInstret = x.accInstret := by rw [hc]
  have ha : y.instret = x.instret := by simp only [HartState.instret, hi, hacc]
  simp only [ha]
  split
  · rename_i h
    have : x.instret = x.accInstret := by simp only [HartState.instret, ← hi, h, if_true]
    exact ⟨c, by rw [hc, this]⟩
  · obtain ⟨e, he⟩ :=
      ({ y.setCsr 0xB02 (y.getCsr 0xB02 + 1) with accInstret := x.instret } : HartState).event_only 2 1 st
    exact ⟨e, by rw [he, hc]; rfl⟩

/-- Counting a core event changes nothing but the hart's standard CSRs and the flags of the sampled instruction. -/
theorem State.hartEvent_only (s : State) (h : HartId) (code : Nat) (st : Stamp) :
    ∃ c g, s.hartEvent h code st = s.setHart (hartIx h) { s.hart (hartIx h) with csr := c, flags := g } := by
  unfold State.hartEvent
  obtain ⟨c, hc⟩ := (s.hart (hartIx h)).event_only code 1 st
  exact ⟨c, _, by rw [hc]⟩

/-! ### Sampling -/

/-- The end of an instruction changes the hart's sampling registers and one CSR, and takes at most one free value: what holds of
all those holds after it. -/
theorem State.endSample_ind (s : State) (h : HartId) (w : Waiting) (ends : Nat) (P : State → Prop) (h0 : P s)
    (h2 : ∀ n c a b d f g, P (({ s with free := n }).setHart (hartIx h)
      { s.hart (hartIx h) with csr := c, cqzsmpctl := a, cqzsmpinfo := b, cqzsmppc := d, cqzsmpaddr := f, cqzsmplat := g })) :
    P (s.endSample h w ends) := by
  unfold State.endSample
  by_cases a1 : w.sample = true
  · by_cases a2 : bit (s.hart (hartIx h)).cqzsmpctl 8 = true
    · simp only [a1, a2, Bool.not_true, Bool.false_eq_true, if_false, if_true]
      exact h2 s.free _ _ _ _ _ _
    · simp only [a1, a2, State.takeWord, Bool.not_true, Bool.false_eq_true, if_false]
      exact h2 _ _ _ _ _ _ _
  · simp only [a1, Bool.not_false, if_true]
    exact h0

/-! ### Dispatch -/

/-- Replacing a hart twice is replacing it by the second value, where the first is no default hart. -/
theorem State.setHart_setHart (s : State) (i : Nat) (x y : HartState) (hx : x ≠ {}) :
    (s.setHart i x).setHart i y = s.setHart i y := by
  simp only [State.setHart, Table.put_put _ _ _ _ _ hx]

/-- Whether an instruction can be dispatched does not depend on what waits for dispatch. -/
theorem State.mayDispatch_front (s : State) (h : HartId) (op : HartOp) (q : List Fetched) :
    (s.setHart (hartIx h) { s.hart (hartIx h) with front := q }).mayDispatch h op = s.mayDispatch h op := by
  simp only [State.mayDispatch, State.hasRoom, State.sharers, State.hart_setHart, if_true]
  by_cases e : hartIx (siblingOf h) = hartIx h
  · simp only [e, if_true]; rfl
  · simp only [e, if_false]; rfl

/-- A new instruction of a hart that nothing keeps back is dispatched and tried, and the command runs no other. -/
theorem State.newOpAt_ready (s : State) (h : HartId) (op : HartOp) (pc : Word) (hr : s.ready h op = true) :
    s.newOpAt h op pc = ((s.startsAt h op pc).2.issue h (s.startsAt h op pc).1).2 := by
  simp only [State.ready, Bool.and_eq_true, List.isEmpty_iff] at hr
  obtain ⟨⟨hf, hm⟩, -⟩ := hr
  have hne (q : Fetched) : ({ s.hart (hartIx h) with front := [q] } : HartState) ≠ {} := fun e => by
    have := congrArg HartState.front e
    simp at this
  unfold State.newOpAt State.advance
  simp only [hf, List.nil_append, State.hart_setHart, if_true, List.length_singleton]
  unfold State.drain
  simp only [State.hart_setHart, if_true, State.mayDispatch_front, hm, Bool.not_true, Bool.false_eq_true, if_false,
    State.setHart_setHart _ _ _ _ (hne _)]
  unfold State.startsAt
  split
  · rename_i h1; simp only [State.drain]; exact (congrArg Prod.snd h1).symm
  · rename_i h1; exact (congrArg Prod.snd h1).symm

end Sys2Proof.Machine
end

