-- ==== Sys2Proof/Laws/Memory.lean ====
section
/-! SUPPORT. The laws of stored memory: every operation on the stored bytes keeps their canonical form, and a read of a line after a write
gives what was written there and what was before anywhere else. -/

namespace Sys2Proof.Machine

/-! ### The canonical form of cells -/

theorem cellsRise_mono (t : List Host.Cell) {lo hi : Nat} (h : lo ≤ hi) (w : cellsRise t hi = true) : cellsRise t lo = true := by
  cases t with
  | nil => rfl
  | cons e t =>
    simp only [cellsRise, Bool.and_eq_true, decide_eq_true_eq] at w ⊢
    exact ⟨h.trans w.1, w.2⟩

theorem cellsRise_erase (t : List Host.Cell) (k lo : Nat) (w : cellsRise t lo = true) : cellsRise (Table.erase t k) lo = true := by
  induction t generalizing lo with
  | nil => rfl
  | cons e t ih =>
    obtain ⟨a, v⟩ := e
    simp only [cellsRise, Bool.and_eq_true, decide_eq_true_eq] at w
    unfold Table.erase
    split
    · exact cellsRise_mono _ (w.1.trans (Nat.le_succ a)) (ih _ w.2)
    · simp only [cellsRise, Bool.and_eq_true, decide_eq_true_eq]; exact ⟨w.1, ih _ w.2⟩

theorem cellsRise_insert (t : List Host.Cell) (k lo : Nat) (v : Byte) (hk : lo ≤ k) (w : cellsRise t lo = true) :
    cellsRise (Table.insert t k v) lo = true := by
  induction t generalizing lo with
  | nil => simp [Table.insert, cellsRise, hk]
  | cons e t ih =>
    obtain ⟨a, x⟩ := e
    simp only [cellsRise, Bool.and_eq_true, decide_eq_true_eq] at w
    unfold Table.insert
    split
    · simp only [cellsRise, Bool.and_eq_true, decide_eq_true_eq]; exact ⟨hk, Nat.succ_le_of_lt ‹_›, w.2⟩
    · split
      · subst_vars; simp only [cellsRise, Bool.and_eq_true, decide_eq_true_eq]; exact ⟨hk, w.2⟩
      · simp only [cellsRise, Bool.and_eq_true, decide_eq_true_eq]; exact ⟨w.1, ih _ (by omega) w.2⟩

theorem cellsRise_put (t : List Host.Cell) (d : Byte) (k : Nat) (v : Byte) (w : cellsRise t 0 = true) :
    cellsRise (Table.put d t k v) 0 = true := by
  unfold Table.put
  split
  · exact cellsRise_erase t k 0 w
  · exact cellsRise_insert t k 0 v (Nat.zero_le k) w

theorem cellsRise_filter (t : List Host.Cell) (f : Host.Cell → Bool) (lo : Nat) (w : cellsRise t lo = true) :
    cellsRise (t.filter f) lo = true := by
  induction t generalizing lo with
  | nil => rfl
  | cons e t ih =>
    obtain ⟨a, v⟩ := e
    simp only [cellsRise, Bool.and_eq_true, decide_eq_true_eq] at w
    simp only [List.filter_cons]
    split
    · simp only [cellsRise, Bool.and_eq_true, decide_eq_true_eq]; exact ⟨w.1, ih _ w.2⟩
    · exact cellsRise_mono _ (w.1.trans (Nat.le_succ a)) (ih _ w.2)

theorem mem_erase {t : List Host.Cell} {k : Nat} {c : Host.Cell} (h : c ∈ Table.erase t k) : c ∈ t := by
  induction t with
  | nil => exact h
  | cons e t ih =>
    obtain ⟨a, v⟩ := e
    unfold Table.erase at h
    split at h
    · exact .tail _ (ih h)
    · rcases List.mem_cons.1 h with h | h
      · exact h ▸ .head _
      · exact .tail _ (ih h)

theorem mem_insert {t : List Host.Cell} {k : Nat} {v : Byte} {c : Host.Cell} (h : c ∈ Table.insert t k v) : c = (k, v) ∨ c ∈ t := by
  induction t with
  | nil => exact .inl (by simpa [Table.insert] using h)
  | cons e t ih =>
    obtain ⟨a, x⟩ := e
    unfold Table.insert at h
    split at h
    · rcases List.mem_cons.1 h with h | h
      · exact .inl h
      · exact .inr h
    · split at h
      · rcases List.mem_cons.1 h with h | h
        · exact .inl h
        · exact .inr (.tail _ h)
      · rcases List.mem_cons.1 h with h | h
        · exact .inr (h ▸ .head _)
        · exact (ih h).imp id (.tail _)

/-- No cell equals what its address reads as when it is unlisted. -/
theorem cells_put (t : List Host.Cell) (d : Nat → Byte) (k : Nat) (v : Byte) (w : ∀ c ∈ t, c.2 ≠ d c.1) :
    ∀ c ∈ Table.put (d k) t k v, c.2 ≠ d c.1 := by
  intro c h
  unfold Table.put at h
  split at h
  · exact w c (mem_erase h)
  · rcases mem_insert h with h | h
    · subst h; assumption
    · exact w c h

/-! ### Operations on memory -/

theorem Memory_wf_iff (m : Memory) : m.wf = true ↔ cellsRise m.data 0 = true ∧ (∀ c ∈ m.data, c.2 ≠ 0) ∧
    cellsRise m.check 0 = true ∧ ∀ c ∈ m.check, c.2 ≠ checkDefault c.1 := by
  simp [Memory.wf, and_assoc]

theorem foldl_keeps {α β : Type} (P : β → Prop) (f : β → α → β) (l : List α) (h : ∀ t a, a ∈ l → P t → P (f t a)) (t : β) (w : P t) :
    P (l.foldl f t) := by
  induction l generalizing t with
  | nil => exact w
  | cons a l ih => exact ih (fun t b hb => h t b (.tail _ hb)) _ (h t a (.head _) w)

theorem checkDefault_at (line i : Nat) (h : i < 8) :
    checkDefault (line * 8 + i) = (checkBytes (codeAddr line) zeroLine false).getD i 0 := by
  unfold checkDefault
  rw [show (line * 8 + i) / 8 = line by omega, show (line * 8 + i) % 8 = i by omega]

/-- Check bytes put at a line, under the defaults `z` of its eight. -/
theorem check_put (z : Bytes) (line : Nat) (v : Nat → Byte) (t : List Host.Cell) (e : ∀ i < 8, checkDefault (line * 8 + i) = z.getD i 0)
    (w : ∀ c ∈ t, c.2 ≠ checkDefault c.1) :
    ∀ c ∈ (List.range 8).foldl (fun t i => Table.put (z.getD i 0) t (line * 8 + i) (v i)) t, c.2 ≠ checkDefault c.1 := by
  refine foldl_keeps (fun (t : List Host.Cell) => ∀ c ∈ t, c.2 ≠ checkDefault c.1) _ _ (fun t i hi h => ?_) t w
  rw [← e i (List.mem_range.1 hi)]
  exact cells_put t checkDefault _ _ h

theorem storeRaw_mem (s : State) (line : Nat) (data check : Bytes) :
    (s.storeRaw line data check).mem =
      { s.mem with
        data := (List.range 64).foldl (fun t i => Table.put 0 t (line * 64 + i) (data.getD i 0)) s.mem.data
        check := (List.range 8).foldl (fun t i => Table.put ((checkBytes (codeAddr line) zeroLine false).getD i 0) t (line * 8 + i)
          (check.getD i 0)) s.mem.check } := rfl

/-- Storing a line keeps the canonical form. -/
theorem storeRaw_wf (s : State) (line : Nat) (data check : Bytes) (w : s.mem.wf = true) : (s.storeRaw line data check).mem.wf = true := by
  have e := checkDefault_at line
  rw [storeRaw_mem]
  generalize checkBytes (codeAddr line) zeroLine false = z at e ⊢
  rw [Memory_wf_iff] at w ⊢
  obtain ⟨w1, w2, w3, w4⟩ := w
  exact ⟨foldl_keeps (fun t => cellsRise t 0 = true) _ _ (fun t i _ h => cellsRise_put t _ _ _ h) _ w1,
    foldl_keeps (fun (t : List Host.Cell) => ∀ c ∈ t, c.2 ≠ 0) _ _ (fun t i _ h => cells_put t (fun _ => 0) _ _ h) _ w2,
    foldl_keeps (fun t => cellsRise t 0 = true) _ _ (fun t i _ h => cellsRise_put t _ _ _ h) _ w3, check_put z line (fun i => check.getD i 0) _ e w4⟩

/-- Forgetting a granule's bytes keeps the canonical form. -/
theorem wipeGranule_wf (s : State) (g : Nat) (w : s.mem.wf = true) : (s.wipeGranule g).mem.wf = true := by
  rw [Memory_wf_iff] at w ⊢
  exact ⟨cellsRise_filter _ _ _ w.1, fun c h => w.2.1 c (List.mem_of_mem_filter h), cellsRise_filter _ _ _ w.2.2.1,
    fun c h => w.2.2.2 c (List.mem_of_mem_filter h)⟩

/-- Clearing the map bits of a range keeps the canonical form. -/
theorem clearMap_wf (s : State) (e : ForgetEntry) (w : s.mem.wf = true) : (s.clearMap e).mem.wf = true := by
  rw [Memory_wf_iff] at w ⊢
  exact ⟨cellsRise_filter _ _ _ w.1, fun c h => w.2.1 c (List.mem_of_mem_filter h), cellsRise_filter _ _ _ w.2.2.1,
    fun c h => w.2.2.2 c (List.mem_of_mem_filter h)⟩

/-! ### A read after a write -/

theorem get_foldl_put (d : Nat → Byte) (f : Nat → Byte) (base n : Nat) (t : List Host.Cell) (k : Nat) (e : Byte) (he : e = d k) :
    Table.get e ((List.range n).foldl (fun t i => Table.put (d (base + i)) t (base + i) (f i)) t) k =
      if base ≤ k ∧ k < base + n then f (k - base) else Table.get e t k := by
  induction n with
  | zero =>
    rw [if_neg (by omega)]
    rfl
  | succ n ih =>
    rw [List.range_succ, List.foldl_append]
    simp only [List.foldl_cons, List.foldl_nil]
    by_cases h : k = base + n
    · subst h
      rw [he, Table.get_put, if_pos rfl, if_pos (by omega)]
      congr 1; omega
    · have hp : ∀ u : List Host.Cell, Table.get e (Table.put (d (base + n)) u (base + n) (f n)) k = Table.get e u k := by
        intro u
        unfold Table.put Table.get
        split <;> simp [Table.find_erase, Table.find_insert, h]
      rw [hp, ih]
      have : (base ≤ k ∧ k < base + (n + 1)) ↔ (base ≤ k ∧ k < base + n) := by omega
      simp only [this]

/-- The byte at an address of memory. -/
theorem get_storeRaw (s : State) (line : Nat) (data check : Bytes) (a : Nat) :
    Table.get 0 (s.storeRaw line data check).mem.data a =
      if line * 64 ≤ a ∧ a < line * 64 + 64 then data.getD (a - line * 64) 0 else Table.get 0 s.mem.data a :=
  get_foldl_put (fun _ => 0) (fun i => data.getD i 0) (line * 64) 64 s.mem.data a 0 rfl

theorem storedLine_data (s : State) (line : Nat) :
    (s.storedLine line).1 = (List.range 64).map fun i => Table.get 0 s.mem.data (line * 64 + i) := rfl

/-- Storing a line leaves every byte of every other line. -/
theorem storedLine_storeRaw_of_ne (s : State) (line other : Nat) (data check : Bytes) (h : other ≠ line) :
    ((s.storeRaw line data check).storedLine other).1 = (s.storedLine other).1 := by
  rw [storedLine_data, storedLine_data]
  refine List.map_congr_left fun i hi => ?_
  have := List.mem_range.1 hi
  rw [get_storeRaw, if_neg (by omega)]

/-- A stored line reads back as its bytes. -/
theorem storedLine_storeRaw (s : State) (line : Nat) (data check : Bytes) (hd : data.length = 64) :
    ((s.storeRaw line data check).storedLine line).1 = data := by
  rw [storedLine_data]
  refine List.ext_getElem (by simp [hd]) fun i h1 h2 => ?_
  simp only [List.getElem_map, List.getElem_range]
  rw [get_storeRaw, if_pos (by simp at h1; omega), show line * 64 + i - line * 64 = i by omega]
  simp [List.getD_eq_getElem?_getD, h2]

end Sys2Proof.Machine
end

