-- ==== Sys2Proof/Laws/Transport.lean ====
section
/-! SUPPORT. What the packets that move in a tick can do: everything but the rings, stops, crossings, links, the messages on their
way and the uncore counters is as before. -/

namespace Sys2Proof.Machine

/-- From one state to another only packets have moved: the harts, caches and homes, memory, the hub's devices, time, the queue of
commands, and of Mordant's state all but the uncore counters, are as before. -/
def Moved (s t : State) : Prop :=
  t.mem = s.mem ∧ t.hub = s.hub ∧ t.now = s.now ∧ t.pending = s.pending ∧ t.fab.harts = s.fab.harts ∧ t.fab.cores = s.fab.cores ∧
    t.fab.dies = s.fab.dies ∧ t.fab.homes = s.fab.homes ∧ t.mgmt = { s.mgmt with unc := t.mgmt.unc }

theorem Moved.refl (s : State) : Moved s s := ⟨rfl, rfl, rfl, rfl, rfl, rfl, rfl, rfl, rfl⟩

theorem Moved.trans {s t u : State} (h : Moved s t) (k : Moved t u) : Moved s u := by
  obtain ⟨a1, a2, a3, a4, a5, a6, a7, a8, a9⟩ := h
  obtain ⟨b1, b2, b3, b4, b5, b6, b7, b8, b9⟩ := k
  refine ⟨b1.trans a1, b2.trans a2, b3.trans a3, b4.trans a4, b5.trans a5, b6.trans a6, b7.trans a7, b8.trans a8, ?_⟩
  rw [b9, a9]

theorem Moved.forEach {α : Type} {f : State → α → State} (hf : ∀ s a, Moved s (f s a)) (l : List α) (s : State) :
    Moved s (s.forEach l f) := by
  unfold State.forEach
  induction l generalizing s with
  | nil => exact .refl s
  | cons a l ih => exact (hf s a).trans (ih (f s a))

theorem Moved.ite {c : Prop} [Decidable c] {s t u : State} (h : Moved s t) (k : Moved s u) : Moved s (if c then t else u) := by
  split
  · exact h
  · exact k

/-! ### Where the parts are held -/

theorem moved_setStop (s : State) (i : Nat) v : Moved s (s.setStop i v) := ⟨rfl, rfl, rfl, rfl, rfl, rfl, rfl, rfl, rfl⟩
theorem moved_setCrossing (s : State) (i : Nat) v : Moved s (s.setCrossing i v) := ⟨rfl, rfl, rfl, rfl, rfl, rfl, rfl, rfl, rfl⟩
theorem moved_setPort (s : State) (i : Nat) v : Moved s (s.setPort i v) := ⟨rfl, rfl, rfl, rfl, rfl, rfl, rfl, rfl, rfl⟩
theorem moved_setBundle (s : State) (p k : Nat) b : Moved s (s.setBundle p k b) := moved_setPort ..
theorem moved_takeNat (s : State) : Moved s s.takeNat.2 := ⟨rfl, rfl, rfl, rfl, rfl, rfl, rfl, rfl, rfl⟩

theorem moved_onRing (s : State) l : Moved s (s.upFab fun f => { f with onRing := f.onRing ++ l }) :=
  ⟨rfl, rfl, rfl, rfl, rfl, rfl, rfl, rfl, rfl⟩

theorem moved_uncount (s : State) (u c k : Nat) h cl f : Moved s (s.uncount u c k h cl f) := by
  unfold State.uncount
  exact .ite (.refl s) ⟨rfl, rfl, rfl, rfl, rfl, rfl, rfl, rfl, rfl⟩

/-- A message enters the transport, or is lost from it. -/
theorem moved_join (s : State) (q : Packet) : Moved s (s.join q) := by
  unfold State.join
  split <;> exact ⟨rfl, rfl, rfl, rfl, rfl, rfl, rfl, rfl, rfl⟩

theorem moved_lose (s : State) (q : Packet) : Moved s (s.lose q) := by
  unfold State.lose
  split <;> exact ⟨rfl, rfl, rfl, rfl, rfl, rfl, rfl, rfl, rfl⟩

/-! ### Rings, stops and crossings -/

theorem moved_ringPoison (s : State) (r : RingId) (p : Slot) : Moved s (s.ringPoison r p) := by
  unfold State.ringPoison
  simp only
  split
  · exact .refl s
  · split
    · rename_i q _
      split
      · exact (moved_lose s (.io true q)).trans ⟨rfl, rfl, rfl, rfl, rfl, rfl, rfl, rfl, rfl⟩
      · exact moved_lose s (.io true q)
    · rename_i q _
      split
      · exact (moved_lose s (.msi q)).trans ⟨rfl, rfl, rfl, rfl, rfl, rfl, rfl, rfl, rfl⟩
      · exact moved_lose s (.msi q)
    · exact ⟨rfl, rfl, rfl, rfl, rfl, rfl, rfl, rfl, rfl⟩
    · exact ⟨rfl, rfl, rfl, rfl, rfl, rfl, rfl, rfl, rfl⟩
    · exact .refl s

theorem moved_ringEject (s : State) (r : RingId) (p : Slot) : Moved s (s.ringEject r p) := by
  unfold State.ringEject
  simp only
  refine (moved_ringPoison s r p).trans ?_
  split
  · exact .refl _
  · split
    · exact .refl _
    · exact (moved_join _ _).trans ⟨rfl, rfl, rfl, rfl, rfl, rfl, rfl, rfl, rfl⟩

theorem moved_putOut (s : State) (r : RingId) (k : Nat) (p : Slot) : Moved s (s.putOut r k p) := moved_setStop ..

theorem moved_putCross {s t : State} {r : RingId} {k sub : Nat} {onto : Bool} {p : Slot} (h : s.putCross r k sub onto p = some t) :
    Moved s t := by
  unfold State.putCross at h
  simp only at h
  split at h
  · cases h
  · rw [Option.map_eq_some_iff] at h
    obtain ⟨q, -, rfl⟩ := h
    exact moved_setCrossing ..

theorem moved_setOut (s : State) (q : Packet) : Moved s (s.setOut q) := by
  have gone (u : State) : Moved u (u.upFab fun f => { f with launched := f.launched ++ [q] }) :=
    ⟨rfl, rfl, rfl, rfl, rfl, rfl, rfl, rfl, rfl⟩
  unfold State.setOut
  simp only
  split
  · exact .refl s
  · split
    · exact .refl s
    · exact (moved_putOut ..).trans (gone _)
    · split
      · rename_i h; exact (moved_putCross h).trans (gone _)
      · exact .refl s

theorem moved_launch (s : State) : Moved s s.launch := by
  unfold State.launch
  refine Moved.trans ?_ (Moved.forEach (f := State.setOut) moved_setOut _ _)
  refine Moved.trans ?_ (Moved.forEach (fun _ _ => moved_setStop ..) _ _)
  exact ⟨rfl, rfl, rfl, rfl, rfl, rfl, rfl, rfl, rfl⟩

theorem moved_ingressGo (s : State) (key : Nat) : Moved s (s.ingressGo key) := by
  unfold State.ingressGo
  simp only
  split
  · exact (moved_setStop ..).trans (.forEach (fun _ _ => moved_putOut ..) _ _)
  · split
    · exact moved_setStop ..
    · refine (moved_setStop ..).trans (.forEach (fun u e => ?_) _ _)
      split
      · exact moved_setStop ..
      · rename_i sub _
        cases hp : u.putCross (keyStop key).1 (keyStop key).2 sub false e.2 with
        | none => exact moved_setStop ..
        | some v => exact moved_putCross hp
  · exact .refl s

theorem moved_crossRun (s : State) (key : Nat) : Moved s (s.crossRun key) := by
  unfold State.crossRun
  simp only
  split
  · exact .refl s
  · exact moved_setCrossing ..

theorem moved_crossOut (s : State) (key : Nat) : Moved s (s.crossOut key) := by
  unfold State.crossOut
  simp only
  split
  · exact .refl s
  · rename_i q _
    refine (moved_setCrossing s key q).trans ?_
    split
    · exact .ite (moved_putOut ..) (.refl _)
    · split
      · split
        · exact .refl _
        · exact moved_setBundle ..
      · split
        · exact .refl _
        · exact moved_setBundle ..
      · exact moved_setBundle ..
      · exact .refl _

theorem moved_injectDir (s : State) (r : RingId) (cw : Bool) (n : Nat) : Moved s (s.injectDir r cw n) := by
  induction n generalizing s with
  | zero => exact .refl s
  | succ n ih =>
    unfold State.injectDir
    extract_lets keys waits tagged cands
    refine .ite (ih s) ((moved_takeNat s).trans ?_)
    generalize s.takeNat = q
    obtain ⟨v, u⟩ := q
    dsimp only
    split
    · exact ih _
    · split
      · exact ih _
      · exact Moved.trans (Moved.trans (moved_setStop ..) (moved_onRing ..)) (ih _)

theorem moved_inject (s : State) (r : RingId) : Moved s (s.inject r) := by
  unfold State.inject
  simp only
  split
  · exact .refl s
  · exact (moved_takeNat s).trans ((moved_takeNat _).trans ((moved_injectDir ..).trans (moved_injectDir ..)))

/-! ### Links -/

theorem moved_ringOnto (s : State) (r : RingId) (k : Nat) (p : Slot) : Moved s (s.ringOnto r k p) := by
  unfold State.ringOnto
  exact (moved_ringEject s r p).trans (moved_onRing ..)

theorem moved_bufferOut (s : State) (p k : Nat) (hub : Bool) (out : List (BitVec 2 × Slot)) : Moved s (s.bufferOut p k hub out) :=
  (moved_setBundle ..).trans (.forEach (fun _ _ => moved_ringOnto ..) _ _)

theorem moved_bufferDrain (s : State) (p k : Nat) (hub : Bool) : Moved s (s.bufferDrain p k hub) := by
  unfold State.bufferDrain
  simp only
  exact .ite (.refl s) ((moved_takeNat s).trans (moved_bufferOut ..))

theorem moved_replayed (s : State) (p k : Nat) (hub : Bool) : Moved s (s.replayed p k hub) := by
  unfold State.replayed
  simp only
  exact (moved_setBundle ..).trans (.ite (moved_uncount ..) (.refl _))

theorem moved_transmit (s : State) (p k : Nat) (hub : Bool) : Moved s (s.transmit p k hub) := by
  unfold State.transmit
  simp only
  split
  · exact .refl s
  · split
    · split
      · exact .refl s
      · exact (moved_setBundle ..).trans (moved_replayed ..)
    · split
      · exact .refl s
      · split
        · exact .refl s
        · exact moved_setBundle ..

theorem moved_rerouteGo (s : State) (p k : Nat) (hub : Bool) : Moved s (s.rerouteGo p k hub) := by
  unfold State.rerouteGo
  simp only
  split
  · exact .refl s
  · split
    · exact .refl s
    · exact (moved_setBundle ..).trans (moved_setBundle ..)

theorem moved_endTick (s : State) (p k : Nat) (hub : Bool) : Moved s (s.endTick p k hub) := by
  unfold State.endTick
  simp only
  refine Moved.trans ?_ (Moved.forEach (f := fun (u : State) (_ : Nat) => u.transmit p k hub) (fun u _ => moved_transmit u p k hub) _ _)
  refine Moved.trans ?_ (moved_rerouteGo ..)
  refine Moved.trans (.ite (.refl s) (moved_setBundle ..)) (.ite (moved_bufferDrain ..) (.refl _))

theorem moved_linkTick (s : State) : Moved s s.linkTick :=
  .forEach (fun _ _ => (moved_endTick ..).trans (moved_endTick ..)) _ _

/-! ### The tick -/

/-- What 10 ns move are packets, and nothing else. -/
theorem moved_transport (s : State) : Moved s s.transport := by
  unfold State.transport
  simp only
  refine Moved.trans ?_ (moved_linkTick _)
  refine Moved.trans ?_ (.forEach moved_inject _ _)
  refine Moved.trans ?_ (.forEach moved_crossOut _ _)
  refine Moved.trans ?_ (.forEach moved_crossRun _ _)
  exact (moved_launch s).trans (.forEach moved_ingressGo _ _)

end Sys2Proof.Machine
end

