-- ==== Sys2Proof/Tests/Helpers.lean ====
section
/-! SUPPORT. The small states that the tests and witnesses start from. -/

namespace Sys2Proof.Tests

set_option Elab.async false

open Sys2Proof.Machine

def h0 : HartId := ⟨0, 0, 0⟩

/-- The package after a start to Unified, with the hart of key `k` fetching. -/
def unified (k : Nat := 0) (x : HartState := { run := .running }) : State :=
  let s := State.reset
  let s : State := { s with mgmt := { s.mgmt with mode := { s.mgmt.mode with mode := .unified } } }
  s.setHart k x

/-- The line at physical address 0x8000_0000. -/
def aLine : Nat := 0x2000000

/-- A state whose die 0 holds that line in its L3, in state `c`. -/
def holding (c : CState) (s : State := unified) : State :=
  (s.installL3 0 aLine c ((List.range 64).map (BitVec.ofNat 8)) false false 0).2

def acc (va : Nat) (size : Nat) (spec : Bool := false) : Access := { va := BitVec.ofNat 64 va, size := size, spec := spec }

/-- The hub's copies agree with the configuration in force while no hue has been given a class. -/
theorem hub_stream_agrees (s : State) (h : s.mgmt.config.hubClasses = []) : s.shade 12 = s.expectedShade 12 := by
  unfold State.shade State.expectedShade State.censusStream State.expectedStream
  have e : ∀ n, Table.get 0#18 s.mgmt.config.hubClasses n = 0#18 := fun _ => by rw [h]; rfl
  simp [e, State.mordantClass]

/-- A sideband frame with a good code. -/
def frame (typ : Byte) (payload : Bytes) (seq : Byte := 0) : SbFrame :=
  { seq := seq, payload := payload, crc := crcSb ([typ, BitVec.ofNat 8 payload.length, seq, 0] ++ payload) }

/-- `takesFrame` as a check. -/
def takes (s : State) (d : Fin 12) (typ : Byte) (f : SbFrame) : Bool :=
  !(s.port d.val).sbLost && decide (f.typ.getD typ = typ) && !f.back && f.payload.length ≤ 58 &&
    crcSb ([typ, BitVec.ofNat 8 f.payload.length, f.seq, 0] ++ f.payload) = f.crc

theorem takesFrame_of_takes {s : State} {d : Fin 12} {typ : Byte} {f : SbFrame} (h : takes s d typ f = true) :
    s.takesFrame d typ f := by
  simp only [takes, Bool.and_eq_true, Bool.not_eq_true', decide_eq_true_eq] at h
  exact ⟨h.1.1.1.1, h.1.1.1.2, h.1.1.2, h.1.2, h.2⟩

/-- `quiet` of a hart as a check. -/
def quietB (x : HartState) : Bool := x.waiting.isEmpty && x.front.isEmpty && x.ctl.isNone && !x.walk.any (·.fault.isSome)

theorem quiet_of {x : HartState} (h : quietB x = true) : x.quiet := by
  simp only [quietB, Bool.and_eq_true, Bool.not_eq_true', List.isEmpty_iff, Option.isNone_iff_eq_none] at h
  exact ⟨h.1.1.1, h.1.1.2, h.1.2, h.2⟩

/-- `dieQuiet` as a check. -/
def dieQuietB (s : State) (d : Fin 12) : Bool :=
  ((hartsOfDie d).all fun h => quietB (s.hart (hartIx h))) && (s.die d.val).held.isEmpty

theorem dieQuiet_of {s : State} {d : Fin 12} (h : dieQuietB s d = true) : s.dieQuiet d := by
  simp only [dieQuietB, Bool.and_eq_true, List.all_eq_true, List.isEmpty_iff] at h
  exact ⟨fun g hg => quiet_of (h.1 g hg), h.2⟩

/-- `dieIdle` as a check. -/
def dieIdleB (s : State) (d : Fin 12) : Bool :=
  dieQuietB s d && (s.die d.val).recalls.isEmpty && (s.die d.val).evicting.isEmpty && (s.die d.val).miss.all fun n => n.filled.isNone

theorem dieIdle_of {s : State} {d : Fin 12} (h : dieIdleB s d = true) : s.dieIdle d := by
  simp only [dieIdleB, Bool.and_eq_true, List.isEmpty_iff, List.all_eq_true, Option.isNone_iff_eq_none] at h
  exact ⟨dieQuiet_of h.1.1.1, h.1.1.2, h.1.2, h.2⟩

/-- Bundle `k` of a die's port. -/
def bundleIs (d k : Nat) (b : BundleState) (s : State := unified) : State := s.setBundle d k b

/-- A command cell with this payload. -/
def cell (payload : Bytes) (lot : BitVec 32 := 0) : CmdCell :=
  { tag := 7, plen := BitVec.ofNat 8 payload.length, lotExpect := lot, reserved := List.replicate 7 0, payload := padTo 48 payload }

/-- The mailbox of the host outside Partitioned mode. -/
def host : Issuer := .mailbox 0

/-- With a session of every feature on mailbox 0 and on the BMC's path. -/
def session (s : State := unified) : State :=
  { s with mgmt := { s.mgmt with mail :=
      [(0, { session := some { minor := 1, features := 0xFF } }), (16, { session := some { minor := 1, features := 0xFF } })] } }

/-- `serves` as a check. -/
def servesB (s : State) (iss : Issuer) (c : CmdCell) (op : Nat) (lenOk : Bool) (zero : List Nat) (inScope : Bool) : Bool :=
  s.timed && (s.mbx (issIx iss)).accepted.isEmpty && s.canAccept iss && s.slotsEmpty iss && !s.mustWait iss op &&
    ((List.range 17).all fun j => (s.mbx j).accepted.all fun a => !changes a.opcode) &&
    (s.cellFaults iss op c lenOk zero inScope).isEmpty

theorem serves_of {s : State} {iss : Issuer} {c : CmdCell} {op : Nat} {lenOk : Bool} {zero : List Nat} {inScope : Bool}
    (h : servesB s iss c op lenOk zero inScope = true) : s.serves iss c op lenOk zero inScope := by
  simp only [servesB, Bool.and_eq_true, Bool.not_eq_true', List.isEmpty_iff, List.all_eq_true, List.mem_range] at h
  exact ⟨h.1.1.1.1.1.1, h.1.1.1.1.1.2, h.1.1.1.1.2, h.1.1.1.2, h.1.1.2, h.1.2, h.2⟩

end Sys2Proof.Tests
end

