-- ==== Sys2Proof/WellFormed.lean ====
section
/-! DEFINITION. Well-formed commands: operands that name something the spec names. A meaning is total and does not rest on
these checks; they say which commands an agent of the spec can send. -/

namespace Sys2Proof

/-- An access of 1, 2, 4 or 8 bytes. -/
def Access.ok (a : Access) : Bool := [1, 2, 4, 8].contains a.size

/-- An atomic operation of 4 or 8 bytes, or 16 for a compare-and-swap (Zacas). -/
def atomicOk (a : Access) (op : AmoOp) : Bool := [4, 8].contains a.size || (op = .cas && a.size = 16)

/-- A coherence message: a line of the 52-bit space, and 64 data bytes or none (R151). -/
def Msg.ok (m : Msg) : Bool := m.line < 2 ^ 46 && (m.data.length = 64 || m.data.length = 0)

def IoMsg.ok (m : IoMsg) : Bool := [1, 2, 4, 8].contains m.size && m.pa < 2 ^ 52

/-- A memory request carries a whole line when it writes, and nothing when it reads. -/
def MemReq.ok (r : MemReq) : Bool := r.line < 2 ^ 46 && r.data.length = (if r.write then 64 else 0)

/-- A slot carries 64 data bytes (R178). -/
def Slot.ok (p : Slot) : Bool := p.data.length = 64

/-- A sideband payload is at most 255 bytes (R200). -/
def SbFrame.ok (f : SbFrame) : Bool := f.payload.length ≤ 255

/-- A die's message of a commit is a frame; one between packages names REGIDs and hue entries of 16 bits (R202, R407). -/
def commitFrameOk : CommitWho → CommitFrame → Bool
  | .die _, .frame f => f.ok
  | .member _, .message _ entries _ => entries.all fun e => e.1 < 0x10000
  | _, _ => false

/-- A flit's payload is 120 bytes (R203). -/
def Flit.ok (f : Flit) : Bool := f.payload.length = 120

/-- A command cell carries 48 payload bytes, with those above its length zero, and 7 reserved bytes (R375); a message's payload is
padded alike. -/
def CmdCell.ok (c : CmdCell) : Bool := c.payload.length = 48 && c.reserved.length = 7

/-- A device request names 1 to 4,096 bytes and carries them when it writes; the payload of a CAS is its two operands. -/
def DmaReq.ok (r : DmaReq) : Bool :=
  0 < r.len && r.len ≤ 4096 && (match r.kind with
    | .read => r.data.length = 0
    | _ => r.data.length = r.len)

/-- Errors of a read name symbols of the two codewords of a line, below 128 (R232). -/
def errsOk (e : List (Nat × Byte)) : Bool := e.all fun x => x.1 < 128

/-- Well-formed commands. -/
def Instr.wellFormed : Instr → Bool
  | .load _ a _ _ _ => a.ok
  | .store _ a _ _ => a.ok
  | .amo _ a op _ _ _ => atomicOk a op
  | .lr _ a _ => [4, 8].contains a.size
  | .sc _ a _ _ => [4, 8].contains a.size
  | .cboClean _ a => a.size = 64
  | .cboFlush _ a => a.size = 64
  | .cboInval _ a => a.size = 64
  | .cboZero _ a => a.size = 64
  | .prefetchR _ a => a.size = 64
  | .prefetchW _ a => a.size = 64
  | .prefetchI _ a => a.size = 64
  | .rds m => m.ok && m.op = .rdS
  | .rdo m => m.ok && m.op = .rdO
  | .upg m => m.ok && m.op = .upg
  | .claimz m => m.ok && m.op = .claimZ
  | .cmoclean m => m.ok && m.op = .cmoClean
  | .cmoflush m => m.ok && m.op = .cmoFlush
  | .cmoinval m => m.ok && m.op = .cmoInval
  | .rdonce m => m.ok && m.op = .rdOnce
  | .wrfull m => m.ok && m.op = .wrFull
  | .wrpart m => m.ok && m.op = .wrPart
  | .atomio m => m.ok && m.op = .atomIO
  | .rdns m => m.ok && m.op = .rdNS
  | .wrns m => m.ok && m.op = .wrNS
  | .wbdata m => m.ok && m.op = .wbData
  | .fwds m => m.ok && m.op = .fwdS
  | .fwdo m => m.ok && m.op = .fwdO
  | .fwdsnap m => m.ok && m.op = .fwdSnap
  | .fwdclean m => m.ok && m.op = .fwdClean
  | .inv m => m.ok && m.op = .inv
  | .recall m => m.ok && m.op = .recall
  | .recalldiscard m => m.ok && m.op = .recallDiscard
  | .fwdack m => m.ok && m.op = .fwdAck
  | .fwdackdata m => m.ok && m.op = .fwdAckData
  | .invack m => m.ok && m.op = .invAck
  | .recallack m => m.ok && m.op = .recallAck
  | .recallackdata m => m.ok && m.op = .recallAckData
  | .compack m => m.ok && m.op = .compAck
  | .data m => m.ok && m.op = .data
  | .dataonce m => m.ok && m.op = .dataOnce
  | .grant m => m.ok && m.op = .grant
  | .wback m => m.ok && m.op = .wbAck
  | .cmodone m => m.ok && m.op = .cmoDone
  | .wrdone m => m.ok && m.op = .wrDone
  | .error m _ => m.ok && m.op = .error
  | .iord m => m.ok
  | .iowr m => m.ok
  | .ringPacketArrival _ stop p => p.ok && stop < 44
  | .dataFlit _ f => f.ok
  | .controlFlit _ f => f.ok
  | .maintFlit _ f => f.ok
  | .nak _ f => f.ok
  | .hbmLineRead r => r.ok && !r.write
  | .hbmLineWrite r => r.ok && r.write
  | .hbmReadData r _ e => r.ok && !r.write && errsOk e
  | .patrolStep _ e => errsOk e
  | .readRaw _ e => errsOk e
  | .inboundMemoryRequest _ r => r.ok
  | .ident _ _ f => f.ok
  | .lanes _ _ f => f.ok
  | .handover _ _ f => f.ok
  | .retrain _ _ f => f.ok
  | .ack _ _ f => f.ok
  | .cfgPrepare w _ f => commitFrameOk w f
  | .cfgAck w _ f => commitFrameOk w f
  | .cfgFlip w _ f => commitFrameOk w f
  | .cfgDiscardFrame w _ f => commitFrameOk w f
  | .cfgLoad _ _ f => f.ok
  | .censusReq _ f => f.ok
  | .censusRpt _ f => f.ok
  | .censusPart _ f => f.ok
  | .censusEntry _ f => f.ok
  | .pmSet _ _ f => f.ok
  | .pmRpt _ _ f => f.ok
  | .hartCtlHold _ _ f => f.ok
  | .hartCtlReleaseParked _ _ f => f.ok
  | .hartCtlReleaseRunning _ _ f => f.ok
  | .hartCtlStop _ _ f => f.ok
  | .hartCtlResume _ _ f => f.ok
  | .hartRpt _ _ f => f.ok
  | .hueQuery _ c => c.ok
  | .hueAlloc _ c => c.ok
  | .hueStart _ c => c.ok
  | .hueSetClass _ c => c.ok
  | .hueDmaBind _ c => c.ok
  | .hueDmaUnbind _ c => c.ok
  | .hueGfileAssign _ c => c.ok
  | .hueGfileRelease _ c => c.ok
  | .hueReset _ c => c.ok
  | .mtrStatus _ c => c.ok
  | .mtrRead _ c => c.ok
  | .mtrAck _ c => c.ok
  | .ceSliceBind _ c => c.ok
  | .ceSliceUnbind _ c => c.ok
  | .ceSliceQuery _ c => c.ok
  | .hello _ c => c.ok
  | .bye _ c => c.ok
  | .echo _ c => c.ok
  | .evtSubscribe _ c => c.ok
  | .fwInfo _ c => c.ok
  | .pdrRead _ c => c.ok
  | .cfgRead _ c => c.ok
  | .cfgWrite _ c => c.ok
  | .cfgCommit _ c => c.ok
  | .cfgDiscard _ c => c.ok
  | .cfgStatus _ c => c.ok
  | .cfgDump _ c => c.ok
  | .censusRun _ c => c.ok
  | .censusStatus _ c => c.ok
  | .censusBisect _ c => c.ok
  | .pmQuery _ c => c.ok
  | .pmSetLimit _ c => c.ok
  | .pmCoreState _ c => c.ok
  | .pmPkgState _ c => c.ok
  | .svcStatus _ c => c.ok
  | .svcCoreSpare _ c => c.ok
  | .svcDieEvacuate _ c => c.ok
  | .svcDieReadmit _ c => c.ok
  | .svcFwStage _ c _ _ _ => c.ok
  | .svcFwActivate _ c _ => c.ok
  | .memTestArm _ c => c.ok
  | .memTestDisarm _ c => c.ok
  | .memRepairList _ c => c.ok
  | .memPcStatus _ c => c.ok
  | .weldStatus _ c => c.ok
  | .weldRetrain _ c => c.ok
  | .weldCapClear _ c => c.ok
  | .slotStatus _ c => c.ok
  | .slotUnfence _ c => c.ok
  | .cascStatus _ c => c.ok
  | .cascHandoff _ c => c.ok
  | .errRead _ c => c.ok
  | .errAck _ c => c.ok
  | .pkgResetCold _ c _ => c.ok
  | .pkgResetWarm _ c => c.ok
  | .partReset _ c => c.ok
  | _ => true

end Sys2Proof
end

