-- ==== Sys2Proof/Tests/Slice0.lean ====
section
/-! SUPPORT. Tests: an ill-formed command for each check of `Instr.wellFormed`, and the worked examples of the spec, each on one
operation or one step. -/

namespace Sys2Proof.Tests

set_option Elab.async false

open Sys2Proof.Machine

/-! ### Ill-formed commands are refused -/

def someMsg (op : Op) : Msg := { op := op, line := aLine, src := 3, dst := 34, req := 3 }

theorem test_wf_access_size : Instr.wellFormed (.load h0 (acc 0x1000 3) 1 false .scalar) = false ∧
    Instr.wellFormed (.store h0 (acc 0x1000 16) 0 .scalar) = false ∧ Instr.wellFormed (.lr h0 (acc 0x1000 2) 1) = false ∧
    Instr.wellFormed (.load h0 (acc 0x1000 8) 1 false .scalar) = true := by decide

theorem test_wf_atomic_size : Instr.wellFormed (.amo h0 (acc 0x1000 2) .add 0 0 1) = false ∧
    Instr.wellFormed (.amo h0 (acc 0x1000 16) .add 0 0 1) = false ∧
    Instr.wellFormed (.amo h0 (acc 0x1000 16) .cas 0 0 1) = true := by decide

theorem test_wf_block_size : Instr.wellFormed (.cboZero h0 (acc 0x1000 8)) = false ∧
    Instr.wellFormed (.prefetchW h0 (acc 0x1000 32)) = false ∧ Instr.wellFormed (.cboZero h0 (acc 0x1000 64)) = true := by decide

theorem test_wf_message : Instr.wellFormed (.rds { someMsg .rdS with line := 2 ^ 46 }) = false ∧
    Instr.wellFormed (.data { someMsg .data with data := [1, 2, 3] }) = false ∧
    Instr.wellFormed (.rds (someMsg .rdO)) = false ∧ Instr.wellFormed (.rds (someMsg .rdS)) = true := by decide

theorem test_wf_io_message : Instr.wellFormed (.iord { client := .mordant, pa := 0x40000000, size := 16 }) = false ∧
    Instr.wellFormed (.iowr { client := .mordant, pa := 2 ^ 52, size := 8 }) = false ∧
    Instr.wellFormed (.iord { client := .mordant, pa := 0x40000000, size := 8 }) = true := by decide

theorem test_wf_memory_request :
    Instr.wellFormed (.hbmLineRead { client := .home 2, line := aLine, write := true, data := zeroLine }) = false ∧
    Instr.wellFormed (.hbmLineWrite { client := .home 2, line := aLine, write := true }) = false ∧
    Instr.wellFormed (.hbmReadData { client := .home 2, line := aLine, write := false } 0 [(128, 1)]) = false ∧
    Instr.wellFormed (.hbmLineRead { client := .home 2, line := aLine, write := false }) = true := by decide

theorem test_wf_slot : Instr.wellFormed (.ringPacketArrival (.hub 0) 3 ⟨0, 0, [], 0, 0⟩) = false ∧
    Instr.wellFormed (.ringPacketArrival (.hub 0) 44 ⟨0, 0, zeroLine, 0, 0⟩) = false ∧
    Instr.wellFormed (.ringPacketArrival (.hub 0) 43 ⟨0, 0, zeroLine, 0, 0⟩) = true := by decide

theorem test_wf_flit : Instr.wellFormed (.dataFlit (.casc 0) ⟨0, 0, 0, 0, 0, [], 0⟩) = false ∧
    Instr.wellFormed (.nak (.casc 0) ⟨0, 0, 0, 0, 0, List.replicate 120 0, 0⟩) = true := by decide

theorem test_wf_frame : Instr.wellFormed (.ident 3 true (frame 0x01 (List.replicate 256 0))) = false ∧
    Instr.wellFormed (.ident 3 true (frame 0x01 [1, 2])) = true := by decide +kernel

theorem test_wf_cell : Instr.wellFormed (.hello host { cell [] with payload := [] }) = false ∧
    Instr.wellFormed (.bye .bmc { cell [] with reserved := [] }) = false ∧ Instr.wellFormed (.hello host (cell [1, 0])) = true := by
  decide

theorem test_wf_device_request :
    Instr.wellFormed (.inboundMemoryRequest 0 ⟨0x4100, none, .read, 0x80000000, 0, [], 0, false, false, 0, none⟩) = false ∧
    Instr.wellFormed (.inboundMemoryRequest 0 ⟨0x4100, none, .write, 0x80000000, 4, [], 0, false, false, 0, none⟩) = false ∧
    Instr.wellFormed (.inboundMemoryRequest 0 ⟨0x4100, none, .read, 0x80000000, 64, [], 0, false, false, 0, none⟩) = true := by
  decide

/-! ### Addresses -/

/-- The line that most of the spec's examples use. -/
def exampleLine : Nat := 0x38C4D2F80 / 64

/-- Example after R1: hart 475 is die 7, core 13, thread 1. -/
theorem test_hart_number : hartIx ⟨7, 13, 1⟩ = 475 := by decide

/-- Example after R116: PA 0x12_3456_7A40 is in bank 1, set 1,070. -/
theorem test_l3_hash : l3SetOf (0x1234567A40 / 64) = 1 * 2048 + 1070 := by decide +kernel

/-- Example after R144: slice 23, set 2,147. -/
theorem test_home_hash : lineSlice exampleLine = 23 ∧ lineSet exampleLine = 2147 := by decide +kernel

/-- Example after R231. -/
theorem test_hbm_place : hbmLoc exampleLine =
    { stack := 1, channel := 11, pc := 1, sid := 0, bank := 9, row := 0x30C4, column := 2 } := by decide +kernel

/-- Example after R478: set 10,460 of the remote filter, and slice 23 of package 3. -/
theorem test_remote_filter_set : remoteSet (0xC00038C4D2F80 / 64) = 10460 ∧ lineHome (0xC00038C4D2F80 / 64) = 3 := by decide +kernel

/-- Example after R363: decoder 2 sends the load to port 25. -/
theorem test_hdm_interleave :
    ((State.reset.setCfg 0x0A02 0x0210021080000022).setCfg 0x0B02 0x10000100).hdmTarget 0 0x10723456C40 = some 25 := by
  decide +kernel

/-- Example after R509: UNIT and INFO of the record. -/
theorem test_hbm_record : (hbmLoc exampleLine).unit = 55 ∧ (hbmLoc exampleLine).info 0x7F = 0xFE4C3124 := by decide +kernel

/-! ### Codes -/

/-- Example after R181: die 2's RdO. -/
def exampleHeader : Header :=
  { opcode := 0x02, flag := 0, vc := 0, data := false, poison := false, cls := 5, hue := 0x12C, addr := exampleLine,
    txid := 0x4A7, req := 2, src := 0x82, dst := 0x93, io := false, pass_ := 0, atomop := 0, size := 0, reserved := 0 }

theorem test_header_bits : headerBits exampleHeader = 0x080A25800007189A5F2538A0A4C00000 := by decide +kernel

theorem test_header_fields : headerOf 0x080A25800007189A5F2538A0A4C00000 = exampleHeader ∧
    exampleHeader.ok (.hub 2) = true ∧ exampleHeader.ok (.hub 1) = false := by decide +kernel

/-- The nine digits of the CRC examples. -/
def digits : Bytes := (List.range 9).map fun i => BitVec.ofNat 8 (0x31 + i)

/-- R396's example value. -/
theorem test_crc64 : crc64 digits = 0x6C40DF5F0B497347 := by decide +kernel

/-- The worked block's CRC. -/
theorem test_crc32c : crc32c digits = 0xE3069283 := by decide +kernel

/-- The worked block (R333 to R341). -/
def exampleBlock : Bytes :=
  [1, 0, 9, 0, 0x14, 0, 0, 0, 0xFB, 0x7F, 0x22, 0x22, 0x22, 0x22, 0x02, 0, 0x83, 0x92, 0x06, 0xE3]

theorem test_block_written : compressBlock 0 digits = exampleBlock := by decide +kernel

/-- A result that is a value. -/
def okIs (r : Except BlockFault (Bytes × Nat)) (v : Bytes × Nat) : Bool := match r with
  | .ok x => x = v
  | .error _ => false

theorem test_block_read : okIs (decodeBlock exampleBlock) (digits, 20) = true := by decide +kernel

/-- A block whose CRC is wrong, and one whose padding is not zero, are refused. -/
theorem test_block_refused :
    (match decodeBlock (splice exampleBlock 16 [0x82]) with | .error .crc => true | _ => false) = true ∧
    (match decodeBlock (splice exampleBlock 15 [1]) with | .error .format => true | _ => false) = true := by decide +kernel

/-- A stored line reads clean; one bad symbol is corrected; the same bytes at another address do not read clean (R232 to R234). -/
theorem test_code_finds_the_bad_symbol :
    decodeLine exampleLine zeroLine (checkBytes (codeAddr exampleLine) zeroLine false) = .clean ∧
    decodeLine exampleLine (splice zeroLine 5 [0x40]) (checkBytes (codeAddr exampleLine) zeroLine false) = .corrected 13 0x40 ∧
    decodeLine (exampleLine + 1) zeroLine (checkBytes (codeAddr exampleLine) zeroLine false) ≠ .clean := by decide +kernel

/-! ### One step -/

/-- The next state of a command. -/
def after (i : Instr) (s : State) : State := match exec i s with
  | .next t => t
  | _ => s

/-- HUE_ALLOC with HUE 0xFFFF (example of chapter 15): OK, and the lowest FREE hue as two result bytes. -/
theorem test_hue_alloc_answers :
    let t := after (.hueAlloc host (cell [0xFF, 0xFF, 5])) session
    (Table.find (t.mbx 0).rspSlots 0).map (fun r => (r.status, r.result, r.event)) = some (stOk, [1, 0], false) ∧
      (t.hueSt 1).st = .bound := by decide +kernel

/-- The race of chapter 6: the line Owned by die 7. -/
def ownedBySeven : State :=
  unified.setHome 23 { dir := [(2147 * 12, { line := exampleLine, st := .owned, holders := 0x80 })] }

/-- Step 3 of the race: the home forwards die 2's RdO to die 7, naming die 2. -/
theorem test_race_forwards_to_the_owner :
    let t := after (.rdo { op := .rdO, line := exampleLine, src := 2, dst := 55, req := 2, txid := 0x4A7 }) ownedBySeven
    (t.fab.net.map fun m => (m.op, m.line, m.dst, m.req)) = [(.fwdO, exampleLine, 7, 2)] := by decide +kernel

/-- The race's last sentence: a WbData before the RdO is valid, so the data goes to memory. -/
theorem test_race_early_writeback_is_valid :
    let t := after (.wbdata { op := .wbData, line := exampleLine, src := 7, dst := 55, req := 7, data := zeroLine }) ownedBySeven
    ((t.home 23).wbs.map fun w => w.phase) = [.writing] ∧ t.fab.net = [] := by decide +kernel

/-- R51: a request of a hart whose effective hue is FREE; bit 16 is APPLY (R49). -/
theorem test_dead_hue_load_stops :
    (match exec (.load h0 (acc 0x80000000 8) 1 false .scalar) (unified 0 { run := .running, priv := .s, cqzhue := 0x10005 }) with
     | .fault .deadHue => true
     | _ => false) = true := by decide +kernel

end Sys2Proof.Tests
end

