-- ==== Sys2Proof/Tests/WitnessCoherence.lean ====
section
/-! SUPPORT. For each statement about the coherence protocol, states and messages that meet its hypotheses together, one
for each clause. The line is that of physical address 0x8000_0000: home slice 2, directory set 64. -/

namespace Sys2Proof.Tests

set_option Elab.async false

open Sys2Proof.Machine

/-- A request of die 0 for the line. -/
def req (op : Op) (from_ : Nat := 0) (data : Bytes := []) : Msg :=
  { op := op, line := aLine, src := from_, dst := 34, req := from_, txid := 5, data := data }

/-- The package with this in home slice 2. -/
def home (x : HomeState) (s : State := unified) : State := s.setHome 2 x

/-- A directory in which the line is held as told. -/
def entry (st : DirState) (holders : BitVec 16) : HomeState := { dir := [(768, { line := aLine, st := st, holders := holders })] }

/-- What `homeBegins` asks, for a requester outside every partition. -/
def begins (s : State) (m : Msg) : Bool :=
  let x := s.home (lineSlice m.line)
  s.clocked && 32 ≤ m.dst && !(s.dieFenced m.src) && !(s.agentLost m.req) && s.domainOf m.req = none && !x.fenced &&
    mayRequest m.req m.op && (s.region (s.domainOf m.req) (m.line * 64)).isMemory && x.heldBack.isEmpty && s.trackerFree 2 m &&
    !x.busy m.line && x.waitq.isEmpty && x.recov.isEmpty && x.dir.all fun e => !e.2.bad && !e.2.soft

theorem homeBegins_of_begins (s : State) (m : Msg) (hl : m.line = aLine) (h : begins s m = true) : homeBegins s m := by
  have k : lineSlice m.line = 2 := by rw [hl]; decide +kernel
  simp only [begins, Bool.and_eq_true, Bool.not_eq_true', List.isEmpty_iff, List.all_eq_true, decide_eq_true_eq] at h
  obtain ⟨⟨⟨⟨⟨⟨⟨⟨⟨⟨⟨⟨⟨h1, h2⟩, h3⟩, h4⟩, h5⟩, h6⟩, h7⟩, h8⟩, h9⟩, h10⟩, h11⟩, h12⟩, h13⟩, h14⟩ := h
  refine ⟨h1, h2, fun _ => h3, h4, fun p hp => ?_, h6, h7, h8, h9, by rw [k]; exact h10, h11, ?_, ?_, h14⟩
  · rw [h5] at hp; cases hp
  · rw [h12]; intro q hq; cases hq
  · rw [h13]; intro q hq; cases hq

theorem witness_RequestToOwnedLineForwardsToTheOwner :
    (∀ op ∈ [Op.rdS, .rdO, .upg, .claimZ, .cmoClean, .cmoFlush, .cmoInval], homeBegins (home (entry .owned 8)) (req op)) ∧
    (∀ op ∈ [Op.rdOnce, .wrFull, .wrPart, .atomIO], homeBegins (home (entry .owned 8)) (req op 12)) ∧
    ((home (entry .owned 8)).home (lineSlice aLine)).find aLine = some (768, { line := aLine, st := .owned, holders := 8 }) ∧
    holderList 8 = [3] ∧ (8 : BitVec 16) ≠ holderMask 0 ∧ (home (entry .owned 8)).agentLost 3 = false := by
  refine ⟨fun op h => homeBegins_of_begins _ _ rfl ?_, fun op h => homeBegins_of_begins _ _ rfl ?_, ?_⟩
  · revert op; decide +kernel
  · revert op; decide +kernel
  · decide +kernel

theorem witness_RequestToFreeLineReadsOrAnswers :
    (∀ op ∈ [Op.rdS, .rdO, .upg, .claimZ, .cmoClean, .cmoFlush, .cmoInval], homeBegins unified (req op)) ∧
    (∀ op ∈ [Op.rdOnce, .wrFull, .wrPart, .atomIO], homeBegins unified (req op 12)) ∧
    ((unified.home (lineSlice aLine)).find aLine = none ∧ (unified.home (lineSlice aLine)).wbs = [] ∧
      (unified.home (lineSlice aLine)).txns = [] ∧ (unified.home (lineSlice aLine)).taken (lineSet aLine * 12 + 11) = false) ∧
    (let s := home { fenced := true }
     s.clocked = true ∧ s.dieFenced 0 = false ∧ s.domainOf 0 = none ∧ (s.home (lineSlice aLine)).fenced = true) ∧
    (unified.clocked = true ∧ (unified.home (lineSlice aLine)).fenced = false ∧ mayRequest 13 .rdO = false) ∧
    (let m : Msg := { req .rdS with line := 0x100000 }
     (unified.region none (m.line * 64)).isMemory = false ∧ (unified.home (lineSlice m.line)).fenced = false) := by
  refine ⟨fun op h => homeBegins_of_begins _ _ rfl ?_, fun op h => homeBegins_of_begins _ _ rfl ?_, ?_⟩
  · revert op; decide +kernel
  · revert op; decide +kernel
  · decide +kernel

theorem witness_RequestToSharedLineInvalidatesTheHolders :
    (∀ op ∈ [Op.rdS, .rdO, .upg, .claimZ, .cmoFlush, .cmoInval], homeBegins (home (entry .shared 0x8801)) (req op)) ∧
    (∀ op ∈ [Op.wrFull, .wrPart, .atomIO], homeBegins (home (entry .shared 0x8801)) (req op 12)) ∧
    ((home (entry .shared 0x8801)).home (lineSlice aLine)).find aLine =
      some (768, { line := aLine, st := .shared, holders := 0x8801 }) ∧
    holderList 0x8801 = [0, 11, 12] ∧ (∀ a ∈ [0, 11, 12], (home (entry .shared 0x8801)).agentLost a = false) := by
  refine ⟨fun op h => homeBegins_of_begins _ _ rfl ?_, fun op h => homeBegins_of_begins _ _ rfl ?_, ?_⟩
  · revert op; decide +kernel
  · revert op; decide +kernel
  · decide +kernel

theorem witness_WritebacksNoSnoopAndScrubs :
    (homeBegins (home (entry .owned 1)) (req .wbData 0 zeroLine) ∧ ((home (entry .owned 1)).home (lineSlice aLine)).wbs = [] ∧
      holderMask 0 = 1 ∧ homeBegins unified (req .wbData 0 zeroLine)) ∧
    (∀ op ∈ [Op.rdNS, .wrNS],
      unified.clocked = true ∧ (unified.home (lineSlice aLine)).fenced = false ∧ mayRequest 12 op = true ∧
        (unified.region (unified.domainOf 12) (aLine * 64)).isMemory = true ∧ unified.domainOf 12 = none ∧
        (unified.home (lineSlice aLine)).heldBack = [] ∧ unified.trackerFree (lineSlice aLine) (req op 12) = true) ∧
    (let x := { entry .owned 8 with waitq := [req .rdO] }
     let s := home x
     s.clocked = true ∧ s.agentLost 0 = false ∧ (s.home 2).busy aLine = false ∧ (s.home 2).recov = [] ∧
       (∀ q ∈ (s.home 2).dir, q.2.bad = false ∧ q.2.soft = false) ∧ ((s.home 2).waitq.find? fun q => q.line = aLine) = some (req .rdO) ∧
       (s.home 2).find aLine = some (768, { line := aLine, st := .owned, holders := 8 }) ∧ s.agentLost 3 = false) ∧
    (bit (unified.cfg 0x0100) 0 = true ∧ unified.mgmt.log.queue.length < 1024 ∧ (unified.home 31).recov = [] ∧
      (unified.home 31).heldBack = [] ∧ (unified.home 31).wbHeldBack = [] ∧ (unified.home 31).txns = [] ∧
      (∀ e ∈ (unified.home 31).dir, e.2.bad = false ∧ e.2.soft = false) ∧ unified.recallAgents ≠ []) := by
  refine ⟨⟨homeBegins_of_begins _ _ rfl (by decide +kernel), by decide +kernel, by decide +kernel,
    homeBegins_of_begins _ _ rfl (by decide +kernel)⟩, ?_, ?_, ?_⟩ <;> decide +kernel

/-- A forward of the home to a die. -/
def fwd (op : Op) (d : Nat := 0) : Msg := { op := op, line := aLine, src := 34, dst := d, req := 3, txid := 5 }

theorem witness_DieAnswersForwardsFromItsCopy :
    ∀ c ∈ [CState.s, .e, .m], ∀ op ∈ [Op.fwdS, .fwdO, .fwdSnap, .fwdClean, .inv, .recall, .recallDiscard],
      let s := holding c
      (forwardRow (fwd op)).isSome = true ∧ s.clocked = true ∧ s.dieStill 0 = false ∧ s.dieFenced 0 = false ∧
        s.dieQuiet 0 ∧ s.reserved 0 (List.finRange 22) aLine none = [] ∧ s.holders 0 aLine none = [] ∧ (s.die 0).findWb aLine = none ∧
        ((s.die 0).findL3 aLine).any (fun q => q.2.err = .clean) = true ∧ (unified.die 0).findL3 aLine = none := by
  have q : ∀ c ∈ [CState.s, .e, .m], dieQuietB (holding c) 0 = true := by decide +kernel
  have r : ∀ c ∈ [CState.s, .e, .m], ∀ op ∈ [Op.fwdS, .fwdO, .fwdSnap, .fwdClean, .inv, .recall, .recallDiscard],
      let s := holding c
      (forwardRow (fwd op)).isSome = true ∧ s.clocked = true ∧ s.dieStill 0 = false ∧ s.dieFenced 0 = false ∧
        s.reserved 0 (List.finRange 22) aLine none = [] ∧ s.holders 0 aLine none = [] ∧ (s.die 0).findWb aLine = none ∧
        ((s.die 0).findL3 aLine).any (fun q => q.2.err = .clean) = true ∧ (unified.die 0).findL3 aLine = none := by
    decide +kernel
  intro c hc op ho
  obtain ⟨a, b, e, f, g⟩ := r c hc op ho
  exact ⟨a, b, e, f, dieQuiet_of (q c hc), g⟩

/-- An open transaction of die 3's request, that waits for die 0 to answer `f`. -/
def txnFor (op f : Op) (plan : List HAct) : Txn :=
  { line := aLine, req := { req op 3 with dst := 34 }, plan := plan, acks := [{ agent := 0, op := f, tmo := 20 }] }

def answer (op : Op) (flag : BitVec 2 := 0) (data : Bytes := []) : Msg :=
  { op := op, line := aLine, src := 0, dst := 34, req := 3, txid := 5, flag := flag, data := data }

/-- What `awaits` asks. -/
def awaitsB (s : State) (m : Msg) (t : Txn) (f : Op) : Bool :=
  let x := s.home (lineSlice m.line)
  s.clocked && 32 ≤ m.dst && !s.dieFenced m.src && x.recov.isEmpty && x.heldBack.isEmpty && x.wbHeldBack.isEmpty && x.wbs.isEmpty &&
    x.txns = [t] && !t.waitWay && t.parent = none && x.txn m.line = some t && t.line = m.line && !t.rd && !t.wr && !t.compWait &&
    t.acks = [{ agent := m.src, op := f, tmo := 20 }] && t.named m && !s.agentLost t.req.req

theorem awaits_of (s : State) (m : Msg) (t : Txn) (f : Op) (h : awaitsB s m t f = true) : awaits s m t f := by
  simp only [awaitsB, Bool.and_eq_true, Bool.not_eq_true', List.isEmpty_iff, decide_eq_true_eq] at h
  obtain ⟨⟨⟨⟨⟨⟨⟨⟨⟨⟨⟨⟨⟨⟨⟨⟨⟨h1, h2⟩, h3⟩, h4⟩, h5⟩, h6⟩, h7⟩, h8⟩, h9⟩, h10⟩, h11⟩, h12⟩, h13⟩, h14⟩, h15⟩, h16⟩, h17⟩, h18⟩ := h
  refine ⟨h1, h2, fun _ => h3, ⟨h4, h5, h6, h7, ?_⟩, h11, h12, ?_, h13, h14, h15, ⟨20, h16⟩, h17, h18⟩
  · rw [h8]; intro u hu; rw [List.mem_singleton.mp hu]; exact ⟨h9, h10⟩
  · rw [h8]; intro u hu _; exact List.mem_singleton.mp hu

theorem witness_AnswersToHomesMoveTheTransaction :
    (awaits (home { txns := [txnFor .rdO .fwdO [.compAck]] }) (answer .fwdAck 1) (txnFor .rdO .fwdO [.compAck]) .fwdO ∧
      awaits (home { txns := [txnFor .rdO .fwdO [.compAck]] }) (answer .fwdAck 0) (txnFor .rdO .fwdO [.compAck]) .fwdO ∧
      awaits (home { txns := [txnFor .rdS .fwdS [.write, .compAck]] }) (answer .fwdAckData 1 zeroLine)
        (txnFor .rdS .fwdS [.write, .compAck]) .fwdS ∧
      awaits (home { txns := [txnFor .cmoFlush .recall [.write, .reply .cmoDone 0]] }) (answer .recallAckData 0 zeroLine)
        (txnFor .cmoFlush .recall [.write, .reply .cmoDone 0]) .recall ∧
      awaits (home { txns := [txnFor .upg .inv [.reply .grant 0, .compAck]] }) (answer .invAck)
        (txnFor .upg .inv [.reply .grant 0, .compAck]) .inv ∧
      awaits (home { txns := [{ txnFor .cmoFlush .recall [.write, .reply .cmoDone 0] with after := .free }] }) (answer .recallAck)
        { txnFor .cmoFlush .recall [.write, .reply .cmoDone 0] with after := .free } .recall) ∧
    (let t0 : Txn := { line := aLine, req := req .rdO, plan := [], compWait := true, after := .owned 0 }
     let s := home { entry .shared 1 with txns := [t0] }
     s.clocked = true ∧ s.dieFenced 0 = false ∧ (s.home (lineSlice aLine)).txn aLine = some t0 ∧
       t0.named { op := .compAck, line := aLine, src := 0, dst := 34, req := 0, txid := 5 } = true ∧
       (s.home (lineSlice aLine)).find aLine = some (768, { line := aLine, st := .shared, holders := 1 }) ∧
       (s.home (lineSlice aLine)).recov = [] ∧ (s.home (lineSlice aLine)).wbs = []) ∧
    (unified.clocked = true ∧ (unified.home (lineSlice aLine)).txn aLine = none) ∧
    (let r : Recovery := { set := 16383, started := true, acks := [{ agent := 11, op := .setRecall, tmo := 20 }], cxlWait := false }
     let s := home { recov := [r] }
     s.clocked = true ∧ (s.home 2).recov = [r] ∧ (s.home 2).heldBack = [] ∧ (s.home 2).wbHeldBack = [] ∧
       s.recallOwed 2 16383 11 = true ∧ s.dieQuiet 11 ∧ (s.die 11).recalls = [] ∧ s.linesOfSet 11 2 16383 = [] ∧
       (home { recov := [{ r with answered := [11] }] } : State).clocked = true) := by
  refine ⟨⟨awaits_of _ _ _ _ (by decide +kernel), awaits_of _ _ _ _ (by decide +kernel), awaits_of _ _ _ _ (by decide +kernel),
    awaits_of _ _ _ _ (by decide +kernel), awaits_of _ _ _ _ (by decide +kernel), awaits_of _ _ _ _ (by decide +kernel)⟩, ?_, ?_, ?_⟩
  · decide +kernel
  · decide +kernel
  · intro r s
    exact ⟨by decide +kernel, by decide +kernel, by decide +kernel, by decide +kernel, by decide +kernel,
      dieQuiet_of (by decide +kernel), by decide +kernel, by decide +kernel, by decide +kernel⟩

/-- A miss register of die 0 for the line. -/
def missFor (op : Op) : L3Miss := { line := aLine, op := op, hue := 0, txid := 5, core := 0, shared := true, tmo := 20 }

/-- A hart with one issued operation on the line. -/
def cboHart : HartState :=
  { run := .running, waiting := [{ op := .cbo .flush (acc 0x80000000 64), stamp := {}, parts := [{ va := 0x80000000, size := 64, pa := 0x80000000, at_ := .mem }], issued := true }] }

/-- A device's request of one line. -/
def inb (kind : DmaKind) (n : Nat) : Inbound :=
  { port := 3, pa := 0x80000000, hue := 0, posted := kind = .write, lines := [(5, aLine)],
    req := { rid := 0x100, pasid := none, kind := kind, addr := 0x1000, len := n, data := [], enable := 0, noSnoop := false,
             ep := false, tag := 7, xlat := none } }

/-- A hart with one I/O access out. -/
def ioHart (write : Bool) (op : HartOp) : HartState :=
  { run := .running, waiting := [{ op := op, stamp := {}, parts := [{ va := 0x40300000, size := 8, pa := 0x40300000, at_ := .control 0x300000 }], issued := true }],
    io := some { pa := 0x40300000, size := 8, write := write, msi := false, hue := 0, tmo := 20 } }

theorem witness_AnswersToRequestersCompleteTheirAccess :
    (let s := unified.setDie 0 { miss := [missFor .rdS] }
     let m : Msg := { op := .data, line := aLine, src := 34, dst := 0, req := 0, txid := 5, flag := 1, data := zeroLine }
     let ack : Msg := { op := .compAck, line := aLine, src := 0, dst := s.homeAgent aLine, req := 0, txid := 5 }
     s.clocked = true ∧ s.dieStill 0 = false ∧ s.dieFenced 0 = false ∧ (s.die 0).findMiss aLine = some (missFor .rdS) ∧
       isCmo Op.rdS = false ∧ dieQuietB s 0 = true ∧
       (let r := ((s.deliver m).dieSend 0 ack).installL3 0 aLine (grantState 1) zeroLine false false 0
        r.1 = true ∧ dieQuietB r.2 0 = true)) ∧
    (let s := (holding .s).setDie 0 { (holding .s).die 0 with miss := [missFor .upg] }
     (s.die 0).findMiss aLine = some (missFor .upg) ∧ ((s.die 0).findL3 aLine).isSome = true ∧ dieQuietB s 0 = true) ∧
    (let w : WbEntry := { line := aLine, op := .wbData, data := zeroLine, poison := false, hue := 0, txid := 5, tmo := 20 }
     ((unified.setDie 0 { wb := [w] }).die 0).findWb aLine = some w ∧ dieIdleB (unified.setDie 0 { wb := [w] }) 0 = true) ∧
    (let s := (unified 0 cboHart).setDie 0 { miss := [missFor .cmoFlush] }
     (s.die 0).findMiss aLine = some (missFor .cmoFlush) ∧ isCmo Op.cmoFlush = true ∧ (s.die 0).held = [] ∧
       (∀ g ∈ hartsOfDie 0, (s.hart (hartIx g)).ctl = none ∧ (s.hart (hartIx g)).front = [] ∧ (s.hart (hartIx g)).walk = none ∧
         (g ≠ h0 → (s.hart (hartIx g)).waiting = [])) ∧ ((s.hart 0).waiting.all fun w => w.lines.contains aLine) = true ∧
       (s.hart 0).waiting = cboHart.waiting) ∧
    (let s := unified.setDie 0 { miss := [missFor .rdS] }
     (∀ g ∈ hartsOfDie 0, (s.hart (hartIx g)).walk = none) ∧ (s.die 0).findMiss aLine = some (missFor .rdS)) ∧
    (let s : State := { unified with hub := { unified.hub with inbound := [inb .read 64] } }
     s.clocked = true ∧ s.hub.inbound = [inb .read 64] ∧ lineParts 0x80000000 64 = [(aLine, 0, 0, 64)]) ∧
    (let s : State := { unified with hub := { unified.hub with inbound := [inb .write 64] } }
     s.clocked = true ∧ s.hub.inbound = [inb .write 64]) ∧
    (let x := ioHart false (.load (acc 0x40300000 8) 5 false .scalar)
     let s := unified 0 x
     s.clocked = true ∧ s.fab.ioAnswers = [] ∧ (s.hart 0) = x ∧ x.ioLate = 0 ∧ x.ctl = none ∧ x.trapTo 19 = .m) := by
  refine ⟨?_, ?_, ?_, ?_, ?_, ?_, ?_, ?_⟩ <;> decide +kernel

theorem witness_InputOutputAccessesAreAnswered :
    (unified.clocked = true ∧ unified.scopeMode ≠ .partitioned ∧ unified.pkgPresent unified.pkgIx = true ∧ unified.pkgIx < 4 ∧
      (let m : MsiMsg := { pa := 0x45000000, size := 4, value := 2047, hue := 0, client := some h0 }
       unified.filePage (unified.partOfDie 0) m.pa = some 0 ∧ m.pa % 4096 = 0 ∧ fld m.value 0 32 < 2048)) ∧
    (let x := ioHart false (.load (acc 0x40300000 8) 5 false .scalar)
     let s := unified 0 x
     let s : State := { s with fab := { s.fab with ioAnswers := [(h0, .data 9 false)] } }
     s.clocked = true ∧ s.hart 0 = x ∧ x.ioLate = 0 ∧ x.ctl = none ∧ s.fab.ioAnswers = [(h0, .data 9 false)]) ∧
    (let x := ioHart true (.store (acc 0x40300000 8) 5 .scalar)
     let s := unified 0 x
     let s : State := { s with fab := { s.fab with ioAnswers := [(h0, .ack)] } }
     s.clocked = true ∧ s.hart 0 = x ∧ x.ioLate = 0 ∧ x.ctl = none ∧ s.fab.ioAnswers = [(h0, .ack)]) ∧
    (let s := unified.setDie 0 { miss := [missFor .rdS] }
     (∀ g ∈ hartsOfDie 0, (s.hart (hartIx g)).walk = none) ∧ (s.die 0).miss = [missFor .rdS]) ∧
    (let s := home { txns := [txnFor .rdO .fwdO [.compAck]] }
     (s.home 2).txn aLine = some (txnFor .rdO .fwdO [.compAck]) ∧
       (∃ a ∈ (txnFor .rdO .fwdO [.compAck]).acks, a.agent = 0) ∧ s.dieFenced 0 = false) := by
  refine ⟨?_, ?_, ?_, ?_, ?_⟩ <;> decide +kernel

end Sys2Proof.Tests
end

