-- ==== Sys2Proof/Tests/WitnessDevices.lean ====
section
/-! SUPPORT. For each statement about the compression engine, PCI Express and CXL, states and operands that meet its
hypotheses together, one for each clause. -/

namespace Sys2Proof.Tests

set_option Elab.async false

open Sys2Proof.Machine

def withHub (f : Hub → Hub) (s : State := unified) : State := { s with hub := f s.hub }

/-- Slice 4095 of hue 0. -/
def slice (x : SliceState) (s : State := unified) : State := withHub (fun h => { h with slices := [(4095, x)] }) s

def boundSlice : SliceState := { st := .bound, creditsBound := 4, credits := 4, logE := 6, ring := 0x80002000 }

/-- The head of a compression job: 64 bytes from 0x8000_1040 to 0x8000_0000. -/
def headCell (flags : Byte := 0) : Bytes :=
  [1, flags, 0, 0, 0, 0, 0, 0] ++ leBytes 8 0x80001040 ++ leBytes 8 0x80000000 ++ leBytes 8 64 ++ leBytes 8 4096 ++
    List.replicate 24 0

theorem witness_EngineQueuesTakeReleaseAndAbort :
    (unified.clocked = true ∧ (unified.slice 4095).st = .unbound) ∧
    (((slice { boundSlice with credits := 0 }).slice 4095).st ≠ .unbound ∧
      ((slice { boundSlice with credits := 0 }).slice 4095).credits = 0) ∧
    (∀ flags ∈ [(0 : Byte), 2],
      let d : Table Word := (List.range 7).filterMap fun n =>
        let w := BitVec.ofNat 64 (leAt (headCell flags) (8 * n) 8)
        if w = 0 then none else some (n, w)
      let x : SliceState := { boundSlice with desc := d }
      let b := (List.range 8).flatMap fun n => leBytes 8 (Table.get 0 (Table.put 0 x.desc 7 0) n).toNat
      let s := slice x
      s.clocked = true ∧ s.slice 4095 = x ∧ x.credits ≠ 0 ∧ b = headCell flags ∧ chained b = decide (flags = 2) ∧
        badDesc [b] = false ∧ s.hueLife x.hue = .active) ∧
    (let x : SliceState := { boundSlice with credits := 3, head := 65535, tail := 0, unreleased := [(1, [512])] }
     ((slice x).slice 4095) = x ∧ (x.tail - x.head).toNat < ((1 : BitVec 16) - x.head).toNat ∧
       ((0 : BitVec 16) - x.head).toNat ≤ (x.tail - x.head).toNat) ∧
    (let s := session
     let bind := cell ([0xFF, 0x0F, 0, 0, 0, 0, 0x0F, 0, 64, 6] ++ List.replicate 6 0 ++ leBytes 8 0x80002000 ++ List.replicate 12 0)
     let one := cell [0xFF, 0x0F]
     servesB s host bind 0x0C00 (bind.plen.toNat = 36) [] (s.sliceScope host 4095 0) = true ∧ CmdCell.at_ bind 0 2 = 4095 ∧
       CmdCell.at_ bind 4 4 < 2 ^ 20 ∧ CmdCell.at_ bind 8 1 = 64 ∧ CmdCell.at_ bind 9 1 = 6 ∧ CmdCell.at_ bind 16 8 % 4096 = 0 ∧
       s.cellsReserved + 64 ≤ poolCells ∧ s.hueLife 0 = .active ∧
       servesB (session (slice boundSlice)) host one 0x0C01 true [] ((session (slice boundSlice)).sliceScope host 4095 0) = true ∧
       ((session (slice boundSlice)).slice 4095).jobs = [] ∧
       servesB s host one 0x0C02 true [] (s.sliceScope host 4095 0) = true) := by
  refine ⟨?_, ?_, ?_, ?_, ?_⟩ <;> decide +kernel

def job (running : Option (Fin 8)) : Job := { seq := 9, cells := [512], submitted := 0, order := false, running := running }

/-- A slice with that job, its head cell in the pool, the engine's IOMMU in a directory mode, and granules 0 and 2 written. -/
def jobState (j : Job) (mode : Word := 1) : State :=
  let s := slice { boundSlice with jobs := [j], credits := 3 }
  let s := withHub (fun h => { h with cells := [(512, some { bytes := headCell, owner := 4095 })],
                                      iommus := [(32, { regs := [(0x10, mode)] })] }) s
  { s with mem := { s.mem with granules := [(0, .filled), (2, .filled)] } }

set_option maxRecDepth 100000 in
theorem witness_EngineRunsJobsBlockByBlock :
    (unified.clocked = true ∧ (∀ r ∈ unified.runningJobs, r.2.2.running ≠ some 7) ∧
      unified.mgmt.power.asleep.contains (.pipe 7) = false ∧ unified.bestJob = none) ∧
    (let s := jobState (job none)
     s.clocked = true ∧ s.runningJobs = [] ∧ s.bestJob = some (4095, s.slice 4095, job none) ∧ s.sliceBroken 4095 = false ∧
       badDesc (s.cellBytes [512]) = false ∧ (s.slice 4095).jobs = [job none]) ∧
    (let s := jobState (job (some 7))
     let x := s.slice 4095
     s.clocked = true ∧ s.runningJobs = [(4095, x, job (some 7))] ∧ x.st = .bound ∧ x.unbinding = none ∧
       s.sliceBroken 4095 = false ∧ (job (some 7)).retries < fld (s.cfg 0x0700) 0 3 ∧
       fld (s.cfg 0x0700) 0 3 ≤ { job (some 7) with retries := 7 }.retries) ∧
    (let s := jobState (job (some 7)) 0
     let r := s.ceBlock 4095 (s.slice 4095) (job (some 7)) []
     r.1.1 = some 5 ∧ r.2.slice 4095 = s.slice 4095 ∧ r.2.sliceBroken 4095 = false) ∧
    (let s := jobState (job (some 7))
     let x := s.slice 4095
     let r := s.ceBlock 4095 x (job (some 7)) []
     let dst := segsOf (r.2.cellBytes [512]) true
     let w := r.2.ceWrite 4095 x.hue [] (runsOf dst 0 r.1.2.2.length) r.1.2.2
     r.1.1 = none ∧ r.2.overlaps 4095 x (job (some 7)) = false ∧ (job (some 7)).stop = none ∧ r.1.2.2.length ≤ segTotal dst ∧
       w.1 = none ∧ w.2.slice 4095 = x ∧ w.2.sliceBroken 4095 = false) ∧
    (let j : Job := { job none with status := some (0, 0) }
     let s := jobState j
     let x := s.slice 4095
     let w := s.ceWrite 4095 x.hue [] (runsOf [(x.ring.toNat + 32 * (x.count % 2 ^ x.logE), 32)] 0 32)
       (recordBytes (leAt ((s.cellBytes j.cells).headD []) 4 4) x.count x.logE j 0 0)
     s.clocked = true ∧ x.jobs = [j] ∧ w.1 = none ∧ w.2.slice 4095 = x) := by
  refine ⟨?_, ?_, ?_, ?_, ?_, ?_⟩ <;> decide +kernel

/-- Root port 4 as told. -/
def port (p : RootPort) (s : State := unified) : State := withHub (fun h => { h with rootPorts := [(4, p)] }) s

def portReq : PortReq := { hart := h0, pa := 0x10000, size := 4, write := false }

theorem witness_HartRequestsAtPortsEndOnce :
    (let p : RootPort := { link := .up, requests := [portReq] }
     (port p).clocked = true ∧ (port p).rootPort 4 = p ∧ ([1, 2, 3, 4] : Bytes).length = portReq.size ∧ p.devCtl2.getLsbD 4 = false) ∧
    (let p : RootPort := { link := .up, requests := [portReq], devCtl2 := 0x10 }
     (port p).rootPort 4 = p ∧ p.devCtl2.getLsbD 4 = true) ∧
    (let p : RootPort := { link := .up }
     (port p).rootPort 4 = p ∧ p.requests = [] ∧ (port p).isPort 4 = true ∧ (port p).mgmt.log.queue.length < 1024) ∧
    (let p : RootPort := { link := .down, outByte := 4 }
     (port p).isPort 4 = true ∧ p.outByte.getLsbD 2 = true ∧ (port p).isPort 5 = false) := by
  decide +kernel

/-- The package with port 4 in a slot at chain position 31. -/
def slotted (p : RootPort) : State :=
  let s := port p
  s.setCfg 0x0904 (BitVec.ofNat 64 (2 ^ 33 + 31 * 2 ^ 34))

theorem witness_SlotsFollowTheirRegisterAndTheChain :
    (let s := slotted { link := .down, insStep := 5 }
     s.clocked = true ∧ s.isPort 4 = true ∧ s.slotEn 4 = true ∧ (0x400 : BitVec 16).getLsbD 10 = true ∧
       (0 : BitVec 16).getLsbD 10 = false ∧ (s.rootPort 4).outByte.getLsbD 0 = false ∧ (s.rootPort 4).insStep = 5) ∧
    (unified.slotEn 4 = false ∧ (unified.rootPort 4).insStep ≠ 5 ∧ (unified.rootPort 4).insStep ≠ 6) ∧
    ((slotted { insStep := 6 }).clocked = true ∧ ((slotted { insStep := 6 }).rootPort 4).insStep = 6) ∧
    (let s : State := { slotted { link := .down } with mgmt := { unified.mgmt with
        mode := { unified.mgmt.mode with start := { running := false } }, config := (slotted {}).mgmt.config } }
     let b : Bytes := List.replicate 31 0 ++ [0x10, 0x5A]
     s.clocked = true ∧ s.mode ≠ .recovery ∧ s.mgmt.mode.start.running = false ∧ s.hub.chain.faulted = false ∧
       b.getD 32 0 = 0x5A ∧ (List.replicate 33 0 : Bytes).getD 32 0 ≠ 0x5A ∧ s.isPort 4 = true ∧ s.slotEn 4 = true ∧
       s.chainPos 4 = 31) := by
  refine ⟨?_, ?_, ?_, ?_⟩ <;> decide +kernel

/-- Line 0x4_0000_0000 of CXL memory, behind port 4. -/
def cxlReq : MemReq := { client := .noSnoop 9, line := 0x400000000, write := false, data := [], hue := 0, cls := 0 }

def cxlPort (p : RootPort) : State :=
  let s := port p
  let s := s.setCfg 0x0904 2
  let s := s.setCfg 0x0A00 (BitVec.ofNat 64 (2 ^ 31 + 2 ^ (32 + 4)))
  let s := s.setCfg 0x0B00 (BitVec.ofNat 64 (1 + 2 ^ 16 * (2 ^ 40 / 2 ^ 28)))
  { s with mem := { s.mem with reqs := [cxlReq], noSnoop := [{ op := .rdNS, line := cxlReq.line, src := 12, dst := 34, req := 12, txid := 9 }] } }

/-- A snoop of port 4, and another, for the line. -/
def snoop (ports : List (Fin 32)) : SnoopWait :=
  { line := aLine, msg := some { op := .inv, line := aLine, src := 34, dst := 12, req := 0, txid := 5 }, ports := ports, takes := true }

theorem witness_CxlMemoryAndCachesAreServed :
    (let s := cxlPort { link := .up, cxl := true, memTimeouts := [] }
     s.clocked = true ∧ s.cxlWaits cxlReq = some 4 ∧ (s.rootPort 4).link = .up ∧ s.mem.noSnoop.map (·.line) = [cxlReq.line] ∧
       (s.home (lineSlice cxlReq.line)).heldBack = [] ∧ (s.home (lineSlice cxlReq.line)).wbHeldBack = [] ∧
       s.isPort 4 = true ∧ s.portMode 4 = 2 ∧ (s.rootPort 4).cxl = true ∧ s.hub.cacheReqs = [] ∧ s.hub.snoops = [] ∧
       s.filterAt aLine = none ∧ s.hub.filter.length < filterSize ∧ (s.rootPort 4).memTimeouts = []) ∧
    ((cxlPort { link := .down }).cxlWaits cxlReq = some 4 ∧ ((cxlPort { link := .down }).rootPort 4).link ≠ .up) ∧
    (let s := cxlPort { link := .up, cxl := true, memTimeouts := [0, 0] }
     s.cxlWaits cxlReq = some 4 ∧ (s.rootPort 4).memTimeouts = [0, 0] ∧ s.now.toNat < (0 : Word).toNat + 100000000) ∧
    (let s := withHub (fun h => { h with filter := [(aLine, some { holders := portBit 4, owned := true })] })
        (cxlPort { link := .up, cxl := true })
     s.filterAt aLine = some { holders := portBit 4, owned := true } ∧ s.hub.cacheReqs = [] ∧ s.hub.snoops = []) ∧
    (let s := withHub fun h => { h with snoops := [snoop [4, 31]] }
     s.clocked = true ∧ s.hub.snoops = [snoop [4, 31]] ∧ (4 : Fin 32) ∉ [(31 : Fin 32)]) ∧
    (let s := withHub fun h => { h with snoops := [snoop [4]] }
     s.hub.snoops = [snoop [4]] ∧ (snoop [4]).dirty = none ∧ s.hub.cacheReqs = [] ∧ (∀ k < 32, (s.home k).recov = [])) ∧
    (unified.hub.snoops = [] ∧ unified.mgmt.log.queue.length < 1024) ∧
    (let x : Recovery := { set := 64, started := true, acks := [], cxlWait := true }
     let s := withHub (fun h => { h with filter := [(aLine, some { holders := portBit 4, owned := true })] })
        (unified.setHome 2 { recov := [x] })
     s.clocked = true ∧ x ∈ (s.home 2).recov ∧ x.cxlWait = true ∧ (portBit 4).getLsbD 4 = true ∧
       s.filterAt aLine = some { holders := portBit 4, owned := true }) := by
  refine ⟨?_, ?_, ?_, ?_, ?_, ?_, ?_, ?_⟩ <;> decide +kernel

end Sys2Proof.Tests
end

