-- ==== Sys2Proof/Tests/WitnessHarts.lean ====
section
/-! SUPPORT. For each statement about harts and caches, states and operands that meet its hypotheses together, one for
each clause. Where a hypothesis names what a check or a lookup answers, the witness gives that answer. -/

namespace Sys2Proof.Tests

set_option Elab.async false

open Sys2Proof.Machine

def partsOf (l : List (Nat × Nat)) : List Part := l.map fun q => { va := BitVec.ofNat 64 q.1, size := q.2, pa := q.1, at_ := .mem }

/-- The instruction as dispatched, with the parts that its checks gave. -/
def held (s : State) (op : HartOp) (l : List (Nat × Nat)) : Waiting := { (s.starts h0 op).1 with parts := partsOf l }

/-- Its checks. -/
def checked (s : State) (op : HartOp) (n : Need) (u : Use) (read : Bool) (l : List (Nat × Nat)) : Checked × State :=
  (s.starts h0 op).2.checkParts h0 (s.starts h0 op).1 n u false read (l.map fun q => (BitVec.ofNat 64 q.1, q.2))

/-- The instruction is tried at once, passes its checks with these parts, and nothing holds it back. -/
def passes (s : State) (op : HartOp) (n : Need) (u : Use) (read : Bool) (l : List (Nat × Nat)) : Bool :=
  let r := checked s op n u read l
  s.accesses h0 (·.stamp) && s.ready h0 op && decide (r.1 = .ok (partsOf l)) &&
    !heldBack (r.2.hart 0).waiting (held s op l).lines

/-- The parts read as these bytes, without poison. -/
def readsAs (r : Except (Option Waiting) (Bytes × Bool)) (b : Bytes) : Bool := match r with
  | .ok (c, p) => c = b && !p
  | .error _ => false

/-- One line is owned, without poison. -/
def ownsOne : Option (List Bytes × Bool) → Bool
  | some ([_], false) => true
  | _ => false

def isHere : LineAns → Bool
  | .here _ _ => true
  | _ => false

def isFiled : LineAns → Bool
  | .filed => true
  | _ => false

def isFault : Checked → Bool
  | .fault _ => true
  | _ => false

/-- A hart with a speculative store of 8 bytes to the line. -/
def withStore : State := holding .e (unified 0 { run := .running, specStores := [{ va := 0x80000000, size := 8, value := 7 }] })

def loadOp (va size : Nat) : HartOp := .load (acc va size) 5 false .scalar
def lrOp : HartOp := .lr (acc 0x80000038 8) 6
def storeOp : HartOp := .store (acc 0x80000000 8) 7 .scalar
def amoOp : HartOp := .amo (acc 0x80000030 16) .cas 1 2 4
def scOp : HartOp := .sc (acc 0x80000008 8) 9 6
def zeroOp : HartOp := .zero (acc 0x80000020 64)

theorem witness_LoadReadsTheBytesOfItsLine :
    (let s := holding .s
     let l := [(0x8000003C, 4)]
     let r := checked s (loadOp 0x8000003C 4) .load .load true l
     parts 0x8000003C 4 = l.map (fun q => (BitVec.ofNat 64 q.1, q.2)) ∧
       passes s (loadOp 0x8000003C 4) .load .load true l = true ∧ (r.2.hart 0).forward 0x8000003C 4 = none ∧
       readsAs (r.2.readParts h0 (held s (loadOp 0x8000003C 4) l) .data false (partsOf l)).1 [60, 61, 62, 63] = true) ∧
    (let s := withStore
     let l := [(0x80000004, 4)]
     let r := checked s (loadOp 0x80000004 4) .load .load true l
     passes s (loadOp 0x80000004 4) .load .load true l = true ∧ (r.2.hart 0).forward 0x80000004 4 = some [0, 0, 0, 0]) ∧
    (let s := holding .m
     let l := [(0x80000038, 8)]
     let r := checked s lrOp .load .lr true l
     aligned 0x80000038 8 = true ∧ passes s lrOp .load .lr true l = true ∧
       ownsOne (r.2.ownParts h0 (held s lrOp l) .rdO (partsOf l)).1 = true) := by
  refine ⟨?_, ?_, ?_⟩ <;> decide +kernel

theorem witness_StoreWritesItsBytesIntoAnOwnedLine :
    ((acc 0x80000000 8 true).spec = true ∧ (holding .e).accesses h0 (·.stamp) = true ∧
      (holding .e).ready h0 (.store (acc 0x80000000 8 true) 7 .scalar) = true) ∧
    (let s := withStore
     let l := [(0x80000000, 8)]
     let r := checked s storeOp .store .store false l
     passes s storeOp .store .store false l = true ∧ (r.2.ownParts h0 (held s storeOp l) .rdO (partsOf l)).1.isSome = true) ∧
    (let s := holding .e
     let l := [(0x80000030, 16)]
     let r := checked s amoOp .store .atomic false l
     aligned 0x80000030 16 = true ∧ passes s amoOp .store .atomic false l = true ∧
       ownsOne (r.2.ownParts h0 (held s amoOp l) .rdO (partsOf l)).1 = true) ∧
    (let s := holding .e (unified 0 { run := .running, resv := some { line := aLine } })
     let l := [(0x80000008, 8)]
     let r := checked s scOp .store .atomic false l
     aligned 0x80000008 8 = true ∧ passes s scOp .store .atomic false l = true ∧ (r.2.hart 0).resv.map (·.line) = some aLine ∧
       (r.2.ownParts h0 (held s scOp l) .rdO (partsOf l)).1.isSome = true) ∧
    (let s := holding .e
     let l := [(0x80000008, 8)]
     passes s scOp .store .atomic false l = true ∧ ((checked s scOp .store .atomic false l).2.hart 0).resv = none) ∧
    (let s := holding .m
     let l := [(0x80000000, 64)]
     let r := checked s zeroOp .store .zero false l
     ((s.starts h0 zeroOp).2.hart 0).may zeroOp = .yes ∧ passes s zeroOp .store .zero false l = true ∧
       (r.2.ownParts h0 (held s zeroOp l) .claimZ (partsOf l)).1.isSome = true) := by
  refine ⟨?_, ?_, ?_, ?_, ?_, ?_⟩ <;> decide +kernel

/-- A hart may execute the instruction, and tries it at once. -/
def may (s : State) (op : HartOp) : Bool := s.ready h0 op && decide (((s.starts h0 op).2.hart 0).may op = .yes)

def noArgs : FenceArgs := ⟨none, none⟩

theorem witness_FencesDrainAndInvalidate :
    ((unified).executes h0 = true ∧ (unified).drained h0 = true ∧
      ∀ op ∈ [HartOp.fence, .wInval, .fenceI, .sfence noArgs, .hfenceV noArgs, .hfenceG noArgs, .invalIr,
        .sinval .sinvalVma noArgs, .sinval .hinvalVvma noArgs, .sinval .hinvalGvma noArgs], may unified op = true) ∧
    (let s := unified 0 { run := .running, waiting := [{ op := storeOp, stamp := {}, parts := partsOf [(0x80000000, 8)] }] }
     s.executes h0 = true ∧ s.drained h0 = false ∧ s.ready h0 .fence = true) := by
  decide +kernel

def hintOp (k : Hint) (va : Nat) : HartOp := .hint k (acc va 64)

def hintCheck (s : State) (k : Hint) (n : Need) (va : Nat) : Checked × State :=
  (s.starts h0 (hintOp k va)).2.check h0 (s.starts h0 (hintOp k va)).1 n .hint false true false true [(BitVec.ofNat 64 va, 1)]

def hintAsk (s : State) (k : Hint) (va : Nat) (p : Part) : Ask :=
  { (s.starts h0 (hintOp k va)).1 with parts := [p] }.ask p.va (lineOf p.pa) false

theorem witness_HintsAndFetchesFillTheCaches :
    (let s := holding .e
     let va := 0x80000010
     let p : Part := { va := 0x80000010, size := 1, pa := 0x80000010, at_ := .mem }
     s.accesses h0 (·.stamp) = true ∧ ∀ q ∈ [(Hint.r, Need.load), (.w, .store), (.i, .fetch)],
       s.ready h0 (hintOp q.1 va) = true ∧ (hintCheck s q.1 q.2 va).1 = .ok [p] ∧
         isHere (hintLine (hintCheck s q.1 q.2 va).2 h0 q.1 p (hintAsk s q.1 va p)).1 = true) ∧
    (let s := unified
     let va := 0x80000010
     let p : Part := { va := 0x80000010, size := 1, pa := 0x80000010, at_ := .mem }
     (hintCheck s .r .load va).1 = .ok [p] ∧
       isFiled (hintLine (hintCheck s .r .load va).2 h0 .r p (hintAsk s .r va p)).1 = true) ∧
    (isFault (hintCheck unified .r .load 0x2000000000).1 = true) ∧
    (let s := holding .s
     let s0 := s.setHart 0 { s.hart 0 with pc := 0x80000010, fetchStall := none, unfetched := false }
     let op : HartOp := .fetch 0x80000010 false
     let p : Part := { va := 0x80000010, size := 1, pa := 0x80000010, at_ := .mem }
     let r := (s0.startsAt h0 op 0x80000010).2.check h0 (s0.startsAt h0 op 0x80000010).1 .fetch .fetch false false true true
       [(0x80000010, 1)]
     s.accesses h0 HartState.fetchStamp = true ∧ s0.ready h0 op = true ∧ r.1 = .ok [p] ∧
       readsAs (r.2.readParts h0 { (s0.startsAt h0 op 0x80000010).1 with parts := [p] } .fetch false [p]).1 [16] = true) ∧
    (let s := unified 0 { run := .running, cqzbpctl := 1 }
     s.accesses h0 HartState.fetchStamp = true ∧ s.predictOff h0 = true) := by
  refine ⟨?_, ?_, ?_, ?_, ?_⟩ <;> decide +kernel

def cboOp (k : Cbo) : HartOp := .cbo k (acc 0x80000020 64)

theorem witness_CacheBlockOperationsAskTheHome :
    ∀ k ∈ [Cbo.clean, .flush, .inval],
      let s := holding .m
      let l := [(0x80000000, 64)]
      let act := if k = .inval then ((s.starts h0 (cboOp k)).2.hart 0).inval.2 else k
      let r := checked s (cboOp k) .cbo (.cbo act) false l
      let local_ := (r.2.cboLocal 0 aLine act).1
      may s (cboOp k) = true ∧ passes s (cboOp k) .cbo (.cbo act) false l = true ∧
        r.2.reserved 0 (List.finRange 22) aLine (some h0) = [] ∧ (r.2.die 0).findMiss aLine = none ∧
        (r.2.die 0).findWb aLine = none ∧ ((r.2.die 0).miss.filter (·.shared)).length < 1184 ∧ (r.2.die 0).wbFull = false ∧
        (local_.die 0).findMiss aLine = none ∧ (local_.die 0).findWb aLine = none ∧
        ((local_.die 0).miss.filter (·.shared)).length < 1184 ∧ local_.dieFenced 0 = false := by
  decide +kernel

theorem witness_WaitsAndBranchesMoveTheHart :
    (unified).executes h0 = true ∧ (unified).writes h0 = true ∧ (unified).drained h0 = true ∧
      (∀ op ∈ [HartOp.wfi, .csr 0x6C0 0x11FFF, .csr 0x5C0 1, .bpFlush true, .bpFlush false], may unified op = true) ∧
      (unified.hart 0).front = [] ∧ (unified.hart 0).waiting = [] ∧ (unified).sharers h0 * 1 ≤ 320 ∧
      (let x : HartState := { run := .running, priv := .s, cqzmctl := 3 }
       (unified 0 x).writes h0 = true ∧ may (unified 0 x) (.csr 0x6C0 0x11FFF) = true ∧
         ({ x with cqzhue := 0x11FFF &&& 0x10FFF } : HartState).hue ≠ x.hue) := by
  decide +kernel

/-- A core with a clearing that a write of the hart waits for. -/
def clearing : State :=
  (unified 0 { run := .running, waiting := [{ op := .bpFlush true, stamp := {}, issued := true }] }).setCore 0
    { unified.core 0 with clearing := some [0] }

theorem witness_CoreFlushesAndClearingsFinish :
    (let s := unified.setCore 0 { unified.core 0 with clearing := some [0] }
     s.clocked = true ∧ (s.core (coreKey ⟨0, 0⟩)).clearing = some [0] ∧ ∀ h ∈ hartsOf ⟨0, 0⟩, quietB (s.hart (hartIx h)) = true) ∧
    (clearing.clocked = true ∧ (clearing.core 0).clearing = some [0] ∧ (clearing.core 0).clearAgain = [] ∧
      (clearing.hart 0).front = [] ∧ (clearing.hart 0).ctl = none ∧ (clearing.hart 0).walk = none) ∧
    (∀ k ∈ [FlushKind.l1i, .l1d, .l2],
      let s := unified.setCore 0 { unified.core 0 with flushing := some k, flushLines := [aLine], resetAfter := [1] }
      s.clocked = true ∧ (s.core (coreKey ⟨0, 0⟩)).flushing = some k) := by
  decide +kernel

theorem witness_RegisterWritesTakeEffectAtOnce :
    (unified).writes h0 = true ∧ (unified).executes h0 = true ∧ (unified.hart 0).virt = false ∧
      (∀ n ∈ [0x800, 0x7C0, 0x340], may unified (.csr n 5) = true) ∧ (unified).scopeMode ≠ .partitioned ∧ 0xFFFF8 < 0x100000 := by
  decide +kernel

/-- A single-stage walk at level 0 whose table is the line held. -/
def aWalk : Walk :=
  { va := 0x1000, need := .load, spec := false, hint := false, stamp := { priv := .s }, asid := 0, vmid := none, mode := 8,
    gmode := 0, groot := 0, level := 0, table := 0x80000000, tablePa := some 0x80000000, s1 := none, g := none }

/-- S-mode, all memory granted by one PMP entry. -/
def walker : HartState :=
  { run := .running, priv := .s, walk := some aWalk, csr := [(0x3A0, 0x1F), (0x3B0, BitVec.allOnes 54 |>.setWidth 64)] }

/-- The line held, its entry 1 a leaf that maps page 0x80000 with R, W, A and D. -/
def leafLine : State :=
  ((unified 0 walker).installL3 0 aLine .e
    ((List.replicate 8 0 : Bytes) ++ leBytes 8 (0x80000 <<< 10 ||| 0xC7) ++ (List.replicate 48 0 : Bytes)) false false 0).2

/-- What the walk's read asks. -/
def walkAsk : Ask := { va := 0, hue := aWalk.stamp.hue, counted := false, served := false, spec := false }

theorem witness_WalksFillsAndTimersAdvance :
    (let s := leafLine
     let r := (s.countWalkMiss h0 (lineOf 0x80000008) aWalk.stamp).readLine h0 aLine .walk walkAsk
     s.clocked = true ∧ (s.hart 0).walk = some aWalk ∧ aWalk.nextPa = some 0x80000008 ∧ quietB (s.hart 0) = true ∧
       (s.region (s.partOfDie 0) 0x80000008).isMemory = true ∧ (s.hart 0).pmpOk .s 0x80000008 8 .load = true ∧
       (match r.1 with
        | .here data false =>
          (match readPte (BitVec.ofNat 64 (leAt data 8 8)) 0 false ((r.2.hart 0).keyOn false) ((r.2.hart 0).shadowOn false)
             ((r.2.hart 0).pbmtOn false false) with
           | .leaf size ppn attr true _ =>
             size = 12 && ppn = 0x80000 && (r.2.hart 0).denies1 attr aWalk.need aWalk.stamp aWalk.hint aWalk.va = none
           | _ => false)
        | _ => false) = true) ∧
    (isFiled (((unified 0 walker).countWalkMiss h0 (lineOf 0x80000008) aWalk.stamp).readLine h0 aLine .walk walkAsk).1 = true) ∧
    ((unified).clocked = true ∧ ∀ h ∈ hartsOf ⟨0, 0⟩, quietB (unified.hart (hartIx h)) = true) ∧
    (let m : Msg := { op := .data, line := aLine, src := 32, dst := 0, req := 0, data := zeroLine, flag := 1 }
     let n : L3Miss := { line := aLine, op := .rdS, hue := 0, txid := 0, core := 0, shared := true, filled := some m, tmo := 0 }
     let s := unified.setDie 0 { unified.die 0 with miss := [n] }
     let r := s.installL3 0 aLine (grantState m.flag) m.data false n.hint n.hue n.spec
     s.clocked = true ∧ dieQuietB s 0 = true ∧ (s.die 0).findMiss n.line = some n ∧ r.1 = true ∧ dieQuietB r.2 0 = true) ∧
    ((unified 0 { run := .running, csr := [(0x30A, 1 <<< 63)] }).clocked = true ∧ bit ((1 : Word) <<< 63) 63 = true) ∧
    ((unified 0 { run := .wfi }).clocked = true ∧ RunState.wfi ≠ .held ∧ RunState.wfi ≠ .debug) ∧
    (let s := unified 0 { run := .running, resv := some { line := aLine, delaying := true } }
     s.clocked = true ∧ (s.hart 0).resv = some { line := aLine, delaying := true } ∧ dieIdleB s 0 = true) := by
  refine ⟨?_, ?_, ?_, ?_, ?_, ?_, ?_⟩ <;> decide +kernel

theorem witness_DeadHueAccessesStop :
    (let x : HartState := { run := .running, priv := .s, cqzhue := 0x10FFF }
     (unified 0 x).executes h0 = true ∧ (unified 0 x).hueLife (x.ahead.stamp).hue = .free) ∧
    ((unified).executes h0 = true ∧ (unified).hueLife ((unified.hart 0).ahead.stamp).hue = .active) := by
  decide +kernel

theorem witness_HartCommandsLeaveTheRestAlone :
    quietB (unified.hart 0) = true ∧ (unified.hart (hartIx (siblingOf h0))).front = [] ∧
    ∀ c ∈ quietRows h0 ⟨none, none⟩ .sinvalVma 0 0 0 true .cond false, ∃ t, exec c unified = .next t := by
  have ok : ∀ o : Host.Outcome State Fault Refusal, (match o with | .next _ => true | _ => false) = true → ∃ t, o = .next t := by
    intro o h; cases o <;> simp_all
  refine ⟨by decide +kernel, by decide +kernel, ?_⟩
  intro c hc
  apply ok
  revert c
  decide +kernel

end Sys2Proof.Tests
end

