-- ==== Sys2Proof/Tests/WitnessLinks.lean ====
section
/-! SUPPORT. For each statement about rings and links, states and packets that meet its hypotheses together, one for each
clause. -/

namespace Sys2Proof.Tests

set_option Elab.async false

open Sys2Proof.Machine

/-- A RdS of die 0's stop on hub ring 2 for the home at `dst`. -/
def header (op dst vc pass_ : Nat) (req : Nat := 0) : Header :=
  { opcode := op, flag := 0, vc := vc, data := false, poison := false, cls := 0, hue := 0, addr := aLine, txid := 5, req := req,
    src := 128, dst := dst, io := false, pass_ := pass_, atomop := 0, size := 0, reserved := 0 }

/-- A slot with this header, and the check bits of a good hop. -/
def slot (h : Header) : Slot :=
  let p : Slot := { header := headerBits h, mask := 0, data := zeroLine, ctlCheck := 0, dataCheck := ringCrc 512 0 }
  { p with ctlCheck := ringCrc 192 (ctlBits p) }

/-- Stop 5 of hub ring 2, the bundle of die 5, with its ingress queue full. -/
def fullStop : State :=
  { unified with fab := { unified.fab with
      stops := [(stopKey (.hub 2) 5, { ingress := List.replicate Config.ingressDepth (0, slot (header 1 133 0 0)) })] } }

theorem fullStop_full :
    passesOn (agentAt (.hub 2) 5) = true ∧
      Config.ingressDepth ≤ (((fullStop.stop (stopKey (.hub 2) 5)).ingress).filter fun e => e.1 = (0 : BitVec 2)).length := by
  have h1 : (fullStop.stop (stopKey (.hub 2) 5)).ingress = List.replicate Config.ingressDepth (0, slot (header 1 133 0 0)) := rfl
  refine ⟨rfl, ?_⟩
  rw [h1, List.filter_replicate, if_pos (by decide), List.length_replicate]

/-- An empty stop has room, whatever the depth of its queue. -/
theorem emptyStop_room : (0 : Nat) < Config.ingressDepth - 0 := Nat.succ_pos _

/-- A request of die 0 on hub ring 2, in its slot. -/
def onTheRing : State :=
  let m : Msg := { op := .rdS, line := aLine, src := 0, dst := 50, req := 0, txid := 5 }
  { unified with fab := { unified.fab with
      net := [m], onRing := [{ ring := .hub 2, clockwise := true, slot := (unified.slotFor (.hub 2) (.coh m)).getD (slot (header 1 146 0 0)) }] } }

set_option maxRecDepth 100000 in
theorem witness_RingPacketsEjectPassOrAreEmptied :
    (unified.clocked = true ∧ unified.mgmt.log.queue.length < 1024 ∧ unified.fab.onRing = [] ∧
      (let p := { slot (header 1 142 0 0) with ctlCheck := 0 }
       laneCheck (.hub 2) 192 (ctlBits p) p.ctlCheck = .bad)) ∧
    (∀ e ∈ onTheRing.fab.onRing,
      let p := { e.slot with header := e.slot.header ^^^ 3 }
      laneCheck (.hub 2) 192 (ctlBits p) p.ctlCheck = .bad ∧ couldBe (.hub 2) p e.slot = true ∧ e.foreign = false ∧
        onTheRing.packetOf (.hub 2) e.slot = onTheRing.fab.net.head?.map Packet.coh) ∧
    (∀ q ∈ [(header 1 142 0 7, true, true), (header 1 143 0 0, true, false), (header 0x33 142 3 0 18, false, true)],
      let p := slot q.1
      laneCheck (.hub 2) 192 (ctlBits p) p.ctlCheck = .good ∧ laneCheck (.hub 2) 512 (leNat p.data) p.dataCheck = .good ∧
        (headerOf p.header).ok (.hub 2) = q.2.1 ∧ ((ringTarget (.hub 2) (headerOf p.header).dst = 14) ↔ q.2.2 = true)) ∧
    (let p := slot (header (opCode .compAck) 142 3 0)
     (headerOf p.header).ok (.hub 2) = true ∧ (headerOf p.header).vc = 3 ∧ (headerOf p.header).poison = false ∧
       (headerOf p.header).io = false ∧ isBridge (agentAt (.hub 2) 14) = false ∧
       (slotMsg (recheck (.hub 2) p)).isSome = true ∧ unified.fab.net = []) ∧
    (let p := slot (header 1 142 0 0)
     (headerOf p.header).ok (.hub 2) = true ∧ (headerOf p.header).vc = 0 ∧ (headerOf p.header).poison = false ∧
       (slotMsg (recheck (.hub 2) p)).isSome = true ∧ (unified.stop (stopKey (.hub 2) 14)).ingress = [] ∧
       (unified.stop (stopKey (.hub 2) 14)).reserve = []) ∧
    (let p := slot (header 1 133 0 7)
     fullStop.clocked = true ∧ fullStop.mgmt.log.queue.length < 1024 ∧ (headerOf p.header).ok (.hub 2) = true ∧
       laneCheck (.hub 2) 192 (ctlBits p) p.ctlCheck = .good ∧ laneCheck (.hub 2) 512 (leNat p.data) p.dataCheck = .good ∧
       ringTarget (.hub 2) (headerOf p.header).dst = 5 ∧ (headerOf p.header).vc = 0 ∧ 2 ≤ (headerOf p.header).pass_) := by
  refine ⟨?_, ?_, ?_, ?_, ?_, ?_⟩ <;> decide +kernel

/-- A port that awaits an ACK of its IDENT frame 9, after three repeats. -/
def waitingPort (queue : List (Byte × Bytes)) : State :=
  unified.setPort 3 { unified.port 3 with sbHub := { unacked := some ⟨1, [1, 0, 0, 4], 9, 3⟩, queue := queue, nextSeq := 10 } }

theorem witness_SidebandFramesMoveThePort :
    (unified.clocked = true ∧ takes unified 3 0x01 (frame 0x01 [1, 0, 2, 4]) = true ∧ (4 : Nat).testBit 2 = true ∧
      takes unified 3 0x01 (frame 0x01 [1, 0, 2, 3]) = true ∧ (3 : Nat).testBit 2 = false ∧ (unified.port 3).step ≠ 3) ∧
    (let s := unified.setPort 3 { unified.port 3 with step := 3, version := 2 }
     takes s 3 0x01 (frame 0x01 [1, 0, 2, 3]) = true ∧ (s.port 3).step = 3) ∧
    (let f : SbFrame := { frame 0x1D [] with typ := some 0x1D }
     sbListed 0x1D = false ∧ (unified.port 3).sbLost = false ∧ unified.mgmt.log.queue.length < 1024 ∧
       crcSb ([0x1D, BitVec.ofNat 8 f.payload.length, f.seq, 0] ++ f.payload) = f.crc) ∧
    (let b : BundleState := { st := .training, step := 7, announced := (8, 0) }
     let s := bundleIs 3 2 b
     let f := frame 0x02 ((List.range 24).map fun i => if i = 8 then 8 else 0)
     s.clocked = true ∧ takes s 3 0x02 f = true ∧ f.payload.length = 24 ∧ s.bundle 3 2 = b ∧
       (∀ j : Fin 4, j ≠ 2 → (s.bundle 3 j.val).step ≠ 7) ∧ f.payload.getD (4 * 2) 0 = 8 ∧ b.announced.1 ≠ 0 ∧ b.announceLimit ≠ 0) ∧
    (let s := bundleIs 3 3 { st := .training, hub := { handoverOwed := true }, die := { handoverOwed := true } }
     takes s 3 0x03 (frame 0x03 [3, 255]) = true ∧ ((s.bundle 3 3).me true).handoverOwed = true ∧
       ((s.bundle 3 3).me false).handoverOwed = true) ∧
    (let s := bundleIs 3 1 { st := .active, width := 8 }
     takes s 3 0x04 (frame 0x04 [1]) = true ∧ (s.bundle 3 1).st = .active) ∧
    (takes (waitingPort [(0x10, [])]) 3 0xFF (frame 0xFF [] 9) = true ∧
      ((waitingPort [(0x10, [])]).port 3).sbHub.unacked.map (·.seq) = some 9 ∧ ((waitingPort []).port 3).sbHub.queue = [] ∧
      ((waitingPort []).port 3).sbLost = false) ∧
    (let f : SbFrame := { frame 0x01 [1, 0, 2, 4] with crc := 0 }
     crcSb ([f.typ.getD 0x01, BitVec.ofNat 8 f.payload.length, f.seq, 0] ++ f.payload) ≠ f.crc) := by
  refine ⟨?_, ?_, ?_, ?_, ?_, ?_, ?_, ?_⟩ <;> decide +kernel

/-- An active bundle at ×8 on all nine lanes. -/
def activeBundle : BundleState := { st := .active, width := 8, lanesD2H := 0x0FF, lanesH2D := 0x1FE }

/-- The same with one flit of the hub's unacknowledged. -/
def owing : BundleState :=
  { activeBundle with hub := { txSeq := 1, replay := [({ seq := 0, ack := 255, crvc := 0, crtotal := 0, first := 15, payload := [], crc := 0 }, 0)] } }

def linked (b : BundleState) : State :=
  let s := unified.setPort 3 { unified.port 3 with version := 2 }
  bundleIs 3 0 b s

/-- A flit of a TYPE with a good CRC. -/
def flit (typ : Nat) (f : Flit) : Flit := { f with crc := flitCrc typ f }

/-- The MAINT payload that agrees with the bundle at the hub's end. -/
def maintPayload (b : BundleState) : Bytes :=
  [8] ++ leBytes 2 b.lanesH2D.toNat ++ [8] ++ leBytes 2 b.lanesD2H.toNat ++ [2, 0] ++ (prbsBytes 112 (BitVec.allOnes 23)).1

set_option maxRecDepth 100000 in
theorem witness_FlitsCarrySequenceCreditAndReplay :
    (unified.clocked = true ∧ unified.linkUp (.weld 3 0 true) = false ∧ (linked activeBundle).linkUp (.weld 3 0 true) = true ∧
      (linked activeBundle).clocked = true) ∧
    (let e : LinkEnd := .weld 3 0 true
     let s := linked activeBundle
     let f := flit 0 { seq := 0, ack := 255, crvc := 3, crtotal := 0, first := 15, payload := List.replicate 120 0, crc := 0 }
     let b := s.bundle 3 0
     let x := b.me true
     let y := b.me false
     s.linkUp e = true ∧ x.buffer = [] ∧ flitCrc 0 f = f.crc ∧ f.seq = x.rxSeq + 1 ∧ f.crtotal = vcGet x.returned f.crvc.toNat ∧
       y.wire = [] ∧ y.replay.length < 64 ∧ y.resend = 0 ∧ flitPackets (unitsIn (padTo 120 x.part) |>.take (x.part.length / 8)) f = some ([], []) ∧
       flitCrc 0 { f with crc := f.crc + 1 } ≠ f.crc + 1 ∧ ({ f with seq := 1 }.seq ≠ x.rxSeq + 1 ∧ x.discarding = false)) ∧
    (let b : BundleState := { activeBundle with die := { owing.hub with resend := 1 } }
     let y := ((linked b).bundle 3 0).me false
     y.wire = [] ∧ 0 < y.resend ∧ (∀ r ∈ y.resent.replay, r.2 < fld ((linked b).weldCfg 3 false) 24 8) ∧
       b.hub.windowReplays + b.die.windowReplays + 1 < fld ((linked b).weldCfg 3 false) 16 8) ∧
    (let g : Flit := flit 0 { seq := 0, ack := 255, crvc := 3, crtotal := 0, first := 15, payload := List.replicate 120 0, crc := 0 }
     let b : BundleState := { activeBundle with die := { txSeq := 1, replay := [(g, 0)], wire := [g] } }
     let y := ((linked b).bundle 3 0).me false
     y.wire = [g] ∧ (∀ r ∈ y.replay, r.1.seq = g.seq → r.2 = 0)) ∧
    (let f := flit 1 { seq := 0, ack := 0, crvc := 1, crtotal := 0, first := 0, payload := [], crc := 0 }
     let x := ((linked owing).bundle 3 0).me true
     flitCrc 1 f = f.crc ∧ x.covered f.ack = some 1 ∧ f.crtotal = vcGet x.returned f.crvc.toNat ∧ x.buffer = []) ∧
    (let e : LinkEnd := .weld 3 0 true
     let s := linked activeBundle
     let b := s.bundle 3 0
     let x := b.me true
     let f := flit 2 { seq := 0, ack := 255, crvc := 2, crtotal := 0, first := 0, payload := maintPayload b, crc := 0 }
     s.linkUp e = true ∧ flitCrc 2 f = f.crc ∧ f.crtotal = vcGet x.returned f.crvc.toNat ∧
       patternErrs (ones 9 (b.rxLanes true).toNat) (f.payload.drop 8) (prbsBytes 112 x.prbsRx).1 = [] ∧
       (∀ l ∈ ones 9 (b.rxLanes true).toNat, x.recentErrs s.now l < 16) ∧
       (f.payload.getD 6 0).toNat = (s.port 3).version ∧ 0 < fld (s.weldCfg 3 true) 12 4 ∧
       (f.payload.getD 3 0).toNat = b.width ∧ leAt f.payload 4 2 = (b.rxLanes true).toNat) ∧
    (let s := linked owing
     let b := s.bundle 3 0
     let x := b.me true
     let f := flit 3 { seq := 0, ack := 255, crvc := 0, crtotal := 0, first := 0, payload := [], crc := 0 }
     s.linkUp (.weld 3 0 true) = true ∧ flitCrc 3 f = f.crc ∧ f.crtotal = vcGet x.returned f.crvc.toNat ∧ x.covered f.ack = some 0 ∧
       x.covered (flit 3 { f with ack := 7 }).ack = none) := by
  refine ⟨?_, ?_, ?_, ?_, ?_, ?_, ?_⟩ <;> decide +kernel

theorem witness_TrainingRunsStepByStep :
    (unified.clocked = true ∧ unified.dieStatus 3 ≠ 3 ∧ (unified.bundle 3 0).st ≠ .retired ∧
      (unified.bundle 3 0).st ≠ .training) ∧
    (let s := unified.setPort 3 { unified.port 3 with step := 1, identHub := true, identDie := true, version := 2 }
     (s.port 3).step = 1 ∧ (s.port 3).identHub = true ∧ (s.port 3).identDie = true ∧ (s.port 3).version ≠ 0) ∧
    (let s := bundleIs 3 1 { st := .training, step := 2 } (unified.setPort 3 { unified.port 3 with step := 2 })
     (s.port 3).step = 2 ∧ (s.bundle 3 1).st = .training ∧ (s.bundle 3 1).step < 3) ∧
    (∀ k ∈ [3, 4, 5, 6, 7, 8],
      let b : BundleState := { st := .training, step := k, good := (BitVec.allOnes 9, BitVec.allOnes 9), announced := (8, 8), attempts := 2 }
      let s := bundleIs 3 1 b
      s.bundle 3 1 = b ∧ (∀ l < 9, b.hub.recentErrs s.now l < 16 ∧ b.die.recentErrs s.now l < 16) ∧ b.cap = .none ∧
        b.announceLimit = 8 ∧ b.agreedWidth ≠ 0 ∧ (s.port 3).identOther = false) ∧
    ((bundleIs 3 1 activeBundle).bundle 3 1).st = .active := by
  refine ⟨?_, ?_, ?_, ?_, ?_⟩ <;> decide +kernel

end Sys2Proof.Tests
end

