-- ==== Sys2Proof/Tests/WitnessManage.lean ====
section
/-! SUPPORT. For each statement about configuration, census, power and hart control, states and frames that meet its
hypotheses together, one for each clause. -/

namespace Sys2Proof.Tests

set_option Elab.async false

open Sys2Proof.Machine

def withConfig (f : ConfigState → ConfigState) (s : State := unified) : State :=
  { s with mgmt := { s.mgmt with config := f s.mgmt.config } }

/-- A commit of lot 2 that waits for these dies. -/
def commit (waiting : List (Fin 12)) (flip : Option Word := none) : Commit :=
  { issuer := .mailbox 0, tag := 1, lot := 2, entries := [(0x0200, 0x100B09)], classes := [], dies := [3, 4], waiting := waiting,
    flip := flip, sentAt := 0 }

/-- A die's shadow copy of lot 2. -/
def shadow (flip : Option Word := none) : Shadow :=
  { lot := 2, frames := 1, last := true, entries := [(0x0200, 0x100B09)], since := 0, flip := flip }

def shadowed (flip : Option Word := none) : State :=
  let s := unified
  withConfig (fun c => { c with dies := [(3, { s.dieCfg 3 with shadow := some (shadow flip) })] }) s

/-- Package 0 in a cascade of packages 0 and 1, with the given master and commit. -/
def inCascade (master : Fin 4) (c : Option Commit) : State :=
  withConfig (fun k => { k with commit := c }) { unified with mgmt := { unified.mgmt with
    mode := { unified.mgmt.mode with mode := .cascade }, casc := { unified.mgmt.casc with members := 0b0011, master := master } } }

theorem witness_ConfigurationFramesReachTheDies :
    (let f := frame 0x10 (leBytes 4 2 ++ leBytes 2 (2 ^ 15) ++ leBytes 2 0x0200 ++ leBytes 8 0x100B09)
     unified.clocked = true ∧ takes unified 3 0x10 f = true ∧ cfgLenOk f.payload.length = true ∧
       (unified.dieCfg 3).shadow = none ∧ leAt f.payload 4 2 = 2 ^ 15) ∧
    (∀ w ∈ [[(3 : Fin 12)], [3, 4]],
      let f := frame 0x11 (leBytes 4 2 ++ leBytes 2 1)
      let s := withConfig fun c => { c with commit := some (commit w) }
      s.clocked = true ∧ takes s 3 0x11 f = true ∧ f.payload.length = 6 ∧ s.mgmt.config.commit = some (commit w) ∧
        (commit w).flip = none ∧ (commit w).lot = BitVec.ofNat 32 (leAt f.payload 0 4) ∧ (3 : Fin 12) ∈ (commit w).dies) ∧
    (∀ at_ ∈ [0, 1000],
      let f := frame 0x12 (leBytes 4 2 ++ leBytes 4 0 ++ leBytes 8 at_)
      shadowed.clocked = true ∧ takes shadowed 3 0x12 f = true ∧ f.payload.length = 16 ∧
        (shadowed.dieCfg 3).shadow = some shadow ∧ shadow.lot = BitVec.ofNat 32 (leAt f.payload 0 4) ∧ shadow.last = true ∧
        leAt f.payload 8 8 = at_) ∧
    (takes shadowed 3 0x13 (frame 0x13 (leBytes 4 2)) = true ∧ (frame 0x13 (leBytes 4 2)).payload.length = 4) ∧
    (∀ e ∈ [(0x0200, 0x100B09), (0xFFFF, 5)],
      let f := frame 0x14 (leBytes 4 2 ++ leBytes 2 (2 ^ 15 + 1) ++ leBytes 2 e.1 ++ leBytes 8 e.2)
      takes unified 3 0x14 f = true ∧ cfgLenOk f.payload.length = true ∧ frameEntries f.payload = [(e.1, BitVec.ofNat 64 e.2)]) ∧
    (∀ w ∈ [[(3 : Fin 12)], [3, 4]], (commit w).members = [] ∧ (commit w).remote = false) ∧
    (let s := inCascade 1 none
     s.clocked = true ∧ s.fromMaster 1 = true ∧ s.mgmt.config.commit = none ∧ s.partakers ≠ []) ∧
    (let c : Commit := { commit [3] with members := [1] }
     (inCascade 0 c).mgmt.config.commit = some c ∧ c.flip = none ∧ c.lot = 2 ∧ c.members = [1] ∧ c.waiting ≠ []) ∧
    (let c : Commit := { commit [] with remote := true }
     let s := inCascade 1 c
     s.fromMaster 1 = true ∧ s.mgmt.config.commit = some c ∧ c.remote = true ∧ c.lot = 2 ∧ c.waiting = [] ∧ c.flip = none) := by
  refine ⟨?_, ?_, ?_, ?_, ?_, ?_, ?_, ?_, ?_⟩ <;> decide +kernel

theorem witness_CommitsReachTheLotBoundaryOrAreAbsent :
    (unified.clocked = true ∧ unified.mgmt.config.commit = none) ∧
    (let s := withConfig (fun c => { c with commit := some (commit [] (some 1000)) }) (shadowed (some 1000))
     s.clocked = true ∧ s.mgmt.config.commit = some (commit [] (some 1000)) ∧ s.mgmt.census.running = false ∧
       (s.dieCfg 3).shadow = some (shadow (some 1000))) ∧
    (let s := withConfig fun c => { c with commit := some (commit [4, 3]) }
     s.clocked = true ∧ s.mgmt.config.commit = some (commit [4, 3]) ∧ (3 : Fin 12) ∈ (commit [4, 3]).waiting ∧ (commit [4, 3]).remote = false) ∧
    (let c : Commit := { commit [] with members := [1] }
     (inCascade 0 c).mgmt.config.commit = some c ∧ (1 : Fin 4) ∈ c.members ∧ c.remote = false) ∧
    ((shadowed).clocked = true ∧ (shadowed.dieCfg 3).shadow = some shadow ∧ shadow.flip = none) := by
  decide +kernel

def withCensus (k : CensusState) : State := { unified with mgmt := { unified.mgmt with census := k } }

/-- A die's report of round 7, lot 1 and the expected shade. -/
theorem report_clause (k : CensusState) :
    let s := withCensus k
    let f := frame 0x16 (leBytes 4 7 ++ leBytes 4 1 ++ leBytes 8 (s.expectedShade 3).toNat ++ leBytes 2 4098)
    f.payload.length = 18 ∧ leAt f.payload 0 4 = 7 ∧ leAt f.payload 4 4 = 1 ∧
      BitVec.ofNat 64 (leAt f.payload 8 8) = s.expectedShade 3 := by
  intro s f
  refine ⟨by simp [f, frame], rfl, rfl, ?_⟩
  have h := leAt_append_leBytes (leBytes 4 7 ++ leBytes 4 1) (leBytes 2 4098) 8 (s.expectedShade 3).toNat (s.expectedShade 3).isLt
  have e : (leBytes 4 7 ++ leBytes 4 1).length = 8 := rfl
  rw [e] at h
  show BitVec.ofNat 64 (leAt (leBytes 4 7 ++ leBytes 4 1 ++ leBytes 8 (s.expectedShade 3).toNat ++ leBytes 2 4098) 8 8) = _
  rw [h, BitVec.ofNat_toNat, BitVec.setWidth_eq]

/-- Such a report arrives whole. -/
theorem report_takes (k : CensusState) (b : Bytes) (h : b.length = 18) : (withCensus k).takesFrame 3 0x16 (frame 0x16 b) := by
  refine ⟨rfl, rfl, rfl, ?_, rfl⟩
  show b.length ≤ 58
  omega

theorem witness_CensusRoundsCompareShades :
    (bit (unified.cfg 0x1000) 16 = true ∧ unified.mode ≠ .recovery ∧ unified.mode ≠ .bringUp ∧ unified.clocked = true ∧
      unified.mgmt.census.running = false ∧ unified.mgmt.config.commit = none) ∧
    (takes unified 3 0x15 (frame 0x15 (leBytes 4 7)) = true ∧ (frame 0x15 (leBytes 4 7)).payload.length = 4) ∧
    (let k : CensusState := { running := true, waiting := [12], round := 7 }
     (withCensus k).clocked = true ∧ k.bisect = none ∧ k.rewritten.getLsbD 12 = false ∧
       (withCensus k).shade 12 = (withCensus k).expectedShade 12) ∧
    (let k : CensusState := { running := true, waiting := [3, 12], round := 7 }
     let f := frame 0x16 (leBytes 4 7 ++ leBytes 4 1 ++ leBytes 8 ((withCensus k).expectedShade 3).toNat ++ leBytes 2 4098)
     (withCensus k).clocked = true ∧ (withCensus k).takesFrame 3 0x16 f ∧ f.payload.length = 18 ∧
       leAt f.payload 0 4 = k.round.toNat ∧ BitVec.ofNat 32 (leAt f.payload 4 4) = (withCensus k).mgmt.config.lot ∧
       BitVec.ofNat 64 (leAt f.payload 8 8) = (withCensus k).expectedShade 3 ∧ k.bisect = none ∧ k.rewritten.getLsbD 3 = false ∧
       3 ∈ k.waiting ∧ k.waiting.erase 3 ≠ []) ∧
    (let k : CensusState := { running := true, waiting := [3, 12], round := 7 }
     let s : State := withConfig (fun c => { c with force := [(0x1000, 0)] }) (withCensus k)
     let f := frame 0x16 (leBytes 4 7 ++ leBytes 4 2 ++ leBytes 8 0 ++ leBytes 2 4098)
     takes s 3 0x16 f = true ∧ BitVec.ofNat 32 (leAt f.payload 4 4) ≠ s.mgmt.config.lot ∧ bit (s.cfg 0x1000) 17 = false ∧
       takes unified 3 0x16 f = true ∧ leAt f.payload 0 4 ≠ unified.mgmt.census.round.toNat) ∧
    (let f := frame 0x17 (leBytes 2 0 ++ leBytes 2 4098)
     takes unified 3 0x17 f = true ∧ f.payload.length = 4 ∧ leAt f.payload 0 2 = 0 ∧ leAt f.payload 2 2 = 4098) ∧
    (unified.censusStream 3).length = 4098 ∧
    (let k : CensusState := { running := true, bisect := some (3, 0, 2) }
     let f := frame 0x17 (leBytes 2 0 ++ leBytes 2 1 ++ leBytes 8 0)
     takes (withCensus k) 3 0x17 f = true ∧ f.payload.length = 12 ∧ leAt f.payload 2 2 = (0 + 2) / 2 ∧
       streamCrc ((((withCensus k).expectedStream 3).drop 0).take ((0 + 2) / 2 - 0)) ≠ BitVec.ofNat 64 (leAt f.payload 4 8)) ∧
    (let f := frame 0x18 (leBytes 2 0)
     takes unified 3 0x18 f = true ∧ f.payload.length = 2 ∧ (unified.censusStream 3)[0]? = some (0x0200, unified.cfg 0x0200 &&& censusMask 0x0200)) ∧
    (let k : CensusState := { running := true, bisect := some (3, 0, 1), bisectFor := some (.mailbox 0, 1) }
     let f := frame 0x18 (leBytes 2 0 ++ leBytes 2 0x0200 ++ leBytes 8 0)
     takes (withCensus k) 3 0x18 f = true ∧ f.payload.length = 12 ∧ k.bisectFor.isSome = true ∧ leAt f.payload 0 2 = 0) ∧
    (let s : State := { unified with mgmt := { unified.mgmt with
        mode := { unified.mgmt.mode with mode := .cascade }, casc := { unified.mgmt.casc with members := 0b1001, master := 0 } } }
     s.clocked = true ∧ s.scopeMode = .cascade ∧ s.mgmt.casc.master.val = s.pkgIx ∧ s.pkgPresent 3 = true ∧ 3 ≠ s.pkgIx) := by
  refine ⟨?_, ?_, ⟨?_, ?_, ?_, hub_stream_agrees _ rfl⟩, ⟨?_, ?_, (report_clause _).1, ?_, ?_, (report_clause _).2.2.2, ?_, ?_, ?_, ?_⟩,
    ?_, ?_, ?_, ?_, ?_, ?_, ?_⟩
  case refine_7 => exact report_takes _ _ (report_clause _).1
  case refine_8 => exact (report_clause _).2.1
  case refine_9 =>
    show BitVec.ofNat 32 _ = (1 : BitVec 32)
    exact congrArg (BitVec.ofNat 32) (report_clause _).2.2.1
  case refine_16 => simp [State.censusStream]
  all_goals decide +kernel

/-- A hart of die 3, core 21, thread 1. -/
def lastHart : HartId := ⟨3, 21, 1⟩

theorem witness_PowerAndHartControlFramesAct :
    (∀ apply ∈ [0, 1, 2, 3],
      let f := frame 0x19 (List.replicate 22 152 ++ List.replicate 6 0x55 ++ [apply])
      takes unified 3 0x19 f = true ∧ f.payload.length = 29 ∧ unified.clocked = true) ∧
    ((unified.port 3).sbLost = false) ∧
    (takes unified 3 0x1A (frame 0x1A (List.replicate 9 0)) = true) ∧
    (takes unified 3 0x1C (frame 0x1C [5, 0, 1, 0, 0, 0, 0, 0]) = true) ∧
    (∀ q ∈ [((1 : Byte), RunState.running), (2, .held), (3, .held), (4, .running), (5, .stopped)],
      let f := frame 0x1B ([q.1, 0] ++ leBytes 6 (2 ^ 43))
      let s := unified (hartIx lastHart) { run := q.2 }
      let x := s.hart (hartIx lastHart)
      s.clocked = true ∧ takes s 3 0x1B f = true ∧ f.payload.length = 8 ∧ ctlHarts f = 2 ^ 43 ∧ x.run = q.2 ∧ x.waiting = [] ∧ x.front = [] ∧
        (s.hart (hartIx (siblingOf lastHart))).front = [] ∧ x.io = none ∧ x.ctl = none ∧ x.saved = .running ∧ s.mgmt.mode.straps.bootSel ≠ 2) := by
  refine ⟨?_, ?_, ?_, ?_, ?_⟩ <;> decide +kernel

end Sys2Proof.Tests
end

