-- ==== Sys2Proof/Tests/WitnessMemory.lean ====
section
/-! SUPPORT. For each statement about memory, hues and device requests, states and operands that meet its hypotheses
together, one for each clause. Where a statement asks that Mordant serve a command, `servesB` is its check
(`serves_of`). -/

namespace Sys2Proof.Tests

set_option Elab.async false

open Sys2Proof.Machine

def noSnoop (op : Op) : Msg := { op := op, line := aLine, src := 12, dst := 34, req := 12, txid := 9, data := zeroLine }

def memReq (write : Bool) : MemReq :=
  { client := .noSnoop 9, line := aLine, write := write, data := if write then zeroLine else [], hue := 0, cls := 0 }

def withMem (f : Memory → Memory) (s : State := unified) : State := { s with mem := f s.mem }

/-- A request at its channel stop, for a granule in this state. -/
def waits (write : Bool) (g : Table Granule) (fills : List (Nat × List MemReq) := []) : State :=
  withMem fun m => { m with
    reqs := [memReq write], noSnoop := [noSnoop (if write then .wrNS else .rdNS)], granules := g, fills := fills }

theorem witness_LineReadsObeyTheMapAndTheCode :
    (∀ g ∈ [[], [((0 : Nat), Granule.filled)]],
      let s := waits false g
      s.clocked = true ∧ (memReq false).write = false ∧ s.mem.noSnoop = [noSnoop .rdNS] ∧ memReq false ∈ s.mem.reqs ∧
        (s.home (lineSlice aLine)).heldBack = [] ∧ (s.home (lineSlice aLine)).wbHeldBack = [] ∧
        s.region none (aLine * 64) = .hbm ∧ granuleOf aLine = 0 ∧ s.mapErr (granuleOf aLine / 64) = 0 ∧
        s.filling (granuleOf aLine) = false ∧ s.nextFor (hbmLoc aLine).unit = some (memReq false) ∧
        s.pcFailed (hbmLoc aLine).unit = false ∧ (s.granule (granuleOf aLine) = .clear ∨ s.granule (granuleOf aLine) = .filled)) ∧
    (let s := withMem fun m => { m with reads := [memReq false], noSnoop := [noSnoop .rdNS], granules := [(0, .filled)] }
     s.clocked = true ∧ (s.home (lineSlice aLine)).heldBack = [] ∧ (s.home (lineSlice aLine)).wbHeldBack = [] ∧
       memReq false ∈ s.mem.reads ∧ s.granule (granuleOf aLine) = .filled ∧
       (s.channel ((hbmLoc aLine).stack * 16 + (hbmLoc aLine).channel)).timeouts < 15) := by
  decide +kernel

set_option maxRecDepth 10000 in
theorem witness_LineWritesStoreACodewordAndFillTheGranule :
    (∀ q ∈ [([((0 : Nat), Granule.filled)], []), ([], []), ([], [((0 : Nat), [memReq false])])],
      let s := waits true q.1 q.2
      s.clocked = true ∧ (memReq true).write = true ∧ s.mem.noSnoop = [noSnoop .wrNS] ∧ (memReq true).data.length = 64 ∧
        (s.home (lineSlice aLine)).heldBack = [] ∧ (s.home (lineSlice aLine)).wbHeldBack = [] ∧
        s.pcFailed (hbmLoc aLine).unit = false ∧ memReq true ∈ s.mem.reqs ∧ s.region none (aLine * 64) = .hbm ∧
        s.mapErr (granuleOf aLine / 64) = 0 ∧ s.nextFor (hbmLoc aLine).unit = some (memReq true) ∧
        s.filling (granuleOf aLine) = !q.2.isEmpty) ∧
    (let s := withMem fun m => { m with fills := [(0, [memReq true])], noSnoop := [noSnoop .wrNS] }
     s.mem.fills = [(granuleOf aLine, [memReq true])] ∧ aLine ∈ granuleLines s.pkgIx (granuleOf aLine)) := by
  decide +kernel

theorem witness_StacksReportRetrainAndScrub :
    (unified.clocked = true ∧ (unified.channel 31).alerts < 2 ∧ unified.mgmt.log.queue.length < 1024 ∧
      Table.find unified.mem.rows (hbmLoc aLine).rowKey = none ∧ unified.mem.rows.length < 8192 ∧
      1 < fld (unified.cfg 0x0400) 32 8 ∧ bit (unified.cfg 0x0400) 0 = true) ∧
    (let s := withMem fun m => { m with granules := [(0, .filled)] }
     s.patrolNext (hbmLoc aLine).stack (s.patrolAt (hbmLoc aLine).stack) = some aLine) ∧
    (∀ g ∈ [[], [((0 : Nat), Granule.filled)]],
      let s := withMem fun m => { m with granules := g, window := { armed := true, addr := 0x80000000, data := zeroLine } }
      s.clocked = true ∧ s.rawReady 0 = true ∧ (s.granule (granuleOf (s.mem.window.addr.toNat / 64)) = if g = [] then .clear else .filled) ∧
        s.pcFailed (hbmLoc (s.mem.window.addr.toNat / 64)).unit = false ∧ s.mem.window.data.length = 64) := by
  decide +kernel

/-- Forget queue 15 with these entries. -/
def forgetting (es : List ForgetEntry) (running : Bool) (n : BitVec 16 := BitVec.ofNat 16 es.length) : State :=
  withMem fun m => { m with forget := [(15, { entries := es, running := running, tail := n })] }

/-- Forget two granules from granule 1. -/
def forgetTwo : ForgetEntry := { e0 := 0x200000001, e1 := 0x1234 }

theorem witness_ForgetQueuesSweepAndClear :
    ((forgetting [] false 64).clocked = true ∧ (forgetting [] false 64).partOfDie 0 = none ∧
      64 ≤ (((forgetting [] false 64).forget 15).tail - ((forgetting [] false 64).forget 15).head).toNat) ∧
    (let s := forgetting [forgetTwo] true 63
     s.partOfDie 0 = none ∧ ((s.forget 15).tail - (s.forget 15).head).toNat < 64 ∧ (s.forget 15).entries = [forgetTwo] ∧
       (s.forget 15).running = true ∧ s.sweptOut forgetTwo = true) ∧
    ((forgetting [forgetTwo] false).clocked = true ∧ ((forgetting [forgetTwo] false).forget 15).entries ≠ [] ∧
      (∀ k < 32, ∀ d ∈ ((forgetting [forgetTwo] false).home k).dir, ∀ x ∈ (forgetting [forgetTwo] false).sweepHeads,
        (forgetting [forgetTwo] false).inForget x.2 d.2.line = false)) ∧
    (forgetTwo.start = 1 ∧ forgetTwo.count = 2) := by
  decide +kernel

def hued (x : HueState) (s : State := unified) : State := s.setHueSt 4095 x

def binding (hue : Option (BitVec 12)) : Binding := { part := 0, rid := 0x100, pasid := some 5, hue := hue }

/-- A guest file of hart 1. -/
def withFile (owner : Option (BitVec 12)) (s : State) : State :=
  { s with hub := { s.hub with imsic := [(47, { owner := owner, eie := 2 })] } }

theorem witness_HueCommandsMoveTheLifecycle :
    (CmdCell.at_ (cell [0xFF, 0x0F, 7]) 0 2 = 4095 ∧ CmdCell.at_ (cell [0xFF, 0x0F, 7]) 2 1 < 8 ∧ unified.masterOnly = []) ∧
    (let s := session
     servesB s host (cell [0xFF, 0x0F]) 0x0400 true [] (s.hueScope host 4095) = true ∧
       servesB s host (cell [0xFF, 0x0F, 7]) 0x0401 true [] (s.hueScope host 4095) = true ∧ s.lifeOf 4095 = .free) ∧
    (let s := session (hued { st := .bound })
     servesB s host (cell [0xFF, 0x0F]) 0x0402 true [] (s.hueScope host 4095) = true ∧ s.lifeOf 4095 = .bound) ∧
    (let s := session (hued { st := .active })
     servesB s host (cell [0xFF, 0x0F, 7]) 0x0403 true [] (s.hueScope host 4095) = true ∧ s.usable 4095 = true ∧
       servesB s host (cell [0xFF, 0x0F]) 0x0408 true [] (s.hueScope host 4095) = true) ∧
    (let s := session (hued { st := .active })
     let c := cell [0xFF, 0x0F, 0, 1, 1, 0, 0, 0, 5, 0, 0, 0]
     let t : State := { s with hub := { s.hub with bindings := [binding (some 4095)] } }
     servesB s host c 0x0404 true [] (s.hueScope host 4095) = true ∧ s.hub.bindings.length < 16384 ∧ s.hub.bindings = [] ∧
       servesB t .bmc c 0x0405 true [] true = true ∧ t.issPart .bmc = none ∧
       (∃ b ∈ t.hub.bindings, (b.rid, b.pasid) = bindPair c)) ∧
    (let s := session (hued { st := .active })
     let c := cell [0xFF, 0x0F, 1, 0, 15]
     servesB s host c 0x0406 true [] (s.hueScope host 4095 && s.hartScope host 1) = true ∧ s.guestFile c = some 47 ∧
       CmdCell.at_ c 2 2 = 1 ∧ (s.file 47).owner = none ∧
       servesB (withFile (some 4095) s) host c 0x0407 true [] ((withFile (some 4095) s).hartScope host 1) = true ∧
       (withFile (some 4095) s).guestFile c = some 47 ∧ ((withFile (some 4095) s).file 47).owner ≠ none) := by
  refine ⟨?_, ?_, ?_, ?_, ?_, ?_⟩ <;> decide +kernel

theorem witness_HueResetsDrainSquashAndFree :
    (let s := hued { st := .draining, step := 2, drainTmo := 1000 }
     s.clocked = true ∧ (s.hueSt 4095).st = .draining ∧ (s.hueSt 4095).step = 2 ∧ s.inFlight 4095 = false) ∧
    (let s := (hued { st := .draining, step := 2 }).setHome 2 { waitq := [{ noSnoop .wrFull with hue := 4095 }] }
     s.clocked = true ∧ (s.hueSt 4095).step = 2 ∧ s.inFlight 4095 = true) ∧
    (let s := hued { st := .draining, step := 3, squashed := true }
     (s.hueSt 4095).st = .draining ∧ (s.hueSt 4095).step = 3 ∧ s.inFlight 4095 = false) ∧
    (let s := hued { st := .resetting, step := 4 }
     (s.hueSt 4095).st = .resetting ∧ (s.hueSt 4095).step = 4) ∧
    ((unified.hueSt 4095).st ≠ .draining ∧ (unified.hueSt 4095).st ≠ .resetting) := by
  decide +kernel

/-- A device's request, and the package with the port's link up and its IOMMU in Bare mode. -/
def dma (kind : DmaKind) (addr len : Nat) : DmaReq :=
  { rid := 0x100, pasid := none, kind := kind, addr := addr, len := len, data := if kind = .write then List.replicate len 0 else [],
    enable := BitVec.allOnes 64, noSnoop := false, ep := false, tag := 7, xlat := none }

def linkedPort (mode : Word) : State :=
  let s := unified
  { s with hub := { s.hub with rootPorts := [(4, { link := .up })], iommus := [(4, { regs := Table.put 0 [] 0x10 mode })] } }

theorem witness_DeviceRequestsAreCheckedAndSent :
    ((unified.rootPort 4).link ≠ .up ∧ unified.clocked = true) ∧
    (let s := linkedPort 1
     s.clocked = true ∧ s.isPort 4 = true ∧ (s.rootPort 4).link = .up ∧ 4096 < 0x80000FC1 % 4096 + 64 ∧
       0x80000FC0 % 4096 + 64 ≤ 4096 ∧ (s.rootPort 4).acs.getLsbD 0 = false ∧ s.mgmt.log.queue.length < 1024 ∧
       s.iommuXlat 4 0x80000FC0 none = some 0x80000FC0 ∧ s.dmaHue (s.partOfPort 4) 0x100 none = some 0 ∧
       s.region (s.partOfPort 4) 0x80000FC0 = .hbm ∧ lineParts 0x80000FC0 64 = [(0x200003F, 0, 0, 64)] ∧ s.hub.inbound = [] ∧
       (dma .write 0x80000FC0 64).enable = BitVec.allOnes 64) ∧
    ((linkedPort 0).iommuXlat 4 0x80000FC0 none = none) ∧
    (let s : State := { linkedPort 1 with hub := { (linkedPort 1).hub with bindings := [{ binding none with pasid := none }] } }
     s.isPort 4 = true ∧ s.dmaHue (s.partOfPort 4) 0x100 none = none) := by
  decide +kernel

end Sys2Proof.Tests
end

