-- ==== Sys2Proof/Tests/WitnessMordant.lean ====
section
/-! SUPPORT. For each statement about mailboxes, meters, Mordant's commands and live maintenance, states and cells that
meet its hypotheses together, one for each clause. `servesB` is the check that Mordant serves a command (`serves_of`). -/

namespace Sys2Proof.Tests

set_option Elab.async false

open Sys2Proof.Machine

/-- Mailbox 15 as told. -/
def mailbox (x : Mailbox) (s : State := unified) : State := s.setMbx 15 x

/-- The BMC's path as told. -/
def bmcPath (x : Mailbox) (s : State := unified) : State := s.setMbx 16 x

def upMgmt (f : Mgmt → Mgmt) (s : State := unified) : State := { s with mgmt := f s.mgmt }

/-- The 64 bytes of an ECHO cell. -/
def echoBytes : Bytes := leBytes 2 2 ++ leBytes 2 9 ++ [1, 0, 0, 0] ++ leBytes 4 0 ++ leBytes 4 0 ++ padTo 48 [0x5A]

theorem witness_DoorbellsAcceptOrStop :
    (let x : Mailbox := { cmdTail := 0xFFFF, cmdHead := 0xFFF8 }
     (mailbox x).clocked = true ∧ (mailbox x).mbx 15 = x ∧
       ((8 : BitVec 16) - x.cmdTail).toNat < 0x8000 ∧ ((8 : BitVec 16) - x.cmdHead).toNat ≤ 16 ∧
       ((9 : BitVec 16) - x.cmdTail).toNat < 0x8000 ∧ 16 < ((9 : BitVec 16) - x.cmdHead).toNat ∧
       0x8000 ≤ ((0xFFFE : BitVec 16) - x.cmdTail).toNat) ∧
    (let x : Mailbox := { cmdTail := 17, cmdHead := 15 }
     (mailbox x).executes h0 = true ∧ (mailbox x).hueDead ((mailbox x).hart 0).stamp.hue = false ∧
       (mailbox x).scopeMode ≠ .partitioned ∧ (0 + 16 - x.cmdHead.toNat % 16) % 16 < (x.cmdTail - x.cmdHead).toNat) ∧
    (let x : Mailbox := { cmdTail := 1, cmdSlots := [(0, echoBytes)] }
     (mailbox x).timed = true ∧ x.cmdHead ≠ x.cmdTail ∧ Table.find x.cmdSlots (x.cmdHead.toNat % 16) = some echoBytes ∧
       (mailbox x).canAccept (.mailbox 15) = true ∧ catalogue.contains (parseCell echoBytes).1 = true ∧ x.accepted = [] ∧
       (upMgmt (fun m => { m with mordant := { m.mordant with restarting := true } }) (mailbox x)).canAccept (.mailbox 15) = false) := by
  refine ⟨?_, ?_, ?_⟩ <;> decide +kernel

def event : RespCell := { opcode := 1, tag := 0, event := true, status := 0, lot := 1, detail := 0, result := [] }

def accepted (op : Nat) : Accepted := { opcode := op, cell := cell [] }

theorem witness_CellsAndMessagesMove :
    (let x : Mailbox := { rspTail := 2, rspHead := 0xFFFF, events := [event] }
     (mailbox x).clocked = true ∧ (mailbox x).mbx 15 = x ∧
       ((2 : BitVec 16) - x.rspHead).toNat ≤ (x.rspTail - x.rspHead).toNat ∧
       (x.rspTail - x.rspHead).toNat < ((3 : BitVec 16) - x.rspHead).toNat ∧ x.inUse < 16 ∧
       16 ≤ { x with rspTail := 15 }.inUse) ∧
    ((bmcPath { events := [event] }).clocked = true ∧ ((bmcPath { events := [event] }).mbx 16).events = [event]) ∧
    (let msg : Bytes := [0x7F, 0x00, 0x00, 0xB7, 0xE3] ++ echoBytes
     unified.timed = true ∧ unified.accepting = true ∧ ([1, 2] : Bytes).length ≠ 69 ∧ unified.mgmt.log.queue.length < 1024 ∧
       msg.length = 69 ∧ msg.take 5 = [0x7F, 0x00, 0x00, 0xB7, 0xE3] ∧ (unified.mbx 16).accepted = [] ∧
       catalogue.contains (parseCell (msg.drop 5)).1 = true ∧
       (let s := bmcPath { accepted := [accepted 2, accepted 2, accepted 2, accepted 2] }
        s.accepting = true ∧ 4 ≤ (s.mbx 16).accepted.length) ∧
       (upMgmt fun m => { m with mordant := { m.mordant with restarting := true } }).accepting = false) ∧
    (unified.mgmt.mordant.dynAddr = none ∧ (0x30 : BitVec 7).toNat = 0x30 + unified.mgmt.mode.straps.pkgId.val ∧
      (0x31 : BitVec 7).toNat ≠ 0x30 + unified.mgmt.mode.straps.pkgId.val ∧
      (upMgmt fun m => { m with mordant := { m.mordant with dynAddr := some 9 } }).mgmt.mordant.dynAddr ≠ none) := by
  refine ⟨?_, ?_, ?_, ?_⟩ <;> decide +kernel

theorem witness_LockstepRestartsAnswerEverything :
    (unified.timed = true ∧ unified.mgmt.log.queue.length < 1024 ∧ unified.mgmt.mordant.restarting = false) ∧
    (let s := upMgmt fun m => { m with mordant := { m.mordant with restarts := [0, 0] } }
     s.timed = true ∧ s.mgmt.mordant.restarts = [0, 0] ∧ s.now.toNat < (0 : Word).toNat + 6000000000) ∧
    (let k : Commit := { issuer := host, tag := 1, lot := 2, entries := [], classes := [], dies := [3], waiting := [3], sentAt := 0 }
     let s := upMgmt fun m => { m with
       mordant := { m.mordant with restarting := true }, config := { m.config with commit := some k } }
     s.timed = true ∧ s.mgmt.mordant.restarting = true ∧ s.mgmt.mordant.bmcHeld = [] ∧ s.mgmt.config.commit = some k ∧
       k.flip = none) := by
  refine ⟨?_, ?_, ?_⟩ <;> decide +kernel

theorem witness_MetersCountAndRecordsClose :
    (let s := (unified 0 { run := .running, priv := .s, cqzhue := 0x10FFF, accInstret := 5 }).setHueSt 4095 { st := .active }
     s.clocked = true ∧ s.partOfDie 0 = none ∧ (s.hart 0).hue = 4095 ∧ s.hueLife 4095 = .active) ∧
    (let s := unified.setOcc 191 2048
     s.clocked = true ∧ s.inService 11 = true ∧ 0 < s.occ (11 * 16 + 15) ∧ s.occ (11 * 16 + 15) ≤ 2048) ∧
    (let s := upMgmt fun m => { m with mode := { m.mode with start := { running := false } } }
     s.timed = true ∧ s.mgmt.mordant.restarting = false ∧ s.mgmt.mode.start.running = false ∧ s.mgmt.mode.pwrfail = false ∧
       s.hub.ledger.warnOwed = false ∧ s.metering = true ∧ s.mode ≠ .recovery ∧ s.lossOwed = false) ∧
    (let s := upMgmt fun m => { m with mode := { m.mode with start := { running := false }, pwrfail := true } }
     let s : State := { s with hub := { s.hub with ledger := { s.hub.ledger with warnOwed := true } } }
     s.timed = true ∧ s.mgmt.mode.pwrfail = true ∧ s.hub.ledger.warnOwed = true ∧ s.mgmt.mode.start.running = false ∧
       s.mode ≠ .recovery) := by
  refine ⟨?_, ?_, ?_, ?_⟩ <;> decide +kernel

/-- A ledger record of hue 5. -/
def ledgerRec : LedgerRec :=
  { kind := .minute, flags := 0, hue := 5, part := 0, boot := 1, pkg := 0, cls := 0, seq := 9, start := 0, cover := 0, delta := [] }

def withLedger (f : LedgerState → LedgerState) (s : State := session) : State :=
  { s with hub := { s.hub with ledger := f s.hub.ledger } }

/-- A read of 160 bytes to the line at 0x8000_0000, from SEQ `q`. -/
def readCell (len q : Nat) : CmdCell := cell (leBytes 8 0x80000000 ++ leBytes 4 len ++ leBytes 4 0 ++ leBytes 8 q)

theorem witness_LedgersFoldAndAreRead :
    (unified.timed = true ∧ 157286 ≤ unified.hub.ledger.free) ∧
    (servesB session host (cell []) 0x0500 true [] true = true ∧ session.visible host = []) ∧
    (let s := withLedger fun l => { l with slots := [(3, ledgerRec)], nextSeq := 10 }
     let c := readCell 160 9
     servesB s host c 0x0501 (c.plen.toNat = 24) [] true = true ∧ CmdCell.at_ c 0 8 % 64 = 0 ∧
       s.bufferBad host (CmdCell.at_ c 0 8) (CmdCell.at_ c 8 4) 160 = false ∧
       ((s.visible host).filter fun e => CmdCell.at_ c 16 8 ≤ e.2.seq.toNat).map Prod.snd = [ledgerRec] ∧
       (∀ e ∈ lineParts (CmdCell.at_ c 0 8) 160, s.lineError (s.issPart host) e.1 = false) ∧
       (Table.get 0 s.hub.ledger.cursors (s.cursorIx host)).toNat < ledgerRec.seq.toNat) ∧
    (let c := readCell 160 10
     servesB session host c 0x0501 (c.plen.toNat = 24) [] true = true ∧
       (session.visible host).filter (fun e => CmdCell.at_ c 16 8 ≤ e.2.seq.toNat) = []) ∧
    (let s := withLedger fun l => { l with slots := [(3, ledgerRec)], nextSeq := 10, cursors := [(16, 9)] }
     servesB s .bmc (cell (leBytes 8 9)) 0x0502 true [] true = true ∧
       CmdCell.at_ (cell (leBytes 8 9)) 0 8 ≤ (Table.get 0 s.hub.ledger.cursors (s.cursorIx .bmc)).toNat ∧
       (Table.get 0 s.hub.ledger.cursors (s.cursorIx .bmc)).toNat < CmdCell.at_ (cell (leBytes 8 10)) 0 8 ∧
       servesB s .bmc (cell (leBytes 8 10)) 0x0502 true [] true = true) := by
  refine ⟨?_, ?_, ?_, ?_, ?_⟩ <;> decide +kernel

theorem witness_SessionCommandsAnswer :
    (∀ c ∈ [cell ([2, 1, 0, 0, 0, 0, 0, 0] ++ leBytes 8 0xFF), cell ([3, 0, 0, 0, 0, 0, 0, 0] ++ leBytes 8 0)],
      servesB unified host c 0x0000 (c.plen.toNat = 16) [] true = true ∧ servesB unified .bmc c 0x0000 true [] true = true) ∧
    (CmdCell.at_ (cell ([2, 1, 0, 0, 0, 0, 0, 0] ++ leBytes 8 0xFF)) 0 1 = 2 ∧
      CmdCell.at_ (cell ([3, 0, 0, 0, 0, 0, 0, 0] ++ leBytes 8 0)) 0 1 ≠ 2) ∧
    (servesB session host (cell []) 0x0001 true [] true = true ∧
      servesB session host (cell (List.replicate 48 0x5A)) 0x0002 true [] true = true ∧
      servesB session host (cell (leBytes 8 0xFFFF)) 0x0003 true [] true = true ∧
      servesB session host (cell (leBytes 8 0x10000)) 0x0003 true [] true = true ∧ (session.mbx 0).session.isSome = true ∧
      CmdCell.at_ (cell (leBytes 8 0xFFFF)) 0 8 < 2 ^ 16 ∧ 2 ^ 16 ≤ CmdCell.at_ (cell (leBytes 8 0x10000)) 0 8 ∧
      servesB session host (cell []) 0x0004 true [] true = true) ∧
    (∀ lock ∈ [true, false], ∀ q ∈ [(0, 0), (0, 4), (0xFFFD0, 48)],
      let s := upMgmt (fun m => { m with pdr := { m.pdr with lock := lock } }) session
      servesB s host (cell (leBytes 4 q.1 ++ [BitVec.ofNat 8 q.2])) 0x0005 true [] true = true ∧ s.mgmt.pdr.lock = lock ∧
        q.1 + q.2 ≤ 0x100000) := by
  refine ⟨?_, ?_, ?_, ?_⟩ <;> decide +kernel

def writeCell (r v m : Nat) : CmdCell := cell (leBytes 2 r ++ leBytes 6 0 ++ leBytes 8 v ++ leBytes 8 m)

/-- The configuration section as told, with a session. -/
def cfgState (f : ConfigState → ConfigState) : State := upMgmt (fun m => { m with config := f m.config }) session

theorem witness_ConfigurationCommandsStageAndDump :
    (∀ r ∈ [0x0100, 0xFFFF],
      servesB session host (cell (leBytes 2 r)) 0x0100 true [] (!cfgListed r || session.cfgInScope host r) = true) ∧
    (cfgListed 0x0100 = true ∧ cfgListed 0xFFFF = false) ∧
    (∀ q ∈ [(0x0400, 3, 0xFF * 2 ^ 32), (0xFFFF, 0, 1), (0x1100, 640, 0x3FF)],
      let c := writeCell q.1 q.2.1 q.2.2
      servesB session host c 0x0101 (c.plen.toNat = 24) [] (!cfgListed q.1 || session.cfgInScope host q.1) = true ∧
        session.mgmt.mode.resetAsked = none) ∧
    ((session.cfgWriteBad 0xFFFF 0 1).length = 1 ∧ session.cfgWriteBad 0x1100 640 0x3FF = [] ∧
      (0x3FF : Word) &&& classMask 0x1100 .l = 0x3FF) ∧
    (servesB session host (cell []) 0x0102 true [] true = true ∧ session.masterOnly = [] ∧ session.mgmt.service.action = none ∧
      session.stagedFor host = [] ∧ session.stagedClasses = []) ∧
    (let s := cfgState fun k => { k with staged := [(0x0200, (0x100B09, 0x1F))] }
     servesB s host (cell []) 0x0102 true [] true = true ∧ s.stagedFor host ≠ [] ∧ s.commitBad host = none ∧ s.partakers ≠ [] ∧
       (s.port 3).sbLost = false) ∧
    (servesB session host (cell []) 0x0103 true [] true = true ∧ servesB session host (cell []) 0x0104 true [] true = true) ∧
    (let c := cell (leBytes 8 0x80000000 ++ leBytes 4 63)
     servesB session host c 0x0105 (c.plen.toNat = 12) [] true = true ∧
       session.bufferBad host (CmdCell.at_ c 0 8) (CmdCell.at_ c 8 4) 32 = false ∧
       (∀ e ∈ lineParts (CmdCell.at_ c 0 8)
          (32 * min (listedRegs.filter fun q => session.cfgInScope host q).length (CmdCell.at_ c 8 4 / 32)),
         session.lineError (session.issPart host) e.1 = false)) ∧
    (∀ run ∈ [true, false],
      let s := upMgmt (fun m => { m with census := { m.census with running := run } }) session
      servesB s .bmc (cell []) 0x0200 true [] (s.packageWide .bmc) = true ∧ s.mgmt.census.running = run ∧
        s.mgmt.config.commit = none ∧ servesB s .bmc (cell []) 0x0201 true [] (s.packageWide .bmc) = true) ∧
    (∀ d ∈ [13, 12, 11],
      servesB session host (cell [0, d]) 0x0202 true [] (session.packageWide host) = true ∧ session.scopeMode ≠ .cascade ∧
        session.pkgIx = 0 ∧ CmdCell.at_ (cell [0, d]) 0 1 = 0 ∧ CmdCell.at_ (cell [0, d]) 1 1 = d.toNat) ∧
    (session.inCensus 11 = true ∧ (session.port 11).sbLost = false ∧
      (upMgmt fun m => { m with pdr := { m.pdr with dieSt := [(11, 1)] } }).inCensus 11 = false) ∧
    session.shade 12 = session.expectedShade 12 ∧
    (unified.timed = true ∧ unified.mgmt.store.compactOwed = false ∧
      ({ unified.mgmt.store with compactOwed := true } : StoreState).load.isSome = true) := by
  refine ⟨?_, ?_, ?_, ?_, ?_, ?_, ?_, ?_, ?_, ?_, ?_, hub_stream_agrees _ rfl, ?_⟩ <;> decide +kernel

/-- An uncorrected event of home slice 31, an event of a ring bridge, and one of the mailbox. -/
def errEvent (source : ErrSource) (unit : Nat) (last : Word := 0) : ErrRec :=
  { time := 0, last := last, cls := .uncorrected, source := source, reason := .uncorrectable, unit := unit }

def withLog (f : ErrLog → ErrLog) (s : State := session) : State := upMgmt (fun m => { m with log := f m.log }) s

theorem witness_MemoryLinkSlotAndErrorCommandsAct :
    (∀ op ∈ [0x0700, 0x0701, 0x0703], servesB session host (cell []) op true [] (session.packageWide host) = true) ∧
    (∀ q ∈ [(7, true), (63, false)],
      let c := cell (leBytes 8 0x80000000 ++ leBytes 4 q.1)
      servesB session host c 0x0702 true [] (session.packageWide host) = true ∧
        session.bufferBad host (CmdCell.at_ c 0 8) (CmdCell.at_ c 8 4) 8 = q.2) ∧
    (∀ st ∈ [BundleSt.active, .down], ∀ cap ∈ [Cap.none, .x4],
      let s := bundleIs 11 3 { st := st, cap := cap } session
      (s.bundle 11 3).st = st ∧ (s.bundle 11 3).cap = cap ∧ (s.bundle 11 3).hub.buffer = [] ∧
        ∀ op ∈ [0x0800, 0x0801, 0x0802], servesB s host (cell [11, 3]) op true [] (s.packageWide host) = true) ∧
    (∀ link ∈ [LinkSt.fenced, .up],
      let s : State := { session with hub := { session.hub with rootPorts := [(31, { link := link })] } }
      (s.rootPort 31).link = link ∧ ∀ op ∈ [0x0900, 0x0901], servesB s .bmc (cell [31]) op true [] (s.portScope .bmc 31) = true) ∧
    (let e := { errEvent .mbx 0 with seq := 9 }
     let s := withLog fun l => { l with slots := [(5, e)], nextSeq := 10 }
     let c := readCell 64 9
     servesB s host c 0x0B00 (c.plen.toNat = 24) [] true = true ∧ s.bufferBad host (CmdCell.at_ c 0 8) (CmdCell.at_ c 8 4) 64 = false ∧
       ((s.visibleErr host).filter fun e => CmdCell.at_ c 16 8 ≤ e.2.seq.toNat).map Prod.snd = [e] ∧
       (∀ e ∈ lineParts (CmdCell.at_ c 0 8) 64, s.lineError (s.issPart host) e.1 = false) ∧
       (session.visibleErr host).filter (fun e => CmdCell.at_ c 16 8 ≤ e.2.seq.toNat) = []) ∧
    (let s := withLog fun l => { l with cursors := [(16, 9)] }
     (Table.get 0 s.mgmt.log.cursors (s.errCursor host) = 9) ∧
       ∀ q ∈ [9, 10], servesB s host (cell (leBytes 8 q)) 0x0B01 true [] true = true) ∧
    (let s := withLog fun l => { l with queue := [errEvent .mbx 0] }
     s.timed = true ∧ hubBlock (errEvent .mbx 0) = none ∧ s.mgmt.log.same (errEvent .mbx 0) = none ∧ s.mgmt.log.dropped = 0 ∧
       (s.mgmt.log.slotFor).2 = false) ∧
    (let r := { errEvent .mbx 0 with seq := 9 }
     let e := errEvent .mbx 0 1
     let s := withLog fun l => { l with queue := [e], slots := [(5, r)] }
     s.timed = true ∧ s.mgmt.log.same e = some (5, r) ∧ r.count ≠ 0xFFFF ∧ r.last.toNat < e.last.toNat) ∧
    (let e := errEvent .home 31
     let s := withLog fun l => { l with queue := [e], hubCounts := [(31, List.replicate 15 0)] }
     s.timed = true ∧ hubBlock e = some 31 ∧ s.mgmt.log.hubFenced.contains 31 = false ∧
       15 ≤ ((Table.get [] s.mgmt.log.hubCounts 31).filter fun u => e.time.toNat < u.toNat + 100000000).length) := by
  refine ⟨?_, ?_, ?_, ?_, ?_, ?_, ?_, ?_, ?_⟩ <;> decide +kernel

/-- With a live action at a step. -/
def acting (a : LiveAction) (step : Nat) (s : State := session) (fenced : Bool := false) (reports : Table (Nat × Nat) := []) : State :=
  upMgmt (fun m => { m with
    mode := { m.mode with mode := .service, ret := .unified }
    service := { m.service with action := some a, step := step, fenced := fenced, reports := reports } }) s

/-- A cascade of packages 0 and 1 in which this package, 0, is the master, or not. -/
def cascaded (master : Fin 4) (s : State := session) : State :=
  upMgmt (fun m => { m with
    mode := { m.mode with mode := .cascade }, casc := { m.casc with members := 0b0011, master := master } }) s

theorem witness_PowerAndServiceCommandsBegin :
    (∀ q ∈ [(0x0300, cell []), (0x0301, cell (leBytes 2 640)), (0x0301, cell (leBytes 2 641)), (0x0302, cell [11, 21, 3]),
        (0x0302, cell [12, 0, 0]), (0x0303, cell [0]), (0x0303, cell [2]), (0x0600, cell []), (0x0601, cell [11, 21]),
        (0x0602, cell [11]), (0x0603, cell [11]), (0x0604, cell (leBytes 8 0x80000000 ++ leBytes 4 64)), (0x0605, cell []),
        (0x0A00, cell []), (0x0A01, cell [1])],
      servesB session host q.2 q.1 true [] (session.packageWide host) = true) ∧
    (fld (session.cfg 0x1100) 24 8 * 25 ≤ floorMhz 640 ∧ session.inService 11 = true ∧ (session.port 11).sbLost = false ∧
      session.scopeMode ≠ .cascade ∧ session.mgmt.service.action = none ∧ session.spares 11 = [22, 23] ∧
      session.mayEvacuate 11 = true ∧ session.dieStatus 11 = 0 ∧ session.mgmt.mode.resetAsked = none) ∧
    (let s := upMgmt (fun m => { m with pdr := { m.pdr with dieSt := [(11, 2)], spares := [(3, [])] } }) session
     servesB s host (cell [11]) 0x0602 true [] (s.packageWide host) = true ∧ s.inService 11 = false ∧ s.mayEvacuate 11 = false ∧
       s.dieStatus 11 = 2 ∧ servesB s host (cell [11]) 0x0603 true [] (s.packageWide host) = true ∧ s.spares 3 = [] ∧
       servesB s host (cell [3, 0]) 0x0601 true [] (s.packageWide host) = true ∧ s.mgmt.log.queue.length < 1024) ∧
    (let s := acting (.spare 3 1) 4
     servesB s host (cell [0]) 0x0303 true [] (s.packageWide host) = true ∧ s.mgmt.service.action ≠ none ∧
       servesB s host (cell []) 0x0600 true [] (s.packageWide host) = true ∧ s.scopeMode ≠ .cascade ∧
       servesB s host (cell [11, 21]) 0x0601 true [] (s.packageWide host) = true ∧ s.inService 11 = true) ∧
    (let c := cell (leBytes 8 0x80000000 ++ leBytes 4 64)
     let r := ((afterAccept session host 0x0604 c).snap (session.issPart host) (CmdCell.at_ c 0 8) (CmdCell.at_ c 8 4) 0).1
     session.bufferBad host (CmdCell.at_ c 0 8) (CmdCell.at_ c 8 4) 1 = false ∧ r.2 = (false, false)) ∧
    (∀ mode ∈ [Mode.unified, .recovery],
      let s := upMgmt (fun m => { m with
        mode := { m.mode with mode := mode }, mordant := { m.mordant with slotB := { m.mordant.slotB with staged := true } } }) session
      s.mgmt.mordant.inactive.staged = true ∧ s.mode = mode ∧ s.mgmt.service.action = none ∧
        servesB s .bmc (cell []) 0x0605 true [] (s.packageWide .bmc) = true) ∧
    (session.mgmt.mordant.inactive.staged = false ∧ session.mode ≠ .bringUp) ∧
    (let s := cascaded 0
     servesB s host (cell [1]) 0x0A01 true [] (s.packageWide host) = true ∧ s.scopeMode = .cascade ∧ s.mgmt.casc.masterLost = false ∧
       s.mgmt.casc.master.val = s.pkgIx ∧ s.mgmt.casc.members.getLsbD 1 = true ∧ s.mgmt.casc.lost.getLsbD 1 = false ∧
       (cascaded 1).mgmt.casc.master.val ≠ (cascaded 1).pkgIx ∧
       servesB (cascaded 1) host (cell [1]) 0x0A01 true [] ((cascaded 1).packageWide host) = true) := by
  refine ⟨?_, ?_, ?_, ?_, ?_, ?_, ?_, ?_⟩ <;> decide +kernel

theorem witness_LiveActionsRunStepByStep :
    (unified.clocked = true ∧ unified.mgmt.service.action = none ∧ unified.mgmt.service.resetOwed = 0 ∧
      unified.mgmt.log.coreCounts = []) ∧
    (∀ st ∈ [2, 3, 4, 5, 6, 7],
      let h := 3 * 2 ^ (2 * 21)
      let s := acting (.spare 11 21) st session false [(11, (if st = 2 then 4 else 5, h))]
      s.clocked = true ∧ s.mgmt.service.action = some (.spare 11 21) ∧ s.mgmt.service.step = st ∧ s.mgmt.service.fenced = false ∧
        (st = 2 → Table.get (0, 0) s.mgmt.service.reports 11 = (4, h)) ∧
        (st = 6 → Table.get (0, 0) s.mgmt.service.reports 11 = (5, h)) ∧ s.mgmt.service.resetOwed = 0 ∧ s.mgmt.log.coreCounts = []) ∧
    (acting (.spare 11 21) 4 session true).mgmt.service.fenced = true ∧
    (let s := acting (.evacuate 11) 2 session false [(11, (1, 2 ^ 44 - 1))]
     s.clocked = true ∧ Table.get (0, 0) s.mgmt.service.reports 11 = (1, 2 ^ 44 - 1) ∧
       (acting (.evacuate 11) 5).mgmt.service.resetOwed = 0) ∧
    (let s := upMgmt (fun m => { m with pdr := { m.pdr with dieSt := [(11, 1)] } }) (acting (.readmit 11) 2)
     s.clocked = true ∧ s.dieStatus 11 = 1 ∧ s.mgmt.service.step = 2) ∧
    ((acting (.cascHandoff 1) 3 (cascaded 0)).clocked = true ∧ (acting (.cascHandoff 1) 4 (cascaded 0)).mgmt.service.step = 4) ∧
    (let s : State := { acting .handover 3 with now := 500000 }
     s.clocked = true ∧ minuteRule s.now = true ∧ (∀ i < 17, (s.mbx i).accepted = []) ∧ (acting .handover 5).mgmt.mordant.bmcHeld = []) ∧
    (let s := bundleIs 12 0 { st := .active } (cascaded 1)
     s.clocked = true ∧ s.linkActive 0 = true ∧ s.linkActive 1 = false) ∧
    (let s := cascaded 1
     s.scopeMode = .cascade ∧ s.mgmt.casc.masterLost = false ∧ (0 : Fin 4) ≠ s.mgmt.casc.master ∧ (0 : Fin 4).val = s.pkgIx ∧
       s.pkgPresent 0 = true ∧ (-100 : Int).natAbs ≤ 100 ∧ s.mgmt.casc.master.val ≠ s.pkgIx ∧
       s.pkgPresent s.mgmt.casc.master.val = true ∧ s.linkActive (s.outLink (s.linkTo s.mgmt.casc.master.val)) = false) ∧
    (let q : ProxyProbe := { line := aLine, die := 11, op := .fwdO, tmo := 20 }
     let s := unified.setCascLink 2 { probes := [q] }
     s.clocked = true ∧ (s.cascLink 2).probes = [q] ∧ (s.cascLink 2).waiting = [] ∧ (s.cascLink 2).requests = [] ∧
       unified.scopeMode ≠ .cascade) := by
  refine ⟨?_, ?_, ?_, ?_, ?_, ?_, ?_, ?_, ?_, ?_⟩ <;> decide +kernel

end Sys2Proof.Tests
end

