-- ==== Sys2Proof/Tests/WitnessStart.lean ====
section
/-! SUPPORT. For each statement about resets, starts, power and the package as a whole, states that meet its hypotheses
together, one for each clause. -/

namespace Sys2Proof.Tests

set_option Elab.async false

open Sys2Proof.Machine

def upMode (f : ModeState → ModeState) (s : State := unified) : State := { s with mgmt := { s.mgmt with mode := f s.mgmt.mode } }

def upPower (f : PowerState → PowerState) (s : State := unified) : State := { s with mgmt := { s.mgmt with power := f s.mgmt.power } }

def regCell (r v m : Nat) : CmdCell := cell (leBytes 2 r ++ leBytes 6 0 ++ leBytes 8 v ++ leBytes 8 m)

/-- A Partitioned package in which partition 11 owns die 11 and hues 256 to 511, its reset at a step. -/
def partitioned (step : Nat) : State :=
  let s := upMode fun m => { m with mode := .partitioned, parts := [(11, { started := true, resetStep := step })] }
  let s := s.setCfg 0x121B (BitVec.ofNat 64 (2 ^ 12 + 2 ^ 11 + 1 * 2 ^ 16 + 1 * 2 ^ 24))
  session s

theorem witness_ResetCommandsBeginTheirScope :
    (∀ v ∈ [1, 2],
      let c := regCell 0x1202 v v
      session.mgmt.mode.resetAsked = none ∧ servesB session .bmc c 0x0101 (c.plen.toNat = 24) [] (session.cfgInScope .bmc 0x1202) = true ∧
        CmdCell.at_ c 0 2 = 0x1202 ∧ session.cfgWriteBad 0x1202 (BitVec.ofNat 64 v) (BitVec.ofNat 64 v) = [] ∧
        pkgResetOf c = some (decide (v = 1)) ∧ ∀ e ∈ session.hub.hues, e.2.st = .free) ∧
    (let s := partitioned 0
     let c := regCell 0x1240 0x800 0xFFF
     servesB s .bmc c 0x0101 (c.plen.toNat = 24) [] (s.cfgInScope .bmc 0x1240) = true ∧ s.cfgWriteBad 0x1240 0x800 0xFFF = [] ∧
       (s.partition 11).resetStep = 0 ∧ s.mgmt.service.action = none ∧ s.diesOf 11 = [11]) ∧
    (let s := partitioned 2
     s.clocked = true ∧ (s.partition 11).resetStep = 2 ∧ s.partQuiet 11 = true ∧ s.mgmt.mode.pwrfail = false ∧
       s.partOfHue 256 = some 11 ∧ (s.diesOf 11).filter (fun e => s.inService e.val) = [11] ∧ (s.port 11).sbLost = false ∧
       (upMode (fun m => { m with pwrfail := true }) s).partQuiet 11 = true ∧
       (s.setHome 2 { waitq := [{ op := .rdS, line := aLine, src := 11, dst := 34, req := 11 }] }).partQuiet 11 = false) ∧
    ((unified.partition 11).resetStep = 0 ∧ (unified.core 0).flushing = none ∧ (unified.hart 0).run ≠ .held ∧
      (unified.hart 1).run = .held ∧
      (let s := unified.setCore 0 { unified.core 0 with flushing := some .l2 }
       (s.core 0).flushing ≠ none ∧ (s.hart 0).run ≠ .held) ∧
      (let s := unified.setCore 0 { unified.core 0 with flushing := some .l2, resetAfter := [0] }
       (s.core 0).flushing = some .l2 ∧ (s.core 0).flushLines = [] ∧ (s.core 0).resetAfter = [h0.thread])) := by
  refine ⟨?_, ?_, ?_, ?_⟩ <;> decide +kernel

/-- A start that has done these steps. -/
def starting (done : List StartStep) (f : ModeState → ModeState := id) : State :=
  upMode (fun m => f { m with mode := .bringUp, start := { m.start with done := done } }) unified

/-- The master of a cascade to be, its register 0x1201 choosing Cascade. -/
def admitting : State :=
  let s := starting [.s2, .s3, .s4, .s5, .s6a, .s6b, .s6c, .s6d, .s7, .s8, .s9, .s10] fun m =>
    { m with straps := { m.straps with masterSel := true } }
  let s := s.setCfg 0x1201 2
  s.setCascLink 0 { identity := some { pkgId := 1, masterSel := false, stepping := 0xA1, weldVersions := 4, ifMajor := 2 } }

theorem witness_PinsStartAndStopThePackage :
    ((upMode fun m => { m with pwrgood := false }).mgmt.mode.pwrgood = false ∧ unified.mgmt.mode.pwrgood = true) ∧
    (∀ mode ∈ [Mode.bringUp, .recovery, .unified],
      let s := upMode fun m => { m with mode := mode }
      s.clocked = true ∧ s.mgmt.mode.resetN = true ∧ s.mgmt.mode.mode = mode) ∧
    (∀ mode ∈ [Mode.recovery, .bringUp], ∀ warm ∈ [true, false],
      let s := upMode fun m => { m with mode := mode, resetN := false, start := { m.start with held := true, warm := warm } }
      s.clocked = true ∧ s.mgmt.mode.resetN = false ∧ s.mgmt.mode.mode = mode ∧ s.mgmt.mode.start.warm = warm) ∧
    ((starting []).clocked = true ∧ (starting []).stepReady .s3 = false ∧ (starting []).stepReady .s2 = true) ∧
    (∀ q ∈ [(StartStep.s2, []), (.s3, [StartStep.s2]), (.s4, [.s2, .s3]), (.s5, [.s2, .s3, .s4]), (.s6a, [.s2, .s3, .s4, .s5]),
        (.s6b, [.s2, .s3, .s4, .s5]), (.s6c, [.s2, .s3, .s4, .s5]), (.s6d, [.s2, .s3, .s4, .s5, .s6a, .s6b, .s6c]),
        (.s7, [.s2, .s3, .s4, .s5, .s6a, .s6b, .s6c, .s6d]), (.s8, [.s2, .s3, .s4, .s5, .s6a, .s6b, .s6c, .s6d, .s7]),
        (.s9, [.s2, .s3, .s4, .s5, .s6a, .s6b, .s6c, .s6d, .s7, .s8]),
        (.s10, [.s2, .s3, .s4, .s5, .s6a, .s6b, .s6c, .s6d, .s7, .s8, .s9]),
        (.s11, [.s2, .s3, .s4, .s5, .s6a, .s6b, .s6c, .s6d, .s7, .s8, .s9, .s10])],
      (starting q.2).clocked = true ∧ (starting q.2).stepReady q.1 = true ∧ (starting q.2).mgmt.mode.straps.recoveryN = true ∧
        (starting q.2).mgmt.census.running = false ∧ (starting q.2).mgmt.config.commit = none) ∧
    ((starting [.s2, .s3] fun m => { m with straps := { m.straps with recoveryN := false } }).mgmt.mode.straps.recoveryN = false ∧
      (starting [.s2, .s3] fun m => { m with straps := { m.straps with recoveryN := false } }).stepReady .s4 = true) ∧
    (let s := admitting
     let p : CascIdentity := { pkgId := 1, masterSel := false, stepping := 0xA1, weldVersions := 4, ifMajor := 2 }
     s.clocked = true ∧ s.mode = .bringUp ∧ StartStep.s10 ∈ s.mgmt.mode.start.done ∧ s.startMode = .cascade ∧
       s.mgmt.casc.members = 0 ∧ s.ownIdentity.masterSel = true ∧ s.identities = [(3, s.ownIdentity), (0, p)] ∧
       p.pkgId ≠ s.ownIdentity.pkgId) ∧
    (unified.mode ≠ .bringUp) := by
  refine ⟨?_, ?_, ?_, ?_, ?_, ?_, ?_, ?_⟩ <;> decide +kernel

/-- Rail 0 as told. -/
def railed (x : RailState) : State := unified.setRail 0 x

theorem witness_RailsClocksAndTemperatureAct :
    (unified.timed = true ∧ (unified.rail 13).write = none ∧ (unified.rail 13).held = false) ∧
    (∀ n ∈ [1, 2, 3],
      let x : RailState := { mv := 700, write := some (750, n), freq := 2000, freqAfter := some 2500 }
      (railed x).timed = true ∧ (railed x).rail 0 = x ∧ x.fails ≠ 0xFF ∧ railCore 0 ≠ none) ∧
    (let x : RailState := { mv := 700, held := true, withheld := 750, misses := 9 }
     (railed x).rail 0 = x ∧ x.write = none) ∧
    (let s := (railed { freq := 3000 }).setCfg 0x1100 (BitVec.ofNat 64 (600 + 100 * 2 ^ 24 + 2 ^ 32))
     s.timed = true ∧ (s.rail (coreRail 0)).throttle = 0 ∧ bit (s.cfg 0x1100) 32 = true ∧ 450 ≤ s.effLimit ∧
       fld (s.cfg 0x1100) 24 8 * 25 ≤ floorMhz s.effLimit ∧ fld (s.cfg 0x1100) 24 8 * 25 < (s.rail (coreRail 0)).freq ∧
       (bit (s.cfg 0x1100) 33 = false ∧ ((s.setRail 1 { gave := true }).rail (coreRail 1)).gave = true)) ∧
    (let s := unified 0 { run := .wfi }
     s.clocked = true ∧ (∀ h ∈ hartsOf ⟨0, 0⟩, (s.hart (hartIx h)).idle = true) ∧ s.mgmt.power.pkg = .ps0 ∧
       ¬ (∀ h ∈ hartsOf ⟨0, 0⟩, (unified.hart (hartIx h)).idle = true) ∧ unified.mgmt.power.request = none) ∧
    (∀ q ∈ [PkgState.ps1, .ps2],
      let s := upPower (fun p => { p with request := some (q, host) }) (unified 0 { run := .wfi })
      s.clocked = true ∧ s.mgmt.power.request = some (q, host) ∧ s.mgmt.service.action = none ∧
        (∀ h ∈ s.fab.harts, h.2.idle = true) ∧ (∀ e : Fin 12, (s.die e.val).evicting = [] ∧ (s.die e.val).l3 = []) ∧
        (∀ e, ((s.forEach (List.finRange 12) fun s d => s.flushL3 d).flushedL3 e) = true)) ∧
    (let s := upPower (fun p => { p with request := some (.ps2, host) }) (holding .e (unified 0 { run := .wfi, resv := some { line := aLine } }))
     (∀ h ∈ s.fab.harts, h.2.idle = true) ∧ (s.forEach (List.finRange 12) fun s d => s.flushL3 d).flushedL3 0 = false) ∧
    (unified.maySleep (.pipe 7) = true ∧ unified.maySleep (.l3 11) = false ∧
      ((bundleIs 11 3 { st := .active }).bundle 11 3).st = .active) ∧
    (let hot := upPower fun p => { p with hubHot := [8 * 100] }
     let cool := upPower fun p => { p with hubHot := [8 * 100 - 24] }
     fld (hot.cfg 0x1101) 0 8 = 100 ∧ (∃ v ∈ hot.mgmt.power.hubHot, (800 : Int) ≤ v) ∧
       (∀ v ∈ cool.mgmt.power.hubHot, v ≤ (800 : Int) - 24)) ∧
    (uncListed 0x01 = true ∧ uncListed 0xFFFF = false ∧ unified.partOfDie 0 = none ∧ unified.clocked = true ∧
      (partitioned 0).partOfDie 11 ≠ none) := by
  refine ⟨?_, ?_, ?_, ?_, ?_, ?_, ?_, ?_, ?_, ?_⟩ <;> decide +kernel

/-- A tick of the reset package, and a queue with two commands. -/
theorem witness_StepRunsTheFrontCommand :
    State.reset.pending = [] ∧ State.reset.timed = true ∧
      (upMode fun m => { m with pwrgood := false }).timed = false ∧ (upMode fun m => { m with pwrgood := false }).pending = [] := by
  decide +kernel

/-- The hypotheses of the invariant meet at reset: it is sound, and it steps. -/
theorem witness_SoundThroughEveryStep :
    State.reset.mem.wf = true ∧ State.reset.mgmt.log.queue.length ≤ 1024 ∧
      (match step State.reset with | .next _ => true | _ => false) = true := by
  decide +kernel

theorem witness_StoppedClocksStayStopped :
    (upMode fun m => { m with thermTrip := true }).timed = false ∧ (upMode fun m => { m with thermTrip := true }).mgmt.mode.thermTrip = true ∧
      (let s := upMode fun m => { m with pwrgood := false, thermTrip := true }
       (match exec .lotBoundary s with | .next t => t.mgmt.mode.thermTrip | _ => false) = true) := by
  decide +kernel

theorem witness_FlushWritesStartTheWidestFlush :
    (unified.executes h0 = true ∧ (unified.core 0).flushing = none ∧ ∀ v ∈ [0, 0x10, 0x20, 0x40, 0x71],
      let op : HartOp := .csr 0x5C2 (BitVec.ofNat 64 v)
      unified.ready h0 op = true ∧ ((unified.starts h0 op).2.hart 0).may op = .yes) ∧
    (let s := unified.setCore 0 { unified.core 0 with flushing := some .l1d }
     let op : HartOp := .csr 0x5C2 0x40
     s.executes h0 = true ∧ (s.core 0).flushing ≠ none ∧ s.ready h0 op = true ∧ ((s.starts h0 op).2.hart 0).may op = .yes) := by
  decide +kernel

end Sys2Proof.Tests
end

section
/-! SUPPORT. An instruction of a hart that is tried at once: what its dispatch and its end leave in the state. -/

namespace Sys2Proof.Machine

/-- What each step of a fold over a list keeps holds after the fold. -/
theorem State.forEach_keeps {α : Type} (P : State → Prop) {l : List α} {f : State → α → State} (hf : ∀ t, ∀ a ∈ l, P t → P (f t a))
    {s : State} (hs : P s) : P (s.forEach l f) := by
  unfold State.forEach
  induction l generalizing s with
  | nil => exact hs
  | cons a l ih => exact ih (fun t b hb => hf t b (List.mem_cons_of_mem a hb)) (hf s a List.mem_cons_self hs)

/-- What the step for one element of a list makes true, and every step keeps, holds after the fold. -/
theorem State.forEach_of_mem {α : Type} (P : State → Prop) {f : State → α → State} (hf : ∀ t a, P t → P (f t a)) {a : α}
    (ha : ∀ t, P (f t a)) {l : List α} (hl : a ∈ l) (s : State) : P (s.forEach l f) := by
  induction l generalizing s with
  | nil => cases hl
  | cons b l ih =>
    rcases List.mem_cons.1 hl with rfl | hl
    · exact State.forEach_keeps (s := f s a) P (fun t b _ => hf t b) (ha s)
    · exact ih hl (f s b)

/-! ### Counting and sampling -/

/-- The hart without its counters, its sampling registers and the flags of the attempt in progress. -/
def HartState.uncounted (x : HartState) : HartState :=
  { x with csr := [], cqzsmpctl := 0, cqzsmpinfo := 0, cqzsmppc := 0, cqzsmpaddr := 0, cqzsmplat := 0, smpLeft := none, flags := 0 }

/-- From `s` to `t` at most one hart has counted and sampled. -/
structure State.Counted (s t : State) (h : HartId) : Prop where
  cores : t.fab.cores = s.fab.cores
  dies : t.fab.dies = s.fab.dies
  net : t.fab.net = s.fab.net
  mem : t.mem = s.mem
  hart : (t.hart (hartIx h)).uncounted = (s.hart (hartIx h)).uncounted
  others : ∀ i, i ≠ hartIx h → t.hart i = s.hart i

theorem State.Counted.refl (s : State) (h : HartId) : s.Counted s h := ⟨rfl, rfl, rfl, rfl, rfl, fun _ _ => rfl⟩

theorem State.Counted.trans {s t u : State} {h : HartId} (a : s.Counted t h) (b : t.Counted u h) : s.Counted u h :=
  ⟨b.cores.trans a.cores, b.dies.trans a.dies, b.net.trans a.net, b.mem.trans a.mem, b.hart.trans a.hart,
    fun i hi => (b.others i hi).trans (a.others i hi)⟩

/-- What counting and sampling do not reach is as it was. -/
theorem HartState.get_of_uncounted {x y : HartState} {α : Type} (e : x.uncounted = y.uncounted) (f : HartState → α)
    (hf : ∀ x, f x.uncounted = f x := by intro; rfl) : f x = f y := by
  rw [← hf, e, hf]

theorem State.Counted.get {s t : State} {h : HartId} {α : Type} (a : s.Counted t h) (f : HartState → α)
    (hf : ∀ x, f x.uncounted = f x := by intro; rfl) : f (t.hart (hartIx h)) = f (s.hart (hartIx h)) :=
  HartState.get_of_uncounted a.hart f hf

theorem State.Counted.core {s t : State} {h : HartId} (a : s.Counted t h) (i : Nat) : t.core i = s.core i := by
  simp only [State.core, a.cores]

/-- Replacing the hart by one that differs in counts and samples only. -/
theorem State.counted_setHart (s : State) (h : HartId) (x : HartState) (hx : x.uncounted = (s.hart (hartIx h)).uncounted) :
    s.Counted (s.setHart (hartIx h) x) h :=
  ⟨rfl, rfl, rfl, rfl, by simpa using hx, fun i hi => by simp [hi]⟩

theorem State.Counted.setHart {s t : State} {h : HartId} (a : s.Counted t h) (x y : HartState) (hx : y.uncounted = x.uncounted) :
    (s.setHart (hartIx h) x).Counted (t.setHart (hartIx h) y) h :=
  ⟨a.cores, a.dies, a.net, a.mem, by simpa using hx, fun i hi => by simpa [hi] using a.others i hi⟩

/-- Taking a free value changes no hart, core, die or byte. -/
theorem State.counted_free (s : State) (h : HartId) (n : Nat) : s.Counted { s with free := n } h :=
  ⟨rfl, rfl, rfl, rfl, rfl, fun _ _ => rfl⟩

@[simp] theorem HartState.uncounted_event (x : HartState) (code k : Nat) (st : Stamp) :
    (x.event code k st).uncounted = x.uncounted := by
  obtain ⟨c, hc⟩ := x.event_only code k st
  rw [hc]; rfl

/-- A retirement is one more of the accumulated instructions, and is counted. -/
@[simp] theorem HartState.uncounted_retire (x : HartState) (st : Stamp) :
    (x.retire st).uncounted = { x with accInstret := x.instret }.uncounted := by
  obtain ⟨c, hc⟩ := x.retire_only st
  rw [hc]; rfl

theorem State.endSample_counted (s : State) (h : HartId) (w : Waiting) (ends : Nat) : s.Counted (s.endSample h w ends) h :=
  s.endSample_ind h w ends (fun t => s.Counted t h) (.refl s h) fun n _ _ _ _ _ _ =>
    (s.counted_free h n).trans (State.counted_setHart _ h _ rfl)

theorem State.takeFlags_counted (s : State) (h : HartId) (w : Waiting) : s.Counted (s.takeFlags h w).2 h :=
  s.counted_setHart h _ rfl

theorem State.chooseSample_counted (s : State) (h : HartId) (p : Priv × Bool) : s.Counted (s.chooseSample h p).2 h := by
  unfold State.chooseSample
  dsimp only
  split
  · exact .refl s h
  · split
    · exact s.counted_setHart h _ rfl
    · exact s.counted_setHart h _ rfl
    · exact (s.counted_free h _).trans (State.counted_setHart _ h _ rfl)

/-- The end of an instruction that is no hint counts and samples. -/
theorem State.endDone_counted (s : State) (h : HartId) (w : Waiting) (hw : w.op.isHint = false) :
    s.Counted (s.endDone h w) h := by
  have hf : (s.takeFlags h w).1.op.isHint = false := hw
  unfold State.endDone
  simp only [hf, Bool.false_and, Bool.false_eq_true, if_false]
  exact (s.takeFlags_counted h w).trans (State.endSample_counted ..)

/-- Squashed instructions are counted and sampled. -/
theorem State.squashed_counted (s : State) (h : HartId) (gone : List Waiting) : s.Counted (s.squashed h gone) h :=
  State.forEach_keeps (s.Counted · h)
    (fun t _ _ ht => (ht.trans (t.counted_setHart h _ (by simp))).trans (State.endSample_counted ..)) (.refl s h)

/-! ### Dispatch -/

/-- The hart that has dispatched an instruction, with what is left of its executed speculative ones. -/
def HartState.dispatched (x : HartState) (done : List SpecDone) (stores : List SpecStore) (marks : List Checkpoint) : HartState :=
  { x with front := [], specDone := done, specStores := stores, checkpoints := marks }

/-- The dispatch of an instruction takes what executed speculatively, counts and samples; that of a speculative one takes nothing. -/
theorem State.startsAt_only (s : State) (h : HartId) (op : HartOp) (pc : Word) :
    ∃ done stores marks,
      (s.setHart (hartIx h) ((s.hart (hartIx h)).dispatched done stores marks)).Counted (s.startsAt h op pc).2 h ∧
      (op.isSpec = true → stores = (s.hart (hartIx h)).specStores) := by
  unfold State.startsAt State.dispatch
  simp only [State.hart_setHart, if_true]
  split
  · exact ⟨_, _, _, State.Counted.refl (s.setHart (hartIx h) { s.hart (hartIx h) with front := [] }) h, fun _ => rfl⟩
  · split
    case h_1 d hd =>
      refine ⟨_, _, _, ⟨rfl, rfl, rfl, rfl, by simp only [State.hart_setHart, if_true]; rfl, fun i hi => by simp [hi]⟩, fun hs => ?_⟩
      have := List.find?_some hd
      simp [hs] at this
    case h_2 =>
      exact ⟨_, _, _, (State.chooseSample_counted (s.setHart (hartIx h) { s.hart (hartIx h) with front := [] }) h _).trans
        (State.counted_setHart _ h _ (HartState.uncounted_event ..)), fun _ => rfl⟩

section starts
variable (s : State) (h : HartId) (op : HartOp)

/-- A new instruction has neither checked its parts nor sent anything. -/
theorem State.starts_new : ∃ st b fl, (s.starts h op).1 = { op := op, stamp := st, sample := b, flags := fl } ∧
    st.branch = (s.hart (hartIx h)).branches := by
  unfold State.starts State.startsAt State.dispatch
  have hb (q : Fetched) : ((s.hart (hartIx h)).stampOf q).branch = q.branch := rfl
  dsimp only
  split
  · exact ⟨_, _, _, rfl, rfl⟩
  · split <;> exact ⟨_, _, _, rfl, rfl⟩

@[simp] theorem State.starts_op : (s.starts h op).1.op = op := by
  obtain ⟨_, _, _, e, _⟩ := s.starts_new h op; rw [e]

@[simp] theorem State.starts_parts : (s.starts h op).1.parts = [] := by
  obtain ⟨_, _, _, e, _⟩ := s.starts_new h op; rw [e]

@[simp] theorem State.starts_issued : (s.starts h op).1.issued = false := by
  obtain ⟨_, _, _, e, _⟩ := s.starts_new h op; rw [e]

@[simp] theorem State.starts_branch : (s.starts h op).1.stamp.branch = (s.hart (hartIx h)).branches := by
  obtain ⟨_, _, _, e, hb⟩ := s.starts_new h op; rw [e]; exact hb

@[simp] theorem State.starts_cores : (s.starts h op).2.fab.cores = s.fab.cores := by
  obtain ⟨_, _, _, hc, _⟩ := s.startsAt_only h op (s.hart (hartIx h)).pc; exact hc.cores

@[simp] theorem State.starts_core (i : Nat) : (s.starts h op).2.core i = s.core i := by
  simp only [State.core, s.starts_cores h op]

@[simp] theorem State.starts_dies : (s.starts h op).2.fab.dies = s.fab.dies := by
  obtain ⟨_, _, _, hc, _⟩ := s.startsAt_only h op (s.hart (hartIx h)).pc; exact hc.dies

@[simp] theorem State.starts_net : (s.starts h op).2.fab.net = s.fab.net := by
  obtain ⟨_, _, _, hc, _⟩ := s.startsAt_only h op (s.hart (hartIx h)).pc; exact hc.net

@[simp] theorem State.starts_mem : (s.starts h op).2.mem = s.mem := by
  obtain ⟨_, _, _, hc, _⟩ := s.startsAt_only h op (s.hart (hartIx h)).pc; exact hc.mem

theorem State.starts_others (i : Nat) (hi : i ≠ hartIx h) : (s.starts h op).2.hart i = s.hart i := by
  obtain ⟨_, _, _, hc, _⟩ := s.startsAt_only h op (s.hart (hartIx h)).pc
  exact (hc.others i hi).trans (by simp [hi])

/-- What neither dispatch nor counting reaches of the hart is as it was. -/
theorem State.starts_get {α : Type} (f : HartState → α) (hf : ∀ x, f x.uncounted = f x := by intro; rfl)
    (hd : ∀ x a b c, f (HartState.dispatched x a b c) = f x := by intros; rfl) :
    f ((s.starts h op).2.hart (hartIx h)) = f (s.hart (hartIx h)) := by
  obtain ⟨a, b, c, hc, _⟩ := s.startsAt_only h op (s.hart (hartIx h)).pc
  exact (hc.get f hf).trans (by simp [hd])

@[simp] theorem State.starts_waiting : ((s.starts h op).2.hart (hartIx h)).waiting = (s.hart (hartIx h)).waiting :=
  s.starts_get h op (·.waiting)

theorem State.starts_specStores (hs : op.isSpec = true) :
    ((s.starts h op).2.hart (hartIx h)).specStores = (s.hart (hartIx h)).specStores := by
  obtain ⟨_, _, _, hc, he⟩ := s.startsAt_only h op (s.hart (hartIx h)).pc
  exact (hc.get (·.specStores)).trans (by simp [HartState.dispatched, he hs])

end starts

/-! ### The command of an instruction -/

theorem State.executes_of_accesses {s : State} {h : HartId} {st : HartState → Stamp} (ha : s.accesses h st = true) :
    s.executes h = true := by
  unfold State.accesses at ha; simp only [Bool.and_eq_true] at ha; exact ha.1

theorem State.writes_of_executes {s : State} {h : HartId} (he : s.executes h = true) : s.writes h = true := by
  unfold State.executes at he
  simp only [Bool.and_eq_true, decide_eq_true_eq] at he
  obtain ⟨⟨⟨hc, hr⟩, hi⟩, hd⟩ := he
  simp [State.writes, hc, hr, hi, hd]

/-- A hart that executes does what its command says. -/
theorem hartDoes_of_executes {s : State} {h : HartId} (he : s.executes h = true) (f) : hartDoes s h f = f (s.hart (hartIx h)) s := by
  unfold State.executes at he
  simp only [Bool.and_eq_true, decide_eq_true_eq] at he
  obtain ⟨⟨⟨hc, hr⟩, hi⟩, hd⟩ := he
  simp [hartDoes, hartIf, live, hc, hr, hi, hd]

theorem hartWrites_of_writes {s : State} {h : HartId} (hw : s.writes h = true) (f) : hartWrites s h f = f (s.hart (hartIx h)) s := by
  unfold State.writes at hw
  simp only [Bool.and_eq_true] at hw
  obtain ⟨⟨⟨hc, hr⟩, hi⟩, hd⟩ := hw
  simp only [hartWrites, hartIf, live, hc, hr, hi, hd, Bool.and_self, if_true]

/-- A hart that executes makes an access, unless its effective hue is FREE or RESETTING (R51). -/
theorem hartAccess_of_executes {s : State} {h : HartId} (he : s.executes h = true) (st : HartState → Stamp) (f) :
    hartAccess s h st f =
      if s.hueDead (st (s.hart (hartIx h)).ahead).hue then .fault .deadHue else .next (f (s.hart (hartIx h)) s) :=
  hartDoes_of_executes he _

theorem hartAccess_of_accesses {s : State} {h : HartId} {st : HartState → Stamp} (ha : s.accesses h st = true) (f) :
    hartAccess s h st f = .next (f (s.hart (hartIx h)) s) := by
  rw [hartAccess_of_executes (State.executes_of_accesses ha)]
  unfold State.accesses at ha
  simp only [Bool.and_eq_true, Bool.not_eq_true'] at ha
  rw [ha.2]; rfl

/-- An instruction that is tried at once runs alone. -/
theorem State.run_ready {s : State} {h : HartId} {op : HartOp} (hr : s.ready h op = true) :
    s.run h op = s.settled ((s.starts h op).2.issue h (s.starts h op).1).2 h :=
  congrArg (fun u => s.settled u h) (s.newOpAt_ready h op (s.hart (hartIx h)).pc hr)

/-- Nothing older than an instruction that is tried at once can raise an exception (R80). -/
theorem State.canTrap_of_ready {s : State} {h : HartId} {op : HartOp} (hr : s.ready h op = true) :
    (s.hart (hartIx h)).waiting.any Waiting.canTrap = false := by
  unfold State.ready at hr
  simp only [Bool.and_eq_true, Bool.not_eq_true'] at hr
  exact hr.2

/-- The attempt at an instruction that is tried at once ends it: the command leaves the attempt's state, counted and sampled. -/
theorem completesAt_of_done {c : Instr} {h : HartId} {op : HartOp} {s y : State} {P : State → Prop}
    (he : exec c s = .next (s.run h op)) (hr : s.ready h op = true) (hs : op.isSpec = false) (hh : op.isHint = false)
    (ht : (s.starts h op).2.attempt h (s.starts h op).1 = (.done, y)) (hP : ∀ u, y.Counted u h → P u) : CompletesAt c h s P := by
  refine ⟨y.endDone h (s.starts h op).1, ?_, hP _ (y.endDone_counted h _ (by simpa using hh))⟩
  rw [he, State.run_ready hr]
  unfold State.issue
  simp only [State.starts_op, hs, State.starts_waiting, State.canTrap_of_ready hr, Bool.or_self, Bool.false_eq_true, if_false, ht]

/-- The attempt at an instruction that is tried at once leaves it waiting. -/
theorem completesAt_of_wait {c : Instr} {h : HartId} {op : HartOp} {s y : State} {w : Waiting} {P : State → Prop}
    (he : exec c s = .next (s.run h op)) (hr : s.ready h op = true) (hs : op.isSpec = false)
    (ht : (s.starts h op).2.attempt h (s.starts h op).1 = (.wait w, y))
    (hP : ∀ z w', y.Counted z h → w'.op = w.op → P (z.park h w')) : CompletesAt c h s P := by
  refine ⟨(y.takeFlags h w).2.park h { (y.takeFlags h w).1 with tried := true }, ?_, hP _ _ (y.takeFlags_counted h w) rfl⟩
  rw [he, State.run_ready hr]
  unfold State.issue
  simp only [State.starts_op, hs, State.starts_waiting, State.canTrap_of_ready hr, Bool.or_self, Bool.false_eq_true, if_false, ht]

end Sys2Proof.Machine
end

section
/-! What the identification registers read as, and accesses under a dead hue (R35, R51). -/

namespace Sys2Proof.Machine

/-! ### The rows of accesses: each is one instruction of a hart that makes an access -/

theorem exec_load_eq (h : HartId) (a : Access) (rd : Fin 32) (z : Bool) (c : LoadClass) (s : State) : exec (.load h a rd z c) s =
    hartAccess s h (fun x => x.stamp a.hv) fun _ s => s.run h (.load a rd z c) := rfl

theorem exec_store_eq (h : HartId) (a : Access) (v : Word) (c : StoreClass) (s : State) : exec (.store h a v c) s =
    hartAccess s h (fun x => x.stamp a.hv) fun _ s => s.run h (.store a v c) := rfl

theorem exec_amo_eq (h : HartId) (a : Access) (o : AmoOp) (b c : BitVec 128) (rd : Fin 32) (s : State) : exec (.amo h a o b c rd) s =
    hartAccess s h (fun x => x.stamp) fun _ s => s.run h (.amo a o b c rd) := rfl

theorem exec_lr_eq (h : HartId) (a : Access) (rd : Fin 32) (s : State) : exec (.lr h a rd) s =
    hartAccess s h (fun x => x.stamp) fun _ s => s.run h (.lr a rd) := rfl

theorem exec_sc_eq (h : HartId) (a : Access) (v : Word) (rd : Fin 32) (s : State) : exec (.sc h a v rd) s =
    hartAccess s h (fun x => x.stamp) fun _ s => s.run h (.sc a v rd) := rfl

theorem exec_cboClean_eq (h : HartId) (a : Access) (s : State) : exec (.cboClean h a) s =
    hartAccess s h (fun x => x.stamp) fun _ s => s.run h (.cbo .clean a) := rfl

theorem exec_cboFlush_eq (h : HartId) (a : Access) (s : State) : exec (.cboFlush h a) s =
    hartAccess s h (fun x => x.stamp) fun _ s => s.run h (.cbo .flush a) := rfl

theorem exec_cboInval_eq (h : HartId) (a : Access) (s : State) : exec (.cboInval h a) s =
    hartAccess s h (fun x => x.stamp) fun _ s => s.run h (.cbo .inval a) := rfl

theorem exec_cboZero_eq (h : HartId) (a : Access) (s : State) : exec (.cboZero h a) s =
    hartAccess s h (fun x => x.stamp) fun _ s => s.run h (.zero a) := rfl

theorem exec_prefetchR_eq (h : HartId) (a : Access) (s : State) : exec (.prefetchR h a) s =
    hartAccess s h (fun x => x.stamp) fun _ s => s.run h (.hint .r a) := rfl

theorem exec_prefetchW_eq (h : HartId) (a : Access) (s : State) : exec (.prefetchW h a) s =
    hartAccess s h (fun x => x.stamp) fun _ s => s.run h (.hint .w a) := rfl

theorem exec_prefetchI_eq (h : HartId) (a : Access) (s : State) : exec (.prefetchI h a) s =
    hartAccess s h (fun x => x.stamp) fun _ s => s.run h (.hint .i a) := rfl

theorem exec_instructionFetch_eq (h : HartId) (va : Word) (p : FetchPath) (s : State) : exec (.instructionFetch h va p) s =
    hartAccess s h (fun x => x.fetchStamp) fun _ s =>
      s.settled (if p.spec then s.fetchAhead h va p.after else s.fetchHere h va p.after) h := rfl

/-- Settles O58: the read of each register is an arm of its own, which answers the constant and the state as it is. -/
theorem identificationRegistersRead : Obligations.IdentificationRegistersRead :=
  fun _ _ => ⟨rfl, rfl, rfl, rfl⟩

/-- Settles O10: every access row is one `hartAccess`, with the stamp that the statement pairs it with. -/
theorem deadHueAccessesStop : Obligations.DeadHueAccessesStop := by
  intro h a v b rd zext l k op va after s he x rows q hq
  have access : ∃ st f, exec q.1 s = hartAccess s h st f ∧ q.2 = st x := by
    simp only [rows, List.mem_cons, List.not_mem_nil, or_false] at hq
    rcases hq with rfl | rfl | rfl | rfl | rfl | rfl | rfl | rfl | rfl | rfl | rfl | rfl | rfl
    · exact ⟨_, _, exec_load_eq .., rfl⟩
    · exact ⟨_, _, exec_store_eq .., rfl⟩
    · exact ⟨_, _, exec_amo_eq .., rfl⟩
    · exact ⟨_, _, exec_lr_eq .., rfl⟩
    · exact ⟨_, _, exec_sc_eq .., rfl⟩
    · exact ⟨_, _, exec_cboClean_eq .., rfl⟩
    · exact ⟨_, _, exec_cboFlush_eq .., rfl⟩
    · exact ⟨_, _, exec_cboInval_eq .., rfl⟩
    · exact ⟨_, _, exec_cboZero_eq .., rfl⟩
    · exact ⟨_, _, exec_prefetchR_eq .., rfl⟩
    · exact ⟨_, _, exec_prefetchW_eq .., rfl⟩
    · exact ⟨_, _, exec_prefetchI_eq .., rfl⟩
    · exact ⟨_, _, exec_instructionFetch_eq .., rfl⟩
  obtain ⟨st, f, hx, hst⟩ := access
  rw [hx, hst, hartAccess_of_executes he]
  constructor
  · intro dead
    exact if_pos (by simpa [State.hueDead] using dead)
  · intro free resetting
    exact ⟨_, if_neg (by simp [State.hueDead, x, free, resetting])⟩

end Sys2Proof.Machine
end

section
/-! Loads, stores and atomic operations that complete at once (R60 to R62, R81, R126, R170 to R172). -/

namespace Sys2Proof.Machine

/-- An access row of a hart under a live hue runs its instruction. -/
theorem exec_run_of_accesses {c : Instr} {h : HartId} {op : HartOp} {s : State} {st : HartState → Stamp}
    (ha : s.accesses h st = true) (he : exec c s = hartAccess s h st fun _ s => s.run h op) :
    exec c s = .next (s.run h op) := he.trans (hartAccess_of_accesses ha _)

/-- What a retirement, counted with one more event, does not reach is as it was. -/
theorem State.Counted.get_retired {y u : State} {h : HartId} {x : HartState} {code : Nat} {st : Stamp} {α : Type}
    (a : (y.setHart (hartIx h) ((x.event code 1 st).retire st)).Counted u h) (f : HartState → α)
    (hf : ∀ x, f x.uncounted = f x := by intro; rfl) (hi : ∀ x i, f { x with accInstret := i } = f x := by intros; rfl) :
    f (u.hart (hartIx h)) = f x := by
  rw [a.get f hf, State.hart_setHart, if_pos rfl, ← hf, HartState.uncounted_retire, hf, hi, ← hf, HartState.uncounted_event, hf]

/-! ### Loads -/

section load
variable {h : HartId} {a : Access} {rd : Fin 32} {zext : Bool} {cls : LoadClass} {s s2 : State} {ps : List Part} {b : Bytes}

/-- A load that delivers its bytes in its first attempt completes with them. -/
theorem load_completes {w : Waiting} {y : State} (hs : a.spec = false) (ha : s.accesses h (·.stamp a.hv) = true)
    (hr : s.ready h (.load a rd zext cls) = true)
    (ht : (s.starts h (.load a rd zext cls)).2.tryLoad h (s.starts h (.load a rd zext cls)).1 .load a rd zext cls false =
      (.done, y.finishLoad h w a rd zext cls b)) :
    CompletesAt (.load h a rd zext cls) h s fun u => loaded y u h rd a.size zext cls b :=
  have attempt : (s.starts h (.load a rd zext cls)).2.attempt h (s.starts h (.load a rd zext cls)).1 =
      (.done, y.finishLoad h w a rd zext cls b) := by
    rw [← ht]; simp [State.attempt, HartState.may]
  completesAt_of_done (exec_run_of_accesses ha (exec_load_eq ..)) hr hs rfl attempt
    fun _ hc => ⟨hc.get_retired (·.x), hc.get_retired (·.f), hc.get_retired (·.v)⟩

section tryLoad
variable {s1 : State} {w : Waiting} {u : Use}

/-- An older store of the hart holds the bytes of a load from memory (R81). -/
theorem State.tryLoad_of_forward (hk : s.checkParts h w (loadNeed cls) u false true (parts a.va a.size) = (.ok ps, s1))
    (hio : (ps.find? fun p => p.at_.isIo || p.io) = none) (hf : (s1.hart (hartIx h)).forward a.va a.size = some b) :
    s.tryLoad h w u a rd zext cls false = (.done, s1.finishLoad h { w with parts := ps } a rd zext cls b) := by
  simp [State.tryLoad, hk, hio, hf]

variable (hk : s.checkParts h w (loadNeed cls) u false true (parts a.va a.size) = (.ok ps, s1))
  (hh : heldBack (s1.hart (hartIx h)).waiting { w with parts := ps }.lines = false)
  (hb : s1.readParts h { w with parts := ps } .data false ps = (.ok (b, false), s2))
include hk hh hb

/-- A load from memory that no store of the hart answers and no older operation holds back reads its parts. -/
theorem State.tryLoad_of_read (hio : (ps.find? fun p => p.at_.isIo || p.io) = none)
    (hf : (s1.hart (hartIx h)).forward a.va a.size = none) :
    s.tryLoad h w u a rd zext cls false = (.done, s2.finishLoad h { w with parts := ps } a rd zext cls b) := by
  simp [State.tryLoad, hk, hio, hf, hh, State.loadBytes, hb]

/-- A load through a page that Svpbmt marks IO reads memory, whatever a store holds. -/
theorem State.tryLoad_of_read_io {p : Part} (hio : (ps.find? fun p => p.at_.isIo || p.io) = some p) (hp : p.at_.isIo = false) :
    s.tryLoad h w u a rd zext cls false = (.done, s2.finishLoad h { w with parts := ps } a rd zext cls b) := by
  simp [State.tryLoad, hk, hio, hp, hh, State.loadBytes, hb]

end tryLoad

end load

/-! ### Atomic accesses -/

/-- An atomic access that passes its checks, that nothing holds back and whose line the hart owns goes on with the line. -/
theorem State.tryOwned_of_owned {s s1 s2 : State} {h : HartId} {w w2 : Waiting} {a : Access} {need : Need} {u : Use} {keyLoad : Bool}
    {act : State → Waiting → List Part → Bytes → Bool → Att × State} {ps : List Part} {lines : List Bytes} {poison : Bool}
    (hk : s.checkParts h w need u false keyLoad [(a.va, a.size)] = (.ok ps, s1))
    (hh : heldBack (s1.hart (hartIx h)).waiting { w with parts := ps }.lines = false)
    (ho : s1.ownParts h { w with parts := ps } .rdO ps = (some (lines, poison), w2, s2)) :
    s.tryOwned h w a need u keyLoad act = act s2 w2 ps (lines.headD []) poison := by
  simp [State.tryOwned, hk, hh, ho]

/-- An LR writes its register from the line that it owns, and holds a reservation on it (R170). -/
theorem State.tryLr_of_owned {s s1 s2 : State} {h : HartId} {w w2 : Waiting} {a : Access} {rd : Fin 32} {ps : List Part} {line : Bytes}
    {lines : List Bytes} (hk : s.checkParts h w .load .lr false true [(a.va, a.size)] = (.ok ps, s1))
    (hh : heldBack (s1.hart (hartIx h)).waiting { w with parts := ps }.lines = false)
    (ho : s1.ownParts h { w with parts := ps } .rdO ps = (some (line :: lines, false), w2, s2)) :
    s.tryLr h w a rd = (.done, s2.setHart (hartIx h)
      (({ (s2.hart (hartIx h)).setX rd.val (extend a.size false (leAt line (w2.pas.headD 0 % 64) a.size)) with
          resv := some { line := lineOf (w2.pas.headD 0) } }.event 0x16 1 w2.stamp).retire w2.stamp)) :=
  State.tryOwned_of_owned hk hh ho

/-- Settles O1: each clause follows `tryLoad`, or `tryLr`, to the state in which the destination is written. -/
theorem loadReadsTheBytesOfItsLine : Obligations.LoadReadsTheBytesOfItsLine := by
  constructor
  · intro h a rd zext cls s s1 ps op w hs ha hr checks io reads
    exact ⟨fun b hio hfw => load_completes hs ha hr (State.tryLoad_of_forward checks hio hfw),
      fun hio hfw b s2 hheld hread => load_completes hs ha hr (State.tryLoad_of_read checks hheld hread hio hfw),
      fun p hio hp b s2 hheld hread => load_completes hs ha hr (State.tryLoad_of_read_io checks hheld hread hio hp)⟩
  · intro h a rd s s1 s2 ps w2 line lines op w hs hal ha hr checks hheld owned
    have attempt : (s.starts h op).2.attempt h (s.starts h op).1 = (s.starts h op).2.tryLr h (s.starts h op).1 a rd := by
      simp [State.attempt, HartState.may, op, hal]
    exact completesAt_of_done (exec_run_of_accesses ha (exec_lr_eq ..)) hr hs rfl
      (attempt.trans (State.tryLr_of_owned checks hheld owned))
      fun u hc => ⟨hc.get_retired (·.x), hc.get_retired (·.resv)⟩

end Sys2Proof.Machine
end

section
/-! Stores, AMOs, SCs and CBO.ZERO that complete at once (R36, R62, R81, R126, R128, R170 to R172). -/

namespace Sys2Proof.Machine

/-! ### Registers and reservation -/

@[simp] theorem HartState.setX_resv (x : HartState) (rd : Nat) (v : Word) : (x.setX rd v).resv = x.resv := by
  unfold HartState.setX; split <;> rfl

/-- Writing an integer register does not depend on the reservation. -/
@[simp] theorem HartState.setX_x_resv (x : HartState) (r : Option Resv) (rd : Nat) (v : Word) :
    ({ x with resv := r }.setX rd v).x = (x.setX rd v).x := by
  unfold HartState.setX; split <;> rfl

/-! ### Attempts -/

section attempts
variable {s s1 s2 : State} {h : HartId} {w w2 : Waiting} {a : Access} {ps : List Part} {r : List Bytes × Bool}

/-- The checks of an instruction that is tried for the first time are made. -/
theorem State.checkOnce_first (hw : w.parts = []) (need : Need) (u : Use) (l : List (Word × Nat)) :
    s.checkOnce h w need u l = s.checkParts h w need u false false l := by
  simp [State.checkOnce, hw]

/-- A store whose checks pass, that nothing holds back and whose lines the hart owns writes its bytes (R172). -/
theorem State.tryStore_of_owned {v : Word} {cls : StoreClass} (hw : w.parts = [])
    (hk : s.checkParts h w (storeNeed cls) .store false false (parts a.va a.size) = (.ok ps, s1))
    (hio : (ps.find? fun p => p.at_.isIo) = none) (hh : heldBack (s1.hart (hartIx h)).waiting { w with parts := ps }.lines = false)
    (ho : s1.ownParts h { w with parts := ps } .rdO ps = (some r, w2, s2)) :
    let y := s2.writeParts h ps (leBytes a.size v.toNat)
    s.tryStore h w a v cls = (.done, y.setHart (hartIx h) (retireStore (y.hart (hartIx h)) w2.stamp)) := by
  simp [State.tryStore, State.checkOnce_first hw, hk, hio, hh, ho]

/-- An SC that passes its checks and that nothing holds back: without its reservation it writes 1, and no line (R36). -/
theorem State.trySc_of_lost {v : Word} {rd : Fin 32}
    (hk : s.checkParts h w .store .atomic false false [(a.va, a.size)] = (.ok ps, s1))
    (hh : heldBack (s1.hart (hartIx h)).waiting { w with parts := ps }.lines = false)
    (hr : (s1.hart (hartIx h)).resv.map (·.line) ≠ some (lineOf ({ w with parts := ps }.pas.headD 0))) :
    s.trySc h w a v rd = (.done, s1.setHart (hartIx h)
      (retireStore ({ s1.hart (hartIx h) with resv := none }.setX rd.val 1) w.stamp)) := by
  simp only [State.trySc, hk, hh, hr, Bool.false_eq_true, if_false]

/-- With its reservation, and its line owned, it writes its bytes, and 0. -/
theorem State.trySc_of_owned {v : Word} {rd : Fin 32}
    (hk : s.checkParts h w .store .atomic false false [(a.va, a.size)] = (.ok ps, s1))
    (hh : heldBack (s1.hart (hartIx h)).waiting { w with parts := ps }.lines = false)
    (hr : (s1.hart (hartIx h)).resv.map (·.line) = some (lineOf ({ w with parts := ps }.pas.headD 0)))
    (ho : s1.ownParts h { w with parts := ps } .rdO ps = (some r, w2, s2)) :
    let y := s2.writeParts h ps (leBytes a.size v.toNat)
    s.trySc h w a v rd = (.done, y.setHart (hartIx h)
      (retireStore ({ y.hart (hartIx h) with resv := none }.setX rd.val 0) w.stamp)) := by
  simp only [State.trySc, hk, hh, hr, ho, Bool.false_eq_true, if_false, if_true]

/-- Owning every line leaves the instruction as it is. -/
theorem State.ownParts_waiting {op : Op} (ho : s.ownParts h w op ps = (some r, w2, s2)) : w2 = w := by
  induction ps generalizing s r with
  | nil => unfold State.ownParts at ho; cases ho; rfl
  | cons p ps ih =>
    unfold State.ownParts at ho
    dsimp only at ho
    split at ho
    · split at ho
      · rename_i hrest; cases ho; exact ih hrest
      · exact ih ho
    · cases ho
    · cases ho

/-- A CBO.ZERO whose checks pass, that nothing holds back and whose line the hart owns writes zeros: into the line, or for NC memory
out of the caches (R126, R128). -/
theorem State.tryZero_of_owned (hw : w.parts = [])
    (hk : s.checkParts h w .store .zero false false [(BitVec.ofNat 64 (a.va.toNat / 64 * 64), 64)] = (.ok ps, s1))
    (hh : heldBack (s1.hart (hartIx h)).waiting { w with parts := ps }.lines = false)
    (hb : (ps.any fun p => p.at_ = .nc) = true → (s1.die h.die.val).wbFull = false)
    (ho : s1.ownParts h { w with parts := ps } .claimZ ps = (some r, w2, s2)) :
    let y := if ps.any fun p => p.at_ = .nc then s2.zeroNc h.die ({ w with parts := ps }.lines.headD 0) w.stamp.hue
      else s2.writeParts h ps zeroLine
    s.tryZero h w a = (.done, y.setHart (hartIx h) (retireStore (y.hart (hartIx h)) w.stamp)) := by
  obtain rfl := State.ownParts_waiting ho
  have hn : ((ps.any fun p => p.at_ = .nc) && (s1.die h.die.val).wbFull) = false := by
    cases hc : ps.any fun p => p.at_ = .nc
    · rfl
    · exact hb hc
  simp only [State.tryZero, State.checkOnce_first hw, hk, hh, hn, ho, Bool.or_self, Bool.false_eq_true, if_false]

end attempts

/-! ### The statement -/

/-- The store buffer with one more entry of a speculative store. -/
def State.bufferStore (s : State) (h : HartId) (p : SpecStore) : State :=
  s.setHart (hartIx h) { s.hart (hartIx h) with specStores := (s.hart (hartIx h)).specStores ++ [p] }

/-- A speculative store enters the store buffer and is done: it stays in the window until it is no longer speculative (R81, R82). -/
theorem State.issue_specStore {y : State} {h : HartId} {w : Waiting} {a : Access} {v : Word} {cls : StoreClass}
    (hw : w.op = .store a v cls) (hs : a.spec = true) :
    let r := (y.bufferStore h { va := a.va, size := a.size, value := v, branch := w.stamp.branch }).takeFlags h w
    (y.issue h w).2 = r.2.specEnd h r.1 [] := by
  have spec : w.op.isSpec = true := by rw [hw]; exact hs
  have glimpse : y.glimpse h w = (.done, y.bufferStore h { va := a.va, size := a.size, value := v, branch := w.stamp.branch }) := by
    simp only [State.glimpse, hw, hs, if_true]; rfl
  have kept (z : State) : (z.takeFlags h w).1.op.isSpec = true := spec
  simp only [State.issue, spec, Bool.true_or, if_true, State.issueSpec, glimpse, kept, Bool.not_true, Bool.false_eq_true, if_false]

/-- A speculative store that is tried at once completes with its entry in the store buffer, and no other register, cache or message
changed (R82). -/
theorem specStore_completes {h : HartId} {a : Access} {v : Word} {cls : StoreClass} {s : State} (hs : a.spec = true)
    (ha : s.accesses h (·.stamp a.hv) = true) (hr : s.ready h (.store a v cls) = true) :
    CompletesAt (.store h a v cls) h s fun u => cachesOf s u h ∧ u.fab.net = s.fab.net ∧
      (u.hart (hartIx h)).specStores = (s.hart (hartIx h)).specStores ++
        [{ va := a.va, size := a.size, value := v, branch := (s.hart (hartIx h)).branches }] := by
  refine ⟨_, (exec_run_of_accesses ha (exec_store_eq ..)).trans (congrArg _ (State.run_ready hr)), ?_⟩
  rw [State.issue_specStore (s.starts_op h (.store a v cls)) hs, s.starts_branch]
  have hc := State.takeFlags_counted ((s.starts h (.store a v cls)).2.bufferStore h
    { va := a.va, size := a.size, value := v, branch := (s.hart (hartIx h)).branches }) h (s.starts h (.store a v cls)).1
  generalize State.takeFlags _ h _ = r at hc
  have cores := hc.cores
  have dies := hc.dies
  have net := hc.net
  have regs := hc.get (·.x)
  have stores := hc.get (·.specStores)
  have ran := s.starts_get h (.store a v cls) (·.x)
  simp only [State.bufferStore, State.hart_setHart, if_true, State.setHart_fab_cores, State.setHart_fab_dies, State.setHart_fab_net,
    s.starts_cores, s.starts_dies, s.starts_net, s.starts_specStores h (.store a v cls) hs, ran] at cores dies net regs stores
  unfold State.specEnd cachesOf
  split
  · exact ⟨⟨cores, dies, regs⟩, net, stores⟩
  · exact ⟨⟨cores, dies, by simpa using regs⟩, net, by simpa using stores⟩

/-- Settles O2: each clause follows the attempt to the state in which the lines are written, and the instruction then ends. -/
theorem storeWritesItsBytesIntoAnOwnedLine : Obligations.StoreWritesItsBytesIntoAnOwnedLine := by
  refine ⟨fun h a v cls s hs ha hr => specStore_completes hs ha hr, ?_, ?_, ?_, ?_⟩
  · intro h a v cls s s1 s2 ps r w2 op w hs ha hr checks hio hheld owned
    have attempt : (s.starts h op).2.attempt h (s.starts h op).1 = (s.starts h op).2.tryStore h (s.starts h op).1 a v cls := by
      simp [State.attempt, HartState.may, op]
    exact completesAt_of_done (exec_run_of_accesses ha (exec_store_eq ..)) hr hs rfl
      (attempt.trans (State.tryStore_of_owned (s.starts_parts h op) checks hio hheld owned))
      fun u hc => ⟨hc.cores, hc.dies, hc.get_retired (·.x)⟩
  · intro h a o b c rd s s1 s2 ps line lines w2 op w hs hal ha hr checks hheld owned
    have attempt : (s.starts h op).2.attempt h (s.starts h op).1 = (s.starts h op).2.tryAmo h (s.starts h op).1 a o b c rd := by
      simp [State.attempt, HartState.may, op, hal]
    exact completesAt_of_done (exec_run_of_accesses ha (exec_amo_eq ..)) hr hs rfl
      (attempt.trans (State.tryOwned_of_owned checks hheld owned))
      fun u hc => ⟨hc.cores, hc.dies, hc.get_retired (·.x)⟩
  · intro h a v rd s s1 ps op w hs hal ha hr checks hheld
    have attempt : (s.starts h op).2.attempt h (s.starts h op).1 = (s.starts h op).2.trySc h (s.starts h op).1 a v rd := by
      simp [State.attempt, HartState.may, op, hal]
    constructor
    · intro lost
      exact completesAt_of_done (exec_run_of_accesses ha (exec_sc_eq ..)) hr hs rfl
        (attempt.trans (State.trySc_of_lost checks hheld lost))
        fun u hc => ⟨hc.cores, hc.dies, (hc.get_retired (·.x)).trans (HartState.setX_x_resv ..),
          (hc.get_retired (·.resv)).trans (HartState.setX_resv ..)⟩
    · intro r w2 s2 stands owned
      exact completesAt_of_done (exec_run_of_accesses ha (exec_sc_eq ..)) hr hs rfl
        (attempt.trans (State.trySc_of_owned checks hheld stands owned))
        fun u hc => ⟨hc.cores, hc.dies, (hc.get_retired (·.x)).trans (HartState.setX_x_resv ..),
          (hc.get_retired (·.resv)).trans (HartState.setX_resv ..)⟩
  · intro h a s s1 s2 ps r w2 op w nc hs ha hr hm checks hheld room owned
    have attempt : (s.starts h op).2.attempt h (s.starts h op).1 = (s.starts h op).2.tryZero h (s.starts h op).1 a := by
      simp [State.attempt, show HartState.may _ op = .yes from hm, op]
    exact completesAt_of_done (exec_run_of_accesses ha (exec_cboZero_eq ..)) hr hs rfl
      (attempt.trans (State.tryZero_of_owned (s.starts_parts h op) checks hheld room owned))
      fun u hc => ⟨hc.cores, hc.dies, hc.get_retired (·.x)⟩

end Sys2Proof.Machine
end

section
/-! Fences (R99 to R102, R107, R127, R37, R58). -/

namespace Sys2Proof.Machine

/-! ### The rows -/

theorem exec_fence_eq (h : HartId) (s : State) : exec (.fence h) s =
    hartDoes s h fun _ s => .next (s.run h .fence) := rfl

theorem exec_fenceI_eq (h : HartId) (s : State) : exec (.fenceI h) s =
    hartDoes s h fun _ s => .next (s.run h .fenceI) := rfl

theorem exec_sfenceVma_eq (h : HartId) (f : FenceArgs) (s : State) : exec (.sfenceVma h f) s =
    hartDoes s h fun _ s => .next (s.run h (.sfence f)) := rfl

theorem exec_hfenceVvma_eq (h : HartId) (f : FenceArgs) (s : State) : exec (.hfenceVvma h f) s =
    hartDoes s h fun _ s => .next (s.run h (.hfenceV f)) := rfl

theorem exec_hfenceGvma_eq (h : HartId) (f : FenceArgs) (s : State) : exec (.hfenceGvma h f) s =
    hartDoes s h fun _ s => .next (s.run h (.hfenceG f)) := rfl

theorem exec_sinvalVma_eq (h : HartId) (k : InvalKind) (f : FenceArgs) (s : State) : exec (.sinvalVma h k f) s =
    hartDoes s h fun _ s => .next (s.run h (.sinval k f)) := rfl

theorem exec_sfenceWInval_eq (h : HartId) (s : State) : exec (.sfenceWInval h) s =
    hartDoes s h fun _ s => .next (s.run h .wInval) := rfl

theorem exec_sfenceInvalIr_eq (h : HartId) (s : State) : exec (.sfenceInvalIr h) s =
    hartDoes s h fun _ s => .next (s.run h .invalIr) := rfl

/-- A row of a hart that executes runs its instruction. -/
theorem exec_run_of_executes {c : Instr} {h : HartId} {op : HartOp} {s : State} (hx : s.executes h = true)
    (he : exec c s = hartDoes s h fun _ s => .next (s.run h op)) : exec c s = .next (s.run h op) :=
  he.trans (hartDoes_of_executes hx _)

theorem State.may_of_allows {s : State} {h : HartId} {op : HartOp} (ha : s.allows h op) :
    ((s.starts h op).2.hart (hartIx h)).may op = .yes := ha

/-- The state after a retirement of a hart, but for its counters. -/
def State.retired (s : State) (h : HartId) : State :=
  s.setHart (hartIx h) { s.hart (hartIx h) with accInstret := (s.hart (hartIx h)).instret }

@[simp] theorem State.hart_retired (s : State) (h : HartId) : (s.retired h).hart (hartIx h) =
    { s.hart (hartIx h) with accInstret := (s.hart (hartIx h)).instret } := by simp [State.retired]

@[simp] theorem State.retired_cores (s : State) (h : HartId) : (s.retired h).fab.cores = s.fab.cores := rfl
@[simp] theorem State.retired_core (s : State) (h : HartId) (i : Nat) : (s.retired h).core i = s.core i := rfl
@[simp] theorem State.retired_dies (s : State) (h : HartId) : (s.retired h).fab.dies = s.fab.dies := rfl
@[simp] theorem State.retired_net (s : State) (h : HartId) : (s.retired h).fab.net = s.fab.net := rfl

theorem State.retired_counted (s : State) (h : HartId) (st : Stamp) :
    (s.retired h).Counted (s.setHart (hartIx h) ((s.hart (hartIx h)).retire st)) h :=
  (State.Counted.refl s h).setHart _ _ (by simp)

/-- A fence that waits for no older operation acts and completes (R101, R127). -/
theorem fence_completes {c : Instr} {h : HartId} {op : HartOp} {s : State} {act : State → State} {P : State → Prop}
    (hx : s.executes h = true) (he : exec c s = hartDoes s h fun _ s => .next (s.run h op)) (hr : s.ready h op = true)
    (hd : s.drained h = true) (hs : op.isSpec = false) (hh : op.isHint = false)
    (ht : (s.starts h op).2.attempt h (s.starts h op).1 = (s.starts h op).2.tryFence h (s.starts h op).1 act)
    (hP : ∀ u, ((act (s.starts h op).2).retired h).Counted u h → P u) : CompletesAt c h s P := by
  have none : ((s.starts h op).2.hart (hartIx h)).noneOlder = true := (s.starts_get h op (·.noneOlder)).trans hd
  exact completesAt_of_done (exec_run_of_executes hx he) hr hs hh
    (ht.trans (by simp only [State.tryFence, none, Bool.not_true, Bool.false_eq_true, if_false]; rfl))
    fun u hc => hP u ((State.retired_counted ..).trans hc)

/-! ### What a fence removes -/

/-- No translation is left that `p` names in a state with the TLBs of one in which none is. -/
theorem noEntry_congr {s t : State} {h : HartId} {p : TlbEntry → Bool} (hs : noEntry s h p)
    (hi : (t.hart (hartIx h)).itlb = (s.hart (hartIx h)).itlb) (hd : (t.hart (hartIx h)).dtlb = (s.hart (hartIx h)).dtlb)
    (hc : t.core (coreIx h) = s.core (coreIx h)) : noEntry t h p := by
  unfold noEntry
  rw [hi, hd, hc]
  exact hs

/-- The walks of a core's harts that have not ended begin again (R107). -/
def State.restartWalks (s : State) (c : CoreId) : State :=
  s.forEach (hartsOf c) fun s g =>
    let x := s.hart (hartIx g)
    if x.walk.any (·.fault.isNone) then s.setHart (hartIx g) { x with walk := none } else s

/-- No core changes, and no hart but in its walk. -/
theorem State.restartWalks_only (s : State) (c : CoreId) (i : Nat) :
    (s.restartWalks c).fab.cores = s.fab.cores ∧ ∃ w, (s.restartWalks c).hart i = { s.hart i with walk := w } := by
  refine State.forEach_keeps (fun t => t.fab.cores = s.fab.cores ∧ ∃ w, t.hart i = { s.hart i with walk := w })
    (fun t g _ ht => ?_) ⟨rfl, _, rfl⟩
  obtain ⟨hc, w, hw⟩ := ht
  dsimp only
  split
  · refine ⟨hc, ?_⟩
    by_cases e : i = hartIx g
    · subst e; exact ⟨none, by simp [hw]⟩
    · exact ⟨w, by simp [e, hw]⟩
  · exact ⟨hc, w, hw⟩

/-- A fence drops entries of the TLBs, restarts the core's walks, and drops entries of the walk caches. -/
theorem State.invalidate_eq (s : State) (h : HartId) (q : FenceSel) :
    let t := (s.dropTlb h q.tlb).restartWalks ⟨h.die, h.core⟩
    let c := t.core (coreIx h)
    s.invalidate h q =
      t.setCore (coreIx h) { c with s1Cache := c.s1Cache.filter (!q.s1 ·), gCache := c.gCache.filter (!q.g ·) } := rfl

/-- A fence changes nothing of the hart but its TLBs and its walk. -/
theorem State.invalidate_hart (s : State) (h : HartId) (q : FenceSel) : ∃ w, (s.invalidate h q).hart (hartIx h) =
    { s.hart (hartIx h) with itlb := (s.hart (hartIx h)).itlb.filter (!q.tlb ·), dtlb := (s.hart (hartIx h)).dtlb.filter (!q.tlb ·),
                             walk := w } := by
  obtain ⟨-, w, hw⟩ := (s.dropTlb h q.tlb).restartWalks_only ⟨h.die, h.core⟩ (hartIx h)
  refine ⟨w, ?_⟩
  rw [State.invalidate_eq, State.setCore_hart, hw]
  simp [State.dropTlb]

/-- Of the core's L2 TLB it leaves what it does not name. -/
theorem State.invalidate_l2tlb (s : State) (h : HartId) (q : FenceSel) :
    ((s.invalidate h q).core (coreIx h)).l2tlb = (s.core (coreIx h)).l2tlb.filter (!q.tlb ·) ∧
    ((s.invalidate h q).core (coreIx h)).l2tlbLarge = (s.core (coreIx h)).l2tlbLarge.filter (!q.tlb ·) := by
  obtain ⟨hc, -⟩ := (s.dropTlb h q.tlb).restartWalks_only ⟨h.die, h.core⟩ (hartIx h)
  have core : ((s.dropTlb h q.tlb).restartWalks ⟨h.die, h.core⟩).core (coreIx h) = (s.dropTlb h q.tlb).core (coreIx h) := by
    simp only [State.core, hc]
  rw [State.invalidate_eq, State.core_setCore, if_pos rfl, core]
  simp [State.dropTlb]

/-- After a fence an entry is left when it was there before and the fence does not name it. -/
theorem noEntry_invalidate_iff (s : State) (h : HartId) (q : FenceSel) (p : TlbEntry → Bool) :
    noEntry (s.invalidate h q) h p ↔ noEntry s h fun e => !q.tlb e && p e := by
  obtain ⟨w, hw⟩ := s.invalidate_hart h q
  obtain ⟨hs, hl⟩ := s.invalidate_l2tlb h q
  simp only [noEntry, hw, hs, hl, ← List.filter_append, List.mem_filter]
  grind

/-- A fence leaves nothing that it names. -/
theorem noEntry_invalidate_self (s : State) (h : HartId) (q : FenceSel) : noEntry (s.invalidate h q) h q.tlb :=
  (noEntry_invalidate_iff ..).2 ⟨fun _ _ => Bool.not_and_self _, fun _ _ => Bool.not_and_self _⟩

/-- It brings nothing back. -/
theorem noEntry_invalidate {s : State} {h : HartId} {p : TlbEntry → Bool} (hs : noEntry s h p) (q : FenceSel) :
    noEntry (s.invalidate h q) h p :=
  (noEntry_invalidate_iff ..).2 ⟨fun e he => by simp [hs.1 e he], fun e he => by simp [hs.2 e he]⟩

/-! ### Invalidations that wait for their order (R102) -/

/-- The pending invalidations, applied: the TLBs and the walk change, and none is pending. -/
theorem State.applySinvals_hart (s : State) (h : HartId) : ∃ a b w, (s.applySinvals h).hart (hartIx h) =
    { s.hart (hartIx h) with itlb := a, dtlb := b, walk := w, sinvals := [] } := by
  obtain ⟨a, b, w, e⟩ := State.forEach_keeps (fun t => ∃ a b w, t.hart (hartIx h) =
      { s.hart (hartIx h) with itlb := a, dtlb := b, walk := w }) (l := (s.hart (hartIx h)).sinvals)
    (f := fun s q => s.invalidate h q.sel)
    (fun t q _ ⟨_, _, _, e⟩ => by obtain ⟨w, e'⟩ := t.invalidate_hart h q.sel; exact ⟨_, _, w, by rw [e', e]⟩) ⟨_, _, _, rfl⟩
  exact ⟨a, b, w, by simp only [State.applySinvals, State.hart_setHart, if_true, e]⟩

/-- No translation is left that a pending invalidation names. -/
theorem noEntry_applySinvals (s : State) (h : HartId) {q : Sinval} (hq : q ∈ (s.hart (hartIx h)).sinvals) :
    noEntry (s.applySinvals h) h q.sel.tlb := by
  have each := State.forEach_of_mem (noEntry · h q.sel.tlb) (f := fun s (p : Sinval) => s.invalidate h p.sel)
    (fun _ p ht => noEntry_invalidate ht p.sel) (fun t => noEntry_invalidate_self t h q.sel) hq s
  exact noEntry_congr each (by simp [State.applySinvals]) (by simp [State.applySinvals]) (by simp [State.applySinvals])

/-! ### What each fence does -/

/-- A retirement, counted, leaves the translations as they are. -/
theorem noEntry_retired {s u : State} {h : HartId} {p : TlbEntry → Bool} (hs : noEntry s h p) (hc : (s.retired h).Counted u h) :
    noEntry u h p :=
  noEntry_congr hs ((hc.get (·.itlb)).trans (by simp)) ((hc.get (·.dtlb)).trans (by simp)) ((hc.core _).trans (by simp))

section acts
variable (s : State) (h : HartId) (f : FenceArgs)

/-- The context of an SFENCE.VMA does not depend on what is pending. -/
theorem State.applySinvals_context : ((s.applySinvals h).hart (hartIx h)).virt = (s.hart (hartIx h)).virt ∧
    ((s.applySinvals h).hart (hartIx h)).sfenceVmid = (s.hart (hartIx h)).sfenceVmid ∧
    ((s.applySinvals h).hart (hartIx h)).vmidNow = (s.hart (hartIx h)).vmidNow := by
  obtain ⟨a, b, w, e⟩ := s.applySinvals_hart h
  rw [e]; exact ⟨rfl, rfl, rfl⟩

theorem State.winval_instret : ((s.winval h).hart (hartIx h)).instret = (s.hart (hartIx h)).instret := by
  rw [State.winval, State.hart_setHart, if_pos rfl]; rfl

theorem State.sfence_noEntry : noEntry (s.sfence h f) h (fenceStage1 (s.hart (hartIx h)).sfenceVmid f).tlb := by
  have gone := noEntry_invalidate_self (s.applySinvals h) h (fenceStage1 (s.hart (hartIx h)).sfenceVmid f)
  unfold State.sfence
  simp only [(s.applySinvals_context h).2.1]
  split
  · exact noEntry_congr gone (by simp) (by simp) (by simp)
  · exact gone

/-- With no operands at V = 0 it ends the mixture of a change of KE (R58). -/
theorem State.sfence_keMix (ha : fenceAll f = true) (hv : (s.hart (hartIx h)).virt = false) :
    ((s.sfence h f).hart (hartIx h)).keMix = false := by
  simp [State.sfence, (s.applySinvals_context h).1, ha, hv]

theorem State.hfenceV_noEntry : noEntry (s.hfenceV h f) h (fenceStage1 (some (s.hart (hartIx h)).vmidNow) f).tlb := by
  have gone := noEntry_invalidate_self (s.applySinvals h) h (fenceStage1 (some (s.hart (hartIx h)).vmidNow) f)
  unfold State.hfenceV
  simp only [(s.applySinvals_context h).2.2]
  split
  · exact noEntry_congr gone (by simp) (by simp) (by simp)
  · exact gone

/-- With no operands it ends the mixture of a change of VKE (R58). -/
theorem State.hfenceV_vkeMix (ha : fenceAll f = true) : ((s.hfenceV h f).hart (hartIx h)).vkeMix = false := by
  simp [State.hfenceV, ha]

/-- The end of an SINVAL sequence leaves none pending, and no translation that one named (R102). -/
theorem State.sinvalEnd_ends : ((s.sinvalEnd h).hart (hartIx h)).sinvals = [] ∧ ((s.sinvalEnd h).hart (hartIx h)).wInval = false ∧
    ∀ q ∈ (s.hart (hartIx h)).sinvals, noEntry (s.sinvalEnd h) h q.sel.tlb := by
  obtain ⟨a, b, w, e⟩ := s.applySinvals_hart h
  refine ⟨by simp [State.sinvalEnd, e], by simp [State.sinvalEnd], fun q hq => ?_⟩
  exact noEntry_congr (noEntry_applySinvals s h hq) (by simp [State.sinvalEnd]) (by simp [State.sinvalEnd]) (by simp [State.sinvalEnd])

/-- FENCE.I leaves no line of the L1 instruction cache, nor a record of one in the L2 (R127). -/
theorem State.syncFetch_core : ((s.syncFetch h).core (coreIx h)).l1i = [] ∧
    ((s.syncFetch h).core (coreIx h)).l1d = (s.core (coreIx h)).l1d ∧ ∀ e ∈ ((s.syncFetch h).core (coreIx h)).l2, e.2.ixI = none := by
  simp only [State.syncFetch, State.core_setCore, if_true, List.mem_map, true_and]
  rintro e ⟨l, -, rfl⟩
  dsimp only
  split
  · assumption
  · rfl

end acts

/-! ### The statement -/

/-- Settles O3: each fence that is tried at once acts on the state in which it was dispatched and ends there, an SINVAL whether or not
older operations wait, and a FENCE before which one waits joins the waiting ones. -/
theorem fencesDrainAndInvalidate : Obligations.FencesDrainAndInvalidate := by
  intro h f s hx x may
  refine ⟨fun hd => ⟨fun hm => ?fence, fun hm => ?wInval, fun hm => ?fenceI, fun hm => ?sfence, fun hm => ?hfenceV, fun hm => ?hfenceG,
    fun hm => ?invalIr⟩, fun k hm => ?sinval, fun hd hr => ?waits⟩
  case fence =>
    refine fence_completes (act := id) hx (exec_fence_eq ..) hm.1 hd rfl rfl (by simp [State.attempt, HartState.may]) fun u hc => ?_
    exact ⟨hc.cores.trans (by simp), hc.dies.trans (by simp), hc.net.trans (by simp), (hc.get (·.accInstret)).trans (by simp [x])⟩
  case wInval =>
    refine fence_completes (act := fun s => s.winval h) hx (exec_sfenceWInval_eq ..) hm.1 hd rfl rfl
      (by simp [State.attempt, State.may_of_allows hm.2]) fun u hc => ?_
    exact ⟨hc.cores.trans (by simp [State.winval]), hc.dies.trans (by simp [State.winval]),
      (hc.get (·.wInval)).trans (by simp [State.winval]), (hc.get (·.accInstret)).trans (by simpa using State.winval_instret ..)⟩
  case fenceI =>
    refine fence_completes (act := fun s => s.syncFetch h) hx (exec_fenceI_eq ..) hm.1 hd rfl rfl
      (by simp [State.attempt, HartState.may]) fun u hc => ?_
    obtain ⟨l1i, l1d, l2⟩ := (s.starts h .fenceI).2.syncFetch_core h
    rw [hc.core, State.retired_core]
    exact ⟨l1i, hc.dies.trans (by simp [State.syncFetch]), l1d.trans (by simp), l2⟩
  case sfence =>
    refine fence_completes (act := fun s => s.sfence h f) hx (exec_sfenceVma_eq ..) hm.1 hd rfl rfl
      (by simp [State.attempt, State.may_of_allows hm.2]) fun u hc => ?_
    exact ⟨noEntry_retired (State.sfence_noEntry ..) hc,
      fun ha hv => (hc.get (·.keMix)).trans (by simpa using State.sfence_keMix _ h f ha hv)⟩
  case hfenceV =>
    refine fence_completes (act := fun s => s.hfenceV h f) hx (exec_hfenceVvma_eq ..) hm.1 hd rfl rfl
      (by simp [State.attempt, State.may_of_allows hm.2]) fun u hc => ?_
    exact ⟨noEntry_retired (State.hfenceV_noEntry ..) hc,
      fun ha => (hc.get (·.vkeMix)).trans (by simpa using State.hfenceV_vkeMix _ h f ha)⟩
  case hfenceG =>
    refine fence_completes (act := fun s => s.hfenceG h f) hx (exec_hfenceGvma_eq ..) hm.1 hd rfl rfl
      (by simp [State.attempt, State.may_of_allows hm.2]) fun u hc => ?_
    exact noEntry_retired (noEntry_invalidate_self ..) hc
  case invalIr =>
    refine fence_completes (act := fun s => s.sinvalEnd h) hx (exec_sfenceInvalIr_eq ..) hm.1 hd rfl rfl
      (by simp [State.attempt, State.may_of_allows hm.2]) fun u hc => ?_
    obtain ⟨none, ended, gone⟩ := (s.starts h .invalIr).2.sinvalEnd_ends h
    exact ⟨(hc.get (·.sinvals)).trans (by simpa using none), (hc.get (·.wInval)).trans (by simpa using ended),
      fun q hq => noEntry_retired (gone q hq) hc⟩
  case sinval =>
    have attempt : (s.starts h (.sinval k f)).2.attempt h (s.starts h (.sinval k f)).1 =
        (s.starts h (.sinval k f)).2.trySinval h (s.starts h (.sinval k f)).1 k f := by
      simp [State.attempt, State.may_of_allows hm.2]
    refine completesAt_of_done (exec_run_of_executes hx (exec_sinvalVma_eq ..)) hm.1 rfl rfl attempt fun u hc => ?_
    have hc := ((State.Counted.refl _ h).setHart _ _ (HartState.uncounted_retire ..)).trans hc
    refine ⟨(hc.get (·.sinvals)).trans ?_, hc.cores.trans (by simp), (hc.get (·.dtlb)).trans ?_⟩
    · simpa [x] using s.starts_get h _ (·.sinvals)
    · simpa using s.starts_get h _ (·.dtlb)
  case waits =>
    have attempt : (s.starts h .fence).2.attempt h (s.starts h .fence).1 = (.wait (s.starts h .fence).1, (s.starts h .fence).2) := by
      have older : ((s.starts h .fence).2.hart (hartIx h)).noneOlder = false := (s.starts_get h _ (·.noneOlder)).trans hd
      simp [State.attempt, HartState.may, State.tryFence, older]
    refine completesAt_of_wait (exec_run_of_executes hx (exec_fence_eq ..)) hr rfl attempt fun z w hc hw => ?_
    refine ⟨hc.cores.trans (by simp), w, ?_, hw.trans (by simp)⟩
    simp [State.park, hc.get (·.waiting)]

end Sys2Proof.Machine
end

section
/-! Writes of cqzcachectl (R54, R55). -/

namespace Sys2Proof.Machine

/-! ### The rows -/

theorem exec_registerWrite_cachectl_eq (h : HartId) (v : Word) (s : State) : exec (.registerWrite (.csr h 0x5C2 v)) s =
    hartWrites s h fun _ s => .next (s.run h (.csr 0x5C2 v)) := rfl

theorem exec_flushL1i_eq (h : HartId) (v : Word) (s : State) : exec (.flushL1i h v) s =
    hartWrites s h fun _ s => .next (s.run h (.csr 0x5C2 (v ||| 0x10))) := rfl

theorem exec_flushL1d_eq (h : HartId) (v : Word) (s : State) : exec (.flushL1d h v) s =
    hartWrites s h fun _ s => .next (s.run h (.csr 0x5C2 (v ||| 0x20))) := rfl

theorem exec_flushL2_eq (h : HartId) (v : Word) (s : State) : exec (.flushL2 h v) s =
    hartWrites s h fun _ s => .next (s.run h (.csr 0x5C2 (v ||| 0x40))) := rfl

/-! ### The write -/

/-- The core after a write of cqzcachectl: the widest flush named starts, unless one runs. -/
theorem State.cacheWrite_core (s : State) (h : HartId) (v : Word) :
    s.cacheWrite h v = s.setCore (coreIx h) (afterCachectl (s.core (coreIx h)) v) := by
  unfold State.cacheWrite State.cacheCtl widestFlush afterCachectl
  cases hf : (s.core (coreIx h)).flushing with
  | some k => simp [hf]
  | none =>
    cases bit v 6 <;> cases bit v 5 <;> cases bit v 4 <;> simp [hf]

/-- The attempt at a write of cqzcachectl retires it and writes the core's register. -/
theorem State.attempt_cachectl {s : State} {h : HartId} {v : Word} (ha : s.allows h (.csr 0x5C2 v)) :
    (s.starts h (.csr 0x5C2 v)).2.attempt h (s.starts h (.csr 0x5C2 v)).1 =
      (.done, ((s.starts h (.csr 0x5C2 v)).2.setHart (hartIx h)
        (((s.starts h (.csr 0x5C2 v)).2.hart (hartIx h)).retire (s.starts h (.csr 0x5C2 v)).1.stamp)).setCore (coreIx h)
          (afterCachectl (s.core (coreIx h)) v)) := by
  simp [State.attempt, State.may_of_allows ha, State.csrWrite, State.cacheWrite_core]

/-- A write of cqzcachectl that is tried at once does to the core what its bits say, and nothing to another core or hart, or to
memory. -/
theorem cachectlWrite_completes {c : Instr} {h : HartId} {v : Word} {s : State}
    (he : exec c s = .next (s.run h (.csr 0x5C2 v))) (hr : s.ready h (.csr 0x5C2 v) = true) (ha : s.allows h (.csr 0x5C2 v)) :
    CompletesAt c h s fun t => t.core (coreIx h) = afterCachectl (s.core (coreIx h)) v ∧
      (∀ i, i ≠ coreIx h → t.core i = s.core i) ∧ (∀ i, i ≠ hartIx h → t.hart i = s.hart i) ∧ t.mem = s.mem := by
  refine completesAt_of_done he hr rfl rfl (State.attempt_cachectl ha) fun u hc => ⟨?_, fun i hi => ?_, fun i hi => ?_, ?_⟩
  · rw [hc.core]; simp
  · rw [hc.core]; simp [hi]
  · rw [hc.others i hi]; simpa [hi] using s.starts_others h _ i hi
  · exact hc.mem.trans (by simp)

/-- Settles O60: the four rows are one write, of the value with the bit of the row's own flush set. -/
theorem flushWritesStartTheWidestFlush : Obligations.FlushWritesStartTheWidestFlush := by
  intro h v s hx may does
  have row {c : Instr} {w : Word} (he : exec c s = hartWrites s h fun _ s => .next (s.run h (.csr 0x5C2 w))) (hm : may w) :
      CompletesAt c h s (does w) :=
    cachectlWrite_completes (he.trans (hartWrites_of_writes (State.writes_of_executes hx) _)) hm.1 hm.2
  exact ⟨row (exec_registerWrite_cachectl_eq ..), row (exec_flushL1i_eq ..), row (exec_flushL1d_eq ..), row (exec_flushL2_eq ..)⟩

end Sys2Proof.Machine
end

section
/-! The end of a clearing of a core's predictor (R52, R53, R76, R78, R79). -/

namespace Sys2Proof.Machine

/-! ### Sending counts -/

theorem State.charge_fab (s : State) (hue : BitVec 12) (n k : Nat) (p : Option Nat) : (s.charge hue n k p).fab = s.fab := by
  unfold State.charge
  split <;> rfl

/-- The hart with nothing accumulated since its last send. -/
def HartState.sent (x : HartState) : HartState := { x with accCycles := 0, accInstret := 0, accSteady := 0 }

/-- A send of counts changes of harts and cores the hart's accumulators alone (R287). -/
theorem State.meterSend_fab (s : State) (h : HartId) (hue : BitVec 12) :
    (s.meterSend h hue).fab = (s.setHart (hartIx h) (s.hart (hartIx h)).sent).fab := by
  unfold State.meterSend
  cases (s.hart (hartIx h)).active <;>
    simp only [State.takeNat, State.setHart, State.charge_fab, Bool.false_eq_true, if_false, if_true]
  all_goals rfl

theorem State.meterSend_cores (s : State) (h : HartId) (hue : BitVec 12) : (s.meterSend h hue).fab.cores = s.fab.cores := by
  rw [s.meterSend_fab]; rfl

theorem State.meterSend_hart (s : State) (h : HartId) (hue : BitVec 12) :
    (s.meterSend h hue).hart (hartIx h) = (s.hart (hartIx h)).sent := by
  unfold State.hart
  rw [s.meterSend_fab]
  exact (s.hart_setHart ..).trans (if_pos rfl)

/-! ### A hart at rest -/

theorem State.advance_of_front (s : State) (h : HartId) (hf : (s.hart (hartIx h)).front = []) : s.advance h = s := by
  simp [State.advance, hf, State.drain]

theorem State.ctlHart_of_ctl (s : State) (h : HartId) (hc : (s.hart (hartIx h)).ctl = none) : s.ctlHart h = s := by
  simp [State.ctlHart, hc]

/-- Trying again the operations of a hart for which nothing waits does nothing. -/
theorem State.retryHart_quiet (s : State) (h : HartId) (hq : (s.hart (hartIx h)).quiet) :
    s.retryHart h = s.setHart (hartIx h) { s.hart (hartIx h) with waiting := [] } := by
  obtain ⟨hw, hf, hc, hk⟩ := hq
  simp only [State.retryHart, hw, State.issueAll, State.hart_setHart, if_true, hk, Bool.false_eq_true, if_false]
  rw [State.advance_of_front _ _ (by simp [hf]), State.ctlHart_of_ctl _ _ (by simp [hc])]

/-! ### A write of OFF (R76) -/

theorem State.squash_counted (s : State) (h : HartId) :
    (s.setHart (hartIx h) (s.hart (hartIx h)).withoutSpec).Counted (s.squash h) h := State.squashed_counted ..

theorem State.bpOffWrite_cores (s : State) (h : HartId) (v : Word) : (s.bpOffWrite h v).fab.cores = s.fab.cores := by
  rw [State.bpOffWrite, State.setHart_fab_cores, State.meterSend_cores]
  exact (s.squash_counted h).cores

/-- The hart after a write of OFF has sent its counts (R76, R287). -/
def HartState.putOff (x : HartState) (v : Word) : HartState := { x.sent with cqzbpctl := putFld 0 0 1 (fld v 0 1) }

theorem HartState.uncounted_putOff {x y : HartState} (e : x.uncounted = y.uncounted) (v : Word) :
    (x.putOff v).uncounted = (y.putOff v).uncounted := congrArg (fun z => z.putOff v) e

/-- A write of OFF discards the hart's speculative instructions and sends its counts; else it changes OFF alone. -/
theorem State.bpOffWrite_hart (s : State) (h : HartId) (v : Word) : ((s.bpOffWrite h v).hart (hartIx h)).uncounted =
    ((s.hart (hartIx h)).withoutSpec.putOff v).uncounted := by
  have e := (s.squash_counted h).hart
  rw [State.hart_setHart, if_pos rfl] at e
  rw [State.bpOffWrite, State.hart_setHart, if_pos rfl, State.meterSend_hart]
  exact HartState.uncounted_putOff e v

/-! ### The clearing -/

/-- A hart once a clearing of its core is complete: one that the clearing serves has no history and no return addresses, and no branch
that it has fetched trains (R53, R79). -/
def HartState.cleared (x : HartState) (served : Bool) : HartState :=
  let x := if served then { x with history := 0, ras := [], rasTop := 0, checkpoints := [] } else x
  { x with unfetched := true, checkpoints := x.checkpoints.map fun p => { p with stale := true } }

/-- What a clearing does not empty is as it was. -/
theorem HartState.cleared_get {α : Type} (x : HartState) (served : Bool) (f : HartState → α)
    (hf : ∀ x a b c d e, f { x with history := a, ras := b, rasTop := c, checkpoints := d, unfetched := e } = f x := by intros; rfl) :
    f (x.cleared served) = f x := by
  cases served
  · exact hf x x.history x.ras x.rasTop _ _
  · exact hf x ..

/-- The core and its harts once a clearing that serves the harts `ts` is complete. -/
def State.cleared (s : State) (c : CoreId) (ts : List (Fin 2)) : State :=
  let k := s.core (coreKey c)
  (s.setCore (coreKey c)
    { k with predictor := {}, clearing := if k.clearAgain.isEmpty then none else some k.clearAgain, clearAgain := [] }).forEach
    (hartsOf c) fun s h => s.setHart (hartIx h) ((s.hart (hartIx h)).cleared (ts.contains h.thread))

/-- PREDICTOR_CLEARING_DONE: the clearing is complete, and the writes of FLUSH that it serves retire. -/
theorem exec_predictorClearingDone {c : CoreId} {ts : List (Fin 2)} {s : State} (hl : s.clocked = true)
    (hk : (s.core (coreKey c)).clearing = some ts) : exec (.predictorClearingDone c) s =
      .next ((s.cleared c ts).forEach (ts.map fun t => (⟨c.die, c.core, t⟩ : HartId)) fun s h => s.flushRetire h) := by
  have he : exec (.predictorClearingDone c) s = execPredictorClearingDone c s := rfl
  rw [he]
  simp only [execPredictorClearingDone, live, hl, if_true, hk]
  rfl

theorem State.cleared_core (s : State) (c : CoreId) (ts : List (Fin 2)) :
    let k := s.core (coreKey c)
    (s.cleared c ts).core (coreKey c) =
      { k with predictor := {}, clearing := if k.clearAgain.isEmpty then none else some k.clearAgain, clearAgain := [] } := by
  simp [State.cleared, State.forEach, hartsOf]

theorem State.cleared_hart (s : State) (c : CoreId) (ts : List (Fin 2)) (i : Fin 2) :
    (s.cleared c ts).hart (hartIx ⟨c.die, c.core, i⟩) = (s.hart (hartIx ⟨c.die, c.core, i⟩)).cleared (ts.contains i) := by
  fin_cases i <;> simp [State.cleared, State.forEach, hartsOf, hartIx]

/-! ### The writes of FLUSH that waited for it -/

/-- With nothing waiting no write of FLUSH retires. -/
theorem State.flushRetire_none (s : State) (h : HartId) (hw : (s.hart (hartIx h)).waiting = []) : s.flushRetire h = s := by
  simp [State.flushRetire, hw]

/-- Retiring before a write of OFF makes no other difference than counting. -/
theorem HartState.uncounted_retire_putOff (x : HartState) (st : Stamp) (v : Word) :
    ((x.retire st).withoutSpec.putOff v).uncounted = (x.withoutSpec.putOff v).uncounted :=
  congrArg (fun z => z.withoutSpec.putOff v) (x.uncounted_retire st)

/-- OFF as written reads back. -/
theorem HartState.bit_putOff (x : HartState) (off : Bool) : bit (x.putOff (if off then 1 else 0)).cqzbpctl 0 = off := by
  have all : ∀ off : Bool, bit (putFld 0 0 1 (fld (if off then 1 else 0) 0 1)) 0 = off := by decide
  exact all off

/-- The write of FLUSH that alone waited retires, writes OFF, and ends. -/
theorem State.flushRetire_eq (s : State) (h : HartId) {w : Waiting} {off : Bool} (ho : w.op = .bpFlush off) (hi : w.issued = true)
    (hw : (s.hart (hartIx h)).waiting = [w]) : s.flushRetire h =
      (((s.setHart (hartIx h) ({ s.hart (hartIx h) with waiting := [] }.retire w.stamp)).bpOffWrite h (if off then 1 else 0)).endDone
        h w).retryHart h := by
  cases off <;> simp [State.flushRetire, hw, ho, hi]

/-- It leaves the cores and the history as they are, nothing waiting, and OFF as it says (R52, R76). -/
theorem State.flushRetire_alone (s : State) (h : HartId) {w : Waiting} {off : Bool} (ho : w.op = .bpFlush off) (hi : w.issued = true)
    (hw : (s.hart (hartIx h)).waiting = [w]) (hf : (s.hart (hartIx h)).front = []) (hc : (s.hart (hartIx h)).ctl = none)
    (hk : (s.hart (hartIx h)).walk = none) :
    (s.flushRetire h).fab.cores = s.fab.cores ∧ ((s.flushRetire h).hart (hartIx h)).waiting = [] ∧
      bit ((s.flushRetire h).hart (hartIx h)).cqzbpctl 0 = off ∧
      ((s.flushRetire h).hart (hartIx h)).history = (s.hart (hartIx h)).history := by
  have eq := s.flushRetire_eq h ho hi hw
  have done := ((s.setHart (hartIx h) ({ s.hart (hartIx h) with waiting := [] }.retire w.stamp)).bpOffWrite h
    (if off then 1 else 0)).endDone_counted h w (by rw [ho]; rfl)
  have cores := done.cores.trans (State.bpOffWrite_cores ..)
  have hart := done.hart.trans (State.bpOffWrite_hart ..)
  rw [State.hart_setHart, if_pos rfl, HartState.uncounted_retire_putOff] at hart
  generalize State.endDone _ h w = t at eq cores hart
  have front := HartState.get_of_uncounted hart (·.front)
  have walk := HartState.get_of_uncounted hart (·.walk)
  have quiet : (t.hart (hartIx h)).quiet := by
    refine ⟨HartState.get_of_uncounted hart (·.waiting), ?_, (HartState.get_of_uncounted hart (·.ctl)).trans hc, ?_⟩
    · simpa [HartState.putOff, HartState.sent, HartState.withoutSpec, hf] using front
    · simp [walk, HartState.putOff, HartState.sent, HartState.withoutSpec, hk]
  rw [eq, State.retryHart_quiet t h quiet, State.hart_setHart, if_pos rfl]
  exact ⟨cores, rfl, (HartState.get_of_uncounted hart (bit ·.cqzbpctl 0)).trans (HartState.bit_putOff ..),
    HartState.get_of_uncounted hart (·.history)⟩

/-! ### The statement's clauses -/

/-- With nothing waiting at the core, the clearing leaves its structures and the harts that it serves empty. -/
theorem clearing_of_quiet {c : CoreId} {ts : List (Fin 2)} {s : State} (hl : s.clocked = true)
    (hk : (s.core (coreKey c)).clearing = some ts) (hq : ∀ h ∈ hartsOf c, (s.hart (hartIx h)).quiet) :
    exec (.predictorClearingDone c) s = .next (s.cleared c ts) := by
  rw [exec_predictorClearingDone hl hk]
  refine congrArg _ (State.forEach_keeps (fun t => t = s.cleared c ts) (fun t h hh e => ?_) rfl)
  obtain ⟨i, -, rfl⟩ := List.mem_map.1 hh
  rw [e]
  have mem : (⟨c.die, c.core, i⟩ : HartId) ∈ hartsOf c := by fin_cases i <;> simp [hartsOf]
  refine State.flushRetire_none _ _ ?_
  rw [State.cleared_hart]
  exact (HartState.cleared_get _ _ (·.waiting)).trans (hq _ mem).1

/-- Of the statement about a clearing that is complete, the clause for a core at which nothing waits. -/
theorem clearing_completes_quiet {c : CoreId} {ts : List (Fin 2)} {s : State} (hl : s.clocked = true)
    (hk : (s.core (coreKey c)).clearing = some ts) (hq : ∀ h ∈ hartsOf c, (s.hart (hartIx h)).quiet) :
    Completes (.predictorClearingDone c) s fun t =>
      let k := t.core (coreKey c)
      k.predictor = {} ∧ k.clearAgain = [] ∧
      k.clearing = (if (s.core (coreKey c)).clearAgain.isEmpty then none else some (s.core (coreKey c)).clearAgain) ∧
      ∀ i ∈ ts, (t.hart (hartIx ⟨c.die, c.core, i⟩)).history = 0 ∧ (t.hart (hartIx ⟨c.die, c.core, i⟩)).ras = [] := by
  refine ⟨_, clearing_of_quiet hl hk hq, ?_⟩
  dsimp only
  rw [State.cleared_core]
  refine ⟨rfl, rfl, rfl, fun i hi => ?_⟩
  rw [State.cleared_hart, List.contains_iff_mem.2 hi]
  exact ⟨rfl, rfl⟩

/-- The clause for a core at which one write of FLUSH waits. -/
theorem clearing_completes_alone {c : CoreId} {i : Fin 2} {off : Bool} {w : Waiting} {s : State} (hl : s.clocked = true)
    (hk : (s.core (coreKey c)).clearing = some [i]) (ha : (s.core (coreKey c)).clearAgain = []) (ho : w.op = .bpFlush off)
    (hi : w.issued = true) (hw : (s.hart (hartIx ⟨c.die, c.core, i⟩)).waiting = [w])
    (hf : (s.hart (hartIx ⟨c.die, c.core, i⟩)).front = []) (hc : (s.hart (hartIx ⟨c.die, c.core, i⟩)).ctl = none)
    (hn : (s.hart (hartIx ⟨c.die, c.core, i⟩)).walk = none) :
    Completes (.predictorClearingDone c) s fun t =>
      (t.core (coreKey c)).clearing = none ∧ (t.core (coreKey c)).predictor = {} ∧
      (t.hart (hartIx ⟨c.die, c.core, i⟩)).waiting = [] ∧ bit (t.hart (hartIx ⟨c.die, c.core, i⟩)).cqzbpctl 0 = off ∧
      (t.hart (hartIx ⟨c.die, c.core, i⟩)).history = 0 := by
  have hart := s.cleared_hart c [i] i
  rw [List.contains_iff_mem.2 (List.mem_singleton_self i)] at hart
  have kept {α : Type} (f : HartState → α) := fun hg => (congrArg f hart).trans (HartState.cleared_get _ true f hg)
  obtain ⟨cores, waiting, offs, history⟩ := (s.cleared c [i]).flushRetire_alone ⟨c.die, c.core, i⟩ ho hi
    ((kept (·.waiting) (by intros; rfl)).trans hw) ((kept (·.front) (by intros; rfl)).trans hf)
    ((kept (·.ctl) (by intros; rfl)).trans hc) ((kept (·.walk) (by intros; rfl)).trans hn)
  have runs : exec (.predictorClearingDone c) s = .next ((s.cleared c [i]).flushRetire ⟨c.die, c.core, i⟩) := by
    rw [exec_predictorClearingDone hl hk]
    simp only [List.map_cons, List.map_nil, State.forEach, List.foldl_cons, List.foldl_nil]
  have core : ((s.cleared c [i]).flushRetire ⟨c.die, c.core, i⟩).core (coreKey c) = (s.cleared c [i]).core (coreKey c) := by
    simp only [State.core, cores]
  refine ⟨_, runs, ?_⟩
  dsimp only
  rw [core, State.cleared_core, ha]
  exact ⟨rfl, rfl, waiting, offs, history.trans (congrArg HartState.history hart)⟩

end Sys2Proof.Machine
end

section
/-! The end of a flush of a core's cache (R54, R131 to R135). -/

namespace Sys2Proof.Machine

/-! ### The lines of a core's caches -/

/-- The lines that a cache of the core holds. -/
def CoreState.lines (c : CoreState) : FlushKind → List Nat
  | .l1i => c.l1i.map (·.2.line)
  | .l1d => c.l1d.map (·.2.line)
  | .l2 => c.l2.map (·.2.line)

theorem CoreState.findL1i_eq_none (c : CoreState) (l : Nat) : c.findL1i l = none ↔ l ∉ c.lines .l1i := by
  simp [CoreState.findL1i, CoreState.lines]

theorem CoreState.findL1d_eq_none (c : CoreState) (l : Nat) : c.findL1d l = none ↔ l ∉ c.lines .l1d := by
  simp [CoreState.findL1d, CoreState.lines]

theorem CoreState.findL2_eq_none (c : CoreState) (l : Nat) : c.findL2 l = none ↔ l ∉ c.lines .l2 := by
  simp [CoreState.findL2, CoreState.lines]

/-- No cache of the core holds a line that it did not hold before. -/
def CoreState.Shrinks (c d : CoreState) : Prop := ∀ k, d.lines k ⊆ c.lines k

theorem CoreState.Shrinks.refl (c : CoreState) : c.Shrinks c := fun _ => List.Subset.refl _

theorem CoreState.Shrinks.trans {c d e : CoreState} (a : c.Shrinks d) (b : d.Shrinks e) : c.Shrinks e :=
  fun k => List.Subset.trans (b k) (a k)

/-- Listing a value in a table lists nothing else that is new. -/
theorem Table.insert_subset {α : Type} (t : Table α) (k : Nat) (v : α) : Table.insert t k v ⊆ (k, v) :: t := by
  induction t with
  | nil => exact List.Subset.refl _
  | cons e t ih =>
    obtain ⟨k', v'⟩ := e
    unfold Table.insert
    split
    · exact List.Subset.refl _
    · split
      · exact List.cons_subset_cons _ (List.subset_cons_self ..)
      · intro x hx
        rcases List.mem_cons.1 hx with rfl | hx
        · simp
        · have := ih hx; simp only [List.mem_cons] at this ⊢; tauto

/-- Rewriting a listed entry under its own line brings no line. -/
theorem Table.lines_insert_subset {α : Type} (line : α → Nat) {t : Table α} {k : Nat} {v : α} (hv : line v ∈ t.map (line ·.2)) :
    (Table.insert t k v).map (line ·.2) ⊆ t.map (line ·.2) := by
  intro l hl
  obtain ⟨e, he, rfl⟩ := List.mem_map.1 hl
  rcases List.mem_cons.1 (Table.insert_subset t k v he) with rfl | he
  · exact hv
  · exact List.mem_map_of_mem he

/-! ### Operations on one line -/

section
variable (c : CoreState) (line : Nat)

@[simp] theorem CoreState.lines_noteIx (f : L2Line → L2Line) (hf : ∀ l, (f l).line = l.line) (k : FlushKind) :
    (c.noteIx line f).lines k = c.lines k := by
  cases k with
  | l1i => rfl
  | l1d => rfl
  | l2 =>
    simp only [CoreState.lines, CoreState.noteIx, List.map_map]
    refine List.map_congr_left fun e _ => ?_
    simp only [Function.comp]
    split
    · exact hf _
    · rfl

theorem CoreState.Shrinks.noteIx {d : CoreState} (a : c.Shrinks d) (f : L2Line → L2Line) (hf : ∀ l, (f l).line = l.line) :
    c.Shrinks (d.noteIx line f) := fun k => (d.lines_noteIx line f hf k).symm ▸ a k

theorem CoreState.dropL1i_shrinks : c.Shrinks (c.dropL1i line) ∧ line ∉ (c.dropL1i line).lines .l1i := by
  refine ⟨CoreState.Shrinks.noteIx _ _ (fun k => ?_) _ fun _ => rfl,
    by simp [CoreState.dropL1i, CoreState.lines, CoreState.noteIx]⟩
  cases k with
  | l1i => exact List.map_subset _ List.filter_sublist.subset
  | l1d => exact List.Subset.refl _
  | l2 => exact List.Subset.refl _

theorem CoreState.dropL1d_shrinks : c.Shrinks (c.dropL1d line).1 ∧ line ∉ (c.dropL1d line).1.lines .l1d := by
  unfold CoreState.dropL1d
  split
  · rename_i h
    exact ⟨.refl c, (c.findL1d_eq_none line).1 h⟩
  · refine ⟨CoreState.Shrinks.noteIx _ _ (fun k => ?_) _ fun _ => rfl, by simp [CoreState.lines, CoreState.noteIx]⟩
    cases k with
    | l1i => exact List.Subset.refl _
    | l1d => exact List.map_subset _ List.filter_sublist.subset
    | l2 => exact List.Subset.refl _

theorem CoreState.dropLine_shrinks : c.Shrinks (c.dropLine line).1 ∧ line ∉ (c.dropLine line).1.lines .l2 := by
  have drops := (c.dropL1i_shrinks line).1.trans ((c.dropL1i line).dropL1d_shrinks line).1
  unfold CoreState.dropLine
  generalize (c.dropL1i line).dropL1d line = d at drops
  dsimp only
  split
  · rename_i h
    exact ⟨drops, (d.1.findL2_eq_none line).1 h⟩
  · refine ⟨drops.trans fun k => ?_, by simp [CoreState.lines]⟩
    cases k with
    | l1i => exact List.Subset.refl _
    | l1d => exact List.Subset.refl _
    | l2 => exact List.map_subset _ List.filter_sublist.subset

theorem CoreState.cleanL1d_shrinks : c.Shrinks (c.cleanL1d line) := by
  unfold CoreState.cleanL1d
  split
  · rename_i k l k2 l2 h1 h2
    split
    · intro k
      cases k with
      | l1i => exact List.Subset.refl _
      | l1d => exact Table.lines_insert_subset L1Line.line (List.mem_map_of_mem (List.mem_of_find?_eq_some h1))
      | l2 => exact Table.lines_insert_subset L2Line.line (List.mem_map_of_mem (List.mem_of_find?_eq_some h2))
    · exact .refl c
  · exact .refl c

end

/-! ### Settling and flushing a line -/

theorem State.logCore_fab (s : State) (src : ErrSource) (c : CoreId) (line : Nat) (e : LineErr) (dirty : Bool) :
    (s.logCore src c line e dirty).fab = s.fab := by
  unfold State.logCore State.logArray
  cases e <;> cases dirty <;> rfl

@[simp] theorem State.logCore_core (s : State) (src : ErrSource) (c : CoreId) (line : Nat) (e : LineErr) (dirty : Bool) (i : Nat) :
    (s.logCore src c line e dirty).core i = s.core i := by simp only [State.core, State.logCore_fab]

section
variable (s : State) (c : CoreId) (line : Nat)

theorem State.settleL1i_shrinks : (s.core (coreKey c)).Shrinks ((s.settleL1i c line).core (coreKey c)) := by
  unfold State.settleL1i
  dsimp only
  split
  · split
    · exact .refl _
    · simpa using ((s.core (coreKey c)).dropL1i_shrinks line).1
  · exact .refl _

theorem State.settleL1d_shrinks : (s.core (coreKey c)).Shrinks ((s.settleL1d c line).core (coreKey c)) := by
  unfold State.settleL1d
  dsimp only
  split
  · rename_i key l hl
    split
    · exact .refl _
    · rw [State.logCore_core, State.core_setCore, if_pos rfl]
      split
      · intro k
        cases k with
        | l1i => exact List.Subset.refl _
        | l1d => exact Table.lines_insert_subset L1Line.line (List.mem_map_of_mem (List.mem_of_find?_eq_some hl))
        | l2 => exact List.Subset.refl _
      · exact ((s.core (coreKey c)).dropL1d_shrinks line).1
  · exact .refl _

theorem State.settleL2_shrinks : (s.core (coreKey c)).Shrinks ((s.settleL2 c line).core (coreKey c)) := by
  unfold State.settleL2
  dsimp only
  split
  · rename_i key l hl
    split
    · exact .refl _
    · rw [State.logCore_core, State.core_setCore, if_pos rfl]
      split
      · intro k
        cases k with
        | l1i => exact List.Subset.refl _
        | l1d => exact List.Subset.refl _
        | l2 => exact Table.lines_insert_subset L2Line.line (List.mem_map_of_mem (List.mem_of_find?_eq_some hl))
      · exact ((s.core (coreKey c)).dropLine_shrinks line).1
  · exact .refl _

/-- Settling the errors of a line's copies brings no line into a cache of the core. -/
theorem State.settleCore_shrinks : (s.core (coreKey c)).Shrinks ((s.settleCore c line).core (coreKey c)) :=
  ((s.settleL1i_shrinks c line).trans (State.settleL1d_shrinks _ c line)).trans (State.settleL2_shrinks _ c line)

/-- The flush of a line takes it out of the cache, and brings none into a cache of the core (R133). -/
theorem State.flushLine_shrinks (k : FlushKind) : (s.core (coreKey c)).Shrinks ((s.flushLine c k line).core (coreKey c)) ∧
    line ∉ ((s.flushLine c k line).core (coreKey c)).lines k := by
  have settled := s.settleCore_shrinks c line
  unfold State.flushLine
  generalize s.settleCore c line = t at settled
  cases k with
  | l1i =>
    obtain ⟨drops, gone⟩ := (t.core (coreKey c)).dropL1i_shrinks line
    simp only [State.core_setCore, if_true]
    exact ⟨settled.trans drops, gone⟩
  | l1d =>
    obtain ⟨drops, gone⟩ := ((t.core (coreKey c)).cleanL1d line).dropL1d_shrinks line
    simp only [State.core_setCore, if_true]
    exact ⟨(settled.trans ((t.core (coreKey c)).cleanL1d_shrinks line)).trans drops, gone⟩
  | l2 =>
    obtain ⟨drops, gone⟩ := (t.core (coreKey c)).dropLine_shrinks line
    simp only [State.setDie_core, State.core_setCore, if_true]
    exact ⟨settled.trans drops, gone⟩

end

/-- The flush of lines leaves none of them. -/
theorem State.flushLines_gone (s : State) (c : CoreId) (k : FlushKind) {l : Nat} {ls : List Nat} (hl : l ∈ ls) :
    l ∉ ((s.forEach ls fun s l => s.flushLine c k l).core (coreKey c)).lines k :=
  State.forEach_of_mem (fun t => l ∉ (t.core (coreKey c)).lines k) (f := fun s (l : Nat) => s.flushLine c k l)
    (fun t a ht hm => ht ((t.flushLine_shrinks c a k).1 k hm)) (fun t => (t.flushLine_shrinks c l k).2) hl s

/-! ### The resets that waited (R135) -/

theorem State.holdHart_core (s : State) (h : HartId) (run : RunState) (m : Word) (i : Nat) : (s.holdHart h run m).core i = s.core i := by
  simp only [State.core, State.holdHart, State.setHart_fab_cores, State.meterSend_cores]

/-- The reset of a hart takes the allocation fields of its core's cqzcachectl back, and touches no other part of a core (R45). -/
theorem State.resetHart_core (s : State) (h : HartId) : (s.resetHart h).core (coreIx h) =
    { s.core (coreIx h) with l1iNa := false, l1dNa := false, l2Na := false } := by
  simp only [State.resetHart, State.fileLines, State.setHart_core, State.holdHart_core, State.core_setCore, if_true]

theorem State.resetHart_run (s : State) (h : HartId) : ((s.resetHart h).hart (hartIx h)).run = .parked := by
  simp [State.resetHart, State.fileLines, State.holdHart, HartState.wake, HartState.csrBit, HartState.setCsr]

/-- The core at the end of a flush, before the resets that waited for it. -/
def State.flushed (s : State) (c : CoreId) (k : FlushKind) : State :=
  let t := s.forEach (s.core (coreKey c)).flushLines fun s l => s.flushLine c k l
  t.setCore (coreKey c) { t.core (coreKey c) with flushing := none, flushLines := [], resetAfter := [] }

theorem exec_cacheFlushDone {c : CoreId} {k : FlushKind} {s : State} (hl : s.clocked = true)
    (hk : (s.core (coreKey c)).flushing = some k) : exec (.cacheFlushDone c) s =
      .next ((s.flushed c k).forEach ((s.core (coreKey c)).resetAfter.map fun t => (⟨c.die, c.core, t⟩ : HartId))
        fun s h => s.resetHart h) := by
  have he : exec (.cacheFlushDone c) s = execCacheFlushDone c s := rfl
  rw [he]
  simp only [execCacheFlushDone, live, hl, if_true, hk]
  rfl

theorem State.flushed_gone (s : State) (c : CoreId) (k : FlushKind) {l : Nat} (hl : l ∈ (s.core (coreKey c)).flushLines) :
    l ∉ ((s.flushed c k).core (coreKey c)).lines k := by
  have gone := s.flushLines_gone c k hl
  rw [State.flushed, State.core_setCore, if_pos rfl]
  cases k <;> exact gone

/-- The end of a flush: FLUSH_BUSY is clear, no recorded line is left, and a hart whose reset waited is parked. -/
theorem flush_completes {c : CoreId} {k : FlushKind} {s : State} (hl : s.clocked = true)
    (hk : (s.core (coreKey c)).flushing = some k) :
    Completes (.cacheFlushDone c) s fun t =>
      (t.core (coreKey c)).flushing = none ∧ (t.core (coreKey c)).flushLines = [] ∧
      (∀ i, (s.core (coreKey c)).resetAfter = [i] → (t.hart (hartIx ⟨c.die, c.core, i⟩)).run = .parked) ∧
      ((s.core (coreKey c)).resetAfter = [] → ∀ l ∈ (s.core (coreKey c)).flushLines, l ∉ (t.core (coreKey c)).lines k) := by
  refine ⟨_, exec_cacheFlushDone hl hk, ?_⟩
  have idle := State.forEach_keeps (fun t => (t.core (coreKey c)).flushing = none ∧ (t.core (coreKey c)).flushLines = [])
    (l := (s.core (coreKey c)).resetAfter.map fun t => (⟨c.die, c.core, t⟩ : HartId)) (f := fun s h => s.resetHart h)
    (s := s.flushed c k) (fun t h hh ht => by
      obtain ⟨i, -, rfl⟩ := List.mem_map.1 hh
      have core := t.resetHart_core ⟨c.die, c.core, i⟩
      rw [show coreIx ⟨c.die, c.core, i⟩ = coreKey c from rfl] at core
      rw [core]
      exact ht) (by simp [State.flushed])
  refine ⟨idle.1, idle.2, fun i hi => ?_, fun hi l hm => ?_⟩
  · rw [hi]
    exact State.resetHart_run _ _
  · rw [hi]
    exact s.flushed_gone c k hm

/-- Settles O7: a clearing that is complete, at a core where nothing waits or where one write of FLUSH does, and a flush that is. -/
theorem coreFlushesAndClearingsFinish : Obligations.CoreFlushesAndClearingsFinish := by
  refine ⟨fun _ _ _ hl hk hq => clearing_completes_quiet hl hk hq,
    fun _ _ _ _ _ hl hk ha ho hi hw hf hc hn => clearing_completes_alone hl hk ha ho hi hw hf hc hn, fun c k s hl hk => ?_⟩
  obtain ⟨t, runs, busy, lines, parked, gone⟩ := flush_completes hl hk
  refine ⟨t, runs, busy, lines, parked, fun hi l hm => ?_⟩
  have gone := gone hi l hm
  cases k with
  | l1i => exact (CoreState.findL1i_eq_none ..).2 gone
  | l1d => exact (CoreState.findL1d_eq_none ..).2 gone
  | l2 => exact (CoreState.findL2_eq_none ..).2 gone

end Sys2Proof.Machine
end

section
/-! The frame of the commands of a hart that make no access (R46, R84, R107, R127). -/

namespace Sys2Proof.Machine

/-! ### What such a command keeps -/

/-- The package without its harts, its cores, its meters and the count of free values. -/
def State.rest (s : State) : State :=
  { s with fab := { s.fab with harts := [], cores := [] }, hub := { s.hub with meters := [] }, free := 0 }

/-- The registers of a hart that loads and atomic accesses write, and its reservation. -/
def HartState.regs (x : HartState) : Table Word × Table Word × Table Byte × Option Resv := (x.x, x.f, x.v, x.resv)

/-- From `s` to `t` the package, every other hart but for its walk, and the hart's own registers and reservation are kept. -/
structure State.KeepsRest (s t : State) (h : HartId) : Prop where
  rest : t.rest = s.rest
  others : ∀ i, i ≠ hartIx h → { t.hart i with walk := none } = { s.hart i with walk := none }
  own : (t.hart (hartIx h)).regs = (s.hart (hartIx h)).regs

section
variable {s t u : State} {h : HartId}

theorem State.KeepsRest.refl (s : State) (h : HartId) : s.KeepsRest s h := ⟨rfl, fun _ _ => rfl, rfl⟩

theorem State.KeepsRest.trans (a : s.KeepsRest t h) (b : t.KeepsRest u h) : s.KeepsRest u h :=
  ⟨b.rest.trans a.rest, fun i hi => (b.others i hi).trans (a.others i hi), b.own.trans a.own⟩

/-- What the walk is no part of is as it was in every other hart. -/
theorem State.KeepsRest.get_other (a : s.KeepsRest t h) {i : Nat} (hi : i ≠ hartIx h) {α : Type} (f : HartState → α)
    (hf : ∀ x : HartState, f { x with walk := none } = f x := by intro; rfl) : f (t.hart i) = f (s.hart i) := by
  rw [← hf, a.others i hi, hf]

theorem State.setHart_keeps (s : State) (h : HartId) {x : HartState} (hx : x.regs = (s.hart (hartIx h)).regs := by rfl) :
    s.KeepsRest (s.setHart (hartIx h) x) h :=
  ⟨rfl, fun i hi => by simp [hi], by simpa using hx⟩

theorem State.setCore_keeps (s : State) (h : HartId) (i : Nat) (k : CoreState) : s.KeepsRest (s.setCore i k) h :=
  ⟨rfl, fun _ _ => rfl, rfl⟩

theorem State.KeepsRest.setHart (a : s.KeepsRest t h) {x : HartState} (hx : x.regs = (t.hart (hartIx h)).regs := by rfl) :
    s.KeepsRest (t.setHart (hartIx h) x) h := a.trans (t.setHart_keeps h hx)

theorem State.KeepsRest.setCore (a : s.KeepsRest t h) (i : Nat) (k : CoreState) : s.KeepsRest (t.setCore i k) h :=
  a.trans (t.setCore_keeps h i k)

/-- The walk of any hart may begin again. -/
theorem State.KeepsRest.setWalk (a : s.KeepsRest t h) (i : Nat) (w : Option Walk) :
    s.KeepsRest (t.setHart i { t.hart i with walk := w }) h := by
  refine a.trans ⟨rfl, fun j _ => ?_, ?_⟩ <;> rw [State.hart_setHart] <;> split
  · next e => subst e; rfl
  · rfl
  · next e => rw [← e]; rfl
  · rfl

theorem State.KeepsRest.free (a : s.KeepsRest t h) (n : Nat) : s.KeepsRest { t with free := n } h := ⟨a.rest, a.others, a.own⟩

theorem State.KeepsRest.ite {c : Prop} [Decidable c] (a : s.KeepsRest t h) (b : s.KeepsRest u h) :
    s.KeepsRest (if c then t else u) h := by
  split
  · exact a
  · exact b

end

/-! ### Counting, sampling and traps -/

@[simp] theorem HartState.regs_event (x : HartState) (code k : Nat) (st : Stamp) : (x.event code k st).regs = x.regs :=
  HartState.get_of_uncounted (x.uncounted_event code k st) HartState.regs

@[simp] theorem HartState.regs_retire (x : HartState) (st : Stamp) : (x.retire st).regs = x.regs :=
  HartState.get_of_uncounted (x.uncounted_retire st) HartState.regs

@[simp] theorem HartState.regs_wake (x : HartState) : x.wake.regs = x.regs := by
  unfold HartState.wake
  split <;> rfl

@[simp] theorem HartState.regs_setCsr (x : HartState) (n : Nat) (v : Word) : (x.setCsr n v).regs = x.regs := rfl

@[simp] theorem HartState.regs_mode (x : HartState) (p : Priv) (v : Bool) (pc : Word) :
    ({ x with priv := p, virt := v, pc := pc } : HartState).regs = x.regs := rfl

@[simp] theorem HartState.regs_takeTrap (x : HartState) (t : TrapInfo) : (x.takeTrap t).regs = x.regs := by
  unfold HartState.takeTrap
  extract_lets
  split <;> simp +zetaDelta only [HartState.regs_mode, HartState.regs_setCsr, HartState.regs_event]

section
variable (s : State) (h : HartId)

theorem State.rest_charge (hue : BitVec 12) (n k : Nat) (p : Option Nat) : (s.charge hue n k p).rest = s.rest := by
  unfold State.charge
  split <;> rfl

/-- A send of counts reaches the meters and the hart's accumulators alone (R287). -/
theorem State.meterSend_keeps (hue : BitVec 12) : s.KeepsRest (s.meterSend h hue) h := by
  refine ⟨?_, fun i hi => ?_, by rw [State.meterSend_hart]; rfl⟩
  · unfold State.meterSend
    cases (s.hart (hartIx h)).active
    all_goals exact (State.rest_charge ..).trans ((State.rest_charge ..).trans (State.rest_charge ..))
  · have other : (s.meterSend h hue).hart i = (s.setHart (hartIx h) (s.hart (hartIx h)).sent).hart i := by
      unfold State.hart
      rw [s.meterSend_fab]
      rfl
    rw [other, State.hart_setHart, if_neg hi]

theorem State.endSample_keeps (w : Waiting) (ends : Nat) : s.KeepsRest (s.endSample h w ends) h :=
  s.endSample_ind h w ends (s.KeepsRest · h) (.refl s h) fun n _ _ _ _ _ _ => ((State.KeepsRest.refl s h).free n).setHart

theorem State.chooseSample_keeps (p : Priv × Bool) : s.KeepsRest (s.chooseSample h p).2 h := by
  unfold State.chooseSample
  dsimp only
  split
  · exact .refl s h
  · split
    · exact s.setHart_keeps h
    · exact s.setHart_keeps h
    · exact ((State.KeepsRest.refl s h).free _).setHart

theorem State.squashed_keeps (gone : List Waiting) : s.KeepsRest (s.squashed h gone) h :=
  State.forEach_keeps (s.KeepsRest · h) (fun _ _ _ ht => (ht.setHart (by simp)).trans (State.endSample_keeps ..)) (.refl s h)

theorem State.squash_keeps : s.KeepsRest (s.squash h) h :=
  (s.setHart_keeps h).trans (State.squashed_keeps ..)

theorem State.squashAfter_keeps (n : Nat) : s.KeepsRest (s.squashAfter h n) h :=
  (s.setHart_keeps h).trans (State.squashed_keeps ..)

theorem State.trap_keeps (st : Stamp) (t : TrapInfo) : s.KeepsRest (s.trap h st t) h := by
  have squashes := s.squash_keeps h
  unfold State.trap
  dsimp only
  generalize s.squash h = y at squashes ⊢
  have restarts := squashes.setHart (x := (y.hart (hartIx h)).restartAt st.pc)
  generalize y.setHart _ _ = z at restarts ⊢
  exact (restarts.ite (restarts.trans (State.meterSend_keeps ..))).setHart (HartState.regs_takeTrap ..)

theorem State.illegal_keeps (w : Waiting) (virtual : Bool) : s.KeepsRest (s.illegal h w virtual).2 h :=
  ((State.KeepsRest.refl s h).free _).trans (State.trap_keeps ..)

/-! ### Fences -/

/-- A fence reaches the hart's TLBs, its core, and the walks of the core's harts (R99, R100, R107). -/
theorem State.invalidate_keeps (q : FenceSel) : s.KeepsRest (s.invalidate h q) h := by
  have drops : s.KeepsRest (s.dropTlb h q.tlb) h := (s.setHart_keeps h).setCore ..
  have restarts : s.KeepsRest ((s.dropTlb h q.tlb).restartWalks ⟨h.die, h.core⟩) h :=
    State.forEach_keeps (s.KeepsRest · h) (fun _ g _ ht => (ht.setWalk (hartIx g) none).ite ht) drops
  exact restarts.setCore ..

theorem State.applySinvals_keeps : s.KeepsRest (s.applySinvals h) h :=
  (State.forEach_keeps (s.KeepsRest · h) (fun t q _ ht => ht.trans (t.invalidate_keeps h q.sel)) (.refl s h)).setHart

theorem State.sfence_keeps (f : FenceArgs) : s.KeepsRest (s.sfence h f) h := by
  have removes := (s.applySinvals_keeps h).trans
    (State.invalidate_keeps _ h (fenceStage1 ((s.applySinvals h).hart (hartIx h)).sfenceVmid f))
  unfold State.sfence
  dsimp only
  generalize State.invalidate _ _ _ = t at removes ⊢
  exact removes.setHart.ite removes

theorem State.hfenceV_keeps (f : FenceArgs) : s.KeepsRest (s.hfenceV h f) h := by
  have removes := (s.applySinvals_keeps h).trans
    (State.invalidate_keeps _ h (fenceStage1 (some ((s.applySinvals h).hart (hartIx h)).vmidNow) f))
  unfold State.hfenceV
  dsimp only
  generalize State.invalidate _ _ _ = t at removes ⊢
  exact removes.setHart.ite removes

theorem State.hfenceG_keeps (f : FenceArgs) : s.KeepsRest (s.hfenceG h f) h :=
  (s.applySinvals_keeps h).trans (State.invalidate_keeps ..)

theorem State.sinvalEnd_keeps : s.KeepsRest (s.sinvalEnd h) h := by
  have orders := s.applySinvals_keeps h
  unfold State.sinvalEnd
  generalize s.applySinvals h = t at orders ⊢
  exact orders.setHart

/-! ### Attempts -/

/-- A fence keeps what its action keeps. -/
theorem State.tryFence_keeps (w : Waiting) {act : State → State} (ha : s.KeepsRest (act s) h) :
    s.KeepsRest (s.tryFence h w act).2 h := by
  unfold State.tryFence
  split
  · exact .refl s h
  · exact ha.setHart (by simp)

theorem State.tryWfi_keeps (w : Waiting) : s.KeepsRest (s.tryWfi h w).2 h :=
  s.setHart_keeps h ((HartState.regs_wake _).trans (HartState.regs_retire ..))

theorem State.tryFlush_keeps (w : Waiting) : s.KeepsRest (s.tryFlush h w).2 h := by
  unfold State.tryFlush
  split
  · exact .refl s h
  · exact s.setCore_keeps h _ _

theorem State.tryBranch_keeps (w : Waiting) (r : Bool) : s.KeepsRest (s.tryBranch h w r).2 h := by
  refine s.setHart_keeps h ?_
  rw [HartState.regs_retire]
  cases r <;> simp

theorem State.trySinval_keeps (w : Waiting) (k : InvalKind) (f : FenceArgs) : s.KeepsRest (s.trySinval h w k f).2 h :=
  s.setHart_keeps h (HartState.regs_retire ..)

theorem State.hueWrite_keeps (v : Word) : s.KeepsRest (s.hueWrite h v) h :=
  ((State.KeepsRest.refl s h).ite (s.meterSend_keeps h _)).setHart

theorem State.bpOffWrite_keeps (v : Word) : s.KeepsRest (s.bpOffWrite h v) h := by
  have sends := (s.squash_keeps h).trans (State.meterSend_keeps _ h (s.hart (hartIx h)).hue)
  unfold State.bpOffWrite
  generalize State.meterSend _ _ _ = t at sends ⊢
  exact sends.setHart

/-- A write of cqzbpctl.OFF, of cqzcachectl or of cqzhue. -/
theorem State.csrWrite_keeps {n : Nat} (hn : n = 0x5C0 ∨ n = 0x5C2 ∨ n = 0x6C0) (v : Word) (st : Stamp) :
    s.KeepsRest (s.csrWrite h n v st) h := by
  have retires := s.setHart_keeps h ((s.hart (hartIx h)).regs_retire st)
  rcases hn with rfl | rfl | rfl
  · exact retires.trans (State.bpOffWrite_keeps ..)
  · exact retires.setCore ..
  · exact retires.trans (State.hueWrite_keeps ..)

end

/-- An instruction that makes no access and writes no register with effects beyond its hart and core. -/
def HartOp.staysHome : HartOp → Bool
  | .csr n _ => n = 0x5C0 || n = 0x5C2 || n = 0x6C0
  | .branch _ => true
  | op => op.isSerial

section
variable {s : State} {h : HartId} {op : HartOp}

theorem HartOp.isSpec_of_staysHome (ho : op.staysHome = true) : op.isSpec = false := by
  cases op with
  | load | store | amo | lr | sc | cbo | zero | hint | fetch => cases ho
  | _ => rfl

/-- An attempt at such an instruction, which may trap. -/
theorem State.attempt_keeps {w : Waiting} (ho : w.op.staysHome = true) : s.KeepsRest (s.attempt h w).2 h := by
  unfold State.attempt
  split
  · exact s.illegal_keeps h w false
  · exact s.illegal_keeps h w true
  · generalize w.op = op at ho
    cases op with
    | load | store | amo | lr | sc | cbo | zero | hint | fetch => cases ho
    | fence => exact s.tryFence_keeps h w (.refl s h)
    | fenceI => exact s.tryFence_keeps h w (s.setCore_keeps h _ _)
    | sfence f => exact s.tryFence_keeps h w (s.sfence_keeps h f)
    | hfenceV f => exact s.tryFence_keeps h w (s.hfenceV_keeps h f)
    | hfenceG f => exact s.tryFence_keeps h w (s.hfenceG_keeps h f)
    | wInval => exact s.tryFence_keeps h w (s.setHart_keeps h)
    | invalIr => exact s.tryFence_keeps h w (s.sinvalEnd_keeps h)
    | sinval k f => exact s.trySinval_keeps h w k f
    | wfi => exact s.tryWfi_keeps h w
    | csr n v => exact s.csrWrite_keeps h (by simpa [HartOp.staysHome, or_assoc] using ho) v w.stamp
    | bpFlush => exact s.tryFlush_keeps h w
    | branch r => exact s.tryBranch_keeps h w r

theorem State.takeFlags_keeps (s : State) (h : HartId) (w : Waiting) : s.KeepsRest (s.takeFlags h w).2 h := s.setHart_keeps h

theorem State.park_keeps (s : State) (h : HartId) (w : Waiting) : s.KeepsRest (s.park h w) h := s.setHart_keeps h

theorem State.endTrap_keeps (s : State) (h : HartId) (w : Waiting) : s.KeepsRest (s.endTrap h w) h :=
  ((s.takeFlags_keeps h w).trans (State.applySinvals_keeps ..)).trans (State.endSample_keeps ..)

theorem State.endDone_keeps (s : State) (h : HartId) (w : Waiting) : s.KeepsRest (s.endDone h w) h :=
  have takes := s.takeFlags_keeps h w
  ((takes.setHart (HartState.regs_retire ..)).ite takes).trans (State.endSample_keeps ..)

/-- Behind nothing that waits, such an instruction is attempted, and then waits, has trapped, or has ended. -/
theorem State.issue_keeps {w : Waiting} (ho : w.op.staysHome = true) (hw : (s.hart (hartIx h)).waiting = []) :
    s.KeepsRest (s.issue h w).2 h := by
  have tries := s.attempt_keeps (h := h) ho
  unfold State.issue
  simp only [HartOp.isSpec_of_staysHome ho, hw, List.any_nil, Bool.or_self, Bool.false_eq_true, if_false]
  split
  · next e => rw [e] at tries; exact (tries.trans (State.takeFlags_keeps ..)).trans (State.park_keeps ..)
  · next e => rw [e] at tries; exact tries.trans (State.endTrap_keeps ..)
  · next e => rw [e] at tries; exact tries.trans (State.endDone_keeps ..)

/-! ### Dispatch -/

theorem State.dispatch_op (st : Stamp) : (s.dispatch h op st).1.op = op := by
  unfold State.dispatch
  dsimp only
  split
  · rfl
  · split <;> rfl

theorem State.dispatch_keeps (st : Stamp) : s.KeepsRest (s.dispatch h op st).2 h := by
  unfold State.dispatch
  dsimp only
  split
  · exact .refl s h
  · split
    · exact s.setHart_keeps h
    · exact (s.chooseSample_keeps h _).setHart (HartState.regs_event ..)

/-- A new instruction of a hart that may not dispatch it joins what waits for dispatch. -/
theorem State.newOpAt_held (hf : (s.hart (hartIx h)).front = []) (hm : s.mayDispatch h op = false) (pc : Word) :
    s.newOpAt h op pc =
      s.setHart (hartIx h) { s.hart (hartIx h) with front := [{ op := op, pc := pc, branch := (s.hart (hartIx h)).branches }] } := by
  unfold State.newOpAt State.advance
  simp only [hf, List.nil_append, State.hart_setHart, if_true, List.length_singleton]
  unfold State.drain
  simp only [State.hart_setHart, if_true, State.mayDispatch_front, hm, Bool.not_false]

/-- A new instruction of a hart for which nothing waits. -/
theorem State.newOpAt_keeps (ho : op.staysHome = true) (hw : (s.hart (hartIx h)).waiting = [])
    (hf : (s.hart (hartIx h)).front = []) (pc : Word) : s.KeepsRest (s.newOpAt h op pc) h := by
  cases hm : s.mayDispatch h op with
  | false =>
    rw [State.newOpAt_held hf hm]
    exact s.setHart_keeps h
  | true =>
    have ready : s.ready h op = true := by simp [State.ready, hf, hm, hw]
    rw [s.newOpAt_ready h op pc ready]
    have starts : s.KeepsRest (s.startsAt h op pc).2 h :=
      (s.setHart_keeps h).trans (State.dispatch_keeps _)
    have waiting : ((s.startsAt h op pc).2.hart (hartIx h)).waiting = [] := by
      obtain ⟨_, _, _, counted, -⟩ := s.startsAt_only h op pc
      rw [counted.get (·.waiting), State.hart_setHart, if_pos rfl]
      exact hw
    exact starts.trans (State.issue_keeps ((congrArg HartOp.staysHome (State.dispatch_op _)).trans ho) waiting)

/-- What keeps the reservation lets nothing go (R171). -/
theorem State.KeepsRest.settled {t : State} (a : s.KeepsRest t h) : s.settled t h = t := by
  have resv : (t.hart (hartIx h)).resv = (s.hart (hartIx h)).resv := congrArg (·.2.2.2) a.own
  unfold State.settled
  rw [resv]
  cases (s.hart (hartIx h)).resv <;> rfl

theorem State.run_keeps (ho : op.staysHome = true) (hq : (s.hart (hartIx h)).quiet) : s.KeepsRest (s.run h op) h := by
  obtain ⟨hw, hf, -, -⟩ := hq
  have new := State.newOpAt_keeps ho hw hf (s.hart (hartIx h)).pc
  unfold State.run State.newOp
  rwa [new.settled]

end

/-! ### WFI and branches -/

theorem hartIx_siblingOf_ne (h : HartId) : hartIx (siblingOf h) ≠ hartIx h := by
  obtain ⟨d, c, i⟩ := h
  fin_cases i <;> simp [hartIx, siblingOf]

section
variable {s : State} {h : HartId}

/-- WFI gives the core's other hart its share, and nothing of that hart waits for it (R42). -/
theorem State.wfi_keeps (hq : (s.hart (hartIx h)).quiet) (hf : (s.hart (hartIx (siblingOf h))).front = []) :
    s.KeepsRest ((s.run h .wfi).advance (siblingOf h)) h := by
  have runs := State.run_keeps (op := .wfi) rfl hq
  rw [State.advance_of_front _ _ ((runs.get_other (hartIx_siblingOf_ne h) (·.front)).trans hf)]
  exact runs

variable (s h) (pc target : Word) (b : BranchKind) (taken : Bool)

theorem State.train_keeps : s.KeepsRest (s.train h pc target b taken) h :=
  (State.KeepsRest.refl s h).ite (s.setCore_keeps h _ _)

theorem State.train_hart (i : Nat) : (s.train h pc target b taken).hart i = s.hart i := by
  unfold State.train
  dsimp only
  split <;> rfl

theorem State.redirectSpec_keeps : s.KeepsRest (s.redirectSpec h pc target b taken) h :=
  ((s.train_keeps h pc target b taken).setHart).trans (State.squashAfter_keeps ..)

variable {s h}

theorem State.redirect_keeps (hq : (s.hart (hartIx h)).quiet) : s.KeepsRest (s.redirect h pc target b taken) h := by
  obtain ⟨hw, hf, -, -⟩ := hq
  have squashes := (s.train_keeps h pc target b taken).trans (State.squash_keeps ..)
  have counted := (s.train h pc target b taken).squash_counted h
  have waiting := counted.get (·.waiting)
  have front := counted.get (·.front)
  simp only [State.hart_setHart, if_true, HartState.withoutSpec, State.train_hart, hw, hf, List.filter_nil] at waiting front
  unfold State.redirect
  dsimp only
  generalize State.squash _ _ = t at squashes waiting front ⊢
  have retires := (squashes.setHart (x := { (t.hart (hartIx h)).rewind (s.predictOff h) pc target b taken with checkpoints := [] })).trans
    (State.newOpAt_keeps (op := .branch true) rfl (by simpa [HartState.rewind] using waiting)
      (by simpa [HartState.rewind] using front) pc)
  generalize State.newOpAt _ _ _ _ = u at retires ⊢
  exact retires.setHart

/-- A resolved branch, on its path. -/
theorem State.mispredict_keeps (hq : (s.hart (hartIx h)).quiet) (spec : Bool) :
    s.KeepsRest (s.settled (if spec then s.redirectSpec h pc target b taken else s.redirect h pc target b taken) h) h := by
  have resolves := (s.redirectSpec_keeps h pc target b taken).ite (c := spec = true) (State.redirect_keeps pc target b taken hq)
  rwa [resolves.settled]

end

/-! ### The rows -/

theorem exec_wfi_eq (h : HartId) (s : State) : exec (.wfi h) s =
    hartDoes s h fun _ s => .next ((s.run h .wfi).advance (siblingOf h)) := rfl

theorem exec_branchMispredict_eq (h : HartId) (pc target : Word) (b : ResolvedBranch) (s : State) :
    exec (.branchMispredict h pc target b) s = hartDoes s h fun _ s => .next (s.settled
      (if b.spec then s.redirectSpec h pc target b.kind b.taken else s.redirect h pc target b.kind b.taken) h) := rfl

theorem exec_cqzhueWrite_eq (h : HartId) (v : Word) (s : State) : exec (.cqzhueWrite h v) s =
    hartWrites s h fun _ s => .next (s.run h (.csr 0x6C0 v)) := rfl

theorem exec_cqzbpctlOffWrite_eq (h : HartId) (v : Word) (s : State) : exec (.cqzbpctlOffWrite h v) s =
    hartWrites s h fun _ s => .next (s.run h (.csr 0x5C0 (v &&& 1))) := rfl

theorem exec_flush_eq (h : HartId) (v : Word) (s : State) : exec (.flush h v) s =
    hartWrites s h fun _ s => .next (s.run h (.bpFlush (bit v 0))) := rfl

/-- A row of a hart leaves the state as it is, or does what it says. -/
theorem State.KeepsRest.of_hartIf {c : Instr} {h : HartId} {ok : HartState → Bool} {f : State → State} {s t : State}
    (he : exec c s = hartIf s h ok fun _ s => .next (f s)) (hf : s.KeepsRest (f s) h) (ht : exec c s = .next t) :
    s.KeepsRest t h := by
  rw [he] at ht
  unfold hartIf live at ht
  dsimp only at ht
  split at ht
  · split at ht
    · cases ht; exact hf
    · cases ht; exact .refl s h
  · cases ht; exact .refl s h

/-- Settles O11: each row runs one instruction that makes no access, or resolves a branch, and each of these keeps what the
statement names. -/
theorem hartCommandsLeaveTheRestAlone : Obligations.HartCommandsLeaveTheRestAlone := by
  intro h f k v pc target taken b spec s t hq hs c hc ht
  have keeps : s.KeepsRest t h := by
    simp only [quietRows, List.mem_cons, List.not_mem_nil, or_false] at hc
    rcases hc with rfl | rfl | rfl | rfl | rfl | rfl | rfl | rfl | rfl | rfl | rfl | rfl | rfl | rfl | rfl | rfl
    · exact .of_hartIf (exec_fence_eq ..) (State.run_keeps rfl hq) ht
    · exact .of_hartIf (exec_fenceI_eq ..) (State.run_keeps rfl hq) ht
    · exact .of_hartIf (exec_sfenceVma_eq ..) (State.run_keeps rfl hq) ht
    · exact .of_hartIf (exec_hfenceVvma_eq ..) (State.run_keeps rfl hq) ht
    · exact .of_hartIf (exec_hfenceGvma_eq ..) (State.run_keeps rfl hq) ht
    · exact .of_hartIf (exec_sinvalVma_eq ..) (State.run_keeps rfl hq) ht
    · exact .of_hartIf (exec_sfenceWInval_eq ..) (State.run_keeps rfl hq) ht
    · exact .of_hartIf (exec_sfenceInvalIr_eq ..) (State.run_keeps rfl hq) ht
    · exact .of_hartIf (exec_wfi_eq ..) (State.wfi_keeps hq hs) ht
    · exact .of_hartIf (exec_branchMispredict_eq ..) (State.mispredict_keeps pc target b taken hq spec) ht
    · exact .of_hartIf (exec_cqzhueWrite_eq ..) (State.run_keeps rfl hq) ht
    · exact .of_hartIf (exec_cqzbpctlOffWrite_eq ..) (State.run_keeps rfl hq) ht
    · exact .of_hartIf (exec_flush_eq ..) (State.run_keeps rfl hq) ht
    · exact .of_hartIf (exec_flushL1i_eq ..) (State.run_keeps rfl hq) ht
    · exact .of_hartIf (exec_flushL1d_eq ..) (State.run_keeps rfl hq) ht
    · exact .of_hartIf (exec_flushL2_eq ..) (State.run_keeps rfl hq) ht
  have rest {α : Type} (g : State → α) : g t.rest = g s.rest := congrArg g keeps.rest
  exact ⟨rest (·.mem), rest (·.hub.hues), rest (·.hub.ledger), rest (·.hub.imsic), rest (·.mgmt.config), rest (·.mgmt.store),
    rest (·.mgmt.mode), rest (·.mgmt.mail), rest (·.fab.net), rest (·.fab.dies), rest (·.now), rest (·.pending), keeps.others,
    congrArg (·.1) keeps.own, congrArg (·.2.1) keeps.own, congrArg (·.2.2.1) keeps.own⟩

end Sys2Proof.Machine
end

section
/-! What reading a line keeps of the harts (R131, R137, R171). -/

namespace Sys2Proof.Machine

/-- What a hart has under way: its instructions, the HART_CTL operation that it owes and its walk. -/
def HartState.work (x : HartState) : List Waiting × List Fetched × Option Byte × Option Walk := (x.waiting, x.front, x.ctl, x.walk)

/-- From `s` to `t` every hart keeps what it has under way. -/
structure State.KeepsWork (s t : State) : Prop where
  work : ∀ i, (t.hart i).work = (s.hart i).work

theorem State.KeepsWork.refl (s : State) : s.KeepsWork s := ⟨fun _ => rfl⟩

theorem State.KeepsWork.trans {s t u : State} (a : s.KeepsWork t) (b : t.KeepsWork u) : s.KeepsWork u :=
  ⟨fun i => (b.work i).trans (a.work i)⟩

/-- A step that reaches no hart. -/
theorem State.KeepsWork.harts {s t u : State} (a : s.KeepsWork t) (e : u.fab.harts = t.fab.harts) : s.KeepsWork u :=
  a.trans ⟨fun i => by simp only [State.hart, e]⟩

/-- A step that replaces one hart by another with the same under way. -/
theorem State.KeepsWork.setHart {s t : State} (a : s.KeepsWork t) {j : Nat} {x : HartState} (hx : x.work = (t.hart j).work) :
    s.KeepsWork (t.setHart j x) := by
  refine a.trans ⟨fun i => ?_⟩
  rw [State.hart_setHart]
  split
  · next e => rw [e]; exact hx
  · rfl

theorem State.KeepsWork.forEach {α : Type} {f : State → α → State} (hf : ∀ (t : State) a, t.KeepsWork (f t a)) {s : State} (l : List α) :
    s.KeepsWork (s.forEach l f) :=
  State.forEach_keeps s.KeepsWork (fun t a _ ht => ht.trans (hf t a)) (.refl s)

theorem State.forEach_harts {α : Type} {f : State → α → State} (hf : ∀ (t : State) a, (f t a).fab.harts = t.fab.harts) (l : List α)
    (s : State) : (s.forEach l f).fab.harts = s.fab.harts :=
  State.forEach_keeps (fun t => t.fab.harts = s.fab.harts) (fun t a _ e => (hf t a).trans e) rfl

/-! ### Errors of the arrays -/

theorem State.logArray_fab (s : State) (src : ErrSource) (unit line info : Nat) (e : LineErr) (dirty : Bool) :
    (s.logArray src unit line info e dirty).fab = s.fab := by
  unfold State.logArray
  cases e <;> cases dirty <;> rfl

/-- An error of a core's copy replaces the core and is logged. -/
theorem State.logCore_setCore_harts (s : State) (i : Nat) (x : CoreState) (src : ErrSource) (c : CoreId) (line : Nat) (e : LineErr)
    (dirty : Bool) : ((s.setCore i x).logCore src c line e dirty).fab.harts = s.fab.harts := by
  rw [State.logCore_fab, State.setCore_fab_harts]

section
variable (s : State) (c : CoreId) (d : Fin 12) (line : Nat)

theorem State.settleCore_harts : (s.settleCore c line).fab.harts = s.fab.harts := by
  have l1i (t : State) : (t.settleL1i c line).fab.harts = t.fab.harts := by
    unfold State.settleL1i
    dsimp only
    split
    · split <;> simp only [State.logCore_setCore_harts]
    · rfl
  have l1d (t : State) : (t.settleL1d c line).fab.harts = t.fab.harts := by
    unfold State.settleL1d
    dsimp only
    split
    · split <;> simp only [State.logCore_setCore_harts]
    · rfl
  have l2 (t : State) : (t.settleL2 c line).fab.harts = t.fab.harts := by
    unfold State.settleL2
    dsimp only
    split
    · split <;> simp only [State.logCore_setCore_harts]
    · rfl
  exact (l2 _).trans ((l1d _).trans (l1i s))

/-! ### Probes and reservations -/

theorem State.endResv_keepsWork (cs : List (Fin 22)) (who : Option HartId) : s.KeepsWork (s.endResv d cs line who) := by
  unfold State.endResv
  exact .forEach (fun t h => by
    dsimp only
    split
    · exact (KeepsWork.refl t).setHart rfl
    · exact .refl t) _

theorem State.markDelay_keepsWork (hs : List HartId) : s.KeepsWork (s.markDelay hs) := by
  unfold State.markDelay
  exact .forEach (fun t _ => by exact (KeepsWork.refl t).setHart rfl) _

theorem State.probeCopies_harts (inval : Bool) (except : Option (Fin 22)) :
    (s.probeCopies d line inval except).fab.harts = s.fab.harts :=
  State.forEach_harts (fun _ _ => by simp only [State.setDie_fab_harts, State.setCore_fab_harts]) _ _

/-- A probe of the die's cores ends reservations, and reaches no other part of a hart. -/
theorem State.probeCores_keepsWork (inval : Bool) (except : Option (Fin 22)) (who : Option HartId) :
    s.KeepsWork (s.probeCores d line inval except who) :=
  (s.endResv_keepsWork d line _ who).harts (State.probeCopies_harts ..)

theorem State.settleL3_keepsWork : s.KeepsWork (s.settleL3 d line) := by
  unfold State.settleL3
  split
  · exact .refl s
  · split
    · exact .refl s
    · have logged (src unit info e dirty) : s.KeepsWork (s.logArray src unit line info e dirty) :=
        (State.KeepsWork.refl s).harts (congrArg Fabric.harts (State.logArray_fab ..))
      extract_lets t u x
      have probed : s.KeepsWork u := (logged .l3 d.val _ _ _).trans (State.probeCores_keepsWork t d line true none none)
      split
      · exact probed
      · exact probed.harts (State.setDie_fab_harts ..)

theorem State.settle_keepsWork : s.KeepsWork (s.settle d line) :=
  ((State.KeepsWork.refl s).harts (State.forEach_harts (fun t c => t.settleCore_harts c line) _ _)).trans
    (State.settleL3_keepsWork _ d line)

/-! ### Fills and requests -/

theorem State.fillL2_harts (c : Fin 22) (st : CState) (data : Bytes) (poison hint : Bool) :
    (s.fillL2 d c line st data poison hint).fab.harts = s.fab.harts := by
  unfold State.fillL2
  extract_lets k x set tree w evicted x' tree' filled
  split
  · rfl
  · have evicts : evicted.fab.harts = s.fab.harts := by
      unfold evicted
      split
      · simp only [State.setDie_fab_harts, State.setCore_fab_harts, State.settleCore_harts]
      · rfl
    clear_value evicted
    split <;> exact evicts

theorem State.dieSend_harts (m : Msg) : (s.dieSend d m).fab.harts = s.fab.harts := by
  unfold State.dieSend
  split <;> rfl

theorem State.askLine_harts (c : Fin 22) (k : MissKind) (hue : BitVec 12) (counted : Bool) (data : Option (Bytes × Bool)) :
    (s.askLine d c line k hue counted data).2.fab.harts = s.fab.harts := by
  unfold State.askLine
  dsimp only
  split
  · rfl
  · split
    · split <;> rfl
    · split
      · rfl
      · dsimp only
        split
        · rfl
        · exact State.dieSend_harts ..

end

/-- Reading a line keeps what every hart has under way: of the harts it reaches their reservations alone. -/
theorem State.readLine_keepsWork (s : State) (h : HartId) (line : Nat) (p : Path) (a : Ask) :
    s.KeepsWork (s.readLine h line p a).2 := by
  have settled := s.settle_keepsWork h.die line
  unfold State.readLine
  generalize s.settle h.die line = u at settled
  extract_lets k v x hint top cleaned up t owners held probed kind
  have fills (t : State) (data : Bytes) (poison : Bool) : (up t data poison).fab.harts = t.fab.harts := by
    unfold up
    extract_lets
    split
    · rfl
    · cases p <;> rfl
  have cleans : s.KeepsWork cleaned := settled.harts rfl
  have touches : t.fab.harts = cleaned.fab.harts := by
    unfold t
    split <;> rfl
  have probes : s.KeepsWork probed := by
    refine (cleans.trans (State.probeCores_keepsWork cleaned h.die line false (some h.core) none)).harts ?_
    unfold probed State.useL3
    split <;> rfl
  clear_value top cleaned up t probed
  cases top with
  | some e => exact settled.harts rfl
  | none =>
    dsimp only
    split
    · exact cleans.harts ((fills ..).trans touches)
    · split
      · split
        · exact cleans.trans (State.markDelay_keepsWork ..)
        · split
          · exact probes.harts ((fills ..).trans (State.fillL2_harts ..))
          · exact probes
      · exact cleans.harts (State.askLine_harts ..)

end Sys2Proof.Machine
end

section
/-! A read of a page-table walk that reads a leaf, or that misses (R94, R95). -/

namespace Sys2Proof.Machine

/-! ### Harts for which nothing waits -/

theorem HartState.quiet_of_work {x y : HartState} (e : y.work = x.work) (hq : x.quiet) : y.quiet := by
  simp only [HartState.work, Prod.mk.injEq] at e
  obtain ⟨hw, hf, hc, hk⟩ := e
  unfold HartState.quiet
  rw [hw, hf, hc, hk]
  exact hq

/-- From `s` to `t` harts, caches and messages in flight are kept. -/
structure State.Alike (s t : State) : Prop where
  hart : ∀ i, t.hart i = s.hart i
  cores : t.fab.cores = s.fab.cores
  dies : t.fab.dies = s.fab.dies
  net : t.fab.net = s.fab.net

theorem State.Alike.refl (s : State) : s.Alike s := ⟨fun _ => rfl, rfl, rfl, rfl⟩

theorem State.Alike.trans {s t u : State} (a : s.Alike t) (b : t.Alike u) : s.Alike u :=
  ⟨fun i => (b.hart i).trans (a.hart i), b.cores.trans a.cores, b.dies.trans a.dies, b.net.trans a.net⟩

/-- Trying again the operations of a hart for which nothing waits changes nothing. -/
theorem State.retryHart_alike {s : State} {h : HartId} (hq : (s.hart (hartIx h)).quiet) : s.Alike (s.retryHart h) := by
  rw [State.retryHart_quiet s h hq]
  refine ⟨fun i => ?_, rfl, rfl, rfl⟩
  rw [State.hart_setHart]
  split
  · next e =>
    obtain ⟨hw, -, -, -⟩ := hq
    rw [e, ← hw]
  · rfl

/-- A hart without a reservation before a step lets nothing go by it. -/
theorem State.settled_of_none {s : State} {h : HartId} (hr : (s.hart (hartIx h)).resv = none) (t : State) : s.settled t h = t := by
  simp [State.settled, hr]

/-- Nor does a step that keeps the hart. -/
theorem State.Alike.settled {s t : State} (a : s.Alike t) (h : HartId) : s.settled t h = t := by
  unfold State.settled
  rw [a.hart]
  cases (s.hart (hartIx h)).resv <;> rfl

/-! ### Where a walk ends -/

/-- A value that is put in a set of a translation cache is there. -/
theorem mem_place {α : Type} (same inSet : α → Bool) (ways : Nat) (l : List α) (a : α) (n : Nat) : a ∈ place same inSet ways l a n := by
  unfold place
  dsimp only
  split <;> simp

/-- The hart whose walk is done, with the walk's entry in its TLB. -/
def HartState.walked (x : HartState) (instr : Bool) (e : TlbEntry) (n : Nat) : HartState := { x.addTlb instr e n with walk := none }

theorem HartState.mem_walked (x : HartState) (need : Need) (e : TlbEntry) (n : Nat) :
    e ∈ (if need = .fetch then (x.walked (need = .fetch) e n).itlb else (x.walked (need = .fetch) e n).dtlb) := by
  unfold HartState.walked HartState.addTlb
  cases need <;> exact mem_place ..

theorem HartState.walked_quiet {x : HartState} (hq : x.quiet) (instr : Bool) (e : TlbEntry) (n : Nat) : (x.walked instr e n).quiet := by
  obtain ⟨hw, hf, hc, -⟩ := hq
  cases instr <;> exact ⟨hw, hf, hc, rfl⟩

section
variable (s : State) (h : HartId) {w : Walk}

theorem State.walkParity_harts (p q : WalkEntry → Bool) (r : TlbEntry → Bool) : (s.walkParity h p q r).fab.harts = s.fab.harts := by
  unfold State.walkParity State.tlbParity
  dsimp only
  split <;> rfl

theorem State.walkDone_hart (e : TlbEntry) (g : Option TlbEntry) :
    (s.walkDone h w e g).hart (hartIx h) = (s.hart (hartIx h)).walked (w.need = .fetch) e (Config.freeNat s.free) := by
  unfold State.walkDone
  dsimp only
  rw [State.setCore_hart, State.hart_setHart, if_pos rfl]
  rfl

/-- A single-stage walk that has its leaf is done (R95). -/
theorem State.walkSettle_single {l : S1Leaf} (hl : w.s1 = some l) (hg : w.gmode = 0) :
    ∃ n, (s.walkSettle h w).hart (hartIx h) = (s.hart (hartIx h)).walked (w.need = .fetch) (w.entry w.ctx.kind l) n := by
  unfold State.walkSettle
  extract_lets k parity x c keep gwalk
  have kept : parity.hart (hartIx h) = s.hart (hartIx h) := by simp only [State.hart, parity, State.walkParity_harts]
  clear_value parity
  simp only [hl, hg, if_true]
  exact ⟨Config.freeNat parity.free, by rw [State.walkDone_hart, kept]⟩

/-- The walk after its last read. -/
def Walk.leaf (w : Walk) (size ppn : Nat) (attr : Attr) (g : Bool) : Walk :=
  { w with asked := none, served := false,
           s1 := some { pa := ppn * 2 ^ size + w.va.toNat % 2 ^ size, sizeBits := size, attr := attr, global := w.global || g } }

/-- The walk's entry was a leaf with A = 1 that denies the access nothing (R89, R95, R97). -/
theorem State.walkGot_leaf {v : Word} {size ppn : Nat} {attr : Attr} {g : Bool} (hg : w.g = none)
    (hv : readPte v w.level false ((s.hart (hartIx h)).keyOn w.stamp.virt) ((s.hart (hartIx h)).shadowOn w.stamp.virt)
      ((s.hart (hartIx h)).pbmtOn w.stamp.virt false) = .leaf size ppn attr true g)
    (hd : (s.hart (hartIx h)).denies1 attr w.need w.stamp w.hint w.va = none) :
    s.walkGot h w v = s.walkSettle h (w.leaf size ppn attr g) := by
  unfold State.walkGot
  simp only [hg, hv, hd, Bool.not_true, Bool.false_eq_true, if_false]
  rw [← hg]
  rfl

/-! ### The read -/

/-- The state in which a walk reads its entry's line: the misses of a read that has not yet asked for it are counted (R484). -/
def State.walkCounted (s : State) (h : HartId) (w : Walk) (pa : Nat) : State :=
  if w.asked.isSome || w.served then s else s.countWalkMiss h (lineOf pa) w.stamp

/-- How a walk asks for a line. -/
def Walk.ask (w : Walk) : Ask := { va := 0, hue := w.stamp.hue, counted := w.asked.isSome, served := w.served, spec := w.spec }

theorem State.countBelow_work (line : Nat) (st : Stamp) : s.KeepsWork (s.countBelow h line st) := by
  have event (t : State) (code : Nat) : t.KeepsWork (t.hartEvent h code st) := by
    obtain ⟨c, g, e⟩ := t.hartEvent_only h code st
    rw [e]
    exact (State.KeepsWork.refl t).setHart rfl
  unfold State.countBelow
  split
  · exact .refl s
  · extract_lets t
    have counts : s.KeepsWork t := by
      obtain ⟨-, -, -, -, e, -⟩ := moved_uncount (s.hartEvent h 0x0E st) h.die.val 0x01 1 st.hue (s.classOf h.die.val st.hue) true
      exact (event s 0x0E).harts e
    split
    · exact counts.trans (event t 0x0F)
    · exact counts

/-- Counting the misses of a walk for which no instruction waits keeps what the hart has under way. -/
theorem State.walkCounted_work (hw : (s.hart (hartIx h)).waiting = []) (pa : Nat) :
    ((s.walkCounted h w pa).hart (hartIx h)).work = (s.hart (hartIx h)).work := by
  unfold State.walkCounted
  split
  · rfl
  · have counts := (s.countBelow_work h (lineOf pa) w.stamp).work (hartIx h)
    unfold State.countWalkMiss
    extract_lets t x owns
    have waiting : x.waiting = [] := (congrArg Prod.fst counts).trans hw
    rw [State.hart_setHart, if_pos rfl, ← counts]
    simp only [HartState.work, waiting, List.map_nil]
    exact congrArg (·, x.front, x.ctl, x.walk) waiting.symm

/-- Nor does reading the entry's line change what the hart has under way. -/
theorem State.walkCounted_readLine_work (hw : (s.hart (hartIx h)).waiting = []) {pa : Nat} {r : LineAns} {s1 : State}
    (hr : (s.walkCounted h w pa).readLine h (lineOf pa) .walk w.ask = (r, s1)) :
    (s1.hart (hartIx h)).work = (s.hart (hartIx h)).work := by
  have reads := (State.readLine_keepsWork (s.walkCounted h w pa) h (lineOf pa) .walk w.ask).work (hartIx h)
  rw [hr] at reads
  exact reads.trans (s.walkCounted_work h hw pa)

section
variable {pa : Nat} (hw : (s.hart (hartIx h)).walk = some w) (hf : w.fault = none) (hp : w.nextPa = some pa)
  (he : w.fillError = false) (hm : (s.region (s.partOfDie h.die.val) pa).isMemory = true)
  (ho : (s.hart (hartIx h)).pmpOk .s pa 8 .load = true) {s1 : State}
include hw hf hp he hm ho

/-- The read of an entry that is on the die, and not poisoned (R93, R94). -/
theorem State.walkRead_of_here {data : Bytes}
    (hr : (s.walkCounted h w pa).readLine h (lineOf pa) .walk w.ask = (.here data false, s1)) :
    s.walkRead h = s1.walkGot h w (BitVec.ofNat 64 (leAt data (pa % 64) 8)) := by
  unfold State.walkCounted Walk.ask at hr
  unfold State.walkRead
  simp only [hw, hf, hp, he, hm, ho, Option.isSome_none, Bool.not_true, Bool.or_self, Bool.false_eq_true, if_false, hr]

/-- The read of an entry that must be fetched (R94). -/
theorem State.walkRead_of_filed (hr : (s.walkCounted h w pa).readLine h (lineOf pa) .walk w.ask = (.filed, s1)) :
    s.walkRead h = s1.setHart (hartIx h) { s1.hart (hartIx h) with walk := some { w with asked := some (lineOf pa) } } := by
  unfold State.walkCounted Walk.ask at hr
  unfold State.walkRead
  simp only [hw, hf, hp, he, hm, ho, Option.isSome_none, Bool.not_true, Bool.or_self, Bool.false_eq_true, if_false, hr]

end

end

/-! ### The statement's clauses -/

theorem exec_walkRead {h : HartId} {s : State} (hl : s.clocked = true) (hr : (s.hart (hartIx h)).resv = none) :
    exec (.walkRead h) s = .next ((s.walkRead h).retryHart h) := by
  have he : exec (.walkRead h) s = execWalkRead h s := rfl
  rw [he, execWalkRead, live, if_pos hl, State.settled_of_none hr]

/-- A read of a walk that leaves its hart with nothing waiting has the effect of the read. -/
theorem walkRead_completes {h : HartId} {s y : State} {P : State → Prop} (hl : s.clocked = true)
    (hn : (s.hart (hartIx h)).resv = none) (hy : s.walkRead h = y) (hq : (y.hart (hartIx h)).quiet) (hP : ∀ t, y.Alike t → P t) :
    Completes (.walkRead h) s P := by
  subst hy
  exact ⟨_, exec_walkRead hl hn, hP _ (State.retryHart_alike hq)⟩

section
variable {h : HartId} {w : Walk} {pa : Nat} {s s1 : State} (hl : s.clocked = true) (hw : (s.hart (hartIx h)).walk = some w)
  (hf : w.fault = none) (he : w.fillError = false) (hp : w.nextPa = some pa) (hq : (s.hart (hartIx h)).quiet)
  (hn : (s.hart (hartIx h)).resv = none) (hm : (s.region (s.partOfDie h.die.val) pa).isMemory = true)
  (ho : (s.hart (hartIx h)).pmpOk .s pa 8 .load = true)
include hl hw hf he hp hq hn hm ho

/-- A single-stage walk that reads a leaf which denies nothing ends with the leaf's page in the TLB (R95). -/
theorem walkRead_leaf_completes {data : Bytes} (hg : w.g = none) (hz : w.gmode = 0)
    (hr : (s.walkCounted h w pa).readLine h (lineOf pa) .walk w.ask = (.here data false, s1)) {size ppn : Nat} {attr : Attr} {g : Bool}
    (hv : readPte (BitVec.ofNat 64 (leAt data (pa % 64) 8)) w.level false ((s1.hart (hartIx h)).keyOn w.stamp.virt)
      ((s1.hart (hartIx h)).shadowOn w.stamp.virt) ((s1.hart (hartIx h)).pbmtOn w.stamp.virt false) = .leaf size ppn attr true g)
    (hd : (s1.hart (hartIx h)).denies1 attr w.need w.stamp w.hint w.va = none) :
    Completes (.walkRead h) s fun t => (t.hart (hartIx h)).walk = none ∧
      ∃ e ∈ (if w.need = .fetch then (t.hart (hartIx h)).itlb else (t.hart (hartIx h)).dtlb),
        e.vpn = w.va.toNat / 2 ^ size ∧ e.sizeBits = size ∧
        e.ppn = (ppn * 2 ^ size + w.va.toNat % 2 ^ size) / 2 ^ size ∧ e.attr = attr := by
  obtain ⟨n, hart⟩ := s1.walkSettle_single h (w := w.leaf size ppn attr g) rfl hz
  have quiet : (s1.hart (hartIx h)).quiet := HartState.quiet_of_work (s.walkCounted_readLine_work h hq.1 hr) hq
  refine walkRead_completes hl hn ((s.walkRead_of_here h hw hf hp he hm ho hr).trans (s1.walkGot_leaf h hg hv hd))
    (by rw [hart]; exact HartState.walked_quiet quiet ..) fun t same => ?_
  rw [same.hart, hart]
  exact ⟨rfl, _, HartState.mem_walked .., rfl, rfl, rfl, rfl⟩

/-- A walk whose entry must be fetched waits for it with its request sent (R94). -/
theorem walkRead_filed_completes (hr : (s.walkCounted h w pa).readLine h (lineOf pa) .walk w.ask = (.filed, s1)) :
    Completes (.walkRead h) s fun t => (t.hart (hartIx h)).walk = some { w with asked := some (lineOf pa) } ∧
      t.fab.net = s1.fab.net ∧ t.fab.cores = s1.fab.cores := by
  obtain ⟨waiting, front, ctl, -⟩ := HartState.quiet_of_work (s.walkCounted_readLine_work h hq.1 hr) hq
  refine walkRead_completes hl hn (s.walkRead_of_filed h hw hf hp he hm ho hr) ?_ fun t same => ⟨?_, same.net, same.cores⟩
  · rw [State.hart_setHart, if_pos rfl]
    exact ⟨waiting, front, ctl, by simp [hf]⟩
  · rw [same.hart, State.hart_setHart, if_pos rfl]

end

end Sys2Proof.Machine
end

section
/-! Freed miss registers and ways, timers, debug requests and expired delays (R118, R121, R171, R274, R452). -/

namespace Sys2Proof.Machine

/-! ### Miss registers -/

/-- A step for each of some harts for which nothing waits, each of which changes nothing. -/
theorem State.forEach_alike {f : State → HartId → State} (hf : ∀ (t : State) h, (t.hart (hartIx h)).quiet → t.Alike (f t h)) {s : State}
    {l : List HartId} (hq : ∀ h ∈ l, (s.hart (hartIx h)).quiet) : s.Alike (s.forEach l f) :=
  State.forEach_keeps s.Alike (fun t h hh a => a.trans (hf t h (a.hart (hartIx h) ▸ hq h hh))) (.refl s)

theorem exec_missRegisterFreed {c : CoreId} {line : Nat} {s : State} (hl : s.clocked = true) :
    exec (.missRegisterFreed c line) s = .next (s.forEach (hartsOf c) fun s h => s.settled (s.retryHart h) h) := by
  have he : exec (.missRegisterFreed c line) s = execMissRegisterFreed c line s := rfl
  rw [he, execMissRegisterFreed, live, if_pos hl]

/-- At a core at which nothing waits, a freed miss register changes nothing (R121). -/
theorem missRegisterFreed_completes {c : CoreId} {line : Nat} {s : State} (hl : s.clocked = true)
    (hq : ∀ h ∈ hartsOf c, (s.hart (hartIx h)).quiet) : Completes (.missRegisterFreed c line) s s.Alike := by
  refine ⟨_, exec_missRegisterFreed hl, State.forEach_alike (fun t h hq => ?_) hq⟩
  have same := State.retryHart_alike hq
  rw [same.settled]
  exact same

/-! ### A die at which nothing waits -/

/-- From `s` to `t` every hart and die is kept. -/
structure State.Still (s t : State) : Prop where
  hart : ∀ i, t.hart i = s.hart i
  die : ∀ i, t.die i = s.die i

theorem State.Still.trans {s t u : State} (a : s.Still t) (b : t.Still u) : s.Still u :=
  ⟨fun i => (b.hart i).trans (a.hart i), fun i => (b.die i).trans (a.die i)⟩

theorem State.Alike.still {s t : State} (a : s.Alike t) : s.Still t :=
  ⟨a.hart, fun i => by simp only [State.die, a.dies]⟩

theorem State.Still.setDie {s t : State} (a : s.Still t) {j : Nat} {x : DieState} (hx : x = t.die j) : s.Still (t.setDie j x) := by
  refine a.trans ⟨fun _ => rfl, fun i => ?_⟩
  rw [State.die_setDie]
  split
  · next e => rw [e, hx]
  · rfl

section
variable {s t : State} {d : Fin 12}

theorem State.Still.quiet (a : s.Still t) (hq : s.dieQuiet d) : t.dieQuiet d := by
  unfold State.dieQuiet
  simp only [a.hart, a.die]
  exact hq

theorem State.Still.idle (a : s.Still t) (hi : s.dieIdle d) : t.dieIdle d := by
  unfold State.dieIdle
  simp only [a.die]
  exact ⟨a.quiet hi.1, hi.2⟩

theorem State.retryDie_still (hq : s.dieQuiet d) : s.Still (s.retryDie d) :=
  (State.forEach_alike (fun _ _ => State.retryHart_alike) hq.1).still

theorem State.releaseHeld_still (hh : (s.die d.val).held = []) : s.Still (s.releaseHeld d) := by
  unfold State.releaseHeld
  simp only [hh, State.forEach, List.foldl_nil]
  exact (State.Alike.refl s).still.setDie (by rw [← hh])

/-- Going on with the operations of a die changes nothing, where nothing waits. -/
theorem State.resume_still (hq : s.dieQuiet d) : s.Still (s.resume d) :=
  have retries := State.retryDie_still hq
  retries.trans (State.releaseHeld_still (retries.quiet hq).2)

theorem State.dieStir_still (hi : s.dieIdle d) : s.Still (s.dieStir d) := by
  have ⟨_, recalls, evicting, _⟩ := hi
  have stays : s.dieRecallGo d = s := by simp [State.dieRecallGo, recalls, State.forEach]
  have evicts : s.Still (s.dieEvict d) := by
    unfold State.dieEvict
    simp only [evicting, State.forEach, List.foldl_nil, List.filter_nil]
    exact (State.Alike.refl s).still.setDie (by rw [← evicting])
  unfold State.dieStir
  rw [stays]
  extract_lets u waiting
  obtain ⟨quiet, -, -, fills⟩ := evicts.idle hi
  have none_waits : waiting = [] := by
    simp only [waiting, List.map_eq_nil_iff, List.filter_eq_nil_iff]
    intro n hn
    simp [fills n hn]
  rw [none_waits]
  exact evicts.trans (State.resume_still quiet)

theorem State.afterResv_still (hi : s.dieIdle d) : s.Still (s.afterResv d) :=
  have releases := State.releaseHeld_still hi.1.2
  releases.trans (State.dieStir_still (releases.idle hi))

end

/-! ### A fill that waited for a way (R118) -/

/-- A hart for which a line has arrived, or is given up. -/
def HartState.freed (x : HartState) (line : Nat) (arrived : Bool) : HartState :=
  { x with waiting := x.waiting.map fun w => w.unasked line arrived
           walk := x.walk.map fun w => if w.asked = some line then { w with asked := none, served := arrived } else w }

theorem HartState.freed_quiet {x : HartState} (hq : x.quiet) (line : Nat) (arrived : Bool) : (x.freed line arrived).quiet := by
  obtain ⟨hw, hf, hc, hk⟩ := hq
  refine ⟨by simp [HartState.freed, hw], hf, hc, ?_⟩
  unfold HartState.freed
  cases hx : x.walk with
  | none => rfl
  | some w =>
    rw [hx] at hk
    simp only [Option.map_some]
    split <;> exact hk

/-- From `s` to `t` the dies are kept, and no hart for which nothing waited has something that waits. -/
structure State.StaysQuiet (s t : State) : Prop where
  quiet : ∀ i, (s.hart i).quiet → (t.hart i).quiet
  dies : t.fab.dies = s.fab.dies

theorem State.freeMiss_staysQuiet (s : State) (d : Fin 12) (line : Nat) (arrived : Bool) :
    s.StaysQuiet (s.freeMiss d line arrived) := by
  unfold State.freeMiss
  refine State.forEach_keeps s.StaysQuiet (fun t c _ ht => ?_)
    (State.forEach_keeps s.StaysQuiet (fun t h _ ht => ?_) ⟨fun _ => id, rfl⟩) <;> dsimp only <;> split
  · exact ⟨ht.quiet, ht.dies⟩
  · exact ht
  · refine ⟨fun i hi => ?_, ht.dies⟩
    rw [State.hart_setHart]
    split
    · next e => exact HartState.freed_quiet (e ▸ ht.quiet i hi) line arrived
    · exact ht.quiet i hi
  · exact ht

section
variable {s s1 : State} {d : Fin 12} {n : L3Miss} {m : Msg}

/-- A fill that is complete at a die at which nothing waits leaves no register for its line, and the L3 as it is. -/
theorem State.fillDone_die (st : CState) (ho : n.wantOwn = false) (hq : s.dieQuiet d) :
    ((s.fillDone d n st).die d.val).findMiss n.line = none ∧ ((s.fillDone d n st).die d.val).l3 = (s.die d.val).l3 := by
  obtain ⟨quiet, held⟩ := hq
  have frees := (s.dropMiss d n.line).freeMiss_staysQuiet d n.line true
  unfold State.fillDone
  simp only [ho, Bool.false_and, Bool.false_eq_true, if_false]
  generalize (s.dropMiss d n.line).freeMiss d n.line true = t at frees
  have die : t.die d.val = { s.die d.val with miss := (s.die d.val).miss.filter (·.line ≠ n.line) } := by
    simp only [State.die, frees.dies]
    exact (State.die_setDie ..).trans (if_pos rfl)
  have still := State.resume_still (s := t) (d := d) ⟨fun h hh => frees.quiet _ (quiet h hh), by rw [die]; exact held⟩
  rw [still.die, die]
  exact ⟨by simp [DieState.findMiss], rfl⟩

/-- A fill that waited for a way is complete once its data is in the L3 (R118). -/
theorem State.dieWayFreed_installs {line : Nat} (hm : (s.die d.val).findMiss line = some n) (hf : n.filled = some m) (hc : n.nc = false)
    (hd : n.ncDirty = false)
    (hi : s.installL3 d n.line (grantState m.flag) m.data (m.poison || m.flag = 3) n.hint n.hue n.spec = (true, s1)) :
    s.dieWayFreed d line = s1.fillDone d n (grantState m.flag) := by
  unfold State.dieWayFreed
  simp only [hm, hf]
  unfold State.tryFill
  simp only [hc, hd, Bool.false_and, Bool.false_eq_true, if_false, hi]

end

/-- The clause for a fill that waited for a way which the die now has. -/
theorem l3WayFreed_completes {d : Fin 12} {n : L3Miss} {m : Msg} {s s1 : State} (hl : s.clocked = true)
    (hm : (s.die d.val).findMiss n.line = some n) (hf : n.filled = some m) (hc : n.nc = false) (ho : n.wantOwn = false)
    (hd : n.ncDirty = false)
    (hi : s.installL3 d n.line (grantState m.flag) m.data (m.poison || m.flag = 3) n.hint n.hue n.spec = (true, s1))
    (hq : s1.dieQuiet d) : Completes (.l3WayFreed d n.line) s fun t =>
      (t.die d.val).findMiss n.line = none ∧ (t.die d.val).l3 = (s1.die d.val).l3 := by
  have runs : exec (.l3WayFreed d n.line) s = .next (s.dieWayFreed d n.line) := if_pos hl
  rw [State.dieWayFreed_installs hm hf hc hd hi] at runs
  exact ⟨_, runs, State.fillDone_die _ ho hq⟩

/-! ### The timer (R274) -/

theorem bit_putFld_one (v : Word) {i : Nat} (hi : i < 64) : bit (putFld v i 1 1) i = true := by
  unfold bit putFld
  rw [BitVec.testBit_toNat, BitVec.getLsbD_or, Bool.or_eq_true]
  refine .inr ?_
  rw [BitVec.getLsbD_ofNat]
  simp [hi, Nat.one_shiftLeft, Nat.testBit_two_pow_self]

theorem HartState.getCsr_csrBit (x : HartState) (n i : Nat) (b : Bool) (k : Nat) : (x.csrBit n i b).getCsr k =
    if k = n then putFld (x.getCsr n) i 1 (bitOf b) else x.getCsr k := Table.get_put ..

theorem HartState.getCsr_wake (x : HartState) (k : Nat) : x.wake.getCsr k = x.getCsr k := by
  unfold HartState.wake
  split <;> rfl

/-- A hart in WFI wakes when an interrupt is pending and enabled. -/
theorem HartState.wake_run {x : HartState} {i : Nat} (hr : x.run = .wfi) (hp : bit (x.getCsr 0x344) i = true)
    (he : bit (x.getCsr 0x304) i = true) : x.wake.run = .running := by
  have pending : x.getCsr 0x344 &&& x.getCsr 0x304 ≠ 0 := fun e => by
    have both : bit (x.getCsr 0x344 &&& x.getCsr 0x304) i = true := by
      unfold bit at hp he ⊢
      rw [BitVec.toNat_and, Nat.testBit_and, hp, he, Bool.and_self]
    rw [e] at both
    simp [bit] at both
  have woken : (decide (x.run = .wfi) && decide (x.getCsr 0x344 &&& x.getCsr 0x304 ≠ 0)) = true := by
    rw [decide_eq_true hr, decide_eq_true pending, Bool.and_self]
  rw [HartState.wake, if_pos woken]

theorem State.reach_le (s : State) (v : Word) : v.toNat ≤ (s.reach v).now.toNat := by
  unfold State.reach
  split
  · exact Nat.le_refl _
  · omega

theorem HartState.pending_wake (x : HartState) {i : Nat} (hi : i < 64) : bit ((x.csrBit 0x344 i true).wake.getCsr 0x344) i = true := by
  rw [HartState.getCsr_wake, HartState.getCsr_csrBit, if_pos rfl]
  exact bit_putFld_one _ hi

/-! ### A debug request (R452) -/

theorem State.stopAt_cores (s : State) (h : HartId) : (s.stopAt h).fab.cores = s.fab.cores :=
  (State.squashed_counted ..).cores.trans (s.squash_counted h).cores

/-! ### The delay of a reservation (R171) -/

/-- The hart whose reservation has delayed a probe to the end. -/
def HartState.spent (x : HartState) (r : Resv) : HartState := { x with resv := some { r with expired := true } }

theorem State.spent_idle {s : State} {d : Fin 12} (hi : s.dieIdle d) (i : Nat) (r : Resv) :
    (s.setHart i ((s.hart i).spent r)).dieIdle d := by
  obtain ⟨⟨quiet, held⟩, rest⟩ := hi
  have keeps : s.KeepsWork (s.setHart i ((s.hart i).spent r)) := (State.KeepsWork.refl s).setHart rfl
  exact ⟨⟨fun g hg => HartState.quiet_of_work (keeps.work _) (quiet g hg), held⟩, rest⟩

/-! ### The statement's clauses -/

section
variable {h : HartId} {s : State} (hl : s.clocked = true)
include hl

/-- The machine timer is pending, and wakes a hart that enables it. -/
theorem mtimecmpMatch_completes : Completes (.mtimecmpMatch h false) s fun t => bit ((t.hart (hartIx h)).getCsr 0x344) 7 = true ∧
    ((s.hart (hartIx h)).run = .wfi → bit ((s.hart (hartIx h)).getCsr 0x304) 7 = true → (t.hart (hartIx h)).run = .running) ∧
    (s.hart (hartIx h)).mtimecmp.toNat ≤ t.now.toNat := by
  have runs : exec (.mtimecmpMatch h false) s = .next ((s.reach (s.hart (hartIx h)).mtimecmp).setHart (hartIx h)
      ((s.hart (hartIx h)).csrBit 0x344 7 true).wake) := if_pos hl
  have pending := HartState.pending_wake (s.hart (hartIx h)) (i := 7) (by decide)
  refine ⟨_, runs, ?_⟩
  dsimp only
  rw [State.hart_setHart, if_pos rfl]
  refine ⟨pending, fun hw he => HartState.wake_run hw ((HartState.getCsr_wake ..) ▸ pending) ?_, s.reach_le _⟩
  rw [HartState.getCsr_csrBit, if_neg (by decide)]
  exact he

/-- With Sstc, the supervisor's timer is pending. -/
theorem mtimecmpMatch_supervisor_completes (hs : bit ((s.hart (hartIx h)).getCsr 0x30A) 63 = true) :
    Completes (.mtimecmpMatch h true) s fun t => bit ((t.hart (hartIx h)).getCsr 0x344) 5 = true := by
  have runs : exec (.mtimecmpMatch h true) s = .next ((s.reach ((s.hart (hartIx h)).getCsr 0x14D)).setHart (hartIx h)
      ((s.hart (hartIx h)).csrBit 0x344 5 true).wake) := (if_pos hl).trans (if_pos hs)
  refine ⟨_, runs, ?_⟩
  dsimp only
  rw [State.hart_setHart, if_pos rfl]
  exact HartState.pending_wake _ (by decide)

/-- A debug request wakes the core, and the hart enters Debug mode. -/
theorem debugHaltRequest_completes (hr : (s.hart (hartIx h)).run ≠ .held) (hd : (s.hart (hartIx h)).run ≠ .debug) :
    Completes (.debugHaltRequest h) s fun t => (t.hart (hartIx h)).run = .debug ∧ (t.core (coreIx h)).idle = .cs0 := by
  have runs : exec (.debugHaltRequest h) s = execDebugHaltRequest h s := rfl
  simp only [execDebugHaltRequest, live, hl, if_true, hr, hd, decide_false, Bool.or_self, Bool.false_eq_true, if_false] at runs
  refine ⟨_, runs, ?_, ?_⟩
  · rw [State.hart_setHart, if_pos rfl]
    rfl
  · simp only [State.core, State.setHart_fab_cores, State.stopAt_cores, State.meterSend_cores]
    exact congrArg CoreState.idle ((State.core_setCore ..).trans (if_pos rfl))

/-- A spent delay is marked, and at a die where nothing else waits nothing follows. -/
theorem lrReservationDelayExpiry_completes {r : Resv} (hr : (s.hart (hartIx h)).resv = some r) (hd : r.delaying = true)
    (hi : s.dieIdle h.die) :
    Completes (.lrReservationDelayExpiry h) s fun t => (t.hart (hartIx h)).resv = some { r with expired := true } := by
  have runs : exec (.lrReservationDelayExpiry h) s =
      .next ((s.setHart (hartIx h) ((s.hart (hartIx h)).spent r)).afterResv h.die) := by
    have he : exec (.lrReservationDelayExpiry h) s = execLrReservationDelayExpiry h s := rfl
    simp only [he, execLrReservationDelayExpiry, live, hl, if_true, hr, HartState.spent, hd]
  refine ⟨_, runs, ?_⟩
  dsimp only
  rw [(State.afterResv_still (State.spent_idle hi _ r)).hart, State.hart_setHart, if_pos rfl]
  rfl

end

/-- Settles O9: a walk's read that reads its leaf and one that misses, a miss register and a way that are freed, the timers, a debug
request and a delay that is spent, each at a hart, core or die at which nothing else waits. -/
theorem walksFillsAndTimersAdvance : Obligations.WalksFillsAndTimersAdvance := by
  refine ⟨fun h w pa data s s1 hl => ?_, fun c line s hl hq => ?_, fun c line s hl => exec_missRegisterFreed hl,
    fun d n m s s1 hl _ hm hf hc ho hd hi hq => l3WayFreed_completes hl hm hf hc ho hd hi hq,
    fun h s hl => ⟨mtimecmpMatch_completes hl, mtimecmpMatch_supervisor_completes hl⟩,
    fun h s hl hr hd => debugHaltRequest_completes hl hr hd,
    fun h r s hl hr hd hi => lrReservationDelayExpiry_completes hl hr hd hi⟩
  · intro x hw hf hg _ hz he hp hq hn hm ho s0 q
    exact ⟨fun hr size ppn attr g hv hd => walkRead_leaf_completes hl hw hf he hp hq hn hm ho hg hz hr hv hd,
      fun hr => walkRead_filed_completes hl hw hf he hp hq hn hm ho hr⟩
  · obtain ⟨t, runs, same⟩ := missRegisterFreed_completes (line := line) hl hq
    exact ⟨t, runs, same.hart, same.cores, same.dies, same.net⟩

end Sys2Proof.Machine
end

section
/-! Prefetch hints and fetches that are tried at once (R75, R82, R83, R124, R125, R131). -/

namespace Sys2Proof.Machine

/-! ### The end of a hint and of a fetch -/

theorem linesOf_of_counted {s t : State} {h : HartId} (a : s.Counted t h) : linesOf s t := ⟨a.cores, a.dies, a.net⟩

theorem linesOf_setHart {y s : State} (hl : linesOf y s) (i : Nat) (x : HartState) : linesOf y (s.setHart i x) := hl

theorem linesOf_die {y u : State} (hl : linesOf y u) (i : Nat) : u.die i = y.die i := by simp only [State.die, hl.2.1]

theorem State.hartEvent_counted (s : State) (h : HartId) (code : Nat) (st : Stamp) : s.Counted (s.hartEvent h code st) h := by
  obtain ⟨c, g, e⟩ := s.hartEvent_only h code st
  rw [e]
  exact s.counted_setHart h _ rfl

/-- The end of a fetch retires nothing. -/
theorem State.endDone_fetch_counted (s : State) (h : HartId) {w : Waiting} (hw : w.op.isFetch = true) :
    s.Counted (s.endDone h w) h := by
  have fetch : (s.takeFlags h w).1.op.isFetch = true := hw
  unfold State.endDone
  simp only [fetch, Bool.not_true, Bool.and_false, Bool.false_eq_true, if_false]
  exact (s.takeFlags_counted h w).trans (State.endSample_counted ..)

/-- The end of a hint retires it. -/
theorem State.endDone_hint_counted (s : State) (h : HartId) {w : Waiting} {k : Hint} {a : Access} (hw : w.op = .hint k a) :
    (s.retired h).Counted (s.endDone h w) h := by
  have retires : (s.retired h).Counted ((s.takeFlags h w).2.setHart (hartIx h)
      (((s.takeFlags h w).2.hart (hartIx h)).retire (s.takeFlags h w).1.stamp)) h :=
    (s.takeFlags_counted h w).setHart _ _ (by rw [HartState.uncounted_retire]; simp only [State.takeFlags, State.hart_setHart]; rfl)
  have ends : s.endDone h w = ((s.takeFlags h w).2.setHart (hartIx h)
      (((s.takeFlags h w).2.hart (hartIx h)).retire (s.takeFlags h w).1.stamp)).endSample h (s.takeFlags h w).1 1 := by
    have op : (s.takeFlags h w).1.op = .hint k a := hw
    simp only [State.endDone, op, HartOp.isHint, HartOp.isFetch, Bool.not_false, Bool.and_self, if_true]
  rw [ends]
  exact retires.trans (State.endSample_counted ..)

/-- What joins the waiting operations is among them. -/
theorem State.mem_park (s : State) (h : HartId) (w : Waiting) : w ∈ ((s.park h w).hart (hartIx h)).waiting := by
  rw [State.park, State.hart_setHart, if_pos rfl]
  exact List.mem_append_right _ List.mem_cons_self

/-! ### Hints -/

theorem exec_hintRow {k : Hint} {h : HartId} {a : Access} {s : State} (ha : s.accesses h (·.stamp) = true) :
    exec (hintRow k h a) s = .next (s.run h (.hint k a)) := by
  cases k with
  | r => exact exec_run_of_accesses ha (exec_prefetchR_eq ..)
  | w => exact exec_run_of_accesses ha (exec_prefetchW_eq ..)
  | i => exact exec_run_of_accesses ha (exec_prefetchI_eq ..)

section hints
variable {k : Hint} {h : HartId} {a : Access} {s y z : State} {w w' : Waiting}

/-- A hint on the correct path is one attempt, which needs no permission of its environment. -/
theorem State.attempt_hint (hw : w.op = .hint k a) (hi : w.issued = false) : y.attempt h w = y.tryHint h w k a false := by
  simp [State.attempt, hw, hi, HartState.may]

/-- A speculative one does as much, but for PREFETCH.W (R82). -/
theorem State.glimpse_hint (hw : w.op = .hint k a) (hk : k ≠ .w) : y.glimpse h w = y.tryHint h w k a true := by
  unfold State.glimpse
  rw [hw]
  cases k with
  | w => exact absurd rfl hk
  | r => rfl
  | i => rfl

/-- A speculative hint that is done stays in the window (R80), and its caches are those of its attempt. -/
theorem State.issue_spec_done (hs : w.op.isSpec = true) (ht : y.glimpse h w = (.done, z)) : linesOf z (y.issue h w).2 := by
  have op : (z.takeFlags h w).1.op.isSpec = true := hs
  have takes := linesOf_of_counted (z.takeFlags_counted h w)
  simp only [State.issue, hs, Bool.true_or, if_true, State.issueSpec, ht, op, Bool.not_true, Bool.false_eq_true, if_false]
  unfold State.specEnd
  split
  · exact takes
  · exact linesOf_setHart takes ..

/-- One that must wait joins the waiting ones. -/
theorem State.issue_spec_wait (hs : w.op.isSpec = true) (ht : y.glimpse h w = (.wait w', z)) :
    linesOf z (y.issue h w).2 ∧ ∃ v ∈ ((y.issue h w).2.hart (hartIx h)).waiting, v.op = w'.op := by
  have takes := linesOf_of_counted (z.takeFlags_counted h w')
  simp only [State.issue, hs, Bool.true_or, if_true, State.issueSpec, ht]
  exact ⟨linesOf_setHart takes .., _, State.mem_park .., rfl⟩

variable (hp : (y.hart (hartIx h)).waiting.any Waiting.canTrap = false) (hs : w.op.isSpec = false)
include hp hs

/-- An instruction on the correct path that is done ends. -/
theorem State.issue_done (ht : y.attempt h w = (.done, z)) : (y.issue h w).2 = z.endDone h w := by
  simp only [State.issue, hs, hp, Bool.or_self, Bool.false_eq_true, if_false, ht]

/-- One that must wait joins the waiting ones. -/
theorem State.issue_wait (ht : y.attempt h w = (.wait w', z)) :
    linesOf z (y.issue h w).2 ∧ ∃ v ∈ ((y.issue h w).2.hart (hartIx h)).waiting, v.op = w'.op ∧ v.issued = w'.issued := by
  have takes := linesOf_of_counted (z.takeFlags_counted h w')
  simp only [State.issue, hs, hp, Bool.or_self, Bool.false_eq_true, if_false, ht]
  exact ⟨linesOf_setHart takes .., _, State.mem_park .., rfl, rfl⟩

end hints

/-- What becomes of a hint that has asked the caches for its line (R124, R125). -/
def hintEnd (h : HartId) (w : Waiting) (line : Nat) : LineAns × State → Att × State
  | (.here _ _, s) => (.done, s)
  | (.filed, s) => (.wait (w.asked line), s)
  | (.wait, s) => (.wait w, s)
  | (.drop, s) => s.dropHint h w.stamp

section tryHint
variable {k : Hint} {h : HartId} {a : Access} {spec : Bool} {s s1 s2 : State} {w : Waiting} {p : Part} {ps : List Part}

/-- A hint whose checks fail is dropped (R125). -/
theorem State.tryHint_of_fault {t : TrapInfo}
    (hc : s.check h w (hintNeed k) .hint spec true false true [(a.va, 1)] = (.fault t, s1)) :
    s.tryHint h w k a spec = s1.dropHint h w.stamp := by
  unfold State.tryHint
  cases k
  all_goals
    dsimp only [hintNeed] at hc ⊢
    rw [hc]

variable (hc : s.check h w (hintNeed k) .hint spec true false true [(a.va, 1)] = (.ok (p :: ps), s1)) (hm : p.at_ = .mem)
include hc hm

/-- A hint to cacheable memory asks the caches for its line (R124, R131). -/
theorem State.tryHint_of_ok : s.tryHint h w k a spec = hintEnd h { w with parts := p :: ps } (lineOf p.pa)
    (hintLine s1 h k p ({ w with parts := p :: ps }.ask p.va (lineOf p.pa) spec)) := by
  generalize hl : hintLine s1 h k p ({ w with parts := p :: ps }.ask p.va (lineOf p.pa) spec) = r
  obtain ⟨r, s2⟩ := r
  unfold State.tryHint
  cases k
  all_goals
    dsimp only [hintNeed, hintLine] at hc hl ⊢
    rw [hc]
    dsimp only
    rw [if_neg (not_not_intro hm), hl]
    cases r <;> rfl

/-- One whose line must be fetched, or waited for, waits. -/
theorem State.tryHint_of_wait
    (hl : hintLine s1 h k p ({ w with parts := p :: ps }.ask p.va (lineOf p.pa) spec) = (.filed, s2) ∨
      hintLine s1 h k p ({ w with parts := p :: ps }.ask p.va (lineOf p.pa) spec) = (.wait, s2)) :
    ∃ w', s.tryHint h w k a spec = (.wait w', s2) ∧ w'.op = w.op := by
  have asked (v : Waiting) (l : Nat) : (v.asked l).op = v.op := by
    unfold Waiting.asked
    split <;> rfl
  rw [State.tryHint_of_ok hc hm]
  rcases hl with hl | hl
  · exact ⟨_, congrArg (hintEnd h _ _) hl, asked { w with parts := p :: ps } _⟩
  · exact ⟨_, congrArg (hintEnd h _ _) hl, rfl⟩

end tryHint

/-! ### The clauses for hints -/

/-- The caches are those of `y`, and so are the pc and the privilege of the hart. -/
def hintLeaves (y u : State) (h : HartId) : Prop :=
  linesOf y u ∧ (u.hart (hartIx h)).pc = (y.hart (hartIx h)).pc ∧ (u.hart (hartIx h)).priv = (y.hart (hartIx h)).priv

section
variable {k : Hint} {h : HartId} {a : Access} {s y : State} (hr : s.ready h (.hint k a) = true)
include hr

/-- Nothing that waits before a hint that is tried at once can raise an exception. -/
theorem hint_starts_canTrap : ((s.starts h (.hint k a)).2.hart (hartIx h)).waiting.any Waiting.canTrap = false := by
  rw [State.starts_waiting, State.canTrap_of_ready hr]

variable (ha : s.accesses h (·.stamp) = true)
include ha

/-- A hint that is tried at once leaves what its issue leaves. -/
theorem completesAt_of_issue {P : State → Prop} (hP : P ((s.starts h (.hint k a)).2.issue h (s.starts h (.hint k a)).1).2) :
    CompletesAt (hintRow k h a) h s P :=
  ⟨_, by rw [exec_hintRow ha, State.run_ready hr], hP⟩

/-- A hint on the correct path whose attempt is done ends there. -/
theorem hint_completes_done (hs : a.spec = false)
    (ht : (s.starts h (.hint k a)).2.tryHint h (s.starts h (.hint k a)).1 k a false = (.done, y)) :
    CompletesAt (hintRow k h a) h s (hintLeaves y · h) := by
  refine completesAt_of_issue hr ha ?_
  have op := s.starts_op h (.hint k a)
  rw [State.issue_done (hint_starts_canTrap hr) (by rw [op]; exact hs) ((State.attempt_hint op (s.starts_issued ..)).trans ht)]
  have ends := y.endDone_hint_counted h op
  have lines := linesOf_of_counted ends
  exact ⟨lines, (ends.get (·.pc)).trans (by simp), (ends.get (·.priv)).trans (by simp)⟩

/-- A hint that asks the caches, on either path. -/
theorem hint_completes_here (hk : k = .w → a.spec = false)
    (ht : (s.starts h (.hint k a)).2.tryHint h (s.starts h (.hint k a)).1 k a a.spec = (.done, y)) :
    CompletesAt (hintRow k h a) h s (linesOf y ·) := by
  cases hs : a.spec with
  | false =>
    obtain ⟨u, runs, lines, -⟩ := hint_completes_done hr ha hs (hs ▸ ht)
    exact ⟨u, runs, lines⟩
  | true =>
    have op := s.starts_op h (.hint k a)
    have reads : k ≠ .w := fun e => by rw [hk e] at hs; cases hs
    exact completesAt_of_issue hr ha
      (State.issue_spec_done (by rw [op]; exact hs) ((State.glimpse_hint op reads).trans (hs ▸ ht)))

/-- A hint whose line must be fetched waits, on either path. -/
theorem hint_completes_wait (hk : k = .w → a.spec = false) {w : Waiting} (hw : w.op = .hint k a)
    (ht : (s.starts h (.hint k a)).2.tryHint h (s.starts h (.hint k a)).1 k a a.spec = (.wait w, y)) :
    CompletesAt (hintRow k h a) h s fun u => linesOf y u ∧ ∃ v ∈ (u.hart (hartIx h)).waiting, v.op = .hint k a := by
  refine completesAt_of_issue hr ha ?_
  have op := s.starts_op h (.hint k a)
  cases hs : a.spec with
  | false =>
    obtain ⟨lines, v, mem, e, -⟩ := State.issue_wait (hint_starts_canTrap hr) (by rw [op]; exact hs)
      ((State.attempt_hint op (s.starts_issued ..)).trans (hs ▸ ht))
    exact ⟨lines, v, mem, e.trans hw⟩
  | true =>
    have reads : k ≠ .w := fun e => by rw [hk e] at hs; cases hs
    obtain ⟨lines, v, mem, e⟩ := State.issue_spec_wait (by rw [op]; exact hs) ((State.glimpse_hint op reads).trans (hs ▸ ht))
    exact ⟨lines, v, mem, e.trans hw⟩

end

/-- A hint whose checks fail is dropped (R125). -/
theorem hint_completes_fault {k : Hint} {h : HartId} {a : Access} {s s1 : State} {t : TrapInfo} (hr : s.ready h (.hint k a) = true)
    (ha : s.accesses h (·.stamp) = true) (hs : a.spec = false)
    (hc : (s.starts h (.hint k a)).2.check h (s.starts h (.hint k a)).1 (hintNeed k) .hint false true false true [(a.va, 1)] =
      (.fault t, s1)) : CompletesAt (hintRow k h a) h s (hintLeaves s1 · h) := by
  obtain ⟨u, runs, lines, pc, priv⟩ := hint_completes_done hr ha hs (State.tryHint_of_fault hc)
  have counts := s1.hartEvent_counted h 0x18 (s.starts h (.hint k a)).1.stamp
  obtain ⟨cores, dies, net⟩ := lines
  exact ⟨u, runs, ⟨cores.trans counts.cores, dies.trans counts.dies, net.trans counts.net⟩, pc.trans (counts.get (·.pc)),
    priv.trans (counts.get (·.priv))⟩

/-- A speculative PREFETCH.W acts on no cache (R82). -/
theorem hint_completes_specW {h : HartId} {a : Access} {s : State} (hr : s.ready h (.hint .w a) = true)
    (ha : s.accesses h (·.stamp) = true) (hs : a.spec = true) : CompletesAt (.prefetchW h a) h s (linesOf s ·) := by
  have op := s.starts_op h (.hint .w a)
  obtain ⟨u, runs, cores, dies, net⟩ := completesAt_of_issue hr ha (State.issue_spec_done (by rw [op]; exact hs)
    (show State.glimpse _ h _ = (.done, (s.starts h (.hint .w a)).2) by rw [State.glimpse, op]))
  exact ⟨u, runs, cores.trans (s.starts_cores ..), dies.trans (s.starts_dies ..), net.trans (s.starts_net ..)⟩

/-! ### Fetches -/

/-- A fetch whose checks pass reads its line (R83, R131). -/
theorem State.tryFetch_of_read {s s1 s2 : State} {h : HartId} {w : Waiting} {va : Word} {ps : List Part} {b : Bytes}
    (hc : s.check h w .fetch .fetch false false true true [(va, 1)] = (.ok ps, s1))
    (hb : s1.readParts h { w with parts := ps } .fetch false ps = (.ok (b, false), s2)) :
    s.tryFetch h w va false = (.done, s2) := by
  simp only [State.tryFetch, hc, hb, Bool.false_and, Bool.false_eq_true, if_false]

/-- A fetch on the correct path that is tried at once and reads its line without poison. -/
theorem State.newOpAt_fetch {s s1 s2 : State} {h : HartId} {va : Word} {ps : List Part} {b : Bytes}
    (hr : s.ready h (.fetch va false) = true)
    (hc : (s.startsAt h (.fetch va false) va).2.check h (s.startsAt h (.fetch va false) va).1 .fetch .fetch false false true true
      [(va, 1)] = (.ok ps, s1))
    (hb : s1.readParts h { (s.startsAt h (.fetch va false) va).1 with parts := ps } .fetch false ps = (.ok (b, false), s2)) :
    s2.Counted (s.newOpAt h (.fetch va false) va) h := by
  have fetch : (s.startsAt h (.fetch va false) va).1.op = .fetch va false := State.dispatch_op _
  have older : ((s.startsAt h (.fetch va false) va).2.hart (hartIx h)).waiting.any Waiting.canTrap = false := by
    obtain ⟨_, _, _, counted, -⟩ := s.startsAt_only h (.fetch va false) va
    rw [counted.get (·.waiting), State.hart_setHart, if_pos rfl]
    exact State.canTrap_of_ready hr
  have attempt : (s.startsAt h (.fetch va false) va).2.attempt h (s.startsAt h (.fetch va false) va).1 = (.done, s2) := by
    rw [← State.tryFetch_of_read hc hb]
    simp [State.attempt, fetch, HartState.may]
  rw [s.newOpAt_ready h _ va hr, State.issue_done older (by rw [fetch]; rfl) attempt]
  exact s2.endDone_fetch_counted h (by rw [fetch]; rfl)

/-! ### The statement -/

/-- Settles O4: a hint is one attempt, on the correct path or as far as a speculative one goes; a fetch on the correct path is an
instruction of its own at its address. -/
theorem hintsAndFetchesFillTheCaches : Obligations.HintsAndFetchesFillTheCaches := by
  refine ⟨?hints, ?fetches, ?ahead⟩
  case hints =>
    intro k h a s s1 c op w ha hr hc
    refine ⟨?asks, fun t e hs => hint_completes_fault hr ha hs (by rw [e, hs] at hc; exact hc),
      fun hk hs => hint_completes_specW (hk ▸ hr) ha hs⟩
    intro p ps e hm hk q
    rw [e] at hc
    refine ⟨fun d b s2 hl => hint_completes_here hr ha hk ((State.tryHint_of_ok hc hm).trans (congrArg (hintEnd h _ _) hl)),
      fun s2 hl => ?_⟩
    obtain ⟨v, ht, hv⟩ := State.tryHint_of_wait hc hm hl
    exact hint_completes_wait hr ha hk (hv.trans (s.starts_op ..)) ht
  case fetches =>
    intro h va after s s0 s0' op ha hr s1 s2 ps b hc hb
    have counted := State.newOpAt_fetch hr hc hb
    refine ⟨s0'.newOpAt h (.fetch va false) va, ?_, linesOf_of_counted counted, counted.get (·.pc)⟩
    have here : s.fetchHere h va after = s0'.newOpAt h (.fetch va false) va := by
      unfold State.fetchHere
      cases after <;> rfl
    rw [exec_instructionFetch_eq, hartAccess_of_accesses ha, ← here]
    dsimp only
    rw [if_neg Bool.false_ne_true]
  case ahead =>
    intro h va after s ha hs
    have stays : s.fetchAhead h va after = s := if_pos (by
      rcases hs with hs | ⟨off, b, rfl, hb⟩
      · simp [hs]
      · simp [off, hb])
    rw [exec_instructionFetch_eq, hartAccess_of_accesses ha]
    dsimp only
    rw [if_pos rfl, stays, (State.Alike.refl s).settled]

end Sys2Proof.Machine
end

section
/-! CBO.CLEAN, CBO.FLUSH and CBO.INVAL that are tried at once (R126, R128, R142, R160, R190). -/

namespace Sys2Proof.Machine

/-! ### The rows -/

theorem exec_cboRow {k : Cbo} {h : HartId} {a : Access} {s : State} (hk : k ≠ .invalFlush) (ha : s.accesses h (·.stamp) = true) :
    exec (cboRow k h a) s = .next (s.run h (.cbo k a)) := by
  cases k with
  | clean => exact exec_run_of_accesses ha (exec_cboClean_eq ..)
  | flush => exact exec_run_of_accesses ha (exec_cboFlush_eq ..)
  | inval => exact exec_run_of_accesses ha (exec_cboInval_eq ..)
  | invalFlush => exact absurd rfl hk

/-! ### The request to the home -/

/-- An operation that asks only for a shared miss register takes none of the core (R119). -/
theorem CoreState.takeMiss_none (c : CoreState) (line : Nat) (op : Op) :
    c.takeMiss line { op := op, l2 := false, sharedOnly := true } true = some c := by
  simp [CoreState.takeMiss]

/-- The miss register of a cache-block operation. -/
def State.cboMiss (s : State) (h : HartId) (line : Nat) (op : Op) (hue : BitVec 12) : L3Miss :=
  { line := line, op := op, hue := hue, txid := (s.die h.die.val).freeTxid, core := h.core, shared := true,
    tmo := s.reqTmo h.die.val }

/-- The state with that register allocated. -/
def State.withCboMiss (s : State) (h : HartId) (line : Nat) (op : Op) (hue : BitVec 12) : State :=
  (s.setCore (coreIx h) (s.core (coreIx h))).setDie h.die.val
    { s.die h.die.val with miss := (s.die h.die.val).miss ++ [s.cboMiss h line op hue],
                           nextTxid := (s.die h.die.val).freeTxid + 1 }

/-- The die has a shared miss register free, and neither a request nor a writeback of the line outstanding. -/
def DieState.cboFree (x : DieState) (line : Nat) : Prop :=
  x.findMiss line = none ∧ x.findWb line = none ∧ (x.miss.filter (·.shared)).length < 1184

section
variable {s : State} {h : HartId} {line : Nat} {op : Op} {hue : BitVec 12} {data : Option (Bytes × Bool)}

/-- A cache-block operation for which a register is free takes it, and sends its request (R142, R151). -/
theorem State.askLine_cbo (hf : (s.die h.die.val).cboFree line) :
    (s.askLine h.die h.core line { op := op, l2 := false, sharedOnly := true } hue true data).2 =
      (s.withCboMiss h line op hue).sendMiss h.die (s.cboMiss h line op hue) data := by
  obtain ⟨hm, hw, hr⟩ := hf
  unfold State.askLine
  simp only [CoreState.takeMiss_none, hm, hw, hr, decide_true, Bool.not_true, Bool.false_and, Bool.false_eq_true, if_false,
    Option.isSome_none]
  rfl

end

theorem State.dieSend_die (s : State) (d : Fin 12) (m : Msg) (i : Nat) : (s.dieSend d m).die i = s.die i := by
  unfold State.dieSend
  split <;> rfl

/-- A die that is not fenced sends its messages (R505). -/
theorem State.dieSend_net {s : State} {d : Fin 12} (hf : s.dieFenced d.val = false) (m : Msg) :
    (s.dieSend d m).fab.net = s.fab.net ++ [m] := by
  rw [State.dieSend, hf]
  rfl

/-- The dirty data of a cache-block operation waits in the writeback buffer for the answer (R142). -/
def State.cboBuffer (s : State) (h : HartId) (line : Nat) (op : Op) (hue : BitVec 12) (txid : BitVec 12) :
    Option (Bytes × Bool) → State
  | some (b, p) => s.setDie h.die.val
      { s.die h.die.val with wb := (s.die h.die.val).wb ++
          [{ line := line, op := op, data := b, poison := p, hue := hue, txid := txid, tmo := s.reqTmo h.die.val }] }
  | none => s

/-- The state in which a cache-block operation has asked the home, after what it did to the die's own copies. -/
def State.cboSent (s : State) (h : HartId) (line : Nat) (op : Op) (hue : BitVec 12) (dirty : Option (Bytes × Bool)) : State :=
  ((s.withCboMiss h line op hue).sendMiss h.die (s.cboMiss h line op hue) dirty).cboBuffer h line op hue
    (s.die h.die.val).freeTxid dirty

section
variable (s : State) (h : HartId) (line : Nat) (op : Op) (hue : BitVec 12) (dirty : Option (Bytes × Bool))

/-- Of the die, only a miss register and a buffer entry are new. -/
theorem State.cboSent_die : ∃ l n, (s.cboSent h line op hue dirty).die h.die.val =
    { s.die h.die.val with miss := (s.die h.die.val).miss ++ [s.cboMiss h line op hue], nextTxid := n,
                           wb := (s.die h.die.val).wb ++ l } ∧
    (l.find? fun w => w.line = line).isSome = dirty.isSome := by
  have die : ((s.withCboMiss h line op hue).sendMiss h.die (s.cboMiss h line op hue) dirty).die h.die.val =
      { s.die h.die.val with miss := (s.die h.die.val).miss ++ [s.cboMiss h line op hue],
                             nextTxid := (s.die h.die.val).freeTxid + 1 } := by
    rw [State.sendMiss, State.dieSend_die, State.withCboMiss, State.die_setDie, if_pos rfl]
  unfold State.cboSent
  cases dirty with
  | none => exact ⟨[], _, by rw [State.cboBuffer, die, List.append_nil], rfl⟩
  | some q => exact ⟨_, _, by rw [State.cboBuffer, State.die_setDie, if_pos rfl, die], by simp⟩

theorem State.cboSent_net (hf : s.dieFenced h.die.val = false) : (s.cboSent h line op hue dirty).fab.net = s.fab.net ++
    [{ op := op, line := line, src := h.die.val, dst := s.homeAgent line, req := h.die.val, txid := (s.die h.die.val).freeTxid,
       hue := hue, cls := s.classOf h.die.val hue, data := (dirty.map (·.1)).getD [],
       poison := (dirty.map (·.2)).getD false }] := by
  have sends := State.dieSend_net (s := s.withCboMiss h line op hue) (d := h.die) hf
  unfold State.cboSent State.sendMiss
  cases dirty with
  | none => exact sends _
  | some q => exact sends _

end

/-- A cache-block operation whose checks pass for cacheable memory, that nothing holds back and for which a register is free, does
what it does to the die's own copies, asks the home, and waits for its answer (R126, R142). -/
theorem State.tryCbo_asks {s s1 : State} {h : HartId} {w : Waiting} {k : Cbo} {a : Access} {p : Part} {ps : List Part}
    (hw : w.parts = []) (hi : w.issued = false)
    (hc : s.checkParts h w .cbo (.cbo k) false false [(BitVec.ofNat 64 (a.va.toNat / 64 * 64), 64)] = (.ok (p :: ps), s1))
    (hm : p.at_ = .mem) (hh : heldBack (s1.hart (hartIx h)).waiting { w with parts := p :: ps }.lines = false)
    (hr : k ≠ .clean → s1.reserved h.die (List.finRange 22) (lineOf p.pa) (some h) = [])
    (hf : (s1.die h.die.val).cboFree (lineOf p.pa)) (hb : (s1.die h.die.val).wbFull = false)
    (hl : ((s1.cboLocal h.die (lineOf p.pa) k).1.die h.die.val).cboFree (lineOf p.pa)) :
    s.tryCbo h w k a = (.wait { w with parts := p :: ps, issued := true },
      (s1.cboLocal h.die (lineOf p.pa) k).1.cboSent h (lineOf p.pa) k.msg w.stamp.hue (s1.cboLocal h.die (lineOf p.pa) k).2) := by
  obtain ⟨miss, wb, room⟩ := hf
  have first : (w.issued || heldBack (s1.hart (hartIx h)).waiting { w with parts := p :: ps }.lines) = false := by
    rw [hh, hi]; rfl
  have none_delays : (if k = .clean then [] else s1.reserved h.die (List.finRange 22) (lineOf p.pa) (some h)) = [] := by
    split
    · rfl
    · exact hr ‹_›
  have shared : ¬ 1184 ≤ ((s1.die h.die.val).miss.filter (·.shared)).length := Nat.not_le.2 room
  unfold State.tryCbo
  simp only [State.checkOnce_first hw, hc, hm, first, none_delays, miss, wb, hb, shared, reduceCtorEq, decide_false, Bool.false_and,
    Bool.or_self, Bool.false_eq_true, if_false, Option.isSome_none, List.isEmpty_nil, Bool.not_true]
  generalize s1.cboLocal h.die (lineOf p.pa) k = r at hl
  obtain ⟨y, dirty⟩ := r
  dsimp only
  rw [State.askLine_cbo hl]
  cases dirty <;> rfl

/-! ### The statement -/

/-- Settles O5: the attempt is `State.tryCbo` of the operation that the CBIE fields make it, and what it leaves is
`State.cboSent` of the state after the die's own copies. -/
theorem cacheBlockOperationsAskTheHome : Obligations.CacheBlockOperationsAskTheHome := by
  intro k h a s s1 p ps hk op w act line own free hs ha hr hm hc hp hh hv hf hb hl hd
  have issued : (s.starts h op).1.issued = false := s.starts_issued ..
  have attempt : (s.starts h op).2.attempt h (s.starts h op).1 = (.wait { w with issued := true },
      own.1.cboSent h line act.msg w.stamp.hue own.2) := by
    rw [← State.tryCbo_asks (s.starts_parts ..) issued hc hp hh hv hf hb hl]
    simp only [State.attempt, issued, s.starts_op, Bool.false_eq_true, if_false, State.may_of_allows hm]
    rfl
  have older : ((s.starts h op).2.hart (hartIx h)).waiting.any Waiting.canTrap = false := by
    rw [State.starts_waiting, State.canTrap_of_ready hr]
  obtain ⟨lines, v, mem, same, waits⟩ := State.issue_wait older (by rw [s.starts_op]; exact hs) attempt
  obtain ⟨l, n, die, buffered⟩ := own.1.cboSent_die h line act.msg w.stamp.hue own.2
  have net := own.1.cboSent_net h line act.msg w.stamp.hue own.2 hd
  refine ⟨_, by rw [exec_cboRow hk ha, State.run_ready hr], ?_⟩
  generalize ((s.starts h op).2.issue h (s.starts h op).1).2 = u at lines mem
  replace die := (linesOf_die lines h.die.val).trans die
  replace net := lines.2.2.trans net
  obtain ⟨miss, wb, -⟩ := hl
  have l3 : (u.die h.die.val).l3 = (own.1.die h.die.val).l3 := by rw [die]
  have asked : ((u.die h.die.val).findMiss line).map (·.op) = some act.msg := by
    rw [DieState.findMiss] at miss
    simp [die, DieState.findMiss, List.find?_append, miss, State.cboMiss]
  have kept : ((u.die h.die.val).findWb line).isSome = own.2.isSome := by
    rw [DieState.findWb] at wb
    simpa [die, DieState.findWb, List.find?_append, wb] using buffered
  exact ⟨l3, ⟨_, net, rfl, rfl, rfl, rfl, rfl, rfl⟩, asked, kept, v, mem, same.trans (s.starts_op ..), waits⟩

end Sys2Proof.Machine
end

section
/-! Answers that a die's miss registers and writeback buffer await (R118, R138, R142, R152, R157, R191). -/

namespace Sys2Proof.Machine

/-! ### Arrival -/

/-- A message from a home reaches an agent that takes it. -/
theorem arrive_taken {op : Op} {m : Msg} {s : State} (f : State → State) (hl : s.clocked = true) (ho : m.op = op)
    (hs : 32 ≤ m.src) (hp : s.dieStill m.dst = false) (hf : m.dst < 12 → s.dieFenced m.dst = false) :
    arrive op m s f = .next (f (s.deliver m)) := by
  have src : ¬ m.src < 12 := by omega
  have fenced : (decide (m.dst < 12) && (s.deliver m).dieFenced m.dst) = false := by
    by_cases h : m.dst < 12
    · rw [show (s.deliver m).dieFenced m.dst = false from hf h, Bool.and_false]
    · rw [decide_eq_false h, Bool.false_and]
  simp only [arrive, live, hl, ho, hp, src, fenced, ne_eq, not_true_eq_false, decide_false, Bool.or_self, Bool.false_and,
    Bool.false_eq_true, if_false, if_true]

/-- An answer to a die. -/
theorem State.toRequester_die (s : State) {m : Msg} {d : Fin 12} (hd : m.dst = d.val) (f : State → Fin 12 → Msg → State) :
    s.toRequester m f = f s d m := by
  have die : Fin.ofNat 12 m.dst = d := Fin.ext (by rw [hd]; exact Nat.mod_eq_of_lt d.isLt)
  rw [State.toRequester, if_pos (hd ▸ d.isLt), die]

/-! ### Registers and harts -/

theorem DieState.line_of_findMiss {x : DieState} {line : Nat} {n : L3Miss} (h : x.findMiss line = some n) : n.line = line :=
  of_decide_eq_true (List.find?_some h :)

/-- A message answers the request that its register has sent and that nothing has answered. -/
theorem State.missFor_eq {s : State} {d : Fin 12} {m : Msg} {n : L3Miss} (hm : (s.die d.val).findMiss m.line = some n)
    (ht : n.txid = m.txid) (hu : n.unsent = false) (hf : n.filled = none) : s.missFor d m = some n := by
  simp [State.missFor, hm, ht, hu, hf]

theorem hartIx_injective {g h : HartId} (e : hartIx g = hartIx h) : g = h := by
  obtain ⟨d, c, t⟩ := g
  obtain ⟨d', c', t'⟩ := h
  simp only [hartIx] at e
  simp only [HartId.mk.injEq, Fin.ext_iff]
  omega

theorem mem_hartsOfDie {h : HartId} {d : Fin 12} (hd : h.die = d) : h ∈ hartsOfDie d := by
  subst hd
  obtain ⟨d, c, t⟩ := h
  refine List.mem_flatMap.2 ⟨⟨d, c⟩, List.mem_map.2 ⟨c, List.mem_finRange c, rfl⟩, ?_⟩
  fin_cases t <;> simp [hartsOf]

/-! ### What a freed register lets go -/

/-- An operation but for the registers that it waits for. -/
def Waiting.kept (w : Waiting) : Waiting := { w with regs := [], served := [] }

/-- From `s` to `t` operations and walks wait for other registers than before, and caches and messages are kept. -/
structure State.Frees (s t : State) : Prop where
  hart : ∀ i, ∃ ws wk, t.hart i = { s.hart i with waiting := ws, walk := wk } ∧
    ws.map Waiting.kept = (s.hart i).waiting.map Waiting.kept ∧ ((s.hart i).walk = none → wk = none)
  dies : t.fab.dies = s.fab.dies
  net : t.fab.net = s.fab.net

theorem State.Frees.refl (s : State) : s.Frees s := ⟨fun _ => ⟨_, _, rfl, rfl, id⟩, rfl, rfl⟩

theorem State.Frees.setHart_freed {s t : State} (a : s.Frees t) (j : Nat) (line : Nat) (arrived : Bool) :
    s.Frees (t.setHart j ((t.hart j).freed line arrived)) := by
  have kept (w : Waiting) : (w.unasked line arrived).kept = w.kept := by
    unfold Waiting.unasked
    split <;> rfl
  refine ⟨fun i => ?_, a.dies, a.net⟩
  obtain ⟨ws, wk, e, hw, hk⟩ := a.hart i
  rw [State.hart_setHart]
  split
  · next ij =>
    rw [← ij, e]
    refine ⟨_, _, rfl, ?_, fun h => by rw [hk h]; rfl⟩
    rw [← hw, List.map_map]
    exact List.map_congr_left fun w _ => kept w
  · exact ⟨ws, wk, e, hw, hk⟩

theorem State.freeMiss_frees (s : State) (d : Fin 12) (line : Nat) (arrived : Bool) : s.Frees (s.freeMiss d line arrived) := by
  unfold State.freeMiss
  refine State.forEach_keeps s.Frees (fun t c _ ht => ?_) (State.forEach_keeps s.Frees (fun t h _ ht => ?_) (.refl s))
  · dsimp only
    split
    · exact ⟨ht.hart, ht.dies, ht.net⟩
    · exact ht
  · dsimp only
    split
    · exact ht.setHart_freed (hartIx h) line arrived
    · exact ht

/-- Going on with the operations of a die sends nothing, where nothing waits. -/
theorem State.resume_net {s : State} {d : Fin 12} (hq : s.dieQuiet d) : (s.resume d).fab.net = s.fab.net := by
  have retries : s.Alike (s.retryDie d) := State.forEach_alike (fun _ _ => State.retryHart_alike) hq.1
  have held := ((State.retryDie_still hq).quiet hq).2
  unfold State.resume State.releaseHeld
  simp only [held, State.forEach, List.foldl_nil, State.setDie_fab_net, retries.net]

/-- The die without the register of a line. -/
def DieState.withoutMiss (x : DieState) (line : Nat) : DieState := { x with miss := x.miss.filter (·.line ≠ line) }

theorem DieState.findMiss_eq_none (x : DieState) (line : Nat) : x.findMiss line = none ↔ line ∉ x.miss.map (·.line) := by
  simp [DieState.findMiss]

theorem DieState.findMiss_withoutMiss (x : DieState) (line : Nat) : (x.withoutMiss line).findMiss line = none := by
  simp [DieState.withoutMiss, DieState.findMiss]

theorem State.dropMiss_die (s : State) (d : Fin 12) (line : Nat) : (s.dropMiss d line).die d.val = (s.die d.val).withoutMiss line :=
  (State.die_setDie ..).trans (if_pos rfl)

/-- A register that frees at a die at which nothing waits leaves the rest of the die, and sends nothing. -/
theorem State.freeRegister_still {s : State} {d : Fin 12} (hq : s.dieQuiet d) (line : Nat) (arrived : Bool) :
    let t := ((s.dropMiss d line).freeMiss d line arrived).resume d
    t.die d.val = (s.die d.val).withoutMiss line ∧ t.fab.net = s.fab.net := by
  obtain ⟨quiet, held⟩ := hq
  have frees := (s.dropMiss d line).freeMiss_frees d line arrived
  have stays := (s.dropMiss d line).freeMiss_staysQuiet d line arrived
  generalize (s.dropMiss d line).freeMiss d line arrived = u at frees stays
  have die : u.die d.val = (s.die d.val).withoutMiss line := by
    rw [← State.dropMiss_die]
    simp only [State.die, frees.dies]
  have still : u.dieQuiet d := ⟨fun h hh => stays.quiet _ (quiet h hh), by rw [die]; exact held⟩
  exact ⟨((State.resume_still still).die _).trans die, (State.resume_net still).trans frees.net⟩

theorem State.fillDone_still {s : State} {d : Fin 12} {n : L3Miss} (ho : n.wantOwn = false) (hq : s.dieQuiet d) (st : CState) :
    (s.fillDone d n st).die d.val = (s.die d.val).withoutMiss n.line ∧ (s.fillDone d n st).fab.net = s.fab.net := by
  unfold State.fillDone
  simp only [ho, Bool.false_and, Bool.false_eq_true, if_false]
  exact State.freeRegister_still hq n.line true

/-! ### Messages of a die -/

theorem State.deliver_still (s : State) (m : Msg) : s.Still (s.deliver m) := ⟨fun _ => rfl, fun _ => rfl⟩

theorem State.dieSend_still (s : State) (d : Fin 12) (m : Msg) : s.Still (s.dieSend d m) :=
  ⟨fun i => by simp only [State.hart, State.dieSend_harts], s.dieSend_die d m⟩

/-! ### Data and Grant (R150, R152, R157) -/

/-- Data for a register of a die at which nothing waits counts the source for no access. -/
theorem State.countSources_quiet {s : State} {d : Fin 12} {m : Msg} (hs : 32 ≤ m.src) (hq : s.dieQuiet d) :
    s.countSources d m = s := by
  have home : ¬ m.src < 12 ∧ ¬ m.src ≤ 16 := by omega
  have sources : ∃ l, s.sources m = (l, s) := by simp [State.sources, home.1, home.2]
  obtain ⟨l, e⟩ := sources
  unfold State.countSources
  rw [e]
  refine State.forEach_keeps (· = s) (fun t h hh e => ?_) rfl
  obtain ⟨quiet, -⟩ := hq
  obtain ⟨waiting, -⟩ := quiet h hh
  simp only [e, waiting, List.any_nil, Bool.not_false, if_true]

section
variable {d : Fin 12} {m : Msg} {n : L3Miss} {s : State}

/-- The CompAck of a die for an answer that came to it (R151, R157). -/
def compAckOf (s : State) (d : Fin 12) (m : Msg) : Msg :=
  { op := .compAck, line := m.line, src := d.val, dst := s.homeAgent m.line, req := m.req, txid := m.txid, hue := m.hue,
    cls := m.cls }

variable (hm : s.missFor d m = some n) (hl : n.late = false)
include hm hl

/-- Data for a register that awaits it, with room in the L3, completes the fill (R118, R157). -/
theorem State.dieData_installs {s1 : State} (hs : 32 ≤ m.src) (hc : isCmo n.op = false) (hz : n.op ≠ .claimZ) (hf : m.flag ≠ 3)
    (hn : n.nc = false) (hd : n.ncDirty = false) (hq : s.dieQuiet d)
    (hi : (s.dieSend d (compAckOf s d m)).installL3 d n.line (grantState m.flag) m.data m.poison n.hint n.hue n.spec = (true, s1)) :
    s.dieData d m = s1.fillDone d n (grantState m.flag) := by
  have counts := State.countSources_quiet hs ((s.dieSend_still d (compAckOf s d m)).quiet hq)
  unfold State.dieData
  simp only [hm, hc, hz, hl, hf, decide_false, Bool.or_self, Bool.false_eq_true, if_false]
  rw [show ({ reply m .compAck (s.homeAgent m.line) with src := d.val } : Msg) = compAckOf s d m from rfl, counts]
  simp only [State.tryFill, hn, hd, hf, decide_false, Bool.or_false, Bool.false_and, Bool.false_eq_true, if_false, hi]

/-- A Grant to an upgrade of a line that the die holds makes the die its owner (R150). -/
theorem State.dieGrant_owns {key : Nat} {l : L3Line} (ho : n.op = .upg) (h3 : (s.die d.val).findL3 m.line = some (key, l)) :
    s.dieGrant d m = ((s.dieSend d (compAckOf s d m)).setL3 d key { l with st := .e }).fillDone d n .e := by
  have held : ((s.dieSend d (compAckOf s d m)).die d.val).findL3 m.line = some (key, l) := by rw [State.dieSend_die, h3]
  unfold State.dieGrant
  simp only [hm, ho, hl, decide_true, Bool.true_or, Bool.not_true, Bool.false_eq_true, if_false, reduceCtorEq]
  rw [show ({ reply m .compAck (s.homeAgent m.line) with src := d.val } : Msg) = compAckOf s d m from rfl, held]

end

/-! ### WbAck (R138) -/

/-- The state after a request that waited for the writeback of its line is sent, if one did: of the die only registers change. -/
theorem State.sendUnsent_only (s : State) (d : Fin 12) (line : Nat) : ∃ ms,
    (s.sendUnsent d line).die d.val = { s.die d.val with miss := ms } ∧ (s.sendUnsent d line).fab.harts = s.fab.harts ∧
      ms.map (·.line) = (s.die d.val).miss.map (·.line) ∧
      ((∀ n ∈ (s.die d.val).miss, n.filled = none) → ∀ n ∈ ms, n.filled = none) := by
  unfold State.sendUnsent
  dsimp only
  split
  · next n hn =>
    split
    · refine ⟨_, by rw [State.sendMiss, State.dieSend_die, State.die_setDie, if_pos rfl], ?_, ?_, fun hf k hk => ?_⟩
      · rw [State.sendMiss, State.dieSend_harts]
        rfl
      · rw [List.map_map]
        refine List.map_congr_left fun k _ => ?_
        dsimp only [Function.comp]
        split
        · next e => rw [e]; exact (DieState.line_of_findMiss hn :)
        · rfl
      · obtain ⟨j, hj, rfl⟩ := List.mem_map.1 hk
        split
        · exact hf n (List.mem_of_find?_eq_some hn)
        · exact hf j hj
    · exact ⟨_, rfl, rfl, rfl, id⟩
  · exact ⟨_, rfl, rfl, rfl, id⟩

/-- The die without the buffer entry of a line, and with other registers. -/
def DieState.withoutWb (x : DieState) (line : Nat) (ms : List L3Miss) : DieState :=
  { x with wb := x.wb.filter (·.line ≠ line), miss := ms }

theorem DieState.findWb_withoutWb (x : DieState) (line : Nat) (ms : List L3Miss) : (x.withoutWb line ms).findWb line = none := by
  simp [DieState.withoutWb, DieState.findWb]

theorem State.dropWb_only (s : State) (d : Fin 12) (line : Nat) : ∃ ms,
    (s.dropWb d line).die d.val = (s.die d.val).withoutWb line ms ∧ (s.dropWb d line).fab.harts = s.fab.harts ∧
      ms.map (·.line) = (s.die d.val).miss.map (·.line) ∧
      ((∀ n ∈ (s.die d.val).miss, n.filled = none) → ∀ n ∈ ms, n.filled = none) := by
  have sends := (s.setDie d.val { s.die d.val with wb := (s.die d.val).wb.filter (·.line ≠ line) }).sendUnsent_only d line
  rw [State.die_setDie, if_pos rfl] at sends
  exact sends

/-- A step that changes no hart and of the die its buffer and registers alone leaves a die at which nothing waits so. -/
theorem State.dieIdle_withoutWb {s t : State} {d : Fin 12} {line : Nat} {ms : List L3Miss} (hi : s.dieIdle d)
    (hd : t.die d.val = (s.die d.val).withoutWb line ms) (hh : t.fab.harts = s.fab.harts) (hf : ∀ n ∈ ms, n.filled = none) :
    t.dieIdle d := by
  obtain ⟨⟨quiet, held⟩, recalls, evicting, -⟩ := hi
  have hart (i : Nat) : t.hart i = s.hart i := by simp only [State.hart, hh]
  refine ⟨⟨fun h hm => by rw [hart]; exact quiet h hm, ?_⟩, ?_, ?_, ?_⟩ <;> rw [hd]
  · exact held
  · exact recalls
  · exact evicting
  · exact hf

/-- WbAck for a writeback frees its entry (R138). -/
theorem State.dieWbAck_frees {s : State} {d : Fin 12} {m : Msg} {w : WbEntry} (hi : s.dieIdle d)
    (hw : (s.die d.val).findWb m.line = some w) (ho : w.op = .wbData) (ht : w.txid = m.txid) :
    ((s.dieWbAck d m).die d.val).findWb m.line = none ∧ ((s.dieWbAck d m).die d.val).l3 = (s.die d.val).l3 := by
  have acked : ∃ u : State, u.fab = s.fab ∧ s.dieWbAck d m = (u.dropWb d m.line).dieStir d := by
    unfold State.dieWbAck
    simp only [hw, ho, ht, decide_true, Bool.and_self, if_true]
    split
    · exact ⟨s.dropMsg (lineSlice m.line) .home m, rfl, rfl⟩
    · exact ⟨s, rfl, rfl⟩
  obtain ⟨u, same, runs⟩ := acked
  have die : u.die d.val = s.die d.val := by simp only [State.die, same]
  obtain ⟨ms, drops, harts, -, fills⟩ := u.dropWb_only d m.line
  rw [die] at drops fills
  have ⟨_, _, _, unfilled⟩ := hi
  have idle := State.dieIdle_withoutWb hi drops (harts.trans (congrArg _ same)) (fills unfilled)
  rw [runs, (State.dieStir_still idle).die, drops]
  exact ⟨DieState.findWb_withoutWb .., rfl⟩

/-! ### CmoDone (R142) -/

/-- A retired store is one more of the accumulated instructions. -/
theorem HartState.retireStore_accInstret (x : HartState) (st : Stamp) : (retireStore x st).accInstret = x.instret := by
  obtain ⟨c, e⟩ := (x.event 0x15 1 st).retire_only st
  obtain ⟨c', e'⟩ := x.event_only 0x15 1 st
  have acc : (x.event 0x15 1 st).accInstret = x.accInstret := by rw [e']
  unfold retireStore
  rw [e]
  simp only [HartState.instret, HartState.event_inhibit, acc]

/-- Else it counts. -/
theorem HartState.retireStore_get {α : Type} (x : HartState) (st : Stamp) (f : HartState → α)
    (hf : ∀ x, f x.uncounted = f x := by intro; rfl) (hi : ∀ x i, f { x with accInstret := i } = f x := by intros; rfl) :
    f (retireStore x st) = f x := by
  rw [retireStore, ← hf, HartState.uncounted_retire, hf, hi, ← hf, HartState.uncounted_event, hf]

/-- The operation is a cache-block operation that has asked the home about a line. -/
def Waiting.cboOn (w : Waiting) (line : Nat) : Bool := match w.op with
  | .cbo _ _ => w.issued && w.lines.contains line
  | _ => false

theorem Waiting.cboOn_of_op {w : Waiting} {line : Nat} {k : Cbo} {a : Access} (ho : w.op = .cbo k a) (hi : w.issued = true)
    (hl : w.lines.contains line = true) : w.cboOn line = true := by
  rw [Waiting.cboOn, ho, hi, hl]
  rfl

/-- The end of the cache-block operation of one hart that waits on a line. -/
def State.endCbo (s : State) (h : HartId) (line : Nat) : State :=
  let x := s.hart (hartIx h)
  match x.waiting.find? (·.cboOn line) with
  | none => s
  | some w => (s.setHart (hartIx h) (retireStore { x with waiting := x.waiting.filter (!·.cboOn line) } w.stamp)).endSample h w 1

theorem State.endCbos_eq (s : State) (d : Fin 12) (line : Nat) :
    s.endCbos d line = s.forEach (hartsOfDie d) fun s h => s.endCbo h line := rfl

theorem State.endCbo_none {s : State} {h : HartId} (hw : (s.hart (hartIx h)).waiting = []) (line : Nat) : s.endCbo h line = s := by
  simp only [State.endCbo, hw, List.find?_nil]

section
variable {s : State} {d : Fin 12} {line : Nat} {h : HartId} {w : Waiting}

theorem State.endCbo_alone (hc : w.cboOn line = true) (hw : (s.hart (hartIx h)).waiting = [w]) : s.endCbo h line =
    (s.setHart (hartIx h) (retireStore { s.hart (hartIx h) with waiting := [] } w.stamp)).endSample h w 1 := by
  simp only [State.endCbo, hw, List.find?_cons, List.filter_cons, hc, Bool.not_true, Bool.false_eq_true, if_false, List.filter_nil]

/-- The end of the one operation that waits changes of the package no more than that hart, in which nothing is left that waits. -/
theorem State.endCbo_only (hc : w.cboOn line = true) (hw : (s.hart (hartIx h)).waiting = [w]) :
    let t := s.endCbo h line
    let x := s.hart (hartIx h)
    (t.hart (hartIx h)).work = ([], x.front, x.ctl, x.walk) ∧ (t.hart (hartIx h)).accInstret = x.instret ∧
      (∀ i, i ≠ hartIx h → t.hart i = s.hart i) ∧ t.fab.dies = s.fab.dies := by
  have counts := State.endSample_counted (s.setHart (hartIx h) (retireStore { s.hart (hartIx h) with waiting := [] } w.stamp)) h w 1
  rw [State.endCbo_alone hc hw]
  refine ⟨?_, ?_, fun i hi => ?_, counts.dies⟩
  · rw [counts.get HartState.work, State.hart_setHart, if_pos rfl]
    exact HartState.retireStore_get _ _ HartState.work
  · rw [counts.get (·.accInstret), State.hart_setHart, if_pos rfl]
    exact HartState.retireStore_accInstret ..
  · rw [counts.others _ hi, State.hart_setHart, if_neg hi]

/-- Of a die whose harts wait for one cache-block operation alone, that one ends. -/
theorem State.endCbos_alone (hd : h.die = d) (hc : w.cboOn line = true) (hw : (s.hart (hartIx h)).waiting = [w])
    (ho : ∀ g ∈ hartsOfDie d, g ≠ h → (s.hart (hartIx g)).waiting = []) : s.endCbos d line = s.endCbo h line := by
  obtain ⟨work, -, others, -⟩ := s.endCbo_only hc hw
  have ends : ∀ g ∈ hartsOfDie d, ((s.endCbo h line).hart (hartIx g)).waiting = [] := fun g hg => by
    by_cases e : g = h
    · rw [e]
      exact congrArg Prod.fst work
    · rw [others _ fun i => e (hartIx_injective i)]
      exact ho g hg e
  obtain ⟨l1, l2, harts, first⟩ := List.eq_append_cons_of_mem (mem_hartsOfDie hd)
  rw [harts] at ho ends
  have before : s.forEach l1 (fun s h => s.endCbo h line) = s := State.forEach_keeps (· = s) (fun t g hg e => by
    rw [e]
    exact State.endCbo_none (ho g (List.mem_append_left _ hg) fun i => first (i ▸ hg)) line) rfl
  have after : (s.endCbo h line).forEach l2 (fun s h => s.endCbo h line) = s.endCbo h line :=
    State.forEach_keeps (· = s.endCbo h line) (fun t g hg e => by
      rw [e]
      exact State.endCbo_none (ends g (List.mem_append_right _ (List.mem_cons_of_mem _ hg))) line) rfl
  calc s.endCbos d line
      = ((s.forEach l1 fun s h => s.endCbo h line).endCbo h line).forEach l2 fun s h => s.endCbo h line := by
        rw [State.endCbos_eq, harts]
        exact List.foldl_append
    _ = s.endCbo h line := by rw [before, after]

end

/-- The die's hart `h` waits for one operation, and nothing else of its harts or of the die itself waits. -/
structure State.awaitsOne (s : State) (d : Fin 12) (h : HartId) (w : Waiting) : Prop where
  own : h.die = d
  waiting : (s.hart (hartIx h)).waiting = [w]
  others : ∀ g ∈ hartsOfDie d, g ≠ h → (s.hart (hartIx g)).waiting = []
  harts : ∀ g ∈ hartsOfDie d, (s.hart (hartIx g)).front = [] ∧ (s.hart (hartIx g)).ctl = none ∧ (s.hart (hartIx g)).walk = none
  held : (s.die d.val).held = []
  recalls : (s.die d.val).recalls = []
  evicting : (s.die d.val).evicting = []
  fills : ∀ k ∈ (s.die d.val).miss, k.filled = none

/-- A hart's one operation at a die whose other harts wait for none. -/
theorem State.awaitsOne_of_waiting {s : State} {d : Fin 12} {h : HartId} {w : Waiting} (hd : h.die = d)
    (held : (s.die d.val).held = []) (recalls : (s.die d.val).recalls = []) (evicting : (s.die d.val).evicting = [])
    (fills : ∀ k ∈ (s.die d.val).miss, k.filled = none)
    (harts : ∀ g ∈ hartsOfDie d, (s.hart (hartIx g)).ctl = none ∧ (s.hart (hartIx g)).front = [] ∧
      (s.hart (hartIx g)).walk = none ∧ (g ≠ h → (s.hart (hartIx g)).waiting = []))
    (waiting : (s.hart (hartIx h)).waiting = [w]) : s.awaitsOne d h w where
  own := hd
  waiting := waiting
  others := fun g hg => by
    obtain ⟨-, -, -, others⟩ := harts g hg
    exact others
  harts := fun g hg => by
    obtain ⟨ctl, front, walk, -⟩ := harts g hg
    exact ⟨front, ctl, walk⟩
  held := held
  recalls := recalls
  evicting := evicting
  fills := fills

section
variable {s : State} {d : Fin 12} {h : HartId} {w : Waiting} {line : Nat}

/-- The end of the operation leaves a die at which nothing waits. -/
theorem State.awaitsOne.idle (a : s.awaitsOne d h w) (hc : w.cboOn line = true) : (s.endCbo h line).dieIdle d := by
  obtain ⟨work, -, others, dies⟩ := s.endCbo_only hc a.waiting
  have die : (s.endCbo h line).die d.val = s.die d.val := by simp only [State.die, dies]
  have quiet : ∀ g ∈ hartsOfDie d, ((s.endCbo h line).hart (hartIx g)).quiet := fun g hg => by
    obtain ⟨front, ctl, walk⟩ := a.harts g hg
    have still : ((s.endCbo h line).hart (hartIx g)).work = ([], [], none, none) := by
      by_cases e : g = h
      · rw [e, work, ← e, front, ctl, walk]
      · rw [others _ fun i => e (hartIx_injective i), HartState.work, a.others g hg e, front, ctl, walk]
    simp only [HartState.work, Prod.mk.injEq] at still
    obtain ⟨hw, hf, hk, hv⟩ := still
    exact ⟨hw, hf, hk, by rw [hv]; rfl⟩
  exact ⟨⟨quiet, by rw [die]; exact a.held⟩, by rw [die]; exact a.recalls, by rw [die]; exact a.evicting,
    by rw [die]; exact a.fills⟩

/-- Freeing the register and the buffer entry of a line leaves the operation waiting, for nothing that is to come. -/
theorem State.awaitsOne.frees (a : s.awaitsOne d h w) (line : Nat) :
    let t := ((s.dropMiss d line).freeMiss d line).dropWb d line
    ∃ v, t.awaitsOne d h v ∧ v.kept = w.kept ∧ (t.hart (hartIx h)).instret = (s.hart (hartIx h)).instret ∧
      (t.die d.val).findMiss line = none ∧ (t.die d.val).findWb line = none := by
  have frees := (s.dropMiss d line).freeMiss_frees d line false
  generalize (s.dropMiss d line).freeMiss d line false = u at frees
  obtain ⟨hart, dies, -⟩ := frees
  have die : u.die d.val = (s.die d.val).withoutMiss line := by
    rw [← State.dropMiss_die]
    simp only [State.die, dies]
  obtain ⟨ms, drops, harts, lines, fills⟩ := u.dropWb_only d line
  rw [die] at drops lines fills
  dsimp only
  generalize u.dropWb d line = t at drops harts
  have hart (i : Nat) : ∃ ws wk, t.hart i = { s.hart i with waiting := ws, walk := wk } ∧
      ws.map Waiting.kept = (s.hart i).waiting.map Waiting.kept ∧ ((s.hart i).walk = none → wk = none) := by
    have same : t.hart i = u.hart i := by simp only [State.hart, harts]
    rw [same]
    exact hart i
  obtain ⟨ws, wk, own, kept, -⟩ := hart (hartIx h)
  rw [a.waiting] at kept
  obtain ⟨v, rfl, hv⟩ := List.map_eq_singleton_iff.1 kept
  have gone : line ∉ ((s.die d.val).withoutMiss line).miss.map (·.line) :=
    (DieState.findMiss_eq_none ..).1 (DieState.findMiss_withoutMiss ..)
  refine ⟨v, ⟨a.own, by rw [own], fun g hg ne => ?_, fun g hg => ?_, ?_, ?_, ?_, ?_⟩, hv, by rw [own]; rfl, ?_, ?_⟩
  · obtain ⟨ws, wk, e, hw, -⟩ := hart (hartIx g)
    rw [a.others g hg ne] at hw
    rw [e]
    exact List.map_eq_nil_iff.1 hw
  · obtain ⟨ws, wk, e, -, hk⟩ := hart (hartIx g)
    obtain ⟨front, ctl, walk⟩ := a.harts g hg
    rw [e]
    exact ⟨front, ctl, hk walk⟩
  · rw [drops]; exact a.held
  · rw [drops]; exact a.recalls
  · rw [drops]; exact a.evicting
  · rw [drops]; exact fills fun k hk => a.fills k (List.mem_of_mem_filter hk)
  · rw [drops, DieState.findMiss_eq_none]
    exact fun hm => gone (lines ▸ hm)
  · rw [drops, DieState.findWb_withoutWb]

end

/-- CmoDone frees the register and the buffer entry of the operation, which retires (R142). -/
theorem State.dieCmoDone_ends {s : State} {d : Fin 12} {m : Msg} {n : L3Miss} {h : HartId} {w : Waiting}
    (hm : s.missFor d m = some n) (hc : isCmo n.op = true) (hl : n.late = false) (a : s.awaitsOne d h w) (hw : w.cboOn m.line = true) :
    let t := s.dieCmoDone d m
    (t.die d.val).findMiss m.line = none ∧ (t.die d.val).findWb m.line = none ∧ (t.hart (hartIx h)).waiting = [] ∧
      (t.hart (hartIx h)).accInstret = (s.hart (hartIx h)).instret := by
  have runs : s.dieCmoDone d m =
      ((((s.dropMiss d m.line).freeMiss d m.line).dropWb d m.line).endCbos d m.line).dieStir d := by
    simp only [State.dieCmoDone, hm, hc, hl, if_true, Bool.false_eq_true, if_false]
  obtain ⟨v, waits, kept, instret, miss, wb⟩ := a.frees m.line
  generalize ((s.dropMiss d m.line).freeMiss d m.line).dropWb d m.line = u at runs waits instret miss wb
  have on : v.cboOn m.line = true := (congrArg (Waiting.cboOn · m.line) kept).trans hw
  obtain ⟨work, count, -, dies⟩ := u.endCbo_only on waits.waiting
  have still := State.dieStir_still (waits.idle on)
  have die : (u.endCbo h m.line).die d.val = u.die d.val := by simp only [State.die, dies]
  rw [runs, u.endCbos_alone waits.own on waits.waiting waits.others]
  dsimp only
  rw [still.die, still.hart, die]
  exact ⟨miss, wb, congrArg Prod.fst work, count.trans instret⟩

/-! ### Error (R191) -/

/-- No operation or walk of a die at which nothing waits meets an error. -/
theorem State.failLine_none {s : State} {d : Fin 12} (hq : s.dieQuiet d) (hk : ∀ h ∈ hartsOfDie d, (s.hart (hartIx h)).walk = none)
    (line : Nat) (flag : BitVec 2) : s.failLine d line flag = s := by
  refine State.forEach_keeps (· = s) (fun t h hh e => ?_) rfl
  obtain ⟨quiet, -⟩ := hq
  obtain ⟨waiting, -⟩ := quiet h hh
  simp only [e, hk h hh, waiting, Option.any_none, List.any_nil, Bool.false_eq_true, if_false]

/-- An Error, but for TIMEOUT, frees the register that it answers (R191). -/
theorem State.dieError_frees {s : State} {d : Fin 12} {m : Msg} {n : L3Miss} (hm : s.missFor d m = some n) (hf : m.flag ≠ 0)
    (hl : n.late = false) (hc : isCmo n.op = false) (hq : s.dieQuiet d) (hk : ∀ h ∈ hartsOfDie d, (s.hart (hartIx h)).walk = none) :
    (s.dieError d m).die d.val = (s.die d.val).withoutMiss n.line := by
  have dropped : (s.dropMiss d n.line).dieQuiet d := by
    obtain ⟨quiet, held⟩ := hq
    exact ⟨quiet, by rw [State.dropMiss_die]; exact held⟩
  have none_fails := State.failLine_none dropped hk n.line m.flag
  unfold State.dieError State.missError
  simp only [hm, hl, hf, hc, Bool.false_eq_true, if_false, none_fails]
  exact (State.freeRegister_still hq n.line false).1

/-! ### The rows -/

theorem exec_data_eq (m : Msg) (s : State) : exec (.data m) s = arrive .data m s fun s => s.toRequester m State.dieData := rfl

theorem exec_grant_eq (m : Msg) (s : State) : exec (.grant m) s = arrive .grant m s fun s => s.toRequester m State.dieGrant := rfl

theorem exec_wback_eq (m : Msg) (s : State) : exec (.wback m) s = arrive .wbAck m s fun s => s.toRequester m State.dieWbAck := rfl

theorem exec_cmodone_eq (m : Msg) (s : State) : exec (.cmodone m) s =
    arrive .cmoDone m s fun s => s.toRequester m State.dieCmoDone := rfl

/-- An Error that is no answer to a hart's I/O access, at an agent that is no home. -/
theorem exec_error_eq {m : Msg} {s : State} (hl : s.clocked = true) (hd : m.dst < 32) : exec (.error m none) s =
    arrive .error m s fun s => s.toRequester m State.dieError := by
  have home : ¬ 32 ≤ m.dst := Nat.not_le.2 hd
  have he : exec (.error m none) s = execError m none s := rfl
  rw [he, execError, live, if_pos hl]
  simp only [home, if_false]

/-! ### The clauses for a die -/

section
variable {d : Fin 12} {m : Msg} {s : State} (hl : s.clocked = true) (hd : m.dst = d.val) (hs : 32 ≤ m.src)
  (hp : s.dieStill d.val = false) (hf : s.dieFenced d.val = false)
include hl hd hs hp hf

/-- A home's answer to a die does what the die makes of it. -/
theorem answer_completes {c : Instr} {op : Op} {f : State → Fin 12 → Msg → State} {P : State → Prop}
    (he : exec c s = arrive op m s fun s => s.toRequester m f) (ho : m.op = op) (hP : P (f (s.deliver m) d m)) :
    Completes c s P := by
  refine ⟨_, ?_, hP⟩
  rw [he, arrive_taken _ hl ho hs (hd ▸ hp) fun _ => hd ▸ hf, State.toRequester_die _ hd]

/-- WBACK for a writeback of the die. -/
theorem wback_completes {w : WbEntry} (hop : m.op = .wbAck) (hi : s.dieIdle d) (hw : (s.die d.val).findWb m.line = some w)
    (ho : w.op = .wbData) (ht : w.txid = m.txid) : Completes (.wback m) s fun t =>
      (t.die d.val).findWb m.line = none ∧ (t.die d.val).l3 = (s.die d.val).l3 :=
  answer_completes hl hd hs hp hf (exec_wback_eq ..) hop (State.dieWbAck_frees ((s.deliver_still m).idle hi) hw ho ht)

variable {n : L3Miss} (hm : (s.die d.val).findMiss m.line = some n) (ht : n.txid = m.txid) (hu : n.unsent = false)
  (hr : n.late = false) (hn : n.filled = none)
include hm ht hu hr hn

/-- DATA for a miss register that awaits it. -/
theorem data_completes {s1 : State} (ho : m.op = .data) (hc : isCmo n.op = false) (hz : n.op ≠ .claimZ) (hg : m.flag ≠ 3)
    (h1 : n.nc = false) (h2 : n.ncDirty = false) (hw : n.wantOwn = false) (hq : s.dieQuiet d)
    (hi : ((s.deliver m).dieSend d (compAckOf s d m)).installL3 d n.line (grantState m.flag) m.data m.poison n.hint n.hue n.spec =
      (true, s1)) (hq1 : s1.dieQuiet d) : Completes (.data m) s fun t =>
      (t.die d.val).l3 = (s1.die d.val).l3 ∧ t.fab.net = s1.fab.net ∧ (t.die d.val).findMiss m.line = none := by
  refine answer_completes hl hd hs hp hf (exec_data_eq ..) ho ?_
  rw [State.dieData_installs (s := s.deliver m) (State.missFor_eq hm ht hu hn) hr hs hc hz hg h1 h2 hq hi]
  obtain ⟨die, net⟩ := State.fillDone_still hw hq1 (grantState m.flag)
  rw [die, ← DieState.line_of_findMiss hm]
  exact ⟨rfl, net, DieState.findMiss_withoutMiss ..⟩

/-- GRANT to an upgrade of a line that the die holds. -/
theorem grant_completes {key : Nat} {l : L3Line} (ho : m.op = .grant) (hc : n.op = .upg) (hw : n.wantOwn = false) (hq : s.dieQuiet d)
    (h3 : (s.die d.val).findL3 m.line = some (key, l)) : Completes (.grant m) s fun t =>
      Table.find (t.die d.val).l3 key = some { l with st := .e } ∧ t.fab.net = s.fab.net.erase m ++ [compAckOf s d m] ∧
        (t.die d.val).findMiss m.line = none := by
  refine answer_completes hl hd hs hp hf (exec_grant_eq ..) ho ?_
  have sends := (s.deliver_still m).trans ((s.deliver m).dieSend_still d (compAckOf s d m))
  have sent := State.dieSend_net (s := s.deliver m) hf (compAckOf s d m)
  rw [State.dieGrant_owns (s := s.deliver m) (State.missFor_eq hm ht hu hn) hr hc h3,
    show compAckOf (s.deliver m) d m = compAckOf s d m from rfl]
  generalize (s.deliver m).dieSend d (compAckOf s d m) = u at sends sent
  have owned : (u.setL3 d key { l with st := .e }).die d.val =
      { s.die d.val with l3 := Table.insert (s.die d.val).l3 key { l with st := .e } } := by
    rw [State.setL3, State.die_setDie, if_pos rfl, sends.die]
  have quiet : (u.setL3 d key { l with st := .e }).dieQuiet d := by
    obtain ⟨harts, held⟩ := sends.quiet hq
    exact ⟨harts, by rw [owned, ← sends.die]; exact held⟩
  obtain ⟨die, net⟩ := State.fillDone_still hw quiet .e
  rw [die, owned, net, ← DieState.line_of_findMiss hm]
  refine ⟨?_, sent, DieState.findMiss_withoutMiss ..⟩
  exact (Table.find_insert ..).trans (if_pos rfl)

/-- ERROR, but for TIMEOUT, to a miss register. -/
theorem error_completes (ho : m.op = .error) (hg : m.flag ≠ 0) (hc : isCmo n.op = false) (hq : s.dieQuiet d)
    (hk : ∀ h ∈ hartsOfDie d, (s.hart (hartIx h)).walk = none) : Completes (.error m none) s fun t =>
      (t.die d.val).findMiss m.line = none ∧ (t.die d.val).l3 = (s.die d.val).l3 := by
  refine answer_completes hl hd hs hp hf (exec_error_eq hl (by omega)) ho ?_
  rw [State.dieError_frees (s := s.deliver m) (State.missFor_eq hm ht hu hn) hg hr hc hq hk, ← DieState.line_of_findMiss hm]
  exact ⟨DieState.findMiss_withoutMiss .., rfl⟩

/-- CMODONE for the one operation that waits at the die. -/
theorem cmodone_completes {h : HartId} {w : Waiting} (ho : m.op = .cmoDone) (hc : isCmo n.op = true) (a : s.awaitsOne d h w)
    (hw : w.cboOn m.line = true) : Completes (.cmodone m) s fun t =>
      (t.die d.val).findMiss m.line = none ∧ (t.die d.val).findWb m.line = none ∧ (t.hart (hartIx h)).waiting = [] ∧
        (t.hart (hartIx h)).accInstret = (s.hart (hartIx h)).instret := by
  have waits : (s.deliver m).awaitsOne d h w := { a with }
  exact answer_completes hl hd hs hp hf (exec_cmodone_eq ..) ho
    (State.dieCmoDone_ends (State.missFor_eq hm ht hu hn) hc hr waits hw)

end

end Sys2Proof.Machine
end

section
/-! Answers that a device's request awaits at the I/O agent (R353, R355). -/

namespace Sys2Proof.Machine

section
variable {s : State}

/-- A charge reaches the meters alone. -/
theorem State.charge_hub (s : State) (hue : BitVec 12) (n k : Nat) (p : Option Nat) :
    ∃ ms, (s.charge hue n k p).hub = { s.hub with meters := ms } := by
  unfold State.charge
  split
  · exact ⟨_, rfl⟩
  · exact ⟨_, rfl⟩

/-- Where no request is outstanding none is sent. -/
theorem State.dmaGo_none (hi : s.hub.inbound = []) (port : Fin 32) : s.dmaGo port = s := by
  simp only [State.dmaGo, hi, State.dmaPump, List.filter_nil, List.find?_nil]

/-- A device's request whose last answer came with what it brought (R353). -/
def Inbound.answered (i : Inbound) (m : Msg) : Inbound :=
  { i with lines := [], got := if m.op = .dataOnce then i.got ++ [(m.line, m.data, m.poison)] else i.got }

variable {i : Inbound} {m : Msg}

/-- The last answer, but for an error, to the one outstanding request ends it. -/
theorem State.dmaAnswer_last (hi : s.hub.inbound = [i]) (hl : i.lines = [(m.txid, m.line)]) (ho : m.op ≠ .error) :
    s.dmaAnswer i m = (s.upHub fun h => { h with inbound := [i.answered m] }).dmaEnd (i.answered m) := by
  have i_answered : (if m.op = .dataOnce then { i with lines := [], got := i.got ++ [(m.line, m.data, m.poison)] }
      else { i with lines := [] }) = i.answered m := by
    unfold Inbound.answered
    split <;> rfl
  unfold State.dmaAnswer
  simp only [hl, List.erase_cons_head, ho, if_false, i_answered, State.upHub, hi, List.map_cons, List.map_nil, if_true]
  rfl

/-- The completion that gives a device the bytes `d` of its read, from `at_` on (R353). -/
def Inbound.completion (i : Inbound) (at_ : Nat) (d : Bytes) : DevCpl :=
  { port := i.port, rid := i.req.rid, tag := i.req.tag, status := .sc, ep := false, addr := i.req.addr + at_, data := d }

theorem State.upHub_filter_inbound (hi : s.hub.inbound = [i]) :
    (s.upHub fun h => { h with inbound := h.inbound.filter fun j => j ≠ i }) = s.upHub fun h => { h with inbound := [] } := by
  have none_left : [i].filter (fun j => j ≠ i) = [] := by simp
  simp only [State.upHub, hi, none_left]

/-- The end of the one outstanding write tells the device nothing. -/
theorem State.dmaEnd_write (hi : s.hub.inbound = [i]) (hk : i.req.kind = .write) :
    s.dmaEnd i = s.upHub fun h => { h with inbound := [] } := by
  unfold State.dmaEnd
  simp only [State.upHub_filter_inbound hi, hk, decide_true, Bool.true_or, if_true]
  exact State.dmaGo_none rfl _

/-- The end of the one outstanding read gives the device the bytes that came. -/
theorem State.dmaEnd_read {off at_ n : Nat} {d : Bytes} (hi : s.hub.inbound = [i]) (hk : i.req.kind = .read)
    (hs : i.squashed = false) (hf : i.failed = false) (hg : i.got = [(m.line, d, false)])
    (hp : lineParts i.pa i.req.len = [(m.line, off, at_, n)]) :
    (s.dmaEnd i).hub.inbound = [] ∧ (s.dmaEnd i).hub.toDevice = s.hub.toDevice ++ [i.completion at_ (sub d off n)] := by
  have part : lineParts i.pa (dmaOperand i.req) = [(m.line, off, at_, n)] := by rw [dmaOperand, hk, ← hp]
  have ends : s.dmaEnd i = ((s.upHub fun h => { h with inbound := [], toDevice := h.toDevice ++
      [i.completion at_ (sub d off n)] }).charge i.hue 7 n
        ((s.upHub fun h => { h with inbound := [] }).partOfPort i.port.val)).dmaGo i.port := by
    unfold State.dmaEnd State.forEach
    simp only [State.upHub_filter_inbound hi, hk, hs, hf, part, hg, List.foldl_cons, List.foldl_nil, List.find?_cons, decide_true,
      Option.map_some, Option.getD_some, reduceCtorEq, decide_false, Bool.or_false, Bool.false_eq_true, if_false]
    rfl
  generalize (s.upHub fun h => { h with inbound := [] }).partOfPort i.port.val = p at ends
  obtain ⟨ms, charged⟩ := (s.upHub fun h => { h with inbound := [], toDevice := h.toDevice ++
      [i.completion at_ (sub d off n)] }).charge_hub i.hue 7 n p
  rw [ends, State.dmaGo_none (by rw [charged]; rfl), charged]
  exact ⟨rfl, rfl⟩

/-! ### The agent -/

/-- An answer that awaits no compute die stops at none that has lost its clock. -/
theorem State.dieStill_agent (s : State) : s.dieStill 12 = false := by
  refine List.any_eq_false.2 fun e _ => ?_
  simpa using Nat.ne_of_lt e.isLt

/-- An answer to the I/O agent that its one outstanding request awaits. -/
theorem State.toRequester_agent (hd : m.dst = 12) (hi : s.hub.inbound = [i]) (hl : i.lines = [(m.txid, m.line)])
    (hn : s.hub.ioLate.contains (m.txid, m.line) = false)
    (ho : m.op = .dataOnce ∧ i.req.kind = .read ∨ m.op = .wrDone ∧ i.req.kind = .write) :
    s.toRequester m State.noDie =
      (s.upHub fun h => { h with inbound := [i.answered m] }).dmaEnd (i.answered m) := by
  have awaits : (s.hub.inbound.find? fun i => i.lines.contains (m.txid, m.line)) = some i := by simp [hi, hl]
  have takes : s.ioTake m = s.dmaAnswer i m := by
    rcases ho with ⟨op, kind⟩ | ⟨op, kind⟩
    · simp only [State.ioTake, awaits, op, kind, reduceCtorEq, ne_eq, not_false_eq_true, decide_true, Bool.and_true, Bool.true_or,
        if_true]
    · simp only [State.ioTake, awaits, op, kind, reduceCtorEq, decide_true, Bool.and_true, Bool.true_or, Bool.or_true, if_true]
  have noError : m.op ≠ .error := by
    rcases ho with ⟨op, -⟩ | ⟨op, -⟩ <;> simp [op]
  rw [← State.dmaAnswer_last hi hl noError, ← takes]
  simp only [State.toRequester, hd, Nat.lt_irrefl, if_false, if_true, State.ioAnswer, hn, Bool.false_eq_true]

end

/-! ### The rows -/

theorem exec_dataonce_eq (m : Msg) (s : State) : exec (.dataonce m) s =
    arrive .dataOnce m s fun s => s.toRequester m State.noDie := rfl

theorem exec_wrdone_eq (m : Msg) (s : State) : exec (.wrdone m) s =
    arrive .wrDone m s fun s => s.toRequester m State.noDie := rfl

section
variable {s : State} {i : Inbound} {m : Msg} (hc : s.clocked = true) (hd : m.dst = 12) (hs : 32 ≤ m.src)
  (hi : s.hub.inbound = [i]) (hl : i.lines = [(m.txid, m.line)]) (hn : s.hub.ioLate.contains (m.txid, m.line) = false)
include hc hd hs hi hl hn

/-- A home's answer to the I/O agent ends its one outstanding request. -/
theorem agentAnswer_completes {c : Instr} {op : Op} {P : State → Prop}
    (he : exec c s = arrive op m s fun s => s.toRequester m State.noDie) (hop : m.op = op)
    (ho : m.op = .dataOnce ∧ i.req.kind = .read ∨ m.op = .wrDone ∧ i.req.kind = .write)
    (hP : P (((s.deliver m).upHub fun h => { h with inbound := [i.answered m] }).dmaEnd (i.answered m))) : Completes c s P := by
  have agent : ¬ m.dst < 12 := by omega
  refine ⟨_, ?_, hP⟩
  rw [he, arrive_taken _ hc hop hs (by rw [hd]; exact s.dieStill_agent) fun h => absurd h agent,
    State.toRequester_agent (s := s.deliver m) hd hi hl hn ho]

/-- DATAONCE for the only line of a device's read. -/
theorem dataonce_completes {off at_ n : Nat} (hop : m.op = .dataOnce) (hk : i.req.kind = .read) (hq : i.squashed = false)
    (hf : i.failed = false) (hg : i.got = []) (hx : m.poison = false)
    (hp : lineParts i.pa i.req.len = [(m.line, off, at_, n)]) : Completes (.dataonce m) s fun t =>
      t.hub.inbound = [] ∧ t.hub.toDevice = s.hub.toDevice ++ [i.completion at_ (sub m.data off n)] := by
  refine agentAnswer_completes hc hd hs hi hl hn (exec_dataonce_eq ..) hop (.inl ⟨hop, hk⟩) ?_
  have got : (i.answered m).got = [(m.line, m.data, false)] := by simp [Inbound.answered, hop, hg, hx]
  exact State.dmaEnd_read (s := (s.deliver m).upHub fun h => { h with inbound := [i.answered m] }) (i := i.answered m) rfl hk hq hf
    got hp

/-- WRDONE for the only line of a device's write. -/
theorem wrdone_completes (hop : m.op = .wrDone) (hk : i.req.kind = .write) : Completes (.wrdone m) s fun t =>
      t.hub.inbound = [] ∧ t.hub.toDevice = s.hub.toDevice := by
  refine agentAnswer_completes hc hd hs hi hl hn (exec_wrdone_eq ..) hop (.inr ⟨hop, hk⟩) ?_
  rw [State.dmaEnd_write (i := i.answered m) rfl hk]
  exact ⟨rfl, rfl⟩

end

end Sys2Proof.Machine
end

section
/-! An error that answers a hart's access to I/O (R70, R191, R503). -/

namespace Sys2Proof.Machine

/-! ### What counting and sampling leave of the CSRs -/

/-- Counting an event leaves a CSR below the event selectors as it is. -/
theorem HartState.event_getCsr (x : HartState) (code k : Nat) (st : Stamp) {r : Nat} (hr : r < 0x323) :
    (x.event code k st).getCsr r = x.getCsr r := by
  unfold HartState.event
  generalize List.range 29 = l
  induction l generalizing x with
  | nil => rfl
  | cons i l ih =>
    rw [List.foldl_cons, ih]
    dsimp only
    split
    · exact x.bump_getCsr (i + 3) k 29 r (by omega) (by omega) (by omega)
    · rfl

/-- The end of a sampled instruction may make an interrupt pending, and changes no other CSR of the table. -/
theorem State.endSample_getCsr (s : State) (h : HartId) (w : Waiting) (ends : Nat) {r : Nat} (hr : r ≠ 0x344) :
    ((s.endSample h w ends).hart (hartIx h)).getCsr r = (s.hart (hartIx h)).getCsr r := by
  unfold State.endSample
  dsimp only
  split
  · rfl
  · split
    · rw [State.hart_setHart, if_pos rfl]
      rfl
    · rw [State.hart_setHart, if_pos rfl, HartState.getCsr_csrBit, if_neg hr]
      rfl

theorem State.squashed_getCsr (s : State) (h : HartId) (gone : List Waiting) {r : Nat} (hr : r < 0x323) :
    ((s.squashed h gone).hart (hartIx h)).getCsr r = (s.hart (hartIx h)).getCsr r := by
  refine State.forEach_keeps (fun t => (t.hart (hartIx h)).getCsr r = (s.hart (hartIx h)).getCsr r) (fun t w _ e => ?_) rfl
  rw [State.endSample_getCsr _ _ _ _ (by omega), State.hart_setHart, if_pos rfl, HartState.event_getCsr _ _ _ _ hr,
    HartState.event_getCsr _ _ _ _ hr, e]

/-! ### The trap -/

/-- A hardware error traps to M in M, and where medeleg does not hand it on. -/
theorem HartState.trapTo_hardwareError_iff (x : HartState) :
    x.trapTo 19 = .m ↔ x.priv = .m ∨ bit (x.getCsr 0x302) 19 = false := by
  unfold HartState.trapTo
  split <;> simp_all

/-- What of a hart may go on: its access to I/O and what it has under way. -/
def HartState.pending (x : HartState) : Option IoAccess × List Waiting × List Fetched × Option Byte × Option Walk := (x.io, x.work)

theorem HartState.pending_event (x : HartState) (code k : Nat) (st : Stamp) : (x.event code k st).pending = x.pending :=
  HartState.get_of_uncounted (x.uncounted_event code k st) HartState.pending

theorem HartState.pending_setCsr (x : HartState) (n : Nat) (v : Word) : (x.setCsr n v).pending = x.pending := rfl

theorem HartState.pending_mode (x : HartState) (p : Priv) (v : Bool) (pc : Word) :
    ({ x with priv := p, virt := v, pc := pc } : HartState).pending = x.pending := rfl

/-- A trap touches nothing that the hart has under way. -/
theorem HartState.pending_takeTrap (x : HartState) (t : TrapInfo) : (x.takeTrap t).pending = x.pending := by
  unfold HartState.takeTrap
  extract_lets
  split <;> simp +zetaDelta only [HartState.pending_mode, HartState.pending_setCsr, HartState.pending_event]

/-- A hardware error that M takes leaves its cause in mcause. -/
theorem HartState.takeTrap_mcause {x : HartState} {t : TrapInfo} (hc : t.cause = 19) (hm : x.trapTo 19 = .m) :
    (x.takeTrap t).getCsr 0x342 = 19 := by
  have counted : (x.event 0x14 1 x.fetchStamp).trapTo 19 = .m := by
    rw [HartState.trapTo_hardwareError_iff] at hm ⊢
    rwa [HartState.event_getCsr _ _ _ _ (by omega),
      HartState.get_of_uncounted (x.uncounted_event 0x14 1 x.fetchStamp) (·.priv)]
  unfold HartState.takeTrap
  simp only [hc, counted, HartState.setCsr, HartState.getCsr, Table.get_put]
  rfl

/-- The squash of a hart's speculation keeps where a hardware error traps to. -/
theorem State.squash_trapTo (s : State) (h : HartId) :
    ((s.squash h).hart (hartIx h)).trapTo 19 = .m ↔ (s.hart (hartIx h)).trapTo 19 = .m := by
  have priv := (s.squash_counted h).get (·.priv)
  have csr := State.squashed_getCsr (s.setHart (hartIx h) (s.hart (hartIx h)).withoutSpec) h
    ((s.hart (hartIx h)).waiting.filter (fun w => w.op.isSpec) ++ (s.hart (hartIx h)).specDone.map SpecDone.w) (r := 0x302)
    (by omega)
  rw [State.hart_setHart, if_pos rfl] at priv csr
  have medeleg : ((s.squash h).hart (hartIx h)).getCsr 0x302 = (s.hart (hartIx h)).getCsr 0x302 := csr
  rw [HartState.trapTo_hardwareError_iff, HartState.trapTo_hardwareError_iff, priv, medeleg]
  rfl

/-- A hart of which nothing may go on but its walk and its front end. -/
structure HartState.unladen (x : HartState) : Prop where
  io : x.io = none
  waiting : x.waiting = []
  ctl : x.ctl = none

section
variable {s : State} {h : HartId}

/-- A hart that nothing keeps busy restarts with nothing under way. -/
theorem HartState.unladen.restartAt {x : HartState} (a : x.unladen) (pc : Word) :
    (x.restartAt pc).pending = (none, [], [], none, none) := by
  obtain ⟨io, waiting, ctl⟩ := a
  simp only [HartState.pending, HartState.work, HartState.restartAt, HartState.withoutSpec, io, waiting, ctl, List.filter_nil]

theorem HartState.trapTo_restartAt (x : HartState) (pc : Word) : (x.restartAt pc).trapTo 19 = x.trapTo 19 := rfl

theorem HartState.trapTo_sent (x : HartState) : x.sent.trapTo 19 = x.trapTo 19 := rfl

theorem HartState.pending_sent (x : HartState) : x.sent.pending = x.pending := rfl

/-- The hart that a trap finds is the one restarted, but for counts that it has sent. -/
theorem State.trap_hart (st : Stamp) (t : TrapInfo) : ∃ x : HartState, (s.trap h st t).hart (hartIx h) = x.takeTrap t ∧
    (x = ((s.squash h).hart (hartIx h)).restartAt st.pc ∨ x = (((s.squash h).hart (hartIx h)).restartAt st.pc).sent) := by
  unfold State.trap
  dsimp only
  generalize s.squash h = u
  rw [State.hart_setHart, if_pos rfl]
  refine ⟨_, rfl, ?_⟩
  split
  · exact .inl ((State.hart_setHart ..).trans (if_pos rfl))
  · rw [State.meterSend_hart, State.hart_setHart, if_pos rfl]
    exact .inr rfl

/-- A hart for which nothing else waits takes a hardware error to M: the cause is in mcause, and nothing is under way. -/
theorem State.trap_hardwareError {st : Stamp} {t : TrapInfo} (hc : t.cause = 19) (hm : (s.hart (hartIx h)).trapTo 19 = .m)
    (a : (s.hart (hartIx h)).unladen) :
    let y := (s.trap h st t).hart (hartIx h)
    y.getCsr 0x342 = 19 ∧ y.pending = (none, [], [], none, none) := by
  have squashes := s.squash_counted h
  have kept {α : Type} (f : HartState → α) (hf : ∀ x, f x.uncounted = f x) : f ((s.squash h).hart (hartIx h)) =
      f (s.hart (hartIx h)).withoutSpec := (squashes.get f hf).trans (by rw [State.hart_setHart, if_pos rfl])
  have unladen : ((s.squash h).hart (hartIx h)).unladen :=
    ⟨(kept (·.io) fun _ => rfl).trans a.io,
      (kept (·.waiting) fun _ => rfl).trans (by simp only [HartState.withoutSpec, a.waiting, List.filter_nil]),
      (kept (·.ctl) fun _ => rfl).trans a.ctl⟩
  have to_m := (s.squash_trapTo h).2 hm
  obtain ⟨x, runs, found⟩ := s.trap_hart (h := h) st t
  dsimp only
  rw [runs, HartState.pending_takeTrap]
  generalize (s.squash h).hart (hartIx h) = y at unladen to_m found
  have found : x.trapTo 19 = .m ∧ x.pending = (none, [], [], none, none) := by
    rcases found with rfl | rfl
    · exact ⟨(y.trapTo_restartAt _).trans to_m, unladen.restartAt _⟩
    · exact ⟨(HartState.trapTo_sent _).trans ((y.trapTo_restartAt _).trans to_m),
        (HartState.pending_sent _).trans (unladen.restartAt _)⟩
  exact ⟨HartState.takeTrap_mcause hc found.1, found.2⟩

theorem State.KeepsRest.x {t : State} (a : s.KeepsRest t h) : (t.hart (hartIx h)).x = (s.hart (hartIx h)).x :=
  congrArg Prod.fst a.own

theorem State.hart_logE (s : State) (cls : ErrClass) (src : ErrSource) (why : ErrReason) (unit addr : Nat) (hue : BitVec 12)
    (info aux : Nat) (trap fence : Bool) (i : Nat) :
    (s.logE cls src why unit addr hue info aux trap fence).hart i = s.hart i := rfl

/-- A hardware error leaves the hart with nothing under way, and with the integer registers that it had. -/
theorem State.hardwareError_leaves {st : Stamp} (va : Word) (pa : Nat) (why : ErrReason) (hm : (s.hart (hartIx h)).trapTo 19 = .m)
    (a : (s.hart (hartIx h)).unladen) :
    let y := (s.hardwareError h st va pa why).hart (hartIx h)
    y.getCsr 0x342 = 19 ∧ y.pending = (none, [], [], none, none) ∧ y.x = (s.hart (hartIx h)).x := by
  unfold State.hardwareError
  dsimp only
  have hart := s.hart_logE .uncorrected .core why (coreUnit h) (pa / 64 * 64) st.hue (s.coreInfo h) 19 true false (hartIx h)
  generalize s.logE .uncorrected .core why (coreUnit h) (pa / 64 * 64) st.hue (s.coreInfo h) 19 true = u at hart
  rw [← hart] at hm a ⊢
  obtain ⟨cause, pending⟩ :=
    State.trap_hardwareError (s := u) (h := h) (st := st) (t := { cause := 19, tval := va, gva := st.virt }) rfl hm a
  exact ⟨cause, pending, (u.trap_keeps h st _).x⟩

/-- The pending invalidations start no walk. -/
theorem State.applySinvals_pending (hw : (s.hart (hartIx h)).walk = none) :
    ((s.applySinvals h).hart (hartIx h)).pending = (s.hart (hartIx h)).pending := by
  have walks (t : State) (c : CoreId) (ht : (t.hart (hartIx h)).walk = none) : ((t.restartWalks c).hart (hartIx h)).walk = none := by
    refine State.forEach_keeps (fun t => (t.hart (hartIx h)).walk = none) (fun u g _ hu => ?_) ht
    dsimp only
    split
    · rw [State.hart_setHart]
      split
      · rfl
      · exact hu
    · exact hu
  have walk : ((s.applySinvals h).hart (hartIx h)).walk = none := by
    unfold State.applySinvals
    rw [State.hart_setHart, if_pos rfl]
    refine State.forEach_keeps (fun t => (t.hart (hartIx h)).walk = none) (fun t q _ ht => ?_) hw
    rw [State.invalidate_eq, State.setCore_hart]
    exact walks _ _ (by simpa [State.dropTlb] using ht)
  obtain ⟨a, b, w, e⟩ := s.applySinvals_hart h
  rw [e] at walk ⊢
  simp only [HartState.pending, HartState.work, hw, show w = none from walk]

/-- The end of an instruction that trapped leaves the CSRs that tell of the trap, and what the hart has under way. -/
theorem State.endTrap_leaves (w : Waiting) (hw : (s.hart (hartIx h)).walk = none) :
    let y := (s.endTrap h w).hart (hartIx h)
    (∀ r, r ≠ 0x344 → y.getCsr r = (s.hart (hartIx h)).getCsr r) ∧ y.pending = (s.hart (hartIx h)).pending := by
  have taken : ((s.takeFlags h w).2.hart (hartIx h)) = { s.hart (hartIx h) with flags := 0 } :=
    (State.hart_setHart ..).trans (if_pos rfl)
  have applied := State.applySinvals_pending (s := (s.takeFlags h w).2) (h := h) (by rw [taken]; exact hw)
  obtain ⟨a, b, w', e⟩ := (s.takeFlags h w).2.applySinvals_hart h
  have ends : s.endTrap h w = ((s.takeFlags h w).2.applySinvals h).endSample h (s.takeFlags h w).1 (2 ^ 13) := rfl
  dsimp only
  rw [ends]
  refine ⟨fun r hr => ?_, ?_⟩
  · rw [State.endSample_getCsr _ _ _ _ hr, e, taken]
    rfl
  · rw [(State.endSample_counted ..).get HartState.pending, applied, taken]
    rfl

/-! ### The access to I/O -/

/-- A hart with nothing under way does nothing when it is tried. -/
theorem HartState.quiet_of_pending {x : HartState} (hx : x.pending = (none, [], [], none, none)) : x.quiet := by
  simp only [HartState.pending, HartState.work, Prod.mk.injEq] at hx
  obtain ⟨-, waiting, front, ctl, walk⟩ := hx
  exact ⟨waiting, front, ctl, by rw [walk]; rfl⟩

variable {io : IoAccess} {w : Waiting}

/-- An error for the one load that a hart has outstanding at an I/O device raises a hardware error (R191, R503). -/
theorem State.ioFinish_error {a : Access} {rd : Fin 32} {z : Bool} {c : LoadClass} (hio : (s.hart (hartIx h)).io = some io)
    (hwr : io.write = false) (hws : (s.hart (hartIx h)).waiting = [w]) (hi : w.issued = true) (hp : w.pas = [io.pa])
    (ho : w.op = .load a rd z c) (flag : BitVec 2) :
    s.ioFinish h (.error flag) =
      ((((s.setHart (hartIx h) { s.hart (hartIx h) with io := none, waiting := [] }).hardwareError h w.stamp a.va io.pa
        .poisonConsumed).endTrap h w).squashed h []).retryHart h := by
  have is_io : w.isIo io = true := by simp only [Waiting.isIo, hi, hp, ho, hwr, decide_true, Bool.and_self, Bool.not_false]
  simp only [State.ioFinish, hio, hws, List.takeWhile_cons, List.dropWhile_cons, is_io, Bool.not_true, Bool.false_eq_true, if_false,
    State.ioComplete, ho, State.consume]

/-- ERROR for a hart's load from a device, where nothing else waits. -/
theorem ioError_completes {m : Msg} {a : Access} {rd : Fin 32} {z : Bool} {c : LoadClass} (hl : s.clocked = true)
    (hq : ∀ q ∈ s.fab.ioAnswers, q.1 ≠ h) (hn : (s.hart (hartIx h)).ioLate = 0) (hio : (s.hart (hartIx h)).io = some io)
    (hwr : io.write = false) (hws : (s.hart (hartIx h)).waiting = [w]) (hi : w.issued = true) (hp : w.pas = [io.pa])
    (ho : w.op = .load a rd z c) (hk : (s.hart (hartIx h)).ctl = none) (hm : (s.hart (hartIx h)).trapTo 19 = .m) :
    Completes (.error m (some h)) s fun t => (t.hart (hartIx h)).getCsr 0x342 = 19 ∧ (t.hart (hartIx h)).io = none ∧
      (t.hart (hartIx h)).waiting = [] ∧ (t.hart (hartIx h)).x = (s.hart (hartIx h)).x := by
  have unanswered : s.takeIoAnswer h (fun a => a = .error m.flag) = none := by
    have none_for : s.fab.ioAnswers.find? (fun a => decide (a.1 = h) && decide (a.2 = .error m.flag)) = none := by
      refine List.find?_eq_none.2 fun q hq' => ?_
      simp [hq q hq']
    rw [State.takeIoAnswer, none_for]
  have runs : exec (.error m (some h)) s = .next (s.ioFinish h (.error m.flag)) := by
    have he : exec (.error m (some h)) s = execError m (some h) s := rfl
    simp only [he, execError, live, hl, if_true, unanswered, State.ioArrive, hn, Nat.lt_irrefl, if_false]
  rw [State.ioFinish_error hio hwr hws hi hp ho] at runs
  refine ⟨_, runs, ?_⟩
  have found : (s.setHart (hartIx h) { s.hart (hartIx h) with io := none, waiting := [] }).hart (hartIx h) =
      { s.hart (hartIx h) with io := none, waiting := [] } := (State.hart_setHart ..).trans (if_pos rfl)
  generalize s.setHart (hartIx h) { s.hart (hartIx h) with io := none, waiting := [] } = u at found
  obtain ⟨cause, pending, x⟩ := State.hardwareError_leaves (st := w.stamp) a.va io.pa .poisonConsumed
    (by rw [found]; exact hm) ⟨by rw [found], by rw [found], by rw [found]; exact hk⟩
  generalize u.hardwareError h w.stamp a.va io.pa .poisonConsumed = v at cause pending x
  have walk : (v.hart (hartIx h)).walk = none := congrArg (·.2.2.2.2) pending
  obtain ⟨csr, still⟩ := State.endTrap_leaves w walk
  have regs := (v.endTrap_keeps h w).x
  rw [pending] at still
  have nothing : (v.endTrap h w).squashed h [] = v.endTrap h w := rfl
  rw [nothing, State.retryHart_quiet _ _ (HartState.quiet_of_pending still)]
  dsimp only
  rw [State.hart_setHart, if_pos rfl]
  exact ⟨(csr 0x342 (by omega)).trans cause, congrArg Prod.fst still, rfl, regs.trans (x.trans (by rw [found]))⟩

end

end Sys2Proof.Machine
end

section
/-! The answers that requesters await (R118, R138, R142, R152, R157, R191, R353, R355). -/

namespace Sys2Proof.Machine

/-- Settles O18: each row's answer finds the register, buffer entry, request or access that awaits it, and nothing else waits that
could go on in the same step. -/
theorem answersToRequestersCompleteTheirAccess : Obligations.AnswersToRequestersCompleteTheirAccess := by
  unfold Obligations.AnswersToRequestersCompleteTheirAccess
  refine ⟨fun d m s hl hd hs hp hf => ⟨?data, ?grant, ?wback, ?cmodone, ?error⟩, ?agent, ?hart⟩
  case data =>
    intro n s1 hop hm hc hn hr ht hu hz h1 h2 hw hg hq hi hq1
    exact data_completes hl hd hs hp hf hm ht hu hr hn hop hc hz hg h1 h2 hw hq hi hq1
  case grant =>
    intro n key l hop hq hm hc hn hr ht hu hw h3
    exact grant_completes hl hd hs hp hf hm ht hu hr hn hop hc hw hq h3
  case wback =>
    intro w hop hi hw ho ht
    exact wback_completes hl hd hs hp hf hop hi hw ho ht
  case cmodone =>
    intro n h w hop hown hm hc hr ht hu held recalls evicting fills harts waiting hcbo issued lines
    obtain ⟨k, a, hcbo⟩ := hcbo
    exact cmodone_completes hl hd hs hp hf hm ht hu hr (fills n (List.mem_of_find?_eq_some hm)) hop hc
      (State.awaitsOne_of_waiting hown held recalls evicting fills harts waiting) (Waiting.cboOn_of_op hcbo issued lines)
  case error =>
    intro n hop hg hq hk hm hr hn ht hu hc
    exact error_completes hl hd hs hp hf hm ht hu hr hn hop hg hc hq hk
  case agent =>
    rintro m i line off at_ n s hl hd hs hi hls hlate
    refine ⟨?_, fun hop hk => wrdone_completes hl hd hs hi hls hlate hop hk⟩
    rintro hop hk hq hf hg hx rfl hp
    exact dataonce_completes hl hd hs hi hls hlate hop hk hq hf hg hx hp
  case hart =>
    intro m h io w a rd z c s hl hq hn hio hwr hws hi hp ho _ hk hm
    exact ioError_completes hl hq hn hio hwr hws hi hp ho hk hm

end Sys2Proof.Machine
end

section
/-! What the operations of a home slice do to the slice, to the messages in flight and to the requests of memory (R145, R149, R154). -/

namespace Sys2Proof.Machine

/-! ### Steps of a home -/

/-- From `s` to `t` slice `k` becomes `x`, the messages `sent` join those in flight and memory is asked for `asked`; the agents that
never answer are the same. -/
structure State.Goes (s t : State) (k : Nat) (x : HomeState) (sent : List Msg) (asked : List MemReq) : Prop where
  home : t.home k = x
  net : t.fab.net = s.fab.net ++ sent
  mem : t.mem = { s.mem with reqs := s.mem.reqs ++ asked }
  lost : ∀ a, t.agentLost a = s.agentLost a

/-- The forward that slice `k` sends an agent for a request. -/
def forwardFrom (k : Nat) (m : Msg) (f : Nat × Op) : Msg := { forwardOf m f.2 f.1 with src := 32 + k }

/-- The answer without data that slice `k` sends to a request. -/
def answerFrom (k : Nat) (m : Msg) (op : Op) (flag : BitVec 2) : Msg := { homeAnswerOf m op flag with src := 32 + k }

/-- The read of a line that slice `k` asks of memory for a request. -/
def readFrom (k line : Nat) (m : Msg) : MemReq :=
  { client := .home (Fin.ofNat 32 k), line := line, write := false, hue := m.hue, cls := m.cls }

/-- The write of a line that slice `k` asks of memory for a request. -/
def writeFrom (k line : Nat) (m : Msg) (d : Bytes × Bool) : MemReq :=
  { readFrom k line m with write := true, data := d.1, poison := d.2 }

/-- The slice with its transaction of a line replaced. -/
def HomeState.putTxn (x : HomeState) (t : Txn) : HomeState :=
  { x with txns := x.txns.map fun u => if u.line = t.line then t else u }

theorem State.dieFenced_of_pdr {s t : State} (h : t.mgmt.pdr = s.mgmt.pdr) (i : Nat) : t.dieFenced i = s.dieFenced i := by
  have status : t.dieStatus i = s.dieStatus i := by unfold State.dieStatus; rw [h]
  simp only [State.dieFenced, status]

theorem Moved.agentLost {s t : State} (h : Moved s t) (a : Nat) : t.agentLost a = s.agentLost a := by
  obtain ⟨-, -, -, -, -, -, -, -, mgmt⟩ := h
  have fenced : t.dieFenced a = s.dieFenced a := State.dieFenced_of_pdr (by rw [mgmt]) a
  have casc : t.mgmt.casc = s.mgmt.casc := by rw [mgmt]
  have index : t.pkgIx = s.pkgIx := by unfold State.pkgIx; rw [mgmt]
  simp only [State.agentLost, fenced, casc, index]

section
variable {s t u : State} {k : Nat} {x y : HomeState} {sent more : List Msg} {asked wanted : List MemReq}

theorem State.Goes.refl (s : State) (k : Nat) : s.Goes s k (s.home k) [] [] := by constructor <;> simp

theorem State.Goes.trans (a : s.Goes t k x sent asked) (b : t.Goes u k y more wanted) :
    s.Goes u k y (sent ++ more) (asked ++ wanted) where
  home := b.home
  net := by rw [b.net, a.net, List.append_assoc]
  mem := by rw [b.mem, a.mem]; simp only [List.append_assoc]
  lost i := (b.lost i).trans (a.lost i)

/-- A step after which the slice is as it was before it. -/
theorem State.Goes.then (a : s.Goes t k x sent asked) (b : t.Goes u k (t.home k) more wanted) :
    s.Goes u k x (sent ++ more) (asked ++ wanted) := a.home ▸ a.trans b

end

section
variable (s : State) (k : Nat)

theorem State.uncount_goes (unit code n : Nat) (hue : BitVec 12) (cls : BitVec 3) (filtered : Bool) :
    s.Goes (s.uncount unit code n hue cls filtered) k (s.home k) [] [] := by
  have moved := moved_uncount s unit code n hue cls filtered
  have net : (s.uncount unit code n hue cls filtered).fab.net = s.fab.net := by
    unfold State.uncount
    split <;> rfl
  obtain ⟨mem, -, -, -, -, -, -, homes, -⟩ := id moved
  exact ⟨by simp only [State.home, homes], by rw [net, List.append_nil], by rw [mem, List.append_nil], moved.agentLost⟩

theorem State.setHome_goes (x : HomeState) : s.Goes (s.setHome k x) k x [] [] :=
  ⟨by simp, by simp, by simp, fun _ => rfl⟩

theorem State.setTxn_goes (t : Txn) : s.Goes (s.setTxn k t) k ((s.home k).putTxn t) [] [] := s.setHome_goes k _

theorem State.send_goes (m : Msg) : s.Goes (s.send m) k (s.home k) [m] [] := ⟨rfl, rfl, by simp [State.send, State.upFab], fun _ => rfl⟩

theorem State.memReq_goes (r : MemReq) : s.Goes (s.memReq r) k (s.home k) [] [r] :=
  ⟨rfl, by simp [State.memReq, State.upMem], rfl, fun _ => rfl⟩

theorem State.sendFwd_goes (m : Msg) (f : Nat × Op) : s.Goes (s.sendFwd k m f.1 f.2) k (s.home k) [forwardFrom k m f] [] :=
  (s.uncount_goes k ..).then (State.send_goes _ k _)

theorem State.forwards_goes (m : Msg) (fwds : List (Nat × Op)) :
    s.Goes (s.forEach fwds fun s f => s.sendFwd k m f.1 f.2) k (s.home k) (fwds.map (forwardFrom k m)) [] := by
  induction fwds generalizing s with
  | nil => exact .refl s k
  | cons f fwds ih => exact (s.sendFwd_goes k m f).then (ih _)

theorem State.homeReply_goes (m : Msg) (op : Op) (flag : BitVec 2) :
    s.Goes (s.homeReply k m op flag none) k (s.home k) [answerFrom k m op flag] [] := s.send_goes k _

end

/-! ### The transaction of a line -/

/-- The slice with a further open transaction. -/
def HomeState.opened (x : HomeState) (t : Txn) : HomeState := { x with txns := x.txns ++ [t] }

section
variable {x : HomeState} {t u : Txn}

theorem HomeState.txn_opened (fresh : x.txn t.line = none) : (x.opened t).txn t.line = some t := by
  unfold HomeState.txn at fresh ⊢
  simp [HomeState.opened, List.find?_append, fresh]

theorem HomeState.putTxn_opened (fresh : x.txn t.line = none) (hu : u.line = t.line) : (x.opened t).putTxn u = x.opened u := by
  have others : ∀ v ∈ x.txns, v.line ≠ t.line := by simpa [HomeState.txn] using fresh
  have kept : x.txns.map (fun v => if v.line = t.line then u else v) = x.txns :=
    (List.map_congr_left fun v hv => if_neg (others v hv)).trans (List.map_id' _)
  simp [HomeState.putTxn, HomeState.opened, hu, kept]

end

/-- The transaction waits for nothing: its next action may begin. -/
structure Txn.Ready (t : Txn) : Prop where
  acks : t.acks = []
  rd : t.rd = false
  wr : t.wr = false
  waitWay : t.waitWay = false
  compWait : t.compWait = false

theorem Txn.Ready.free {t : Txn} (r : t.Ready) :
    (!t.acks.isEmpty || t.rd || t.wr || t.waitWay || (t.compWait && !t.gotComp)) = false := by
  simp [r.acks, r.rd, r.wr, r.waitWay, r.compWait]

/-- The transaction after it has begun its first action. -/
def Txn.next (t : Txn) (rest : List HAct) : Txn := { t with plan := rest, compWait := false }

theorem Txn.Ready.next {t : Txn} (r : t.Ready) (rest : List HAct) : (t.next rest).Ready := ⟨r.acks, r.rd, r.wr, r.waitWay, rfl⟩

/-- Slice `k` is `x` with the transaction `t` of a request open, the only one of its line. -/
structure State.OpenAt (s : State) (k : Nat) (x : HomeState) (t : Txn) : Prop where
  home : s.home k = x.opened t
  fresh : x.txn t.line = none
  own : t.req.line = t.line

/-- The answers that the home waits for after it has sent forwards. -/
def State.waitsFor (s : State) (fwds : List (Nat × Op)) : List FwdWait :=
  fwds.map fun f => { agent := f.1, op := f.2, tmo := s.fwdTmo }

/-- The slice with a transaction closed that no other transaction has opened. -/
def HomeState.closed (x : HomeState) (t : Txn) : HomeState :=
  { x with txns := x.txns.filter fun u => u.line ≠ t.line
           accepted := if !t.sweep then x.accepted.erase t.req else x.accepted }

/-- Where no writeback waits, none is handled again. -/
theorem State.wbAgain_goes (s : State) {k : Nat} {x : HomeState} (line : Nat) (hx : s.home k = x) (wbs : x.wbs = []) :
    s.Goes (s.wbAgain k line) k x [] [] := by
  have same : { x with wbs := [] } = x := by rw [← wbs]
  unfold State.wbAgain
  simp only [hx, wbs, List.filter_nil, same, State.forEach, List.foldl_nil]
  exact s.setHome_goes k x

theorem HomeState.txn_closed (x : HomeState) (t : Txn) : (x.closed t).txn t.line = none := by
  simp [HomeState.txn, HomeState.closed]

/-- No transaction that waits for a way makes a line wait for one. -/
theorem HomeState.wayWaiters_of_none {x : HomeState} (h : ∀ t ∈ x.txns, t.waitWay = false) : x.wayWaiters = [] := by
  refine List.filterMap_eq_nil_iff.2 fun m _ => Option.map_eq_none_iff.2 (List.find?_eq_none.2 fun t ht => ?_)
  simp [h t ht]

theorem HomeState.victimsOf_of_none {x : HomeState} {line : Nat} (h : ∀ t ∈ x.txns, t.parent ≠ some line) :
    x.victimsOf line = [] := by
  simpa [HomeState.victimsOf] using h

section
variable {s : State} {k : Nat} {x : HomeState} {t : Txn} (at_ : s.OpenAt k x t)
include at_

theorem State.OpenAt.txn : (s.home k).txn t.line = some t := at_.home ▸ HomeState.txn_opened at_.fresh

theorem State.OpenAt.setTxn {u : Txn} (hu : u.line = t.line) : s.Goes (s.setTxn k u) k (x.opened u) [] [] := by
  have goes := s.setTxn_goes k u
  rwa [at_.home, HomeState.putTxn_opened at_.fresh hu] at goes

theorem State.OpenAt.moves {v : State} {u : Txn} {sent : List Msg} {asked : List MemReq} (g : s.Goes v k (x.opened u) sent asked)
    (hl : u.line = t.line) (hr : u.req = t.req) : v.OpenAt k x u :=
  ⟨g.home, hl ▸ at_.fresh, by rw [hr, hl, at_.own]⟩

theorem State.OpenAt.stays {v : State} {sent : List Msg} {asked : List MemReq} (g : s.Goes v k (s.home k) sent asked) : v.OpenAt k x t :=
  ⟨g.home.trans at_.home, at_.fresh, at_.own⟩

theorem State.OpenAt.request : ({ t.req with line := t.line } : Msg) = t.req := by rw [← at_.own]

/-- A transaction that waits for an answer or for memory goes no further. -/
theorem State.OpenAt.run_waits (hw : t.acks ≠ [] ∨ t.rd = true) (n : Nat) : s.homeRun k t.line n = s := by
  cases n with
  | zero => rfl
  | succ n =>
    unfold State.homeRun
    rw [at_.txn]
    rcases hw with hw | hw <;> simp [hw]

theorem State.OpenAt.tryWay (absent : x.find t.line = none) (free : ∃ w < 12, x.taken (lineSet t.line * 12 + w) = false)
    (hw : t.way = none) : ∃ way, s.tryWay k t = s.setTxn k { t with way := some way, waitWay := false } := by
  have taken (key : Nat) : (x.opened t).taken key = x.taken key := by
    simp [HomeState.taken, HomeState.opened, hw]
  obtain ⟨w, hw, free⟩ := free
  unfold State.tryWay
  rw [at_.home]
  simp only [show (x.opened t).find t.line = none from absent, taken]
  cases found : (List.range 12).find? fun w => !x.taken (lineSet t.line * 12 + w) with
  | some v => exact ⟨_, rfl⟩
  | none => simpa [free] using List.find?_eq_none.1 found w (List.mem_range.2 hw)

variable (ready : t.Ready) {rest : List HAct}
include ready

/-- Forwards and a read of memory: the transaction then waits for their answers. -/
theorem State.OpenAt.run_issue {fwds : List (Nat × Op)} {read : Bool} (hp : t.plan = .issue fwds read :: rest)
    (answer : ∀ f ∈ fwds, s.agentLost f.1 = false) (waits : fwds ≠ [] ∨ read = true) (n : Nat) :
    s.Goes (s.homeRun k t.line (n + 1)) k (x.opened { t.next rest with acks := s.waitsFor fwds, rd := read })
      (fwds.map (forwardFrom k t.req)) (if read then [readFrom k t.line t.req] else []) := by
  have sends := s.forwards_goes k t.req fwds
  rw [State.homeRun]
  simp only [at_.txn, ready.free, hp, at_.request, Bool.false_eq_true, if_false]
  generalize s.forEach fwds (fun s f => s.sendFwd k t.req f.1 f.2) = v at sends
  have none_lost : fwds.filter (fun f => v.agentLost f.1) = [] :=
    List.filter_eq_nil_iff.2 fun f hf => by rw [sends.lost, answer f hf]; exact Bool.false_ne_true
  simp only [none_lost, List.foldl_nil]
  have reads : s.Goes (if read then v.memReq (readFrom k t.line t.req) else v) k (s.home k) (fwds.map (forwardFrom k t.req))
      (if read then [readFrom k t.line t.req] else []) := by
    cases read with
    | false => exact sends
    | true => simpa using sends.then (v.memReq_goes k _)
  have opens := (at_.stays reads).setTxn (u := { t.next rest with acks := s.waitsFor fwds, rd := read }) rfl
  have still := ((at_.stays reads).moves opens rfl rfl).run_waits (by simpa [State.waitsFor] using waits) n
  have goes := reads.trans opens
  rw [← still] at goes
  simp only [List.append_nil] at goes
  exact goes

/-- A way for the entry, where one is free: it is reserved, and the transaction goes on. -/
theorem State.OpenAt.run_way (hp : t.plan = .way :: rest) (absent : x.find t.line = none)
    (free : ∃ w < 12, x.taken (lineSet t.line * 12 + w) = false) (hw : t.way = none) (parent : t.parent = none)
    (victims : ∀ u ∈ x.txns, u.parent ≠ some t.line) (n : Nat) :
    ∃ u way, s.Goes u k (x.opened { t.next rest with way := some way, waitWay := false }) [] [] ∧
      s.homeRun k t.line (n + 1) = u.homeRun k t.line n := by
  have first := at_.setTxn (u := t.next rest) rfl
  have opened := at_.moves first rfl rfl
  obtain ⟨way, takes⟩ := opened.tryWay absent free hw
  have second := opened.setTxn (u := { t.next rest with way := some way, waitWay := false }) rfl
  rw [← takes] at second
  refine ⟨_, way, first.trans second, ?_⟩
  have none_recalled : (((s.setTxn k (t.next rest)).tryWay k (t.next rest)).home k).victimsOf t.line = [] := by
    rw [second.home]
    exact HomeState.victimsOf_of_none (by simpa [HomeState.opened, Txn.next, parent, or_imp, forall_and] using victims)
  rw [State.homeRun]
  simp only [at_.txn, ready.free, hp, Bool.false_eq_true, if_false]
  change State.homeRun (State.forEach _ ((((s.setTxn k (t.next rest)).tryWay k (t.next rest)).home k).victimsOf t.line) _) .. = _
  rw [none_recalled]
  rfl

/-- An answer without data to the requester: the transaction goes on. -/
theorem State.OpenAt.run_reply {op : Op} {flag : BitVec 2} (hp : t.plan = .reply op flag :: rest)
    (hd : op ≠ .data ∧ op ≠ .dataOnce) (n : Nat) : ∃ u, s.Goes u k (x.opened (t.next rest)) [answerFrom k t.req op flag] [] ∧
      s.homeRun k t.line (n + 1) = u.homeRun k t.line n := by
  have sends := s.homeReply_goes k t.req op flag
  refine ⟨_, sends.trans ((at_.stays sends).setTxn (u := t.next rest) rfl), ?_⟩
  rw [State.homeRun]
  simp only [at_.txn, ready.free, hp, hd, decide_false, Bool.or_self, Bool.false_eq_true, if_false]
  rfl

/-- Nothing but the CompAck of a requester that answers is left: the transaction waits for it (R157). -/
theorem State.OpenAt.run_compAck (hp : t.plan = .compAck :: rest) (hg : t.gotComp = false)
    (hl : s.agentLost t.req.req = false) (n : Nat) :
    s.Goes (s.homeRun k t.line (n + 1)) k (x.opened { t.next rest with compWait := true }) [] [] := by
  rw [State.homeRun]
  simp only [at_.txn, ready.free, hp, Bool.false_eq_true, if_false]
  rw [if_neg (by simp [hg]), if_neg (by simp [hl])]
  exact at_.setTxn (u := { t.next rest with compWait := true }) rfl

/-- A read of memory for a transaction that holds no data: it then waits for memory. -/
theorem State.OpenAt.run_readIfNone (hp : t.plan = .readIfNone :: rest) (hd : t.data = none) (n : Nat) :
    s.Goes (s.homeRun k t.line (n + 1)) k (x.opened { t.next rest with rd := true }) [] [readFrom k t.line t.req] := by
  have reads := s.memReq_goes k (readFrom k t.line t.req)
  rw [State.homeRun]
  simp only [at_.txn, ready.free, hp, Bool.false_eq_true, if_false]
  rw [if_neg (by simp [hd])]
  exact reads.trans ((at_.stays reads).setTxn (u := { t.next rest with rd := true }) rfl)

/-- A write of the data that the transaction holds: it then waits for memory. -/
theorem State.OpenAt.run_write {d : Bytes × Bool} (hp : t.plan = .write :: rest) (hd : t.data = some d) (n : Nat) :
    s.Goes (s.homeRun k t.line (n + 1)) k (x.opened { t.next rest with wr := true }) [] [writeFrom k t.line t.req d] := by
  have writes := s.memReq_goes k (writeFrom k t.line t.req d)
  rw [State.homeRun]
  simp only [at_.txn, ready.free, hp, Bool.false_eq_true, if_false]
  split
  · next none_held => cases hd.symm.trans none_held
  · next b p held =>
    obtain rfl := Option.some.inj (hd.symm.trans held)
    exact writes.trans ((at_.stays writes).setTxn (u := { t.next rest with wr := true }) rfl)

/-- Nothing is left of a transaction that leaves the entry as it is, and nothing else waits: it closes. -/
theorem State.OpenAt.run_ends (hp : t.plan = []) (parent : t.parent = none) (after : t.after = .unchanged)
    (ways : ∀ u ∈ x.txns, u.waitWay = false) (wbs : x.wbs = []) (n : Nat) :
    ∃ y : HomeState, y.txn t.line = none ∧ s.Goes (s.homeRun k t.line (n + 1)) k y [] [] := by
  have unchanged : (x.opened t).applyAfter t = x.opened t := by simp [HomeState.applyAfter, after]
  have closes := s.setHome_goes k ((x.opened t).closed t)
  have none_waits : ((x.opened t).closed t).wayWaiters = [] := HomeState.wayWaiters_of_none fun u hu => by
    rcases List.mem_append.1 (List.mem_of_mem_filter hu) with hu | hu
    · exact ways u hu
    · rw [List.mem_singleton.1 hu, ready.waitWay]
  rw [State.homeRun]
  simp only [at_.txn, ready.free, hp, Bool.false_eq_true, if_false]
  simp only [parent, at_.home, unchanged, Option.isNone_none, Bool.true_and]
  change ∃ y, _ ∧ s.Goes (State.wbAgain (State.forEach (s.setHome k ((x.opened t).closed t)) (List.filter _ (HomeState.wayWaiters
    ((s.setHome k ((x.opened t).closed t)).home k))) _) ..) ..
  rw [closes.home, none_waits]
  have again := (s.setHome k ((x.opened t).closed t)).wbAgain_goes t.line closes.home wbs
  exact ⟨_, HomeState.txn_closed (x.opened t) t, closes.trans again⟩

end

end Sys2Proof.Machine
end

section
/-! The acceptance of requests at a home, and the beginning of their transactions (R149, R153, R154, R155, R167). -/

namespace Sys2Proof.Machine

/-! ### Arrival -/

theorem State.dieStill_of_le (s : State) {a : Nat} (h : 12 ≤ a) : s.dieStill a = false := by
  refine List.any_eq_false.2 fun e _ => ?_
  have := e.isLt
  simp only [decide_eq_true_eq]
  omega

/-- A request or writeback reaches a home slice. -/
theorem arrive_home {op : Op} {m : Msg} {s : State} (f : State → Msg → State) (hl : s.clocked = true) (ho : m.op = op)
    (hd : 32 ≤ m.dst) (hs : m.src < 12 → s.dieFenced m.src = false) :
    arrive op m s (fun s => s.toHome m f) = .next (f (s.deliver m) m) := by
  have source : (decide (m.src < 12) && (s.deliver m).dieFenced m.src) = false := by
    by_cases h : m.src < 12
    · rw [show (s.deliver m).dieFenced m.src = false from hs h, Bool.and_false]
    · rw [decide_eq_false h, Bool.false_and]
  have destination : ¬ m.dst < 12 := by omega
  simp only [arrive, live, hl, ho, s.dieStill_of_le (show 12 ≤ m.dst by omega), source, destination, State.toHome, hd, ne_eq,
    not_true_eq_false, decide_false, Bool.or_self, Bool.false_and, Bool.false_eq_true, if_false, if_true]

/-- The operations of requests. -/
def requestOps : List Op :=
  [.rdS, .rdO, .upg, .claimZ, .cmoClean, .cmoFlush, .cmoInval, .rdOnce, .wrFull, .wrPart, .atomIO]

theorem mem_requestOps {m : Msg} {row : Instr} (h : requestRow m = some row) : m.op ∈ requestOps := by
  unfold requestRow at h
  split at h
  case h_12 => cases h
  all_goals next op => rw [op]; decide

theorem exec_requestRow {m : Msg} {row : Instr} (h : requestRow m = some row) (s : State) :
    exec row s = arrive m.op m s fun s => s.toHome m State.homeAccept := by
  unfold requestRow at h
  split at h
  case h_12 => cases h
  all_goals next op => cases h; rw [op]; rfl

/-! ### Acceptance (R149, R153, R261) -/

/-- The home of a message's line takes the message: its hue is its partition's, the slice is not fenced, the sender may use the opcode
and the line is main memory (R191, R261, R525). -/
structure State.TakesMsg (s : State) (m : Msg) : Prop where
  hue : ∀ p, s.domainOf m.req = some p → m.hue = 0 ∨ s.partOfHue m.hue.toNat = some p
  open_ : (s.home (lineSlice m.line)).fenced = false
  may : mayRequest m.req m.op = true
  memory : (s.region (s.domainOf m.req) (m.line * 64)).isMemory = true

theorem State.hubHue_own {s : State} {part : Option Nat} {m : Msg}
    (h : ∀ p, part = some p → m.hue = 0 ∨ s.partOfHue m.hue.toNat = some p) (k : Nat) : s.hubHue part k m = (m, s) := by
  unfold State.hubHue
  split
  · rfl
  · next p => rw [if_pos (by simpa using h p rfl)]

section
variable {s : State} {m : Msg} (takes : s.TakesMsg m)
include takes

/-- A request, with none held back before it and a tracker free, is accepted. -/
theorem State.homeAccept_request (hop : m.op ≠ .wbData) (held : (s.home (lineSlice m.line)).heldBack = [])
    (tracker : s.trackerFree (lineSlice m.line) m = true) : s.homeAccept m = s.homeTake (lineSlice m.line) m := by
  simp only [State.homeAccept, State.hubHue_own takes.hue, takes.open_, takes.may, takes.memory, hop, held, tracker, List.any_nil,
    Bool.not_true, Bool.or_self, Bool.false_eq_true, if_false]

/-- A writeback, where a tracker of the slice is free, is handled at once. -/
theorem State.homeAccept_writeback (hop : m.op = .wbData) (room : (s.home (lineSlice m.line)).wbs.length < 64) :
    s.homeAccept m = s.wbBegin (lineSlice m.line) m := by
  have may := takes.may
  rw [hop] at may
  simp only [State.homeAccept, State.hubHue_own takes.hue, takes.open_, may, takes.memory, hop, room, Bool.not_true,
    Bool.false_eq_true, if_false, if_true]

end

/-- The slice with a further accepted request. -/
def HomeState.accept (x : HomeState) (m : Msg) : HomeState := { x with accepted := x.accepted ++ [m] }

/-- A request that a cache or the I/O agent makes coherently, for a line that is not busy with none waiting and a set that is not being
recovered, begins at once. -/
theorem State.homeTake_begins {s : State} {k : Nat} {m : Msg} (hop : m.op ∈ requestOps) (idle : (s.home k).busy m.line = false)
    (first : ∀ q ∈ (s.home k).waitq, q.line ≠ m.line) (whole : ∀ r ∈ (s.home k).recov, r.set ≠ lineSet m.line) :
    ∃ u, s.Goes u k ((s.home k).accept m) [] [] ∧ s.homeTake k m = u.homeBegin k m := by
  have counts := s.uncount_goes k (32 + k) 0x01 1 m.hue m.cls true
  refine ⟨_, counts.trans (State.setHome_goes _ k _), ?_⟩
  have snooped : m.op ≠ .rdNS ∧ m.op ≠ .wrNS := by
    constructor <;> rintro e <;> rw [e] at hop <;> revert hop <;> decide
  have none_waits : ((s.home k).waitq.any fun q => q.line = m.line) = false := by simpa using first
  have none_recovers : ((s.home k).recov.any fun r => r.set = lineSet m.line) = false := by simpa using whole
  unfold State.homeTake
  simp only [counts.home, snooped.1, snooped.2, idle, none_waits, none_recovers, decide_false, Bool.or_self, Bool.false_eq_true, if_false]
  rfl

/-! ### The transaction of a request -/

theorem Table.mem_of_find {α : Type} {t : Table α} {k : Nat} {v : α} (h : Table.find t k = some v) : (k, v) ∈ t := by
  induction t with
  | nil => cases h
  | cons e t ih =>
    unfold Table.find at h
    split at h
    · next e => cases h; rw [e]; exact List.mem_cons_self
    · exact List.mem_cons_of_mem _ (ih h)

/-- No way of a set shows what no entry of the directory does. -/
theorem Table.any_find_eq_false {α : Type} {t : Table α} {p : α → Bool} (h : ∀ e ∈ t, p e.2 = false) (k : Nat) :
    (Table.find t k).any p = false := by
  cases found : Table.find t k with
  | none => rfl
  | some v => exact h _ (Table.mem_of_find found)

theorem State.readSet_sound {s : State} {k : Nat} (h : ∀ e ∈ (s.home k).dir, e.2.soft = false) (set : Nat) : s.readSet k set = s := by
  unfold State.readSet
  exact if_neg fun any => by
    obtain ⟨i, -, soft⟩ := List.any_eq_true.1 any
    rw [Table.any_find_eq_false h i] at soft
    cases soft

/-- The transaction that a home opens for a request (R154, R155, R167). -/
def HomeState.txnFor (x : HomeState) (m : Msg) : Txn :=
  let v := viewOf ((x.find m.line).map (·.2)) m
  { line := m.line, req := m, plan := (homePlan v m).1, after := (homePlan v m).2, data := carried v m }

/-- The request of a line may begin at slice `k`: its requester can answer, no transaction of the line is open and no entry of the
directory shows an error (R148, R154). -/
structure State.Begins (s : State) (k : Nat) (m : Msg) : Prop where
  answers : s.agentLost m.req = false
  fresh : (s.home k).txn m.line = none
  sound : ∀ e ∈ (s.home k).dir, e.2.bad = false ∧ e.2.soft = false

/-- A request that may begin has its transaction opened and run. -/
theorem State.Begins.opens {s : State} {k : Nat} {m : Msg} (b : s.Begins k m) :
    ∃ u, s.Goes u k ((s.home k).opened ((s.home k).txnFor m)) [] [] ∧ u.OpenAt k (s.home k) ((s.home k).txnFor m) ∧
      s.homeBegin k m = u.homeRun k m.line homeFuel := by
  have opens := s.setHome_goes k ((s.home k).opened ((s.home k).txnFor m))
  refine ⟨_, opens, ⟨opens.home, b.fresh, rfl⟩, ?_⟩
  unfold State.homeBegin
  rw [if_neg (by simp [b.answers])]
  simp only [State.readSet_sound fun e he => (b.sound e he).2]
  rw [if_neg fun any => by
    obtain ⟨w, -, bad⟩ := List.any_eq_true.1 any
    rw [Table.any_find_eq_false (fun e he => (b.sound e he).1)] at bad
    cases bad]
  rfl

/-- No transaction of a line that is not busy is open. -/
theorem HomeState.txn_of_idle {x : HomeState} {line : Nat} (idle : x.busy line = false) : x.txn line = none :=
  Option.isNone_iff_eq_none.1 (Option.isSome_eq_false_iff.1 (Bool.or_eq_false_iff.1 idle).1)

/-- A request whose home accepts it, and begins it at once. -/
theorem request_accepted {s : State} {m : Msg} {row : Instr} (hb : homeBegins s m) (hr : requestRow m = some row) :
    ∃ u, (s.deliver m).Goes u (lineSlice m.line) ((s.home (lineSlice m.line)).accept m) [] [] ∧ u.Begins (lineSlice m.line) m ∧
      exec row s = .next (u.homeBegin (lineSlice m.line) m) := by
  obtain ⟨hl, hd, hs, lost, hue, open_, may, memory, held, tracker, idle, first, whole, sound⟩ := hb
  have op := mem_requestOps hr
  have not_writeback : m.op ≠ .wbData := by rintro e; rw [e] at op; revert op; decide
  obtain ⟨u, goes, begins⟩ := State.homeTake_begins (s := s.deliver m) op idle first whole
  have takes : (s.deliver m).TakesMsg m := ⟨hue, open_, may, memory⟩
  refine ⟨u, goes, ⟨?_, ?_, ?_⟩, ?_⟩
  · rw [goes.lost]; exact lost
  · rw [goes.home]
    exact HomeState.txn_of_idle idle
  · rw [goes.home]; exact sound
  · rw [exec_requestRow hr, arrive_home _ hl rfl hd hs, State.homeAccept_request takes not_writeback held tracker, begins]

end Sys2Proof.Machine
end

section
/-! Requests at their home: for a line that is Owned, Shared or in no cache (R145, R155, R158, R160, R161, R167, R191). -/

namespace Sys2Proof.Machine

/-! ### The plan of a request (R155, R167) -/

theorem viewOf_owned {e : DirEntry} {m : Msg} {o : Nat} {more : List Nat} (st : e.st = .owned) (holders : holderList e.holders = o :: more)
    (other : cachedReq m.op = true → e.holders ≠ holderMask m.req) : viewOf (some e) m = .owned o := by
  have not_mine : (cachedReq m.op && e.holders = holderMask m.req) = false := by
    cases c : cachedReq m.op with
    | false => rfl
    | true => simpa using other c
  simp only [viewOf, st, not_mine, holders, List.headD_cons, Bool.false_eq_true, if_false]

theorem viewOf_shared {e : DirEntry} (st : e.st = .shared) (m : Msg) : viewOf (some e) m = .shared e.holders := by
  simp only [viewOf, st]

/-- A request for a line that another agent owns begins with the row's one forward. -/
theorem homePlan_owned {m : Msg} (hop : m.op ∈ requestOps) (o : Nat) :
    ∃ rest after, homePlan (.owned o) m = (.issue [(o, ownerForward m.op)] false :: rest, after) := by
  simp only [requestOps, List.mem_cons, List.not_mem_nil, or_false] at hop
  unfold homePlan
  rcases hop with op | op | op | op | op | op | op | op | op | op | op <;> rw [op] <;> exact ⟨_, _, rfl⟩

/-- The holders that a request of a shared line invalidates: all but its own requester. -/
def otherHolders (h : BitVec 16) (m : Msg) : List Nat := (holderList h).filter fun a => !(cachedReq m.op && a = m.req)

/-- A request that takes a shared line begins with Inv to its other holders. -/
theorem homePlan_shared {m : Msg} (h : BitVec 16)
    (hop : m.op ∈ [Op.rdO, .upg, .claimZ, .cmoFlush, .cmoInval, .wrFull, .wrPart, .atomIO]) :
    ∃ read rest after, homePlan (.shared h) m = (.issue ((otherHolders h m).map fun a => (a, Op.inv)) read :: rest, after) := by
  simp only [List.mem_cons, List.not_mem_nil, or_false] at hop
  unfold homePlan otherHolders
  rcases hop with op | op | op | op | op | op | op | op <;> rw [op]
  case inr.inl => dsimp only; split <;> exact ⟨_, _, _, rfl⟩
  all_goals exact ⟨_, _, _, rfl⟩

theorem homePlan_rdS_shared {m : Msg} (hop : m.op = .rdS) (h : BitVec 16) : homePlan (.shared h) m =
    ([.issue [] true, .reply .data 0, .compAck], .shared (h ||| holderMask m.req)) := by
  unfold homePlan
  rw [hop]

/-! ### A request that begins -/

theorem HomeState.txnFor_ready (x : HomeState) (m : Msg) : (x.txnFor m).Ready := ⟨rfl, rfl, rfl, rfl, rfl⟩

/-- A request whose row begins with forwards, or with a read of memory, sends them and waits. -/
theorem State.Begins.issues {s : State} {k : Nat} {m : Msg} (b : s.Begins k m) {fwds : List (Nat × Op)} {read : Bool}
    {rest : List HAct} {after : After}
    (plan : homePlan (viewOf (((s.home k).find m.line).map (·.2)) m) m = (.issue fwds read :: rest, after))
    (answer : ∀ f ∈ fwds, s.agentLost f.1 = false) (waits : fwds ≠ [] ∨ read = true) :
    ∃ t : Txn, t.line = m.line ∧ t.req = m ∧ (t.acks.map fun a => (a.agent, a.op)) = fwds ∧
      s.Goes (s.homeBegin k m) k ((s.home k).opened t) (fwds.map (forwardFrom k m)) (if read then [readFrom k m.line m] else []) := by
  obtain ⟨u, goes, opens, runs⟩ := b.opens
  have issues := opens.run_issue (HomeState.txnFor_ready ..) (congrArg Prod.fst plan)
    (fun f hf => (goes.lost _).trans (answer f hf)) waits 63
  rw [runs]
  exact ⟨_, rfl, rfl, by simp [State.waitsFor, Function.comp_def], goes.trans issues⟩

section
variable {s : State} {m : Msg} {row : Instr} (hr : requestRow m = some row) (hb : homeBegins s m)
include hr hb

/-- The request leaves the transport, is accepted, and its transaction runs. -/
theorem request_opens : ∃ u, (s.deliver m).Goes u (lineSlice m.line)
      (((s.home (lineSlice m.line)).accept m).opened ((s.home (lineSlice m.line)).txnFor m)) [] [] ∧
    u.OpenAt (lineSlice m.line) ((s.home (lineSlice m.line)).accept m) ((s.home (lineSlice m.line)).txnFor m) ∧
    exec row s = .next (u.homeRun (lineSlice m.line) m.line homeFuel) := by
  obtain ⟨v, accepts, begins, runs⟩ := request_accepted hb hr
  obtain ⟨u, goes, opens, begun⟩ := begins.opens
  rw [accepts.home] at goes opens
  exact ⟨u, accepts.trans goes, opens, begun ▸ runs⟩

/-- A request of the transport whose row begins with forwards, or with a read of memory. -/
theorem request_issues {fwds : List (Nat × Op)} {read : Bool} {rest : List HAct} {after : After}
    (plan : homePlan (viewOf (((s.home (lineSlice m.line)).find m.line).map (·.2)) m) m = (.issue fwds read :: rest, after))
    (answer : ∀ f ∈ fwds, s.agentLost f.1 = false) (waits : fwds ≠ [] ∨ read = true) : Completes row s fun t =>
      t.fab.net = s.fab.net.erase m ++ fwds.map (forwardFrom (lineSlice m.line) m) ∧
      t.mem = { s.mem with reqs := s.mem.reqs ++ if read then [readFrom (lineSlice m.line) m.line m] else [] } ∧
      (t.home (lineSlice m.line)).find m.line = (s.home (lineSlice m.line)).find m.line ∧
      ∃ x, (t.home (lineSlice m.line)).txn m.line = some x ∧ x.req = m ∧ (x.acks.map fun a => (a.agent, a.op)) = fwds := by
  obtain ⟨u, accepts, begins, runs⟩ := request_accepted hb hr
  obtain ⟨t, line, req, acks, issues⟩ := begins.issues (by rw [accepts.home]; exact plan)
    (fun f hf => (accepts.lost _).trans (answer f hf)) waits
  have all := accepts.trans issues
  refine ⟨_, runs, all.net, all.mem, ?_, t, ?_, req, acks⟩
  · rw [issues.home, accepts.home]
    rfl
  · rw [issues.home, ← line]
    exact HomeState.txn_opened (line ▸ begins.fresh)

end

/-- Settles O12: the row's forward to the owner is the first action of the request's transaction, which then waits for its answer. -/
theorem requestToOwnedLineForwardsToTheOwner : Obligations.RequestToOwnedLineForwardsToTheOwner := by
  unfold Obligations.RequestToOwnedLineForwardsToTheOwner
  intro m row s key e o more hr hb found owned holders other answers
  obtain ⟨rest, after, plan⟩ := homePlan_owned (mem_requestOps hr) o
  rw [← viewOf_owned owned holders other] at plan
  obtain ⟨t, runs, net, mem, find, x, txn, req, acks⟩ := request_issues hr hb (fwds := [(o, ownerForward m.op)])
    (by rw [found]; exact plan) (by simpa using answers) (.inl (List.cons_ne_nil _ _))
  refine ⟨t, runs, net, find.trans found, by simpa using mem, ?_⟩
  rw [txn, Option.map_some, req, acks]

/-- Settles O14: the Invs to the other holders, or the read of memory for RDS, are the first action of the request's transaction. -/
theorem requestToSharedLineInvalidatesTheHolders : Obligations.RequestToSharedLineInvalidatesTheHolders := by
  unfold Obligations.RequestToSharedLineInvalidatesTheHolders
  intro m row s key e hr hb found shared answer k invs
  refine ⟨fun hop some_holder => ?_, fun hop => ?_⟩
  · obtain ⟨read, rest, after, plan⟩ := homePlan_shared e.holders hop
    rw [← viewOf_shared shared m] at plan
    obtain ⟨t, runs, net, -, find, x, txn, -, acks⟩ := request_issues hr hb (by rw [found]; exact plan)
      (fun f hf => by
        obtain ⟨a, ha, rfl⟩ := List.mem_map.1 hf
        exact answer a (List.mem_of_mem_filter ha))
      (.inl fun e => some_holder (List.map_eq_nil_iff.1 e))
    refine ⟨t, runs, ?_, ?_, find.trans found⟩
    · rw [net, List.map_map]; rfl
    · rw [txn, Option.map_some, acks]
  · have plan := homePlan_rdS_shared hop e.holders
    rw [← viewOf_shared shared m] at plan
    obtain ⟨t, runs, net, mem, -⟩ := request_issues hr hb (fwds := []) (read := true) (by rw [found]; exact plan)
      (fun f hf => by cases hf) (.inr rfl)
    exact ⟨t, runs, by simpa using net, by rw [mem]; rfl⟩

end Sys2Proof.Machine
end

section
/-! Requests at their home for a line that no cache holds, and requests that a home refuses (R145, R155, R160, R161, R167, R191). -/

namespace Sys2Proof.Machine

/-! ### The transaction of a request for a line with no directory entry -/

/-- That transaction. -/
def freeTxn (m : Msg) : Txn :=
  { line := m.line, req := m, plan := (homePlan .free m).1, after := (homePlan .free m).2, data := carried .free m }

theorem HomeState.txnFor_free {x : HomeState} {m : Msg} (h : x.find m.line = none) : x.txnFor m = freeTxn m := by
  unfold HomeState.txnFor freeTxn
  rw [h]
  rfl

theorem freeTxn_ready (m : Msg) : (freeTxn m).Ready := ⟨rfl, rfl, rfl, rfl, rfl⟩

section
variable {m : Msg}

theorem freeTxn_plan_read (h : m.op = .rdS ∨ m.op = .rdO ∨ m.op = .upg) :
    ∃ rest, (freeTxn m).plan = .way :: .issue [] true :: rest := by
  unfold freeTxn homePlan
  rcases h with h | h | h <;> rw [h] <;> exact ⟨_, rfl⟩

theorem freeTxn_plan_once (h : m.op = .rdOnce) : ∃ rest, (freeTxn m).plan = .issue [] true :: rest := by
  unfold freeTxn homePlan
  rw [h]
  exact ⟨_, rfl⟩

theorem freeTxn_plan_partial (h : m.op = .wrPart ∨ m.op = .atomIO) :
    (∃ rest, (freeTxn m).plan = .readIfNone :: rest) ∧ (freeTxn m).data = none := by
  unfold freeTxn homePlan carried
  rcases h with h | h <;> rw [h] <;> exact ⟨⟨_, rfl⟩, rfl⟩

theorem freeTxn_plan_claimZ (h : m.op = .claimZ) : (freeTxn m).plan = [.way, .reply .grant 0, .compAck] := by
  unfold freeTxn homePlan
  rw [h]

theorem freeTxn_plan_cmo (h : m.op = .cmoClean ∨ m.op = .cmoFlush ∨ m.op = .cmoInval) :
    (freeTxn m).plan = [.reply .cmoDone 0] ∧ (freeTxn m).after = .unchanged := by
  unfold freeTxn homePlan
  rcases h with h | h | h <;> rw [h] <;> exact ⟨rfl, rfl⟩

theorem freeTxn_plan_full (h : m.op = .wrFull) :
    (∃ rest, (freeTxn m).plan = .write :: rest) ∧ (freeTxn m).data = some (m.data, m.poison) := by
  unfold freeTxn homePlan carried
  rw [h]
  exact ⟨⟨_, rfl⟩, rfl⟩

end

/-! ### The request -/

section
variable {s : State} {m : Msg} {row : Instr} (hr : requestRow m = some row) (hb : homeBegins s m)
  (absent : (s.home (lineSlice m.line)).find m.line = none)
include hr hb absent

theorem request_opens_free : ∃ u,
    (s.deliver m).Goes u (lineSlice m.line) (((s.home (lineSlice m.line)).accept m).opened (freeTxn m)) [] [] ∧
    u.OpenAt (lineSlice m.line) ((s.home (lineSlice m.line)).accept m) (freeTxn m) ∧
    exec row s = .next (u.homeRun (lineSlice m.line) m.line homeFuel) := by
  have opens := request_opens hr hb
  rwa [HomeState.txnFor_free absent] at opens

/-- RDONCE, and WRPART and ATOMIO, which bring no whole line, read memory at once. -/
theorem request_free_once (hop : m.op = .rdOnce ∨ m.op = .wrPart ∨ m.op = .atomIO) : Completes row s fun t =>
    t.fab.net = s.fab.net.erase m ∧ t.mem.reqs = s.mem.reqs ++ [readFrom (lineSlice m.line) m.line m] ∧
      ((t.home (lineSlice m.line)).txn m.line).map (·.rd) = some true := by
  obtain ⟨u, goes, at_, runs⟩ := request_opens_free hr hb absent
  have reads : ∃ t : Txn, t.line = m.line ∧ t.req = m ∧ t.rd = true ∧ u.Goes (u.homeRun (lineSlice m.line) m.line homeFuel)
      (lineSlice m.line) (((s.home (lineSlice m.line)).accept m).opened t) [] [readFrom (lineSlice m.line) m.line m] := by
    rcases hop with hop | hop
    · obtain ⟨rest, plan⟩ := freeTxn_plan_once hop
      exact ⟨_, rfl, rfl, rfl, at_.run_issue (freeTxn_ready m) plan (fun f hf => by cases hf) (.inr rfl) 63⟩
    · obtain ⟨⟨rest, plan⟩, data⟩ := freeTxn_plan_partial hop
      exact ⟨_, rfl, rfl, rfl, at_.run_readIfNone (freeTxn_ready m) plan data 63⟩
  obtain ⟨t, line, req, rd, reads⟩ := reads
  have all := goes.trans reads
  refine ⟨_, runs, all.net.trans (List.append_nil _), congrArg Memory.reqs all.mem, ?_⟩
  have txn := (at_.moves reads line req).txn
  rw [line] at txn
  rw [txn, Option.map_some, rd]

/-- WRFULL writes the line that it brings. -/
theorem request_free_full (hop : m.op = .wrFull) : Completes row s fun t =>
    t.fab.net = s.fab.net.erase m ∧
      t.mem.reqs = s.mem.reqs ++ [writeFrom (lineSlice m.line) m.line m (m.data, m.poison)] := by
  obtain ⟨u, goes, at_, runs⟩ := request_opens_free hr hb absent
  obtain ⟨⟨rest, plan⟩, data⟩ := freeTxn_plan_full hop
  have all := goes.trans (at_.run_write (freeTxn_ready m) plan data 63)
  exact ⟨_, runs, all.net.trans (List.append_nil _), congrArg Memory.reqs all.mem⟩

/-- A CMO has nothing to do, and is answered. -/
theorem request_free_cmo (hop : m.op = .cmoClean ∨ m.op = .cmoFlush ∨ m.op = .cmoInval) (wbs : (s.home (lineSlice m.line)).wbs = [])
    (ways : ∀ t ∈ (s.home (lineSlice m.line)).txns, t.waitWay = false) : Completes row s fun t =>
      t.fab.net = s.fab.net.erase m ++ [homeAnswerOf m .cmoDone 0] ∧ t.mem.reqs = s.mem.reqs ∧
        (t.home (lineSlice m.line)).txn m.line = none := by
  obtain ⟨u, goes, at_, runs⟩ := request_opens_free hr hb absent
  obtain ⟨plan, after⟩ := freeTxn_plan_cmo hop
  have ready := freeTxn_ready m
  obtain ⟨v, replies, continues⟩ := at_.run_reply ready plan ⟨by decide, by decide⟩ 63
  obtain ⟨y, closed, ends⟩ := (at_.moves replies rfl rfl).run_ends (ready.next []) rfl rfl after ways wbs 62
  have all := (goes.trans replies).trans ends
  refine ⟨_, runs.trans (congrArg _ continues), all.net, ?_, ?_⟩
  · exact (congrArg Memory.reqs all.mem).trans (List.append_nil _)
  · exact (congrArg (·.txn m.line) all.home).trans closed

variable (way : ∃ w < 12, (s.home (lineSlice m.line)).taken (lineSet m.line * 12 + w) = false)
  (victims : ∀ t ∈ (s.home (lineSlice m.line)).txns, t.parent ≠ some m.line)
include way victims

/-- RDS, RDO and UPG take the way and read memory. -/
theorem request_free_read (hop : m.op = .rdS ∨ m.op = .rdO ∨ m.op = .upg) : Completes row s fun t =>
    t.fab.net = s.fab.net.erase m ∧ t.mem.reqs = s.mem.reqs ++ [readFrom (lineSlice m.line) m.line m] ∧
      ((t.home (lineSlice m.line)).txn m.line).map (·.rd) = some true := by
  obtain ⟨u, goes, at_, runs⟩ := request_opens_free hr hb absent
  obtain ⟨rest, plan⟩ := freeTxn_plan_read hop
  obtain ⟨v, w, takes, continues⟩ := at_.run_way (freeTxn_ready m) plan absent way rfl rfl victims 63
  have at_v := at_.moves takes rfl rfl
  have reads := at_v.run_issue ⟨rfl, rfl, rfl, rfl, rfl⟩ rfl (fun f hf => by cases hf) (.inr rfl) 62
  have all := (goes.trans takes).trans reads
  exact ⟨_, runs.trans (congrArg _ continues), all.net.trans (List.append_nil _), congrArg Memory.reqs all.mem,
    congrArg (Option.map Txn.rd) (at_v.moves reads rfl rfl).txn⟩

/-- CLAIMZ takes the way and is granted the line. -/
theorem request_free_claimZ (hop : m.op = .claimZ) : Completes row s fun t =>
    t.fab.net = s.fab.net.erase m ++ [homeAnswerOf m .grant 0] ∧ t.mem.reqs = s.mem.reqs ∧
      ((t.home (lineSlice m.line)).txn m.line).map (·.compWait) = some true := by
  obtain ⟨u, goes, at_, runs⟩ := request_opens_free hr hb absent
  have lost : s.agentLost m.req = false := by
    obtain ⟨-, -, -, lost, -⟩ := hb
    exact lost
  obtain ⟨v, w, takes, continues⟩ := at_.run_way (freeTxn_ready m) (freeTxn_plan_claimZ hop) absent way rfl rfl victims 63
  have at_v := at_.moves takes rfl rfl
  obtain ⟨z, grants, awaits⟩ := at_v.run_reply ⟨rfl, rfl, rfl, rfl, rfl⟩ rfl ⟨by decide, by decide⟩ 62
  have at_z := at_v.moves grants rfl rfl
  have waits := at_z.run_compAck ⟨rfl, rfl, rfl, rfl, rfl⟩ rfl rfl
    (((goes.trans takes).trans grants).lost _ |>.trans lost) 61
  have all := ((goes.trans takes).trans grants).trans waits
  refine ⟨_, runs.trans (congrArg _ (continues.trans awaits)), all.net, ?_, ?_⟩
  · exact (congrArg Memory.reqs all.mem).trans (List.append_nil _)
  · exact congrArg (Option.map Txn.compWait) (at_z.moves waits rfl rfl).txn

end

/-! ### Refusals (R191) -/

section
variable {s : State} {m : Msg} {row : Instr} (hr : requestRow m = some row) (hl : s.clocked = true) (hd : 32 ≤ m.dst)
  (hs : m.src < 12 → s.dieFenced m.src = false)
include hr hl hd hs

theorem request_reaches_home : exec row s = .next ((s.deliver m).homeAccept m) := by
  rw [exec_requestRow hr, arrive_home _ hl rfl hd hs]

variable (whole : s.domainOf m.req = none)
include whole

theorem request_refused_fenced (fenced : (s.home (lineSlice m.line)).fenced = true) : Completes row s fun t =>
    t.fab.net = s.fab.net.erase m ++ [homeAnswerOf m .error 2] := by
  refine ⟨_, request_reaches_home hr hl hd hs, ?_⟩
  have domain : (s.deliver m).domainOf m.req = none := whole
  have closed : ((s.deliver m).home (lineSlice m.line)).fenced = true := fenced
  simp only [State.homeAccept, domain, State.hubHue, closed, if_true]
  rfl

theorem request_refused_unsupported (open_ : (s.home (lineSlice m.line)).fenced = false)
    (refused : mayRequest m.req m.op = false ∨ (s.region none (m.line * 64)).isMemory = false) : Completes row s fun t =>
    t.fab.net = s.fab.net.erase m ++ [homeAnswerOf m .error 1] ∧ t.fab.homes = s.fab.homes := by
  refine ⟨_, request_reaches_home hr hl hd hs, ?_⟩
  have domain : (s.deliver m).domainOf m.req = none := whole
  have unfenced : ((s.deliver m).home (lineSlice m.line)).fenced = false := open_
  simp only [State.homeAccept, domain, State.hubHue, unfenced, Bool.false_eq_true, if_false]
  by_cases may : mayRequest m.req m.op = false
  · simp only [may, Bool.not_false, if_true]
    exact ⟨rfl, rfl⟩
  · have memory : ((s.deliver m).region none (m.line * 64)).isMemory = false := refused.resolve_left may
    simp only [Bool.not_eq_false] at may
    simp only [may, memory, Bool.not_true, Bool.not_false, Bool.false_eq_true, if_false, if_true]
    exact ⟨rfl, rfl⟩

end

/-- Settles O13: the first actions of each row's transaction, and the home's three refusals. -/
theorem requestToFreeLineReadsOrAnswers : Obligations.RequestToFreeLineReadsOrAnswers := by
  unfold Obligations.RequestToFreeLineReadsOrAnswers
  refine ⟨fun m row s hr hb absent wbs idle => ⟨?read, ?once, ?claimZ, ?cmo, ?full⟩,
    fun m row s hr hl hd hs whole => ⟨?fenced, ?refused⟩⟩
  case read => exact fun hop way => request_free_read hr hb absent way (fun t ht => (idle t ht).2) hop
  case once => exact request_free_once hr hb absent
  case claimZ => exact fun hop way => request_free_claimZ hr hb absent way (fun t ht => (idle t ht).2) hop
  case cmo => exact fun hop => request_free_cmo hr hb absent hop wbs fun t ht => (idle t ht).1
  case full => exact fun hop => request_free_full hr hb absent hop
  case fenced => exact request_refused_fenced hr hl hd hs whole
  case refused => exact request_refused_unsupported hr hl hd hs whole

end Sys2Proof.Machine
end

section
/-! Writebacks, no-snoop accesses, waiting requests and the directory scrub at a home (R148, R154, R159, R168). -/

namespace Sys2Proof.Machine

/-! ### Writebacks (R159) -/

theorem State.uncount_homes (s : State) (unit code n : Nat) (hue : BitVec 12) (cls : BitVec 3) (filtered : Bool) :
    (s.uncount unit code n hue cls filtered).fab.homes = s.fab.homes := by
  obtain ⟨-, -, -, -, -, -, -, homes, -⟩ := moved_uncount s unit code n hue cls filtered
  exact homes

/-- The directory names the agent as the owner of the line. -/
def HomeState.ownedBy (x : HomeState) (line agent : Nat) : Bool :=
  (x.find line).any fun e => e.2.st = .owned && e.2.holders = holderMask agent

section
variable {s : State} {k : Nat} {m : Msg} (idle : (s.home k).busy m.line = false)
  (whole : ∀ r ∈ (s.home k).recov, r.set ≠ lineSet m.line)
include idle whole

/-- A writeback of a line that is not busy, in a set that is not being recovered: from the owner it is written to memory, from any other
agent it is acknowledged and dropped. -/
theorem State.wbBegin_idle : s.wbBegin k m =
    if (s.home k).ownedBy m.line m.req then
      (s.setHome k { s.home k with wbs := (s.home k).wbs ++ [{ msg := m, phase := .writing }] }).memReq
        (writeFrom k m.line m (m.data, m.poison))
    else (s.homeReply k m .wbAck 0 none).uncount (32 + k) 0x06 1 m.hue m.cls := by
  have none_open := HomeState.txn_of_idle idle
  have none_recovers : ((s.home k).recov.any fun r => r.set = lineSet m.line) = false := by simpa using whole
  unfold State.wbBegin
  simp only [none_open, idle, none_recovers, Bool.or_false, Bool.false_eq_true, if_false]
  unfold HomeState.ownedBy
  cases (s.home k).find m.line <;> rfl

end

section
variable {m : Msg} {s : State} (hop : m.op = .wbData) (hb : homeBegins s m) (wbs : (s.home (lineSlice m.line)).wbs = [])
include hop hb wbs

/-- WBDATA for a line that is not busy. -/
theorem wbdata_runs : exec (.wbdata m) s = .next
    (if (s.home (lineSlice m.line)).ownedBy m.line m.req then
      ((s.deliver m).setHome (lineSlice m.line)
        { s.home (lineSlice m.line) with wbs := [{ msg := m, phase := .writing }] }).memReq
        (writeFrom (lineSlice m.line) m.line m (m.data, m.poison))
    else ((s.deliver m).homeReply (lineSlice m.line) m .wbAck 0 none).uncount (32 + lineSlice m.line) 0x06 1 m.hue m.cls) := by
  obtain ⟨hl, hd, hs, -, hue, open_, may, memory, -, -, idle, -, whole, -⟩ := hb
  have takes : (s.deliver m).TakesMsg m := ⟨hue, open_, may, memory⟩
  have begins := State.wbBegin_idle (s := s.deliver m) idle whole
  have room : ((s.deliver m).home (lineSlice m.line)).wbs.length < 64 := by
    rw [show ((s.deliver m).home (lineSlice m.line)).wbs = [] from wbs]
    decide
  have arrives : exec (.wbdata m) s = arrive .wbData m s fun s => s.toHome m State.homeAccept := rfl
  rw [arrives, arrive_home _ hl hop hd hs, State.homeAccept_writeback takes hop room, begins]
  rw [show ((s.deliver m).home (lineSlice m.line)) = s.home (lineSlice m.line) from rfl, wbs]
  rfl

theorem wbdata_owner (owner : (s.home (lineSlice m.line)).ownedBy m.line m.req = true) : Completes (.wbdata m) s fun t =>
    t.fab.net = s.fab.net.erase m ∧
      t.mem.reqs = s.mem.reqs ++ [writeFrom (lineSlice m.line) m.line m (m.data, m.poison)] ∧
      (t.home (lineSlice m.line)).wbs = [{ msg := m, phase := .writing }] := by
  have runs := wbdata_runs hop hb wbs
  rw [if_pos owner] at runs
  refine ⟨_, runs, rfl, rfl, ?_⟩
  exact congrArg HomeState.wbs ((State.home_setHome ..).trans (if_pos rfl))

theorem wbdata_stale (other : (s.home (lineSlice m.line)).ownedBy m.line m.req = false) : Completes (.wbdata m) s fun t =>
    t.fab.net = s.fab.net.erase m ++ [homeAnswerOf m .wbAck 0] ∧ t.mem = s.mem ∧ t.fab.homes = s.fab.homes := by
  have runs := wbdata_runs hop hb wbs
  rw [if_neg (by simp [other])] at runs
  have counts := State.uncount_goes ((s.deliver m).homeReply (lineSlice m.line) m .wbAck 0 none) (lineSlice m.line)
    (32 + lineSlice m.line) 0x06 1 m.hue m.cls true
  have all := ((s.deliver m).homeReply_goes (lineSlice m.line) m .wbAck 0).trans counts
  exact ⟨_, runs, all.net, by simpa using! all.mem, State.uncount_homes ..⟩

end

/-! ### No-snoop accesses (R168) -/

/-- What a no-snoop request asks of memory: a read of its line, or the write of all of it. -/
def noSnoopReq (m : Msg) : MemReq :=
  let whole := m.op = .wrNS && m.mask = BitVec.allOnes 64
  { client := .noSnoop m.txid, line := m.line, write := whole, data := if whole then m.data else [], poison := whole && m.poison,
    hue := m.hue, cls := m.cls }

/-- A no-snoop request whose home takes it reaches memory, and touches no slice. -/
theorem noSnoop_completes {m : Msg} {s : State} {row : Instr} {op : Op}
    (arrives : exec row s = arrive op m s fun s => s.toHome m State.homeAccept) (hop : m.op = op) (ns : op = .rdNS ∨ op = .wrNS)
    (hl : s.clocked = true) (hd : 32 ≤ m.dst) (hs : m.src < 12 → s.dieFenced m.src = false) (takes : s.TakesMsg m)
    (held : (s.home (lineSlice m.line)).heldBack = []) (tracker : s.trackerFree (lineSlice m.line) m = true) :
    Completes row s fun t => t.fab.homes = s.fab.homes ∧ t.mem.reqs = s.mem.reqs ++ [noSnoopReq m] := by
  have takes' : (s.deliver m).TakesMsg m := ⟨takes.hue, takes.open_, takes.may, takes.memory⟩
  have not_writeback : m.op ≠ .wbData := by rcases ns with e | e <;> rw [hop, e] <;> decide
  have bypass : (decide (m.op = .rdNS) || decide (m.op = .wrNS)) = true := by rw [hop]; simpa using ns
  have counts := moved_uncount (s.deliver m) (32 + lineSlice m.line) 0x01 1 m.hue m.cls true
  obtain ⟨mem, -, -, -, -, -, -, homes, -⟩ := counts
  refine ⟨((s.deliver m).uncount (32 + lineSlice m.line) 0x01 1 m.hue m.cls).noSnoopBegin m, ?_, homes, ?_⟩
  · rw [arrives, arrive_home _ hl hop hd hs, State.homeAccept_request takes' not_writeback held tracker]
    simp only [State.homeTake, bypass, if_true]
  · change ((s.deliver m).uncount (32 + lineSlice m.line) 0x01 1 m.hue m.cls).mem.reqs ++ [noSnoopReq m] = _
    rw [mem]
    rfl

/-! ### Requests that wait for their line (R154) -/

/-- REQUEST_BEGIN of a line that is not busy takes its oldest waiting request from the queue, and begins it. -/
theorem exec_requestBegin {k : Fin 32} {m : Msg} {s : State} (hl : s.clocked = true) (idle : (s.home k.val).busy m.line = false)
    (whole : ∀ r ∈ (s.home k.val).recov, r.set ≠ lineSet m.line)
    (oldest : ((s.home k.val).waitq.find? fun q => q.line = m.line) = some m) :
    exec (.requestBegin k m.line) s =
      .next ((s.setHome k.val { s.home k.val with waitq := (s.home k.val).waitq.erase m }).homeBegin k.val m) := by
  have none_recovers : ((s.home k.val).recov.any fun r => r.set = lineSet m.line) = false := by simpa using whole
  have runs : exec (.requestBegin k m.line) s = .next (s.homeNext k.val m.line) := if_pos hl
  rw [runs, State.homeNext]
  simp only [idle, none_recovers, oldest, Bool.or_self, Bool.false_eq_true, if_false]

/-! ### The directory scrub (R148) -/

/-- A record passed to a hub queue with room is one entry more (R496). -/
theorem State.logE_queue_length {s : State} (room : s.mgmt.log.queue.length < 1024) (cls : ErrClass) (src : ErrSource) (why : ErrReason)
    (unit addr : Nat) (hue : BitVec 12) (info : Nat) :
    (s.logE cls src why unit addr hue info).mgmt.log.queue.length = s.mgmt.log.queue.length + 1 := by
  simp [State.logE, State.logRec, State.upLog, room]

/-- The slice whose scrub has moved on to the next set. -/
def HomeState.scrubbed (x : HomeState) : HomeState := { x with scrubSet := x.scrubSet + 1 }

/-- The scrub of a set, by what the read of it found; unless that is uncorrectable, in a directory of which no entry shows an error. -/
theorem exec_directoryScrub {k : Fin 32} {s : State} (hl : s.clocked = true) (on : bit (s.cfg 0x0100) 0 = true) (r : ReadCheck)
    (sound : r ≠ .uncorrectable → ∀ e ∈ (s.home k.val).dir, e.2.bad = false ∧ e.2.soft = false) :
    exec (.directoryScrub k r) s = .next
      (match r with
       | .clean => s.setHome k.val (s.home k.val).scrubbed
       | .corrected => (s.setHome k.val (s.home k.val).scrubbed).logE .corrected .home .correctedCode k.val 0 0
           (s.home k.val).scrubSet.val
       | .uncorrectable =>
         ((s.setHome k.val (s.home k.val).scrubbed).recoverStart k.val (s.home k.val).scrubSet.val).homeSettle k.val) := by
  have runs : exec (.directoryScrub k r) s = execDirectoryScrub k r s := rfl
  have none_marked (p : DirEntry → Bool) (h : ∀ e ∈ (s.home k.val).dir, p e.2 = false) :
      ((List.range 12).any fun w => (Table.find (s.home k.val).dir ((s.home k.val).scrubSet.val * 12 + w)).any p) = false :=
    List.any_eq_false.2 fun w _ => by simp [Table.any_find_eq_false h]
  rw [runs]
  simp only [execDirectoryScrub, live, hl, on, if_true, Bool.not_true, Bool.false_eq_true, if_false]
  cases r with
  | uncorrectable => rfl
  | clean =>
    have sound := sound (by decide)
    have rewritten : ∀ e ∈ ((s.setHome k.val (s.home k.val).scrubbed).home k.val).dir, e.2.soft = false := by
      rw [State.home_setHome, if_pos rfl]
      exact fun e he => (sound e he).2
    simp only [none_marked DirEntry.bad fun e he => (sound e he).1, reduceCtorEq, decide_false, Bool.or_self, Bool.false_and,
      Bool.false_eq_true, if_false]
    exact congrArg _ (State.readSet_sound rewritten _)
  | corrected =>
    have sound := sound (by decide)
    simp only [none_marked DirEntry.bad fun e he => (sound e he).1, none_marked DirEntry.soft fun e he => (sound e he).2, reduceCtorEq,
      decide_false, decide_true, Bool.or_self, Bool.not_false, Bool.and_self, Bool.false_eq_true, if_false, if_true]
    rfl

/-! ### The recovery of a set (R148) -/

/-- The recovery of a set that has been sent to the agents that may hold its lines. -/
def State.startedRecovery (s : State) (set : Nat) : Recovery :=
  { set := set, started := true, cxlWait := s.cxlHolds
    acks := s.recallAgents.map fun a => { agent := a, op := .setRecall, tmo := s.fwdTmo } }

/-- With no transaction of the set open and no recovery under way, the recovery of a set starts at once. -/
theorem State.recoverStart_home {s : State} {k set : Nat} (none_ : (s.home k).recov = [])
    (closed : ∀ t ∈ (s.home k).txns, lineSet t.line ≠ set) :
    (s.recoverStart k set).home k = { s.home k with recov := [s.startedRecovery set] } := by
  have links (l : List Nat) (m : Nat → Msg) (u : State) : (u.forEach l fun s a => s.linkSend (a - 14) (m a)).home k = u.home k :=
    State.forEach_keeps (fun t => t.home k = u.home k) (fun t a _ e => (State.setCascLink_home ..).trans e) rfl
  have none_open : ((s.home k).txns.any fun t => lineSet t.line = set) = false := by simpa using closed
  unfold State.recoverStart State.recoverGo
  simp only [none_, List.any_nil, Bool.false_eq_true, if_false, List.nil_append, State.home_setHome, if_true, decide_true,
    List.find?_cons_of_pos, Bool.not_false, none_open, List.map_cons, List.map_nil]
  rw [links, State.home_setHome, if_pos rfl]
  rfl

/-- Where every recovery waits for an answer and nothing else waits, a slice settles as it is. -/
theorem State.homeSettle_waits {s : State} {k : Nat} (recov : ∀ r ∈ (s.home k).recov, r.started = true ∧ r.acks ≠ [])
    (ways : ∀ t ∈ (s.home k).txns, t.waitWay = false) (held : (s.home k).heldBack = []) (wbHeld : (s.home k).wbHeldBack = []) :
    s.homeSettle k = s := by
  have waits (set : Nat) : s.recoverGo k set = s := by
    unfold State.recoverGo
    dsimp only
    split
    · rfl
    · next r found =>
      obtain ⟨started, acks⟩ := recov r (List.mem_of_find?_eq_some found)
      have owed : r.acks.isEmpty = false := List.isEmpty_eq_false_iff.2 acks
      simp only [started, owed, Bool.not_true, Bool.false_and, Bool.false_eq_true, if_false]
  have recovers : s.forEach (s.home k).recov (fun s r => s.recoverGo k r.set) = s :=
    State.forEach_keeps (· = s) (fun t r _ e => by rw [e, waits]) rfl
  have frees : s.wayFreed k = s := by
    unfold State.wayFreed
    rw [HomeState.wayWaiters_of_none ways]
    rfl
  unfold State.homeSettle
  rw [recovers, frees, State.homeUnhold]
  simp only [held, wbHeld, List.isEmpty_nil, Bool.and_self, if_true]

theorem scrub_recovers {k : Fin 32} {s : State} (hl : s.clocked = true) (on : bit (s.cfg 0x0100) 0 = true)
    (none_ : (s.home k.val).recov = []) (held : (s.home k.val).heldBack = []) (wbHeld : (s.home k.val).wbHeldBack = [])
    (txns : ∀ t ∈ (s.home k.val).txns, lineSet t.line ≠ (s.home k.val).scrubSet.val ∧ t.waitWay = false)
    (agents : s.recallAgents ≠ []) : Completes (.directoryScrub k .uncorrectable) s fun t =>
      (t.home k.val).recov.map (fun r => (r.set, r.started, r.acks.map (·.agent))) =
        [((s.home k.val).scrubSet.val, true, s.recallAgents)] ∧ (t.home k.val).dir = (s.home k.val).dir := by
  have home : (s.setHome k.val (s.home k.val).scrubbed).home k.val = (s.home k.val).scrubbed := (State.home_setHome ..).trans (if_pos rfl)
  have starts := State.recoverStart_home (s := s.setHome k.val (s.home k.val).scrubbed) (set := (s.home k.val).scrubSet.val)
    (by rw [home]; exact none_) (by rw [home]; exact fun t ht => (txns t ht).1)
  rw [home] at starts
  have owed : (s.startedRecovery (s.home k.val).scrubSet.val).acks ≠ [] := fun e => agents (List.map_eq_nil_iff.1 e)
  have settles := State.homeSettle_waits (s := (s.setHome k.val (s.home k.val).scrubbed).recoverStart k.val (s.home k.val).scrubSet.val)
    (k := k.val) (by rw [starts]; intro r hr; rw [List.mem_singleton.1 hr]; exact ⟨rfl, owed⟩)
    (by rw [starts]; exact fun t ht => (txns t ht).2) (by rw [starts]; exact held) (by rw [starts]; exact wbHeld)
  refine ⟨_, (exec_directoryScrub hl on .uncorrectable fun h => absurd rfl h).trans (congrArg _ settles), ?_⟩
  simp only [starts]
  have asked : (s.startedRecovery (s.home k.val).scrubSet.val).acks.map (·.agent) = s.recallAgents :=
    List.map_map.trans (List.map_id _)
  exact ⟨congrArg (fun l => [((s.home k.val).scrubSet.val, true, l)]) asked, rfl⟩

/-- REQUEST_BEGIN for a line that another agent owns sends the row's forward (R154, R155). -/
theorem requestBegin_forwards {m : Msg} {row : Instr} {s : State} {key : Nat} {e : DirEntry} {o : Nat} {more : List Nat} {k : Fin 32}
    (hl : s.clocked = true) (hr : requestRow m = some row) (lost : s.agentLost m.req = false) (idle : (s.home k.val).busy m.line = false)
    (whole : ∀ r ∈ (s.home k.val).recov, r.set ≠ lineSet m.line)
    (sound : ∀ q ∈ (s.home k.val).dir, q.2.bad = false ∧ q.2.soft = false)
    (oldest : ((s.home k.val).waitq.find? fun q => q.line = m.line) = some m) (found : (s.home k.val).find m.line = some (key, e))
    (owned : e.st = .owned) (holders : holderList e.holders = o :: more) (other : cachedReq m.op = true → e.holders ≠ holderMask m.req)
    (answers : s.agentLost o = false) : Completes (.requestBegin k m.line) s fun t =>
      (t.home k.val).waitq = (s.home k.val).waitq.erase m ∧
      t.fab.net = s.fab.net ++ [forwardFrom k.val m (o, ownerForward m.op)] := by
  have takes := s.setHome_goes k.val { s.home k.val with waitq := (s.home k.val).waitq.erase m }
  have begun := exec_requestBegin hl idle whole oldest
  generalize s.setHome k.val { s.home k.val with waitq := (s.home k.val).waitq.erase m } = u at takes begun
  have begins : u.Begins k.val m :=
    ⟨(takes.lost _).trans lost, by rw [takes.home]; exact HomeState.txn_of_idle idle, by rw [takes.home]; exact sound⟩
  have found_u : (u.home k.val).find m.line = some (key, e) := by rw [takes.home]; exact found
  obtain ⟨rest, after, plan⟩ := homePlan_owned (mem_requestOps hr) o
  rw [← viewOf_owned owned holders other] at plan
  obtain ⟨t, -, -, -, issues⟩ := begins.issues (fwds := [(o, ownerForward m.op)]) (by rw [found_u]; exact plan)
    (by simpa [takes.lost] using answers) (.inl (List.cons_ne_nil _ _))
  refine ⟨_, begun, ?_, (takes.trans issues).net⟩
  rw [issues.home, takes.home]
  rfl

/-- Settles O15: a writeback by what the directory says of its sender, a no-snoop access past the directory, a waiting request as one that
has just come, and the scrub by what it reads. -/
theorem writebacksNoSnoopAndScrubs : Obligations.WritebacksNoSnoopAndScrubs := by
  unfold Obligations.WritebacksNoSnoopAndScrubs
  refine ⟨?writebacks, ?noSnoop, ?begin, ?scrub⟩
  case writebacks =>
    intro m s hop hb k x wbs owner
    have named : owner ↔ (s.home (lineSlice m.line)).ownedBy m.line m.req = true := by
      simp only [owner, HomeState.ownedBy, x, k]
      cases (s.home (lineSlice m.line)).find m.line <;> simp
    refine ⟨fun h => wbdata_owner hop hb wbs (named.1 h), fun h => wbdata_stale hop hb wbs ?_⟩
    simpa using (not_congr named).1 h
  case noSnoop =>
    intro m s hl hd hs open_ may memory hue held tracker
    have takes : s.TakesMsg m := ⟨hue, open_, may, memory⟩
    refine ⟨fun hop => ?_, fun hop mask => ?_⟩
    · obtain ⟨t, runs, homes, reqs⟩ := noSnoop_completes (row := .rdns m) rfl hop (.inl rfl) hl hd hs takes held tracker
      exact ⟨t, runs, homes, by simpa [noSnoopReq, hop] using reqs⟩
    · obtain ⟨t, runs, homes, reqs⟩ := noSnoop_completes (row := .wrns m) rfl hop (.inr rfl) hl hd hs takes held tracker
      exact ⟨t, runs, homes, by simpa [noSnoopReq, hop, mask] using reqs⟩
  case begin =>
    intro m row s key e o more k hl hr lost idle whole sound oldest found owned holders other answers
    exact requestBegin_forwards hl hr lost idle whole sound oldest found owned holders other answers
  case scrub =>
    intro k s hl on x set
    have home : (s.setHome k.val (s.home k.val).scrubbed).home k.val = (s.home k.val).scrubbed :=
      (State.home_setHome ..).trans (if_pos rfl)
    refine ⟨fun sound => ⟨?_, fun room => ?_⟩, scrub_recovers hl on⟩
    · exact ⟨_, exec_directoryScrub hl on .clean fun _ => sound, home, rfl, rfl⟩
    · exact ⟨_, exec_directoryScrub hl on .corrected fun _ => sound, home, State.logE_queue_length room ..⟩

end Sys2Proof.Machine
end

section
/-! A compute die that receives a forward (R141, R150, R152, R158, R159). -/

namespace Sys2Proof.Machine

/-! ### Steps of a die -/

/-- From `s` to `t` die `d` becomes `x` and the messages `sent` join those in flight; its harts keep what they have under way, the homes
are kept, and no core of the die comes to hold the line. -/
structure State.DieGoes (s t : State) (d : Fin 12) (line : Nat) (x : DieState) (sent : List Msg) : Prop where
  die : t.die d.val = x
  net : t.fab.net = s.fab.net ++ sent
  homes : t.fab.homes = s.fab.homes
  fenced : ∀ i, t.dieFenced i = s.dieFenced i
  work : s.KeepsWork t
  unheld : s.holders d line none = [] → t.holders d line none = []

section
variable {s t u : State} {d : Fin 12} {line : Nat} {x y : DieState} {sent more : List Msg}

theorem State.DieGoes.refl (s : State) (d : Fin 12) (line : Nat) : s.DieGoes s d line (s.die d.val) [] :=
  ⟨rfl, (List.append_nil _).symm, rfl, fun _ => rfl, .refl s, id⟩

theorem State.DieGoes.trans (a : s.DieGoes t d line x sent) (b : t.DieGoes u d line y more) :
    s.DieGoes u d line y (sent ++ more) where
  die := b.die
  net := by rw [b.net, a.net, List.append_assoc]
  homes := b.homes.trans a.homes
  fenced i := (b.fenced i).trans (a.fenced i)
  work := a.work.trans b.work
  unheld h := b.unheld (a.unheld h)

/-- A step after which the die is as it was before it. -/
theorem State.DieGoes.then (a : s.DieGoes t d line x sent) (b : t.DieGoes u d line (t.die d.val) more) :
    s.DieGoes u d line x (sent ++ more) := a.die ▸ a.trans b

theorem State.holders_eq_nil : s.holders d line none = [] ↔ ∀ c : Fin 22, (s.core (coreKey ⟨d, c⟩)).findL2 line = none := by
  simp [State.holders, List.filter_eq_nil_iff]

end

section
variable (s : State) (d : Fin 12) (line : Nat)

theorem State.setDie_goes (x : DieState) : s.DieGoes (s.setDie d.val x) d line x [] :=
  ⟨(State.die_setDie ..).trans (if_pos rfl), (List.append_nil _).symm, rfl, fun _ => rfl, (KeepsWork.refl s).harts rfl, id⟩

theorem State.dieSend_goes {d} (open_ : s.dieFenced d.val = false) (m : Msg) : s.DieGoes (s.dieSend d m) d line (s.die d.val) [m] := by
  unfold State.dieSend
  rw [if_neg (by simp [open_])]
  exact ⟨rfl, rfl, rfl, fun _ => rfl, (KeepsWork.refl s).harts rfl, id⟩

theorem State.uncount_dieGoes (unit code n : Nat) (hue : BitVec 12) (cls : BitVec 3) (filtered : Bool) :
    s.DieGoes (s.uncount unit code n hue cls filtered) d line (s.die d.val) [] := by
  have moved := moved_uncount s unit code n hue cls filtered
  have net := (s.uncount_goes 0 unit code n hue cls filtered).net
  obtain ⟨-, -, -, -, harts, cores, dies, homes, mgmt⟩ := moved
  refine ⟨by simp only [State.die, dies], net, homes, State.dieFenced_of_pdr (by rw [mgmt]),
    (KeepsWork.refl s).harts harts, fun h => ?_⟩
  simpa only [State.holders, State.core, cores] using h

/-! ### Errors of the arrays, reservations and probes (R137, R141, R171) -/

theorem State.endResv_goes (cs : List (Fin 22)) (who : Option HartId) : s.DieGoes (s.endResv d cs line who) d line (s.die d.val) [] := by
  have kept : (s.endResv d cs line who).fab.dies = s.fab.dies ∧ (s.endResv d cs line who).fab.net = s.fab.net ∧
      (s.endResv d cs line who).fab.homes = s.fab.homes ∧ (s.endResv d cs line who).fab.cores = s.fab.cores ∧
      (s.endResv d cs line who).mgmt = s.mgmt := by
    unfold State.endResv
    refine State.forEach_keeps (fun t => t.fab.dies = s.fab.dies ∧ t.fab.net = s.fab.net ∧ t.fab.homes = s.fab.homes ∧
      t.fab.cores = s.fab.cores ∧ t.mgmt = s.mgmt) (fun t h _ ht => ?_) ⟨rfl, rfl, rfl, rfl, rfl⟩
    dsimp only
    split <;> exact ht
  obtain ⟨dies, net, homes, cores, mgmt⟩ := kept
  refine ⟨by simp only [State.die, dies], by rw [net, List.append_nil], homes, State.dieFenced_of_pdr (by rw [mgmt]),
    s.endResv_keepsWork d line cs who, fun h => ?_⟩
  simpa only [State.holders, State.core, cores] using h

/-- A probe for a line that no core of the die holds ends reservations alone. -/
theorem State.probeCores_goes (h : s.holders d line none = []) (inval : Bool) :
    s.DieGoes (s.probeCores d line inval none) d line (s.die d.val) [] := by
  have ends (cs : List (Fin 22)) := s.endResv_goes d line cs none
  unfold State.probeCores State.probeCopies
  simp only [h, List.filter_nil]
  rw [(ends _).unheld h]
  exact ends _

end

section
variable (s : State) (d : Fin 12) (line : Nat) (c : CoreId)

/-- A core that is replaced by one that holds the line no more than it did, and an error of it that is logged. -/
theorem State.logCore_setCore_goes {x : CoreState} (hx : (s.core (coreKey c)).findL2 line = none → x.findL2 line = none) (src : ErrSource)
    (e : LineErr) (dirty : Bool) : s.DieGoes ((s.setCore (coreKey c) x).logCore src c line e dirty) d line (s.die d.val) [] := by
  have fab := (s.setCore (coreKey c) x).logCore_fab src c line e dirty
  refine ⟨by simp only [State.die, fab]; rfl, by rw [fab, List.append_nil]; rfl, by rw [fab]; rfl, fun i => ?_, ?_, fun h => ?_⟩
  · unfold State.logCore State.logArray
    cases e <;> cases dirty <;> rfl
  · exact (KeepsWork.refl s).harts (by rw [fab]; rfl)
  · rw [State.holders_eq_nil] at h ⊢
    intro b
    rw [State.logCore_core, State.core_setCore]
    split
    · next same => exact hx (same ▸ h b)
    · exact h b

theorem CoreState.Shrinks.findL2 {x y : CoreState} (a : x.Shrinks y) (h : x.findL2 line = none) : y.findL2 line = none :=
  (y.findL2_eq_none line).2 fun hl => (x.findL2_eq_none line).1 h (a .l2 hl)

/-- The errors of a core's copies are settled: of the state a core and the log change. -/
theorem State.settleCore_goes : s.DieGoes (s.settleCore c line) d line (s.die d.val) [] := by
  have l1i (t : State) : t.DieGoes (t.settleL1i c line) d line (t.die d.val) [] := by
    unfold State.settleL1i
    dsimp only
    split
    · split
      · exact .refl t d line
      · exact t.logCore_setCore_goes d line c (((t.core (coreKey c)).dropL1i_shrinks line).1.findL2 line) ..
    · exact .refl t d line
  have l1d (t : State) : t.DieGoes (t.settleL1d c line) d line (t.die d.val) [] := by
    unfold State.settleL1d
    dsimp only
    split
    · split
      · exact .refl t d line
      · refine t.logCore_setCore_goes d line c (fun h => ?_) ..
        split
        · exact h
        · exact ((t.core (coreKey c)).dropL1d_shrinks line).1.findL2 line h
    · exact .refl t d line
  have l2 (t : State) : t.DieGoes (t.settleL2 c line) d line (t.die d.val) [] := by
    unfold State.settleL2
    dsimp only
    split
    · next held =>
      split
      · exact .refl t d line
      · exact t.logCore_setCore_goes d line c (fun h => by rw [held] at h; cases h) ..
    · exact .refl t d line
  exact ((l1i s).then (l1d _)).then (l2 _)

/-- An L3 copy that shows no error, if there is one. -/
def DieState.cleanL3 (x : DieState) (line : Nat) : Prop := ∀ e, x.findL3 line = some e → e.2.err = .clean

/-- The errors of the cores' copies are settled, where the L3's shows none. -/
theorem State.settle_goes (clean : (s.die d.val).cleanL3 line) : s.DieGoes (s.settle d line) d line (s.die d.val) [] := by
  have cores : s.DieGoes (s.forEach (coresOf d) fun s c => s.settleCore c line) d line (s.die d.val) [] :=
    State.forEach_keeps (s.DieGoes · d line (s.die d.val) []) (fun t c _ a => a.then (t.settleCore_goes d line c)) (.refl s d line)
  unfold State.settle
  generalize s.forEach (coresOf d) (fun s c => s.settleCore c line) = t at cores
  have still : t.settleL3 d line = t := by
    unfold State.settleL3
    rw [cores.die]
    split
    · rfl
    · next held => rw [if_pos (clean _ held)]
  rwa [still]

end

/-! ### A die that holds the line in no core -/

/-- The die with the L3's copy of a line in another state. -/
def DieState.lowered (x : DieState) (line : Nat) (st : CState) : DieState :=
  { x with l3 := x.l3.map fun e => if e.2.line = line then (e.1, { e.2 with st := st }) else e }

/-- The die without a line in its L3. -/
def DieState.withoutL3 (x : DieState) (line : Nat) : DieState := { x with l3 := x.l3.filter fun e => e.2.line ≠ line }

/-- Of the line nothing is dirty but what the L3 holds, and no error waits in its copy: no core holds it, no writeback is in the buffer,
and no miss register holds data of it. -/
structure State.OnlyL3 (s : State) (d : Fin 12) (line : Nat) : Prop where
  unheld : s.holders d line none = []
  unbuffered : (s.die d.val).findWb line = none
  unfilled : ∀ n ∈ (s.die d.val).miss, n.line = line → n.filled = none
  clean : (s.die d.val).cleanL3 line
  open_ : s.dieFenced d.val = false

section
variable {s t : State} {d : Fin 12} {line : Nat} {sent : List Msg}

theorem State.OnlyL3.of_goes (o : s.OnlyL3 d line) (g : s.DieGoes t d line (s.die d.val) sent) : t.OnlyL3 d line where
  unheld := g.unheld o.unheld
  unbuffered := g.die ▸ o.unbuffered
  unfilled := g.die ▸ o.unfilled
  clean := g.die ▸ o.clean
  open_ := (g.fenced _).trans o.open_

variable (o : s.OnlyL3 d line)
include o

theorem State.OnlyL3.miss_copy : ((s.die d.val).findMiss line).bind L3Miss.copy = none := by
  cases found : (s.die d.val).findMiss line with
  | none => rfl
  | some n =>
    have unfilled := o.unfilled n (List.mem_of_find?_eq_some found) (DieState.line_of_findMiss found)
    simp only [Option.bind_some, L3Miss.copy, unfilled, Option.map_none]

/-- The die's copy of the line is that of its L3. -/
theorem State.OnlyL3.heldAt_some {e : Nat × L3Line} (found : (s.die d.val).findL3 line = some e) :
    s.heldAt d line = some (e.2.st, e.2.data, e.2.poison) := by
  unfold State.heldAt
  simp only [o.unbuffered, found]

theorem State.OnlyL3.heldAt_none (absent : (s.die d.val).findL3 line = none) : s.heldAt d line = none := by
  unfold State.heldAt
  simp only [o.unbuffered, absent]
  exact o.miss_copy

theorem State.OnlyL3.lowerTo (st : CState) : s.DieGoes (s.lowerTo d line st) d line ((s.die d.val).lowered line st) [] := by
  have kept : (s.die d.val).miss.map (fun n => if n.line = line && n.filled.isSome then
      { n with filled := n.filled.map fun m => { m with flag := if st = .s then 0 else 1 }, ncDirty := false
               wantOwn := n.wantOwn || (st = .s && isOwn n.op) } else n) = (s.die d.val).miss := by
    refine (List.map_congr_left fun n hn => if_neg ?_).trans (List.map_id' _)
    rw [Bool.and_eq_true]
    rintro ⟨same, filled⟩
    rw [o.unfilled n hn (of_decide_eq_true same)] at filled
    cases filled
  unfold State.lowerTo
  extract_lets x
  rw [kept]
  exact s.setDie_goes d line ((s.die d.val).lowered line st)

theorem State.OnlyL3.reask : s.reask d line = s := by
  unfold State.reask
  dsimp only
  split
  · next n found =>
    have unfilled := o.unfilled n (List.mem_of_find?_eq_some found) (DieState.line_of_findMiss found)
    simp only [unfilled, Option.isSome_none, Bool.false_eq_true, if_false]
  · rfl

end

theorem DieState.findL3_withoutL3 (x : DieState) (line : Nat) : (x.withoutL3 line).findL3 line = none := by
  simp [DieState.withoutL3, DieState.findL3]

theorem DieState.withoutL3_of_absent {x : DieState} {line : Nat} (h : x.findL3 line = none) : x.withoutL3 line = x := by
  have others : ∀ e ∈ x.l3, e.2.line ≠ line := by simpa [DieState.findL3] using h
  have kept : x.l3.filter (fun e => e.2.line ≠ line) = x.l3 := List.filter_eq_self.2 fun e he => decide_eq_true (others e he)
  unfold DieState.withoutL3
  rw [kept]

/-- The dirty data of the L3's copy of a line. -/
def DieState.dirtyL3 (x : DieState) (line : Nat) : Option (Bytes × Bool) :=
  (x.findL3 line).bind fun e => if e.2.st = .m then some (e.2.data, e.2.poison) else none

section
variable {s t : State} {d : Fin 12} {line : Nat} (o : s.OnlyL3 d line)
include o

theorem State.OnlyL3.evictL3 : ∃ v, s.DieGoes v d line ((s.die d.val).withoutL3 line) [] ∧
    s.evictL3 d line = (v, (s.die d.val).dirtyL3 line) := by
  have settles := s.settle_goes d line o.clean
  have probes := settles.then ((s.settle d line).probeCores_goes d line (settles.unheld o.unheld) true)
  unfold State.evictL3 DieState.dirtyL3
  generalize (s.settle d line).probeCores d line true none = p at probes
  simp only [probes.die]
  cases found : (s.die d.val).findL3 line with
  | none => exact ⟨p, by rw [DieState.withoutL3_of_absent found]; exact probes, rfl⟩
  | some e => exact ⟨_, probes.trans (p.setDie_goes d line _), rfl⟩

/-- The line is taken from the die: its L3 gives it up, with its data if that is dirty. -/
theorem State.OnlyL3.takeLine : ∃ v, s.DieGoes v d line ((s.die d.val).withoutL3 line) [] ∧
    s.takeLine d line = (v, (s.die d.val).dirtyL3 line) := by
  obtain ⟨v, goes, evicts⟩ := o.evictL3
  have gone : v.OnlyL3 d line :=
    { unheld := goes.unheld o.unheld
      unbuffered := by rw [goes.die]; exact o.unbuffered
      unfilled := by rw [goes.die]; exact o.unfilled
      clean := by rw [goes.die]; exact fun e he => by rw [DieState.findL3_withoutL3] at he; cases he
      open_ := (goes.fenced _).trans o.open_ }
  refine ⟨v, goes, ?_⟩
  unfold State.takeLine
  simp only [evicts, gone.miss_copy, gone.reask]
  cases (s.die d.val).dirtyL3 line <;> rfl

end

/-! ### The answers to forwards (R141, R150, R152, R158) -/

/-- INV and RECALLDISCARD are answered InvAck, whatever the die holds. -/
theorem dieReplies_invAck {m : Msg} (hop : m.op = .inv ∨ m.op = .recallDiscard) (l : Option L3Line) :
    dieReplies m l = [dieMsg m .invAck m.src 0 [] false] := by
  unfold dieReplies
  rcases hop with op | op <;> cases l <;> simp only [op]

/-- The die whose upgrade of an invalidated line now expects data (R158). -/
def DieState.expecting (x : DieState) (line : Nat) : DieState :=
  { x with miss := x.miss.map fun n => if n.line = line && n.op = .upg then { n with expectData := true } else n }

section
variable {s : State} {d : Fin 12} {m : Msg} (o : s.OnlyL3 d m.line)
include o

theorem State.OnlyL3.send {t : State} {x : DieState} {sent : List Msg} (g : s.DieGoes t d m.line x sent) (r : Msg) :
    s.DieGoes (t.dieSend d r) d m.line x (sent ++ [r]) :=
  g.then (State.dieSend_goes t m.line ((g.fenced _).trans o.open_) r)

/-- What a die does with any forward before it looks at its copy of the line. -/
theorem State.OnlyL3.ready : ∃ u, s.DieGoes u d m.line (s.die d.val) [] ∧ u.OnlyL3 d m.line ∧
    ((s.settle d m.line).endResv d (List.finRange 22) m.line none).uncount d.val 0x05 1 m.hue m.cls = u := by
  have settles := s.settle_goes d m.line o.clean
  have ends := settles.then (State.endResv_goes _ d m.line (List.finRange 22) none)
  have counts := ends.then (State.uncount_dieGoes _ d m.line d.val 0x05 1 m.hue m.cls true)
  exact ⟨_, counts, o.of_goes counts, rfl⟩

/-- The same, with the cores probed for the line. -/
theorem State.OnlyL3.probed (inval : Bool) : ∃ u, s.DieGoes u d m.line (s.die d.val) [] ∧ u.OnlyL3 d m.line ∧
    (((s.settle d m.line).endResv d (List.finRange 22) m.line none).uncount d.val 0x05 1 m.hue m.cls).probeCores d m.line inval none =
      u := by
  obtain ⟨u, readies, ou, rfl⟩ := o.ready
  have probes := readies.then (State.probeCores_goes _ d m.line ou.unheld inval)
  exact ⟨_, probes, o.of_goes probes, rfl⟩

/-- FWDS and FWDO, FWDSNAP and FWDCLEAN find no copy. -/
theorem State.OnlyL3.answer_miss (hop : m.op = .fwdS ∨ m.op = .fwdO ∨ m.op = .fwdSnap ∨ m.op = .fwdClean)
    (absent : (s.die d.val).findL3 m.line = none) :
    s.DieGoes (s.dieAnswer d m) d m.line (s.die d.val) [dieMsg m .fwdAck m.src 0 [] false] := by
  obtain ⟨u, probes, ou, read⟩ := o.probed false
  obtain ⟨v, takes, ov, taken⟩ := o.probed true
  have none_u := ou.heldAt_none (probes.die ▸ absent)
  have none_v := ov.heldAt_none (takes.die ▸ absent)
  unfold State.dieAnswer
  rcases hop with hop | hop | hop | hop <;> simp only [hop, read, taken, none_u, none_v]
  · exact o.send probes _
  · exact o.send takes _
  · exact o.send probes _
  · exact o.send probes _

section
variable {e : Nat × L3Line} (found : (s.die d.val).findL3 m.line = some e)
include found

/-- FWDS: the copy becomes shared. -/
theorem State.OnlyL3.answer_fwdS (hop : m.op = .fwdS) :
    s.DieGoes (s.dieAnswer d m) d m.line ((s.die d.val).lowered m.line .s) (dieReplies m (some e.2)) := by
  obtain ⟨u, probes, ou, read⟩ := o.probed false
  have lowers := probes.trans (ou.lowerTo .s)
  rw [probes.die] at lowers
  unfold State.dieAnswer dieReplies
  simp only [hop, read, ou.heldAt_some (probes.die ▸ found)]
  split
  · exact o.send (o.send lowers _) _
  · exact o.send (o.send lowers _) _

/-- FWDO: the copy goes to the requester. -/
theorem State.OnlyL3.answer_fwdO (hop : m.op = .fwdO) :
    s.DieGoes (s.dieAnswer d m) d m.line ((s.die d.val).withoutL3 m.line) (dieReplies m (some e.2)) := by
  obtain ⟨u, probes, ou, read⟩ := o.probed true
  obtain ⟨v, takes, taken⟩ := ou.takeLine
  rw [probes.die] at takes
  unfold State.dieAnswer dieReplies
  simp only [hop, read, ou.heldAt_some (probes.die ▸ found), taken]
  exact o.send (o.send (probes.trans takes) _) _

/-- FWDSNAP: the copy stays as it is. -/
theorem State.OnlyL3.answer_fwdSnap (hop : m.op = .fwdSnap) :
    s.DieGoes (s.dieAnswer d m) d m.line (s.die d.val) (dieReplies m (some e.2)) := by
  obtain ⟨u, probes, ou, read⟩ := o.probed false
  unfold State.dieAnswer dieReplies
  simp only [hop, read, ou.heldAt_some (probes.die ▸ found)]
  exact o.send (o.send probes _) _

/-- FWDCLEAN: a dirty copy stays, clean. -/
theorem State.OnlyL3.answer_fwdClean (hop : m.op = .fwdClean) :
    s.DieGoes (s.dieAnswer d m) d m.line (if e.2.st = .m then (s.die d.val).lowered m.line .e else s.die d.val)
      (dieReplies m (some e.2)) := by
  obtain ⟨u, probes, ou, read⟩ := o.probed false
  have lowers := probes.trans (ou.lowerTo .e)
  rw [probes.die] at lowers
  have held := ou.heldAt_some (probes.die ▸ found)
  unfold State.dieAnswer dieReplies
  simp only [hop, read]
  cases st : e.2.st <;> simp only [st] at held <;> simp only [held, reduceCtorEq, if_false, if_true]
  · exact o.send probes _
  · exact o.send probes _
  · exact o.send lowers _

end

/-- INV: the copy, if there is one, goes, and an upgrade of the line expects data. -/
theorem State.OnlyL3.answer_inv (hop : m.op = .inv) (l : Option L3Line) : s.DieGoes (s.dieAnswer d m) d m.line
    (((s.die d.val).withoutL3 m.line).expecting m.line) (dieReplies m l) := by
  obtain ⟨u, readies, ou, ready⟩ := o.ready
  obtain ⟨v, takes, taken⟩ := ou.takeLine
  rw [readies.die] at takes
  have goes := readies.trans takes
  rw [dieReplies_invAck (.inl hop)]
  unfold State.dieAnswer
  simp only [hop, ready, taken, goes.die]
  exact o.send (goes.trans (v.setDie_goes d m.line _)) _

/-- RECALLDISCARD: the copy, if there is one, goes, dirty or not. -/
theorem State.OnlyL3.answer_recallDiscard (hop : m.op = .recallDiscard) (l : Option L3Line) : s.DieGoes (s.dieAnswer d m) d m.line
    ((s.die d.val).withoutL3 m.line) (dieReplies m l) := by
  obtain ⟨u, readies, ou, ready⟩ := o.ready
  obtain ⟨v, takes, taken⟩ := ou.takeLine
  rw [readies.die] at takes
  rw [dieReplies_invAck (.inr hop)]
  unfold State.dieAnswer
  simp only [hop, ready, taken]
  exact o.send (readies.trans takes) _

/-- RECALL: the copy goes, to the home if it is dirty. -/
theorem State.OnlyL3.answer_recall (hop : m.op = .recall) : s.DieGoes (s.dieAnswer d m) d m.line
    ((s.die d.val).withoutL3 m.line) (dieReplies m (((s.die d.val).findL3 m.line).map (·.2))) := by
  obtain ⟨u, readies, ou, ready⟩ := o.ready
  obtain ⟨v, takes, taken⟩ := ou.takeLine
  rw [readies.die] at takes taken
  have goes := readies.trans takes
  unfold State.dieAnswer dieReplies
  simp only [hop, ready, taken, ou.unbuffered, DieState.dirtyL3]
  cases (s.die d.val).findL3 m.line with
  | none => exact o.send goes _
  | some e =>
    by_cases dirty : e.2.st = .m
    · simp only [Option.bind_some, Option.map_some, if_pos dirty]
      exact o.send goes _
    · simp only [Option.bind_some, Option.map_some, if_neg dirty]
      exact o.send goes _

end

/-! ### What the die then holds -/

/-- The L3's copy of a line in its new state. -/
theorem DieState.mem_lowered {x : DieState} {line : Nat} {e : Nat × L3Line} (found : x.findL3 line = some e) (st : CState) :
    (e.1, { e.2 with st := st }) ∈ (x.lowered line st).l3 :=
  List.mem_map.2 ⟨e, List.mem_of_find?_eq_some found, if_pos (of_decide_eq_true (List.find?_some found :))⟩

/-- The die's L3 keeps a line in a state, or has it no more. -/
def DieState.keeps (x : DieState) (line key : Nat) (l : L3Line) : Option CState → Prop
  | some st => (key, { l with st := st }) ∈ x.l3
  | none => x.findL3 line = none

theorem mem_forwardOps {m : Msg} {row : Instr} (h : forwardRow m = some row) :
    m.op = .fwdS ∨ m.op = .fwdO ∨ m.op = .fwdSnap ∨ m.op = .fwdClean ∨ m.op = .inv ∨ m.op = .recall ∨
      m.op = .recallDiscard := by
  unfold forwardRow at h
  split at h
  case h_8 => cases h
  all_goals next op => simp only [op]; decide

section
variable {s : State} {d : Fin 12} {m : Msg} {row : Instr} (o : s.OnlyL3 d m.line) (hr : forwardRow m = some row)
include o hr

/-- A forward for a line that the L3 holds. -/
theorem State.OnlyL3.answers_held {key : Nat} {l : L3Line} (found : (s.die d.val).findL3 m.line = some (key, l)) :
    ∃ x : DieState, s.DieGoes (s.dieAnswer d m) d m.line x (dieReplies m (some l)) ∧ x.held = (s.die d.val).held ∧
      x.keeps m.line key l (keptAs m.op l.st) := by
  have gone := (s.die d.val).findL3_withoutL3 m.line
  rcases mem_forwardOps hr with op | op | op | op | op | op | op
  · exact ⟨_, o.answer_fwdS found op, rfl, by rw [op]; exact DieState.mem_lowered found .s⟩
  · exact ⟨_, o.answer_fwdO found op, rfl, by rw [op]; exact gone⟩
  · exact ⟨_, o.answer_fwdSnap found op, rfl, by rw [op]; exact List.mem_of_find?_eq_some found⟩
  · refine ⟨_, o.answer_fwdClean found op, ?_, ?_⟩
    · split <;> rfl
    · rw [op]
      by_cases dirty : l.st = .m
      · simp only [keptAs, dirty, if_true]
        exact DieState.mem_lowered found .e
      · simp only [keptAs, dirty, if_false]
        exact List.mem_of_find?_eq_some found
  · exact ⟨_, o.answer_inv op _, rfl, by rw [op]; exact gone⟩
  · have replies := o.answer_recall op
    rw [found] at replies
    exact ⟨_, replies, rfl, by rw [op]; exact gone⟩
  · exact ⟨_, o.answer_recallDiscard op _, rfl, by rw [op]; exact gone⟩

/-- A forward for a line that the die does not hold. -/
theorem State.OnlyL3.answers_absent (absent : (s.die d.val).findL3 m.line = none) :
    ∃ x : DieState, s.DieGoes (s.dieAnswer d m) d m.line x (dieReplies m none) ∧ x.held = (s.die d.val).held ∧
      x.l3 = (s.die d.val).l3 := by
  have same := congrArg DieState.l3 (DieState.withoutL3_of_absent absent)
  have misses (h : m.op = .fwdS ∨ m.op = .fwdO ∨ m.op = .fwdSnap ∨ m.op = .fwdClean) :
      dieReplies m none = [dieMsg m .fwdAck m.src 0 [] false] := by
    unfold dieReplies
    rcases h with op | op | op | op <;> simp only [op]
  rcases mem_forwardOps hr with op | op | op | op | op | op | op
  case inr.inr.inr.inr.inl => exact ⟨_, o.answer_inv op _, rfl, same⟩
  case inr.inr.inr.inr.inr.inl =>
    have replies := o.answer_recall op
    rw [absent] at replies
    exact ⟨_, replies, rfl, same⟩
  case inr.inr.inr.inr.inr.inr => exact ⟨_, o.answer_recallDiscard op _, rfl, same⟩
  all_goals
    have missed : m.op = .fwdS ∨ m.op = .fwdO ∨ m.op = .fwdSnap ∨ m.op = .fwdClean := by simp only [op]; decide
    exact ⟨_, misses missed ▸ o.answer_miss missed absent, rfl, rfl⟩

end

/-! ### The row of a forward -/

theorem exec_forwardRow {m : Msg} {row : Instr} (h : forwardRow m = some row) (s : State) :
    exec row s = arrive m.op m s fun s => s.toHolder m := by
  unfold forwardRow at h
  split at h
  case h_8 => cases h
  all_goals next op => cases h; rw [op]; rfl

/-- Trying again the operations of a die at which nothing waits changes no home and sends nothing. -/
theorem State.retryDie_goes {s : State} {d : Fin 12} (hq : s.dieQuiet d) :
    (s.retryDie d).die d.val = s.die d.val ∧ (s.retryDie d).fab.net = s.fab.net ∧ (s.retryDie d).fab.homes = s.fab.homes := by
  have alike : s.Alike (s.retryDie d) ∧ (s.retryDie d).fab.homes = s.fab.homes := by
    unfold State.retryDie
    refine State.forEach_keeps (fun t => s.Alike t ∧ t.fab.homes = s.fab.homes) (fun t h hh keeps => ?_) ⟨.refl s, rfl⟩
    obtain ⟨a, homes⟩ := keeps
    have quiet : (t.hart (hartIx h)).quiet := a.hart (hartIx h) ▸ hq.1 h hh
    refine ⟨a.trans (State.retryHart_alike quiet), ?_⟩
    rw [State.retryHart_quiet t h quiet]
    exact homes
  obtain ⟨a, homes⟩ := alike
  exact ⟨a.still.die _, a.net, homes⟩

section
variable {d : Fin 12} {m : Msg} {row : Instr} {s : State} (hr : forwardRow m = some row) (hl : s.clocked = true) (hd : m.dst = d.val)
  (hs : 32 ≤ m.src) (still : s.dieStill d.val = false) (open_ : s.dieFenced d.val = false) (quiet : s.dieQuiet d)
  (unreserved : s.reserved d (List.finRange 22) m.line none = [])
include hr hl hd hs still open_ quiet unreserved

/-- A forward that no reservation holds back, at a die at which nothing waits, is answered at once. -/
theorem forward_completes {x : DieState} {sent : List Msg}
    (answers : (s.deliver m).DieGoes ((s.deliver m).dieAnswer d m) d m.line x sent) (held : x.held = (s.die d.val).held) :
    Completes row s fun t =>
      t.fab.net = s.fab.net.erase m ++ sent ∧ t.die d.val = x ∧ t.fab.homes = s.fab.homes := by
  have die : Fin.ofNat 12 m.dst = d := Fin.ext (by rw [hd]; exact Nat.mod_eq_of_lt d.isLt)
  have free : (if takesLine m.op then (s.deliver m).reserved d (List.finRange 22) m.line none else []) = [] := by
    split
    · exact unreserved
    · rfl
  have runs : exec row s = .next (((s.deliver m).dieAnswer d m).retryDie d) := by
    rw [exec_forwardRow hr, arrive_taken _ hl rfl hs (by rw [hd]; exact still) fun _ => by rw [hd]; exact open_]
    rw [State.toHolder, if_pos (hd ▸ d.isLt), die, State.dieForward]
    simp only [free, List.isEmpty_nil, if_true]
  obtain ⟨harts, none_held⟩ := quiet
  have quiet : ((s.deliver m).dieAnswer d m).dieQuiet d :=
    ⟨fun h hh => HartState.quiet_of_work (answers.work.work _) (harts h hh), by rw [answers.die, held, none_held]⟩
  obtain ⟨same, net, homes⟩ := State.retryDie_goes quiet
  exact ⟨_, runs, net.trans answers.net, same.trans answers.die, homes.trans answers.homes⟩

end

/-- Settles O16: of the line only the L3 has data, and each forward answers from it, and leaves it, as its row says. -/
theorem dieAnswersForwardsFromItsCopy : Obligations.DieAnswersForwardsFromItsCopy := by
  unfold Obligations.DieAnswersForwardsFromItsCopy
  intro d m row s hr hl hd hs still open_ quiet unreserved unheld unbuffered unfilled
  have only (clean : (s.die d.val).cleanL3 m.line) : (s.deliver m).OnlyL3 d m.line := ⟨unheld, unbuffered, unfilled, clean, open_⟩
  refine ⟨fun key l found clean => ?held, fun absent => ?absent⟩
  case held =>
    obtain ⟨x, answers, held, keeps⟩ := (only fun e he => by cases found.symm.trans he; exact clean).answers_held hr found
    obtain ⟨t, runs, net, die, homes⟩ := forward_completes hr hl hd hs still open_ quiet unreserved answers held
    exact ⟨t, runs, net, by rw [die]; exact keeps, homes⟩
  case absent =>
    obtain ⟨x, answers, held, l3⟩ := (only fun e he => by cases absent.symm.trans he).answers_absent hr absent
    obtain ⟨t, runs, net, die, homes⟩ := forward_completes hr hl hd hs still open_ quiet unreserved answers held
    exact ⟨t, runs, net, by rw [die]; exact l3, homes⟩

end Sys2Proof.Machine
end

section
/-! A slot that reaches a stop of a ring: emptied, passing by, ejected or passing its destination (R181, R182, R185 to R187, R193,
R194). -/

namespace Sys2Proof.Machine

/-! ### Records and counts -/

theorem State.uncount_fab (s : State) (unit code k : Nat) (hue : BitVec 12) (cls : BitVec 3) (filtered : Bool) :
    (s.uncount unit code k hue cls filtered).fab = s.fab := by
  unfold State.uncount
  split <;> rfl

/-- What a hub ring counts of a packet, which a compute-die ring does not count. -/
def State.ringCount (s : State) (r : RingId) (code : Nat) (h : Header) : State :=
  match r with
  | .hub k => s.uncount (64 + k.val) code 1 h.hue h.cls
  | .die _ => s

theorem State.ringCount_fab (s : State) (r : RingId) (code : Nat) (h : Header) : (s.ringCount r code h).fab = s.fab := by
  cases r with
  | die d => rfl
  | hub k => exact s.uncount_fab ..

/-- A transport event of a hop is one record of the ring. -/
theorem State.logsOne_hopLog {s : State} (room : s.mgmt.log.queue.length < 1024) (cls : ErrClass) (why : ErrReason) (key : Nat)
    (p : Slot) : s.logsOne (s.hopLog cls why key p) cls .ring why key := by
  have queue : (s.hopLog cls why key p).mgmt.log.queue = _ := congrArg ErrLog.queue (if_pos room)
  exact ⟨_, queue, rfl, rfl, rfl, rfl⟩

theorem State.hopLog_fab (s : State) (cls : ErrClass) (why : ErrReason) (key : Nat) (p : Slot) :
    (s.hopLog cls why key p).fab = s.fab := rfl

theorem State.packetOf_hopLog (s : State) (cls : ErrClass) (why : ErrReason) (key : Nat) (p : Slot) (r : RingId) (z : Slot) :
    (s.hopLog cls why key p).packetOf r z = s.packetOf r z := rfl

/-! ### The packets of messages (R181, R183) -/

theorem getLsbD_append_above {n m : Nat} (x : BitVec n) (y : BitVec m) (i : Nat) : (x ++ y).getLsbD (m + i) = x.getLsbD i := by
  rw [BitVec.getLsbD_append, if_neg (by omega), Nat.add_sub_cancel_left]

/-- Bit 21 of a header tells I/O packets from coherence packets. -/
theorem headerOf_headerBits_io (h : Header) : (headerOf (headerBits h)).io = h.io := by
  refine (getLsbD_append_above _ h.reserved 9).trans ((getLsbD_append_above _ h.size 7).trans
    ((getLsbD_append_above _ h.atomop 3).trans ((getLsbD_append_above _ (BitVec.ofNat 3 h.pass_) 0).trans ?_)))
  rw [BitVec.getLsbD_append]
  simp

theorem slotOf_io (r : RingId) (h : Header) (mask : Word) (data : Bytes) : (headerOf (slotOf r h mask data).header).io = h.io :=
  headerOf_headerBits_io _

/-- What is no coherence message travels in an I/O packet. -/
theorem State.slotFor_io {s : State} {r : RingId} {q : Packet} {z : Slot} (hq : ∀ m, q ≠ .coh m) (hz : s.slotFor r q = some z) :
    (headerOf z.header).io = true := by
  cases q with
  | coh m => exact absurd rfl (hq m)
  | io w q =>
    simp only [State.slotFor] at hz
    split at hz
    · obtain ⟨e, -, rfl⟩ := Option.map_eq_some_iff.1 hz
      exact slotOf_io ..
    · split at hz
      · cases hz
        exact slotOf_io ..
      · cases hz
  | msi m =>
    simp only [State.slotFor, Option.bind_eq_some_iff, Option.map_eq_some_iff] at hz
    obtain ⟨g, -, e, -, rfl⟩ := hz
    exact slotOf_io ..
  | ans g a =>
    simp only [State.slotFor, Option.bind_eq_some_iff, Option.map_eq_some_iff] at hz
    obtain ⟨x, -, e, -, rfl⟩ := hz
    cases a <;> exact slotOf_io ..

/-- With no coherence message on its way, a coherence packet carries a message that no agent of the package has sent. -/
theorem State.packetOf_foreign {s : State} {r : RingId} {z : Slot} (hn : s.fab.net = []) (hz : (headerOf z.header).io = false) :
    s.packetOf r z = none := by
  refine List.find?_eq_none.2 fun q hq same => ?_
  have not_coh : ∀ m, q ≠ .coh m := by
    rintro m rfl
    simp [State.due, hn] at hq
  obtain ⟨y, hy, same⟩ := (Option.any_eq_true ..).1 same
  have io : (headerOf y.header).io = (headerOf z.header).io := by
    simp only [Header.same, Bool.and_eq_true, decide_eq_true_eq] at same
    obtain ⟨⟨⟨⟨⟨⟨-, io⟩, -⟩, -⟩, -⟩, -⟩, -⟩ := same
    exact io
  rw [State.slotFor_io not_coh hy, hz] at io
  cases io

/-- Its message joins those on their way. -/
theorem State.ringEject_foreign {s : State} {r : RingId} {z : Slot} {m : Msg} (hn : s.fab.net = [])
    (hp : (headerOf z.header).poison = false) (hz : (headerOf z.header).io = false) (hm : slotMsg z = some m) :
    s.ringEject r z = (s.send m).upFab fun f => { f with launched := f.launched ++ [.coh m] } := by
  have whole : s.ringPoison r z = s := by simp only [State.ringPoison, hp, Bool.not_false, if_true]
  simp only [State.ringEject, whole, State.packetOf_foreign hn hz, hz, hm, Option.isSome_none, Option.map_some, Bool.false_eq_true,
    if_false]
  rfl

/-! ### The check of a hop (R193, R194) -/

section
variable {s : State} {r : RingId} {stop key : Nat} {p : Slot}

theorem State.hop_bad (hc : laneCheck r 192 (ctlBits p) p.ctlCheck = .bad) :
    s.hop r key p = (none, s.hopLog .uncorrected .transport key p) := by
  simp only [State.hop, hc]

theorem State.hop_good (hc : laneCheck r 192 (ctlBits p) p.ctlCheck = .good)
    (hd : laneCheck r 512 (leNat p.data) p.dataCheck = .good) : s.hop r key p = (some (recheck r p), s) := by
  simp only [State.hop, hc, hd]

theorem headerOf_recheck (r : RingId) (p : Slot) : headerOf (recheck r p).header = headerOf p.header := rfl

/-- A slot whose control lane cannot be corrected is emptied. -/
theorem State.ringArrive_bad (hc : laneCheck r 192 (ctlBits p) p.ctlCheck = .bad) : s.ringArrive r stop p =
    (s.hopLog .uncorrected .transport (stopKey r stop) p).ringEmptied r p := by
  simp only [State.ringArrive, State.hop_bad hc]

/-- No packet of the ring was in the slot. -/
theorem State.ringEmptied_of_none (hn : (s.fab.onRing.find? fun e => e.ring = r && couldBe r p e.slot) = none) :
    s.ringEmptied r p = s := by
  simp only [State.ringEmptied, hn]

/-- The slot carried the packet of a coherence message, which never arrives. -/
theorem State.ringEmptied_of_coh {e : RingSlot} {m : Msg}
    (he : (s.fab.onRing.find? fun e => e.ring = r && couldBe r p e.slot) = some e) (own : e.foreign = false)
    (hm : s.packetOf r e.slot = some (.coh m)) :
    s.ringEmptied r p = (s.deliver m).upFab fun f => { f with onRing := f.onRing.erase e } := by
  simp only [State.ringEmptied, he, hm, own, Bool.false_eq_true, if_false]
  rfl

end

/-! ### A packet whose lanes check good -/

/-- The slots of the ring, that of the packet with what arrived in it. -/
def State.arrivalOn (s : State) (r : RingId) (z : Slot) (e : RingSlot) : RingSlot :=
  if some e = s.slotOn r z then { e with slot := z } else e

/-- A packet at its target has left the ring. -/
def State.offRing (s : State) (r : RingId) (z : Slot) : State :=
  match s.slotOn r z with
  | some e => s.upFab fun f => { f with onRing := f.onRing.erase e }
  | none => s

/-- What stands in the ingress queue of a stop: of an agent that does not pass packets on, what it has not taken yet. -/
def State.standing (s : State) (r : RingId) (stop : Nat) : List (BitVec 2 × Slot) :=
  if passesOn (agentAt r stop) then (s.stop (stopKey r stop)).ingress else s.waitingIn r (s.stop (stopKey r stop)).ingress

/-- The queue of a stop holds what stands in it. -/
def State.restand (s : State) (r : RingId) (stop : Nat) : State :=
  s.setStop (stopKey r stop) { s.stop (stopKey r stop) with ingress := s.standing r stop }

/-- A packet joins the ingress queue. -/
def State.keptAt (s : State) (r : RingId) (stop : Nat) (z : Slot) : State :=
  let st := s.stop (stopKey r stop)
  let h := headerOf z.header
  s.setStop (stopKey r stop)
    { st with ingress := st.ingress ++ [(BitVec.ofNat 2 h.vc, z)],
              reserve := st.reserve.erase (BitVec.ofNat 2 h.vc, BitVec.ofNat 8 h.src) }

/-- The slot of the ring with the packet as it arrived. -/
def State.arrived (s : State) (r : RingId) (stop : Nat) (z : Slot) : RingSlot :=
  ((s.slotOn r z).map fun e => { e with slot := z }).getD
    { ring := r, clockwise := goesClockwise r ((headerOf z.header).src % 64) stop, slot := z, foreign := true }

/-- The sources that the reservation list names before this one (R186). -/
def State.owedBefore (s : State) (r : RingId) (stop : Nat) (h : Header) : List (BitVec 8) :=
  (((s.stop (stopKey r stop)).reserve.filter fun e => e.1 = BitVec.ofNat 2 h.vc).map Prod.snd).takeWhile
    fun a => a ≠ BitVec.ofNat 8 h.src

/-- Places of the ingress queue that packets of the same virtual channel take. -/
def State.placesTaken (s : State) (r : RingId) (stop : Nat) (h : Header) : Nat :=
  ((s.standing r stop).filter fun e => e.1 = BitVec.ofNat 2 h.vc).length

/-- Its target's stop has room for a packet, or not. -/
def State.ringTaken (s : State) (r : RingId) (stop : Nat) (z : Slot) (e : RingSlot) : State :=
  let h := headerOf z.header
  let u := s.restand r stop
  if (s.owedBefore r stop h).length < Config.ingressDepth - s.placesTaken r stop h then
    let u := (u.ringEject r z).keptAt r stop z
    match r with
    | .hub _ => if isBridge (agentAt r stop) then u.ringCount r 0x02 h else u
    | .die _ => u
  else (u.ringCount r 0x01 h).ringPass r stop e

theorem State.ringArrive_good {s : State} {r : RingId} {stop : Nat} {p : Slot}
    (hc : laneCheck r 192 (ctlBits p) p.ctlCheck = .good) (hd : laneCheck r 512 (leNat p.data) p.dataCheck = .good) :
    s.ringArrive r stop p =
      let z := recheck r p
      let h := headerOf z.header
      if !h.ok r then s.hopLog .uncorrected .transport (stopKey r stop) z
      else if ringTarget r h.dst ≠ stop then
        (s.upFab fun f => { f with onRing := f.onRing.map (s.arrivalOn r z) }).ringCount r 0x01 h
      else if h.vc = 3 && !isBridge (agentAt r stop) then
        let u := ((s.offRing r z).restand r stop).ringEject r z
        if passesOn (agentAt r stop) then u.keptAt r stop z else u
      else (s.offRing r z).ringTaken r stop z (s.arrived r stop z) := by
  unfold State.ringArrive
  extract_lets key busy
  rw [State.hop_good hc hd]
  cases r <;> rfl

section
variable (s : State) (r : RingId) (stop : Nat) (z : Slot)

theorem State.offRing_net : (s.offRing r z).fab.net = s.fab.net := by
  unfold State.offRing
  split <;> rfl

theorem State.stop_offRing (key : Nat) : (s.offRing r z).stop key = s.stop key := by
  unfold State.offRing
  split <;> rfl

theorem State.waitingIn_offRing (q : List (BitVec 2 × Slot)) : (s.offRing r z).waitingIn r q = s.waitingIn r q := by
  unfold State.offRing
  split <;> rfl

theorem State.standing_offRing : (s.offRing r z).standing r stop = s.standing r stop := by
  simp only [State.standing, State.stop_offRing, State.waitingIn_offRing]

theorem State.owedBefore_offRing (h : Header) : (s.offRing r z).owedBefore r stop h = s.owedBefore r stop h := by
  simp only [State.owedBefore, State.stop_offRing]

theorem State.placesTaken_offRing (h : Header) : (s.offRing r z).placesTaken r stop h = s.placesTaken r stop h := by
  simp only [State.placesTaken, State.standing_offRing]

theorem State.keptAt_net : (s.keptAt r stop z).fab.net = s.fab.net := rfl

theorem State.mem_ingress_keptAt :
    (BitVec.ofNat 2 (headerOf z.header).vc, z) ∈ ((s.keptAt r stop z).stop (stopKey r stop)).ingress := by
  rw [State.keptAt, State.stop_setStop, if_pos rfl]
  exact List.mem_append_right _ (List.mem_singleton_self _)

theorem State.arrived_ring : (s.arrived r stop z).ring = r := by
  unfold State.arrived
  cases he : s.slotOn r z with
  | none => rfl
  | some e =>
    have found := List.find?_some he
    rw [Bool.and_eq_true, decide_eq_true_eq] at found
    exact found.1

theorem State.arrived_slot : (s.arrived r stop z).slot = z := by
  unfold State.arrived
  cases s.slotOn r z <;> rfl

/-- The slot that arrives holds the packet as it arrived. -/
theorem State.mem_arrivalOn {e : RingSlot} (he : s.slotOn r z = some e) :
    { e with slot := z } ∈ s.fab.onRing.map (s.arrivalOn r z) :=
  List.mem_map.2 ⟨e, List.mem_of_find?_eq_some he, if_pos he.symm⟩

end

/-! ### A packet that passes its destination (R186) -/

section
variable (s : State) (r : RingId) (stop : Nat) (e : RingSlot)

/-- The stop, with the source of a packet that has passed twice listed. -/
def State.passNoted (s : State) (r : RingId) (stop : Nat) (h : Header) : StopState :=
  let st := s.stop (stopKey r stop)
  let entry : BitVec 2 × BitVec 8 := (BitVec.ofNat 2 h.vc, BitVec.ofNat 8 h.src)
  if 2 ≤ h.pass_ && !st.reserve.contains entry then { st with reserve := st.reserve ++ [entry] } else st

theorem State.mem_passNoted {h : Header} (twice : 2 ≤ h.pass_) :
    (BitVec.ofNat 2 h.vc, BitVec.ofNat 8 h.src) ∈ (s.passNoted r stop h).reserve := by
  simp only [State.passNoted]
  split
  · exact List.mem_append_right _ (List.mem_singleton_self _)
  · next listed => simpa [twice] using listed

/-- A packet that passes stays in its slot, PASS one higher. -/
theorem State.ringPass_eq : s.ringPass r stop e =
    let h := headerOf e.slot.header
    let on : RingSlot := { e with slot := reheader r e.slot fun h => { h with pass_ := min 7 (h.pass_ + 1) } }
    ((s.setStop (stopKey r stop) (s.passNoted r stop h)).upFab fun f => { f with onRing := f.onRing ++ [on] }).ringCount r 0x03 h := by
  cases r <;> rfl

theorem State.ringPass_fab_net : (s.ringPass r stop e).fab.net = s.fab.net := by
  rw [State.ringPass_eq, State.ringCount_fab]
  rfl

theorem State.mem_onRing_ringPass :
    { e with slot := reheader r e.slot fun h => { h with pass_ := min 7 (h.pass_ + 1) } } ∈ (s.ringPass r stop e).fab.onRing := by
  rw [State.ringPass_eq, State.ringCount_fab]
  exact List.mem_append_right _ (List.mem_singleton_self _)

theorem State.stop_ringPass : (s.ringPass r stop e).stop (stopKey r stop) = s.passNoted r stop (headerOf e.slot.header) := by
  rw [State.ringPass_eq, State.stop, State.ringCount_fab]
  exact (State.stop_setStop ..).trans (if_pos rfl)

end

/-! ### The statement's clauses -/

theorem ringPacketArrival_completes {r : RingId} {stop : Nat} {p : Slot} {s : State} {P : State → Prop} (hl : s.clocked = true)
    (hP : P (s.ringArrive r stop p)) : Completes (.ringPacketArrival r stop p) s P := ⟨_, if_pos hl, hP⟩

section
variable {s : State} {r : RingId} {stop : Nat} {p : Slot}

section
variable (room : s.mgmt.log.queue.length < 1024) (hc : laneCheck r 192 (ctlBits p) p.ctlCheck = .bad)
include room hc

theorem ringArrive_bad_leaves (hn : ∀ e ∈ s.fab.onRing, e.ring = r → couldBe r p e.slot = false) :
    (s.ringArrive r stop p).fab = s.fab ∧ s.logsOne (s.ringArrive r stop p) .uncorrected .ring .transport (stopKey r stop) := by
  have logged := State.logsOne_hopLog room .uncorrected .transport (stopKey r stop) p
  have fab := s.hopLog_fab .uncorrected .transport (stopKey r stop) p
  rw [State.ringArrive_bad hc]
  generalize s.hopLog .uncorrected .transport (stopKey r stop) p = u at logged fab
  have unfound : (u.fab.onRing.find? fun e => e.ring = r && couldBe r p e.slot) = none :=
    List.find?_eq_none.2 fun e he => by simpa using hn e (fab ▸ he)
  rw [State.ringEmptied_of_none unfound]
  exact ⟨fab, logged⟩

theorem ringArrive_bad_loses {e : RingSlot} {m : Msg}
    (he : (s.fab.onRing.find? fun e => e.ring = r && couldBe r p e.slot) = some e) (own : e.foreign = false)
    (hm : s.packetOf r e.slot = some (.coh m)) :
    let t := s.ringArrive r stop p
    t.fab.net = s.fab.net.erase m ∧ t.fab.onRing = s.fab.onRing.erase e ∧ t.fab.stops = s.fab.stops ∧
      s.logsOne t .uncorrected .ring .transport (stopKey r stop) := by
  have logged := State.logsOne_hopLog room .uncorrected .transport (stopKey r stop) p
  have fab := s.hopLog_fab .uncorrected .transport (stopKey r stop) p
  have packet := s.packetOf_hopLog .uncorrected .transport (stopKey r stop) p r e.slot
  rw [State.ringArrive_bad hc]
  generalize s.hopLog .uncorrected .transport (stopKey r stop) p = u at logged fab packet
  rw [← fab] at he ⊢
  rw [State.ringEmptied_of_coh he own (packet.trans hm)]
  exact ⟨rfl, rfl, rfl, logged⟩

end

variable (hc : laneCheck r 192 (ctlBits p) p.ctlCheck = .good) (hd : laneCheck r 512 (leNat p.data) p.dataCheck = .good)

section
include hc hd

theorem ringArrive_illegal_leaves (room : s.mgmt.log.queue.length < 1024) (ho : (headerOf p.header).ok r = false) :
    (s.ringArrive r stop p).fab = s.fab ∧ s.logsOne (s.ringArrive r stop p) .uncorrected .ring .transport (stopKey r stop) := by
  simp only [State.ringArrive_good hc hd, headerOf_recheck, ho, Bool.not_false, if_true]
  exact ⟨rfl, State.logsOne_hopLog room ..⟩

theorem ringArrive_passesBy_leaves (ho : (headerOf p.header).ok r = true) (ht : ringTarget r (headerOf p.header).dst ≠ stop) :
    let t := s.ringArrive r stop p
    t.fab.net = s.fab.net ∧ t.fab.stops = s.fab.stops ∧ t.fab.onRing.length = s.fab.onRing.length ∧
      ∀ e, s.slotOn r (recheck r p) = some e → { e with slot := recheck r p } ∈ t.fab.onRing := by
  simp only [State.ringArrive_good hc hd, headerOf_recheck, ho, ht, ne_eq, not_false_eq_true, Bool.not_true, Bool.false_eq_true,
    if_false, if_true, State.ringCount_fab]
  exact ⟨rfl, rfl, List.length_map .., fun e he => s.mem_arrivalOn r _ he⟩

end

/-- A message that no agent of the package has sent is delivered at its target. -/
theorem ringEject_delivers {z : Slot} {m : Msg} (hp : (headerOf z.header).poison = false) (hio : (headerOf z.header).io = false)
    (hm : slotMsg z = some m) (hn : s.fab.net = []) :
    (((s.offRing r z).restand r stop).ringEject r z).fab.net = [m] := by
  have none_due : ((s.offRing r z).restand r stop).fab.net = [] := (State.offRing_net ..).trans hn
  rw [State.ringEject_foreign none_due hp hio hm]
  exact congrArg (· ++ [m]) none_due

variable (ho : (headerOf p.header).ok r = true) (ht : ringTarget r (headerOf p.header).dst = stop)
include hc hd ho ht

theorem ringArrive_response_delivers {m : Msg} (hv : (headerOf p.header).vc = 3) (hb : isBridge (agentAt r stop) = false)
    (ejects : (((s.offRing r (recheck r p)).restand r stop).ringEject r (recheck r p)).fab.net = [m]) :
    (s.ringArrive r stop p).fab.net = [m] := by
  simp only [State.ringArrive_good hc hd, headerOf_recheck, ho, ht, hv, hb, ne_eq, not_true_eq_false, Bool.not_true, Bool.not_false,
    Bool.false_eq_true, if_false, decide_true, Bool.and_self, if_true]
  split
  · exact (State.keptAt_net ..).trans ejects
  · exact ejects

/-- A packet of another channel is taken where its target has room. -/
theorem State.ringArrive_request (hv : (headerOf p.header).vc < 3) : s.ringArrive r stop p =
    (s.offRing r (recheck r p)).ringTaken r stop (recheck r p) (s.arrived r stop (recheck r p)) := by
  have request : (headerOf p.header).vc ≠ 3 := by omega
  simp only [State.ringArrive_good hc hd, headerOf_recheck, ho, ht, request, ne_eq, not_true_eq_false, Bool.not_true, Bool.false_and,
    Bool.false_eq_true, if_false, decide_false]

theorem ringArrive_request_delivers {m : Msg} (hv : (headerOf p.header).vc < 3)
    (room : (s.owedBefore r stop (headerOf p.header)).length < Config.ingressDepth - s.placesTaken r stop (headerOf p.header))
    (ejects : (((s.offRing r (recheck r p)).restand r stop).ringEject r (recheck r p)).fab.net = [m]) :
    let t := s.ringArrive r stop p
    t.fab.net = [m] ∧ (BitVec.ofNat 2 (headerOf p.header).vc, recheck r p) ∈ (t.stop (stopKey r stop)).ingress := by
  have fab : (s.ringArrive r stop p).fab =
      ((((s.offRing r (recheck r p)).restand r stop).ringEject r (recheck r p)).keptAt r stop (recheck r p)).fab := by
    rw [State.ringArrive_request hc hd ho ht hv]
    simp only [State.ringTaken, headerOf_recheck, State.owedBefore_offRing, State.placesTaken_offRing, room, if_true]
    split
    · split
      · exact State.ringCount_fab ..
      · rfl
    · rfl
  simp only [State.stop, fab]
  exact ⟨(State.keptAt_net ..).trans ejects, State.mem_ingress_keptAt ..⟩

theorem ringArrive_full_passes (hv : (headerOf p.header).vc < 3)
    (full : Config.ingressDepth ≤ s.placesTaken r stop (headerOf p.header)) :
    let t := s.ringArrive r stop p
    t.fab.net = s.fab.net ∧
      (∃ e ∈ t.fab.onRing, e.ring = r ∧
        e.slot.header = headerBits { headerOf p.header with pass_ := min 7 ((headerOf p.header).pass_ + 1) }) ∧
      (2 ≤ (headerOf p.header).pass_ →
        (BitVec.ofNat 2 (headerOf p.header).vc, BitVec.ofNat 8 (headerOf p.header).src) ∈ (t.stop (stopKey r stop)).reserve) := by
  have no_room : ¬ (s.owedBefore r stop (headerOf p.header)).length < Config.ingressDepth - s.placesTaken r stop (headerOf p.header) := by
    omega
  have slot := s.arrived_slot r stop (recheck r p)
  have ring := s.arrived_ring r stop (recheck r p)
  rw [State.ringArrive_request hc hd ho ht hv]
  simp only [State.ringTaken, headerOf_recheck, State.owedBefore_offRing, State.placesTaken_offRing, no_room, if_false]
  generalize s.arrived r stop (recheck r p) = e at slot ring
  refine ⟨?_, ⟨_, State.mem_onRing_ringPass .., ring, ?_⟩, fun twice => ?_⟩
  · rw [State.ringPass_fab_net, State.ringCount_fab]
    exact State.offRing_net ..
  · rw [slot]
    rfl
  · rw [State.stop_ringPass, slot]
    exact State.mem_passNoted _ _ _ twice

end

/-- A stop tags the next slot of a direction (R187). -/
theorem injectionWaitTag_completes {s : State} (hl : s.clocked = true) (r : RingId) (stop : Nat) (clockwise : Bool) :
    Completes (.injectionWaitTag r stop clockwise) s fun t =>
      t.stop (stopKey r stop) = (if clockwise then { s.stop (stopKey r stop) with tagCw := true }
        else { s.stop (stopKey r stop) with tagCcw := true }) ∧
      t.fab.net = s.fab.net ∧ ∀ k, k ≠ stopKey r stop → t.stop k = s.stop k :=
  ⟨_, if_pos hl, (State.stop_setStop ..).trans (if_pos rfl), rfl, fun _ hk => (State.stop_setStop ..).trans (if_neg hk)⟩

/-- Settles O20: the hop's check empties a slot or lets its packet on, and the packet passes by, is ejected or passes its target. -/
theorem ringPacketsEjectPassOrAreEmptied : Obligations.RingPacketsEjectPassOrAreEmptied := by
  unfold Obligations.RingPacketsEjectPassOrAreEmptied
  refine ⟨fun r stop p s hl room => ⟨fun hc => ⟨?unfound, ?lost⟩, fun hc hd => ⟨?illegal, ?passesBy, ?delivered, ?full⟩⟩,
    fun r stop clockwise s hl => injectionWaitTag_completes hl r stop clockwise⟩
  case unfound => exact fun hn => ringPacketArrival_completes hl (ringArrive_bad_leaves room hc hn)
  case lost => exact fun e m he own hm => ringPacketArrival_completes hl (ringArrive_bad_loses room hc he own hm)
  case illegal => exact fun ho => ringPacketArrival_completes hl (ringArrive_illegal_leaves hc hd room ho)
  case passesBy => exact fun ho ht => ringPacketArrival_completes hl (ringArrive_passesBy_leaves hc hd ho ht)
  case delivered =>
    intro m ho ht hp hio hm hn
    have ejects := ringEject_delivers (r := r) (stop := stop) hp hio hm hn
    exact ⟨fun hv hb => ringPacketArrival_completes hl (ringArrive_response_delivers hc hd ho ht hv hb ejects),
      fun hv free => ringPacketArrival_completes hl (ringArrive_request_delivers hc hd ho ht hv free ejects)⟩
  case full => exact fun ho ht hv full => ringPacketArrival_completes hl (ringArrive_full_passes hc hd ho ht hv full)

end Sys2Proof.Machine
end

section
/-! Accesses to I/O that reach a register or an interrupt file (R183, R272, R275). -/

namespace Sys2Proof.Machine

/-! ### Words of registers -/

theorem ofNat_fld_all (v : Word) : BitVec.ofNat 64 (fld v 0 64) = v := by
  have whole : fld v 0 64 = v.toNat := Nat.mod_eq_of_lt v.isLt
  rw [whole, BitVec.ofNat_toNat, BitVec.setWidth_eq]

theorem blend_all (old new : Word) : blend old new (~~~ 0) = new := by
  have cleared : old &&& ~~~ (~~~ (0 : Word)) = 0 := by rw [BitVec.not_not]; exact BitVec.and_zero
  have taken : new &&& ~~~ (0 : Word) = new := BitVec.and_allOnes
  rw [blend, cleared, taken]
  exact BitVec.zero_or

/-! ### Control space (R29) -/

/-- An offset of control space in the slice of a package that is present. -/
theorem State.region_control {s : State} {pa off : Nat} (hx : s.pkgIx < 4) (hp : s.pkgPresent s.pkgIx = true) (ho : off < 0x30000000)
    (ha : pa = s.pkgIx * 2 ^ 50 + 0x40000000 + off) : s.region none pa = .control off := by
  have index : pa / 2 ^ 50 % 4 = s.pkgIx := by omega
  have within : pa % 2 ^ 50 = 0x40000000 + off := by omega
  have inside : ¬ 2 ^ 52 ≤ pa := by omega
  have above : ¬ 0x40000000 + off < 0x40000000 := by omega
  have below : 0x40000000 + off < 0x70000000 := by omega
  unfold State.region
  simp only [index, within, hp, inside, above, below, decide_false, Bool.not_true, Bool.or_self, Bool.false_eq_true, if_false, if_true,
    Nat.add_sub_cancel_left]

theorem exec_iord_eq (m : IoMsg) (s : State) : exec (.iord m) s = execIord m s := rfl

theorem exec_iowr_eq (m : IoMsg) (s : State) : exec (.iowr m) s = execIowr m s := rfl

/-- A hart's access of 8 bytes to an offset of control space, below the configuration space of PCI Express, in its own package,
which is not partitioned. -/
structure State.OwnAccess (s : State) (h : HartId) (m : IoMsg) (off : Nat) : Prop where
  clocked : s.clocked = true
  whole : s.scopeMode ≠ .partitioned
  present : s.pkgPresent s.pkgIx = true
  index : s.pkgIx < 4
  client : m.client = .hart h
  size : m.size = 8
  pa : m.pa = s.pkgIx * 2 ^ 50 + 0x40000000 + off
  low : off < 0x4000000

section
variable {s : State} {h : HartId} {m : IoMsg} {off : Nat} (a : s.OwnAccess h m off)
include a

theorem State.OwnAccess.package : m.pa / 2 ^ 50 = s.pkgIx := by
  have index := a.index
  have pa := a.pa
  have low := a.low
  omega

theorem State.OwnAccess.region : s.region none m.pa = .control off :=
  State.region_control a.index a.present (Nat.lt_trans a.low (by decide)) a.pa

theorem State.OwnAccess.part : s.partOfDie h.die.val = none := if_neg a.whole

theorem State.OwnAccess.plain : inEcam off = false := by
  have low := a.low
  simp only [inEcam, Bool.and_eq_false_iff, decide_eq_false_iff_not]
  omega

/-- The access is no longer on its way. -/
theorem State.OwnAccess.taken (write : Bool) :
    (s.upFab fun f => { f with ioReqs := f.ioReqs.erase (write, m) }).OwnAccess h m off :=
  ⟨a.clocked, a.whole, a.present, a.index, a.client, a.size, a.pa, a.low⟩

theorem exec_iord_own {t : State} {v : Word}
    (hr : (s.upFab fun f => { f with ioReqs := f.ioReqs.erase (false, m) }).regRead none m.hue (off / 8 * 8) = (v, t)) :
    exec (.iord m) s = .next (t.ioSay h (.data (BitVec.ofNat 64 (fld v (8 * (off % 8)) 64)) false)) := by
  have client : ioHart m = some h := by simp only [ioHart, a.client]
  have u := a.taken false
  rw [exec_iord_eq, execIord, live, if_pos a.clocked]
  generalize s.upFab (fun f => { f with ioReqs := f.ioReqs.erase (false, m) }) = s' at hr u
  simp only [client, Option.bind_some, u.package, u.part, u.region, hr, ioSized, u.size, u.plain, ne_eq, not_true_eq_false, if_false,
    decide_true, Bool.or_true, Bool.not_true, Bool.false_eq_true, State.ioTell]

theorem exec_iowr_own {t : State}
    (hw : (s.upFab fun f => { f with ioReqs := f.ioReqs.erase (true, m) }).regWrite none m.hue (off / 8 * 8) m.value (~~~ 0) = .next t) :
    exec (.iowr m) s = .next (t.ioSay h .ack) := by
  have client : ioHart m = some h := by simp only [ioHart, a.client]
  have no_file : ¬ 0x4000000 ≤ off := Nat.not_le.2 a.low
  have u := a.taken true
  rw [exec_iowr_eq, execIowr, live, if_pos a.clocked]
  generalize s.upFab (fun f => { f with ioReqs := f.ioReqs.erase (true, m) }) = s' at hw u
  have stores : s'.controlStore none m.hue off 8 m.value = .next t := by
    simpa [State.controlStore, no_file] using hw
  simp only [client, Option.bind_some, u.package, u.part, u.region, stores, ioSized, u.size, u.plain, ne_eq, not_true_eq_false, if_false,
    decide_true, Bool.or_true, Bool.not_true, Bool.false_eq_true, State.ioTell]

end

section
variable {h : HartId} {m : IoMsg} {s : State}

/-- A read of a counter of hue 0 in the meter window (R291). -/
theorem iord_meter_completes {n : Fin 16} (a : s.OwnAccess h m (0x300000 + n.val * 8)) :
    Completes (.iord m) s fun t => t.fab.ioAnswers = s.fab.ioAnswers ++ [(h, .data (Table.get 0 (s.meter 0).counters n.val) false)] ∧
      t.fab.ioReqs = s.fab.ioReqs.erase (false, m) := by
  have n_lt := n.isLt
  have reads (u : State) : u.regRead none m.hue ((0x300000 + n.val * 8) / 8 * 8) = (Table.get 0 (u.meter 0).counters n.val, u) := by
    have at_ : (0x300000 + n.val * 8) / 8 * 8 = 0x300000 + n.val * 8 := by omega
    have counter : n.val * 8 % 0x80 / 8 = n.val := by omega
    have hue : n.val * 8 / 0x80 = 0 := by omega
    simp only [at_, State.regRead, State.meterRead, Nat.add_sub_cancel_left, counter, hue, hostMeter]
    rw [if_neg (by omega), if_neg (by omega), if_neg (by simp), if_pos (by simp; omega)]
    rfl
  have aligned : (0x300000 + n.val * 8) % 8 = 0 := by omega
  have runs := exec_iord_own a (reads _)
  rw [aligned, Nat.mul_zero, ofNat_fld_all] at runs
  exact ⟨_, runs, rfl, rfl⟩

/-- A write of the address that a forget queue's MSI goes to (R254). -/
theorem iowr_msiAddr_completes {q : Fin 16} (a : s.OwnAccess h m (0x200000 + q.val * 0x1000 + 0x28)) :
    Completes (.iowr m) s fun t => (t.forget q.val).msiAddr = m.value ∧ t.fab.ioAnswers = s.fab.ioAnswers ++ [(h, .ack)] ∧
      t.fab.ioReqs = s.fab.ioReqs.erase (true, m) := by
  have q_lt := q.isLt
  have writes (u : State) : u.regWrite none m.hue ((0x200000 + q.val * 0x1000 + 0x28) / 8 * 8) m.value (~~~ 0) =
      .next (u.setForget q.val { u.forget q.val with msiAddr := m.value }) := by
    have at_ : (0x200000 + q.val * 0x1000 + 0x28) / 8 * 8 = 0x200000 + (q.val * 0x1000 + 0x28) := by omega
    have queue : (q.val * 0x1000 + 0x28) / 0x1000 = q.val := by omega
    have register : (q.val * 0x1000 + 0x28) % 0x1000 = 0x28 := by omega
    simp only [at_, State.regWrite, State.wmapWrite, Nat.add_sub_cancel_left, queue, register, queueSeen, q_lt, blend_all]
    rw [if_neg (by omega), if_neg (by omega), if_pos (by simp; omega)]
    rfl
  exact ⟨_, exec_iowr_own a (writes _), congrArg ForgetQueue.msiAddr ((State.forget_setForget ..).trans (if_pos rfl)), rfl, rfl⟩

end

/-! ### Interrupt files (R272, R275) -/

section
variable (s : State)

theorem State.unpark_ioAnswers (i : Nat) : (s.unpark i).fab.ioAnswers = s.fab.ioAnswers := by
  unfold State.unpark
  dsimp only
  split <;> rfl

theorem State.unpark_file (i key : Nat) : (s.unpark i).file key = s.file key := by
  unfold State.unpark
  dsimp only
  split <;> rfl

theorem State.charge_file (hue : BitVec 12) (n k : Nat) (p : Option Nat) (key : Nat) : (s.charge hue n k p).file key = s.file key := by
  obtain ⟨ms, hub⟩ := s.charge_hub hue n k p
  simp only [State.file, hub]

theorem State.fileLines_file (i key : Nat) : (s.fileLines i).file key = s.file key := rfl

theorem State.setPending_ioAnswers (key id : Nat) : (s.setPending key id).fab.ioAnswers = s.fab.ioAnswers := by
  have lines (u : State) (i : Nat) : (u.fileLines i).fab.ioAnswers = u.fab.ioAnswers := rfl
  unfold State.setPending
  dsimp only
  split
  · rfl
  · rw [lines, State.charge_fab]
    split
    · exact State.unpark_ioAnswers ..
    · rfl

theorem State.fileWrite4_ioAnswers (key off v : Nat) (hue : BitVec 12) : (s.fileWrite4 key off v hue).fab.ioAnswers = s.fab.ioAnswers := by
  unfold State.fileWrite4
  dsimp only
  split
  · rfl
  · split
    · exact s.setPending_ioAnswers ..
    · rfl

theorem State.fileWrite_ioAnswers (key off size : Nat) (v : Word) (hue : BitVec 12) :
    (s.fileWrite key off size v hue).fab.ioAnswers = s.fab.ioAnswers := by
  unfold State.fileWrite
  split
  · rw [State.fileWrite4_ioAnswers, State.fileWrite4_ioAnswers]
  · exact s.fileWrite4_ioAnswers ..

/-- An identity named to a file is pending there. -/
theorem State.setPending_pends {key id : Nat} (h0 : 0 < id) (h1 : id < 2048) : ((s.setPending key id).file key).eip.getLsbD id = true := by
  by_cases known : (s.file key).eip.getLsbD id = true
  · have stays : s.setPending key id = s := if_pos (by simp [known])
    rw [stays, known]
  · have fresh : (decide (id = 0) || decide (2047 < id) || (s.file key).eip.getLsbD id) = false := by
      simp only [Bool.or_eq_false_iff, decide_eq_false_iff_not, known, and_true]
      omega
    simp only [State.setPending, fresh, Bool.false_eq_true, if_false]
    rw [State.fileLines_file, State.charge_file]
    have pends : (((s.setFile key { s.file key with eip := (s.file key).eip ||| BitVec.ofNat 2048 (2 ^ id) }).file key).eip.getLsbD id) =
        true := by
      rw [State.file_setFile, if_pos rfl, BitVec.getLsbD_or, BitVec.getLsbD_ofNat, Nat.testBit_two_pow_self, decide_eq_true h1]
      exact Bool.or_true _
    split
    · rw [State.unpark_file]
      exact pends
    · exact pends

theorem State.fileWrite_pends {key off : Nat} {v : Word} {hue : BitVec 12} (hk : key % 32 = 0) (ho : off = 0) (h0 : 0 < fld v 0 32)
    (h1 : fld v 0 32 < 2048) : ((s.fileWrite key off 4 v hue).file key).eip.getLsbD (fld v 0 32) = true := by
  have takes : (s.file key).accepts false hue = true := rfl
  subst ho
  unfold State.fileWrite State.fileWrite4
  simp [hk, takes]
  exact s.setPending_pends h0 h1

end

/-- The files that an address names, once the interrupt write has arrived. -/
theorem State.filePage_upFab (s : State) (f : Fabric → Fabric) (part : Option Nat) (pa : Nat) :
    (s.upFab f).filePage part pa = s.filePage part pa := by
  have region : (s.upFab f).region part pa = s.region part pa := rfl
  have index : (s.upFab f).pkgIx = s.pkgIx := rfl
  have owner (d : Nat) : (s.upFab f).partOfDie d = s.partOfDie d := rfl
  simp only [State.filePage, region, index, owner]

theorem exec_msiwr_eq (m : MsiMsg) (s : State) : exec (.msiwr m) s = execMsiwr m s := rfl

/-- A hart's store to an interrupt file is acknowledged (R275). -/
theorem msiwr_completes {m : MsiMsg} {h : HartId} {s : State} (hl : s.clocked = true) (hc : m.client = some h) :
    Completes (.msiwr m) s fun t => t.fab.ioAnswers = s.fab.ioAnswers ++ [(h, .ack)] ∧
      ∀ key, s.filePage (s.partOfDie h.die.val) m.pa = some key → key % 32 = 0 → m.size = 4 → m.pa % 4096 = 0 →
        0 < fld m.value 0 32 → fld m.value 0 32 < 2048 → (t.file key).eip.getLsbD (fld m.value 0 32) = true := by
  have answers : (s.upFab fun f => { f with msis := f.msis.erase m }).fab.ioAnswers = s.fab.ioAnswers := rfl
  have page : (s.upFab fun f => { f with msis := f.msis.erase m }).filePage
      ((s.upFab fun f => { f with msis := f.msis.erase m }).partOfDie h.die.val) m.pa = s.filePage (s.partOfDie h.die.val) m.pa :=
    s.filePage_upFab ..
  rw [Completes, exec_msiwr_eq, execMsiwr, live, if_pos hl]
  generalize s.upFab (fun f => { f with msis := f.msis.erase m }) = u at answers page
  simp only [hc, Option.bind_some, page]
  refine ⟨_, rfl, ?_, fun key hk guest size offset h0 h1 => ?_⟩
  · rw [← answers]
    split
    · exact congrArg (· ++ _) (State.fileWrite_ioAnswers ..)
    · rfl
  · simp only [hk, size, offset]
    exact u.fileWrite_pends guest rfl h0 h1

end Sys2Proof.Machine
end

section
/-! The end of a hart's access to I/O, by its answer or by its timer (R183, R190, R192). -/

namespace Sys2Proof.Machine

/-! ### A hart that only its walk keeps busy -/

/-- Trying again the operations of a hart for which nothing but a walk waits does nothing, or drops the walk. -/
theorem State.retryHart_bare {s : State} {h : HartId} (hw : (s.hart (hartIx h)).waiting = []) (hf : (s.hart (hartIx h)).front = [])
    (hc : (s.hart (hartIx h)).ctl = none) :
    ∃ k, (s.retryHart h).hart (hartIx h) = { s.hart (hartIx h) with waiting := [], walk := k } ∧
      (s.retryHart h).fab.ioAnswers = s.fab.ioAnswers := by
  unfold State.retryHart
  simp only [hw, State.issueAll]
  rw [State.hart_setHart, if_pos rfl]
  split
  · rw [State.advance_of_front _ _ (by simp [hf]), State.ctlHart_of_ctl _ _ (by simp [hc])]
    exact ⟨none, (State.hart_setHart ..).trans (if_pos rfl), rfl⟩
  · rw [State.advance_of_front _ _ (by simp [hf]), State.ctlHart_of_ctl _ _ (by simp [hc])]
    exact ⟨_, (State.hart_setHart ..).trans (if_pos rfl), rfl⟩

theorem State.KeepsRest.ioAnswers {s t : State} {h : HartId} (a : s.KeepsRest t h) : t.fab.ioAnswers = s.fab.ioAnswers := by
  have rest : t.rest.fab.ioAnswers = s.rest.fab.ioAnswers := by rw [a.rest]
  exact rest

/-! ### The one access of a hart ends -/

/-- The hart whose one operation, an access to I/O, is over. -/
def HartState.accessOver (x : HartState) : HartState := { x with io := none, waiting := [] }

/-- The instruction of the access has retired: the hart is left as `y` was, with nothing outstanding. -/
structure State.IoOver (t : State) (h : HartId) (y : HartState) (answers : List (HartId × IoAnswer)) : Prop where
  io : (t.hart (hartIx h)).io = none
  waiting : (t.hart (hartIx h)).waiting = []
  x : (t.hart (hartIx h)).x = y.x
  late : (t.hart (hartIx h)).ioLate = y.ioLate
  answers : t.fab.ioAnswers = answers

section
variable {s : State} {h : HartId} {io : IoAccess} {w : Waiting}

theorem State.ioFinish_done {y : State} {ans : IoAnswer} (hio : (s.hart (hartIx h)).io = some io)
    (hws : (s.hart (hartIx h)).waiting = [w]) (is_io : w.isIo io = true)
    (ends : (s.setHart (hartIx h) (s.hart (hartIx h)).accessOver).ioComplete h io w ans = (.done, y)) :
    s.ioFinish h ans =
      (let u := y.endDone h w
       u.setHart (hartIx h) { u.hart (hartIx h) with waiting := (u.hart (hartIx h)).waiting ++ [] }).retryHart h := by
  have ends : (s.setHart (hartIx h) { s.hart (hartIx h) with io := none, waiting := [] }).ioComplete h io w ans = (.done, y) := ends
  simp only [State.ioFinish, hio, hws, List.takeWhile_cons, List.dropWhile_cons, is_io, Bool.not_true, Bool.false_eq_true, if_false, ends]

/-- An operation that ends with a retirement leaves the hart with nothing outstanding. -/
theorem State.ioFinish_over {y : State} {ans : IoAnswer} {x : HartState} {code : Nat} (hio : (s.hart (hartIx h)).io = some io)
    (hws : (s.hart (hartIx h)).waiting = [w]) (is_io : w.isIo io = true) (hint : w.op.isHint = false)
    (ends : (s.setHart (hartIx h) (s.hart (hartIx h)).accessOver).ioComplete h io w ans =
      (.done, y.setHart (hartIx h) ((x.event code 1 w.stamp).retire w.stamp)))
    (x_io : x.io = none) (x_waiting : x.waiting = []) (x_front : x.front = []) (x_ctl : x.ctl = none) :
    (s.ioFinish h ans).IoOver h x y.fab.ioAnswers := by
  rw [State.ioFinish_done hio hws is_io ends]
  have counted := (y.setHart (hartIx h) ((x.event code 1 w.stamp).retire w.stamp)).endDone_counted h w hint
  have answers := ((y.setHart (hartIx h) ((x.event code 1 w.stamp).retire w.stamp)).endDone_keeps h w).ioAnswers
  generalize (y.setHart (hartIx h) ((x.event code 1 w.stamp).retire w.stamp)).endDone h w = u at counted answers
  have waiting : (u.hart (hartIx h)).waiting = [] := (counted.get_retired (·.waiting)).trans x_waiting
  have front : (u.hart (hartIx h)).front = [] := (counted.get_retired (·.front)).trans x_front
  have ctl : (u.hart (hartIx h)).ctl = none := (counted.get_retired (·.ctl)).trans x_ctl
  dsimp only
  generalize hv : u.setHart (hartIx h) { u.hart (hartIx h) with waiting := (u.hart (hartIx h)).waiting ++ [] } = v
  have hart : v.hart (hartIx h) = { u.hart (hartIx h) with waiting := (u.hart (hartIx h)).waiting ++ [] } := by
    rw [← hv, State.hart_setHart, if_pos rfl]
  obtain ⟨k, left, kept⟩ := State.retryHart_bare (s := v) (h := h) (by rw [hart]; simp [waiting]) (by rw [hart]; exact front)
    (by rw [hart]; exact ctl)
  rw [hart] at left
  constructor
  · rw [left]; exact (counted.get_retired (·.io)).trans x_io
  · rw [left]
  · rw [left]; exact counted.get_retired (·.x)
  · rw [left]; exact counted.get_retired (·.ioLate)
  · rw [kept, ← hv]; exact answers

end

/-! ### Loads and stores -/

/-- A load writes the integer, floating-point or vector registers alone. -/
theorem HartState.setLoad_only (x : HartState) (c : LoadClass) (rd : Fin 32) (n : Nat) (z : Bool) (b : Bytes) :
    ∃ r f v, x.setLoad c rd n z b = { x with x := r, f := f, v := v } := by
  have setX (k : Nat) (v : Word) : ∃ r, x.setX k v = { x with x := r } := by
    unfold HartState.setX
    split
    · exact ⟨_, rfl⟩
    · exact ⟨_, rfl⟩
  have integer (v : Word) : ∃ r f u, x.setX rd.val v = { x with x := r, f := f, v := u } := by
    obtain ⟨r, hr⟩ := setX rd.val v
    exact ⟨r, _, _, hr⟩
  cases c with
  | scalar => exact integer _
  | shadowStack => exact integer _
  | hlvx => exact integer _
  | float => exact ⟨_, _, _, rfl⟩
  | vector e n => exact ⟨_, _, _, rfl⟩

/-- What the load writes does not hang on what was outstanding. -/
theorem HartState.setLoad_accessOver (x : HartState) (c : LoadClass) (rd : Fin 32) (n : Nat) (z : Bool) (b : Bytes) :
    (x.accessOver.setLoad c rd n z b).x = (x.setLoad c rd n z b).x := by
  have setX (k : Nat) (v : Word) : (x.accessOver.setX k v).x = (x.setX k v).x := by
    unfold HartState.setX
    split <;> rfl
  cases c with
  | scalar => exact setX ..
  | shadowStack => exact setX ..
  | hlvx => exact setX ..
  | float => rfl
  | vector e n => rfl

/-- A hart whose one operation is an access to I/O, for which no answer is late. -/
structure State.OneAccess (s : State) (h : HartId) (io : IoAccess) (w : Waiting) : Prop where
  access : (s.hart (hartIx h)).io = some io
  waiting : (s.hart (hartIx h)).waiting = [w]
  issued : w.issued = true
  pas : w.pas = [io.pa]
  front : (s.hart (hartIx h)).front = []
  ctl : (s.hart (hartIx h)).ctl = none

section
variable {s : State} {h : HartId} {io : IoAccess} {w : Waiting} {a : Access} (o : s.OneAccess h io w)
include o

/-- The data of a load is delivered, and the load retires. -/
theorem State.OneAccess.load_over {rd : Fin 32} {z : Bool} {c : LoadClass} (ho : w.op = .load a rd z c) (hr : io.write = false)
    (v : Word) : (s.ioFinish h (.data v false)).IoOver h
      ((s.hart (hartIx h)).accessOver.setLoad c rd a.size z (leBytes a.size v.toNat)) s.fab.ioAnswers := by
  have is_io : w.isIo io = true := by
    simp only [Waiting.isIo, o.issued, o.pas, ho, hr, decide_true, Bool.and_self, Bool.not_false]
  obtain ⟨r, f, u, writes⟩ := (s.hart (hartIx h)).accessOver.setLoad_only c rd a.size z (leBytes a.size v.toNat)
  have ends : (s.setHart (hartIx h) (s.hart (hartIx h)).accessOver).ioComplete h io w (.data v false) =
      (.done, (s.setHart (hartIx h) (s.hart (hartIx h)).accessOver).setHart (hartIx h)
        ((((s.hart (hartIx h)).accessOver.setLoad c rd a.size z (leBytes a.size v.toNat)).event 0x16 1 w.stamp).retire w.stamp)) := by
    simp only [State.ioComplete, ho, Bool.false_eq_true, if_false, State.finishLoad, State.hart_setHart, if_true]
  refine State.ioFinish_over (y := s.setHart (hartIx h) (s.hart (hartIx h)).accessOver) o.access o.waiting is_io (by rw [ho]; rfl)
    ends ?_ ?_ ?_ ?_ <;> rw [writes]
  · rfl
  · rfl
  · exact o.front
  · exact o.ctl

/-- A store retires, whatever is answered. -/
theorem State.OneAccess.store_over {v : Word} {c : StoreClass} (ho : w.op = .store a v c) (hw : io.write = true) (ans : IoAnswer) :
    (s.ioFinish h ans).IoOver h (s.hart (hartIx h)).accessOver s.fab.ioAnswers := by
  have is_io : w.isIo io = true := by
    simp only [Waiting.isIo, o.issued, o.pas, ho, hw, decide_true, Bool.and_self]
  have ends : ∃ y : State, y.fab.ioAnswers = s.fab.ioAnswers ∧
      (s.setHart (hartIx h) (s.hart (hartIx h)).accessOver).ioComplete h io w ans =
        (.done, y.setHart (hartIx h) (retireStore (s.hart (hartIx h)).accessOver w.stamp)) := by
    cases ans with
    | data v p =>
      refine ⟨s.setHart (hartIx h) (s.hart (hartIx h)).accessOver, rfl, ?_⟩
      simp only [State.ioComplete, ho, State.hart_setHart, if_true]
    | ack =>
      refine ⟨s.setHart (hartIx h) (s.hart (hartIx h)).accessOver, rfl, ?_⟩
      simp only [State.ioComplete, ho, State.hart_setHart, if_true]
    | error flag =>
      let u := s.setHart (hartIx h) (s.hart (hartIx h)).accessOver
      refine ⟨u.logE .uncorrected .core (flagReason flag) (coreUnit h) (io.pa / 64 * 64) io.hue (u.coreInfo h), rfl, ?_⟩
      simp only [State.ioComplete, ho, State.hart_logE, State.hart_setHart, if_true, u]
  obtain ⟨y, answers, ends⟩ := ends
  rw [← answers]
  exact State.ioFinish_over o.access o.waiting is_io (by rw [ho]; rfl) ends rfl rfl o.front o.ctl

end

/-! ### The rows -/

theorem exec_iorddata_eq (h : HartId) (s : State) : exec (.iorddata h) s = execIorddata h s := rfl

theorem exec_iowrack_eq (h : HartId) (s : State) : exec (.iowrack h) s = execIowrack h s := rfl

theorem exec_ioTmoExpiry_eq (h : HartId) (s : State) : exec (.ioTmoExpiry h) s = execIoTmoExpiry h s := rfl

section
variable {s : State} {h : HartId} {io : IoAccess} {w : Waiting} {a : Access}

/-- The one answer on its way is the hart's. -/
theorem State.takeIoAnswer_one {ans : IoAnswer} {p : IoAnswer → Bool} (only : s.fab.ioAnswers = [(h, ans)]) (hp : p ans = true) :
    ∃ u, s.takeIoAnswer h p = some (ans, u) ∧ u.fab.harts = s.fab.harts ∧ u.fab.ioAnswers = [] := by
  refine ⟨s.upFab fun f => { f with ioAnswers := f.ioAnswers.erase (h, ans) }, ?_, rfl, ?_⟩
  · simp [State.takeIoAnswer, only, hp]
  · simp [State.upFab, only]

theorem State.ioArrive_awaited (late : (s.hart (hartIx h)).ioLate = 0) (ans : IoAnswer) : s.ioArrive h ans = s.ioFinish h ans := by
  simp only [State.ioArrive, late, Nat.lt_irrefl, if_false]

theorem State.OneAccess.of_harts {u : State} (o : s.OneAccess h io w) (harts : u.fab.harts = s.fab.harts) : u.OneAccess h io w := by
  have hart : u.hart (hartIx h) = s.hart (hartIx h) := by simp only [State.hart, harts]
  exact ⟨hart ▸ o.access, hart ▸ o.waiting, o.issued, o.pas, hart ▸ o.front, hart ▸ o.ctl⟩

variable (hl : s.clocked = true) (late : (s.hart (hartIx h)).ioLate = 0) (o : s.OneAccess h io w)
include hl late o

theorem iorddata_completes {rd : Fin 32} {z : Bool} {c : LoadClass} {v : Word} (only : s.fab.ioAnswers = [(h, .data v false)])
    (ho : w.op = .load a rd z c) (hr : io.write = false) :
    Completes (.iorddata h) s fun t => (t.hart (hartIx h)).io = none ∧ (t.hart (hartIx h)).waiting = [] ∧
      (t.hart (hartIx h)).x = ((s.hart (hartIx h)).setLoad c rd a.size z (leBytes a.size v.toNat)).x ∧ t.fab.ioAnswers = [] := by
  rw [Completes, exec_iorddata_eq, execIorddata, live, if_pos hl]
  generalize hp : (fun a : IoAnswer => match a with
    | .data _ _ => true
    | _ => false) = p
  obtain ⟨u, takes, harts, none_left⟩ := State.takeIoAnswer_one (p := p) only (hp ▸ rfl)
  have hart : u.hart (hartIx h) = s.hart (hartIx h) := by simp only [State.hart, harts]
  have ended := (o.of_harts harts).load_over ho hr v
  rw [hart, none_left] at ended
  refine ⟨u.ioFinish h (.data v false), ?_, ended.io, ended.waiting, ended.x.trans (HartState.setLoad_accessOver ..), ended.answers⟩
  rw [takes, ← State.ioArrive_awaited (hart ▸ late)]

theorem iowrack_completes {v : Word} {c : StoreClass} (only : s.fab.ioAnswers = [(h, .ack)]) (ho : w.op = .store a v c)
    (hw : io.write = true) : Completes (.iowrack h) s fun t => (t.hart (hartIx h)).io = none ∧ (t.hart (hartIx h)).waiting = [] ∧
      (t.hart (hartIx h)).x = (s.hart (hartIx h)).x ∧ t.fab.ioAnswers = [] := by
  obtain ⟨u, takes, harts, none_left⟩ := State.takeIoAnswer_one (p := fun a => a = .ack) only rfl
  have hart : u.hart (hartIx h) = s.hart (hartIx h) := by simp only [State.hart, harts]
  have ended := (o.of_harts harts).store_over ho hw .ack
  rw [hart, none_left] at ended
  refine ⟨u.ioFinish h .ack, ?_, ended.io, ended.waiting, ended.x, ended.answers⟩
  rw [exec_iowrack_eq, execIowrack, live, if_pos hl, takes, ← State.ioArrive_awaited (hart ▸ late)]

/-- The timer makes an answer of its own, and one that comes later is owed (R192). -/
theorem ioTmoExpiry_completes {v : Word} {c : StoreClass} (ho : w.op = .store a v c) (hw : io.write = true) :
    Completes (.ioTmoExpiry h) s fun t =>
      (t.hart (hartIx h)).io = none ∧ (t.hart (hartIx h)).ioLate = 1 ∧ (t.hart (hartIx h)).waiting = [] := by
  have ended := o.store_over ho hw (.error 0)
  rw [Completes, exec_ioTmoExpiry_eq, execIoTmoExpiry, live, if_pos hl]
  simp only [o.access, Option.isNone_some, Bool.false_eq_true, if_false]
  generalize s.ioFinish h (.error 0) = u at ended
  refine ⟨_, rfl, ?_⟩
  simp only [State.hart_setHart, if_true]
  exact ⟨ended.io, congrArg (· + 1) (ended.late.trans late), ended.waiting⟩

end

end Sys2Proof.Machine
end

section
/-! A request of a die whose timer expires (R190, R192). -/

namespace Sys2Proof.Machine

/-- The registers of a line wait for an answer that is late (R192). -/
def DieState.overdue (x : DieState) (line : Nat) : DieState :=
  { x with miss := x.miss.map fun k => if k.line = line then { k with late := true, failed := true } else k }

section
variable {s : State} {d : Fin 12} {n : L3Miss}

/-- TIMEOUT answers a request for which nothing waits: its register keeps its reservation, late. -/
theorem State.missError_timeout (hl : n.late = false) (hc : isCmo n.op = false) (hq : s.dieQuiet d)
    (hk : ∀ h ∈ hartsOfDie d, (s.hart (hartIx h)).walk = none) :
    (s.missError d n 0).die d.val = (s.die d.val).overdue n.line := by
  have die : (s.setDie d.val ((s.die d.val).overdue n.line)).die d.val = (s.die d.val).overdue n.line :=
    (State.die_setDie ..).trans (if_pos rfl)
  have quiet : (s.setDie d.val ((s.die d.val).overdue n.line)).dieQuiet d := ⟨hq.1, by rw [die]; exact hq.2⟩
  have walks : ∀ h ∈ hartsOfDie d, ((s.setDie d.val ((s.die d.val).overdue n.line)).hart (hartIx h)).walk = none := hk
  have runs : s.missError d n 0 =
      (((s.setDie d.val ((s.die d.val).overdue n.line)).failLine d n.line 0).freeMiss d n.line).resume d := by
    simp only [State.missError, hl, hc, Bool.false_eq_true, if_false, if_true]
    rfl
  rw [runs, State.failLine_none quiet walks]
  generalize s.setDie d.val ((s.die d.val).overdue n.line) = u at die quiet
  have frees := u.freeMiss_staysQuiet d n.line false
  generalize u.freeMiss d n.line false = v at frees
  have same : v.die d.val = u.die d.val := by simp only [State.die, frees.dies]
  have still := State.resume_still (s := v) (d := d) ⟨fun h hh => frees.quiet _ (quiet.1 h hh), by rw [same]; exact quiet.2⟩
  rw [still.die, same, die]

theorem exec_reqTmoExpiry_die (hl : s.clocked = true) (line : Nat) :
    exec (.reqTmoExpiry d.val line) s = .next (s.dieExpire d line) := by
  have runs : exec (.reqTmoExpiry d.val line) s = execReqTmoExpiry d.val line s := rfl
  have die : Fin.ofNat 12 d.val = d := Fin.ext (Nat.mod_eq_of_lt d.isLt)
  rw [runs, execReqTmoExpiry, live, if_pos hl, if_pos d.isLt, die]

theorem reqTmoExpiry_completes (hl : s.clocked = true) (hq : s.dieQuiet d) (hk : ∀ h ∈ hartsOfDie d, (s.hart (hartIx h)).walk = none)
    (only : (s.die d.val).miss = [n]) (late : n.late = false) (sent : n.unsent = false) (empty : n.filled = none)
    (hc : isCmo n.op = false) :
    Completes (.reqTmoExpiry d.val n.line) s fun t => (t.die d.val).miss = [{ n with late := true, failed := true }] := by
  have found : (s.die d.val).findMiss n.line = some n := by
    rw [DieState.findMiss, only]
    exact List.find?_cons_of_pos (decide_eq_true rfl)
  have expires : s.dieExpire d n.line = s.missError d n 0 := by
    have awaited : (some n).filter (fun n => !n.late && !n.unsent && n.filled.isNone) = some n :=
      if_pos (by simp only [late, sent, empty]; rfl)
    simp only [State.dieExpire, found, awaited]
  refine ⟨_, (exec_reqTmoExpiry_die hl n.line).trans (congrArg _ expires), ?_⟩
  simp only [State.missError_timeout late hc hq hk, DieState.overdue, only, List.map_cons, if_true, List.map_nil]

end

end Sys2Proof.Machine
end

section
/-! What fencing a die leaves of the live PDR: no step of a home, of the links or of the census changes the standing of a die (R148, R388,
R505). -/

namespace Sys2Proof.Machine

/-- From one state to another the live PDR shows the same of every die. -/
def SameDies (s t : State) : Prop := t.mgmt.pdr.dieSt = s.mgmt.pdr.dieSt

theorem SameDies.refl (s : State) : SameDies s s := rfl

theorem SameDies.trans {s t u : State} (a : SameDies s t) (b : SameDies t u) : SameDies s u := Eq.trans b a

theorem SameDies.forEach {α : Type} {f : State → α → State} (hf : ∀ t a, SameDies t (f t a)) (l : List α) (s : State) :
    SameDies s (s.forEach l f) :=
  State.forEach_keeps (SameDies s) (fun t a _ h => h.trans (hf t a)) (.refl s)

theorem SameDies.ite {c : Prop} [Decidable c] {s t u : State} (a : SameDies s t) (b : SameDies s u) : SameDies s (if c then t else u) := by
  split
  · exact a
  · exact b

theorem SameDies.dieFenced {s t : State} (a : SameDies s t) (d : Nat) : t.dieFenced d = s.dieFenced d := by
  have status : t.dieStatus d = s.dieStatus d := congrArg (Table.get 0 · d) a
  simp only [State.dieFenced, status]

theorem Moved.sameDies {s t : State} (a : Moved s t) : SameDies s t := by
  obtain ⟨-, -, -, -, -, -, -, -, mgmt⟩ := a
  rw [SameDies, mgmt]

section
variable (s : State) (k : Nat)

/-! ### A home's transactions (R155, R159, R161) -/

theorem sameDies_uncount (u c n : Nat) (hue : BitVec 12) (cls : BitVec 3) (f : Bool) : SameDies s (s.uncount u c n hue cls f) :=
  (moved_uncount ..).sameDies

theorem sameDies_sendFwd (m : Msg) (a : Nat) (op : Op) : SameDies s (s.sendFwd k m a op) := (sameDies_uncount s ..).trans rfl

theorem sameDies_sendFwds (m : Msg) (fwds : List (Nat × Op)) : SameDies s (s.forEach fwds fun s f => s.sendFwd k m f.1 f.2) :=
  .forEach (fun t (f : Nat × Op) => sameDies_sendFwd t k m f.1 f.2) _ _

theorem sameDies_setTxn (t : Txn) : SameDies s (s.setTxn k t) := rfl

theorem sameDies_homeReply (m : Msg) (op : Op) (flag : BitVec 2) (d : Option (Bytes × Bool)) : SameDies s (s.homeReply k m op flag d) :=
  rfl

theorem sameDies_wbBegin (m : Msg) : SameDies s (s.wbBegin k m) := by
  have ack : SameDies s ((s.homeReply k m .wbAck 0 none).uncount (32 + k) 0x06 1 m.hue m.cls) :=
    (sameDies_homeReply ..).trans (sameDies_uncount ..)
  unfold State.wbBegin
  extract_lets x owner acks recovering
  split
  · exact .ite rfl (.ite rfl ack)
  · exact .ite (.ite rfl ack) (.ite rfl ack)

theorem sameDies_wbAgain (line : Nat) : SameDies s (s.wbAgain k line) :=
  SameDies.trans (t := s.setHome k _) rfl (.forEach (f := fun t (w : WbTrk) => t.wbBegin k w.msg) (fun t _ => sameDies_wbBegin t k _) _ _)

theorem sameDies_tryWay (t : Txn) : SameDies s (s.tryWay k t) := by
  unfold State.tryWay
  dsimp only
  split
  · rfl
  · split
    · rfl
    · split
      · rfl
      · split
        · rfl
        · exact (sameDies_uncount s ..).trans rfl

theorem sameDies_tryAgain (line : Nat) : SameDies s (s.tryAgain k line) := by
  unfold State.tryAgain
  split
  · exact .ite (sameDies_tryWay ..) (.refl s)
  · exact .refl s

/-- A transaction that goes on changes the standing of no die. -/
theorem sameDies_homeRun (line fuel : Nat) : SameDies s (s.homeRun k line fuel) := by
  induction fuel generalizing s line with
  | zero => exact .refl s
  | succ fuel ih =>
    have sets (u : State) (t : Txn) (l : Nat) : SameDies u ((u.setTxn k t).homeRun k l fuel) := (sameDies_setTxn u k t).trans (ih _ _)
    have victims (u : State) (l : List Nat) : SameDies u (u.forEach l fun s v => s.homeRun k v fuel) :=
      .forEach (fun t v => ih t v) _ _
    unfold State.homeRun
    split
    · exact .refl s
    · next t _ =>
      refine .ite (.refl s) ?_
      dsimp only
      split
      case h_1 =>
        refine SameDies.trans ?_ (sameDies_wbAgain ..)
        refine SameDies.trans ?_ (.forEach (fun u l => ((sameDies_tryAgain u k l).trans (victims _ _)).trans (ih _ _)) _ _)
        split
        · split
          · exact SameDies.trans (t := s.setHome k _) rfl (sets ..)
          · rfl
        · rfl
      case h_2 a rest _ =>
        split
        case h_1 => exact ((sameDies_tryWay (s.setTxn k _) k _).trans (victims _ _)).trans (ih _ _)
        case h_2 _ _ fwds read _ =>
          refine SameDies.trans ?_ (ih _ _)
          refine (sameDies_sendFwds s k { t.req with line := line } fwds).trans ?_
          cases read <;> rfl
        case h_3 => exact .ite (sets ..) rfl
        case h_4 => exact sets ..
        case h_5 =>
          split
          · exact sets ..
          · rfl
        case h_6 => exact (sameDies_homeReply ..).trans ((sameDies_setTxn ..).trans (ih _ _))
        case h_7 => exact .ite (sets ..) (.ite (sets ..) rfl)

theorem sameDies_homeGo (line : Nat) : SameDies s (s.homeGo k line) := sameDies_homeRun ..

theorem sameDies_wayFreed : SameDies s (s.wayFreed k) :=
  .forEach (fun t l => ((sameDies_tryAgain t k l).trans (.forEach (fun u v => sameDies_homeGo u k v) _ _)).trans (sameDies_homeGo ..)) _ _

/-! ### Set recovery and acceptance (R148, R149, R153) -/

theorem sameDies_logE (cls : ErrClass) (src : ErrSource) (why : ErrReason) (unit addr : Nat) (hue : BitVec 12) (info aux : Nat)
    (trap fence : Bool) : SameDies s (s.logE cls src why unit addr hue info aux trap fence) := rfl

theorem sameDies_linkSend (c : Nat) (m : Msg) : SameDies s (s.linkSend c m) := rfl

theorem sameDies_recoverGo (set : Nat) : SameDies s (s.recoverGo k set) := by
  unfold State.recoverGo
  dsimp only
  split
  · exact .refl s
  · refine .ite (.ite (.refl s) ?_) (.ite rfl (.refl s))
    exact SameDies.trans (t := s.setHome k _) rfl (.forEach (f := fun s a => s.linkSend (a - 14) _) (fun t a => sameDies_linkSend t _ _) _ _)

theorem sameDies_recoverStart (set : Nat) : SameDies s (s.recoverStart k set) := by
  unfold State.recoverStart
  dsimp only
  refine SameDies.trans ?_ (sameDies_recoverGo ..)
  split <;> rfl

theorem sameDies_readSet (set : Nat) : SameDies s (s.readSet k set) := .ite rfl (.refl s)

theorem sameDies_homeBegin (m : Msg) : SameDies s (s.homeBegin k m) := by
  unfold State.homeBegin
  split
  · rfl
  · extract_lets set u x v
    have read : SameDies s u := sameDies_readSet ..
    split
    · exact read.trans (SameDies.trans (t := u.setHome k _) rfl (sameDies_recoverStart ..))
    · exact read.trans (SameDies.trans (t := u.setHome k _) rfl (sameDies_homeGo ..))

theorem sameDies_homeTake (m : Msg) : SameDies s (s.homeTake k m) := by
  unfold State.homeTake
  extract_lets u x
  have counted : SameDies s u := sameDies_uncount ..
  split
  · exact counted.trans rfl
  · split
    · exact counted.trans rfl
    · exact counted.trans (SameDies.trans (t := u.setHome k _) rfl (sameDies_homeBegin ..))

theorem sameDies_homeUnhold : SameDies s (s.homeUnhold k) := by
  unfold State.homeUnhold
  dsimp only
  split
  · exact .refl s
  · refine SameDies.trans (SameDies.trans (t := s.setHome k _) rfl (.forEach (fun t m => ?_) _ _))
      (SameDies.trans (t := State.setHome _ k _) rfl (.forEach (fun t m => ?_) _ _))
    · split
      · exact sameDies_homeTake ..
      · rfl
    · split
      · exact sameDies_wbBegin ..
      · rfl

theorem sameDies_homeSettle : SameDies s (s.homeSettle k) := by
  unfold State.homeSettle
  exact ((SameDies.forEach (fun t (r : Recovery) => sameDies_recoverGo t k r.set) _ s).trans (sameDies_wayFreed ..)).trans
    (sameDies_homeUnhold ..)

/-! ### Agents that do not answer (R173, R505) -/

theorem sameDies_wbClose (line agent : Nat) : SameDies s (s.wbClose k line agent) := by
  unfold State.wbClose
  extract_lets x mine
  have acks (u : State) (w : WbTrk) :
      SameDies u ((u.homeReply k w.msg .wbAck 0 none).uncount (32 + k) 0x06 1 w.msg.hue w.msg.cls) :=
    (sameDies_homeReply ..).trans (sameDies_uncount ..)
  exact SameDies.trans (t := s.setHome k _) rfl (.forEach acks _ _)

theorem sameDies_homeExpire (line agent : Nat) : SameDies s (s.homeExpire k line agent) := by
  unfold State.homeExpire
  split
  · exact .refl s
  · split
    · exact (((sameDies_setTxn ..).trans (sameDies_wbClose ..)).trans (sameDies_homeGo ..)).trans (sameDies_homeSettle ..)
    · exact .refl s

theorem sameDies_homeForget (agent : Nat) : SameDies s (s.homeForget k agent) := by
  unfold State.homeForget
  extract_lets lines u v x w
  have expired : SameDies s u := .forEach (fun t l => sameDies_homeExpire t k l agent) _ s
  have completed : SameDies u v := by
    refine .forEach (fun t l => ?_) _ u
    split
    · split
      · exact (sameDies_setTxn ..).trans (sameDies_homeGo ..)
      · exact .refl t
    · exact .refl t
  exact (expired.trans completed).trans (SameDies.trans (t := w) rfl (sameDies_homeSettle ..))

end

/-! ### Events, the sideband and the census (R200, R290, R374, R388, R408, R411) -/

section
variable (s : State)

theorem sameDies_event (code : Nat) (result : Bytes) : SameDies s (s.event code result) := by
  unfold State.event State.eventTo
  refine .forEach (fun t m => ?_) _ _
  split <;> rfl

theorem sameDies_pdrTouch : SameDies s s.pdrTouch := by
  unfold State.pdrTouch
  extract_lets g
  exact SameDies.trans (t := s.upPdr fun p => { p with gen := g }) rfl (sameDies_event ..)

theorem sameDies_upService (f : ServiceState → ServiceState) : SameDies s (s.upService f) := rfl

theorem sameDies_hartCtl (d : Nat) (op : Byte) (harts : Nat) : SameDies s (s.hartCtl d op harts) := by
  unfold State.hartCtl State.sbSend
  exact .ite rfl (.ite rfl rfl)

theorem sameDies_countsLost (d : Nat) : SameDies s (s.countsLost d) := by
  refine .forEach (fun t h => ?_) _ _
  refine .ite rfl ?_
  dsimp only
  split <;> rfl

theorem sameDies_answer (i st detail : Nat) (result : Bytes) : SameDies s (s.answer i st detail result) := by
  unfold State.answer
  dsimp only
  split
  · rfl
  · split <;> rfl

theorem sameDies_pick (l : List (Nat × Nat)) : SameDies s (s.pick l).2 := by
  unfold State.pick
  split <;> rfl

theorem sameDies_unknowns (iss : Issuer) (n : Nat) : SameDies s (s.unknowns iss n) := by
  induction n generalizing s with
  | zero => exact .refl s
  | succ n ih =>
    unfold State.unknowns
    split
    · exact .refl s
    · exact .ite (.refl s) (((sameDies_pick ..).trans (sameDies_answer ..)).trans (ih _))

theorem sameDies_censusEnd : SameDies s s.censusEnd := by
  unfold State.censusEnd
  extract_lets k u
  split
  · split
    · exact SameDies.trans (t := u) rfl (sameDies_event ..)
    · rfl
  · rfl

theorem sameDies_bisectEnd (st : Nat) (result : Bytes) : SameDies s (s.bisectEnd st result) := by
  unfold State.bisectEnd
  split
  · rfl
  · exact SameDies.trans (t := s.upCensus _) rfl ((sameDies_answer ..).trans (sameDies_unknowns ..))

theorem sameDies_dieGone (d : Nat) : SameDies s (s.dieGone d) := by
  unfold State.dieGone
  extract_lets u
  have ended : SameDies s u := SameDies.trans (t := s.upCensus _) rfl (sameDies_censusEnd _)
  split
  · split
    · exact ended.trans (sameDies_bisectEnd ..)
    · exact ended
  · exact ended

end

/-! ### The fence -/

/-- Whatever its state before, a die that was fenced stands as fenced. -/
theorem State.fenceDie_dieFenced (s : State) (d : Nat) (src : ErrSource) (why : ErrReason) (unit : Nat) :
    (s.fenceDie d src why unit).dieFenced d = true := by
  unfold State.fenceDie
  extract_lets u v w x
  split
  next fenced => exact fenced
  next =>
    have marked : (s.setDieStatus d 2).dieFenced d = true := by simp [State.dieFenced]
    have shown : SameDies (s.setDieStatus d 2) u := sameDies_pdrTouch _
    have logged : SameDies u v := sameDies_logE ..
    have held : SameDies v w := (sameDies_hartCtl ..).trans (sameDies_countsLost ..)
    have served : SameDies w x := sameDies_upService ..
    have answered := (SameDies.forEach (fun t k => sameDies_homeForget t k d) (List.range 32) x).trans (sameDies_dieGone _ d)
    exact ((((shown.trans logged).trans held).trans served).trans answered).dieFenced d |>.trans marked

/-- An answer that a compute die owes a transaction, and whose timer expires, fences the die (R173). -/
theorem fwdTmoExpiry_completes {s : State} {k : Fin 32} {line : Nat} {d : Fin 12} {t0 : Txn} (hl : s.clocked = true)
    (found : (s.home k.val).txn line = some t0) (owed : ∃ a ∈ t0.acks, a.agent = d.val) :
    Completes (.fwdTmoExpiry k line d.val) s fun t => t.dieFenced d.val = true := by
  have runs : exec (.fwdTmoExpiry k line d.val) s = execFwdTmoExpiry k line d.val s := rfl
  obtain ⟨a, mem, agent⟩ := owed
  have owes : ((s.home k.val).txn line).any (fun t => t.acks.any fun a => a.agent = d.val) = true := by
    rw [found]
    exact List.any_eq_true.2 ⟨a, mem, decide_eq_true agent⟩
  rw [Completes, runs, execFwdTmoExpiry, live, if_pos hl]
  simp only [owes, Bool.not_true, Bool.false_and, Bool.false_eq_true, if_false, if_pos d.isLt]
  exact ⟨_, rfl, State.fenceDie_dieFenced ..⟩

end Sys2Proof.Machine
end

section
/-! I/O accesses, MSIs and timers that expire, put together (R173, R190, R192, R272, R275). -/

namespace Sys2Proof.Machine

/-- Settles O19, by what each access finds at its address, each answer at its hart and each timer at its agent. -/
theorem inputOutputAccessesAreAnswered : Obligations.InputOutputAccessesAreAnswered := by
  unfold Obligations.InputOutputAccessesAreAnswered
  refine ⟨?meter, ?msi, fun m h s hl hc => msiwr_completes hl hc, ?hart, ?register, ?forward⟩
  case meter =>
    intro h n m s clocked whole present index client size pa
    have address (base : Nat) : base + 0x40300000 + n.val * 8 = base + 0x40000000 + (0x300000 + n.val * 8) := by omega
    have own : s.OwnAccess h m (0x300000 + n.val * 8) := ⟨clocked, whole, present, index, client, size, pa.trans (address ..), by omega⟩
    exact iord_meter_completes own
  case msi =>
    intro h q m s clocked whole present index client size pa
    have address (base : Nat) :
        base + 0x40200000 + q.val * 0x1000 + 0x28 = base + 0x40000000 + (0x200000 + q.val * 0x1000 + 0x28) := by omega
    have own : s.OwnAccess h m (0x200000 + q.val * 0x1000 + 0x28) :=
      ⟨clocked, whole, present, index, client, size, pa.trans (address ..), by omega⟩
    exact iowr_msiAddr_completes own
  case hart =>
    intro h io w s hl late access waiting issued pas front ctl
    have one : s.OneAccess h io w := ⟨access, waiting, issued, pas, front, ctl⟩
    exact ⟨fun _ _ _ _ _ only ho _ hr => iorddata_completes hl late one only ho hr,
      fun _ _ _ only ho hw => iowrack_completes hl late one only ho hw,
      fun _ _ _ ho hw => ioTmoExpiry_completes hl late one ho hw⟩
  case register => exact fun d n s hl hq hk only late sent empty hc => reqTmoExpiry_completes hl hq hk only late sent empty hc
  case forward => exact fun k line d t0 s hl found owed _ => fwdTmoExpiry_completes hl found owed

end Sys2Proof.Machine
end

section
/-! What the steps of the home slices can change (R148, R155, R159, R173): the homes themselves, the messages on their way, memory's
requests, the hub and cascade links they send on, the log and the uncore counters, and nothing else. -/

namespace Sys2Proof.Machine

/-- `s` with all that a home slice's steps reach taken from `t`. -/
def State.withHomes (s t : State) : State :=
  { s with fab := { s.fab with homes := t.fab.homes, net := t.fab.net }, mem := t.mem,
           mgmt := { s.mgmt with unc := t.mgmt.unc, log := t.mgmt.log, casc := { s.mgmt.casc with links := t.mgmt.casc.links } } }

/-- From `s` to `t` only what a home slice's steps reach has changed. -/
def HomeSide (s t : State) : Prop := t = s.withHomes t

theorem HomeSide.refl (s : State) : HomeSide s s := rfl

theorem HomeSide.trans {s t u : State} (a : HomeSide s t) (b : HomeSide t u) : HomeSide s u := by
  have outer : t.withHomes u = (s.withHomes t).withHomes u := congrArg (State.withHomes · u) a
  exact Eq.trans b outer

theorem HomeSide.forEach {α : Type} {f : State → α → State} (hf : ∀ t a, HomeSide t (f t a)) (l : List α) (s : State) :
    HomeSide s (s.forEach l f) :=
  State.forEach_keeps (HomeSide s) (fun t a _ h => h.trans (hf t a)) (.refl s)

theorem HomeSide.ite {c : Prop} [Decidable c] {s t u : State} (a : HomeSide s t) (b : HomeSide s u) :
    HomeSide s (if c then t else u) := by
  split
  · exact a
  · exact b

section
variable (s : State) (k : Nat)

/-! ### The parts that the steps write -/

theorem homeSide_setHome (x : HomeState) : HomeSide s (s.setHome k x) := rfl

theorem homeSide_setTxn (t : Txn) : HomeSide s (s.setTxn k t) := rfl

theorem homeSide_homeReply (m : Msg) (op : Op) (flag : BitVec 2) (d : Option (Bytes × Bool)) : HomeSide s (s.homeReply k m op flag d) :=
  rfl

theorem homeSide_linkSend (c : Nat) (m : Msg) : HomeSide s (s.linkSend c m) := rfl

theorem homeSide_uncount (u c n : Nat) (hue : BitVec 12) (cls : BitVec 3) (f : Bool) : HomeSide s (s.uncount u c n hue cls f) :=
  .ite (.refl s) rfl


/-! ### A home's transactions (R155, R159, R161) -/

theorem homeSide_sendFwd (m : Msg) (agent : Nat) (op : Op) : HomeSide s (s.sendFwd k m agent op) := (homeSide_uncount s ..).trans rfl

theorem homeSide_wbBegin (m : Msg) : HomeSide s (s.wbBegin k m) := by
  have ack : HomeSide s ((s.homeReply k m .wbAck 0 none).uncount (32 + k) 0x06 1 m.hue m.cls) :=
    (homeSide_homeReply ..).trans (homeSide_uncount ..)
  unfold State.wbBegin
  extract_lets x owner acks recovering
  split
  · exact .ite rfl (.ite rfl ack)
  · exact .ite (.ite rfl ack) (.ite rfl ack)

theorem homeSide_wbAgain (line : Nat) : HomeSide s (s.wbAgain k line) :=
  (homeSide_setHome s k _).trans (.forEach (f := fun t (w : WbTrk) => t.wbBegin k w.msg) (fun t _ => homeSide_wbBegin t k _) _ _)

theorem homeSide_tryWay (t : Txn) : HomeSide s (s.tryWay k t) := by
  unfold State.tryWay
  dsimp only
  split
  · rfl
  · split
    · rfl
    · split
      · rfl
      · split
        · rfl
        · exact (homeSide_uncount s ..).trans rfl

theorem homeSide_tryAgain (line : Nat) : HomeSide s (s.tryAgain k line) := by
  unfold State.tryAgain
  split
  · exact .ite (homeSide_tryWay ..) (.refl s)
  · exact .refl s

theorem homeSide_homeRun (line fuel : Nat) : HomeSide s (s.homeRun k line fuel) := by
  induction fuel generalizing s line with
  | zero => exact .refl s
  | succ fuel ih =>
    have stored (u : State) (t : Txn) (l : Nat) : HomeSide u ((u.setTxn k t).homeRun k l fuel) := (homeSide_setTxn u k t).trans (ih _ _)
    have victims (u : State) (l : List Nat) : HomeSide u (u.forEach l fun s v => s.homeRun k v fuel) := .forEach (fun t v => ih t v) _ _
    have waiter (u : State) (l : Nat) :
        HomeSide u (((u.tryAgain k l).forEach (((u.tryAgain k l).home k).victimsOf l) fun s v => s.homeRun k v fuel).homeRun k l fuel) :=
      ((homeSide_tryAgain u k l).trans (victims ..)).trans (ih _ _)
    unfold State.homeRun
    split
    case h_1 => exact .refl s
    case h_2 r _ =>
      refine .ite (.refl s) ?_
      dsimp only
      split
      case h_1 =>
        refine (HomeSide.trans ?_ (.forEach waiter _ _)).trans (homeSide_wbAgain ..)
        split
        · split
          · exact (homeSide_setHome s k _).trans (stored ..)
          · rfl
        · rfl
      case h_2 a rest _ =>
        split
        case h_1 => exact (((homeSide_setTxn ..).trans (homeSide_tryWay ..)).trans (victims ..)).trans (ih _ _)
        case h_2 _ _ fwds read _ =>
          have sent := HomeSide.forEach (fun t (f : Nat × Op) => homeSide_sendFwd t k { r.req with line := line } f.1 f.2) fwds s
          refine (sent.trans ?_).trans (ih _ _)
          cases read <;> rfl
        case h_3 => exact .ite (stored ..) rfl
        case h_4 => exact stored ..
        case h_5 =>
          split
          · exact stored ..
          · rfl
        case h_6 => exact (homeSide_homeReply ..).trans (stored ..)
        case h_7 => exact .ite (stored ..) (.ite (stored ..) rfl)

theorem homeSide_homeGo (line : Nat) : HomeSide s (s.homeGo k line) := homeSide_homeRun ..

theorem homeSide_wayFreed : HomeSide s (s.wayFreed k) :=
  .forEach (fun t l => ((homeSide_tryAgain t k l).trans (.forEach (fun u v => homeSide_homeGo u k v) _ _)).trans (homeSide_homeGo ..)) _ _

/-! ### Set recovery and acceptance (R148, R149, R153) -/

theorem homeSide_recoverGo (set : Nat) : HomeSide s (s.recoverGo k set) := by
  unfold State.recoverGo
  dsimp only
  split
  · exact .refl s
  · refine .ite (.ite (.refl s) ?_) (.ite rfl (.refl s))
    exact (homeSide_setHome s k _).trans (.forEach (f := fun s a => s.linkSend (a - 14) _) (fun t a => homeSide_linkSend t _ _) _ _)

theorem homeSide_recoverStart (set : Nat) : HomeSide s (s.recoverStart k set) := by
  unfold State.recoverStart
  dsimp only
  refine HomeSide.trans ?_ (homeSide_recoverGo ..)
  split <;> rfl

theorem homeSide_homeBegin (m : Msg) : HomeSide s (s.homeBegin k m) := by
  unfold State.homeBegin
  split
  · rfl
  · extract_lets set u x v
    have read : HomeSide s u := .ite rfl (.refl s)
    split
    · exact (read.trans (homeSide_setHome u k _)).trans (homeSide_recoverStart ..)
    · exact (read.trans (homeSide_setHome u k _)).trans (homeSide_homeGo ..)

theorem homeSide_homeTake (m : Msg) : HomeSide s (s.homeTake k m) := by
  unfold State.homeTake
  extract_lets u x
  refine (homeSide_uncount s ..).trans (.ite rfl (.ite rfl ?_))
  exact (homeSide_setHome u k _).trans (homeSide_homeBegin ..)

theorem homeSide_homeUnhold : HomeSide s (s.homeUnhold k) := by
  unfold State.homeUnhold
  dsimp only
  refine .ite (.refl s) (HomeSide.trans ?_ (HomeSide.trans (homeSide_setHome _ k _) (.forEach (fun t m => ?_) _ _)))
  · refine (homeSide_setHome s k _).trans (.forEach (fun t m => ?_) _ _)
    exact .ite (homeSide_homeTake ..) rfl
  · exact .ite (homeSide_wbBegin ..) rfl

theorem homeSide_homeSettle : HomeSide s (s.homeSettle k) :=
  ((HomeSide.forEach (fun t (r : Recovery) => homeSide_recoverGo t k r.set) _ s).trans (homeSide_wayFreed ..)).trans
    (homeSide_homeUnhold ..)

/-! ### Agents that do not answer (R173, R505) -/

theorem homeSide_wbClose (line agent : Nat) : HomeSide s (s.wbClose k line agent) :=
  (homeSide_setHome s k _).trans (.forEach (fun _ _ => (homeSide_homeReply ..).trans (homeSide_uncount ..)) _ _)

theorem homeSide_homeExpire (line agent : Nat) : HomeSide s (s.homeExpire k line agent) := by
  unfold State.homeExpire
  split
  · exact .refl s
  · refine .ite ?_ (.refl s)
    exact (((homeSide_setTxn ..).trans (homeSide_wbClose ..)).trans (homeSide_homeGo ..)).trans (homeSide_homeSettle ..)

theorem homeSide_homeForget (agent : Nat) : HomeSide s (s.homeForget k agent) := by
  unfold State.homeForget
  extract_lets lines u v x w
  have expired : HomeSide s u := .forEach (fun t l => homeSide_homeExpire t k l agent) _ s
  have completed : HomeSide u v := by
    refine .forEach (fun t l => ?_) _ u
    split
    · exact .ite ((homeSide_setTxn ..).trans (homeSide_homeGo ..)) (.refl t)
    · exact .refl t
  exact ((expired.trans completed).trans (homeSide_setHome v k _)).trans (homeSide_homeSettle ..)

end
end Sys2Proof.Machine
end

section
/-! What is left alone of the Weld ports and cascade links by what happens elsewhere, and by frames that are queued for sending (R200, R219,
R477, R505). -/

namespace Sys2Proof.Machine

/-! ### Mordant's steps, which leave the fabric as it is (R374, R388, R408, R411) -/

section
variable (s : State)

@[simp] theorem State.event_fab (code : Nat) (result : Bytes) : (s.event code result).fab = s.fab :=
  State.forEach_keeps (fun t => t.fab = s.fab) (fun t m _ h => by split <;> exact h) rfl

@[simp] theorem State.pdrTouch_fab : s.pdrTouch.fab = s.fab := State.event_fab ..

@[simp] theorem State.logE_fab (cls : ErrClass) (src : ErrSource) (why : ErrReason) (unit addr : Nat) (hue : BitVec 12) (info aux : Nat)
    (trap fence : Bool) : (s.logE cls src why unit addr hue info aux trap fence).fab = s.fab := rfl

@[simp] theorem State.weldLog_fab (cls : ErrClass) (why : ErrReason) (p k : Nat) : (s.weldLog cls why p k).fab = s.fab := by
  unfold State.weldLog
  split <;> rfl

theorem State.answer_fab (i st detail : Nat) (result : Bytes) : (s.answer i st detail result).fab = s.fab := by
  unfold State.answer
  dsimp only
  split
  · rfl
  · split <;> rfl

theorem State.unknowns_fab (iss : Issuer) (n : Nat) : (s.unknowns iss n).fab = s.fab := by
  induction n generalizing s with
  | zero => rfl
  | succ n ih =>
    have picked (l : List (Nat × Nat)) : (s.pick l).2.fab = s.fab := by unfold State.pick; split <;> rfl
    unfold State.unknowns
    split
    · rfl
    · split
      · rfl
      · exact (ih _).trans ((State.answer_fab ..).trans (picked _))

theorem State.censusEnd_fab : s.censusEnd.fab = s.fab := by
  unfold State.censusEnd
  extract_lets k u
  split
  · split
    · exact State.event_fab ..
    · rfl
  · rfl

theorem State.bisectEnd_fab (st : Nat) (result : Bytes) : (s.bisectEnd st result).fab = s.fab := by
  unfold State.bisectEnd
  split
  · rfl
  · exact (State.unknowns_fab ..).trans (State.answer_fab ..)

theorem State.dieGone_fab (d : Nat) : (s.dieGone d).fab = s.fab := by
  unfold State.dieGone
  extract_lets u
  have ended : u.fab = s.fab := State.censusEnd_fab _
  split
  · split
    · exact (State.bisectEnd_fab ..).trans ended
    · exact ended
  · exact ended

end

/-! ### The ports as they are -/

/-- From `s` to `t` nothing of the ports has changed. -/
def SamePorts (s t : State) : Prop := t.fab.ports = s.fab.ports

theorem SamePorts.refl (s : State) : SamePorts s s := rfl

theorem SamePorts.trans {s t u : State} (a : SamePorts s t) (b : SamePorts t u) : SamePorts s u := Eq.trans b a

theorem SamePorts.forEach {α : Type} {f : State → α → State} (hf : ∀ t a, SamePorts t (f t a)) (l : List α) (s : State) :
    SamePorts s (s.forEach l f) :=
  State.forEach_keeps (SamePorts s) (fun t a _ h => h.trans (hf t a)) (.refl s)

theorem SamePorts.ite {c : Prop} [Decidable c] {s t u : State} (a : SamePorts s t) (b : SamePorts s u) :
    SamePorts s (if c then t else u) := by
  split
  · exact a
  · exact b

theorem SamePorts.of_fab {s t : State} (h : t.fab = s.fab) : SamePorts s t := congrArg Fabric.ports h

theorem HomeSide.samePorts {s t : State} (h : HomeSide s t) : SamePorts s t :=
  (congrArg (fun u : State => u.fab.ports) h : t.fab.ports = (s.withHomes t).fab.ports)

theorem SamePorts.port {s t : State} (h : SamePorts s t) (p : Nat) : t.port p = s.port p :=
  congrArg (fun x => Table.get ({} : PortState) x p) h

section
variable (s : State)

theorem samePorts_setCascLink (c : Nat) (x : CascLink) : SamePorts s (s.setCascLink c x) := rfl

theorem samePorts_proxyReply (c : Nat) (m : Msg) (op : Op) (flag : BitVec 2) : SamePorts s (s.proxyReply c m op flag) := rfl

theorem samePorts_setDieStatus (d v : Nat) : SamePorts s (s.setDieStatus d v) := rfl

theorem samePorts_upService (f : ServiceState → ServiceState) : SamePorts s (s.upService f) := rfl

theorem samePorts_upCasc (f : CascState → CascState) : SamePorts s (s.upCasc f) := rfl

theorem samePorts_logE (cls : ErrClass) (src : ErrSource) (why : ErrReason) (unit addr : Nat) (hue : BitVec 12) (info aux : Nat)
    (trap fence : Bool) : SamePorts s (s.logE cls src why unit addr hue info aux trap fence) := rfl

theorem samePorts_pdrTouch : SamePorts s s.pdrTouch := .of_fab s.pdrTouch_fab

theorem samePorts_homesForget (agent : Nat) : SamePorts s (s.forEach (List.range 32) fun s k => s.homeForget k agent) :=
  (HomeSide.forEach (fun t k => homeSide_homeForget t k agent) _ s).samePorts

theorem samePorts_countsLost (d : Nat) : SamePorts s (s.countsLost d) := by
  refine .forEach (fun t h => ?_) _ _
  dsimp only
  split
  · rfl
  · split <;> rfl

theorem samePorts_memberLost (p : Nat) : SamePorts s (s.memberLost p) := by
  unfold State.memberLost
  extract_lets c u v w x y open_ z
  split
  · rfl
  · have touched : SamePorts s v := .of_fab (State.pdrTouch_fab u)
    have forgotten : SamePorts v w := samePorts_homesForget ..
    have answered : SamePorts w z := (samePorts_setCascLink w ..).trans (.forEach (fun t m => samePorts_proxyReply t ..) _ y)
    have lost := (touched.trans forgotten).trans answered
    exact .ite (lost.trans (samePorts_logE z ..)) (.ite (lost.trans (samePorts_upCasc z _)) lost)

theorem samePorts_lose (q : Packet) : SamePorts s (s.lose q) := by
  unfold State.lose
  split <;> rfl

theorem samePorts_ringPoison (r : RingId) (p : Slot) : SamePorts s (s.ringPoison r p) := by
  unfold State.ringPoison
  dsimp only
  split
  · rfl
  · split
    · split <;> exact samePorts_lose ..
    · split <;> exact samePorts_lose ..
    · rfl
    · rfl
    · rfl

theorem samePorts_ringOnto (r : RingId) (stop : Nat) (p : Slot) : SamePorts s (s.ringOnto r stop p) := by
  have joins (u : State) (q : Packet) : SamePorts u (u.join q) := by unfold State.join; split <;> rfl
  unfold State.ringOnto State.ringEject
  refine SamePorts.trans ?_ rfl
  refine (samePorts_ringPoison s r p).trans ?_
  dsimp only
  split
  · rfl
  · split
    · rfl
    · exact joins ..

theorem samePorts_uncount (u c n : Nat) (hue : BitVec 12) (cls : BitVec 3) (f : Bool) : SamePorts s (s.uncount u c n hue cls f) :=
  (homeSide_uncount s ..).samePorts

end

/-! ### The links as they are, whatever the sidebands have queued -/

/-- From `s` to `t` a port's training is as it was: of the ports only bundles and sideband ends may have changed. -/
def SameTraining (s t : State) : Prop :=
  ∀ p, t.port p = { s.port p with bundles := (t.port p).bundles, sbHub := (t.port p).sbHub, sbDie := (t.port p).sbDie }

/-- From `s` to `t` every bundle is as it was too: of the ports only sideband ends may have changed. -/
structure SameLinks (s t : State) : Prop where
  training : SameTraining s t
  bundle : ∀ p k, t.bundle p k = s.bundle p k

theorem SameTraining.refl (s : State) : SameTraining s s := fun _ => rfl

theorem SameTraining.trans {s t u : State} (a : SameTraining s t) (b : SameTraining t u) : SameTraining s u := fun p => by
  rw [b p, a p]

section
variable {s t : State} (a : SameTraining s t) (p : Nat)
include a

theorem SameTraining.step : (t.port p).step = (s.port p).step := by rw [a p]
theorem SameTraining.version : (t.port p).version = (s.port p).version := by rw [a p]
theorem SameTraining.sbLost : (t.port p).sbLost = (s.port p).sbLost := by rw [a p]
theorem SameTraining.plls : (t.port p).plls = (s.port p).plls := by rw [a p]
theorem SameTraining.resets : (t.port p).resets = (s.port p).resets := by rw [a p]

end

theorem SamePorts.links {s t : State} (h : SamePorts s t) : SameLinks s t where
  training p := by rw [h.port p]
  bundle p k := by simp only [State.bundle, h.port p]

theorem SameLinks.refl (s : State) : SameLinks s s := (SamePorts.refl s).links

theorem SameLinks.trans {s t u : State} (a : SameLinks s t) (b : SameLinks t u) : SameLinks s u :=
  ⟨a.training.trans b.training, fun p k => (b.bundle p k).trans (a.bundle p k)⟩

theorem SameLinks.ite {c : Prop} [Decidable c] {s t u : State} (a : SameLinks s t) (b : SameLinks s u) :
    SameLinks s (if c then t else u) := by
  split
  · exact a
  · exact b

section
variable (s : State)

theorem State.bundle_setPort (p q k : Nat) (x : PortState) :
    (s.setPort p x).bundle q k = if q = p then Table.get {} x.bundles k else s.bundle q k := by
  simp only [State.bundle, State.port_setPort]
  split <;> rfl

/-- A bundle after a write: the value written there, and what was there before anywhere else. -/
@[simp] theorem State.bundle_setBundle (p q k j : Nat) (b : BundleState) :
    (s.setBundle p k b).bundle q j = if q = p ∧ j = k then b else s.bundle q j := by
  simp only [State.setBundle, State.bundle_setPort, Table.get_put]
  by_cases hq : q = p
  · subst hq
    simp only [if_true, true_and, State.bundle]
  · simp only [hq, if_false, false_and]

theorem sameTraining_setBundle (p k : Nat) (b : BundleState) : SameTraining s (s.setBundle p k b) := fun q => by
  simp only [State.setBundle, State.port_setPort]
  split
  · subst_vars; rfl
  · rfl

/-- A port whose sideband ends alone are written. -/
theorem sameLinks_setSides (p : Nat) (x y : SbEnd) : SameLinks s (s.setPort p { s.port p with sbHub := x, sbDie := y }) where
  training q := by
    simp only [State.port_setPort]
    split
    · subst_vars; rfl
    · rfl
  bundle q k := by
    rw [State.bundle_setPort]
    split
    · subst_vars; rfl
    · rfl

theorem sameLinks_sbSend (p : Nat) (fromHub : Bool) (typ : Byte) (payload : Bytes) : SameLinks s (s.sbSend p fromHub typ payload) := by
  unfold State.sbSend
  exact .ite (.refl s) (.ite (sameLinks_setSides ..) (sameLinks_setSides ..))

theorem sameLinks_identSend (p : Nat) : SameLinks s (s.identSend p) := (sameLinks_sbSend ..).trans (sameLinks_sbSend ..)

theorem sameLinks_weldLog (cls : ErrClass) (why : ErrReason) (p k : Nat) : SameLinks s (s.weldLog cls why p k) :=
  (SamePorts.of_fab (State.weldLog_fab ..)).links

theorem sameLinks_pdrTouch : SameLinks s s.pdrTouch := (SamePorts.of_fab (State.pdrTouch_fab s)).links

/-- Fencing a die changes of its port only what the sideband has to send (R505). -/
theorem sameLinks_fenceDie (d : Nat) (src : ErrSource) (why : ErrReason) (unit : Nat) : SameLinks s (s.fenceDie d src why unit) := by
  unfold State.fenceDie
  extract_lets u v w x
  split
  · exact .refl s
  · have logged : SamePorts s v := ((samePorts_setDieStatus s d 2).trans (samePorts_pdrTouch ..)).trans (samePorts_logE u ..)
    have held : SameLinks v w := (sameLinks_sbSend v ..).trans (samePorts_countsLost ..).links
    have forgotten := (samePorts_upService w _).trans (samePorts_homesForget x d)
    exact (logged.links.trans held).trans (forgotten.trans (.of_fab (State.dieGone_fab ..))).links

/-- What follows the loss of a bundle changes of the links only what the sideband has to send (R225, R465, R476). -/
theorem sameLinks_portCheck (p k : Nat) : SameLinks s (s.portCheck p k) := by
  unfold State.portCheck
  exact .ite (.ite (.refl s) (sameLinks_fenceDie ..)) (.ite (samePorts_memberLost ..).links (.refl s))

end

/-- The same write of a bundle in two states with the same links. -/
theorem SameLinks.setBundle {s t : State} (a : SameLinks s t) (p k : Nat) (b : BundleState) :
    SameLinks (s.setBundle p k b) (t.setBundle p k b) where
  training q := by
    rw [sameTraining_setBundle t p k b q, a.training q, sameTraining_setBundle s p k b q]
  bundle q j := by simp only [State.bundle_setBundle, a.bundle]

/-- Of two writes of a bundle the second holds. -/
theorem sameLinks_setBundle_twice (s : State) (p k : Nat) (b c : BundleState) :
    SameLinks (s.setBundle p k c) ((s.setBundle p k b).setBundle p k c) where
  training q := by
    rw [sameTraining_setBundle _ p k c q, sameTraining_setBundle s p k b q, sameTraining_setBundle s p k c q]
  bundle q j := by
    simp only [State.bundle_setBundle]
    split <;> rfl

theorem sameLinks_setBundle_self (s : State) (p k : Nat) : SameLinks (s.setBundle p k (s.bundle p k)) s where
  training q := by rw [sameTraining_setBundle s p k _ q]
  bundle q j := by
    rw [State.bundle_setBundle]
    split
    · next at_ => rw [at_.1, at_.2]
    · rfl

/-- Where a bundle is written after steps that left another value of it. -/
theorem SameLinks.rewrite {s t : State} {p k : Nat} {b : BundleState} (a : SameLinks (s.setBundle p k b) t) (c : BundleState) :
    SameLinks (s.setBundle p k c) (t.setBundle p k c) :=
  (sameLinks_setBundle_twice s p k b c).trans (a.setBundle p k c)

end Sys2Proof.Machine
end

section
/-! What leaving ACTIVE, retiring, going down and retraining make of a bundle (R216, R219, R220, R222, R225, R226). -/

namespace Sys2Proof.Machine

/-! ### The two ends of a bundle -/

section
variable (b : BundleState) (hub : Bool) (x : EndState)

@[simp] theorem BundleState.me_setMe : (b.setMe hub x).me hub = x := by cases hub <;> rfl
@[simp] theorem BundleState.me_setMe_not : (b.setMe hub x).me (!hub) = b.me (!hub) := by cases hub <;> rfl
@[simp] theorem BundleState.me_not_setMe : (b.setMe (!hub) x).me hub = b.me hub := by cases hub <;> rfl
@[simp] theorem BundleState.setMe_st : (b.setMe hub x).st = b.st := by cases hub <;> rfl
@[simp] theorem BundleState.setMe_width : (b.setMe hub x).width = b.width := by cases hub <;> rfl
@[simp] theorem BundleState.setMe_replays : (b.setMe hub x).replays = b.replays := by cases hub <;> rfl
@[simp] theorem BundleState.setMe_rxLanes (h : Bool) : (b.setMe hub x).rxLanes h = b.rxLanes h := by cases hub <;> rfl

/-- A bundle with other ends. -/
def BundleState.withEnds (b : BundleState) (x y : EndState) : BundleState := { b with hub := x, die := y }

end

section
variable (s : State) (p k : Nat)

/-- Packets that leave a buffer change nothing of the links but that end. -/
theorem sameLinks_bufferOut (hub : Bool) (out : List (BitVec 2 × Slot)) :
    ∃ x, SameLinks (s.setBundle p k ((s.bundle p k).setMe hub x)) (s.bufferOut p k hub out) :=
  ⟨_, (SamePorts.forEach (fun t _ => samePorts_ringOnto t ..) out _).links⟩

/-- A bundle that leaves ACTIVE is changed at its ends alone. -/
theorem sameLinks_leaveActive :
    ∃ x y, SameLinks (s.setBundle p k ((s.bundle p k).withEnds x y)) (s.leaveActive p k) := by
  unfold State.leaveActive
  extract_lets u v b off w
  obtain ⟨x, hu⟩ := sameLinks_bufferOut s p k true ((s.bundle p k).me true).buffer
  obtain ⟨y, hv⟩ := sameLinks_bufferOut u p k false ((u.bundle p k).me false).buffer
  have bundle : b = (s.bundle p k).withEnds x y := by
    have first : u.bundle p k = (s.bundle p k).setMe true x := (hu.bundle p k).trans (by simp)
    have second : b = (u.bundle p k).setMe false y := (hv.bundle p k).trans (by simp)
    rw [second, first]
    rfl
  refine ⟨off b.hub, off b.die, ?_⟩
  have left : SameLinks (s.setBundle p k ((s.bundle p k).withEnds (off b.hub) (off b.die))) w := by
    have e : (s.bundle p k).withEnds (off b.hub) (off b.die) = b.withEnds (off b.hub) (off b.die) := by rw [bundle]; rfl
    rw [e]
    exact (hu.rewrite _).trans (hv.rewrite _)
  exact .ite (left.trans ((sameLinks_sbSend ..).trans (sameLinks_sbSend ..))) left

/-- The state in which a bundle has left ACTIVE, if it was there. -/
def State.offActive (s : State) (p k : Nat) : State := if (s.bundle p k).st = .active then s.leaveActive p k else s

theorem sameLinks_offActive : ∃ x y, SameLinks (s.setBundle p k ((s.bundle p k).withEnds x y)) (s.offActive p k) := by
  unfold State.offActive
  split
  · exact sameLinks_leaveActive ..
  · exact ⟨_, _, sameLinks_setBundle_self ..⟩

/-- The bundle with the cap that retires it. -/
def BundleState.retire (b : BundleState) : BundleState :=
  { b with st := .retired, step := 0, width := 0, cap := .retired, lanesD2H := 0, lanesH2D := 0 }

/-- Where a bundle is written after it has left ACTIVE. -/
theorem sameLinks_offActive_then (f : BundleState → BundleState) : ∃ x y,
    SameLinks (s.setBundle p k (f ((s.bundle p k).withEnds x y))) ((s.offActive p k).setBundle p k (f ((s.offActive p k).bundle p k))) := by
  obtain ⟨x, y, links⟩ := sameLinks_offActive s p k
  have bundle : (s.offActive p k).bundle p k = (s.bundle p k).withEnds x y := (links.bundle p k).trans (by simp)
  exact ⟨x, y, bundle ▸ links.rewrite _⟩

theorem State.bundleRetire_eq : s.bundleRetire p k =
    ((((s.offActive p k).setBundle p k ((s.offActive p k).bundle p k).retire).weldLog .recovered .training p k).pdrTouch).portCheck p k :=
  rfl

/-- A bundle that retires changes nothing else of the links. -/
theorem sameLinks_bundleRetire : ∃ b, SameLinks (s.setBundle p k b) (s.bundleRetire p k) ∧ b.st = .retired ∧ b.cap = .retired := by
  obtain ⟨x, y, written⟩ := sameLinks_offActive_then s p k BundleState.retire
  rw [State.bundleRetire_eq]
  generalize (s.offActive p k).setBundle p k _ = t at *
  have after := ((sameLinks_weldLog t .recovered .training p k).trans (sameLinks_pdrTouch _)).trans (sameLinks_portCheck _ p k)
  exact ⟨_, written.trans after, rfl, rfl⟩

/-- The bundle that is written, where nothing else of the links changes. -/
theorem SameLinks.written {s t : State} {p k : Nat} {b : BundleState} (a : SameLinks (s.setBundle p k b) t) : t.bundle p k = b := by
  rw [a.bundle, State.bundle_setBundle, if_pos ⟨rfl, rfl⟩]

theorem State.bundleRetire_bundle : ((s.bundleRetire p k).bundle p k).st = .retired ∧ ((s.bundleRetire p k).bundle p k).cap = .retired := by
  obtain ⟨b, links, st, cap⟩ := sameLinks_bundleRetire s p k
  rw [links.written]
  exact ⟨st, cap⟩

/-- The bundle without a width. -/
def BundleState.lower (b : BundleState) : BundleState := { b with st := .down, step := 0, width := 0, lanesD2H := 0, lanesH2D := 0 }

/-- What going down leaves of a bundle: it neither carries flits nor trains, a RETIRED one stays so, and its cap stands. -/
structure BundleState.Downed (b c : BundleState) : Prop where
  stopped : c.st = .down ∨ c.st = .retired
  retired : c.st = .retired ↔ b.st = .retired
  cap : c.cap = b.cap
  capCleared : c.capCleared = b.capCleared

theorem sameLinks_bundleDown : ∃ b, SameLinks (s.setBundle p k b) (s.bundleDown p k) ∧ (s.bundle p k).Downed b := by
  have runs : s.bundleDown p k = if (s.bundle p k).st = .active || (s.bundle p k).st = .training then
      (s.offActive p k).setBundle p k ((s.offActive p k).bundle p k).lower else s := rfl
  rw [runs]
  split
  next up =>
    obtain ⟨x, y, written⟩ := sameLinks_offActive_then s p k BundleState.lower
    refine ⟨_, written, .inl rfl, ⟨nofun, fun retired => ?_⟩, rfl, rfl⟩
    rw [retired] at up
    exact absurd up (by decide)
  next idle =>
    refine ⟨_, sameLinks_setBundle_self .., ?_, Iff.rfl, rfl, rfl⟩
    cases h : (s.bundle p k).st
    case down => exact .inl rfl
    case retired => exact .inr rfl
    case training => exact absurd (by simp [h]) idle
    case active => exact absurd (by simp [h]) idle

end

/-! ### The bundles of a port in turn -/

/-- Steps of which each changes the one bundle of its number change every bundle of the port, and nothing of its training. -/
theorem State.forEach_bundles {f : State → Nat → State} {p : Nat} {Q : Nat → BundleState → BundleState → Prop}
    (hf : ∀ t k, ∃ b, SameLinks (t.setBundle p k b) (f t k) ∧ Q k (t.bundle p k) b) (s : State) (n : Nat) :
    SameTraining s (s.forEach (List.range n) f) ∧
      ∀ k, if k < n then Q k (s.bundle p k) ((s.forEach (List.range n) f).bundle p k)
        else (s.forEach (List.range n) f).bundle p k = s.bundle p k := by
  induction n with
  | zero => exact ⟨.refl s, fun k => by simp [State.forEach]⟩
  | succ n ih =>
    obtain ⟨training, each⟩ := ih
    have last : s.forEach (List.range (n + 1)) f = f (s.forEach (List.range n) f) n := by
      simp only [State.forEach, List.range_succ, List.foldl_append, List.foldl_cons, List.foldl_nil]
    obtain ⟨b, links, becomes⟩ := hf (s.forEach (List.range n) f) n
    rw [last]
    generalize s.forEach (List.range n) f = t at *
    refine ⟨(training.trans (sameTraining_setBundle t p n b)).trans links.training, fun k => ?_⟩
    have before := each k
    have written : (f t n).bundle p k = if k = n then b else t.bundle p k := by simp [links.bundle p k]
    rcases lt_trichotomy k n with lt | rfl | gt
    · rw [if_pos (by omega), written, if_neg (by omega)]
      rwa [if_pos lt] at before
    · rw [if_pos (by omega), written, if_pos rfl]
      rw [if_neg (lt_irrefl k)] at before
      exact before ▸ becomes
    · rw [if_neg (by omega), written, if_neg (by omega)]
      rwa [if_neg (by omega)] at before

/-! ### A port that goes down -/

section
variable (s : State) (d : Fin 12)

/-- A port whose bundles are all stopped loses its die (R225). -/
theorem State.portCheck_fences (k : Nat) (h : ∀ j < 4, (s.bundle d.val j).st ≠ .active ∧ (s.bundle d.val j).st ≠ .training) :
    s.portCheck d.val k = s.fenceDie d.val .weld .fenced (d.val * 4 + k) := by
  have still : ((List.range 4).any fun k => (s.bundle d.val k).st = .active || (s.bundle d.val k).st = .training) = false := by
    rw [List.any_eq_false]
    intro j hj
    obtain ⟨ha, ht⟩ := h j (List.mem_range.1 hj)
    simp [ha, ht]
  simp only [State.portCheck, d.isLt, if_true, still, Bool.false_and, Bool.false_eq_true, if_false]

/-- A port that goes down trains no more, and its die is fenced (R219, R225). -/
theorem State.portDown_lost (lost : Bool) : ((s.portDown d lost).port d.val).step = 0 ∧
    ((s.portDown d lost).port d.val).sbLost = (lost || (s.port d.val).sbLost) ∧ (s.portDown d lost).dieFenced d.val = true := by
  have runs : s.portDown d lost = (((s.setPort d.val { s.port d.val with sbLost := lost || (s.port d.val).sbLost, step := 0 }).forEach
      (List.range 4) fun s k => s.bundleDown d.val k).pdrTouch).portCheck d.val 0 := rfl
  have step : ((s.setPort d.val { s.port d.val with sbLost := lost || (s.port d.val).sbLost, step := 0 }).port d.val).step = 0 := by simp
  have side : ((s.setPort d.val { s.port d.val with sbLost := lost || (s.port d.val).sbLost, step := 0 }).port d.val).sbLost =
      (lost || (s.port d.val).sbLost) := by simp
  rw [runs]
  generalize s.setPort d.val _ = u at *
  obtain ⟨training, down⟩ := State.forEach_bundles (Q := fun _ => BundleState.Downed) (fun t k => sameLinks_bundleDown t d.val k) u 4
  generalize (u.forEach (List.range 4) fun s k => s.bundleDown d.val k) = v at *
  have stopped : ∀ j < 4, (v.pdrTouch.bundle d.val j).st ≠ .active ∧ (v.pdrTouch.bundle d.val j).st ≠ .training := by
    intro j hj
    have becomes := down j
    rw [if_pos hj] at becomes
    rw [(sameLinks_pdrTouch v).bundle]
    rcases becomes.stopped with h | h <;> exact ⟨by rw [h]; decide, by rw [h]; decide⟩
  rw [State.portCheck_fences _ _ _ stopped]
  have all : SameTraining u (v.pdrTouch.fenceDie d.val .weld .fenced (d.val * 4 + 0)) :=
    (training.trans (sameLinks_pdrTouch v).training).trans (sameLinks_fenceDie ..).training
  exact ⟨(all.step _).trans step, (all.sbLost _).trans side, State.fenceDie_dieFenced ..⟩

end

/-! ### Training that fails, and field retrains -/

section
variable (s : State) (p k : Nat)

theorem allowX4_eight (cfg : Word) : allowX4 cfg 8 = 8 := by simp [allowX4]

/-- An attempt at step 7 that ends without agreement at ×8 on both sides counts, while it is not the third (R216). -/
theorem State.noAgreement_again (limit : (s.bundle p k).announceLimit = 8) (few : (s.bundle p k).attempts < 2) :
    s.noAgreement p k 8 = s.setBundle p k { s.bundle p k with attempts := (s.bundle p k).attempts + 1 } := by
  have count : min 3 ((s.bundle p k).attempts + 1) = (s.bundle p k).attempts + 1 := by omega
  have another : ¬ 3 ≤ (s.bundle p k).attempts + 1 := by omega
  unfold State.noAgreement
  simp only [limit, Nat.min_self, allowX4_eight, count, another, decide_false, Bool.false_or, Nat.reduceEqDiff, Bool.false_eq_true, if_false]

/-- The third attempt retires the bundle (R216). -/
theorem State.noAgreement_third (n : Nat) (many : (s.bundle p k).attempts = 2) :
    ((s.noAgreement p k n).bundle p k).st = .retired ∧ ((s.noAgreement p k n).bundle p k).cap = .retired := by
  unfold State.noAgreement
  simp only [many, Nat.reduceAdd, Nat.le_refl, decide_true, Bool.true_or, if_true]
  exact State.bundleRetire_bundle ..

/-- The bundle as a field retrain begins. -/
def BundleState.retraining (b : BundleState) (violations : List Word) (lanes : BitVec 9) (now : Word) (limit : Nat) : BundleState :=
  { b with st := .training, step := 3, field := true, violations := violations, failedLanes := b.failedLanes ||| lanes,
           attempts := if (now - b.lastTrained).toNat ≤ 10000000 then b.attempts else 0, announceLimit := limit }

/-- The state as a field retrain begins (R212, R218). -/
def State.retrained (s : State) (p k : Nat) (violations : List Word) (lanes : BitVec 9) (limit : Nat) : State :=
  (((s.leaveActive p k).setBundle p k
    (((s.leaveActive p k).bundle p k).retraining violations lanes (s.leaveActive p k).now limit)).identAgain p).pdrTouch

theorem State.identAgain_bundle (q j : Nat) : (s.identAgain p).bundle q j = s.bundle q j := by
  unfold State.identAgain
  split
  · rw [(sameLinks_identSend ..).bundle, State.bundle_setPort]
    split
    · subst_vars; rfl
    · rfl
  · rfl

theorem State.retrained_bundle (violations : List Word) (lanes : BitVec 9) (limit : Nat) : ∃ x y now,
    (s.retrained p k violations lanes limit).bundle p k = ((s.bundle p k).withEnds x y).retraining violations lanes now limit := by
  obtain ⟨x, y, links⟩ := sameLinks_leaveActive s p k
  have bundle : (s.leaveActive p k).bundle p k = (s.bundle p k).withEnds x y := (links.bundle p k).trans (by simp)
  refine ⟨x, y, (s.leaveActive p k).now, ?_⟩
  rw [State.retrained, (sameLinks_pdrTouch _).bundle, State.identAgain_bundle, State.bundle_setBundle, if_pos ⟨rfl, rfl⟩, bundle]

/-- The violations within the last second (R226). -/
def State.recentViolations (s : State) (p k : Nat) : List Word :=
  (s.bundle p k).violations.filter fun t => (s.now - t).toNat < 100000000

/-- The violations that a bundle remembers as a field retrain begins. -/
def State.violationsWith (s : State) (p k : Nat) (c : RetrainCause) : List Word :=
  if c = .violation then s.recentViolations p k ++ [s.now] else (s.bundle p k).violations

/-- The lanes that a cause of a field retrain names. -/
def retrainLanes (c : RetrainCause) : BitVec 9 := match c with
  | .lockLoss l => l
  | .laneFail l => l
  | _ => 0

theorem State.bundleRetrain_eq (c : RetrainCause) (limit : Nat) : s.bundleRetrain p k c limit =
    if (s.bundle p k).st ≠ .active then s
    else if c = .violation && 3 ≤ (s.violationsWith p k c).length then
      (s.setBundle p k { s.bundle p k with violations := s.violationsWith p k c }).bundleRetire p k
    else if c = .echoMismatch then (s.retrained p k (s.violationsWith p k c) (retrainLanes c) limit).noAgreement p k limit
    else s.retrained p k (s.violationsWith p k c) (retrainLanes c) limit := rfl

theorem State.violationsWith_length : (s.violationsWith p k .violation).length = (s.recentViolations p k).length + 1 := by
  simp only [State.violationsWith, if_true, List.length_append, List.length_singleton]

/-- A bundle trains again from step 3 (R212). -/
def BundleState.Retrains (b : BundleState) : Prop := b.st = .training ∧ b.step = 3 ∧ b.field = true

/-- A field retrain of an ACTIVE bundle, but for one that the third violation or the third attempt retires. -/
theorem State.bundleRetrain_trains {c : RetrainCause} (active : (s.bundle p k).st = .active)
    (few : c = .violation → (s.recentViolations p k).length < 2) (attempts : c = .echoMismatch → (s.bundle p k).attempts < 2) :
    ((s.bundleRetrain p k c).bundle p k).Retrains := by
  obtain ⟨x, y, now, bundle⟩ := s.retrained_bundle p k (s.violationsWith p k c) (retrainLanes c) 8
  have third : ¬ (c = .violation && 3 ≤ (s.violationsWith p k c).length : Bool) := by
    rw [Bool.and_eq_true, decide_eq_true_eq, decide_eq_true_eq]
    rintro ⟨rfl, long⟩
    have := few rfl
    rw [State.violationsWith_length] at long
    omega
  rw [State.bundleRetrain_eq, if_neg (not_not.2 active), if_neg third]
  split
  next mismatch =>
    have again : ((s.retrained p k (s.violationsWith p k c) (retrainLanes c) 8).bundle p k).attempts < 2 := by
      have := attempts mismatch
      rw [bundle]
      show (if _ then (s.bundle p k).attempts else 0) < 2
      split <;> omega
    rw [State.noAgreement_again _ _ _ (by rw [bundle]; rfl) again, State.bundle_setBundle, if_pos ⟨rfl, rfl⟩, bundle]
    exact ⟨rfl, rfl, rfl⟩
  next =>
    rw [bundle]
    exact ⟨rfl, rfl, rfl⟩

theorem State.bundleRetrain_idle (c : RetrainCause) (limit : Nat) (idle : (s.bundle p k).st ≠ .active) :
    s.bundleRetrain p k c limit = s := if_pos idle

/-- After a field retrain for a violation the bundle is not ACTIVE: it trains, or the third violation has retired it (R226). -/
theorem State.bundleRetrain_violation : ((s.bundleRetrain p k .violation).bundle p k).st ≠ .active := by
  by_cases active : (s.bundle p k).st = .active
  · by_cases few : (s.recentViolations p k).length < 2
    · rw [(State.bundleRetrain_trains (c := .violation) s p k active (fun _ => few) nofun).1]
      decide
    · have third : (.violation = RetrainCause.violation && 3 ≤ (s.violationsWith p k .violation).length : Bool) = true := by
        rw [Bool.and_eq_true, decide_eq_true_eq, decide_eq_true_eq, State.violationsWith_length]
        exact ⟨rfl, by omega⟩
      rw [State.bundleRetrain_eq, if_neg (not_not.2 active), if_pos third, (State.bundleRetire_bundle ..).1]
      decide
  · rwa [State.bundleRetrain_idle _ _ _ _ _ active]

end

end Sys2Proof.Machine
end

section
/-! A frame that an end of the sideband takes, and the frames of training (R200, R201, R215, R218, R219, R222). -/

namespace Sys2Proof.Machine

/-! ### A frame that is taken (R200) -/

/-- An end of the sideband that owes one ACK more. -/
def SbEnd.owing (x : SbEnd) (seq : Byte) : SbEnd := { x with acks := x.acks ++ [seq] }

/-- The state in which an end of a die's sideband owes one ACK more. -/
def State.owing (s : State) (d : Fin 12) (toHub : Bool) (seq : Byte) : State :=
  s.setPort d.val (if toHub then { s.port d.val with sbHub := (s.port d.val).sbHub.owing seq }
    else { s.port d.val with sbDie := (s.port d.val).sbDie.owing seq })

section
variable {s : State} {d : Fin 12} {typ : Byte} {f : SbFrame}

/-- What a receiver does with a frame that its end takes, where the row allows its direction and length. -/
theorem State.sbTake_takes (h : s.takesFrame d typ f) {ok : Bool} (hok : ok = true) (toHub : Bool) (act : State → State) :
    s.sbTake d toHub typ f ok act = act (s.owing d toHub f.seq) := by
  obtain ⟨here, listed, back, short, code⟩ := h
  have own : ∀ p : Byte → Bool, f.typ.any (fun t => decide (t ≠ typ) && p t) = false := fun p => by
    cases ht : f.typ with
    | none => rfl
    | some t =>
      rw [ht] at listed
      simp [show t = typ from listed]
  have same : (f.typ.any fun t => t ≠ typ) = false := by simpa using own fun _ => true
  have fits : ¬ ((f.typ.any fun t => t ≠ typ) || f.back || !ok || 58 < f.payload.length : Bool) := by
    simp only [same, back, hok, decide_eq_false (Nat.not_lt.2 short)]
    decide
  unfold State.sbTake
  dsimp only
  rw [if_neg (by rw [here]; decide), if_neg (by rw [listed]; exact not_not.2 code), if_neg (by rw [own]; decide), if_neg fits]
  rfl

theorem State.owing_links (toHub : Bool) (seq : Byte) : SameLinks s (s.owing d toHub seq) := by
  cases toHub <;> exact sameLinks_setSides ..

theorem State.owing_bundle (toHub : Bool) (seq : Byte) (k : Nat) : (s.owing d toHub seq).bundle d.val k = s.bundle d.val k :=
  (State.owing_links toHub seq).bundle d.val k

theorem State.owing_step (toHub : Bool) (seq : Byte) : ((s.owing d toHub seq).port d.val).step = (s.port d.val).step :=
  (State.owing_links toHub seq).training.step d.val

theorem State.owing_version (toHub : Bool) (seq : Byte) : ((s.owing d toHub seq).port d.val).version = (s.port d.val).version :=
  (State.owing_links toHub seq).training.version d.val

/-- The port of an end that owes one ACK more. -/
theorem State.owing_port (toHub : Bool) (seq : Byte) : (s.owing d toHub seq).port d.val =
    if toHub then { s.port d.val with sbHub := (s.port d.val).sbHub.owing seq }
    else { s.port d.val with sbDie := (s.port d.val).sbDie.owing seq } := by
  simp [State.owing]

/-- The end owes the ACK of the frame that it has taken. -/
theorem State.owesAck_owing (toHub : Bool) (seq : Byte) : (s.owing d toHub seq).owesAck d toHub seq := by
  cases toHub <;> simp [State.owesAck, State.owing_port, SbEnd.owing]

/-- An ACK that is owed stays owed while the sideband ends are as they were. -/
theorem State.owesAck_setPort {toHub : Bool} {seq : Byte} (h : s.owesAck d toHub seq) {x : PortState} (hub : x.sbHub = (s.port d.val).sbHub)
    (die : x.sbDie = (s.port d.val).sbDie) : (s.setPort d.val x).owesAck d toHub seq := by
  simpa [State.owesAck, hub, die] using h

theorem live_of_clocked (hl : s.clocked = true) (f : State → Host.Outcome State Fault Refusal) : live s f = f s := if_pos hl

/-! ### IDENT (R218) -/

/-- The partner's version list has version 2. -/
def hasVersion2 (f : SbFrame) : Bool := (f.payload.getD 3 0).toNat.testBit 2

/-- What an IDENT makes of the port that takes it. -/
def State.identify (s : State) (d : Fin 12) (toHub common : Bool) : State :=
  if (s.port d.val).step = 3 then
    s.setPort d.val { s.port d.val with identOther := (s.port d.val).identOther || (toHub && !common) }
  else if toHub && !common then (s.weldLog .partner .version d.val 0).portDown d false
  else if toHub then s.setPort d.val { s.port d.val with identHub := true, version := 2 }
  else s.setPort d.val { s.port d.val with identDie := true }

theorem exec_ident (hl : s.clocked = true) (h : s.takesFrame d 0x01 f) (len : f.payload.length = 4) (toHub : Bool) :
    exec (.ident d toHub f) s = .next ((s.owing d toHub f.seq).identify d toHub (hasVersion2 f)) := by
  have runs : exec (.ident d toHub f) s = execIdent d toHub f s := rfl
  rw [runs, execIdent, live_of_clocked hl, State.sbTake_takes h (decide_eq_true len)]
  rfl

section
variable (hl : s.clocked = true) (h : s.takesFrame d 0x01 f) (len : f.payload.length = 4)
include hl h len

/-- The hub takes the die's IDENT while the port trains from the beginning. -/
theorem ident_hub_common (initial : (s.port d.val).step ≠ 3) (common : hasVersion2 f = true) : Completes (.ident d true f) s fun t =>
    (t.port d.val).identHub = true ∧ (t.port d.val).version = 2 ∧ t.owesAck d true f.seq := by
  refine ⟨_, exec_ident hl h len true, ?_⟩
  have owes := State.owesAck_owing (s := s) (d := d) true f.seq
  rw [← State.owing_step true f.seq] at initial
  generalize s.owing d true f.seq = u at *
  simp only [State.identify, initial, common, Bool.not_true, Bool.and_false, Bool.false_eq_true, if_false, if_true]
  exact ⟨by simp, by simp, State.owesAck_setPort owes rfl rfl⟩

theorem ident_hub_other (initial : (s.port d.val).step ≠ 3) (other : hasVersion2 f = false) : Completes (.ident d true f) s fun t =>
    t.dieFenced d.val = true := by
  refine ⟨_, exec_ident hl h len true, ?_⟩
  rw [← State.owing_step true f.seq] at initial
  simp only [State.identify, initial, other, Bool.not_false, Bool.and_self, if_false, if_true]
  exact (State.portDown_lost ..).2.2

theorem ident_die (initial : (s.port d.val).step ≠ 3) : Completes (.ident d false f) s fun t =>
    (t.port d.val).identDie = true ∧ t.owesAck d false f.seq := by
  refine ⟨_, exec_ident hl h len false, ?_⟩
  have owes := State.owesAck_owing (s := s) (d := d) false f.seq
  rw [← State.owing_step false f.seq] at initial
  generalize s.owing d false f.seq = u at *
  simp only [State.identify, initial, Bool.false_and, Bool.false_eq_true, if_false]
  exact ⟨by simp, State.owesAck_setPort owes rfl rfl⟩

/-- An IDENT of a field retrain leaves the version as it was (R218). -/
theorem ident_again (field : (s.port d.val).step = 3) (other : hasVersion2 f = false) : Completes (.ident d true f) s fun t =>
    (t.port d.val).identOther = true ∧ (t.port d.val).version = (s.port d.val).version ∧ t.owesAck d true f.seq := by
  refine ⟨_, exec_ident hl h len true, ?_⟩
  have owes := State.owesAck_owing (s := s) (d := d) true f.seq
  rw [← State.owing_step true f.seq] at field
  rw [← State.owing_version (s := s) true f.seq]
  generalize s.owing d true f.seq = u at *
  simp only [State.identify, field, other, Bool.not_false, Bool.and_self, Bool.or_true, if_true]
  exact ⟨by simp, by simp, State.owesAck_setPort owes rfl rfl⟩

end

/-! ### LANES (R215) -/

/-- The lanes of a direction once a width is agreed: at ×4 an end that chose ×8 takes its ×4 branch. -/
def BundleState.settled (b : BundleState) (good now : BitVec 9) : BitVec 9 :=
  if b.agreedWidth = 4 then (chooseX4 false good).getD now else now

/-- A bundle whose other end has announced a width and its lanes. -/
def BundleState.announce (b : BundleState) (w : Nat) (lanes : BitVec 9) : BundleState :=
  let b := { b with announced := (b.announced.1, w) }
  { b with lanesD2H := b.settled b.good.1 b.lanesD2H, lanesH2D := if w = 4 then lanes else b.settled b.good.2 lanes }

/-- What a LANES frame makes of one bundle. -/
def State.takeLanes (s : State) (d : Nat) (toHub : Bool) (f : SbFrame) (k : Nat) : State :=
  let b := s.bundle d k
  let w := allowX4 (s.weldCfg d true) (f.payload.getD (4 * k) 0).toNat
  let lanes := BitVec.ofNat 9 (leAt f.payload (16 + 2 * k) 2)
  if b.st ≠ .training || b.step ≠ 7 then s
  else if !toHub then s
  else if w ≠ 0 && w ≠ 4 && w ≠ 8 then s.weldLog .partner .malformed d k
  else
    let s := s.setBundle d k (b.announce w lanes)
    if (s.bundle d k).agreedWidth = 0 then s.bundleRetire d k else s

theorem exec_lanes (hl : s.clocked = true) (h : s.takesFrame d 0x02 f) (len : f.payload.length = 24) (toHub : Bool) :
    exec (.lanes d toHub f) s = .next ((s.owing d toHub f.seq).forEach (List.range 4) fun s k => s.takeLanes d.val toHub f k) := by
  have runs : exec (.lanes d toHub f) s = execLanes d toHub f s := rfl
  rw [runs, execLanes, live_of_clocked hl, State.sbTake_takes h (decide_eq_true len)]
  rfl

/-- A bundle in step 7 that the LANES payload tells that the die runs ×8. -/
structure BundleState.HearsEight (b : BundleState) (f : SbFrame) (k : Nat) : Prop where
  st : b.st = .training
  step : b.step = 7
  width : f.payload.getD (4 * k) 0 = 8
  own : b.announced.1 ≠ 0
  limit : b.announceLimit ≠ 0

theorem State.takeLanes_links (s : State) (d : Nat) (f : SbFrame) (k : Nat) : ∃ b, SameLinks (s.setBundle d k b) (s.takeLanes d true f k) ∧
    ((s.bundle d k).HearsEight f k → b = (s.bundle d k).announce 8 (BitVec.ofNat 9 (leAt f.payload (16 + 2 * k) 2))) := by
  have self := sameLinks_setBundle_self s d k
  unfold State.takeLanes
  dsimp only
  split
  next idle => exact ⟨_, self, fun e => absurd idle (by simp [e.st, e.step])⟩
  next =>
    rw [if_neg (by decide)]
    split
    next bad => exact ⟨_, self.trans (sameLinks_weldLog ..), fun e => absurd bad (by rw [e.width]; simp [allowX4])⟩
    next =>
      split
      next none_ =>
        obtain ⟨b, links, -, -⟩ := sameLinks_bundleRetire (s.setBundle d k
          ((s.bundle d k).announce (allowX4 (s.weldCfg d true) (f.payload.getD (4 * k) 0).toNat)
            (BitVec.ofNat 9 (leAt f.payload (16 + 2 * k) 2)))) d k
        refine ⟨b, (sameLinks_setBundle_twice ..).trans links, fun e => absurd none_ ?_⟩
        rw [e.width]
        have own := e.own
        have limit := e.limit
        simp [allowX4, BundleState.announce, BundleState.agreedWidth, own, limit]
      next => exact ⟨_, .refl _, fun e => by rw [e.width]; simp [allowX4]⟩

theorem lanes_completes (hl : s.clocked = true) (h : s.takesFrame d 0x02 f) (len : f.payload.length = 24) (k : Fin 4)
    (hears : (s.bundle d.val k.val).HearsEight f k.val) : Completes (.lanes d true f) s fun t =>
      t.bundle d.val k.val = (s.bundle d.val k.val).announce 8 (BitVec.ofNat 9 (leAt f.payload (16 + 2 * k.val) 2)) := by
  refine ⟨_, exec_lanes hl h len true, ?_⟩
  have same := State.owing_bundle (s := s) (d := d) true f.seq k.val
  generalize s.owing d true f.seq = u at *
  obtain ⟨-, each⟩ := State.forEach_bundles
    (Q := fun k b c => b.HearsEight f k → c = b.announce 8 (BitVec.ofNat 9 (leAt f.payload (16 + 2 * k) 2)))
    (fun t k => t.takeLanes_links d.val f k) u 4
  have becomes := each k.val
  rw [if_pos k.isLt, same] at becomes
  exact becomes hears

/-! ### HANDOVER and RETRAIN (R219, R222) -/

/-- An end of a bundle that has handed its packets over: what its partner had not wholly accepted is to go through another bundle. -/
def EndState.handedOver (x : EndState) (ack : Byte) : EndState :=
  { x with replay := [], handoverOwed := false, reroute := x.reroute ++ unsentPackets x.replay ((x.covered ack).getD 0) }

theorem toNat_ofNat_bundle (k : Fin 4) : (BitVec.ofNat 8 k.val).toNat = k.val := by
  rw [BitVec.toNat_ofNat]
  exact Nat.mod_eq_of_lt (by omega)

theorem handover_completes (hl : s.clocked = true) (h : s.takesFrame d 0x03 f) (len : f.payload.length = 2) (k : Fin 4) (toHub : Bool)
    (names : f.payload.getD 0 0 = BitVec.ofNat 8 k.val) (owed : ((s.bundle d.val k.val).me toHub).handoverOwed = true) :
    Completes (.handover d toHub f) s fun t =>
      (t.bundle d.val k.val).me toHub = ((s.bundle d.val k.val).me toHub).handedOver (f.payload.getD 1 0) := by
  have runs : exec (.handover d toHub f) s = execHandover d toHub f s := rfl
  have same := State.owing_bundle (s := s) (d := d) toHub f.seq k.val
  rw [Completes, runs, execHandover, live_of_clocked hl, State.sbTake_takes h (decide_eq_true len)]
  refine ⟨_, rfl, ?_⟩
  rw [← same] at owed ⊢
  generalize s.owing d toHub f.seq = u at *
  have owes : ¬ (4 ≤ k.val || !((u.bundle d.val k.val).me toHub).handoverOwed : Bool) := by simp [owed]
  dsimp only
  rw [names, toNat_ofNat_bundle, if_neg owes]
  have counted (v : State) (l : List Slot) : SameLinks v (if toHub then v.forEach l fun s q =>
      s.uncount (16 + d.val) 0x05 1 (headerOf q.header).hue (headerOf q.header).cls else v) :=
    .ite (SamePorts.forEach (fun t _ => samePorts_uncount t ..) l v).links (.refl v)
  rw [(counted _ _).bundle, State.bundle_setBundle, if_pos ⟨rfl, rfl⟩, BundleState.me_setMe, EndState.handedOver]

theorem retrain_completes (hl : s.clocked = true) (h : s.takesFrame d 0x04 f) (k : Fin 4) (toHub : Bool)
    (names : f.payload = [BitVec.ofNat 8 k.val]) (active : (s.bundle d.val k.val).st = .active) :
    Completes (.retrain d toHub f) s fun t => (t.bundle d.val k.val).Retrains := by
  have runs : exec (.retrain d toHub f) s = execRetrain d toHub f s := rfl
  have same := State.owing_bundle (s := s) (d := d) toHub f.seq k.val
  rw [Completes, runs, execRetrain, live_of_clocked hl, State.sbTake_takes h (by rw [names]; rfl)]
  refine ⟨_, rfl, ?_⟩
  rw [names, List.getD_cons_zero, toNat_ofNat_bundle, if_pos k.isLt]
  exact State.bundleRetrain_trains _ _ _ (by rwa [same]) nofun nofun

/-! ### ACK and SIDEBAND_RESEND (R200) -/

theorem ack_completes (hl : s.clocked = true) (h : s.takesFrame d 0xFF f) {o : SbOut} (waits : (s.port d.val).sbHub.unacked = some o)
    (own : o.seq = f.seq) : Completes (.ack d true f) s fun t =>
      ((s.port d.val).sbHub.queue = [] → (t.port d.val).sbHub.unacked = none) ∧
      (∀ typ b rest, (s.port d.val).sbHub.queue = (typ, b) :: rest → (t.port d.val).sbHub.queue = rest ∧
        (t.port d.val).sbHub.unacked = some { typ := typ, payload := b, seq := (s.port d.val).sbHub.nextSeq, repeats := 0 }) := by
  obtain ⟨here, listed, -, -, code⟩ := h
  have same : (f.typ.any fun t => t ≠ 0xFF) = false := by
    cases ht : f.typ with
    | none => rfl
    | some t =>
      rw [ht] at listed
      simp [show t = 0xFF from listed]
  have runs : exec (.ack d true f) s = execAck d true f s := rfl
  have taken : ¬ ((s.port d.val).sbLost || (f.typ.any fun t => t ≠ 0xFF) ||
      crcSb ([0xFF, BitVec.ofNat 8 f.payload.length, f.seq, 0] ++ f.payload) ≠ f.crc : Bool) := by
    rw [here, same, code]
    simp
  rw [Completes, runs, execAck, live_of_clocked hl]
  dsimp only
  rw [if_neg taken, if_pos rfl]
  refine ⟨_, rfl, ?_⟩
  rw [State.port_setPort, if_pos rfl]
  refine ⟨fun empty => ?_, fun typ b rest first => ?_⟩
  · simp only [SbEnd.acked, waits, own, empty, if_true]
  · simp only [SbEnd.acked, SbEnd.push, waits, own, first, if_true, and_self]

theorem sidebandResend_completes (hl : s.clocked = true) (here : (s.port d.val).sbLost = false) {o : SbOut}
    (waits : (s.port d.val).sbHub.unacked = some o) : Completes (.sidebandResend d true) s fun t =>
      (o.repeats < 3 → (t.port d.val).sbHub.unacked = some { o with repeats := o.repeats + 1 } ∧ (t.port d.val).sbLost = false) ∧
      (3 ≤ o.repeats → (t.port d.val).sbLost = true ∧ t.dieFenced d.val = true) := by
  have runs : exec (.sidebandResend d true) s = execSidebandResend d true s := rfl
  rw [Completes, runs, execSidebandResend, live_of_clocked hl]
  simp only [if_true, waits]
  rw [if_neg (by rw [here]; decide)]
  by_cases few : o.repeats < 3
  · rw [if_pos few]
    exact ⟨_, rfl, fun _ => ⟨by simp, by simpa using here⟩, fun many => absurd few (by omega)⟩
  · rw [if_neg few]
    obtain ⟨-, lost, fenced⟩ := State.portDown_lost (s.weldLog .partner .sideband d.val 0) d true
    exact ⟨_, rfl, fun few' => absurd few' few, fun _ => ⟨lost, fenced⟩⟩

/-! ### Frames that are not taken (R200) -/

/-- A frame whose code is good, of a TYPE that R200 does not list, is a partner fault in every row. -/
theorem State.sbTake_unlisted {t : Byte} (toHub ok : Bool) (act : State → State) (here : (s.port d.val).sbLost = false)
    (ht : f.typ = some t) (unlisted : sbListed t = false) (foreign : t ≠ typ)
    (code : crcSb ([t, BitVec.ofNat 8 f.payload.length, f.seq, 0] ++ f.payload) = f.crc) :
    s.sbTake d toHub typ f ok act = s.weldLog .partner .sideband d.val 0 := by
  unfold State.sbTake
  dsimp only
  rw [if_neg (by rw [here]; decide), if_neg (by rw [ht]; exact not_not.2 code), if_neg (by simp [ht, unlisted]),
    if_pos (by simp [ht, foreign])]

/-- An event of a Weld bundle that the hub queue has room for. -/
theorem State.logsOne_weldLog (room : s.mgmt.log.queue.length < 1024) (cls : ErrClass) (why : ErrReason) (k : Nat) :
    s.logsOne (s.weldLog cls why d.val k) cls .weld why (d.val * 4 + k) := by
  rw [State.weldLog, if_pos d.isLt]
  simp [State.logsOne, State.logE, State.logRec, State.upLog, room]

theorem ident_unlisted (hl : s.clocked = true) {t : Byte} (toHub : Bool) (here : (s.port d.val).sbLost = false) (ht : f.typ = some t)
    (unlisted : sbListed t = false) (room : s.mgmt.log.queue.length < 1024)
    (code : crcSb ([t, BitVec.ofNat 8 f.payload.length, f.seq, 0] ++ f.payload) = f.crc) : Completes (.ident d toHub f) s fun u =>
      s.logsOne u .partner .weld .sideband (d.val * 4) ∧ u.fab = s.fab := by
  have foreign : t ≠ 0x01 := by
    rintro rfl
    exact absurd unlisted (by decide)
  have runs : exec (.ident d toHub f) s = execIdent d toHub f s := rfl
  rw [Completes, runs, execIdent, live_of_clocked hl]
  refine ⟨_, congrArg _ (State.sbTake_unlisted toHub _ _ here ht unlisted foreign code), ?_, State.weldLog_fab ..⟩
  exact State.logsOne_weldLog room .partner .sideband 0

/-- A frame that fails its code changes nothing. -/
theorem ident_badCode (hl : s.clocked = true) (toHub : Bool)
    (code : crcSb ([f.typ.getD 0x01, BitVec.ofNat 8 f.payload.length, f.seq, 0] ++ f.payload) ≠ f.crc) :
    exec (.ident d toHub f) s = .next s := by
  have runs : exec (.ident d toHub f) s = execIdent d toHub f s := rfl
  rw [runs, execIdent, live_of_clocked hl, State.sbTake]
  dsimp only
  rw [if_pos code, ite_self]

end

/-- Settles O21, by what each frame makes of the port that takes it. -/
theorem sidebandFramesMoveThePort : Obligations.SidebandFramesMoveThePort := by
  unfold Obligations.SidebandFramesMoveThePort
  intro d f s hl
  refine ⟨fun h len initial => ⟨ident_hub_common hl h len initial, ident_hub_other hl h len initial, ident_die hl h len initial⟩,
    fun h len field other => ident_again hl h len field other, ?lanes, ?handover,
    fun k toHub h names active => retrain_completes hl h k toHub names active,
    fun o h waits own => ack_completes hl h waits own, fun o here waits => sidebandResend_completes hl here waits,
    fun toHub t here ht unlisted room code => ident_unlisted hl toHub here ht unlisted room code,
    fun toHub code => ident_badCode hl toHub code⟩
  case lanes =>
    intro k h len st step _ width own limit
    obtain ⟨t, runs, bundle⟩ := lanes_completes hl h len k ⟨st, step, width, own, limit⟩
    refine ⟨t, runs, by rw [bundle]; rfl, by rw [bundle]; exact st, fun own8 limit8 => ?_⟩
    rw [bundle]
    simp [BundleState.announce, BundleState.settled, BundleState.agreedWidth, own8, limit8]
  case handover =>
    intro k toHub h len names owed
    obtain ⟨t, runs, bundle⟩ := handover_completes hl h len k toHub names owed
    exact ⟨t, runs, by rw [bundle]; rfl, by rw [bundle]; rfl, by rw [bundle]; rfl⟩

end Sys2Proof.Machine
end

section
/-! Cold training of a port, the steps of training with their time limits, and field retrains (R212 to R220, R226). -/

namespace Sys2Proof.Machine

/-! ### Cold training (R212, R213) -/

/-- What a cold training makes of a bundle: one RETIRED by a cap that no command has cleared stays so, and any other trains. -/
structure BundleState.ColdFrom (b c : BundleState) : Prop where
  trains : b.st ≠ .retired → c.st = .training ∧ c.step = 1
  stays : b.st = .retired → b.cap = .retired → b.capCleared = false → c.st = .retired

/-- The port as a cold training begins. -/
def PortState.cold (p : PortState) : PortState :=
  { p with step := 1, identHub := false, identDie := false, identOther := false, version := 0, plls := 0, sbLost := false,
           sbHub := {}, sbDie := {} }

/-- A bundle as a cold training clears it. -/
def BundleState.cleared (b : BundleState) : BundleState :=
  { (if b.capCleared then { b with cap := .none, capCleared := false } else b) with
    trainings := 0, replays := 0, attempts := 0, announceLimit := 8, violations := [], field := false }

/-- What a cold training does to one bundle. -/
def State.coldBundle (s : State) (d k : Nat) : State :=
  let b := (s.bundle d k).cleared
  if b.st = .retired && b.cap = .retired then s.setBundle d k b else s.setBundle d k { b with st := .training, step := 1 }

theorem BundleState.cleared_st (b : BundleState) : b.cleared.st = b.st := by unfold BundleState.cleared; split <;> rfl

section
variable {s : State} {d : Fin 12}

theorem State.coldTrain_eq : s.coldTrain d =
    (State.forEach ((s.forEach (List.range 4) fun s k => s.bundleDown d.val k).setPort d.val
        ((s.forEach (List.range 4) fun s k => s.bundleDown d.val k).port d.val).cold)
      (List.range 4) fun s k => s.coldBundle d.val k).identSend d.val := rfl

theorem State.coldBundle_links (s : State) (d k : Nat) :
    ∃ b, SameLinks (s.setBundle d k b) (s.coldBundle d k) ∧ (s.bundle d k).ColdFrom b := by
  have st := (s.bundle d k).cleared_st
  unfold State.coldBundle
  dsimp only
  split
  next kept =>
    rw [Bool.and_eq_true, decide_eq_true_eq, decide_eq_true_eq, st] at kept
    exact ⟨_, .refl _, fun other => absurd kept.1 other, fun retired _ _ => st.trans retired⟩
  next free =>
    refine ⟨_, .refl _, fun _ => ⟨rfl, rfl⟩, fun retired cap still => absurd ?_ free⟩
    simp [retired, BundleState.cleared, cap, still]

/-- The bundle of a port after both passes of a cold training. -/
theorem BundleState.ColdFrom.of_downed {b c e : BundleState} (down : b.Downed c) (cold : c.ColdFrom e) : b.ColdFrom e where
  trains other := cold.trains fun retired => other (down.retired.1 retired)
  stays retired cap still := cold.stays (down.retired.2 retired) (down.cap.trans cap) (down.capCleared.trans still)

/-- An end of the sideband that has nothing in flight sends the hub's IDENT at once. -/
theorem State.identSend_first {p : Nat} (here : (s.port p).sbLost = false) (fresh : (s.port p).sbHub = {}) :
    ((s.identSend p).port p).sbHub.unacked = some { typ := 0x01, payload := s.identHubFrame p, seq := 0, repeats := 0 } := by
  simp [State.identSend, State.sbSend, SbEnd.push, here, fresh]

theorem coldTraining_completes (hl : s.clocked = true) (present : s.dieStatus d.val ≠ 3) : Completes (.coldTraining d) s fun t =>
    (t.port d.val).step = 1 ∧ (t.port d.val).version = 0 ∧ (t.port d.val).sbLost = false ∧
    (t.port d.val).sbHub.unacked = some { typ := 0x01, payload := s.identHubFrame d.val, seq := 0, repeats := 0 } ∧
    ∀ k : Fin 4, (s.bundle d.val k.val).ColdFrom (t.bundle d.val k.val) := by
  have runs : exec (.coldTraining d) s = execColdTraining d s := rfl
  rw [Completes, runs, execColdTraining, live_of_clocked hl, if_neg present, State.coldTrain_eq]
  refine ⟨_, rfl, ?_⟩
  obtain ⟨kept, down⟩ := State.forEach_bundles (Q := fun _ => BundleState.Downed) (fun t k => sameLinks_bundleDown t d.val k) s 4
  generalize (s.forEach (List.range 4) fun s k => s.bundleDown d.val k) = u at *
  obtain ⟨same, cold⟩ := State.forEach_bundles (Q := fun _ => BundleState.ColdFrom) (fun t k => State.coldBundle_links t d.val k)
    (u.setPort d.val (u.port d.val).cold) 4
  have fresh : (((u.setPort d.val (u.port d.val).cold).forEach (List.range 4) fun s k => s.coldBundle d.val k).port d.val).sbHub = {} := by
    refine State.forEach_keeps (fun t => (t.port d.val).sbHub = {}) (fun t k _ h => ?_) (by simp [PortState.cold])
    unfold State.coldBundle
    dsimp only
    split <;> simpa [State.setBundle] using h
  have port : (u.setPort d.val (u.port d.val).cold).port d.val = (u.port d.val).cold := by simp
  have bundle (k : Nat) : (u.setPort d.val (u.port d.val).cold).bundle d.val k = u.bundle d.val k := by simp [State.bundle_setPort]; rfl
  generalize ((u.setPort d.val (u.port d.val).cold).forEach (List.range 4) fun s k => s.coldBundle d.val k) = v at *
  have sent := sameLinks_identSend v d.val
  have here : (v.port d.val).sbLost = false := by rw [same.sbLost, port]; rfl
  have resets : (v.port d.val).resets = (s.port d.val).resets := by rw [same.resets, port]; exact kept.resets _
  have frame : v.identHubFrame d.val = s.identHubFrame d.val := by simp only [State.identHubFrame, resets]
  refine ⟨?_, ?_, ?_, frame ▸ State.identSend_first here fresh, fun k => ?_⟩
  · rw [sent.training.step, same.step, port]; rfl
  · rw [sent.training.version, same.version, port]; rfl
  · rw [sent.training.sbLost, here]
  · have first := down k.val
    have second := cold k.val
    rw [if_pos k.isLt] at first second
    rw [bundle] at second
    exact sent.bundle d.val k.val ▸ BundleState.ColdFrom.of_downed first second

end

/-! ### The steps of a port (R213, R219) -/

theorem exec_trainingStepComplete {s : State} (hl : s.clocked = true) (e : LinkEnd) (step : Fin 9) (i : TrainInfo) :
    exec (.trainingStepComplete e step i) s = .next (s.trainStep e step.val i) := by
  have runs : exec (.trainingStepComplete e step i) s = execTrainingStepComplete e step i s := rfl
  rw [runs, execTrainingStepComplete, live_of_clocked hl]

theorem exec_trainingStepTimeout {s : State} (hl : s.clocked = true) (e : LinkEnd) (step : Fin 9) (failed : BitVec 9) :
    exec (.trainingStepTimeout e step failed) s = .next (s.trainTimeout e step.val failed) := by
  have runs : exec (.trainingStepTimeout e step failed) s = execTrainingStepTimeout e step failed s := rfl
  rw [runs, execTrainingStepTimeout, live_of_clocked hl]

section
variable {s : State} {d : Fin 12} {k : Fin 4} {atHub : Bool}

/-- The bundles of a port go on to step 3 once the PLLs have lock. -/
theorem State.trainStep_pll (i : TrainInfo) (port : (s.port d.val).step = 2) (st : (s.bundle d.val k.val).st = .training)
    (early : (s.bundle d.val k.val).step < 3) :
    let t := s.trainStep (.weld d k atHub) 2 i
    (t.port d.val).step = 3 ∧ (t.port d.val).plls = 15 ∧ (t.bundle d.val k.val).step = 3 := by
  have runs : s.trainStep (.weld d k atHub) 2 i = (s.setPort d.val { s.port d.val with step := 3, plls := 15 }).forEach (List.range 4)
      fun s k => if (s.bundle d.val k).st = .training && (s.bundle d.val k).step < 3 then
        s.setBundle d.val k { s.bundle d.val k with step := 3 } else s := by
    simp only [State.trainStep, linkPort, d.isLt, port]
    rfl
  have locked : (s.setPort d.val { s.port d.val with step := 3, plls := 15 }).port d.val = { s.port d.val with step := 3, plls := 15 } := by
    simp
  have bundle : (s.setPort d.val { s.port d.val with step := 3, plls := 15 }).bundle d.val k.val = s.bundle d.val k.val := by
    simp [State.bundle_setPort]; rfl
  obtain ⟨same, each⟩ := State.forEach_bundles (p := d.val)
    (f := fun s k => if (s.bundle d.val k).st = .training && (s.bundle d.val k).step < 3 then
        s.setBundle d.val k { s.bundle d.val k with step := 3 } else s)
    (Q := fun _ b c => b.st = .training → b.step < 3 → c.step = 3)
    (fun t j => by
      split
      next => exact ⟨_, .refl _, fun _ _ => rfl⟩
      next later => exact ⟨_, sameLinks_setBundle_self .., fun st early => absurd (by simp [st, early]) later⟩)
    (s.setPort d.val { s.port d.val with step := 3, plls := 15 }) 4
  have becomes := each k.val
  rw [if_pos k.isLt, bundle] at becomes
  rw [runs]
  exact ⟨(same.step _).trans (by rw [locked]), (same.plls _).trans (by rw [locked]), becomes st early⟩

theorem State.trainStep_ident (i : TrainInfo) (port : (s.port d.val).step = 1) (hub : (s.port d.val).identHub = true)
    (die : (s.port d.val).identDie = true) (version : (s.port d.val).version ≠ 0) :
    ((s.trainStep (.weld d k atHub) 1 i).port d.val).step = 2 := by
  simp [State.trainStep, linkPort, port, hub, die, version]

/-- The IDENT exchange that reaches its bound takes the port down. -/
theorem State.trainTimeout_ident (failed : BitVec 9) (port : (s.port d.val).step = 1) :
    ((s.trainTimeout (.weld d k atHub) 1 failed).port d.val).step = 0 ∧
      (s.trainTimeout (.weld d k atHub) 1 failed).dieFenced d.val = true := by
  have runs : s.trainTimeout (.weld d k atHub) 1 failed = (s.weldLog .partner .training d.val k.val).portDown d false := by
    simp only [State.trainTimeout, linkPort, linkBundle, port, if_true]
  obtain ⟨step, -, fenced⟩ := State.portDown_lost (s.weldLog .partner .training d.val k.val) d false
  rw [runs]
  exact ⟨step, fenced⟩

end

/-! ### The steps of a bundle (R213 to R217) -/

/-- The lanes of a direction while no 16 errors of the last second fail one. -/
theorem EndState.unworn_all {x : EndState} {now : Word} (h : ∀ l < 9, x.recentErrs now l < 16) : x.unworn now = BitVec.allOnes 9 := by
  have all : (List.range 9).filter (fun l => x.recentErrs now l < 16) = List.range 9 :=
    List.filter_eq_self.2 fun l hl => decide_eq_true (h l (List.mem_range.1 hl))
  rw [EndState.unworn, all]
  decide

/-- With every lane passing, ×8 is chosen. -/
theorem chooseLanes_whole (casc : Bool) (spare : Nat) : (chooseLanes casc (BitVec.allOnes 9) spare .none).1 = 8 := by
  have none_bad : ((List.range 9).filter fun l => !(BitVec.allOnes 9).getLsbD l) = [] := by decide
  cases casc
  · simp only [chooseLanes, none_bad, reduceCtorEq, if_false, if_true, decide_true, Bool.and_false, Bool.false_eq_true]
  · rfl

section
variable {s : State} {e : LinkEnd}

/-- A step that the bundle is not in changes nothing. -/
theorem State.trainStep_other {n : Nat} (i : TrainInfo) (h3 : 3 ≤ n)
    (other : (s.bundle (linkPort e) (linkBundle e)).st ≠ .training ∨ (s.bundle (linkPort e) (linkBundle e)).step ≠ n) :
    s.trainStep e n i = s := by
  unfold State.trainStep
  dsimp only
  rw [if_neg (by omega), if_neg (by omega), if_pos (by simpa using other)]

theorem State.trainTimeout_other {n : Nat} (failed : BitVec 9) (h3 : 3 ≤ n)
    (other : (s.bundle (linkPort e) (linkBundle e)).st ≠ .training ∨ (s.bundle (linkPort e) (linkBundle e)).step ≠ n) :
    s.trainTimeout e n failed = s := by
  unfold State.trainTimeout
  dsimp only
  rw [if_neg (by omega), if_pos (by simpa using other)]

/-- The widths that the two ends announce (R215). -/
def State.announcing (s : State) (p k dieAnnounce : Nat) : Nat × Nat :=
  let b := s.bundle p k
  let mine := (chooseLanes (!(p < 12)) b.good.1 (fuseD2H p k) b.cap).1
  (allowX4 (s.weldCfg p true) (min mine (if b.cap = .x4 then 4 else 8)),
    allowX4 (s.weldCfg p false) (min dieAnnounce (chooseLanes (!(p < 12)) b.good.2 (fuseH2D p k) .none).1))

/-- The state in which a bundle has announced its widths and taken the lanes for the smaller. -/
def State.announced (s : State) (p k dieAnnounce : Nat) : State :=
  (s.setBundle p k { s.bundle p k with announced := s.announcing p k dieAnnounce, step := 7 }).settleWidth p k

theorem State.trainChoose_eq (p k dieAnnounce : Nat) : s.trainChoose p k dieAnnounce =
    if ((s.announced p k dieAnnounce).bundle p k).agreedWidth = 0 then (s.announced p k dieAnnounce).bundleRetire p k
    else if p < 12 then
      ((s.announced p k dieAnnounce).sbSend p true 0x02 ((s.announced p k dieAnnounce).lanesPayload p true)).sbSend p false 0x02
        ((s.announced p k dieAnnounce).lanesPayload p false)
    else s.announced p k dieAnnounce := rfl

theorem State.settleWidth_bundle (s : State) (p k : Nat) :
    ∃ w z, (s.settleWidth p k).bundle p k = { s.bundle p k with lanesD2H := w, lanesH2D := z } :=
  ⟨_, _, (State.bundle_setBundle ..).trans (if_pos ⟨rfl, rfl⟩)⟩

/-- Where both ends choose ×8, a bundle announces it and goes on to step 7 (R215). -/
theorem State.trainChoose_eight {p k : Nat} (cap : (s.bundle p k).cap = .none)
    (good : (s.bundle p k).good = (BitVec.allOnes 9, BitVec.allOnes 9)) (limit : (s.bundle p k).announceLimit = 8) :
    ((s.trainChoose p k 8).bundle p k).step = 7 ∧ ((s.trainChoose p k 8).bundle p k).announced = (8, 8) := by
  have eight : s.announcing p k 8 = (8, 8) := by
    simp only [State.announcing, good, cap, chooseLanes_whole, reduceCtorEq, if_false, Nat.min_self, allowX4_eight]
  obtain ⟨w, z, bundle⟩ := State.settleWidth_bundle
    (s.setBundle p k { s.bundle p k with announced := s.announcing p k 8, step := 7 }) p k
  rw [State.bundle_setBundle, if_pos ⟨rfl, rfl⟩, eight] at bundle
  have announced : (s.announced p k 8).bundle p k =
      { s.bundle p k with announced := (8, 8), step := 7, lanesD2H := w, lanesH2D := z } := by
    rw [State.announced, eight]
    exact bundle
  have agreed : ((s.announced p k 8).bundle p k).agreedWidth ≠ 0 := by
    rw [announced]
    simp [BundleState.agreedWidth, limit]
  have sent : SameLinks (s.announced p k 8) (s.trainChoose p k 8) := by
    rw [State.trainChoose_eq, if_neg agreed]
    exact .ite ((sameLinks_sbSend ..).trans (sameLinks_sbSend ..)) (.refl _)
  rw [sent.bundle, announced]
  exact ⟨rfl, rfl⟩

/-- A bundle that enters ACTIVE runs at the width that both ends agreed on. -/
theorem State.trainActive_bundle (s : State) (p k : Nat) : ((s.trainActive p k).bundle p k).st = .active ∧
    ((s.trainActive p k).bundle p k).step = 0 ∧ ((s.trainActive p k).bundle p k).width = (s.bundle p k).agreedWidth ∧
    ((s.trainActive p k).bundle p k).lastTrained = s.now := by
  have noted (u : State) (b : BundleState) (c : Bool) : (if c then ((u.setBundle p k b).pdrTouch).weldLog .recovered .training p k
      else (u.setBundle p k b).pdrTouch).bundle p k = b :=
    SameLinks.written (s := u) ((sameLinks_pdrTouch _).trans (.ite (sameLinks_weldLog ..) (.refl _)))
  unfold State.trainActive
  dsimp only [State.takeWord]
  rw [noted]
  exact ⟨rfl, rfl, rfl, rfl⟩

section
variable (i : TrainInfo) (failed : BitVec 9) (st : (s.bundle (linkPort e) (linkBundle e)).st = .training)
include st

theorem State.trainStep_three (step : (s.bundle (linkPort e) (linkBundle e)).step = 3) : s.trainStep e 3 i =
    s.setBundle (linkPort e) (linkBundle e)
      { s.bundle (linkPort e) (linkBundle e) with step := 4, good := (BitVec.allOnes 9, BitVec.allOnes 9) } := by
  simp [State.trainStep, st, step]

theorem State.trainStep_four (step : (s.bundle (linkPort e) (linkBundle e)).step = 4) : s.trainStep e 4 i =
    s.setBundle (linkPort e) (linkBundle e) { s.bundle (linkPort e) (linkBundle e) with step := 5 } := by
  simp [State.trainStep, st, step]

/-- The lane test leaves the lanes that passed and that are not worn (R214). -/
theorem State.trainStep_five (step : (s.bundle (linkPort e) (linkBundle e)).step = 5)
    (hub : ∀ l < 9, (s.bundle (linkPort e) (linkBundle e)).hub.recentErrs s.now l < 16)
    (die : ∀ l < 9, (s.bundle (linkPort e) (linkBundle e)).die.recentErrs s.now l < 16) :
    let b := s.bundle (linkPort e) (linkBundle e)
    let c := (s.trainStep e 5 i).bundle (linkPort e) (linkBundle e)
    c.step = 6 ∧ c.good = (b.good.1 &&& i.goodD2H, b.good.2 &&& i.goodH2D) := by
  simp only [State.trainStep, st, step, EndState.unworn_all hub, EndState.unworn_all die, BitVec.and_allOnes]
  simp

theorem State.trainStep_six (step : (s.bundle (linkPort e) (linkBundle e)).step = 6) :
    s.trainStep e 6 i = s.trainChoose (linkPort e) (linkBundle e) i.dieAnnounce := by
  simp [State.trainStep, st, step]

theorem State.trainStep_seven (step : (s.bundle (linkPort e) (linkBundle e)).step = 7) (agreed : i.agreed = true)
    (width : (s.bundle (linkPort e) (linkBundle e)).agreedWidth ≠ 0)
    (same : (s.bundle (linkPort e) (linkBundle e)).field = true → (s.port (linkPort e)).identOther = false) : s.trainStep e 7 i =
    s.setBundle (linkPort e) (linkBundle e) { s.bundle (linkPort e) (linkBundle e) with step := 8 } := by
  have settled : (i.agreed && (s.bundle (linkPort e) (linkBundle e)).agreedWidth ≠ 0 &&
      !((s.bundle (linkPort e) (linkBundle e)).field && (s.port (linkPort e)).identOther)) = true := by
    rw [agreed, decide_eq_true width]
    cases field : (s.bundle (linkPort e) (linkBundle e)).field
    · rfl
    · rw [same field]; rfl
  unfold State.trainStep
  dsimp only
  rw [if_neg (by decide), if_neg (by decide), if_neg (by simp [st, step]), if_neg (by decide), if_neg (by decide), if_neg (by decide),
    if_neg (by decide), if_pos rfl, if_pos settled]

theorem State.trainStep_eight (step : (s.bundle (linkPort e) (linkBundle e)).step = 8) :
    s.trainStep e 8 i = s.trainActive (linkPort e) (linkBundle e) := by
  simp [State.trainStep, st, step]

/-! ### Their time limits (R213, R216) -/

/-- The lanes of a bundle without the ones that a time limit names, at the end where it ran out. -/
def BundleState.goodWithout (b : BundleState) (atHub : Bool) (failed : BitVec 9) : BitVec 9 × BitVec 9 :=
  if atHub then (b.good.1 &&& ~~~ failed, b.good.2) else (b.good.1, b.good.2 &&& ~~~ failed)

theorem State.trainTimeout_four (step : (s.bundle (linkPort e) (linkBundle e)).step = 4) :
    let c := (s.trainTimeout e 4 failed).bundle (linkPort e) (linkBundle e)
    c.step = 5 ∧ c.good = (s.bundle (linkPort e) (linkBundle e)).goodWithout (linkHub e) failed := by
  simp [State.trainTimeout, st, step, BundleState.goodWithout]

theorem State.trainTimeout_five (step : (s.bundle (linkPort e) (linkBundle e)).step = 5)
    (hub : ∀ l < 9, (s.bundle (linkPort e) (linkBundle e)).hub.recentErrs s.now l < 16)
    (die : ∀ l < 9, (s.bundle (linkPort e) (linkBundle e)).die.recentErrs s.now l < 16) :
    let c := (s.trainTimeout e 5 failed).bundle (linkPort e) (linkBundle e)
    c.step = 6 ∧ c.good = (s.bundle (linkPort e) (linkBundle e)).goodWithout (linkHub e) failed := by
  simp only [State.trainTimeout, st, step, EndState.unworn_all hub, EndState.unworn_all die, BitVec.and_allOnes]
  simp [BundleState.goodWithout]

theorem State.trainTimeout_six (step : (s.bundle (linkPort e) (linkBundle e)).step = 6) :
    s.trainTimeout e 6 failed = s.bundleRetire (linkPort e) (linkBundle e) := by
  simp [State.trainTimeout, st, step]

theorem State.trainTimeout_seven (step : (s.bundle (linkPort e) (linkBundle e)).step = 7) :
    s.trainTimeout e 7 failed = s.noAgreement (linkPort e) (linkBundle e)
      (min (s.bundle (linkPort e) (linkBundle e)).announced.1 (s.bundle (linkPort e) (linkBundle e)).announced.2) := by
  simp [State.trainTimeout, st, step]

end

/-! ### Field retrains (R212, R226) -/

theorem exec_fieldRetrain (hl : s.clocked = true) (c : RetrainCause) :
    exec (.fieldRetrain e c) s = .next (s.bundleRetrain (linkPort e) (linkBundle e) c) := by
  have runs : exec (.fieldRetrain e c) s = execFieldRetrain e c s := rfl
  rw [runs, execFieldRetrain, live_of_clocked hl]

end

/-- Settles O23: a cold training bundle by bundle, each step and each time limit at the bundle it names, and field retrains by cause. -/
theorem trainingRunsStepByStep : Obligations.TrainingRunsStepByStep := by
  unfold Obligations.TrainingRunsStepByStep
  refine ⟨?cold, ?port, ?bundle⟩
  case cold =>
    intro d s hl present
    obtain ⟨t, runs, step, version, here, first, cold⟩ := coldTraining_completes hl present
    exact ⟨t, runs, step, version, here, first, fun k => ⟨(cold k).trains, (cold k).stays⟩⟩
  case port =>
    intro d k atHub step i failed s hl e b
    refine ⟨fun n port hub die version => ?_, fun n port st early => ?_, fun n port => ?_⟩
    · exact ⟨_, exec_trainingStepComplete hl e step i, n ▸ State.trainStep_ident i port hub die version⟩
    · exact ⟨_, exec_trainingStepComplete hl e step i, n ▸ State.trainStep_pll i port st early⟩
    · exact ⟨_, exec_trainingStepTimeout hl e step failed, n ▸ State.trainTimeout_ident failed port⟩
  case bundle =>
    intro e step i failed s hl p k b noneWorn
    have completes (P : State → Prop) (h : P (s.trainStep e step.val i)) : Completes (.trainingStepComplete e step i) s P :=
      ⟨_, exec_trainingStepComplete hl e step i, h⟩
    have expires (P : State → Prop) (h : P (s.trainTimeout e step.val failed)) : Completes (.trainingStepTimeout e step failed) s P :=
      ⟨_, exec_trainingStepTimeout hl e step failed, h⟩
    refine ⟨fun late other => ?other, fun st at_ => ⟨?three_four, ?five, ?six, ?seven, ?eight, ?limit, ?again, ?retires⟩, fun c => ?field⟩
    case other =>
      exact ⟨(exec_trainingStepComplete hl ..).trans (congrArg _ (State.trainStep_other i late other)),
        (exec_trainingStepTimeout hl ..).trans (congrArg _ (State.trainTimeout_other failed late other))⟩
    case three_four =>
      rintro (n | n)
      · refine completes _ ?_
        rw [n, State.trainStep_three i st (at_.trans n), State.bundle_setBundle, if_pos ⟨rfl, rfl⟩]
        exact ⟨rfl, st⟩
      · refine completes _ ?_
        rw [n, State.trainStep_four i st (at_.trans n), State.bundle_setBundle, if_pos ⟨rfl, rfl⟩]
        exact ⟨rfl, st⟩
    case five =>
      intro n sound
      exact completes _ (n ▸ State.trainStep_five i st (at_.trans n) (fun l hl => (sound l hl).1) fun l hl => (sound l hl).2)
    case six =>
      intro n cap good die limit
      refine completes _ ?_
      rw [n, State.trainStep_six i st (at_.trans n), die]
      exact State.trainChoose_eight cap good limit
    case seven =>
      intro n agreed width same
      refine completes _ ?_
      rw [n, State.trainStep_seven i st (at_.trans n) agreed width same, State.bundle_setBundle, if_pos ⟨rfl, rfl⟩]
      exact ⟨rfl, st⟩
    case eight =>
      intro n
      refine completes _ ?_
      rw [n, State.trainStep_eight i st (at_.trans n)]
      exact State.trainActive_bundle s p k
    case limit =>
      rintro (n | ⟨n, sound⟩)
      · exact expires _ (n ▸ State.trainTimeout_four failed st (at_.trans n))
      · exact expires _ (n ▸ State.trainTimeout_five failed st (at_.trans n) (fun l hl => (sound l hl).1) fun l hl => (sound l hl).2)
    case again =>
      intro n few announced limit
      refine expires _ ?_
      have eight : min b.announced.1 b.announced.2 = 8 := by rw [announced]; rfl
      rw [n, State.trainTimeout_seven failed st (at_.trans n), eight, State.noAgreement_again s p k limit few, State.bundle_setBundle,
        if_pos ⟨rfl, rfl⟩]
      exact ⟨st, at_.trans n, rfl⟩
    case retires =>
      rintro (n | ⟨n, third⟩)
      · refine expires _ ?_
        rw [n, State.trainTimeout_six failed st (at_.trans n)]
        exact State.bundleRetire_bundle s p k
      · refine expires _ ?_
        rw [n, State.trainTimeout_seven failed st (at_.trans n)]
        exact State.noAgreement_third s p k _ third
    case field =>
      refine ⟨fun idle => ?_, fun active few attempts => ⟨_, exec_fieldRetrain hl c, State.bundleRetrain_trains s p k active few attempts⟩⟩
      rw [exec_fieldRetrain hl, State.bundleRetrain_idle s p k c 8 idle]

end Sys2Proof.Machine
end

section
/-! Flits at a bundle: what its sender and its receiver make of one (R204, R207 to R211, R217, R226). -/

namespace Sys2Proof.Machine

/-! ### The parts of a flit's arrival -/

/-- An end of a link that has taken a flit's running acknowledgement and credit total. -/
def EndState.acknowledged (x : EndState) (f : Flit) : EndState :=
  { x with replay := x.replay.drop ((x.covered f.ack).getD 0),
           resend := min x.resend (x.replay.length - (x.covered f.ack).getD 0),
           returned := vcPut x.returned f.crvc.toNat f.crtotal }

/-- An end of a link that has accepted a DATA flit with the units of a continuing packet. -/
def EndState.accepting (x : EndState) (f : Flit) (part : List Nat) : EndState :=
  { x with rxSeq := f.seq, discarding := false, ackOwed := true, part := part.flatMap fun u => leBytes 8 u }

/-- The units of the packet that continues at an end. -/
def EndState.partUnits (x : EndState) : List Nat := (unitsIn (padTo 120 x.part)).take (x.part.length / 8)

/-- The uncore count of a DATA flit. -/
def State.flitCounted (s : State) (p k : Nat) (hub : Bool) : State :=
  if hub then s.uncount (weldUnit p k) (if p < 12 then 0x01 else 0x02) 1 0 0 false else s.uncount (weldUnit p k) 0x02 1 0 0 false

/-- The flit as its sender sent it: of one that fails its code the payload is not known. -/
def State.flitData (s : State) (f : Flit) : Flit × State :=
  if flitCrc 0 f = f.crc then (f, s) else ({ f with payload := (s.takeBytes 120).1 }, (s.takeBytes 120).2)

/-- What the arrival of a DATA flit shows of its sender. -/
def State.flitSender (s : State) (p k : Nat) (hub : Bool) (f sent : Flit) : State :=
  let b := s.bundle p k
  let y := b.me (!hub)
  let wired := !y.wire.isEmpty
  let s := s.setBundle p k (b.setMe (!hub) (if wired then { y with wire := y.wire.drop 1 } else y.sentData sent))
  let s := if !wired && 0 < y.resend then s.replayed p k (!hub) else s
  if (!wired && 0 < y.resend) || wired && y.replay.any fun r => r.1.seq = f.seq && 0 < r.2 then s.replayLimit p k (!hub) else s

/-- What the receiver, which was `x` before the flit, makes of it. -/
def State.flitReceiver (s : State) (e : LinkEnd) (f : Flit) (x : EndState) (wired : Bool) : State :=
  let p := linkPort e
  let k := linkBundle e
  let hub := linkHub e
  if !s.linkUp e then s
  else if !decide (flitCrc 0 f = f.crc) || f.seq ≠ x.rxSeq + 1 then
    (if x.discarding && decide (flitCrc 0 f = f.crc) then s
      else s.setBundle p k ((s.bundle p k).setMe hub { x with discarding := true, nakOwed := true })).weldLog .partner .crc p k
  else
    match flitPackets x.partUnits f with
    | none => s.linkViolation p k .malformed
    | some (pkts, part) =>
      let s := (s.setBundle p k ((s.bundle p k).setMe hub (x.accepting f part))).flitTotals p k hub f
      (s.forEach pkts fun s q => if s.linkUp e then s.packetIn p k hub q wired else s).bufferDrain p k hub

/-- The state that the sender's part of a DATA flit finds, with the flit as it was sent. -/
def State.flitArrives (s : State) (e : LinkEnd) (f : Flit) : Flit × State :=
  ((s.bufferDrain (linkPort e) (linkBundle e) (linkHub e)).flitCounted (linkPort e) (linkBundle e) (linkHub e)).flitData f

theorem State.dataFlit_eq (s : State) (e : LinkEnd) (f : Flit) : s.dataFlit e f =
    ((s.flitArrives e f).2.flitSender (linkPort e) (linkBundle e) (linkHub e) f (s.flitArrives e f).1).flitReceiver e f
      (((s.flitArrives e f).2.bundle (linkPort e) (linkBundle e)).me (linkHub e))
      (!(((s.flitArrives e f).2.bundle (linkPort e) (linkBundle e)).me (!linkHub e)).wire.isEmpty) := by
  unfold State.dataFlit State.flitArrives State.flitData
  by_cases good : flitCrc 0 f = f.crc
  · simp only [good, if_true]
    unfold State.flitReceiver
    simp only [good]
    rfl
  · simp only [good, if_false]
    unfold State.flitReceiver
    simp only [good]
    rfl

/-! ### What a flit leaves of the rest of the state -/

theorem State.bundle_of_fab {s t : State} (h : t.fab = s.fab) (p k : Nat) : t.bundle p k = s.bundle p k :=
  (SamePorts.of_fab h).links.bundle p k

/-- The configuration of a link's end stands while only packets move. -/
theorem Moved.weldCfg {s t : State} (h : Moved s t) (p : Nat) (hub : Bool) : t.weldCfg p hub = s.weldCfg p hub := by
  obtain ⟨-, -, -, -, -, -, -, -, mgmt⟩ := h
  have config : t.mgmt.config = s.mgmt.config := by rw [mgmt]
  simp only [State.weldCfg, State.dieCfg, State.cfg, config]

theorem State.flitCounted_fab (s : State) (p k : Nat) (hub : Bool) : (s.flitCounted p k hub).fab = s.fab := by
  unfold State.flitCounted
  split <;> exact State.uncount_fab ..

theorem moved_flitCounted (s : State) (p k : Nat) (hub : Bool) : Moved s (s.flitCounted p k hub) :=
  .ite (moved_uncount ..) (moved_uncount ..)

/-- An empty buffer gives nothing to its ring. -/
theorem State.bufferDrain_empty {s : State} {p k : Nat} {hub : Bool} (h : ((s.bundle p k).me hub).buffer = []) :
    s.bufferDrain p k hub = s := by
  have none_ : ((s.bundle p k).me hub).readable = [] := by simp [EndState.readable, h]
  simp only [State.bufferDrain, none_, List.isEmpty_nil, if_true]

section
variable {s : State} {e : LinkEnd} {f : Flit}

theorem State.flitArrives_good (empty : ((s.bundle (linkPort e) (linkBundle e)).me (linkHub e)).buffer = []) (good : flitCrc 0 f = f.crc) :
    s.flitArrives e f = (f, s.flitCounted (linkPort e) (linkBundle e) (linkHub e)) := by
  rw [State.flitArrives, State.bufferDrain_empty empty, State.flitData, if_pos good]

/-- Whatever its code, the arrival of a flit at an end whose buffer is empty has moved nothing of the fabric yet. -/
theorem State.flitArrives_fab (f : Flit) (empty : ((s.bundle (linkPort e) (linkBundle e)).me (linkHub e)).buffer = []) :
    (s.flitArrives e f).2.fab = s.fab := by
  rw [State.flitArrives, State.bufferDrain_empty empty, State.flitData]
  split <;> exact State.flitCounted_fab ..

end

/-! ### The sender (R210, R211) -/

/-- The bundle with one replay more in its count (R228). -/
def BundleState.countReplay (b : BundleState) : BundleState :=
  { b with replays := if b.replays = 0xFFFF then 0xFFFF else b.replays + 1 }

theorem BundleState.countReplay_setMe (b : BundleState) (hub : Bool) (x : EndState) :
    (b.setMe hub x).countReplay = b.countReplay.setMe hub x := by cases hub <;> rfl

section
variable {s : State} {p k : Nat} {hub : Bool}

theorem State.replayed_bundle (s : State) (p k : Nat) (hub : Bool) :
    (s.replayed p k hub).bundle p k = (s.bundle p k).countReplay := by
  unfold State.replayed
  extract_lets b t
  have counted : SameLinks t (if hub && p < 12 then t.uncount (weldUnit p k) 0x03 1 0 0 false else t) :=
    .ite (samePorts_uncount ..).links (.refl t)
  rw [counted.bundle, State.bundle_setBundle, if_pos ⟨rfl, rfl⟩, BundleState.countReplay]

/-- A new flit, or one for which there was no room, is a flit sent. -/
theorem State.flitSender_new (f sent : Flit) (off : ((s.bundle p k).me (!hub)).wire = []) (none_ : ((s.bundle p k).me (!hub)).resend = 0) :
    s.flitSender p k hub f sent = s.setBundle p k ((s.bundle p k).setMe (!hub) (((s.bundle p k).me (!hub)).sentData sent)) := by
  simp [State.flitSender, off, none_]

/-- A flit that its sender has put on the lanes is on them no more. -/
theorem State.flitSender_wired {g : Flit} {rest : List Flit} (f sent : Flit) (on : ((s.bundle p k).me (!hub)).wire = g :: rest)
    (first : ∀ r ∈ ((s.bundle p k).me (!hub)).replay, r.1.seq = f.seq → r.2 = 0) : s.flitSender p k hub f sent =
      s.setBundle p k ((s.bundle p k).setMe (!hub) { (s.bundle p k).me (!hub) with wire := rest }) := by
  have once : (((s.bundle p k).me (!hub)).replay.any fun r => r.1.seq = f.seq && 0 < r.2) = false := by
    rw [List.any_eq_false]
    intro r hr
    simpa using first r hr
  simp [State.flitSender, on, once]

/-- A flit that its sender has resent, while no limit of replays is reached. -/
theorem State.flitSender_again (f sent : Flit) (off : ((s.bundle p k).me (!hub)).wire = [])
    (owes : 0 < ((s.bundle p k).me (!hub)).resend)
    (few : ∀ r ∈ ((s.bundle p k).me (!hub)).resent.replay, r.2 < fld (s.weldCfg p (!hub)) 24 8)
    (window : (s.bundle p k).hub.windowReplays + (s.bundle p k).die.windowReplays + 1 < fld (s.weldCfg p (!hub)) 16 8) :
    s.flitSender p k hub f sent =
      (s.setBundle p k ((s.bundle p k).setMe (!hub) ((s.bundle p k).me (!hub)).sent.resent)).replayed p k (!hub) := by
  have resends : ((s.bundle p k).me (!hub)).sentData sent = ((s.bundle p k).me (!hub)).sent.resent := if_pos owes
  have runs : s.flitSender p k hub f sent =
      ((s.setBundle p k ((s.bundle p k).setMe (!hub) ((s.bundle p k).me (!hub)).sent.resent)).replayed p k (!hub)).replayLimit p k (!hub) := by
    simp [State.flitSender, off, owes, resends]
  have moved := (moved_setBundle s p k ((s.bundle p k).setMe (!hub) ((s.bundle p k).me (!hub)).sent.resent)).trans (moved_replayed _ p k (!hub))
  have bundle := State.replayed_bundle (s.setBundle p k ((s.bundle p k).setMe (!hub) ((s.bundle p k).me (!hub)).sent.resent)) p k (!hub)
  rw [State.bundle_setBundle, if_pos ⟨rfl, rfl⟩] at bundle
  rw [runs]
  generalize (s.setBundle p k _).replayed p k (!hub) = t at *
  have unlimited : ((t.bundle p k).me (!hub)).replay.any (fun r => fld (s.weldCfg p (!hub)) 24 8 ≤ r.2) = false := by
    rw [bundle, List.any_eq_false]
    intro r hr
    have := few r (by cases hub <;> exact hr)
    simpa using this
  have counted : (t.bundle p k).hub.windowReplays + (t.bundle p k).die.windowReplays =
      (s.bundle p k).hub.windowReplays + (s.bundle p k).die.windowReplays + 1 := by
    rw [bundle]
    cases hub
    · exact Nat.add_right_comm ..
    · rfl
  have within : ¬ fld (s.weldCfg p (!hub)) 16 8 ≤ (t.bundle p k).hub.windowReplays + (t.bundle p k).die.windowReplays := by omega
  simp only [State.replayLimit, moved.weldCfg, unlimited, within, decide_false, Bool.or_self, Bool.false_eq_true, if_false]

end

/-! ### The receiver (R204, R210) -/

section
variable {s : State} {e : LinkEnd} {f : Flit}

/-- A flit whose credit total is the one that has come already gives no credit, and violates nothing. -/
theorem State.flitTotals_settled {p k : Nat} {hub : Bool}
    (total : f.crtotal = vcGet ((s.bundle p k).me hub).returned f.crvc.toNat) : s.flitTotals p k hub f =
      s.setBundle p k ((s.bundle p k).setMe hub (((s.bundle p k).me hub).acknowledged f)) := by
  have none_more : (f.crtotal - vcGet ((s.bundle p k).me hub).returned f.crvc.toNat).toNat = 0 := by
    rw [total, BitVec.sub_self]
    rfl
  simp only [State.flitTotals, none_more, Nat.not_lt_zero, if_false, EndState.acknowledged]

@[simp] theorem BundleState.setMe_setMe (b : BundleState) (hub : Bool) (x y : EndState) : (b.setMe hub x).setMe hub y = b.setMe hub y := by
  cases hub <;> rfl

theorem State.linkUp_iff : s.linkUp e = true ↔ (s.bundle (linkPort e) (linkBundle e)).st = .active := by
  simp [State.linkUp]

/-- A flit in order with a good code and whole packing, of one continuing packet, is accepted. -/
theorem State.flitReceiver_accepts {x : EndState} {part : List Nat} (wired : Bool) (up : s.linkUp e = true) (good : flitCrc 0 f = f.crc)
    (next : f.seq = x.rxSeq + 1) (total : f.crtotal = vcGet x.returned f.crvc.toNat) (empty : x.buffer = [])
    (packing : flitPackets x.partUnits f = some ([], part)) :
    (s.flitReceiver e f x wired).bundle (linkPort e) (linkBundle e) =
      (s.bundle (linkPort e) (linkBundle e)).setMe (linkHub e) ((x.accepting f part).acknowledged f) := by
  have runs : s.flitReceiver e f x wired =
      ((s.setBundle (linkPort e) (linkBundle e) ((s.bundle (linkPort e) (linkBundle e)).setMe (linkHub e) (x.accepting f part))).flitTotals
        (linkPort e) (linkBundle e) (linkHub e) f).bufferDrain (linkPort e) (linkBundle e) (linkHub e) := by
    unfold State.flitReceiver
    simp only [up, good, next, packing, decide_true, Bool.not_true, ne_eq, not_true, decide_false, Bool.or_self, Bool.false_eq_true,
      if_false]
    rfl
  have written : (s.setBundle (linkPort e) (linkBundle e) ((s.bundle (linkPort e) (linkBundle e)).setMe (linkHub e)
      (x.accepting f part))).bundle (linkPort e) (linkBundle e) =
        (s.bundle (linkPort e) (linkBundle e)).setMe (linkHub e) (x.accepting f part) := by simp
  have totals := State.flitTotals_settled (f := f) (hub := linkHub e) (s := s.setBundle (linkPort e) (linkBundle e)
    ((s.bundle (linkPort e) (linkBundle e)).setMe (linkHub e) (x.accepting f part))) (p := linkPort e) (k := linkBundle e)
    (by rw [written, BundleState.me_setMe]; exact total)
  rw [written, BundleState.me_setMe, BundleState.setMe_setMe] at totals
  rw [runs, totals, State.bufferDrain_empty, State.bundle_setBundle, if_pos ⟨rfl, rfl⟩]
  rw [State.bundle_setBundle, if_pos ⟨rfl, rfl⟩, BundleState.me_setMe]
  exact empty

/-- A flit whose code fails, or the first that is out of sequence, is discarded: a NAK is owed for it. -/
theorem State.flitReceiver_discards {x : EndState} (wired : Bool) (up : s.linkUp e = true)
    (bad : flitCrc 0 f ≠ f.crc ∨ (f.seq ≠ x.rxSeq + 1 ∧ x.discarding = false)) : s.flitReceiver e f x wired =
      (s.setBundle (linkPort e) (linkBundle e) ((s.bundle (linkPort e) (linkBundle e)).setMe (linkHub e)
        { x with discarding := true, nakOwed := true })).weldLog .partner .crc (linkPort e) (linkBundle e) := by
  have refused : (!decide (flitCrc 0 f = f.crc) || f.seq ≠ x.rxSeq + 1 : Bool) = true := by
    rcases bad with code | ⟨seq, -⟩
    · simp [code]
    · rw [decide_eq_true seq, Bool.or_true]
  have first : ¬ (x.discarding && decide (flitCrc 0 f = f.crc)) = true := by
    rcases bad with code | ⟨-, discarding⟩
    · simp [code]
    · simp [discarding]
  unfold State.flitReceiver
  dsimp only
  rw [up, if_neg (by decide), if_pos refused, if_neg first]

/-! ### DATA flits -/

theorem exec_dataFlit (hl : s.clocked = true) (up : s.linkUp e = true) : exec (.dataFlit e f) s = .next (s.dataFlit e f) := by
  have runs : exec (.dataFlit e f) s = execDataFlit e f s := rfl
  rw [runs, execDataFlit, live_of_clocked hl, if_pos up]

/-- The end of a link that a flit reaches. -/
def State.rxEnd (s : State) (e : LinkEnd) : EndState := (s.bundle (linkPort e) (linkBundle e)).me (linkHub e)

/-- The end of a link that sent the flit. -/
def State.txEnd (s : State) (e : LinkEnd) : EndState := (s.bundle (linkPort e) (linkBundle e)).me (!linkHub e)

theorem State.me_eq_rxEnd : (s.bundle (linkPort e) (linkBundle e)).me (linkHub e) = s.rxEnd e := rfl
theorem State.me_eq_txEnd : (s.bundle (linkPort e) (linkBundle e)).me (!linkHub e) = s.txEnd e := rfl

theorem State.rxEnd_setBundle (b : BundleState) : (s.setBundle (linkPort e) (linkBundle e) b).rxEnd e = b.me (linkHub e) := by
  rw [State.rxEnd, State.bundle_setBundle, if_pos ⟨rfl, rfl⟩]

/-- A DATA flit that an end accepts: in order, its code good, its packing whole, with the units of one continuing packet. -/
structure State.Accepts (s : State) (e : LinkEnd) (f : Flit) (part : List Nat) : Prop where
  clocked : s.clocked = true
  up : s.linkUp e = true
  empty : (s.rxEnd e).buffer = []
  good : flitCrc 0 f = f.crc
  next : f.seq = (s.rxEnd e).rxSeq + 1
  total : f.crtotal = vcGet (s.rxEnd e).returned f.crvc.toNat
  packing : flitPackets (s.rxEnd e).partUnits f = some ([], part)

/-- A bundle whose sending end is as its flit shows, and whose receiving end has accepted the flit. -/
def BundleState.passed (b : BundleState) (e : LinkEnd) (f : Flit) (part : List Nat) (x y : EndState) : BundleState :=
  (b.setMe (!linkHub e) y).setMe (linkHub e) ((x.accepting f part).acknowledged f)

section
variable (b : BundleState) (e : LinkEnd) (f : Flit) (part : List Nat) (x y : EndState)

theorem BundleState.passed_rx : (b.passed e f part x y).me (linkHub e) = (x.accepting f part).acknowledged f := BundleState.me_setMe ..

theorem BundleState.passed_tx : (b.passed e f part x y).me (!linkHub e) = y := by
  rw [BundleState.passed, BundleState.me_setMe_not, BundleState.me_setMe]

theorem BundleState.passed_st : (b.passed e f part x y).st = b.st := by
  rw [BundleState.passed, BundleState.setMe_st, BundleState.setMe_st]

theorem BundleState.passed_replays : (b.passed e f part x y).replays = b.replays := by
  rw [BundleState.passed, BundleState.setMe_replays, BundleState.setMe_replays]

end

/-- What a DATA flit that is accepted makes of its bundle, where its arrival leaves the bundle ACTIVE. -/
theorem State.Accepts.completes {part : List Nat} (a : s.Accepts e f part) {b : BundleState} (active : b.st = .active)
    (sender : ((s.flitCounted (linkPort e) (linkBundle e) (linkHub e)).flitSender (linkPort e) (linkBundle e) (linkHub e) f f).bundle
      (linkPort e) (linkBundle e) = b) : Completes (.dataFlit e f) s fun t =>
        t.bundle (linkPort e) (linkBundle e) = b.setMe (linkHub e) (((s.rxEnd e).accepting f part).acknowledged f) := by
  refine ⟨_, exec_dataFlit a.clocked a.up, ?_⟩
  have same := State.bundle_of_fab (s.flitCounted_fab (linkPort e) (linkBundle e) (linkHub e)) (linkPort e) (linkBundle e)
  rw [State.dataFlit_eq, State.flitArrives_good a.empty a.good]
  dsimp only
  rw [same]
  exact (State.flitReceiver_accepts (x := s.rxEnd e) _ (State.linkUp_iff.2 (by rw [sender]; exact active)) a.good a.next a.total a.empty
    a.packing).trans (by rw [sender])

theorem State.flitCounted_bundle (s : State) (e : LinkEnd) :
    (s.flitCounted (linkPort e) (linkBundle e) (linkHub e)).bundle (linkPort e) (linkBundle e) = s.bundle (linkPort e) (linkBundle e) :=
  State.bundle_of_fab (s.flitCounted_fab ..) ..

section
variable {part : List Nat} (a : s.Accepts e f part)
include a

/-- Its sender, with nothing on the lanes and no replay to run, keeps the flit for replay and goes on to the next SEQ. -/
theorem State.Accepts.new (off : (s.txEnd e).wire = []) (none_ : (s.txEnd e).resend = 0) : Completes (.dataFlit e f) s fun t =>
    t.bundle (linkPort e) (linkBundle e) =
      (s.bundle (linkPort e) (linkBundle e)).passed e f part (s.rxEnd e) ((s.txEnd e).sentData f) := by
  refine a.completes (b := (s.bundle (linkPort e) (linkBundle e)).setMe (!linkHub e) ((s.txEnd e).sentData f)) ?_ ?_
  · rw [BundleState.setMe_st]
    exact State.linkUp_iff.1 a.up
  · rw [State.flitSender_new _ _ (by rw [s.flitCounted_bundle]; exact off) (by rw [s.flitCounted_bundle]; exact none_), State.bundle_setBundle,
      if_pos ⟨rfl, rfl⟩, s.flitCounted_bundle]
    rfl

/-- Its sender has put it on the lanes before. -/
theorem State.Accepts.wired {g : Flit} {rest : List Flit} (on : (s.txEnd e).wire = g :: rest)
    (first : ∀ r ∈ (s.txEnd e).replay, r.1.seq = f.seq → r.2 = 0) : Completes (.dataFlit e f) s fun t =>
    t.bundle (linkPort e) (linkBundle e) =
      (s.bundle (linkPort e) (linkBundle e)).passed e f part (s.rxEnd e) { s.txEnd e with wire := rest } := by
  refine a.completes (b := (s.bundle (linkPort e) (linkBundle e)).setMe (!linkHub e) { s.txEnd e with wire := rest }) ?_ ?_
  · rw [BundleState.setMe_st]
    exact State.linkUp_iff.1 a.up
  · rw [State.flitSender_wired (g := g) (rest := rest) _ _ (by rw [s.flitCounted_bundle]; exact on) (by rw [s.flitCounted_bundle]; exact first),
      State.bundle_setBundle, if_pos ⟨rfl, rfl⟩, s.flitCounted_bundle]
    rfl

/-- Its sender has resent its oldest flit. -/
theorem State.Accepts.again (off : (s.txEnd e).wire = []) (owes : 0 < (s.txEnd e).resend)
    (few : ∀ r ∈ (s.txEnd e).resent.replay, r.2 < fld (s.weldCfg (linkPort e) (!linkHub e)) 24 8)
    (window : (s.bundle (linkPort e) (linkBundle e)).hub.windowReplays + (s.bundle (linkPort e) (linkBundle e)).die.windowReplays + 1 <
      fld (s.weldCfg (linkPort e) (!linkHub e)) 16 8) : Completes (.dataFlit e f) s fun t =>
    t.bundle (linkPort e) (linkBundle e) =
      (s.bundle (linkPort e) (linkBundle e)).countReplay.passed e f part (s.rxEnd e) (s.txEnd e).sent.resent := by
  have config := (moved_flitCounted s (linkPort e) (linkBundle e) (linkHub e)).weldCfg (linkPort e) (!linkHub e)
  refine a.completes (b := (s.bundle (linkPort e) (linkBundle e)).countReplay.setMe (!linkHub e) (s.txEnd e).sent.resent) ?_ ?_
  · rw [BundleState.setMe_st]
    exact State.linkUp_iff.1 a.up
  · rw [State.flitSender_again _ _ (by rw [s.flitCounted_bundle]; exact off) (by rw [s.flitCounted_bundle]; exact owes)
      (by rw [s.flitCounted_bundle, config]; exact few) (by rw [s.flitCounted_bundle, config]; exact window), State.replayed_bundle, State.bundle_setBundle,
      if_pos ⟨rfl, rfl⟩, s.flitCounted_bundle, BundleState.countReplay_setMe]
    rfl

end

/-- A DATA flit that is discarded leaves its receiver owing a NAK. -/
theorem dataFlit_discarded (hl : s.clocked = true) (up : s.linkUp e = true) (empty : (s.rxEnd e).buffer = [])
    (off : (s.txEnd e).wire = []) (none_ : (s.txEnd e).resend = 0)
    (bad : flitCrc 0 f ≠ f.crc ∨ (f.seq ≠ (s.rxEnd e).rxSeq + 1 ∧ (s.rxEnd e).discarding = false)) : Completes (.dataFlit e f) s fun t =>
      t.rxEnd e = { s.rxEnd e with discarding := true, nakOwed := true } ∧ t.fab.net = s.fab.net := by
  refine ⟨_, exec_dataFlit hl up, ?_⟩
  have fab := State.flitArrives_fab f empty
  have net := congrArg Fabric.net fab
  have same := State.bundle_of_fab fab (linkPort e) (linkBundle e)
  rw [State.dataFlit_eq]
  generalize s.flitArrives e f = q at *
  obtain ⟨sent, u⟩ := q
  dsimp only at *
  rw [State.flitSender_new _ _ (by rw [same]; exact off) (by rw [same]; exact none_), same, State.me_eq_rxEnd, State.me_eq_txEnd]
  have here : (u.setBundle (linkPort e) (linkBundle e) ((s.bundle (linkPort e) (linkBundle e)).setMe (!linkHub e)
      ((s.txEnd e).sentData sent))).linkUp e = true := by
    rw [State.linkUp_iff, State.bundle_setBundle, if_pos ⟨rfl, rfl⟩, BundleState.setMe_st]
    exact State.linkUp_iff.1 up
  rw [State.flitReceiver_discards _ here bad]
  refine ⟨?_, ?_⟩
  · rw [State.rxEnd, (sameLinks_weldLog ..).bundle, State.bundle_setBundle, if_pos ⟨rfl, rfl⟩, BundleState.me_setMe]
  · rw [State.weldLog_fab]
    exact net

/-! ### CONTROL, MAINT and NAK flits (R205, R208, R211) -/

/-- What the arrival of a flit that is no DATA flit shows of its sender: a MAINT flit was noted when it was sent. -/
def State.plainSent (s : State) (e : LinkEnd) (typ : Nat) : State :=
  if typ = 2 then s
  else s.setBundle (linkPort e) (linkBundle e) ((s.bundle (linkPort e) (linkBundle e)).setMe (!linkHub e) (s.txEnd e).sent)

theorem State.plainSent_bundle (typ : Nat) : (s.plainSent e typ).bundle (linkPort e) (linkBundle e) =
    if typ = 2 then s.bundle (linkPort e) (linkBundle e)
    else (s.bundle (linkPort e) (linkBundle e)).setMe (!linkHub e) (s.txEnd e).sent := by
  unfold State.plainSent
  split
  · rfl
  · rw [State.bundle_setBundle, if_pos ⟨rfl, rfl⟩]

/-- A plain flit with a good code gives its totals, of which a credit total that has come already violates nothing, and is acted on. -/
theorem State.plainFlit_good {typ : Nat} (act : State → State) (up : s.linkUp e = true) (good : flitCrc typ f = f.crc)
    (total : f.crtotal = vcGet (s.rxEnd e).returned f.crvc.toNat) : s.plainFlit e typ f act =
      act ((s.plainSent e typ).setBundle (linkPort e) (linkBundle e)
        (((s.plainSent e typ).bundle (linkPort e) (linkBundle e)).setMe (linkHub e) ((s.rxEnd e).acknowledged f))) := by
  have bundle := State.plainSent_bundle (s := s) (e := e) typ
  have rx : ((s.plainSent e typ).bundle (linkPort e) (linkBundle e)).me (linkHub e) = s.rxEnd e := by
    rw [bundle]
    split
    · rfl
    · rw [BundleState.me_not_setMe]
      rfl
  have st : ((s.plainSent e typ).bundle (linkPort e) (linkBundle e)).st = .active := by
    rw [bundle]
    split
    · exact State.linkUp_iff.1 up
    · rw [BundleState.setMe_st]
      exact State.linkUp_iff.1 up
  have runs : s.plainFlit e typ f act =
      if ((s.plainSent e typ).flitTotals (linkPort e) (linkBundle e) (linkHub e) f).linkUp e = true then
        act ((s.plainSent e typ).flitTotals (linkPort e) (linkBundle e) (linkHub e) f)
      else (s.plainSent e typ).flitTotals (linkPort e) (linkBundle e) (linkHub e) f := by
    unfold State.plainFlit
    dsimp only
    rw [if_neg (not_not.2 good)]
    rfl
  have totals := State.flitTotals_settled (s := s.plainSent e typ) (p := linkPort e) (k := linkBundle e) (hub := linkHub e) (f := f)
    (by rw [rx]; exact total)
  rw [runs, totals, rx, if_pos]
  rw [State.linkUp_iff, State.bundle_setBundle, if_pos ⟨rfl, rfl⟩, BundleState.setMe_st]
  exact st

theorem controlFlit_completes (hl : s.clocked = true) (up : s.linkUp e = true) (empty : (s.rxEnd e).buffer = [])
    (good : flitCrc 1 f = f.crc) (total : f.crtotal = vcGet (s.rxEnd e).returned f.crvc.toNat) : Completes (.controlFlit e f) s fun t =>
      t.bundle (linkPort e) (linkBundle e) = ((s.bundle (linkPort e) (linkBundle e)).setMe (!linkHub e) (s.txEnd e).sent).setMe
        (linkHub e) ((s.rxEnd e).acknowledged f) := by
  have runs : exec (.controlFlit e f) s = execControlFlit e f s := rfl
  rw [Completes, runs, execControlFlit, live_of_clocked hl, if_pos up, State.bufferDrain_empty empty, State.plainFlit_good id up good total]
  refine ⟨_, rfl, ?_⟩
  rw [id, State.bundle_setBundle, if_pos ⟨rfl, rfl⟩, State.plainSent_bundle, if_neg (by decide)]

/-! ### NAK (R211) -/

/-- The state in which the sender of a NAK owes it no more. -/
def State.nakSent (s : State) (e : LinkEnd) : State :=
  s.setBundle (linkPort e) (linkBundle e)
    ((s.bundle (linkPort e) (linkBundle e)).setMe (!linkHub e) { s.txEnd e with nakOwed := false })

/-- What a NAK's receiver does once its totals are taken. -/
def State.nakAct (s : State) (e : LinkEnd) (inWindow : Bool) : State :=
  if !inWindow then s.linkViolation (linkPort e) (linkBundle e) .crc
  else s.setBundle (linkPort e) (linkBundle e)
    ((s.bundle (linkPort e) (linkBundle e)).setMe (linkHub e) { s.rxEnd e with resend := (s.rxEnd e).replay.length })

theorem exec_nak (hl : s.clocked = true) (up : s.linkUp e = true) : exec (.nak e f) s =
    .next ((s.nakSent e).plainFlit e 3 f fun t => t.nakAct e (((s.nakSent e).rxEnd e).covered f.ack).isSome) := by
  have runs : exec (.nak e f) s = execNak e f s := rfl
  rw [runs, execNak, live_of_clocked hl, if_pos up]
  rfl

section
variable (hl : s.clocked = true) (up : s.linkUp e = true) (good : flitCrc 3 f = f.crc)
  (total : f.crtotal = vcGet (s.rxEnd e).returned f.crvc.toNat)
include hl up good total

/-- A NAK leads to its receiver's action on a bundle that is still ACTIVE and that has taken its totals. -/
theorem nak_acts : ∃ t : State, exec (.nak e f) s = .next (t.nakAct e ((s.rxEnd e).covered f.ack).isSome) ∧
    t.rxEnd e = (s.rxEnd e).acknowledged f ∧ t.linkUp e = true := by
  have written : (s.nakSent e).bundle (linkPort e) (linkBundle e) =
      (s.bundle (linkPort e) (linkBundle e)).setMe (!linkHub e) { s.txEnd e with nakOwed := false } :=
    (State.bundle_setBundle ..).trans (if_pos ⟨rfl, rfl⟩)
  have rx : (s.nakSent e).rxEnd e = s.rxEnd e := by
    rw [State.rxEnd, written, BundleState.me_not_setMe]
    rfl
  have up' : (s.nakSent e).linkUp e = true := by
    rw [State.linkUp_iff, written, BundleState.setMe_st]
    exact State.linkUp_iff.1 up
  rw [exec_nak hl up, rx, State.plainFlit_good _ up' good (by rw [rx]; exact total), rx]
  refine ⟨_, rfl, ?_, ?_⟩
  · rw [State.rxEnd, State.bundle_setBundle, if_pos ⟨rfl, rfl⟩, BundleState.me_setMe]
  · rw [State.linkUp_iff, State.bundle_setBundle, if_pos ⟨rfl, rfl⟩, BundleState.setMe_st, State.plainSent_bundle, if_neg (by decide),
      BundleState.setMe_st]
    exact State.linkUp_iff.1 up'

/-- Every flit after the NAK's ACK is to be resent. -/
theorem nak_inWindow {n : Nat} (covered : (s.rxEnd e).covered f.ack = some n) : Completes (.nak e f) s fun t =>
    (t.rxEnd e).resend = (s.rxEnd e).replay.length - n ∧ (t.bundle (linkPort e) (linkBundle e)).st = .active ∧
      (t.rxEnd e).replay = (s.rxEnd e).replay.drop n := by
  obtain ⟨t, runs, rx, up⟩ := nak_acts hl up good total
  have left : (t.rxEnd e).replay = (s.rxEnd e).replay.drop n := by rw [rx, EndState.acknowledged, covered]; rfl
  have acts : t.nakAct e ((s.rxEnd e).covered f.ack).isSome = t.setBundle (linkPort e) (linkBundle e)
      ((t.bundle (linkPort e) (linkBundle e)).setMe (linkHub e) { t.rxEnd e with resend := (t.rxEnd e).replay.length }) := by
    rw [covered]
    rfl
  refine ⟨_, runs, ?_⟩
  rw [acts]
  dsimp only
  rw [State.rxEnd_setBundle, State.bundle_setBundle, if_pos ⟨rfl, rfl⟩, BundleState.me_setMe, BundleState.setMe_st]
  refine ⟨?_, State.linkUp_iff.1 up, left⟩
  rw [left, List.length_drop]

/-- A NAK outside the window is a violation (R226). -/
theorem nak_outside (outside : (s.rxEnd e).covered f.ack = none) : Completes (.nak e f) s fun t =>
    (t.bundle (linkPort e) (linkBundle e)).st ≠ .active := by
  obtain ⟨t, runs, -, -⟩ := nak_acts hl up good total
  refine ⟨_, runs, ?_⟩
  have violates : t.nakAct e ((s.rxEnd e).covered f.ack).isSome =
      (t.weldLog .partner .crc (linkPort e) (linkBundle e)).bundleRetrain (linkPort e) (linkBundle e) .violation := by
    rw [outside]
    rfl
  rw [violates]
  exact State.bundleRetrain_violation _ _ _

end

/-! ### MAINT flits (R208, R217) -/

/-- The lanes that a receiver does not use cost it nothing but counted pattern errors. -/
theorem State.spareErrs_links (s : State) (p k : Nat) (hub : Bool) : Moved s (s.spareErrs p k hub) ∧
    ∃ errs, SameLinks (s.setBundle p k ((s.bundle p k).setMe hub { (s.bundle p k).me hub with laneErrs := errs }))
      (s.spareErrs p k hub) := by
  have self : (s.bundle p k).setMe hub { (s.bundle p k).me hub with laneErrs := ((s.bundle p k).me hub).laneErrs } = s.bundle p k := by
    cases hub <;> rfl
  refine State.forEach_keeps (fun t => Moved s t ∧ ∃ errs, SameLinks (s.setBundle p k ((s.bundle p k).setMe hub
    { (s.bundle p k).me hub with laneErrs := errs })) t) (fun t l _ h => ?_) ⟨.refl s, _, self.symm ▸ sameLinks_setBundle_self s p k⟩
  obtain ⟨moved, errs, links⟩ := h
  have free : SamePorts t t.takeNat.2 := rfl
  have bundle : t.takeNat.2.bundle p k = (s.bundle p k).setMe hub { (s.bundle p k).me hub with laneErrs := errs } :=
    (free.links.bundle p k).trans links.written
  dsimp only
  split
  · exact ⟨moved.trans (moved_takeNat t), errs, links.trans free.links⟩
  · refine ⟨(moved.trans (moved_takeNat t)).trans (moved_setBundle ..), ?_⟩
    rw [bundle, BundleState.me_setMe, BundleState.setMe_setMe]
    exact ⟨_, (links.trans free.links).rewrite _⟩

/-- What a MAINT flit's receiver does once its totals are taken: its version and its echo are checked (R217). -/
def State.maintAct (s : State) (e : LinkEnd) (f : Flit) : State :=
  let p := linkPort e
  let k := linkBundle e
  let hub := linkHub e
  let b := s.bundle p k
  let x := b.me hub
  let echo := (f.payload.getD 3 0).toNat
  let miss := echo ≠ b.width || leAt f.payload 4 2 ≠ (b.rxLanes hub).toNat
  let misses := if miss then x.echoMiss + 1 else 0
  let s := s.setBundle p k (b.setMe hub
    { x with lastWidth := f.payload.getD 0 0, lastRx := BitVec.ofNat 16 (leAt f.payload 1 2), echoMiss := misses })
  if (f.payload.getD 6 0).toNat ≠ (if p < 12 then (s.port p).version else 2) then s.linkViolation p k .version
  else if fld (s.weldCfg p hub) 12 4 ≤ misses then
    (s.weldLog .partner .training p k).bundleRetrain p k .echoMismatch (if echo = 4 || echo = 8 then min b.width echo else b.width)
  else s

/-- The state in which a MAINT flit's pattern has been checked. -/
def State.patternTaken (s : State) (e : LinkEnd) (r : BitVec 23) : State :=
  (s.setBundle (linkPort e) (linkBundle e) ((s.bundle (linkPort e) (linkBundle e)).setMe (linkHub e)
    { s.rxEnd e with prbsRx := r })).spareErrs (linkPort e) (linkBundle e) (linkHub e)

theorem exec_maintFlit (hl : s.clocked = true) (up : s.linkUp e = true)
    (pattern : patternErrs (ones 9 ((s.bundle (linkPort e) (linkBundle e)).rxLanes (linkHub e)).toNat) (f.payload.drop 8)
      (prbsBytes 112 (s.rxEnd e).prbsRx).1 = [])
    (sound : ∀ l ∈ ones 9 ((s.bundle (linkPort e) (linkBundle e)).rxLanes (linkHub e)).toNat, (s.rxEnd e).recentErrs s.now l < 16) :
    ∃ r, exec (.maintFlit e f) s = .next ((s.patternTaken e r).plainFlit e 2 f fun t => t.maintAct e f) := by
  have runs : exec (.maintFlit e f) s = execMaintFlit e f s := rfl
  have none_bad (r : BitVec 23) : ((ones 9 ((s.bundle (linkPort e) (linkBundle e)).rxLanes (linkHub e)).toNat).filter fun l =>
      16 ≤ ({ s.rxEnd e with prbsRx := r } : EndState).recentErrs s.now l) = [] :=
    List.filter_eq_nil_iff.2 fun l hl => by
      rw [decide_eq_true_eq]
      exact Nat.not_le.2 (sound l hl)
  rw [runs, execMaintFlit, live_of_clocked hl, if_pos up]
  refine ⟨(prbsBytes 112 (s.rxEnd e).prbsRx).2, congrArg _ ?_⟩
  unfold State.maintTake
  dsimp only
  simp only [State.me_eq_rxEnd, pattern, EndState.addErrs, List.foldl_nil, none_bad, List.isEmpty_nil, if_true]
  rfl

theorem State.patternTaken_moved (r : BitVec 23) : Moved s (s.patternTaken e r) :=
  (moved_setBundle ..).trans (State.spareErrs_links ..).1

/-- Checking a MAINT flit's pattern writes the pattern's state and the error counts of the end that received it. -/
theorem State.patternTaken_links (r : BitVec 23) : ∃ errs, SameLinks (s.setBundle (linkPort e) (linkBundle e)
    ((s.bundle (linkPort e) (linkBundle e)).setMe (linkHub e) { s.rxEnd e with prbsRx := r, laneErrs := errs })) (s.patternTaken e r) := by
  obtain ⟨-, errs, links⟩ := State.spareErrs_links (s.setBundle (linkPort e) (linkBundle e)
    ((s.bundle (linkPort e) (linkBundle e)).setMe (linkHub e) { s.rxEnd e with prbsRx := r })) (linkPort e) (linkBundle e) (linkHub e)
  rw [State.bundle_setBundle, if_pos ⟨rfl, rfl⟩, BundleState.me_setMe, BundleState.setMe_setMe] at links
  exact ⟨errs, (sameLinks_setBundle_twice ..).trans links⟩

theorem State.version_setBundle {p k q : Nat} {b : BundleState} : ((s.setBundle p k b).port q).version = (s.port q).version :=
  SameTraining.version (fun q => sameTraining_setBundle s p k b q) q

/-- A MAINT flit whose version is the port's and whose echo is what this end runs: no echo is missed. -/
theorem State.maintAct_echoes (version : (f.payload.getD 6 0).toNat = (if linkPort e < 12 then (s.port (linkPort e)).version else 2))
    (limit : 0 < fld (s.weldCfg (linkPort e) (linkHub e)) 12 4)
    (width : (f.payload.getD 3 0).toNat = (s.bundle (linkPort e) (linkBundle e)).width)
    (lanes : leAt f.payload 4 2 = ((s.bundle (linkPort e) (linkBundle e)).rxLanes (linkHub e)).toNat) :
    s.maintAct e f = s.setBundle (linkPort e) (linkBundle e) ((s.bundle (linkPort e) (linkBundle e)).setMe (linkHub e)
      { s.rxEnd e with lastWidth := f.payload.getD 0 0, lastRx := BitVec.ofNat 16 (leAt f.payload 1 2), echoMiss := 0 }) := by
  have config (b : BundleState) : (s.setBundle (linkPort e) (linkBundle e) b).weldCfg (linkPort e) (linkHub e) =
      s.weldCfg (linkPort e) (linkHub e) := (moved_setBundle ..).weldCfg ..
  unfold State.maintAct
  simp only [State.version_setBundle, config, version, width, lanes, ne_eq, not_true, decide_false, Bool.or_self, Bool.false_eq_true, if_false,
    Nat.not_le.2 limit]
  rfl

theorem maintFlit_completes (hl : s.clocked = true) (up : s.linkUp e = true) (good : flitCrc 2 f = f.crc)
    (total : f.crtotal = vcGet (s.rxEnd e).returned f.crvc.toNat)
    (pattern : patternErrs (ones 9 ((s.bundle (linkPort e) (linkBundle e)).rxLanes (linkHub e)).toNat) (f.payload.drop 8)
      (prbsBytes 112 (s.rxEnd e).prbsRx).1 = [])
    (sound : ∀ l ∈ ones 9 ((s.bundle (linkPort e) (linkBundle e)).rxLanes (linkHub e)).toNat, (s.rxEnd e).recentErrs s.now l < 16)
    (version : (f.payload.getD 6 0).toNat = (if linkPort e < 12 then (s.port (linkPort e)).version else 2))
    (limit : 0 < fld (s.weldCfg (linkPort e) (linkHub e)) 12 4)
    (width : (f.payload.getD 3 0).toNat = (s.bundle (linkPort e) (linkBundle e)).width)
    (lanes : leAt f.payload 4 2 = ((s.bundle (linkPort e) (linkBundle e)).rxLanes (linkHub e)).toNat) :
    Completes (.maintFlit e f) s fun t => (t.rxEnd e).echoMiss = 0 ∧ (t.rxEnd e).lastWidth = f.payload.getD 0 0 ∧
      (t.rxEnd e).lastRx = BitVec.ofNat 16 (leAt f.payload 1 2) ∧ (t.bundle (linkPort e) (linkBundle e)).st = .active := by
  obtain ⟨r, runs⟩ := exec_maintFlit (f := f) hl up pattern sound
  obtain ⟨errs, links⟩ := State.patternTaken_links (s := s) (e := e) r
  have config := (State.patternTaken_moved (s := s) (e := e) r).weldCfg (linkPort e) (linkHub e)
  have ver : ((s.patternTaken e r).port (linkPort e)).version = (s.port (linkPort e)).version :=
    (links.training.version _).trans State.version_setBundle
  have bundle := links.written
  generalize s.patternTaken e r = u at *
  have rx : u.rxEnd e = { s.rxEnd e with prbsRx := r, laneErrs := errs } := by
    rw [State.rxEnd, bundle, BundleState.me_setMe]
  have st : (u.bundle (linkPort e) (linkBundle e)).st = .active := by
    rw [bundle, BundleState.setMe_st]
    exact State.linkUp_iff.1 up
  have acts := State.plainFlit_good (typ := 2) (fun t => t.maintAct e f) (State.linkUp_iff.2 st) good (by rw [rx]; exact total)
  refine ⟨_, runs, ?_⟩
  rw [acts]
  have taken : (u.plainSent e 2) = u := rfl
  rw [taken, State.maintAct_echoes, State.rxEnd_setBundle, BundleState.me_setMe]
  · dsimp only
    rw [State.rxEnd_setBundle, BundleState.me_setMe]
    exact ⟨rfl, rfl, rfl, by simpa using st⟩
  · rw [version, State.version_setBundle, ver]
  · rw [(moved_setBundle ..).weldCfg, config]
    exact limit
  · rw [width, State.bundle_setBundle, if_pos ⟨rfl, rfl⟩, BundleState.setMe_width, bundle, BundleState.setMe_width]
  · rw [lanes, State.bundle_setBundle, if_pos ⟨rfl, rfl⟩, BundleState.setMe_rxLanes, bundle, BundleState.setMe_rxLanes]

/-! ### The slot, the window, and a bundle that is not ACTIVE -/

theorem maintSlot_completes (hl : s.clocked = true) (up : s.linkUp e = true) : Completes (.maintSlot e) s fun t =>
    t.bundle (linkPort e) (linkBundle e) = (s.bundle (linkPort e) (linkBundle e)).setMe (linkHub e)
      { s.rxEnd e with
        maint := some (s.maintFlit (linkPort e) (linkBundle e) (linkHub e)), prbsTx := (prbsBytes 112 (s.rxEnd e).prbsTx).2,
        slotCount := 0, crvc := (s.rxEnd e).crvc + 1, ackOwed := false } := by
  have runs : exec (.maintSlot e) s = execMaintSlot e s := rfl
  rw [Completes, runs, execMaintSlot, live_of_clocked hl, if_pos up]
  exact ⟨_, rfl, (State.bundle_setBundle ..).trans (if_pos ⟨rfl, rfl⟩)⟩

theorem crcThreshWindow_completes (e : LinkEnd) (hl : s.clocked = true) : Completes (.crcThreshWindow e) s fun t =>
    t.bundle (linkPort e) (linkBundle e) = { s.bundle (linkPort e) (linkBundle e) with
      hub := { (s.bundle (linkPort e) (linkBundle e)).hub with windowReplays := 0 },
      die := { (s.bundle (linkPort e) (linkBundle e)).die with windowReplays := 0 } } := by
  have runs : exec (.crcThreshWindow e) s = execCrcThreshWindow e s := rfl
  rw [Completes, runs, execCrcThreshWindow, live_of_clocked hl]
  exact ⟨_, rfl, (State.bundle_setBundle ..).trans (if_pos ⟨rfl, rfl⟩)⟩

theorem flits_idle (f : Flit) (hl : s.clocked = true) (down : s.linkUp e = false) :
    exec (.dataFlit e f) s = .next s ∧ exec (.controlFlit e f) s = .next s ∧ exec (.maintFlit e f) s = .next s ∧
      exec (.nak e f) s = .next s ∧ exec (.maintSlot e) s = .next s := by
  have data : exec (.dataFlit e f) s = execDataFlit e f s := rfl
  have control : exec (.controlFlit e f) s = execControlFlit e f s := rfl
  have maint : exec (.maintFlit e f) s = execMaintFlit e f s := rfl
  have nak : exec (.nak e f) s = execNak e f s := rfl
  have slot : exec (.maintSlot e) s = execMaintSlot e s := rfl
  have idle : ¬ s.linkUp e = true := by rw [down]; decide
  rw [data, control, maint, nak, slot, execDataFlit, execControlFlit, execMaintFlit, execNak, execMaintSlot]
  simp only [live_of_clocked hl, if_neg idle, and_self]

end

/-- Settles O22, from what each flit's sender and receiver make of it. -/
theorem flitsCarrySequenceCreditAndReplay : Obligations.FlitsCarrySequenceCreditAndReplay := by
  unfold Obligations.FlitsCarrySequenceCreditAndReplay
  intro e f s hl p k hub b x y taken
  refine ⟨flits_idle f hl, fun up empty => ⟨fun part accepted => ?_, fun off none_ bad => ?_, fun n good covered total => ?_⟩,
    fun up good total pattern sound version limit width lanes =>
      maintFlit_completes hl up good total pattern sound version limit width lanes,
    fun up good total => ⟨fun n covered => nak_inWindow hl up good total covered, nak_outside hl up good total⟩, fun up => ?_, ?_⟩
  · obtain ⟨good, next, total, packing⟩ := accepted
    have a : s.Accepts e f part := ⟨hl, up, empty, good, next, total, packing⟩
    have active := State.linkUp_iff.1 up
    refine ⟨fun off none_ room => ?_, fun off owes few window => ?_, fun g rest on first => ?_⟩
    · obtain ⟨t, runs, (bundle : t.bundle p k = _)⟩ := a.new off none_
      have kept : (s.txEnd e).sentData f =
          { y.sent with txSeq := y.txSeq + 1, replay := y.replay ++ [({ f with seq := y.txSeq }, 0)] } :=
        (if_neg (Nat.not_lt.2 (Nat.le_of_eq none_))).trans (if_pos room)
      refine ⟨t, runs, ?_⟩
      dsimp only
      rw [bundle, BundleState.passed_rx, BundleState.passed_tx, BundleState.passed_st, kept]
      exact ⟨active, rfl, rfl, rfl, rfl, rfl⟩
    · obtain ⟨t, runs, (bundle : t.bundle p k = _)⟩ := a.again off owes few window
      refine ⟨t, runs, ?_⟩
      dsimp only
      rw [bundle, BundleState.passed_rx, BundleState.passed_tx, BundleState.passed_st,
        BundleState.passed_replays]
      exact ⟨active, rfl, rfl, rfl, rfl, rfl, rfl⟩
    · obtain ⟨t, runs, (bundle : t.bundle p k = _)⟩ := a.wired on first
      refine ⟨t, runs, ?_⟩
      dsimp only
      rw [bundle, BundleState.passed_rx, BundleState.passed_tx, BundleState.passed_st]
      exact ⟨active, rfl, rfl, rfl, rfl⟩
  · obtain ⟨t, runs, (rx : (t.bundle p k).me hub = _), net⟩ := dataFlit_discarded hl up empty off none_ bad
    refine ⟨t, runs, ?_⟩
    dsimp only
    rw [rx]
    exact ⟨rfl, rfl, rfl, rfl, net⟩
  · obtain ⟨t, runs, (bundle : t.bundle p k = _)⟩ := controlFlit_completes hl up empty good total
    refine ⟨t, runs, ?_⟩
    dsimp only
    rw [bundle, BundleState.me_setMe, BundleState.me_setMe_not, BundleState.me_setMe, BundleState.setMe_st,
      BundleState.setMe_st, EndState.acknowledged, show (s.rxEnd e).covered f.ack = _ from covered]
    exact ⟨rfl, State.linkUp_iff.1 up, rfl⟩
  · obtain ⟨t, runs, (bundle : t.bundle p k = _)⟩ := maintSlot_completes hl up
    refine ⟨t, runs, ?_⟩
    dsimp only
    rw [bundle, BundleState.me_setMe, BundleState.setMe_st]
    exact ⟨rfl, rfl, rfl, State.linkUp_iff.1 up⟩
  · obtain ⟨t, runs, (bundle : t.bundle p k = _)⟩ := crcThreshWindow_completes e hl
    refine ⟨t, runs, ?_⟩
    dsimp only
    rw [bundle]
    exact ⟨rfl, rfl, rfl⟩

end Sys2Proof.Machine
end

section
/-! Power and hart control on the sidebands (R202, R424, R432, R444, R452, R459, R461). -/

namespace Sys2Proof.Machine

/-! ### What sidebands and cores leave alone -/

/-- From `s` to `t` memory, every hart and what Mordant keeps are as they were. -/
structure State.SameHarts (s t : State) : Prop where
  mem : t.mem = s.mem
  harts : t.fab.harts = s.fab.harts
  mgmt : t.mgmt = s.mgmt

theorem State.SameHarts.refl (s : State) : s.SameHarts s := ⟨rfl, rfl, rfl⟩

theorem State.SameHarts.trans {s t u : State} (a : s.SameHarts t) (b : t.SameHarts u) : s.SameHarts u :=
  ⟨b.mem.trans a.mem, b.harts.trans a.harts, b.mgmt.trans a.mgmt⟩

theorem State.SameHarts.forEach {α : Type} {f : State → α → State} (hf : ∀ (t : State) a, t.SameHarts (f t a)) (s : State) (l : List α) :
    s.SameHarts (s.forEach l f) :=
  State.forEach_keeps s.SameHarts (fun t a _ ht => ht.trans (hf t a)) (.refl s)

theorem State.SameHarts.hart {s t : State} (a : s.SameHarts t) (i : Nat) : t.hart i = s.hart i := by
  rw [State.hart, a.harts]
  rfl

section
variable (s : State)

theorem State.sameHarts_setPort (p : Nat) (x : PortState) : s.SameHarts (s.setPort p x) := ⟨rfl, rfl, rfl⟩

theorem State.sameHarts_setDie (d : Nat) (x : DieState) : s.SameHarts (s.setDie d x) := ⟨rfl, rfl, rfl⟩

theorem State.sameHarts_setCore (i : Nat) (x : CoreState) : s.SameHarts (s.setCore i x) := ⟨rfl, rfl, rfl⟩

theorem State.sameHarts_owing (d : Fin 12) (toHub : Bool) (seq : Byte) : s.SameHarts (s.owing d toHub seq) := s.sameHarts_setPort ..

theorem State.sameHarts_sbSend (d : Nat) (fromHub : Bool) (typ : Byte) (payload : Bytes) : s.SameHarts (s.sbSend d fromHub typ payload) := by
  unfold State.sbSend
  dsimp only
  split
  · exact .refl s
  · split <;> exact s.sameHarts_setPort ..

/-- The answer to HART_CTL is a frame of the die. -/
theorem State.sameHarts_ctlReport (d : Nat) : s.SameHarts (s.ctlReport d) := by
  unfold State.ctlReport
  dsimp only
  split
  · exact .refl s
  · exact (s.sameHarts_setDie ..).trans (.forEach (fun t c => t.sameHarts_sbSend ..) _ _)

end

/-! ### PM_SET (R444, R452) -/

theorem coreKey_injective {c e : CoreId} (h : coreKey c = coreKey e) : c = e := by
  obtain ⟨d, c⟩ := c
  obtain ⟨d', c'⟩ := e
  simp only [coreKey] at h
  simp only [CoreId.mk.injEq, Fin.ext_iff]
  omega

/-- The state with each core of a list rewritten. -/
def State.mapCores (s : State) (l : List CoreId) (g : CoreId → CoreState → CoreState) : State :=
  s.forEach l fun s c => s.setCore (coreKey c) (g c (s.core (coreKey c)))

theorem State.mapCores_core_other {l : List CoreId} {c : CoreId} (h : c ∉ l) (g : CoreId → CoreState → CoreState) (s : State) :
    (s.mapCores l g).core (coreKey c) = s.core (coreKey c) := by
  refine State.forEach_keeps (fun t => t.core (coreKey c) = s.core (coreKey c)) (fun t e he ht => ?_) rfl
  rw [State.core_setCore, if_neg, ht]
  intro same
  rw [coreKey_injective same] at h
  exact h he

/-- Each core of the list is rewritten once. -/
theorem State.mapCores_core {l : List CoreId} (once : l.Nodup) {c : CoreId} (h : c ∈ l) (g : CoreId → CoreState → CoreState) (s : State) :
    (s.mapCores l g).core (coreKey c) = g c (s.core (coreKey c)) := by
  induction l generalizing s with
  | nil => cases h
  | cons e l ih =>
    obtain ⟨fresh, once⟩ := List.nodup_cons.1 once
    have first : s.mapCores (e :: l) g = (s.setCore (coreKey e) (g e (s.core (coreKey e)))).mapCores l g := rfl
    rw [first]
    rcases List.mem_cons.1 h with rfl | later
    · rw [State.mapCores_core_other fresh, State.core_setCore, if_pos rfl]
    · rw [ih once later, State.core_setCore, if_neg]
      intro same
      rw [coreKey_injective same] at later
      exact fresh later

theorem State.sameHarts_mapCores (s : State) (l : List CoreId) (g : CoreId → CoreState → CoreState) : s.SameHarts (s.mapCores l g) :=
  .forEach (fun t _ => t.sameHarts_setCore ..) s l

theorem samePorts_mapCores (s : State) (l : List CoreId) (g : CoreId → CoreState → CoreState) : SamePorts s (s.mapCores l g) :=
  SamePorts.forEach (f := fun s c => s.setCore (coreKey c) (g c (s.core (coreKey c)))) (fun _ _ => rfl) l s

theorem SamePorts.owesAck {s t : State} (a : SamePorts s t) {d : Fin 12} {atHub : Bool} {seq : Byte} (h : s.owesAck d atHub seq) :
    t.owesAck d atHub seq := by
  rw [State.owesAck, a.port]
  exact h

theorem coresOf_nodup (d : Fin 12) : (coresOf d).Nodup :=
  (List.nodup_finRange 22).map fun _ _ e => (CoreId.mk.inj e).2

theorem mem_coresOf (c : CoreId) : c ∈ coresOf c.die := List.mem_map.2 ⟨c.core, List.mem_finRange c.core, rfl⟩

/-- What PM_SET makes of a core. -/
def CoreState.pmSet (x : CoreState) (payload : Bytes) (c : CoreId) : CoreState :=
  let flags := (payload.getD 28 0).toNat
  let fr := (payload.getD c.core.val 0).toNat
  let x := if flags.testBit 0 && 32 ≤ fr && fr ≤ 152 then { x with freq := fr * 25 } else x
  let cs := idleOf (leAt payload 22 6 / 2 ^ (2 * c.core.val) % 4)
  if flags.testBit 1 then { x with idleReq := cs, idle := if cs = .cs0 then .cs0 else x.idle } else x

section
variable (x : CoreState) (payload : Bytes) (c : CoreId)

theorem CoreState.pmSet_freq : (x.pmSet payload c).freq =
    if (payload.getD 28 0).toNat.testBit 0 && 32 ≤ (payload.getD c.core.val 0).toNat && (payload.getD c.core.val 0).toNat ≤ 152
    then (payload.getD c.core.val 0).toNat * 25 else x.freq := by
  unfold CoreState.pmSet
  dsimp only
  split <;> split <;> rfl

theorem CoreState.pmSet_idleReq (h : (payload.getD 28 0).toNat.testBit 1 = true) :
    (x.pmSet payload c).idleReq = idleOf (leAt payload 22 6 / 2 ^ (2 * c.core.val) % 4) := by
  unfold CoreState.pmSet
  dsimp only
  rw [if_pos h]

theorem CoreState.pmSet_idle (h : (payload.getD 28 0).toNat.testBit 1 = false) : (x.pmSet payload c).idle = x.idle := by
  unfold CoreState.pmSet
  dsimp only
  rw [if_neg (by rw [h]; decide)]
  split <;> rfl

end

section
variable {s : State} {d : Fin 12} {f : SbFrame} (hl : s.clocked = true)
include hl

theorem exec_pmSet (h : s.takesFrame d 0x19 f) (len : f.payload.length = 29) : exec (.pmSet d false f) s =
    .next ((s.owing d false f.seq).mapCores (coresOf d) fun c x => x.pmSet f.payload c) := by
  have runs : exec (.pmSet d false f) s = execPmSet d false f s := rfl
  rw [runs, execPmSet, live_of_clocked hl, State.sbTake_takes h (by simp [len])]
  rfl

theorem pmSet_completes (h : s.takesFrame d 0x19 f) (len : f.payload.length = 29) : Completes (.pmSet d false f) s fun t =>
    s.SameHarts t ∧ t.owesAck d false f.seq ∧
      ∀ c : CoreId, c.die = d → t.core (coreKey c) = (s.core (coreKey c)).pmSet f.payload c := by
  refine ⟨_, exec_pmSet hl h len, (s.sameHarts_owing ..).trans (State.sameHarts_mapCores ..), ?_, fun c hc => ?_⟩
  · exact (samePorts_mapCores ..).owesAck (State.owesAck_owing false f.seq)
  · subst hc
    exact State.mapCores_core (coresOf_nodup _) (mem_coresOf c) ..

end

/-! ### PM_RPT and HART_RPT (R459, R461) -/

/-- A frame that is pushed is in flight, or waits. -/
theorem SbEnd.push_sends (e : SbEnd) (typ : Byte) (payload : Bytes) : (typ, payload) ∈ (e.push typ payload).queue ∨
    ∃ o, (e.push typ payload).unacked = some o ∧ o.typ = typ ∧ o.payload = payload := by
  unfold SbEnd.push
  cases e.unacked with
  | none => exact .inr ⟨_, rfl, rfl, rfl⟩
  | some o => exact .inl (by simp)

theorem State.sendsFrame_sbSend {s : State} {d : Fin 12} (here : (s.port d.val).sbLost = false) (typ : Byte) (payload : Bytes) :
    (s.sbSend d.val false typ payload).sendsFrame d.val false typ payload := by
  have sent : ((s.sbSend d.val false typ payload).port d.val).sbDie = (s.port d.val).sbDie.push typ payload := by
    simp [State.sbSend, here]
  simp only [State.sendsFrame, Bool.false_eq_true, if_false, sent]
  exact SbEnd.push_sends ..

section
variable {s : State} {d : Fin 12} {f : SbFrame} (hl : s.clocked = true)
include hl

theorem pmRptTimer_completes (here : (s.port d.val).sbLost = false) : Completes (.pmRptTimer d) s fun t =>
    ∃ p : Bytes, p.length = 9 ∧ t.sendsFrame d.val false 0x1A p ∧ t.mem = s.mem ∧ t.fab.harts = s.fab.harts ∧
      p.getD 8 0 = BitVec.ofNat 8 (bitOf (s.mgmt.power.diePll.contains d)) := by
  have runs : exec (.pmRptTimer d) s = execPmRptTimer d s := rfl
  rw [Completes, runs, execPmRptTimer, live_of_clocked hl]
  have same := s.sameHarts_sbSend d.val false 0x1A
  refine ⟨_, rfl, _, ?_, State.sendsFrame_sbSend here .., (same _).mem, (same _).harts, ?_⟩
  · simp
  · rw [List.getD_append_right _ _ _ _ (by simp)]
    simp

theorem pmRpt_completes (h : s.takesFrame d 0x1A f) (len : f.payload.length = 9) : Completes (.pmRpt d true f) s fun t => t.mem = s.mem ∧
    Table.get [] t.mgmt.power.dieHot d.val = (List.range 4).map fun i => (BitVec.ofNat 16 (leAt f.payload (2 * i) 2)).toInt := by
  have runs : exec (.pmRpt d true f) s = execPmRpt d true f s := rfl
  rw [Completes, runs, execPmRpt, live_of_clocked hl, State.sbTake_takes h (by simp [len])]
  refine ⟨_, rfl, (s.sameHarts_owing d true f.seq).mem, ?_⟩
  simp only [State.upPower, Table.get_put, if_true]

theorem hartRpt_completes (h : s.takesFrame d 0x1C f) (len : f.payload.length = 8) (low : 1 ≤ (f.payload.getD 0 0).toNat)
    (high : (f.payload.getD 0 0).toNat ≤ 5) : Completes (.hartRpt d true f) s fun t => t.fab.harts = s.fab.harts ∧
      Table.get (0, 0) t.mgmt.service.reports d.val = ((f.payload.getD 0 0).toNat, leAt f.payload 2 6) := by
  have runs : exec (.hartRpt d true f) s = execHartRpt d true f s := rfl
  have listed : [1, 2, 3, 4, 5].contains (f.payload.getD 0 0).toNat = true := by
    rw [List.contains_iff_mem]
    simp only [List.mem_cons, List.not_mem_nil]
    omega
  rw [Completes, runs, execHartRpt, live_of_clocked hl, State.sbTake_takes h (by rw [listed]; simp [len])]
  refine ⟨_, rfl, (s.sameHarts_owing d true f.seq).harts, ?_⟩
  simp only [State.upService, Table.get_put, if_true]

end

/-! ### The hart that a HART_CTL names -/

theorem ones_two_pow (i : Fin 44) : ones 44 (2 ^ i.val) = [i.val] := by
  revert i
  decide

theorem hartIdOf_hartIx (h : HartId) : hartIdOf (hartIx h) = some h := by
  obtain ⟨d, c, t⟩ := h
  have die : (d.val * 64 + c.val * 2 + t.val) / 64 = d.val := by omega
  have rest : (d.val * 64 + c.val * 2 + t.val) % 64 = c.val * 2 + t.val := by omega
  have names : isHartIx (hartIx ⟨d, c, t⟩) = true := by
    rw [isHartIx, hartIx, die, rest, Bool.and_eq_true, decide_eq_true_eq, decide_eq_true_eq]
    omega
  rw [hartIdOf, if_pos names]
  simp only [hartOfIx, hartIx, die, rest, Option.some.injEq, HartId.mk.injEq, Fin.ext_iff, Fin.ofNat]
  omega

/-- A bitmap of one hart names that hart. -/
theorem hartIds_two_pow (h : HartId) :
    ((ones 44 (2 ^ (h.core.val * 2 + h.thread.val))).filterMap fun i => hartIdOf (h.die.val * 64 + i)) = [h] := by
  have index : h.die.val * 64 + (h.core.val * 2 + h.thread.val) = hartIx h := by rw [hartIx]; omega
  rw [ones_two_pow ⟨h.core.val * 2 + h.thread.val, by omega⟩, List.filterMap_cons, index, hartIdOf_hartIx]
  rfl

/-- A HART_CTL of one hart acts on it, in a state that differs from the one before in the die's sideband and its operations alone. -/
theorem State.ctlTake_one (s : State) {h : HartId} {harts : Nat} (op : Byte) (act : State → HartId → State)
    (one : harts = 2 ^ (h.core.val * 2 + h.thread.val)) : ∃ u : State, s.SameHarts u ∧ (act u h).SameHarts (s.ctlTake h.die.val op harts act) := by
  unfold State.ctlTake
  rw [one, hartIds_two_pow]
  exact ⟨_, s.sameHarts_setDie .., State.sameHarts_ctlReport ..⟩

/-! ### What an operation does to a hart -/

/-- From `s` to `t` memory, the other harts and the hart's registers are as they were. -/
structure State.Controls (s t : State) (h : HartId) : Prop where
  mem : t.mem = s.mem
  x : (t.hart (hartIx h)).x = (s.hart (hartIx h)).x
  v : (t.hart (hartIx h)).v = (s.hart (hartIx h)).v
  others : ∀ i, i ≠ hartIx h → t.hart i = s.hart i

section
variable {s t u : State} {h : HartId}

theorem State.Controls.refl (s : State) (h : HartId) : s.Controls s h := ⟨rfl, rfl, rfl, fun _ _ => rfl⟩

theorem State.Controls.trans (a : s.Controls t h) (b : t.Controls u h) : s.Controls u h :=
  ⟨b.mem.trans a.mem, b.x.trans a.x, b.v.trans a.v, fun i hi => (b.others i hi).trans (a.others i hi)⟩

theorem State.SameHarts.controls (a : s.SameHarts t) (h : HartId) : s.Controls t h :=
  ⟨a.mem, congrArg HartState.x (a.hart _), congrArg HartState.v (a.hart _), fun i _ => a.hart i⟩

theorem State.controls_setHart (s : State) (h : HartId) {y : HartState} (x : y.x = (s.hart (hartIx h)).x) (v : y.v = (s.hart (hartIx h)).v) :
    s.Controls (s.setHart (hartIx h) y) h :=
  ⟨rfl, by simpa using x, by simpa using v, fun i hi => by simp [hi]⟩

end

/-- What of a hart decides how far HOLD and STOP get: its state, where it is, and what it has under way. -/
def HartState.stand (x : HartState) : RunState × Word × List Waiting × List Fetched × Option IoAccess :=
  (x.run, x.pc, x.waiting, x.front, x.io)

theorem HartState.stand_eq {x y : HartState} (e : x.stand = y.stand) :
    x.run = y.run ∧ x.pc = y.pc ∧ x.waiting = y.waiting ∧ x.front = y.front ∧ x.io = y.io := by
  simpa only [HartState.stand, Prod.mk.injEq] using e

section
variable (s : State) (h : HartId)

theorem State.controls_meterSend (hue : BitVec 12) : s.Controls (s.meterSend h hue) h ∧
    ((s.meterSend h hue).hart (hartIx h)).stand = (s.hart (hartIx h)).stand := by
  refine ⟨⟨?_, ?_, ?_, fun i hi => ?_⟩, ?_⟩
  · have rest := (s.meterSend_keeps h hue).rest
    have mem : (s.meterSend h hue).rest.mem = s.rest.mem := by rw [rest]
    exact mem
  · rw [s.meterSend_hart]; rfl
  · rw [s.meterSend_hart]; rfl
  · have harts := congrArg (fun b => Table.get {} b.harts i) (s.meterSend_fab h hue)
    exact harts.trans ((s.hart_setHart ..).trans (if_neg hi))
  · rw [s.meterSend_hart]; rfl

variable {s h} in
theorem State.Counted.controls {t : State} (a : s.Counted t h) : s.Controls t h := ⟨a.mem, a.get (·.x), a.get (·.v), a.others⟩

variable {s h}

/-- A hart with nothing under way stops where it is. -/
theorem State.controls_stopAt (waiting : (s.hart (hartIx h)).waiting = []) (front : (s.hart (hartIx h)).front = []) :
    s.Controls (s.stopAt h) h ∧ ((s.stopAt h).hart (hartIx h)).stand = (s.hart (hartIx h)).stand := by
  have squashes := s.squash_counted h
  have bare : (s.hart (hartIx h)).withoutSpec.stand = (s.hart (hartIx h)).stand := by
    simp [HartState.stand, HartState.withoutSpec, waiting, front]
  have own : ((s.squash h).hart (hartIx h)).stand = (s.hart (hartIx h)).stand := by
    rw [squashes.get HartState.stand, State.hart_setHart, if_pos rfl, bare]
  have before : s.Controls (s.squash h) h :=
    (s.controls_setHart h (y := (s.hart (hartIx h)).withoutSpec) rfl rfl).trans squashes.controls
  unfold State.stopAt
  generalize s.squash h = u at own before ⊢
  obtain ⟨run, pc, waiting', front', io⟩ := HartState.stand_eq own
  rw [waiting] at waiting'
  rw [front] at front'
  dsimp only
  simp only [pc, waiting', front', List.filter_nil, List.head?_nil, Option.map_none, Option.or_none, Option.getD_none]
  have halts := u.controls_setHart h (y := { u.hart (hartIx h) with
    walk := none, waiting := [], front := [], checkpoints := [], pc := (s.hart (hartIx h)).pc }) rfl rfl
  refine ⟨(before.trans halts).trans (State.squashed_counted _ h []).controls, ?_⟩
  rw [(State.squashed_counted _ h []).get HartState.stand, State.hart_setHart, if_pos rfl]
  simp [HartState.stand, run, waiting, front, io]

/-- What HOLD and STOP leave of a hart with nothing under way. -/
def HartState.halted (x : HartState) (op : Byte) : HartState :=
  if op = 1 then { x with ctl := none, run := .held } else { x with ctl := none, saved := x.run, run := .stopped }

/-- A hart that HOLD or STOP drains, with nothing under way and nothing of its sibling to dispatch, is halted at once. -/
theorem State.ctlHart_halts {op : Byte} (asked : (s.hart (hartIx h)).ctl = some op) (waiting : (s.hart (hartIx h)).waiting = [])
    (io : (s.hart (hartIx h)).io = none) (sibling : (s.hart (hartIx (siblingOf h))).front = []) :
    (s.setHart (hartIx h) ((s.hart (hartIx h)).halted op)).SameHarts (s.ctlHart h) := by
  have halts : s.ctlHart h =
      ((s.setHart (hartIx h) ((s.hart (hartIx h)).halted op)).advance (siblingOf h)).ctlReport h.die.val := by
    have drained : ¬ (!(s.hart (hartIx h)).waiting.isEmpty || (s.hart (hartIx h)).io.isSome : Bool) = true := by
      rw [waiting, io]
      decide
    unfold State.ctlHart
    dsimp only
    rw [asked]
    dsimp only
    rw [if_neg drained]
    rfl
  rw [halts, State.advance_of_front _ _ (by rw [State.hart_setHart, if_neg (hartIx_siblingOf_ne h)]; exact sibling)]
  exact State.sameHarts_ctlReport ..

theorem HartState.halted_x (x : HartState) (op : Byte) : (x.halted op).x = x.x := by unfold HartState.halted; split <;> rfl

theorem HartState.halted_v (x : HartState) (op : Byte) : (x.halted op).v = x.v := by unfold HartState.halted; split <;> rfl

/-- HOLD and STOP of a hart with nothing under way. -/
theorem State.controls_ctlDrain (op : Byte) (waiting : (s.hart (hartIx h)).waiting = []) (front : (s.hart (hartIx h)).front = [])
    (io : (s.hart (hartIx h)).io = none) (sibling : (s.hart (hartIx (siblingOf h))).front = []) : s.Controls (s.ctlDrain op h) h ∧
      ∃ y : HartState, (s.ctlDrain op h).hart (hartIx h) = y.halted op ∧ y.run = (s.hart (hartIx h)).run ∧ y.pc = (s.hart (hartIx h)).pc := by
  obtain ⟨sent, stays⟩ := s.controls_meterSend h (s.hart (hartIx h)).hue
  unfold State.ctlDrain
  generalize s.meterSend h (s.hart (hartIx h)).hue = t at sent stays ⊢
  obtain ⟨trun, tpc, twaiting, tfront, tio⟩ := HartState.stand_eq stays
  obtain ⟨stops, stands⟩ := State.controls_stopAt (s := t) (h := h) (twaiting.trans waiting) (tfront.trans front)
  generalize t.stopAt h = u at stops stands ⊢
  obtain ⟨urun, upc, uwaiting, ufront, uio⟩ := HartState.stand_eq stands
  dsimp only
  have asks := u.controls_setHart h (y := { u.hart (hartIx h) with
    sinvals := if op = 1 then [] else (u.hart (hartIx h)).sinvals, ctl := some op }) rfl rfl
  have here := u.hart_setHart (hartIx h) (hartIx h) { u.hart (hartIx h) with
    sinvals := if op = 1 then [] else (u.hart (hartIx h)).sinvals, ctl := some op }
  rw [if_pos rfl] at here
  have moved := (sent.trans stops).trans asks
  generalize u.setHart (hartIx h) _ = w at moved here ⊢
  have halts := State.ctlHart_halts (s := w) (h := h) (op := op) (by rw [here])
    (by rw [here]; exact (uwaiting.trans twaiting).trans waiting) (by rw [here]; exact (uio.trans tio).trans io)
    (by rw [moved.others _ (hartIx_siblingOf_ne h)]; exact sibling)
  refine ⟨(moved.trans (w.controls_setHart h (HartState.halted_x ..) (HartState.halted_v ..))).trans (halts.controls h),
    w.hart (hartIx h), ?_, ?_, ?_⟩
  · rw [halts.hart, State.hart_setHart, if_pos rfl]
  · rw [here]
    exact urun.trans trun
  · rw [here]
    exact upc.trans tpc

end

/-! ### HART_CTL (R202, R424, R432) -/

section
variable {s : State} {h : HartId} {f : SbFrame} (hl : s.clocked = true) (one : ctlHarts f = 2 ^ (h.core.val * 2 + h.thread.val))
  (takes : s.takesFrame h.die 0x1B f) (len : f.payload.length = 8)
include hl one takes len

/-- A HART_CTL frame of one hart leads to its operation on that hart, in a state with the memory and the harts of the one before. -/
theorem hartCtl_acts {c : Instr} {op : Byte} {act : State → HartId → State} (is : f.payload.getD 0 0 = op)
    (row : exec c s = live s fun s => .next (s.sbTake h.die false 0x1B f (ctlOk false op f) fun s => s.ctlTake h.die.val op (ctlHarts f) act)) :
    ∃ u : State, s.SameHarts u ∧ Completes c s (act u h).SameHarts := by
  obtain ⟨u, before, after⟩ := (s.owing h.die false f.seq).ctlTake_one op act one
  refine ⟨u, (s.sameHarts_owing ..).trans before, _, ?_, after⟩
  rw [row, live_of_clocked hl, State.sbTake_takes takes (by rw [ctlOk, len, is]; simp)]

/-- HOLD and STOP of a hart with nothing under way. -/
theorem hartCtl_drains {c : Instr} {op : Byte} (is : f.payload.getD 0 0 = op)
    (row : exec c s = live s fun s => .next (s.sbTake h.die false 0x1B f (ctlOk false op f) fun s =>
      s.ctlTake h.die.val op (ctlHarts f) (State.ctlDrain op)))
    (waiting : (s.hart (hartIx h)).waiting = []) (front : (s.hart (hartIx h)).front = []) (io : (s.hart (hartIx h)).io = none)
    (sibling : (s.hart (hartIx (siblingOf h))).front = []) : Completes c s fun t => s.Controls t h ∧
      ∃ y : HartState, t.hart (hartIx h) = y.halted op ∧ y.run = (s.hart (hartIx h)).run ∧ y.pc = (s.hart (hartIx h)).pc := by
  obtain ⟨u, before, t, runs, after⟩ := hartCtl_acts hl one takes len is row
  have same := before.hart (hartIx h)
  obtain ⟨moved, y, hart, run, pc⟩ := State.controls_ctlDrain (s := u) (h := h) op (by rw [same]; exact waiting) (by rw [same]; exact front)
    (by rw [same]; exact io) (by rw [before.hart]; exact sibling)
  rw [same] at run pc
  exact ⟨t, runs, ((before.controls h).trans moved).trans (after.controls h), y, (after.hart _).trans hart, run, pc⟩

/-- RELEASE and RESUME write the hart in one step. -/
theorem hartCtl_writes {c : Instr} {op : Byte} {act : State → HartId → State} (is : f.payload.getD 0 0 = op)
    (row : exec c s = live s fun s => .next (s.sbTake h.die false 0x1B f (ctlOk false op f) fun s => s.ctlTake h.die.val op (ctlHarts f) act))
    {y : HartState} (x : y.x = (s.hart (hartIx h)).x) (v : y.v = (s.hart (hartIx h)).v)
    (writes : ∀ u : State, s.SameHarts u → act u h = u.setHart (hartIx h) y) :
    Completes c s fun t => s.Controls t h ∧ t.hart (hartIx h) = y := by
  obtain ⟨u, before, t, runs, after⟩ := hartCtl_acts hl one takes len is row
  have same := before.hart (hartIx h)
  rw [writes u before] at after
  refine ⟨t, runs, ((before.controls h).trans (u.controls_setHart h (by rw [same]; exact x) (by rw [same]; exact v))).trans (after.controls h),
    ?_⟩
  rw [after.hart, State.hart_setHart, if_pos rfl]

theorem releaseParked_completes (is : f.payload.getD 0 0 = 2) (held : (s.hart (hartIx h)).run = .held)
    (free : (s.hart (hartIx h)).ctl = none) : Completes (.hartCtlReleaseParked h.die false f) s fun t => s.Controls t h ∧
      t.hart (hartIx h) = { s.hart (hartIx h) with run := .parked } := by
  refine hartCtl_writes hl one takes len is (act := State.releaseParked) rfl rfl rfl fun u same => ?_
  rw [State.releaseParked, same.hart, if_pos (by simp [held, free])]

/-- A hart released running starts as one that is unparked, from the reset vector (R424). -/
def HartState.startAt (x : HartState) (pc : Word) : HartState := { x with run := .running, pc := pc, priv := .m, virt := false }

theorem releaseRunning_completes (is : f.payload.getD 0 0 = 3) (held : (s.hart (hartIx h)).run = .held)
    (free : (s.hart (hartIx h)).ctl = none) (boot : s.mgmt.mode.straps.bootSel ≠ 2) :
    Completes (.hartCtlReleaseRunning h.die false f) s fun t => s.Controls t h ∧
      t.hart (hartIx h) = (s.hart (hartIx h)).startAt s.resetVector := by
  refine hartCtl_writes hl one takes len is (act := State.releaseRunning) rfl rfl rfl fun u same => ?_
  have vector : u.resetVector = s.resetVector := by rw [State.resetVector, same.mgmt, State.resetVector]
  rw [State.releaseRunning, same.hart, if_pos (by simp [held, free]), State.startHart, same.hart, same.mgmt, if_neg boot, vector]
  rfl

omit hl one takes len in
theorem HartState.wake_of_running {x : HartState} (running : x.run = .running) : x.wake = x :=
  if_neg (by rw [running]; simp)

theorem resume_completes (is : f.payload.getD 0 0 = 5) (stopped : (s.hart (hartIx h)).run = .stopped)
    (saved : (s.hart (hartIx h)).saved = .running) : Completes (.hartCtlResume h.die false f) s fun t => s.Controls t h ∧
      t.hart (hartIx h) = { s.hart (hartIx h) with run := (s.hart (hartIx h)).saved } := by
  refine hartCtl_writes hl one takes len is (act := State.resumeHart) rfl rfl rfl fun u same => ?_
  rw [State.resumeHart, same.hart, if_pos stopped, HartState.wake_of_running saved]

end

/-- Settles O27, from what each frame does to the cores, to the readings and to the hart that it names. -/
theorem powerAndHartControlFramesAct : Obligations.PowerAndHartControlFramesAct := by
  unfold Obligations.PowerAndHartControlFramesAct
  intro d f s hl
  refine ⟨fun takes len c hc => ?_, pmRptTimer_completes hl, pmRpt_completes hl, hartRpt_completes hl, fun h hd one takes len => ?_⟩
  · obtain ⟨t, runs, same, owes, cores⟩ := pmSet_completes hl takes len
    refine ⟨t, runs, ?_⟩
    dsimp only
    rw [cores c hc, CoreState.pmSet_freq]
    refine ⟨same.mem, same.harts, owes, fun set low high => ?_, fun kept => ?_, CoreState.pmSet_idleReq _ _ _, CoreState.pmSet_idle _ _ _⟩
    · rw [if_pos (by simp only [set, low, high, decide_true, Bool.and_self])]
    · rw [if_neg (by simp only [kept, Bool.false_and, Bool.false_eq_true, not_false_eq_true])]
  · subst hd
    intro x frame
    have framed {t : State} (moved : s.Controls t h) : frame t := ⟨moved.mem, moved.x, moved.v, moved.others⟩
    refine ⟨fun waiting front io sibling => ⟨fun is => ?_, fun is => ?_⟩, fun is held free => ?_, fun is held free boot => ?_,
      fun is stopped saved => ?_⟩
    · obtain ⟨t, runs, moved, y, hart, -, -⟩ := hartCtl_drains hl one takes len (c := .hartCtlHold h.die false f) is rfl waiting front io sibling
      refine ⟨t, runs, framed moved, ?_⟩
      rw [hart]
      exact ⟨rfl, rfl⟩
    · obtain ⟨t, runs, moved, y, hart, run, pc⟩ := hartCtl_drains hl one takes len (c := .hartCtlStop h.die false f) is rfl waiting front io sibling
      refine ⟨t, runs, framed moved, ?_⟩
      rw [hart]
      exact ⟨rfl, run, pc⟩
    · obtain ⟨t, runs, moved, hart⟩ := releaseParked_completes hl one takes len is held free
      refine ⟨t, runs, framed moved, ?_⟩
      rw [hart]
    · obtain ⟨t, runs, moved, hart⟩ := releaseRunning_completes hl one takes len is held free boot
      refine ⟨t, runs, framed moved, ?_⟩
      rw [hart]
      exact ⟨rfl, rfl, rfl⟩
    · obtain ⟨t, runs, moved, hart⟩ := resume_completes hl one takes len is stopped saved
      refine ⟨t, runs, framed moved, ?_⟩
      rw [hart]
      exact ⟨saved, rfl⟩

end Sys2Proof.Machine
end

section
/-! What every step keeps: the canonical form of memory's stored bytes and the bound of the log's hub queue (R232, R248, R496). Each
operation of the model has a lemma named after it, which says that it answers a sound state from a sound one; its proof follows the
operation's text. This part has the ways in which a result is put together. -/

namespace Sys2Proof.Machine

/-- The outcome is safe for the invariant: a next state, where there is one, is sound. -/
def Kept (o : Host.Outcome State Fault Refusal) : Prop := ∀ t, o = .next t → t.sound

/-- The same of a state that there may be. -/
def KeptSome (o : Option State) : Prop := ∀ t, o = some t → t.sound

variable {s t u : State} {α β : Type}

/-- Soundness speaks of the stored bytes and of the hub queue alone. -/
theorem State.sound.frame (hs : s.sound) (hd : t.mem.data = s.mem.data := by rfl) (hc : t.mem.check = s.mem.check := by rfl)
    (hq : t.mgmt.log.queue = s.mgmt.log.queue := by rfl) : t.sound := by
  have sameWf : t.mem.wf = s.mem.wf := by rw [Memory.wf, Memory.wf, hd, hc]
  unfold State.sound
  rw [sameWf, hq]
  exact hs

section
variable {c : Prop} [Decidable c]

theorem State.sound.ite (ht : t.sound) (hu : u.sound) : (if c then t else u).sound := by
  split
  · exact ht
  · exact hu

theorem State.sound.ite₁ {p q : State × α} (hp : p.1.sound) (hq : q.1.sound) : (if c then p else q).1.sound := by
  split
  · exact hp
  · exact hq

theorem State.sound.ite₂ {p q : α × State} (hp : p.2.sound) (hq : q.2.sound) : (if c then p else q).2.sound := by
  split
  · exact hp
  · exact hq

theorem State.sound.ite₃ {p q : α × β × State} (hp : p.2.2.sound) (hq : q.2.2.sound) : (if c then p else q).2.2.sound := by
  split
  · exact hp
  · exact hq

theorem Kept.ite {o p : Host.Outcome State Fault Refusal} (ho : Kept o) (hp : Kept p) : Kept (if c then o else p) := by
  split
  · exact ho
  · exact hp

theorem KeptSome.ite {o p : Option State} (ho : KeptSome o) (hp : KeptSome p) : KeptSome (if c then o else p) := by
  split
  · exact ho
  · exact hp

end

theorem KeptSome.some (ht : t.sound) : KeptSome (some t) := by
  rintro _ ⟨⟩
  exact ht

theorem KeptSome.none : KeptSome none := by
  intro _ e
  cases e

theorem Kept.next (ht : t.sound) : Kept (.next t) := by
  rintro _ ⟨⟩
  exact ht

theorem Kept.fault {r : Fault} : Kept (.fault r) := by
  intro _ e
  cases e

/-! ### Results that come with a state -/

theorem State.sound.fst {a : α} (ht : t.sound) : ((t, a) : State × α).1.sound := ht

theorem State.sound.snd {a : α} (ht : t.sound) : ((a, t) : α × State).2.sound := ht

theorem State.sound.thd {a : α} {b : β} (ht : t.sound) : ((a, b, t) : α × β × State).2.2.sound := ht

theorem State.sound.of_snd {p : α × State} {a : α} (hp : p.2.sound) (e : p = (a, t)) : t.sound := by
  rw [e] at hp
  exact hp

theorem State.sound.of_thd {p : α × β × State} {a : α} {b : β} (hp : p.2.2.sound) (e : p = (a, b, t)) : t.sound := by
  rw [e] at hp
  exact hp

theorem State.sound.of_next {o : Host.Outcome State Fault Refusal} (ho : Kept o) (e : o = .next t) : t.sound := ho t e

theorem State.sound.of_some {o : Option State} (ho : KeptSome o) (e : o = some t) : t.sound := ho t e

theorem State.sound.getD {o : Option State} (ho : KeptSome o) (hs : s.sound) : (o.getD s).sound := by
  cases o with
  | none => exact hs
  | some t => exact ho t rfl

/-! ### Folds -/

theorem State.sound.foldl {f : State → α → State} {l : List α} (hs : s.sound) (hf : ∀ t a, t.sound → (f t a).sound) :
    (l.foldl f s).sound :=
  foldl_keeps State.sound f l (fun t a _ => hf t a) s hs

theorem State.sound.foldlFst {f : State × α → β → State × α} {l : List β} {p : State × α} (hp : p.1.sound)
    (hf : ∀ p b, p.1.sound → (f p b).1.sound) : (l.foldl f p).1.sound :=
  foldl_keeps (fun p : State × α => p.1.sound) f l (fun p b _ => hf p b) p hp

theorem State.sound.foldlSnd {f : α × State → β → α × State} {l : List β} {p : α × State} (hp : p.2.sound)
    (hf : ∀ p b, p.2.sound → (f p b).2.sound) : (l.foldl f p).2.sound :=
  foldl_keeps (fun p : α × State => p.2.sound) f l (fun p b _ => hf p b) p hp

end Sys2Proof.Machine
end


section
/-! What each operation of the model keeps, in the model's order. Most lemmas follow one after another at once, so they are
elaborated in turn: a thread for each would take more stack than there is memory. -/

namespace Sys2Proof.Machine

set_option Elab.async false

variable {s : State}

/-! ### The parts of the state -/

theorem State.sound.setHart (hs : s.sound) {i : Nat} {v : HartState} : (s.setHart i v).sound := .frame hs

theorem State.sound.setCore (hs : s.sound) {i : Nat} {v : CoreState} : (s.setCore i v).sound := .frame hs

theorem State.sound.setDie (hs : s.sound) {i : Nat} {v : DieState} : (s.setDie i v).sound := .frame hs

theorem State.sound.setPort (hs : s.sound) {i : Nat} {v : PortState} : (s.setPort i v).sound := .frame hs

theorem State.sound.setStop (hs : s.sound) {i : Nat} {v : StopState} : (s.setStop i v).sound := .frame hs

theorem State.sound.setCrossing (hs : s.sound) {i : Nat} {v : DualQueue} : (s.setCrossing i v).sound := .frame hs

theorem State.sound.setHome (hs : s.sound) {i : Nat} {v : HomeState} : (s.setHome i v).sound := .frame hs

theorem State.sound.setDrop (hs : s.sound) {i : Nat} {v : List Word} : (s.setDrop i v).sound := .frame hs

theorem State.sound.setGranule (hs : s.sound) {i : Nat} {v : Granule} : (s.setGranule i v).sound := .frame hs

theorem State.sound.setMapErr (hs : s.sound) {i v : Nat} : (s.setMapErr i v).sound := .frame hs

theorem State.sound.setRow (hs : s.sound) {i : Nat} {v : RowState} : (s.setRow i v).sound := .frame hs

theorem State.sound.setChannel (hs : s.sound) {i : Nat} {v : ChannelState} : (s.setChannel i v).sound := .frame hs

theorem State.sound.setForget (hs : s.sound) {i : Nat} {v : ForgetQueue} : (s.setForget i v).sound := .frame hs

theorem State.sound.setPatrolAt (hs : s.sound) {i v : Nat} : (s.setPatrolAt i v).sound := .frame hs

theorem State.sound.setSlotsUsed (hs : s.sound) {i v : Nat} : (s.setSlotsUsed i v).sound := .frame hs

theorem State.sound.setHueSt (hs : s.sound) {i : Nat} {v : HueState} : (s.setHueSt i v).sound := .frame hs

theorem State.sound.setFile (hs : s.sound) {i : Nat} {v : ImsicFile} : (s.setFile i v).sound := .frame hs

theorem State.sound.setAplic (hs : s.sound) {i : Nat} {v : AplicDomain} : (s.setAplic i v).sound := .frame hs

theorem State.sound.setMeter (hs : s.sound) {i : Nat} {v : MeterState} : (s.setMeter i v).sound := .frame hs

theorem State.sound.setOcc (hs : s.sound) {i v : Nat} : (s.setOcc i v).sound := .frame hs

theorem State.sound.setSlice (hs : s.sound) {i : Nat} {v : SliceState} : (s.setSlice i v).sound := .frame hs

theorem State.sound.setCell (hs : s.sound) {i : Nat} {v : Option Cell} : (s.setCell i v).sound := .frame hs

theorem State.sound.setRootPort (hs : s.sound) {i : Nat} {v : RootPort} : (s.setRootPort i v).sound := .frame hs

theorem State.sound.setCxlMem (hs : s.sound) {i : Nat} {v : CxlPort} : (s.setCxlMem i v).sound := .frame hs

theorem State.sound.setFilterAt (hs : s.sound) {i : Nat} {v : Option FilterEntry} : (s.setFilterAt i v).sound := .frame hs

theorem State.sound.setIommu (hs : s.sound) {i : Nat} {v : Iommu} : (s.setIommu i v).sound := .frame hs

theorem State.sound.setMbx (hs : s.sound) {i : Nat} {v : Mailbox} : (s.setMbx i v).sound := .frame hs

theorem State.sound.setUncUnit (hs : s.sound) {i : Nat} {v : UncUnit} : (s.setUncUnit i v).sound := .frame hs

theorem State.sound.setDieCfg (hs : s.sound) {i : Nat} {v : DieCfg} : (s.setDieCfg i v).sound := .frame hs

theorem State.sound.setRail (hs : s.sound) {i : Nat} {v : RailState} : (s.setRail i v).sound := .frame hs

theorem State.sound.setCascLink (hs : s.sound) {i : Nat} {v : CascLink} : (s.setCascLink i v).sound := .frame hs

theorem State.sound.setPartition (hs : s.sound) {i : Nat} {v : PartState} : (s.setPartition i v).sound := .frame hs

theorem State.sound.setDieStatus (hs : s.sound) {i v : Nat} : (s.setDieStatus i v).sound := .frame hs

theorem State.sound.setSpares (hs : s.sound) {i : Nat} {v : List (Fin 24)} : (s.setSpares i v).sound := .frame hs

/-! ### What the operations share -/

theorem State.sound.takeNat (hs : s.sound) : s.takeNat.2.sound := .frame hs

theorem State.sound.takeWord (hs : s.sound) : s.takeWord.2.sound := .frame hs

theorem State.sound.takeBytes (hs : s.sound) {n : Nat} : (s.takeBytes n).2.sound := .frame hs

theorem State.sound.upFab (hs : s.sound) {f : Fabric → Fabric} : (s.upFab f).sound := .frame hs

theorem State.sound.upMem (hs : s.sound) {f : Memory → Memory} (hd : ∀ m, (f m).data = m.data := by exact fun _ => rfl)
    (hc : ∀ m, (f m).check = m.check := by exact fun _ => rfl) : (s.upMem f).sound :=
  .frame hs (hd _) (hc _)

theorem State.sound.upHub (hs : s.sound) {f : Hub → Hub} : (s.upHub f).sound := .frame hs

theorem State.sound.upMgmt (hs : s.sound) {f : Mgmt → Mgmt} (hl : ∀ m, (f m).log = m.log := by exact fun _ => rfl) :
    (s.upMgmt f).sound :=
  .frame hs rfl rfl (congrArg ErrLog.queue (hl _))

theorem State.sound.upMode (hs : s.sound) {f : ModeState → ModeState} : (s.upMode f).sound := .frame hs

theorem State.sound.upPower (hs : s.sound) {f : PowerState → PowerState} : (s.upPower f).sound := .frame hs

theorem State.sound.upConfig (hs : s.sound) {f : ConfigState → ConfigState} : (s.upConfig f).sound := .frame hs

theorem State.sound.upCensus (hs : s.sound) {f : CensusState → CensusState} : (s.upCensus f).sound := .frame hs

theorem State.sound.upMordant (hs : s.sound) {f : MordantState → MordantState} : (s.upMordant f).sound := .frame hs

theorem State.sound.upPdr (hs : s.sound) {f : PdrState → PdrState} : (s.upPdr f).sound := .frame hs

theorem State.sound.upStore (hs : s.sound) {f : StoreState → StoreState} : (s.upStore f).sound := .frame hs

theorem State.sound.upService (hs : s.sound) {f : ServiceState → ServiceState} : (s.upService f).sound := .frame hs

theorem State.sound.upCasc (hs : s.sound) {f : CascState → CascState} : (s.upCasc f).sound := .frame hs

theorem State.sound.upLog (hs : s.sound) {f : ErrLog → ErrLog} (hq : ∀ l, (f l).queue = l.queue := by exact fun _ => rfl) :
    (s.upLog f).sound :=
  .frame hs rfl rfl (hq _)

theorem State.sound.upLedger (hs : s.sound) {f : LedgerState → LedgerState} : (s.upLedger f).sound := .frame hs

theorem State.sound.forEach {α : Type} (hs : s.sound) {l : List α} {f : State → α → State} (hf : ∀ t a, t.sound → (f t a).sound) :
    (s.forEach l f).sound :=
  State.forEach_keeps State.sound (fun t a _ => hf t a) hs

theorem Kept.live (hs : s.sound) {f : State → Host.Outcome State Fault Refusal} (hf : ∀ t, t.sound → Kept (f t)) : Kept (live s f) :=
  .ite (hf _ hs) (.next hs)

theorem Kept.liveMordant (hs : s.sound) {f : State → Host.Outcome State Fault Refusal} (hf : ∀ t, t.sound → Kept (f t)) :
    Kept (liveMordant s f) :=
  .ite (hf _ hs) (.next hs)

theorem State.sound.reach (hs : s.sound) {t : Word} : (s.reach t).sound := .ite (.frame hs) hs

theorem State.sound.setCfg (hs : s.sound) {r : Nat} {v : Word} : (s.setCfg r v).sound := .upConfig hs

theorem State.sound.setClass (hs : s.sound) {hue : Nat} {c : BitVec 3} : (s.setClass hue c).sound :=
  .forEach (.upConfig hs) fun _ _ ht => .setDieCfg ht

/-- The hub queue takes an event only while it holds fewer than 1,024 (R496). -/
theorem State.sound.logRec (hs : s.sound) {e : ErrRec} : (s.logRec e).sound := by
  refine ⟨hs.1, ?_⟩
  have room := hs.2
  simp only [State.logRec, State.upLog]
  split
  · simp only [List.length_append, List.length_singleton]
    omega
  · exact room

theorem State.sound.logE (hs : s.sound) {cls : ErrClass} {src : ErrSource} {why : ErrReason} {unit addr : Nat} {hue : BitVec 12}
    {info aux : Nat} {trap fence : Bool} : (s.logE cls src why unit addr hue info aux trap fence).sound :=
  .logRec hs

theorem State.sound.eventTo (hs : s.sound) {code : Nat} {result : Bytes} {sees : Nat → Bool} : (s.eventTo code result sees).sound :=
  .forEach hs fun _ _ ht => .ite (.setMbx ht) ht

theorem State.sound.event (hs : s.sound) {code : Nat} {result : Bytes} : (s.event code result).sound := .eventTo hs

theorem State.sound.pdrTouch (hs : s.sound) : s.pdrTouch.sound := .event (.upPdr hs)

theorem State.sound.send (hs : s.sound) {m : Msg} : (s.send m).sound := .upFab hs

theorem State.sound.deliver (hs : s.sound) {m : Msg} : (s.deliver m).sound := .upFab hs

theorem State.sound.charge (hs : s.sound) {h : BitVec 12} {n k : Nat} {part : Option Nat} : (s.charge h n k part).sound := by
  unfold State.charge
  split
  · exact hs
  · exact .setMeter hs

theorem State.sound.uncount (hs : s.sound) {unit code k : Nat} {hue : BitVec 12} {cls : BitVec 3} {filtered : Bool} :
    (s.uncount unit code k hue cls filtered).sound :=
  .ite hs (.setUncUnit hs)

theorem State.sound.sbSend (hs : s.sound) {d : Nat} {fromHub : Bool} {typ : Byte} {payload : Bytes} :
    (s.sbSend d fromHub typ payload).sound :=
  .ite hs (.ite (.setPort hs) (.setPort hs))

theorem State.sound.hartCtl (hs : s.sound) {d : Nat} {op : Byte} {harts : Nat} : (s.hartCtl d op harts).sound := .sbSend hs

/-! ### The events and the meters of a hart -/

theorem State.sound.hartEvent (hs : s.sound) {h : HartId} {code : Nat} {st : Stamp} : (s.hartEvent h code st).sound := .setHart hs

theorem State.sound.meterSend (hs : s.sound) {h : HartId} {hue : BitVec 12} : (s.meterSend h hue).sound := by
  unfold State.meterSend
  dsimp only
  exact .setHart (.charge (.charge (.charge (.ite₂ (.takeNat hs) hs))))

/-! ### What a hart has in flight -/

theorem State.sound.chooseSample (hs : s.sound) {h : HartId} {p : Priv × Bool} : (s.chooseSample h p).2.sound := by
  unfold State.chooseSample
  dsimp only
  refine .ite₂ hs ?_
  split
  · exact .snd (.setHart hs)
  · exact .snd (.setHart hs)
  · exact .snd (.setHart (.takeNat hs))

theorem State.sound.endSample (hs : s.sound) {h : HartId} {w : Waiting} {ends : Nat} : (s.endSample h w ends).sound := by
  unfold State.endSample
  dsimp only
  exact .ite hs (.ite (.setHart hs) (.setHart (.takeWord hs)))

theorem State.sound.dispatch (hs : s.sound) {h : HartId} {op : HartOp} {st : Stamp} : (s.dispatch h op st).2.sound := by
  unfold State.dispatch
  dsimp only
  refine .ite₂ hs ?_
  split
  · exact .snd (.setHart hs)
  · exact .snd (.setHart (.chooseSample hs))

theorem State.sound.squashed (hs : s.sound) {h : HartId} {gone : List Waiting} : (s.squashed h gone).sound :=
  .forEach hs fun _ _ ht => .endSample (.setHart ht)

theorem State.sound.squashAfter (hs : s.sound) {h : HartId} {n : Nat} : (s.squashAfter h n).sound := .squashed (.setHart hs)

theorem State.sound.squash (hs : s.sound) {h : HartId} : (s.squash h).sound := .squashed (.setHart hs)

/-! ### Traps -/

theorem State.sound.trap (hs : s.sound) {h : HartId} {st : Stamp} {t : TrapInfo} : (s.trap h st t).sound :=
  .setHart (.ite (.setHart (.squash hs)) (.meterSend (.setHart (.squash hs))))

theorem State.sound.hardwareError (hs : s.sound) {h : HartId} {st : Stamp} {va : Word} {pa : Nat} {why : ErrReason} :
    (s.hardwareError h st va pa why).sound :=
  .trap (.logE hs)

/-! ### The interrupt files -/

theorem State.sound.fileLines (hs : s.sound) {i : Nat} : (s.fileLines i).sound := .setHart hs

theorem State.sound.startHart (hs : s.sound) {i : Nat} : (s.startHart i).sound := .setHart hs

theorem State.sound.unpark (hs : s.sound) {i : Nat} : (s.unpark i).sound := .ite (.startHart hs) hs

theorem State.sound.setPending (hs : s.sound) {key id : Nat} : (s.setPending key id).sound :=
  .ite hs (.fileLines (.charge (.ite (.unpark (.setFile hs)) (.setFile hs))))

theorem State.sound.fileWrite4 (hs : s.sound) {key off v : Nat} {hue : BitVec 12} : (s.fileWrite4 key off v hue).sound :=
  .ite hs (.ite (.setPending hs) (.logE hs))

theorem State.sound.fileWrite (hs : s.sound) {key off size : Nat} {v : Word} {hue : BitVec 12} : (s.fileWrite key off size v hue).sound :=
  .ite (.fileWrite4 (.fileWrite4 hs)) (.fileWrite4 hs)

theorem State.sound.packageMsi (hs : s.sound) {addr : Option Nat} {data : BitVec 32} {hue : BitVec 12} {part : Option Nat}
    {src : ErrSource} {unit : Nat} {configured : Word} : (s.packageMsi addr data hue part src unit configured).sound := by
  unfold State.packageMsi
  split
  · exact .ite (.upFab hs) (.logE hs)
  · exact .logE hs

theorem State.sound.clearFile (hs : s.sound) {key : Nat} {owner : Option (BitVec 12)} : (s.clearFile key owner).sound :=
  .fileLines (.setFile hs)

/-! ### The wired interrupts -/

theorem State.sound.aplicSend (hs : s.sound) {p : Option Nat} {super : Bool} : (s.aplicSend p super).sound :=
  .ite hs (.forEach hs fun _ _ ht => .upFab (.setAplic ht))

theorem State.sound.aplicSample (hs : s.sound) {p : Option Nat} {n : Nat} : (s.aplicSample p n).sound := .setAplic (.setAplic hs)

theorem State.sound.aplicSync (hs : s.sound) {sources : List Nat} : (s.aplicSync sources).sound :=
  .forEach hs fun _ _ ht => .aplicSend (.aplicSend (.forEach ht fun _ _ hu => .aplicSample hu))

theorem State.sound.aplicWrite (hs : s.sound) {p : Option Nat} {super : Bool} {off v : Nat} : (s.aplicWrite p super off v).sound :=
  .ite (.upFab (.ite (.aplicSample (.setAplic hs)) (.setAplic hs))) (.aplicSend (.aplicSend (.ite (.aplicSample (.setAplic hs)) (.setAplic
    hs))))

theorem Kept.intxMessage (hs : s.sound) {port : Fin 32} {pin : Fin 4} {asserted : Bool} : Kept (execIntxMessage port pin asserted s) :=
  .live hs fun _ ht => .ite (.next (.aplicSync (.setRootPort ht))) (.next ht)

/-! ### The mailboxes -/

theorem State.sound.pick (hs : s.sound) {l : List (Nat × Nat)} : (s.pick l).2.sound := by
  unfold State.pick
  dsimp only
  split
  · exact hs
  · exact hs
  · exact .snd (.takeNat hs)

theorem State.sound.answer (hs : s.sound) {i st detail : Nat} {result : Bytes} : (s.answer i st detail result).sound := by
  unfold State.answer
  dsimp only
  split
  · exact hs
  · exact .setMbx (.ite (.logE hs) hs)

theorem State.sound.unknowns (hs : s.sound) {iss : Issuer} {n : Nat} : (s.unknowns iss n).sound := by
  induction n generalizing s with
  | zero => exact hs
  | succ n ih =>
    unfold State.unknowns
    split
    · exact hs
    · exact .ite hs (ih (.answer (.pick hs)))

theorem State.sound.respond (hs : s.sound) {iss : Issuer} {st : Nat} {result : Bytes} {detail : Nat} :
    (s.respond iss st result detail).sound :=
  .unknowns (.answer hs)

theorem State.sound.accept (hs : s.sound) {iss : Issuer} {op : Nat} {c : CmdCell} {tag : BitVec 3} : (s.accept iss op c tag).sound :=
  .setMbx (.upMordant hs)

theorem State.sound.command (hs : s.sound) {iss : Issuer} {c : CmdCell} {op : Nat} {len : Nat → Bool} {zero : List Nat} {inScope : Bool}
    {bad : List (Nat × Nat)} {act : State → Option Bytes × State} (hact : ∀ t, t.sound → (act t).2.sound) :
    (s.command iss c op len zero inScope bad act).sound := by
  unfold State.command
  extract_lets u ready
  have kept : KeptSome ready := by
    dsimp only [ready]
    split
    · refine .ite ?_ .none
      split
      · exact .some (.setMbx (.accept hs))
      · exact .some (.accept hs)
    · exact .ite (.some hs) .none
  clear_value ready
  split
  · exact hs
  · next t =>
      have ht : t.sound := .of_some kept rfl
      refine .ite ht (.ite ?_ (.respond (.pick ht)))
      split
      · next e => exact .respond (.of_snd (hact _ ht) e)
      · next e => exact .of_snd (hact _ ht) e

/-! ### The configuration store -/

theorem State.sound.journal (hs : s.sound) {t : JType} {lot : BitVec 32} {entries : List (Nat × Word)} :
    (s.journal t lot entries).sound :=
  .upStore hs

theorem State.sound.loadStore (hs : s.sound) : s.loadStore.sound := by
  unfold State.loadStore
  split
  · exact .logE (.upConfig (.upStore hs))
  · exact .forEach (.upConfig (.upStore hs)) fun _ _ ht => .logE ht

theorem State.sound.compact (hs : s.sound) {goodWrites : Nat} : (s.compact goodWrites).sound := by
  unfold State.compact
  refine .ite hs (.ite (.logE (.upStore hs)) ?_)
  split
  · exact hs
  · exact .upStore hs

theorem State.sound.cfgWrite (hs : s.sound) {r : Nat} {value mask : Word} : (s.cfgWrite r value mask).sound :=
  .ite (.ite (.upConfig hs) (.journal (.ite (.forEach (.setCfg (.upConfig hs)) fun _ _ ht => .ite (.setDieCfg ht) ht) (.setCfg (.upConfig
    hs))))) (.journal (.upConfig (.ite (.upConfig hs) (.journal (.ite (.forEach (.setCfg (.upConfig hs)) fun _ _ ht => .ite (.setDieCfg
    ht) ht) (.setCfg (.upConfig hs)))))))

theorem State.sound.loadDie (hs : s.sound) {d : Nat} : (s.loadDie d).sound := .setDieCfg hs

theorem State.sound.sendLoad (hs : s.sound) {d : Nat} : (s.sendLoad d).sound := .forEach hs fun _ _ ht => .sbSend ht

theorem State.sound.commitSend (hs : s.sound) {ps : List (Fin 4)} {typ : Byte} {lot : BitVec 32} {entries : List (Nat × Word)}
    {t : Word} : (s.commitSend ps typ lot entries t).sound :=
  .upCasc hs

theorem State.sound.flipAt (hs : s.sound) {k : Commit} {t : Word} : (s.flipAt k t).sound :=
  .forEach (.upConfig hs) fun _ _ ht => .sbSend ht

theorem State.sound.sendFlip (hs : s.sound) {k : Commit} : (s.sendFlip k).sound := .commitSend (.flipAt hs)

theorem State.sound.commitFlip (hs : s.sound) {k : Commit} : (s.commitFlip k).sound :=
  .ite (.commitSend (.upConfig (.journal hs))) (.sendFlip (.journal hs))

theorem State.sound.commitGo (hs : s.sound) {k : Commit} : (s.commitGo k).sound := .ite (.commitFlip hs) (.upConfig hs)

theorem State.sound.commitRestart (hs : s.sound) : s.commitRestart.sound := by
  unfold State.commitRestart
  split
  · exact hs
  · split
    · exact .ite (.flipAt hs) (.sendFlip hs)
    · exact .ite hs (.upConfig hs)

theorem State.sound.commitPrepare (hs : s.sound) {k : Commit} : (s.commitPrepare k).sound :=
  .ite (.commitFlip (.commitSend hs)) (.forEach (.upConfig (.commitSend hs)) fun _ _ ht => .forEach ht fun _ _ hu => .sbSend hu)

theorem State.sound.commitStart (hs : s.sound) {iss : Issuer} : (s.commitStart iss).sound := .commitPrepare hs

theorem State.sound.memberPrepare (hs : s.sound) {lot : BitVec 32} {entries : List (Nat × Word)} : (s.memberPrepare lot entries).sound :=
  .commitPrepare hs

theorem State.sound.commitAck (hs : s.sound) {d : Fin 12} {lot : BitVec 32} : (s.commitAck d lot).sound := by
  unfold State.commitAck
  split
  · exact hs
  · exact .ite hs (.commitGo hs)

theorem State.sound.memberAck (hs : s.sound) {p : Fin 4} {lot : BitVec 32} : (s.memberAck p lot).sound := by
  unfold State.memberAck
  split
  · exact hs
  · exact .ite hs (.commitGo hs)

theorem State.sound.commitFail (hs : s.sound) {st : Nat} : (s.commitFail st).sound := by
  unfold State.commitFail
  split
  · exact hs
  · exact .ite (.upStore (.forEach (.upConfig hs) fun _ _ ht => .sbSend ht)) (.ite (.respond (.commitSend (.forEach (.upConfig hs) fun _ _
      ht => .sbSend ht))) (.commitSend (.forEach (.upConfig hs) fun _ _ ht => .sbSend ht)))

theorem State.sound.hubFlip (hs : s.sound) {k : Commit} : (s.hubFlip k).sound :=
  .forEach (.upConfig (.forEach hs fun _ _ ht => .setCfg ht)) fun _ _ ht => .setHueSt (.upConfig ht)

theorem State.sound.lotBoundary (hs : s.sound) : s.lotBoundary.sound := by
  unfold State.lotBoundary
  split
  · exact hs
  · split
    · exact hs
    · exact .event (.ite (.respond (.upConfig (.forEach (.hubFlip (.forEach (.reach hs) fun _ _ ht => .setDieCfg ht)) fun _ _ ht => .logE
        ht))) (.upConfig (.forEach (.hubFlip (.forEach (.reach hs) fun _ _ ht => .setDieCfg ht)) fun _ _ ht => .logE ht)))

theorem State.sound.discardStaged (hs : s.sound) {iss : Issuer} : (s.discardStaged iss).2.sound := by
  unfold State.discardStaged
  exact .snd (.upConfig hs)

theorem State.sound.memberFlip (hs : s.sound) {lot : BitVec 32} {t : Word} : (s.memberFlip lot t).sound := by
  unfold State.memberFlip
  split
  · exact hs
  · exact .ite (.flipAt hs) hs

theorem State.sound.memberDiscard (hs : s.sound) {lot : BitVec 32} : (s.memberDiscard lot).sound := by
  unfold State.memberDiscard
  split
  · exact hs
  · exact .ite (.commitFail hs) hs

theorem State.sound.dieHold (hs : s.sound) {d : Fin 12} {p : Bytes} : (s.dieHold d p).sound :=
  .ite (.setDieCfg hs) (.ite (.sbSend (.setDieCfg hs)) (.setDieCfg hs))

theorem State.sound.dieFlip (hs : s.sound) {d : Fin 12} {lot : BitVec 32} {t : Word} : (s.dieFlip d lot t).sound := by
  unfold State.dieFlip
  dsimp only
  split
  · exact .ite (.setDieCfg hs) hs
  · exact hs

theorem State.sound.dieDiscard (hs : s.sound) {d : Fin 12} {lot : BitVec 32} : (s.dieDiscard d lot).sound := by
  unfold State.dieDiscard
  dsimp only
  split
  · exact .ite (.setDieCfg hs) hs
  · exact hs

theorem State.sound.dieLoad (hs : s.sound) {d : Fin 12} {p : Bytes} : (s.dieLoad d p).sound := .setDieCfg hs

/-! ### The censuses -/

theorem State.sound.censusEnd (hs : s.sound) : s.censusEnd.sound := .ite (.ite (.event (.upCensus hs)) (.upCensus hs)) hs

theorem State.sound.mismatchBit (hs : s.sound) {d : Nat} {b : Bool} : (s.mismatchBit d b).sound := .upCensus hs

theorem State.sound.rewrittenBit (hs : s.sound) {d : Nat} {b : Bool} : (s.rewrittenBit d b).sound := .upCensus hs

theorem State.sound.censusReport (hs : s.sound) {d : Nat} {lot : BitVec 32} {shade : Word} : (s.censusReport d lot shade).sound :=
  .ite (.upCensus hs) (.ite (.censusEnd (.upCensus (.ite (.logE (.rewrittenBit (.mismatchBit (.upCensus hs)))) (.mismatchBit (.upCensus
    hs))))) (.ite (.ite (.sbSend (.sendLoad (.rewrittenBit (.event (.mismatchBit (.upCensus hs)))))) (.censusEnd (.upCensus (.logE
    (.rewrittenBit (.mismatchBit (.forEach (.rewrittenBit (.event (.mismatchBit (.upCensus hs)))) fun _ _ ht => .upConfig ht)))))))
    (.censusEnd (.upCensus (.ite (.upCensus (.logE (.rewrittenBit (.event (.mismatchBit (.upCensus hs)))))) (.logE (.rewrittenBit (.event
    (.mismatchBit (.upCensus hs))))))))))

theorem State.sound.censusStart (hs : s.sound) {by_ : Option Issuer} : (s.censusStart by_).sound :=
  .ite hs (.forEach (.upCensus hs) fun _ _ ht => .sbSend ht)

theorem State.sound.bisectEnd (hs : s.sound) {st : Nat} {result : Bytes} : (s.bisectEnd st result).sound := by
  unfold State.bisectEnd
  split
  · exact hs
  · exact .respond (.upCensus hs)

theorem State.sound.bisectEntry (hs : s.sound) {d lo : Nat} {got : Word} : (s.bisectEntry d lo got).sound := by
  unfold State.bisectEntry
  split
  · exact .bisectEnd hs
  · split <;> exact .bisectEnd hs

theorem State.sound.bisectAsk (hs : s.sound) {d lo hi : Nat} : (s.bisectAsk d lo hi).sound :=
  .ite (.sbSend (.upCensus hs)) (.sbSend (.upCensus hs))

theorem State.sound.bisectReport (hs : s.sound) {d : Nat} {lot : BitVec 32} {shade : Word} : (s.bisectReport d lot shade).sound := by
  unfold State.bisectReport
  split
  · exact .ite hs (.ite (.ite (.bisectEnd hs) (.bisectEnd hs)) (.ite (.bisectAsk hs) (.bisectEntry hs)))
  · exact hs

theorem State.sound.bisectStart (hs : s.sound) {iss : Issuer} {d : Nat} : (s.bisectStart iss d).sound :=
  .ite (.sbSend (.upCensus hs)) (.bisectReport (.upCensus hs))

theorem State.sound.bisectPart (hs : s.sound) {d a b : Nat} {crc : Word} : (s.bisectPart d a b crc).sound := by
  unfold State.bisectPart
  split
  · exact .ite (.ite (.bisectAsk hs) (.bisectAsk hs)) hs
  · exact hs

theorem State.sound.dieGone (hs : s.sound) {d : Nat} : (s.dieGone d).sound := by
  unfold State.dieGone
  dsimp only
  split
  · exact .ite (.bisectEnd (.censusEnd (.upCensus hs))) (.censusEnd (.upCensus hs))
  · exact .censusEnd (.upCensus hs)

/-! ### The caches of a core and of a die -/

theorem State.sound.markDelay (hs : s.sound) {l : List HartId} : (s.markDelay l).sound := .forEach hs fun _ _ ht => .setHart ht

theorem State.sound.endResv (hs : s.sound) {d : Fin 12} {cs : List (Fin 22)} {line : Nat} {who : Option HartId} :
    (s.endResv d cs line who).sound :=
  .forEach hs fun _ _ ht => .ite (.setHart ht) ht

theorem State.sound.probeCopies (hs : s.sound) {d : Fin 12} {line : Nat} {inval : Bool} {except : Option (Fin 22)} :
    (s.probeCopies d line inval except).sound := by
  unfold State.probeCopies
  dsimp only
  exact .forEach hs fun _ _ ht => .setDie (.setCore ht)

theorem State.sound.probeCores (hs : s.sound) {d : Fin 12} {line : Nat} {inval : Bool} {except : Option (Fin 22)} {who : Option HartId} :
    (s.probeCores d line inval except who).sound :=
  .probeCopies (.endResv hs)

theorem State.sound.logArray (hs : s.sound) {src : ErrSource} {unit line info : Nat} {e : LineErr} {dirty : Bool} :
    (s.logArray src unit line info e dirty).sound := by
  unfold State.logArray
  split
  · exact hs
  · exact .logE hs
  · exact .ite (.logE hs) (.logE hs)
  · exact .logE hs

theorem State.sound.logCore (hs : s.sound) {src : ErrSource} {c : CoreId} {line : Nat} {e : LineErr} {dirty : Bool} :
    (s.logCore src c line e dirty).sound :=
  .logArray hs

theorem State.sound.settleL1i (hs : s.sound) {c : CoreId} {line : Nat} : (s.settleL1i c line).sound := by
  unfold State.settleL1i
  dsimp only
  split
  · exact .ite hs (.logCore (.setCore hs))
  · exact hs

theorem State.sound.settleL1d (hs : s.sound) {c : CoreId} {line : Nat} : (s.settleL1d c line).sound := by
  unfold State.settleL1d
  dsimp only
  split
  · exact .ite hs (.logCore (.setCore hs))
  · exact hs

theorem State.sound.settleL2 (hs : s.sound) {c : CoreId} {line : Nat} : (s.settleL2 c line).sound := by
  unfold State.settleL2
  dsimp only
  split
  · exact .ite hs (.logCore (.setCore hs))
  · exact hs

theorem State.sound.settleCore (hs : s.sound) {c : CoreId} {line : Nat} : (s.settleCore c line).sound :=
  .settleL2 (.settleL1d (.settleL1i hs))

theorem State.sound.settleL3 (hs : s.sound) {d : Fin 12} {line : Nat} : (s.settleL3 d line).sound := by
  unfold State.settleL3
  split
  · exact hs
  · refine .ite hs ?_
    dsimp only
    split
    · exact .probeCores (.logArray hs)
    · exact .setDie (.probeCores (.logArray hs))

theorem State.sound.settle (hs : s.sound) {d : Fin 12} {line : Nat} : (s.settle d line).sound :=
  .settleL3 (.forEach hs fun _ _ ht => .settleCore ht)

theorem State.sound.fillL2 (hs : s.sound) {d : Fin 12} {c : Fin 22} {line : Nat} {st : CState} {data : Bytes} {poison hint : Bool} :
    (s.fillL2 d c line st data poison hint).sound := by
  unfold State.fillL2
  dsimp only
  refine .ite hs ?_
  split
  · refine .setDie (.setCore ?_)
    split
    · exact .setDie (.setCore (.settleCore hs))
    · exact hs
  · refine .setCore ?_
    split
    · exact .setDie (.setCore (.settleCore hs))
    · exact hs

theorem State.sound.dieSend (hs : s.sound) {d : Fin 12} {m : Msg} : (s.dieSend d m).sound := .ite hs (.send hs)

theorem State.sound.writeback (hs : s.sound) {d : Fin 12} {line : Nat} {data : Bytes} {poison : Bool} {hue : BitVec 12} :
    (s.writeback d line data poison hue).sound :=
  .dieSend (.setDie hs)

theorem State.sound.evictL3 (hs : s.sound) {d : Fin 12} {line : Nat} : (s.evictL3 d line).1.sound := by
  unfold State.evictL3
  dsimp only
  split
  · exact .fst (.probeCores (.settle hs))
  · exact .fst (.setDie (.probeCores (.settle hs)))

theorem State.sound.fillL3 (hs : s.sound) {d : Fin 12} {line : Nat} {st : CState} {data : Bytes} {poison hint : Bool} {hue : BitVec 12}
    {spec : Bool} : (s.fillL3 d line st data poison hint hue spec).2.sound := by
  unfold State.fillL3
  dsimp only
  split
  · exact hs
  · split
    · exact .snd (.setDie (.setDie hs))
    · refine .ite₂ (.snd (.setDie hs)) (.ite₂ (.snd (.markDelay (.setDie hs))) ?_)
      split
      · exact .snd (.setDie (.writeback (.evictL3 (.setDie hs))))
      · exact .snd (.setDie (.evictL3 (.setDie hs)))

theorem State.sound.sendMiss (hs : s.sound) {d : Fin 12} {m : L3Miss} {data : Option (Bytes × Bool)} : (s.sendMiss d m data).sound :=
  .dieSend hs

theorem State.sound.askLine (hs : s.sound) {d : Fin 12} {c : Fin 22} {line : Nat} {k : MissKind} {hue : BitVec 12} {counted : Bool}
    {data : Option (Bytes × Bool)} : (s.askLine d c line k hue counted data).2.sound := by
  unfold State.askLine
  dsimp only
  split
  · exact hs
  · split
    · exact .ite₂ hs (.snd (.setDie (.setCore hs)))
    · exact .ite₂ hs (.snd (.ite (.setDie (.setCore hs)) (.sendMiss (.setDie (.setCore hs)))))

theorem State.sound.sendUnsent (hs : s.sound) {d : Fin 12} {line : Nat} : (s.sendUnsent d line).sound := by
  unfold State.sendUnsent
  dsimp only
  split
  · exact .ite (.sendMiss (.setDie hs)) hs
  · exact hs

theorem State.sound.freeMiss (hs : s.sound) {d : Fin 12} {line : Nat} {arrived : Bool} : (s.freeMiss d line arrived).sound :=
  .forEach (.forEach hs fun _ _ ht => .ite (.setHart ht) ht) fun _ _ ht => .ite (.setCore ht) ht

theorem State.sound.useL3 (hs : s.sound) {d : Fin 12} {line : Nat} {counts : Bool} : (s.useL3 d line counts).sound := .ite (.setDie hs) hs

theorem State.sound.readLine (hs : s.sound) {h : HartId} {line : Nat} {p : Path} {a : Ask} : (s.readLine h line p a).2.sound := by
  unfold State.readLine
  dsimp only
  split
  · exact .snd (.setCore (.settle hs))
  · split
    · refine .snd ?_
      refine .ite (.ite (.setCore (.settle hs)) (.setCore (.setCore (.settle hs)))) ?_
      split
      · exact .setCore (.ite (.setCore (.settle hs)) (.setCore (.setCore (.settle hs))))
      · exact .setCore (.ite (.setCore (.settle hs)) (.setCore (.setCore (.settle hs))))
      · exact .setCore (.ite (.setCore (.settle hs)) (.setCore (.setCore (.settle hs))))
      · exact .ite (.setCore (.settle hs)) (.setCore (.setCore (.settle hs)))
    · split
      · refine .ite₂ (.snd (.markDelay (.setCore (.settle hs)))) ?_
        split
        · refine .snd ?_
          refine .ite (.fillL2 (.useL3 (.probeCores (.setCore (.settle hs))))) ?_
          split
          · exact .setCore (.fillL2 (.useL3 (.probeCores (.setCore (.settle hs)))))
          · exact .setCore (.fillL2 (.useL3 (.probeCores (.setCore (.settle hs)))))
          · exact .setCore (.fillL2 (.useL3 (.probeCores (.setCore (.settle hs)))))
          · exact .fillL2 (.useL3 (.probeCores (.setCore (.settle hs))))
        · exact .snd (.useL3 (.probeCores (.setCore (.settle hs))))
      · exact .snd (.askLine (.setCore (.settle hs)))

theorem State.sound.ownDie (hs : s.sound) {h : HartId} {line : Nat} {op : Op} {hint : Bool} {a : Ask} :
    (s.ownDie h line op hint a).2.sound := by
  unfold State.ownDie
  dsimp only
  split
  · exact .snd (.askLine hs)
  · refine .ite₂ hs (.ite₂ (.snd (.askLine hs)) (.ite₂ (.snd (.markDelay hs)) ?_))
    split
    · exact .snd (.useL3 (.probeCores hs))
    · split
      · exact .snd (.setCore (.useL3 (.probeCores hs)))
      · exact .snd (.fillL2 (.useL3 (.probeCores hs)))

theorem State.sound.ownLine (hs : s.sound) {h : HartId} {line : Nat} {op : Op} {hint : Bool} {a : Ask} :
    (s.ownLine h line op hint a).2.sound := by
  unfold State.ownLine
  dsimp only
  split
  · exact .ite₂ (.snd (.ite (.setCore (.settle hs)) (.setCore (.setCore (.settle hs))))) (.ownDie (.setCore (.settle hs)))
  · exact .ownDie (.setCore (.settle hs))

theorem State.sound.readNc (hs : s.sound) {h : HartId} {line : Nat} {a : Ask} : (s.readNc h line a).2.sound := by
  unfold State.readNc
  dsimp only
  split
  · refine .ite₂ (.snd (.markDelay (.settle hs))) ?_
    split <;> exact .snd (.useL3 (.probeCores (.settle hs)))
  · split
    · exact .snd (.settle hs)
    · exact .snd (.askLine (.settle hs))

theorem State.sound.ownNc (hs : s.sound) {h : HartId} {line : Nat} {op : Op} {a : Ask} : (s.ownNc h line op a).2.sound := by
  unfold State.ownNc
  dsimp only
  split
  · refine .ite₂ (.snd (.settle hs)) ?_
    refine .ite₂ (.snd (.askLine (.settle hs))) (.ite₂ (.snd (.markDelay (.settle hs))) ?_)
    split <;> exact .snd (.useL3 (.probeCores (.settle hs)))
  · split
    · exact .ite₂ (.snd (.settle hs)) (.snd (.settle hs))
    · exact .snd (.askLine (.settle hs))

theorem State.sound.writeNc (hs : s.sound) {d : Fin 12} {line off : Nat} {bytes : Bytes} {whole : Bool} :
    (s.writeNc d line off bytes whole).sound := by
  unfold State.writeNc
  dsimp only
  split <;> exact .setDie hs

theorem State.sound.zeroNc (hs : s.sound) {d : Fin 12} {line : Nat} {hue : BitVec 12} : (s.zeroNc d line hue).sound := by
  unfold State.zeroNc
  split
  · exact .writeback (.evictL3 hs)
  · exact .writeNc hs

theorem State.sound.writeLine (hs : s.sound) {h : HartId} {va : Word} {line off : Nat} {bytes : Bytes} {whole : Bool} :
    (s.writeLine h va line off bytes whole).sound := by
  unfold State.writeLine
  dsimp only
  split
  · split
    · exact .setCore (.endResv hs)
    · exact .setCore (.endResv hs)
    · exact .endResv hs
  · split
    · exact .setDie (.endResv hs)
    · exact .endResv hs

/-! ### Translation -/

theorem State.sound.dropTlb (hs : s.sound) {h : HartId} {p : TlbEntry → Bool} : (s.dropTlb h p).sound := .setCore (.setHart hs)

theorem State.sound.tlbParity (hs : s.sound) {h : HartId} {failed : Bool} : (s.tlbParity h failed).sound := .ite (.logE hs) hs

theorem State.sound.walkParity (hs : s.sound) {h : HartId} {s1 g : WalkEntry → Bool} {leaf : TlbEntry → Bool} :
    (s.walkParity h s1 g leaf).sound :=
  .tlbParity (.setCore hs)

theorem State.sound.walkFault (hs : s.sound) {h : HartId} {w : Walk} {t : TrapInfo} : (s.walkFault h w t).sound := .setHart hs

theorem State.sound.dropFor (hs : s.sound) {h : HartId} {c : Ctx} {va gpa : Nat} {guest : Bool} : (s.dropFor h c va gpa guest).sound :=
  .dropTlb hs

theorem State.sound.walkDone (hs : s.sound) {h : HartId} {w : Walk} {e : TlbEntry} {g : Option TlbEntry} : (s.walkDone h w e g).sound :=
  .setCore (.setHart (.frame hs))

theorem State.sound.walkSettle (hs : s.sound) {h : HartId} {w : Walk} : (s.walkSettle h w).sound := by
  unfold State.walkSettle
  dsimp only
  split
  · refine .ite (.walkDone (.walkParity hs)) (.ite (.walkFault (.walkParity hs)) ?_)
    split
    · exact .walkDone (.walkParity hs)
    · exact .setHart (.walkParity hs)
  · refine .ite (.setHart (.walkParity hs)) (.ite (.walkFault (.walkParity hs)) ?_)
    split
    · exact .ite (.setHart (.walkParity hs)) (.walkFault (.walkParity hs))
    · exact .setHart (.walkParity hs)

theorem State.sound.walkStart (hs : s.sound) {h : HartId} {va : Word} {need : Need} {st : Stamp} {spec hint : Bool} :
    (s.walkStart h va need st spec hint).sound := by
  unfold State.walkStart
  dsimp only
  exact .ite hs (.walkSettle (.walkParity (.hartEvent hs)))

theorem State.sound.keyEnable (hs : s.sound) {h : HartId} {virt : Bool} {e : TlbEntry} : (s.keyEnable h virt e).2.sound := by
  unfold State.keyEnable
  dsimp only
  exact .ite₂ (.snd (.takeNat hs)) hs

theorem State.sound.markOld (hs : s.sound) {h : HartId} {virt : Bool} : (s.markOld h virt).sound := .setCore (.setHart hs)

theorem State.sound.walkGot (hs : s.sound) {h : HartId} {w : Walk} {v : Word} : (s.walkGot h w v).sound := by
  unfold State.walkGot
  dsimp only
  split
  · split
    · exact .walkFault (.ite (.dropFor hs) hs)
    · exact .setHart hs
    · refine .ite (.walkFault (.ite (.dropFor hs) hs)) ?_
      refine .ite (.ite (.walkSettle hs) (.walkFault (.ite (.dropFor hs) hs))) ?_
      split
      · exact .walkDone hs
      · exact hs
  · split
    · exact .walkFault hs
    · exact .walkSettle hs
    · refine .ite (.walkFault (.ite (.dropFor hs) hs)) ?_
      split
      · exact .walkFault (.ite (.dropFor hs) hs)
      · exact .walkSettle hs

theorem State.sound.countBelow (hs : s.sound) {h : HartId} {line : Nat} {st : Stamp} : (s.countBelow h line st).sound :=
  .ite hs (.ite (.hartEvent (.uncount (.hartEvent hs))) (.uncount (.hartEvent hs)))

theorem State.sound.countWalkMiss (hs : s.sound) {h : HartId} {line : Nat} {st : Stamp} : (s.countWalkMiss h line st).sound :=
  .setHart (.countBelow hs)

theorem State.sound.walkRead (hs : s.sound) {h : HartId} : (s.walkRead h).sound := by
  unfold State.walkRead
  dsimp only
  split
  · exact hs
  · refine .ite hs ?_
    split
    · exact .walkSettle hs
    · refine .ite (.walkFault hs) (.ite (.walkFault (.ite hs (.logE hs))) ?_)
      split
      · next _ _ t e =>
          have ht : t.sound := .of_snd (.readLine (.ite hs (.countWalkMiss hs))) e
          exact .ite (.walkFault (.ite ht (.logE ht))) (.walkGot ht)
      · next e => exact .setHart (.of_snd (.readLine (.ite hs (.countWalkMiss hs))) e)
      · next e => exact .of_snd (.readLine (.ite hs (.countWalkMiss hs))) e

theorem State.sound.lookup (hs : s.sound) {h : HartId} {c : Ctx} {addr : Nat} {need : Need} {st : Stamp} {counted : Bool} :
    (s.lookup h c addr need st counted).2.sound := by
  unfold State.lookup
  dsimp only
  split
  · exact .snd (.ite (.tlbParity (.setHart hs)) hs)
  · split
    · exact .snd (.setHart (.takeNat (.ite (.tlbParity (.setCore (.ite (.ite (.tlbParity (.setHart hs)) hs) (.hartEvent (.ite (.tlbParity
        (.setHart hs)) hs))))) (.ite (.ite (.tlbParity (.setHart hs)) hs) (.hartEvent (.ite (.tlbParity (.setHart hs)) hs))))))
    · exact .snd (.ite (.tlbParity (.setCore (.ite (.ite (.tlbParity (.setHart hs)) hs) (.hartEvent (.ite (.tlbParity (.setHart hs))
        hs))))) (.ite (.ite (.tlbParity (.setHart hs)) hs) (.hartEvent (.ite (.tlbParity (.setHart hs)) hs))))

theorem State.sound.translate (hs : s.sound) {h : HartId} {va : Word} {need : Need} {st : Stamp} {spec hint counted : Bool} :
    (s.translate h va need st spec hint counted).2.sound := by
  unfold State.translate
  dsimp only
  refine .ite₂ hs (.ite₂ hs (.ite₂ hs ?_))
  split
  · exact .snd (.setHart hs)
  · split
    · next e => exact .snd (.walkStart (.of_snd (.lookup hs) e))
    · next _ t e =>
        have ht : t.sound := .of_snd (.lookup hs) e
        split
        · exact .snd (.ite (.dropFor (.keyEnable ht)) (.keyEnable ht))
        · exact .snd (.keyEnable ht)

theorem State.sound.invalidate (hs : s.sound) {h : HartId} {q : FenceSel} : (s.invalidate h q).sound :=
  .setCore (.forEach (.dropTlb hs) fun _ _ ht => .ite (.setHart ht) ht)

/-! ### The CSRs -/

theorem State.sound.indirectWrite (hs : s.sound) {h : HartId} {n : Nat} {v : Word} : (s.indirectWrite h n v).sound := by
  unfold State.indirectWrite
  dsimp only
  split
  · exact hs
  · exact .setFile hs

theorem State.sound.csrLines (hs : s.sound) {h : HartId} : (s.csrLines h).sound := .fileLines (.setHart hs)

theorem State.sound.hueWrite (hs : s.sound) {h : HartId} {v : Word} : (s.hueWrite h v).sound := .setHart (.ite hs (.meterSend hs))

theorem State.sound.bpOffWrite (hs : s.sound) {h : HartId} {v : Word} : (s.bpOffWrite h v).sound := .setHart (.meterSend (.squash hs))

theorem State.sound.cacheCtl (hs : s.sound) {h : HartId} {v : Word} {k : Option FlushKind} : (s.cacheCtl h v k).sound := .setCore hs

theorem State.sound.cacheWrite (hs : s.sound) {h : HartId} {v : Word} : (s.cacheWrite h v).sound := .cacheCtl hs

theorem State.sound.keyctlWrite (hs : s.sound) {h : HartId} {v : Word} : (s.keyctlWrite h v).sound :=
  .ite (.markOld (.ite (.markOld (.setHart hs)) (.setHart hs))) (.ite (.markOld (.setHart hs)) (.setHart hs))

theorem State.sound.csrWrite (hs : s.sound) {h : HartId} {n : Nat} {v : Word} {st : Stamp} : (s.csrWrite h n v st).sound :=
  .ite (.bpOffWrite (.setHart hs)) (.ite (.cacheWrite (.setHart hs)) (.ite (.hueWrite (.setHart hs)) (.ite (.csrLines (.keyctlWrite
    (.setHart hs))) (.csrLines (.ite (.indirectWrite (.setHart hs)) (.setHart (.setHart hs)))))))

/-! ### The operations of a hart -/

theorem State.sound.check (hs : s.sound) {h : HartId} {w : Waiting} {need : Need} {u : Use} {spec hint keyLoad whole : Bool}
    {ps : List (Word × Nat)} : (s.check h w need u spec hint keyLoad whole ps).2.sound := by
  induction ps generalizing s with
  | nil => exact hs
  | cons p ps ih =>
    unfold State.check
    split
    · next e => exact .of_snd (.translate hs) e
    · next e => exact .of_snd (.translate hs) e
    · next t e =>
        have ht : t.sound := .of_snd (.translate hs) e
        refine .ite₂ ht (.ite₂ ht ?_)
        split
        · exact ht
        · split
          · next e => exact .of_snd (ih ht) e
          · exact ih ht

theorem State.sound.checkParts (hs : s.sound) {h : HartId} {w : Waiting} {need : Need} {u : Use} {spec keyLoad : Bool}
    {ps : List (Word × Nat)} : (s.checkParts h w need u spec keyLoad ps).2.sound := by
  unfold State.checkParts
  exact .check hs

theorem State.sound.withInst (hs : s.sound) {a : Access} {t : TrapInfo} : (s.withInst a t).2.sound := by
  unfold State.withInst
  dsimp only
  refine .ite₂ hs ?_
  split
  · exact hs
  · exact .snd (.takeWord hs)

theorem State.sound.countMiss (hs : s.sound) {h : HartId} {va : Word} {line : Nat} {fetch : Bool} {st : Stamp} :
    (s.countMiss h va line fetch st).sound :=
  .ite (.countBelow (.ite (.hartEvent (.ite (.hartEvent hs) hs)) (.ite (.hartEvent hs) hs))) (.ite (.hartEvent (.ite (.hartEvent hs) hs))
    (.ite (.hartEvent hs) hs))

theorem State.sound.accessTrap (hs : s.sound) {h : HartId} {w : Waiting} {a : Access} {t : TrapInfo} :
    (s.accessTrap h w a t).2.sound := by
  unfold State.accessTrap
  dsimp only
  exact .trap (.withInst hs)

theorem State.sound.consume (hs : s.sound) {h : HartId} {w : Waiting} {spec : Bool} {va : Word} {pa size : Nat} :
    (s.consume h w spec va pa size).2.sound := by
  unfold State.consume
  dsimp only
  exact .ite₂ (.snd (.takeBytes hs)) (.snd (.hardwareError hs))

theorem State.sound.readParts (hs : s.sound) {h : HartId} {w : Waiting} {path : Path} {spec : Bool} {ps : List Part} :
    (s.readParts h w path spec ps).2.sound := by
  induction ps generalizing s with
  | nil => exact hs
  | cons p ps ih =>
    unfold State.readParts
    extract_lets line u r
    have hu : u.sound := .ite hs (.countMiss hs)
    have hr : r.2.sound := by
      dsimp only [r]
      split
      · exact .readLine hu
      · exact hu
      · exact .readNc hu
    clear_value r
    split
    · exact hr
    · exact hr
    · exact hr
    · split
      · next e => exact .of_snd (ih hr) e
      · exact ih hr

theorem State.sound.sendIo (hs : s.sound) {h : HartId} {w : Waiting} {p : Part} {write : Bool} {value : Word} :
    (s.sendIo h w p write value).2.sound := by
  unfold State.sendIo
  exact .ite₂ hs (.snd (.ite (.setHart hs) (.ite (.upFab (.setHart hs)) (.upFab (.setHart hs)))))

theorem State.sound.finishLoad (hs : s.sound) {h : HartId} {w : Waiting} {a : Access} {rd : Fin 32} {zext : Bool} {cls : LoadClass}
    {bytes : Bytes} : (s.finishLoad h w a rd zext cls bytes).sound :=
  .setHart hs

theorem State.sound.loadFault (hs : s.sound) {h : HartId} {w : Waiting} {a : Access} {cls : LoadClass} {spec : Bool} {t : TrapInfo} :
    (s.loadFault h w a cls spec t).2.sound := by
  unfold State.loadFault
  refine .ite₂ hs ?_
  dsimp only
  split
  · exact .ite₂ (.snd (.setHart hs)) (.accessTrap (.setHart hs))
  · exact .accessTrap hs

theorem State.sound.loadBytes (hs : s.sound) {h : HartId} {w : Waiting} {a : Access} {rd : Fin 32} {zext : Bool} {cls : LoadClass}
    {spec : Bool} {ps : List Part} : (s.loadBytes h w a rd zext cls spec ps).2.sound := by
  unfold State.loadBytes
  split
  · next e => exact .of_snd (.readParts hs) e
  · next e => exact .of_snd (.readParts hs) e
  · next _ _ t e =>
      have ht : t.sound := .of_snd (.readParts hs) e
      exact .ite₂ (.consume ht) (.ite₂ ht (.snd (.finishLoad ht)))

theorem State.sound.tryLoad (hs : s.sound) {h : HartId} {w : Waiting} {u : Use} {a : Access} {rd : Fin 32} {zext : Bool} {cls : LoadClass}
    {spec : Bool} : (s.tryLoad h w u a rd zext cls spec).2.sound := by
  unfold State.tryLoad
  split
  · next e => exact .of_snd (.checkParts hs) e
  · next e => exact .loadFault (.of_snd (.checkParts hs) e)
  · next _ t e =>
      have ht : t.sound := .of_snd (.checkParts hs) e
      dsimp only
      split
      · exact .ite₂ (.ite₂ ht ht) (.ite₂ (.sendIo ht) (.ite₂ ht (.loadBytes ht)))
      · split
        · exact .ite₂ ht (.snd (.finishLoad ht))
        · exact .ite₂ ht (.loadBytes ht)

theorem State.sound.ownParts (hs : s.sound) {h : HartId} {w : Waiting} {op : Op} {ps : List Part} : (s.ownParts h w op ps).2.2.sound := by
  induction ps generalizing s with
  | nil => exact hs
  | cons p ps ih =>
    unfold State.ownParts
    extract_lets line u r
    have hu : u.sound := .ite hs (.countMiss hs)
    have hr : r.2.sound := by
      dsimp only [r]
      split
      · exact .ownLine hu
      · exact .ownNc hu
    clear_value r
    split
    · split
      · next e => exact .of_thd (ih hr) e
      · exact ih hr
    · exact hr
    · exact hr

theorem State.sound.writeParts (hs : s.sound) {h : HartId} {ps : List Part} {b : Bytes} : (s.writeParts h ps b).sound := by
  induction ps generalizing s b with
  | nil => exact hs
  | cons p ps ih =>
    unfold State.writeParts
    refine ih ?_
    split
    · exact .writeLine hs
    · exact .writeNc hs

theorem State.sound.checkOnce (hs : s.sound) {h : HartId} {w : Waiting} {need : Need} {u : Use} {ps : List (Word × Nat)} :
    (s.checkOnce h w need u ps).2.sound := by
  unfold State.checkOnce
  exact .ite₂ (.checkParts hs) hs

theorem State.sound.tryStore (hs : s.sound) {h : HartId} {w : Waiting} {a : Access} {v : Word} {cls : StoreClass} :
    (s.tryStore h w a v cls).2.sound := by
  unfold State.tryStore
  split
  · next e => exact .of_snd (.checkOnce hs) e
  · next _ t e =>
      have ht : t.sound := .of_snd (.checkOnce hs) e
      dsimp only
      split
      · exact .accessTrap (.setHart ht)
      · exact .accessTrap ht
  · next _ t e =>
      have ht : t.sound := .of_snd (.checkOnce hs) e
      dsimp only
      split
      · exact .sendIo ht
      · refine .ite₂ ht ?_
        split
        · next e => exact .of_thd (.ownParts ht) e
        · next e => exact .snd (.setHart (.writeParts (.of_thd (.ownParts ht) e)))

theorem State.sound.tryOwned (hs : s.sound) {h : HartId} {w : Waiting} {a : Access} {need : Need} {u : Use} {keyLoad : Bool}
    {act : State → Waiting → List Part → Bytes → Bool → Att × State} (hact : ∀ t a b c d, t.sound → (act t a b c d).2.sound) :
    (s.tryOwned h w a need u keyLoad act).2.sound := by
  unfold State.tryOwned
  split
  · next e => exact .of_snd (.checkParts hs) e
  · next e => exact .accessTrap (.of_snd (.checkParts hs) e)
  · next _ t e =>
      have ht : t.sound := .of_snd (.checkParts hs) e
      refine .ite₂ ht ?_
      split
      · next e => exact .of_thd (.ownParts ht) e
      · next e => exact hact _ _ _ _ _ (.of_thd (.ownParts ht) e)

theorem State.sound.tryAmo (hs : s.sound) {h : HartId} {w : Waiting} {a : Access} {op : AmoOp} {operand cmp : BitVec 128} {rd : Fin 32} :
    (s.tryAmo h w a op operand cmp rd).2.sound := by
  unfold State.tryAmo
  exact .tryOwned hs fun _ _ _ _ _ ht => .ite₂ (.consume ht) (.snd (.setHart (.writeParts ht)))

theorem State.sound.tryLr (hs : s.sound) {h : HartId} {w : Waiting} {a : Access} {rd : Fin 32} : (s.tryLr h w a rd).2.sound := by
  unfold State.tryLr
  exact .tryOwned hs fun _ _ _ _ _ ht => .ite₂ (.consume ht) (.snd (.setHart ht))

theorem State.sound.trySc (hs : s.sound) {h : HartId} {w : Waiting} {a : Access} {v : Word} {rd : Fin 32} :
    (s.trySc h w a v rd).2.sound := by
  unfold State.trySc
  split
  · next e => exact .of_snd (.checkParts hs) e
  · next e => exact .accessTrap (.of_snd (.checkParts hs) e)
  · next _ t e =>
      have ht : t.sound := .of_snd (.checkParts hs) e
      refine .ite₂ ht (.ite₂ ?_ (.snd (.setHart ht)))
      split
      · next e => exact .of_thd (.ownParts ht) e
      · next e => exact .snd (.setHart (.writeParts (.of_thd (.ownParts ht) e)))

theorem State.sound.cboLocal (hs : s.sound) {d : Fin 12} {line : Nat} {k : Cbo} : (s.cboLocal d line k).1.sound := by
  unfold State.cboLocal
  split
  · dsimp only
    split
    · exact .ite₁ (.fst (.setDie (.probeCores (.settle hs)))) (.fst (.probeCores (.settle hs)))
    · exact .fst (.probeCores (.settle hs))
  · exact .evictL3 hs
  · exact .evictL3 hs
  · exact .fst (.evictL3 hs)

theorem State.sound.tryCbo (hs : s.sound) {h : HartId} {w : Waiting} {k : Cbo} {a : Access} : (s.tryCbo h w k a).2.sound := by
  unfold State.tryCbo
  dsimp only
  split
  · next e => exact .of_snd (.checkOnce hs) e
  · next e => exact .accessTrap (.of_snd (.checkOnce hs) e)
  · next _ t e =>
      have ht : t.sound := .of_snd (.checkOnce hs) e
      split
      · exact ht
      · refine .ite₂ (.snd (.setHart ht)) (.ite₂ ht (.ite₂ (.snd (.markDelay ht)) (.ite₂ ht (.snd ?_))))
        split
        · exact .setDie (.askLine (.cboLocal ht))
        · exact .askLine (.cboLocal ht)

theorem State.sound.tryZero (hs : s.sound) {h : HartId} {w : Waiting} {a : Access} : (s.tryZero h w a).2.sound := by
  unfold State.tryZero
  dsimp only
  split
  · next e => exact .of_snd (.checkOnce hs) e
  · next e => exact .accessTrap (.of_snd (.checkOnce hs) e)
  · next _ t e =>
      have ht : t.sound := .of_snd (.checkOnce hs) e
      refine .ite₂ ht ?_
      split
      · next e => exact .of_thd (.ownParts ht) e
      · next _ _ u e =>
          have hu : u.sound := .of_thd (.ownParts ht) e
          exact .snd (.setHart (.ite (.zeroNc hu) (.writeParts hu)))

theorem State.sound.dropHint (hs : s.sound) {h : HartId} {st : Stamp} : (s.dropHint h st).2.sound := by
  unfold State.dropHint
  exact .snd (.hartEvent hs)

theorem State.sound.tryHint (hs : s.sound) {h : HartId} {w : Waiting} {k : Hint} {a : Access} {spec : Bool} :
    (s.tryHint h w k a spec).2.sound := by
  unfold State.tryHint
  extract_lets need
  split
  · next e => exact .of_snd (.check hs) e
  · next e => exact .dropHint (.of_snd (.check hs) e)
  · next t e =>
      have ht : t.sound := .of_snd (.check hs) e
      extract_lets v
      split
      · exact ht
      · refine .ite₂ ht ?_
        extract_lets line q r
        have hr : r.2.sound := by
          dsimp only [r]
          split
          · exact .readLine ht
          · exact .readLine ht
          · exact .ownLine ht
        clear_value r
        split
        · exact hr
        · exact hr
        · exact hr
        · exact .dropHint hr

theorem State.sound.tryFetch (hs : s.sound) {h : HartId} {w : Waiting} {va : Word} {spec : Bool} : (s.tryFetch h w va spec).2.sound := by
  unfold State.tryFetch
  split
  · next e => exact .of_snd (.check hs) e
  · next _ t e =>
      have ht : t.sound := .of_snd (.check hs) e
      exact .ite₂ (.snd (.setHart ht)) (.snd (.trap ht))
  · next _ t e =>
      have ht : t.sound := .of_snd (.check hs) e
      split
      · next e => exact .of_snd (.readParts ht) e
      · next e => exact .of_snd (.readParts ht) e
      · next _ _ u e =>
          have hu : u.sound := .of_snd (.readParts ht) e
          exact .ite₂ (.consume hu) hu

theorem State.sound.applySinvals (hs : s.sound) {h : HartId} : (s.applySinvals h).sound :=
  .setHart (.forEach hs fun _ _ ht => .invalidate ht)

theorem State.sound.tryFence (hs : s.sound) {h : HartId} {w : Waiting} {act : State → State} (hact : ∀ t, t.sound → (act t).sound) :
    (s.tryFence h w act).2.sound := by
  unfold State.tryFence
  exact .ite₂ hs (.snd (.setHart (hact _ hs)))

theorem State.sound.sfence (hs : s.sound) {h : HartId} {f : FenceArgs} : (s.sfence h f).sound :=
  .ite (.setHart (.invalidate (.applySinvals hs))) (.invalidate (.applySinvals hs))

theorem State.sound.hfenceV (hs : s.sound) {h : HartId} {f : FenceArgs} : (s.hfenceV h f).sound :=
  .ite (.setHart (.invalidate (.applySinvals hs))) (.invalidate (.applySinvals hs))

theorem State.sound.hfenceG (hs : s.sound) {h : HartId} {f : FenceArgs} : (s.hfenceG h f).sound := .invalidate (.applySinvals hs)

theorem State.sound.sinvalEnd (hs : s.sound) {h : HartId} : (s.sinvalEnd h).sound := .setHart (.applySinvals hs)

theorem State.sound.winval (hs : s.sound) {h : HartId} : (s.winval h).sound := .setHart hs

theorem State.sound.syncFetch (hs : s.sound) {h : HartId} : (s.syncFetch h).sound := .setCore hs

theorem State.sound.trySinval (hs : s.sound) {h : HartId} {w : Waiting} {k : InvalKind} {f : FenceArgs} :
    (s.trySinval h w k f).2.sound := by
  unfold State.trySinval
  exact .snd (.setHart hs)

theorem State.sound.tryWfi (hs : s.sound) {h : HartId} {w : Waiting} : (s.tryWfi h w).2.sound := by
  unfold State.tryWfi
  exact .snd (.setHart hs)

theorem State.sound.tryFlush (hs : s.sound) {h : HartId} {w : Waiting} : (s.tryFlush h w).2.sound := by
  unfold State.tryFlush
  exact .ite₂ hs (.snd (.setCore hs))

theorem State.sound.tryBranch (hs : s.sound) {h : HartId} {w : Waiting} {redirected : Bool} : (s.tryBranch h w redirected).2.sound := by
  unfold State.tryBranch
  exact .snd (.setHart hs)

theorem State.sound.illegal (hs : s.sound) {h : HartId} {w : Waiting} {virtual : Bool} : (s.illegal h w virtual).2.sound := by
  unfold State.illegal
  dsimp only
  exact .trap (.takeWord hs)

theorem State.sound.misaligned (hs : s.sound) {h : HartId} {w : Waiting} {a : Access} {cause : Nat} :
    (s.misaligned h w a cause).2.sound := by
  unfold State.misaligned
  exact .snd (.trap hs)

theorem State.sound.attempt (hs : s.sound) {h : HartId} {w : Waiting} : (s.attempt h w).2.sound := by
  unfold State.attempt
  split
  · exact .illegal hs
  · exact .illegal hs
  · split
    · exact .tryLoad hs
    · exact .tryStore hs
    · exact .ite₂ (.tryAmo hs) (.misaligned hs)
    · exact .ite₂ (.tryLr hs) (.misaligned hs)
    · exact .ite₂ (.trySc hs) (.misaligned hs)
    · exact .tryCbo hs
    · exact .tryZero hs
    · exact .ite₂ hs (.tryHint hs)
    · exact .tryFetch hs
    · exact .tryFence hs fun _ ht => ht
    · exact .tryFence hs fun _ ht => .syncFetch ht
    · exact .tryFence hs fun _ ht => .sfence ht
    · exact .tryFence hs fun _ ht => .hfenceV ht
    · exact .tryFence hs fun _ ht => .hfenceG ht
    · exact .tryFence hs fun _ ht => .winval ht
    · exact .tryFence hs fun _ ht => .sinvalEnd ht
    · exact .trySinval hs
    · exact .tryWfi hs
    · exact .snd (.csrWrite hs)
    · exact .tryFlush hs
    · exact .tryBranch hs

theorem State.sound.glimpse (hs : s.sound) {h : HartId} {w : Waiting} : (s.glimpse h w).2.sound := by
  unfold State.glimpse
  split
  · exact .tryLoad hs
  · exact .ite₂ (.tryLoad hs) hs
  · exact .tryHint hs
  · exact .tryHint hs
  · exact .tryFetch hs
  · exact .snd (.ite (.setHart hs) hs)
  · exact hs

theorem State.sound.takeFlags (hs : s.sound) {h : HartId} {w : Waiting} : (s.takeFlags h w).2.sound := by
  unfold State.takeFlags
  exact .snd (.setHart hs)

theorem State.sound.park (hs : s.sound) {h : HartId} {w : Waiting} : (s.park h w).sound := .setHart hs

theorem State.sound.specEnd (hs : s.sound) {h : HartId} {w : Waiting} {value : Bytes} : (s.specEnd h w value).sound :=
  .ite hs (.setHart hs)

theorem State.sound.endTrap (hs : s.sound) {h : HartId} {w : Waiting} : (s.endTrap h w).sound := by
  unfold State.endTrap
  dsimp only
  exact .endSample (.applySinvals (.takeFlags hs))

theorem State.sound.endDone (hs : s.sound) {h : HartId} {w : Waiting} : (s.endDone h w).sound := by
  unfold State.endDone
  dsimp only
  exact .endSample (.ite (.setHart (.takeFlags hs)) (.takeFlags hs))

theorem State.sound.issueSpec (hs : s.sound) {h : HartId} {w : Waiting} : (s.issueSpec h w).sound := by
  unfold State.issueSpec
  dsimp only
  split
  · next e => exact .park (.takeFlags (.of_snd (.glimpse hs) e))
  · next _ t _ e =>
      have ht : t.sound := .of_snd (.glimpse hs) e
      exact .ite (.park (.takeFlags ht)) (.specEnd (.takeFlags ht))

theorem State.sound.issue (hs : s.sound) {h : HartId} {w : Waiting} : (s.issue h w).2.sound := by
  unfold State.issue
  dsimp only
  refine .ite₂ (.snd (.issueSpec hs)) ?_
  split
  · next e => exact .snd (.park (.takeFlags (.of_snd (.attempt hs) e)))
  · next e => exact .snd (.endTrap (.of_snd (.attempt hs) e))
  · next e => exact .snd (.endDone (.of_snd (.attempt hs) e))

theorem State.sound.issueAll (hs : s.sound) {h : HartId} {ws : List Waiting} : (s.issueAll h ws).sound := by
  induction ws generalizing s with
  | nil => exact hs
  | cons w ws ih =>
    unfold State.issueAll
    split
    · next e => exact ih (.of_snd (.issue hs) e)
    · next e => exact .squashed (.of_snd (.issue hs) e)

theorem State.sound.drain (hs : s.sound) {h : HartId} {fuel : Nat} : (s.drain h fuel).sound := by
  induction fuel generalizing s with
  | zero => exact hs
  | succ fuel ih =>
    unfold State.drain
    dsimp only
    split
    · exact hs
    · refine .ite hs ?_
      split
      · next e => exact ih (.of_snd (.issue (.dispatch (.setHart hs))) e)
      · next e => exact .of_snd (.issue (.dispatch (.setHart hs))) e

theorem State.sound.advance (hs : s.sound) {h : HartId} : (s.advance h).sound := .drain hs

theorem State.sound.ctlReport (hs : s.sound) {d : Nat} : (s.ctlReport d).sound := .ite hs (.forEach (.setDie hs) fun _ _ ht => .sbSend ht)

theorem State.sound.ctlHart (hs : s.sound) {h : HartId} : (s.ctlHart h).sound := by
  unfold State.ctlHart
  dsimp only
  split
  · exact hs
  · exact .ite hs (.ctlReport (.advance (.setHart hs)))

theorem State.sound.retryHart (hs : s.sound) {h : HartId} : (s.retryHart h).sound :=
  .ctlHart (.advance (.ite (.setHart (.issueAll (.setHart hs))) (.issueAll (.setHart hs))))

theorem State.sound.retryDie (hs : s.sound) {d : Fin 12} : (s.retryDie d).sound := .forEach hs fun _ _ ht => .retryHart ht

theorem State.sound.newOpAt (hs : s.sound) {h : HartId} {op : HartOp} {pc : Word} : (s.newOpAt h op pc).sound := .advance (.setHart hs)

theorem State.sound.newOp (hs : s.sound) {h : HartId} {op : HartOp} : (s.newOp h op).sound := .newOpAt hs

theorem State.sound.stopAt (hs : s.sound) {h : HartId} : (s.stopAt h).sound := .squashed (.setHart (.squash hs))

/-! ### A die's agent -/

theorem State.sound.setL3 (hs : s.sound) {d : Fin 12} {k : Nat} {l : L3Line} : (s.setL3 d k l).sound := .setDie hs

theorem State.sound.lowerTo (hs : s.sound) {d : Fin 12} {line : Nat} {st : CState} : (s.lowerTo d line st).sound := .setDie hs

theorem State.sound.reask (hs : s.sound) {d : Fin 12} {line : Nat} : (s.reask d line).sound := by
  unfold State.reask
  dsimp only
  split
  · exact .ite (.sendUnsent (.setDie hs)) hs
  · exact hs

theorem State.sound.takeLine (hs : s.sound) {d : Fin 12} {line : Nat} : (s.takeLine d line).1.sound := by
  unfold State.takeLine
  dsimp only
  split <;> exact .fst (.reask (.evictL3 hs))

theorem State.sound.dieAnswer (hs : s.sound) {d : Fin 12} {m : Msg} : (s.dieAnswer d m).sound := by
  unfold State.dieAnswer
  dsimp only
  split
  · split
    · exact .ite (.dieSend (.dieSend (.lowerTo (.probeCores (.uncount (.endResv (.settle hs))))))) (.dieSend (.dieSend (.lowerTo
        (.probeCores (.uncount (.endResv (.settle hs)))))))
    · exact .dieSend (.probeCores (.uncount (.endResv (.settle hs))))
  · split
    · exact .dieSend (.dieSend (.takeLine (.probeCores (.uncount (.endResv (.settle hs))))))
    · exact .dieSend (.probeCores (.uncount (.endResv (.settle hs))))
  · split
    · exact .dieSend (.dieSend (.probeCores (.uncount (.endResv (.settle hs)))))
    · exact .dieSend (.probeCores (.uncount (.endResv (.settle hs))))
  · split
    · exact .dieSend (.lowerTo (.probeCores (.uncount (.endResv (.settle hs)))))
    · exact .dieSend (.probeCores (.uncount (.endResv (.settle hs))))
    · exact .dieSend (.probeCores (.uncount (.endResv (.settle hs))))
  · exact .dieSend (.setDie (.takeLine (.uncount (.endResv (.settle hs)))))
  · split <;> exact .dieSend (.takeLine (.uncount (.endResv (.settle hs))))
  · exact .dieSend (.takeLine (.uncount (.endResv (.settle hs))))
  · exact .uncount (.endResv (.settle hs))

theorem State.sound.dieForward (hs : s.sound) {d : Fin 12} {m : Msg} : (s.dieForward d m).sound :=
  .ite (.retryDie (.dieAnswer hs)) (.setDie (.markDelay hs))

theorem State.sound.releaseHeld (hs : s.sound) {d : Fin 12} : (s.releaseHeld d).sound :=
  .forEach (.setDie hs) fun _ _ ht => .dieForward ht

theorem State.sound.resume (hs : s.sound) {d : Fin 12} : (s.resume d).sound := .releaseHeld (.retryDie hs)

theorem State.sound.recallLine (hs : s.sound) {d : Fin 12} {line : Nat} : (s.recallLine d line).sound := by
  unfold State.recallLine
  dsimp only
  refine .ite (.markDelay hs) (.ite hs ?_)
  split
  · exact .writeback (.takeLine (.endResv hs))
  · exact .takeLine (.endResv hs)

theorem State.sound.dieRecallGo (hs : s.sound) {d : Fin 12} : (s.dieRecallGo d).sound :=
  .forEach hs fun _ _ ht => .ite (.forEach ht fun _ _ hu => .recallLine hu) (.setHome (.setDie (.forEach ht fun _ _ hu => .recallLine
    hu)))

theorem State.sound.dieEvict (hs : s.sound) {d : Fin 12} : (s.dieEvict d).sound := .setDie (.forEach hs fun _ _ ht => .recallLine ht)

theorem State.sound.dieSetRecall (hs : s.sound) {d : Fin 12} {slice set : Nat} : (s.dieSetRecall d slice set).sound :=
  .resume (.dieRecallGo (.setDie hs))

theorem State.sound.installL3 (hs : s.sound) {d : Fin 12} {line : Nat} {st : CState} {data : Bytes} {poison hint : Bool} {hue : BitVec 12}
    {spec : Bool} : (s.installL3 d line st data poison hint hue spec).2.sound := by
  unfold State.installL3
  split
  · exact .snd (.setL3 hs)
  · exact .fillL3 hs

theorem State.sound.dropMiss (hs : s.sound) {d : Fin 12} {line : Nat} : (s.dropMiss d line).sound := .setDie hs

theorem State.sound.fillDone (hs : s.sound) {d : Fin 12} {n : L3Miss} {st : CState} : (s.fillDone d n st).sound :=
  .ite (.resume (.sendMiss (.setDie hs))) (.resume (.freeMiss (.dropMiss hs)))

theorem State.sound.keepFill (hs : s.sound) {d : Fin 12} {line : Nat} {m : Msg} : (s.keepFill d line m).sound := .setDie hs

theorem State.sound.fillNc (hs : s.sound) {d : Fin 12} {n : L3Miss} {m : Msg} : (s.fillNc d n m).sound := by
  unfold State.fillNc
  dsimp only
  split
  · exact .resume (.keepFill hs)
  · split
    · exact .ite (.resume (.keepFill hs)) (.resume (.writeback (.freeMiss (.dropMiss (.resume (.keepFill hs))))))
    · exact .resume (.freeMiss (.dropMiss (.resume (.keepFill hs))))

theorem State.sound.tryFill (hs : s.sound) {d : Fin 12} {n : L3Miss} {m : Msg} : (s.tryFill d n m).sound := by
  unfold State.tryFill
  refine .ite (.fillNc hs) ?_
  split
  · next e => exact .fillDone (.of_snd (.installL3 hs) e)
  · next e => exact .keepFill (.of_snd (.installL3 hs) e)

theorem State.sound.dieWayFreed (hs : s.sound) {d : Fin 12} {line : Nat} : (s.dieWayFreed d line).sound := by
  unfold State.dieWayFreed
  split
  · split
    · exact .tryFill hs
    · exact hs
  · exact hs

theorem State.sound.dieStir (hs : s.sound) {d : Fin 12} : (s.dieStir d).sound :=
  .resume (.forEach (.dieEvict (.dieRecallGo hs)) fun _ _ ht => .dieWayFreed ht)

theorem State.sound.dropMsg (hs : s.sound) {unit : Nat} {src : ErrSource} {m : Msg} : (s.dropMsg unit src m).sound := .logE hs

theorem State.sound.lateMiss (hs : s.sound) {d : Fin 12} {m : Msg} : (s.lateMiss d m).sound :=
  .resume (.dropMsg (.freeMiss (.dropMiss hs)))

theorem State.sound.sources (hs : s.sound) {m : Msg} : (s.sources m).2.sound := by
  unfold State.sources
  dsimp only
  exact .ite₂ hs (.ite₂ (.snd (.takeNat hs)) hs)

theorem State.sound.countSources (hs : s.sound) {d : Fin 12} {m : Msg} : (s.countSources d m).sound := by
  unfold State.countSources
  dsimp only
  exact .forEach (.sources hs) fun _ _ ht => .ite ht (.setHart ht)

theorem State.sound.dieData (hs : s.sound) {d : Fin 12} {m : Msg} : (s.dieData d m).sound := by
  unfold State.dieData
  split
  · exact .dropMsg hs
  · exact .ite (.dropMsg hs) (.ite (.lateMiss (.dieSend hs)) (.tryFill (.countSources (.ite (.logE (.dieSend hs)) (.dieSend hs)))))

theorem State.sound.dieGrant (hs : s.sound) {d : Fin 12} {m : Msg} : (s.dieGrant d m).sound := by
  unfold State.dieGrant
  split
  · exact .dropMsg hs
  · refine .ite (.dropMsg hs) (.ite (.lateMiss (.dieSend hs)) (.ite (.tryFill (.dieSend hs)) ?_))
    split
    · exact .fillDone (.setL3 (.dieSend hs))
    · exact .resume (.freeMiss (.dropMiss (.dieSend hs)))

theorem State.sound.dropWb (hs : s.sound) {d : Fin 12} {line : Nat} : (s.dropWb d line).sound := .sendUnsent (.setDie hs)

theorem State.sound.dieWbAck (hs : s.sound) {d : Fin 12} {m : Msg} : (s.dieWbAck d m).sound := by
  unfold State.dieWbAck
  split
  · exact .ite (.dieStir (.dropWb (.ite (.dropMsg hs) hs))) (.dropMsg hs)
  · exact .dropMsg hs

theorem State.sound.endCbos (hs : s.sound) {d : Fin 12} {line : Nat} : (s.endCbos d line).sound := by
  unfold State.endCbos
  refine .forEach hs fun _ _ ht => ?_
  dsimp only
  split
  · exact ht
  · exact .endSample (.setHart ht)

theorem State.sound.dieCmoDone (hs : s.sound) {d : Fin 12} {m : Msg} : (s.dieCmoDone d m).sound := by
  unfold State.dieCmoDone
  split
  · exact .ite (.dieStir (.endCbos (.dropWb (.freeMiss (.dropMiss (.ite (.dropMsg hs) hs)))))) (.dropMsg hs)
  · exact .ite (.dieStir (.dropWb (.dropMsg hs))) (.dropMsg hs)

theorem State.sound.reportLoss (hs : s.sound) {src : ErrSource} {unit line : Nat} {hue : BitVec 12} {flag : BitVec 2} :
    (s.reportLoss src unit line hue flag).sound :=
  .logE hs

theorem State.sound.failOps (hs : s.sound) {h : HartId} {line : Nat} {flag : BitVec 2} {ws : List Waiting} :
    (s.failOps h line flag ws).sound := by
  induction ws generalizing s with
  | nil => exact hs
  | cons w ws ih =>
    have trap {va : Word} {pa size : Nat} : (((s.consume h w false va pa size).2.endTrap h w).squashed h ws).sound :=
      .squashed (.endTrap (.consume hs))
    have lost {x : HartState} : ((((s.reportLoss .l3 h.die.val line w.stamp.hue flag).setHart (hartIx h) x).endDone h w).failOps h line
        flag
        ws).sound :=
      ih (.endDone (.setHart (.reportLoss hs)))
    unfold State.failOps
    refine .ite (ih (.park hs)) (.ite (ih (.specEnd (.takeBytes hs))) (.ite (ih (.park hs)) ?_))
    dsimp only
    split
    · exact trap
    · exact trap
    · exact trap
    · exact trap
    · exact trap
    · exact lost
    · exact lost
    · exact ih (.endDone (.dropHint hs))

theorem State.sound.failLine (hs : s.sound) {d : Fin 12} {line : Nat} {flag : BitVec 2} : (s.failLine d line flag).sound :=
  .forEach hs fun _ _ ht => .ite (.failOps (.setHart (.ite (.setHart ht) ht))) (.ite (.setHart ht) ht)

theorem State.sound.missError (hs : s.sound) {d : Fin 12} {n : L3Miss} {flag : BitVec 2} : (s.missError d n flag).sound :=
  .ite (.ite hs (.dieStir (.ite (.dropWb (.freeMiss (.dropMiss (.ite hs (.logE hs))))) (.freeMiss (.dropMiss (.ite hs (.logE hs)))))))
    (.ite (.dieStir (.freeMiss (.endCbos (.ite (.ite (.dropWb (.reportLoss (.ite (.setDie hs) (.dropMiss hs)))) (.reportLoss (.ite
    (.setDie hs) (.dropMiss hs)))) (.reportLoss (.ite (.setDie hs) (.dropMiss hs))))))) (.resume (.freeMiss (.failLine (.ite (.setDie hs)
    (.dropMiss hs))))))

theorem State.sound.wbError (hs : s.sound) {d : Fin 12} {w : WbEntry} {flag : BitVec 2} : (s.wbError d w flag).sound :=
  .ite (.ite hs (.dieStir (.dropWb (.ite hs (.logE hs))))) (.ite (.dieStir (.dropWb (.reportLoss hs))) (.setDie (.reportLoss hs)))

theorem State.sound.dieError (hs : s.sound) {d : Fin 12} {m : Msg} : (s.dieError d m).sound := by
  unfold State.dieError
  split
  · exact .missError hs
  · split
    · exact .ite (.wbError hs) (.dropMsg hs)
    · exact .dropMsg hs

theorem State.sound.dieExpire (hs : s.sound) {d : Fin 12} {line : Nat} : (s.dieExpire d line).sound := by
  unfold State.dieExpire
  dsimp only
  split
  · exact .missError hs
  · split
    · exact .wbError hs
    · exact hs

/-! ### The home slices -/

theorem State.sound.setTxn (hs : s.sound) {k : Nat} {t : Txn} : (s.setTxn k t).sound := .setHome hs

theorem State.sound.sendFwd (hs : s.sound) {k : Nat} {m : Msg} {agent : Nat} {op : Op} : (s.sendFwd k m agent op).sound :=
  .send (.uncount hs)

theorem State.sound.homeReply (hs : s.sound) {k : Nat} {m : Msg} {op : Op} {flag : BitVec 2} {d : Option (Bytes × Bool)} :
    (s.homeReply k m op flag d).sound :=
  .send hs

theorem State.sound.memReq (hs : s.sound) {r : MemReq} : (s.memReq r).sound := .upMem hs

theorem State.sound.tryWay (hs : s.sound) {k : Nat} {t : Txn} : (s.tryWay k t).sound := by
  unfold State.tryWay
  dsimp only
  split
  · exact .setTxn hs
  · split
    · exact .setTxn hs
    · split
      · exact .setTxn hs
      · split
        · exact .setTxn hs
        · exact .setTxn (.setHome (.uncount hs))

theorem State.sound.tryAgain (hs : s.sound) {k line : Nat} : (s.tryAgain k line).sound := by
  unfold State.tryAgain
  split
  · exact .ite (.tryWay hs) hs
  · exact hs

theorem State.sound.wbBegin (hs : s.sound) {k : Nat} {m : Msg} : (s.wbBegin k m).sound := by
  unfold State.wbBegin
  dsimp only
  split
  · exact .ite (.setHome hs) (.ite (.setHome hs) (.uncount (.homeReply hs)))
  · exact .ite (.ite (.setHome hs) (.uncount (.homeReply hs))) (.ite (.memReq (.setHome hs)) (.uncount (.homeReply hs)))

theorem State.sound.wbAgain (hs : s.sound) {k line : Nat} : (s.wbAgain k line).sound := .forEach (.setHome hs) fun _ _ ht => .wbBegin ht

theorem State.sound.homeRun (hs : s.sound) {k line fuel : Nat} : (s.homeRun k line fuel).sound := by
  induction fuel generalizing s line with
  | zero => exact hs
  | succ fuel ih =>
    have victims {t : State} (ht : t.sound) {l : List Nat} : (t.forEach l fun s v => s.homeRun k v fuel).sound :=
      .forEach ht fun _ _ hu => ih hu
    unfold State.homeRun
    split
    · exact hs
    · refine .ite hs ?_
      dsimp only
      split
      · refine .wbAgain (.forEach ?_ fun _ _ ht => ih (victims (.tryAgain ht)))
        split
        · split
          · exact ih (.setTxn (.setHome hs))
          · exact .setHome hs
        · exact .setHome hs
      · split
        · exact ih (victims (.tryWay (.setTxn hs)))
        · have sent {fwds : List (Nat × Op)} {m : Msg} : (s.forEach fwds fun s f => s.sendFwd k m f.1 f.2).sound :=
            .forEach hs fun _ _ ht => .sendFwd ht
          exact ih (.setTxn (.ite (.memReq sent) sent))
        · exact .ite (ih (.setTxn hs)) (.setTxn (.memReq hs))
        · exact ih (.setTxn hs)
        · split
          · exact ih (.setTxn hs)
          · exact .setTxn (.memReq hs)
        · exact ih (.setTxn (.homeReply hs))
        · exact .ite (ih (.setTxn hs)) (.ite (ih (.setTxn hs)) (.setTxn hs))

theorem State.sound.homeGo (hs : s.sound) {k line : Nat} : (s.homeGo k line).sound := .homeRun hs

theorem State.sound.wayFreed (hs : s.sound) {k : Nat} : (s.wayFreed k).sound :=
  .forEach hs fun _ _ ht => .homeGo (.forEach (.tryAgain ht) fun _ _ hu => .homeGo hu)

theorem State.sound.linkSend (hs : s.sound) {c : Nat} {m : Msg} : (s.linkSend c m).sound := .setCascLink hs

theorem State.sound.recoverGo (hs : s.sound) {k set : Nat} : (s.recoverGo k set).sound := by
  unfold State.recoverGo
  dsimp only
  split
  · exact hs
  · exact .ite (.ite hs (.forEach (.setHome hs) fun _ _ ht => .linkSend ht)) (.ite (.logE (.setHome hs)) hs)

theorem State.sound.recoverStart (hs : s.sound) {k set : Nat} : (s.recoverStart k set).sound := .recoverGo (.ite hs (.setHome hs))

theorem State.sound.readSet (hs : s.sound) {k set : Nat} : (s.readSet k set).sound := .ite (.logE (.setHome hs)) hs

theorem State.sound.homeBegin (hs : s.sound) {k : Nat} {m : Msg} : (s.homeBegin k m).sound := by
  unfold State.homeBegin
  dsimp only
  exact .ite (.setHome hs) (.ite (.recoverStart (.setHome (.readSet hs))) (.homeGo (.setHome (.readSet hs))))

theorem State.sound.noSnoopBegin (hs : s.sound) {m : Msg} : (s.noSnoopBegin m).sound := .memReq (.upMem hs)

theorem State.sound.homeTake (hs : s.sound) {k : Nat} {m : Msg} : (s.homeTake k m).sound :=
  .ite (.noSnoopBegin (.uncount hs)) (.ite (.setHome (.uncount hs)) (.homeBegin (.setHome (.uncount hs))))

theorem State.sound.homeUnhold (hs : s.sound) {k : Nat} : (s.homeUnhold k).sound :=
  .ite hs (.forEach (.setHome (.forEach (.setHome hs) fun _ _ ht => .ite (.homeTake ht) (.setHome ht))) fun _ _ ht => .ite (.wbBegin ht)
    (.setHome ht))

theorem State.sound.errorTo (hs : s.sound) {k : Nat} {m : Msg} {flag : BitVec 2} : (s.errorTo k m flag).sound := .homeReply hs

theorem State.sound.hubHue (hs : s.sound) {part : Option Nat} {k : Nat} {m : Msg} : (s.hubHue part k m).2.sound := by
  unfold State.hubHue
  split
  · exact hs
  · exact .ite₂ hs (.snd (.logE hs))

theorem State.sound.homeAccept (hs : s.sound) {m : Msg} : (s.homeAccept m).sound := by
  unfold State.homeAccept
  dsimp only
  exact .ite (.errorTo (.hubHue hs)) (.ite (.logE (.errorTo (.hubHue hs))) (.ite (.logE (.errorTo (.hubHue hs))) (.ite (.ite (.wbBegin
      (.hubHue hs)) (.setHome (.hubHue hs))) (.ite (.setHome (.hubHue hs)) (.homeTake (.hubHue hs))))))

theorem State.sound.homeNext (hs : s.sound) {k line : Nat} : (s.homeNext k line).sound := by
  unfold State.homeNext
  refine .ite hs ?_
  split
  · exact hs
  · exact .homeBegin (.setHome hs)

theorem State.sound.wbClose (hs : s.sound) {k line agent : Nat} : (s.wbClose k line agent).sound :=
  .forEach (.setHome hs) fun _ _ ht => .uncount (.homeReply ht)

theorem State.sound.homeSettle (hs : s.sound) {k : Nat} : (s.homeSettle k).sound :=
  .homeUnhold (.wayFreed (.forEach hs fun _ _ ht => .recoverGo ht))

theorem State.sound.homeAnswer (hs : s.sound) {m : Msg} : (s.homeAnswer m).sound := by
  unfold State.homeAnswer
  dsimp only
  split
  · exact .dropMsg hs
  · split
    · exact .dropMsg hs
    · exact .ite (.dropMsg hs) (.homeSettle (.homeGo (.wbClose (.setTxn (.ite (.uncount hs) hs)))))

theorem State.sound.homeCompAck (hs : s.sound) {m : Msg} : (s.homeCompAck m).sound := by
  unfold State.homeCompAck
  dsimp only
  split
  · exact .dropMsg hs
  · exact .ite (.homeSettle (.homeGo (.setTxn hs))) (.dropMsg hs)

theorem State.sound.homeMemory (hs : s.sound) {k line : Nat} {write : Bool} {d : Bytes × Bool} : (s.homeMemory k line write d).sound := by
  unfold State.homeMemory
  dsimp only
  split
  · exact .ite (.homeSettle (.homeGo (.setTxn hs))) (.ite (.homeSettle (.homeGo (.setTxn hs))) hs)
  · split
    · exact hs
    · exact .ite hs (.homeSettle (.wbAgain (.homeReply (.setHome hs))))

theorem State.sound.homeExpire (hs : s.sound) {k line agent : Nat} : (s.homeExpire k line agent).sound := by
  unfold State.homeExpire
  split
  · exact hs
  · exact .ite (.homeSettle (.homeGo (.wbClose (.setTxn hs)))) hs

theorem State.sound.homeForget (hs : s.sound) {k agent : Nat} : (s.homeForget k agent).sound := by
  unfold State.homeForget
  refine .homeSettle (.setHome (.forEach (.forEach hs fun _ _ ht => .homeExpire ht) fun _ _ ht => ?_))
  split
  · exact .ite (.homeGo (.setTxn ht)) ht
  · exact ht

theorem State.sound.countsLost (hs : s.sound) {d : Nat} : (s.countsLost d).sound := by
  unfold State.countsLost
  refine .forEach hs fun _ _ ht => .ite ht ?_
  dsimp only
  split
  · exact .setMeter (.setHart ht)
  · exact .setHart ht

theorem State.sound.fenceDie (hs : s.sound) {d : Nat} {src : ErrSource} {why : ErrReason} {unit : Nat} :
    (s.fenceDie d src why unit).sound :=
  .ite hs (.dieGone (.forEach (.upService (.countsLost (.hartCtl (.logE (.pdrTouch (.setDieStatus hs)))))) fun _ _ ht => .homeForget ht))

/-! ### The cascade ports as proxies -/

theorem State.sound.proxyProbe (hs : s.sound) {c : Nat} {m : Msg} {l : List (Fin 12 × Op)} : (s.proxyProbe c m l).sound :=
  .forEach hs fun _ _ ht => .send (.setCascLink ht)

theorem State.sound.setProxyReq (hs : s.sound) {c : Nat} {r : ProxyReq} : (s.setProxyReq c r).sound := .setCascLink hs

theorem State.sound.proxyWriteback (hs : s.sound) {c line : Nat} {d : Bytes × Bool} : (s.proxyWriteback c line d).sound :=
  .linkSend (.setCascLink hs)

theorem State.sound.proxyStep_send (hs : s.sound) {c : Nat} {r : ProxyReq} {m : Msg} : (State.proxyStep.send s c r m).sound :=
  .linkSend (.setProxyReq hs)

theorem State.sound.proxyStep (hs : s.sound) {c line fuel : Nat} : (s.proxyStep c line fuel).sound := by
  induction fuel generalizing s with
  | zero => exact hs
  | succ fuel ih =>
    unfold State.proxyStep
    dsimp only
    split
    · exact hs
    · refine .ite hs (.ite (ih (.proxyProbe (.setProxyReq hs))) ?_)
      split
      · split
        · exact ih (.setProxyReq (.setCascLink hs))
        · split
          · exact hs
          · split
            · exact hs
            · exact .ite (.proxyProbe (.setProxyReq (.setCascLink hs))) (ih (.setCascLink (.proxyProbe (.setProxyReq (.setCascLink hs)))))
      · split
        · exact .ite (.proxyStep_send hs) (.proxyWriteback (.setProxyReq hs))
        · exact .proxyStep_send hs

theorem State.sound.proxyGo (hs : s.sound) {c line : Nat} : (s.proxyGo c line).sound := .proxyStep hs

theorem State.sound.proxyNext (hs : s.sound) {c : Nat} : (s.proxyNext c).sound :=
  .forEach (.forEach hs fun _ _ ht => .ite (.proxyGo (.setCascLink ht)) ht) fun _ _ ht => .proxyGo ht

theorem State.sound.proxyClose (hs : s.sound) {c line : Nat} : (s.proxyClose c line).sound := .proxyNext (.setCascLink hs)

theorem State.sound.proxyReply (hs : s.sound) {c : Nat} {m : Msg} {op : Op} {flag : BitVec 2} : (s.proxyReply c m op flag).sound :=
  .send hs

theorem State.sound.proxyRequest (hs : s.sound) {c : Nat} {m : Msg} : (s.proxyRequest c m).sound :=
  .ite (.proxyReply hs) (.proxyNext (.setCascLink hs))

theorem State.sound.proxyWb (hs : s.sound) {c : Nat} {m : Msg} : (s.proxyWb c m).sound := by
  unfold State.proxyWb
  refine .ite (.proxyReply hs) (.ite (.setCascLink hs) ?_)
  split
  · exact .ite (.linkSend (.setCascLink hs)) (.proxyReply hs)
  · exact .proxyReply hs

theorem State.sound.proxyAnswer (hs : s.sound) {c : Nat} {f : ProxyFwd} : (s.proxyAnswer c f).sound := by
  unfold State.proxyAnswer
  dsimp only
  split
  · exact .ite (.linkSend (.linkSend (.setCascLink (.setCascLink hs)))) (.ite (.linkSend (.ite (.setCascLink (.setCascLink hs))
      (.setCascLink (.setCascLink hs)))) (.linkSend (.ite (.setCascLink (.setCascLink hs)) (.setCascLink (.setCascLink hs)))))
  · exact .ite (.linkSend (.linkSend (.setCascLink (.setCascLink hs)))) (.linkSend (.setCascLink (.setCascLink hs)))
  · exact .ite (.linkSend (.linkSend (.setCascLink hs))) (.linkSend (.ite (.setCascLink hs) (.setCascLink (.setCascLink hs))))
  · exact .ite (.linkSend (.setCascLink hs)) (.ite (.linkSend (.setCascLink hs)) (.linkSend (.ite (.setCascLink hs) (.setCascLink
      (.setCascLink hs)))))
  · exact .ite (.linkSend (.setCascLink (.setCascLink hs))) (.ite (.linkSend (.setCascLink (.setCascLink hs))) (.linkSend (.setCascLink
      (.setCascLink hs))))
  · exact .linkSend (.setCascLink (.setCascLink hs))

theorem State.sound.proxyFwdGo (hs : s.sound) {c line : Nat} : (s.proxyFwdGo c line).sound := by
  unfold State.proxyFwdGo
  dsimp only
  split
  · exact hs
  · exact .ite hs (.proxyNext (.proxyAnswer hs))

theorem State.sound.proxyForward (hs : s.sound) {c : Nat} {m : Msg} : (s.proxyForward c m).sound := by
  unfold State.proxyForward
  dsimp only
  split
  · exact .proxyAnswer (.ite (.linkSend hs) hs)
  · exact .proxyFwdGo (.proxyProbe (.setCascLink hs))

theorem State.sound.proxySetRecall (hs : s.sound) {c slice set : Nat} : (s.proxySetRecall c slice set).sound :=
  .forEach (.setCascLink hs) fun _ _ ht => .proxyProbe ht

theorem State.sound.proxyRecallGo (hs : s.sound) {c : Nat} : (s.proxyRecallGo c).sound :=
  .forEach hs fun _ _ ht => .ite ht (.linkSend (.setCascLink ht))

theorem State.sound.proxyDie (hs : s.sound) {c : Nat} {m : Msg} : (s.proxyDie c m).sound := by
  unfold State.proxyDie
  extract_lets x dirty keep hit stale
  split
  · split
    · exact .dropMsg hs
    · exact .proxyFwdGo (.setCascLink (.linkSend hs))
  · split
    · exact .dropMsg hs
    · refine .ite (.dropMsg hs) ?_
      extract_lets y recalled victimOf u v w _ z _ _ _
      clear_value dirty victimOf
      have hv : v.sound := .forEach (.setCascLink hs) fun _ _ ht => .proxyReply ht
      have hw : w.sound := by
        dsimp only [w]
        split
        · exact .proxyWriteback hv
        · exact hv
      refine .ite (.proxyFwdGo (.setCascLink hv)) (.ite (.proxyRecallGo hw) ?_)
      split
      · exact .proxyGo (.ite hw (.setCascLink hw))
      · split
        · exact hv
        · exact .proxyGo (.setProxyReq (.setCascLink hv))

theorem State.sound.proxyPeer (hs : s.sound) {c : Nat} {m : Msg} : (s.proxyPeer c m).sound := by
  unfold State.proxyPeer
  refine .ite (.proxyNext (.dropMsg (.setCascLink hs))) ?_
  split
  · split
    · exact .dropMsg hs
    · refine .proxyRecallGo (.proxyNext (.ite (.proxyReply (.setCascLink hs)) ?_))
      split
      · exact .setProxyReq (.setCascLink hs)
      · exact .setCascLink hs
  · split
    · exact .dropMsg hs
    · refine .ite (.dropMsg hs) ?_
      dsimp only
      split
      · exact .setProxyReq (.ite (.ite (.setCascLink (.send hs)) (.send hs)) (.ite (.setCascLink (.send hs)) (.send hs)))
      · exact .setProxyReq (.ite (.setCascLink (.send hs)) (.send hs))
      · exact .proxyClose (.ite (.send hs) (.setCascLink (.send hs)))
      · exact .proxyClose (.send hs)

theorem State.sound.proxyComp (hs : s.sound) {c : Nat} {m : Msg} : (s.proxyComp c m).sound := by
  unfold State.proxyComp
  split
  · exact .ite (.proxyClose (.linkSend hs)) (.dropMsg hs)
  · exact .dropMsg hs

theorem State.sound.proxyTake (hs : s.sound) {c : Nat} {m : Msg} : (s.proxyTake c m).sound :=
  .ite (.linkSend hs) (.ite (.linkSend hs) (.ite (.ite (.proxyForward hs) (.proxyPeer hs)) (.ite (.proxyWb hs) (.ite (.proxyComp hs) (.ite
    (.proxyRequest hs) (.proxyDie hs))))))

theorem State.sound.proxyExpire (hs : s.sound) {c line : Nat} {d : Fin 12} : (s.proxyExpire c line d).sound := by
  unfold State.proxyExpire
  dsimp only
  split
  · exact hs
  · exact .proxyRecallGo (.proxyNext (.proxyFwdGo (.fenceDie (.logE (.setCascLink hs)))))

theorem State.sound.proxyReqExpire (hs : s.sound) {c line : Nat} : (s.proxyReqExpire c line).sound := by
  unfold State.proxyReqExpire
  dsimp only
  split
  · exact hs
  · exact .proxyClose (.proxyReply (.setCascLink hs))

theorem State.sound.memberLost (hs : s.sound) {p : Nat} : (s.memberLost p).sound :=
  .ite hs (.ite (.logE (.forEach (.setCascLink (.forEach (.pdrTouch (.upCasc hs)) fun _ _ ht => .homeForget ht)) fun _ _ ht => .proxyReply
    ht)) (.ite (.upCasc (.forEach (.setCascLink (.forEach (.pdrTouch (.upCasc hs)) fun _ _ ht => .homeForget ht)) fun _ _ ht =>
    .proxyReply ht)) (.forEach (.setCascLink (.forEach (.pdrTouch (.upCasc hs)) fun _ _ ht => .homeForget ht)) fun _ _ ht => .proxyReply
    ht)))

/-! ### The I/O of a hart -/

theorem State.sound.ioComplete (hs : s.sound) {h : HartId} {io : IoAccess} {w : Waiting} {ans : IoAnswer} :
    (s.ioComplete h io w ans).2.sound := by
  unfold State.ioComplete
  split
  · exact .ite₂ (.consume hs) (.snd (.finishLoad hs))
  · exact .consume hs
  · exact .snd (.setHart (.logE hs))
  · exact .snd (.setHart hs)
  · exact hs

theorem State.sound.ioFinish (hs : s.sound) {h : HartId} {ans : IoAnswer} : (s.ioFinish h ans).sound := by
  unfold State.ioFinish
  dsimp only
  split
  · exact hs
  · split
    · exact .retryHart (.setHart hs)
    · split
      · next e => exact .retryHart (.squashed (.endTrap (.of_snd (.ioComplete (.setHart hs)) e)))
      · next e => exact .retryHart (.setHart (.endDone (.of_snd (.ioComplete (.setHart hs)) e)))

theorem State.sound.takeIoAnswer (hs : s.sound) {h : HartId} {p : IoAnswer → Bool} {a : IoAnswer} {t : State}
    (e : s.takeIoAnswer h p = some (a, t)) : t.sound := by
  unfold State.takeIoAnswer at e
  split at e
  · cases e
  · cases e
    exact .upFab hs

theorem State.sound.ioArrive (hs : s.sound) {h : HartId} {ans : IoAnswer} : (s.ioArrive h ans).sound :=
  .ite (.logE (.setHart hs)) (.ioFinish hs)

theorem State.sound.holdHart (hs : s.sound) {h : HartId} {run : RunState} {mtimecmp : Word} : (s.holdHart h run mtimecmp).sound :=
  .setHart (.meterSend hs)

theorem State.sound.resetHart (hs : s.sound) {h : HartId} : (s.resetHart h).sound := .fileLines (.holdHart (.setCore hs))

/-! ### Prediction -/

theorem State.sound.predict (hs : s.sound) {h : HartId} {b : FetchedBranch} {va : Word} : (s.predict h b va).sound := .setHart hs

theorem State.sound.train (hs : s.sound) {h : HartId} {pc target : Word} {kind : BranchKind} {taken : Bool} :
    (s.train h pc target kind taken).sound :=
  .ite hs (.setCore hs)

/-! ### The commands of the harts -/

theorem Kept.hartIf (hs : s.sound) {h : HartId} {ok : HartState → Bool} {f : HartState → State → Host.Outcome State Fault Refusal}
    (hf : ∀ a t, t.sound → Kept (f a t)) : Kept (hartIf s h ok f) :=
  .live hs fun _ ht => .ite (hf _ _ ht) (.next ht)

theorem Kept.hartDoes (hs : s.sound) {h : HartId} {f : HartState → State → Host.Outcome State Fault Refusal}
    (hf : ∀ a t, t.sound → Kept (f a t)) : Kept (hartDoes s h f) :=
  .hartIf hs fun _ _ ht => hf _ _ ht

theorem Kept.hartWrites (hs : s.sound) {h : HartId} {f : HartState → State → Host.Outcome State Fault Refusal}
    (hf : ∀ a t, t.sound → Kept (f a t)) : Kept (hartWrites s h f) :=
  .hartIf hs fun _ _ ht => hf _ _ ht

theorem Kept.hartAccess (hs : s.sound) {h : HartId} {st : HartState → Stamp} {f : HartState → State → State}
    (hf : ∀ a t, t.sound → (f a t).sound) : Kept (hartAccess s h st f) :=
  .hartDoes hs fun _ _ ht => .ite .fault (.next (hf _ _ ht))

theorem State.sound.afterResv (hs : s.sound) {d : Fin 12} : (s.afterResv d).sound := .dieStir (.releaseHeld hs)

theorem State.sound.settled {after : State} (ha : after.sound) {h : HartId} : (s.settled after h).sound := .ite (.afterResv ha) ha

theorem State.sound.run (hs : s.sound) {h : HartId} {op : HartOp} : (s.run h op).sound := .settled (.newOp hs)

theorem Kept.load (hs : s.sound) {h : HartId} {a : Access} {rd : Fin 32} {zext : Bool} {cls : LoadClass} :
    Kept (execLoad h a rd zext cls s) :=
  .hartAccess hs fun _ _ ht => .run ht

theorem Kept.store (hs : s.sound) {h : HartId} {a : Access} {value : Word} {cls : StoreClass} : Kept (execStore h a value cls s) :=
  .hartAccess hs fun _ _ ht => .run ht

theorem Kept.amo (hs : s.sound) {h : HartId} {a : Access} {op : AmoOp} {operand compare : BitVec 128} {rd : Fin 32} :
    Kept (execAmo h a op operand compare rd s) :=
  .hartAccess hs fun _ _ ht => .run ht

theorem Kept.lr (hs : s.sound) {h : HartId} {a : Access} {rd : Fin 32} : Kept (execLr h a rd s) := .hartAccess hs fun _ _ ht => .run ht

theorem Kept.sc (hs : s.sound) {h : HartId} {a : Access} {value : Word} {rd : Fin 32} : Kept (execSc h a value rd s) :=
  .hartAccess hs fun _ _ ht => .run ht

theorem Kept.lrReservationDelayExpiry (hs : s.sound) {h : HartId} : Kept (execLrReservationDelayExpiry h s) := by
  unfold execLrReservationDelayExpiry
  refine .live hs fun _ ht => ?_
  dsimp only
  split
  · exact .ite (.next (.afterResv (.setHart ht))) (.next ht)
  · exact .next ht

theorem Kept.fence (hs : s.sound) {h : HartId} : Kept (execFence h s) := .hartDoes hs fun _ _ ht => .next (.run ht)

theorem Kept.fenceI (hs : s.sound) {h : HartId} : Kept (execFenceI h s) := .hartDoes hs fun _ _ ht => .next (.run ht)

theorem Kept.sfenceVma (hs : s.sound) {h : HartId} {f : FenceArgs} : Kept (execSfenceVma h f s) :=
  .hartDoes hs fun _ _ ht => .next (.run ht)

theorem Kept.hfenceVvma (hs : s.sound) {h : HartId} {f : FenceArgs} : Kept (execHfenceVvma h f s) :=
  .hartDoes hs fun _ _ ht => .next (.run ht)

theorem Kept.hfenceGvma (hs : s.sound) {h : HartId} {f : FenceArgs} : Kept (execHfenceGvma h f s) :=
  .hartDoes hs fun _ _ ht => .next (.run ht)

theorem Kept.sinvalVma (hs : s.sound) {h : HartId} {k : InvalKind} {f : FenceArgs} : Kept (execSinvalVma h k f s) :=
  .hartDoes hs fun _ _ ht => .next (.run ht)

theorem Kept.sfenceWInval (hs : s.sound) {h : HartId} : Kept (execSfenceWInval h s) := .hartDoes hs fun _ _ ht => .next (.run ht)

theorem Kept.sfenceInvalIr (hs : s.sound) {h : HartId} : Kept (execSfenceInvalIr h s) := .hartDoes hs fun _ _ ht => .next (.run ht)

theorem Kept.cboClean (hs : s.sound) {h : HartId} {a : Access} : Kept (execCboClean h a s) := .hartAccess hs fun _ _ ht => .run ht

theorem Kept.cboFlush (hs : s.sound) {h : HartId} {a : Access} : Kept (execCboFlush h a s) := .hartAccess hs fun _ _ ht => .run ht

theorem Kept.cboInval (hs : s.sound) {h : HartId} {a : Access} : Kept (execCboInval h a s) := .hartAccess hs fun _ _ ht => .run ht

theorem Kept.cboZero (hs : s.sound) {h : HartId} {a : Access} : Kept (execCboZero h a s) := .hartAccess hs fun _ _ ht => .run ht

theorem Kept.prefetchR (hs : s.sound) {h : HartId} {a : Access} : Kept (execPrefetchR h a s) := .hartAccess hs fun _ _ ht => .run ht

theorem Kept.prefetchW (hs : s.sound) {h : HartId} {a : Access} : Kept (execPrefetchW h a s) := .hartAccess hs fun _ _ ht => .run ht

theorem Kept.prefetchI (hs : s.sound) {h : HartId} {a : Access} : Kept (execPrefetchI h a s) := .hartAccess hs fun _ _ ht => .run ht

theorem State.sound.fetchAhead (hs : s.sound) {h : HartId} {va : Word} {after : Option FetchedBranch} :
    (s.fetchAhead h va after).sound := by
  unfold State.fetchAhead
  refine .ite hs (.newOpAt (.setHart ?_))
  split
  · exact .predict hs
  · exact hs

theorem State.sound.branchPassed (hs : s.sound) {h : HartId} {b : FetchedBranch} {va : Word} : (s.branchPassed h b va).sound :=
  .newOpAt (.setHart (.train hs))

theorem State.sound.fetchHere (hs : s.sound) {h : HartId} {va : Word} {after : Option FetchedBranch} :
    (s.fetchHere h va after).sound := by
  unfold State.fetchHere
  refine .newOpAt (.setHart ?_)
  split
  · exact .branchPassed hs
  · exact hs

theorem Kept.instructionFetch (hs : s.sound) {h : HartId} {va : Word} {path : FetchPath} : Kept (execInstructionFetch h va path s) :=
  .hartAccess hs fun _ _ ht => .settled (.ite (.fetchAhead ht) (.fetchHere ht))

theorem Kept.wfi (hs : s.sound) {h : HartId} : Kept (execWfi h s) := .hartDoes hs fun _ _ ht => .next (.advance (.run ht))

theorem State.sound.redirect (hs : s.sound) {h : HartId} {pc target : Word} {kind : BranchKind} {taken : Bool} :
    (s.redirect h pc target kind taken).sound :=
  .setHart (.newOpAt (.setHart (.squash (.train hs))))

theorem State.sound.redirectSpec (hs : s.sound) {h : HartId} {pc target : Word} {kind : BranchKind} {taken : Bool} :
    (s.redirectSpec h pc target kind taken).sound :=
  .squashAfter (.setHart (.train hs))

theorem Kept.branchMispredict (hs : s.sound) {h : HartId} {pc target : Word} {b : ResolvedBranch} :
    Kept (execBranchMispredict h pc target b s) :=
  .hartDoes hs fun _ _ ht => .next (.settled (.ite (.redirectSpec ht) (.redirect ht)))

theorem Kept.cqzhueWrite (hs : s.sound) {h : HartId} {v : Word} : Kept (execCqzhueWrite h v s) :=
  .hartWrites hs fun _ _ ht => .next (.run ht)

theorem Kept.cqzbpctlOffWrite (hs : s.sound) {h : HartId} {v : Word} : Kept (execCqzbpctlOffWrite h v s) :=
  .hartWrites hs fun _ _ ht => .next (.run ht)

theorem Kept.flush (hs : s.sound) {h : HartId} {v : Word} : Kept (execFlush h v s) := .hartWrites hs fun _ _ ht => .next (.run ht)

theorem State.sound.flushRetire (hs : s.sound) {h : HartId} : (s.flushRetire h).sound := by
  unfold State.flushRetire
  dsimp only
  split
  · exact hs
  · exact .retryHart (.endDone (.bpOffWrite (.setHart hs)))

theorem Kept.predictorClearingDone (hs : s.sound) {c : CoreId} : Kept (execPredictorClearingDone c s) := by
  unfold execPredictorClearingDone
  refine .live hs fun _ ht => ?_
  dsimp only
  split
  · exact .next ht
  · exact .next (.forEach (.forEach (.setCore ht) fun _ _ hu => .setHart hu) fun _ _ hu => .flushRetire hu)

theorem Kept.flushL1i (hs : s.sound) {h : HartId} {v : Word} : Kept (execFlushL1i h v s) := .hartWrites hs fun _ _ ht => .next (.run ht)

theorem Kept.flushL1d (hs : s.sound) {h : HartId} {v : Word} : Kept (execFlushL1d h v s) := .hartWrites hs fun _ _ ht => .next (.run ht)

theorem Kept.flushL2 (hs : s.sound) {h : HartId} {v : Word} : Kept (execFlushL2 h v s) := .hartWrites hs fun _ _ ht => .next (.run ht)

theorem State.sound.flushLine (hs : s.sound) {c : CoreId} {k : FlushKind} {line : Nat} : (s.flushLine c k line).sound := by
  unfold State.flushLine
  dsimp only
  split
  · exact .setCore (.settleCore hs)
  · exact .setCore (.settleCore hs)
  · exact .setDie (.setCore (.settleCore hs))

theorem Kept.cacheFlushDone (hs : s.sound) {c : CoreId} : Kept (execCacheFlushDone c s) := by
  unfold execCacheFlushDone
  refine .live hs fun _ ht => ?_
  dsimp only
  split
  · exact .next ht
  · exact .next (.forEach (.setCore (.forEach ht fun _ _ hu => .flushLine hu)) fun _ _ hu => .resetHart hu)

theorem Kept.walkRead (hs : s.sound) {h : HartId} : Kept (execWalkRead h s) :=
  .live hs fun _ ht => .next (.settled (.retryHart (.walkRead ht)))

theorem Kept.missRegisterFreed (hs : s.sound) {c : CoreId} {_line : Nat} : Kept (execMissRegisterFreed c _line s) :=
  .live hs fun _ ht => .next (.forEach ht fun _ _ hu => .settled (.retryHart hu))

theorem Kept.l3WayFreed (hs : s.sound) {d : Fin 12} {line : Nat} : Kept (execL3WayFreed d line s) :=
  .live hs fun _ ht => .next (.dieWayFreed ht)

theorem Kept.mtimecmpMatch (hs : s.sound) {h : HartId} {supervisor : Bool} : Kept (execMtimecmpMatch h supervisor s) :=
  .live hs fun _ ht => .ite (.ite (.next (.setHart (.reach ht))) (.next ht)) (.next (.setHart (.reach ht)))

/-! ### The stacks -/

theorem State.sound.storeRaw (hs : s.sound) {line : Nat} {data check : Bytes} : (s.storeRaw line data check).sound :=
  ⟨storeRaw_wf _ _ _ _ hs.1, hs.2⟩

theorem State.sound.storeLine (hs : s.sound) {line : Nat} {data : Bytes} {poison : Bool} : (s.storeLine line data poison).sound :=
  .storeRaw hs

theorem State.sound.wipeGranule (hs : s.sound) {g : Nat} : (s.wipeGranule g).sound := ⟨wipeGranule_wf _ _ hs.1, hs.2⟩

theorem State.sound.reportRead (hs : s.sound) {line : Nat} {c : ReadClass} {hue : BitVec 12} : (s.reportRead line c hue).sound := by
  unfold State.reportRead
  dsimp only
  split
  · exact .logE hs
  · exact .logE hs
  · exact .logE hs
  · exact .logE hs
  · exact hs

theorem State.sound.memAnswer (hs : s.sound) {r : MemReq} {d : Bytes × Bool} : (s.memAnswer r d).sound := by
  unfold State.memAnswer
  split
  · exact .homeMemory hs
  · split
    · exact hs
    · exact .ite (.memReq hs) (.homeUnhold (.ite (.homeReply (.upMem hs)) (.homeReply (.upMem hs))))

theorem State.sound.poisonAnswer (hs : s.sound) {r : MemReq} : (s.poisonAnswer r).sound := by
  unfold State.poisonAnswer
  dsimp only
  exact .memAnswer (.takeBytes hs)

theorem State.sound.slotUse (hs : s.sound) {pc : Nat} {c : BitVec 3} : (s.slotUse pc c).sound := .setSlotsUsed hs

theorem State.sound.hbmRead (hs : s.sound) {r : MemReq} : (s.hbmRead r).sound :=
  .ite (.memAnswer (.uncount hs)) (.ite (.poisonAnswer hs) (.slotUse (.uncount (.charge (.upMem hs)))))

theorem State.sound.hbmPut (hs : s.sound) {line : Nat} {data : Bytes} {poison : Bool} : (s.hbmPut line data poison).sound := by
  unfold State.hbmPut
  extract_lets u
  have hu : u.sound := by
    dsimp only [u]
    split
    · exact .setGranule hs
    · exact hs
  exact .ite hu (.storeLine hu)

theorem State.sound.hbmWrite (hs : s.sound) {r : MemReq} : (s.hbmWrite r).sound := .memAnswer (.slotUse (.uncount (.charge (.hbmPut hs))))

theorem State.sound.waitFill (hs : s.sound) {g : Nat} {r : MemReq} : (s.waitFill g r).sound := .upMem hs

theorem State.sound.startFill (hs : s.sound) {g : Nat} {r : MemReq} : (s.startFill g r).sound :=
  .uncount (.forEach (.upMem hs) fun _ _ ht => .slotUse ht)

theorem State.sound.readMap (hs : s.sound) {g : Nat} : (s.readMap g).sound := by
  unfold State.readMap
  dsimp only
  split
  · exact hs
  · exact .logE (.setMapErr hs)
  · exact .logE (.setMapErr (.forEach hs fun _ _ ht => .ite (.setGranule ht) ht))

theorem State.sound.hbmServe (hs : s.sound) {r : MemReq} : (s.hbmServe r).sound :=
  .ite (.waitFill (.readMap (.upMem hs))) (.ite (.hbmRead (.readMap (.upMem hs))) (.ite (.startFill (.readMap (.upMem hs))) (.hbmWrite
    (.readMap (.upMem hs)))))

theorem State.sound.hbmTake (hs : s.sound) {r : MemReq} : (s.hbmTake r).sound := .ite hs (.ite (.hbmServe hs) hs)

theorem State.sound.fillDone248 (hs : s.sound) {g : Nat} : (s.fillDone248 g).sound := by
  unfold State.fillDone248
  split
  · exact hs
  · exact .forEach (.setGranule (.wipeGranule (.upMem hs))) fun _ _ ht => .ite (.hbmWrite ht) (.hbmRead ht)

theorem State.sound.readStored (hs : s.sound) {line source : Nat} {errs : List (Nat × Byte)} :
    (s.readStored line source errs).2.2.sound := by
  unfold State.readStored
  dsimp only
  split
  · exact .ite₃ hs (.thd (.takeNat hs))
  · exact hs

theorem State.sound.hbmData (hs : s.sound) {r : MemReq} {source : Nat} {errs : List (Nat × Byte)} : (s.hbmData r source errs).sound := by
  unfold State.hbmData
  dsimp only
  refine .ite hs ?_
  split
  · exact .memAnswer (.reportRead (.readStored (.setChannel (.upMem hs))))
  · exact .poisonAnswer (.reportRead (.readStored (.setChannel (.upMem hs))))

theorem State.sound.failChannel (hs : s.sound) {k : Nat} : (s.failChannel k).sound :=
  .forEach hs fun _ _ ht => .ite ht (.forEach (.upMem (.pdrTouch (.logE (.upMem ht)))) fun _ _ hu => .poisonAnswer hu)

theorem State.sound.retrainChannel (hs : s.sound) {k : Nat} : (s.retrainChannel k).sound := by
  unfold State.retrainChannel
  dsimp only
  exact .ite (.setChannel (.takeNat hs)) (.ite (.failChannel (.setChannel (.takeNat hs))) (.setChannel (.takeNat hs)))

theorem State.sound.parityAlert (hs : s.sound) {ch : Fin 32} {r : MemReq} : (s.parityAlert ch r).sound :=
  .ite (.setChannel (.logE hs)) (.retrainChannel (.logE hs))

theorem State.sound.readTimeout (hs : s.sound) {r : MemReq} : (s.readTimeout r).sound :=
  .ite hs (.poisonAnswer (.ite (.retrainChannel (.setChannel (.logE (.upMem hs)))) (.setChannel (.logE (.upMem hs)))))

theorem State.sound.rewriteRow (hs : s.sound) {line : Nat} {spare : Bool} : (s.rewriteRow line spare).sound := by
  unfold State.rewriteRow
  dsimp only
  refine .forEach hs fun _ _ ht => .ite ht ?_
  split
  · exact .storeLine (.readStored ht)
  · exact .storeLine (.readStored ht)
  · exact .readStored ht
  · exact .ite (.storeLine (.readStored ht)) (.readStored ht)

theorem State.sound.retireRow (hs : s.sound) {line : Nat} : (s.retireRow line).sound := .event (.logE hs)

theorem State.sound.spprFailed (hs : s.sound) {line : Nat} : (s.spprFailed line).sound := .retireRow (.logE (.upMem hs))

theorem State.sound.correction (hs : s.sound) {line : Nat} : (s.correction line).sound := by
  unfold State.correction
  extract_lets l cfg known r0 r1 r2 put
  have kept {t : State} (ht : t.sound) {r : RowState} : (put t r).sound := .upMem (.setRow ht)
  refine .ite (kept hs) (.ite (kept (.logE (.rewriteRow hs))) (.ite (.ite ?_ (kept (.retireRow hs))) (kept hs)))
  exact .ite (kept (.spprFailed (.takeNat hs))) (kept (.upMem (.logE (.rewriteRow (.takeNat hs)))))

theorem State.sound.patrol (hs : s.sound) {stack : Nat} {errs : List (Nat × Byte)} : (s.patrol stack errs).sound := by
  unfold State.patrol
  dsimp only
  refine .ite hs ?_
  split
  · exact hs
  · exact .ite (.setPatrolAt hs) (.reportRead (.readStored (.setPatrolAt hs)))

theorem State.sound.rawFill (hs : s.sound) {g : Nat} : (s.rawFill g).sound := .ite (.setGranule (.wipeGranule hs)) hs

theorem State.sound.setWindow (hs : s.sound) {w : TestWindow} : (s.setWindow w).sound := .upMem hs

theorem State.sound.readRawCmd (hs : s.sound) {errs : List (Nat × Byte)} : (s.readRawCmd errs).sound := by
  unfold State.readRawCmd
  dsimp only
  exact .ite (.setWindow hs) (.ite (.setWindow hs) (.setWindow (.readStored hs)))

theorem State.sound.writeRawCmd (hs : s.sound) : s.writeRawCmd.sound := by
  unfold State.writeRawCmd
  extract_lets w line u v y
  have hv : v.sound := .setWindow (.rawFill hs)
  have hy : y.sound := by
    dsimp only [y]
    split
    · exact .setGranule hv
    · exact hv
  exact .ite hy (.storeRaw hy)

theorem Kept.hbmLineRead (hs : s.sound) {r : MemReq} : Kept (execHbmLineRead r s) := .live hs fun _ ht => .next (.ite ht (.hbmTake ht))

theorem Kept.hbmLineWrite (hs : s.sound) {r : MemReq} : Kept (execHbmLineWrite r s) := .live hs fun _ ht => .next (.ite (.hbmTake ht) ht)

theorem Kept.hbmReadData (hs : s.sound) {r : MemReq} {source : Nat} {errs : List (Nat × Byte)} : Kept (execHbmReadData r source errs s) :=
  .live hs fun _ ht => .next (.hbmData ht)

theorem Kept.zeroFillDone (hs : s.sound) {granule : Nat} : Kept (execZeroFillDone granule s) :=
  .live hs fun _ ht => .next (.fillDone248 ht)

theorem Kept.hbmParityAlert (hs : s.sound) {ch : Fin 32} {r : MemReq} : Kept (execHbmParityAlert ch r s) :=
  .live hs fun _ ht => .next (.parityAlert ht)

theorem Kept.hbmReadTimeout (hs : s.sound) {r : MemReq} : Kept (execHbmReadTimeout r s) := .live hs fun _ ht => .next (.readTimeout ht)

theorem Kept.hbmTemperatureReport (hs : s.sound) {stack : Fin 2} {celsius : ℤ} : Kept (execHbmTemperatureReport stack celsius s) :=
  .live hs fun _ ht => .next (.upPower ht)

theorem Kept.correctionEvent (hs : s.sound) {line : Nat} {_symbol : Fin 128} : Kept (execCorrectionEvent line _symbol s) :=
  .live hs fun _ ht => .next (.correction ht)

theorem Kept.patrolStep (hs : s.sound) {stack : Fin 2} {errs : List (Nat × Byte)} : Kept (execPatrolStep stack errs s) :=
  .live hs fun _ ht => .next (.patrol ht)

theorem Kept.readRaw (hs : s.sound) {hue : BitVec 12} {errs : List (Nat × Byte)} : Kept (execReadRaw hue errs s) :=
  .live hs fun _ ht => .next (.ite (.readRawCmd ht) ht)

theorem Kept.writeRaw (hs : s.sound) {hue : BitVec 12} : Kept (execWriteRaw hue s) :=
  .live hs fun _ ht => .next (.ite (.writeRawCmd ht) ht)

theorem Kept.rawCommandDone (hs : s.sound) : Kept (execRawCommandDone s) := .live hs fun _ ht => .next (.setWindow ht)

theorem Kept.hbmRound (hs : s.sound) {pc : Fin 64} : Kept (execHbmRound pc s) :=
  .live hs fun _ ht => .next (.forEach (.forEach ht fun _ _ hu => .uncount hu) fun _ _ hu => .setSlotsUsed hu)

/-! ### The forget queue -/

theorem State.sound.forgetEnd (hs : s.sound) {q : Nat} {e : ForgetEntry} {range msi : Bool} : (s.forgetEnd q e range msi).sound :=
  .ite (.packageMsi (.setForget hs)) (.setForget hs)

theorem State.sound.forgetRefused (hs : s.sound) {q fuel : Nat} : (s.forgetRefused q fuel).sound := by
  induction fuel generalizing s with
  | zero => exact hs
  | succ fuel ih =>
    unfold State.forgetRefused
    split
    · exact hs
    · exact .ite hs (ih (.forgetEnd hs))

theorem State.sound.forgetEnqueue (hs : s.sound) {q : Nat} {w : Word} : (s.forgetEnqueue q w).sound :=
  .ite (.setForget hs) (.forgetRefused (.setForget hs))

theorem State.sound.sweepLine (hs : s.sound) {k : Nat} {e : DirEntry} : (s.sweepLine k e).sound := .homeGo (.setHome hs)

theorem State.sound.sweepSlice (hs : s.sound) {es : List ForgetEntry} {k : Nat} : (s.sweepSlice es k).sound :=
  .forEach hs fun _ _ ht => .ite ht (.sweepLine ht)

theorem State.sound.forgetSweep (hs : s.sound) : s.forgetSweep.sound :=
  .forEach (.forEach hs fun _ _ ht => .setForget ht) fun _ _ ht => .sweepSlice ht

theorem State.sound.clearMap (hs : s.sound) {e : ForgetEntry} : (s.clearMap e).sound := ⟨clearMap_wf _ _ hs.1, hs.2⟩

theorem State.sound.forgetFinish (hs : s.sound) {q : Nat} {e : ForgetEntry} {msi : Bool} : (s.forgetFinish q e msi).sound := by
  unfold State.forgetFinish
  refine .forgetRefused (.forgetEnd ?_)
  split <;> exact .charge (.clearMap hs)

theorem State.sound.entry1Write (hs : s.sound) {q : Nat} {v mask : Word} : (s.entry1Write q v mask).sound :=
  .ite (.forgetEnqueue hs) (.setForget hs)

theorem Kept.wmapForgetEntry1 (hs : s.sound) {h : HartId} {q : Fin 16} {size : Nat} {v : Word} :
    Kept (execWmapForgetEntry1 h q size v s) :=
  .live hs fun _ ht => .ite (.next ht) (.ite (.next (.entry1Write ht)) (.ite (.next (.entry1Write ht)) (.next ht)))

theorem Kept.forgetSweep (hs : s.sound) {q : Fin 16} : Kept (execForgetSweep q s) :=
  .live hs fun _ ht => .next (.ite ht (.forgetSweep ht))

theorem Kept.forgetComplete (hs : s.sound) {q : Fin 16} : Kept (execForgetComplete q s) := by
  unfold execForgetComplete
  refine .live hs fun _ ht => ?_
  split
  · exact .next ht
  · exact .next (.ite (.forgetFinish ht) ht)

/-! ### The I/O agent -/

theorem State.sound.portError (hs : s.sound) {r : Nat} {src : ErrSource} {why : ErrReason} {rid : Nat} {b : Option Aer} {hue : BitVec 12}
    {addr : Nat} : (s.portError r src why rid b hue addr).sound := by
  unfold State.portError
  refine .logE ?_
  split
  · exact .setRootPort hs
  · exact hs

theorem State.sound.contain (hs : s.sound) {r : Nat} : (s.contain r).sound := .ite (.setRootPort hs) hs

theorem State.sound.portFail (hs : s.sound) {r : Nat} {q : PortReq} {why : ErrReason} {b : Aer} : (s.portFail r q why b).sound :=
  .upFab (.portError hs)

theorem State.sound.portFlush (hs : s.sound) {r : Nat} {why : ErrReason} : (s.portFlush r why).sound :=
  .forEach (.setRootPort hs) fun _ _ ht => .portFail ht

theorem State.sound.dropInbound (hs : s.sound) {r : Nat} : (s.dropInbound r).sound := .upHub hs

theorem State.sound.slotOut (hs : s.sound) {r : Nat} {mask v : Byte} : (s.slotOut r mask v).sound := .setRootPort hs

theorem State.sound.fencePort (hs : s.sound) {r : Nat} {why : ErrReason} {line : Nat} {hue : BitVec 12} :
    (s.fencePort r why line hue).sound :=
  .ite hs (.pdrTouch (.dropInbound (.portFlush (.logE (.slotOut (.setRootPort hs))))))

theorem State.sound.takeTxid (hs : s.sound) : s.takeTxid.2.sound := by
  unfold State.takeTxid
  exact .snd (.upHub hs)

theorem State.sound.dmaRefuse (hs : s.sound) {port : Fin 32} {r : DmaReq} {st : CplStatus} : (s.dmaRefuse port r st).sound :=
  .ite hs (.upHub hs)

theorem State.sound.iommuFault (hs : s.sound) {inst : Nat} {rid : BitVec 16} {addr : Nat} : (s.iommuFault inst rid addr).sound :=
  .ite hs (.ite (.upFab (.setIommu hs)) (.setIommu hs))

theorem State.sound.dmaSend (hs : s.sound) {i : Inbound} : (s.dmaSend i).sound := by
  unfold State.dmaSend
  extract_lets r u keep
  refine .ite (.upFab (.upHub hs)) ?_
  generalize sent : List.foldl _ _ _ = p
  have hp : p.1.sound := by
    rw [← sent]
    refine .foldlFst (.upHub hs) fun q _ hq => ?_
    dsimp only
    split
    · exact .uncount (.send (.takeTxid hq))
    · exact .ite₁ hq (.uncount (.send (.takeTxid hq)))
    · exact .send (.takeTxid hq)
  exact .ite hp (.upHub hp)

theorem State.sound.dmaPump (hs : s.sound) {port : Fin 32} {fuel : Nat} : (s.dmaPump port fuel).sound := by
  induction fuel generalizing s with
  | zero => exact hs
  | succ fuel ih =>
    unfold State.dmaPump
    dsimp only
    split
    · exact hs
    · exact .ite hs (ih (.dmaSend hs))

theorem State.sound.dmaGo (hs : s.sound) {port : Fin 32} : (s.dmaGo port).sound := .dmaPump hs

theorem State.sound.dmaTake (hs : s.sound) {i : Inbound} : (s.dmaTake i).sound := .dmaGo (.upHub hs)

theorem State.sound.dmaArrive_take (hs : s.sound) {port : Fin 32} {r : DmaReq} {pa : Nat} {hue : BitVec 12} {part : Option Nat} :
    (State.dmaArrive.take port r s pa hue part).sound :=
  .dmaTake (.ite (.charge hs) hs)

theorem State.sound.dmaArrive (hs : s.sound) {port : Fin 32} {r : DmaReq} : (s.dmaArrive port r).sound := by
  unfold State.dmaArrive
  refine .ite hs (.ite (.contain (.portError hs)) (.ite (.dmaRefuse (.portError hs)) ?_))
  split
  · exact .dmaRefuse (.iommuFault hs)
  · split
    · exact .dmaRefuse (.logE hs)
    · dsimp only
      split
      · exact .ite (.ite (.dmaTake hs) (.portError hs)) (.dmaRefuse hs)
      · split
        · exact .dmaRefuse (.portError hs)
        · exact .dmaRefuse hs
        · exact .ite (.setRootPort hs) (.dmaRefuse hs)
      · exact .dmaArrive_take hs
      · exact .dmaArrive_take hs
      · split
        · exact .dmaRefuse (.portError hs)
        · exact .dmaRefuse hs

theorem State.sound.dmaEnd (hs : s.sound) {i : Inbound} : (s.dmaEnd i).sound := by
  unfold State.dmaEnd
  dsimp only
  exact .dmaGo (.ite (.upHub hs) (.ite (.dmaRefuse (.upHub hs)) (.forEach (.upHub hs) fun _ _ ht => .charge (.upHub (.ite₂ (.takeBytes ht)
      ht)))))

theorem State.sound.dmaAnswer (hs : s.sound) {i : Inbound} {m : Msg} : (s.dmaAnswer i m).sound :=
  .ite (.dmaEnd (.upHub (.ite (.portError hs) hs))) (.upHub (.ite (.portError hs) hs))

theorem State.sound.dropFilter (hs : s.sound) {line r : Nat} : (s.dropFilter line r).sound := by
  unfold State.dropFilter
  split
  · exact hs
  · exact .setFilterAt hs

theorem State.sound.setCache (hs : s.sound) {c c' : CacheReq} : (s.setCache c c').sound := .upHub hs

theorem State.sound.endCache (hs : s.sound) {c : CacheReq} : (s.endCache c).sound := .upHub hs

theorem State.sound.cacheAns (hs : s.sound) {c : CacheReq} {grant : Option (BitVec 2)} {d : Bytes × Bool} {failed : Bool} :
    (s.cacheAns c grant d failed).sound :=
  .upHub hs

theorem State.sound.cacheSend (hs : s.sound) {c : CacheReq} {op : Op} {d : Option (Bytes × Bool)} : (s.cacheSend c op d).sound := by
  unfold State.cacheSend
  dsimp only
  exact .send (.setCache (.takeTxid hs))

theorem State.sound.cacheSnoop (hs : s.sound) {c : CacheReq} {ports : List (Fin 32)} {takes : Bool} :
    (s.cacheSnoop c ports takes).sound :=
  .upHub (.setCache hs)

theorem State.sound.cacheHome (hs : s.sound) {c : CacheReq} {dirty : Option Bytes} : (s.cacheHome c dirty).sound := by
  unfold State.cacheHome
  dsimp only
  split
  · exact .endCache (.cacheAns (.setFilterAt hs))
  · exact .endCache (.cacheAns (.setFilterAt hs))
  · exact .endCache (.cacheAns hs)
  · exact .cacheSend hs
  · exact .cacheSend hs
  · exact .cacheSend hs
  · exact .cacheSend (.setFilterAt hs)
  · exact .cacheSend hs
  · exact .cacheSend hs
  · exact .endCache hs

theorem State.sound.cacheBegin_room (hs : s.sound) {c : CacheReq} : (State.cacheBegin.room s c).sound := by
  unfold State.cacheBegin.room
  refine .ite (.cacheHome hs) ?_
  dsimp only
  split
  · exact .upHub hs
  · exact hs

theorem State.sound.cacheBegin (hs : s.sound) {c : CacheReq} : (s.cacheBegin c).sound := by
  unfold State.cacheBegin
  refine .ite hs ?_
  split
  · exact .ite (.cacheHome (.dropFilter hs)) (.endCache (.dropFilter hs))
  · exact .endCache (.dropFilter hs)
  · exact .cacheHome hs
  · exact .ite (.cacheHome hs) (.cacheSnoop hs)
  · exact .ite (.cacheSnoop hs) (.cacheHome hs)
  · exact .ite (.cacheSnoop hs) (.cacheBegin_room hs)
  · exact .ite (.cacheSnoop hs) (.cacheBegin_room hs)

theorem State.sound.cacheGo (hs : s.sound) : s.cacheGo.sound := .forEach hs fun _ _ ht => .ite (.cacheBegin ht) ht

theorem State.sound.cacheArrive (hs : s.sound) {port : Fin 32} {line : Nat} {dev : DevOp} {data : Option Bytes} :
    (s.cacheArrive port line dev data).sound :=
  .ite hs (.cacheGo (.upHub hs))

theorem State.sound.ioReply (hs : s.sound) {m : Msg} : (s.ioReply m).sound := .send hs

theorem State.sound.ioCombine (hs : s.sound) {m : Msg} {d : Option (Bytes × Bool)} : (s.ioCombine m d).sound := by
  unfold State.ioCombine
  dsimp only
  split
  · exact .ioReply (.ioReply hs)
  · exact .ioReply (.ioReply hs)
  · exact .ioReply (.ioReply hs)
  · exact .ioReply hs
  · exact .ioReply hs
  · exact .ioReply hs
  · exact .ioReply hs
  · exact .ioReply hs
  · exact .ioReply hs
  · exact .ioReply hs
  · exact .ioReply hs
  · exact .ioReply hs
  · exact hs

theorem State.sound.filterAfter (hs : s.sound) {m : Msg} {hit : Bool} : (s.filterAfter m hit).sound :=
  .ite (.setFilterAt hs) (.ite (.setFilterAt hs) hs)

theorem State.sound.ioForward (hs : s.sound) {m : Msg} : (s.ioForward m).sound := by
  unfold State.ioForward
  dsimp only
  split
  · exact .ioCombine hs
  · exact .ioCombine hs
  · exact .ite (.ioCombine (.filterAfter hs)) (.ite (.ioReply (.setFilterAt hs)) (.upHub hs))

theorem State.sound.cxlSettle (hs : s.sound) : s.cxlSettle.sound :=
  .ite hs (.forEach hs fun _ _ ht => .ite (.homeSettle (.setHome ht)) ht)

theorem State.sound.snoopDone (hs : s.sound) {w : SnoopWait} : (s.snoopDone w).sound := by
  unfold State.snoopDone
  refine .cxlSettle (.cacheGo ?_)
  split
  · exact .ioCombine (.filterAfter (.upHub hs))
  · dsimp only
    split
    · exact .ite (.setFilterAt (.upHub hs)) (.upHub hs)
    · refine .ite ?_ (.cacheHome (.ite (.setFilterAt (.upHub hs)) (.upHub hs)))
      split
      · exact .cacheSend (.setFilterAt (.ite (.setFilterAt (.upHub hs)) (.upHub hs)))
      · exact .endCache (.setFilterAt (.ite (.setFilterAt (.upHub hs)) (.upHub hs)))

theorem State.sound.snoopAnswer (hs : s.sound) {port : Fin 32} {line : Nat} {dirty : Option Bytes} :
    (s.snoopAnswer port line dirty).sound := by
  unfold State.snoopAnswer
  split
  · exact .portError hs
  · exact .ite (.snoopDone (.upHub hs)) (.upHub hs)

theorem State.sound.snoopExpire (hs : s.sound) {line : Nat} : (s.snoopExpire line).sound := by
  unfold State.snoopExpire
  split
  · exact hs
  · exact .cacheGo (.setFilterAt (.forEach (.upHub hs) fun _ _ ht => .fencePort ht))

theorem State.sound.ioTake (hs : s.sound) {m : Msg} : (s.ioTake m).sound := by
  unfold State.ioTake
  split
  · exact .ite (.dmaAnswer hs) (.dropMsg hs)
  · split
    · exact .dropMsg hs
    · next c _ =>
      extract_lets op me ack holders s'
      have kept : KeptSome s' := by
        dsimp only [s']
        split
        · exact .ite (.some (.endCache (.cacheAns (.setFilterAt (.ioReply hs))))) .none
        · exact .ite (.some (.endCache (.cacheAns (.setFilterAt (.ioReply hs))))) .none
        · exact .ite (.some (.endCache (.cacheAns hs))) .none
        · exact .ite (.some (.endCache hs)) .none
        · exact .ite (.some (.endCache hs)) .none
        · exact .ite (.some (.endCache hs)) .none
        · exact .some (.endCache (.cacheAns (.portError hs)))
        · exact .none
      clear_value s'
      split
      · exact .cxlSettle (.cacheGo (.of_some kept rfl))
      · exact .dropMsg hs

theorem State.sound.ioAnswer (hs : s.sound) {m : Msg} : (s.ioAnswer m).sound := .ite (.dropMsg (.upHub hs)) (.ioTake hs)

theorem State.sound.ioExpire (hs : s.sound) {line : Nat} : (s.ioExpire line).sound := by
  unfold State.ioExpire
  dsimp only
  split
  · exact .upHub (.ioTake hs)
  · exact hs

/-! ### The lines at the I/O agent -/

theorem State.sound.fromMemory (hs : s.sound) {line : Nat} {hue : BitVec 12} : (s.fromMemory line hue).2.sound := by
  unfold State.fromMemory
  dsimp only
  refine .ite₂ ?_ (.snd (.takeNat (.charge (.takeBytes hs))))
  refine .ite₂ (.snd (.uncount (.readMap hs))) (.ite₂ (.snd (.takeBytes (.readMap hs))) ?_)
  split
  · exact .snd (.reportRead (.readStored (.uncount (.charge (.readMap hs)))))
  · exact .snd (.takeBytes (.reportRead (.readStored (.uncount (.charge (.readMap hs))))))

theorem State.sound.snapLine (hs : s.sound) {part : Option Nat} {line : Nat} {hue : BitVec 12} : (s.snapLine part line hue).2.sound := by
  unfold State.snapLine
  dsimp only
  refine .ite₂ hs ?_
  split
  · exact .snd (.forEach hs fun _ _ ht => .probeCores ht)
  · exact .snd (.fromMemory (.forEach hs fun _ _ ht => .probeCores ht))

theorem State.sound.mapCopies (hs : s.sound) {line : Nat} {f : Bytes → Bytes} : (s.mapCopies line f).sound :=
  .upFab (.upMem (.setHome (.forEach (.forEach hs fun _ _ ht => .setCore ht) fun _ _ ht => .setDie ht)))

theorem State.sound.readyGranule (hs : s.sound) {line : Nat} {hue : BitVec 12} : (s.readyGranule line hue).sound :=
  .ite (.uncount (.setGranule (.wipeGranule (.readMap (.ite (.fillDone248 hs) hs))))) (.readMap (.ite (.fillDone248 hs) hs))

theorem State.sound.takeCopies (hs : s.sound) {line : Nat} : (s.takeCopies line).sound := by
  unfold State.takeCopies
  dsimp only
  refine .ite (.forEach hs fun _ _ ht => .endResv ht) (.setFilterAt (.setHome (.forEach hs fun _ _ ht => ?_)))
  split
  · exact .ite (.hbmPut (.readyGranule (.evictL3 (.endResv ht)))) (.evictL3 (.endResv ht))
  · exact .evictL3 (.endResv ht)

theorem State.sound.pokeMemory (hs : s.sound) {line : Nat} {f : Bytes → Bytes} {whole : Bool} {hue : BitVec 12} :
    (s.pokeMemory line f whole hue).sound := by
  unfold State.pokeMemory
  dsimp only
  exact .ite (.ite (.hbmPut (.uncount (.charge (.readyGranule hs)))) (.hbmPut (.fromMemory (.uncount (.charge (.readyGranule hs))))))
      (.charge hs)

theorem State.sound.pokeLine (hs : s.sound) {part : Option Nat} {line off : Nat} {b : Bytes} {hue : BitVec 12} :
    (s.pokeLine part line off b hue).2.sound := by
  unfold State.pokeLine
  exact .ite₂ hs (.snd (.pokeMemory (.mapCopies (.takeCopies hs))))

theorem State.sound.snap (hs : s.sound) {part : Option Nat} {pa len : Nat} {hue : BitVec 12} : (s.snap part pa len hue).2.sound := by
  refine .foldlSnd hs fun _ _ hp => ?_
  split
  · next e => exact .of_snd (.snapLine hp) e
  · next e => exact .of_snd (.snapLine hp) e

theorem State.sound.poke (hs : s.sound) {part : Option Nat} {pa : Nat} {b : Bytes} {hue : BitVec 12} : (s.poke part pa b hue).2.sound :=
  .foldlSnd hs fun _ _ hp => .pokeLine hp

theorem State.sound.bufferFault (hs : s.sound) {iss : Issuer} {buf : Nat} : (s.bufferFault iss buf).sound := .respond (.logE hs)

theorem State.sound.bufferWrite (hs : s.sound) {iss : Issuer} {buf : Nat} {b : Bytes} {f : State → Option Bytes × State}
    (hf : ∀ t, t.sound → (f t).2.sound) : (s.bufferWrite iss buf b f).2.sound := by
  unfold State.bufferWrite
  split
  · next e => exact hf _ (.of_snd (.poke hs) e)
  · next e => exact .snd (.bufferFault (.of_snd (.poke hs) e))

/-! ### The engine -/

theorem State.sound.ceRead (hs : s.sound) {k : Nat} {hue : BitVec 12} {xlat l : List (Nat × Nat)} : (s.ceRead k hue xlat l).2.sound := by
  induction l generalizing s with
  | nil => exact hs
  | cons r l ih =>
    unfold State.ceRead
    split
    · exact .iommuFault hs
    · exact hs
    · exact ih (.takeBytes hs)
    · exact .ite₂ (.snap hs) (.ite₂ (.snap hs) (ih (.snap hs)))

theorem State.sound.ceWrite (hs : s.sound) {k : Nat} {hue : BitVec 12} {xlat l : List (Nat × Nat)} {b : Bytes} :
    (s.ceWrite k hue xlat l b).2.sound := by
  induction l generalizing s b with
  | nil => exact hs
  | cons r l ih =>
    unfold State.ceWrite
    split
    · exact .iommuFault hs
    · exact hs
    · exact ih (.setRootPort hs)
    · split
      · next e => exact ih (.of_snd (.poke hs) e)
      · next e => exact .of_snd (.poke hs) e

theorem State.sound.freeCells (hs : s.sound) {l : List Nat} : (s.freeCells l).sound := .forEach hs fun _ _ ht => .setCell ht

theorem State.sound.sliceSettle (hs : s.sound) {k : Nat} : (s.sliceSettle k).sound := by
  unfold State.sliceSettle
  dsimp only
  split
  · refine .ite ?_ (.ite (.logE (.setSlice (.freeCells hs))) (.ite (.setSlice hs) hs))
    split
    · exact .respond (.setSlice (.freeCells (.ite (.logE (.setSlice (.freeCells hs))) (.ite (.setSlice hs) hs))))
    · exact .setSlice (.freeCells (.ite (.logE (.setSlice (.freeCells hs))) (.ite (.setSlice hs) hs)))
  · exact .ite (.logE (.setSlice (.freeCells hs))) (.ite (.setSlice hs) hs)

theorem State.sound.queueReset (hs : s.sound) {k : Nat} : (s.queueReset k).sound := .ite hs (.sliceSettle (.setSlice hs))

theorem State.sound.submit (hs : s.sound) {k : Nat} : (s.submit k).sound := .setSlice (.ite (.logE hs) hs)

theorem State.sound.enqueue (hs : s.sound) {k : Nat} : (s.enqueue k).sound := by
  unfold State.enqueue
  refine .ite (.setSlice hs) ?_
  dsimp only
  split
  · refine .setSlice ?_
    split
    · exact .setCell (.setCell hs)
    · exact .setCell hs
  · refine .submit (.setSlice ?_)
    split
    · exact .setCell (.setCell hs)
    · exact .setCell hs

theorem State.sound.stage (hs : s.sound) {k off size : Nat} {v : Word} : (s.stage k off size v).sound :=
  .ite hs (.ite (.enqueue (.setSlice hs)) (.setSlice hs))

theorem Kept.slcDesc7 (hs : s.sound) {slice : Fin 4096} {size : Nat} {high : Bool} {v : Word} : Kept (execSlcDesc7 slice size high v s) :=
  .live hs fun _ ht => .ite (.next (.stage ht)) (.ite (.next (.stage ht)) (.next ht))

theorem State.sound.releaseTo (hs : s.sound) {k : Nat} {h : BitVec 16} : (s.releaseTo k h).sound :=
  .ite hs (.ite (.setSlice hs) (.setSlice (.freeCells hs)))

theorem Kept.slcCqHead (hs : s.sound) {slice : Fin 4096} {v : Word} : Kept (execSlcCqHead slice v s) :=
  .live hs fun _ ht => .next (.releaseTo ht)

theorem State.sound.abortJobs (hs : s.sound) {k st : Nat} : (s.abortJobs k st).sound := .ite hs (.setSlice (.freeCells hs))

theorem Kept.abort (hs : s.sound) {slice : Fin 4096} {v : Word} : Kept (execAbort slice v s) :=
  .live hs fun _ ht => .ite (.next (.abortJobs ht)) (.next ht)

theorem Kept.ceSliceBind (hs : s.sound) {iss : Issuer} {c : CmdCell} : Kept (execCeSliceBind iss c s) :=
  .liveMordant hs fun _ ht => .next (.command ht fun _ hu => .snd (.setSlice hu))

theorem Kept.ceSliceUnbind (hs : s.sound) {iss : Issuer} {c : CmdCell} : Kept (execCeSliceUnbind iss c s) :=
  .liveMordant hs fun _ ht => .next (.command ht fun _ hu => .snd (.sliceSettle (.setSlice (.abortJobs hu))))

theorem Kept.ceSliceQuery (hs : s.sound) {iss : Issuer} {c : CmdCell} : Kept (execCeSliceQuery iss c s) :=
  .liveMordant hs fun _ ht => .next (.command ht fun _ hu => hu)

theorem State.sound.setJob (hs : s.sound) {k : Nat} {j : Job} : (s.setJob k j).sound := .setSlice hs

theorem State.sound.preempt (hs : s.sound) : s.preempt.sound := by
  unfold State.preempt
  dsimp only
  split
  · exact hs
  · refine .ite hs ?_
    split
    · exact .ite hs (.setJob hs)
    · exact hs

theorem State.sound.select (hs : s.sound) {pipe : Fin 8} {n : Nat} : (s.select pipe n).sound := by
  induction n generalizing s with
  | zero => exact hs
  | succ n ih =>
    unfold State.select
    split
    · exact hs
    · exact .ite (ih (.queueReset hs)) (.ite (ih (.setJob hs)) (.setJob hs))

theorem Kept.jobSelection (hs : s.sound) {pipe : Fin 8} : Kept (execJobSelection pipe s) :=
  .live hs fun _ ht => .ite (.next ht) (.ite (.next (.preempt ht)) (.next (.select ht)))

theorem Kept.agePromotion (hs : s.sound) {slice : Fin 4096} {seq : BitVec 16} : Kept (execAgePromotion slice seq s) := by
  unfold execAgePromotion
  refine .live hs fun _ ht => ?_
  split
  · exact .next (.setJob (.reach ht))
  · exact .next ht

theorem State.sound.ceBlock (hs : s.sound) {k : Nat} {x : SliceState} {j : Job} {xlat : List (Nat × Nat)} :
    (s.ceBlock k x j xlat).2.sound := by
  unfold State.ceBlock
  dsimp only
  refine .ite₂ (.snd (.ceRead hs)) ?_
  split
  · exact .snd (.ceRead hs)
  · refine .ite₂ (.snd (.ceRead hs)) ?_
    split
    · exact .snd (.ceRead (.ceRead hs))
    · split <;> exact .snd (.ceRead (.ceRead hs))

theorem State.sound.rewind (hs : s.sound) {k : Nat} {x : SliceState} {j : Job} : (s.rewind k x j).sound :=
  .ite (.setJob hs) (.uncount (.setJob hs))

theorem State.sound.blockDone (hs : s.sound) {k : Nat} {x : SliceState} {j : Job} {inN outN : Nat} :
    (s.blockDone k x j inN outN).sound := by
  unfold State.blockDone
  refine .ite (.setJob (.uncount (.charge (.charge hs)))) ?_
  split
  · exact .uncount (.setJob (.uncount (.charge (.charge hs))))
  · exact .setJob (.uncount (.charge (.charge hs)))
  · exact .setJob (.uncount (.charge (.charge hs)))

theorem State.sound.ceFinish (hs : s.sound) {k : Nat} {x : SliceState} {j : Job} {inN : Nat} {out : Bytes} {xlat : List (Nat × Nat)} :
    (s.ceFinish k x j inN out xlat).sound := by
  unfold State.ceFinish
  dsimp only
  refine .ite (.setJob (.ite₂ (.takeBytes (.ite₂ (.takeNat hs) hs)) (.snd (.ite₂ (.takeNat hs) hs)))) ?_
  refine .ite (.setJob (.ite₂ (.takeBytes (.ite₂ (.takeNat hs) hs)) (.snd (.ite₂ (.takeNat hs) hs)))) ?_
  split
  · next e => exact .blockDone (.of_snd (.ceWrite (.ite₂ (.takeBytes (.ite₂ (.takeNat hs) hs)) (.snd (.ite₂ (.takeNat hs) hs)))) e)
  · next e => exact .setJob (.of_snd (.ceWrite (.ite₂ (.takeBytes (.ite₂ (.takeNat hs) hs)) (.snd (.ite₂ (.takeNat hs) hs)))) e)

theorem State.sound.blockEvent (hs : s.sound) {k : Nat} {x : SliceState} {j : Job} {ev : BlockEvent} {xlat : List (Nat × Nat)} :
    (s.blockEvent k x j ev xlat).sound := by
  unfold State.blockEvent
  dsimp only
  split
  · exact .rewind hs
  · exact .setJob hs
  · exact .setJob hs
  · exact .setJob (.iommuFault hs)
  · exact .setJob hs
  · split
    · exact .setJob (.ceBlock hs)
    · exact .ceFinish (.ceBlock hs)

theorem Kept.blockBoundary (hs : s.sound) {pipe : Fin 8} {ev : BlockEvent} {xlat : List (Nat × Nat)} :
    Kept (execBlockBoundary pipe ev xlat s) := by
  unfold execBlockBoundary
  refine .live hs fun _ ht => ?_
  split
  · exact .next ht
  · exact .next (.sliceSettle (.ite (.queueReset (.blockEvent ht)) (.blockEvent ht)))

theorem State.sound.recordLost (hs : s.sound) {k : Nat} {x : SliceState} {j : Job} {iova : Nat} {xlat : List (Nat × Nat)} :
    (s.recordLost k x j iova xlat).sound := by
  unfold State.recordLost
  dsimp only
  exact .logE (.ceWrite (.takeBytes hs))

theorem State.sound.writeRecord (hs : s.sound) {k : Nat} {x : SliceState} {j : Job} {st detail : Nat} {lost : Bool}
    {xlat : List (Nat × Nat)} : (s.writeRecord k x j st detail lost xlat).sound := by
  unfold State.writeRecord
  dsimp only
  split
  · refine .packageMsi ?_
    split
    · refine .charge (.setSlice (.ite (.recordLost hs) ?_))
      split
      · next e => exact .of_snd (.ceWrite hs) e
      · next e => exact .recordLost (.of_snd (.ceWrite hs) e)
    · refine .setSlice (.ite (.recordLost hs) ?_)
      split
      · next e => exact .of_snd (.ceWrite hs) e
      · next e => exact .recordLost (.of_snd (.ceWrite hs) e)
  · split
    · refine .charge (.setSlice (.ite (.recordLost hs) ?_))
      split
      · next e => exact .of_snd (.ceWrite hs) e
      · next e => exact .recordLost (.of_snd (.ceWrite hs) e)
    · refine .setSlice (.ite (.recordLost hs) ?_)
      split
      · next e => exact .of_snd (.ceWrite hs) e
      · next e => exact .recordLost (.of_snd (.ceWrite hs) e)

theorem Kept.completionRecord (hs : s.sound) {slice : Fin 4096} {seq : BitVec 16} {lost : Bool} {xlat : List (Nat × Nat)} :
    Kept (execCompletionRecord slice seq lost xlat s) := by
  unfold execCompletionRecord
  refine .live hs fun _ ht => ?_
  dsimp only
  split
  · split
    · exact .next (.sliceSettle (.writeRecord ht))
    · exact .next ht
  · exact .next ht

/-! ### The meters -/

theorem Kept.meterAccumulatorSend (hs : s.sound) {h : HartId} : Kept (execMeterAccumulatorSend h s) :=
  .live hs fun _ ht => .next (.meterSend ht)

theorem State.sound.sampleSet (hs : s.sound) {d : Fin 12} {bank set : Nat} : (s.sampleSet d bank set).sound :=
  .forEach hs fun _ _ ht => .charge ht

theorem Kept.l3OccSample (hs : s.sound) {d : Fin 12} {bank : Fin 16} : Kept (execL3OccSample d bank s) := by
  unfold execL3OccSample
  dsimp only
  exact .live hs fun _ ht => .ite (.next (.sampleSet (.setOcc (.ite₂ (.snd (.takeNat ht)) ht)))) (.next (.ite₂ (.snd (.takeNat ht)) ht))

theorem State.sound.shareEnergy (hs : s.sound) {left : Nat} {l : List (BitVec 12)} : (s.shareEnergy left l).sound := by
  induction l generalizing s left with
  | nil => exact .charge hs
  | cons h l ih => exact .ite (ih hs) (ih (.charge (.takeNat hs)))

theorem Kept.energyEstimate (hs : s.sound) : Kept (execEnergyEstimate s) := .liveMordant hs fun _ ht => .next (.shareEnergy ht)

theorem State.sound.takeSeq (hs : s.sound) : s.takeSeq.2.sound := by
  unfold State.takeSeq
  exact .snd (.upLedger hs)

theorem State.sound.appendRec (hs : s.sound) {r : LedgerRec} : (s.appendRec r).sound := by
  unfold State.appendRec
  dsimp only
  split
  · exact .upLedger hs
  · split
    · exact hs
    · exact .event (.upLedger (.upLedger hs))

theorem State.sound.closeMeter (hs : s.sound) {k : Nat} {e : Word} {pwrwarn last squash : Bool} :
    (s.closeMeter k e pwrwarn last squash).sound := by
  unfold State.closeMeter
  dsimp only
  exact .setMeter (.appendRec (.takeSeq hs))

theorem State.sound.setWord (hs : s.sound) {e : Word} {pwrwarn : Bool} : (s.setWord e pwrwarn).sound := .upLedger hs

theorem State.sound.minuteClose (hs : s.sound) : s.minuteClose.sound := .setWord (.forEach (.reach hs) fun _ _ ht => .closeMeter ht)

theorem Kept.minuteBoundary (hs : s.sound) : Kept (execMinuteBoundary s) := .liveMordant hs fun _ ht => .next (.ite ht (.minuteClose ht))

theorem State.sound.foldGroup (hs : s.sound) {kind : RecKind} {l : List (Nat × LedgerRec)} : (s.foldGroup kind l).sound := by
  unfold State.foldGroup
  split
  · exact hs
  · exact .upLedger (.appendRec hs)

theorem KeptSome.foldOldest (hs : s.sound) {src dst : RecKind} {ticks : Nat} : KeptSome (s.foldOldest src dst ticks) := by
  unfold State.foldOldest
  dsimp only
  split
  · exact .none
  · exact .some (.forEach hs fun _ _ ht => .foldGroup ht)

theorem State.sound.foldLoop (hs : s.sound) {src dst : RecKind} {ticks n : Nat} : (s.foldLoop src dst ticks n).sound := by
  induction n generalizing s with
  | zero => exact hs
  | succ n ih =>
    unfold State.foldLoop
    refine .ite hs ?_
    split
    · next e => exact ih (.of_some (.foldOldest hs) e)
    · exact hs

theorem State.sound.foldLedger (hs : s.sound) : s.foldLedger.sound :=
  .ite hs (.ite (.event (.ite (.foldLoop (.foldLoop hs)) (.foldLoop hs))) (.ite (.foldLoop (.foldLoop hs)) (.foldLoop hs)))

theorem Kept.ledgerCompaction (hs : s.sound) : Kept (execLedgerCompaction s) :=
  .liveMordant hs fun _ ht => .next (.ite ht (.foldLedger ht))

theorem State.sound.scanLedger (hs : s.sound) : s.scanLedger.sound := .upLedger (.forEach hs fun _ _ ht => .logE ht)

theorem State.sound.ledgerLoss (hs : s.sound) : s.ledgerLoss.sound := by
  unfold State.ledgerLoss
  dsimp only
  refine .setWord ?_
  split
  · exact .ite hs (.appendRec (.takeSeq hs))
  · exact hs

theorem State.sound.ledgerCold (hs : s.sound) : s.ledgerCold.sound :=
  .ite (.upLedger (.scanLedger hs)) (.ledgerLoss (.upLedger (.scanLedger hs)))

theorem Kept.pwrfailN (hs : s.sound) : Kept (execPwrfailN s) :=
  .liveMordant hs fun _ ht => .ite (.next ht) (.next (.upLedger (.upMode ht)))

theorem State.sound.warnClose (hs : s.sound) : s.warnClose.sound :=
  .upLedger (.setWord (.forEach (.reach hs) fun _ _ ht => .closeMeter ht))

theorem Kept.pwrwarnClose (hs : s.sound) : Kept (execPwrwarnClose s) :=
  .liveMordant hs fun _ ht => .ite (.next (.warnClose ht)) (.next ht)

theorem Kept.pwrfailNDeassert (hs : s.sound) : Kept (execPwrfailNDeassert s) :=
  .liveMordant hs fun _ ht => .next (.ite (.ledgerLoss (.upMode ht)) (.upMode ht))

theorem Kept.mtrStatus (hs : s.sound) {iss : Issuer} {c : CmdCell} : Kept (execMtrStatus iss c s) :=
  .liveMordant hs fun _ ht => .next (.command ht fun _ hu => hu)

theorem Kept.mtrRead (hs : s.sound) {iss : Issuer} {c : CmdCell} : Kept (execMtrRead iss c s) :=
  .liveMordant hs fun _ ht => .next (.command ht fun _ hu => .bufferWrite hu fun _ hv => .snd (.upLedger hv))

theorem Kept.mtrAck (hs : s.sound) {iss : Issuer} {c : CmdCell} : Kept (execMtrAck iss c s) :=
  .liveMordant hs fun _ ht => .next (.command ht fun _ hu => .snd (.upLedger hu))

/-! ### The hues -/

theorem Kept.hueQuery (hs : s.sound) {iss : Issuer} {c : CmdCell} : Kept (execHueQuery iss c s) :=
  .liveMordant hs fun _ ht => .next (.command ht fun _ hu => hu)

theorem Kept.hueAlloc (hs : s.sound) {iss : Issuer} {c : CmdCell} : Kept (execHueAlloc iss c s) :=
  .liveMordant hs fun _ ht => .next (.command ht fun _ hu => .snd (.upCensus (.setClass (.setHueSt hu))))

theorem Kept.hueStart (hs : s.sound) {iss : Issuer} {c : CmdCell} : Kept (execHueStart iss c s) :=
  .liveMordant hs fun _ ht => .next (.command ht fun _ hu => .snd (.setMeter (.setHueSt (.reach hu))))

theorem Kept.hueSetClass (hs : s.sound) {iss : Issuer} {c : CmdCell} : Kept (execHueSetClass iss c s) :=
  .liveMordant hs fun _ ht => .next (.command ht fun _ hu => .snd (.setHueSt hu))

theorem Kept.hueDmaBind (hs : s.sound) {iss : Issuer} {c : CmdCell} : Kept (execHueDmaBind iss c s) := by
  unfold execHueDmaBind
  dsimp only
  exact .liveMordant hs fun _ ht => .next (.command ht fun _ hu => .snd (.upHub hu))

theorem Kept.hueDmaUnbind (hs : s.sound) {iss : Issuer} {c : CmdCell} : Kept (execHueDmaUnbind iss c s) := by
  unfold execHueDmaUnbind
  dsimp only
  exact .liveMordant hs fun _ ht => .next (.command ht fun _ hu => .snd (.upHub hu))

theorem Kept.hueGfileAssign (hs : s.sound) {iss : Issuer} {c : CmdCell} : Kept (execHueGfileAssign iss c s) :=
  .liveMordant hs fun _ ht => .next (.command ht fun _ hu => .snd (.setFile hu))

theorem Kept.hueGfileRelease (hs : s.sound) {iss : Issuer} {c : CmdCell} : Kept (execHueGfileRelease iss c s) :=
  .liveMordant hs fun _ ht => .next (.command ht fun _ hu => .snd (.clearFile hu))

theorem State.sound.drainHue (hs : s.sound) {h : Nat} : (s.drainHue h).sound :=
  .forEach (.setHueSt (.ite (.setMeter hs) hs)) fun _ _ ht => .setSlice ht

theorem Kept.hueReset (hs : s.sound) {iss : Issuer} {c : CmdCell} : Kept (execHueReset iss c s) :=
  .liveMordant hs fun _ ht => .next (.command ht fun _ hu => .snd (.drainHue hu))

theorem State.sound.hueStep4 (hs : s.sound) {h : Nat} : (s.hueStep4 h).sound :=
  .forEach (.forEach (.upHub (.forEach (.setHueSt hs) fun _ _ ht => .clearFile ht)) fun _ _ ht => .setSlice (.freeCells ht)) fun _ _ ht =>
    .setDie ht

theorem State.sound.hueStep5 (hs : s.sound) {h : Nat} : (s.hueStep5 h).sound :=
  .setHueSt (.setMeter (.ite (.setWord (.closeMeter (.reach hs))) hs))

theorem Kept.hueDrainComplete (hs : s.sound) {hue : BitVec 12} : Kept (execHueDrainComplete hue s) :=
  .live hs fun _ ht => .ite (.next (.hueStep4 ht)) (.next ht)

theorem State.sound.squashHue (hs : s.sound) {hue : BitVec 12} : (s.squashHue hue).sound :=
  .forEach (.upHub (.forEach (.setHueSt hs) fun _ _ ht => .setSlice ht)) fun _ _ ht => .dmaGo ht

theorem Kept.drainTmoExpiry (hs : s.sound) {hue : BitVec 12} : Kept (execDrainTmoExpiry hue s) :=
  .live hs fun _ ht => .ite (.next (.ite (.squashHue (.reach ht)) (.hueStep4 (.reach ht)))) (.next ht)

theorem Kept.hueSquashComplete (hs : s.sound) {hue : BitVec 12} : Kept (execHueSquashComplete hue s) :=
  .live hs fun _ ht => .ite (.next (.hueStep4 ht)) (.next ht)

theorem Kept.hueResetDone (hs : s.sound) {hue : BitVec 12} : Kept (execHueResetDone hue s) :=
  .liveMordant hs fun _ ht => .ite (.ite (.next (.hueStep5 ht)) (.next (.event (.hueStep5 ht)))) (.next ht)

theorem State.sound.freeHues (hs : s.sound) {mine : Nat → Bool} : (s.freeHues mine).sound :=
  .forEach hs fun _ _ ht => .hueStep5 (.hueStep4 ht)

/-! ### The commands of coherence -/

theorem Kept.arrive (hs : s.sound) {op : Op} {m : Msg} {f : State → State} (hf : ∀ t, t.sound → (f t).sound) : Kept (arrive op m s f) :=
  .live hs fun _ ht => .ite (.next ht) (.ite (.next (.deliver ht)) (.ite (.next (.ite (.deliver ht) (.send (.deliver ht)))) (.next (hf _
    (.deliver ht)))))

theorem State.sound.toHome (hs : s.sound) {m : Msg} {f : State → Msg → State} (hf : ∀ t a, t.sound → (f t a).sound) :
    (s.toHome m f).sound :=
  .ite (hf _ _ hs) (.ite (.proxyTake hs) (.dropMsg hs))

theorem State.sound.toHolder (hs : s.sound) {m : Msg} : (s.toHolder m).sound :=
  .ite (.dieForward hs) (.ite (.ioForward hs) (.ite (.proxyTake hs) (.dropMsg hs)))

theorem State.sound.toSender (hs : s.sound) {m : Msg} {f : State → Msg → State} (hf : ∀ t a, t.sound → (f t a).sound) :
    (s.toSender m f).sound :=
  .ite (hf _ _ hs) (.ite (.proxyTake hs) (.dropMsg hs))

theorem State.sound.toRequester (hs : s.sound) {m : Msg} {die : State → Fin 12 → Msg → State}
    (hdie : ∀ t a b, t.sound → (die t a b).sound) : (s.toRequester m die).sound :=
  .ite (hdie _ _ _ hs) (.ite (.ioAnswer hs) (.ite (.proxyTake hs) (.dropMsg hs)))

theorem State.sound.noDie (hs : s.sound) {d : Fin 12} {m : Msg} : (s.noDie d m).sound := .dropMsg hs

theorem Kept.rds (hs : s.sound) {m : Msg} : Kept (execRds m s) := .arrive hs fun _ ht => .toHome ht fun _ _ hu => .homeAccept hu

theorem Kept.rdo (hs : s.sound) {m : Msg} : Kept (execRdo m s) := .arrive hs fun _ ht => .toHome ht fun _ _ hu => .homeAccept hu

theorem Kept.upg (hs : s.sound) {m : Msg} : Kept (execUpg m s) := .arrive hs fun _ ht => .toHome ht fun _ _ hu => .homeAccept hu

theorem Kept.claimz (hs : s.sound) {m : Msg} : Kept (execClaimz m s) := .arrive hs fun _ ht => .toHome ht fun _ _ hu => .homeAccept hu

theorem Kept.cmoclean (hs : s.sound) {m : Msg} : Kept (execCmoclean m s) := .arrive hs fun _ ht => .toHome ht fun _ _ hu => .homeAccept hu

theorem Kept.cmoflush (hs : s.sound) {m : Msg} : Kept (execCmoflush m s) := .arrive hs fun _ ht => .toHome ht fun _ _ hu => .homeAccept hu

theorem Kept.cmoinval (hs : s.sound) {m : Msg} : Kept (execCmoinval m s) := .arrive hs fun _ ht => .toHome ht fun _ _ hu => .homeAccept hu

theorem Kept.rdonce (hs : s.sound) {m : Msg} : Kept (execRdonce m s) := .arrive hs fun _ ht => .toHome ht fun _ _ hu => .homeAccept hu

theorem Kept.wrfull (hs : s.sound) {m : Msg} : Kept (execWrfull m s) := .arrive hs fun _ ht => .toHome ht fun _ _ hu => .homeAccept hu

theorem Kept.wrpart (hs : s.sound) {m : Msg} : Kept (execWrpart m s) := .arrive hs fun _ ht => .toHome ht fun _ _ hu => .homeAccept hu

theorem Kept.atomio (hs : s.sound) {m : Msg} : Kept (execAtomio m s) := .arrive hs fun _ ht => .toHome ht fun _ _ hu => .homeAccept hu

theorem Kept.rdns (hs : s.sound) {m : Msg} : Kept (execRdns m s) := .arrive hs fun _ ht => .toHome ht fun _ _ hu => .homeAccept hu

theorem Kept.wrns (hs : s.sound) {m : Msg} : Kept (execWrns m s) := .arrive hs fun _ ht => .toHome ht fun _ _ hu => .homeAccept hu

theorem Kept.wbdata (hs : s.sound) {m : Msg} : Kept (execWbdata m s) := .arrive hs fun _ ht => .toHome ht fun _ _ hu => .homeAccept hu

theorem Kept.requestBegin (hs : s.sound) {slice : Fin 32} {line : Nat} : Kept (execRequestBegin slice line s) :=
  .live hs fun _ ht => .next (.homeNext ht)

theorem Kept.directoryScrub (hs : s.sound) {slice : Fin 32} {r : ReadCheck} : Kept (execDirectoryScrub slice r s) :=
  .live hs fun _ ht => .ite (.next ht) (.ite (.next (.homeSettle (.recoverStart (.setHome ht)))) (.ite (.next (.logE (.setHome ht)))
    (.next (.readSet (.setHome ht)))))

theorem Kept.fwds (hs : s.sound) {m : Msg} : Kept (execFwds m s) := .arrive hs fun _ ht => .toHolder ht

theorem Kept.fwdo (hs : s.sound) {m : Msg} : Kept (execFwdo m s) := .arrive hs fun _ ht => .toHolder ht

theorem Kept.fwdsnap (hs : s.sound) {m : Msg} : Kept (execFwdsnap m s) := .arrive hs fun _ ht => .toHolder ht

theorem Kept.fwdclean (hs : s.sound) {m : Msg} : Kept (execFwdclean m s) := .arrive hs fun _ ht => .toHolder ht

theorem Kept.inv (hs : s.sound) {m : Msg} : Kept (execInv m s) := .arrive hs fun _ ht => .toHolder ht

theorem Kept.recall (hs : s.sound) {m : Msg} : Kept (execRecall m s) := .arrive hs fun _ ht => .toHolder ht

theorem Kept.recalldiscard (hs : s.sound) {m : Msg} : Kept (execRecalldiscard m s) := .arrive hs fun _ ht => .toHolder ht

theorem Kept.setrecall (hs : s.sound) {agent : Fin 17} {slice : Fin 32} {set : Fin 16384} : Kept (execSetrecall agent slice set s) :=
  .live hs fun _ ht => .ite (.next (.ite (.dieSetRecall ht) ht)) (.ite (.next (.cxlSettle ht)) (.ite (.next (.proxyRecallGo
    (.proxySetRecall ht))) (.next ht)))

theorem Kept.fwdack (hs : s.sound) {m : Msg} : Kept (execFwdack m s) := .arrive hs fun _ ht => .toSender ht fun _ _ hu => .homeAnswer hu

theorem Kept.fwdackdata (hs : s.sound) {m : Msg} : Kept (execFwdackdata m s) :=
  .arrive hs fun _ ht => .toSender ht fun _ _ hu => .homeAnswer hu

theorem Kept.invack (hs : s.sound) {m : Msg} : Kept (execInvack m s) := .arrive hs fun _ ht => .toSender ht fun _ _ hu => .homeAnswer hu

theorem Kept.recallack (hs : s.sound) {m : Msg} : Kept (execRecallack m s) :=
  .arrive hs fun _ ht => .toSender ht fun _ _ hu => .homeAnswer hu

theorem Kept.recallackdata (hs : s.sound) {m : Msg} : Kept (execRecallackdata m s) :=
  .arrive hs fun _ ht => .toSender ht fun _ _ hu => .homeAnswer hu

theorem State.sound.recallDone (hs : s.sound) {slice set agent : Nat} : (s.recallDone slice set agent).sound := .homeSettle (.setHome hs)

theorem Kept.setrecallack (hs : s.sound) {slice : Fin 32} {set : Fin 16384} {agent : Nat} : Kept (execSetrecallack slice set agent s) :=
  .live hs fun _ ht => .ite (.next (.recallDone ht)) (.next (.logE ht))

theorem Kept.compack (hs : s.sound) {m : Msg} : Kept (execCompack m s) :=
  .arrive hs fun _ ht => .toSender ht fun _ _ hu => .homeCompAck hu

theorem Kept.data (hs : s.sound) {m : Msg} : Kept (execData m s) := .arrive hs fun _ ht => .toRequester ht fun _ _ _ hu => .dieData hu

theorem Kept.dataonce (hs : s.sound) {m : Msg} : Kept (execDataonce m s) :=
  .arrive hs fun _ ht => .toRequester ht fun _ _ _ hu => .noDie hu

theorem Kept.grant (hs : s.sound) {m : Msg} : Kept (execGrant m s) := .arrive hs fun _ ht => .toRequester ht fun _ _ _ hu => .dieGrant hu

theorem Kept.wback (hs : s.sound) {m : Msg} : Kept (execWback m s) := .arrive hs fun _ ht => .toRequester ht fun _ _ _ hu => .dieWbAck hu

theorem Kept.cmodone (hs : s.sound) {m : Msg} : Kept (execCmodone m s) :=
  .arrive hs fun _ ht => .toRequester ht fun _ _ _ hu => .dieCmoDone hu

theorem Kept.wrdone (hs : s.sound) {m : Msg} : Kept (execWrdone m s) := .arrive hs fun _ ht => .toRequester ht fun _ _ _ hu => .noDie hu

theorem Kept.error (hs : s.sound) {m : Msg} {io : Option HartId} : Kept (execError m io s) := by
  unfold execError
  refine .live hs fun _ ht => ?_
  split
  · split
    · next e => exact .next (.ioArrive (.takeIoAnswer ht e))
    · exact .next (.ioArrive ht)
  · exact .arrive ht fun _ hu => .ite (.ite (.homeExpire hu) (.dropMsg hu)) (.toRequester hu fun _ _ _ hv => .dieError hv)

theorem Kept.fwdTmoExpiry (hs : s.sound) {slice : Fin 32} {line agent : Nat} : Kept (execFwdTmoExpiry slice line agent s) :=
  .live hs fun _ ht => .ite (.next ht) (.ite (.next (.fenceDie (.ite (.homeExpire (.logE ht)) (.recallDone (.logE ht))))) (.ite (.next
    (.snoopExpire (.ite (.homeExpire (.logE ht)) (.recallDone (.logE ht))))) (.ite (.next (.memberLost (.ite (.homeExpire (.logE ht))
    (.recallDone (.logE ht))))) (.next (.ite (.homeExpire (.logE ht)) (.recallDone (.logE ht)))))))

theorem Kept.reqTmoExpiry (hs : s.sound) {agent line : Nat} : Kept (execReqTmoExpiry agent line s) :=
  .live hs fun _ ht => .ite (.next (.dieExpire ht)) (.ite (.next (.ioExpire ht)) (.ite (.next (.proxyReqExpire ht)) (.next ht)))

theorem Kept.ioTmoExpiry (hs : s.sound) {h : HartId} : Kept (execIoTmoExpiry h s) :=
  .live hs fun _ ht => .ite (.next ht) (.next (.setHart (.ioFinish ht)))

/-! ### Crossings between rings -/

theorem State.sound.crossRun (hs : s.sound) {key : Nat} : (s.crossRun key).sound := by
  unfold State.crossRun
  dsimp only
  split
  · exact hs
  · exact .setCrossing hs

theorem State.sound.crossReset (hs : s.sound) {covers : Nat → Bool} : (s.crossReset covers).sound := .upFab hs

/-! ### The rings -/

theorem State.sound.hopLog (hs : s.sound) {cls : ErrClass} {why : ErrReason} {key : Nat} {p : Slot} : (s.hopLog cls why key p).sound :=
  .logE hs

theorem State.sound.hop (hs : s.sound) {r : RingId} {key : Nat} {p : Slot} : (s.hop r key p).2.sound := by
  unfold State.hop
  dsimp only
  split
  · exact .snd (.hopLog hs)
  · split
    · refine .snd ?_
      split
      · refine .snd ?_
        split
        · exact .uncount (.hopLog hs)
        · exact .hopLog hs
      · exact hs
    · refine .snd ?_
      split
      · refine .uncount (.hopLog ?_)
        split
        · refine .snd ?_
          split
          · exact .uncount (.hopLog hs)
          · exact .hopLog hs
        · exact hs
      · refine .hopLog ?_
        split
        · refine .snd ?_
          split
          · exact .uncount (.hopLog hs)
          · exact .hopLog hs
        · exact hs
    · refine .snd ?_
      refine .hopLog ?_
      split
      · refine .snd ?_
        split
        · exact .uncount (.hopLog hs)
        · exact .hopLog hs
      · exact hs

theorem State.sound.lose (hs : s.sound) {q : Packet} : (s.lose q).sound := by
  unfold State.lose
  split
  · exact .deliver hs
  · exact .upFab hs
  · exact .upFab hs
  · exact .upFab hs

theorem State.sound.ringPoison (hs : s.sound) {r : RingId} {p : Slot} : (s.ringPoison r p).sound := by
  unfold State.ringPoison
  refine .ite hs ?_
  split
  · dsimp only
    split
    · exact .upFab (.lose hs)
    · exact .lose hs
  · split
    · exact .upFab (.lose hs)
    · exact .lose hs
  · exact .upFab hs
  · exact .upFab hs
  · exact hs

theorem State.sound.join (hs : s.sound) {q : Packet} : (s.join q).sound := by
  unfold State.join
  split
  · exact .send hs
  · exact .upFab hs
  · exact .upFab hs
  · exact .upFab hs

theorem State.sound.ringEject (hs : s.sound) {r : RingId} {p : Slot} : (s.ringEject r p).sound := by
  unfold State.ringEject
  refine .ite (.ringPoison hs) ?_
  split
  · exact .ringPoison hs
  · exact .upFab (.join (.ringPoison hs))

theorem State.sound.ringPass (hs : s.sound) {r : RingId} {stop : Nat} {e : RingSlot} : (s.ringPass r stop e).sound := by
  unfold State.ringPass
  dsimp only
  split
  · exact .uncount (.upFab (.setStop hs))
  · exact .upFab (.setStop hs)

theorem State.sound.ringEmptied (hs : s.sound) {r : RingId} {p : Slot} : (s.ringEmptied r p).sound := by
  unfold State.ringEmptied
  split
  · exact hs
  · refine .upFab ?_
    split
    · exact .ite hs (.lose hs)
    · exact hs

theorem State.sound.ringArrive (hs : s.sound) {r : RingId} {stop : Nat} {p : Slot} : (s.ringArrive r stop p).sound := by
  unfold State.ringArrive
  extract_lets key busy
  have busied {u : State} (hu : u.sound) {h : Header} : (busy u h).sound := by
    dsimp only [busy]
    split
    · exact .uncount hu
    · exact hu
  split
  · next e => exact .ringEmptied (.of_snd (.hop hs) e)
  · next p t e =>
      have ht : t.sound := .of_snd (.hop hs) e
      extract_lets h old e v st q w vc keep y free list ahead z
      clear_value old
      have hv : v.sound := by
        dsimp only [v]
        split
        · exact .upFab ht
        · exact ht
      have hw : w.sound := .setStop hv
      have kept {u : State} (hu : u.sound) : (keep u).sound := .setStop hu
      have hz : z.sound := kept (.ringEject hw)
      refine .ite (.hopLog ht) (.ite (busied (.upFab ht)) (.ite (.ite (kept (.ringEject hw)) (.ringEject hw)) (.ite ?_ ?_)))
      · split
        · exact .ite (.uncount hz) hz
        · exact hz
      · exact .ringPass (busied hw)

theorem Kept.msiwr (hs : s.sound) {m : MsiMsg} : Kept (execMsiwr m s) := by
  unfold execMsiwr
  refine .live hs fun _ ht => ?_
  dsimp only
  split
  · refine .next (.upFab ?_)
    split
    · exact .fileWrite (.upFab ht)
    · exact .upFab ht
  · refine .next ?_
    split
    · exact .fileWrite (.upFab ht)
    · exact .upFab ht

theorem Kept.iorddata (hs : s.sound) {h : HartId} : Kept (execIorddata h s) := by
  unfold execIorddata
  refine .live hs fun _ ht => ?_
  split
  · next e => exact .next (.ioArrive (.takeIoAnswer ht e))
  · exact .next ht

theorem Kept.iowrack (hs : s.sound) {h : HartId} : Kept (execIowrack h s) := by
  unfold execIowrack
  refine .live hs fun _ ht => ?_
  split
  · next e => exact .next (.ioArrive (.takeIoAnswer ht e))
  · exact .next ht

theorem Kept.ringPacketArrival (hs : s.sound) {r : RingId} {stop : Nat} {p : Slot} : Kept (execRingPacketArrival r stop p s) :=
  .live hs fun _ ht => .next (.ringArrive ht)

theorem Kept.injectionWaitTag (hs : s.sound) {r : RingId} {stop : Nat} {clockwise : Bool} :
    Kept (execInjectionWaitTag r stop clockwise s) :=
  .live hs fun _ ht => .next (.setStop ht)

/-! ### The Weld -/

theorem State.sound.setBundle (hs : s.sound) {p k : Nat} {b : BundleState} : (s.setBundle p k b).sound := .setPort hs

theorem State.sound.weldLog (hs : s.sound) {cls : ErrClass} {why : ErrReason} {p k : Nat} : (s.weldLog cls why p k).sound :=
  .ite (.logE hs) (.logE hs)

theorem State.sound.sbTake (hs : s.sound) {d : Fin 12} {toHub : Bool} {typ : Byte} {f : SbFrame} {ok : Bool} {act : State → State}
    (hact : ∀ t, t.sound → (act t).sound) : (s.sbTake d toHub typ f ok act).sound :=
  .ite hs (.ite hs (.ite hs (.ite (.weldLog hs) (hact _ (.setPort hs)))))

theorem State.sound.ringOnto (hs : s.sound) {r : RingId} {stop : Nat} {p : Slot} : (s.ringOnto r stop p).sound := .upFab (.ringEject hs)

theorem State.sound.bufferOut (hs : s.sound) {p k : Nat} {hub : Bool} {out : List (BitVec 2 × Slot)} : (s.bufferOut p k hub out).sound :=
  .forEach (.setBundle hs) fun _ _ ht => .ringOnto ht

theorem State.sound.bufferDrain (hs : s.sound) {p k : Nat} {hub : Bool} : (s.bufferDrain p k hub).sound := by
  unfold State.bufferDrain
  dsimp only
  exact .ite hs (.bufferOut (.takeNat hs))

theorem State.sound.portCheck (hs : s.sound) {p k : Nat} : (s.portCheck p k).sound :=
  .ite (.ite hs (.fenceDie hs)) (.ite (.memberLost hs) hs)

theorem State.sound.leaveActive (hs : s.sound) {p k : Nat} : (s.leaveActive p k).sound :=
  .ite (.sbSend (.sbSend (.setBundle (.bufferOut (.bufferOut hs))))) (.setBundle (.bufferOut (.bufferOut hs)))

theorem State.sound.bundleRetire (hs : s.sound) {p k : Nat} : (s.bundleRetire p k).sound :=
  .portCheck (.pdrTouch (.weldLog (.setBundle (.ite (.leaveActive hs) hs))))

theorem State.sound.bundleDown (hs : s.sound) {p k : Nat} : (s.bundleDown p k).sound := .ite (.setBundle (.ite (.leaveActive hs) hs)) hs

theorem State.sound.portDown (hs : s.sound) {d : Fin 12} {lost : Bool} : (s.portDown d lost).sound :=
  .portCheck (.pdrTouch (.forEach (.setPort hs) fun _ _ ht => .bundleDown ht))

theorem State.sound.noAgreement (hs : s.sound) {p k limit : Nat} : (s.noAgreement p k limit).sound :=
  .ite (.bundleRetire (.setBundle hs)) (.setBundle hs)

theorem State.sound.identSend (hs : s.sound) {p : Nat} : (s.identSend p).sound := .sbSend (.sbSend hs)

theorem State.sound.identAgain (hs : s.sound) {p : Nat} : (s.identAgain p).sound := .ite (.identSend (.setPort hs)) hs

theorem State.sound.bundleRetrain (hs : s.sound) {p k : Nat} {c : RetrainCause} {limit : Nat} : (s.bundleRetrain p k c limit).sound :=
  .ite hs (.ite (.bundleRetire (.setBundle hs)) (.ite (.noAgreement (.pdrTouch (.identAgain (.setBundle (.leaveActive hs))))) (.pdrTouch
    (.identAgain (.setBundle (.leaveActive hs))))))

theorem State.sound.linkViolation (hs : s.sound) {p k : Nat} {why : ErrReason} : (s.linkViolation p k why).sound :=
  .bundleRetrain (.weldLog hs)

theorem State.sound.replayed (hs : s.sound) {p k : Nat} {hub : Bool} : (s.replayed p k hub).sound :=
  .ite (.uncount (.setBundle hs)) (.setBundle hs)

theorem State.sound.replayLimit (hs : s.sound) {p k : Nat} {hub : Bool} : (s.replayLimit p k hub).sound := .ite (.bundleRetrain hs) hs

theorem State.sound.flitTotals (hs : s.sound) {p k : Nat} {hub : Bool} {f : Flit} : (s.flitTotals p k hub f).sound :=
  .ite (.linkViolation (.setBundle hs)) (.setBundle hs)

theorem State.sound.dropPacket (hs : s.sound) {p k : Nat} {hub : Bool} {pkt : Slot} : (s.dropPacket p k hub pkt).sound :=
  .ite (.ite (.fenceDie (.setDrop (.hopLog hs))) (.setDrop (.hopLog hs))) (.hopLog hs)

theorem State.sound.packetIn (hs : s.sound) {p k : Nat} {hub : Bool} {pkt : Slot} {counted : Bool} :
    (s.packetIn p k hub pkt counted).sound :=
  .ite (.setBundle (.forEach (.ite hs (.setBundle hs)) fun _ _ ht => .ite (.setBundle ht) ht)) (.ite (.dropPacket (.setBundle (.forEach
    (.ite hs (.setBundle hs)) fun _ _ ht => .ite (.setBundle ht) ht))) (.ite (.linkViolation (.forEach (.ite hs (.setBundle hs)) fun _ _
    ht => .ite (.setBundle ht) ht)) (.setBundle (.forEach (.ite hs (.setBundle hs)) fun _ _ ht => .ite (.setBundle ht) ht))))

theorem State.sound.dataFlit (hs : s.sound) {e : LinkEnd} {f : Flit} : (s.dataFlit e f).sound := by
  unfold State.dataFlit
  dsimp only
  refine .ite (.ite (.replayLimit (.ite (.replayed (.setBundle (.ite₂ (.snd (.ite (.uncount (.bufferDrain hs)) (.uncount (.bufferDrain
      hs)))) (.snd (.takeBytes (.ite (.uncount (.bufferDrain hs)) (.uncount (.bufferDrain hs)))))))) (.setBundle (.ite₂ (.snd (.ite
      (.uncount (.bufferDrain hs)) (.uncount (.bufferDrain hs)))) (.snd (.takeBytes (.ite (.uncount (.bufferDrain hs)) (.uncount
      (.bufferDrain hs))))))))) (.ite (.replayed (.setBundle (.ite₂ (.snd (.ite (.uncount (.bufferDrain hs)) (.uncount (.bufferDrain
      hs)))) (.snd (.takeBytes (.ite (.uncount (.bufferDrain hs)) (.uncount (.bufferDrain hs)))))))) (.setBundle (.ite₂ (.snd (.ite
      (.uncount (.bufferDrain hs)) (.uncount (.bufferDrain hs)))) (.snd (.takeBytes (.ite (.uncount (.bufferDrain hs)) (.uncount
      (.bufferDrain hs))))))))) ?_
  refine .ite (.weldLog (.ite (.ite (.replayLimit (.ite (.replayed (.setBundle (.ite₂ (.snd (.ite (.uncount (.bufferDrain hs)) (.uncount
      (.bufferDrain hs)))) (.snd (.takeBytes (.ite (.uncount (.bufferDrain hs)) (.uncount (.bufferDrain hs)))))))) (.setBundle (.ite₂
      (.snd (.ite (.uncount (.bufferDrain hs)) (.uncount (.bufferDrain hs)))) (.snd (.takeBytes (.ite (.uncount (.bufferDrain hs))
      (.uncount (.bufferDrain hs))))))))) (.ite (.replayed (.setBundle (.ite₂ (.snd (.ite (.uncount (.bufferDrain hs)) (.uncount
      (.bufferDrain hs)))) (.snd (.takeBytes (.ite (.uncount (.bufferDrain hs)) (.uncount (.bufferDrain hs)))))))) (.setBundle (.ite₂
      (.snd (.ite (.uncount (.bufferDrain hs)) (.uncount (.bufferDrain hs)))) (.snd (.takeBytes (.ite (.uncount (.bufferDrain hs))
      (.uncount (.bufferDrain hs))))))))) (.setBundle (.ite (.replayLimit (.ite (.replayed (.setBundle (.ite₂ (.snd (.ite (.uncount
      (.bufferDrain hs)) (.uncount (.bufferDrain hs)))) (.snd (.takeBytes (.ite (.uncount (.bufferDrain hs)) (.uncount (.bufferDrain
      hs)))))))) (.setBundle (.ite₂ (.snd (.ite (.uncount (.bufferDrain hs)) (.uncount (.bufferDrain hs)))) (.snd (.takeBytes (.ite
      (.uncount (.bufferDrain hs)) (.uncount (.bufferDrain hs))))))))) (.ite (.replayed (.setBundle (.ite₂ (.snd (.ite (.uncount
      (.bufferDrain hs)) (.uncount (.bufferDrain hs)))) (.snd (.takeBytes (.ite (.uncount (.bufferDrain hs)) (.uncount (.bufferDrain
      hs)))))))) (.setBundle (.ite₂ (.snd (.ite (.uncount (.bufferDrain hs)) (.uncount (.bufferDrain hs)))) (.snd (.takeBytes (.ite
      (.uncount (.bufferDrain hs)) (.uncount (.bufferDrain hs)))))))))))) ?_
  split
  · exact .linkViolation (.ite (.replayLimit (.ite (.replayed (.setBundle (.ite₂ (.snd (.ite (.uncount (.bufferDrain hs)) (.uncount
      (.bufferDrain hs)))) (.snd (.takeBytes (.ite (.uncount (.bufferDrain hs)) (.uncount (.bufferDrain hs)))))))) (.setBundle (.ite₂
      (.snd (.ite (.uncount (.bufferDrain hs)) (.uncount (.bufferDrain hs)))) (.snd (.takeBytes (.ite (.uncount (.bufferDrain hs))
      (.uncount (.bufferDrain hs))))))))) (.ite (.replayed (.setBundle (.ite₂ (.snd (.ite (.uncount (.bufferDrain hs)) (.uncount
      (.bufferDrain hs)))) (.snd (.takeBytes (.ite (.uncount (.bufferDrain hs)) (.uncount (.bufferDrain hs)))))))) (.setBundle (.ite₂
      (.snd (.ite (.uncount (.bufferDrain hs)) (.uncount (.bufferDrain hs)))) (.snd (.takeBytes (.ite (.uncount (.bufferDrain hs))
      (.uncount (.bufferDrain hs)))))))))
  · exact .bufferDrain (.forEach (.flitTotals (.setBundle (.ite (.replayLimit (.ite (.replayed (.setBundle (.ite₂ (.snd (.ite (.uncount
      (.bufferDrain hs)) (.uncount (.bufferDrain hs)))) (.snd (.takeBytes (.ite (.uncount (.bufferDrain hs)) (.uncount (.bufferDrain
      hs)))))))) (.setBundle (.ite₂ (.snd (.ite (.uncount (.bufferDrain hs)) (.uncount (.bufferDrain hs)))) (.snd (.takeBytes (.ite
      (.uncount (.bufferDrain hs)) (.uncount (.bufferDrain hs))))))))) (.ite (.replayed (.setBundle (.ite₂ (.snd (.ite (.uncount
      (.bufferDrain hs)) (.uncount (.bufferDrain hs)))) (.snd (.takeBytes (.ite (.uncount (.bufferDrain hs)) (.uncount (.bufferDrain
      hs)))))))) (.setBundle (.ite₂ (.snd (.ite (.uncount (.bufferDrain hs)) (.uncount (.bufferDrain hs)))) (.snd (.takeBytes (.ite
      (.uncount (.bufferDrain hs)) (.uncount (.bufferDrain hs))))))))))) fun _ _ ht => .ite (.packetIn ht) ht)

theorem State.sound.plainFlit (hs : s.sound) {e : LinkEnd} {typ : Nat} {f : Flit} {act : State → State}
    (hact : ∀ t, t.sound → (act t).sound) : (s.plainFlit e typ f act).sound :=
  .ite (.weldLog (.ite hs (.setBundle hs))) (.ite (hact _ (.flitTotals (.ite hs (.setBundle hs)))) (.flitTotals (.ite hs (.setBundle
    hs))))

theorem State.sound.spareErrs (hs : s.sound) {p k : Nat} {hub : Bool} : (s.spareErrs p k hub).sound := by
  unfold State.spareErrs
  dsimp only
  exact .forEach hs fun _ _ ht => .ite (.takeNat ht) (.setBundle (.takeNat ht))

theorem State.sound.maintTake (hs : s.sound) {e : LinkEnd} {f : Flit} : (s.maintTake e f).sound := by
  unfold State.maintTake
  dsimp only
  exact .ite (.plainFlit (.spareErrs (.setBundle hs)) fun _ ht => .ite (.linkViolation (.setBundle ht)) (.ite (.bundleRetrain (.weldLog
      (.setBundle ht))) (.setBundle ht))) (.bundleRetrain (.plainFlit (.spareErrs (.setBundle hs)) fun _ ht => .ite (.linkViolation
      (.setBundle ht)) (.ite (.bundleRetrain (.weldLog (.setBundle ht))) (.setBundle ht))))

theorem State.sound.nakTake (hs : s.sound) {e : LinkEnd} {f : Flit} : (s.nakTake e f).sound :=
  .plainFlit (.setBundle hs) fun _ ht => .ite (.linkViolation ht) (.setBundle ht)

theorem State.sound.settleWidth (hs : s.sound) {p k : Nat} : (s.settleWidth p k).sound := .setBundle hs

theorem State.sound.trainChoose (hs : s.sound) {p k dieAnnounce : Nat} : (s.trainChoose p k dieAnnounce).sound := by
  unfold State.trainChoose
  dsimp only
  exact .ite (.bundleRetire (.settleWidth (.setBundle hs))) (.ite (.sbSend (.sbSend (.settleWidth (.setBundle hs)))) (.settleWidth
      (.setBundle hs)))

theorem State.sound.trainActive (hs : s.sound) {p k : Nat} : (s.trainActive p k).sound := by
  unfold State.trainActive
  dsimp only
  exact .ite (.weldLog (.pdrTouch (.setBundle (.takeWord (.takeWord hs))))) (.pdrTouch (.setBundle (.takeWord (.takeWord hs))))

theorem State.sound.trainStep (hs : s.sound) {e : LinkEnd} {step : Nat} {i : TrainInfo} : (s.trainStep e step i).sound :=
  .ite (.ite (.setPort hs) hs) (.ite (.ite (.forEach (.setPort hs) fun _ _ ht => .ite (.setBundle ht) ht) hs) (.ite hs (.ite (.setBundle
    hs) (.ite (.setBundle hs) (.ite (.setBundle hs) (.ite (.trainChoose hs) (.ite (.ite (.setBundle hs) (.noAgreement hs)) (.ite
    (.trainActive hs) hs))))))))

theorem State.sound.trainTimeout (hs : s.sound) {e : LinkEnd} {step : Nat} {failed : BitVec 9} :
    (s.trainTimeout e step failed).sound := by
  unfold State.trainTimeout
  refine .ite ?_ (.ite hs (.ite (.setBundle hs) (.ite (.bundleRetire hs) (.ite (.noAgreement hs) hs))))
  split
  · exact .ite (.portDown (.weldLog hs)) hs
  · exact hs

theorem State.sound.coldTrain (hs : s.sound) {d : Fin 12} : (s.coldTrain d).sound :=
  .identSend (.forEach (.setPort (.forEach hs fun _ _ ht => .bundleDown ht)) fun _ _ ht => .ite (.setBundle ht) (.setBundle ht))

theorem Kept.ident (hs : s.sound) {d : Fin 12} {toHub : Bool} {f : SbFrame} : Kept (execIdent d toHub f s) :=
  .live hs fun _ ht => .next (.sbTake ht fun _ hu => .ite (.setPort hu) (.ite (.portDown (.weldLog hu)) (.ite (.setPort hu) (.setPort
    hu))))

theorem Kept.lanes (hs : s.sound) {d : Fin 12} {toHub : Bool} {f : SbFrame} : Kept (execLanes d toHub f s) :=
  .live hs fun _ ht => .next (.sbTake ht fun _ hu => .forEach hu fun _ _ hv => .ite hv (.ite hv (.ite (.weldLog hv) (.ite (.bundleRetire
    (.setBundle hv)) (.setBundle hv)))))

theorem Kept.handover (hs : s.sound) {d : Fin 12} {toHub : Bool} {f : SbFrame} : Kept (execHandover d toHub f s) :=
  .live hs fun _ ht => .next (.sbTake ht fun _ hu => .ite hu (.ite (.forEach (.setBundle hu) fun _ _ hv => .uncount hv) (.setBundle hu)))

theorem Kept.retrain (hs : s.sound) {d : Fin 12} {toHub : Bool} {f : SbFrame} : Kept (execRetrain d toHub f s) :=
  .live hs fun _ ht => .next (.sbTake ht fun _ hu => .ite (.bundleRetrain hu) (.weldLog hu))

theorem Kept.ack (hs : s.sound) {d : Fin 12} {toHub : Bool} {f : SbFrame} : Kept (execAck d toHub f s) :=
  .live hs fun _ ht => .ite (.next ht) (.ite (.next (.setPort ht)) (.next (.setPort ht)))

theorem Kept.sidebandResend (hs : s.sound) {d : Fin 12} {fromHub : Bool} : Kept (execSidebandResend d fromHub s) := by
  unfold execSidebandResend
  refine .live hs fun _ ht => ?_
  dsimp only
  split
  · exact .next ht
  · exact .ite (.next ht) (.ite (.next (.setPort ht)) (.next (.portDown (.weldLog ht))))

theorem Kept.dataFlit (hs : s.sound) {e : LinkEnd} {f : Flit} : Kept (execDataFlit e f s) :=
  .live hs fun _ ht => .next (.ite (.dataFlit ht) ht)

theorem Kept.controlFlit (hs : s.sound) {e : LinkEnd} {f : Flit} : Kept (execControlFlit e f s) :=
  .live hs fun _ ht => .next (.ite (.plainFlit (.bufferDrain ht) fun _ hu => hu) ht)

theorem Kept.maintFlit (hs : s.sound) {e : LinkEnd} {f : Flit} : Kept (execMaintFlit e f s) :=
  .live hs fun _ ht => .next (.ite (.maintTake ht) ht)

theorem Kept.nak (hs : s.sound) {e : LinkEnd} {f : Flit} : Kept (execNak e f s) := .live hs fun _ ht => .next (.ite (.nakTake ht) ht)

theorem Kept.maintSlot (hs : s.sound) {e : LinkEnd} : Kept (execMaintSlot e s) :=
  .live hs fun _ ht => .ite (.next (.setBundle ht)) (.next ht)

theorem Kept.crcThreshWindow (hs : s.sound) {e : LinkEnd} : Kept (execCrcThreshWindow e s) := .live hs fun _ ht => .next (.setBundle ht)

theorem Kept.fieldRetrain (hs : s.sound) {e : LinkEnd} {c : RetrainCause} : Kept (execFieldRetrain e c s) :=
  .live hs fun _ ht => .next (.bundleRetrain ht)

theorem Kept.coldTraining (hs : s.sound) {d : Fin 12} : Kept (execColdTraining d s) :=
  .live hs fun _ ht => .next (.ite ht (.coldTrain ht))

theorem Kept.trainingStepComplete (hs : s.sound) {e : LinkEnd} {step : Fin 9} {i : TrainInfo} :
    Kept (execTrainingStepComplete e step i s) :=
  .live hs fun _ ht => .next (.trainStep ht)

theorem Kept.trainingStepTimeout (hs : s.sound) {e : LinkEnd} {step : Fin 9} {failed : BitVec 9} :
    Kept (execTrainingStepTimeout e step failed s) :=
  .live hs fun _ ht => .next (.trainTimeout ht)

/-! ### The PDR -/

theorem State.sound.lockPdr (hs : s.sound) : s.lockPdr.sound := .upPdr hs

theorem Kept.pdrRead (hs : s.sound) {iss : Issuer} {c : CmdCell} : Kept (execPdrRead iss c s) :=
  .liveMordant hs fun _ ht => .next (.command ht fun _ hu => hu)

/-! ### The sidebands -/

theorem Kept.cfgPrepare (hs : s.sound) {who : CommitWho} {toHub : Bool} {f : CommitFrame} : Kept (execCfgPrepare who toHub f s) := by
  unfold execCfgPrepare
  refine .live hs fun _ ht => ?_
  split
  · exact .next (.sbTake ht fun _ hu => .dieHold hu)
  · exact .next (.ite (.memberPrepare ht) ht)
  · exact .next ht

theorem Kept.cfgAck (hs : s.sound) {who : CommitWho} {toHub : Bool} {f : CommitFrame} : Kept (execCfgAck who toHub f s) := by
  unfold execCfgAck
  refine .live hs fun _ ht => ?_
  split
  · exact .next (.sbTake ht fun _ hu => .commitAck hu)
  · exact .next (.ite (.memberAck ht) ht)
  · exact .next ht

theorem Kept.cfgFlip (hs : s.sound) {who : CommitWho} {toHub : Bool} {f : CommitFrame} : Kept (execCfgFlip who toHub f s) := by
  unfold execCfgFlip
  refine .live hs fun _ ht => ?_
  split
  · exact .next (.sbTake ht fun _ hu => .dieFlip hu)
  · exact .next (.ite (.memberFlip ht) ht)
  · exact .next ht

theorem Kept.cfgDiscardFrame (hs : s.sound) {who : CommitWho} {toHub : Bool} {f : CommitFrame} :
    Kept (execCfgDiscardFrame who toHub f s) := by
  unfold execCfgDiscardFrame
  refine .live hs fun _ ht => ?_
  split
  · exact .next (.sbTake ht fun _ hu => .dieDiscard hu)
  · exact .next (.ite (.memberDiscard ht) ht)
  · exact .next ht

theorem Kept.cfgLoad (hs : s.sound) {d : Fin 12} {toHub : Bool} {f : SbFrame} : Kept (execCfgLoad d toHub f s) :=
  .live hs fun _ ht => .next (.sbTake ht fun _ hu => .dieLoad hu)

theorem Kept.lotBoundary (hs : s.sound) : Kept (execLotBoundary s) := by
  unfold execLotBoundary
  refine .live hs fun _ ht => .next ?_
  split
  · exact ht
  · exact .ite (.censusStart (.lotBoundary ht)) ht

theorem Kept.cfgAckTimeout (hs : s.sound) {who : CommitWho} : Kept (execCfgAckTimeout who s) := by
  unfold execCfgAckTimeout
  refine .live hs fun _ ht => .next ?_
  split
  · exact ht
  · exact .ite (.commitFail (.logE ht)) ht
  · exact .ite (.commitFail (.logE ht)) ht

theorem Kept.shadowCopyTimeout (hs : s.sound) {d : Fin 12} : Kept (execShadowCopyTimeout d s) := by
  unfold execShadowCopyTimeout
  refine .live hs fun _ ht => ?_
  dsimp only
  split
  · exact .next (.ite (.setDieCfg (.reach ht)) ht)
  · exact .next ht

theorem Kept.censusReq (hs : s.sound) {d : Fin 13} {f : SbFrame} : Kept (execCensusReq d f s) := by
  unfold execCensusReq
  refine .live hs fun _ ht => ?_
  split
  · exact .next (.sbTake ht fun _ hu => .sbSend (.setDieCfg hu))
  · exact .next (.censusReport ht)

theorem Kept.censusRpt (hs : s.sound) {d : Fin 13} {f : SbFrame} : Kept (execCensusRpt d f s) := by
  unfold execCensusRpt
  refine .live hs fun _ ht => ?_
  dsimp only
  split
  · exact .next (.sbTake ht fun _ hu => .ite hu (.censusReport (.bisectReport hu)))
  · exact .next (.ite (.ite ht (.censusReport (.bisectReport ht))) ht)

theorem Kept.censusPart (hs : s.sound) {d : Fin 13} {f : SbFrame} : Kept (execCensusPart d f s) := by
  unfold execCensusPart
  refine .live hs fun _ ht => ?_
  dsimp only
  split
  · exact .ite (.next (.sbTake ht fun _ hu => .ite (.sbSend hu) hu)) (.next (.sbTake ht fun _ hu => .bisectPart hu))
  · exact .next (.ite (.bisectPart ht) ht)

theorem Kept.censusEntry (hs : s.sound) {d : Fin 13} {f : SbFrame} : Kept (execCensusEntry d f s) := by
  unfold execCensusEntry
  refine .live hs fun _ ht => ?_
  dsimp only
  split
  · split
    · refine .next (.sbTake ht fun _ hu => ?_)
      split
      · exact .sbSend hu
      · exact hu
    · refine .next (.sbTake ht fun _ hu => ?_)
      split
      · exact .ite (.bisectEntry hu) hu
      · exact hu
  · refine .next (.ite ?_ ht)
    split
    · exact .ite (.bisectEntry ht) ht
    · exact ht

theorem Kept.censusRound (hs : s.sound) : Kept (execCensusRound s) :=
  .live hs fun _ ht => .ite (.next (.censusStart (.reach ht))) (.next ht)

theorem Kept.memberCensusReport (hs : s.sound) {p : Fin 4} {lot : BitVec 32} {shade expected : Word} {mismatch : BitVec 13} :
    Kept (execMemberCensusReport p lot shade expected mismatch s) :=
  .live hs fun _ ht => .ite (.next ht) (.ite (.next (.upCensus (.upCasc ht))) (.next (.event (.upCensus (.upCasc ht)))))

/-! ### The control of a hart -/

theorem State.sound.ctlTake (hs : s.sound) {d : Nat} {op : Byte} {harts : Nat} {act : State → HartId → State}
    (hact : ∀ t a, t.sound → (act t a).sound) : (s.ctlTake d op harts act).sound :=
  .ctlReport (.forEach (.setDie hs) fun _ _ ht => hact _ _ ht)

theorem State.sound.ctlDrain (hs : s.sound) {op : Byte} {h : HartId} : (State.ctlDrain op s h).sound := by
  unfold State.ctlDrain
  dsimp only
  exact .ctlHart (.setHart (.stopAt (.meterSend hs)))

theorem State.sound.releaseParked (hs : s.sound) {h : HartId} : (s.releaseParked h).sound := .ite (.setHart hs) hs

theorem State.sound.releaseRunning (hs : s.sound) {h : HartId} : (s.releaseRunning h).sound := .ite (.startHart hs) hs

theorem State.sound.resumeHart (hs : s.sound) {h : HartId} : (s.resumeHart h).sound := .ite (.setHart hs) hs

theorem Kept.pmSet (hs : s.sound) {d : Fin 12} {toHub : Bool} {f : SbFrame} : Kept (execPmSet d toHub f s) :=
  .live hs fun _ ht => .next (.sbTake ht fun _ hu => .forEach hu fun _ _ hv => .setCore hv)

theorem Kept.pmRptTimer (hs : s.sound) {d : Fin 12} : Kept (execPmRptTimer d s) := .live hs fun _ ht => .next (.sbSend ht)

theorem Kept.pmRpt (hs : s.sound) {d : Fin 12} {toHub : Bool} {f : SbFrame} : Kept (execPmRpt d toHub f s) :=
  .live hs fun _ ht => .next (.sbTake ht fun _ hu => .upPower hu)

theorem Kept.hartCtlHold (hs : s.sound) {d : Fin 12} {toHub : Bool} {f : SbFrame} : Kept (execHartCtlHold d toHub f s) :=
  .live hs fun _ ht => .next (.sbTake ht fun _ hu => .ctlTake hu fun _ _ hv => .ctlDrain hv)

theorem Kept.hartCtlReleaseParked (hs : s.sound) {d : Fin 12} {toHub : Bool} {f : SbFrame} :
    Kept (execHartCtlReleaseParked d toHub f s) :=
  .live hs fun _ ht => .next (.sbTake ht fun _ hu => .ctlTake hu fun _ _ hv => .releaseParked hv)

theorem Kept.hartCtlReleaseRunning (hs : s.sound) {d : Fin 12} {toHub : Bool} {f : SbFrame} :
    Kept (execHartCtlReleaseRunning d toHub f s) :=
  .live hs fun _ ht => .next (.sbTake ht fun _ hu => .ctlTake hu fun _ _ hv => .releaseRunning hv)

theorem Kept.hartCtlStop (hs : s.sound) {d : Fin 12} {toHub : Bool} {f : SbFrame} : Kept (execHartCtlStop d toHub f s) :=
  .live hs fun _ ht => .next (.sbTake ht fun _ hu => .ctlTake hu fun _ _ hv => .ctlDrain hv)

theorem Kept.hartCtlResume (hs : s.sound) {d : Fin 12} {toHub : Bool} {f : SbFrame} : Kept (execHartCtlResume d toHub f s) :=
  .live hs fun _ ht => .next (.sbTake ht fun _ hu => .ctlTake hu fun _ _ hv => .resumeHart hv)

theorem Kept.hartRpt (hs : s.sound) {d : Fin 12} {toHub : Bool} {f : SbFrame} : Kept (execHartRpt d toHub f s) :=
  .live hs fun _ ht => .next (.sbTake ht fun _ hu => .upService hu)

/-! ### The commands of the mailboxes -/

theorem Kept.mbxTail (hs : s.sound) {m : Nat} {t : BitVec 16} : Kept (s.mbxTail m t) := .ite .fault (.ite .fault (.next (.setMbx hs)))

theorem Kept.mbxCmdTail (hs : s.sound) {m : Fin 16} {v : Word} : Kept (execMbxCmdTail m v s) := .live hs fun _ ht => .mbxTail ht

theorem State.sound.slotBytes (hs : s.sound) {m i : Nat} : (s.slotBytes m i).2.sound := by
  unfold State.slotBytes
  dsimp only
  split
  · exact hs
  · exact .snd (.setMbx (.takeBytes hs))

theorem Kept.commandAccept (hs : s.sound) {m : Fin 16} : Kept (execCommandAccept m s) := by
  unfold execCommandAccept
  dsimp only
  exact .liveMordant hs fun _ ht => .ite (.next ht) (.next (.unknowns (.setMbx (.accept (.slotBytes ht)))))

theorem State.sound.mbxHead (hs : s.sound) {m : Nat} {h : BitVec 16} : (s.mbxHead m h).sound := .ite (.setMbx hs) (.setMbx hs)

theorem Kept.mbxRspHead (hs : s.sound) {m : Fin 16} {v : Word} : Kept (execMbxRspHead m v s) := .live hs fun _ ht => .next (.mbxHead ht)

theorem Kept.eventDelivery (hs : s.sound) {iss : Issuer} : Kept (execEventDelivery iss s) := by
  unfold execEventDelivery
  refine .liveMordant hs fun _ ht => ?_
  dsimp only
  split
  · exact .next ht
  · exact .ite (.next (.setMbx ht)) (.next ht)

theorem State.sound.bmcTake (hs : s.sound) {tag : BitVec 3} {b : Bytes} : (s.bmcTake tag b).sound := by
  unfold State.bmcTake
  dsimp only
  exact .ite (.logE hs) (.ite (.unknowns (.accept hs)) (.setMbx hs))

theorem Kept.bmcMessage (hs : s.sound) {tag : BitVec 3} {bytes : Bytes} : Kept (execBmcMessage tag bytes s) :=
  .liveMordant hs fun _ ht => .ite (.next (.bmcTake ht)) (.next (.upMordant ht))

theorem State.sound.bmcRelease (hs : s.sound) : s.bmcRelease.sound := .forEach (.upMordant hs) fun _ _ ht => .bmcTake ht

theorem State.sound.mctpReply (hs : s.sound) {code cc : Byte} {data : Bytes} : (s.mctpReply code cc data).sound := .upMordant hs

theorem Kept.setEndpointId (hs : s.sound) {eid : Byte} : Kept (execSetEndpointId eid s) :=
  .liveMordant hs fun _ ht => .ite (.next (.mctpReply ht)) (.next (.mctpReply (.upMordant ht)))

theorem Kept.getEndpointId (hs : s.sound) : Kept (execGetEndpointId s) := .liveMordant hs fun _ ht => .next (.mctpReply ht)

theorem Kept.getMctpVersionSupport (hs : s.sound) {msgType : Byte} : Kept (execGetMctpVersionSupport msgType s) := by
  unfold execGetMctpVersionSupport
  dsimp only
  exact .liveMordant hs fun _ ht => .ite (.next (.mctpReply ht)) (.ite (.next (.mctpReply (.takeBytes ht))) (.next (.mctpReply ht)))

theorem Kept.getMessageTypeSupport (hs : s.sound) : Kept (execGetMessageTypeSupport s) :=
  .liveMordant hs fun _ ht => .next (.mctpReply ht)

theorem Kept.setdasa (hs : s.sound) {static addr : BitVec 7} : Kept (execSetdasa static addr s) :=
  .liveMordant hs fun _ ht => .ite (.next (.upMordant ht)) (.next ht)

theorem Kept.entdaa (hs : s.sound) {addr : BitVec 7} : Kept (execEntdaa addr s) :=
  .liveMordant hs fun _ ht => .ite (.next (.upMordant ht)) (.next ht)

theorem State.sound.dropStaging (hs : s.sound) : s.dropStaging.sound := .upHub (.upConfig hs)

theorem Kept.lockstepMismatch (hs : s.sound) : Kept (execLockstepMismatch s) :=
  .liveMordant hs fun _ ht => .next (.logE (.upMordant (.dropStaging ht)))

theorem State.sound.answerAll (hs : s.sound) {i st : Nat} : (s.answerAll i st).sound := .forEach hs fun _ _ ht => .answer ht

theorem Kept.mordantRestartComplete (hs : s.sound) : Kept (execMordantRestartComplete s) :=
  .liveMordant hs fun _ ht => .ite (.next ht) (.next (.bmcRelease (.event (.upHub (.upCensus (.commitRestart (.forEach (.forEach
    (.upMordant ht) fun _ _ hu => .answerAll hu) fun _ _ hu => .setMbx hu)))))))

/-! ### The PCIe ports -/

theorem State.sound.portNext (hs : s.sound) {r : Nat} : (s.portNext r).sound := .setRootPort hs

theorem State.sound.portDone (hs : s.sound) {r : Nat} {q : PortReq} : (s.portDone r q).sound := .portNext (.setRootPort hs)

theorem State.sound.portPiece (hs : s.sound) {r : Nat} {q : PortReq} {off : Nat} {data : Bytes} : (s.portPiece r q off data).sound :=
  .ite (.portDone (.upFab hs)) (.setRootPort hs)

theorem Kept.tlpCompletion (hs : s.sound) {port : Fin 32} {h : HartId} {st : CplStatus} {offset : Nat} {data : Bytes} :
    Kept (execTlpCompletion port h st offset data s) := by
  unfold execTlpCompletion
  refine .live hs fun _ ht => .ite (.next ht) ?_
  split
  · exact .next (.portError ht)
  · split
    · exact .next (.portDone (.portFail ht))
    · exact .next (.portDone (.portFail ht))
    · exact .ite (.next (.portError ht)) (.next (.portPiece ht))

theorem Kept.completionTimeout (hs : s.sound) {port : Fin 32} {h : HartId} : Kept (execCompletionTimeout port h s) := by
  unfold execCompletionTimeout
  refine .live hs fun _ ht => ?_
  dsimp only
  split
  · exact .ite (.next ht) (.next (.portDone (.portFail ht)))
  · exact .next ht

theorem State.sound.slotEvent (hs : s.sound) {r : Nat} {bits : BitVec 16} : (s.slotEvent r bits).sound := .aplicSync (.setRootPort hs)

theorem State.sound.removal (hs : s.sound) {r : Nat} : (s.removal r).sound :=
  .aplicSync (.ite (.pdrTouch (.dropInbound (.portFlush (.slotOut (.setRootPort hs))))) (.dropInbound (.portFlush (.slotOut (.setRootPort
    hs)))))

theorem Kept.surpriseRemoval (hs : s.sound) {port : Fin 32} : Kept (execSurpriseRemoval port s) :=
  .live hs fun _ ht => .ite (.next ht) (.next (.removal (.ite (.logE ht) ht)))

theorem State.sound.slotWrite (hs : s.sound) {r : Nat} {v : BitVec 16} : (s.slotWrite r v).sound :=
  .ite (.ite (.removal (.setRootPort hs)) (.setRootPort hs)) (.ite (.setRootPort hs) (.setRootPort hs))

theorem Kept.slotControlWrite (hs : s.sound) {port : Fin 32} {v : BitVec 16} : Kept (execSlotControlWrite port v s) :=
  .live hs fun _ ht => .ite (.next (.aplicSync (.slotWrite ht))) (.next ht)

theorem State.sound.powerFault (hs : s.sound) {r : Nat} : (s.powerFault r).sound := .slotEvent (.slotOut (.setRootPort hs))

theorem State.sound.scanSlot (hs : s.sound) {r : Nat} {b : Byte} : (s.scanSlot r b).sound := by
  unfold State.scanSlot
  dsimp only
  exact .ite (.powerFault (.ite (.removal (.ite (.setRootPort hs) (.slotEvent (.setRootPort hs)))) (.ite (.setRootPort hs) (.slotEvent
      (.setRootPort hs))))) (.ite (.slotOut (.setRootPort (.ite (.removal (.ite (.setRootPort hs) (.slotEvent (.setRootPort hs)))) (.ite
      (.setRootPort hs) (.slotEvent (.setRootPort hs)))))) (.ite (.removal (.ite (.setRootPort hs) (.slotEvent (.setRootPort hs)))) (.ite
      (.setRootPort hs) (.slotEvent (.setRootPort hs)))))

theorem State.sound.scan (hs : s.sound) {inb : Bytes} : (s.scan inb).sound :=
  .ite (.ite (.logE (.upHub hs)) (.upHub hs)) (.ite (.forEach (.upHub hs) fun _ _ ht => .ite (.slotEvent (.setRootPort ht)) (.setRootPort
    ht)) (.forEach (.upHub hs) fun _ _ ht => .scanSlot ht))

theorem Kept.chainScan (hs : s.sound) {inbound : Bytes} : Kept (execChainScan inbound s) :=
  .live hs fun _ ht => .next (.ite ht (.scan ht))

theorem Kept.perstRelease (hs : s.sound) {port : Fin 32} : Kept (execPerstRelease port s) :=
  .live hs fun _ ht => .ite (.next (.slotOut (.setRootPort (.reach ht)))) (.next ht)

theorem Kept.pwrGoodTimeout (hs : s.sound) {port : Fin 32} : Kept (execPwrGoodTimeout port s) :=
  .live hs fun _ ht => .ite (.next (.powerFault (.reach ht))) (.next ht)

theorem State.sound.linkTrained (hs : s.sound) {r : Nat} : (s.linkTrained r).sound := by
  unfold State.linkTrained
  dsimp only
  exact .pdrTouch (.ite (.slotEvent (.setRootPort (.ite₂ (.takeNat hs) hs))) (.setRootPort (.ite₂ (.takeNat hs) hs)))

theorem Kept.linkUp (hs : s.sound) {port : Fin 32} : Kept (execLinkUp port s) :=
  .live hs fun _ ht => .ite (.next (.linkTrained ht)) (.next ht)

theorem Kept.inboundMemoryRequest (hs : s.sound) {port : Fin 32} {r : DmaReq} : Kept (execInboundMemoryRequest port r s) :=
  .live hs fun _ ht => .next (.dmaArrive ht)

/-! ### Mordant's commands -/

theorem Kept.hello (hs : s.sound) {iss : Issuer} {c : CmdCell} : Kept (execHello iss c s) :=
  .liveMordant hs fun _ ht => .next (.command ht fun _ hu => .snd (.setMbx hu))

theorem Kept.bye (hs : s.sound) {iss : Issuer} {c : CmdCell} : Kept (execBye iss c s) :=
  .liveMordant hs fun _ ht => .next (.command ht fun _ hu => .snd (.setMbx hu))

theorem Kept.echo (hs : s.sound) {iss : Issuer} {c : CmdCell} : Kept (execEcho iss c s) :=
  .liveMordant hs fun _ ht => .next (.command ht fun _ hu => hu)

theorem Kept.evtSubscribe (hs : s.sound) {iss : Issuer} {c : CmdCell} : Kept (execEvtSubscribe iss c s) :=
  .liveMordant hs fun _ ht => .next (.command ht fun _ hu => .snd (.setMbx hu))

theorem Kept.fwInfo (hs : s.sound) {iss : Issuer} {c : CmdCell} : Kept (execFwInfo iss c s) :=
  .liveMordant hs fun _ ht => .next (.command ht fun _ hu => hu)

theorem Kept.cfgRead (hs : s.sound) {iss : Issuer} {c : CmdCell} : Kept (execCfgRead iss c s) :=
  .liveMordant hs fun _ ht => .next (.command ht fun _ hu => hu)

theorem Kept.cfgCommit (hs : s.sound) {iss : Issuer} {c : CmdCell} : Kept (execCfgCommit iss c s) :=
  .liveMordant hs fun _ ht => .next (.command ht fun _ hu => .snd (.commitStart hu))

theorem Kept.cfgDiscard (hs : s.sound) {iss : Issuer} {c : CmdCell} : Kept (execCfgDiscard iss c s) := by
  unfold execCfgDiscard
  dsimp only
  exact .liveMordant hs fun _ ht => .next (.command ht fun _ hu => .snd (.discardStaged hu))

theorem Kept.cfgStatus (hs : s.sound) {iss : Issuer} {c : CmdCell} : Kept (execCfgStatus iss c s) :=
  .liveMordant hs fun _ ht => .next (.command ht fun _ hu => hu)

theorem Kept.cfgDump (hs : s.sound) {iss : Issuer} {c : CmdCell} : Kept (execCfgDump iss c s) :=
  .liveMordant hs fun _ ht => .next (.command ht fun _ hu => .bufferWrite hu fun _ hv => hv)

theorem Kept.configStoreCompaction (hs : s.sound) {goodWrites : Nat} : Kept (execConfigStoreCompaction goodWrites s) :=
  .liveMordant hs fun _ ht => .next (.compact ht)

theorem Kept.censusRun (hs : s.sound) {iss : Issuer} {c : CmdCell} : Kept (execCensusRun iss c s) :=
  .liveMordant hs fun _ ht => .next (.command ht fun _ hu => .snd (.censusStart hu))

theorem Kept.censusStatus (hs : s.sound) {iss : Issuer} {c : CmdCell} : Kept (execCensusStatus iss c s) :=
  .liveMordant hs fun _ ht => .next (.command ht fun _ hu => hu)

theorem State.sound.bisectPeer (hs : s.sound) {iss : Issuer} : (s.bisectPeer iss).sound := by
  unfold State.bisectPeer
  dsimp only
  exact .ite (.respond (.takeNat hs)) (.ite (.respond (.takeNat hs)) (.respond (.takeBytes (.takeNat hs))))

theorem Kept.censusBisect (hs : s.sound) {iss : Issuer} {c : CmdCell} : Kept (execCensusBisect iss c s) :=
  .liveMordant hs fun _ ht => .next (.command ht fun _ hu => .snd (.ite (.bisectStart hu) (.bisectPeer hu)))

theorem Kept.memTestArm (hs : s.sound) {iss : Issuer} {c : CmdCell} : Kept (execMemTestArm iss c s) :=
  .liveMordant hs fun _ ht => .next (.command ht fun _ hu => .snd (.setWindow hu))

theorem Kept.memTestDisarm (hs : s.sound) {iss : Issuer} {c : CmdCell} : Kept (execMemTestDisarm iss c s) :=
  .liveMordant hs fun _ ht => .next (.command ht fun _ hu => .snd (.setWindow hu))

theorem Kept.memRepairList (hs : s.sound) {iss : Issuer} {c : CmdCell} : Kept (execMemRepairList iss c s) :=
  .liveMordant hs fun _ ht => .next (.command ht fun _ hu => .bufferWrite hu fun _ hv => hv)

theorem Kept.memPcStatus (hs : s.sound) {iss : Issuer} {c : CmdCell} : Kept (execMemPcStatus iss c s) :=
  .liveMordant hs fun _ ht => .next (.command ht fun _ hu => hu)

theorem Kept.weldStatus (hs : s.sound) {iss : Issuer} {c : CmdCell} : Kept (execWeldStatus iss c s) :=
  .liveMordant hs fun _ ht => .next (.command ht fun _ hu => hu)

theorem Kept.weldRetrain (hs : s.sound) {iss : Issuer} {c : CmdCell} : Kept (execWeldRetrain iss c s) :=
  .liveMordant hs fun _ ht => .next (.command ht fun _ hu => .snd (.bundleRetrain hu))

theorem Kept.weldCapClear (hs : s.sound) {iss : Issuer} {c : CmdCell} : Kept (execWeldCapClear iss c s) :=
  .liveMordant hs fun _ ht => .next (.command ht fun _ hu => .snd (.setBundle hu))

theorem Kept.slotStatus (hs : s.sound) {iss : Issuer} {c : CmdCell} : Kept (execSlotStatus iss c s) :=
  .liveMordant hs fun _ ht => .next (.command ht fun _ hu => hu)

theorem Kept.slotUnfence (hs : s.sound) {iss : Issuer} {c : CmdCell} : Kept (execSlotUnfence iss c s) :=
  .liveMordant hs fun _ ht => .next (.command ht fun _ hu => .snd (.pdrTouch (.slotOut (.setRootPort hu))))

/-! ### The error log -/

theorem State.sound.takeErrSeq (hs : s.sound) : s.takeErrSeq.2.sound := by
  unfold State.takeErrSeq
  exact .snd (.upLog hs)

theorem State.sound.writeErr (hs : s.sound) {e : ErrRec} : (s.writeErr e).sound := by
  unfold State.writeErr
  dsimp only
  exact .eventTo (.upLog (.takeErrSeq hs))

theorem State.sound.newErr (hs : s.sound) {e : ErrRec} : (s.newErr e).sound := .ite (.writeErr hs) (.writeErr (.writeErr (.upLog hs)))

theorem State.sound.wakePkg (hs : s.sound) : s.wakePkg.sound :=
  .ite hs (.forEach (.upPower hs) fun _ _ ht => .forEach ht fun _ _ hu => .setCore hu)

theorem State.sound.svcBegin (hs : s.sound) {a : LiveAction} {iss : Option Issuer} : (s.svcBegin a iss).sound :=
  .upService (.upMode (.wakePkg hs))

theorem State.sound.spareStart (hs : s.sound) {c : CoreId} {iss : Option Issuer} : (s.spareStart c iss).sound := by
  unfold State.spareStart
  split
  · exact .logE hs
  · exact .hartCtl (.upService (.setCore (.svcBegin hs)))

theorem State.sound.spareOwed (hs : s.sound) : s.spareOwed.sound := by
  unfold State.spareOwed
  refine .ite hs ?_
  dsimp only
  split
  · exact hs
  · exact .spareStart (.upLog hs)

theorem State.sound.countCore (hs : s.sound) {e : ErrRec} : (s.countCore e).sound := .ite hs (.spareOwed (.upLog hs))

theorem State.sound.countHub (hs : s.sound) {e : ErrRec} : (s.countHub e).sound := by
  unfold State.countHub
  split
  · exact hs
  · exact .ite (.upLog hs) (.logE (.forEach (.upLog (.upLog hs)) fun _ _ ht => .setHome ht))

/-- Taking the oldest event leaves room. -/
theorem State.sound.popEvent (hs : s.sound) {e : ErrRec} {rest : List ErrRec} (front : s.mgmt.log.queue = e :: rest) :
    (s.upLog fun l => { l with queue := rest }).sound := by
  have room := hs.2
  rw [front, List.length_cons] at room
  exact ⟨hs.1, (Nat.le_succ _).trans room⟩

theorem Kept.logRecordCommit (hs : s.sound) : Kept (execLogRecordCommit s) := by
  unfold execLogRecordCommit
  refine .liveMordant hs fun _ ht => ?_
  split
  · exact .next ht
  · next front =>
      dsimp only
      split
      · exact .next (.upLog (.countHub (ht.popEvent front)))
      · exact .next (.countCore (.newErr (.countHub (ht.popEvent front))))

theorem Kept.errRead (hs : s.sound) {iss : Issuer} {c : CmdCell} : Kept (execErrRead iss c s) :=
  .liveMordant hs fun _ ht => .next (.command ht fun _ hu => .bufferWrite hu fun _ hv => .snd (.upLog hv))

theorem Kept.errAck (hs : s.sound) {iss : Issuer} {c : CmdCell} : Kept (execErrAck iss c s) :=
  .liveMordant hs fun _ ht => .next (.command ht fun _ hu => .snd (.upLog hu))

/-! ### Power -/

theorem State.sound.pmSend (hs : s.sound) {d : Fin 12} {mhz : Option Nat} {cs : Bool} : (s.pmSend d mhz cs).sound := .sbSend hs

theorem State.sound.runAt (hs : s.sound) {k mhz : Nat} : (s.runAt k mhz).sound :=
  .forEach (.setRail hs) fun _ _ ht => .ite (.pmSend ht) ht

theorem State.sound.avsWrite (hs : s.sound) {i mv : Nat} : (s.avsWrite i mv).sound := .setRail hs

theorem State.sound.setFreq (hs : s.sound) {k mhz : Nat} : (s.setFreq k mhz).sound :=
  .ite (.ite hs (.ite (.runAt hs) (.avsWrite (.setRail hs)))) (.ite (.ite (.runAt hs) (.ite (.setRail (.runAt hs)) (.ite (.runAt hs)
    (.avsWrite (.runAt hs))))) hs)

theorem Kept.avsStatusPoll (hs : s.sound) {rail : Fin 14} {vdone : Bool} : Kept (execAvsStatusPoll rail vdone s) := by
  unfold execAvsStatusPoll
  refine .liveMordant hs fun _ ht => ?_
  dsimp only
  split
  · exact .next ht
  · refine .ite (.next ht) ?_
    split
    · exact .next (.runAt (.setRail ht))
    · exact .next (.setRail ht)

theorem Kept.avsAckTimeout (hs : s.sound) {rail : Fin 14} {readMv : Option Nat} : Kept (execAvsAckTimeout rail readMv s) := by
  unfold execAvsAckTimeout
  refine .liveMordant hs fun _ ht => ?_
  dsimp only
  split
  · exact .next ht
  · refine .ite (.next (.setRail ht)) ?_
    split
    · exact .next (.ite (.runAt (.logE (.setRail ht))) (.logE (.setRail ht)))
    · exact .next (.logE (.setRail ht))

theorem Kept.heldRetry (hs : s.sound) {rail : Fin 14} : Kept (execHeldRetry rail s) :=
  .liveMordant hs fun _ ht => .ite (.next (.avsWrite ht)) (.next ht)

theorem State.sound.lossAll (hs : s.sound) : s.lossAll.sound := .upHub hs

theorem Kept.currentRead (hs : s.sound) {readings : List (Option Nat)} : Kept (execCurrentRead readings s) := by
  unfold execCurrentRead
  refine .liveMordant hs fun _ ht => .next ?_
  split
  · refine .lossAll (.forEach ht fun _ _ hu => ?_)
    dsimp only
    split
    · exact .setRail hu
    · exact .ite (.logE (.setRail hu)) (.setRail hu)
  · refine .forEach ht fun _ _ hu => ?_
    split
    · exact .setRail hu
    · exact .ite (.logE (.setRail hu)) (.setRail hu)

theorem Kept.powerControlStep (hs : s.sound) {watts : Nat} {wantMhz setMv : List Nat} :
    Kept (execPowerControlStep watts wantMhz setMv s) := by
  unfold execPowerControlStep
  dsimp only
  refine .liveMordant hs fun _ ht => .next (.upPower ?_)
  refine .forEach (.forEach (.upPower ht) fun _ _ hu => .setFreq (.setRail (.ite (.logE hu) hu))) fun _ _ hu => ?_
  split
  · exact .ite hu (.avsWrite hu)
  · exact hu

theorem Kept.pmQuery (hs : s.sound) {iss : Issuer} {c : CmdCell} : Kept (execPmQuery iss c s) :=
  .liveMordant hs fun _ ht => .next (.command ht fun _ hu => hu)

theorem Kept.pmSetLimit (hs : s.sound) {iss : Issuer} {c : CmdCell} : Kept (execPmSetLimit iss c s) :=
  .liveMordant hs fun _ ht => .next (.command ht fun _ hu => .snd (.cfgWrite hu))

theorem Kept.pmCoreState (hs : s.sound) {iss : Issuer} {c : CmdCell} : Kept (execPmCoreState iss c s) :=
  .liveMordant hs fun _ ht => .next (.command ht fun _ hu => .ite₂ (.snd (.pmSend (.ite (.wakePkg (.upPower hu)) (.upPower hu)))) (.snd
    (.setCore (.ite (.wakePkg (.upPower hu)) (.upPower hu)))))

theorem Kept.pmPkgState (hs : s.sound) {iss : Issuer} {c : CmdCell} : Kept (execPmPkgState iss c s) := by
  unfold execPmPkgState
  dsimp only
  exact .liveMordant hs fun _ ht => .next (.command ht fun _ hu => .ite₂ (.ite₂ (.snd (.event (.wakePkg (.upPower hu)))) (.ite₂ (.snd
      (.wakePkg (.upPower hu))) (.snd (.ite (.takeNat (.wakePkg (.upPower hu))) (.event (.takeNat (.wakePkg (.upPower hu)))))))) (.snd
      (.upPower hu)))

theorem Kept.coreIdleEntry (hs : s.sound) {c : CoreId} : Kept (execCoreIdleEntry c s) :=
  .live hs fun _ ht => .ite (.next (.setCore ht)) (.next ht)

theorem Kept.coreWake (hs : s.sound) {c : CoreId} : Kept (execCoreWake c s) :=
  .live hs fun _ ht => .ite (.next (.setCore (.wakePkg ht))) (.next ht)

theorem State.sound.flushL3 (hs : s.sound) {d : Fin 12} : (s.flushL3 d).sound := .dieEvict (.setDie hs)

theorem Kept.pkgStateEntry (hs : s.sound) : Kept (execPkgStateEntry s) := by
  unfold execPkgStateEntry
  refine .live hs fun _ ht => ?_
  split
  · exact .next ht
  · exact .ite (.next ht) (.ite (.next (.ite (.forEach ht fun _ _ hu => .flushL3 hu) ht)) (.next (.event (.upPower (.forEach (.ite
      (.forEach ht fun _ _ hu => .flushL3 hu) ht) fun _ _ hu => .forEach hu fun _ _ hv => .setCore hv)))))

theorem Kept.domainWake (hs : s.sound) {d : Domain} : Kept (execDomainWake d s) := .live hs fun _ ht => .next (.upPower ht)

theorem Kept.domainSleep (hs : s.sound) {d : Domain} : Kept (execDomainSleep d s) :=
  .live hs fun _ ht => .ite (.next (.upPower ht)) (.next ht)

theorem Kept.pllLockLoss (hs : s.sound) {p : Pll} : Kept (execPllLockLoss p s) := by
  unfold execPllLockLoss
  refine .live hs fun _ ht => ?_
  split
  · exact .next (.bundleRetrain (.upPower ht))
  · exact .next (.logE (.upPower ht))

theorem Kept.pllRelock (hs : s.sound) {d : Fin 12} : Kept (execPllRelock d s) := .live hs fun _ ht => .next (.upPower ht)

theorem Kept.refclkLoss (hs : s.sound) : Kept (execRefclkLoss s) := .live hs fun _ ht => .next (.upMode (.logE ht))

theorem State.sound.trip (hs : s.sound) : s.trip.sound := .upMode hs

theorem Kept.temperatureRead (hs : s.sound) {die : List (List ℤ)} {hub : List ℤ} : Kept (execTemperatureRead die hub s) :=
  .live hs fun _ ht => .next (.ite (.trip (.upPower ht)) (.upPower ht))

theorem Kept.throttleStep (hs : s.sound) : Kept (execThrottleStep s) :=
  .liveMordant hs fun _ ht => .next (.upPower (.ite (.logE (.forEach ht fun _ _ hu => .ite (.setFreq (.setRail (.ite (.logE hu) hu)))
    (.setRail hu))) (.forEach ht fun _ _ hu => .ite (.setFreq (.setRail (.ite (.logE hu) hu))) (.setRail hu))))

theorem Kept.hotN (hs : s.sound) {asserted : Bool} : Kept (execHotN asserted s) := .liveMordant hs fun _ ht => .next (.upMode ht)

theorem Kept.catastrophicTemperature (hs : s.sound) {_stack : Fin 2} : Kept (execCatastrophicTemperature _stack s) :=
  .live hs fun _ ht => .next (.trip ht)

/-! ### The start sequence -/

theorem State.sound.enterCold {cause : StartCause} {straps : Straps} {counted : Bool} :
    (s.enterCold cause straps counted).sound :=
  ⟨rfl, Nat.zero_le _⟩

theorem State.sound.forgetReset (hs : s.sound) : s.forgetReset.sound := by
  unfold State.forgetReset
  refine .upMem (.forEach hs fun _ _ ht => ?_)
  split
  · exact .ite (.forgetFinish ht) ht
  · exact ht

theorem State.sound.resetMeters (hs : s.sound) : s.resetMeters.sound := by
  unfold State.resetMeters
  dsimp only
  exact .freeHues (.forgetReset (.forEach hs fun _ _ ht => .meterSend ht))

theorem State.sound.enterWarm (hs : s.sound) {cause : StartCause} : (s.enterWarm cause).sound := by
  unfold State.enterWarm
  extract_lets u fab done sent handing v w
  have hu : u.sound := .resetMeters hs
  clear_value u fab
  have hw : w.sound := .forEach (.frame hu) fun _ _ ht => .setSpares ht
  exact .upMode (.upPower (.upConfig (.upMgmt (.upHub (.upMem hw)))))

theorem State.sound.enterRecovery (hs : s.sound) {cause : StartCause} : (s.enterRecovery cause).sound :=
  .upMode (.upHub (.forEach hs fun _ _ ht => .setPort ht))

theorem State.sound.partHold (hs : s.sound) {p : Nat} : (s.partHold p).sound :=
  .forEach (.upFab (.forEach (.forEach (.setPartition hs) fun _ _ ht => .forEach ht fun _ _ hu => .holdHart hu) fun _ _ ht => .setRootPort
    (.dropInbound (.slotOut ht)))) fun _ _ ht => .setSlice ht

theorem State.sound.partResetGo (hs : s.sound) {go : Nat} : (s.partResetGo go).sound :=
  .ite (.upService hs) (.forEach hs fun _ _ ht => .ite (.partHold ht) ht)

theorem State.sound.coldByCommand {given : Option Straps} : (s.coldByCommand given).sound := by
  unfold State.coldByCommand
  dsimp only
  exact .enterCold

theorem State.sound.resetGo (hs : s.sound) {given : Option Straps} : (s.resetGo given).sound := by
  unfold State.resetGo
  split
  · exact hs
  · exact .coldByCommand
  · exact .enterWarm (.upMode hs)

theorem State.sound.cfgWriteCmd (hs : s.sound) {iss : Issuer} {c : CmdCell} {given : Option Straps} :
    (s.cfgWriteCmd iss c given).sound := by
  unfold State.cfgWriteCmd
  dsimp only
  exact .resetGo (.command hs fun _ ht => .ite₂ (.snd (.upMode ht)) (.ite₂ (.snd (.partResetGo ht)) (.snd (.cfgWrite ht))))

theorem Kept.cfgWrite (hs : s.sound) {iss : Issuer} {c : CmdCell} : Kept (execCfgWrite iss c s) :=
  .liveMordant hs fun _ ht => .next (.cfgWriteCmd ht)

theorem Kept.pkgResetCold (hs : s.sound) {iss : Issuer} {c : CmdCell} {straps : Straps} : Kept (execPkgResetCold iss c straps s) :=
  .liveMordant hs fun _ ht => .next (.ite (.cfgWriteCmd ht) ht)

theorem Kept.pkgResetWarm (hs : s.sound) {iss : Issuer} {c : CmdCell} : Kept (execPkgResetWarm iss c s) :=
  .liveMordant hs fun _ ht => .next (.ite (.cfgWriteCmd ht) ht)

theorem Kept.partReset (hs : s.sound) {iss : Issuer} {c : CmdCell} : Kept (execPartReset iss c s) :=
  .liveMordant hs fun _ ht => .next (.ite (.cfgWriteCmd ht) ht)

theorem State.sound.releaseDies (hs : s.sound) {dies : List (Fin 12)} {boot : Option Nat} : (s.releaseDies dies boot).sound := by
  unfold State.releaseDies
  refine .forEach hs fun _ _ ht => ?_
  dsimp only
  split
  · exact .hartCtl (.hartCtl ht)
  · exact .hartCtl ht

theorem State.sound.releasePart (hs : s.sound) {p : Nat} : (s.releasePart p).sound := .releaseDies hs

theorem State.sound.releasePkg (hs : s.sound) : s.releasePkg.sound := by
  unfold State.releasePkg
  split
  · exact .forEach hs fun _ _ ht => .ite (.releasePart ht) ht
  · exact .releaseDies hs
  · exact .releaseDies hs

theorem State.sound.partCaches (hs : s.sound) {p : Nat} : (s.partCaches p).sound :=
  .upHub (.forEach (.forEach hs fun _ _ ht => .forEach (.upPower (.setDie ht)) fun _ _ hu => .setCore hu) fun _ _ ht => .setHome ht)

theorem State.sound.repower (hs : s.sound) {r : Nat} : (s.repower r).sound :=
  .ite hs (.ite (.slotOut (.setRootPort hs)) (.setRootPort hs))

theorem State.sound.partClear (hs : s.sound) {p : Nat} : (s.partClear p).sound :=
  .pdrTouch (.setMbx (.forEach (.setAplic (.setAplic (.forEach (.forEach (.forEach (.freeHues hs) fun _ _ ht => .setSlice (.freeCells ht))
    fun _ _ ht => .setRootPort (.setIommu ht)) fun _ _ ht => .forEach ht fun _ _ hu => .forEach hu fun _ _ hv => .setFile hv))) fun _ _ ht
    => .ite (.loadDie ht) ht))

theorem State.sound.partRelease (hs : s.sound) {p : Nat} : (s.partRelease p).sound :=
  .ite hs (.forEach (.releasePart (.setPartition hs)) fun _ _ ht => .repower ht)

theorem Kept.partitionDrainComplete (hs : s.sound) {p : Fin 12} : Kept (execPartitionDrainComplete p s) :=
  .live hs fun _ ht => .ite (.next (.partRelease (.setPartition (.partClear (.partCaches ht))))) (.ite (.next (.partRelease ht)) (.next
    ht))

theorem Kept.pwrgoodRise (hs : s.sound) {straps : Straps} : Kept (execPwrgoodRise straps s) :=
  .ite (.next hs) (.next (.upMode .enterCold))

theorem State.sound.powerOff (hs : s.sound) : s.powerOff.sound := .upMode hs

theorem Kept.pwrgoodLow (hs : s.sound) : Kept (execPwrgoodLow s) := .next (.powerOff hs)

theorem Kept.railUndervoltage (hs : s.sound) {rail : Fin 18} : Kept (execRailUndervoltage rail s) :=
  .ite (.next hs) (.next (.powerOff (.upPower hs)))

theorem Kept.railOvervoltage (hs : s.sound) {rail : Fin 18} : Kept (execRailOvervoltage rail s) := .ite (.next hs) (.next (.upPower hs))

theorem Kept.resetNLow (hs : s.sound) : Kept (execResetNLow s) := by
  unfold execResetNLow
  refine .live hs fun _ ht => .ite (.next ht) (.next (.upMode ?_))
  split
  · exact .upMode .enterCold
  · exact ht
  · exact .enterWarm ht

theorem Kept.resetNRise (hs : s.sound) {straps : Straps} : Kept (execResetNRise straps s) :=
  .live hs fun _ ht => .ite (.next ht) (.ite (.next (.upMode (.upMode ht))) (.ite (.next (.enterWarm (.upMode ht))) (.next .enterCold)))

theorem State.sound.startHub (hs : s.sound) : s.startHub.sound :=
  .ite (.logE (.forEach (.upPower (.frame hs)) fun _ _ ht => .logE ht)) (.forEach (.upPower (.frame hs)) fun _ _ ht => .logE ht)

theorem State.sound.imageGood (hs : s.sound) {b : Bool} : (s.imageGood b).sound := .upMordant hs

theorem State.sound.startImage (hs : s.sound) {i : StartInfo} : (s.startImage i).sound :=
  .ite (.enterRecovery (.ite (.imageGood hs) (.ite (.imageGood (.upMordant hs)) hs))) (.ite (.ite (.imageGood hs) (.ite (.imageGood
    (.upMordant hs)) hs)) (.enterRecovery (.ite (.imageGood hs) (.ite (.imageGood (.upMordant hs)) hs))))

theorem State.sound.startLoad (hs : s.sound) : s.startLoad.sound := by
  unfold State.startLoad
  refine .forEach ?_ fun _ _ ht => .ite ht (.coldTrain ht)
  split
  · refine .ite ?_ (.loadStore (.upMode hs))
    split
    · exact .logE (.upMode (.loadStore (.upMode hs)))
    · exact .loadStore (.upMode hs)
  · refine .avsWrite (.avsWrite (.ite ?_ (.loadStore (.upMode hs))))
    split
    · exact .logE (.upMode (.loadStore (.upMode hs)))
    · exact .loadStore (.upMode hs)

theorem State.sound.setRepair (hs : s.sound) {i : Nat} {r : Word} : (s.setRepair i r).sound := .upMem hs

theorem State.sound.applyRepairs (hs : s.sound) {fail : List Nat} : (s.applyRepairs fail).sound := by
  unfold State.applyRepairs
  dsimp only
  exact .forEach (.forEach (.upMem hs) fun _ _ ht => .ite ht (.ite (.logE (.setRepair ht)) (.setRepair ht))) fun _ _ ht => .ite ht (.ite
      (.ite (.setRow (.spprFailed (.takeNat ht))) (.takeNat ht)) (.setRow (.retireRow ht)))

theorem State.sound.scanLog (hs : s.sound) : s.scanLog.sound := .ite (.upLog hs) (.logE (.upLog hs))

theorem State.sound.startLanes (hs : s.sound) : s.startLanes.sound := by
  unfold State.startLanes
  extract_lets u
  have hu : u.sound := .forEach hs fun _ _ ht => .repower ht
  exact .ite (.forEach hu fun _ _ ht => .ite ht (.setBundle ht)) hu

theorem State.sound.startBind (hs : s.sound) {fail : List (Fin 12 × Fin 24)} : (s.startBind fail).sound :=
  .forEach (.ite hs (.forEach hs fun _ _ ht => .ite (.forEach (.setDieStatus ht) fun _ _ hu => .setBundle hu) (.forEach (.setSpares ht)
    fun _ _ hu => .setCore hu))) fun _ _ ht => .ite ht (.loadDie ht)

theorem State.sound.startDecoders (hs : s.sound) : s.startDecoders.sound := .forEach hs fun _ _ ht => .logE (.setCfg ht)

theorem State.sound.startApply (hs : s.sound) : s.startApply.sound :=
  .censusStart (.startDecoders (.forEach hs fun _ _ ht => .setPartition ht))

theorem State.sound.startEnd (hs : s.sound) : s.startEnd.sound := .releasePkg (.upMode hs)

theorem State.sound.startStep (hs : s.sound) {t : StartStep} {i : StartInfo} : (s.startStep t i).sound := by
  unfold State.startStep
  dsimp only
  split
  · exact .startHub hs
  · exact hs
  · exact .startImage hs
  · exact .startLoad hs
  · exact hs
  · exact .ite hs (.forEach (.applyRepairs hs) fun _ _ ht => .failChannel ht)
  · exact .scanLog (.ite (.scanLedger hs) (.ledgerCold hs))
  · exact .startLanes hs
  · exact .startBind hs
  · exact .startApply hs
  · exact hs
  · exact .lockPdr hs
  · exact .startEnd hs

theorem Kept.startStepComplete (hs : s.sound) {step : StartStep} {i : StartInfo} : Kept (execStartStepComplete step i s) :=
  .live hs fun _ ht => .ite (.next ht) (.next (.startStep (.upMode ht)))

theorem Kept.cascadeAdmissionTimeout (hs : s.sound) : Kept (execCascadeAdmissionTimeout s) :=
  .live hs fun _ ht => .ite (.next (.enterRecovery ht)) (.next ht)

theorem Kept.hartReset (hs : s.sound) {h : HartId} : Kept (execHartReset h s) :=
  .live hs fun _ ht => .ite (.next ht) (.ite (.next (.holdHart (.setCore ht))) (.next (.resetHart ht)))

/-! ### Live service -/

theorem State.sound.svcEnd (hs : s.sound) {st : Nat} : (s.svcEnd st).sound := by
  unfold State.svcEnd
  split
  · exact hs
  · exact .spareOwed (.partResetGo (.upService (.upMode (.event hs))))

theorem State.sound.svcStep (hs : s.sound) {n : Nat} : (s.svcStep n).sound := .upService hs

theorem State.sound.askHarts (hs : s.sound) {d : Fin 12} {op harts : Nat} : (s.askHarts d op harts).sound := .hartCtl (.upService hs)

theorem State.sound.emptyCore (hs : s.sound) {c : CoreId} : (s.emptyCore c).sound := .forEach hs fun _ _ ht => .flushLine ht

theorem State.sound.bindSpare (hs : s.sound) {c : CoreId} : (s.bindSpare c).sound :=
  .upService (.forEach (.setCore hs) fun _ _ ht => .setHart ht)

theorem State.sound.spareStep (hs : s.sound) {d : Fin 12} {l : Fin 22} {n : Nat} : (s.spareStep d l n).sound :=
  .ite (.ite (.svcStep hs) hs) (.ite (.svcStep (.afterResv (.emptyCore hs))) (.ite (.svcStep hs) (.ite (.askHarts (.svcStep (.bindSpare
    hs))) (.ite (.ite (.svcStep hs) hs) (.svcEnd (.pdrTouch (.setSpares (.upPdr hs))))))))

theorem State.sound.sweepDie (hs : s.sound) {d : Fin 12} : (s.sweepDie d).sound := .forEach hs fun _ _ ht => .setHome ht

theorem State.sound.portIdle (hs : s.sound) {d : Fin 12} : (s.portIdle d).sound := .forEach hs fun _ _ ht => .ite ht (.setBundle ht)

theorem State.sound.evacuateStep (hs : s.sound) {d : Fin 12} {n : Nat} : (s.evacuateStep d n).sound :=
  .ite (.ite (.svcStep hs) hs) (.ite (.ite (.svcStep (.afterResv (.flushL3 (.forEach hs fun _ _ ht => .emptyCore ht)))) (.afterResv
    (.flushL3 (.forEach hs fun _ _ ht => .emptyCore ht)))) (.ite (.ite hs (.svcStep (.sweepDie hs))) (.svcEnd (.pdrTouch (.dieGone
    (.setDieStatus (.portIdle hs)))))))

theorem State.sound.resetDie (hs : s.sound) {d : Fin 12} : (s.resetDie d).sound :=
  .setPort (.upFab (.crossReset (.upPower (.setUncUnit (.setDieCfg (.forEach (.forEach (.setDie hs) fun _ _ ht => .setCore ht) fun _ _ ht
    => .fileLines (.setHart ht)))))))

theorem State.sound.readmitStep (hs : s.sound) {d : Fin 12} {n : Nat} : (s.readmitStep d n).sound :=
  .ite (.ite (.ite hs (.svcStep (.coldTrain (.resetDie (.sweepDie hs))))) (.svcStep (.coldTrain (.resetDie hs)))) (.ite (.ite hs (.ite
    (.svcEnd (.fenceDie hs)) (.svcStep (.sbSend (.upCensus (.loadDie hs)))))) (.ite (.ite hs (.svcStep (.ite (.askHarts (.ite hs (.logE
    hs))) (.ite hs (.logE hs))))) (.ite hs (.svcEnd (.pdrTouch (.setDieStatus hs))))))

theorem State.sound.handoffStep (hs : s.sound) {m : Fin 4} {n : Nat} : (s.handoffStep m n).sound :=
  .ite (.ite hs (.svcStep hs)) (.ite (.svcStep hs) (.ite (.svcStep (.pdrTouch (.dropStaging (.upCasc hs)))) (.svcEnd hs)))

theorem Kept.serviceStepComplete (hs : s.sound) : Kept (execServiceStepComplete s) := by
  unfold execServiceStepComplete
  refine .live hs fun _ ht => ?_
  dsimp only
  split
  · exact .next ht
  · refine .ite (.next (.svcEnd ht)) ?_
    split
    · exact .next (.spareStep ht)
    · exact .next (.evacuateStep ht)
    · exact .next (.readmitStep ht)
    · exact .next (.ite (.svcStep ht) ht)
    · exact .next (.handoffStep ht)

theorem State.sound.swapSlot (hs : s.sound) : s.swapSlot.sound := .upMordant hs

theorem Kept.fwHandoverWindow (hs : s.sound) : Kept (execFwHandoverWindow s) :=
  .liveMordant hs fun _ ht => .ite (.next (.svcStep (.swapSlot ht))) (.next ht)

theorem Kept.fwHandoverComplete (hs : s.sound) {digestOk stateOk : Bool} {minorOffered : Nat} :
    Kept (execFwHandoverComplete digestOk stateOk minorOffered s) := by
  unfold execFwHandoverComplete
  refine .liveMordant hs fun _ ht => .ite (.next ht) (.ite (.next (.bmcRelease (.svcEnd (.swapSlot ht)))) ?_)
  refine .ite (.next (.bmcRelease (.svcEnd (.swapSlot ht)))) ?_
  refine .next (.bmcRelease (.svcEnd (.forEach ht fun _ _ hu => ?_)))
  dsimp only
  split
  · exact .ite (.setMbx hu) hu
  · exact hu

theorem Kept.svcStatus (hs : s.sound) {iss : Issuer} {c : CmdCell} : Kept (execSvcStatus iss c s) := by
  unfold execSvcStatus
  refine .liveMordant hs fun _ ht => .next (.command ht fun _ hu => ?_)
  dsimp only
  split <;> exact hu

theorem Kept.svcCoreSpare (hs : s.sound) {iss : Issuer} {c : CmdCell} : Kept (execSvcCoreSpare iss c s) :=
  .liveMordant hs fun _ ht => .next (.command ht fun _ hu => .ite₂ (.snd (.respond (.spareStart hu))) (.snd (.spareStart hu)))

theorem Kept.svcDieEvacuate (hs : s.sound) {iss : Issuer} {c : CmdCell} : Kept (execSvcDieEvacuate iss c s) :=
  .liveMordant hs fun _ ht => .next (.command ht fun _ hu => .snd (.askHarts (.svcBegin hu)))

theorem Kept.svcDieReadmit (hs : s.sound) {iss : Issuer} {c : CmdCell} : Kept (execSvcDieReadmit iss c s) :=
  .liveMordant hs fun _ ht => .next (.command ht fun _ hu => .snd (.svcBegin hu))

theorem State.sound.setInactive (hs : s.sound) {x : ImageSlot} : (s.setInactive x).sound := .upMordant hs

theorem Kept.svcFwStage (hs : s.sound) {iss : Issuer} {c : CmdCell} {verifies : Bool} {version : BitVec 32} {secVersion : Byte} :
    Kept (execSvcFwStage iss c verifies version secVersion s) := by
  unfold execSvcFwStage
  dsimp only
  exact .liveMordant hs fun _ ht => .next (.command ht fun _ hu => .ite₂ (.snd (.respond (.bufferFault (.setInactive (.snap hu))))) (.ite₂
      (.snd (.setInactive (.snap hu))) (.snd (.respond (.setInactive (.snap hu))))))

theorem Kept.svcFwActivate (hs : s.sound) {iss : Issuer} {c : CmdCell} {straps : Straps} : Kept (execSvcFwActivate iss c straps s) :=
  .liveMordant hs fun _ ht => .next (.resetGo (.command ht fun _ hu => .ite₂ (.snd (.upMode (.swapSlot hu))) (.snd (.svcBegin hu))))

/-! ### The cascade -/

theorem Kept.cascadeIdentity (hs : s.sound) {link : Fin 3} {i : CascIdentity} : Kept (execCascadeIdentity link i s) :=
  .live hs fun _ ht => .ite (.next (.setCascLink ht)) (.next ht)

theorem State.sound.strapFault (hs : s.sound) {c : Nat} : (s.strapFault c).sound := .logE hs

theorem State.sound.applyMaster (hs : s.sound) {lot : BitVec 32} {entries : List (Nat × Word)} : (s.applyMaster lot entries).sound :=
  .journal (.forEach (.upConfig (.forEach hs fun _ _ ht => .ite (.upConfig ht) (.setCfg ht))) fun _ _ ht => .ite (.loadDie ht) ht)

theorem State.sound.closeAdmission (hs : s.sound) {lot : BitVec 32} {entries : List (Nat × Word)} :
    (s.closeAdmission lot entries).sound := by
  unfold State.closeAdmission
  dsimp only
  split
  · exact .forEach hs fun _ _ ht => .strapFault ht
  · exact .ite (.forEach hs fun _ _ ht => .ite (.forEach ht fun _ _ hu => .strapFault hu) (.ite (.strapFault ht) ht)) (.pdrTouch (.upCasc
      (.ite (.forEach hs fun _ _ ht => .ite (.forEach ht fun _ _ hu => .strapFault hu) (.ite (.strapFault ht) ht)) (.applyMaster (.forEach
      hs fun _ _ ht => .ite (.forEach ht fun _ _ hu => .strapFault hu) (.ite (.strapFault ht) ht))))))

theorem Kept.admissionClose (hs : s.sound) {lot : BitVec 32} {entries : List (Nat × Word)} : Kept (execAdmissionClose lot entries s) :=
  .live hs fun _ ht => .ite (.next (.closeAdmission ht)) (.next ht)

theorem Kept.timeAlign (hs : s.sound) {p : Fin 4} {offsetNs : ℤ} : Kept (execTimeAlign p offsetNs s) :=
  .live hs fun _ ht => .ite (.next (.ite (.memberLost (.ite (.logE (.ite (.upCasc (.upCasc ht)) (.upCasc ht))) (.ite (.upCasc (.upCasc
    ht)) (.upCasc ht)))) (.ite (.logE (.ite (.upCasc (.upCasc ht)) (.upCasc ht))) (.ite (.upCasc (.upCasc ht)) (.upCasc ht))))) (.next ht)

theorem Kept.proxyProbeTimeout (hs : s.sound) {link : Fin 3} {line : Nat} {d : Fin 12} : Kept (execProxyProbeTimeout link line d s) :=
  .live hs fun _ ht => .next (.proxyExpire ht)

theorem Kept.masterUnreachable (hs : s.sound) : Kept (execMasterUnreachable s) :=
  .live hs fun _ ht => .ite (.next (.memberLost ht)) (.next ht)

theorem Kept.cascHandoffTimeout (hs : s.sound) : Kept (execCascHandoffTimeout s) := by
  unfold execCascHandoffTimeout
  refine .live hs fun _ ht => ?_
  split
  · exact .next (.ite (.svcEnd ht) ht)
  · exact .next ht

theorem Kept.cascStatus (hs : s.sound) {iss : Issuer} {c : CmdCell} : Kept (execCascStatus iss c s) :=
  .liveMordant hs fun _ ht => .next (.command ht fun _ hu => hu)

theorem Kept.cascHandoff (hs : s.sound) {iss : Issuer} {c : CmdCell} : Kept (execCascHandoff iss c s) :=
  .liveMordant hs fun _ ht => .next (.command ht fun _ hu => .snd (.svcBegin hu))

/-! ### CXL -/

theorem State.sound.cxlServed (hs : s.sound) {port : Nat} {r : MemReq} : (s.cxlServed port r).sound := .setCxlMem hs

theorem State.sound.cxlAnswer (hs : s.sound) {port : Nat} {r : MemReq} {d : Bytes × Bool} : (s.cxlAnswer port r d).sound :=
  .memAnswer (.uncount (.charge (.upMem (.setCxlMem (.cxlServed hs)))))

theorem Kept.cxlMemResponse (hs : s.sound) {r : MemReq} {data : Bytes} {poison : Bool} : Kept (execCxlMemResponse r data poison s) := by
  unfold execCxlMemResponse
  dsimp only
  refine .live hs fun _ ht => ?_
  split
  · exact .next ht
  · exact .ite (.next ht) (.ite (.next (.cxlAnswer ht)) (.ite (.next (.cxlAnswer (.takeBytes (.portError ht)))) (.next (.cxlAnswer ht))))

theorem Kept.cxlMemReadTimeout (hs : s.sound) {r : MemReq} : Kept (execCxlMemReadTimeout r s) := by
  unfold execCxlMemReadTimeout
  dsimp only
  refine .live hs fun _ ht => ?_
  split
  · exact .next ht
  · exact .next (.ite (.fencePort (.cxlAnswer (.takeBytes (.setRootPort ht)))) (.portError (.cxlAnswer (.takeBytes (.setRootPort ht)))))

theorem Kept.cxlViral (hs : s.sound) {port : Fin 32} : Kept (execCxlViral port s) :=
  .live hs fun _ ht => .ite (.next (.fencePort (.setRootPort ht))) (.next ht)

theorem Kept.rdshared (hs : s.sound) {port : Fin 32} {line : Nat} : Kept (execRdshared port line s) :=
  .live hs fun _ ht => .next (.cacheArrive ht)

theorem Kept.rdown (hs : s.sound) {port : Fin 32} {line : Nat} : Kept (execRdown port line s) :=
  .live hs fun _ ht => .next (.cacheArrive ht)

theorem Kept.rdcurr (hs : s.sound) {port : Fin 32} {line : Nat} : Kept (execRdcurr port line s) :=
  .live hs fun _ ht => .next (.cacheArrive ht)

theorem Kept.dirtyevict (hs : s.sound) {port : Fin 32} {line : Nat} {data : Bytes} : Kept (execDirtyevict port line data s) :=
  .live hs fun _ ht => .next (.cacheArrive ht)

theorem Kept.cleanevict (hs : s.sound) {port : Fin 32} {line : Nat} : Kept (execCleanevict port line s) :=
  .live hs fun _ ht => .next (.cacheArrive ht)

theorem Kept.itomwr (hs : s.sound) {port : Fin 32} {line : Nat} {data : Bytes} : Kept (execItomwr port line data s) :=
  .live hs fun _ ht => .next (.cacheArrive ht)

theorem Kept.clflush (hs : s.sound) {port : Fin 32} {line : Nat} : Kept (execClflush port line s) :=
  .live hs fun _ ht => .next (.cacheArrive ht)

theorem Kept.snoopResponse (hs : s.sound) {port : Fin 32} {line : Nat} {dirty : Option Bytes} :
    Kept (execSnoopResponse port line dirty s) :=
  .live hs fun _ ht => .next (.snoopAnswer ht)

theorem Kept.cxlWritebackTimeout (hs : s.sound) {port : Fin 32} : Kept (execCxlWritebackTimeout port s) :=
  .live hs fun _ ht => .ite (.next (.cxlSettle (.forEach (.fencePort ht) fun _ _ hu => .dropFilter hu))) (.next ht)

/-! ### The configuration spaces -/

theorem State.sound.portWrite (hs : s.sound) {r off : Nat} {v mask : BitVec 32} : (s.portWrite r off v mask).sound :=
  .ite (.setRootPort (.ite (.slotWrite hs) hs)) (.ite (.setRootPort hs) (.ite (.setRootPort hs) (.ite (.setRootPort hs) (.ite
    (.setRootPort hs) (.ite (.ite (.pdrTouch (.setRootPort hs)) hs) (.setRootPort hs))))))

theorem State.sound.bus0Write (hs : s.sound) {part : Option Nat} {dev fn off : Nat} {v mask : BitVec 32} :
    (s.bus0Write part dev fn off v mask).sound := by
  unfold State.bus0Write
  split
  · exact .portWrite hs
  · exact hs

theorem State.sound.bus0Store (hs : s.sound) {part : Option Nat} {off size : Nat} {v : Word} : (s.bus0Store part off size v).sound :=
  .ite (.bus0Write (.bus0Write hs)) (.bus0Write hs)

theorem State.sound.ioSay (hs : s.sound) {h : HartId} {a : IoAnswer} : (s.ioSay h a).sound := .upFab hs

theorem State.sound.portAsk (hs : s.sound) {r : Nat} {q : PortReq} : (s.portAsk r q).sound :=
  .ite (.portNext (.setRootPort hs)) (.portFail hs)

theorem State.sound.portPost (hs : s.sound) {r : Nat} {q : PortReq} : (s.portPost r q).sound :=
  .ite (.ioSay (.setRootPort hs)) (.portFail hs)

theorem State.sound.ecam (hs : s.sound) {part : Option Nat} {off : Nat} {q : PortReq} : (s.ecam part off q).sound := by
  unfold State.ecam
  refine .ite (.ite (.ioSay (.bus0Store hs)) (.ioSay hs)) ?_
  split
  · exact .portAsk hs
  · exact .ioSay hs

theorem State.sound.pciMemory (hs : s.sound) {q : PortReq} : (s.pciMemory q).sound := by
  unfold State.pciMemory
  split
  · exact .ite (.portPost hs) (.portAsk hs)
  · exact .ioSay hs

/-! ### The uncore -/

theorem State.sound.uncSetWrite (hs : s.sound) {part : Option Nat} {u k : Nat} {v mask : Word} : (s.uncSetWrite part u k v mask).sound :=
  .ite (.setUncUnit hs) hs

theorem State.sound.uncFreezeWrite (hs : s.sound) {part : Option Nat} {v mask : Word} : (s.uncFreezeWrite part v mask).sound :=
  .ite hs (.upMgmt hs)

theorem State.sound.uncWrite (hs : s.sound) {part : Option Nat} {off : Nat} {v mask : Word} : (s.uncWrite part off v mask).sound :=
  .ite (.uncFreezeWrite hs) (.ite (.uncSetWrite hs) (.ite hs (.ite (.setUncUnit hs) (.ite (.setUncUnit hs) hs))))

theorem Kept.uncSet (hs : s.sound) {h : HartId} {unit : Nat} {k : Fin 8} {v : Word} : Kept (execUncSet h unit k v s) :=
  .live hs fun _ ht => .next (.uncSetWrite ht)

theorem Kept.uncFreeze (hs : s.sound) {h : HartId} {v : Word} : Kept (execUncFreeze h v s) :=
  .live hs fun _ ht => .next (.uncFreezeWrite ht)

/-! ### The registers of the package -/

theorem State.sound.mbxRead (hs : s.sound) {m o : Nat} : (s.mbxRead m o).2.sound := by
  unfold State.mbxRead
  dsimp only
  refine .ite₂ hs (.ite₂ hs ?_)
  refine .ite₂ hs (.ite₂ hs (.ite₂ hs (.ite₂ hs (.ite₂ hs (.ite₂ (.snd (.slotBytes hs)) (.ite₂ ?_ hs))))))
  split
  · exact hs
  · exact .takeWord hs

theorem Kept.slotStore (hs : s.sound) {m i off : Nat} {v mask : Word} : Kept (s.slotStore m i off v mask) := by
  unfold State.slotStore
  dsimp only
  exact .ite .fault (.next (.setMbx (.slotBytes hs)))

theorem Kept.mbxWrite (hs : s.sound) {m o : Nat} {v mask : Word} : Kept (s.mbxWrite m o v mask) :=
  .ite (.ite (.mbxTail hs) (.next hs)) (.ite (.next (.ite (.mbxHead hs) hs)) (.ite (.next (.setMbx hs)) (.ite (.next (.ite (.setMbx hs)
    hs)) (.ite (.slotStore hs) (.next hs)))))

theorem State.sound.testWrite (hs : s.sound) {o : Nat} {hue : BitVec 12} {v mask : Word} : (s.testWrite o hue v mask).sound :=
  .ite (.ite hs (.ite (.readRawCmd hs) (.ite (.writeRawCmd hs) hs))) (.ite (.setWindow hs) (.ite (.setWindow hs) (.ite (.setWindow hs)
    hs)))

theorem State.sound.wmapWrite (hs : s.sound) {part : Option Nat} {hue : BitVec 12} {off : Nat} {v mask : Word} :
    (s.wmapWrite part hue off v mask).sound :=
  .ite (.ite hs (.ite (.setForget hs) (.ite (.entry1Write hs) (.ite (.setForget hs) (.ite (.setForget hs) (.ite (.setForget hs) hs))))))
    (.ite (.testWrite hs) hs)

theorem State.sound.portalWrite (hs : s.sound) {k o : Nat} {v mask : Word} : (s.portalWrite k o v mask).sound :=
  .ite hs (.ite (.ite (.stage hs) (.ite (.stage hs) (.stage hs))) (.ite (.ite (.releaseTo hs) hs) (.ite (.setSlice hs) (.ite (.ite
    (.abortJobs hs) hs) hs))))

theorem State.sound.timerWrite (hs : s.sound) {part : Option Nat} {off : Nat} {v mask : Word} : (s.timerWrite part off v mask).sound := by
  unfold State.timerWrite
  split
  · exact .setHart hs
  · exact .ite (.ite hs (.ite (.aplicWrite hs) (.ite (.aplicWrite hs) hs))) (.ite (.aplicWrite (.ite hs (.ite (.aplicWrite hs) (.ite
      (.aplicWrite hs) hs)))) (.ite (.aplicWrite (.ite hs (.ite (.aplicWrite hs) (.ite (.aplicWrite hs) hs)))) (.ite hs (.ite (.aplicWrite
      hs) (.ite (.aplicWrite hs) hs)))))

theorem State.sound.regRead (hs : s.sound) {part : Option Nat} {hue : BitVec 12} {off : Nat} : (s.regRead part hue off).2.sound := by
  unfold State.regRead
  refine .ite₂ hs ?_
  refine .ite₂ (.ite₂ (.mbxRead hs) hs) (.ite₂ hs (.ite₂ hs (.ite₂ hs (.ite₂ ?_ (.ite₂ hs (.ite₂ hs hs))))))
  split <;> exact hs

theorem Kept.regWrite (hs : s.sound) {part : Option Nat} {hue : BitVec 12} {off : Nat} {v mask : Word} :
    Kept (s.regWrite part hue off v mask) := by
  unfold State.regWrite
  refine .ite (.next hs) ?_
  refine .ite (.ite (.mbxWrite hs) (.next hs)) (.ite (.next (.wmapWrite hs)) (.ite (.next (.uncWrite hs)) ?_))
  refine .ite ?_ (.ite (.next (.timerWrite hs)) (.ite (.next (.ite (.portalWrite hs) hs)) (.next hs)))
  split
  · exact .next (.setIommu hs)
  · exact .next hs

theorem Kept.controlStore (hs : s.sound) {part : Option Nat} {hue : BitVec 12} {off size : Nat} {v : Word} :
    Kept (s.controlStore part hue off size v) := by
  unfold State.controlStore
  refine .ite ?_ (.regWrite hs)
  split
  · exact .next (.fileWrite hs)
  · exact .next hs

theorem State.sound.ioTell (hs : s.sound) {m : IoMsg} {a : IoAnswer} : (s.ioTell m a).sound := by
  unfold State.ioTell
  split
  · exact .ioSay hs
  · exact .upFab hs

theorem Kept.iord (hs : s.sound) {m : IoMsg} : Kept (execIord m s) := by
  unfold execIord
  dsimp only
  refine .live hs fun _ ht => .ite (.next (.ioTell (.takeWord (.upFab ht)))) ?_
  split
  · refine .ite (.next (.ioTell (.upFab ht))) (.ite ?_ (.next (.ioTell (.regRead (.upFab ht)))))
    split
    · exact .next (.ecam (.upFab ht))
    · exact .next (.ioTell (.upFab ht))
  · exact .next (.pciMemory (.upFab ht))
  · exact .next (.ioTell (.upFab ht))

theorem Kept.iowr (hs : s.sound) {m : IoMsg} : Kept (execIowr m s) := by
  unfold execIowr
  refine .live hs fun _ ht => .ite (.next (.ioTell (.upFab ht))) ?_
  split
  · refine .ite (.next (.ioTell (.upFab ht))) ?_
    split
    · split
      · exact .next (.ecam (.upFab ht))
      · exact .next (.ioTell (.upFab ht))
    · split
      · next e => exact .next (.ioTell (.of_next (.controlStore (.upFab ht)) e))
      · exact .controlStore (.upFab ht)
  · exact .next (.pciMemory (.upFab ht))
  · exact .next (.ioTell (.upFab ht))

theorem Kept.registerWrite (hs : s.sound) {w : RegWrite} : Kept (execRegisterWrite w s) := by
  unfold execRegisterWrite
  split
  · exact .hartWrites hs fun _ _ ht => .next (.run ht)
  · exact .hartDoes hs fun _ _ ht => .ite (.next (.trap ht)) (.ite (.next (.bus0Store (.setHart ht))) (.controlStore (.setHart ht)))

theorem Kept.debugHaltRequest (hs : s.sound) {h : HartId} : Kept (execDebugHaltRequest h s) :=
  .live hs fun _ ht => .ite (.next ht) (.next (.setHart (.stopAt (.meterSend (.setCore (.wakePkg ht))))))

/-! ### Transport and the tick -/

theorem State.sound.putOut (hs : s.sound) {r : RingId} {stop : Nat} {p : Slot} : (s.putOut r stop p).sound := .setStop hs

theorem KeptSome.putCross (hs : s.sound) {r : RingId} {stop sub : Nat} {onto : Bool} {p : Slot} :
    KeptSome (s.putCross r stop sub onto p) := by
  unfold State.putCross
  dsimp only
  split
  · exact .none
  · rintro _ pushed
    obtain ⟨q, -, rfl⟩ := Option.map_eq_some_iff.mp pushed
    exact .setCrossing hs

theorem State.sound.setOut (hs : s.sound) {q : Packet} : (s.setOut q).sound := by
  unfold State.setOut
  dsimp only
  split
  · exact hs
  · split
    · exact hs
    · exact .upFab (.putOut hs)
    · split
      · next e => exact .upFab (.of_some (.putCross hs) e)
      · exact hs

theorem State.sound.launch (hs : s.sound) : s.launch.sound :=
  .foldl (.forEach (.upFab hs) fun _ _ ht => .setStop ht) fun _ _ ht => .setOut ht

theorem State.sound.bridgePut (hs : s.sound) {k : Fin 4} {up : Bool} {p : Slot} : (s.bridgePut k up p).sound := .putOut hs

theorem State.sound.ingressGo (hs : s.sound) {key : Nat} : (s.ingressGo key).sound := by
  unfold State.ingressGo
  dsimp only
  split
  · exact .forEach (.setStop hs) fun _ _ ht => .bridgePut ht
  · refine .ite (.setStop hs) (.forEach (.setStop hs) fun _ _ ht => ?_)
    split
    · exact .setStop ht
    · exact .getD (.putCross ht) (.setStop ht)
  · exact hs

theorem State.sound.crossOut (hs : s.sound) {key : Nat} : (s.crossOut key).sound := by
  unfold State.crossOut
  dsimp only
  split
  · exact hs
  · refine .ite (.ite (.putOut (.setCrossing hs)) (.setCrossing hs)) ?_
    split
    · split
      · exact .setCrossing hs
      · exact .setBundle (.setCrossing hs)
    · split
      · exact .setCrossing hs
      · exact .setBundle (.setCrossing hs)
    · exact .setBundle (.setCrossing hs)
    · exact .setCrossing hs

theorem State.sound.injectDir (hs : s.sound) {r : RingId} {cw : Bool} {n : Nat} : (s.injectDir r cw n).sound := by
  induction n generalizing s with
  | zero => exact hs
  | succ n ih =>
    unfold State.injectDir
    refine .ite (ih hs) ?_
    dsimp only
    split
    · exact ih (.takeNat hs)
    · split
      · exact ih (.takeNat hs)
      · exact ih (.upFab (.setStop (.takeNat hs)))

theorem State.sound.inject (hs : s.sound) {r : RingId} : (s.inject r).sound := by
  unfold State.inject
  dsimp only
  exact .ite hs (.injectDir (.injectDir (.takeNat (.takeNat hs))))

theorem State.sound.transmit (hs : s.sound) {p k : Nat} {hub : Bool} : (s.transmit p k hub).sound := by
  unfold State.transmit
  dsimp only
  refine .ite hs (.ite ?_ (.ite hs (.ite hs (.setBundle hs))))
  split
  · exact hs
  · exact .replayed (.setBundle hs)

theorem State.sound.rerouteGo (hs : s.sound) {p k : Nat} {hub : Bool} : (s.rerouteGo p k hub).sound := by
  unfold State.rerouteGo
  refine .ite hs ?_
  split
  · exact hs
  · exact .setBundle (.setBundle hs)

theorem State.sound.endTick (hs : s.sound) {p k : Nat} {hub : Bool} : (s.endTick p k hub).sound :=
  .foldl (.rerouteGo (.ite (.bufferDrain (.ite hs (.setBundle hs))) (.ite hs (.setBundle hs)))) fun _ _ ht => .transmit ht

theorem State.sound.linkTick (hs : s.sound) : s.linkTick.sound := .forEach hs fun _ _ ht => .endTick (.endTick ht)

theorem State.sound.transport (hs : s.sound) : s.transport.sound :=
  .linkTick (.forEach (.forEach (.forEach (.forEach (.launch hs) fun _ _ ht => .ingressGo ht) fun _ _ ht => .crossRun ht) fun _ _ ht =>
    .crossOut ht) fun _ _ ht => .inject ht)

theorem State.sound.tick (hs : s.sound) : s.tick.sound := .ite (.ite (.transport (.aplicSync (.frame hs))) (.aplicSync (.frame hs))) hs

/-! ### Every command, and every step -/

/-- Whatever command is executed, it keeps the invariant: each row's own lemma, row by row of the table. -/
theorem exec_kept (hs : s.sound) : ∀ i, Kept (exec i s)
  | .load .. => .load hs
  | .store .. => .store hs
  | .amo .. => .amo hs
  | .lr .. => .lr hs
  | .sc .. => .sc hs
  | .lrReservationDelayExpiry .. => .lrReservationDelayExpiry hs
  | .fence .. => .fence hs
  | .fenceI .. => .fenceI hs
  | .sfenceVma .. => .sfenceVma hs
  | .hfenceVvma .. => .hfenceVvma hs
  | .hfenceGvma .. => .hfenceGvma hs
  | .sinvalVma .. => .sinvalVma hs
  | .sfenceWInval .. => .sfenceWInval hs
  | .sfenceInvalIr .. => .sfenceInvalIr hs
  | .cboClean .. => .cboClean hs
  | .cboFlush .. => .cboFlush hs
  | .cboInval .. => .cboInval hs
  | .cboZero .. => .cboZero hs
  | .prefetchR .. => .prefetchR hs
  | .prefetchW .. => .prefetchW hs
  | .prefetchI .. => .prefetchI hs
  | .wfi .. => .wfi hs
  | .branchMispredict .. => .branchMispredict hs
  | .cqzhueWrite .. => .cqzhueWrite hs
  | .cqzbpctlOffWrite .. => .cqzbpctlOffWrite hs
  | .flush .. => .flush hs
  | .predictorClearingDone .. => .predictorClearingDone hs
  | .flushL1i .. => .flushL1i hs
  | .flushL1d .. => .flushL1d hs
  | .flushL2 .. => .flushL2 hs
  | .cacheFlushDone .. => .cacheFlushDone hs
  | .registerWrite .. => .registerWrite hs
  | .walkRead .. => .walkRead hs
  | .missRegisterFreed _ line => .missRegisterFreed (_line := line) hs
  | .l3WayFreed .. => .l3WayFreed hs
  | .mtimecmpMatch .. => .mtimecmpMatch hs
  | .rds .. => .rds hs
  | .rdo .. => .rdo hs
  | .upg .. => .upg hs
  | .claimz .. => .claimz hs
  | .cmoclean .. => .cmoclean hs
  | .cmoflush .. => .cmoflush hs
  | .cmoinval .. => .cmoinval hs
  | .rdonce .. => .rdonce hs
  | .wrfull .. => .wrfull hs
  | .wrpart .. => .wrpart hs
  | .atomio .. => .atomio hs
  | .rdns .. => .rdns hs
  | .wrns .. => .wrns hs
  | .wbdata .. => .wbdata hs
  | .requestBegin .. => .requestBegin hs
  | .directoryScrub .. => .directoryScrub hs
  | .fwds .. => .fwds hs
  | .fwdo .. => .fwdo hs
  | .fwdsnap .. => .fwdsnap hs
  | .fwdclean .. => .fwdclean hs
  | .inv .. => .inv hs
  | .recall .. => .recall hs
  | .recalldiscard .. => .recalldiscard hs
  | .setrecall .. => .setrecall hs
  | .fwdack .. => .fwdack hs
  | .fwdackdata .. => .fwdackdata hs
  | .invack .. => .invack hs
  | .recallack .. => .recallack hs
  | .recallackdata .. => .recallackdata hs
  | .setrecallack .. => .setrecallack hs
  | .compack .. => .compack hs
  | .data .. => .data hs
  | .dataonce .. => .dataonce hs
  | .grant .. => .grant hs
  | .wback .. => .wback hs
  | .cmodone .. => .cmodone hs
  | .wrdone .. => .wrdone hs
  | .error .. => .error hs
  | .fwdTmoExpiry .. => .fwdTmoExpiry hs
  | .reqTmoExpiry .. => .reqTmoExpiry hs
  | .ioTmoExpiry .. => .ioTmoExpiry hs
  | .iord .. => .iord hs
  | .iowr .. => .iowr hs
  | .msiwr .. => .msiwr hs
  | .iorddata .. => .iorddata hs
  | .iowrack .. => .iowrack hs
  | .ringPacketArrival .. => .ringPacketArrival hs
  | .injectionWaitTag .. => .injectionWaitTag hs
  | .ident .. => .ident hs
  | .lanes .. => .lanes hs
  | .handover .. => .handover hs
  | .retrain .. => .retrain hs
  | .ack .. => .ack hs
  | .sidebandResend .. => .sidebandResend hs
  | .dataFlit .. => .dataFlit hs
  | .controlFlit .. => .controlFlit hs
  | .maintFlit .. => .maintFlit hs
  | .nak .. => .nak hs
  | .maintSlot .. => .maintSlot hs
  | .crcThreshWindow .. => .crcThreshWindow hs
  | .fieldRetrain .. => .fieldRetrain hs
  | .coldTraining .. => .coldTraining hs
  | .trainingStepComplete .. => .trainingStepComplete hs
  | .trainingStepTimeout .. => .trainingStepTimeout hs
  | .cfgPrepare .. => .cfgPrepare hs
  | .cfgAck .. => .cfgAck hs
  | .cfgFlip .. => .cfgFlip hs
  | .cfgDiscardFrame .. => .cfgDiscardFrame hs
  | .cfgLoad .. => .cfgLoad hs
  | .lotBoundary => .lotBoundary hs
  | .cfgAckTimeout .. => .cfgAckTimeout hs
  | .shadowCopyTimeout .. => .shadowCopyTimeout hs
  | .censusReq .. => .censusReq hs
  | .censusRpt .. => .censusRpt hs
  | .censusPart .. => .censusPart hs
  | .censusEntry .. => .censusEntry hs
  | .censusRound => .censusRound hs
  | .memberCensusReport .. => .memberCensusReport hs
  | .pmSet .. => .pmSet hs
  | .pmRptTimer .. => .pmRptTimer hs
  | .pmRpt .. => .pmRpt hs
  | .hartCtlHold .. => .hartCtlHold hs
  | .hartCtlReleaseParked .. => .hartCtlReleaseParked hs
  | .hartCtlReleaseRunning .. => .hartCtlReleaseRunning hs
  | .hartCtlStop .. => .hartCtlStop hs
  | .hartCtlResume .. => .hartCtlResume hs
  | .hartRpt .. => .hartRpt hs
  | .hbmLineRead .. => .hbmLineRead hs
  | .hbmLineWrite .. => .hbmLineWrite hs
  | .hbmReadData .. => .hbmReadData hs
  | .zeroFillDone .. => .zeroFillDone hs
  | .hbmParityAlert .. => .hbmParityAlert hs
  | .hbmReadTimeout .. => .hbmReadTimeout hs
  | .hbmTemperatureReport .. => .hbmTemperatureReport hs
  | .correctionEvent _ symbol => .correctionEvent (_symbol := symbol) hs
  | .patrolStep .. => .patrolStep hs
  | .readRaw .. => .readRaw hs
  | .writeRaw .. => .writeRaw hs
  | .rawCommandDone => .rawCommandDone hs
  | .wmapForgetEntry1 .. => .wmapForgetEntry1 hs
  | .forgetSweep .. => .forgetSweep hs
  | .forgetComplete .. => .forgetComplete hs
  | .hbmRound .. => .hbmRound hs
  | .hueQuery .. => .hueQuery hs
  | .hueAlloc .. => .hueAlloc hs
  | .hueStart .. => .hueStart hs
  | .hueSetClass .. => .hueSetClass hs
  | .hueDmaBind .. => .hueDmaBind hs
  | .hueDmaUnbind .. => .hueDmaUnbind hs
  | .hueGfileAssign .. => .hueGfileAssign hs
  | .hueGfileRelease .. => .hueGfileRelease hs
  | .hueReset .. => .hueReset hs
  | .hueDrainComplete .. => .hueDrainComplete hs
  | .drainTmoExpiry .. => .drainTmoExpiry hs
  | .hueSquashComplete .. => .hueSquashComplete hs
  | .hueResetDone .. => .hueResetDone hs
  | .inboundMemoryRequest .. => .inboundMemoryRequest hs
  | .meterAccumulatorSend .. => .meterAccumulatorSend hs
  | .l3OccSample .. => .l3OccSample hs
  | .energyEstimate => .energyEstimate hs
  | .minuteBoundary => .minuteBoundary hs
  | .ledgerCompaction => .ledgerCompaction hs
  | .pwrfailN => .pwrfailN hs
  | .pwrwarnClose => .pwrwarnClose hs
  | .pwrfailNDeassert => .pwrfailNDeassert hs
  | .mtrStatus .. => .mtrStatus hs
  | .mtrRead .. => .mtrRead hs
  | .mtrAck .. => .mtrAck hs
  | .slcDesc7 .. => .slcDesc7 hs
  | .slcCqHead .. => .slcCqHead hs
  | .abort .. => .abort hs
  | .ceSliceBind .. => .ceSliceBind hs
  | .ceSliceUnbind .. => .ceSliceUnbind hs
  | .ceSliceQuery .. => .ceSliceQuery hs
  | .jobSelection .. => .jobSelection hs
  | .agePromotion .. => .agePromotion hs
  | .blockBoundary .. => .blockBoundary hs
  | .completionRecord .. => .completionRecord hs
  | .tlpCompletion .. => .tlpCompletion hs
  | .completionTimeout .. => .completionTimeout hs
  | .chainScan .. => .chainScan hs
  | .slotControlWrite .. => .slotControlWrite hs
  | .perstRelease .. => .perstRelease hs
  | .pwrGoodTimeout .. => .pwrGoodTimeout hs
  | .linkUp .. => .linkUp hs
  | .surpriseRemoval .. => .surpriseRemoval hs
  | .cxlViral .. => .cxlViral hs
  | .cxlMemReadTimeout .. => .cxlMemReadTimeout hs
  | .rdshared .. => .rdshared hs
  | .rdown .. => .rdown hs
  | .rdcurr .. => .rdcurr hs
  | .dirtyevict .. => .dirtyevict hs
  | .cleanevict .. => .cleanevict hs
  | .itomwr .. => .itomwr hs
  | .clflush .. => .clflush hs
  | .snoopResponse .. => .snoopResponse hs
  | .cxlWritebackTimeout .. => .cxlWritebackTimeout hs
  | .mbxCmdTail .. => .mbxCmdTail hs
  | .commandAccept .. => .commandAccept hs
  | .mbxRspHead .. => .mbxRspHead hs
  | .eventDelivery .. => .eventDelivery hs
  | .bmcMessage .. => .bmcMessage hs
  | .setEndpointId .. => .setEndpointId hs
  | .getEndpointId => .getEndpointId hs
  | .getMctpVersionSupport .. => .getMctpVersionSupport hs
  | .getMessageTypeSupport => .getMessageTypeSupport hs
  | .setdasa .. => .setdasa hs
  | .entdaa .. => .entdaa hs
  | .lockstepMismatch => .lockstepMismatch hs
  | .mordantRestartComplete => .mordantRestartComplete hs
  | .hello .. => .hello hs
  | .bye .. => .bye hs
  | .echo .. => .echo hs
  | .evtSubscribe .. => .evtSubscribe hs
  | .fwInfo .. => .fwInfo hs
  | .pdrRead .. => .pdrRead hs
  | .cfgRead .. => .cfgRead hs
  | .cfgWrite .. => .cfgWrite hs
  | .cfgCommit .. => .cfgCommit hs
  | .cfgDiscard .. => .cfgDiscard hs
  | .cfgStatus .. => .cfgStatus hs
  | .cfgDump .. => .cfgDump hs
  | .configStoreCompaction .. => .configStoreCompaction hs
  | .censusRun .. => .censusRun hs
  | .censusStatus .. => .censusStatus hs
  | .censusBisect .. => .censusBisect hs
  | .pmQuery .. => .pmQuery hs
  | .pmSetLimit .. => .pmSetLimit hs
  | .pmCoreState .. => .pmCoreState hs
  | .pmPkgState .. => .pmPkgState hs
  | .svcStatus .. => .svcStatus hs
  | .svcCoreSpare .. => .svcCoreSpare hs
  | .svcDieEvacuate .. => .svcDieEvacuate hs
  | .svcDieReadmit .. => .svcDieReadmit hs
  | .svcFwStage .. => .svcFwStage hs
  | .svcFwActivate .. => .svcFwActivate hs
  | .memTestArm .. => .memTestArm hs
  | .memTestDisarm .. => .memTestDisarm hs
  | .memRepairList .. => .memRepairList hs
  | .memPcStatus .. => .memPcStatus hs
  | .weldStatus .. => .weldStatus hs
  | .weldRetrain .. => .weldRetrain hs
  | .weldCapClear .. => .weldCapClear hs
  | .slotStatus .. => .slotStatus hs
  | .slotUnfence .. => .slotUnfence hs
  | .cascStatus .. => .cascStatus hs
  | .cascHandoff .. => .cascHandoff hs
  | .errRead .. => .errRead hs
  | .errAck .. => .errAck hs
  | .pkgResetCold .. => .pkgResetCold hs
  | .pkgResetWarm .. => .pkgResetWarm hs
  | .partReset .. => .partReset hs
  | .partitionDrainComplete .. => .partitionDrainComplete hs
  | .pwrgoodRise .. => .pwrgoodRise hs
  | .pwrgoodLow => .pwrgoodLow hs
  | .resetNLow => .resetNLow hs
  | .resetNRise .. => .resetNRise hs
  | .startStepComplete .. => .startStepComplete hs
  | .cascadeAdmissionTimeout => .cascadeAdmissionTimeout hs
  | .hartReset .. => .hartReset hs
  | .serviceStepComplete => .serviceStepComplete hs
  | .fwHandoverWindow => .fwHandoverWindow hs
  | .fwHandoverComplete .. => .fwHandoverComplete hs
  | .avsStatusPoll .. => .avsStatusPoll hs
  | .avsAckTimeout .. => .avsAckTimeout hs
  | .heldRetry .. => .heldRetry hs
  | .currentRead .. => .currentRead hs
  | .powerControlStep .. => .powerControlStep hs
  | .coreIdleEntry .. => .coreIdleEntry hs
  | .coreWake .. => .coreWake hs
  | .pkgStateEntry => .pkgStateEntry hs
  | .domainWake .. => .domainWake hs
  | .domainSleep .. => .domainSleep hs
  | .pllLockLoss .. => .pllLockLoss hs
  | .pllRelock .. => .pllRelock hs
  | .refclkLoss => .refclkLoss hs
  | .temperatureRead .. => .temperatureRead hs
  | .throttleStep => .throttleStep hs
  | .hotN .. => .hotN hs
  | .cascadeIdentity .. => .cascadeIdentity hs
  | .admissionClose .. => .admissionClose hs
  | .timeAlign .. => .timeAlign hs
  | .proxyProbeTimeout .. => .proxyProbeTimeout hs
  | .masterUnreachable => .masterUnreachable hs
  | .cascHandoffTimeout => .cascHandoffTimeout hs
  | .uncSet .. => .uncSet hs
  | .uncFreeze .. => .uncFreeze hs
  | .logRecordCommit => .logRecordCommit hs
  | .railUndervoltage .. => .railUndervoltage hs
  | .railOvervoltage .. => .railOvervoltage hs
  | .instructionFetch .. => .instructionFetch hs
  | .intxMessage .. => .intxMessage hs
  | .cxlMemResponse .. => .cxlMemResponse hs
  | .debugHaltRequest .. => .debugHaltRequest hs
  | .catastrophicTemperature stack => .catastrophicTemperature (_stack := stack) hs

/-- A step executes the command at the front of the queue, or advances the time base. -/
theorem step_kept (hs : s.sound) : Kept (step s) := by
  unfold step
  split
  · exact .next (.tick hs)
  · next i _ _ => exact exec_kept (.frame hs) i

/-- Settles O56: each row of the machine keeps the invariant, and so does the tick. -/
theorem soundThroughEveryStep : Obligations.SoundThroughEveryStep := fun _ t hs e => step_kept hs t e

/-- Settles O55: memory starts with no byte stored, and the log with no event. -/
theorem soundAtReset : Obligations.SoundAtReset := ⟨rfl, Nat.zero_le _⟩

end Sys2Proof.Machine
end

section
/-! What a line of the stacks reads as after each operation on the stored bytes (R232, R235, R248, R255). -/

namespace Sys2Proof.Machine

/-! ### Lines and granules (R230) -/

/-- The stored bytes of a line of a granule that holds nothing. -/
def zeroWord (line : Nat) : Bytes × Bytes := (zeroLine, checkBytes (codeAddr line) zeroLine false)

theorem mem_granuleLines {p g line : Nat} :
    line ∈ granuleLines p g ↔ p * 2 ^ 44 + 2 ^ 25 + g * 64 ≤ line ∧ line < p * 2 ^ 44 + 2 ^ 25 + g * 64 + 64 := by
  have first : (p * 2 ^ 50 + 0x80000000 + g * 4096) / 64 = p * 2 ^ 44 + 2 ^ 25 + g * 64 := by omega
  simp only [granuleLines, first, List.mem_map, List.mem_range]
  exact ⟨by omega, fun ⟨lo, hi⟩ => ⟨line - (p * 2 ^ 44 + 2 ^ 25 + g * 64), by omega, by omega⟩⟩

theorem headD_granuleLines (p g : Nat) : (granuleLines p g).headD 0 = p * 2 ^ 44 + 2 ^ 25 + g * 64 := by
  have first : (p * 2 ^ 50 + 0x80000000 + g * 4096) / 64 = p * 2 ^ 44 + 2 ^ 25 + g * 64 := by omega
  simp only [granuleLines, first, List.headD_eq_head?_getD, List.head?_map, List.head?_range]
  generalize p * 2 ^ 44 + 2 ^ 25 + g * 64 = lo
  rfl

/-! ### The check bytes -/

theorem checkStep_length {r : List Nat} (h : r.length = 8) (m : Nat) : (checkStep r m).length = 8 := by
  simp [checkStep, genPoly, h]

@[simp] theorem checkBytes_length (line : Nat) (data : Bytes) (poison : Bool) : (checkBytes line data poison).length = 8 := by
  rw [checkBytes, List.length_map]
  exact foldl_keeps (fun r : List Nat => r.length = 8) _ _ (fun r m _ h => checkStep_length h m) _ rfl

/-! ### Parts of a table -/

/-- A table of which only the keys that pass are kept. -/
theorem Table.find_filter {α : Type} (t : Table α) (p : Nat → Bool) (k : Nat) :
    Table.find (t.filter fun c => p c.1) k = if p k then Table.find t k else none := by
  induction t with
  | nil => simp [Table.find]
  | cons e t ih =>
    obtain ⟨a, v⟩ := e
    by_cases ha : p a <;> by_cases hk : k = a <;> simp_all [Table.find]

theorem Table.get_filter {α : Type} (d : α) (t : Table α) (p : Nat → Bool) (k : Nat) :
    Table.get d (t.filter fun c => p c.1) k = if p k then Table.get d t k else d := by
  rw [Table.get, Table.find_filter]
  split <;> rfl

/-! ### Reads of a line -/

theorem storedLine_check (s : State) (line : Nat) :
    (s.storedLine line).2 = (List.range 8).map fun i => Table.get (checkDefault (line * 8 + i)) s.mem.check (line * 8 + i) := by
  refine List.map_congr_left fun i hi => ?_
  rw [checkDefault_at line i (List.mem_range.1 hi)]

theorem storedLine_congr {s t : State} (data : t.mem.data = s.mem.data) (check : t.mem.check = s.mem.check) (line : Nat) :
    t.storedLine line = s.storedLine line :=
  Prod.ext (by rw [storedLine_data, storedLine_data, data]) (by rw [storedLine_check, storedLine_check, check])

/-- A line reads as another state's does where its 64 data cells and its eight check cells do. -/
theorem storedLine_of_cells {s t : State} {line : Nat}
    (data : ∀ i < 64, Table.get 0 t.mem.data (line * 64 + i) = Table.get 0 s.mem.data (line * 64 + i))
    (check : ∀ d, ∀ i < 8, Table.get d t.mem.check (line * 8 + i) = Table.get d s.mem.check (line * 8 + i)) :
    t.storedLine line = s.storedLine line := by
  refine Prod.ext ?_ ?_
  · rw [storedLine_data, storedLine_data]
    exact List.map_congr_left fun i hi => data i (List.mem_range.1 hi)
  · rw [storedLine_check, storedLine_check]
    exact List.map_congr_left fun i hi => check _ i (List.mem_range.1 hi)

/-- A line of which no cell is listed reads as the zero codeword. -/
theorem storedLine_of_default {s : State} {line : Nat} (data : ∀ i < 64, Table.get 0 s.mem.data (line * 64 + i) = 0)
    (check : ∀ d, ∀ i < 8, Table.get d s.mem.check (line * 8 + i) = d) : s.storedLine line = zeroWord line := by
  refine Prod.ext ?_ ?_
  · rw [storedLine_data, zeroWord, zeroLine, List.eq_replicate_iff]
    refine ⟨by rw [List.length_map, List.length_range], fun b hb => ?_⟩
    obtain ⟨i, hi, rfl⟩ := List.mem_map.1 hb
    exact data i (List.mem_range.1 hi)
  · rw [storedLine_check]
    refine List.ext_getElem (by simp [zeroWord]) fun i hi _ => ?_
    have small : i < 8 := by simpa using hi
    simp only [List.getElem_map, List.getElem_range, check _ i small, checkDefault_at line i small, zeroWord]
    exact List.getD_eq_getElem _ _ (by simpa using small)

/-! ### A stored line -/

theorem get_storeRaw_check (s : State) (line : Nat) (data check : Bytes) (k : Nat) :
    Table.get (checkDefault k) (s.storeRaw line data check).mem.check k =
      if line * 8 ≤ k ∧ k < line * 8 + 8 then check.getD (k - line * 8) 0 else Table.get (checkDefault k) s.mem.check k := by
  have puts : (s.storeRaw line data check).mem.check =
      (List.range 8).foldl (fun t i => Table.put (checkDefault (line * 8 + i)) t (line * 8 + i) (check.getD i 0)) s.mem.check := by
    have e := checkDefault_at line
    rw [storeRaw_mem]
    generalize checkBytes (codeAddr line) zeroLine false = z at e ⊢
    refine List.foldl_ext _ _ _ fun t i hi => ?_
    rw [e i (List.mem_range.1 hi)]
  rw [puts, get_foldl_put checkDefault (fun i => check.getD i 0) (line * 8) 8 s.mem.check k _ rfl]

/-- A stored line reads back whole, data and check bytes. -/
theorem storedLine_storeRaw_same (s : State) (line : Nat) {data check : Bytes} (hd : data.length = 64) (hc : check.length = 8) :
    (s.storeRaw line data check).storedLine line = (data, check) := by
  refine Prod.ext (storedLine_storeRaw s line data check hd) ?_
  rw [storedLine_check]
  refine List.ext_getElem (by simp [hc]) fun i hi h2 => ?_
  have small : i < 8 := by simpa using hi
  simp only [List.getElem_map, List.getElem_range]
  rw [get_storeRaw_check, if_pos (by omega), Nat.add_sub_cancel_left]
  exact List.getD_eq_getElem _ _ h2

/-- Storing a line leaves every other line whole. -/
theorem storedLine_storeRaw_other (s : State) {line other : Nat} (data check : Bytes) (h : other ≠ line) :
    (s.storeRaw line data check).storedLine other = s.storedLine other := by
  refine Prod.ext (storedLine_storeRaw_of_ne s line other data check h) ?_
  rw [storedLine_check, storedLine_check]
  refine List.map_congr_left fun i hi => ?_
  have := List.mem_range.1 hi
  rw [get_storeRaw_check, if_neg (by omega)]

/-! ### A granule wiped, and a range of the map cleared -/

/-- Without the cells of a range of lines, a line of the range reads as zeros and any other as before. -/
theorem storedLine_dropRange {s t : State} {lo hi : Nat}
    (data : t.mem.data = s.mem.data.filter fun c => !(lo * 64 ≤ c.1 && c.1 < hi * 64))
    (check : t.mem.check = s.mem.check.filter fun c => !(lo * 8 ≤ c.1 && c.1 < hi * 8)) (line : Nat) :
    t.storedLine line = if lo ≤ line ∧ line < hi then zeroWord line else s.storedLine line := by
  have dataAt (i : Nat) := Table.get_filter 0 s.mem.data (fun k => !(lo * 64 ≤ k && k < hi * 64)) (line * 64 + i)
  have checkAt (d : Byte) (i : Nat) := Table.get_filter d s.mem.check (fun k => !(lo * 8 ≤ k && k < hi * 8)) (line * 8 + i)
  split
  · refine storedLine_of_default (fun i small => ?_) fun d i small => ?_
    · rw [data, dataAt, if_neg (by simp; omega)]
    · rw [check, checkAt, if_neg (by simp; omega)]
  · refine storedLine_of_cells (fun i small => ?_) fun d i small => ?_
    · rw [data, dataAt, if_pos (by simp; omega)]
    · rw [check, checkAt, if_pos (by simp; omega)]

theorem storedLine_wipeGranule (s : State) (g line : Nat) :
    (s.wipeGranule g).storedLine line = if line ∈ granuleLines s.pkgIx g then zeroWord line else s.storedLine line := by
  simp only [mem_granuleLines]
  refine storedLine_dropRange ?_ ?_ line
  · rw [← headD_granuleLines]; rfl
  · rw [← headD_granuleLines]; rfl

theorem storedLine_clearMap (s : State) (e : ForgetEntry) (line : Nat) :
    (s.clearMap e).storedLine line =
      if s.pkgIx * 2 ^ 44 + 2 ^ 25 + e.start * 64 ≤ line ∧ line < s.pkgIx * 2 ^ 44 + 2 ^ 25 + (e.start + e.count) * 64 then
        zeroWord line
      else s.storedLine line := by
  refine storedLine_dropRange ?_ ?_ line
  · rw [show (s.pkgIx * 2 ^ 44 + 2 ^ 25 + e.start * 64) * 64 = 0x80000000 + s.pkgIx * 2 ^ 50 + e.start * 4096 by omega,
      show (s.pkgIx * 2 ^ 44 + 2 ^ 25 + (e.start + e.count) * 64) * 64 =
        0x80000000 + s.pkgIx * 2 ^ 50 + e.start * 4096 + e.count * 4096 by omega]
    rfl
  · rw [show (s.pkgIx * 2 ^ 44 + 2 ^ 25 + e.start * 64) * 8 = (0x80000000 + s.pkgIx * 2 ^ 50 + e.start * 4096) / 8 by omega,
      show (s.pkgIx * 2 ^ 44 + 2 ^ 25 + (e.start + e.count) * 64) * 8 =
        (0x80000000 + s.pkgIx * 2 ^ 50 + e.start * 4096 + e.count * 4096) / 8 by omega]
    rfl

theorem granule_clearMap (s : State) (e : ForgetEntry) (g : Nat) :
    (s.clearMap e).granule g = if e.start ≤ g ∧ g < e.start + e.count then .clear else s.granule g := by
  rw [State.granule, State.clearMap, State.upMem, Table.get_filter _ _ fun g => !(e.start ≤ g && g < e.start + e.count)]
  split <;> split <;> simp_all [State.granule]

end Sys2Proof.Machine
end

section
/-! What the commands of the stacks leave alone beside memory and the messages, and the answer of a no-snoop request (R168, R234). -/

namespace Sys2Proof.Machine

/-- A command that runs while the clocks run completes in the state that it makes. -/
theorem completes_of_live {c : Instr} {s : State} {f : State → State} {P : State → Prop} (hl : s.clocked = true)
    (runs : exec c s = live s fun s => .next (f s)) (h : P (f s)) : Completes c s P :=
  ⟨f s, runs.trans (live_of_clocked hl _), h⟩

/-! ### Records, charges, counts and free choices -/

/-- From `s` to `t` memory and the fabric are as they were. -/
structure State.Aside (s t : State) : Prop where
  mem : t.mem = s.mem
  fab : t.fab = s.fab

namespace State.Aside

variable {s t u : State}

theorem refl (s : State) : s.Aside s := ⟨rfl, rfl⟩

theorem trans (a : s.Aside t) (b : t.Aside u) : s.Aside u := ⟨b.mem.trans a.mem, b.fab.trans a.fab⟩

theorem logE (cls : ErrClass) (src : ErrSource) (why : ErrReason) (unit addr : Nat) (hue : BitVec 12) (info aux : Nat)
    (trap fence : Bool) : s.Aside (s.logE cls src why unit addr hue info aux trap fence) := ⟨rfl, rfl⟩

theorem charge (hue : BitVec 12) (n k : Nat) (part : Option Nat) : s.Aside (s.charge hue n k part) := by
  unfold State.charge
  split
  · exact ⟨rfl, rfl⟩
  · exact ⟨rfl, rfl⟩

theorem uncount (unit code k : Nat) (hue : BitVec 12) (cls : BitVec 3) (filtered : Bool) :
    s.Aside (s.uncount unit code k hue cls filtered) := by
  unfold State.uncount
  split
  · exact ⟨rfl, rfl⟩
  · exact ⟨rfl, rfl⟩

theorem reportRead (line : Nat) (c : ReadClass) (hue : BitVec 12) : s.Aside (s.reportRead line c hue) := by
  cases c <;> exact ⟨rfl, rfl⟩

theorem readStored (line source : Nat) (errs : List (Nat × Byte)) : s.Aside (s.readStored line source errs).2.2 := by
  unfold State.readStored
  dsimp only
  split
  · split
    · exact ⟨rfl, rfl⟩
    · exact ⟨rfl, rfl⟩
  · exact ⟨rfl, rfl⟩

theorem forEach {α : Type} {f : State → α → State} (hf : ∀ (t : State) (a : α), t.Aside (f t a)) (l : List α) : s.Aside (s.forEach l f) :=
  State.forEach_keeps s.Aside (fun t a _ h => h.trans (hf t a)) (refl s)

theorem granule (a : s.Aside t) (g : Nat) : t.granule g = s.granule g := by rw [State.granule, a.mem, State.granule]

theorem slotsUsed (a : s.Aside t) (k : Nat) : t.slotsUsed k = s.slotsUsed k := by rw [State.slotsUsed, a.mem, State.slotsUsed]

theorem channel (a : s.Aside t) (k : Nat) : t.channel k = s.channel k := by rw [State.channel, a.mem, State.channel]

theorem home (a : s.Aside t) (k : Nat) : t.home k = s.home k := by rw [State.home, a.fab, State.home]

theorem storedLine (a : s.Aside t) (line : Nat) : t.storedLine line = s.storedLine line :=
  storedLine_congr (congrArg Memory.data a.mem) (congrArg Memory.check a.mem) line

end State.Aside

/-- A charge to an interval and a count at a channel stop, which follow each other wherever a stack is used. -/
theorem State.Aside.used {s : State} (hue : BitVec 12) (n k unit code : Nat) (part : Option Nat) (cls : BitVec 3) :
    s.Aside ((s.charge hue n k part).uncount unit code 1 hue cls) :=
  (State.Aside.charge hue n k part).trans (.uncount unit code 1 hue cls true)

/-! ### The answer of a no-snoop request (R168) -/

/-- The message that ends a no-snoop request. -/
def noSnoopAnswer (m : Msg) (d : Bytes × Bool) : Msg :=
  let a : Msg := { op := .wrDone, line := m.line, src := 32 + lineSlice m.line, dst := m.req, req := m.req, txid := m.txid,
                   hue := m.hue, cls := m.cls }
  if m.op = .rdNS then { a with op := .dataOnce, data := d.1, poison := d.2 } else a

theorem homeUnhold_of_nothingHeld {s : State} {line : Nat} (h : nothingHeld s line) :
    s.homeUnhold (lineSlice line) = s := by
  obtain ⟨held, wbHeld⟩ := h
  simp [State.homeUnhold, held, wbHeld]

/-- Memory's answer to the only no-snoop request that waits ends it; with nothing held back at the home slice, nothing else
moves. -/
theorem memAnswer_noSnoop {s : State} {r : MemReq} {m : Msg} (client : r.client = .noSnoop m.txid) (line : m.line = r.line)
    (waits : s.mem.noSnoop = [m]) (op : m.op = .rdNS ∨ r.write = true) (held : nothingHeld s m.line) (d : Bytes × Bool) :
    s.memAnswer r d = (s.upMem fun x => { x with noSnoop := [] }).send (noSnoopAnswer m d) := by
  have found : (s.mem.noSnoop.find? fun q => q.txid = m.txid && q.line = r.line) = some m := by simp [waits, line]
  have whole : (decide (m.op = .wrNS) && !r.write) = false := by
    rcases op with op | op
    · simp [op]
    · simp [op]
  have ended : (s.upMem fun x => { x with noSnoop := x.noSnoop.erase m }) = s.upMem fun x => { x with noSnoop := [] } := by
    simp [State.upMem, waits]
  simp only [State.memAnswer, client, found, whole, ended, Bool.false_eq_true, if_false]
  split
  · next read =>
    rw [noSnoopAnswer, if_pos read]
    exact homeUnhold_of_nothingHeld held
  · next read =>
    rw [noSnoopAnswer, if_neg read]
    exact homeUnhold_of_nothingHeld held

theorem readAnswered_of_send {s t : State} {m : Msg} {d : Bytes × Bool} {P : Bytes → Bool → Prop} (op : m.op = .rdNS)
    (net : t.fab.net = s.fab.net ++ [noSnoopAnswer m d]) (h : P d.1 d.2) : readAnswered s t m P := by
  refine ⟨noSnoopAnswer m d, net, ?_⟩
  rw [noSnoopAnswer, if_pos op]
  exact ⟨rfl, rfl, rfl, rfl, h⟩

end Sys2Proof.Machine
end

section
/-! Line reads at the channel stops (R233, R234, R248, R258). -/

namespace Sys2Proof.Machine

/-- The request has left those on their way. -/
def State.taken (s : State) (r : MemReq) : State := s.upMem fun m => { m with reqs := m.reqs.erase r }

/-- A waiting request of this package's stacks is served: a read of a clear granule at once, any other as the class rules let it
go (R248, R269). -/
theorem hbmTake_serves {s : State} {r : MemReq} (waits : r ∈ s.mem.reqs) (here : s.region none (r.line * 64) = .hbm)
    (good : s.mapErr (granuleOf r.line / 64) = 0)
    (goes : (r.write = false ∧ s.granule (granuleOf r.line) = .clear ∧ s.filling (granuleOf r.line) = false) ∨
      s.nextFor (hbmLoc r.line).unit = some r) :
    s.hbmTake r =
      if s.filling (granuleOf r.line) then (s.taken r).waitFill (granuleOf r.line) r
      else if !r.write then (s.taken r).hbmRead r
      else if s.granule (granuleOf r.line) = .clear then (s.taken r).startFill (granuleOf r.line) r
      else (s.taken r).hbmWrite r := by
  have known : (s.taken r).readMap (granuleOf r.line) = s.taken r := by
    have good' : (s.taken r).mapErr (granuleOf r.line / 64) = 0 := good
    rw [State.readMap, good']
    rfl
  have served : s.hbmTake r = s.hbmServe r := by
    unfold State.hbmTake
    rw [if_neg (by simp [waits, here]), if_pos]
    rcases goes with ⟨read, clear, idle⟩ | next
    · simp [read, clear, idle, good]
    · simp [next]
  rw [served, State.hbmServe, show (s.upMem fun m => { m with reqs := m.reqs.erase r }) = s.taken r from rfl, known]
  rfl

section
variable {r : MemReq} {m : Msg} {s : State} (hl : s.clocked = true) (write : r.write = false) (client : r.client = .noSnoop m.txid)
  (op : m.op = .rdNS) (line : m.line = r.line) (waits : s.mem.noSnoop = [m]) (held : nothingHeld s m.line)
include client op line

/-- The answer to a read, after steps that leave the fabric and the no-snoop requests as they are. -/
theorem memAnswer_read {u : State} (d : Bytes × Bool) (waits : u.mem.noSnoop = [m]) (fab : u.fab = s.fab) (held : nothingHeld s m.line)
    {P : Bytes → Bool → Prop} (h : P d.1 d.2) :
    readAnswered s (u.memAnswer r d) m P ∧ (u.memAnswer r d).mem = { u.mem with noSnoop := [] } := by
  have held' : nothingHeld u m.line := by rwa [nothingHeld, State.home, fab, ← State.home]
  rw [memAnswer_noSnoop client line waits (.inl op) held']
  refine ⟨readAnswered_of_send (d := d) op ?_ h, rfl⟩
  rw [← fab]
  rfl

theorem poisonAnswer_read {u : State} (waits : u.mem.noSnoop = [m]) (fab : u.fab = s.fab) (held : nothingHeld s m.line) :
    readAnswered s (u.poisonAnswer r) m (fun _ p => p = true) ∧ (u.poisonAnswer r).mem = { u.mem with noSnoop := [] } :=
  memAnswer_read (u := (u.takeBytes 64).2) client op line ((u.takeBytes 64).1, true) waits fab held rfl

include hl write waits held

theorem hbmLineRead_clear (inReqs : r ∈ s.mem.reqs) (here : s.region none (r.line * 64) = .hbm)
    (good : s.mapErr (granuleOf r.line / 64) = 0) (idle : s.filling (granuleOf r.line) = false)
    (clear : s.granule (granuleOf r.line) = .clear) :
    Completes (.hbmLineRead r) s fun t => readAnswered s t m (fun d p => d = zeroLine ∧ p = false) ∧
      t.mem = { s.mem with reqs := s.mem.reqs.erase r, noSnoop := [] } := by
  refine completes_of_live (f := fun s => if r.write then s else s.hbmTake r) hl rfl ?_
  rw [if_neg (by simp [write]), hbmTake_serves inReqs here good (.inl ⟨write, clear, idle⟩), if_neg (by simp [idle]),
    if_pos (by simp [write]), State.hbmRead, if_pos (show (s.taken r).granule _ = .clear from clear)]
  have counted := State.Aside.uncount (s := s.taken r) (hbmLoc r.line).unc 0x03 1 r.hue r.cls true
  obtain ⟨answered, mem⟩ := memAnswer_read (P := fun d p => d = zeroLine ∧ p = false) client op line (zeroLine, false)
    ((congrArg Memory.noSnoop counted.mem).trans waits) counted.fab held ⟨rfl, rfl⟩
  refine ⟨answered, ?_⟩
  rw [mem, counted.mem]
  rfl

omit client op line waits held in
theorem hbmLineRead_issues (inReqs : r ∈ s.mem.reqs) (here : s.region none (r.line * 64) = .hbm)
    (good : s.mapErr (granuleOf r.line / 64) = 0) (idle : s.filling (granuleOf r.line) = false)
    (filled : s.granule (granuleOf r.line) = .filled) (next : s.nextFor (hbmLoc r.line).unit = some r)
    (works : s.pcFailed (hbmLoc r.line).unit = false) :
    Completes (.hbmLineRead r) s fun t => t.fab.net = s.fab.net ∧ t.mem.reads = s.mem.reads ++ [r] ∧ t.mem.reqs = s.mem.reqs.erase r ∧
      t.mem.data = s.mem.data ∧ t.slotsUsed ((hbmLoc r.line).unit * 8 + r.cls.toNat) =
        s.slotsUsed ((hbmLoc r.line).unit * 8 + r.cls.toNat) + 1 := by
  refine completes_of_live (f := fun s => if r.write then s else s.hbmTake r) hl rfl ?_
  have written : (s.taken r).granule (granuleOf r.line) ≠ .clear := by
    rw [show (s.taken r).granule (granuleOf r.line) = .filled from filled]
    nofun
  have working : (s.taken r).pcFailed (hbmLoc r.line).unit = false := works
  rw [if_neg (by simp [write]), hbmTake_serves inReqs here good (.inr next), if_neg (by simp [idle]),
    if_pos (by simp [write]), State.hbmRead, if_neg written, if_neg (by simp [working])]
  dsimp only
  generalize hu : ((s.taken r).upMem fun m => { m with reads := m.reads ++ [r] }) = u
  have used := State.Aside.used (s := u) r.hue 2 64 (hbmLoc r.line).unc 0x01 (u.lineOwner r.line) r.cls
  simp only [State.slotUse, State.setSlotsUsed_fab, State.setSlotsUsed_mem_reads, State.setSlotsUsed_mem_reqs,
    State.setSlotsUsed_mem_data, State.slotsUsed_setSlotsUsed, if_true, used.fab, used.mem, used.slotsUsed]
  subst hu
  exact ⟨rfl, rfl, rfl, rfl, rfl⟩

omit write

theorem hbmReadData_completes (inReads : r ∈ s.mem.reads) (filled : s.granule (granuleOf r.line) = .filled) (source : Nat)
    (errs : List (Nat × Byte)) :
    let q := withErrs (s.storedLine source).1 (s.storedLine source).2 errs
    let c := decodeLine r.line q.1 q.2
    Completes (.hbmReadData r source errs) s fun t => t.mem.data = s.mem.data ∧ t.mem.check = s.mem.check ∧
      t.mem.reads = s.mem.reads.erase r ∧ (∀ d p, c.data q.1 = some (d, p) → readAnswered s t m fun d' p' => d' = d ∧ p' = p) ∧
      (c.data q.1 = none → readAnswered s t m fun _ p' => p' = true) := by
  intro q c
  refine completes_of_live (f := fun s => s.hbmData r source errs) hl rfl ?_
  rw [State.hbmData, if_neg (by simp [inReads])]
  extract_lets l v k x w
  have read : w.readStored r.line source errs = (c, q.1, w) := by
    have filled' : w.granule (granuleOf r.line) = .filled := filled
    rw [State.readStored, filled']
    rfl
  rw [read]
  have reported := State.Aside.reportRead (s := w) r.line c r.hue
  dsimp only
  split
  · next x delivers =>
    obtain ⟨answered, mem⟩ := memAnswer_read (P := fun d p => d = x.1 ∧ p = x.2) client op line x
      ((congrArg Memory.noSnoop reported.mem).trans waits) reported.fab held ⟨rfl, rfl⟩
    rw [mem, reported.mem]
    refine ⟨rfl, rfl, rfl, fun d p e => ?_, fun e => ?_⟩
    · obtain rfl := Option.some.inj (delivers.symm.trans e)
      exact answered
    · cases delivers.symm.trans e
  · next delivers =>
    obtain ⟨answered, mem⟩ := poisonAnswer_read client op line ((congrArg Memory.noSnoop reported.mem).trans waits) reported.fab held
    rw [mem, reported.mem]
    refine ⟨rfl, rfl, rfl, fun d p e => ?_, fun _ => answered⟩
    cases delivers.symm.trans e

theorem hbmReadTimeout_completes (inReads : r ∈ s.mem.reads) :
    let k := (hbmLoc r.line).stack * 16 + (hbmLoc r.line).channel
    (s.channel k).timeouts < 15 → Completes (.hbmReadTimeout r) s fun t => t.mem.data = s.mem.data ∧
      t.mem.reads = s.mem.reads.erase r ∧ readAnswered s t m (fun _ p => p = true) ∧
      (t.channel k).timeouts = (s.channel k).timeouts + 1 := by
  intro k few
  refine completes_of_live (f := fun s => s.readTimeout r) hl rfl ?_
  rw [State.readTimeout, if_neg (by simp [inReads])]
  extract_lets l k v w x y z
  have again : z = y := if_neg (by have : x.timeouts < 15 := few; omega)
  rw [again]
  obtain ⟨answered, mem⟩ := poisonAnswer_read (u := y) client op line waits rfl held
  rw [State.channel, mem]
  refine ⟨rfl, rfl, answered, ?_⟩
  exact (congrArg ChannelState.timeouts (State.channel_setChannel w k k _)).trans (by rw [if_pos rfl]; rfl)

end

/-- Settles O28, from what a channel stop answers from the map, issues to a stack, and makes of the data and of its absence. -/
theorem lineReadsObeyTheMapAndTheCode : Obligations.LineReadsObeyTheMapAndTheCode := by
  unfold Obligations.LineReadsObeyTheMapAndTheCode
  intro r m s hl write client op line waits held
  exact ⟨fun inReqs here good idle => ⟨hbmLineRead_clear hl write client op line waits held inReqs here good idle,
      hbmLineRead_issues hl write inReqs here good idle⟩,
    fun source errs inReads filled => hbmReadData_completes hl client op line waits held inReads filled source errs,
    hbmReadTimeout_completes hl client op line waits held⟩

end Sys2Proof.Machine
end

section
/-! Line writes at the channel stops, and the zero fill of a granule (R232, R235, R248, R269). -/

namespace Sys2Proof.Machine

theorem storeRaw_fab (s : State) (line : Nat) (data check : Bytes) : (s.storeRaw line data check).fab = s.fab := rfl

theorem storeRaw_noSnoop (s : State) (line : Nat) (data check : Bytes) :
    (s.storeRaw line data check).mem.noSnoop = s.mem.noSnoop := rfl

/-- Slots that are taken move nothing else. -/
theorem slotUses_moves (s : State) (pcs : List Nat) (c : BitVec 3) : (s.forEach pcs fun s pc => s.slotUse pc c).fab = s.fab ∧
    ∃ slots, (s.forEach pcs fun s pc => s.slotUse pc c).mem = { s.mem with slots := slots } := by
  refine State.forEach_keeps (fun t => t.fab = s.fab ∧ ∃ slots, t.mem = { s.mem with slots := slots }) (fun t pc _ kept => ?_)
    ⟨rfl, _, rfl⟩
  obtain ⟨fab, slots, mem⟩ := kept
  exact ⟨fab, _, congrArg (fun x : Memory => { x with slots := (t.slotUse pc c).mem.slots }) mem⟩

/-- A fill that starts adds itself to the fills, and takes slots. -/
theorem startFill_moves (s : State) (g : Nat) (r : MemReq) : (s.startFill g r).fab = s.fab ∧
    ∃ slots, (s.startFill g r).mem = { s.mem with fills := s.mem.fills ++ [(g, [r])], slots := slots } := by
  rw [State.startFill]
  obtain ⟨fab, slots, mem⟩ := slotUses_moves (s.upMem fun m => { m with fills := m.fills ++ [(g, [r])] })
    ((List.range 64).filter (· ≠ (hbmLoc r.line).unit)) r.cls
  have counted {v : State} := State.Aside.uncount (s := v) (hbmLoc r.line).unc 0x04 63 r.hue r.cls true
  rw [counted.mem, counted.fab, mem, fab]
  exact ⟨rfl, slots, rfl⟩

section
variable {r : MemReq} {m : Msg} {s : State} (hl : s.clocked = true) (write : r.write = true) (client : r.client = .noSnoop m.txid)
  (op : m.op = .wrNS) (line : m.line = r.line) (waits : s.mem.noSnoop = [m]) (held : nothingHeld s m.line) (whole : r.data.length = 64)
  (works : s.pcFailed (hbmLoc r.line).unit = false)

/-- The granule is written with zeros, no fill being left. -/
def State.filledGranule (s : State) (g : Nat) : State :=
  ((s.upMem fun m => { m with fills := [] }).wipeGranule g).setGranule g .filled

/-- The codeword that the write stores (R232). -/
def codeword (r : MemReq) : Bytes × Bytes := (r.data, checkBytes (codeAddr r.line) r.data r.poison)

include write client line in
/-- The answer to a write, after steps that take slots alone. -/
theorem memAnswer_write {u v : State} (waits : u.mem.noSnoop = [m]) (held : nothingHeld u m.line) (fab : v.fab = u.fab)
    {slots : Table Nat} (mem : v.mem = { u.mem with slots := slots }) :
    (v.memAnswer r ([], false)).mem = { u.mem with slots := slots, noSnoop := [] } ∧
      (v.memAnswer r ([], false)).fab = { u.fab with net := u.fab.net ++ [noSnoopAnswer m ([], false)] } := by
  have held' : nothingHeld v m.line := by rwa [nothingHeld, State.home, fab, ← State.home]
  have waits' : v.mem.noSnoop = [m] := (congrArg Memory.noSnoop mem).trans waits
  rw [memAnswer_noSnoop client line waits' (.inr write) held', ← fab]
  exact ⟨congrArg (fun x : Memory => { x with noSnoop := [] }) mem, rfl⟩

include write client line waits held works in
/-- A write to a filled granule stores its line, takes a slot, and is answered: memory has moved in no other way. -/
theorem hbmWrite_filled (filled : s.granule (granuleOf r.line) = .filled) :
    ∃ slots, (s.hbmWrite r).mem = { (s.storeRaw r.line r.data (codeword r).2).mem with slots := slots, noSnoop := [] } ∧
      (s.hbmWrite r).fab = { s.fab with net := s.fab.net ++ [noSnoopAnswer m ([], false)] } := by
  have put : s.hbmPut r.line r.data r.poison = s.storeRaw r.line r.data (codeword r).2 := by
    rw [State.hbmPut, filled]
    exact if_neg (by simp [works])
  rw [State.hbmWrite, put]
  generalize hu : s.storeRaw r.line r.data (codeword r).2 = u
  have fab : u.fab = s.fab := by rw [← hu, storeRaw_fab]
  have used := State.Aside.used (s := u) r.hue 3 64 (hbmLoc r.line).unc 0x02 (u.lineOwner r.line) r.cls
  have held' : nothingHeld u m.line := by rwa [nothingHeld, State.home, fab, ← State.home]
  have waits' : u.mem.noSnoop = [m] := by rw [← hu, storeRaw_noSnoop, waits]
  clear hu
  generalize (u.charge r.hue 3 64 (u.lineOwner r.line)).uncount (hbmLoc r.line).unc 0x02 1 r.hue r.cls = v at used ⊢
  have slot : (v.slotUse (hbmLoc r.line).unit r.cls).mem = { u.mem with slots := (v.slotUse (hbmLoc r.line).unit r.cls).mem.slots } := by
    rw [← used.mem]
    rfl
  have fab' : (v.slotUse (hbmLoc r.line).unit r.cls).fab = u.fab := used.fab
  rw [← fab]
  exact ⟨_, memAnswer_write write client line waits' held' fab' slot⟩

include hl write client line waits held whole works

include op in
theorem hbmLineWrite_filled (inReqs : r ∈ s.mem.reqs) (here : s.region none (r.line * 64) = .hbm)
    (good : s.mapErr (granuleOf r.line / 64) = 0) (next : s.nextFor (hbmLoc r.line).unit = some r)
    (filled : s.granule (granuleOf r.line) = .filled) (idle : s.filling (granuleOf r.line) = false) :
    Completes (.hbmLineWrite r) s fun t => t.storedLine r.line = (codeword r) ∧
      (∀ l, l ≠ r.line → t.storedLine l = s.storedLine l) ∧ t.mem.granules = s.mem.granules ∧ t.mem.reqs = s.mem.reqs.erase r ∧
      ∃ a, t.fab.net = s.fab.net ++ [a] ∧ a.op = .wrDone ∧ a.dst = m.req ∧ a.txid = m.txid := by
  refine completes_of_live (f := fun s => if r.write then s.hbmTake r else s) hl rfl ?_
  have written : s.granule (granuleOf r.line) ≠ .clear := by
    rw [filled]
    nofun
  rw [if_pos write, hbmTake_serves inReqs here good (.inr next), if_neg (by simp [idle]), if_neg (by simp [write]), if_neg written]
  obtain ⟨slots, mem, fab⟩ := hbmWrite_filled (s := s.taken r) write client line waits held works filled
  have stored (l : Nat) : ((s.taken r).hbmWrite r).storedLine l = (s.storeRaw r.line r.data (codeword r).2).storedLine l :=
    storedLine_congr (by rw [mem]; rfl) (by rw [mem]; rfl) l
  refine ⟨?_, fun l other => ?_, ?_, ?_, noSnoopAnswer m ([], false), ?_, ?_⟩
  · exact (stored r.line).trans (storedLine_storeRaw_same s r.line whole (checkBytes_length ..))
  · rw [stored, storedLine_storeRaw_other s _ _ other]
  · rw [mem]
    rfl
  · rw [mem]
    rfl
  · rw [fab]
    rfl
  · simp [noSnoopAnswer, op]

omit client line waits held whole works in
theorem hbmLineWrite_clear (inReqs : r ∈ s.mem.reqs) (here : s.region none (r.line * 64) = .hbm)
    (good : s.mapErr (granuleOf r.line / 64) = 0) (next : s.nextFor (hbmLoc r.line).unit = some r)
    (clear : s.granule (granuleOf r.line) = .clear) (idle : s.filling (granuleOf r.line) = false) :
    Completes (.hbmLineWrite r) s fun t => t.mem.fills = s.mem.fills ++ [(granuleOf r.line, [r])] ∧ t.mem.data = s.mem.data ∧
      t.mem.granules = s.mem.granules ∧ t.fab.net = s.fab.net := by
  refine completes_of_live (f := fun s => if r.write then s.hbmTake r else s) hl rfl ?_
  rw [if_pos write, hbmTake_serves inReqs here good (.inr next), if_neg (by simp [idle]), if_neg (by simp [write]), if_pos clear]
  obtain ⟨fab, slots, mem⟩ := startFill_moves (s.taken r) (granuleOf r.line) r
  rw [mem, fab]
  exact ⟨rfl, rfl, rfl, rfl⟩

omit client line waits held whole works in
theorem hbmLineWrite_waits (inReqs : r ∈ s.mem.reqs) (here : s.region none (r.line * 64) = .hbm)
    (good : s.mapErr (granuleOf r.line / 64) = 0) (next : s.nextFor (hbmLoc r.line).unit = some r) (rs : List MemReq)
    (fills : s.mem.fills = [(granuleOf r.line, rs)]) :
    Completes (.hbmLineWrite r) s fun t => t.mem.fills = [(granuleOf r.line, rs ++ [r])] ∧ t.mem.data = s.mem.data ∧
      t.fab.net = s.fab.net := by
  refine completes_of_live (f := fun s => if r.write then s.hbmTake r else s) hl rfl ?_
  rw [if_pos write, hbmTake_serves inReqs here good (.inr next), if_pos (by simp [State.filling, fills])]
  exact ⟨by simp [State.waitFill, State.taken, State.upMem, fills], rfl, rfl⟩

theorem zeroFillDone_completes (fills : s.mem.fills = [(granuleOf r.line, [r])])
    (inside : r.line ∈ granuleLines s.pkgIx (granuleOf r.line)) :
    Completes (.zeroFillDone (granuleOf r.line)) s fun t => t.granule (granuleOf r.line) = .filled ∧ t.mem.fills = [] ∧
      t.storedLine r.line = (codeword r) ∧
      (∀ l ∈ granuleLines s.pkgIx (granuleOf r.line), l ≠ r.line → t.storedLine l = zeroWord l) ∧
      (∀ l, l ∉ granuleLines s.pkgIx (granuleOf r.line) → t.storedLine l = s.storedLine l) ∧
      (∀ j, j ≠ granuleOf r.line → t.granule j = s.granule j) := by
  refine completes_of_live (f := fun s => s.fillDone248 (granuleOf r.line)) hl rfl ?_
  generalize hg : granuleOf r.line = g at *
  have served : s.fillDone248 g = (s.filledGranule g).hbmWrite r := by
    have found : (s.mem.fills.find? fun f => f.1 = g) = some (g, [r]) := by simp [fills]
    have rest : s.mem.fills.filter (fun f => decide (f.1 ≠ g)) = [] := by simp [fills]
    unfold State.fillDone248
    simp only [found, State.upMem, rest]
    exact if_pos write
  rw [served]
  have filled : (s.filledGranule g).granule (granuleOf r.line) = .filled := by simp [State.filledGranule, hg]
  obtain ⟨slots, mem, -⟩ := hbmWrite_filled (s := s.filledGranule g) write client line waits held works filled
  have granule (j : Nat) : ((s.filledGranule g).hbmWrite r).granule j = if j = g then .filled else s.granule j := by
    rw [State.granule, mem]
    exact State.granule_setGranule _ g j .filled
  have stored (l : Nat) : ((s.filledGranule g).hbmWrite r).storedLine l =
      ((s.filledGranule g).storeRaw r.line r.data (codeword r).2).storedLine l :=
    storedLine_congr (by rw [mem]) (by rw [mem]) l
  have wiped (l : Nat) : (s.filledGranule g).storedLine l = if l ∈ granuleLines s.pkgIx g then zeroWord l else s.storedLine l :=
    storedLine_wipeGranule (s.upMem fun m => { m with fills := [] }) g l
  refine ⟨(granule g).trans (if_pos rfl), ?_, ?_, fun l within other => ?_, fun l outside => ?_,
    fun j other => (granule j).trans (if_neg other)⟩
  · rw [mem]
    rfl
  · exact (stored r.line).trans (storedLine_storeRaw_same _ r.line whole (checkBytes_length ..))
  · rw [stored, storedLine_storeRaw_other _ _ _ other, wiped, if_pos within]
  · have other : l ≠ r.line := fun e => outside (e ▸ inside)
    rw [stored, storedLine_storeRaw_other _ _ _ other, wiped, if_neg outside]

end

/-- Settles O29, from what a channel stop makes of a write to a filled, a clear and a filling granule, and from the end of the fill. -/
theorem lineWritesStoreACodewordAndFillTheGranule : Obligations.LineWritesStoreACodewordAndFillTheGranule := by
  unfold Obligations.LineWritesStoreACodewordAndFillTheGranule
  intro r m s hl write client op line waits held whole works
  exact ⟨fun inReqs here good next =>
      ⟨hbmLineWrite_filled hl write client op line waits held whole works inReqs here good next,
        hbmLineWrite_clear hl write inReqs here good next, hbmLineWrite_waits hl write inReqs here good next⟩,
    zeroFillDone_completes hl write client line waits held whole works⟩

end Sys2Proof.Machine
end

section
/-! What the stacks report, the patrol, the test window and the rounds (R239, R243, R246, R258, R269, R461). -/

namespace Sys2Proof.Machine

variable {s : State}

/-! ### Reports of a stack -/

/-- An event passed to a hub queue with room is logged (R496). -/
theorem logsOne_logE (room : s.mgmt.log.queue.length < 1024) (cls : ErrClass) (src : ErrSource) (why : ErrReason) (unit addr : Nat)
    (hue : BitVec 12) (info aux : Nat) (trap fence : Bool) :
    s.logsOne (s.logE cls src why unit addr hue info aux trap fence) cls src why unit := by
  have queue (e : ErrRec) : (s.logRec e).mgmt.log.queue = s.mgmt.log.queue ++ [e] := by
    simp only [State.logRec, State.upLog, room, if_true]
  exact ⟨_, queue _, rfl, rfl, rfl, rfl⟩

theorem hbmParityAlert_completes (hl : s.clocked = true) (ch : Fin 32) (r : MemReq) (few : (s.channel ch.val).alerts < 2)
    (room : s.mgmt.log.queue.length < 1024) :
    Completes (.hbmParityAlert ch r) s fun t => (t.channel ch.val).alerts = (s.channel ch.val).alerts + 1 ∧
      s.logsOne t .partner .hbm .parity (hbmLoc r.line).unit ∧ t.mem.data = s.mem.data := by
  refine completes_of_live (f := fun s => s.parityAlert ch r) hl rfl ?_
  unfold State.parityAlert
  extract_lets l u x
  rw [if_pos (show x.alerts < 2 from few), State.channel_setChannel, if_pos rfl]
  exact ⟨rfl, logsOne_logE room .partner .hbm .parity l.unit (r.line * 64) r.hue (l.info 0x7F) 0 false false, rfl⟩

theorem hbmTemperatureReport_completes (hl : s.clocked = true) (stack : Fin 2) (celsius : Int) :
    Completes (.hbmTemperatureReport stack celsius) s fun t => (85 < celsius ↔ stack ∈ t.mgmt.power.stackDouble) ∧
      (95 < celsius → stack ∈ t.mgmt.power.stackHot) ∧ (celsius ≤ 90 → stack ∉ t.mgmt.power.stackHot) ∧ t.mem = s.mem ∧
      t.fab = s.fab := by
  refine ⟨_, if_pos hl, ?_, fun hot => ?_, fun cool => ?_, rfl, rfl⟩
  · by_cases warm : 85 < celsius <;> simp [State.upPower, warm]
  · simp [State.upPower, hot]
  · have below : ¬95 < celsius := by omega
    have cold : ¬90 < celsius := by omega
    simp [State.upPower, below, cold]

/-! ### Corrections (R239) -/

theorem Table.length_insert_le {α : Type} (t : Table α) (k : Nat) (v : α) : (Table.insert t k v).length ≤ t.length + 1 := by
  induction t with
  | nil => simp [Table.insert]
  | cons e t ih =>
    unfold Table.insert
    split
    · simp
    · split
      · simp
      · simpa using ih

theorem Table.length_erase_le {α : Type} (t : Table α) (k : Nat) : (Table.erase t k).length ≤ t.length := by
  induction t with
  | nil => simp [Table.erase]
  | cons e t ih =>
    unfold Table.erase
    split
    · exact ih.trans (Nat.le_succ _)
    · simpa using ih

theorem Table.length_put_le {α : Type} [DecidableEq α] (d : α) (t : Table α) (k : Nat) (v : α) :
    (Table.put d t k v).length ≤ t.length + 1 := by
  unfold Table.put
  split
  · exact (Table.length_erase_le t k).trans (Nat.le_succ _)
  · exact Table.length_insert_le t k v

theorem setRow_rows_length (k : Nat) (r : RowState) : (s.setRow k r).mem.rows.length ≤ s.mem.rows.length + 1 :=
  Table.length_put_le ..

theorem trimRows_of_length {t : Table RowState} (fits : t.length ≤ 8192) : trimRows t = t := if_pos fits

/-- The first correction of a row, counted. -/
def firstCorrection (now : Word) : RowState := { count := 1, first := now, last := now, rewritten := false, retired := false }

/-- A row first seen, under thresholds above 1, is counted and not rewritten. -/
theorem correction_first (line : Nat) (unseen : Table.find s.mem.rows (hbmLoc line).rowKey = none) (above : 1 < fld (s.cfg 0x0400) 32 8) :
    s.correction line = (s.setRow (hbmLoc line).rowKey (firstCorrection s.now)).upMem fun m => { m with rows := trimRows m.rows } := by
  have fresh : s.row (hbmLoc line).rowKey = { count := 0, first := 0, last := 0, rewritten := false, retired := false } := by
    rw [State.row, Table.get, unseen]
    rfl
  unfold State.correction
  extract_lets l cfg known r0 r1 r2 put hours r3 r4
  have seen : r2 = { count := 0, first := s.now, last := s.now, rewritten := false, retired := false } := by
    simp only [r2, r1, r0, known, l, fresh, unseen, Option.isSome_none, Bool.false_eq_true, if_false]
  have recent : r3 = r2 := if_neg (by simp [seen])
  have counted : r4 = firstCorrection s.now := by simp only [r4, recent, seen, firstCorrection]
  have below : ¬fld cfg 32 8 ≤ 1 := Nat.not_le.2 above
  rw [if_neg (by simp [seen]), if_neg (by simp [counted, firstCorrection, below]), if_neg (by simp [counted, firstCorrection]), counted]

theorem correctionEvent_completes (hl : s.clocked = true) (line : Nat) (symbol : Fin 128)
    (unseen : Table.find s.mem.rows (hbmLoc line).rowKey = none) (room : s.mem.rows.length < 8192) (above : 1 < fld (s.cfg 0x0400) 32 8) :
    Completes (.correctionEvent line symbol) s fun t => t.row (hbmLoc line).rowKey = firstCorrection s.now ∧
      t.mem.data = s.mem.data ∧ t.mem.check = s.mem.check := by
  refine completes_of_live (f := fun s => s.correction line) hl rfl ?_
  rw [correction_first line unseen above]
  refine ⟨?_, rfl, rfl⟩
  have fits : (s.setRow (hbmLoc line).rowKey (firstCorrection s.now)).mem.rows.length ≤ 8192 :=
    (setRow_rows_length ..).trans room
  have kept := trimRows_of_length fits
  refine Eq.trans ?_ ((State.row_setRow s (hbmLoc line).rowKey _ (firstCorrection s.now)).trans (if_pos rfl))
  rw [State.row, State.upMem, kept, State.row]

/-! ### The patrol (R243) -/

theorem patrolStep_completes (hl : s.clocked = true) (stack : Fin 2) (line : Nat) (errs : List (Nat × Byte))
    (on : bit (s.cfg 0x0400) 0 = true) (next : s.patrolNext stack.val (s.patrolAt stack.val) = some line) :
    Completes (.patrolStep stack errs) s fun t => t.patrolAt stack.val = line + 1 ∧ t.mem.data = s.mem.data ∧
      t.mem.check = s.mem.check ∧ t.fab = s.fab := by
  refine completes_of_live (f := fun s => s.patrol stack.val errs) hl rfl ?_
  have moved : (s.setPatrolAt stack.val (line + 1)).Aside (s.patrol stack.val errs) := by
    unfold State.patrol
    simp only [on, next, Bool.not_true, Bool.false_eq_true, if_false]
    split
    · exact .refl _
    · exact (State.Aside.readStored line line errs).trans (.reportRead line _ 0)
  refine ⟨?_, by rw [moved.mem]; rfl, by rw [moved.mem]; rfl, moved.fab⟩
  rw [State.patrolAt, moved.mem]
  exact (State.patrolAt_setPatrolAt ..).trans (if_pos rfl)

/-! ### The test window (R246) -/

theorem readRaw_clear (hl : s.clocked = true) (hue : BitVec 12) (errs : List (Nat × Byte)) (ready : s.rawReady hue = true)
    (clear : s.granule (granuleOf (s.mem.window.addr.toNat / 64)) = .clear) :
    Completes (.readRaw hue errs) s fun t =>
      t.mem = { s.mem with window := { s.mem.window with busy := true, result := 6, data := zeroLine, check := 0 } } := by
  refine completes_of_live (f := fun s => if s.rawReady hue then s.readRawCmd errs else s) hl rfl ?_
  rw [if_pos ready, State.readRawCmd, if_pos clear]
  rfl

theorem writeRaw_filled (hl : s.clocked = true) (hue : BitVec 12) (ready : s.rawReady hue = true)
    (filled : s.granule (granuleOf (s.mem.window.addr.toNat / 64)) = .filled)
    (works : s.pcFailed (hbmLoc (s.mem.window.addr.toNat / 64)).unit = false) (whole : s.mem.window.data.length = 64) :
    Completes (.writeRaw hue) s fun t =>
      t.storedLine (s.mem.window.addr.toNat / 64) = (s.mem.window.data, leBytes 8 s.mem.window.check.toNat) ∧
      t.mem.window.busy = true ∧ ∀ l, l ≠ s.mem.window.addr.toNat / 64 → t.storedLine l = s.storedLine l := by
  refine completes_of_live (f := fun s => if s.rawReady hue then s.writeRawCmd else s) hl rfl ?_
  have padded : padTo 64 s.mem.window.data = s.mem.window.data := by rw [padTo, ← whole, List.take_left]
  have stored : s.writeRawCmd = (s.setWindow { s.mem.window with busy := true }).storeRaw (s.mem.window.addr.toNat / 64)
      s.mem.window.data (leBytes 8 s.mem.window.check.toNat) := by
    have unfilled : s.rawFill (granuleOf (s.mem.window.addr.toNat / 64)) = s := if_neg (by simp [filled])
    have filled' : (s.setWindow { s.mem.window with busy := true }).granule (granuleOf (s.mem.window.addr.toNat / 64)) = .filled := filled
    have works' : (s.setWindow { s.mem.window with busy := true }).pcFailed (hbmLoc (s.mem.window.addr.toNat / 64)).unit = false := works
    unfold State.writeRawCmd
    simp only [unfilled, filled', works', padded, Bool.false_eq_true, if_false]
  rw [if_pos ready, stored]
  exact ⟨storedLine_storeRaw_same _ _ whole (leBytes_length ..), rfl, fun l other => storedLine_storeRaw_other _ _ _ other⟩

theorem rawReady_of_ne {hue : BitVec 12} (other : hue ≠ 0) : s.rawReady hue = false := by
  simp only [State.rawReady, other, decide_false, Bool.and_false, Bool.false_and]

theorem exec_readRaw_of_ne (hl : s.clocked = true) {hue : BitVec 12} (other : hue ≠ 0) (errs : List (Nat × Byte)) :
    exec (.readRaw hue errs) s = .next s := by
  have runs : exec (.readRaw hue errs) s = .next (if s.rawReady hue then s.readRawCmd errs else s) := if_pos hl
  rw [runs, rawReady_of_ne other, if_neg Bool.false_ne_true]

theorem exec_writeRaw_of_ne (hl : s.clocked = true) {hue : BitVec 12} (other : hue ≠ 0) : exec (.writeRaw hue) s = .next s := by
  have runs : exec (.writeRaw hue) s = .next (if s.rawReady hue then s.writeRawCmd else s) := if_pos hl
  rw [runs, rawReady_of_ne other, if_neg Bool.false_ne_true]

/-! ### Rounds (R269) -/

/-- The slots of some classes of a pseudo-channel are given back. -/
def State.slotsBack (s : State) (pc : Nat) (cs : List Nat) : State := s.forEach cs fun s c => s.setSlotsUsed (pc * 8 + c) 0

theorem slotsBack_other (pc k : Nat) (other : k / 8 ≠ pc) :
    (s.slotsBack pc (List.range 8)).mem.data = s.mem.data ∧ (s.slotsBack pc (List.range 8)).slotsUsed k = s.slotsUsed k := by
  refine State.forEach_keeps (fun t => t.mem.data = s.mem.data ∧ t.slotsUsed k = s.slotsUsed k) (fun t c hc kept => ?_) ⟨rfl, rfl⟩
  have := List.mem_range.1 hc
  rw [State.setSlotsUsed_mem_data, State.slotsUsed_setSlotsUsed, if_neg (by omega)]
  exact kept

theorem slotsBack_zero (pc : Nat) (c : Fin 8) : (s.slotsBack pc (List.range 8)).slotsUsed (pc * 8 + c.val) = 0 := by
  refine State.forEach_of_mem (fun t => t.slotsUsed (pc * 8 + c.val) = 0) (fun t a zero => ?_) (a := c.val) (fun t => ?_)
    (List.mem_range.2 c.isLt) s
  · rw [State.slotsUsed_setSlotsUsed, zero, ite_self]
  · rw [State.slotsUsed_setSlotsUsed, if_pos rfl]

theorem hbmRound_completes (hl : s.clocked = true) (pc : Fin 64) : Completes (.hbmRound pc) s fun t => t.mem.data = s.mem.data ∧
    (∀ c : Fin 8, t.slotsUsed (pc.val * 8 + c.val) = 0) ∧ ∀ k, k / 8 ≠ pc.val → t.slotsUsed k = s.slotsUsed k := by
  have counted (rs : List MemReq) : s.Aside (s.forEach rs fun s r => s.uncount (hbmLoc r.line).unc 0x06 1 r.hue r.cls) :=
    .forEach (fun t r => .uncount ..) rs
  refine ⟨_, if_pos hl, ?_, fun c => slotsBack_zero pc.val c, fun k other => ?_⟩
  · exact (slotsBack_other pc.val ((pc.val + 1) * 8) (by omega)).1.trans (congrArg Memory.data (counted _).mem)
  · exact (slotsBack_other pc.val k other).2.trans ((counted _).slotsUsed k)

/-- Settles O30, from what each report, event and command of the stacks does. -/
theorem stacksReportRetrainAndScrub : Obligations.StacksReportRetrainAndScrub := by
  unfold Obligations.StacksReportRetrainAndScrub
  exact ⟨fun ch r s hl => hbmParityAlert_completes hl ch r, fun stack celsius s hl => hbmTemperatureReport_completes hl stack celsius,
    fun line symbol s hl => correctionEvent_completes hl line symbol,
    fun stack line errs s hl => patrolStep_completes hl stack line errs,
    fun hue errs s hl => ⟨readRaw_clear hl hue errs, writeRaw_filled hl hue,
      fun other => ⟨exec_readRaw_of_ne hl other errs, exec_writeRaw_of_ne hl other⟩, ⟨_, if_pos hl, rfl⟩⟩,
    fun pc s hl => hbmRound_completes hl pc⟩

end Sys2Proof.Machine
end

section
/-! The forget queues: an entry queued, a sweep started, and an entry complete (R252, R253, R254, R255). -/

namespace Sys2Proof.Machine

variable {s : State}

/-! ### A store to ENTRY1 (R252, R254) -/

/-- A store of 8 bytes to ENTRY1 outside Partitioned mode enqueues the two staged words. -/
theorem exec_wmapForgetEntry1 (hl : s.clocked = true) {h : HartId} (whole : s.partOfDie h.die.val = none) (q : Fin 16) (v : Word) :
    exec (.wmapForgetEntry1 h q 8 v) s = .next (s.forgetEnqueue q.val v) := by
  have runs : exec (.wmapForgetEntry1 h q 8 v) s =
      if !queueSeen (s.partOfDie h.die.val) q.val then .next s else .next (s.entry1Write q.val v (~~~ 0)) := if_pos hl
  have upper : bit (~~~ 0) 32 = true := by decide
  rw [runs, whole, if_neg (by simp [queueSeen]), State.entry1Write, blend_all, if_pos upper]

theorem forgetEnqueue_full {q : Nat} (v : Word) (full : 64 ≤ ((s.forget q).tail - (s.forget q).head).toNat) :
    s.forgetEnqueue q v = s.setForget q { s.forget q with entry1 := v, overflow := true } :=
  if_pos full

theorem forgetRefused_running {q : Nat} (running : (s.forget q).running = true) (fuel : Nat) : s.forgetRefused q fuel = s := by
  cases fuel with
  | zero => rfl
  | succ fuel =>
    unfold State.forgetRefused
    split
    · rfl
    · exact if_pos (by simp [running])

theorem forgetRefused_empty {q : Nat} (empty : (s.forget q).entries = []) (fuel : Nat) : s.forgetRefused q fuel = s := by
  cases fuel with
  | zero => rfl
  | succ fuel => simp [State.forgetRefused, empty]

/-- Behind a running head an entry waits at the end of the queue. -/
theorem forgetEnqueue_running {q : Nat} (v : Word) (room : ((s.forget q).tail - (s.forget q).head).toNat < 64)
    (running : (s.forget q).running = true) :
    s.forgetEnqueue q v = s.setForget q { s.forget q with
      entry1 := v, tail := (s.forget q).tail + 1, entries := (s.forget q).entries ++ [{ e0 := (s.forget q).entry0, e1 := v }] } := by
  rw [State.forgetEnqueue]
  exact (if_neg (Nat.not_le.2 room)).trans (forgetRefused_running (by simp [running]) 65)

/-! ### A sweep (R255) -/

/-- From `s` to `t` memory alone has changed, and of it no stored byte. -/
structure State.QueuesOnly (s t : State) : Prop where
  state : t = { s with mem := t.mem }
  data : t.mem.data = s.mem.data

theorem State.QueuesOnly.inForget {t : State} (a : s.QueuesOnly t) (e : ForgetEntry) (line : Nat) :
    t.inForget e line = s.inForget e line := by
  rw [a.state]
  rfl

theorem State.QueuesOnly.home {t : State} (a : s.QueuesOnly t) (k : Nat) : t.home k = s.home k := by
  rw [a.state]
  rfl

/-- The entries at the heads of the queues run. -/
def State.headsRun (s : State) (hs : List (Nat × ForgetEntry)) : State :=
  s.forEach hs fun s h => s.setForget h.1 { s.forget h.1 with running := true }

theorem headsRun_queuesOnly (hs : List (Nat × ForgetEntry)) : s.QueuesOnly (s.headsRun hs) := by
  refine State.forEach_keeps s.QueuesOnly (fun t h _ kept => ?_) ⟨rfl, rfl⟩
  exact ⟨congrArg (fun u : State => u.setForget h.1 { t.forget h.1 with running := true }) kept.state, kept.data⟩

theorem headsRun_running {hs : List (Nat × ForgetEntry)} {q : Nat} {e : ForgetEntry} (head : (q, e) ∈ hs) :
    ((s.headsRun hs).forget q).running = true := by
  refine State.forEach_of_mem (fun t => (t.forget q).running = true) (fun t h run => ?_) (fun t => ?_) head s
  · rw [State.forget_setForget]
    split
    · rfl
    · exact run
  · rw [State.forget_setForget, if_pos rfl]

/-- A slice of whose directory nothing lies in a range takes no part in the sweep. -/
theorem sweepSlice_none {es : List ForgetEntry} {k : Nat} (clean : ∀ d ∈ (s.home k).dir, ∀ e ∈ es, s.inForget e d.2.line = false) :
    s.sweepSlice es k = s := by
  have none : ((s.home k).dir.map Prod.snd).filter (fun d : DirEntry => es.any fun e => s.inForget e d.line) = [] := by
    refine List.filter_eq_nil_iff.2 fun d hd => ?_
    obtain ⟨x, hx, rfl⟩ := List.mem_map.1 hd
    simpa using clean x hx
  rw [State.sweepSlice, none]
  rfl

theorem head_mem_sweepHeads {q : Fin 16} {e : ForgetEntry} {rest : List ForgetEntry} (entries : (s.forget q.val).entries = e :: rest) :
    (q.val, e) ∈ s.sweepHeads :=
  List.mem_filterMap.2 ⟨q.val, List.mem_range.2 q.isLt, by rw [entries]; rfl⟩

/-- A sweep that finds nothing in any range only marks its queues as running. -/
theorem forgetSweep_clean (clean : ∀ k < 32, ∀ d ∈ (s.home k).dir, ∀ x ∈ s.sweepHeads, s.inForget x.2 d.2.line = false) :
    s.forgetSweep = s.headsRun s.sweepHeads := by
  have only := headsRun_queuesOnly (s := s) s.sweepHeads
  refine State.forEach_keeps (fun t => t = s.headsRun s.sweepHeads) (fun t k hk same => ?_) rfl
  rw [same]
  refine sweepSlice_none fun d hd e he => ?_
  rw [only.home] at hd
  obtain ⟨x, hx, rfl⟩ := List.mem_map.1 he
  rw [only.inForget]
  exact clean k (List.mem_range.1 hk) d hd x hx

/-! ### An entry complete (R255) -/

/-- The end of an entry moves its queue on, and perhaps sends a message-signalled interrupt. -/
theorem forgetEnd_moves (q : Nat) (e : ForgetEntry) (range : Bool) :
    (s.forgetEnd q e range).fab.homes = s.fab.homes ∧ (s.forgetEnd q e range).mem = (s.setForget q { s.forget q with
      head := (s.forget q).head + 1, running := false, entries := (s.forget q).entries.drop 1,
      last := BitVec.ofNat 64 (e.tag + if range then 65536 else 0) }).mem := by
  unfold State.forgetEnd
  extract_lets f f' u
  split
  · unfold State.packageMsi
    dsimp only
    split
    · exact ⟨rfl, rfl⟩
    · exact ⟨rfl, rfl⟩
  · exact ⟨rfl, rfl⟩

/-- The last entry of a queue, finished: its range is cleared, and the queue is empty. -/
theorem forgetFinish_last {q : Nat} {e : ForgetEntry} (entries : (s.forget q).entries = [e]) :
    (s.forgetFinish q e).fab.homes = s.fab.homes ∧ (s.forgetFinish q e).mem = ((s.clearMap e).setForget q { s.forget q with
      head := (s.forget q).head + 1, running := false, entries := [], last := BitVec.ofNat 64 e.tag }).mem := by
  unfold State.forgetFinish
  extract_lets u v
  have charged : u.Aside v := by
    dsimp only [v]
    split
    · exact .charge ..
    · exact .charge ..
  have same : v.forget q = s.forget q := by rw [State.forget, charged.mem]; rfl
  obtain ⟨homes, mem⟩ := forgetEnd_moves (s := v) q e false
  have rest : (v.forgetEnd q e false).mem = (u.setForget q { s.forget q with
      head := (s.forget q).head + 1, running := false, entries := [], last := BitVec.ofNat 64 e.tag }).mem := by
    rw [mem, same, entries]
    exact congrArg (fun m : Memory => (State.setForget { v with mem := m } q _).mem) charged.mem
  have empty : ((v.forgetEnd q e false).forget q).entries = [] := by
    rw [State.forget, rest]
    exact congrArg ForgetQueue.entries ((State.forget_setForget u q q _).trans (if_pos rfl))
  rw [forgetRefused_empty empty, homes, charged.fab]
  exact ⟨rfl, rest⟩

theorem forgetComplete_completes (hl : s.clocked = true) {q : Fin 16} {e : ForgetEntry} (entries : (s.forget q.val).entries = [e])
    (running : (s.forget q.val).running = true) (swept : s.sweptOut e = true) :
    Completes (.forgetComplete q) s fun t =>
      (t.forget q.val).head = (s.forget q.val).head + 1 ∧ (t.forget q.val).entries = [] ∧ (t.forget q.val).running = false ∧
      (t.forget q.val).last = BitVec.ofNat 64 e.tag ∧ t.fab.homes = s.fab.homes ∧
      (∀ g, e.start ≤ g → g < e.start + e.count → t.granule g = .clear ∧ ∀ l ∈ granuleLines s.pkgIx g, t.storedLine l = zeroWord l) ∧
      (∀ g, g < e.start ∨ e.start + e.count ≤ g → t.granule g = s.granule g ∧
        ∀ l ∈ granuleLines s.pkgIx g, t.storedLine l = s.storedLine l) := by
  have runs : exec (.forgetComplete q) s = .next (s.forgetFinish q.val e) := by
    have taken : exec (.forgetComplete q) s = match (s.forget q.val).entries with
      | [] => .next s
      | e :: _ => .next (if (s.forget q.val).running && s.sweptOut e then s.forgetFinish q.val e else s) := if_pos hl
    rw [taken, entries]
    exact congrArg Host.Outcome.next (if_pos (by simp [running, swept]))
  refine ⟨_, runs, ?_⟩
  obtain ⟨homes, mem⟩ := forgetFinish_last entries
  have queue : (s.forgetFinish q.val e).forget q.val = { s.forget q.val with
      head := (s.forget q.val).head + 1, running := false, entries := [], last := BitVec.ofNat 64 e.tag } := by
    rw [State.forget, mem]
    exact (State.forget_setForget (s.clearMap e) q.val q.val _).trans (if_pos rfl)
  have granule (g : Nat) : (s.forgetFinish q.val e).granule g = (s.clearMap e).granule g := by
    rw [State.granule, mem]
    rfl
  have stored (l : Nat) : (s.forgetFinish q.val e).storedLine l = (s.clearMap e).storedLine l :=
    storedLine_congr (by rw [mem]; rfl) (by rw [mem]; rfl) l
  rw [queue]
  refine ⟨rfl, rfl, rfl, rfl, homes, fun g lo hi => ⟨?_, fun l hm => ?_⟩, fun g out => ⟨?_, fun l hm => ?_⟩⟩
  · rw [granule, granule_clearMap, if_pos ⟨lo, hi⟩]
  · obtain ⟨first, last⟩ := mem_granuleLines.1 hm
    rw [stored, storedLine_clearMap, if_pos (by omega)]
  · rw [granule, granule_clearMap, if_neg (by omega)]
  · obtain ⟨first, last⟩ := mem_granuleLines.1 hm
    rw [stored, storedLine_clearMap, if_neg (by omega)]

/-- Settles O31, from what a store to ENTRY1, a sweep of clean directories and a finished entry do. -/
theorem forgetQueuesSweepAndClear : Obligations.ForgetQueuesSweepAndClear := by
  unfold Obligations.ForgetQueuesSweepAndClear
  intro h q v s hl f
  refine ⟨fun whole full => ?_, fun e rest whole room entries running => ?_, fun entries clean => ?_,
    fun e entries running swept => forgetComplete_completes hl entries running swept⟩
  · refine ⟨_, exec_wmapForgetEntry1 hl whole q v, ?_⟩
    rw [forgetEnqueue_full v full]
    exact ⟨(State.forget_setForget ..).trans (if_pos rfl), rfl⟩
  · refine ⟨_, exec_wmapForgetEntry1 hl whole q v, ?_⟩
    rw [forgetEnqueue_running v room running, ← entries]
    exact ⟨rfl, (State.forget_setForget ..).trans (if_pos rfl)⟩
  · refine completes_of_live (f := fun s => if (s.forget q.val).entries.isEmpty then s else s.forgetSweep) hl rfl ?_
    obtain ⟨e, rest, head⟩ := List.exists_cons_of_ne_nil entries
    have some : (s.forget q.val).entries.isEmpty = false := by rw [show (s.forget q.val).entries = e :: rest from head]; rfl
    rw [if_neg (by simp [some]), forgetSweep_clean clean]
    have only := headsRun_queuesOnly (s := s) s.sweepHeads
    exact ⟨headsRun_running (head_mem_sweepHeads head), only.data, by rw [only.state]⟩

end Sys2Proof.Machine
end

section
/-! A command that Mordant runs at once: what its acceptance leaves, and how it is answered (R372, R373, R376, R381). -/

namespace Sys2Proof.Machine

set_option Elab.async false

/-! ### Mordant's mail -/

/-- From `s` to `t` only the mailboxes, the order of acceptance and the PDR have changed. -/
def Mailed (s t : State) : Prop :=
  t = { s with mgmt := { s.mgmt with mail := t.mgmt.mail, mordant := t.mgmt.mordant, pdr := t.mgmt.pdr } }

namespace Mailed

variable {s t u : State}

theorem refl (s : State) : Mailed s s := rfl

theorem trans (a : Mailed s t) (b : Mailed t u) : Mailed s u := by
  rw [Mailed] at a b ⊢
  rw [b, a]

theorem fab (a : Mailed s t) : t.fab = s.fab := by rw [a]
theorem mem (a : Mailed s t) : t.mem = s.mem := by rw [a]
theorem hub (a : Mailed s t) : t.hub = s.hub := by rw [a]
theorem log (a : Mailed s t) : t.mgmt.log = s.mgmt.log := by rw [a]

end Mailed

/-- A command of the issuer, alone, waits for its answer. -/
def State.owes (s : State) (iss : Issuer) (op : Nat) (c : CmdCell) : Prop :=
  ∃ a, (s.mbx (issIx iss)).accepted = [a] ∧ a.opcode = op ∧ a.cell = c

theorem State.owes_of_mail {s t : State} {iss : Issuer} {op : Nat} {c : CmdCell} (owes : s.owes iss op c)
    (mail : t.mgmt.mail = s.mgmt.mail) : t.owes iss op c := by
  rwa [State.owes, State.mbx, mail]

section
variable {s : State} {iss : Issuer} {c : CmdCell} {op : Nat}

/-! ### Acceptance (R372, R373) -/

theorem mailed_afterAccept (s : State) (iss : Issuer) (op : Nat) (c : CmdCell) : Mailed s (afterAccept s iss op c) := by
  cases iss <;> rfl

/-- What Mordant keeps of a command that it accepts. -/
def acceptedCell (s : State) (op : Nat) (c : CmdCell) : Accepted := { opcode := op, cell := c, seq := s.mgmt.mordant.acceptSeq, bmcTag := 0 }

theorem accept_mbx (s : State) (iss : Issuer) (op : Nat) (c : CmdCell) (j : Nat) : (s.accept iss op c 0).mbx j =
    if j = issIx iss then { s.mbx j with accepted := (s.mbx j).accepted ++ [acceptedCell s op c] } else s.mbx j := by
  refine (State.mbx_setMbx _ (issIx iss) j _).trans ?_
  split
  · subst_vars
    rfl
  · rfl

theorem afterAccept_accepted (s : State) (iss : Issuer) (op : Nat) (c : CmdCell) (j : Nat) :
    ((afterAccept s iss op c).mbx j).accepted =
      if j = issIx iss then (s.mbx j).accepted ++ [acceptedCell s op c] else (s.mbx j).accepted := by
  have stored : ((afterAccept s iss op c).mbx j).accepted = ((s.accept iss op c 0).mbx j).accepted := by
    cases iss with
    | mailbox m =>
      rw [afterAccept, State.mbx_setMbx]
      split
      · subst_vars
        rfl
      · rfl
    | bmc => rfl
  rw [stored, accept_mbx]
  split <;> rfl

theorem afterAccept_session (s : State) (iss : Issuer) (op : Nat) (c : CmdCell) (j : Nat) :
    ((afterAccept s iss op c).mbx j).session = (s.mbx j).session := by
  have stored : ((afterAccept s iss op c).mbx j).session = ((s.accept iss op c 0).mbx j).session := by
    cases iss with
    | mailbox m =>
      rw [afterAccept, State.mbx_setMbx]
      split
      · subst_vars
        rfl
      · rfl
    | bmc => rfl
  rw [stored, accept_mbx]
  split <;> rfl

theorem afterAccept_alone (empty : (s.mbx (issIx iss)).accepted = []) :
    ((afterAccept s iss op c).mbx (issIx iss)).accepted = [acceptedCell s op c] := by
  rw [afterAccept_accepted, if_pos rfl, empty, List.nil_append]

theorem afterAccept_owes (empty : (s.mbx (issIx iss)).accepted = []) : (afterAccept s iss op c).owes iss op c :=
  ⟨_, afterAccept_alone empty, rfl, rfl⟩

theorem afterAccept_cellFaults (lenOk : Bool) (zero : List Nat) (inScope : Bool) :
    (afterAccept s iss op c).cellFaults iss op c lenOk zero inScope = s.cellFaults iss op c lenOk zero inScope := by
  have session := afterAccept_session s iss op c (issIx iss)
  unfold State.cellFaults
  dsimp only
  rw [session]
  cases iss <;> rfl

/-- A command that nothing holds back on its arrival is not held back once it is accepted. -/
theorem afterAccept_mustWait (empty : (s.mbx (issIx iss)).accepted = []) (free : s.mustWait iss op = false)
    (quiet : ∀ j < 17, ∀ a ∈ (s.mbx j).accepted, changes a.opcode = false) : (afterAccept s iss op c).mustWait iss op = false := by
  have older : ((List.range 17).any fun j => ((afterAccept s iss op c).mbx j).accepted.any fun a =>
      changes a.opcode && a.seq < s.mgmt.mordant.acceptSeq) = false := by
    rw [List.any_eq_false]
    intro j hj
    rw [Bool.not_eq_true, List.any_eq_false, afterAccept_accepted]
    intro a ha
    have known (b : Accepted) (hb : b ∈ (s.mbx j).accepted) : ¬(changes b.opcode && b.seq < s.mgmt.mordant.acceptSeq) = true := by
      simp [quiet j (List.mem_range.1 hj) b hb]
    split at ha
    · rcases List.mem_append.1 ha with old | new
      · exact known a old
      · obtain rfl := List.mem_singleton.1 new
        simp [acceptedCell]
    · exact known a ha
  have restart : (afterAccept s iss op c).mgmt.mordant.restarting = s.mgmt.mordant.restarting := by cases iss <;> rfl
  have limit : (afterAccept s iss op c).mgmt.mordant.limited = s.mgmt.mordant.limited := by cases iss <;> rfl
  have mailed := mailed_afterAccept s iss op c
  have census : (afterAccept s iss op c).mgmt.census = s.mgmt.census := by rw [mailed]
  have config : (afterAccept s iss op c).mgmt.config = s.mgmt.config := by rw [mailed]
  have store : (afterAccept s iss op c).mgmt.store = s.mgmt.store := by rw [mailed]
  unfold State.mustWait at free ⊢
  simp only [Bool.or_eq_false_iff, Bool.and_eq_false_iff] at free ⊢
  rw [afterAccept_alone empty, restart, limit, census, config, store, mailed.hub]
  obtain ⟨rest, last⟩ := free
  exact ⟨rest, last.imp id fun owed => ⟨owed.1, older⟩⟩

/-! ### The answer (R376) -/

theorem unknowns_of_empty (empty : (s.mbx (issIx iss)).accepted = []) (n : Nat) : s.unknowns iss n = s := by
  cases n with
  | zero => rfl
  | succ n => rw [State.unknowns, empty]

/-- The cell that answers a command. -/
def answerCell (s : State) (iss : Issuer) (a : Accepted) (st detail : Nat) (result : Bytes) : RespCell :=
  { opcode := a.opcode, tag := a.cell.tag, event := false, status := st, lot := s.mgmt.config.lot, detail := BitVec.ofNat 32 detail,
    result := if st = stOk then result else [], msgTag := if issIx iss = 16 then some a.bmcTag else none }

theorem respond_eq {a : Accepted} (only : (s.mbx (issIx iss)).accepted = [a]) {st : Nat} (wellFormed : st ≠ stBadlen) (detail : Nat)
    (result : Bytes) : s.respond iss st result detail = s.setMbx (issIx iss)
      ({ s.mbx (issIx iss) with accepted := [] }.writeCell (issIx iss = 16) (answerCell s iss a st detail result)) := by
  have answered : s.answer (issIx iss) st detail result = s.setMbx (issIx iss)
      ({ s.mbx (issIx iss) with accepted := [] }.writeCell (issIx iss = 16) (answerCell s iss a st detail result)) := by
    rw [State.answer, only]
    simp only [wellFormed, decide_false, Bool.and_false, Bool.false_eq_true, if_false]
    rfl
  rw [State.respond, answered]
  refine unknowns_of_empty ?_ 17
  rw [State.mbx_setMbx, if_pos rfl, Mailbox.writeCell]
  split <;> rfl

/-- The answer to the only command of an issuer. -/
theorem respond_answers (owes : s.owes iss op c) {st : Nat} (wellFormed : st ≠ stBadlen) (detail : Nat) (result : Bytes) :
    Mailed s (s.respond iss st result detail) ∧
      (s.respond iss st result detail).answered iss c op st (if st = stOk then result else []) := by
  obtain ⟨a, only, rfl, rfl⟩ := owes
  rw [respond_eq only wellFormed]
  refine ⟨rfl, answerCell s iss a st detail result, rfl, rfl, rfl, rfl, rfl, ?_⟩
  cases iss with
  | mailbox m =>
    have other : ¬m.val = 16 := by omega
    simp only [issIx, State.mbx_setMbx, if_true, Mailbox.writeCell, other, decide_false, Bool.false_eq_true, if_false, Table.find_insert,
      BitVec.add_sub_cancel]
  | bmc => simp [issIx, Mailbox.writeCell]

/-! ### A served command (R372, R381) -/

section
variable {len : Nat → Bool} {zero : List Nat} {inScope : Bool} {act : State → Option Bytes × State} {lenOk : Bool}
  (served : s.serves iss c op lenOk zero inScope) (hlen : len c.plen.toNat = lenOk)
include served hlen

theorem command_of_serves (bad : List (Nat × Nat)) : s.command iss c op len zero inScope bad act =
    if bad.isEmpty then
      match act (afterAccept s iss op c) with
      | (some r, t) => t.respond iss stOk r
      | (none, t) => t
    else
      let (r, t) := (afterAccept s iss op c).pick bad
      t.respond iss r.1 [] r.2 := by
  obtain ⟨-, empty, room, slots, free, quiet, faultless⟩ := served
  have runs : (afterAccept s iss op c).mustWait iss op = false := afterAccept_mustWait empty free quiet
  have sound := (afterAccept_cellFaults (s := s) (iss := iss) (c := c) (op := op) lenOk zero inScope).trans faultless
  unfold State.command
  extract_lets accepting ready
  have taken : ready = some (afterAccept s iss op c) := by
    dsimp only [ready]
    rw [empty]
    simp only [room, slots, Bool.and_self, if_true]
    cases iss <;> rfl
  clear_value ready
  subst taken
  dsimp only
  rw [if_neg (by simp [runs]), hlen, sound]
  rfl

/-- A served command that its own checks pass acts, and is answered OK with what it gives. -/
theorem command_acts {bad : List (Nat × Nat)} (passes : bad = []) {r : Bytes} {t : State} (acts : act (afterAccept s iss op c) = (some r, t))
    (owes : t.owes iss op c) : Mailed t (s.command iss c op len zero inScope bad act) ∧
      (s.command iss c op len zero inScope bad act).answered iss c op stOk r := by
  rw [command_of_serves served hlen, passes, acts]
  exact respond_answers owes (by decide) 0 r

/-- A served command that one of its own checks refuses is answered with that status, and does nothing. -/
theorem command_refused {bad : List (Nat × Nat)} {st : Nat} (refused : bad = [(st, 0)]) (error : st ≠ stBadlen ∧ st ≠ stOk) :
    Mailed s (s.command iss c op len zero inScope bad act) ∧
      (s.command iss c op len zero inScope bad act).answered iss c op st [] := by
  have answer : s.command iss c op len zero inScope bad act = (afterAccept s iss op c).respond iss st [] 0 := by
    rw [command_of_serves served hlen, refused]
    simp only [List.isEmpty_cons, Bool.false_eq_true, if_false, State.pick]
  rw [answer]
  obtain ⟨mailed, answered⟩ := respond_answers (afterAccept_owes (c := c) (op := op) served.2.1) error.1 0 []
  rw [if_neg error.2] at answered
  exact ⟨(mailed_afterAccept s iss op c).trans mailed, answered⟩

end
end
end Sys2Proof.Machine
end

section
/-! The commands of memory, of the Weld and of the slots that touch no buffer (R219, R224, R228, R239, R246, R258, R357, R366). -/

namespace Sys2Proof.Machine

set_option Elab.async false

section
variable {s t : State} {iss : Issuer} {c : CmdCell} {op : Nat} {zero : List Nat} {inScope : Bool} {len : Nat → Bool}
  {bad : List (Nat × Nat)} {act : State → Option Bytes × State} {i : Instr} {P : State → Prop}
  (served : s.serves iss c op (len c.plen.toNat) zero inScope)
  (runs : exec i s = .next (s.command iss c op len zero inScope bad act))
include served runs

/-- A row of a served command that its own checks pass. -/
theorem completes_of_acts (passes : bad = []) {r : Bytes} (acts : act (afterAccept s iss op c) = (some r, t)) (owes : t.owes iss op c)
    (h : ∀ u, Mailed t u → u.answered iss c op stOk r → P u) : Completes i s P := by
  obtain ⟨mailed, answered⟩ := command_acts served rfl passes acts owes
  exact ⟨_, runs, h _ mailed answered⟩

/-- A row of a served command that one of its own checks refuses. -/
theorem completes_of_refused {st : Nat} (refused : bad = [(st, 0)]) (error : st ≠ stBadlen ∧ st ≠ stOk)
    (h : ∀ u, Mailed s u → u.answered iss c op st [] → P u) : Completes i s P := by
  obtain ⟨mailed, answered⟩ := command_refused (act := act) served rfl refused error
  exact ⟨_, runs, h _ mailed answered⟩

omit runs in
/-- A row of a served command that answers with what it reads, and leaves the mail as it is. -/
theorem completes_of_reply {g : State → Bytes} {f : State → State}
    (runs : exec i s = .next (s.command iss c op len zero inScope bad fun s => (some (g s), f s))) (passes : bad = [])
    (mail : ∀ v, (f v).mgmt.mail = v.mgmt.mail) (h : ∀ u, Mailed (f (afterAccept s iss op c)) u →
      u.answered iss c op stOk (g (afterAccept s iss op c)) → P u) : Completes i s P :=
  completes_of_acts served runs passes rfl (State.owes_of_mail (afterAccept_owes served.2.1) (mail _)) h

end

theorem status_false {b : Bool} (h : b = false) (st : Nat) : status b st = [] := by rw [h]; rfl

theorem status_true {b : Bool} (h : b = true) (st : Nat) : status b st = [(st, 0)] := by rw [h]; rfl

section
variable {s : State} {iss : Issuer} {c : CmdCell} {op : Nat} {len : Nat → Bool} {zero : List Nat} {inScope : Bool} {i : Instr}
  {bad : List (Nat × Nat)}

/-- A command that only reads is answered with what it reads in the state that issues it. -/
theorem completes_of_query {g : State → Bytes} (served : s.serves iss c op (len c.plen.toNat) zero inScope)
    (runs : exec i s = .next (s.command iss c op len zero inScope bad fun s => (some (g s), s))) (passes : bad = []) {r : Bytes}
    (reads : g (afterAccept s iss op c) = r) :
    Completes i s fun t => (t.fab = s.fab ∧ t.hub = s.hub) ∧ t.mem = s.mem ∧ t.answered iss c op stOk r := by
  refine completes_of_reply served runs passes (fun _ => rfl) fun u mailed answered => ?_
  have all := (mailed_afterAccept s iss op c).trans mailed
  rw [reads] at answered
  exact ⟨⟨all.fab, all.hub⟩, all.mem, answered⟩

/-- A command that is refused leaves all but the mail. -/
theorem completes_of_refusal {act : State → Option Bytes × State} (served : s.serves iss c op (len c.plen.toNat) zero inScope)
    (runs : exec i s = .next (s.command iss c op len zero inScope bad act)) {st : Nat} (refused : bad = [(st, 0)])
    (error : st ≠ stBadlen ∧ st ≠ stOk) :
    Completes i s fun t => (t.fab = s.fab ∧ t.hub = s.hub) ∧ t.mem = s.mem ∧ t.mgmt.log = s.mgmt.log ∧ t.answered iss c op st [] :=
  completes_of_refused served runs refused error fun _ mailed answered => ⟨⟨mailed.fab, mailed.hub⟩, mailed.mem, mailed.log, answered⟩

end

theorem Completes.mono {i : Instr} {s : State} {P Q : State → Prop} (h : Completes i s P) (imp : ∀ t, P t → Q t) : Completes i s Q :=
  h.imp fun t ht => ⟨ht.1, imp t ht.2⟩

variable {s : State} {iss : Issuer} {c : CmdCell}

/-! ### The test window, the pseudo-channels (R239, R246, R258) -/

/-- A command that sets whether the test window is armed. -/
theorem setArmed_completes {i : Instr} {op : Nat} (armed : Bool) (served : s.serves iss c op (c.plen.toNat = 0) [] (s.packageWide iss))
    (runs : exec i s = .next (s.command iss c op (· = 0) [] (s.packageWide iss) [] fun s =>
      (some [], s.setWindow { s.mem.window with armed := armed }))) :
    Completes i s fun t => (t.fab = s.fab ∧ t.hub = s.hub) ∧
      t.mem = { s.mem with window := { s.mem.window with armed := armed } } ∧ t.answered iss c op stOk [] := by
  have accepted := mailed_afterAccept s iss op c
  refine completes_of_reply (len := (· = 0)) served runs rfl (fun _ => rfl) fun u mailed answered => ?_
  refine ⟨⟨mailed.fab.trans accepted.fab, mailed.hub.trans accepted.hub⟩, ?_, answered⟩
  rw [mailed.mem, State.setWindow, State.upMem, accepted.mem]

theorem memPcStatus_completes (served : s.serves iss c 0x0703 (c.plen.toNat = 0) [] (s.packageWide iss)) :
    Completes (.memPcStatus iss c) s fun t => (t.fab = s.fab ∧ t.hub = s.hub) ∧ t.mem = s.mem ∧
      t.answered iss c 0x0703 stOk (leBytes 8 s.mem.pcFailed.toNat ++ leBytes 4 s.mem.rows.length) := by
  have runs : exec (.memPcStatus iss c) s = .next (s.command iss c 0x0703 (· = 0) [] (s.packageWide iss) [] fun s =>
      (some (leBytes 8 s.mem.pcFailed.toNat ++ leBytes 4 s.mem.rows.length), s)) := if_pos served.1
  exact completes_of_query (len := (· = 0)) served runs rfl (by rw [(mailed_afterAccept s iss 0x0703 c).mem])

/-! ### The Weld (R219, R224, R228) -/

section
variable (die : CmdCell.at_ c 0 1 < 12) (bundle : CmdCell.at_ c 1 1 < 4)
include die bundle

theorem isBundle_eq : (!isBundle c) = false := by simp [isBundle, die, bundle]

theorem weldStatus_completes (served : s.serves iss c 0x0800 (c.plen.toNat = 2) [] (s.packageWide iss)) :
    Completes (.weldStatus iss c) s fun t => (t.fab = s.fab ∧ t.hub = s.hub) ∧ t.mem = s.mem ∧
      t.answered iss c 0x0800 stOk (leBytes 8 (s.bstat (CmdCell.at_ c 0 1) (CmdCell.at_ c 1 1))) := by
  have runs : exec (.weldStatus iss c) s = .next (s.command iss c 0x0800 (· = 2) [] (s.packageWide iss) (status (!isBundle c) stRange)
      fun s => (some (leBytes 8 (s.bstat (CmdCell.at_ c 0 1) (CmdCell.at_ c 1 1))), s)) := if_pos served.1
  refine completes_of_query (len := (· = 2)) served runs (status_false (isBundle_eq die bundle) _) ?_
  rw [State.bstat, State.bundle, State.port, (mailed_afterAccept s iss 0x0800 c).fab]
  rfl

omit die bundle in
theorem mailed_event (code : Nat) (result : Bytes) : Mailed s (s.event code result) :=
  State.forEach_keeps (Mailed s) (fun t m _ h => by
    split
    · exact h.trans rfl
    · exact h) (.refl s)

omit die bundle in
theorem mailed_pdrTouch : Mailed s s.pdrTouch :=
  Mailed.trans (t := s.upPdr fun p => { p with gen := s.mgmt.pdr.gen + 2 }) rfl (mailed_event ..)

omit die bundle in
/-- An event that is sent, or that waits, leaves the commands that a mailbox has accepted. -/
theorem Mailbox.event_accepted (x : Mailbox) (bmc : Bool) (r : RespCell) : (x.event bmc r).accepted = x.accepted := by
  unfold Mailbox.event Mailbox.writeCell
  split
  · rfl
  · split
    · split
      · split <;> rfl
      · split <;> rfl
    · rfl

omit die bundle in
theorem pdrTouch_accepted (j : Nat) : (s.pdrTouch.mbx j).accepted = (s.mbx j).accepted := by
  refine State.forEach_keeps (fun t => (t.mbx j).accepted = (s.mbx j).accepted) (fun t m _ h => ?_) rfl
  split
  · rw [State.mbx_setMbx]
    split
    · subst_vars
      rw [Mailbox.event_accepted, h]
    · exact h
  · exact h

omit die bundle in
theorem pdrTouch_owes {op : Nat} (owes : s.owes iss op c) : s.pdrTouch.owes iss op c := by
  rwa [State.owes, pdrTouch_accepted]

omit die bundle in
theorem moved_sbSend (p : Nat) (fromHub : Bool) (typ : Byte) (payload : Bytes) : Moved s (s.sbSend p fromHub typ payload) := by
  unfold State.sbSend
  exact .ite (.refl s) (.ite (moved_setPort ..) (moved_setPort ..))

omit die bundle in
theorem moved_leaveActive (p k : Nat) : Moved s (s.leaveActive p k) := by
  unfold State.leaveActive
  extract_lets u v b off w
  have left : Moved s w := ((moved_bufferOut s p k true _).trans (moved_bufferOut u p k false _)).trans (moved_setBundle ..)
  exact .ite (left.trans ((moved_sbSend ..).trans (moved_sbSend ..))) left

omit die bundle in
theorem moved_identAgain (p : Nat) : Moved s (s.identAgain p) := by
  unfold State.identAgain
  exact .ite ((moved_setPort ..).trans ((moved_sbSend ..).trans (moved_sbSend ..))) (.refl s)

omit die bundle in
/-- A field retrain moves packets and frames, and touches the PDR. -/
theorem bundleRetrain_command {p k : Nat} (active : (s.bundle p k).st = .active) :
    ∃ v, Moved s v ∧ s.bundleRetrain p k .command = v.pdrTouch := by
  have trains : s.bundleRetrain p k .command = s.retrained p k (s.violationsWith p k .command) (retrainLanes .command) 8 := by
    rw [State.bundleRetrain_eq, if_neg (not_not.2 active), if_neg (by simp), if_neg nofun]
  rw [trains, State.retrained]
  exact ⟨_, ((moved_leaveActive p k).trans (moved_setBundle ..)).trans (moved_identAgain p), rfl⟩

theorem weldRetrain_active (served : s.serves iss c 0x0801 (c.plen.toNat = 2) [] (s.packageWide iss))
    (active : (s.bundle (CmdCell.at_ c 0 1) (CmdCell.at_ c 1 1)).st = .active) :
    Completes (.weldRetrain iss c) s fun t => (t.mem = s.mem ∧ t.hub = s.hub ∧ t.fab.harts = s.fab.harts) ∧
      (t.bundle (CmdCell.at_ c 0 1) (CmdCell.at_ c 1 1)).Retrains ∧ t.answered iss c 0x0801 stOk [] := by
  have runs : exec (.weldRetrain iss c) s = .next (s.command iss c 0x0801 (· = 2) [] (s.packageWide iss)
      (status (!isBundle c) stRange ++ status ((s.bundle (CmdCell.at_ c 0 1) (CmdCell.at_ c 1 1)).st ≠ .active) stState) fun s =>
        (some [], s.bundleRetrain (CmdCell.at_ c 0 1) (CmdCell.at_ c 1 1) .command)) := if_pos served.1
  have passes : status (!isBundle c) stRange ++ status ((s.bundle (CmdCell.at_ c 0 1) (CmdCell.at_ c 1 1)).st ≠ .active) stState = [] := by
    rw [status_false (isBundle_eq die bundle), status_false (by simp [active])]
    rfl
  have accepted := mailed_afterAccept s iss 0x0801 c
  have active' : ((afterAccept s iss 0x0801 c).bundle (CmdCell.at_ c 0 1) (CmdCell.at_ c 1 1)).st = .active := by
    rwa [State.bundle, State.port, accepted.fab, ← State.port, ← State.bundle]
  obtain ⟨v, ⟨mem, hub, -, -, harts, -, -, -, mgmt⟩, retrained⟩ := bundleRetrain_command active'
  have trains := State.bundleRetrain_trains (c := .command) _ _ _ active' nofun nofun
  rw [retrained] at trains
  have owes : v.pdrTouch.owes iss 0x0801 c :=
    pdrTouch_owes (State.owes_of_mail (afterAccept_owes served.2.1) (by rw [mgmt]))
  refine completes_of_acts (len := (· = 2)) served runs passes (by rw [retrained]) owes fun u mailed answered => ?_
  have touched := (mailed_pdrTouch (s := v)).trans mailed
  refine ⟨⟨touched.mem.trans (mem.trans accepted.mem), touched.hub.trans (hub.trans accepted.hub), ?_⟩, ?_, answered⟩
  · rw [touched.fab, harts, accepted.fab]
  · rwa [State.bundle, State.port, mailed.fab, ← State.port, ← State.bundle]

theorem weldRetrain_idle (served : s.serves iss c 0x0801 (c.plen.toNat = 2) [] (s.packageWide iss))
    (idle : (s.bundle (CmdCell.at_ c 0 1) (CmdCell.at_ c 1 1)).st ≠ .active) :
    Completes (.weldRetrain iss c) s fun t => (t.fab = s.fab ∧ t.hub = s.hub) ∧ t.answered iss c 0x0801 stState [] := by
  have runs : exec (.weldRetrain iss c) s = .next (s.command iss c 0x0801 (· = 2) [] (s.packageWide iss)
      (status (!isBundle c) stRange ++ status ((s.bundle (CmdCell.at_ c 0 1) (CmdCell.at_ c 1 1)).st ≠ .active) stState) fun s =>
        (some [], s.bundleRetrain (CmdCell.at_ c 0 1) (CmdCell.at_ c 1 1) .command)) := if_pos served.1
  refine (completes_of_refusal (len := (· = 2)) (st := stState) served runs ?_ (by decide)).mono
    fun _ ⟨still, _, _, answered⟩ => ⟨still, answered⟩
  rw [status_false (isBundle_eq die bundle), status_true (by simp [idle])]
  rfl

theorem weldCapClear_capped (served : s.serves iss c 0x0802 (c.plen.toNat = 2) [] (s.packageWide iss))
    (capped : (s.bundle (CmdCell.at_ c 0 1) (CmdCell.at_ c 1 1)).cap ≠ .none) :
    Completes (.weldCapClear iss c) s fun t => t.mem = s.mem ∧ t.hub = s.hub ∧
      t.bundle (CmdCell.at_ c 0 1) (CmdCell.at_ c 1 1) =
        { s.bundle (CmdCell.at_ c 0 1) (CmdCell.at_ c 1 1) with capCleared := true } ∧ t.answered iss c 0x0802 stOk [] := by
  have runs : exec (.weldCapClear iss c) s = .next (s.command iss c 0x0802 (· = 2) [] (s.packageWide iss)
      (status (!isBundle c) stRange ++ status ((s.bundle (CmdCell.at_ c 0 1) (CmdCell.at_ c 1 1)).cap = .none) stNone) fun s =>
        (some [], s.setBundle (CmdCell.at_ c 0 1) (CmdCell.at_ c 1 1)
          { s.bundle (CmdCell.at_ c 0 1) (CmdCell.at_ c 1 1) with capCleared := true })) := if_pos served.1
  have passes : status (!isBundle c) stRange ++ status ((s.bundle (CmdCell.at_ c 0 1) (CmdCell.at_ c 1 1)).cap = .none) stNone = [] := by
    rw [status_false (isBundle_eq die bundle), status_false (by simp [capped])]
    rfl
  have accepted := mailed_afterAccept s iss 0x0802 c
  refine completes_of_reply (len := (· = 2)) served runs passes (fun _ => rfl) fun u mailed answered => ?_
  refine ⟨mailed.mem.trans accepted.mem, mailed.hub.trans accepted.hub, ?_, answered⟩
  rw [State.bundle, State.port, mailed.fab, ← State.port, ← State.bundle, State.bundle_setBundle, if_pos ⟨rfl, rfl⟩, State.bundle, State.port,
    accepted.fab]
  rfl

theorem weldCapClear_uncapped (served : s.serves iss c 0x0802 (c.plen.toNat = 2) [] (s.packageWide iss))
    (uncapped : (s.bundle (CmdCell.at_ c 0 1) (CmdCell.at_ c 1 1)).cap = .none) :
    Completes (.weldCapClear iss c) s fun t => (t.fab = s.fab ∧ t.hub = s.hub) ∧ t.answered iss c 0x0802 stNone [] := by
  have runs : exec (.weldCapClear iss c) s = .next (s.command iss c 0x0802 (· = 2) [] (s.packageWide iss)
      (status (!isBundle c) stRange ++ status ((s.bundle (CmdCell.at_ c 0 1) (CmdCell.at_ c 1 1)).cap = .none) stNone) fun s =>
        (some [], s.setBundle (CmdCell.at_ c 0 1) (CmdCell.at_ c 1 1)
          { s.bundle (CmdCell.at_ c 0 1) (CmdCell.at_ c 1 1) with capCleared := true })) := if_pos served.1
  refine (completes_of_refusal (len := (· = 2)) (st := stNone) served runs ?_ (by decide)).mono
    fun _ ⟨still, _, _, answered⟩ => ⟨still, answered⟩
  rw [status_false (isBundle_eq die bundle), status_true (by simp [uncapped])]
  rfl

end

/-! ### The slots (R357, R366) -/

section
variable (port : CmdCell.at_ c 0 1 < 32)
include port

theorem slotStatus_completes (served : s.serves iss c 0x0900 (c.plen.toNat = 1) [] (s.portScope iss (CmdCell.at_ c 0 1))) :
    Completes (.slotStatus iss c) s fun t => (t.fab = s.fab ∧ t.hub = s.hub) ∧ t.mem = s.mem ∧ t.answered iss c 0x0900 stOk
      [(s.rootPort (CmdCell.at_ c 0 1)).outByte, (s.rootPort (CmdCell.at_ c 0 1)).inByte,
        BitVec.ofNat 8 (bitOf s.hub.chain.faulted + 2 * bitOf ((s.rootPort (CmdCell.at_ c 0 1)).link = .fenced))] := by
  have runs : exec (.slotStatus iss c) s = .next (s.command iss c 0x0900 (· = 1) [] (s.portScope iss (CmdCell.at_ c 0 1))
      (status (32 ≤ CmdCell.at_ c 0 1) stRange) fun s => (some
        [(s.rootPort (CmdCell.at_ c 0 1)).outByte, (s.rootPort (CmdCell.at_ c 0 1)).inByte,
          BitVec.ofNat 8 (bitOf s.hub.chain.faulted + 2 * bitOf ((s.rootPort (CmdCell.at_ c 0 1)).link = .fenced))], s)) := if_pos served.1
  refine completes_of_query (len := (· = 1)) served runs (status_false (by simp [port]) _) ?_
  rw [State.rootPort, (mailed_afterAccept s iss 0x0900 c).hub]
  rfl

/-- A port that is released from its fence: DOWN, with PERST_N high (R366). -/
def RootPort.unfenced (p : RootPort) : RootPort := { p with link := .down, outByte := (p.outByte &&& 0xFB) ||| 4 }

/-- The state whose port is DOWN with PERST_N released. -/
def State.releasePort (s : State) (r : Nat) : State := (s.setRootPort r { s.rootPort r with link := .down }).slotOut r 0x04 0x04

omit port in
theorem rootPort_releasePort (r : Nat) : (s.releasePort r).rootPort r = (s.rootPort r).unfenced := by
  have others : ~~~(0x04 : Byte) = 0xFB := by decide
  have high : (0x04 : Byte) &&& 0x04 = 4 := by decide
  rw [State.releasePort, State.slotOut, State.rootPort_setRootPort, if_pos rfl, State.rootPort_setRootPort, if_pos rfl, others, high]
  rfl

theorem slotUnfence_fenced (served : s.serves iss c 0x0901 (c.plen.toNat = 1) [] (s.portScope iss (CmdCell.at_ c 0 1)))
    (fenced : (s.rootPort (CmdCell.at_ c 0 1)).link = .fenced) :
    Completes (.slotUnfence iss c) s fun t => t.fab = s.fab ∧ t.mem = s.mem ∧
      t.rootPort (CmdCell.at_ c 0 1) = (s.rootPort (CmdCell.at_ c 0 1)).unfenced ∧ t.answered iss c 0x0901 stOk [] := by
  have runs : exec (.slotUnfence iss c) s = .next (s.command iss c 0x0901 (· = 1) [] (s.portScope iss (CmdCell.at_ c 0 1))
      (status (32 ≤ CmdCell.at_ c 0 1) stRange ++ status ((s.rootPort (CmdCell.at_ c 0 1)).link ≠ .fenced) stState) fun s =>
        (some [], (s.releasePort (CmdCell.at_ c 0 1)).pdrTouch)) := if_pos served.1
  have passes : status (32 ≤ CmdCell.at_ c 0 1) stRange ++ status ((s.rootPort (CmdCell.at_ c 0 1)).link ≠ .fenced) stState = [] := by
    rw [status_false (by simp [port]), status_false (by simp [fenced])]
    rfl
  have accepted := mailed_afterAccept s iss 0x0901 c
  have owes := pdrTouch_owes (State.owes_of_mail (t := (afterAccept s iss 0x0901 c).releasePort (CmdCell.at_ c 0 1))
    (afterAccept_owes served.2.1) rfl)
  refine completes_of_acts (len := (· = 1)) served runs passes rfl owes fun u mailed answered => ?_
  have touched := mailed_pdrTouch.trans mailed
  refine ⟨touched.fab.trans accepted.fab, touched.mem.trans accepted.mem, ?_, answered⟩
  rw [State.rootPort, touched.hub, ← State.rootPort, rootPort_releasePort, State.rootPort, accepted.hub]
  rfl

theorem slotUnfence_other (served : s.serves iss c 0x0901 (c.plen.toNat = 1) [] (s.portScope iss (CmdCell.at_ c 0 1)))
    (other : (s.rootPort (CmdCell.at_ c 0 1)).link ≠ .fenced) :
    Completes (.slotUnfence iss c) s fun t => (t.fab = s.fab ∧ t.hub = s.hub) ∧ t.answered iss c 0x0901 stState [] := by
  have runs : exec (.slotUnfence iss c) s = .next (s.command iss c 0x0901 (· = 1) [] (s.portScope iss (CmdCell.at_ c 0 1))
      (status (32 ≤ CmdCell.at_ c 0 1) stRange ++ status ((s.rootPort (CmdCell.at_ c 0 1)).link ≠ .fenced) stState) fun s =>
        (some [], (s.releasePort (CmdCell.at_ c 0 1)).pdrTouch)) := if_pos served.1
  refine (completes_of_refusal (len := (· = 1)) (st := stState) served runs ?_ (by decide)).mono
    fun _ ⟨still, _, _, answered⟩ => ⟨still, answered⟩
  rw [status_false (by simp [port]), status_true (by simp [other])]
  rfl

end

/-! ### The acknowledgement of records (R501) -/

theorem afterAccept_visibleErr (s : State) (iss : Issuer) (op : Nat) (c : CmdCell) :
    (afterAccept s iss op c).visibleErr iss = s.visibleErr iss := by
  have part : (afterAccept s iss op c).issPart iss = s.issPart iss := by cases iss <;> rfl
  rw [State.visibleErr, part, (mailed_afterAccept s iss op c).log, State.visibleErr]

/-- The records that an issuer sees, up to a SEQ. -/
def State.seenUpTo (s : State) (iss : Issuer) (seq : Nat) : List (Nat × ErrRec) :=
  (s.visibleErr iss).filter fun e => e.2.seq.toNat ≤ seq

/-- The state whose log is without some records. -/
def State.freeErr (s : State) (l : List (Nat × ErrRec)) : State :=
  s.upLog fun x => { x with slots := x.slots.filter fun e => !(l.any fun d => d.1 = e.1) }

/-- ERR_ACK as the command that it is. -/
theorem errAck_runs (served : s.serves iss c 0x0B01 (c.plen.toNat = 8) [] true) :
    exec (.errAck iss c) s = .next (s.command iss c 0x0B01 (· = 8) [] true
      (status ((Table.get 0 s.mgmt.log.cursors (s.errCursor iss)).toNat < CmdCell.at_ c 0 8) stRange) fun s =>
        (some (leBytes 4 (s.seenUpTo iss (CmdCell.at_ c 0 8)).length), s.freeErr (s.seenUpTo iss (CmdCell.at_ c 0 8)))) :=
  if_pos served.1

theorem errAck_upTo (served : s.serves iss c 0x0B01 (c.plen.toNat = 8) [] true)
    (upTo : CmdCell.at_ c 0 8 ≤ (Table.get 0 s.mgmt.log.cursors (s.errCursor iss)).toNat) :
    Completes (.errAck iss c) s fun t => (t.fab = s.fab ∧ t.hub = s.hub) ∧ t.mem = s.mem ∧
      t.answered iss c 0x0B01 stOk (leBytes 4 (s.seenUpTo iss (CmdCell.at_ c 0 8)).length) ∧
      t.mgmt.log.slots = s.mgmt.log.slots.filter fun e => !((s.seenUpTo iss (CmdCell.at_ c 0 8)).any fun d => d.1 = e.1) := by
  have accepted := mailed_afterAccept s iss 0x0B01 c
  have seen : (afterAccept s iss 0x0B01 c).seenUpTo iss (CmdCell.at_ c 0 8) = s.seenUpTo iss (CmdCell.at_ c 0 8) := by
    rw [State.seenUpTo, afterAccept_visibleErr, State.seenUpTo]
  refine completes_of_reply (len := (· = 8)) served (errAck_runs served) (status_false (decide_eq_false (Nat.not_lt.2 upTo)) _) (fun _ => rfl)
    fun u mailed answered => ?_
  rw [seen] at mailed answered
  refine ⟨⟨mailed.fab.trans accepted.fab, mailed.hub.trans accepted.hub⟩, mailed.mem.trans accepted.mem, answered, ?_⟩
  rw [mailed.log, ← accepted.log]
  rfl

theorem errAck_beyond (served : s.serves iss c 0x0B01 (c.plen.toNat = 8) [] true)
    (beyond : (Table.get 0 s.mgmt.log.cursors (s.errCursor iss)).toNat < CmdCell.at_ c 0 8) :
    Completes (.errAck iss c) s fun t => (t.fab = s.fab ∧ t.hub = s.hub) ∧ t.mem = s.mem ∧ t.mgmt.log = s.mgmt.log ∧
      t.answered iss c 0x0B01 stRange [] :=
  completes_of_refusal (len := (· = 8)) served (errAck_runs served) (status_true (decide_eq_true beyond) _) (by decide)

end Sys2Proof.Machine
end

section
/-! The commit of an event of the hub queue to the error log (R496, R497, R500, R501, R507). -/

namespace Sys2Proof.Machine

set_option Elab.async false

variable {s : State}

theorem mailed_eventTo (code : Nat) (result : Bytes) (sees : Nat → Bool) : Mailed s (s.eventTo code result sees) :=
  State.forEach_keeps (Mailed s) (fun t m _ h => by
    split
    · exact h.trans rfl
    · exact h) (.refl s)

/-- A log with a record written to a slot, under the next sequence number. -/
def ErrLog.written (l : ErrLog) (e : ErrRec) (slot : Nat × Bool) : ErrLog :=
  { l with
    seqBase := if l.seqBase.toNat ≤ l.nextSeq.toNat then l.seqBase + 65536 else l.seqBase
    nextSeq := l.nextSeq + 1
    slots := Table.insert l.slots slot.1 { e with seq := l.nextSeq, lost := e.lost || slot.2 } }

/-- The slot for a record is chosen by the slots alone. -/
theorem slotFor_congr {l m : ErrLog} (slots : l.slots = m.slots) : l.slotFor = m.slotFor := by
  unfold ErrLog.slotFor
  rw [slots]

/-- A record written changes the log, and events tell of it. -/
theorem writeErr_written (e : ErrRec) : Mailed (s.upLog fun l => l.written e s.mgmt.log.slotFor) (s.writeErr e) := by
  have slot : s.takeErrSeq.2.mgmt.log.slotFor = s.mgmt.log.slotFor := slotFor_congr rfl
  unfold State.writeErr
  rw [show s.takeErrSeq = (s.mgmt.log.nextSeq, s.takeErrSeq.2) from rfl]
  dsimp only
  rw [slot]
  generalize s.mgmt.log.slotFor = p
  exact mailed_eventTo ..

/-! ### What a commit may reach -/

/-- From `s` to `t` only the mail, Mordant's own state and the PDR have changed, and of the log what records change. -/
structure Recorded (s t : State) : Prop where
  state : t = { s with mgmt := { s.mgmt with mail := t.mgmt.mail, mordant := t.mgmt.mordant, pdr := t.mgmt.pdr, log := t.mgmt.log } }
  queue : t.mgmt.log.queue = s.mgmt.log.queue
  fenced : t.mgmt.log.hubFenced = s.mgmt.log.hubFenced

theorem Recorded.trans {t u : State} (a : Recorded s t) (b : Recorded t u) : Recorded s u where
  state := by rw [b.state, a.state]
  queue := b.queue.trans a.queue
  fenced := b.fenced.trans a.fenced

theorem Mailed.recorded {t : State} (a : Mailed s t) : Recorded s t where
  state := by rw [a]
  queue := congrArg ErrLog.queue a.log
  fenced := congrArg ErrLog.hubFenced a.log

theorem recorded_writeErr (e : ErrRec) : Recorded s (s.writeErr e) :=
  Recorded.trans (t := s.upLog fun l => l.written e s.mgmt.log.slotFor) ⟨rfl, rfl, rfl⟩ (writeErr_written e).recorded

theorem recorded_newErr (e : ErrRec) : Recorded s (s.newErr e) := by
  unfold State.newErr
  extract_lets n u
  have first : Recorded s u :=
    Recorded.trans (t := s.upLog fun l => { l with dropped := 0 }) ⟨rfl, rfl, rfl⟩ (recorded_writeErr _)
  split
  · exact recorded_writeErr e
  · exact first.trans (recorded_writeErr _)

/-- An event that no core's count of corrected errors takes (R506). -/
theorem countCore_other {e : ErrRec} (other : e.source = .home ∨ e.cls = .uncorrected ∧ e.trap = false) : s.countCore e = s := by
  refine if_pos ?_
  rcases other with home | ⟨cls, trap⟩
  · simp [home]
  · simp [cls, trap]

/-! ### The rows -/

/-- The state whose oldest event has left the hub queue, and is counted at its hub block. -/
def State.popped (s : State) (e : ErrRec) (rest : List ErrRec) : State := (s.upLog fun l => { l with queue := rest }).countHub e

section
variable (timed : s.timed = true)
include timed

theorem exec_logRecordCommit_empty (empty : s.mgmt.log.queue = []) : exec .logRecordCommit s = .next s := by
  have runs : exec .logRecordCommit s = match s.mgmt.log.queue with
    | [] => .next s
    | _ :: _ => _ := if_pos timed
  rw [runs, empty]

variable {e : ErrRec} {rest : List ErrRec} (front : s.mgmt.log.queue = e :: rest)
include front

omit timed front in
/-- An event passed to the log leaves its records and what is fenced. -/
theorem logRec_keeps (x : ErrRec) : (s.logRec x).mgmt.log.slots = s.mgmt.log.slots ∧
    (s.logRec x).mgmt.log.hubFenced = s.mgmt.log.hubFenced := by
  by_cases room : s.mgmt.log.queue.length < 1024
  · simp only [State.logRec, State.upLog, room, if_true, and_self]
  · simp only [State.logRec, State.upLog, room, if_false, and_self]

omit timed front in
/-- A count at a hub block leaves the records. -/
theorem countHub_slots : (s.countHub e).mgmt.log.slots = s.mgmt.log.slots := by
  unfold State.countHub
  split
  · rfl
  · extract_lets l u v slices w
    have kept : w.mgmt = v.mgmt := by
      refine State.forEach_keeps (fun t => t.mgmt = v.mgmt) (fun t k _ h => ?_) rfl
      exact h
    clear_value w
    split
    · rfl
    · rw [State.logE, (logRec_keeps _).1, kept]
      rfl

omit timed front in
theorem popped_same : (s.popped e rest).mgmt.log.same e = s.mgmt.log.same e := by
  rw [ErrLog.same, State.popped, countHub_slots, ErrLog.same]
  rfl

/-- A record that an event repeats (R500). -/
def repeatedErr (r e : ErrRec) : ErrRec :=
  { r with count := if r.count = 0xFFFF then 0xFFFF else r.count + 1, last := if r.last.toNat < e.last.toNat then e.last else r.last }

theorem exec_logRecordCommit_same {i : Nat} {r : ErrRec} (same : s.mgmt.log.same e = some (i, r)) :
    exec .logRecordCommit s = .next ((s.popped e rest).upLog fun l => { l with
      slots := Table.insert l.slots i (repeatedErr r e) }) := by
  have runs : exec .logRecordCommit s = execLogRecordCommit s := rfl
  have taken : execLogRecordCommit s = _ := if_pos timed
  rw [runs, taken, front]
  dsimp only
  rw [← State.popped, popped_same, same]
  rfl

theorem exec_logRecordCommit_new (new : s.mgmt.log.same e = none) :
    exec .logRecordCommit s = .next (((s.popped e rest).newErr e).countCore e) := by
  have runs : exec .logRecordCommit s = execLogRecordCommit s := rfl
  have taken : execLogRecordCommit s = _ := if_pos timed
  rw [runs, taken, front]
  dsimp only
  rw [← State.popped, popped_same, new]

omit timed front in
theorem popped_unblocked (block : hubBlock e = none) : s.popped e rest = s.upLog fun l => { l with queue := rest } := by
  rw [State.popped, State.countHub, block]

theorem logRecordCommit_new {i : Nat} (block : hubBlock e = none) (new : s.mgmt.log.same e = none) (none : s.mgmt.log.dropped = 0)
    (cls : e.cls = .uncorrected) (trap : e.trap = false) (slot : s.mgmt.log.slotFor = (i, false)) :
    Completes .logRecordCommit s fun t => t.fab = s.fab ∧ t.mem = s.mem ∧ t.hub = s.hub ∧ t.mgmt.log.queue = rest ∧
      Table.find t.mgmt.log.slots i = some { e with seq := s.mgmt.log.nextSeq } ∧ t.mgmt.log.nextSeq = s.mgmt.log.nextSeq + 1 ∧
      ∀ j, j ≠ i → Table.find t.mgmt.log.slots j = Table.find s.mgmt.log.slots j := by
  refine ⟨_, exec_logRecordCommit_new timed front new, ?_⟩
  have written : (s.popped e rest).newErr e = (s.upLog fun l => { l with queue := rest }).writeErr e := by
    rw [popped_unblocked block]
    exact if_pos none
  rw [countCore_other (.inr ⟨cls, trap⟩), written]
  have mailed := writeErr_written (s := s.upLog fun l => { l with queue := rest }) e
  have free : (s.upLog fun l => { l with queue := rest }).mgmt.log.slotFor = (i, false) := by
    rw [← slot]
    exact slotFor_congr rfl
  rw [free] at mailed
  have slots : ((s.upLog fun l => { l with queue := rest }).writeErr e).mgmt.log.slots =
      Table.insert s.mgmt.log.slots i { e with seq := s.mgmt.log.nextSeq } := by
    rw [mailed.log]
    change Table.insert _ i { e with seq := _, lost := e.lost || false } = _
    rw [Bool.or_false]
    rfl
  refine ⟨mailed.fab, mailed.mem, mailed.hub, by rw [mailed.log]; rfl, ?_, by rw [mailed.log]; rfl, fun j other => ?_⟩
  · rw [slots, Table.find_insert, if_pos rfl]
  · rw [slots, Table.find_insert, if_neg other]

theorem logRecordCommit_repeat {i : Nat} {r : ErrRec} (block : hubBlock e = none) (same : s.mgmt.log.same e = some (i, r))
    (countable : r.count ≠ 0xFFFF) (later : r.last.toNat < e.last.toNat) :
    Completes .logRecordCommit s fun t => t.fab = s.fab ∧ t.mem = s.mem ∧ t.hub = s.hub ∧ t.mgmt.log.queue = rest ∧
      Table.find t.mgmt.log.slots i = some { r with count := r.count + 1, last := e.last } ∧ t.mgmt.log.nextSeq = s.mgmt.log.nextSeq := by
  refine ⟨_, exec_logRecordCommit_same timed front same, ?_⟩
  have counted : repeatedErr r e = { r with count := r.count + 1, last := e.last } := by rw [repeatedErr, if_neg countable, if_pos later]
  rw [popped_unblocked block, counted]
  exact ⟨rfl, rfl, rfl, rfl, (Table.find_insert ..).trans (if_pos rfl), rfl⟩

/-! ### The sixteenth uncorrectable event of a slice (R507) -/

omit timed front in
theorem hubBlock_slice {b : Nat} (block : hubBlock e = some b) (slice : b < 32) : e.source = .home := by
  unfold hubBlock at block
  split at block
  · cases block
  · split at block
    · next home =>
      simp only [Bool.and_eq_true, decide_eq_true_eq] at home
      exact home.1
    · split at block
      · have := Option.some.inj block
        split at this
        · omega
        · split at this <;> omega
      · cases block

omit timed front in
/-- The sixteenth uncorrectable event of a slice within a second fences it. -/
theorem countHub_fences {b : Nat} (block : hubBlock e = some b) (slice : b < 32) (unfenced : s.mgmt.log.hubFenced.contains b = false)
    (many : 15 ≤ ((Table.get [] s.mgmt.log.hubCounts b).filter fun u => e.time.toNat < u.toNat + 100000000).length) :
    ((s.countHub e).home b).fenced = true ∧ b ∈ (s.countHub e).mgmt.log.hubFenced ∧ (s.countHub e).fab.harts = s.fab.harts ∧
      (s.countHub e).mem = s.mem := by
  unfold State.countHub
  split
  next none => cases none.symm.trans block
  next b' some =>
  obtain rfl : b = b' := Option.some.inj (block.symm.trans some)
  extract_lets l u v slices w
  have long : ¬(decide (l.length < 16) || u.mgmt.log.hubFenced.contains b) = true := by
    have length : l.length = _ + 1 := List.length_append
    have clear : u.mgmt.log.hubFenced.contains b = false := unfenced
    rw [clear, Bool.or_false, decide_eq_true_eq, length]
    omega
  have fenced : w = v.setHome b { v.home b with fenced := true } := by
    have one : slices = [b] := if_pos slice
    dsimp only [w]
    rw [one]
    rfl
  rw [if_neg long, fenced]
  refine ⟨?_, ?_, rfl, rfl⟩
  · exact congrArg HomeState.fenced ((State.home_setHome v b b _).trans (if_pos rfl))
  · rw [State.logE, (logRec_keeps _).2]
    exact List.mem_append_right _ (List.mem_singleton.2 rfl)

theorem logRecordCommit_fences {b : Nat} (block : hubBlock e = some b) (slice : b < 32)
    (unfenced : s.mgmt.log.hubFenced.contains b = false)
    (many : 15 ≤ ((Table.get [] s.mgmt.log.hubCounts b).filter fun u => e.time.toNat < u.toNat + 100000000).length) :
    Completes .logRecordCommit s fun t => (t.home b).fenced = true ∧ b ∈ t.mgmt.log.hubFenced ∧ t.fab.harts = s.fab.harts ∧
      t.mem = s.mem := by
  have fences := countHub_fences (s := s.upLog fun l => { l with queue := rest }) block slice unfenced many
  rcases same : s.mgmt.log.same e with _ | ⟨i, r⟩
  · refine ⟨_, exec_logRecordCommit_new timed front same, ?_⟩
    rw [countCore_other (.inl (hubBlock_slice block slice))]
    have kept := recorded_newErr (s := s.popped e rest) e
    obtain ⟨fenced, listed, harts, mem⟩ := fences
    refine ⟨?_, kept.fenced ▸ listed, ?_, ?_⟩
    · rw [kept.state]
      exact fenced
    · rw [kept.state]
      exact harts
    · rw [kept.state]
      exact mem
  · exact ⟨_, exec_logRecordCommit_same timed front same, fences⟩

end
end Sys2Proof.Machine
end

section
/-! The commands that fill a buffer of memory: what a write to memory on Mordant's behalf leaves unchanged (R191, R524), and the
answers of MEM_REPAIR_LIST and ERR_READ (R246, R501). Each operation that such a write uses has a lemma named after it, which says that
it keeps `Buffered`. -/

namespace Sys2Proof.Machine

set_option Elab.async false

/-- `o` with the fabric, memory and log of `t`, its filter and meters, its uncore counters, its cascade links and its bytes to come. -/
def State.withTraffic (o t : State) : State :=
  { o with
    fab := t.fab
    mem := t.mem
    hub := { o.hub with filter := t.hub.filter, meters := t.hub.meters }
    mgmt := { o.mgmt with unc := t.mgmt.unc, log := t.mgmt.log, casc := { o.mgmt.casc with links := t.mgmt.casc.links } }
    free := t.free }

/-- What a write to a buffer leaves: all but the traffic, and of it the fences of the slices, the repairs of the stacks, the records of
the log and their cursors. -/
structure Buffered (o t : State) : Prop where
  outside : t = o.withTraffic t
  fenced : ∀ k, (t.home k).fenced = (o.home k).fenced
  repairs : t.mem.repairs = o.mem.repairs
  slots : t.mgmt.log.slots = o.mgmt.log.slots
  cursors : t.mgmt.log.cursors = o.mgmt.log.cursors

variable {o s t u : State} {α β : Type}

theorem Buffered.refl (s : State) : Buffered s s := ⟨rfl, fun _ => rfl, rfl, rfl, rfl⟩

theorem Buffered.frame (hs : Buffered o s) (outside : t = s.withTraffic t := by rfl) (homes : t.fab.homes = s.fab.homes := by rfl)
    (repairs : t.mem.repairs = s.mem.repairs := by rfl) (slots : t.mgmt.log.slots = s.mgmt.log.slots := by rfl)
    (cursors : t.mgmt.log.cursors = s.mgmt.log.cursors := by rfl) : Buffered o t := by
  refine ⟨?_, fun k => ?_, repairs.trans hs.repairs, slots.trans hs.slots, cursors.trans hs.cursors⟩
  · rw [outside, hs.outside]
    rfl
  · rw [← hs.fenced, State.home, homes, State.home]

section
variable {c : Prop} [Decidable c]

theorem Buffered.ite (ht : Buffered o t) (hu : Buffered o u) : Buffered o (if c then t else u) := by
  split
  · exact ht
  · exact hu

theorem Buffered.ite₂ {p q : α × State} (hp : Buffered o p.2) (hq : Buffered o q.2) : Buffered o (if c then p else q).2 := by
  split
  · exact hp
  · exact hq

theorem Buffered.ite₃ {p q : α × β × State} (hp : Buffered o p.2.2) (hq : Buffered o q.2.2) : Buffered o (if c then p else q).2.2 := by
  split
  · exact hp
  · exact hq

end

theorem Buffered.fst {a : α} (ht : Buffered o t) : Buffered o ((t, a) : State × α).1 := ht

theorem Buffered.snd {a : α} (ht : Buffered o t) : Buffered o ((a, t) : α × State).2 := ht

theorem Buffered.thd {a : α} {b : β} (ht : Buffered o t) : Buffered o ((a, b, t) : α × β × State).2.2 := ht

/-! ### The state's parts -/

theorem Buffered.setHart (hs : Buffered o s) {i : Nat} {v : HartState} : Buffered o (s.setHart i v) := .frame hs

theorem Buffered.setCore (hs : Buffered o s) {i : Nat} {v : CoreState} : Buffered o (s.setCore i v) := .frame hs

theorem Buffered.setDie (hs : Buffered o s) {i : Nat} {v : DieState} : Buffered o (s.setDie i v) := .frame hs

theorem Buffered.setHome (hs : Buffered o s) {i : Nat} {v : HomeState} (hf : v.fenced = (s.home i).fenced := by rfl) :
    Buffered o (s.setHome i v) := by
  refine ⟨?_, fun k => ?_, hs.repairs, hs.slots, hs.cursors⟩
  · rw [hs.outside]
    rfl
  · rw [State.home_setHome]
    split
    · subst_vars
      exact hf.trans (hs.fenced _)
    · exact hs.fenced k

theorem Buffered.setGranule (hs : Buffered o s) {i : Nat} {v : Granule} : Buffered o (s.setGranule i v) := .frame hs

theorem Buffered.setMapErr (hs : Buffered o s) {i v : Nat} : Buffered o (s.setMapErr i v) := .frame hs

theorem Buffered.setSlotsUsed (hs : Buffered o s) {i v : Nat} : Buffered o (s.setSlotsUsed i v) := .frame hs

theorem Buffered.setMeter (hs : Buffered o s) {i : Nat} {v : MeterState} : Buffered o (s.setMeter i v) := .frame hs

theorem Buffered.setFilterAt (hs : Buffered o s) {i : Nat} {v : Option FilterEntry} : Buffered o (s.setFilterAt i v) := .frame hs

theorem Buffered.setUncUnit (hs : Buffered o s) {i : Nat} {v : UncUnit} : Buffered o (s.setUncUnit i v) := .frame hs

theorem Buffered.setCascLink (hs : Buffered o s) {i : Nat} {v : CascLink} : Buffered o (s.setCascLink i v) := .frame hs

theorem Buffered.takeNat (hs : Buffered o s) : Buffered o s.takeNat.2 := .frame hs

theorem Buffered.takeBytes (hs : Buffered o s) {n : Nat} : Buffered o (s.takeBytes n).2 := .frame hs

theorem Buffered.upFab (hs : Buffered o s) {f : Fabric → Fabric} (hh : ∀ x, (f x).homes = x.homes := by exact fun _ => rfl) :
    Buffered o (s.upFab f) :=
  .frame hs (homes := hh _)

theorem Buffered.upMem (hs : Buffered o s) {f : Memory → Memory} (hr : ∀ m, (f m).repairs = m.repairs := by exact fun _ => rfl) :
    Buffered o (s.upMem f) :=
  .frame hs (repairs := hr _)

theorem Buffered.forEach {α : Type} (hs : Buffered o s) {l : List α} {f : State → α → State}
    (hf : ∀ t a, Buffered o t → Buffered o (f t a)) :
    Buffered o (s.forEach l f) :=
  State.forEach_keeps (Buffered o) (fun t a _ => hf t a) hs

theorem Buffered.logRec (hs : Buffered o s) {e : ErrRec} : Buffered o (s.logRec e) := by
  by_cases room : s.mgmt.log.queue.length < 1024
  · simp only [State.logRec, State.upLog, room, if_true]
    exact .frame hs
  · simp only [State.logRec, State.upLog, room, if_false]
    exact .frame hs

theorem Buffered.logE (hs : Buffered o s) {cls : ErrClass} {src : ErrSource} {why : ErrReason} {unit addr : Nat} {hue : BitVec 12}
    {info aux : Nat} {trap fence : Bool} : Buffered o (s.logE cls src why unit addr hue info aux trap fence) :=
  .logRec hs

theorem Buffered.send (hs : Buffered o s) {m : Msg} : Buffered o (s.send m) := .upFab hs

theorem Buffered.charge (hs : Buffered o s) {h : BitVec 12} {n k : Nat} {part : Option Nat} : Buffered o (s.charge h n k part) := by
  unfold State.charge
  split
  · exact hs
  · exact .setMeter hs

theorem Buffered.uncount (hs : Buffered o s) {unit code k : Nat} {hue : BitVec 12} {cls : BitVec 3} {filtered : Bool} :
    Buffered o (s.uncount unit code k hue cls filtered) :=
  .ite hs (.setUncUnit hs)

/-! ### The caches of the dies (R152, R191) -/

theorem Buffered.endResv (hs : Buffered o s) {d : Fin 12} {cs : List (Fin 22)} {line : Nat} {who : Option HartId} :
    Buffered o (s.endResv d cs line who) :=
  .forEach hs fun _ _ ht => .ite (.setHart ht) ht

theorem Buffered.probeCopies (hs : Buffered o s) {d : Fin 12} {line : Nat} {inval : Bool} {except : Option (Fin 22)} :
    Buffered o (s.probeCopies d line inval except) := by
  unfold State.probeCopies
  dsimp only
  exact .forEach hs fun _ _ ht => .setDie (.setCore ht)

theorem Buffered.probeCores (hs : Buffered o s) {d : Fin 12} {line : Nat} {inval : Bool} {except : Option (Fin 22)}
    {who : Option HartId} : Buffered o (s.probeCores d line inval except who) :=
  .probeCopies (.endResv hs)

theorem Buffered.logArray (hs : Buffered o s) {src : ErrSource} {unit line info : Nat} {e : LineErr} {dirty : Bool} :
    Buffered o (s.logArray src unit line info e dirty) := by
  unfold State.logArray
  split
  · exact hs
  · exact .logE hs
  · exact .ite (.logE hs) (.logE hs)
  · exact .logE hs

theorem Buffered.logCore (hs : Buffered o s) {src : ErrSource} {c : CoreId} {line : Nat} {e : LineErr} {dirty : Bool} :
    Buffered o (s.logCore src c line e dirty) :=
  .logArray hs

theorem Buffered.settleL1i (hs : Buffered o s) {c : CoreId} {line : Nat} : Buffered o (s.settleL1i c line) := by
  unfold State.settleL1i
  dsimp only
  split
  · exact .ite hs (.logCore (.setCore hs))
  · exact hs

theorem Buffered.settleL1d (hs : Buffered o s) {c : CoreId} {line : Nat} : Buffered o (s.settleL1d c line) := by
  unfold State.settleL1d
  dsimp only
  split
  · exact .ite hs (.logCore (.setCore hs))
  · exact hs

theorem Buffered.settleL2 (hs : Buffered o s) {c : CoreId} {line : Nat} : Buffered o (s.settleL2 c line) := by
  unfold State.settleL2
  dsimp only
  split
  · exact .ite hs (.logCore (.setCore hs))
  · exact hs

theorem Buffered.settleCore (hs : Buffered o s) {c : CoreId} {line : Nat} : Buffered o (s.settleCore c line) :=
  .settleL2 (.settleL1d (.settleL1i hs))

theorem Buffered.settleL3 (hs : Buffered o s) {d : Fin 12} {line : Nat} : Buffered o (s.settleL3 d line) := by
  unfold State.settleL3
  split
  · exact hs
  · refine .ite hs ?_
    dsimp only
    split
    · exact .probeCores (.logArray hs)
    · exact .setDie (.probeCores (.logArray hs))

theorem Buffered.settle (hs : Buffered o s) {d : Fin 12} {line : Nat} : Buffered o (s.settle d line) :=
  .settleL3 (.forEach hs fun _ _ ht => .settleCore ht)

theorem Buffered.evictL3 (hs : Buffered o s) {d : Fin 12} {line : Nat} : Buffered o (s.evictL3 d line).1 := by
  unfold State.evictL3
  dsimp only
  split
  · exact .fst (.probeCores (.settle hs))
  · exact .fst (.setDie (.probeCores (.settle hs)))

/-! ### The home slices -/

theorem Buffered.setTxn (hs : Buffered o s) {k : Nat} {t : Txn} : Buffered o (s.setTxn k t) := .setHome hs

theorem Buffered.sendFwd (hs : Buffered o s) {k : Nat} {m : Msg} {agent : Nat} {op : Op} : Buffered o (s.sendFwd k m agent op) :=
  .send (.uncount hs)

theorem Buffered.homeReply (hs : Buffered o s) {k : Nat} {m : Msg} {op : Op} {flag : BitVec 2} {d : Option (Bytes × Bool)} :
    Buffered o (s.homeReply k m op flag d) :=
  .send hs

theorem Buffered.memReq (hs : Buffered o s) {r : MemReq} : Buffered o (s.memReq r) := .upMem hs

theorem Buffered.tryWay (hs : Buffered o s) {k : Nat} {t : Txn} : Buffered o (s.tryWay k t) := by
  unfold State.tryWay
  dsimp only
  split
  · exact .setTxn hs
  · split
    · exact .setTxn hs
    · split
      · exact .setTxn hs
      · split
        · exact .setTxn hs
        · exact .setTxn (.setHome (.uncount hs))

theorem Buffered.tryAgain (hs : Buffered o s) {k line : Nat} : Buffered o (s.tryAgain k line) := by
  unfold State.tryAgain
  split
  · exact .ite (.tryWay hs) hs
  · exact hs

theorem Buffered.wbBegin (hs : Buffered o s) {k : Nat} {m : Msg} : Buffered o (s.wbBegin k m) := by
  unfold State.wbBegin
  dsimp only
  split
  · exact .ite (.setHome hs) (.ite (.setHome hs) (.uncount (.homeReply hs)))
  · exact .ite (.ite (.setHome hs) (.uncount (.homeReply hs))) (.ite (.memReq (.setHome hs)) (.uncount (.homeReply hs)))

theorem Buffered.wbAgain (hs : Buffered o s) {k line : Nat} : Buffered o (s.wbAgain k line) :=
  .forEach (.setHome hs) fun _ _ ht => .wbBegin ht

/-- The end of a transaction leaves its slice's fence. -/
theorem HomeState.applyAfter_fenced (x : HomeState) (t : Txn) : (x.applyAfter t).fenced = x.fenced := by
  unfold HomeState.applyAfter
  extract_lets key
  split
  · rfl
  · split <;> rfl
  · rfl
  · rfl

theorem Buffered.homeRun (hs : Buffered o s) {k line fuel : Nat} : Buffered o (s.homeRun k line fuel) := by
  induction fuel generalizing s line with
  | zero => exact hs
  | succ fuel ih =>
    have victims {t : State} (ht : Buffered o t) {l : List Nat} : Buffered o (t.forEach l fun s v => s.homeRun k v fuel) :=
      .forEach ht fun _ _ hu => ih hu
    unfold State.homeRun
    split
    · exact hs
    · refine .ite hs ?_
      dsimp only
      split
      · refine .wbAgain (.forEach ?_ fun _ _ ht => ih (victims (.tryAgain ht)))
        split
        · split
          · exact ih (.setTxn (.setHome hs (by exact HomeState.applyAfter_fenced ..)))
          · exact .setHome hs (by exact HomeState.applyAfter_fenced ..)
        · exact .setHome hs (by exact HomeState.applyAfter_fenced ..)
      · split
        · exact ih (victims (.tryWay (.setTxn hs)))
        · have sent {fwds : List (Nat × Op)} {m : Msg} : Buffered o (s.forEach fwds fun s f => s.sendFwd k m f.1 f.2) :=
            .forEach hs fun _ _ ht => .sendFwd ht
          exact ih (.setTxn (.ite (.memReq sent) sent))
        · exact .ite (ih (.setTxn hs)) (.setTxn (.memReq hs))
        · exact ih (.setTxn hs)
        · split
          · exact ih (.setTxn hs)
          · exact .setTxn (.memReq hs)
        · exact ih (.setTxn (.homeReply hs))
        · exact .ite (ih (.setTxn hs)) (.ite (ih (.setTxn hs)) (.setTxn hs))

theorem Buffered.homeGo (hs : Buffered o s) {k line : Nat} : Buffered o (s.homeGo k line) := .homeRun hs

theorem Buffered.wayFreed (hs : Buffered o s) {k : Nat} : Buffered o (s.wayFreed k) :=
  .forEach hs fun _ _ ht => .homeGo (.forEach (.tryAgain ht) fun _ _ hu => .homeGo hu)

theorem Buffered.linkSend (hs : Buffered o s) {c : Nat} {m : Msg} : Buffered o (s.linkSend c m) := .setCascLink hs

theorem Buffered.recoverGo (hs : Buffered o s) {k set : Nat} : Buffered o (s.recoverGo k set) := by
  unfold State.recoverGo
  dsimp only
  split
  · exact hs
  · exact .ite (.ite hs (.forEach (.setHome hs) fun _ _ ht => .linkSend ht)) (.ite (.logE (.setHome hs)) hs)

theorem Buffered.recoverStart (hs : Buffered o s) {k set : Nat} : Buffered o (s.recoverStart k set) := .recoverGo (.ite hs (.setHome hs))

theorem Buffered.readSet (hs : Buffered o s) {k set : Nat} : Buffered o (s.readSet k set) := .ite (.logE (.setHome hs)) hs

theorem Buffered.homeBegin (hs : Buffered o s) {k : Nat} {m : Msg} : Buffered o (s.homeBegin k m) := by
  unfold State.homeBegin
  dsimp only
  exact .ite (.setHome hs) (.ite (.recoverStart (.setHome (.readSet hs))) (.homeGo (.setHome (.readSet hs))))

theorem Buffered.noSnoopBegin (hs : Buffered o s) {m : Msg} : Buffered o (s.noSnoopBegin m) := .memReq (.upMem hs)

theorem Buffered.homeTake (hs : Buffered o s) {k : Nat} {m : Msg} : Buffered o (s.homeTake k m) :=
  .ite (.noSnoopBegin (.uncount hs)) (.ite (.setHome (.uncount hs)) (.homeBegin (.setHome (.uncount hs))))

theorem Buffered.homeUnhold (hs : Buffered o s) {k : Nat} : Buffered o (s.homeUnhold k) :=
  .ite hs (.forEach (.setHome (.forEach (.setHome hs) fun _ _ ht => .ite (.homeTake ht) (.setHome ht))) fun _ _ ht => .ite (.wbBegin ht)
    (.setHome ht))

theorem Buffered.homeSettle (hs : Buffered o s) {k : Nat} : Buffered o (s.homeSettle k) :=
  .homeUnhold (.wayFreed (.forEach hs fun _ _ ht => .recoverGo ht))

theorem Buffered.homeMemory (hs : Buffered o s) {k line : Nat} {write : Bool} {d : Bytes × Bool} :
    Buffered o (s.homeMemory k line write d) := by
  unfold State.homeMemory
  dsimp only
  split
  · exact .ite (.homeSettle (.homeGo (.setTxn hs))) (.ite (.homeSettle (.homeGo (.setTxn hs))) hs)
  · split
    · exact hs
    · exact .ite hs (.homeSettle (.wbAgain (.homeReply (.setHome hs))))

/-! ### The stacks (R232, R248) -/

theorem Buffered.storeRaw (hs : Buffered o s) {line : Nat} {data check : Bytes} : Buffered o (s.storeRaw line data check) := .frame hs

theorem Buffered.storeLine (hs : Buffered o s) {line : Nat} {data : Bytes} {poison : Bool} : Buffered o (s.storeLine line data poison) :=
  .storeRaw hs

theorem Buffered.wipeGranule (hs : Buffered o s) {g : Nat} : Buffered o (s.wipeGranule g) := .frame hs

theorem Buffered.reportRead (hs : Buffered o s) {line : Nat} {c : ReadClass} {hue : BitVec 12} :
    Buffered o (s.reportRead line c hue) := by
  unfold State.reportRead
  dsimp only
  split
  · exact .logE hs
  · exact .logE hs
  · exact .logE hs
  · exact .logE hs
  · exact hs

theorem Buffered.memAnswer (hs : Buffered o s) {r : MemReq} {d : Bytes × Bool} : Buffered o (s.memAnswer r d) := by
  unfold State.memAnswer
  split
  · exact .homeMemory hs
  · split
    · exact hs
    · exact .ite (.memReq hs) (.homeUnhold (.ite (.homeReply (.upMem hs)) (.homeReply (.upMem hs))))

theorem Buffered.poisonAnswer (hs : Buffered o s) {r : MemReq} : Buffered o (s.poisonAnswer r) := by
  unfold State.poisonAnswer
  dsimp only
  exact .memAnswer (.takeBytes hs)

theorem Buffered.slotUse (hs : Buffered o s) {pc : Nat} {c : BitVec 3} : Buffered o (s.slotUse pc c) := .setSlotsUsed hs

theorem Buffered.hbmRead (hs : Buffered o s) {r : MemReq} : Buffered o (s.hbmRead r) :=
  .ite (.memAnswer (.uncount hs)) (.ite (.poisonAnswer hs) (.slotUse (.uncount (.charge (.upMem hs)))))

theorem Buffered.hbmPut (hs : Buffered o s) {line : Nat} {data : Bytes} {poison : Bool} : Buffered o (s.hbmPut line data poison) := by
  unfold State.hbmPut
  extract_lets u
  have hu : Buffered o u := by
    dsimp only [u]
    split
    · exact .setGranule hs
    · exact hs
  exact .ite hu (.storeLine hu)

theorem Buffered.hbmWrite (hs : Buffered o s) {r : MemReq} : Buffered o (s.hbmWrite r) :=
  .memAnswer (.slotUse (.uncount (.charge (.hbmPut hs))))

theorem Buffered.readMap (hs : Buffered o s) {g : Nat} : Buffered o (s.readMap g) := by
  unfold State.readMap
  dsimp only
  split
  · exact hs
  · exact .logE (.setMapErr hs)
  · exact .logE (.setMapErr (.forEach hs fun _ _ ht => .ite (.setGranule ht) ht))

theorem Buffered.fillDone248 (hs : Buffered o s) {g : Nat} : Buffered o (s.fillDone248 g) := by
  unfold State.fillDone248
  split
  · exact hs
  · exact .forEach (.setGranule (.wipeGranule (.upMem hs))) fun _ _ ht => .ite (.hbmWrite ht) (.hbmRead ht)

theorem Buffered.readStored (hs : Buffered o s) {line source : Nat} {errs : List (Nat × Byte)} :
    Buffered o (s.readStored line source errs).2.2 := by
  unfold State.readStored
  dsimp only
  split
  · exact .ite₃ hs (.thd (.takeNat hs))
  · exact hs

theorem Buffered.fromMemory (hs : Buffered o s) {line : Nat} {hue : BitVec 12} : Buffered o (s.fromMemory line hue).2 := by
  unfold State.fromMemory
  dsimp only
  refine .ite₂ ?_ (.snd (.takeNat (.charge (.takeBytes hs))))
  refine .ite₂ (.snd (.uncount (.readMap hs))) (.ite₂ (.snd (.takeBytes (.readMap hs))) ?_)
  split
  · exact .snd (.reportRead (.readStored (.uncount (.charge (.readMap hs)))))
  · exact .snd (.takeBytes (.reportRead (.readStored (.uncount (.charge (.readMap hs))))))

/-! ### A line that is written -/

theorem Buffered.mapCopies (hs : Buffered o s) {line : Nat} {f : Bytes → Bytes} : Buffered o (s.mapCopies line f) := by
  unfold State.mapCopies
  extract_lets one u v k x w req
  have hv : Buffered o v := .forEach (.forEach hs fun _ _ ht => .setCore ht) fun _ _ ht => .setDie ht
  exact .upFab (.upMem (.setHome hv))

theorem Buffered.readyGranule (hs : Buffered o s) {line : Nat} {hue : BitVec 12} : Buffered o (s.readyGranule line hue) :=
  .ite (.uncount (.setGranule (.wipeGranule (.readMap (.ite (.fillDone248 hs) hs))))) (.readMap (.ite (.fillDone248 hs) hs))

theorem Buffered.setDir (hs : Buffered o s) {i : Nat} {dir : List (Nat × DirEntry)} :
    Buffered o (s.setHome i { s.home i with dir := dir }) :=
  .setHome hs

theorem Buffered.takeCopies (hs : Buffered o s) {line : Nat} : Buffered o (s.takeCopies line) := by
  unfold State.takeCopies
  dsimp only
  refine .ite (.forEach hs fun _ _ ht => .endResv ht) (.setFilterAt (.setDir (.forEach hs fun _ _ ht => ?_)))
  split
  · exact .ite (.hbmPut (.readyGranule (.evictL3 (.endResv ht)))) (.evictL3 (.endResv ht))
  · exact .evictL3 (.endResv ht)

theorem Buffered.pokeMemory (hs : Buffered o s) {line : Nat} {f : Bytes → Bytes} {whole : Bool} {hue : BitVec 12} :
    Buffered o (s.pokeMemory line f whole hue) := by
  unfold State.pokeMemory
  dsimp only
  exact .ite (.ite (.hbmPut (.uncount (.charge (.readyGranule hs)))) (.hbmPut (.fromMemory (.uncount (.charge (.readyGranule hs))))))
      (.charge hs)

theorem Buffered.pokeLine (hs : Buffered o s) {part : Option Nat} {line off : Nat} {b : Bytes} {hue : BitVec 12} :
    Buffered o (s.pokeLine part line off b hue).2 := by
  unfold State.pokeLine
  exact .ite₂ hs (.snd (.pokeMemory (.mapCopies (.takeCopies hs))))

/-! ### A write to a buffer (R191, R524) -/

/-- Whether a home answers Error at a line rests on nothing that a buffer write changes. -/
theorem Buffered.lineError (hs : Buffered o s) (part : Option Nat) (line : Nat) : s.lineError part line = o.lineError part line := by
  have decoded : s.region part (line * 64) = o.region part (line * 64) := by
    rw [hs.outside]
    rfl
  have package : s.pkgIx = o.pkgIx := by
    rw [hs.outside]
    rfl
  rw [State.lineError, decoded, package, hs.fenced, State.lineError]

/-- A write whose every line is main memory with a slice that serves succeeds. -/
theorem poke_succeeds {part : Option Nat} {pa : Nat} {b : Bytes} {hue : BitVec 12}
    (sound : ∀ e ∈ lineParts pa b.length, o.lineError part e.1 = false) :
    (o.poke part pa b hue).1 = true ∧ Buffered o (o.poke part pa b hue).2 := by
  refine foldl_keeps (fun p : Bool × State => p.1 = true ∧ Buffered o p.2) _ _ (fun p e he kept => ?_) (true, o) ⟨rfl, .refl o⟩
  obtain ⟨ok, hp⟩ := kept
  refine ⟨?_, .pokeLine hp⟩
  have serves : p.2.lineError part e.1 = false := (hp.lineError ..).trans (sound e he)
  dsimp only
  rw [State.pokeLine, serves, ok]
  rfl

/-- A command's result whose buffer's every line serves is written, and the command goes on. -/
theorem bufferWrite_goesOn {iss : Issuer} {buf : Nat} {b : Bytes} {f : State → Option Bytes × State}
    (sound : ∀ e ∈ lineParts buf b.length, o.lineError (o.issPart iss) e.1 = false) :
    ∃ t, Buffered o t ∧ o.bufferWrite iss buf b f = f t := by
  obtain ⟨ok, kept⟩ := poke_succeeds (hue := 0) sound
  refine ⟨_, kept, ?_⟩
  unfold State.bufferWrite
  split
  next written => rw [written]
  next failed =>
    rw [failed] at ok
    cases ok

/-! ### The commands (R246, R501) -/

variable {iss : Issuer} {c : CmdCell}

/-- What an accepted command sees of a line and of its issuer's partition. -/
theorem afterAccept_lineError (op : Nat) (line : Nat) :
    (afterAccept s iss op c).lineError ((afterAccept s iss op c).issPart iss) line = s.lineError (s.issPart iss) line := by
  cases iss <;> rfl

/-- A served command that fills a buffer whose every line serves. -/
theorem completes_of_bufferWrite {op : Nat} {len : Nat → Bool} {zero : List Nat} {inScope : Bool} {bad : List (Nat × Nat)} {i : Instr}
    {P : State → Prop} {buf : Nat} {b : Bytes} {r : Bytes} {f : State → State} {act : State → Option Bytes × State}
    (served : s.serves iss c op (len c.plen.toNat) zero inScope)
    (runs : exec i s = .next (s.command iss c op len zero inScope bad act))
    (acts : act (afterAccept s iss op c) = (afterAccept s iss op c).bufferWrite iss buf b fun s => (some r, f s))
    (passes : bad = []) (sound : ∀ e ∈ lineParts buf b.length, s.lineError (s.issPart iss) e.1 = false)
    (mail : ∀ v, (f v).mgmt.mail = v.mgmt.mail)
    (h : ∀ t u, Buffered (afterAccept s iss op c) t → Mailed (f t) u → u.answered iss c op stOk r → P u) : Completes i s P := by
  obtain ⟨t, kept, written⟩ := bufferWrite_goesOn (o := afterAccept s iss op c) (f := fun s => (some r, f s))
    fun e he => (afterAccept_lineError op e.1).trans (sound e he)
  have same : t.mgmt.mail = (afterAccept s iss op c).mgmt.mail := by rw [kept.outside, State.withTraffic]
  exact completes_of_acts served runs passes (acts.trans written)
    (State.owes_of_mail (afterAccept_owes served.2.1) ((mail t).trans same)) fun u => h t u kept

/-! #### MEM_REPAIR_LIST -/

/-- The 8-byte records of repairs. -/
def repairBytes (l : List Word) : Bytes := l.flatMap fun r => leBytes 8 r.toNat

theorem repairBytes_length (l : List Word) : (repairBytes l).length = 8 * l.length := by
  simp [repairBytes, List.length_flatMap, Nat.mul_comm]

section
variable (served : s.serves iss c 0x0702 (c.plen.toNat = 12) [] (s.packageWide iss))
include served

theorem memRepairList_runs : exec (.memRepairList iss c) s = .next (s.command iss c 0x0702 (· = 12) [] (s.packageWide iss)
    (status (s.bufferBad iss (CmdCell.at_ c 0 8) (CmdCell.at_ c 8 4) 8) stRange) fun s =>
      s.bufferWrite iss (CmdCell.at_ c 0 8) (repairBytes (s.mem.repairs.take (CmdCell.at_ c 8 4 / 8))) fun t =>
        (some (leBytes 4 (s.mem.repairs.take (CmdCell.at_ c 8 4 / 8)).length), t)) :=
  if_pos served.1

theorem memRepairList_refused (bad : s.bufferBad iss (CmdCell.at_ c 0 8) (CmdCell.at_ c 8 4) 8 = true) :
    Completes (.memRepairList iss c) s fun t => (t.fab = s.fab ∧ t.hub = s.hub) ∧ t.mem = s.mem ∧ t.answered iss c 0x0702 stRange [] :=
  (completes_of_refusal (len := (· = 12)) (st := stRange) served (memRepairList_runs served) (status_true bad _) (by decide)).mono
    fun _ ⟨still, mem, _, answered⟩ => ⟨still, mem, answered⟩

theorem memRepairList_writes (good : s.bufferBad iss (CmdCell.at_ c 0 8) (CmdCell.at_ c 8 4) 8 = false)
    (sound : ∀ e ∈ lineParts (CmdCell.at_ c 0 8) (8 * min s.mem.repairs.length (CmdCell.at_ c 8 4 / 8)),
      s.lineError (s.issPart iss) e.1 = false) :
    Completes (.memRepairList iss c) s fun t => t.mem.repairs = s.mem.repairs ∧
      t.answered iss c 0x0702 stOk (leBytes 4 (min s.mem.repairs.length (CmdCell.at_ c 8 4 / 8))) := by
  have accepted := mailed_afterAccept s iss 0x0702 c
  have count : (s.mem.repairs.take (CmdCell.at_ c 8 4 / 8)).length = min s.mem.repairs.length (CmdCell.at_ c 8 4 / 8) := by
    rw [List.length_take, Nat.min_comm]
  refine completes_of_bufferWrite (len := (· = 12)) (f := id) (buf := CmdCell.at_ c 0 8)
    (b := repairBytes (s.mem.repairs.take (CmdCell.at_ c 8 4 / 8))) served (memRepairList_runs served) ?_ (status_false good _) ?_
    (fun _ => rfl) fun t u kept mailed answered => ⟨?_, answered⟩
  · rw [accepted.mem, count]
    rfl
  · rwa [repairBytes_length, count]
  · rw [mailed.mem, id, kept.repairs, accepted.mem]

end

/-! #### ERR_READ -/

theorem errRecBytes_length (e : ErrRec) : (errRecBytes e).length = 64 := by simp [errRecBytes]

/-- The records that an issuer sees, from a SEQ on. -/
def State.seenFrom (s : State) (iss : Issuer) (seq : Nat) : List (Nat × ErrRec) :=
  (s.visibleErr iss).filter fun e => seq ≤ e.2.seq.toNat

/-- The state in which a cursor stands at least at a SEQ. -/
def State.raiseCursor (s : State) (i : Nat) (seq : Word) : State :=
  s.upLog fun x => { x with cursors := if (Table.get 0 x.cursors i).toNat < seq.toNat then Table.put 0 x.cursors i seq else x.cursors }

/-- What ERR_READ does with the records that it is to answer. -/
def State.answerErr (s : State) (iss : Issuer) (buf : Nat) (l : List ErrRec) : Option Bytes × State :=
  s.bufferWrite iss buf (l.flatMap errRecBytes) fun t =>
    (some (leBytes 4 l.length ++ leBytes 4 0 ++ leBytes 8 ((l.getLast?.map ErrRec.seq).getD 0).toNat),
      t.raiseCursor (t.errCursor iss) ((l.getLast?.map ErrRec.seq).getD 0))

theorem Buffered.errCursor (kept : Buffered o t) (iss : Issuer) : t.errCursor iss = o.errCursor iss := by
  rw [kept.outside]
  rfl

section
variable (served : s.serves iss c 0x0B00 (c.plen.toNat = 24) [] true)
  (good : s.bufferBad iss (CmdCell.at_ c 0 8) (CmdCell.at_ c 8 4) 64 = false)
include served good

omit good in
theorem errRead_runs : exec (.errRead iss c) s = .next (s.command iss c 0x0B00 (· = 24) [] true
    (status (s.bufferBad iss (CmdCell.at_ c 0 8) (CmdCell.at_ c 8 4) 64) stRange ++
      status (s.seenFrom iss (CmdCell.at_ c 16 8)).isEmpty stNone) fun t =>
      t.answerErr iss (CmdCell.at_ c 0 8) (((s.seenFrom iss (CmdCell.at_ c 16 8)).map Prod.snd).take (CmdCell.at_ c 8 4 / 64))) :=
  if_pos served.1

theorem errRead_none (unseen : s.seenFrom iss (CmdCell.at_ c 16 8) = []) :
    Completes (.errRead iss c) s fun t => (t.fab = s.fab ∧ t.hub = s.hub) ∧ t.mem = s.mem ∧ t.answered iss c 0x0B00 stNone [] := by
  refine (completes_of_refusal (len := (· = 24)) (st := stNone) served (errRead_runs served) ?_ (by decide)).mono
    fun _ ⟨still, mem, _, answered⟩ => ⟨still, mem, answered⟩
  rw [status_false good, unseen]
  rfl

/-- One record that is to be read fits the buffer. -/
theorem errRead_one {r : ErrRec} (one : (s.seenFrom iss (CmdCell.at_ c 16 8)).map Prod.snd = [r])
    (sound : ∀ e ∈ lineParts (CmdCell.at_ c 0 8) 64, s.lineError (s.issPart iss) e.1 = false) :
    Completes (.errRead iss c) s fun t => t.answered iss c 0x0B00 stOk (leBytes 4 1 ++ leBytes 4 0 ++ leBytes 8 r.seq.toNat) ∧
      t.mgmt.log.slots = s.mgmt.log.slots ∧
      ((Table.get 0 s.mgmt.log.cursors (s.errCursor iss)).toNat < r.seq.toNat →
        Table.get 0 t.mgmt.log.cursors (s.errCursor iss) = r.seq) ∧
      (r.seq.toNat ≤ (Table.get 0 s.mgmt.log.cursors (s.errCursor iss)).toNat → t.mgmt.log.cursors = s.mgmt.log.cursors) := by
  have accepted := mailed_afterAccept s iss 0x0B00 c
  have fits : 1 ≤ CmdCell.at_ c 8 4 / 64 := by
    simp only [State.bufferBad, Bool.or_eq_false_iff, decide_eq_false_iff_not] at good
    omega
  have taken : ((s.seenFrom iss (CmdCell.at_ c 16 8)).map Prod.snd).take (CmdCell.at_ c 8 4 / 64) = [r] := by
    rw [one, List.take_of_length_le fits]
  have found : (s.seenFrom iss (CmdCell.at_ c 16 8)).isEmpty = false := by
    rw [← List.isEmpty_map, one]
    rfl
  have passes : status (s.bufferBad iss (CmdCell.at_ c 0 8) (CmdCell.at_ c 8 4) 64) stRange ++
      status (s.seenFrom iss (CmdCell.at_ c 16 8)).isEmpty stNone = [] := by
    rw [status_false good, status_false found]
    rfl
  have whole : ([r].flatMap errRecBytes).length = 64 := by simp [errRecBytes_length]
  refine completes_of_bufferWrite (len := (· = 24)) (f := fun t => t.raiseCursor (t.errCursor iss) r.seq) (b := [r].flatMap errRecBytes)
    served (errRead_runs served) (by rw [taken]; rfl) passes (by rwa [whole]) (fun _ => rfl) fun t u kept mailed answered => ?_
  have cursor : t.errCursor iss = s.errCursor iss := (kept.errCursor iss).trans (by rw [accepted]; rfl)
  have cursors : t.mgmt.log.cursors = s.mgmt.log.cursors := kept.cursors.trans (congrArg ErrLog.cursors accepted.log)
  have raised : u.mgmt.log.cursors = if (Table.get 0 s.mgmt.log.cursors (s.errCursor iss)).toNat < r.seq.toNat then
      Table.put 0 s.mgmt.log.cursors (s.errCursor iss) r.seq else s.mgmt.log.cursors := by
    rw [mailed.log, cursor, ← cursors]
    rfl
  refine ⟨answered, ?_, fun below => ?_, fun upTo => ?_⟩
  · rw [mailed.log]
    exact kept.slots.trans (congrArg ErrLog.slots accepted.log)
  · rw [raised, if_pos below, Table.get_put, if_pos rfl]
  · rw [raised, if_neg (Nat.not_lt.2 upTo)]

end

/-! ### The statement -/

/-- Settles O47: each command as what it answers and leaves once Mordant has accepted it, and the commit of a record by what the
oldest event finds in the log. -/
theorem memoryLinkSlotAndErrorCommandsAct : Obligations.MemoryLinkSlotAndErrorCommandsAct := by
  unfold Obligations.MemoryLinkSlotAndErrorCommandsAct
  refine ⟨fun iss c s => ⟨?arm, ?disarm, ?repairs, ?status, ?weld, ?slot, ?read, ?ack⟩,
    fun s timed => ⟨?empty, fun e rest front => ?commit⟩⟩
  case arm => exact fun served => setArmed_completes true served (if_pos served.1)
  case disarm => exact fun served => setArmed_completes false served (if_pos served.1)
  case repairs => exact fun served => ⟨memRepairList_refused served, memRepairList_writes served⟩
  case status => exact memPcStatus_completes
  case weld =>
    refine fun die bundle => ⟨weldStatus_completes die bundle, fun served => ⟨fun active => ?_, weldRetrain_idle die bundle served⟩,
      fun served => ⟨weldCapClear_capped die bundle served, weldCapClear_uncapped die bundle served⟩⟩
    exact (weldRetrain_active die bundle served active).mono fun t ⟨kept, ⟨st, step, field⟩, answered⟩ =>
      ⟨fun _ _ => kept, st, step, field, answered⟩
  case slot =>
    exact fun port => ⟨slotStatus_completes port, fun served => ⟨slotUnfence_fenced port served, slotUnfence_other port served⟩⟩
  case read => exact fun served good => ⟨errRead_none served good, fun r => errRead_one served good⟩
  case ack => exact fun served => ⟨errAck_upTo served, errAck_beyond served⟩
  case empty => exact exec_logRecordCommit_empty timed
  case commit =>
    exact ⟨fun i block new none cls trap slot => logRecordCommit_new timed front block new none cls trap slot,
      fun i r block same countable later => logRecordCommit_repeat timed front block same countable later,
      fun b block slice unfenced many => logRecordCommit_fences timed front block slice unfenced many⟩

end Sys2Proof.Machine
end
